-- ==== Sys2Proof/Word.lean ====
section
/-! DEFINITION. The word types of the Yarner Y4 and their plainest arithmetic (R6). -/

namespace Sys2Proof

/-- A register, or an 8-byte memory word (R6, R384). -/
abbrev Word := BitVec 64

/-- One byte of memory. -/
abbrev Byte := BitVec 8

/-- Chamber number 0 to 1,023 (R192). -/
abbrev Ch := Fin 1024

/-- Task tag 0 to 3 (R183). -/
abbrev Tag := Fin 4

/-- Stream engine 0 read 0, 1 read 1, 2 write, 3 sparge receiver (R220). -/
abbrev Eng := Fin 4

/-- Gallery port 0 to 23 (R261). -/
abbrev GPort := Fin 24

/-- Sirdy port 0 or 1 (R285). -/
abbrev SPort := Fin 2

/-- The integer that a two's complement field of `w` bits with the value `x` stands for. -/
def signed (w x : Nat) : Int := if x < 2 ^ (w - 1) then x else (x : Int) - (2 ^ w : Nat)

/-- Round a quotient up: `⌈a ÷ b⌉`, 0 for `b = 0`. -/
def cdiv (a b : Nat) : Nat := (a + b - 1) / b

end Sys2Proof
end

