-- ==== Sys2Proof/Syntax.lean ====
section
/-! DEFINITION. The commands of the block: one constructor of `Instr` per row of the table of operations
and events, and the types of their operands. An operand says which chamber, tag, engine or port the event
belongs to, or carries what comes from outside the module (a frame, a measured value, a verdict). -/

namespace Sys2Proof

/-- A Gallery frame as it stands on the link (R263 Table 3): header fields, payload bytes and CRC. -/
structure GFrame where
  type : Nat
  vc : Nat
  hops : Nat
  dest : Nat
  src : Nat
  poison : Bool
  tag : Nat
  lseq : Nat
  op : Nat
  aux : Nat
  pa : Nat
  payload : List Byte
  crc : BitVec 32
  deriving DecidableEq, Repr

/-- The FEC codewords in which a frame came (R262): how many were corrected, how many the code could not correct. -/
structure Fec where
  corr : Nat
  uncorr : Nat
  deriving DecidableEq, Repr

/-- A Gallery frame as a port receives it: the frame and the codewords it came in. -/
structure GArrival where
  frame : GFrame
  fec : Fec
  deriving DecidableEq, Repr

/-- A Sirdy frame (R286 Table 2): header fields, payload bytes and CRC. -/
structure SFrame where
  type : Nat
  ch : Nat
  seq : Nat
  op : Nat
  tag : Nat
  aux : Nat
  payload : List Byte
  crc : BitVec 32
  deriving DecidableEq, Repr

/-- A Sirdy frame as a port receives it: the frame and the codewords it came in. -/
structure SArrival where
  frame : SFrame
  fec : Fec
  deriving DecidableEq, Repr

/-- Noise that has reached a stored codeword (R206) before the read that a command makes: byte `pos`
(0 to 35) of codeword `cw` (physical address ÷ 32) is changed by `xor`. -/
structure Upset where
  cw : Nat
  pos : Nat
  xor : Byte
  deriving DecidableEq, Repr

/-- A physical cell of the array that delivers a wrong word (R55, R74): the word is
`(value OR orMask) AND andMask`. Column 64 is a checksum cell and row 16 the checksum row. -/
structure CellFault where
  prow : Nat
  col : Nat
  orMask : BitVec 32
  andMask : BitVec 32
  deriving DecidableEq, Repr

/-- The three command sessions (R339). -/
inductive Session where
  | uart | tunnel | mgmt
  deriving DecidableEq, Repr

/-- The patrol scrubbers (R210). -/
inductive ScrubStore where
  | cellar (n : Ch) | pocket (n : Ch) | tun | g7
  deriving DecidableEq, Repr

/-- One arbiter (R237 Table 6): class 0 to 3 in a chamber, a tun bank, a G7 channel. -/
inductive ArbId where
  | chamber (n : Ch) (cls : Fin 4) | bank (b : Fin 128) | channel (c : Fin 64)
  deriving DecidableEq, Repr

/-- What the abort timeout of R359 ran out on. -/
inductive AbortOf where
  | task (n : Ch) (t : Tag) | release (a : ArbId)
  deriving DecidableEq, Repr

/-- Why an UP port went down by itself (R273 step 8, R289 step 5). -/
inductive DownCause where
  | signalLost | noFrame | retryLimit | creditStall
  deriving DecidableEq, Repr

/-- Block of performance counters (R387). -/
inductive PcBlock where
  | chamber (n : Ch) | y4x
  deriving DecidableEq, Repr

/-- The writer of a register access (R190, R203, R296, R384). -/
inductive Writer where
  | lantern | host | task (n : Ch) (t : Tag)
  deriving DecidableEq, Repr

/-- Thermal sensors (R372 Table 5). -/
inductive Sensor where
  | y4c0 | y4c1 | y4x | g7 (dev : Fin 16) | conv
  deriving DecidableEq, Repr

/-- Slow inputs (R379 Table 11); `strap i` counts from BOOT[0] in the order of TB_IN. -/
inductive SlowInput where
  | resetN | extLimitN | pps | strap (i : Fin 14)
  deriving DecidableEq, Repr

/-- Cask object kinds (R312 Table 3, R314), and the fuse buffer of R344. -/
inductive ObjKind where
  | firmware | recipe | model | script | fuseBuf
  deriving DecidableEq, Repr

/-- AOUT modes (R345). -/
inductive AoutMode where
  | status | test | quantity | off
  deriving DecidableEq, Repr

/-- What a read of one LDPC codeword finds (R305, R308, R310): `silent` where its die no longer answers. -/
inductive CwFind where
  | clean | corrected (overHalf : Bool) | retried | uncorrectable | silent
  deriving DecidableEq, Repr

/-- What the reads of an object's sectors find, by sector of 4,096 bytes from the object's first; the others are clean. -/
abbrev ReadFinds := List (Nat × CwFind)

/-- What the cask controller finds when it starts (R310, R313, R322): whether each directory copy passes its check, the dies that do not
answer, and, at the first initialisation, the blocks that carry the factory's bad-block marker. -/
structure CaskFind where
  copies : Bool × Bool
  silent : List Nat
  factory : List Nat
  deriving DecidableEq, Repr

/-- Fields of LN_SVC_CTRL that `set` writes (R342, R363). -/
inductive SvcField where
  | abortTimeout | autoReset | autoFence
  deriving DecidableEq, Repr

/-- A retirement log unit named by `retlog clear` (R356). -/
inductive RetUnit where
  | cellarRow (n : Ch) (tier : Fin 4) (row : Nat) | tunWay (bank set way : Nat) | g7Region (r : Nat)
  deriving DecidableEq, Repr

/-- A self-test failure (R349 Table 7, R350): the block, the unit (a chamber, port, channel or 0; 1,024 + n the spare row of
chamber n), the pace at which it failed, and the characters of its cause. -/
structure TestFail where
  block : Nat
  unit : Nat
  pace : Nat
  cause : List Byte
  deriving DecidableEq, Repr

/-- The commands. Every constructor's docstring is its row of the table; the rule stands beside it. -/
inductive Instr where
  -- tile instructions at their issue: the head of the fetched instructions of tag t in chamber n
  | nop (n : Ch) (t : Tag)                 -- R169
  | end_ (n : Ch) (t : Tag)                -- R174
  | jump (n : Ch) (t : Tag)                -- R172
  | bucket (n : Ch) (t : Tag)              -- R181
  | setb (n : Ch) (t : Tag)                -- R179
  | loadb (n : Ch) (t : Tag)               -- R179
  | bind (n : Ch) (t : Tag)                -- R180
  | fence (n : Ch) (t : Tag)               -- R175
  | barrier (n : Ch) (t : Tag)             -- R176
  | barrierReread (n : Ch) (t : Tag)       -- R176
  | waitw (n : Ch) (t : Tag)               -- R177
  | waitwReread (n : Ch) (t : Tag)         -- R177
  | chWaitTimeout (n : Ch) (t : Tag)       -- R177
  | sarm (n : Ch) (t : Tag)                -- R226
  | swait (n : Ch) (t : Tag)               -- R227
  | merge (n : Ch) (t : Tag)               -- R91
  | scatterIn (n : Ch) (t : Tag)           -- R110
  | array (n : Ch) (t : Tag)               -- R170
  | chain (n : Ch) (t : Tag)               -- R120
  | sumpOpen (n : Ch) (t : Tag)            -- R110
  | sumpDrain (n : Ch) (t : Tag)           -- R114
  | gvCheck (n : Ch) (t : Tag)             -- R161
  | gvJoin (n : Ch) (t : Tag)              -- R162
  | instructionFetch (n : Ch) (t : Tag)    -- R168
  | privilegedPrefetchIssue (n : Ch) (t : Tag)  -- R178
  -- the array and the Lauter
  | arrayEnter (n : Ch)                    -- R99
  | arrayStep (n : Ch)                     -- R58
  | checksComplete (n : Ch) (slot : Fin 2) (defects : List CellFault)  -- R72
  | drainComplete (n : Ch) (slot : Fin 2)  -- R101
  | lauterRead (n : Ch)                    -- R82
  | spargeRegionWaitEnd (n : Ch)           -- R92
  -- the sump
  | sumpUpdate (n : Ch) (bank : Fin 16) (ecc : List (Fin 4 × Bool))  -- R112; ways found in error (R109), true uncorrectable
  | spillRunWritten (n : Ch)               -- R113
  | sumpDrainStart (n : Ch)                -- R114
  | sumpMergePass (n : Ch)                 -- R114
  -- Flowstone
  | chainStart (n : Ch)                    -- R118
  | chainRowDone (n : Ch)                  -- R147
  | chainComplete (n : Ch)                 -- R174
  | gvJoinRead (n : Ch) (t : Tag)          -- R162
  -- tasks
  | taskCreate (n : Ch)                    -- R184
  | taskPreempt (n : Ch) (t : Tag)         -- R185
  | preemptEnginesStopped (n : Ch) (t : Tag)  -- R185
  | preemptSaveWritten (n : Ch) (t : Tag)  -- R185
  | taskResume (n : Ch) (t : Tag)          -- R186
  | resumeRestored (n : Ch) (t : Tag)      -- R186
  | taskAbort (n : Ch) (t : Tag)           -- R188
  | taskRelease (n : Ch) (t : Tag)         -- R188
  | abortComplete (n : Ch) (t : Tag)       -- R188
  -- memory
  | xlatWalkDone (n : Ch) (e : Eng)        -- R199
  | tunFillDone (line : Nat)               -- R194
  | scrubRead (store : ScrubStore) (upsets : List Upset)  -- R210
  | cellarRowCopyEnd (n : Ch)              -- R213
  | g7RegionCopyEnd                        -- R214
  | g7RegionRetire                         -- R214
  | gmInvalAll                             -- R203
  | gmInvalContext (x : BitVec 16)         -- R203
  | gmInvalRange (x : BitVec 16) (log2 : Nat)  -- R203
  | gmInvalDone                            -- R203
  | tunFlush                               -- R218
  | tunFlushDone                           -- R218
  | g7Refresh (c : Fin 64) (allBank : Bool)  -- R197
  | g7TempRead (dev : Fin 16) (temp : Nat) -- R372
  -- streams and arbiters
  | startAccept (n : Ch) (e : Eng)         -- R227
  | transferIssue (n : Ch) (e : Eng)       -- R221
  | transferComplete (n : Ch) (e : Eng) (k : Nat) (upsets : List Upset)  -- R221
  | creditWaitEnd (n : Ch) (e : Eng)       -- R231
  | multicastRun (n : Ch) (e : Eng)        -- R233
  | spargeElementArrive (n : Ch) (r : Fin 16)  -- R233
  | spargeDeliveryEnd (g : Fin 256) (r : Fin 16)  -- R233
  | stallWatchdogBite (n : Ch) (t : Tag)   -- R236
  | arbPhase (a : ArbId)                   -- R238
  | arbRequestDrop (a : ArbId)             -- R238
  | holdWatchdogBite (a : ArbId)           -- R242
  | forcedReleaseDone (a : ArbId)          -- R242
  | abortTimeout (w : AbortOf)             -- R359
  -- the dispatcher
  | stepHeaderArrive (ticket : Fin 16)     -- R251
  | stepChoose                             -- R255
  | stepDeliver                            -- R254
  | stepEnd                                -- R251
  | stepFail                               -- R259
  | tokenIdsArrive (ticket : Fin 16) (ids drafts : List (BitVec 32))  -- R258
  -- the Gallery
  | glLinkCtrl (p : GPort) (a : GArrival)  -- R267
  | glHello (p : GPort) (a : GArrival)     -- R273
  | glFrameReceive (p : GPort) (a : GArrival)  -- R267
  | readReq | write | atomic               -- R272, R271, R265
  | msgStepHeader | msgFailureNotice | msgTokenIds  -- R251, R259, R12
  | msgPassageHeartbeat | msgCutNotice | msgRestartProbe  -- R283, R283, R324
  | response                               -- R272
  | e2eTimeout (tag : BitVec 16)           -- R272
  | neighbour (p : GPort)                  -- R273
  | lanternHeartbeat | beacon | propose | ack | commit | join  -- R280, R280, R281 ...
  | sync (p : GPort) | pdelayReq (p : GPort) | pdelayRsp (p : GPort)  -- R276
  | glAckDue (p : GPort)                   -- R268
  | glKeepalive (p : GPort)                -- R268
  | glCreditStall (p : GPort)              -- R268
  | glTrainingDone (p : GPort) (lanes : BitVec 4)  -- R273
  | glTrainingTimeout (p : GPort)          -- R273
  | glHelloSend (p : GPort)                -- R273
  | glHelloLost (p : GPort)                -- R273
  | glMiswiredRecheck (p : GPort)          -- R273
  | glPortDown (p : GPort) (cause : DownCause)  -- R273
  | glHoldExpire (p : GPort)               -- R274
  | glRecal (p : GPort)                    -- R273
  | glEnable (p : GPort)                   -- R273
  | pdelayTimer (p : GPort)                -- R276
  | syncSend | syncLoss                    -- R276, R278
  | membershipHeartbeatTimer               -- R280
  | memberUnheard (addr : Nat)             -- R281
  | beaconLost | changeTimeout | freeze    -- R281
  | passageHeartbeatSend | passageUpstreamLost | restartProbeSend  -- R283
  -- Sirdy
  | syLinkCtrl (p : SPort) (a : SArrival)  -- R288
  | syHello (p : SPort) (a : SArrival)     -- R289
  | syDataReceive (p : SPort) (a : SArrival)   -- R288
  | open_ (p : SPort) | more (p : SPort) | cancel (p : SPort)  -- R290, R290, R292
  | submissionIncomplete (p : SPort) (tag : BitVec 32)  -- R291
  | tokFrameSend (p : SPort)               -- R293
  | evtFrameSend                           -- R300
  | mgmtRead | mgmtWrite | mgmtCommand | cons  -- R296, R296, R343, R297
  | syAckDue (p : SPort) | syKeepalive (p : SPort)  -- R288
  | syTrainingDone (p : SPort) (lanes : BitVec 4)  -- R289
  | syHelloSend (p : SPort)                -- R289
  | syTrainingTimeout (p : SPort)          -- R289
  | syPortDown (p : SPort) (cause : DownCause)  -- R289
  | syRecal (p : SPort) | syEnable (p : SPort)  -- R289
  | syMboxIn (v : BitVec 62) | syMboxOut | syEvtPop  -- R300
  -- the cask
  | caskPatrolRead (die plane block page : Nat) (found : List CwFind)  -- R308; by codeword of the page
  | staticWearLevel                        -- R307
  | nandProgramFail (die plane block : Nat)  -- R310
  | nandEraseFail (die plane block : Nat)  -- R310
  | nandUncorrRead (die plane block : Nat) -- R310
  | objectStore (u : Unit)                 -- R313
  -- start-up, recipes
  | powerGood                              -- R322
  | bootCaskReady (found : CaskFind) (fwA fwB : ReadFinds)  -- R322
  | bootG7Trained (failed : List (Fin 64)) (v : ReadFinds)  -- R322
  | bootSelftestDone (fails : List TestFail) (scripts : List (Nat × ReadFinds))  -- R322; by script slot
  | bootGalleryJoined (v : ReadFinds)      -- R322
  | bootModelLoaded                        -- R322
  | idKeygenDone (pufOk : Bool)            -- R334
  | hostbootWrite (w : Word)               -- R326
  | stageDone (recipe model : ReadFinds)   -- R323
  | switchTicketsReturned                  -- R324
  -- service
  | consoleStatus (c : Session)            -- R342
  | consoleRead (c : Session) (addr n : Nat)  -- R342
  | consoleDir (c : Session)               -- R342
  | consoleLog (c : Session) (n : Nat)     -- R342
  | consoleAout (c : Session) (mode : AoutMode) (q sel : Nat)  -- R345
  | consoleSelftest (c : Session) (block : Nat) (chamber : Option Ch) (force : Bool)
      (v : List (Nat × ReadFinds))  -- R350; what the scripts' reads find (R333)
  | selftestDone (fails : List TestFail)   -- R350
  | consoleRecv (c : Session) (kind : ObjKind) (slot bytes : Nat)  -- R344
  | consoleHex (c : Session) (digits : List Byte)  -- R342
  | consoleRecvAbort (c : Session)         -- R342
  | mailboxData | mailboxEnd | mailboxAbort  -- R344
  | consoleRemove (c : Session) (kind : ObjKind) (slot : Nat)  -- R342
  | consoleActivate (c : Session) (slot : Nat)  -- R342
  | consoleStage (c : Session) (slot : Nat)  -- R323
  | consoleSwitch (c : Session) (keep : Bool)  -- R324
  | consoleFence (c : Session) (n : Ch)    -- R352
  | fenceMappingDone                       -- R352
  | consoleReload (c : Session) (n : Ch)   -- R355
  | consoleFwupdate (c : Session) (slotB : Bool) (v : ReadFinds)  -- R353
  | fwupdateTimeout                        -- R353
  | consoleRecalGallery (c : Session) (p : GPort)  -- R351
  | consoleRecalSirdy (c : Session) (p : SPort)  -- R351
  | consoleRecalG7 (c : Session) (ch : Option (Fin 64))  -- R354
  | g7RetrainDone (ok : Bool)              -- R354
  | consoleRetireCellar (c : Session) (n : Ch) (tier : Fin 4) (row : Nat)  -- R342
  | consoleRetireG7 (c : Session) (region : Nat)  -- R342
  | consoleRetireCask (c : Session) (die plane block : Nat)  -- R342
  | consoleSpareClear (c : Session) (n : Option Ch)  -- R356
  | consoleSpareBad (c : Session) (n : Ch) -- R356
  | consoleRetlogClear (c : Session) (unit : Option RetUnit)  -- R356
  | consoleLeave (c : Session)             -- R357
  | leaveCommitted                         -- R357
  | consoleReset (c : Session)             -- R361
  | consoleSet (c : Session) (f : SvcField) (v : Nat)  -- R342
  | consoleChallenge (c : Session)         -- R342
  | consoleFuse (c : Session) (u : Unit)     -- R331
  | enrol (programmed : Bool)              -- R332
  | revoke (programmed : Bool)             -- R332
  | raiseFloor (programmed : Bool)         -- R332
  | attest (c : Session) (nonce : BitVec 256)  -- R337
  | attestServe                            -- R337
  | endorse (c : Session)                  -- R335
  | lanternWatchdogBite                    -- R358
  -- power and slow inputs
  | senseTurnOn                            -- R365
  | railInWindow (rail : Fin 5)            -- R371
  | railSequencingFail (rail : Fin 5)      -- R371
  | railFault (rail : Fin 5)               -- R370
  | powerRestart                           -- R370
  | undervoltage | overvoltage             -- R364
  | paceDecision (vin iin pin : Nat)       -- R368
  | fastLimit                              -- R368
  | paceSlewDone                           -- R367
  | thermalThrottle (x : Sensor) (temp : Nat)  -- R372
  | thermalTrip (x : Sensor) (temp : Nat)  -- R372
  | tripRecover                            -- R372
  | slowInputChange (x : SlowInput) (level : Bool)  -- R379
  | slowInputGlitch (x : SlowInput)        -- R379
  | resetNLow | resetNHigh                 -- R371
  | extLimitChange (level : Bool)          -- R379
  | extLimitDeferEnd                       -- R379
  | ppsEdge | ppsHoldover | ppsStuck       -- R380
  | rateMeasure (die : Fin 3) (rate : Nat) -- R366
  -- performance counters and registers
  | pcFreeze (b : PcBlock) (freeze : Bool) -- R390
  | pcClear (b : PcBlock)                  -- R390
  | pcWindowBoundary (b : PcBlock)         -- R391
  | registerWrite (w : Writer) (addr : Nat) (v : Word)  -- R7
  | illegalOpcodeIssue (n : Ch) (t : Tag)  -- R169
  | auxLoss                                -- R371
  | overvoltageRecover                     -- R364
  | throttleRelease (x : Sensor)           -- R372
  | aoutFullScaleEnd                       -- R346
  | aoutQuantityRefresh                    -- R347
  | fwupdateHandoverDone                   -- R353
  | uartCharacter (c : Byte)               -- R339
  deriving DecidableEq, Repr

end Sys2Proof
end

