-- ==== Sys2Proof/Decode.lean ====
section
/-! DEFINITION. The command that a word spells by the table's bits: no row of the table gives bits, so none. Tile
instruction words (R167) are read by Sys2Proof/Machine/Operands.lean. -/

namespace Sys2Proof

/-- The command spelled by `w`: none, since the table's rows are operations and events without bits. -/
def decodeTableWord (_nbits _w : Nat) : Option Instr := none

end Sys2Proof
end

