-- ==== Sys2Proof/Config.lean ====
section
/-! DEFINITION. What the spec leaves open: free values, uninterpreted constants that no proof can see through.
Every statement holds whatever they are. -/

namespace Sys2Proof

/-- A task that a recipe creates (R184, R256). -/
structure TaskDef where
  ch : Nat
  tag : Nat
  pc : Nat
  prio : Nat
  policy : Nat
  xlat : Nat
  save : Nat
  prefill : Bool                       -- runs PREFILL steps
  deriving DecidableEq, Repr, Inhabited

/-- A virtual range of a recipe's LAYOUT (R316): pages of `2 ^ log2` bytes; store 0 cellar, 1 pocket, 2 G7 DRAM; 3 a range of
module `ch` at its address `off` (R204), 4 control space at address `off` (R384). -/
structure MapRange where
  ctx : Nat
  va : Nat
  log2 : Nat
  size : Nat
  store : Nat
  ch : Nat
  off : Nat
  perms : Nat                          -- R, W, SP in bits 0 to 2
  hint : Nat
  deriving DecidableEq, Repr, Inhabited

/-- A descriptor patch (R252): the output's inbox slot, or base plus slot times stride. -/
structure Patch where
  ch : Nat
  tag : Nat
  desc : Nat
  word : Nat
  output : Bool
  base : Nat
  stride : Nat
  deriving DecidableEq, Repr, Inhabited

/-- A Gallery port's neighbour in a recipe. -/
structure PortDef where
  port : Nat
  addr : Nat
  nport : Nat
  fec : Nat
  rate : Nat
  deriving DecidableEq, Repr, Inhabited

/-- What a recipe's sections say (R316). -/
structure Recipe where
  complete : Bool                      -- every required section present, none twice
  passage : List Word                  -- R248, Table 1
  addr : Nat
  weight : Nat
  total : Nat
  members : List (Nat × Nat)           -- address, weight
  ports : List PortDef
  glCtrl : Word
  intra : List (Nat × Word)
  inter : List (Nat × Word)
  roles : List (Nat × Nat)
  stMembers : List (Nat × List Word)
  layout : List MapRange
  programs : List (Nat × Nat × List Byte)   -- context, virtual address, bytes
  presets : List (Nat × Word)
  patches : List Patch
  modelDigest : List Byte
  modelGen : Nat                       -- GENERATION of the model image
  contextLimit : Nat
  vocab : Nat
  sampling : Nat                       -- sampling method and temperature, which no request can change (R290)
  temperature : Word
  power : Option (Nat × Nat)           -- limit in W, pace
  tasks : List TaskDef
  scripts : List Nat                   -- slots of its self-test scripts
  actVa : Nat                          -- where the working chambers take the activation, and its bytes for one position
  actBytes : Nat
  embedPa : Nat                        -- the entry module's embedding rows
  embedRow : Nat
  idsPa : Nat                          -- where the last module's draft stage leaves the ids it returns
  idsLen : Nat
  sampleTag : Nat
  outVa : Nat                          -- the REMOTE leaf of NEXT's inbox (R252)
  deriving DecidableEq, Repr, Inhabited

/-- A fresh free value for each count (log entry 6): contents that the spec calls unspecified, tags it does not
number. -/
opaque Config.free : Nat → BitVec 64

/-- Which of the words within the bound of R129 a function stage returns: an offset from the nearest word, by
stage code and input; "the same word for the same input on every Y4 at every pace". -/
opaque Config.fnOffset : Nat → BitVec 32 → Int

/-- The E8M0 code that a block takes whose scale lies so many powers of two below 2^-127 (R37 names none). -/
opaque Config.lowScale : Nat → Nat

/-- An element of a non-zero block whose E4M3 scale rounds to 0 (R37 does not say what the division by it gives). -/
opaque Config.zeroScaled : BitVec 32 → Nat

/-- The bank a tun line lies in (R194: "A hash of the line address selects the bank"). -/
opaque Config.tunBank : Nat → Nat

/-- The set within the bank (R194 does not state how it is formed). -/
opaque Config.tunSet : Nat → Nat

/-- What the sections of a recipe image say: R316 names their contents and gives no layout (log entry 30). -/
opaque Config.recipe : List Byte → Recipe

/-- The 256-bit seed that the module's PUF response gives, corrected with helper data (R334), as 32 bytes. -/
opaque Config.idSeed : List Byte → List Byte

/-- Falcon-1024 key generation from a stream of random bytes (R334): the private key and the public key. -/
opaque Config.falconKeys : (Nat → Byte) → List Byte × List Byte

/-- A Falcon-1024 signature over a message by a private key (R334, R337); its salt is the security block's own. -/
opaque Config.falconSign : List Byte → List Byte → List Byte

/-- Colmel's public key (R330, R335). -/
opaque Config.colmelKey : List Byte

/-- Colmel's signature over an endorsement record (R335). -/
opaque Config.colmelSign : List Byte → List Byte

/-- The module's serial number (R335). -/
opaque Config.serial : Nat

/-- The layout of an endorsement record before its signature block (R335 gives its contents alone): identity digest, serial number,
ordering code. -/
opaque Config.endorsement : List Byte → Nat → Nat → List Byte

end Sys2Proof
end

