-- ==== Sys2Proof/Machine/Bits.lean ====
section
/-! DEFINITION. Bit fields, byte strings, sorted maps, the codes over GF(2⁸) and the frame CRC: the small
tools that the registers, the memory and the frames are written with. -/

namespace Sys2Proof.Machine

/-! ### Sorted maps: what an unlisted key reads as is the caller's default -/

/-- The value at key `k`; `d` where no entry has the key. -/
def kget {β : Type} (m : List (Nat × β)) (k : Nat) (d : β) : β :=
  match m with
  | [] => d
  | (k', v) :: r => if k' = k then v else kget r k d

/-- The map without key `k`. -/
def kdel {β : Type} (m : List (Nat × β)) (k : Nat) : List (Nat × β) :=
  m.filter fun e => e.1 != k

/-- Insert an entry before the first larger key. -/
def kins {β : Type} (m : List (Nat × β)) (k : Nat) (v : β) : List (Nat × β) :=
  match m with
  | [] => [(k, v)]
  | e :: r => if k < e.1 then (k, v) :: e :: r else e :: kins r k v

/-- Set key `k`; an entry equal to the default `d` is not listed. -/
def kput {β : Type} [DecidableEq β] (m : List (Nat × β)) (k : Nat) (v d : β) : List (Nat × β) :=
  if v = d then kdel m k else kins (kdel m k) k v

/-- Set key `k` in a map that lists what is present. -/
def kset {β : Type} (m : List (Nat × β)) (k : Nat) (v : β) : List (Nat × β) :=
  kins (kdel m k) k v

/-- The entry of a map that lists what is present. -/
def kfind {β : Type} (m : List (Nat × β)) (k : Nat) : Option β :=
  match m with
  | [] => none
  | (k', v) :: r => if k' = k then some v else kfind r k

/-- Keys strictly rising. -/
def rising {β : Type} (m : List (Nat × β)) : Bool :=
  match m with
  | [] => true
  | e :: r => r.all (fun e' => e.1 < e'.1) && rising r

/-- The canonical form: keys strictly rising, no entry equal to what its key reads as unlisted. -/
def kwf {β : Type} [DecidableEq β] (d : Nat → β) (m : List (Nat × β)) : Bool :=
  rising m && m.all fun e => decide (e.2 ≠ d e.1)

/-! ### Bit fields of a register -/

/-- A field of a 64-bit word: its lowest bit and its width. -/
structure Fld where
  lo : Nat
  w : Nat
  deriving DecidableEq, Repr

/-- The mask of a field. -/
def Fld.mask (f : Fld) : Word := BitVec.ofNat 64 ((2 ^ f.w - 1) * 2 ^ f.lo)

/-- The value of a field. -/
def fget (v : Word) (f : Fld) : Nat := v.toNat / 2 ^ f.lo % 2 ^ f.w

/-- A word with one field replaced by the low bits of `x`. -/
def fset (v : Word) (f : Fld) (x : Nat) : Word :=
  (v &&& ~~~f.mask) ||| (BitVec.ofNat 64 (x % 2 ^ f.w * 2 ^ f.lo) &&& f.mask)

/-- A Bool as a bit. -/
def bit (b : Bool) : Nat := if b then 1 else 0

/-- Bit `i` of a number. -/
def nbit (x i : Nat) : Bool := x / 2 ^ i % 2 = 1

/-- Bits `[hi:lo]` of a number (R6). -/
def bits (x hi lo : Nat) : Nat := x / 2 ^ lo % 2 ^ (hi + 1 - lo)

/-! ### Byte strings, least significant byte first (R6) -/

/-- The `k` low bytes of a number. -/
def toBytes (k x : Nat) : List Byte :=
  match k with
  | 0 => []
  | k + 1 => BitVec.ofNat 8 x :: toBytes k (x / 256)

/-- The number a byte string stands for. -/
def ofBytes (l : List Byte) : Nat :=
  match l with
  | [] => 0
  | b :: r => b.toNat + 256 * ofBytes r

/-- A byte string cut or zero-filled to `k` bytes. -/
def padTo (k : Nat) (l : List Byte) : List Byte := (l ++ List.replicate (k - l.length) 0).take k

/-- Bytes `[o, o + k)` of a byte string. -/
def slice (l : List Byte) (o k : Nat) : List Byte := (l.drop o).take k

/-- The little-endian number in bytes `[o, o + k)`. -/
def num (l : List Byte) (o k : Nat) : Nat := ofBytes (slice l o k)

/-! ### GF(2⁸) of Code T2 (R206) -/

/-- One doubling in GF(2⁸) with the polynomial 0x11D. -/
def gfDouble (a : Nat) : Nat := if a < 128 then 2 * a else (2 * a) ^^^ 0x11D

/-- Product in GF(2⁸), by the bits of `b` (fuel: 8 bits). -/
def gfMulAux (n a b : Nat) : Nat :=
  match n with
  | 0 => 0
  | n + 1 => (if b % 2 = 1 then a else 0) ^^^ gfMulAux n (gfDouble a) (b / 2)

/-- Product in GF(2⁸). -/
def gfMul (a b : Nat) : Nat := gfMulAux 8 a b

/-- `α ^ n`, α = 0x02. -/
def gfPow (n : Nat) : Nat :=
  match n with
  | 0 => 1
  | n + 1 => gfDouble (gfPow n)

/-! ### CRC -/

/-- One bit of a reflected CRC-32 with polynomial `poly`. -/
def crcBit (poly c : Nat) : Nat := if c % 2 = 1 then (c / 2) ^^^ poly else c / 2

/-- One byte of a reflected CRC-32. -/
def crcByte (poly c b : Nat) : Nat := Nat.repeat (crcBit poly) 8 (c ^^^ b)

/-- CRC-32C (Castagnoli): initial value and final XOR all ones, reflected polynomial 0x82F6_3B78. -/
def crc32c (l : List Byte) : BitVec 32 :=
  BitVec.ofNat 32 (l.foldl (fun c b => crcByte 0x82F63B78 c b.toNat) 0xFFFFFFFF ^^^ 0xFFFFFFFF)

end Sys2Proof.Machine
end

