-- ==== Sys2Proof/Machine/Num.lean ====
section
/-! DEFINITION. The numbers of the module: exact values, the element formats of R18 and R19, the one rounding of
R35, the conversions of R36, block scales (R21) and paired accumulation (R28). -/

namespace Sys2Proof.Machine

/-- A value: NaN, an infinity, or exactly `(-1)^neg × m × 2^e`. -/
inductive Num where
  | nan
  | inf (neg : Bool)
  | fin (neg : Bool) (m : Nat) (e : Int)
  deriving DecidableEq, Repr

/-- +0 (R27). -/
def Num.zero : Num := .fin false 0 0

/-- An integer as a value. -/
def Num.ofInt (i : Int) : Num := .fin (i < 0) i.natAbs 0

def Num.isNan : Num → Bool
  | .nan => true
  | _ => false

def Num.isInf : Num → Bool
  | .inf _ => true
  | _ => false

def Num.isFin : Num → Bool
  | .fin _ _ _ => true
  | _ => false

def Num.isZero : Num → Bool
  | .fin _ m _ => m == 0
  | _ => false

def Num.neg : Num → Num
  | .nan => .nan
  | .inf b => .inf (!b)
  | .fin b m e => .fin (!b) m e

def Num.abs : Num → Num
  | .nan => .nan
  | .inf _ => .inf false
  | .fin _ m e => .fin false m e

/-- Multiply by `2^k`, exactly. -/
def Num.scale (k : Int) : Num → Num
  | .fin b m e => .fin b m (e + k)
  | x => x

/-- The signed integer `x ÷ 2^q` for a finite `x` with exponent at least `q`. -/
def Num.intAt (q : Int) : Num → Int
  | .fin b m e => (if b then -1 else 1) * ((m : Int) * ((2 ^ (e - q).toNat : Nat) : Int))
  | _ => 0

/-- The exact sum; `∞ − ∞` is NaN and `−0 + −0` is −0, every other zero sum +0 (R38). -/
def Num.add (x y : Num) : Num :=
  match x, y with
  | .nan, _ => .nan
  | _, .nan => .nan
  | .inf a, .inf b => if a = b then .inf a else .nan
  | .inf a, _ => .inf a
  | _, .inf b => .inf b
  | .fin a m e, .fin b n f =>
    let q := min e f
    let i := Num.intAt q (.fin a m e) + Num.intAt q (.fin b n f)
    .fin (if i = 0 then a && b && m == 0 && n == 0 else i < 0) i.natAbs q

/-- The exact product; `∞ × 0` is NaN (R38). -/
def Num.mul (x y : Num) : Num :=
  match x, y with
  | .nan, _ => .nan
  | _, .nan => .nan
  | .inf a, .inf b => .inf (a != b)
  | .inf a, .fin b m _ => if m = 0 then .nan else .inf (a != b)
  | .fin a m _, .inf b => if m = 0 then .nan else .inf (a != b)
  | .fin a m e, .fin b n f => .fin (a != b) (m * n) (e + f)

def Num.sub (x y : Num) : Num := x.add y.neg

/-- Sum of a list, exactly, from +0. -/
def Num.sum (l : List Num) : Num := l.foldl Num.add .zero

/-- `x < y` of two values, neither NaN; −0 equals +0. -/
def Num.lt (x y : Num) : Bool :=
  match x, y with
  | .nan, _ => false
  | _, .nan => false
  | .inf a, .inf b => a && !b
  | .inf a, _ => a
  | _, .inf b => !b
  | .fin a m e, .fin b n f =>
    let q := min e f
    Num.intAt q (.fin a m e) < Num.intAt q (.fin b n f)

/-- `x = y` as numbers; NaN equals nothing. -/
def Num.eq (x y : Num) : Bool := !x.isNan && !y.isNan && !x.lt y && !y.lt x

/-! ### Rounding (R35) -/

/-- Divide by `2^s`, to nearest, ties to even. -/
def rneShift (m s : Nat) : Nat :=
  if s = 0 then m
  else
    let k := m / 2 ^ s
    let r := m % 2 ^ s
    if 2 * r > 2 ^ s ∨ (2 * r = 2 ^ s ∧ k % 2 = 1) then k + 1 else k

/-- Round `m × 2^e` to a significand of `p` bits with quantum at least `2^emin`: the result is `.1 × 2^.2`. -/
def roundBin (p : Nat) (emin : Int) (m : Nat) (e : Int) : Nat × Int :=
  if m = 0 then (0, emin)
  else
    let q := max emin (e + (Nat.log2 m + 1 : Nat) - p)
    if q ≤ e then (m * 2 ^ (e - q).toNat, q) else (rneShift m (q - e).toNat, q)

/-! ### Element formats (R18, R19) -/

/-- A floating-point format: exponent width, mantissa width, bias, and whether the all-ones exponent holds infinity
and NaN (`ieee`) or only the all-ones pattern is NaN (`e4m3`), or neither. -/
structure FFmt where
  ew : Nat
  mw : Nat
  bias : Nat
  ieee : Bool
  e4m3 : Bool
  deriving DecidableEq, Repr

/-- The floating-point formats by code (R18, Table 1). -/
def ffmt (code : Nat) : Option FFmt :=
  match code with
  | 0 => some ⟨8, 23, 127, true, false⟩
  | 1 => some ⟨8, 7, 127, true, false⟩
  | 2 => some ⟨4, 3, 7, false, true⟩
  | 3 => some ⟨5, 2, 15, true, false⟩
  | 4 => some ⟨3, 2, 3, false, false⟩
  | 5 => some ⟨2, 3, 1, false, false⟩
  | 6 => some ⟨2, 1, 1, false, false⟩
  | _ => none

/-- Bits of an element (R18, Table 1); 0 for a reserved code. -/
def fmtBits (code : Nat) : Nat :=
  match code with
  | 0 => 32
  | 1 => 16
  | 2 => 8
  | 3 => 8
  | 4 => 6
  | 5 => 6
  | 6 => 4
  | 7 => 8
  | 8 => 4
  | 9 => 2
  | 10 => 32
  | _ => 0

/-- Whether a code names a floating-point format. -/
def isFloat (code : Nat) : Bool := code ≤ 6

/-- The value of a floating-point pattern (R19). -/
def FFmt.decode (f : FFmt) (x : Nat) : Num :=
  let s := nbit x (f.ew + f.mw)
  let e := x / 2 ^ f.mw % 2 ^ f.ew
  let m := x % 2 ^ f.mw
  if f.ieee ∧ e = 2 ^ f.ew - 1 then (if m = 0 then .inf s else .nan)
  else if f.e4m3 ∧ e = 2 ^ f.ew - 1 ∧ m = 2 ^ f.mw - 1 then .nan
  else if e = 0 then .fin s m (1 - (f.bias : Int) - f.mw)
  else .fin s (2 ^ f.mw + m) ((e : Int) - f.bias - f.mw)

/-- The value of an element of format `code` (R18, R19). -/
def decodeElem (code x : Nat) : Num :=
  match ffmt code with
  | some f => f.decode x
  | none => Num.ofInt (signed (fmtBits code) (x % 2 ^ fmtBits code))

/-- The largest finite pattern, sign clear. -/
def FFmt.maxPat (f : FFmt) : Nat :=
  if f.ieee then (2 ^ f.ew - 1) * 2 ^ f.mw - 1
  else if f.e4m3 then 2 ^ (f.ew + f.mw) - 2
  else 2 ^ (f.ew + f.mw) - 1

/-- What a conversion gives: the pattern and the flags of R36. -/
structure Cvt where
  bits : Nat
  sat : Bool := false
  nanLost : Bool := false
  underflow : Bool := false
  deriving DecidableEq, Repr

/-- The sign bit of a pattern. -/
def FFmt.sgn (f : FFmt) (neg : Bool) : Nat := if neg then 2 ^ (f.ew + f.mw) else 0

/-- The NaN pattern of a format; 0 where it has none (R36, Table 5). -/
def FFmt.nanPat (f : FFmt) : Nat :=
  if f.ieee then (2 ^ f.ew - 1) * 2 ^ f.mw + 2 ^ (f.mw - 1)
  else if f.e4m3 then 2 ^ (f.ew + f.mw) - 1 else 0

/-- The pattern of the finite value `k × 2^q`, already rounded to the format. -/
def FFmt.pat (f : FFmt) (k : Nat) (q : Int) : Nat :=
  if k < 2 ^ f.mw then k
  else if k = 2 ^ (f.mw + 1) then (q + 1 + f.mw + f.bias).toNat * 2 ^ f.mw
  else (q + f.mw + f.bias).toNat * 2 ^ f.mw + (k - 2 ^ f.mw)

/-- Conversion of a value to a floating-point format (R35, R36, Table 5). -/
def FFmt.convert (f : FFmt) (nonsat : Bool) (x : Num) : Cvt :=
  match x with
  | .nan => ⟨f.nanPat, false, !(f.ieee || f.e4m3), false⟩
  | .inf s =>
    if f.ieee then ⟨f.sgn s + (2 ^ f.ew - 1) * 2 ^ f.mw, false, false, false⟩
    else if f.e4m3 ∧ nonsat then ⟨f.nanPat, false, false, false⟩
    else ⟨f.sgn s + f.maxPat, true, false, false⟩
  | .fin s m e =>
    let (k, q) := roundBin (f.mw + 1) (1 - (f.bias : Int) - f.mw) m e
    if (f.decode f.maxPat).lt (.fin false k q) then
      if nonsat ∧ f.ieee then ⟨f.sgn s + (2 ^ f.ew - 1) * 2 ^ f.mw, false, false, false⟩
      else if nonsat ∧ f.e4m3 then ⟨f.nanPat, false, false, false⟩
      else ⟨f.sgn s + f.maxPat, true, false, false⟩
    else ⟨f.sgn s + f.pat k q, false, false, k = 0 ∧ m ≠ 0⟩

/-- Rounding of a finite value to an integer, ties to even. -/
def roundInt (s : Bool) (m : Nat) (e : Int) : Int :=
  let a : Int := if 0 ≤ e then ((m * 2 ^ e.toNat : Nat) : Int) else (rneShift m (-e).toNat : Int)
  if s then -a else a

/-- Conversion to a two's complement format of `w` bits (R36, Table 5). -/
def convertInt (w : Nat) (x : Num) : Cvt :=
  let hi : Int := (2 ^ (w - 1) : Nat) - 1
  let lo : Int := -((2 ^ (w - 1) : Nat) : Int)
  let enc (i : Int) : Nat := (i % (2 ^ w : Nat)).toNat
  match x with
  | .nan => ⟨0, false, true, false⟩
  | .inf s => ⟨enc (if s then lo else hi), true, false, false⟩
  | .fin s m e =>
    let i := roundInt s m e
    if hi < i then ⟨enc hi, true, false, false⟩
    else if i < lo then ⟨enc lo, true, false, false⟩
    else ⟨enc i, false, false, i = 0 ∧ m ≠ 0⟩

/-- Conversion to the format `code` with overflow mode NONSAT or SAT (R36). -/
def convert (code : Nat) (nonsat : Bool) (x : Num) : Cvt :=
  match ffmt code with
  | some f => f.convert nonsat x
  | none => convertInt (fmtBits code) x

/-! ### FP32 words -/

/-- The FP32 format. -/
def fp32 : FFmt := ⟨8, 23, 127, true, false⟩

/-- The value of an FP32 word. -/
def f32 (w : BitVec 32) : Num := fp32.decode w.toNat

/-- The FP32 word nearest a value; beyond the largest finite it is an infinity. -/
def toF32 (x : Num) : BitVec 32 := BitVec.ofNat 32 (fp32.convert true x).bits

/-- Whether a finite value rounds beyond the largest finite FP32 value (R30). -/
def f32Overflows (x : Num) : Bool := x.isFin && (f32 (toF32 x)).isInf

/-- The quiet NaN of every FP32 path (R36). -/
def qnan32 : BitVec 32 := 0x7FC00000

/-- The signed integer of an INT32 word. -/
def i32 (w : BitVec 32) : Int := w.toInt

/-- Saturation at the INT32 limits (R26): the word and whether it saturated. -/
def satI32 (i : Int) : BitVec 32 × Bool :=
  if 2147483647 < i then (0x7FFFFFFF, true)
  else if i < -2147483648 then (0x80000000, true)
  else (BitVec.ofInt 32 i, false)

/-- FP32 addition, one rounding (R35). -/
def fadd (x y : BitVec 32) : BitVec 32 := toF32 ((f32 x).add (f32 y))

/-- FP32 multiplication, one rounding. -/
def fmul (x y : BitVec 32) : BitVec 32 := toF32 ((f32 x).mul (f32 y))

/-- FP32 fused multiply-add, one rounding. -/
def ffma (x y z : BitVec 32) : BitVec 32 := toF32 (((f32 x).mul (f32 y)).add (f32 z))

/-! ### Paired accumulation (R28) -/

/-- An accumulator: the sum and the compensation. -/
structure Acc where
  s : BitVec 32
  c : BitVec 32
  deriving DecidableEq, Repr

/-- The opened accumulator (R27). -/
def Acc.zero : Acc := ⟨0, 0⟩

/-- Add one exact term by the steps of R28: e is the exact rounding error of s + x. An infinite sum takes e as 0 (R38); of a NaN sum
the steps make e, and so c, NaN. -/
def Acc.addPaired (a : Acc) (x : Num) : Acc :=
  let y := (f32 a.s).add x
  let t := toF32 y
  if (f32 t).isFin then ⟨t, toF32 ((f32 a.c).add (y.sub (f32 t)))⟩
  else if (f32 t).isNan then ⟨t, qnan32⟩ else ⟨t, toF32 ((f32 a.c).add .zero)⟩

/-- Combine two paired accumulators: the second sum as one term, then its compensation (R28). -/
def Acc.combine (a b : Acc) : Acc :=
  let r := a.addPaired (f32 b.s)
  ⟨r.s, fadd r.c b.c⟩

/-- Add one exact term to an FP32 accumulator, with one rounding or in pairs (R24, R28), and whether an addition of finite
values overflows in s or in c (R30). -/
def Acc.addTerm (paired : Bool) (a : Acc) (x : Num) : Acc × Bool :=
  let b := if paired then a.addPaired x else ⟨toF32 ((f32 a.s).add x), 0⟩
  (b, (x.isFin && (f32 a.s).isFin && !(f32 b.s).isFin) || ((f32 b.s).isFin && (f32 a.c).isFin && !(f32 b.c).isFin))

/-- The value `s + c`, exactly. -/
def Acc.exact (a : Acc) : Num := (f32 a.s).add (f32 a.c)

/-! ### Block scales (R21, R22) -/

/-- The value of a stored scale under scaling code 1 (E8M0) or 2 (E4M3). -/
def scaleValue (sc x : Nat) : Num :=
  match sc with
  | 1 => if x = 255 then .nan else .fin false 1 ((x : Int) - 127)
  | 2 => decodeElem 2 x
  | _ => .fin false 1 0

/-- Elements per block of a scaling code (R21, Table 3). -/
def scaleBlock (sc : Nat) : Nat := if sc = 1 then 32 else if sc = 2 then 16 else 0

/-- Exponent `⌊log₂ a⌋` of a finite non-zero value. -/
def Num.log2 : Num → Int
  | .fin _ m e => e + (Nat.log2 m : Nat)
  | _ => 0

/-- The scale code of a block whose largest magnitude is the finite value `a`, for element format `code`
(R37): the exponent of the format's largest finite value is 8, 15, 4, 2, 2 and 6. A scale below 2^-127 has no E8M0 code and R37 names
none for it: a free value (DESIGN CHOICE, log entry 111). -/
def blockScale (sc code : Nat) (a : Num) : Nat :=
  if a.isZero then (if sc = 1 then 0x7F else 0x38)
  else if sc = 1 then
    let top : Int := match code with
      | 2 => 8
      | 3 => 15
      | 4 => 4
      | 5 => 2
      | 6 => 2
      | _ => 6
    let c := a.log2 - top + 127
    if c < 0 then Config.lowScale c.natAbs % 255 else (min 254 c).toNat
  else
    let mx : Option Num := (ffmt code).map (fun f => f.decode f.maxPat)
    match a, mx with
    | .fin _ m e, some (.fin _ n g) => (convert 2 false (.fin false (m * 2 ^ 64 / n * 2 + bit (decide (m * 2 ^ 64 % n ≠ 0))) (e - g - 65))).bits
    | _, _ => 0x38

/-- Conversion of a block of FP32 words to a block-scaled format (R37): the scale code and the elements. R37 does not say what a
division by a scale that rounds to 0 gives for a non-zero block: its elements are free values (DESIGN CHOICE, log entry 111). -/
def blockConvert (sc code : Nat) (l : List (BitVec 32)) : Nat × List Nat :=
  let big : Num := f32 0x7F7FFFFF
  let xs := l.map fun w => match f32 w with
    | .inf s => if s then big.neg else big
    | x => x
  if xs.any Num.isNan then ((if sc = 1 then 0xFF else 0x7F), xs.map fun _ => 0)
  else
    let a := xs.foldl (fun m x => if m.lt x.abs then x.abs else m) .zero
    let c := blockScale sc code a
    match scaleValue sc c with
    | .fin _ 0 _ => (c, l.map fun w => Config.zeroScaled w % 2 ^ fmtBits code)
    | .fin _ n g =>
      (c, xs.map fun x => match x with
        | .fin s m e => (convert code false (.fin s (m * 2 ^ 64 / n * 2 + bit (decide (m * 2 ^ 64 % n ≠ 0))) (e - g - 65))).bits
        | _ => 0)
    | _ => (c, xs.map fun _ => 0)

end Sys2Proof.Machine
end

