-- ==== Sys2Proof/Machine/Falcon.lean ====
section
/-! DEFINITION. The two standards that the security block follows (R327): SHAKE256 of FIPS 202, and the verification of Falcon-1024
signatures in their padded encoding. The spec names them; what they say is taken from the published standards (PRESUMED, log entry
116). -/

namespace Sys2Proof.Machine

/-! ### SHAKE256. The 1,600 bits of state are one number, lane (x, y) its 64 bits from 64 (x + 5 y). -/

def kLane (s i : Nat) : Nat := s >>> (64 * i) % 2 ^ 64

def kPack (l : List Nat) : Nat := l.foldr (fun x a => x + a * 2 ^ 64) 0

def kRot (x k : Nat) : Nat := (x <<< k ||| x >>> (64 - k)) % 2 ^ 64

/-- θ: every lane takes the parity of two columns. -/
def kTheta (s : Nat) : Nat :=
  let c (x : Nat) : Nat := kLane s x ^^^ kLane s (x + 5) ^^^ kLane s (x + 10) ^^^ kLane s (x + 15) ^^^ kLane s (x + 20)
  let d := kPack ([0, 1, 2, 3, 4].map fun x => c ((x + 4) % 5) ^^^ kRot (c ((x + 1) % 5)) 1)
  s ^^^ (d + d * 2 ^ 320 + d * 2 ^ 640 + d * 2 ^ 960 + d * 2 ^ 1280)

/-- The rotations of ρ, by lane. -/
def kOffsets : List Nat := [0, 1, 62, 28, 27, 36, 44, 6, 55, 20, 3, 10, 43, 25, 39, 41, 45, 15, 21, 8, 18, 2, 61, 56, 14]

/-- ρ and π: each lane is turned and moved. -/
def kRhoPi (s : Nat) : Nat :=
  kPack ((List.range 25).map fun i =>
    let j := (i % 5 + 3 * (i / 5)) % 5 + 5 * (i % 5)
    kRot (kLane s j) (kOffsets.getD j 0))

/-- χ: each lane takes the next two of its row. -/
def kChi (s : Nat) : Nat :=
  kPack ((List.range 25).map fun i =>
    let y := i / 5 * 5
    kLane s i ^^^ ((2 ^ 64 - 1 - kLane s (y + (i + 1) % 5)) &&& kLane s (y + (i + 2) % 5)))

/-- The constants of ι. -/
def kRounds : List Nat :=
  [0x0000000000000001, 0x0000000000008082, 0x800000000000808A, 0x8000000080008000, 0x000000000000808B, 0x0000000080000001,
   0x8000000080008081, 0x8000000000008009, 0x000000000000008A, 0x0000000000000088, 0x0000000080008009, 0x000000008000000A]
  ++ [0x000000008000808B, 0x800000000000008B, 0x8000000000008089, 0x8000000000008003, 0x8000000000008002, 0x8000000000000080,
   0x000000000000800A, 0x800000008000000A, 0x8000000080008081, 0x8000000000008080, 0x0000000080000001, 0x8000000080008008]

/-- The permutation. -/
def keccak (s : Nat) : Nat := kRounds.foldl (fun s r => kChi (kRhoPi (kTheta s)) ^^^ r) s

/-- Bytes as a number, the first byte lowest. -/
def bytesLow (l : List Byte) : Nat := l.foldr (fun b a => b.toNat + a * 256) 0

/-- Take in a message, 136 bytes at a time, with its suffix and padding. -/
def absorb (fuel s : Nat) (l : List Byte) : Nat :=
  match fuel with
  | 0 => s
  | fuel + 1 =>
    if l.length < 136 then keccak (s ^^^ bytesLow l ^^^ 0x1F * 256 ^ l.length ^^^ 2 ^ 1087)
    else absorb fuel (keccak (s ^^^ bytesLow (l.take 136))) (l.drop 136)

/-- The state after a message. -/
def sponge (l : List Byte) : Nat := absorb (l.length / 136 + 1) 0 l

/-- Blocks of output, the first lowest. -/
def squeeze (blocks s : Nat) : Nat :=
  match blocks with
  | 0 => 0
  | k + 1 => s % 2 ^ 1088 + squeeze k (keccak s) * 2 ^ 1088

/-- Byte `i` of SHAKE256's output. -/
def shakeByte (l : List Byte) (i : Nat) : Byte := BitVec.ofNat 8 (squeeze (i / 136 + 1) (sponge l) >>> (8 * i))

/-- SHAKE256 with a 64-byte output, its first byte lowest (R327). -/
def shake (l : List Byte) : Nat := sponge l % 2 ^ 512

/-- The digest as bytes. -/
def digest (l : List Byte) : List Byte := toBytes 64 (shake l)

/-! ### Falcon-1024 -/

def falconQ : Nat := 12289

/-- The values of the samples below 5 q in one block of output, each of two bytes, the first the higher. -/
def falconSamples (s : Nat) : List Nat :=
  (((List.range 68).map fun j =>
    let x := s >>> (16 * j) % 2 ^ 16
    x % 256 * 256 + x / 256).filter (· < 5 * falconQ)).map (· % falconQ)

/-- The first `k` values. -/
def falconPoints (fuel s k : Nat) : List Nat :=
  match fuel with
  | 0 => []
  | fuel + 1 =>
    let l := falconSamples s
    if k ≤ l.length then l.take k else l ++ falconPoints fuel (keccak s) (k - l.length)

/-- The point that a salted message hashes to: 1,024 values below q. -/
def hashToPoint (l : List Byte) : List Nat := falconPoints 4096 (sponge l) 1024

/-- Bytes as a number, the first byte highest. -/
def bytesHigh (l : List Byte) : Nat := l.foldl (fun a b => a * 256 + b.toNat) 0

/-- The rest of a coefficient: 128 for each 0 bit before the next 1, with the bits left. At most 2,047 comes so. -/
def falconUnary (fuel n p m : Nat) : Option (Nat × Nat) :=
  match fuel with
  | 0 => none
  | fuel + 1 =>
    if p = 0 then none
    else if n.testBit (p - 1) then some (m, p - 1) else falconUnary fuel n (p - 1) (m + 128)

/-- Decode `k` coefficients from the low `p` bits of a number, from the highest bit: a sign, seven bits, the rest; no negative zero, and 0
in every bit left over. -/
def falconCoeffs (k n p : Nat) : Option (List Int) :=
  match k with
  | 0 => if n % 2 ^ p = 0 then some [] else none
  | k + 1 =>
    if p < 8 then none
    else
      let b := n >>> (p - 8) % 256
      match falconUnary 16 n (p - 8) (b % 128) with
      | none => none
      | some (m, p) =>
        if 128 ≤ b ∧ m = 0 then none
        else (falconCoeffs k n p).map fun l => (if 128 ≤ b then -(m : Int) else m) :: l

/-- The 1,024 coefficients of a public key after its header byte, 14 bits each. -/
def falconKey (pk : List Byte) : List Nat :=
  let n := bytesHigh (pk.drop 1)
  (List.range 1024).map fun i => n >>> (14 * (1023 - i)) % 2 ^ 14

/-- The square of a value mod q, taken nearest to 0. -/
def falconSq (y : Nat) : Nat := if 2 * y ≤ falconQ then y * y else (falconQ - y) * (falconQ - y)

/-- The squared length of c − s2 h, from the product's coefficients in 64-bit places. -/
def falconNorm (prod i : Nat) (c : List Nat) : Nat :=
  match c with
  | [] => 0
  | x :: c =>
    let at_ (i : Nat) : Nat := prod >>> (64 * i) % 2 ^ 64
    falconSq ((x + at_ (i + 1024) + (falconQ - at_ i % falconQ)) % falconQ) + falconNorm prod (i + 1) c

/-- Whether a signature of 1,280 bytes over a message verifies under a public key of 1,793 bytes. -/
def falconVerify (pk sig msg : List Byte) : Bool :=
  let h := falconKey pk
  if pk.length ≠ 1793 ∨ sig.length ≠ 1280 ∨ pk.head? ≠ some 0x0A ∨ sig.head? ≠ some 0x3A ∨ h.any (fun x => decide (falconQ ≤ x)) then
    false
  else
    match falconCoeffs 1024 (bytesHigh (sig.drop 41)) (8 * 1239) with
    | none => false
    | some s2 =>
      let prod := kPack (s2.map fun x => (x % (falconQ : Int)).toNat) * kPack h
      decide (falconNorm prod 0 (hashToPoint ((sig.drop 1).take 40 ++ msg)) + (s2.map fun x => x.natAbs * x.natAbs).sum
        ≤ 70265242)

end Sys2Proof.Machine
end

