-- ==== Sys2Proof/Machine/Fn.lean ====
section
/-! DEFINITION. The function stages of Flowstone (R128, R129). RCP, DIV and SQRT are correctly rounded. The others are
bounded in units in the last place: the model computes the nearest word in 256-bit fixed point and lets a free
value choose among the words within the bound (log entry 7). -/

namespace Sys2Proof.Machine

/-- Fraction bits of the fixed-point numbers here. -/
def fxBits : Nat := 256

/-- ln 2 in 256-bit fixed point. -/
def fxLn2 : Nat := 0xb17217f7d1cf79abc9e3b39803f2f6af40f343267298b62d8a0d175b8baafa2b

/-- The quotient of two natural numbers as a value with at least 64 significant bits and a sticky bit. -/
def quotNum (neg : Bool) (n d : Nat) (e : Int) : Num :=
  let k := 64 + (Nat.log2 d + 1)
  .fin neg (n * 2 ^ k / d * 2 + bit (decide (n * 2 ^ k % d ≠ 0))) (e - k - 1)

/-- Division of two values with the special values of Table 6 (R129); exact enough to round once. -/
def Num.div (x y : Num) : Num :=
  match x, y with
  | .nan, _ => .nan
  | _, .nan => .nan
  | .inf _, .inf _ => .nan
  | .inf a, .fin b _ _ => .inf (a != b)
  | .fin a _ _, .inf b => .fin (a != b) 0 0
  | .fin a m e, .fin b n f =>
    if n = 0 then (if m = 0 then .nan else .inf (a != b))
    else if m = 0 then .fin (a != b) 0 0
    else quotNum (a != b) m n (e - f)

/-- Integer square root by bits: `n` candidate bits are left. -/
def isqrtAux (n x r : Nat) : Nat :=
  match n with
  | 0 => r
  | n + 1 => if (r + 2 ^ n) * (r + 2 ^ n) ≤ x then isqrtAux n x (r + 2 ^ n) else isqrtAux n x r

/-- Integer square root. -/
def isqrt (x : Nat) : Nat := isqrtAux (Nat.log2 x / 2 + 1) x 0

/-- Square root of a finite non-negative value, with a sticky bit. -/
def sqrtNum (m : Nat) (e : Int) : Num :=
  let (m, e) := if e % 2 = 0 then (m, e) else (2 * m, e - 1)
  let r := isqrt (m * 2 ^ 128)
  .fin false (2 * r + bit (decide (r * r ≠ m * 2 ^ 128))) (e / 2 - 65)

/-- Σ tᵏ ÷ k! from the term `term` on, in fixed point. -/
def fxExpAux (fuel k term t : Nat) : Nat :=
  match fuel with
  | 0 => 0
  | n + 1 => term + fxExpAux n (k + 1) (term * t / 2 ^ fxBits / k) t

/-- e^t for a fixed-point integer `t`. -/
def fxExp (t : Int) : Num :=
  let n := t / (fxLn2 : Int)
  let r := (t % (fxLn2 : Int)).toNat
  .fin false (fxExpAux 70 1 (2 ^ fxBits) r) (n - fxBits)

/-- A value as a fixed-point integer, between −1000 and 1000. -/
def fxOf (x : Num) : Int :=
  let lim : Int := ((1000 * 2 ^ fxBits : Nat) : Int)
  match x with
  | .fin s m e =>
    if 12 < e + (Nat.log2 m + 1 : Nat) then (if s then -lim else lim)
    else
      let i : Int := if 0 ≤ e + fxBits then ((m * 2 ^ (e + fxBits).toNat : Nat) : Int)
        else ((m / 2 ^ (-(e + fxBits)).toNat : Nat) : Int)
      max (-lim) (min lim (if s then -i else i))
  | .inf s => if s then -lim else lim
  | .nan => 0

/-- Σ z^(2k+1) ÷ (2k+1) in fixed point. -/
def fxAtanhAux (fuel k p z2 : Nat) : Nat :=
  match fuel with
  | 0 => 0
  | n + 1 => p / (2 * k + 1) + fxAtanhAux n (k + 1) (p * z2 / 2 ^ fxBits) z2

/-- ln of the finite positive value `m × 2^e`. -/
def lnNum (m : Nat) (e : Int) : Num :=
  let l := Nat.log2 m
  let z := (m - 2 ^ l) * 2 ^ fxBits / (m + 2 ^ l)
  let a : Int := ((2 * fxAtanhAux 90 0 z (z * z / 2 ^ fxBits) : Nat) : Int)
  let i : Int := a + (e + (l : Int)) * (fxLn2 : Int)
  .fin (i < 0) i.natAbs (-(fxBits : Int))

/-- The value `1 + x`. -/
def Num.succ (x : Num) : Num := (Num.fin false 1 0).add x

/-- The distance between two values. -/
def Num.dist (x y : Num) : Num := (x.sub y).abs

/-- One ulp of an FP32 word's binade. -/
def ulp32 (w : BitVec 32) : Num :=
  .fin false 1 ((max 1 (w.toNat / 2 ^ 23 % 256) : Nat) - 150)

/-- The word `k` places from `w` in order of magnitude. -/
def stepWord (w : BitVec 32) (k : Int) : BitVec 32 :=
  let mag : Int := (w.toNat % 2 ^ 31 : Nat) + k
  BitVec.ofNat 32 (w.toNat / 2 ^ 31 * 2 ^ 31 + mag.toNat % 2 ^ 31)

/-- The word a bounded function stage returns: the nearest word moved by the free offset where that stays a finite
word of the same sign within `k` ulp of the exact value, else the nearest word (R129). -/
def within (k op : Nat) (w : BitVec 32) (x : Num) : BitVec 32 :=
  let c := toF32 x
  let o := Config.fnOffset op w
  let c' := stepWord c o
  if o.natAbs ≤ k ∧ o.natAbs ≤ c.toNat % 2 ^ 31 ∧ (f32 c).isFin ∧ (f32 c').isFin
      ∧ !(((ulp32 c).mul (Num.ofInt k)).lt ((f32 c').dist x)) then c' else c

/-- EXP (R128, R129). -/
def fnExp (w : BitVec 32) : BitVec 32 :=
  match f32 w with
  | .nan => qnan32
  | .inf s => if s then 0 else 0x7F800000
  | .fin s m e => if m = 0 then 0x3F800000 else within 2 0x10 w (fxExp (fxOf (.fin s m e)))

/-- LOG. -/
def fnLog (w : BitVec 32) : BitVec 32 :=
  match f32 w with
  | .nan => qnan32
  | .inf s => if s then qnan32 else 0x7F800000
  | .fin s m e => if m = 0 then 0xFF800000 else if s then qnan32 else within 2 0x11 w (lnNum m e)

/-- DIV: correctly rounded. -/
def fnDiv (a b : BitVec 32) : BitVec 32 := toF32 ((f32 a).div (f32 b))

/-- RCP: correctly rounded. -/
def fnRcp (w : BitVec 32) : BitVec 32 := fnDiv 0x3F800000 w

/-- SQRT: correctly rounded. -/
def fnSqrt (w : BitVec 32) : BitVec 32 :=
  match f32 w with
  | .nan => qnan32
  | .inf s => if s then qnan32 else 0x7F800000
  | .fin s m e => if m = 0 then w else if s then qnan32 else toF32 (sqrtNum m e)

/-- RSQRT. -/
def fnRsqrt (w : BitVec 32) : BitVec 32 :=
  match f32 w with
  | .nan => qnan32
  | .inf s => if s then qnan32 else 0
  | .fin s m e =>
    if m = 0 then (if s then 0xFF800000 else 0x7F800000)
    else if s then qnan32 else within 1 0x15 w ((Num.fin false 1 0).div (sqrtNum m e))

/-- `1 ÷ (1 + e^(−t))` for a fixed-point `t`. -/
def sigmoidNum (t : Int) : Num := (Num.fin false 1 0).div (fxExp (-t)).succ

/-- TANH: `(e^(2x) − 1) ÷ (e^(2x) + 1)`; a zero keeps its sign. -/
def fnTanh (w : BitVec 32) : BitVec 32 :=
  match f32 w with
  | .nan => qnan32
  | .inf s => if s then 0xBF800000 else 0x3F800000
  | .fin s m e =>
    if m = 0 then w
    else
      let x := fxExp (fxOf (.fin s m (e + 1)))
      within 2 0x16 w ((x.add (.fin true 1 0)).div x.succ)

/-- SIGMOID. -/
def fnSigmoid (w : BitVec 32) : BitVec 32 :=
  match f32 w with
  | .nan => qnan32
  | .inf s => if s then 0 else 0x3F800000
  | x => within 2 0x17 w (sigmoidNum (fxOf x))

/-- SILU: `A × sigmoid(A)`. -/
def fnSilu (w : BitVec 32) : BitVec 32 :=
  match f32 w with
  | .nan => qnan32
  | .inf s => if s then 0x80000000 else 0x7F800000
  | x => if x.isZero then w else within 4 0x18 w (x.mul (sigmoidNum (fxOf x)))

/-- A value times the decimal `n ÷ 10^6`. -/
def Num.micro (n : Nat) (x : Num) : Num := (x.mul (Num.ofInt n)).div (.fin false 15625 6)

/-- GELU: `0.5A(1 + tanh y) = A ÷ (1 + e^(−2y))` with `y = 0.797885(A + 0.044715A³)`. -/
def fnGelu (w : BitVec 32) : BitVec 32 :=
  match f32 w with
  | .nan => qnan32
  | .inf s => if s then 0x80000000 else 0x7F800000
  | x =>
    if x.isZero then w
    else
      let y2 := Num.micro (2 * 797885) (x.add (Num.micro 44715 (x.mul (x.mul x))))
      within 4 0x19 w (x.mul (sigmoidNum (fxOf y2)))

end Sys2Proof.Machine
end

