-- ==== Sys2Proof/Machine/Chamber.lean ====
section
/-! DEFINITION. What one chamber holds beside its registers: task contexts, the array and its slots, the sump, the
Flowstone queue, the stream engines, and the arbiters' state. Register fields are the one home of what they show
(a task's state, a slot's phase, a region's state, credits); this file holds the rest. -/

namespace Sys2Proof.Machine

/-- A fetched instruction: its address and its word; `none` where the fetch failed (R168). -/
structure Fetched where
  pc : Nat
  word : Option (BitVec 128)
  deriving DecidableEq, Repr

/-- An instruction issued and not complete (R174). `id` is its place in the task's program order. -/
structure Issued where
  id : Nat
  pc : Nat
  word : BitVec 128
  deriving DecidableEq, Repr

/-- What holds back a task's next issue (R175 to R177). -/
inductive Wait where
  | none
  | fence (id : Nat)
  | ending (id : Nat)                  -- an END whose earlier instructions are not complete
  | barrier (id va target : Nat)
  | waitw (id va value since timeout : Nat)
  deriving DecidableEq, Repr

/-- One task context (R183): what its registers do not show. -/
structure Task where
  xlat : Nat := 0
  fetched : List Fetched := []
  fetchPc : Nat := 0
  fetchErr : Option (Nat × Nat) := none   -- the memory fault of the last fetched instruction's fetch: code, address (R216)
  nextId : Nat := 0                    -- program order of the next instruction to issue
  rbuf : List (Nat × (List Byte × Bool)) := []   -- bytes a remote read brought, by address (R204)
  doneAhead : List Nat := []          -- addresses of privileged prefetches already issued (R178)
  window : List Issued := []
  wait : Wait := .none
  keyBase : Nat := 0                  -- session fields with no register (R110)
  keyStride : Nat := 0
  sumSat : Bool := false               -- an INT32 sum of the session saturated
  stall : Nat := 0                    -- ticks since the last progress (R236)
  abortCode : Nat := 0                -- code that ABORTING will leave (R188)
  abortId : Nat := 0                  -- program order of that fault
  abortPc : Nat := 0
  abortSince : Nat := 0
  saving : Bool := false               -- a PREEMPT was accepted (R185)
  stopped : Bool := false             -- SAVING: engines at their stop points, image being written (R185)
  born : Nat := 0                     -- which of the tasks created here it is (R233)
  deriving DecidableEq, Repr

/-- Gravity parameters taken at issue (R163). -/
structure GvCopy where
  ctrl : Word := 0
  theta : Word := 0
  check : Word := 0
  dest : Word := 0
  mask0 : Word := 0
  mask1 : Word := 0
  deriving DecidableEq, Repr

/-- Where an operand element comes from: an absent tile or unkept index (+0), the stream's fill value, or element
`n` of the value stream. -/
inductive Src where
  | zero | fill | el (n : Nat)
  deriving DecidableEq, Repr

/-- A list of reduction indices dealt in row segments of `seg` entries (R85 to R88): `none` is dealer fill. -/
structure Lane where
  seg : Nat := 0
  idx : List (Option Nat) := []
  deriving DecidableEq, Repr

/-- TOLERANT counts of an instruction's present attempt (R83). -/
structure Tol where
  order : Nat := 0
  overfull : Nat := 0
  range : Nat := 0
  deriving DecidableEq, Repr

/-- One column group (tile) of an array instruction (R66). -/
structure Tile where
  tag : Nat := 0
  k : Nat := 0
  baseTr : Nat := 0
  descA : Nat := 0
  descB : Nat := 0
  descW : Nat := 0
  rowLimit : Nat := 0
  dA : List (BitVec 512) := []         -- descriptor copies: values, metadata, third stream
  dB : List (BitVec 512) := []
  dW : BitVec 512 := 0
  lanes : List Lane := []
  laneKind : Nat := 0                  -- 0 by quarter, 1 by column, 2 by column × 16 + position
  per : Nat := 1                       -- entries of a step
  steps : Nat := 0
  aMap : List (Nat × List (Nat × Nat)) := []   -- by quarter or column: tile or index, stored tile or element
  bMap : List (Nat × List (Nat × Nat)) := []   -- by tile row or position
  aScale : List (Nat × Nat) := []      -- scale bytes by scale index
  bScale : List (Nat × Nat) := []
  feedA : List (Nat × Nat) := []       -- delivered elements
  feedB : List (Nat × Nat) := []
  tol : Tol := {}
  gone : Bool := false                 -- discarded by a fault of its tag (R77)
  run : Bool := true                   -- takes part in the present pass
  passed : Bool := false
  attempt : Nat := 1
  suspect : Option Nat := none         -- single suspect row of the attempt before
  mapped : Bool := false               -- step 4 of Table 6 acted for this tile
  logRow : Nat := 0                    -- what AY_CK_LOG will show of the last mismatch
  logQ : Nat := 0
  logCol : Option Nat := none
  deriving DecidableEq, Repr

/-- Progress of an array instruction. -/
inductive ArrPhase where
  | queued | regionWait | read | inArray | checking | draining
  deriving DecidableEq, Repr

/-- An array instruction from its issue to its completion. -/
structure ArrInstr where
  id : Nat
  tag : Nat
  pc : Nat
  seq : Nat := 0                       -- order of issue in the chamber
  word : BitVec 128
  gv : GvCopy := {}
  tiles : List Tile := []
  phase : ArrPhase := .queued
  again : Bool := false                -- a repeat: its carry snapshot stands (R100)
  waited : Bool := false               -- counted in LT_SPARGE_WAIT
  miss : Option Bool := none           -- MISS_NOW as read (R163)
  regs : Option (Word × Word) := none  -- AY_CTRL and AY_SPARE as they stood when its attempt's first step issued (R59, R75, R80)
  reading : Bool := false              -- the Lauter has begun to read it (R96)
  step : Nat := 0
  steps : Nat := 0                     -- J
  unitsA : List Nat := []              -- credit units its read starts have taken (R231)
  unitsB : List Nat := []
  held : List (Nat × Nat) := []        -- credit units its metadata took (R231): stream, unit
  gave : Bool := false                 -- a PRODUCER's units of its metadata are given
  starved : Option (Nat × Nat) := none -- its turn among those waiting on the credit counter that its metadata needs, the counter
  keep : Bool := false                 -- a selecting drain whose keep word is on its way (R154)
  deriving DecidableEq, Repr

/-- A cell of a slot: its accumulator, the block sum in formation with its block number, its count of terms. -/
structure CellV where
  acc : Acc := ⟨0, 0⟩
  blk : Option (Nat × Num) := none
  terms : Nat := 0
  deriving DecidableEq, Repr

/-- The values of a slot (R97): cells by row × 64 + column; check and magnitude sums, rows by row × 4 + quarter
and columns by 64 + column; saturation marks (R73); r and n by column group. -/
structure SlotVals where
  cells : List (Nat × CellV) := []
  chk : List (Nat × (Num × Num)) := []
  satRow : List Nat := []
  satCol : List Nat := []
  r : List Nat := [0, 0, 0, 0]
  n : List Nat := [0, 0, 0, 0]
  sat : List Nat := []                 -- column groups in which an INT32 accumulation saturated
  formed : List Nat := [0, 0, 0, 0]    -- a carry snapshot's r when its values were formed, by column group (R31)
  deriving DecidableEq, Repr

/-- What one accumulation group is: the tag of the task that issued it, its modes, its column groups' tags (R98, R99). -/
structure AccGroup where
  tag : Nat := 0
  mode : Nat := 0
  groups : Nat := 0
  pack : Nat := 0
  acc : Bool := false
  paired : Bool := false
  int : Bool := false
  tags : List Nat := []
  deriving DecidableEq, Repr

/-- An accumulator slot: the group last opened on it, which may still wait for an earlier one to drain (R99), the group whose
values it holds, those values and their carry snapshot as it was formed (R31, R100). -/
structure Slot where
  last : AccGroup := {}
  occ : AccGroup := {}
  cur : SlotVals := {}
  snap : SlotVals := {}
  due : List (Nat × Tol) := []         -- TOLERANT counts of its held instructions, by tag, added when it drains (R83)
  reads : List (List (Nat × Nat)) := []   -- the operand footprints of its held instructions (R92)
  deriving DecidableEq, Repr

/-- A list instruction in the Lauter's queue (MERGE, SCATTER_IN, SUMP_DRAIN). -/
structure ListInstr where
  id : Nat
  tag : Nat
  pc : Nat
  seq : Nat := 0
  word : BitVec 128
  dA : BitVec 512 := 0                 -- descriptor copies
  dB : BitVec 512 := 0
  feedA : List (Nat × Nat) := []       -- delivered elements
  feedB : List (Nat × Nat) := []
  tol : Tol := {}                      -- added when it is complete (R83)
  waited : Bool := false
  unitsA : List Nat := []              -- credit units its read starts have taken (R231)
  unitsB : List Nat := []
  done : Bool := false                 -- every entry is handed on; the last is not yet written or accepted
  deriving DecidableEq, Repr

/-- A sump entry (R109). -/
structure SumpEntry where
  key : BitVec 32
  value : BitVec 32
  tag : Nat
  age : Nat
  deriving DecidableEq, Repr

/-- An update on its way to the sump; `own` and `id` are its producer's issuing tag and place in program order. -/
structure Upd where
  key : Nat
  value : BitVec 32
  tag : Nat
  id : Nat
  own : Nat
  drain : Bool := false                -- from Flowstone or a drain: R111 takes SP_KEY_RANGE
  deriving DecidableEq, Repr

/-- A spill run being written (R113). -/
structure Run where
  tag : Nat
  index : Nat
  deriving DecidableEq, Repr

/-- A sump drain in progress (R114). -/
structure SumpDrain where
  id : Nat
  tag : Nat
  runs : Nat                           -- runs left to merge
  half : Nat := 0                      -- half of the region they lie in
  size : Nat := 1                      -- run slots of each
  total : Nat := 0                     -- run slots that the flushed runs fill
  other : Nat := 0                     -- run slots of half 1 that the first pass has written
  closed : Option (Nat × Bool) := none -- merged: entries produced, a NaN among those being written
  deriving DecidableEq, Repr

/-- A chain instruction (R120): queued, or running with its entry and references as read at its start. -/
structure Chain where
  id : Nat
  tag : Nat
  pc : Nat
  word : BitVec 128
  running : Bool := false
  row : Nat := 0
  header : Word := 0
  stages : List Word := []
  perm : List Nat := []                -- PERMUTE table: source lane, bit 6 set for +0
  refs : List (Word × Word) := []      -- X, Y, Z, OUT, MASK, RED
  pages : List (Nat × Nat) := []       -- virtual 64 KiB page, physical page
  parked : Bool := false               -- preemption has stopped it at a row boundary (R147)
  wrote : List (Nat × Nat) := []       -- physical ranges that it has stored to
  deriving DecidableEq, Repr

/-- A GV_JOIN waiting on its region (R162). -/
structure GvJoin where
  id : Nat
  tag : Nat
  word : BitVec 128
  gv : GvCopy
  deriving DecidableEq, Repr

/-- What a start does (R228). -/
inductive StartKind where
  | group (operand : Nat)              -- operand A or B of an instruction
  | copyRead | copyWrite
  | send
  | fill
  | sink                               -- DESC_W or a list destination
  | receive
  | internal                           -- a spill run, a keep word or a miss word (R220)
  deriving DecidableEq, Repr

/-- One transfer of a start (R221): the elements it covers, its address, what it still waits for. -/
structure Transfer where
  no : Nat
  els : List Nat
  va : Nat
  len : Nat
  pa : Option Nat := none
  pa2 : Nat := 0                       -- where the page after its first one lies, if its last element runs over into it
  leaf : Nat := 0
  vals : List (Nat × Bool) := []       -- a write: the patterns of its elements and their poison
  tags : List Nat := []                -- Gallery requests that await their responses
  runs : List (Nat × List Byte × Bool) := []   -- WRITE frames still to send: address, bytes, poison
  got : List (Nat × (List Byte × Bool)) := []  -- bytes that responses brought, by address
  lines : List Nat := []               -- tun lines not yet present
  missed : List Nat := []              -- tun lines that were absent when it was translated
  part : List Nat := []                -- bytes of a remote page of which a write covers some bits, still to be read (R205)
  route : List (Nat × Nat) := []       -- arbiters it needs, with its input there
  deriving DecidableEq, Repr

/-- A start (R226): the descriptor as copied at acceptance, its progress, the credit units it holds. -/
structure Start where
  kind : StartKind
  id : Nat
  tag : Nat
  desc : Nat
  priv : Bool := false
  d : BitVec 512 := 0
  next : Nat := 0                      -- next element in iteration order
  todo : List Nat := []                -- elements a group has still to read, or a sink to write
  units : List Nat := []               -- credit units taken
  given : List Nat := []               -- credit units returned
  begun : Bool := true                 -- false: a send before its multicast runs, a receiver not armed, a move whose
                                       -- source is not wholly read, a sink before its producer delivers
  reverse : Bool := false
  src : BitVec 512 := 0                -- a copy's write side: the source descriptor
  reng : Nat := 0                      -- a copy's write side: its read engine
  buf : List (Nat × (Nat × Bool)) := []  -- elements read for a copy or send, or delivered to a sink
  out : List Transfer := []
  read : Nat := 0                      -- elements delivered
  creditSince : Option Nat := none     -- its turn among the starts waiting on a credit counter
  creditOn : Nat := 0                  -- that counter
  again : Bool := false                -- a group restarted for a further attempt: its copies stand (R227)
  held : Bool := false                 -- its next transfer reads a region still to be filled (R233)
  deriving DecidableEq, Repr

/-- Where a start stands in its engine. -/
inductive SlotPos where
  | active | pending | internal
  deriving DecidableEq, Repr

/-- A stream engine (R220): its two slots, its internal starts in order of arrival, its issue queue. -/
structure Engine where
  active : Option Start := none
  pending : Option Start := none
  internal : List Start := []
  queue : List Start := []
  nextNo : Nat := 0
  deriving DecidableEq, Repr

/-- A sparge region's receiver (R233): its descriptor, its element count, its footprint, what is on its way. -/
structure Region where
  d : BitVec 512 := 0
  count : Nat := 0
  foot : List (Nat × Nat) := []        -- physical address, length
  pages : List (Nat × Nat) := []       -- virtual 64 KiB page, physical page
  xlat : Nat := 0
  id : Nat := 0
  priv : Bool := false
  inq : List (Nat × (Nat × Bool)) := []  -- elements on their way, each with its multicast's number
  mc : Option Nat := none              -- the multicast that fills it
  turn : Option Nat := none            -- its turn among those waiting on the credit counter that its next unit needs (R231)
  got : Nat := 0                       -- elements received
  born : Nat := 0                      -- the arming task's `born`
  units : List Nat := []               -- credit units taken (R231)
  deriving DecidableEq, Repr

/-- A request at an arbiter: its input, its fixed priority or its task's, what it is for. -/
structure ArbReq where
  input : Nat
  prio : Option Nat
  ch : Option Nat
  tag : Nat
  eng : Nat
  no : Nat
  since : Nat
  moved : Bool := false                -- its data phase here is over; it waits for its other resources
  deriving DecidableEq, Repr

/-- An arbiter (R237 to R242). -/
structure Arb where
  reqs : List ArbReq := []
  holder : Option Nat := none
  winner : Option Nat := none
  recent : List Nat := []              -- inputs by grant, least recent first
  lastMove : Nat := 0
  forced : Option Nat := none          -- a forced release is open since
  deriving DecidableEq, Repr

/-- What a chamber holds beside its registers. -/
structure Chamber where
  turn : Nat := 0                      -- turns given to starts that wait on credit
  issues : Nat := 0                    -- instructions issued
  tasks : List (Nat × Task) := []
  lastIssue : List Nat := [0, 1, 2, 3] -- tags, least recent issue first (R173)
  arr : List ArrInstr := []            -- in issue order
  slots : List (Nat × Slot) := []
  lists : List ListInstr := []
  drainSeq : Nat := 0
  sump : List (Nat × List (Nat × SumpEntry)) := []   -- by set, then way
  updQ : List Upd := []
  spill : List SumpEntry := []         -- the spill buffer, at most 64
  runs : List Run := []                -- runs being written
  seed : Nat := 0                      -- hash seed in force (R117)
  sumpDrain : Option SumpDrain := none
  chains : List Chain := []
  joins : List GvJoin := []            -- GV_JOIN and GV_CHECK instructions that wait, in order
  checks : List (Nat × Nat × Nat × Nat) := []   -- GV_CHECKs whose miss word is being written: tag, id, compared, missed
  births : Nat := 0                    -- tasks created here
  engines : List (Nat × Engine) := []
  regions : List (Nat × Region) := []
  tlb : List (Nat × Nat) := []         -- translation entries: context and page, leaf word (R202)
  rowMap : List (Nat × Nat) := []      -- retired row (tier × 4096 + row) to spare number (R213)
  rowCount : List (Nat × Nat) := []    -- corrected codewords by row, pocket rows from 2^16 up (R211)
  retiring : List Nat := []            -- cellar rows being copied to a spare
  resumeImg : List (Nat × Nat) := []   -- by tag being restored: the key of its save image
  deriving DecidableEq, Repr

end Sys2Proof.Machine
end

