-- ==== Sys2Proof/Machine/Fabric.lean ====
section
/-! DEFINITION. What the Gallery holds beside its registers (R261 to R283): ports, frames on their way,
outstanding transactions, the membership view and the time exchange. -/

namespace Sys2Proof.Machine

/-- What a Gallery transaction was sent for (R272). -/
inductive TxnFor where
  | transfer (n e no va : Nat)
  | instr (n t va : Nat)
  | step (ticket : Nat)
  | message
  deriving DecidableEq, Repr

/-- A request that awaits its RESPONSE. -/
structure Txn where
  tag : Nat
  type : Nat
  dest : Nat
  for_ : TxnFor
  since : Nat
  deriving DecidableEq, Repr

/-- One Gallery port (R266 to R274). -/
structure GPortSt where
  sendSeq : Nat := 0
  expect : Nat := 0
  lost : Bool := false                 -- discarding until the expected frame arrives
  replay : List GFrame := []           -- sent and not acknowledged
  credits : List Nat := [0, 0, 0, 0]
  ret : List Nat := [0, 0, 0, 0]       -- units due back to the neighbour
  ackDue : Bool := false
  nakDue : Bool := false
  nakSeq : Nat := 4096
  nakCount : Nat := 0
  txq : List (GFrame × Option Nat) := []   -- waiting frames, each with the port whose receive buffer holds it (R266)
  got : Bool := false                  -- a frame was received in order since UP
  zeroSince : List (Option Nat) := [none, none, none, none]
  lastRx : Nat := 0
  lastTx : Nat := 0
  lastHello : Option Nat := none
  trainSince : Option Nat := none
  downAt : List Nat := []              -- ticks of the DOWNs that count as flaps
  upSince : Nat := 0
  holdUntil : Nat := 0
  checkedAt : Nat := 0
  units : List Nat := [0, 0, 0, 0]     -- the neighbour's buffer units from its HELLO
  pdT1 : Option Nat := none
  delay : Int := 0                     -- link delay in picoseconds
  deriving DecidableEq, Repr

/-- An open change to the view (R281). -/
structure Change where
  kind : Nat
  epoch : Nat
  addrs : List Nat
  whole : List Nat                     -- whole groups
  weight : Nat := 0
  acked : List Nat := []
  since : Nat := 0
  retry : Bool := false
  proposer : Nat := 0
  deriving DecidableEq, Repr

/-- The Gallery. -/
structure Gallery where
  ports : List (Nat × GPortSt) := []
  out : List (Nat × GFrame) := []      -- frames put on the links, by port, oldest first
  rx : List (Nat × GFrame × Nat) := []     -- frames delivered locally and not yet served, with the timebase at their arrival
  txns : List Txn := []
  nextTag : Nat := 0
  galleryId : Nat := 0                 -- from the recipe
  topoGen : Nat := 0
  weights : List (Nat × Nat) := []     -- every module of the Gallery: address, weight
  view : List Nat := []
  heard : List (Nat × Nat) := []       -- module, tick of its last heartbeat
  locked : List Nat := []              -- modules whose PPS is known locked
  beaconAt : Nat := 0
  acked : Option (Nat × Nat) := none   -- epoch and proposer acknowledged
  change : Option Change := none       -- the leader's open change
  seenChange : Option Change := none   -- the proposal acknowledged
  asks : List (Nat × Nat) := []        -- changes waiting: kind, address
  joined : Bool := false
  syncAt : Nat := 0
  passHeard : Nat := 0                 -- tick of the last passage heartbeat
  lastProbe : Nat := 0
  slewDebt : Nat := 0                  -- ticks for which the count is held before serving (R381)
  slew : Int := 0                      -- ticks that the timebase has still to slew, forward or back (R278)
  slewAcc : Nat := 0                   -- millionths of a tick of slew gathered
  freqAcc : Int := 0                   -- 10⁻¹² of a tick of frequency correction gathered (R380)
  failedTo : List Nat := []            -- destinations to which a WRITE or MSG failed, looked at by the next tick (R283)
  ackSum : Option (Nat × Nat × List Nat) := none   -- an aggregator's epoch, weight not passed on, members acknowledged (R280)
  leaving : Bool := false
  answered : Bool := false             -- a FROZEN module has answered a BEACON of a higher EPOCH with JOIN (R282)
  joins : List (Nat × Nat) := []       -- JOINs passed on to the leader: address, port they came by (R281)
  lost : List Nat := []                -- requests served here whose data phase was discarded: SRC × 2^16 + TAG (R242)
  deriving DecidableEq, Repr

end Sys2Proof.Machine
end

