-- ==== Sys2Proof/Machine/Mgmt.lean ====
section
/-! DEFINITION. What the dispatcher, Sirdy, the cask, the Lantern's service functions and the standby controller hold beside
their registers. -/

namespace Sys2Proof.Machine

/-! ### The dispatcher and requests (R250 to R259, R290 to R295) -/

/-- A running request at the entry module. -/
structure Req where
  id : Nat
  port : Nat
  tag : Nat
  cls : Nat
  maxNew : Nat
  stop0 : Nat
  stop1 : Nat
  seed : Word
  prompt : List Nat
  kv : Nat
  pos : Nat := 0                       -- position its next step begins at
  sent : Nat := 0                      -- prompt positions issued
  next : List Nat := []                -- tokens of its next step: the last sampled one, then drafts
  upTime : Nat := 0
  ready : Bool := true                 -- a step may be issued
  delivered : Nat := 0
  held : Nat := 0                      -- ids in TOK records not yet sent
  cancelled : Bool := false
  deriving DecidableEq, Repr

/-- An open submission. -/
structure Sub where
  port : Nat
  tag : Nat
  block : List Byte
  ids : List Nat
  since : Nat
  deriving DecidableEq, Repr

/-- A TOK record (R293, Table 8). -/
structure TokRec where
  port : Nat
  kind : Nat
  reason : Nat
  fault : Nat
  req : Nat
  tag : Nat
  step : Nat
  time : Nat
  ids : List Nat
  since : Nat
  deriving DecidableEq, Repr

/-- The request dispatcher: headers lying in inbox slots, slots queued in order of arrival, the step chosen, the step
running with the END_BAR count that ends it, the PREFILL steps preempted. -/
structure Disp where
  inbox : List (Nat × List Word) := []  -- in order of arrival
  arrived : List (Nat × Nat) := []     -- when the header of a slot arrived (R254)
  queue : List (Nat × List Word) := []
  chosen : Option (Nat × List Word) := none
  prepared : Bool := false
  running : Option (Nat × List Word) := none
  target : Nat := 0
  paused : List ((Nat × List Word) × Nat) := []   -- PREFILL steps preempted, the last first, with their targets
  late : Nat := 0
  renew : List Bool := []              -- step tasks to be released and created again: those of PREFILL steps, the others
  leftover : List (Nat × Nat) := []    -- chamber and tag of aborted tasks that the recipe in force may not have
  idMsgs : List (Nat × List Byte) := []    -- token id messages that have arrived, by ticket
  embeds : List (Nat × List Nat) := [] -- entry module: token ids of the step in a slot
  tickets : List (Nat × (Nat × Nat)) := [] -- ticket, request, the most ids that the step returns
  reqs : List Req := []
  stale : List Nat := []               -- tickets freed while their step was still in the passage
  drafts : List (Nat × List Nat) := [] -- last module: by request the drafts that it last returned (R258)
  subs : List Sub := []
  nextReq : Nat := 0
  toks : List TokRec := []
  deriving DecidableEq, Repr

/-! ### Sirdy (R285 to R302) -/

/-- One Sirdy port. -/
structure SPortSt where
  sendSeq : Nat := 0
  expect : Nat := 0
  lost : Bool := false
  replay : List SFrame := []
  credits : List Nat := [0, 0, 0, 0, 0]
  ret : List Nat := [0, 0, 0, 0, 0]
  ackDue : Bool := false
  nakDue : Bool := false
  nakSeq : Nat := 4096
  nakCount : Nat := 0
  txq : List SFrame := []
  zeroSince : List (Option Nat) := [none, none, none, none, none]
  got : Bool := false                  -- a frame was received in order since UP
  slow : Bool := false                 -- training is tried every 1 s (R289, step 6)
  lastRx : Nat := 0
  lastTx : Nat := 0
  lastHello : Nat := 0
  trainAt : Nat := 0                   -- when training starts
  limit : Nat := 8                     -- RETRY_LIMIT and CREDIT_STALL as they stood at UP (R302)
  stall : Nat := 10
  deriving DecidableEq, Repr

/-- The Sirdy link: frames put on the ports, frames accepted and not yet served. -/
structure Sirdy where
  ports : List (Nat × SPortSt) := []
  out : List (Nat × SFrame) := []
  rx : List (Nat × SFrame) := []
  deriving DecidableEq, Repr

/-! ### The cask (R303 to R313) -/

/-- One NAND block: the sector tags of what it holds, one map unit after another in page order, each with its write sequence (R305); erase
count, page reads since its erase, the tick its data was written. -/
structure NBlock where
  units : List (Nat × Nat) := []
  erases : Nat := 0
  reads : Nat := 0
  wrote : Nat := 0
  retired : Bool := false
  factory : Bool := false
  deriving DecidableEq, Repr

/-- A directory entry with its object (R312, R313): first map unit, bytes, flags; the write sequence of its first map unit, and the
sectors of it that are lost (R310). -/
structure CObj where
  start : Nat
  bytes : List Byte
  damaged : Bool := false
  active : Bool := false
  seq : Nat := 0
  lost : List Nat := []
  deriving DecidableEq, Repr

/-- One copy of the directory (R313): its generation, and its entries by kind × 16 + slot (Table 4 kinds). -/
structure DirCopy where
  gen : Nat := 0
  objs : List (Nat × CObj) := []
  deriving DecidableEq, Repr

/-- The cask: blocks by (die × 4 + plane) × 1,656 + block; the directory in use, and its two copies. -/
structure Cask where
  blocks : List (Nat × NBlock) := []
  opened : Option Nat := none          -- block being written
  objs : List (Nat × CObj) := []
  dirGen : Nat := 0
  copyA : DirCopy := {}
  copyB : DirCopy := {}
  map : List (Nat × Nat) := []         -- map units, the write sequence of what counts of each (R306)
  seq : Nat := 0                       -- the last write sequence given
  saved : List (Nat × Nat) := []       -- the map as last written to the cask
  savedSeq : Nat := 0                  -- the last write sequence then
  inited : Bool := false               -- the defect map of the first initialisation has been recorded (R310)
  patrolAt : Option (Nat × Nat) := none    -- block and page the patrol pass has read last
  passAt : Nat := 0                    -- when the pass began, in ticks with power-good
  noAnswer : List Nat := []            -- dies that do not answer
  fill : Nat := 0                      -- bytes read and written, below a megabyte
  fillW : Nat := 0
  ticks : Nat := 0                     -- reference ticks with power-good
  due : List Nat := []                 -- map units of the logs that have grown and are not yet written
  deriving DecidableEq, Repr

/-! ### Power and slow inputs (R364 to R381) -/

/-- The standby controller and the power manager. -/
structure Power where
  on : Bool := true                    -- turned on
  rails : List Bool := [true, true, true, true, true]   -- AUX, IO, G7, CORE-A, CORE-B inside their windows
  ramp : List (Nat × Nat) := []        -- rail ramping, since
  readyAt : Nat := 0                   -- power-good may rise
  good : Bool := false                 -- power-good
  goodAt : Nat := 0
  retries : Nat := 0                   -- restarts after a sequencing failure
  restartAt : Option Nat := none
  faultAt : Option Nat := none         -- the last rail fault
  tripAt : Option Nat := none          -- the last thermal trip
  tripped : Bool := false              -- off by a thermal trip
  latched : Bool := false
  ovr : Bool := false                 -- off by an overvoltage
  seqFail : Bool := false              -- a sequencing failure stands
  rated : List Nat := []               -- dies whose rate has been measured since power-good
  left : Bool := false                 -- left the Gallery and switched off (AOUT code 32)
  target : Nat := 3                    -- target pace in force
  capAt : Option Nat := none           -- the pace is held below the target by the limit since
  capEvt : Bool := false               -- the start of cause 1 was raised
  lowAt : Option Nat := none           -- the average has been at or below 0.9 P_lim since
  fastAt : Option Nat := none          -- the fast limit acted
  temps : List (Nat × Nat) := []       -- by sensor: 0 to 2 dies, 3 converter, 16 + device
  hot : List Nat := []                 -- sensors that throttle
  extRaw : Bool := true                -- filtered level of EXT_LIMIT_N
  extFirst : Nat := 0                  -- the first sample of that level
  extNew : Bool := false               -- that change has not been taken up yet
  extAt : Option Nat := none           -- its last accepted event
  extWait : Option Bool := none        -- a deferred change
  held : Bool := false                 -- RESET_N was accepted low
  ppsRise : Option Nat := none         -- a rising edge not yet taken, its first sample
  ppsEdge : Option Nat := none         -- the last accepted edge
  ppsChange : Nat := 0                 -- the last accepted change of PPS_IN's level
  ppsOk : Nat := 0                     -- intervals in tolerance in a row
  deriving DecidableEq, Repr

/-! ### Security and service (R327 to R363) -/

/-- One of the three copies of the fuses (R330): a bit per slot in `valid` and `revoked`, the blown fuses of FW_FLOOR, ORDERING, the
slots' digests. -/
structure FuseCopy where
  valid : Nat := 1
  revoked : Nat := 0
  floor : Nat := 0
  ordering : Nat := 0
  digests : List Nat := [0, 0, 0, 0]
  deriving DecidableEq, Repr

/-- The fuses of the security block: the three copies (R330), the helper data of the identity key (R334). -/
structure Fuses where
  a : FuseCopy := {}
  b : FuseCopy := {}
  c : FuseCopy := {}
  helper : List Byte := []
  deriving DecidableEq, Repr

/-- A reply to a command: session, what was printed, byte output, error code (0 OK). -/
structure Reply where
  toA : Session
  vals : List Word
  data : List Byte
  code : Nat
  deriving DecidableEq, Repr

/-- An open transfer (R344). -/
structure Xfer where
  by_ : Session
  kind : ObjKind
  slot : Nat
  total : Nat
  got : List Byte
  full : Bool := false                 -- complete, to be stored
  byHex : Bool := false                -- the last byte came by a hex command
  deriving DecidableEq, Repr

/-- A change that waits (R341): kind of LN_CHANGE, target; `by_` is of no account for a fence (kind 1), which `fenceBy` names. -/
structure ChangeReq where
  by_ : Session
  kind : Nat
  target : Nat
  deriving DecidableEq, Repr

/-- The Lantern's service functions and the security block. -/
structure Svc where
  change : Nat := 0                    -- kind of the change of R341 that runs, 0 none
  changeOf : Session := .uart
  changeReq : Option ChangeReq := none     -- that change while the dispatcher still runs its step
  waiting : List ChangeReq := []       -- in order of arrival
  fenceBy : List (Nat × Session) := [] -- fences that a command asked for
  fencing : Option Nat := none         -- the chamber being replaced
  spare : Option Nat := none           -- the spare brought in, its mapping moved
  place : List (Nat × Nat) := []       -- a recipe's chamber, the spare that stands for it
  wedges : List (Nat × Nat) := []      -- functions found wedged: resource, index
  told : List Nat := []                -- arbiters of whose bite the Lantern was told, the owner of no task, until they are free (R242)
  noSpare : Bool := false              -- no spare chamber left
  failAll : Bool := false              -- every step received fails
  recipe : Option (Nat × List Byte) := none    -- running recipe: slot, image
  model : Option (Nat × List Byte) := none
  firmware : List Byte := []
  hostFw : List Byte := []             -- bytes written to LN_HOSTBOOT
  tableAt : Nat := 0                   -- where the next translation table goes
  staged : Option (Nat × List Byte × Nat × List Byte) := none  -- recipe slot and image, model slot and image
  stageAt : List Nat := []             -- G7 regions of the staging space
  staging : Option (Nat × Option Session) := none
  switch : Option (Bool × Bool) := none        -- KEEP; the entry module has switched
  switchOf : Session := .uart
  heldProbe : Option (List Byte) := none
  xfer : Option Xfer := none
  endDue : Bool := false               -- a transfer's bytes are all in, its END item not yet
  mboxWait : List Word := []           -- items of an output that wait for room in the outbound mailbox
  fuseBuf : List Byte := []
  fuseBusy : Option (List Byte) := none    -- message of the fuse command accepted and being carried out
  fuseTo : Session := .uart
  fuseBad : List Nat := []             -- slots whose programming failed
  attests : List (Session × BitVec 256) := []
  reports : Nat := 0
  test : Option (Session × Nat × Option Nat × Bool) := none  -- the self-test running: session, block, chamber, forced
  testPace : Nat := 3                  -- its pace, and the steps away from it since it began (R367)
  testSteps : Nat := 0
  tested : Option Nat := none          -- AOUT code of the last self-test
  untested : List Nat := []            -- chambers that failed their last self-test
  recals : List Nat := []              -- G7 channels still to retrain
  recalBad : Bool := false             -- a channel failed to retrain
  recalAt : Nat := 0                   -- when the channel's retraining began
  portRecal : List (Bool × Nat) := []  -- ports that a recal command retrains: Sirdy, number
  leaveAt : Option Nat := none
  leaveOf : Session := .uart
  fwTo : Option (Session × Nat × List Byte × Nat) := none  -- hand-over: slot, image, since
  replies : List Reply := []
  uartBuf : List Byte := []            -- line being typed
  uartBad : Bool := false
  echo : List Byte := []
  consBuf : List Byte := []
  consBad : Bool := false
  lines : List (Session × List Byte) := []     -- lines submitted and not yet run
  mgmtTag : List (Nat × Nat) := []     -- port and TAG of MGMT commands not yet answered
  aoutMv : Nat := 0                    -- last level of the quantity shown
  deriving DecidableEq, Repr

end Sys2Proof.Machine
end

