-- ==== Sys2Proof/Machine/Regs.lean ====
section
/-! DEFINITION. Every register of the control space (R384 to R386): its address, its fields, their access codes (R7,
Table 3) and their reset values. A register that the spec lists per chamber takes the chamber number first; one
that the spec lists per tag, port or entry takes that index next. The four AB_ registers of a chamber's window
are named ABC_, a chamber's counters PCC_, those of the Y4X PCX_. A field whose reset value the spec gives as
strap, fuse, kept or random is 0 in the table here, but for the VALID bit of the signing key slot 0, which
Colmel fuses at manufacture (R330): 1 (log entry 5). -/

namespace Sys2Proof.Machine

/-- Access codes (R7, Table 3). -/
inductive Access where
  | ro | rw | w1c | rc | wo
  deriving DecidableEq, Repr

/-- A field with its access code and its value after a full module reset. -/
structure RegField where
  fld : Fld
  acc : Access
  reset : Nat
  deriving DecidableEq, Repr

/-- A row of a block's register table: first offset in its window, up to two index strides with their
counts, fields. -/
structure RegRow where
  name : String
  off : Nat
  s1 : Nat
  c1 : Nat
  s2 : Nat
  c2 : Nat
  fields : List RegField
  deriving DecidableEq, Repr

/-- Base of chamber `n`'s window (R385). -/
def chWin (n : Nat) : Nat := 0x002000000000 + n * 0x10000

/-- Base of Y4X block `k` (R386). -/
def y4xWin (k : Nat) : Nat := 0x003000000000 + k * 0x10000

/-! ### CH_ registers (R190) -/

def CH_CTRL (n : Nat) : Nat := chWin n + 0x0
def CH_CTRL.HOLD : Fld := ⟨0, 1⟩
def CH_STATUS (n : Nat) : Nat := chWin n + 0x8
def CH_STATUS.LAST_TAG : Fld := ⟨0, 2⟩
def CH_STATUS.FENCED : Fld := ⟨2, 1⟩
def CH_STATUS.ACTIVE : Fld := ⟨3, 4⟩
def CH_ROLE (n : Nat) : Nat := chWin n + 0x10
def CH_ROLE.ROLE : Fld := ⟨0, 3⟩
def CH_FAULT (n : Nat) : Nat := chWin n + 0x18
def CH_FAULT.CODE : Fld := ⟨0, 16⟩
def CH_FAULT.TAG : Fld := ⟨16, 2⟩
def CH_FAULT.LOST : Fld := ⟨18, 1⟩
def CH_FAULT_PC (n : Nat) : Nat := chWin n + 0x20
def CH_FAULT_PC.PC : Fld := ⟨0, 48⟩
def CH_BAR_BASE (n : Nat) : Nat := chWin n + 0x28
def CH_BAR_BASE.BASE : Fld := ⟨6, 42⟩
def CH_CREATE0 (n : Nat) : Nat := chWin n + 0x30
def CH_CREATE0.PC : Fld := ⟨0, 48⟩
def CH_CREATE0.PRIORITY : Fld := ⟨48, 3⟩
def CH_CREATE0.POLICY : Fld := ⟨51, 1⟩
def CH_CREATE0.TAG : Fld := ⟨52, 2⟩
def CH_CREATE1 (n : Nat) : Nat := chWin n + 0x38
def CH_CREATE1.SAVE_BASE : Fld := ⟨12, 36⟩
def CH_CREATE2 (n : Nat) : Nat := chWin n + 0x40
def CH_CREATE2.XLAT : Fld := ⟨0, 16⟩
def CH_TASK_CMD (n : Nat) : Nat := chWin n + 0x48
def CH_TASK_CMD.CMD : Fld := ⟨0, 3⟩
def CH_TASK_CMD.TAG : Fld := ⟨3, 2⟩
def CH_CMD_STATUS (n : Nat) : Nat := chWin n + 0x50
def CH_CMD_STATUS.VALID : Fld := ⟨0, 1⟩
def CH_CMD_STATUS.RESULT : Fld := ⟨1, 3⟩
def CH_TASK (n i : Nat) : Nat := chWin n + 0x80 + 0x8 * i
def CH_TASK.STATE : Fld := ⟨0, 3⟩
def CH_TASK.PRIORITY : Fld := ⟨3, 3⟩
def CH_TASK.POLICY : Fld := ⟨6, 1⟩
def CH_TASK.PREEMPT_PENDING : Fld := ⟨7, 1⟩
def CH_TASK.END_CODE : Fld := ⟨8, 16⟩
def CH_TASK.WINDOW : Fld := ⟨24, 5⟩
def CH_TASK_PC (n i : Nat) : Nat := chWin n + 0xA0 + 0x8 * i
def CH_TASK_PC.PC : Fld := ⟨0, 48⟩
def CH_TASK_SAVE (n i : Nat) : Nat := chWin n + 0xC0 + 0x8 * i
def CH_TASK_SAVE.SAVE_BASE : Fld := ⟨12, 36⟩
def CH_BOUND (n i j : Nat) : Nat := chWin n + 0x100 + 0x40 * i + 0x8 * j
def CH_BOUND.VALUE : Fld := ⟨0, 32⟩
def CH_PACK (n i j : Nat) : Nat := chWin n + 0x200 + 0x20 * i + 0x8 * j
def CH_PACK.K : Fld := ⟨0, 20⟩
def CH_PACK.BASE_TR : Fld := ⟨20, 16⟩
def CH_PACK.DESC_A : Fld := ⟨36, 5⟩
def CH_PACK.DESC_B : Fld := ⟨41, 5⟩
def CH_PACK.DESC_W : Fld := ⟨46, 5⟩
def CH_PACK.ROW_LIMIT : Fld := ⟨51, 12⟩
def CH_PACK.VALID : Fld := ⟨63, 1⟩
def CH_ISSUED (n : Nat) : Nat := chWin n + 0x300
def CH_ISSUED.COUNT : Fld := ⟨0, 32⟩
def CH_PREEMPTS (n : Nat) : Nat := chWin n + 0x308
def CH_PREEMPTS.COUNT : Fld := ⟨0, 32⟩

def rowsCH_0 : List RegRow := [
  ⟨"CH_CTRL", 0x0, 0x8, 1, 0x8, 1, [⟨CH_CTRL.HOLD, .rw, 1⟩]⟩,
  ⟨"CH_STATUS", 0x8, 0x8, 1, 0x8, 1, [⟨CH_STATUS.LAST_TAG, .ro, 0⟩, ⟨CH_STATUS.FENCED, .ro, 0⟩, ⟨CH_STATUS.ACTIVE, .ro, 0⟩]⟩,
  ⟨"CH_ROLE", 0x10, 0x8, 1, 0x8, 1, [⟨CH_ROLE.ROLE, .rw, 5⟩]⟩,
  ⟨"CH_FAULT", 0x18, 0x8, 1, 0x8, 1, [⟨CH_FAULT.CODE, .rc, 0⟩, ⟨CH_FAULT.TAG, .rc, 0⟩, ⟨CH_FAULT.LOST, .rc, 0⟩]⟩,
  ⟨"CH_FAULT_PC", 0x20, 0x8, 1, 0x8, 1, [⟨CH_FAULT_PC.PC, .rc, 0⟩]⟩,
  ⟨"CH_BAR_BASE", 0x28, 0x8, 1, 0x8, 1, [⟨CH_BAR_BASE.BASE, .rw, 0⟩]⟩,
  ⟨"CH_CREATE0", 0x30, 0x8, 1, 0x8, 1, [⟨CH_CREATE0.PC, .rw, 0⟩, ⟨CH_CREATE0.PRIORITY, .rw, 0⟩, ⟨CH_CREATE0.POLICY, .rw, 0⟩, ⟨CH_CREATE0.TAG, .rw, 0⟩]⟩,
  ⟨"CH_CREATE1", 0x38, 0x8, 1, 0x8, 1, [⟨CH_CREATE1.SAVE_BASE, .rw, 0⟩]⟩,
  ⟨"CH_CREATE2", 0x40, 0x8, 1, 0x8, 1, [⟨CH_CREATE2.XLAT, .rw, 0⟩]⟩,
  ⟨"CH_TASK_CMD", 0x48, 0x8, 1, 0x8, 1, [⟨CH_TASK_CMD.CMD, .wo, 0⟩, ⟨CH_TASK_CMD.TAG, .wo, 0⟩]⟩,
  ⟨"CH_CMD_STATUS", 0x50, 0x8, 1, 0x8, 1, [⟨CH_CMD_STATUS.VALID, .rc, 0⟩, ⟨CH_CMD_STATUS.RESULT, .rc, 0⟩]⟩,
  ⟨"CH_TASK", 0x80, 0x8, 4, 0x8, 1, [⟨CH_TASK.STATE, .ro, 0⟩, ⟨CH_TASK.PRIORITY, .rw, 0⟩, ⟨CH_TASK.POLICY, .ro, 0⟩, ⟨CH_TASK.PREEMPT_PENDING, .ro, 0⟩, ⟨CH_TASK.END_CODE, .ro, 0⟩, ⟨CH_TASK.WINDOW, .ro, 0⟩]⟩,
  ⟨"CH_TASK_PC", 0xA0, 0x8, 4, 0x8, 1, [⟨CH_TASK_PC.PC, .ro, 0⟩]⟩,
  ⟨"CH_TASK_SAVE", 0xC0, 0x8, 4, 0x8, 1, [⟨CH_TASK_SAVE.SAVE_BASE, .ro, 0⟩]⟩,
  ⟨"CH_BOUND", 0x100, 0x40, 4, 0x8, 8, [⟨CH_BOUND.VALUE, .rw, 0⟩]⟩,
  ⟨"CH_PACK", 0x200, 0x20, 8, 0x8, 4, [⟨CH_PACK.K, .rw, 0⟩, ⟨CH_PACK.BASE_TR, .rw, 0⟩, ⟨CH_PACK.DESC_A, .rw, 0⟩, ⟨CH_PACK.DESC_B, .rw, 0⟩, ⟨CH_PACK.DESC_W, .rw, 0⟩, ⟨CH_PACK.ROW_LIMIT, .rw, 0⟩, ⟨CH_PACK.VALID, .rw, 0⟩]⟩]

def rowsCH_1 : List RegRow := [
  ⟨"CH_ISSUED", 0x300, 0x8, 1, 0x8, 1, [⟨CH_ISSUED.COUNT, .rc, 0⟩]⟩,
  ⟨"CH_PREEMPTS", 0x308, 0x8, 1, 0x8, 1, [⟨CH_PREEMPTS.COUNT, .rc, 0⟩]⟩]

def rowsCH : List RegRow := rowsCH_0 ++ rowsCH_1

/-! ### AY_ registers (R80) -/

def AY_CTRL (n : Nat) : Nat := chWin n + 0x1000
def AY_CTRL.CK_MARGIN : Fld := ⟨0, 3⟩
def AY_STATUS (n : Nat) : Nat := chWin n + 0x1008
def AY_STATUS.BUSY : Fld := ⟨0, 1⟩
def AY_STATUS.SLOT0_FILLING : Fld := ⟨1, 1⟩
def AY_STATUS.SLOT1_FILLING : Fld := ⟨2, 1⟩
def AY_STATUS.CK_OPEN : Fld := ⟨3, 1⟩
def AY_STATUS.CK_ATTEMPT : Fld := ⟨4, 2⟩
def AY_STATUS.OVF_R : Fld := ⟨6, 2⟩
def AY_STATUS.Y3_FEED : Fld := ⟨8, 1⟩
def AY_STATUS.ARRAY_MODE : Fld := ⟨9, 2⟩
def AY_STATUS.GROUPS : Fld := ⟨11, 3⟩
def AY_STATUS.PACK : Fld := ⟨14, 2⟩
def AY_SPARE (n : Nat) : Nat := chWin n + 0x1010
def AY_SPARE.SPARE_USED : Fld := ⟨0, 1⟩
def AY_SPARE.SPARE_FOR : Fld := ⟨1, 4⟩
def AY_SPARE.SPARE_BAD : Fld := ⟨8, 1⟩
def AY_CK_LOG (n : Nat) : Nat := chWin n + 0x1018
def AY_CK_LOG.VALID : Fld := ⟨0, 1⟩
def AY_CK_LOG.ROW : Fld := ⟨1, 4⟩
def AY_CK_LOG.QUARTER : Fld := ⟨5, 2⟩
def AY_CK_LOG.COLUMN : Fld := ⟨7, 6⟩
def AY_CK_LOG.COL_VALID : Fld := ⟨13, 1⟩
def AY_CK_LOG.CAUSE : Fld := ⟨14, 3⟩
def AY_CK_LOG.TAG : Fld := ⟨17, 2⟩
def AY_CK_LOG.OVERWRITTEN : Fld := ⟨19, 1⟩
def AY_CK_MISMATCH (n : Nat) : Nat := chWin n + 0x1020
def AY_CK_MISMATCH.COUNT : Fld := ⟨0, 32⟩
def AY_CK_SKIP (n : Nat) : Nat := chWin n + 0x1028
def AY_CK_SKIP.COUNT : Fld := ⟨0, 32⟩
def AY_OVF_REPEAT (n : Nat) : Nat := chWin n + 0x1030
def AY_OVF_REPEAT.COUNT : Fld := ⟨0, 32⟩
def AY_FAULT (n : Nat) : Nat := chWin n + 0x1038
def AY_FAULT.CODE : Fld := ⟨0, 16⟩
def AY_FAULT.TAG : Fld := ⟨16, 2⟩
def AY_FAULT.LOST : Fld := ⟨18, 1⟩
def AY_Y3_QUEUE (n : Nat) : Nat := chWin n + 0x1040
def AY_Y3_QUEUE.PEAK : Fld := ⟨0, 5⟩

def rowsAY : List RegRow := [
  ⟨"AY_CTRL", 0x1000, 0x8, 1, 0x8, 1, [⟨AY_CTRL.CK_MARGIN, .rw, 1⟩]⟩,
  ⟨"AY_STATUS", 0x1008, 0x8, 1, 0x8, 1, [⟨AY_STATUS.BUSY, .ro, 0⟩, ⟨AY_STATUS.SLOT0_FILLING, .ro, 0⟩, ⟨AY_STATUS.SLOT1_FILLING, .ro, 0⟩, ⟨AY_STATUS.CK_OPEN, .ro, 0⟩, ⟨AY_STATUS.CK_ATTEMPT, .ro, 0⟩, ⟨AY_STATUS.OVF_R, .ro, 0⟩, ⟨AY_STATUS.Y3_FEED, .ro, 0⟩, ⟨AY_STATUS.ARRAY_MODE, .ro, 0⟩, ⟨AY_STATUS.GROUPS, .ro, 0⟩, ⟨AY_STATUS.PACK, .ro, 0⟩]⟩,
  ⟨"AY_SPARE", 0x1010, 0x8, 1, 0x8, 1, [⟨AY_SPARE.SPARE_USED, .rw, 0⟩, ⟨AY_SPARE.SPARE_FOR, .rw, 0⟩, ⟨AY_SPARE.SPARE_BAD, .rw, 0⟩]⟩,
  ⟨"AY_CK_LOG", 0x1018, 0x8, 1, 0x8, 1, [⟨AY_CK_LOG.VALID, .rc, 0⟩, ⟨AY_CK_LOG.ROW, .rc, 0⟩, ⟨AY_CK_LOG.QUARTER, .rc, 0⟩, ⟨AY_CK_LOG.COLUMN, .rc, 0⟩, ⟨AY_CK_LOG.COL_VALID, .rc, 0⟩, ⟨AY_CK_LOG.CAUSE, .rc, 0⟩, ⟨AY_CK_LOG.TAG, .rc, 0⟩, ⟨AY_CK_LOG.OVERWRITTEN, .rc, 0⟩]⟩,
  ⟨"AY_CK_MISMATCH", 0x1020, 0x8, 1, 0x8, 1, [⟨AY_CK_MISMATCH.COUNT, .rc, 0⟩]⟩,
  ⟨"AY_CK_SKIP", 0x1028, 0x8, 1, 0x8, 1, [⟨AY_CK_SKIP.COUNT, .rc, 0⟩]⟩,
  ⟨"AY_OVF_REPEAT", 0x1030, 0x8, 1, 0x8, 1, [⟨AY_OVF_REPEAT.COUNT, .rc, 0⟩]⟩,
  ⟨"AY_FAULT", 0x1038, 0x8, 1, 0x8, 1, [⟨AY_FAULT.CODE, .rc, 0⟩, ⟨AY_FAULT.TAG, .rc, 0⟩, ⟨AY_FAULT.LOST, .rc, 0⟩]⟩,
  ⟨"AY_Y3_QUEUE", 0x1040, 0x8, 1, 0x8, 1, [⟨AY_Y3_QUEUE.PEAK, .rc, 0⟩]⟩]

/-! ### LT_ registers (R96) -/

def LT_CTRL (n : Nat) : Nat := chWin n + 0x2000
def LT_CTRL.LOOKAHEAD : Fld := ⟨0, 1⟩
def LT_STATUS (n : Nat) : Nat := chWin n + 0x2008
def LT_STATUS.BUSY : Fld := ⟨0, 1⟩
def LT_STATUS.FORMAT_A : Fld := ⟨1, 4⟩
def LT_STATUS.FORMAT_B : Fld := ⟨5, 4⟩
def LT_STATUS.FEED_KIND : Fld := ⟨9, 2⟩
def LT_STATUS.WAIT : Fld := ⟨11, 2⟩
def LT_STATUS.TAG : Fld := ⟨13, 2⟩
def LT_FAULT (n : Nat) : Nat := chWin n + 0x2010
def LT_FAULT.CODE : Fld := ⟨0, 16⟩
def LT_FAULT.TAG : Fld := ⟨16, 2⟩
def LT_FAULT.OPERAND : Fld := ⟨18, 1⟩
def LT_FAULT.LOST : Fld := ⟨19, 1⟩
def LT_FAULT_LOC (n : Nat) : Nat := chWin n + 0x2018
def LT_FAULT_LOC.UNIT : Fld := ⟨0, 32⟩
def LT_FAULT_LOC.POSITION : Fld := ⟨32, 16⟩
def LT_FAULT_LOC.CHECK : Fld := ⟨48, 3⟩
def LT_FILL_STEPS (n : Nat) : Nat := chWin n + 0x2020
def LT_FILL_STEPS.COUNT : Fld := ⟨0, 32⟩
def LT_SKIPPED (n : Nat) : Nat := chWin n + 0x2028
def LT_SKIPPED.COUNT : Fld := ⟨0, 32⟩
def LT_SPARGE_WAIT (n : Nat) : Nat := chWin n + 0x2030
def LT_SPARGE_WAIT.COUNT : Fld := ⟨0, 32⟩
def LT_TOL_ORDER (n i : Nat) : Nat := chWin n + 0x2040 + 0x8 * i
def LT_TOL_ORDER.COUNT : Fld := ⟨0, 32⟩
def LT_TOL_OVERFULL (n i : Nat) : Nat := chWin n + 0x2060 + 0x8 * i
def LT_TOL_OVERFULL.COUNT : Fld := ⟨0, 32⟩
def LT_TOL_RANGE (n i : Nat) : Nat := chWin n + 0x2080 + 0x8 * i
def LT_TOL_RANGE.COUNT : Fld := ⟨0, 32⟩

def rowsLT : List RegRow := [
  ⟨"LT_CTRL", 0x2000, 0x8, 1, 0x8, 1, [⟨LT_CTRL.LOOKAHEAD, .rw, 1⟩]⟩,
  ⟨"LT_STATUS", 0x2008, 0x8, 1, 0x8, 1, [⟨LT_STATUS.BUSY, .ro, 0⟩, ⟨LT_STATUS.FORMAT_A, .ro, 0⟩, ⟨LT_STATUS.FORMAT_B, .ro, 0⟩, ⟨LT_STATUS.FEED_KIND, .ro, 0⟩, ⟨LT_STATUS.WAIT, .ro, 0⟩, ⟨LT_STATUS.TAG, .ro, 0⟩]⟩,
  ⟨"LT_FAULT", 0x2010, 0x8, 1, 0x8, 1, [⟨LT_FAULT.CODE, .rc, 0⟩, ⟨LT_FAULT.TAG, .rc, 0⟩, ⟨LT_FAULT.OPERAND, .rc, 0⟩, ⟨LT_FAULT.LOST, .rc, 0⟩]⟩,
  ⟨"LT_FAULT_LOC", 0x2018, 0x8, 1, 0x8, 1, [⟨LT_FAULT_LOC.UNIT, .rc, 0⟩, ⟨LT_FAULT_LOC.POSITION, .rc, 0⟩, ⟨LT_FAULT_LOC.CHECK, .rc, 0⟩]⟩,
  ⟨"LT_FILL_STEPS", 0x2020, 0x8, 1, 0x8, 1, [⟨LT_FILL_STEPS.COUNT, .rc, 0⟩]⟩,
  ⟨"LT_SKIPPED", 0x2028, 0x8, 1, 0x8, 1, [⟨LT_SKIPPED.COUNT, .rc, 0⟩]⟩,
  ⟨"LT_SPARGE_WAIT", 0x2030, 0x8, 1, 0x8, 1, [⟨LT_SPARGE_WAIT.COUNT, .rc, 0⟩]⟩,
  ⟨"LT_TOL_ORDER", 0x2040, 0x8, 4, 0x8, 1, [⟨LT_TOL_ORDER.COUNT, .rc, 0⟩]⟩,
  ⟨"LT_TOL_OVERFULL", 0x2060, 0x8, 4, 0x8, 1, [⟨LT_TOL_OVERFULL.COUNT, .rc, 0⟩]⟩,
  ⟨"LT_TOL_RANGE", 0x2080, 0x8, 4, 0x8, 1, [⟨LT_TOL_RANGE.COUNT, .rc, 0⟩]⟩]

/-! ### SP_ registers (R117) -/

def SP_CTRL (n : Nat) : Nat := chWin n + 0x3000
def SP_CTRL.HASH_SEED : Fld := ⟨0, 10⟩
def SP_STATUS (n : Nat) : Nat := chWin n + 0x3008
def SP_STATUS.SLOT0 : Fld := ⟨0, 3⟩
def SP_STATUS.SLOT1 : Fld := ⟨3, 3⟩
def SP_STATUS.SLOT0_OPEN : Fld := ⟨6, 1⟩
def SP_STATUS.SLOT1_OPEN : Fld := ⟨7, 1⟩
def SP_STATUS.RESIDENT : Fld := ⟨8, 13⟩
def SP_STATUS.SPILL_BUF : Fld := ⟨21, 7⟩
def SP_STATUS.SPILL_STALL : Fld := ⟨28, 1⟩
def SP_STATUS.SUMP_DRAINING : Fld := ⟨29, 1⟩
def SP_LAST_DRAIN (n : Nat) : Nat := chWin n + 0x3010
def SP_LAST_DRAIN.WORD : Fld := ⟨0, 64⟩
def SP_FAULT (n : Nat) : Nat := chWin n + 0x3018
def SP_FAULT.CODE : Fld := ⟨0, 16⟩
def SP_FAULT.TAG : Fld := ⟨16, 2⟩
def SP_FAULT.LOST : Fld := ⟨18, 1⟩
def SP_FAULT_KEY (n : Nat) : Nat := chWin n + 0x3020
def SP_FAULT_KEY.KEY : Fld := ⟨0, 32⟩
def SP_SUMP_DONE (n : Nat) : Nat := chWin n + 0x3028
def SP_SUMP_DONE.ENTRIES : Fld := ⟨0, 32⟩
def SP_SUMP_DONE.TAG : Fld := ⟨32, 2⟩
def SP_SUMP_DONE.NAN : Fld := ⟨34, 1⟩
def SP_SUMP_DONE.SAT : Fld := ⟨35, 1⟩
def SP_SUMP_DONE.VALID : Fld := ⟨36, 1⟩
def SP_ECC_CORR (n : Nat) : Nat := chWin n + 0x3030
def SP_ECC_CORR.COUNT : Fld := ⟨0, 32⟩
def SP_SESSION (n i : Nat) : Nat := chWin n + 0x3040 + 0x8 * i
def SP_SESSION.OPEN : Fld := ⟨0, 1⟩
def SP_SESSION.TYPE : Fld := ⟨1, 1⟩
def SP_SESSION.KEY_LIMIT : Fld := ⟨32, 32⟩
def SP_SPILL_BASE (n i : Nat) : Nat := chWin n + 0x3060 + 0x8 * i
def SP_SPILL_BASE.BASE : Fld := ⟨9, 39⟩
def SP_SPILL_USE (n i : Nat) : Nat := chWin n + 0x3080 + 0x8 * i
def SP_SPILL_USE.CAPACITY : Fld := ⟨0, 16⟩
def SP_SPILL_USE.USED : Fld := ⟨16, 16⟩
def SP_SPILL_USE.PEAK : Fld := ⟨32, 16⟩
def SP_EVICT (n i : Nat) : Nat := chWin n + 0x30A0 + 0x8 * i
def SP_EVICT.COUNT : Fld := ⟨0, 32⟩
def SP_TOL_RANGE (n i : Nat) : Nat := chWin n + 0x30C0 + 0x8 * i
def SP_TOL_RANGE.COUNT : Fld := ⟨0, 32⟩

def rowsSP : List RegRow := [
  ⟨"SP_CTRL", 0x3000, 0x8, 1, 0x8, 1, [⟨SP_CTRL.HASH_SEED, .rw, 0⟩]⟩,
  ⟨"SP_STATUS", 0x3008, 0x8, 1, 0x8, 1, [⟨SP_STATUS.SLOT0, .ro, 0⟩, ⟨SP_STATUS.SLOT1, .ro, 0⟩, ⟨SP_STATUS.SLOT0_OPEN, .ro, 0⟩, ⟨SP_STATUS.SLOT1_OPEN, .ro, 0⟩, ⟨SP_STATUS.RESIDENT, .ro, 0⟩, ⟨SP_STATUS.SPILL_BUF, .ro, 0⟩, ⟨SP_STATUS.SPILL_STALL, .ro, 0⟩, ⟨SP_STATUS.SUMP_DRAINING, .ro, 0⟩]⟩,
  ⟨"SP_LAST_DRAIN", 0x3010, 0x8, 1, 0x8, 1, [⟨SP_LAST_DRAIN.WORD, .ro, 0⟩]⟩,
  ⟨"SP_FAULT", 0x3018, 0x8, 1, 0x8, 1, [⟨SP_FAULT.CODE, .rc, 0⟩, ⟨SP_FAULT.TAG, .rc, 0⟩, ⟨SP_FAULT.LOST, .rc, 0⟩]⟩,
  ⟨"SP_FAULT_KEY", 0x3020, 0x8, 1, 0x8, 1, [⟨SP_FAULT_KEY.KEY, .rc, 0⟩]⟩,
  ⟨"SP_SUMP_DONE", 0x3028, 0x8, 1, 0x8, 1, [⟨SP_SUMP_DONE.ENTRIES, .rc, 0⟩, ⟨SP_SUMP_DONE.TAG, .rc, 0⟩, ⟨SP_SUMP_DONE.NAN, .rc, 0⟩, ⟨SP_SUMP_DONE.SAT, .rc, 0⟩, ⟨SP_SUMP_DONE.VALID, .rc, 0⟩]⟩,
  ⟨"SP_ECC_CORR", 0x3030, 0x8, 1, 0x8, 1, [⟨SP_ECC_CORR.COUNT, .rc, 0⟩]⟩,
  ⟨"SP_SESSION", 0x3040, 0x8, 4, 0x8, 1, [⟨SP_SESSION.OPEN, .ro, 0⟩, ⟨SP_SESSION.TYPE, .ro, 0⟩, ⟨SP_SESSION.KEY_LIMIT, .ro, 0⟩]⟩,
  ⟨"SP_SPILL_BASE", 0x3060, 0x8, 4, 0x8, 1, [⟨SP_SPILL_BASE.BASE, .ro, 0⟩]⟩,
  ⟨"SP_SPILL_USE", 0x3080, 0x8, 4, 0x8, 1, [⟨SP_SPILL_USE.CAPACITY, .ro, 0⟩, ⟨SP_SPILL_USE.USED, .ro, 0⟩, ⟨SP_SPILL_USE.PEAK, .rc, 0⟩]⟩,
  ⟨"SP_EVICT", 0x30A0, 0x8, 4, 0x8, 1, [⟨SP_EVICT.COUNT, .rc, 0⟩]⟩,
  ⟨"SP_TOL_RANGE", 0x30C0, 0x8, 4, 0x8, 1, [⟨SP_TOL_RANGE.COUNT, .rc, 0⟩]⟩]

/-! ### FS_ registers (R149) -/

def FS_STATUS (n : Nat) : Nat := chWin n + 0x4000
def FS_STATUS.BUSY : Fld := ⟨0, 1⟩
def FS_STATUS.CHAIN : Fld := ⟨1, 5⟩
def FS_STATUS.TAG : Fld := ⟨6, 2⟩
def FS_STATUS.ROW : Fld := ⟨8, 16⟩
def FS_STATUS.WAIT_POCKET : Fld := ⟨24, 1⟩
def FS_STATUS.WAIT_SUMP : Fld := ⟨25, 1⟩
def FS_FAULT (n : Nat) : Nat := chWin n + 0x4008
def FS_FAULT.CODE : Fld := ⟨0, 16⟩
def FS_FAULT.TAG : Fld := ⟨16, 2⟩
def FS_FAULT.STAGE : Fld := ⟨18, 3⟩
def FS_FAULT.LOST : Fld := ⟨21, 1⟩
def FS_FLAGS (n i : Nat) : Nat := chWin n + 0x4040 + 0x8 * i
def FS_FLAGS.NAN_OUT : Fld := ⟨2, 1⟩
def FS_FLAGS.INF_OUT : Fld := ⟨3, 1⟩
def FS_FLAGS.SAT : Fld := ⟨4, 1⟩
def FS_FLAGS.NAN_LOST : Fld := ⟨5, 1⟩
def FS_FLAGS.UNDERFLOW : Fld := ⟨6, 1⟩
def FS_FLAGS.EMPTY : Fld := ⟨7, 1⟩
def FS_EMPTY_ROWS (n i : Nat) : Nat := chWin n + 0x4060 + 0x8 * i
def FS_EMPTY_ROWS.COUNT : Fld := ⟨0, 32⟩
def FS_IDX_BASE (n i : Nat) : Nat := chWin n + 0x4080 + 0x8 * i
def FS_IDX_BASE.BASE : Fld := ⟨0, 32⟩
def FS_SAMPLE_SEED (n i : Nat) : Nat := chWin n + 0x40A0 + 0x8 * i
def FS_SAMPLE_SEED.SEED : Fld := ⟨0, 64⟩
def FS_SAMPLE_STEP (n i : Nat) : Nat := chWin n + 0x40C0 + 0x8 * i
def FS_SAMPLE_STEP.STEP : Fld := ⟨0, 32⟩
def FS_PERM (n i : Nat) : Nat := chWin n + 0x4100 + 0x8 * i
def FS_PERM.P0 : Fld := ⟨0, 7⟩
def FS_PERM.P1 : Fld := ⟨8, 7⟩
def FS_PERM.P2 : Fld := ⟨16, 7⟩
def FS_PERM.P3 : Fld := ⟨24, 7⟩
def FS_PERM.P4 : Fld := ⟨32, 7⟩
def FS_PERM.P5 : Fld := ⟨40, 7⟩
def FS_PERM.P6 : Fld := ⟨48, 7⟩
def FS_PERM.P7 : Fld := ⟨56, 7⟩
def FS_CHAIN_HDR (n i : Nat) : Nat := chWin n + 0x4200 + 0x48 * i
def FS_CHAIN_HDR.STAGES : Fld := ⟨0, 4⟩
def FS_CHAIN_HDR.FMT_X : Fld := ⟨4, 4⟩
def FS_CHAIN_HDR.FMT_Y : Fld := ⟨8, 4⟩
def FS_CHAIN_HDR.FMT_Z : Fld := ⟨12, 4⟩
def FS_CHAIN_HDR.FMT_OUT : Fld := ⟨16, 4⟩
def FS_CHAIN_HDR.OUT_OVF : Fld := ⟨20, 1⟩
def FS_CHAIN_HDR.STORE_SEL : Fld := ⟨21, 2⟩
def FS_CHAIN_HDR.STORE_MODE : Fld := ⟨23, 1⟩
def FS_CHAIN_HDR.STORE_OP : Fld := ⟨24, 2⟩
def FS_CHAIN_HDR.REDUCE : Fld := ⟨26, 4⟩
def FS_CHAIN_HDR.COMP : Fld := ⟨30, 1⟩
def FS_CHAIN_HDR.IDX_SRC : Fld := ⟨31, 1⟩
def FS_CHAIN_STG (n i j : Nat) : Nat := chWin n + 0x4208 + 0x48 * i + 0x8 * j
def FS_CHAIN_STG.OP : Fld := ⟨0, 8⟩
def FS_CHAIN_STG.SRC_A : Fld := ⟨8, 3⟩
def FS_CHAIN_STG.SRC_B : Fld := ⟨11, 3⟩
def FS_CHAIN_STG.SRC_C : Fld := ⟨14, 3⟩
def FS_CHAIN_STG.MASK_SEL : Fld := ⟨17, 2⟩
def FS_CHAIN_STG.MASK_MODE : Fld := ⟨19, 1⟩
def FS_CHAIN_STG.SUB : Fld := ⟨20, 4⟩
def FS_CHAIN_STG.PARAM : Fld := ⟨24, 8⟩
def FS_CHAIN_STG.IMM : Fld := ⟨32, 32⟩
def FS_VREF0 (n i j : Nat) : Nat := chWin n + 0x4C00 + 0x80 * i + 0x10 * j
def FS_VREF0.BASE : Fld := ⟨0, 48⟩
def FS_VREF0.FILL : Fld := ⟨48, 16⟩
def FS_VREF1 (n i j : Nat) : Nat := chWin n + 0x4C08 + 0x80 * i + 0x10 * j
def FS_VREF1.ELEM_STRIDE : Fld := ⟨0, 12⟩
def FS_VREF1.ROW_STRIDE : Fld := ⟨12, 28⟩
def FS_VREF1.BOUND : Fld := ⟨40, 24⟩

def rowsFS : List RegRow := [
  ⟨"FS_STATUS", 0x4000, 0x8, 1, 0x8, 1, [⟨FS_STATUS.BUSY, .ro, 0⟩, ⟨FS_STATUS.CHAIN, .ro, 0⟩, ⟨FS_STATUS.TAG, .ro, 0⟩, ⟨FS_STATUS.ROW, .ro, 0⟩, ⟨FS_STATUS.WAIT_POCKET, .ro, 0⟩, ⟨FS_STATUS.WAIT_SUMP, .ro, 0⟩]⟩,
  ⟨"FS_FAULT", 0x4008, 0x8, 1, 0x8, 1, [⟨FS_FAULT.CODE, .rc, 0⟩, ⟨FS_FAULT.TAG, .rc, 0⟩, ⟨FS_FAULT.STAGE, .rc, 0⟩, ⟨FS_FAULT.LOST, .rc, 0⟩]⟩,
  ⟨"FS_FLAGS", 0x4040, 0x8, 4, 0x8, 1, [⟨FS_FLAGS.NAN_OUT, .rc, 0⟩, ⟨FS_FLAGS.INF_OUT, .rc, 0⟩, ⟨FS_FLAGS.SAT, .rc, 0⟩, ⟨FS_FLAGS.NAN_LOST, .rc, 0⟩, ⟨FS_FLAGS.UNDERFLOW, .rc, 0⟩, ⟨FS_FLAGS.EMPTY, .rc, 0⟩]⟩,
  ⟨"FS_EMPTY_ROWS", 0x4060, 0x8, 4, 0x8, 1, [⟨FS_EMPTY_ROWS.COUNT, .rc, 0⟩]⟩,
  ⟨"FS_IDX_BASE", 0x4080, 0x8, 4, 0x8, 1, [⟨FS_IDX_BASE.BASE, .rw, 0⟩]⟩,
  ⟨"FS_SAMPLE_SEED", 0x40A0, 0x8, 4, 0x8, 1, [⟨FS_SAMPLE_SEED.SEED, .rw, 0⟩]⟩,
  ⟨"FS_SAMPLE_STEP", 0x40C0, 0x8, 4, 0x8, 1, [⟨FS_SAMPLE_STEP.STEP, .rw, 0⟩]⟩,
  ⟨"FS_PERM", 0x4100, 0x8, 8, 0x8, 1, [⟨FS_PERM.P0, .rw, 0⟩, ⟨FS_PERM.P1, .rw, 0⟩, ⟨FS_PERM.P2, .rw, 0⟩, ⟨FS_PERM.P3, .rw, 0⟩, ⟨FS_PERM.P4, .rw, 0⟩, ⟨FS_PERM.P5, .rw, 0⟩, ⟨FS_PERM.P6, .rw, 0⟩, ⟨FS_PERM.P7, .rw, 0⟩]⟩,
  ⟨"FS_CHAIN_HDR", 0x4200, 0x48, 32, 0x8, 1, [⟨FS_CHAIN_HDR.STAGES, .rw, 0⟩, ⟨FS_CHAIN_HDR.FMT_X, .rw, 0⟩, ⟨FS_CHAIN_HDR.FMT_Y, .rw, 0⟩, ⟨FS_CHAIN_HDR.FMT_Z, .rw, 0⟩, ⟨FS_CHAIN_HDR.FMT_OUT, .rw, 0⟩, ⟨FS_CHAIN_HDR.OUT_OVF, .rw, 0⟩, ⟨FS_CHAIN_HDR.STORE_SEL, .rw, 0⟩, ⟨FS_CHAIN_HDR.STORE_MODE, .rw, 0⟩, ⟨FS_CHAIN_HDR.STORE_OP, .rw, 0⟩, ⟨FS_CHAIN_HDR.REDUCE, .rw, 0⟩, ⟨FS_CHAIN_HDR.COMP, .rw, 0⟩, ⟨FS_CHAIN_HDR.IDX_SRC, .rw, 0⟩]⟩,
  ⟨"FS_CHAIN_STG", 0x4208, 0x48, 32, 0x8, 8, [⟨FS_CHAIN_STG.OP, .rw, 0⟩, ⟨FS_CHAIN_STG.SRC_A, .rw, 0⟩, ⟨FS_CHAIN_STG.SRC_B, .rw, 0⟩, ⟨FS_CHAIN_STG.SRC_C, .rw, 0⟩, ⟨FS_CHAIN_STG.MASK_SEL, .rw, 0⟩, ⟨FS_CHAIN_STG.MASK_MODE, .rw, 0⟩, ⟨FS_CHAIN_STG.SUB, .rw, 0⟩, ⟨FS_CHAIN_STG.PARAM, .rw, 0⟩, ⟨FS_CHAIN_STG.IMM, .rw, 0⟩]⟩,
  ⟨"FS_VREF0", 0x4C00, 0x80, 4, 0x10, 8, [⟨FS_VREF0.BASE, .rw, 0⟩, ⟨FS_VREF0.FILL, .rw, 0⟩]⟩,
  ⟨"FS_VREF1", 0x4C08, 0x80, 4, 0x10, 8, [⟨FS_VREF1.ELEM_STRIDE, .rw, 0⟩, ⟨FS_VREF1.ROW_STRIDE, .rw, 0⟩, ⟨FS_VREF1.BOUND, .rw, 0⟩]⟩]

/-! ### GV_ registers (R166) -/

def GV_STATUS (n : Nat) : Nat := chWin n + 0x5000
def GV_STATUS.SELECTING : Fld := ⟨0, 1⟩
def GV_STATUS.CHECKING : Fld := ⟨1, 1⟩
def GV_STATUS.JOIN_WAIT : Fld := ⟨2, 1⟩
def GV_STATUS.TAG : Fld := ⟨3, 2⟩
def GV_FAULT (n : Nat) : Nat := chWin n + 0x5008
def GV_FAULT.CODE : Fld := ⟨0, 16⟩
def GV_FAULT.TAG : Fld := ⟨16, 2⟩
def GV_FAULT.LOST : Fld := ⟨18, 1⟩
def GV_CTRL (n i : Nat) : Nat := chWin n + 0x5040 + 0x8 * i
def GV_CTRL.POLICY : Fld := ⟨0, 2⟩
def GV_CTRL.SEL_MODE : Fld := ⟨2, 1⟩
def GV_CTRL.U : Fld := ⟨3, 7⟩
def GV_CTRL.TOPK : Fld := ⟨10, 7⟩
def GV_CTRL.GROUP_ROWS : Fld := ⟨17, 2⟩
def GV_CTRL.GROUP_BASE : Fld := ⟨19, 13⟩
def GV_THETA (n i : Nat) : Nat := chWin n + 0x5060 + 0x8 * i
def GV_THETA.THETA : Fld := ⟨0, 32⟩
def GV_CHECK_PARAM (n i : Nat) : Nat := chWin n + 0x5080 + 0x8 * i
def GV_CHECK_PARAM.SCALE : Fld := ⟨0, 32⟩
def GV_CHECK_PARAM.MARGIN : Fld := ⟨32, 32⟩
def GV_SEL_DEST (n i : Nat) : Nat := chWin n + 0x50A0 + 0x8 * i
def GV_SEL_DEST.BASE : Fld := ⟨0, 48⟩
def GV_MASK0 (n i : Nat) : Nat := chWin n + 0x50C0 + 0x8 * i
def GV_MASK0.BASE : Fld := ⟨0, 48⟩
def GV_MASK1 (n i : Nat) : Nat := chWin n + 0x50E0 + 0x8 * i
def GV_MASK1.BASE : Fld := ⟨0, 48⟩
def GV_STATE (n i : Nat) : Nat := chWin n + 0x5100 + 0x8 * i
def GV_STATE.MISS_NOW : Fld := ⟨0, 1⟩
def GV_EST (n i : Nat) : Nat := chWin n + 0x5120 + 0x8 * i
def GV_EST.COUNT : Fld := ⟨0, 32⟩
def GV_KEPT (n i : Nat) : Nat := chWin n + 0x5140 + 0x8 * i
def GV_KEPT.COUNT : Fld := ⟨0, 32⟩
def GV_CHECKED (n i : Nat) : Nat := chWin n + 0x5160 + 0x8 * i
def GV_CHECKED.COUNT : Fld := ⟨0, 32⟩
def GV_MISSES (n i : Nat) : Nat := chWin n + 0x5180 + 0x8 * i
def GV_MISSES.COUNT : Fld := ⟨0, 32⟩
def GV_MAKEUPS (n i : Nat) : Nat := chWin n + 0x51A0 + 0x8 * i
def GV_MAKEUPS.COUNT : Fld := ⟨0, 32⟩

def rowsGV : List RegRow := [
  ⟨"GV_STATUS", 0x5000, 0x8, 1, 0x8, 1, [⟨GV_STATUS.SELECTING, .ro, 0⟩, ⟨GV_STATUS.CHECKING, .ro, 0⟩, ⟨GV_STATUS.JOIN_WAIT, .ro, 0⟩, ⟨GV_STATUS.TAG, .ro, 0⟩]⟩,
  ⟨"GV_FAULT", 0x5008, 0x8, 1, 0x8, 1, [⟨GV_FAULT.CODE, .rc, 0⟩, ⟨GV_FAULT.TAG, .rc, 0⟩, ⟨GV_FAULT.LOST, .rc, 0⟩]⟩,
  ⟨"GV_CTRL", 0x5040, 0x8, 4, 0x8, 1, [⟨GV_CTRL.POLICY, .rw, 0⟩, ⟨GV_CTRL.SEL_MODE, .rw, 0⟩, ⟨GV_CTRL.U, .rw, 0⟩, ⟨GV_CTRL.TOPK, .rw, 0⟩, ⟨GV_CTRL.GROUP_ROWS, .rw, 0⟩, ⟨GV_CTRL.GROUP_BASE, .rw, 0⟩]⟩,
  ⟨"GV_THETA", 0x5060, 0x8, 4, 0x8, 1, [⟨GV_THETA.THETA, .rw, 0⟩]⟩,
  ⟨"GV_CHECK_PARAM", 0x5080, 0x8, 4, 0x8, 1, [⟨GV_CHECK_PARAM.SCALE, .rw, 0⟩, ⟨GV_CHECK_PARAM.MARGIN, .rw, 0⟩]⟩,
  ⟨"GV_SEL_DEST", 0x50A0, 0x8, 4, 0x8, 1, [⟨GV_SEL_DEST.BASE, .rw, 0⟩]⟩,
  ⟨"GV_MASK0", 0x50C0, 0x8, 4, 0x8, 1, [⟨GV_MASK0.BASE, .rw, 0⟩]⟩,
  ⟨"GV_MASK1", 0x50E0, 0x8, 4, 0x8, 1, [⟨GV_MASK1.BASE, .rw, 0⟩]⟩,
  ⟨"GV_STATE", 0x5100, 0x8, 4, 0x8, 1, [⟨GV_STATE.MISS_NOW, .ro, 0⟩]⟩,
  ⟨"GV_EST", 0x5120, 0x8, 4, 0x8, 1, [⟨GV_EST.COUNT, .rc, 0⟩]⟩,
  ⟨"GV_KEPT", 0x5140, 0x8, 4, 0x8, 1, [⟨GV_KEPT.COUNT, .rc, 0⟩]⟩,
  ⟨"GV_CHECKED", 0x5160, 0x8, 4, 0x8, 1, [⟨GV_CHECKED.COUNT, .rc, 0⟩]⟩,
  ⟨"GV_MISSES", 0x5180, 0x8, 4, 0x8, 1, [⟨GV_MISSES.COUNT, .rc, 0⟩]⟩,
  ⟨"GV_MAKEUPS", 0x51A0, 0x8, 4, 0x8, 1, [⟨GV_MAKEUPS.COUNT, .rc, 0⟩]⟩]

/-! ### CL_ registers (R217) -/

def CL_CTRL (n : Nat) : Nat := chWin n + 0x6000
def CL_CTRL.CELLAR_PERIOD : Fld := ⟨0, 12⟩
def CL_CTRL.POCKET_PERIOD : Fld := ⟨12, 12⟩
def CL_CTRL.RETIRE_THRESH : Fld := ⟨24, 4⟩
def CL_STATUS (n : Nat) : Nat := chWin n + 0x6008
def CL_STATUS.SPARES_T0 : Fld := ⟨0, 5⟩
def CL_STATUS.SPARES_T1 : Fld := ⟨5, 5⟩
def CL_STATUS.SPARES_T2 : Fld := ⟨10, 5⟩
def CL_STATUS.SPARES_T3 : Fld := ⟨15, 5⟩
def CL_STATUS.EXHAUSTED : Fld := ⟨20, 1⟩
def CL_STATUS.SCRUB_ACTIVE : Fld := ⟨21, 1⟩
def CL_STATUS.RETIRING : Fld := ⟨22, 1⟩
def CL_STATUS.POCKET_WORN : Fld := ⟨23, 1⟩
def CL_FAULT (n : Nat) : Nat := chWin n + 0x6010
def CL_FAULT.CODE : Fld := ⟨0, 16⟩
def CL_FAULT.TAG : Fld := ⟨16, 2⟩
def CL_FAULT.LOST : Fld := ⟨18, 1⟩
def CL_ERR_LOG (n : Nat) : Nat := chWin n + 0x6018
def CL_ERR_LOG.VALID : Fld := ⟨0, 1⟩
def CL_ERR_LOG.STORE : Fld := ⟨1, 1⟩
def CL_ERR_LOG.UNCORR : Fld := ⟨2, 1⟩
def CL_ERR_LOG.TIER : Fld := ⟨3, 2⟩
def CL_ERR_LOG.ROW : Fld := ⟨5, 12⟩
def CL_ERR_LOG.CODEWORD : Fld := ⟨17, 6⟩
def CL_ERR_LOG.SCRUB : Fld := ⟨23, 1⟩
def CL_ERR_LOG.OVERWRITTEN : Fld := ⟨24, 1⟩
def CL_CORR (n : Nat) : Nat := chWin n + 0x6020
def CL_CORR.COUNT : Fld := ⟨0, 32⟩
def CL_UNCORR (n : Nat) : Nat := chWin n + 0x6028
def CL_UNCORR.COUNT : Fld := ⟨0, 32⟩
def CL_POCKET_CORR (n : Nat) : Nat := chWin n + 0x6030
def CL_POCKET_CORR.COUNT : Fld := ⟨0, 32⟩
def CL_POCKET_UNCORR (n : Nat) : Nat := chWin n + 0x6038
def CL_POCKET_UNCORR.COUNT : Fld := ⟨0, 32⟩
def CL_FAULT_VA (n : Nat) : Nat := chWin n + 0x6040
def CL_FAULT_VA.VA : Fld := ⟨0, 48⟩

def rowsCL : List RegRow := [
  ⟨"CL_CTRL", 0x6000, 0x8, 1, 0x8, 1, [⟨CL_CTRL.CELLAR_PERIOD, .rw, 0xF0⟩, ⟨CL_CTRL.POCKET_PERIOD, .rw, 0x3C⟩, ⟨CL_CTRL.RETIRE_THRESH, .rw, 4⟩]⟩,
  ⟨"CL_STATUS", 0x6008, 0x8, 1, 0x8, 1, [⟨CL_STATUS.SPARES_T0, .ro, 0⟩, ⟨CL_STATUS.SPARES_T1, .ro, 0⟩, ⟨CL_STATUS.SPARES_T2, .ro, 0⟩, ⟨CL_STATUS.SPARES_T3, .ro, 0⟩, ⟨CL_STATUS.EXHAUSTED, .ro, 0⟩, ⟨CL_STATUS.SCRUB_ACTIVE, .ro, 0⟩, ⟨CL_STATUS.RETIRING, .ro, 0⟩, ⟨CL_STATUS.POCKET_WORN, .ro, 0⟩]⟩,
  ⟨"CL_FAULT", 0x6010, 0x8, 1, 0x8, 1, [⟨CL_FAULT.CODE, .rc, 0⟩, ⟨CL_FAULT.TAG, .rc, 0⟩, ⟨CL_FAULT.LOST, .rc, 0⟩]⟩,
  ⟨"CL_ERR_LOG", 0x6018, 0x8, 1, 0x8, 1, [⟨CL_ERR_LOG.VALID, .rc, 0⟩, ⟨CL_ERR_LOG.STORE, .rc, 0⟩, ⟨CL_ERR_LOG.UNCORR, .rc, 0⟩, ⟨CL_ERR_LOG.TIER, .rc, 0⟩, ⟨CL_ERR_LOG.ROW, .rc, 0⟩, ⟨CL_ERR_LOG.CODEWORD, .rc, 0⟩, ⟨CL_ERR_LOG.SCRUB, .rc, 0⟩, ⟨CL_ERR_LOG.OVERWRITTEN, .rc, 0⟩]⟩,
  ⟨"CL_CORR", 0x6020, 0x8, 1, 0x8, 1, [⟨CL_CORR.COUNT, .rc, 0⟩]⟩,
  ⟨"CL_UNCORR", 0x6028, 0x8, 1, 0x8, 1, [⟨CL_UNCORR.COUNT, .rc, 0⟩]⟩,
  ⟨"CL_POCKET_CORR", 0x6030, 0x8, 1, 0x8, 1, [⟨CL_POCKET_CORR.COUNT, .rc, 0⟩]⟩,
  ⟨"CL_POCKET_UNCORR", 0x6038, 0x8, 1, 0x8, 1, [⟨CL_POCKET_UNCORR.COUNT, .rc, 0⟩]⟩,
  ⟨"CL_FAULT_VA", 0x6040, 0x8, 1, 0x8, 1, [⟨CL_FAULT_VA.VA, .rc, 0⟩]⟩]

/-! ### ABC_ registers (R246) -/

def ABC_STATUS (n : Nat) : Nat := chWin n + 0x7000
def ABC_STATUS.HOLDERS : Fld := ⟨0, 16⟩
def ABC_FAULT (n : Nat) : Nat := chWin n + 0x7008
def ABC_FAULT.CODE : Fld := ⟨0, 16⟩
def ABC_FAULT.RESOURCE : Fld := ⟨16, 3⟩
def ABC_FAULT.INPUT : Fld := ⟨19, 3⟩
def ABC_FAULT.TAG : Fld := ⟨22, 2⟩
def ABC_FAULT.LOST : Fld := ⟨24, 1⟩
def ABC_FAULT.NO_TASK : Fld := ⟨35, 1⟩
def ABC_GRANTS_0 (n i : Nat) : Nat := chWin n + 0x7100 + 0x20 * i
def ABC_GRANTS_0.COUNT : Fld := ⟨0, 32⟩
def ABC_WAIT_SUM_0 (n i : Nat) : Nat := chWin n + 0x7108 + 0x20 * i
def ABC_WAIT_SUM_0.COUNT : Fld := ⟨0, 32⟩
def ABC_WAIT_MAX_0 (n i : Nat) : Nat := chWin n + 0x7110 + 0x20 * i
def ABC_WAIT_MAX_0.COUNT : Fld := ⟨0, 32⟩
def ABC_GRANTS_1 (n i : Nat) : Nat := chWin n + 0x7200 + 0x20 * i
def ABC_GRANTS_1.COUNT : Fld := ⟨0, 32⟩
def ABC_WAIT_SUM_1 (n i : Nat) : Nat := chWin n + 0x7208 + 0x20 * i
def ABC_WAIT_SUM_1.COUNT : Fld := ⟨0, 32⟩
def ABC_WAIT_MAX_1 (n i : Nat) : Nat := chWin n + 0x7210 + 0x20 * i
def ABC_WAIT_MAX_1.COUNT : Fld := ⟨0, 32⟩
def ABC_GRANTS_2 (n i : Nat) : Nat := chWin n + 0x7300 + 0x20 * i
def ABC_GRANTS_2.COUNT : Fld := ⟨0, 32⟩
def ABC_WAIT_SUM_2 (n i : Nat) : Nat := chWin n + 0x7308 + 0x20 * i
def ABC_WAIT_SUM_2.COUNT : Fld := ⟨0, 32⟩
def ABC_WAIT_MAX_2 (n i : Nat) : Nat := chWin n + 0x7310 + 0x20 * i
def ABC_WAIT_MAX_2.COUNT : Fld := ⟨0, 32⟩
def ABC_GRANTS_3 (n i : Nat) : Nat := chWin n + 0x7400 + 0x20 * i
def ABC_GRANTS_3.COUNT : Fld := ⟨0, 32⟩
def ABC_WAIT_SUM_3 (n i : Nat) : Nat := chWin n + 0x7408 + 0x20 * i
def ABC_WAIT_SUM_3.COUNT : Fld := ⟨0, 32⟩
def ABC_WAIT_MAX_3 (n i : Nat) : Nat := chWin n + 0x7410 + 0x20 * i
def ABC_WAIT_MAX_3.COUNT : Fld := ⟨0, 32⟩

def rowsABC : List RegRow := [
  ⟨"ABC_STATUS", 0x7000, 0x8, 1, 0x8, 1, [⟨ABC_STATUS.HOLDERS, .ro, 0xFFFF⟩]⟩,
  ⟨"ABC_FAULT", 0x7008, 0x8, 1, 0x8, 1, [⟨ABC_FAULT.CODE, .rc, 0⟩, ⟨ABC_FAULT.RESOURCE, .rc, 0⟩, ⟨ABC_FAULT.INPUT, .rc, 0⟩, ⟨ABC_FAULT.TAG, .rc, 0⟩, ⟨ABC_FAULT.LOST, .rc, 0⟩, ⟨ABC_FAULT.NO_TASK, .rc, 0⟩]⟩,
  ⟨"ABC_GRANTS_0", 0x7100, 0x20, 6, 0x8, 1, [⟨ABC_GRANTS_0.COUNT, .rc, 0⟩]⟩,
  ⟨"ABC_WAIT_SUM_0", 0x7108, 0x20, 6, 0x8, 1, [⟨ABC_WAIT_SUM_0.COUNT, .rc, 0⟩]⟩,
  ⟨"ABC_WAIT_MAX_0", 0x7110, 0x20, 6, 0x8, 1, [⟨ABC_WAIT_MAX_0.COUNT, .rc, 0⟩]⟩,
  ⟨"ABC_GRANTS_1", 0x7200, 0x20, 6, 0x8, 1, [⟨ABC_GRANTS_1.COUNT, .rc, 0⟩]⟩,
  ⟨"ABC_WAIT_SUM_1", 0x7208, 0x20, 6, 0x8, 1, [⟨ABC_WAIT_SUM_1.COUNT, .rc, 0⟩]⟩,
  ⟨"ABC_WAIT_MAX_1", 0x7210, 0x20, 6, 0x8, 1, [⟨ABC_WAIT_MAX_1.COUNT, .rc, 0⟩]⟩,
  ⟨"ABC_GRANTS_2", 0x7300, 0x20, 5, 0x8, 1, [⟨ABC_GRANTS_2.COUNT, .rc, 0⟩]⟩,
  ⟨"ABC_WAIT_SUM_2", 0x7308, 0x20, 5, 0x8, 1, [⟨ABC_WAIT_SUM_2.COUNT, .rc, 0⟩]⟩,
  ⟨"ABC_WAIT_MAX_2", 0x7310, 0x20, 5, 0x8, 1, [⟨ABC_WAIT_MAX_2.COUNT, .rc, 0⟩]⟩,
  ⟨"ABC_GRANTS_3", 0x7400, 0x20, 5, 0x8, 1, [⟨ABC_GRANTS_3.COUNT, .rc, 0⟩]⟩,
  ⟨"ABC_WAIT_SUM_3", 0x7408, 0x20, 5, 0x8, 1, [⟨ABC_WAIT_SUM_3.COUNT, .rc, 0⟩]⟩,
  ⟨"ABC_WAIT_MAX_3", 0x7410, 0x20, 5, 0x8, 1, [⟨ABC_WAIT_MAX_3.COUNT, .rc, 0⟩]⟩]

/-! ### ST_ registers (R245) -/

def ST_CTRL (n : Nat) : Nat := chWin n + 0x8000
def ST_CTRL.PRIV_PRIO : Fld := ⟨0, 3⟩
def ST_CTRL.WDOG_TIMEOUT : Fld := ⟨4, 5⟩
def ST_STATUS (n : Nat) : Nat := chWin n + 0x8008
def ST_STATUS.CRED_SAT : Fld := ⟨0, 1⟩
def ST_ENGINE (n i : Nat) : Nat := chWin n + 0x8010 + 0x8 * i
def ST_ENGINE.ACT_VALID : Fld := ⟨0, 1⟩
def ST_ENGINE.ACT_TAG : Fld := ⟨1, 2⟩
def ST_ENGINE.ACT_DESC : Fld := ⟨3, 5⟩
def ST_ENGINE.PEND_VALID : Fld := ⟨8, 1⟩
def ST_ENGINE.PEND_TAG : Fld := ⟨9, 2⟩
def ST_ENGINE.PEND_DESC : Fld := ⟨11, 5⟩
def ST_ENGINE.OUTSTANDING : Fld := ⟨16, 3⟩
def ST_ENGINE.WAIT : Fld := ⟨19, 3⟩
def ST_ENGINE.REPLACED : Fld := ⟨22, 1⟩
def ST_FAULT (n : Nat) : Nat := chWin n + 0x8030
def ST_FAULT.CODE : Fld := ⟨0, 16⟩
def ST_FAULT.TAG : Fld := ⟨16, 2⟩
def ST_FAULT.ENGINE : Fld := ⟨18, 2⟩
def ST_FAULT.LOST : Fld := ⟨20, 1⟩
def ST_FAULT_INFO (n : Nat) : Nat := chWin n + 0x8038
def ST_FAULT_INFO.DESC : Fld := ⟨0, 5⟩
def ST_FAULT_INFO.CAUSE : Fld := ⟨5, 3⟩
def ST_FAULT_INFO.CRED : Fld := ⟨8, 4⟩
def ST_FAULT_INFO.REGION : Fld := ⟨12, 4⟩
def ST_FAULT_INFO.MGROUP : Fld := ⟨16, 8⟩
def ST_REPLACED (n : Nat) : Nat := chWin n + 0x8040
def ST_REPLACED.COUNT : Fld := ⟨0, 32⟩
def ST_SPARGE_DROP (n : Nat) : Nat := chWin n + 0x8048
def ST_SPARGE_DROP.COUNT : Fld := ⟨0, 32⟩
def ST_WDOG_BITES (n : Nat) : Nat := chWin n + 0x8050
def ST_WDOG_BITES.COUNT : Fld := ⟨0, 32⟩
def ST_CREDIT (n i : Nat) : Nat := chWin n + 0x8100 + 0x8 * i
def ST_CREDIT.COUNT : Fld := ⟨0, 32⟩
def ST_REGION (n i : Nat) : Nat := chWin n + 0x8200 + 0x8 * i
def ST_REGION.STATE : Fld := ⟨0, 2⟩
def ST_REGION.USES_LEFT : Fld := ⟨2, 8⟩
def ST_REGION.MGROUP : Fld := ⟨10, 8⟩
def ST_REGION.RECEIVED : Fld := ⟨18, 24⟩
def ST_REGION.TAG : Fld := ⟨42, 2⟩
def ST_MEMBER (n i : Nat) : Nat := chWin n + 0x8300 + 0x8 * i
def ST_MEMBER.GROUPS : Fld := ⟨0, 64⟩
def ST_DESC0 (n i : Nat) : Nat := chWin n + 0x9000 + 0x40 * i
def ST_DESC0.W : Fld := ⟨0, 64⟩
def ST_DESC1 (n i : Nat) : Nat := chWin n + 0x9008 + 0x40 * i
def ST_DESC1.W : Fld := ⟨0, 47⟩
def ST_DESC1.WH : Fld := ⟨48, 16⟩
def ST_DESC2 (n i : Nat) : Nat := chWin n + 0x9010 + 0x40 * i
def ST_DESC2.W : Fld := ⟨0, 13⟩
def ST_DESC2.WH : Fld := ⟨16, 48⟩
def ST_DESC3 (n i j : Nat) : Nat := chWin n + 0x9018 + 0x40 * i + 0x8 * j
def ST_DESC3.W : Fld := ⟨0, 64⟩
def ST_DESC7 (n i : Nat) : Nat := chWin n + 0x9038 + 0x40 * i
def ST_DESC7.W : Fld := ⟨0, 56⟩

def rowsST : List RegRow := [
  ⟨"ST_CTRL", 0x8000, 0x8, 1, 0x8, 1, [⟨ST_CTRL.PRIV_PRIO, .rw, 6⟩, ⟨ST_CTRL.WDOG_TIMEOUT, .rw, 0xA⟩]⟩,
  ⟨"ST_STATUS", 0x8008, 0x8, 1, 0x8, 1, [⟨ST_STATUS.CRED_SAT, .w1c, 0⟩]⟩,
  ⟨"ST_ENGINE", 0x8010, 0x8, 4, 0x8, 1, [⟨ST_ENGINE.ACT_VALID, .ro, 0⟩, ⟨ST_ENGINE.ACT_TAG, .ro, 0⟩, ⟨ST_ENGINE.ACT_DESC, .ro, 0⟩, ⟨ST_ENGINE.PEND_VALID, .ro, 0⟩, ⟨ST_ENGINE.PEND_TAG, .ro, 0⟩, ⟨ST_ENGINE.PEND_DESC, .ro, 0⟩, ⟨ST_ENGINE.OUTSTANDING, .ro, 0⟩, ⟨ST_ENGINE.WAIT, .ro, 0⟩, ⟨ST_ENGINE.REPLACED, .w1c, 0⟩]⟩,
  ⟨"ST_FAULT", 0x8030, 0x8, 1, 0x8, 1, [⟨ST_FAULT.CODE, .rc, 0⟩, ⟨ST_FAULT.TAG, .rc, 0⟩, ⟨ST_FAULT.ENGINE, .rc, 0⟩, ⟨ST_FAULT.LOST, .rc, 0⟩]⟩,
  ⟨"ST_FAULT_INFO", 0x8038, 0x8, 1, 0x8, 1, [⟨ST_FAULT_INFO.DESC, .rc, 0⟩, ⟨ST_FAULT_INFO.CAUSE, .rc, 0⟩, ⟨ST_FAULT_INFO.CRED, .rc, 0⟩, ⟨ST_FAULT_INFO.REGION, .rc, 0⟩, ⟨ST_FAULT_INFO.MGROUP, .rc, 0⟩]⟩,
  ⟨"ST_REPLACED", 0x8040, 0x8, 1, 0x8, 1, [⟨ST_REPLACED.COUNT, .rc, 0⟩]⟩,
  ⟨"ST_SPARGE_DROP", 0x8048, 0x8, 1, 0x8, 1, [⟨ST_SPARGE_DROP.COUNT, .rc, 0⟩]⟩,
  ⟨"ST_WDOG_BITES", 0x8050, 0x8, 1, 0x8, 1, [⟨ST_WDOG_BITES.COUNT, .rc, 0⟩]⟩,
  ⟨"ST_CREDIT", 0x8100, 0x8, 32, 0x8, 1, [⟨ST_CREDIT.COUNT, .rw, 0⟩]⟩,
  ⟨"ST_REGION", 0x8200, 0x8, 16, 0x8, 1, [⟨ST_REGION.STATE, .ro, 0⟩, ⟨ST_REGION.USES_LEFT, .ro, 0⟩, ⟨ST_REGION.MGROUP, .ro, 0⟩, ⟨ST_REGION.RECEIVED, .ro, 0⟩, ⟨ST_REGION.TAG, .ro, 0⟩]⟩,
  ⟨"ST_MEMBER", 0x8300, 0x8, 4, 0x8, 1, [⟨ST_MEMBER.GROUPS, .rw, 0⟩]⟩,
  ⟨"ST_DESC0", 0x9000, 0x40, 128, 0x8, 1, [⟨ST_DESC0.W, .rw, 0⟩]⟩,
  ⟨"ST_DESC1", 0x9008, 0x40, 128, 0x8, 1, [⟨ST_DESC1.W, .rw, 0⟩, ⟨ST_DESC1.WH, .rw, 0⟩]⟩,
  ⟨"ST_DESC2", 0x9010, 0x40, 128, 0x8, 1, [⟨ST_DESC2.W, .rw, 0⟩, ⟨ST_DESC2.WH, .rw, 0⟩]⟩,
  ⟨"ST_DESC3", 0x9018, 0x40, 128, 0x8, 4, [⟨ST_DESC3.W, .rw, 0⟩]⟩,
  ⟨"ST_DESC7", 0x9038, 0x40, 128, 0x8, 1, [⟨ST_DESC7.W, .rw, 0⟩]⟩]

/-! ### PCC_ registers (R393) -/

def PCC_CTRL (n : Nat) : Nat := chWin n + 0xC000
def PCC_CTRL.FREEZE : Fld := ⟨0, 1⟩
def PCC_CTRL.CLEAR : Fld := ⟨1, 1⟩
def PCC_WINDOW (n : Nat) : Nat := chWin n + 0xC008
def PCC_WINDOW.LENGTH : Fld := ⟨0, 20⟩
def PCC_WINDOW.REPEAT : Fld := ⟨20, 1⟩
def PCC_WSTART (n : Nat) : Nat := chWin n + 0xC010
def PCC_WSTART.START : Fld := ⟨0, 64⟩
def PCC_WSTATUS (n : Nat) : Nat := chWin n + 0xC018
def PCC_WSTATUS.SEQ : Fld := ⟨0, 32⟩
def PCC_WSTATUS.RUNNING : Fld := ⟨32, 1⟩
def PCC_WEND (n : Nat) : Nat := chWin n + 0xC020
def PCC_WEND.TIME : Fld := ⟨0, 64⟩
def PCC_SEL (n i : Nat) : Nat := chWin n + 0xC100 + 0x20 * i
def PCC_SEL.EVENT : Fld := ⟨0, 12⟩
def PCC_SEL.ENABLE : Fld := ⟨12, 1⟩
def PCC_SEL.TAGS : Fld := ⟨13, 4⟩
def PCC_SEL.NOTAG : Fld := ⟨17, 1⟩
def PCC_SEL.BAD : Fld := ⟨63, 1⟩
def PCC_COUNT (n i : Nat) : Nat := chWin n + 0xC108 + 0x20 * i
def PCC_COUNT.COUNT : Fld := ⟨0, 48⟩
def PCC_COUNT.OVF : Fld := ⟨48, 1⟩
def PCC_SNAP (n i : Nat) : Nat := chWin n + 0xC110 + 0x20 * i
def PCC_SNAP.COUNT : Fld := ⟨0, 48⟩
def PCC_SNAP.MIXED : Fld := ⟨49, 1⟩
def PCC_RATE (n i : Nat) : Nat := chWin n + 0xC118 + 0x20 * i
def PCC_RATE.RATE : Fld := ⟨0, 32⟩

def rowsPCC : List RegRow := [
  ⟨"PCC_CTRL", 0xC000, 0x8, 1, 0x8, 1, [⟨PCC_CTRL.FREEZE, .rw, 0⟩, ⟨PCC_CTRL.CLEAR, .wo, 0⟩]⟩,
  ⟨"PCC_WINDOW", 0xC008, 0x8, 1, 0x8, 1, [⟨PCC_WINDOW.LENGTH, .rw, 0⟩, ⟨PCC_WINDOW.REPEAT, .rw, 0⟩]⟩,
  ⟨"PCC_WSTART", 0xC010, 0x8, 1, 0x8, 1, [⟨PCC_WSTART.START, .rw, 0⟩]⟩,
  ⟨"PCC_WSTATUS", 0xC018, 0x8, 1, 0x8, 1, [⟨PCC_WSTATUS.SEQ, .ro, 0⟩, ⟨PCC_WSTATUS.RUNNING, .ro, 0⟩]⟩,
  ⟨"PCC_WEND", 0xC020, 0x8, 1, 0x8, 1, [⟨PCC_WEND.TIME, .ro, 0⟩]⟩,
  ⟨"PCC_SEL", 0xC100, 0x20, 8, 0x8, 1, [⟨PCC_SEL.EVENT, .rw, 0⟩, ⟨PCC_SEL.ENABLE, .rw, 0⟩, ⟨PCC_SEL.TAGS, .rw, 0⟩, ⟨PCC_SEL.NOTAG, .rw, 0⟩, ⟨PCC_SEL.BAD, .ro, 0⟩]⟩,
  ⟨"PCC_COUNT", 0xC108, 0x20, 8, 0x8, 1, [⟨PCC_COUNT.COUNT, .rw, 0⟩, ⟨PCC_COUNT.OVF, .w1c, 0⟩]⟩,
  ⟨"PCC_SNAP", 0xC110, 0x20, 8, 0x8, 1, [⟨PCC_SNAP.COUNT, .ro, 0⟩, ⟨PCC_SNAP.MIXED, .ro, 0⟩]⟩,
  ⟨"PCC_RATE", 0xC118, 0x20, 8, 0x8, 1, [⟨PCC_RATE.RATE, .ro, 0⟩]⟩]

/-! ### LN_ registers (R326,R363) -/

def LN_STRAPS : Nat := y4xWin 0 + 0x0
def LN_STRAPS.BOOT_SRC : Fld := ⟨0, 2⟩
def LN_STRAPS.PWR_CLASS : Fld := ⟨2, 3⟩
def LN_STRAPS.BAUD : Fld := ⟨5, 1⟩
def LN_STRAPS.SAFE : Fld := ⟨6, 1⟩
def LN_STRAPS.HINT : Fld := ⟨7, 7⟩
def LN_STRAPS.STRAP_WARN : Fld := ⟨14, 1⟩
def LN_BOOT : Nat := y4xWin 0 + 0x8
def LN_BOOT.STAGE : Fld := ⟨0, 4⟩
def LN_BOOT.ERROR : Fld := ⟨4, 4⟩
def LN_BOOT.FW_SLOT : Fld := ⟨8, 1⟩
def LN_BOOT.FW_FALLBACK : Fld := ⟨9, 1⟩
def LN_BOOT.DEGRADED : Fld := ⟨10, 1⟩
def LN_BOOT.ELAPSED : Fld := ⟨16, 16⟩
def LN_RECIPE : Nat := y4xWin 0 + 0x10
def LN_RECIPE.GENERATION : Fld := ⟨0, 32⟩
def LN_RECIPE.SLOT : Fld := ⟨32, 4⟩
def LN_RECIPE.VALID : Fld := ⟨36, 1⟩
def LN_MODEL : Nat := y4xWin 0 + 0x18
def LN_MODEL.GENERATION : Fld := ⟨0, 32⟩
def LN_MODEL.SLOT : Fld := ⟨32, 4⟩
def LN_MODEL.VALID : Fld := ⟨36, 1⟩
def LN_STAGED : Nat := y4xWin 0 + 0x20
def LN_STAGED.GENERATION : Fld := ⟨0, 32⟩
def LN_STAGED.SLOT : Fld := ⟨32, 4⟩
def LN_STAGED.STATE : Fld := ⟨37, 3⟩
def LN_STAGED.KEEP_OK : Fld := ⟨40, 1⟩
def LN_STAGED.REASON : Fld := ⟨41, 3⟩
def LN_HOSTBOOT : Nat := y4xWin 0 + 0x28
def LN_HOSTBOOT.DATA : Fld := ⟨0, 64⟩
def LN_STATUS : Nat := y4xWin 0 + 0x30
def LN_STATUS.MISMATCH : Fld := ⟨0, 1⟩
def LN_STATUS.SWITCHING : Fld := ⟨1, 1⟩
def LN_SWITCHES : Nat := y4xWin 0 + 0x38
def LN_SWITCHES.COUNT : Fld := ⟨0, 32⟩
def LN_SVC_CTRL : Nat := y4xWin 0 + 0x40
def LN_SVC_CTRL.ABORT_TIMEOUT : Fld := ⟨0, 5⟩
def LN_SVC_CTRL.AUTO_RESET : Fld := ⟨5, 1⟩
def LN_SVC_CTRL.AUTO_FENCE : Fld := ⟨6, 1⟩
def LN_AOUT : Nat := y4xWin 0 + 0x48
def LN_AOUT.MODE : Fld := ⟨0, 2⟩
def LN_AOUT.QUANTITY : Fld := ⟨2, 3⟩
def LN_AOUT.SELECT : Fld := ⟨5, 3⟩
def LN_AOUT.CODE : Fld := ⟨8, 6⟩
def LN_AOUT.LEVEL : Fld := ⟨14, 12⟩
def LN_WEDGED : Nat := y4xWin 0 + 0x50
def LN_WEDGED.VALID : Fld := ⟨0, 1⟩
def LN_WEDGED.SCOPE : Fld := ⟨1, 1⟩
def LN_WEDGED.RESOURCE : Fld := ⟨2, 3⟩
def LN_WEDGED.INDEX : Fld := ⟨5, 10⟩
def LN_CHANGE : Nat := y4xWin 0 + 0x58
def LN_CHANGE.KIND : Fld := ⟨0, 4⟩
def LN_CHANGE.TARGET : Fld := ⟨4, 10⟩
def LN_CHANGE.QUEUED : Fld := ⟨14, 4⟩
def LN_SELFTEST : Nat := y4xWin 0 + 0x60
def LN_SELFTEST.RUNNING : Fld := ⟨0, 1⟩
def LN_SELFTEST.FAILED : Fld := ⟨1, 14⟩
def LN_SELFTEST.FENCED : Fld := ⟨15, 11⟩
def LN_LOG_SEQ : Nat := y4xWin 0 + 0x68
def LN_LOG_SEQ.SEQ : Fld := ⟨0, 32⟩
def LN_LOG_LOST : Nat := y4xWin 0 + 0x70
def LN_LOG_LOST.COUNT : Fld := ⟨0, 32⟩

def rowsLN : List RegRow := [
  ⟨"LN_STRAPS", 0x0, 0x8, 1, 0x8, 1, [⟨LN_STRAPS.BOOT_SRC, .ro, 0⟩, ⟨LN_STRAPS.PWR_CLASS, .ro, 0⟩, ⟨LN_STRAPS.BAUD, .ro, 0⟩, ⟨LN_STRAPS.SAFE, .ro, 0⟩, ⟨LN_STRAPS.HINT, .ro, 0⟩, ⟨LN_STRAPS.STRAP_WARN, .ro, 0⟩]⟩,
  ⟨"LN_BOOT", 0x8, 0x8, 1, 0x8, 1, [⟨LN_BOOT.STAGE, .ro, 0⟩, ⟨LN_BOOT.ERROR, .ro, 0⟩, ⟨LN_BOOT.FW_SLOT, .ro, 0⟩, ⟨LN_BOOT.FW_FALLBACK, .ro, 0⟩, ⟨LN_BOOT.DEGRADED, .ro, 0⟩, ⟨LN_BOOT.ELAPSED, .ro, 0⟩]⟩,
  ⟨"LN_RECIPE", 0x10, 0x8, 1, 0x8, 1, [⟨LN_RECIPE.GENERATION, .ro, 0⟩, ⟨LN_RECIPE.SLOT, .ro, 0⟩, ⟨LN_RECIPE.VALID, .ro, 0⟩]⟩,
  ⟨"LN_MODEL", 0x18, 0x8, 1, 0x8, 1, [⟨LN_MODEL.GENERATION, .ro, 0⟩, ⟨LN_MODEL.SLOT, .ro, 0⟩, ⟨LN_MODEL.VALID, .ro, 0⟩]⟩,
  ⟨"LN_STAGED", 0x20, 0x8, 1, 0x8, 1, [⟨LN_STAGED.GENERATION, .ro, 0⟩, ⟨LN_STAGED.SLOT, .ro, 0⟩, ⟨LN_STAGED.STATE, .ro, 0⟩, ⟨LN_STAGED.KEEP_OK, .ro, 0⟩, ⟨LN_STAGED.REASON, .ro, 0⟩]⟩,
  ⟨"LN_HOSTBOOT", 0x28, 0x8, 1, 0x8, 1, [⟨LN_HOSTBOOT.DATA, .wo, 0⟩]⟩,
  ⟨"LN_STATUS", 0x30, 0x8, 1, 0x8, 1, [⟨LN_STATUS.MISMATCH, .ro, 0⟩, ⟨LN_STATUS.SWITCHING, .ro, 0⟩]⟩,
  ⟨"LN_SWITCHES", 0x38, 0x8, 1, 0x8, 1, [⟨LN_SWITCHES.COUNT, .rc, 0⟩]⟩,
  ⟨"LN_SVC_CTRL", 0x40, 0x8, 1, 0x8, 1, [⟨LN_SVC_CTRL.ABORT_TIMEOUT, .rw, 0xC⟩, ⟨LN_SVC_CTRL.AUTO_RESET, .rw, 1⟩, ⟨LN_SVC_CTRL.AUTO_FENCE, .rw, 1⟩]⟩,
  ⟨"LN_AOUT", 0x48, 0x8, 1, 0x8, 1, [⟨LN_AOUT.MODE, .rw, 0⟩, ⟨LN_AOUT.QUANTITY, .rw, 0⟩, ⟨LN_AOUT.SELECT, .rw, 0⟩, ⟨LN_AOUT.CODE, .ro, 0⟩, ⟨LN_AOUT.LEVEL, .ro, 0⟩]⟩,
  ⟨"LN_WEDGED", 0x50, 0x8, 1, 0x8, 1, [⟨LN_WEDGED.VALID, .ro, 0⟩, ⟨LN_WEDGED.SCOPE, .ro, 0⟩, ⟨LN_WEDGED.RESOURCE, .ro, 0⟩, ⟨LN_WEDGED.INDEX, .ro, 0⟩]⟩,
  ⟨"LN_CHANGE", 0x58, 0x8, 1, 0x8, 1, [⟨LN_CHANGE.KIND, .ro, 0⟩, ⟨LN_CHANGE.TARGET, .ro, 0⟩, ⟨LN_CHANGE.QUEUED, .ro, 0⟩]⟩,
  ⟨"LN_SELFTEST", 0x60, 0x8, 1, 0x8, 1, [⟨LN_SELFTEST.RUNNING, .ro, 0⟩, ⟨LN_SELFTEST.FAILED, .ro, 0⟩, ⟨LN_SELFTEST.FENCED, .ro, 0⟩]⟩,
  ⟨"LN_LOG_SEQ", 0x68, 0x8, 1, 0x8, 1, [⟨LN_LOG_SEQ.SEQ, .ro, 0⟩]⟩,
  ⟨"LN_LOG_LOST", 0x70, 0x8, 1, 0x8, 1, [⟨LN_LOG_LOST.COUNT, .rc, 0⟩]⟩]

/-! ### SC_ registers (R338) -/

def SC_STATUS : Nat := y4xWin 1 + 0x0
def SC_STATUS.ID_READY : Fld := ⟨0, 1⟩
def SC_STATUS.ID_FAIL : Fld := ⟨1, 1⟩
def SC_STATUS.BUSY : Fld := ⟨2, 1⟩
def SC_STATUS.QUEUED : Fld := ⟨3, 4⟩
def SC_FUSES : Nat := y4xWin 1 + 0x8
def SC_FUSES.SLOT_VALID : Fld := ⟨0, 4⟩
def SC_FUSES.SLOT_REVOKED : Fld := ⟨4, 4⟩
def SC_FUSES.FW_FLOOR : Fld := ⟨8, 7⟩
def SC_FUSES.ORDERING : Fld := ⟨15, 1⟩
def SC_VERIFY_LOG : Nat := y4xWin 1 + 0x10
def SC_VERIFY_LOG.VALID : Fld := ⟨0, 1⟩
def SC_VERIFY_LOG.KIND : Fld := ⟨1, 3⟩
def SC_VERIFY_LOG.SLOT : Fld := ⟨4, 4⟩
def SC_VERIFY_LOG.STEP : Fld := ⟨8, 3⟩
def SC_VERIFY_LOG.CAUSE : Fld := ⟨11, 3⟩
def SC_VERIFY_LOG.AT_STORE : Fld := ⟨14, 1⟩
def SC_VERIFY_LOG.OVERWRITTEN : Fld := ⟨15, 1⟩
def SC_VERIFY_LOG.SECTION : Fld := ⟨16, 16⟩
def SC_VERIFY_LOG.GENERATION : Fld := ⟨32, 32⟩
def SC_VERIFY_FAIL : Nat := y4xWin 1 + 0x18
def SC_VERIFY_FAIL.COUNT : Fld := ⟨0, 32⟩
def SC_REPORTS : Nat := y4xWin 1 + 0x20
def SC_REPORTS.COUNT : Fld := ⟨0, 32⟩
def SC_CMD_STATUS : Nat := y4xWin 1 + 0x28
def SC_CMD_STATUS.VALID : Fld := ⟨0, 1⟩
def SC_CMD_STATUS.RESULT : Fld := ⟨1, 3⟩
def SC_CMD_STATUS.OP : Fld := ⟨4, 2⟩
def SC_CHALLENGE (i : Nat) : Nat := y4xWin 1 + 0x40 + 0x8 * i
def SC_CHALLENGE.VALUE : Fld := ⟨0, 64⟩
def SC_ID_DIGEST (i : Nat) : Nat := y4xWin 1 + 0x80 + 0x8 * i
def SC_ID_DIGEST.VALUE : Fld := ⟨0, 64⟩
def SC_SLOT_DIGEST (i j : Nat) : Nat := y4xWin 1 + 0x100 + 0x40 * i + 0x8 * j
def SC_SLOT_DIGEST.VALUE : Fld := ⟨0, 64⟩

def rowsSC : List RegRow := [
  ⟨"SC_STATUS", 0x0, 0x8, 1, 0x8, 1, [⟨SC_STATUS.ID_READY, .ro, 0⟩, ⟨SC_STATUS.ID_FAIL, .ro, 0⟩, ⟨SC_STATUS.BUSY, .ro, 0⟩, ⟨SC_STATUS.QUEUED, .ro, 0⟩]⟩,
  ⟨"SC_FUSES", 0x8, 0x8, 1, 0x8, 1, [⟨SC_FUSES.SLOT_VALID, .ro, 1⟩, ⟨SC_FUSES.SLOT_REVOKED, .ro, 0⟩, ⟨SC_FUSES.FW_FLOOR, .ro, 0⟩, ⟨SC_FUSES.ORDERING, .ro, 0⟩]⟩,
  ⟨"SC_VERIFY_LOG", 0x10, 0x8, 1, 0x8, 1, [⟨SC_VERIFY_LOG.VALID, .rc, 0⟩, ⟨SC_VERIFY_LOG.KIND, .rc, 0⟩, ⟨SC_VERIFY_LOG.SLOT, .rc, 0⟩, ⟨SC_VERIFY_LOG.STEP, .rc, 0⟩, ⟨SC_VERIFY_LOG.CAUSE, .rc, 0⟩, ⟨SC_VERIFY_LOG.AT_STORE, .rc, 0⟩, ⟨SC_VERIFY_LOG.OVERWRITTEN, .rc, 0⟩, ⟨SC_VERIFY_LOG.SECTION, .rc, 0⟩, ⟨SC_VERIFY_LOG.GENERATION, .rc, 0⟩]⟩,
  ⟨"SC_VERIFY_FAIL", 0x18, 0x8, 1, 0x8, 1, [⟨SC_VERIFY_FAIL.COUNT, .rc, 0⟩]⟩,
  ⟨"SC_REPORTS", 0x20, 0x8, 1, 0x8, 1, [⟨SC_REPORTS.COUNT, .rc, 0⟩]⟩,
  ⟨"SC_CMD_STATUS", 0x28, 0x8, 1, 0x8, 1, [⟨SC_CMD_STATUS.VALID, .rc, 0⟩, ⟨SC_CMD_STATUS.RESULT, .rc, 0⟩, ⟨SC_CMD_STATUS.OP, .rc, 0⟩]⟩,
  ⟨"SC_CHALLENGE", 0x40, 0x8, 4, 0x8, 1, [⟨SC_CHALLENGE.VALUE, .ro, 0⟩]⟩,
  ⟨"SC_ID_DIGEST", 0x80, 0x8, 8, 0x8, 1, [⟨SC_ID_DIGEST.VALUE, .ro, 0⟩]⟩,
  ⟨"SC_SLOT_DIGEST", 0x100, 0x40, 4, 0x8, 8, [⟨SC_SLOT_DIGEST.VALUE, .ro, 0⟩]⟩]

/-! ### PW_ registers (R382) -/

def PW_CTRL : Nat := y4xWin 2 + 0x0
def PW_CTRL.PACE : Fld := ⟨0, 3⟩
def PW_CTRL.LIMIT : Fld := ⟨4, 12⟩
def PW_STATUS : Nat := y4xWin 2 + 0x8
def PW_STATUS.PACE_NOW : Fld := ⟨0, 3⟩
def PW_STATUS.CAPPING : Fld := ⟨3, 1⟩
def PW_STATUS.THROTTLE : Fld := ⟨4, 1⟩
def PW_STATUS.EXT_LIMIT : Fld := ⟨5, 1⟩
def PW_STATUS.FAST_LIMIT : Fld := ⟨6, 1⟩
def PW_STATUS.LOW_BUS : Fld := ⟨7, 1⟩
def PW_STATUS.LIMIT_NOW : Fld := ⟨8, 12⟩
def PW_INPUT : Nat := y4xWin 2 + 0x10
def PW_INPUT.VIN : Fld := ⟨0, 16⟩
def PW_INPUT.IIN : Fld := ⟨16, 16⟩
def PW_INPUT.PIN : Fld := ⟨32, 16⟩
def PW_TEMP : Nat := y4xWin 2 + 0x18
def PW_TEMP.Y4C0 : Fld := ⟨0, 8⟩
def PW_TEMP.Y4C1 : Fld := ⟨8, 8⟩
def PW_TEMP.Y4X : Fld := ⟨16, 8⟩
def PW_TEMP.G7 : Fld := ⟨24, 8⟩
def PW_TEMP.CONV : Fld := ⟨32, 8⟩
def PW_RATE : Nat := y4xWin 2 + 0x20
def PW_RATE.Y4C0 : Fld := ⟨0, 16⟩
def PW_RATE.Y4C1 : Fld := ⟨16, 16⟩
def PW_RATE.Y4X : Fld := ⟨32, 16⟩
def PW_LAST_OFF : Nat := y4xWin 2 + 0x28
def PW_LAST_OFF.CAUSE : Fld := ⟨0, 4⟩
def PW_LAST_OFF.RAIL : Fld := ⟨4, 3⟩
def PW_LAST_OFF.LATCHED : Fld := ⟨7, 1⟩
def PW_CAP_STEPS : Nat := y4xWin 2 + 0x30
def PW_CAP_STEPS.COUNT : Fld := ⟨0, 32⟩
def PW_TRIPS : Nat := y4xWin 2 + 0x38
def PW_TRIPS.COUNT : Fld := ⟨0, 32⟩
def PW_RAIL (i : Nat) : Nat := y4xWin 2 + 0x100 + 0x8 * i
def PW_RAIL.MV : Fld := ⟨0, 16⟩
def PW_RAIL.CURRENT : Fld := ⟨16, 16⟩
def PW_RAIL.IN_WINDOW : Fld := ⟨32, 1⟩

def rowsPW : List RegRow := [
  ⟨"PW_CTRL", 0x0, 0x8, 1, 0x8, 1, [⟨PW_CTRL.PACE, .rw, 3⟩, ⟨PW_CTRL.LIMIT, .rw, 0x960⟩]⟩,
  ⟨"PW_STATUS", 0x8, 0x8, 1, 0x8, 1, [⟨PW_STATUS.PACE_NOW, .ro, 3⟩, ⟨PW_STATUS.CAPPING, .ro, 0⟩, ⟨PW_STATUS.THROTTLE, .ro, 0⟩, ⟨PW_STATUS.EXT_LIMIT, .ro, 0⟩, ⟨PW_STATUS.FAST_LIMIT, .ro, 0⟩, ⟨PW_STATUS.LOW_BUS, .ro, 0⟩, ⟨PW_STATUS.LIMIT_NOW, .ro, 0⟩]⟩,
  ⟨"PW_INPUT", 0x10, 0x8, 1, 0x8, 1, [⟨PW_INPUT.VIN, .ro, 0⟩, ⟨PW_INPUT.IIN, .ro, 0⟩, ⟨PW_INPUT.PIN, .ro, 0⟩]⟩,
  ⟨"PW_TEMP", 0x18, 0x8, 1, 0x8, 1, [⟨PW_TEMP.Y4C0, .ro, 0⟩, ⟨PW_TEMP.Y4C1, .ro, 0⟩, ⟨PW_TEMP.Y4X, .ro, 0⟩, ⟨PW_TEMP.G7, .ro, 0⟩, ⟨PW_TEMP.CONV, .ro, 0⟩]⟩,
  ⟨"PW_RATE", 0x20, 0x8, 1, 0x8, 1, [⟨PW_RATE.Y4C0, .ro, 0⟩, ⟨PW_RATE.Y4C1, .ro, 0⟩, ⟨PW_RATE.Y4X, .ro, 0⟩]⟩,
  ⟨"PW_LAST_OFF", 0x28, 0x8, 1, 0x8, 1, [⟨PW_LAST_OFF.CAUSE, .ro, 0⟩, ⟨PW_LAST_OFF.RAIL, .ro, 0⟩, ⟨PW_LAST_OFF.LATCHED, .ro, 0⟩]⟩,
  ⟨"PW_CAP_STEPS", 0x30, 0x8, 1, 0x8, 1, [⟨PW_CAP_STEPS.COUNT, .rc, 0⟩]⟩,
  ⟨"PW_TRIPS", 0x38, 0x8, 1, 0x8, 1, [⟨PW_TRIPS.COUNT, .rc, 0⟩]⟩,
  ⟨"PW_RAIL", 0x100, 0x8, 6, 0x8, 1, [⟨PW_RAIL.MV, .ro, 0⟩, ⟨PW_RAIL.CURRENT, .ro, 0⟩, ⟨PW_RAIL.IN_WINDOW, .ro, 0⟩]⟩]

/-! ### TB_ registers (R383) -/

def TB_TIME : Nat := y4xWin 3 + 0x0
def TB_TIME.TIME : Fld := ⟨0, 64⟩
def TB_PPS : Nat := y4xWin 3 + 0x8
def TB_PPS.STATE : Fld := ⟨0, 2⟩
def TB_PPS.LEVEL : Fld := ⟨2, 1⟩
def TB_PPS.STUCK : Fld := ⟨3, 1⟩
def TB_PPS.STEERING : Fld := ⟨4, 1⟩
def TB_PPS_LAST : Nat := y4xWin 3 + 0x10
def TB_PPS_LAST.TIME : Fld := ⟨0, 64⟩
def TB_PPS_ERR : Nat := y4xWin 3 + 0x18
def TB_PPS_ERR.ERR : Fld := ⟨0, 32⟩
def TB_FREQ : Nat := y4xWin 3 + 0x20
def TB_FREQ.CORR : Fld := ⟨0, 32⟩
def TB_IN : Nat := y4xWin 3 + 0x28
def TB_IN.RESET_N : Fld := ⟨0, 1⟩
def TB_IN.EXT_LIMIT_N : Fld := ⟨1, 1⟩
def TB_IN.PPS_IN : Fld := ⟨2, 1⟩
def TB_IN.STRAPS : Fld := ⟨3, 14⟩
def TB_IN.STRAP_MOVED : Fld := ⟨17, 1⟩
def TB_GLITCH : Nat := y4xWin 3 + 0x30
def TB_GLITCH.PPS : Fld := ⟨0, 8⟩
def TB_GLITCH.RESET : Fld := ⟨8, 8⟩
def TB_GLITCH.LIMIT : Fld := ⟨16, 8⟩
def TB_GLITCH.STRAP : Fld := ⟨24, 8⟩
def TB_PPS_ACCEPT : Nat := y4xWin 3 + 0x38
def TB_PPS_ACCEPT.COUNT : Fld := ⟨0, 32⟩
def TB_PPS_REJECT : Nat := y4xWin 3 + 0x40
def TB_PPS_REJECT.COUNT : Fld := ⟨0, 32⟩
def TB_DEFER : Nat := y4xWin 3 + 0x48
def TB_DEFER.COUNT : Fld := ⟨0, 32⟩

def rowsTB : List RegRow := [
  ⟨"TB_TIME", 0x0, 0x8, 1, 0x8, 1, [⟨TB_TIME.TIME, .ro, 0⟩]⟩,
  ⟨"TB_PPS", 0x8, 0x8, 1, 0x8, 1, [⟨TB_PPS.STATE, .ro, 0⟩, ⟨TB_PPS.LEVEL, .ro, 0⟩, ⟨TB_PPS.STUCK, .ro, 0⟩, ⟨TB_PPS.STEERING, .ro, 0⟩]⟩,
  ⟨"TB_PPS_LAST", 0x10, 0x8, 1, 0x8, 1, [⟨TB_PPS_LAST.TIME, .ro, 0⟩]⟩,
  ⟨"TB_PPS_ERR", 0x18, 0x8, 1, 0x8, 1, [⟨TB_PPS_ERR.ERR, .ro, 0⟩]⟩,
  ⟨"TB_FREQ", 0x20, 0x8, 1, 0x8, 1, [⟨TB_FREQ.CORR, .ro, 0⟩]⟩,
  ⟨"TB_IN", 0x28, 0x8, 1, 0x8, 1, [⟨TB_IN.RESET_N, .ro, 1⟩, ⟨TB_IN.EXT_LIMIT_N, .ro, 1⟩, ⟨TB_IN.PPS_IN, .ro, 0⟩, ⟨TB_IN.STRAPS, .ro, 0⟩, ⟨TB_IN.STRAP_MOVED, .w1c, 0⟩]⟩,
  ⟨"TB_GLITCH", 0x30, 0x8, 1, 0x8, 1, [⟨TB_GLITCH.PPS, .rc, 0⟩, ⟨TB_GLITCH.RESET, .rc, 0⟩, ⟨TB_GLITCH.LIMIT, .rc, 0⟩, ⟨TB_GLITCH.STRAP, .rc, 0⟩]⟩,
  ⟨"TB_PPS_ACCEPT", 0x38, 0x8, 1, 0x8, 1, [⟨TB_PPS_ACCEPT.COUNT, .rc, 0⟩]⟩,
  ⟨"TB_PPS_REJECT", 0x40, 0x8, 1, 0x8, 1, [⟨TB_PPS_REJECT.COUNT, .rc, 0⟩]⟩,
  ⟨"TB_DEFER", 0x48, 0x8, 1, 0x8, 1, [⟨TB_DEFER.COUNT, .rc, 0⟩]⟩]

/-! ### TN_ registers (R218) -/

def TN_CTRL : Nat := y4xWin 4 + 0x0
def TN_CTRL.PERIOD : Fld := ⟨0, 12⟩
def TN_CTRL.DISABLE_THRESH : Fld := ⟨12, 4⟩
def TN_CTRL.FLUSH : Fld := ⟨16, 1⟩
def TN_STATUS : Nat := y4xWin 4 + 0x8
def TN_STATUS.FLUSHING : Fld := ⟨0, 1⟩
def TN_STATUS.SCRUB_ACTIVE : Fld := ⟨1, 1⟩
def TN_STATUS.DISABLED : Fld := ⟨2, 19⟩
def TN_STATUS.SET_FULL : Fld := ⟨21, 1⟩
def TN_FAULT : Nat := y4xWin 4 + 0x10
def TN_FAULT.CODE : Fld := ⟨0, 16⟩
def TN_FAULT.CHAMBER : Fld := ⟨16, 10⟩
def TN_FAULT.TAG : Fld := ⟨26, 2⟩
def TN_FAULT.LOST : Fld := ⟨28, 1⟩
def TN_ERR_LOG : Nat := y4xWin 4 + 0x18
def TN_ERR_LOG.VALID : Fld := ⟨0, 1⟩
def TN_ERR_LOG.UNCORR : Fld := ⟨1, 1⟩
def TN_ERR_LOG.DIRTY : Fld := ⟨2, 1⟩
def TN_ERR_LOG.BANK : Fld := ⟨3, 7⟩
def TN_ERR_LOG.SET : Fld := ⟨10, 9⟩
def TN_ERR_LOG.WAY : Fld := ⟨19, 4⟩
def TN_ERR_LOG.CODEWORD : Fld := ⟨23, 3⟩
def TN_ERR_LOG.SCRUB : Fld := ⟨26, 1⟩
def TN_ERR_LOG.OVERWRITTEN : Fld := ⟨27, 1⟩
def TN_CORR : Nat := y4xWin 4 + 0x20
def TN_CORR.COUNT : Fld := ⟨0, 32⟩
def TN_UNCORR : Nat := y4xWin 4 + 0x28
def TN_UNCORR.COUNT : Fld := ⟨0, 32⟩
def TN_REFETCH : Nat := y4xWin 4 + 0x30
def TN_REFETCH.COUNT : Fld := ⟨0, 32⟩
def TN_FAULT_VA : Nat := y4xWin 4 + 0x38
def TN_FAULT_VA.VA : Fld := ⟨0, 48⟩

def rowsTN : List RegRow := [
  ⟨"TN_CTRL", 0x0, 0x8, 1, 0x8, 1, [⟨TN_CTRL.PERIOD, .rw, 0x3C⟩, ⟨TN_CTRL.DISABLE_THRESH, .rw, 4⟩, ⟨TN_CTRL.FLUSH, .wo, 0⟩]⟩,
  ⟨"TN_STATUS", 0x8, 0x8, 1, 0x8, 1, [⟨TN_STATUS.FLUSHING, .ro, 0⟩, ⟨TN_STATUS.SCRUB_ACTIVE, .ro, 0⟩, ⟨TN_STATUS.DISABLED, .ro, 0⟩, ⟨TN_STATUS.SET_FULL, .ro, 0⟩]⟩,
  ⟨"TN_FAULT", 0x10, 0x8, 1, 0x8, 1, [⟨TN_FAULT.CODE, .rc, 0⟩, ⟨TN_FAULT.CHAMBER, .rc, 0⟩, ⟨TN_FAULT.TAG, .rc, 0⟩, ⟨TN_FAULT.LOST, .rc, 0⟩]⟩,
  ⟨"TN_ERR_LOG", 0x18, 0x8, 1, 0x8, 1, [⟨TN_ERR_LOG.VALID, .rc, 0⟩, ⟨TN_ERR_LOG.UNCORR, .rc, 0⟩, ⟨TN_ERR_LOG.DIRTY, .rc, 0⟩, ⟨TN_ERR_LOG.BANK, .rc, 0⟩, ⟨TN_ERR_LOG.SET, .rc, 0⟩, ⟨TN_ERR_LOG.WAY, .rc, 0⟩, ⟨TN_ERR_LOG.CODEWORD, .rc, 0⟩, ⟨TN_ERR_LOG.SCRUB, .rc, 0⟩, ⟨TN_ERR_LOG.OVERWRITTEN, .rc, 0⟩]⟩,
  ⟨"TN_CORR", 0x20, 0x8, 1, 0x8, 1, [⟨TN_CORR.COUNT, .rc, 0⟩]⟩,
  ⟨"TN_UNCORR", 0x28, 0x8, 1, 0x8, 1, [⟨TN_UNCORR.COUNT, .rc, 0⟩]⟩,
  ⟨"TN_REFETCH", 0x30, 0x8, 1, 0x8, 1, [⟨TN_REFETCH.COUNT, .rc, 0⟩]⟩,
  ⟨"TN_FAULT_VA", 0x38, 0x8, 1, 0x8, 1, [⟨TN_FAULT_VA.VA, .rc, 0⟩]⟩]

/-! ### GM_ registers (R219) -/

def GM_CTRL : Nat := y4xWin 5 + 0x0
def GM_CTRL.RATE : Fld := ⟨0, 2⟩
def GM_CTRL.PERIOD : Fld := ⟨2, 12⟩
def GM_CTRL.REGION_THRESH : Fld := ⟨14, 4⟩
def GM_STATUS : Nat := y4xWin 5 + 0x8
def GM_STATUS.TRAINED : Fld := ⟨0, 1⟩
def GM_STATUS.RATE_NOW : Fld := ⟨1, 2⟩
def GM_STATUS.RETIRED : Fld := ⟨3, 9⟩
def GM_STATUS.DEGRADED : Fld := ⟨12, 1⟩
def GM_STATUS.SCRUB_ACTIVE : Fld := ⟨13, 1⟩
def GM_STATUS.MOVING : Fld := ⟨14, 1⟩
def GM_XLAT_BASE : Nat := y4xWin 5 + 0x10
def GM_XLAT_BASE.BASE : Fld := ⟨20, 26⟩
def GM_INVAL : Nat := y4xWin 5 + 0x18
def GM_INVAL.SCOPE : Fld := ⟨0, 2⟩
def GM_INVAL.XLAT : Fld := ⟨2, 16⟩
def GM_INVAL.LOG2_SIZE : Fld := ⟨18, 6⟩
def GM_INVAL_VA : Nat := y4xWin 5 + 0x20
def GM_INVAL_VA.VA : Fld := ⟨0, 48⟩
def GM_INVAL_STATUS : Nat := y4xWin 5 + 0x28
def GM_INVAL_STATUS.DONE : Fld := ⟨0, 1⟩
def GM_INVAL_STATUS.BUSY : Fld := ⟨1, 1⟩
def GM_FAULT : Nat := y4xWin 5 + 0x30
def GM_FAULT.CODE : Fld := ⟨0, 16⟩
def GM_FAULT.CHAMBER : Fld := ⟨16, 10⟩
def GM_FAULT.TAG : Fld := ⟨26, 2⟩
def GM_FAULT.KIND : Fld := ⟨28, 2⟩
def GM_FAULT.LOST : Fld := ⟨30, 1⟩
def GM_FAULT_VA : Nat := y4xWin 5 + 0x38
def GM_FAULT_VA.VA : Fld := ⟨0, 48⟩
def GM_ERR_LOG : Nat := y4xWin 5 + 0x40
def GM_ERR_LOG.VALID : Fld := ⟨0, 1⟩
def GM_ERR_LOG.UNCORR : Fld := ⟨1, 1⟩
def GM_ERR_LOG.CHANNEL : Fld := ⟨2, 6⟩
def GM_ERR_LOG.UNIT : Fld := ⟨8, 19⟩
def GM_ERR_LOG.LINE : Fld := ⟨27, 3⟩
def GM_ERR_LOG.CODEWORD : Fld := ⟨30, 3⟩
def GM_ERR_LOG.SCRUB : Fld := ⟨33, 1⟩
def GM_ERR_LOG.OVERWRITTEN : Fld := ⟨34, 1⟩
def GM_CORR (i : Nat) : Nat := y4xWin 5 + 0x100 + 0x8 * i
def GM_CORR.COUNT : Fld := ⟨0, 32⟩
def GM_UNCORR (i : Nat) : Nat := y4xWin 5 + 0x300 + 0x8 * i
def GM_UNCORR.COUNT : Fld := ⟨0, 32⟩
def GM_RETIRE (i : Nat) : Nat := y4xWin 5 + 0x500 + 0x8 * i
def GM_RETIRE.REGION : Fld := ⟨0, 15⟩
def GM_RETIRE.VALID : Fld := ⟨15, 1⟩

def rowsGM : List RegRow := [
  ⟨"GM_CTRL", 0x0, 0x8, 1, 0x8, 1, [⟨GM_CTRL.RATE, .rw, 1⟩, ⟨GM_CTRL.PERIOD, .rw, 0x1E0⟩, ⟨GM_CTRL.REGION_THRESH, .rw, 8⟩]⟩,
  ⟨"GM_STATUS", 0x8, 0x8, 1, 0x8, 1, [⟨GM_STATUS.TRAINED, .ro, 0⟩, ⟨GM_STATUS.RATE_NOW, .ro, 0⟩, ⟨GM_STATUS.RETIRED, .ro, 0⟩, ⟨GM_STATUS.DEGRADED, .ro, 0⟩, ⟨GM_STATUS.SCRUB_ACTIVE, .ro, 0⟩, ⟨GM_STATUS.MOVING, .ro, 0⟩]⟩,
  ⟨"GM_XLAT_BASE", 0x10, 0x8, 1, 0x8, 1, [⟨GM_XLAT_BASE.BASE, .rw, 0⟩]⟩,
  ⟨"GM_INVAL", 0x18, 0x8, 1, 0x8, 1, [⟨GM_INVAL.SCOPE, .wo, 0⟩, ⟨GM_INVAL.XLAT, .wo, 0⟩, ⟨GM_INVAL.LOG2_SIZE, .wo, 0⟩]⟩,
  ⟨"GM_INVAL_VA", 0x20, 0x8, 1, 0x8, 1, [⟨GM_INVAL_VA.VA, .rw, 0⟩]⟩,
  ⟨"GM_INVAL_STATUS", 0x28, 0x8, 1, 0x8, 1, [⟨GM_INVAL_STATUS.DONE, .ro, 1⟩, ⟨GM_INVAL_STATUS.BUSY, .ro, 0⟩]⟩,
  ⟨"GM_FAULT", 0x30, 0x8, 1, 0x8, 1, [⟨GM_FAULT.CODE, .rc, 0⟩, ⟨GM_FAULT.CHAMBER, .rc, 0⟩, ⟨GM_FAULT.TAG, .rc, 0⟩, ⟨GM_FAULT.KIND, .rc, 0⟩, ⟨GM_FAULT.LOST, .rc, 0⟩]⟩,
  ⟨"GM_FAULT_VA", 0x38, 0x8, 1, 0x8, 1, [⟨GM_FAULT_VA.VA, .rc, 0⟩]⟩,
  ⟨"GM_ERR_LOG", 0x40, 0x8, 1, 0x8, 1, [⟨GM_ERR_LOG.VALID, .rc, 0⟩, ⟨GM_ERR_LOG.UNCORR, .rc, 0⟩, ⟨GM_ERR_LOG.CHANNEL, .rc, 0⟩, ⟨GM_ERR_LOG.UNIT, .rc, 0⟩, ⟨GM_ERR_LOG.LINE, .rc, 0⟩, ⟨GM_ERR_LOG.CODEWORD, .rc, 0⟩, ⟨GM_ERR_LOG.SCRUB, .rc, 0⟩, ⟨GM_ERR_LOG.OVERWRITTEN, .rc, 0⟩]⟩,
  ⟨"GM_CORR", 0x100, 0x8, 64, 0x8, 1, [⟨GM_CORR.COUNT, .rc, 0⟩]⟩,
  ⟨"GM_UNCORR", 0x300, 0x8, 64, 0x8, 1, [⟨GM_UNCORR.COUNT, .rc, 0⟩]⟩,
  ⟨"GM_RETIRE", 0x500, 0x8, 256, 0x8, 1, [⟨GM_RETIRE.REGION, .ro, 0⟩, ⟨GM_RETIRE.VALID, .ro, 0⟩]⟩]

/-! ### AB_ registers (R246) -/

def AB_CTRL : Nat := y4xWin 6 + 0x0
def AB_CTRL.HOLD_TIMEOUT : Fld := ⟨0, 5⟩
def AB_CTRL.REMOTE_PRIO : Fld := ⟨8, 3⟩
def AB_WEDGED : Nat := y4xWin 6 + 0x8
def AB_WEDGED.VALID : Fld := ⟨0, 1⟩
def AB_WEDGED.RESOURCE : Fld := ⟨1, 3⟩
def AB_WEDGED.INDEX : Fld := ⟨4, 10⟩
def AB_FAULT : Nat := y4xWin 6 + 0x10
def AB_FAULT.CODE : Fld := ⟨0, 16⟩
def AB_FAULT.RESOURCE : Fld := ⟨16, 3⟩
def AB_FAULT.INPUT : Fld := ⟨19, 3⟩
def AB_FAULT.TAG : Fld := ⟨22, 2⟩
def AB_FAULT.LOST : Fld := ⟨24, 1⟩
def AB_FAULT.CHAMBER : Fld := ⟨25, 10⟩
def AB_FAULT.NO_TASK : Fld := ⟨35, 1⟩
def AB_BANK_GRANTS (i j : Nat) : Nat := y4xWin 6 + 0x1000 + 0x100 * i + 0x20 * j
def AB_BANK_GRANTS.COUNT : Fld := ⟨0, 32⟩
def AB_BANK_WAIT_SUM (i j : Nat) : Nat := y4xWin 6 + 0x1008 + 0x100 * i + 0x20 * j
def AB_BANK_WAIT_SUM.COUNT : Fld := ⟨0, 32⟩
def AB_BANK_WAIT_MAX (i j : Nat) : Nat := y4xWin 6 + 0x1010 + 0x100 * i + 0x20 * j
def AB_BANK_WAIT_MAX.COUNT : Fld := ⟨0, 32⟩
def AB_CHAN_GRANTS (i j : Nat) : Nat := y4xWin 6 + 0x9000 + 0x100 * i + 0x20 * j
def AB_CHAN_GRANTS.COUNT : Fld := ⟨0, 32⟩
def AB_CHAN_WAIT_SUM (i j : Nat) : Nat := y4xWin 6 + 0x9008 + 0x100 * i + 0x20 * j
def AB_CHAN_WAIT_SUM.COUNT : Fld := ⟨0, 32⟩
def AB_CHAN_WAIT_MAX (i j : Nat) : Nat := y4xWin 6 + 0x9010 + 0x100 * i + 0x20 * j
def AB_CHAN_WAIT_MAX.COUNT : Fld := ⟨0, 32⟩

def rowsAB : List RegRow := [
  ⟨"AB_CTRL", 0x0, 0x8, 1, 0x8, 1, [⟨AB_CTRL.HOLD_TIMEOUT, .rw, 6⟩, ⟨AB_CTRL.REMOTE_PRIO, .rw, 5⟩]⟩,
  ⟨"AB_WEDGED", 0x8, 0x8, 1, 0x8, 1, [⟨AB_WEDGED.VALID, .ro, 0⟩, ⟨AB_WEDGED.RESOURCE, .ro, 0⟩, ⟨AB_WEDGED.INDEX, .ro, 0⟩]⟩,
  ⟨"AB_FAULT", 0x10, 0x8, 1, 0x8, 1, [⟨AB_FAULT.CODE, .rc, 0⟩, ⟨AB_FAULT.RESOURCE, .rc, 0⟩, ⟨AB_FAULT.INPUT, .rc, 0⟩, ⟨AB_FAULT.TAG, .rc, 0⟩, ⟨AB_FAULT.LOST, .rc, 0⟩, ⟨AB_FAULT.CHAMBER, .rc, 0⟩, ⟨AB_FAULT.NO_TASK, .rc, 0⟩]⟩,
  ⟨"AB_BANK_GRANTS", 0x1000, 0x100, 128, 0x20, 5, [⟨AB_BANK_GRANTS.COUNT, .rc, 0⟩]⟩,
  ⟨"AB_BANK_WAIT_SUM", 0x1008, 0x100, 128, 0x20, 5, [⟨AB_BANK_WAIT_SUM.COUNT, .rc, 0⟩]⟩,
  ⟨"AB_BANK_WAIT_MAX", 0x1010, 0x100, 128, 0x20, 5, [⟨AB_BANK_WAIT_MAX.COUNT, .rc, 0⟩]⟩,
  ⟨"AB_CHAN_GRANTS", 0x9000, 0x100, 64, 0x20, 4, [⟨AB_CHAN_GRANTS.COUNT, .rc, 0⟩]⟩,
  ⟨"AB_CHAN_WAIT_SUM", 0x9008, 0x100, 64, 0x20, 4, [⟨AB_CHAN_WAIT_SUM.COUNT, .rc, 0⟩]⟩,
  ⟨"AB_CHAN_WAIT_MAX", 0x9010, 0x100, 64, 0x20, 4, [⟨AB_CHAN_WAIT_MAX.COUNT, .rc, 0⟩]⟩]

/-! ### GL_ registers (R284) -/

def GL_CTRL : Nat := y4xWin 7 + 0x0
def GL_CTRL.MAX_HOPS : Fld := ⟨0, 6⟩
def GL_CTRL.RETRY_LIMIT : Fld := ⟨6, 4⟩
def GL_CTRL.E2E_TIMEOUT : Fld := ⟨10, 5⟩
def GL_CTRL.CREDIT_STALL : Fld := ⟨15, 5⟩
def GL_CTRL.HOLD_BASE : Fld := ⟨20, 8⟩
def GL_CTRL.HOLD_WINDOW : Fld := ⟨28, 8⟩
def GL_CTRL.SLEW_PPM : Fld := ⟨36, 8⟩
def GL_STATUS : Nat := y4xWin 7 + 0x8
def GL_STATUS.ADDR : Fld := ⟨0, 18⟩
def GL_STATUS.MEMBER : Fld := ⟨18, 1⟩
def GL_STATUS.VIEW : Fld := ⟨19, 2⟩
def GL_STATUS.LEADER : Fld := ⟨21, 1⟩
def GL_STATUS.TIME_STATE : Fld := ⟨22, 2⟩
def GL_STATUS.CUT : Fld := ⟨24, 1⟩
def GL_STATUS.ADDR_CLASH : Fld := ⟨25, 1⟩
def GL_MEMBER : Nat := y4xWin 7 + 0x10
def GL_MEMBER.EPOCH : Fld := ⟨0, 32⟩
def GL_MEMBER.LEADER : Fld := ⟨32, 18⟩
def GL_WEIGHT : Nat := y4xWin 7 + 0x18
def GL_WEIGHT.TOTAL : Fld := ⟨0, 21⟩
def GL_WEIGHT.SEEN : Fld := ⟨21, 21⟩
def GL_WEIGHT.OWN : Fld := ⟨42, 4⟩
def GL_TIME : Nat := y4xWin 7 + 0x20
def GL_TIME.OFFSET : Fld := ⟨0, 32⟩
def GL_TIME.MASTER : Fld := ⟨32, 18⟩
def GL_TIME.PPS_DIFF : Fld := ⟨50, 14⟩
def GL_E2E_LOG : Nat := y4xWin 7 + 0x28
def GL_E2E_LOG.DEST : Fld := ⟨0, 18⟩
def GL_E2E_LOG.STATUS : Fld := ⟨18, 4⟩
def GL_E2E_LOG.TYPE : Fld := ⟨22, 4⟩
def GL_E2E_LOG.TAG : Fld := ⟨26, 2⟩
def GL_E2E_LOG.CHAMBER : Fld := ⟨28, 10⟩
def GL_E2E_LOG.VALID : Fld := ⟨38, 1⟩
def GL_E2E_LOG.OVERWRITTEN : Fld := ⟨39, 1⟩
def GL_DROP_NO_ROUTE : Nat := y4xWin 7 + 0x30
def GL_DROP_NO_ROUTE.COUNT : Fld := ⟨0, 32⟩
def GL_DROP_TTL : Nat := y4xWin 7 + 0x38
def GL_DROP_TTL.COUNT : Fld := ⟨0, 32⟩
def GL_DROP_BAD : Nat := y4xWin 7 + 0x40
def GL_DROP_BAD.COUNT : Fld := ⟨0, 32⟩
def GL_E2E_FAIL : Nat := y4xWin 7 + 0x48
def GL_E2E_FAIL.COUNT : Fld := ⟨0, 32⟩
def GL_PORT_CTRL (i : Nat) : Nat := y4xWin 7 + 0x100 + 0x40 * i
def GL_PORT_CTRL.ENABLE : Fld := ⟨0, 1⟩
def GL_PORT_CTRL.FEC : Fld := ⟨1, 1⟩
def GL_PORT_CTRL.RECAL : Fld := ⟨2, 1⟩
def GL_PORT_CTRL.RATE : Fld := ⟨3, 1⟩
def GL_PORT_STATUS (i : Nat) : Nat := y4xWin 7 + 0x108 + 0x40 * i
def GL_PORT_STATUS.STATE : Fld := ⟨0, 3⟩
def GL_PORT_STATUS.WIDTH : Fld := ⟨3, 2⟩
def GL_PORT_STATUS.RATE_NOW : Fld := ⟨5, 1⟩
def GL_PORT_STATUS.FEC_NOW : Fld := ⟨6, 1⟩
def GL_PORT_STATUS.FLAPS : Fld := ⟨7, 5⟩
def GL_PORT_STATUS.HOLD_LEFT : Fld := ⟨12, 16⟩
def GL_PORT_STATUS.LAST_DOWN : Fld := ⟨28, 3⟩
def GL_PORT_NEIGH (i : Nat) : Nat := y4xWin 7 + 0x110 + 0x40 * i
def GL_PORT_NEIGH.ADDR : Fld := ⟨0, 18⟩
def GL_PORT_NEIGH.PORT : Fld := ⟨18, 5⟩
def GL_PORT_NEIGH.VALID : Fld := ⟨23, 1⟩
def GL_PORT_CRC (i : Nat) : Nat := y4xWin 7 + 0x118 + 0x40 * i
def GL_PORT_CRC.COUNT : Fld := ⟨0, 32⟩
def GL_PORT_REPLAY (i : Nat) : Nat := y4xWin 7 + 0x120 + 0x40 * i
def GL_PORT_REPLAY.COUNT : Fld := ⟨0, 32⟩
def GL_PORT_STOMP (i : Nat) : Nat := y4xWin 7 + 0x128 + 0x40 * i
def GL_PORT_STOMP.COUNT : Fld := ⟨0, 32⟩
def GL_PORT_FEC_CORR (i : Nat) : Nat := y4xWin 7 + 0x130 + 0x40 * i
def GL_PORT_FEC_CORR.COUNT : Fld := ⟨0, 32⟩
def GL_PORT_FEC_UNCORR (i : Nat) : Nat := y4xWin 7 + 0x138 + 0x40 * i
def GL_PORT_FEC_UNCORR.COUNT : Fld := ⟨0, 32⟩
def GL_ROUTE_INTRA (i : Nat) : Nat := y4xWin 7 + 0x1000 + 0x8 * i
def GL_ROUTE_INTRA.PORT0 : Fld := ⟨0, 5⟩
def GL_ROUTE_INTRA.PORT1 : Fld := ⟨5, 5⟩
def GL_ROUTE_INTRA.PORT2 : Fld := ⟨10, 5⟩
def GL_ROUTE_INTRA.PORT3 : Fld := ⟨15, 5⟩
def GL_ROUTE_INTRA.VALID : Fld := ⟨20, 1⟩
def GL_ROUTE_INTER (i : Nat) : Nat := y4xWin 7 + 0x2000 + 0x8 * i
def GL_ROUTE_INTER.PORT0 : Fld := ⟨0, 5⟩
def GL_ROUTE_INTER.PORT1 : Fld := ⟨5, 5⟩
def GL_ROUTE_INTER.PORT2 : Fld := ⟨10, 5⟩
def GL_ROUTE_INTER.PORT3 : Fld := ⟨15, 5⟩
def GL_ROUTE_INTER.VALID : Fld := ⟨20, 1⟩

def rowsGL_0 : List RegRow := [
  ⟨"GL_CTRL", 0x0, 0x8, 1, 0x8, 1, [⟨GL_CTRL.MAX_HOPS, .rw, 0x10⟩, ⟨GL_CTRL.RETRY_LIMIT, .rw, 8⟩, ⟨GL_CTRL.E2E_TIMEOUT, .rw, 0xA⟩, ⟨GL_CTRL.CREDIT_STALL, .rw, 0xA⟩, ⟨GL_CTRL.HOLD_BASE, .rw, 0xA⟩, ⟨GL_CTRL.HOLD_WINDOW, .rw, 0x3C⟩, ⟨GL_CTRL.SLEW_PPM, .rw, 0xC8⟩]⟩,
  ⟨"GL_STATUS", 0x8, 0x8, 1, 0x8, 1, [⟨GL_STATUS.ADDR, .ro, 0⟩, ⟨GL_STATUS.MEMBER, .ro, 0⟩, ⟨GL_STATUS.VIEW, .ro, 0⟩, ⟨GL_STATUS.LEADER, .ro, 0⟩, ⟨GL_STATUS.TIME_STATE, .ro, 0⟩, ⟨GL_STATUS.CUT, .ro, 0⟩, ⟨GL_STATUS.ADDR_CLASH, .ro, 0⟩]⟩,
  ⟨"GL_MEMBER", 0x10, 0x8, 1, 0x8, 1, [⟨GL_MEMBER.EPOCH, .ro, 0⟩, ⟨GL_MEMBER.LEADER, .ro, 0⟩]⟩,
  ⟨"GL_WEIGHT", 0x18, 0x8, 1, 0x8, 1, [⟨GL_WEIGHT.TOTAL, .ro, 0⟩, ⟨GL_WEIGHT.SEEN, .ro, 0⟩, ⟨GL_WEIGHT.OWN, .ro, 0⟩]⟩,
  ⟨"GL_TIME", 0x20, 0x8, 1, 0x8, 1, [⟨GL_TIME.OFFSET, .ro, 0⟩, ⟨GL_TIME.MASTER, .ro, 0⟩, ⟨GL_TIME.PPS_DIFF, .ro, 0⟩]⟩,
  ⟨"GL_E2E_LOG", 0x28, 0x8, 1, 0x8, 1, [⟨GL_E2E_LOG.DEST, .rc, 0⟩, ⟨GL_E2E_LOG.STATUS, .rc, 0⟩, ⟨GL_E2E_LOG.TYPE, .rc, 0⟩, ⟨GL_E2E_LOG.TAG, .rc, 0⟩, ⟨GL_E2E_LOG.CHAMBER, .rc, 0⟩, ⟨GL_E2E_LOG.VALID, .rc, 0⟩, ⟨GL_E2E_LOG.OVERWRITTEN, .rc, 0⟩]⟩,
  ⟨"GL_DROP_NO_ROUTE", 0x30, 0x8, 1, 0x8, 1, [⟨GL_DROP_NO_ROUTE.COUNT, .rc, 0⟩]⟩,
  ⟨"GL_DROP_TTL", 0x38, 0x8, 1, 0x8, 1, [⟨GL_DROP_TTL.COUNT, .rc, 0⟩]⟩,
  ⟨"GL_DROP_BAD", 0x40, 0x8, 1, 0x8, 1, [⟨GL_DROP_BAD.COUNT, .rc, 0⟩]⟩,
  ⟨"GL_E2E_FAIL", 0x48, 0x8, 1, 0x8, 1, [⟨GL_E2E_FAIL.COUNT, .rc, 0⟩]⟩,
  ⟨"GL_PORT_CTRL", 0x100, 0x40, 24, 0x8, 1, [⟨GL_PORT_CTRL.ENABLE, .rw, 0⟩, ⟨GL_PORT_CTRL.FEC, .rw, 0⟩, ⟨GL_PORT_CTRL.RECAL, .wo, 0⟩, ⟨GL_PORT_CTRL.RATE, .rw, 0⟩]⟩,
  ⟨"GL_PORT_STATUS", 0x108, 0x40, 24, 0x8, 1, [⟨GL_PORT_STATUS.STATE, .ro, 0⟩, ⟨GL_PORT_STATUS.WIDTH, .ro, 0⟩, ⟨GL_PORT_STATUS.RATE_NOW, .ro, 0⟩, ⟨GL_PORT_STATUS.FEC_NOW, .ro, 0⟩, ⟨GL_PORT_STATUS.FLAPS, .ro, 0⟩, ⟨GL_PORT_STATUS.HOLD_LEFT, .ro, 0⟩, ⟨GL_PORT_STATUS.LAST_DOWN, .ro, 0⟩]⟩,
  ⟨"GL_PORT_NEIGH", 0x110, 0x40, 24, 0x8, 1, [⟨GL_PORT_NEIGH.ADDR, .ro, 0⟩, ⟨GL_PORT_NEIGH.PORT, .ro, 0⟩, ⟨GL_PORT_NEIGH.VALID, .ro, 0⟩]⟩,
  ⟨"GL_PORT_CRC", 0x118, 0x40, 24, 0x8, 1, [⟨GL_PORT_CRC.COUNT, .rc, 0⟩]⟩,
  ⟨"GL_PORT_REPLAY", 0x120, 0x40, 24, 0x8, 1, [⟨GL_PORT_REPLAY.COUNT, .rc, 0⟩]⟩,
  ⟨"GL_PORT_STOMP", 0x128, 0x40, 24, 0x8, 1, [⟨GL_PORT_STOMP.COUNT, .rc, 0⟩]⟩]

def rowsGL_1 : List RegRow := [
  ⟨"GL_PORT_FEC_CORR", 0x130, 0x40, 24, 0x8, 1, [⟨GL_PORT_FEC_CORR.COUNT, .rc, 0⟩]⟩,
  ⟨"GL_PORT_FEC_UNCORR", 0x138, 0x40, 24, 0x8, 1, [⟨GL_PORT_FEC_UNCORR.COUNT, .rc, 0⟩]⟩,
  ⟨"GL_ROUTE_INTRA", 0x1000, 0x8, 128, 0x8, 1, [⟨GL_ROUTE_INTRA.PORT0, .rw, 0x1F⟩, ⟨GL_ROUTE_INTRA.PORT1, .rw, 0x1F⟩, ⟨GL_ROUTE_INTRA.PORT2, .rw, 0x1F⟩, ⟨GL_ROUTE_INTRA.PORT3, .rw, 0x1F⟩, ⟨GL_ROUTE_INTRA.VALID, .rw, 0⟩]⟩,
  ⟨"GL_ROUTE_INTER", 0x2000, 0x8, 2048, 0x8, 1, [⟨GL_ROUTE_INTER.PORT0, .rw, 0x1F⟩, ⟨GL_ROUTE_INTER.PORT1, .rw, 0x1F⟩, ⟨GL_ROUTE_INTER.PORT2, .rw, 0x1F⟩, ⟨GL_ROUTE_INTER.PORT3, .rw, 0x1F⟩, ⟨GL_ROUTE_INTER.VALID, .rw, 0⟩]⟩]

def rowsGL : List RegRow := rowsGL_0 ++ rowsGL_1

/-! ### SY_ registers (R302) -/

def SY_CTRL : Nat := y4xWin 8 + 0x0
def SY_CTRL.SVC_PORT : Fld := ⟨0, 1⟩
def SY_CTRL.COALESCE : Fld := ⟨1, 8⟩
def SY_CTRL.RETRY_LIMIT : Fld := ⟨9, 4⟩
def SY_CTRL.CREDIT_STALL : Fld := ⟨13, 5⟩
def SY_STATUS : Nat := y4xWin 8 + 0x8
def SY_STATUS.SVC_NOW : Fld := ⟨0, 1⟩
def SY_STATUS.ENTRY : Fld := ⟨1, 1⟩
def SY_STATUS.OPEN_SUB : Fld := ⟨2, 6⟩
def SY_STATUS.RUNNING : Fld := ⟨8, 16⟩
def SY_MBOX_IN : Nat := y4xWin 8 + 0x10
def SY_MBOX_IN.DATA : Fld := ⟨0, 62⟩
def SY_MBOX_OUT : Nat := y4xWin 8 + 0x18
def SY_MBOX_OUT.ITEM : Fld := ⟨0, 64⟩
def SY_EVT_POP : Nat := y4xWin 8 + 0x20
def SY_EVT_POP.ITEM : Fld := ⟨0, 64⟩
def SY_EVT_TIME : Nat := y4xWin 8 + 0x28
def SY_EVT_TIME.TIME : Fld := ⟨0, 64⟩
def SY_FIFO_LEVEL : Nat := y4xWin 8 + 0x30
def SY_FIFO_LEVEL.MBOX_IN : Fld := ⟨0, 9⟩
def SY_FIFO_LEVEL.MBOX_OUT : Fld := ⟨9, 9⟩
def SY_FIFO_LEVEL.EVT : Fld := ⟨18, 11⟩
def SY_ADMITS : Nat := y4xWin 8 + 0x38
def SY_ADMITS.COUNT : Fld := ⟨0, 32⟩
def SY_REFUSALS : Nat := y4xWin 8 + 0x40
def SY_REFUSALS.COUNT : Fld := ⟨0, 32⟩
def SY_ENDS_FAILED : Nat := y4xWin 8 + 0x48
def SY_ENDS_FAILED.COUNT : Fld := ⟨0, 32⟩
def SY_PORT_CTRL (i : Nat) : Nat := y4xWin 8 + 0x100 + 0x40 * i
def SY_PORT_CTRL.ENABLE : Fld := ⟨0, 1⟩
def SY_PORT_CTRL.RECAL : Fld := ⟨1, 1⟩
def SY_PORT_STATUS (i : Nat) : Nat := y4xWin 8 + 0x108 + 0x40 * i
def SY_PORT_STATUS.STATE : Fld := ⟨0, 3⟩
def SY_PORT_STATUS.WIDTH : Fld := ⟨3, 2⟩
def SY_PORT_STATUS.LAST_DOWN : Fld := ⟨5, 3⟩
def SY_PORT_CRC (i : Nat) : Nat := y4xWin 8 + 0x110 + 0x40 * i
def SY_PORT_CRC.COUNT : Fld := ⟨0, 32⟩
def SY_PORT_REPLAY (i : Nat) : Nat := y4xWin 8 + 0x118 + 0x40 * i
def SY_PORT_REPLAY.COUNT : Fld := ⟨0, 32⟩
def SY_PORT_FEC_CORR (i : Nat) : Nat := y4xWin 8 + 0x120 + 0x40 * i
def SY_PORT_FEC_CORR.COUNT : Fld := ⟨0, 32⟩
def SY_PORT_FEC_UNCORR (i : Nat) : Nat := y4xWin 8 + 0x128 + 0x40 * i
def SY_PORT_FEC_UNCORR.COUNT : Fld := ⟨0, 32⟩
def SY_PORT_DROP (i : Nat) : Nat := y4xWin 8 + 0x130 + 0x40 * i
def SY_PORT_DROP.COUNT : Fld := ⟨0, 32⟩

def rowsSY_0 : List RegRow := [
  ⟨"SY_CTRL", 0x0, 0x8, 1, 0x8, 1, [⟨SY_CTRL.SVC_PORT, .rw, 0⟩, ⟨SY_CTRL.COALESCE, .rw, 0⟩, ⟨SY_CTRL.RETRY_LIMIT, .rw, 8⟩, ⟨SY_CTRL.CREDIT_STALL, .rw, 0xA⟩]⟩,
  ⟨"SY_STATUS", 0x8, 0x8, 1, 0x8, 1, [⟨SY_STATUS.SVC_NOW, .ro, 0⟩, ⟨SY_STATUS.ENTRY, .ro, 0⟩, ⟨SY_STATUS.OPEN_SUB, .ro, 0⟩, ⟨SY_STATUS.RUNNING, .ro, 0⟩]⟩,
  ⟨"SY_MBOX_IN", 0x10, 0x8, 1, 0x8, 1, [⟨SY_MBOX_IN.DATA, .wo, 0⟩]⟩,
  ⟨"SY_MBOX_OUT", 0x18, 0x8, 1, 0x8, 1, [⟨SY_MBOX_OUT.ITEM, .rc, 0⟩]⟩,
  ⟨"SY_EVT_POP", 0x20, 0x8, 1, 0x8, 1, [⟨SY_EVT_POP.ITEM, .rc, 0⟩]⟩,
  ⟨"SY_EVT_TIME", 0x28, 0x8, 1, 0x8, 1, [⟨SY_EVT_TIME.TIME, .ro, 0⟩]⟩,
  ⟨"SY_FIFO_LEVEL", 0x30, 0x8, 1, 0x8, 1, [⟨SY_FIFO_LEVEL.MBOX_IN, .ro, 0⟩, ⟨SY_FIFO_LEVEL.MBOX_OUT, .ro, 0⟩, ⟨SY_FIFO_LEVEL.EVT, .ro, 0⟩]⟩,
  ⟨"SY_ADMITS", 0x38, 0x8, 1, 0x8, 1, [⟨SY_ADMITS.COUNT, .rc, 0⟩]⟩,
  ⟨"SY_REFUSALS", 0x40, 0x8, 1, 0x8, 1, [⟨SY_REFUSALS.COUNT, .rc, 0⟩]⟩,
  ⟨"SY_ENDS_FAILED", 0x48, 0x8, 1, 0x8, 1, [⟨SY_ENDS_FAILED.COUNT, .rc, 0⟩]⟩,
  ⟨"SY_PORT_CTRL", 0x100, 0x40, 2, 0x8, 1, [⟨SY_PORT_CTRL.ENABLE, .rw, 1⟩, ⟨SY_PORT_CTRL.RECAL, .wo, 0⟩]⟩,
  ⟨"SY_PORT_STATUS", 0x108, 0x40, 2, 0x8, 1, [⟨SY_PORT_STATUS.STATE, .ro, 0⟩, ⟨SY_PORT_STATUS.WIDTH, .ro, 0⟩, ⟨SY_PORT_STATUS.LAST_DOWN, .ro, 0⟩]⟩,
  ⟨"SY_PORT_CRC", 0x110, 0x40, 2, 0x8, 1, [⟨SY_PORT_CRC.COUNT, .rc, 0⟩]⟩,
  ⟨"SY_PORT_REPLAY", 0x118, 0x40, 2, 0x8, 1, [⟨SY_PORT_REPLAY.COUNT, .rc, 0⟩]⟩,
  ⟨"SY_PORT_FEC_CORR", 0x120, 0x40, 2, 0x8, 1, [⟨SY_PORT_FEC_CORR.COUNT, .rc, 0⟩]⟩,
  ⟨"SY_PORT_FEC_UNCORR", 0x128, 0x40, 2, 0x8, 1, [⟨SY_PORT_FEC_UNCORR.COUNT, .rc, 0⟩]⟩]

def rowsSY_1 : List RegRow := [
  ⟨"SY_PORT_DROP", 0x130, 0x40, 2, 0x8, 1, [⟨SY_PORT_DROP.COUNT, .rc, 0⟩]⟩]

def rowsSY : List RegRow := rowsSY_0 ++ rowsSY_1

/-! ### CK_ registers (R325) -/

def CK_CTRL : Nat := y4xWin 9 + 0x0
def CK_CTRL.PATROL_DAYS : Fld := ⟨0, 8⟩
def CK_CTRL.REFRESH_DAYS : Fld := ⟨8, 8⟩
def CK_CTRL.DISTURB_K : Fld := ⟨16, 8⟩
def CK_CTRL.WL_SPREAD : Fld := ⟨24, 8⟩
def CK_STATUS : Nat := y4xWin 9 + 0x8
def CK_STATUS.HEALTH : Fld := ⟨0, 2⟩
def CK_STATUS.WRITING : Fld := ⟨2, 1⟩
def CK_STATUS.PATROL_ACTIVE : Fld := ⟨3, 1⟩
def CK_STATUS.REFRESHING : Fld := ⟨4, 1⟩
def CK_STATUS.CHANNEL_OK : Fld := ⟨5, 8⟩
def CK_WEAR : Nat := y4xWin 9 + 0x10
def CK_WEAR.AVG_ERASE : Fld := ⟨0, 16⟩
def CK_WEAR.MAX_ERASE : Fld := ⟨16, 16⟩
def CK_WEAR.RATED : Fld := ⟨32, 16⟩
def CK_WEAR.PCT_USED : Fld := ⟨48, 8⟩
def CK_SPARE : Nat := y4xWin 9 + 0x18
def CK_SPARE.MIN_SPARE : Fld := ⟨0, 16⟩
def CK_SPARE.MIN_DIE : Fld := ⟨16, 5⟩
def CK_SPARE.FACTORY : Fld := ⟨21, 16⟩
def CK_SPARE.GROWN : Fld := ⟨37, 16⟩
def CK_ERR_LOG : Nat := y4xWin 9 + 0x20
def CK_ERR_LOG.VALID : Fld := ⟨0, 1⟩
def CK_ERR_LOG.UNCORR : Fld := ⟨1, 1⟩
def CK_ERR_LOG.DIE : Fld := ⟨2, 5⟩
def CK_ERR_LOG.PLANE : Fld := ⟨7, 2⟩
def CK_ERR_LOG.BLOCK : Fld := ⟨9, 11⟩
def CK_ERR_LOG.PAGE : Fld := ⟨20, 12⟩
def CK_ERR_LOG.CODEWORD : Fld := ⟨32, 2⟩
def CK_ERR_LOG.PATROL : Fld := ⟨34, 1⟩
def CK_ERR_LOG.OVERWRITTEN : Fld := ⟨35, 1⟩
def CK_LDPC_CORR : Nat := y4xWin 9 + 0x28
def CK_LDPC_CORR.COUNT : Fld := ⟨0, 32⟩
def CK_LDPC_RETRY : Nat := y4xWin 9 + 0x30
def CK_LDPC_RETRY.COUNT : Fld := ⟨0, 32⟩
def CK_UNCORR : Nat := y4xWin 9 + 0x38
def CK_UNCORR.COUNT : Fld := ⟨0, 32⟩
def CK_REFRESH : Nat := y4xWin 9 + 0x40
def CK_REFRESH.COUNT : Fld := ⟨0, 32⟩
def CK_DISTURB : Nat := y4xWin 9 + 0x48
def CK_DISTURB.COUNT : Fld := ⟨0, 32⟩
def CK_MB_READ : Nat := y4xWin 9 + 0x50
def CK_MB_READ.COUNT : Fld := ⟨0, 32⟩
def CK_MB_WRITTEN : Nat := y4xWin 9 + 0x58
def CK_MB_WRITTEN.COUNT : Fld := ⟨0, 32⟩

def rowsCK : List RegRow := [
  ⟨"CK_CTRL", 0x0, 0x8, 1, 0x8, 1, [⟨CK_CTRL.PATROL_DAYS, .rw, 7⟩, ⟨CK_CTRL.REFRESH_DAYS, .rw, 0x5A⟩, ⟨CK_CTRL.DISTURB_K, .rw, 0x64⟩, ⟨CK_CTRL.WL_SPREAD, .rw, 0x20⟩]⟩,
  ⟨"CK_STATUS", 0x8, 0x8, 1, 0x8, 1, [⟨CK_STATUS.HEALTH, .ro, 0⟩, ⟨CK_STATUS.WRITING, .ro, 0⟩, ⟨CK_STATUS.PATROL_ACTIVE, .ro, 0⟩, ⟨CK_STATUS.REFRESHING, .ro, 0⟩, ⟨CK_STATUS.CHANNEL_OK, .ro, 0⟩]⟩,
  ⟨"CK_WEAR", 0x10, 0x8, 1, 0x8, 1, [⟨CK_WEAR.AVG_ERASE, .ro, 0⟩, ⟨CK_WEAR.MAX_ERASE, .ro, 0⟩, ⟨CK_WEAR.RATED, .ro, 0xBB8⟩, ⟨CK_WEAR.PCT_USED, .ro, 0⟩]⟩,
  ⟨"CK_SPARE", 0x18, 0x8, 1, 0x8, 1, [⟨CK_SPARE.MIN_SPARE, .ro, 0⟩, ⟨CK_SPARE.MIN_DIE, .ro, 0⟩, ⟨CK_SPARE.FACTORY, .ro, 0⟩, ⟨CK_SPARE.GROWN, .ro, 0⟩]⟩,
  ⟨"CK_ERR_LOG", 0x20, 0x8, 1, 0x8, 1, [⟨CK_ERR_LOG.VALID, .rc, 0⟩, ⟨CK_ERR_LOG.UNCORR, .rc, 0⟩, ⟨CK_ERR_LOG.DIE, .rc, 0⟩, ⟨CK_ERR_LOG.PLANE, .rc, 0⟩, ⟨CK_ERR_LOG.BLOCK, .rc, 0⟩, ⟨CK_ERR_LOG.PAGE, .rc, 0⟩, ⟨CK_ERR_LOG.CODEWORD, .rc, 0⟩, ⟨CK_ERR_LOG.PATROL, .rc, 0⟩, ⟨CK_ERR_LOG.OVERWRITTEN, .rc, 0⟩]⟩,
  ⟨"CK_LDPC_CORR", 0x28, 0x8, 1, 0x8, 1, [⟨CK_LDPC_CORR.COUNT, .rc, 0⟩]⟩,
  ⟨"CK_LDPC_RETRY", 0x30, 0x8, 1, 0x8, 1, [⟨CK_LDPC_RETRY.COUNT, .rc, 0⟩]⟩,
  ⟨"CK_UNCORR", 0x38, 0x8, 1, 0x8, 1, [⟨CK_UNCORR.COUNT, .rc, 0⟩]⟩,
  ⟨"CK_REFRESH", 0x40, 0x8, 1, 0x8, 1, [⟨CK_REFRESH.COUNT, .rc, 0⟩]⟩,
  ⟨"CK_DISTURB", 0x48, 0x8, 1, 0x8, 1, [⟨CK_DISTURB.COUNT, .rc, 0⟩]⟩,
  ⟨"CK_MB_READ", 0x50, 0x8, 1, 0x8, 1, [⟨CK_MB_READ.COUNT, .rc, 0⟩]⟩,
  ⟨"CK_MB_WRITTEN", 0x58, 0x8, 1, 0x8, 1, [⟨CK_MB_WRITTEN.COUNT, .rc, 0⟩]⟩]

/-! ### PCX_ registers (R393) -/

def PCX_CTRL : Nat := y4xWin 10 + 0x0
def PCX_CTRL.FREEZE : Fld := ⟨0, 1⟩
def PCX_CTRL.CLEAR : Fld := ⟨1, 1⟩
def PCX_WINDOW : Nat := y4xWin 10 + 0x8
def PCX_WINDOW.LENGTH : Fld := ⟨0, 20⟩
def PCX_WINDOW.REPEAT : Fld := ⟨20, 1⟩
def PCX_WSTART : Nat := y4xWin 10 + 0x10
def PCX_WSTART.START : Fld := ⟨0, 64⟩
def PCX_WSTATUS : Nat := y4xWin 10 + 0x18
def PCX_WSTATUS.SEQ : Fld := ⟨0, 32⟩
def PCX_WSTATUS.RUNNING : Fld := ⟨32, 1⟩
def PCX_WEND : Nat := y4xWin 10 + 0x20
def PCX_WEND.TIME : Fld := ⟨0, 64⟩
def PCX_SEL (i : Nat) : Nat := y4xWin 10 + 0x100 + 0x20 * i
def PCX_SEL.EVENT : Fld := ⟨0, 12⟩
def PCX_SEL.ENABLE : Fld := ⟨12, 1⟩
def PCX_SEL.INSTANCE : Fld := ⟨18, 10⟩
def PCX_SEL.BAD : Fld := ⟨63, 1⟩
def PCX_COUNT (i : Nat) : Nat := y4xWin 10 + 0x108 + 0x20 * i
def PCX_COUNT.COUNT : Fld := ⟨0, 48⟩
def PCX_COUNT.OVF : Fld := ⟨48, 1⟩
def PCX_SNAP (i : Nat) : Nat := y4xWin 10 + 0x110 + 0x20 * i
def PCX_SNAP.COUNT : Fld := ⟨0, 48⟩
def PCX_SNAP.MIXED : Fld := ⟨49, 1⟩
def PCX_RATE (i : Nat) : Nat := y4xWin 10 + 0x118 + 0x20 * i
def PCX_RATE.RATE : Fld := ⟨0, 32⟩

def rowsPCX : List RegRow := [
  ⟨"PCX_CTRL", 0x0, 0x8, 1, 0x8, 1, [⟨PCX_CTRL.FREEZE, .rw, 0⟩, ⟨PCX_CTRL.CLEAR, .wo, 0⟩]⟩,
  ⟨"PCX_WINDOW", 0x8, 0x8, 1, 0x8, 1, [⟨PCX_WINDOW.LENGTH, .rw, 0⟩, ⟨PCX_WINDOW.REPEAT, .rw, 0⟩]⟩,
  ⟨"PCX_WSTART", 0x10, 0x8, 1, 0x8, 1, [⟨PCX_WSTART.START, .rw, 0⟩]⟩,
  ⟨"PCX_WSTATUS", 0x18, 0x8, 1, 0x8, 1, [⟨PCX_WSTATUS.SEQ, .ro, 0⟩, ⟨PCX_WSTATUS.RUNNING, .ro, 0⟩]⟩,
  ⟨"PCX_WEND", 0x20, 0x8, 1, 0x8, 1, [⟨PCX_WEND.TIME, .ro, 0⟩]⟩,
  ⟨"PCX_SEL", 0x100, 0x20, 32, 0x8, 1, [⟨PCX_SEL.EVENT, .rw, 0⟩, ⟨PCX_SEL.ENABLE, .rw, 0⟩, ⟨PCX_SEL.INSTANCE, .rw, 0⟩, ⟨PCX_SEL.BAD, .ro, 0⟩]⟩,
  ⟨"PCX_COUNT", 0x108, 0x20, 32, 0x8, 1, [⟨PCX_COUNT.COUNT, .rw, 0⟩, ⟨PCX_COUNT.OVF, .w1c, 0⟩]⟩,
  ⟨"PCX_SNAP", 0x110, 0x20, 32, 0x8, 1, [⟨PCX_SNAP.COUNT, .ro, 0⟩, ⟨PCX_SNAP.MIXED, .ro, 0⟩]⟩,
  ⟨"PCX_RATE", 0x118, 0x20, 32, 0x8, 1, [⟨PCX_RATE.RATE, .ro, 0⟩]⟩]

/-! ### Lookup by address -/

/-- The rows of the 4 KiB page of a chamber window that holds an offset (R385, Table 1). -/
def chRows (off : Nat) : List RegRow :=
  match off / 0x1000 with
  | 0 => rowsCH
  | 1 => rowsAY
  | 2 => rowsLT
  | 3 => rowsSP
  | 4 => rowsFS
  | 5 => rowsGV
  | 6 => rowsCL
  | 7 => rowsABC
  | 8 => rowsST
  | 9 => rowsST
  | 10 => rowsST
  | 12 => rowsPCC
  | _ => []

/-- The rows of Y4X block `k` (R386, Table 2). -/
def y4xRows (k : Nat) : List RegRow :=
  match k with
  | 0 => rowsLN
  | 1 => rowsSC
  | 2 => rowsPW
  | 3 => rowsTB
  | 4 => rowsTN
  | 5 => rowsGM
  | 6 => rowsAB
  | 7 => rowsGL
  | 8 => rowsSY
  | 9 => rowsCK
  | 10 => rowsPCX
  | _ => []

/-- Whether a row holds the register at an offset. -/
def RegRow.has (r : RegRow) (off : Nat) : Bool :=
  r.off ≤ off && (off - r.off) / r.s1 < r.c1 && (off - r.off) % r.s1 % r.s2 == 0 && (off - r.off) % r.s1 / r.s2 < r.c2

/-- The row of the register at a control-space address; none where no register lies (R384). -/
def regRow (a : Nat) : Option RegRow :=
  if a % 8 ≠ 0 then none
  else if chWin 0 ≤ a ∧ a < chWin 1024 then
    (chRows ((a - chWin 0) % 0x10000)).find? (·.has ((a - chWin 0) % 0x10000))
  else if y4xWin 0 ≤ a ∧ a < y4xWin 11 then
    (y4xRows ((a - y4xWin 0) / 0x10000)).find? (·.has ((a - y4xWin 0) % 0x10000))
  else none

/-- A register's value after a full module reset: every field at its Reset column, reserved bits 0 (R7, R8). -/
def resetReg (a : Nat) : Word :=
  match regRow a with
  | none => 0
  | some r => r.fields.foldl (fun v f => fset v f.fld f.reset) 0

end Sys2Proof.Machine
end

