-- ==== Sys2Proof/Machine/State.lean ====
section
/-! DEFINITION. The state of one Y4 module, as plain data, and its value right after a full module reset. -/

namespace Sys2Proof.Machine

/-- Why a step may stop with a fault. No command stops so: an event whose condition does not hold leaves the state as
it is (log entry 2), and every fault of the spec is an effect on the state. -/
inductive Fault where
  /-- Raised by nothing; safe. -/
  | none
  deriving DecidableEq, Repr

/-- Why a command may have no meaning. -/
inductive Refusal where
  /-- Raised by the arm of a command that the model does not give a meaning; safe. -/
  | notModelled (mnemonic : String)
  deriving DecidableEq, Repr

/-- Counter values (R390, R391): COUNT, SNAP and RATE registers by address; the events of the open window and
its MIXED mark by COUNT address; the tick at which each block's window arming write fell. -/
structure Perf where
  vals : List (Nat × Word) := []
  win : List (Nat × Nat) := []
  mixed : List (Nat × Bool) := []
  armed : List (Nat × Nat) := []
  deriving DecidableEq, Repr

/-- A task context out of its chamber (R185, Table 9), in the module's own form. -/
structure SaveImg where
  tag : Nat
  task : Task
  pc : Nat
  prio : Nat
  policy : Nat
  regs : List Word                     -- the per-tag registers in order
  held : List (Nat × Nat × Bool × Slot)  -- slot number, phase, open bit, slot
  chains : List Chain
  arr : List ArrInstr
  lists : List ListInstr
  joins : List GvJoin
  starts : List (Nat × Start)          -- engine, start
  drain : Option SumpDrain
  deriving DecidableEq, Repr

/-- A present line of the tun (R194): dirty or not, and the way it lies in. -/
structure TunLine where
  dirty : Bool := false
  way : Nat := 0
  deriving DecidableEq, Repr

/-- A multicast under way (R233): its group and region, its send start (chamber, tag, instruction), its members, whether the sender's
last element is delivered. -/
structure Mcast where
  group : Nat
  region : Nat
  sender : Nat × Nat × Nat
  members : List Nat := []
  closed : Bool := false
  deriving DecidableEq, Repr

/-- An item of a FIFO of R299: its word, the time it was pushed, and whether an EVT frame carries it. -/
structure Item where
  word : Word
  time : Nat
  sent : Option Nat := none            -- sequence number of the EVT frame that awaits its acknowledgement
  resend : Bool := false               -- sent on a port whose channels have moved: sent again first (R300)
  deriving DecidableEq, Repr

/-- A fault record (R362, Table 13). -/
structure LogRec where
  time : Nat
  seq : Nat
  code : Nat
  source : Nat
  arg : Nat
  kind : Nat
  stage : Nat
  detail : List Word
  deriving DecidableEq, Repr

/-- The logs and FIFOs the Lantern keeps (R299, R362, R215, R356). -/
structure Logs where
  fifoIn : List Item := []
  fifoOut : List Item := []
  evts : List Item := []
  recent : List LogRec := []           -- newest first, at most 256
  ring : List LogRec := []             -- the cask fault log, newest first, at most 786,432
  inSecond : Nat × Nat := (0, 0)       -- second, records stored in it
  seq : Nat := 0                       -- records since first initialisation
  retired : List RetUnit := []
  fenced : List Nat := []              -- chambers in the fence log (R352)
  spareBad : List Nat := []            -- chambers whose spare-row log entry has SPARE_BAD
  spareFor : List (Nat × Nat) := []    -- chamber, row its spare row stands for
  deriving DecidableEq, Repr

/-- The state of the module. -/
structure State where
  clk : Nat := 0
  regs : List (Nat × Word) := []
  perf : Perf := {}
  mem : List (Nat × Byte) := []
  chk : List (Nat × Byte) := []
  poison : List (Nat × Byte) := []     -- the three copies of a codeword's poison flag, in bits 2 to 0 (R206)
  chambers : List (Nat × Chamber) := []
  saves : List (Nat × SaveImg) := []
  tun : List (Nat × TunLine) := []
  tunOff : List (Nat × Nat) := []      -- disabled ways by bank × 512 + set, a bit set
  tunNoise : List (Nat × Byte) := []   -- how the tun's copies differ from G7 DRAM, by codeword × 64 + byte
  scrubs : List (Nat × Nat × Bool) := []   -- scrubber: next codeword, whether its pass runs (R210)
  tunCount : List (Nat × Nat) := []    -- corrected codewords by line location
  flush : List Nat := []               -- lines still to be written back by TN_CTRL.FLUSH
  ytlb : List (Nat × Nat) := []
  arbs : List (Nat × Arb) := []
  arm : List (Nat × Nat) := []         -- arm count by group × 16 + region (R233)
  mcast : List (Nat × Mcast) := []     -- multicasts under way, by number
  inval : Option (Nat × Nat × Nat × Nat) := none   -- scope, context, log2 size, GM_INVAL_VA as it was written
  move : Option (Nat × Nat × Nat) := none    -- region moving, its new region, phase 0 copy 1 rewritten
  moveWait : List Nat := []            -- regions whose move waits for it
  regionCount : List (Nat × Nat) := [] -- corrected codewords by G7 region
  g7Used : List Nat := []              -- regions assigned to pages of the recipe (R214)
  gl : Gallery := {}
  logs : Logs := {}
  disp : Disp := {}
  sy : Sirdy := {}
  cask : Cask := {}
  pw : Power := {}
  svc : Svc := {}
  fuses : Fuses := {}
  hostRead : Word := 0                 -- what the last SY_MBOX_OUT or SY_EVT_POP read returned
  freeCtr : Nat := 0
  pending : List Instr := []
  deriving DecidableEq, Repr

/-- The machine right after a full module reset: registers at their Reset column, memory with nothing listed. -/
def State.reset : State := {}

end Sys2Proof.Machine
end

