-- ==== Sys2Proof/Machine/Ops.lean ====
section
/-! DEFINITION. The named operations over registers, chambers, tasks and counters that the meanings share. -/

namespace Sys2Proof.Machine

/-- The outcome type of every meaning. -/
abbrev Out := Host.Outcome State Fault Refusal

/-! ### Registers -/

/-- The stored value of the register at `a`. -/
def State.reg (s : State) (a : Nat) : Word := kget s.regs a (resetReg a)

/-- Store a register's value. -/
def State.setReg (s : State) (a : Nat) (v : Word) : State :=
  { s with regs := kput s.regs a v (resetReg a) }

/-- A field of a register. -/
def State.get (s : State) (a : Nat) (f : Fld) : Nat := fget (s.reg a) f

/-- Replace a field of a register. -/
def State.set (s : State) (a : Nat) (f : Fld) (x : Nat) : State := s.setReg a (fset (s.reg a) f x)

/-- The one field of every 32-bit counter register. -/
def count32 : Fld := ⟨0, 32⟩

/-- Add to a counter that saturates at 0xFFFF_FFFF (R80, R96, R117, R149, R166, R190, R217, R245). -/
def State.bump (s : State) (a k : Nat) : State :=
  s.set a count32 (min (s.get a count32 + k) 0xFFFFFFFF)

/-- Record a fault code in a block's fault register: LOST where an unread code is replaced. -/
def State.recFault (s : State) (a : Nat) (code lost : Fld) (c : Nat) (more : List (Fld × Nat)) : State :=
  let s := if s.get a code ≠ 0 then s.set a lost 1 else s
  more.foldl (fun s x => s.set a x.1 x.2) (s.set a code c)

/-- A free value (log entry 6). -/
def State.free (s : State) : Word × State :=
  (Config.free s.freeCtr, { s with freeCtr := s.freeCtr + 1 })

/-! ### Chambers and tasks -/

def State.ch (s : State) (n : Nat) : Chamber := kget s.chambers n {}

def State.setCh (s : State) (n : Nat) (c : Chamber) : State := { s with chambers := kput s.chambers n c {} }

/-- Change what chamber `n` holds. -/
def State.modCh (s : State) (n : Nat) (f : Chamber → Chamber) : State := s.setCh n (f (s.ch n))

def State.task (s : State) (n t : Nat) : Task := kget (s.ch n).tasks t {}

def State.setTask (s : State) (n t : Nat) (k : Task) : State :=
  s.modCh n fun c => { c with tasks := kput c.tasks t k {} }

def State.modTask (s : State) (n t : Nat) (f : Task → Task) : State := s.setTask n t (f (s.task n t))

def State.slot (s : State) (n i : Nat) : Slot := kget (s.ch n).slots i {}

def State.setSlot (s : State) (n i : Nat) (v : Slot) : State :=
  s.modCh n fun c => { c with slots := kput c.slots i v {} }

def State.eng (s : State) (n e : Nat) : Engine := kget (s.ch n).engines e {}

def State.setEng (s : State) (n e : Nat) (v : Engine) : State :=
  s.modCh n fun c => { c with engines := kput c.engines e v {} }

def State.region (s : State) (n r : Nat) : Region := kget (s.ch n).regions r {}

def State.setRegion (s : State) (n r : Nat) (v : Region) : State :=
  s.modCh n fun c => { c with regions := kput c.regions r v {} }

/-- Task states (R183, Table 7). -/
def tFree : Nat := 0
def tActive : Nat := 1
def tSaving : Nat := 2
def tAborting : Nat := 3
def tEnded : Nat := 4
def tRestoring : Nat := 5

/-- A task's state as CH_TASK shows it. -/
def State.tstate (s : State) (n t : Nat) : Nat := s.get (CH_TASK n t) CH_TASK.STATE

/-- Whether tag `t` of chamber `n` holds an ACTIVE task. -/
def State.live (s : State) (n t : Nat) : Bool := s.tstate n t = tActive

/-- Set a task's state in CH_TASK, and the ACTIVE mask of CH_STATUS with it. -/
def State.setTstate (s : State) (n t st : Nat) : State :=
  let s := s.set (CH_TASK n t) CH_TASK.STATE st
  let bitT : Fld := ⟨3 + t, 1⟩
  s.set (CH_STATUS n) bitT (bit (decide (st = tActive)))

/-- A task's metadata and range policy: whether TOLERANT (R50). -/
def State.tolerant (s : State) (n t : Nat) : Bool := s.get (CH_TASK n t) CH_TASK.POLICY = 1

/-- The number of instructions in a task's window, shown in CH_TASK.WINDOW (R174). -/
def State.showWindow (s : State) (n t : Nat) : State :=
  s.set (CH_TASK n t) CH_TASK.WINDOW (s.task n t).window.length

/-- The task has made progress: its stall count starts again (R236). -/
def State.progress (s : State) (n t : Nat) : State := s.modTask n t fun k => { k with stall := 0 }

/-- Raise a fault of a task (R188): ABORTING, and of two faults in one abort the first in program order is kept. `id` is
the faulting instruction's place in the order of issue; its PC is that of the window's instruction, 0 if none. -/
def State.taskFault (s : State) (n t code id : Nat) : State :=
  let k := s.task n t
  let st := s.tstate n t
  let pc := ((k.window.find? (·.id = id)).map (·.pc)).getD 0
  if st = tAborting then
    let s := s.set (CH_FAULT n) CH_FAULT.LOST 1
    if id < k.abortId then s.setTask n t { k with abortCode := code, abortId := id, abortPc := pc } else s
  else if st = tActive ∨ st = tSaving ∨ st = tRestoring then
    let s := s.setTstate n t tAborting
    let s := s.set (CH_TASK n t) CH_TASK.PREEMPT_PENDING 0
    s.setTask n t { k with abortCode := code, abortId := id, abortPc := pc, abortSince := s.clk }
  else s

/-- An abort from outside the task's own instructions: it comes after every fault of an issued instruction. -/
def State.abortFrom (s : State) (n t code : Nat) : State := s.taskFault n t code (s.task n t).nextId

/-! ### Performance counters (R387 to R390) -/

/-- Whom an occurrence belongs to: an event whose Tag column is N, no task, or a task's tag (R389). -/
inductive Whose where
  | any | noTask | tag (t : Nat)
  deriving DecidableEq, Repr

/-- Whether a chamber counter's selection takes an occurrence (R389). -/
def selTakes (sel : Word) : Whose → Bool
  | .any => true
  | .noTask => fget sel PCC_SEL.NOTAG = 1
  | .tag t => nbit (fget sel PCC_SEL.TAGS) t

/-- Add to a running count (R390): 48 bits, wrapping with OVF; the open window counts it too (R391). -/
def Perf.add (p : Perf) (a k : Nat) : Perf :=
  let v := kget p.vals a 0
  let c := v.toNat % 2 ^ 48 + k
  let ovf := nbit v.toNat 48 || decide (2 ^ 48 ≤ c)
  { p with
    vals := kput p.vals a (BitVec.ofNat 64 (c % 2 ^ 48 + bit ovf * 2 ^ 48)) 0,
    win := kput p.win a (kget p.win a 0 + k) 0 }

/-- Count `k` occurrences of a chamber event (R387 to R389). -/
def State.tally (s : State) (n ev : Nat) (w : Whose) (k : Nat) : State :=
  if s.get (PCC_CTRL n) PCC_CTRL.FREEZE = 1 then s
  else
    (List.range 8).foldl (fun s i =>
      let sel := s.reg (PCC_SEL n i)
      if fget sel PCC_SEL.ENABLE = 1 ∧ fget sel PCC_SEL.EVENT = ev ∧ selTakes sel w then
        { s with perf := s.perf.add (PCC_COUNT n i) k }
      else s) s

/-- Count `k` occurrences of instance `inst` of a Y4X event. -/
def State.tallyX (s : State) (ev inst k : Nat) : State :=
  if s.get PCX_CTRL PCX_CTRL.FREEZE = 1 then s
  else
    (List.range 32).foldl (fun s i =>
      let sel := s.reg (PCX_SEL i)
      if fget sel PCX_SEL.ENABLE = 1 ∧ fget sel PCX_SEL.EVENT = ev
          ∧ (fget sel PCX_SEL.INSTANCE = inst ∨ fget sel PCX_SEL.INSTANCE = 0x3FF) then
        { s with perf := s.perf.add (PCX_COUNT i) k }
      else s) s

/-! ### Events, FIFOs and the fault log (R299, R300, R362) -/

/-- The item form of 62 data bits. -/
def itemWord (x : Nat) : Word := BitVec.ofNat 64 (2 ^ 63 + x % 2 ^ 62)

/-- A gap marker of `k` dropped items. -/
def gapWord (k : Nat) : Word := BitVec.ofNat 64 (2 ^ 63 + 2 ^ 62 + min k 0xFFFF)

/-- Push into a FIFO of a depth; its last entry takes a gap marker, and every push while the marker is the newest item
adds to its count (R300). -/
def fifoPush (depth : Nat) (q : List Item) (x : Item) : List Item :=
  match q.getLast? with
  | some l =>
    if nbit l.word.toNat 62 then q.dropLast ++ [{ l with word := gapWord (l.word.toNat % 2 ^ 16 + 1) }]
    else if depth ≤ q.length + 1 then q ++ [{ x with word := gapWord 1 }]
    else q ++ [x]
  | none => q ++ [x]

/-- Timebase time (R9). -/
def State.now (s : State) : Nat := (s.reg TB_TIME).toNat

/-- Change the logs. -/
def State.modLogs (s : State) (f : Logs → Logs) : State := { s with logs := f s.logs }

/-- A log has grown: its map unit, one of 64, is written again with the next tick (R306, R311). -/
def State.logGrows (s : State) (k : Nat) : State :=
  { s with cask := { s.cask with due := (s.cask.due ++ [k]).eraseDups } }

/-- Write the spare-row or the retirement log: a cask in READ_ONLY refuses it (R310). -/
def State.keepLog (s : State) (f : Logs → Logs) : State :=
  if 2 ≤ s.get CK_STATUS CK_STATUS.HEALTH then s else (s.modLogs f).logGrows 0

/-- SY_FIFO_LEVEL shows the three occupancies. -/
def State.showFifo (s : State) : State :=
  let s := s.set SY_FIFO_LEVEL SY_FIFO_LEVEL.MBOX_IN s.logs.fifoIn.length
  let s := s.set SY_FIFO_LEVEL SY_FIFO_LEVEL.MBOX_OUT s.logs.fifoOut.length
  s.set SY_FIFO_LEVEL SY_FIFO_LEVEL.EVT s.logs.evts.length

/-- Write a fault record (R362): the newest 256 in the reserved area; at most 64 a second to the cask, whose
READ_ONLY state stores none; a record not stored adds 1 to LN_LOG_LOST. -/
def State.record (s : State) (code source arg kind : Nat) (detail : List Word) : State :=
  let seq := s.logs.seq + 1
  let s := (s.set LN_LOG_SEQ LN_LOG_SEQ.SEQ seq).modLogs fun l => { l with seq := seq }
  let r : LogRec := ⟨s.now, seq, code, source, arg, kind, s.get LN_BOOT LN_BOOT.STAGE, detail⟩
  let sec := s.clk / 100000000
  let k := if s.logs.inSecond.1 = sec then s.logs.inSecond.2 else 0
  let s := s.modLogs fun l => { l with recent := (r :: l.recent).take 256 }
  if 64 ≤ k ∨ 2 ≤ s.get CK_STATUS CK_STATUS.HEALTH then s.bump LN_LOG_LOST 1
  else (s.modLogs fun l => { l with ring := (r :: l.ring).take 786432, inSecond := (sec, k + 1) }).logGrows (16 + seq / 16384 % 48)

/-- Push an event item (R300, Table 13). -/
def State.pushEvent (s : State) (code source arg : Nat) : State :=
  (s.modLogs fun l => { l with
    evts := fifoPush 1024 l.evts
      ⟨itemWord (code % 2 ^ 16 + source % 2 ^ 16 * 2 ^ 16 + arg % 2 ^ 30 * 2 ^ 32), s.now, none, false⟩ }).showFifo

/-- The registers that a task fault's record shows (R362, Table 13): the block's FAULT register, its error log, FAULT_PC, FAULT_VA. -/
def faultRegs (code n : Nat) : List Nat :=
  match code / 256 with
  | 1 => [CH_FAULT n, CH_FAULT_PC n]
  | 2 => [AY_FAULT n, AY_CK_LOG n, CH_FAULT n, CH_FAULT_PC n]
  | 3 => [LT_FAULT n, CH_FAULT n, CH_FAULT_PC n]
  | 4 => [SP_FAULT n, CH_FAULT n, CH_FAULT_PC n]
  | 5 => [FS_FAULT n, CH_FAULT n, CH_FAULT_PC n]
  | 6 => [GV_FAULT n, CH_FAULT n, CH_FAULT_PC n]
  | 7 => [ST_FAULT n, CH_FAULT n, CH_FAULT_PC n]
  | 8 => [ABC_FAULT n, AB_FAULT, CH_FAULT n, CH_FAULT_PC n]
  | 9 => [CL_FAULT n, CL_ERR_LOG n, CH_FAULT n, CH_FAULT_PC n, CL_FAULT_VA n]
  | 10 => [TN_FAULT, TN_ERR_LOG, CH_FAULT n, CH_FAULT_PC n, TN_FAULT_VA]
  | 11 => [GM_FAULT, GM_ERR_LOG, CH_FAULT n, CH_FAULT_PC n, GM_FAULT_VA]
  | _ => [CH_FAULT n, CH_FAULT_PC n]

/-- The registers that an event's record shows: of the unit that it names (log entry 119). -/
def eventRegs (code source : Nat) : List Nat :=
  match code with
  | 0xE001 => (if source < 2 then [SY_PORT_STATUS source] else []) ++ [GL_PORT_STATUS source]
  | 0xE003 => if source < 1024 then [CH_FAULT source, CH_FAULT_PC source, AY_FAULT source, AY_CK_LOG source] else []
  | 0xE004 => [TN_ERR_LOG, GM_ERR_LOG, CK_ERR_LOG]
  | 0xE006 => [GL_TIME]
  | 0xE007 => [PW_STATUS]
  | 0xE008 => [SY_STATUS]
  | _ => [GL_STATUS]

/-- A module event: its item and its fault record (R300, R362). -/
def State.event (s : State) (code source arg : Nat) : State :=
  let s := s.pushEvent code source arg
  s.record code source arg 1 ((eventRegs code source).map s.reg)

/-- The module as the source of an event. -/
def srcModule : Nat := 0xFFFF

/-! ### What AOUT, LN_CHANGE and the alert pins show (R345, R346, R351, R369, R376) -/

def State.modSvc (s : State) (f : Svc → Svc) : State := { s with svc := f s.svc }

/-- Whether a port that a recal command retrains is still at it: in TRAINING or HELLO. -/
def State.portTrains (s : State) (x : Bool × Nat) : Bool :=
  if x.1 then [2, 3].contains (s.get (SY_PORT_STATUS x.2) SY_PORT_STATUS.STATE)
  else [2, 3].contains (s.get (GL_PORT_STATUS x.2) GL_PORT_STATUS.STATE)

/-- The ports that a recal command retrains and that are done with it go. -/
def State.recalPorts (s : State) : State :=
  if s.svc.portRecal.isEmpty then s
  else s.modSvc fun v => { v with portRecal := v.portRecal.filter s.portTrains }

/-- A chamber that retires a cellar row, or runs a third attempt under a spare row just mapped (R74, R213). -/
def State.rowChanging (s : State) : Option Nat :=
  (s.chambers.find? fun c => !c.2.retiring.isEmpty || c.2.arr.any fun a => a.tiles.any fun t => t.attempt = 3 && !t.gone).map (·.1)

/-- The planned change that LN_CHANGE shows (R351, Table 8): its kind and target; a change that holds the dispatcher before any
other. -/
def State.changeShown (s : State) : Nat × Nat :=
  match s.svc.fencing with
  | some n => (1, n)
  | none =>
    if s.svc.change ≠ 0 then
      (s.svc.change, match s.svc.changeReq with
        | some r => r.target
        | none => s.svc.recals.headD 0)
    else if s.svc.switch.isSome then (5, s.get LN_STAGED LN_STAGED.SLOT)
    else
      match s.svc.fwTo, s.svc.staging, s.svc.portRecal.find? s.portTrains, s.rowChanging, s.svc.test with
      | some (_, k, _, _), _, _, _, _ => (2, k)
      | _, some (k, _), _, _, _ => (5, k)
      | _, _, some (_, p), _, _ => (3, p)
      | _, _, _, some n, _ => (4, n)
      | _, _, _, _, some (_, b, n, _) =>
        if s.svc.leaveAt.isSome then (7, 0) else if s.move.isSome then (4, 0) else (9, n.getD b)
      | _, _, _, _, _ => if s.svc.leaveAt.isSome then (7, 0) else if s.move.isSome then (4, 0) else (0, 0)

/-- LN_CHANGE shows the change that runs and how many wait (R341, R351). -/
def State.showChange (s : State) : State :=
  let x := s.changeShown
  let s := (s.set LN_CHANGE LN_CHANGE.KIND x.1).set LN_CHANGE LN_CHANGE.TARGET x.2
  s.set LN_CHANGE LN_CHANGE.QUEUED (min 15 s.svc.waiting.length)

/-- Whether a power or thermal event in the sense of AOUT code 34 is active (R369). -/
def State.powerEvent (s : State) : Bool :=
  s.get PW_STATUS PW_STATUS.THROTTLE = 1 || s.get PW_STATUS PW_STATUS.FAST_LIMIT = 1
    || s.get PW_STATUS PW_STATUS.LOW_BUS = 1 || s.pw.tripped || s.pw.seqFail

/-- The STATUS code: the first that applies (R346). A module that was STOPPED and has left shows 32 (R357; Table 14 of R362). -/
def State.statusCode (s : State) : Nat :=
  if s.get LN_WEDGED LN_WEDGED.VALID = 1 then 30
  else if s.get LN_BOOT LN_BOOT.STAGE = 11 ∧ !s.pw.left then 12 + s.get LN_BOOT LN_BOOT.ERROR
  else if s.svc.noSpare then 35
  else if 2 ≤ s.get CK_STATUS CK_STATUS.HEALTH then 33
  else if s.powerEvent then 34
  else if s.pw.left then 32
  else if s.changeShown.1 ≠ 0 then 31
  else s.get LN_BOOT LN_BOOT.STAGE + 1

/-- The code that AOUT drives and its level in mV (R345, R346): the full-scale check for 100 ms from power-good; unpowered
logic leaves the standby controller's code 34, or 0. -/
def State.aoutNow (s : State) : Nat × Nat :=
  let at_ (c : Nat) : Nat × Nat := (c, 50 * c)
  if !s.pw.rails.headD false then (0, 0)
  else if !s.pw.good then at_ (if s.pw.tripped || s.pw.seqFail then 34 else if s.pw.left then 32 else 0)
  else if s.clk < s.pw.goodAt + 10000000 then at_ 50
  else
    match s.get LN_AOUT LN_AOUT.MODE with
    | 0 => at_ s.statusCode
    | 1 => at_ (if s.get LN_SELFTEST LN_SELFTEST.RUNNING = 1 then 27 else s.svc.tested.getD 28)
    | 2 => (0, min 2500 s.svc.aoutMv)
    | _ => (0, 0)

/-- LN_AOUT and LN_CHANGE show what holds now. -/
def State.showAout (s : State) : State :=
  let s := s.showChange
  let x := s.aoutNow
  (s.set LN_AOUT LN_AOUT.CODE x.1).set LN_AOUT LN_AOUT.LEVEL x.2

/-- What LN_CHANGE shows follows a change that began or ended with a command of its own (R351): a retirement, a spare-row mapping. -/
def State.showFollow (s : State) : State :=
  if s.changeShown = (s.get LN_CHANGE LN_CHANGE.KIND, s.get LN_CHANGE LN_CHANGE.TARGET) then s else s.showAout

/-- ALERT_N: low exactly while the STATUS code would be 30, 33, 34 or 35 (R369). -/
def State.alertN (s : State) : Bool := !([30, 33, 34, 35].contains s.statusCode)

/-- READY_N: low while the stage is SERVING (R376, Table 9). -/
def State.readyN (s : State) : Bool := s.get LN_BOOT LN_BOOT.STAGE != 9

/-! ### Fencing (R76, R352) -/

/-- Chambers fenced now. -/
def State.fencedNow (s : State) : Nat := ((List.range 1024).filter fun n => s.get (CH_STATUS n) CH_STATUS.FENCED = 1).length

/-- Fencing of a chamber starts (R352, Table 9, step 2): HOLD and FENCED are set, it leaves every sparge group, and the
event is raised, with the chamber as its SOURCE. The dispatcher takes no new step, and the running step fails (STEP_FAIL). -/
def State.fenceStart (s : State) (n : Nat) : State :=
  let s := (s.set (CH_CTRL n) CH_CTRL.HOLD 1).set (CH_STATUS n) CH_STATUS.FENCED 1
  let s := (List.range 4).foldl (fun (s : State) k => s.setReg (ST_MEMBER n k) 0) s
  let s := (s.modSvc fun v => { v with fencing := some n }).keepLog fun l => { l with fenced := (l.fenced ++ [n]).eraseDups }
  ((s.set LN_SELFTEST LN_SELFTEST.FENCED s.fencedNow).event 0xE003 n 0).showAout

/-- Whether a chamber's fence waits its turn. -/
def State.fenceWaits (s : State) (n : Nat) : Bool := s.svc.waiting.any fun r => r.kind = 1 && r.target = n

/-- Ask for a chamber's fence (R352, Table 9, step 1): it waits for a change, or another fence, to end, behind the changes that wait
already (R341). -/
def State.fenceAsk (s : State) (n : Nat) : State :=
  if s.get (CH_STATUS n) CH_STATUS.FENCED = 1 ∨ s.fenceWaits n then s
  else if s.svc.change ≠ 0 ∨ s.svc.fencing.isSome then
    (s.modSvc fun v => { v with waiting := v.waiting ++ [⟨.uart, 1, n⟩] }).showChange
  else s.fenceStart n

/-! ### Completion of instructions (R174) -/

/-- Whether FENCE class `c` is in the mask; 0x00 names every class (R172). -/
def fenceNames (mask c : Nat) : Bool := mask = 0 || nbit mask c

/-- Opcode of an instruction word (R167). -/
def opcode (w : BitVec 128) : Nat := w.toNat % 256

/-- Field `[hi:lo]` of an instruction word. -/
def wf (w : BitVec 128) (hi lo : Nat) : Nat := bits w.toNat hi lo

/-- Whether no start of a descriptor and tag is left in either slot of any engine, and none that `id` follows in
program order still waits in an issue queue (R227, R174, Table 5: "The descriptor's last transfer is written"). -/
def State.noStart (s : State) (n t d id : Nat) : Bool :=
  (List.range 4).all fun e =>
    (([(s.eng n e).active, (s.eng n e).pending].all fun x =>
      match x with
      | some st => !(st.tag = t && st.desc = d)
      | none => true)
    && (s.eng n e).queue.all fun st => !(st.tag = t && st.desc = d && st.id < id))

/-- A context becomes ENDED with its end code (R183, R188); a code other than 0 is counted and raised as an event, and
recorded unless it is CH_ABORTED (R300, R362). -/
def State.endTask (s : State) (n t code : Nat) : State :=
  let s := s.setTstate n t tEnded
  let s := s.set (CH_TASK n t) CH_TASK.END_CODE code
  let s := s.set (CH_TASK n t) CH_TASK.PREEMPT_PENDING 0
  if code = 0 then s
  else
    let s := (s.tally n 0x003 (.tag t) 1).pushEvent code n t
    if code = 0x01FF then s else s.record code n t 0 ((faultRegs code n).map s.reg)

/-- The result of a command (R190, Table 16). -/
def State.cmdDone (s : State) (n r : Nat) : State :=
  (s.set (CH_CMD_STATUS n) CH_CMD_STATUS.RESULT r).set (CH_CMD_STATUS n) CH_CMD_STATUS.VALID 1

/-- SWAITs whose starts are gone are complete (R227), so is a FENCE whose earlier instructions of its classes are (R175),
and an END that no earlier instruction precedes any more (R174); they leave the window. An END that completes while a PREEMPT is
pending ends the task, and the PREEMPT is refused (R188). An SWAIT in the window does not hold back the
task's next issue (log entry 8). -/
def State.settle (s : State) (n t : Nat) : State :=
  let k := s.task n t
  let w := k.window.filter fun i => !(opcode i.word = 0x21 && s.noStart n t (wf i.word 13 9) i.id)
  let k := if w.length < k.window.length then { k with window := w, stall := 0 } else k
  let r : Task × Bool := match k.wait with
    | .fence id =>
      match w.find? (·.id = id) with
      | none => ({ k with wait := .none }, false)
      | some f =>
        if w.any (fun i => i.id < id && fenceNames (wf f.word 16 9) (opcode i.word / 16)) then (k, false)
        else ({ k with wait := .none, window := w.filter (·.id != id), stall := 0 }, false)
    | .ending id =>
      if w.any (fun i => i.id < id) then (k, false)
      else ({ k with wait := .none, window := [], saving := false }, s.live n t || (s.tstate n t = tSaving && !k.stopped))
    | _ => (k, false)
  let s := (s.setTask n t r.1).showWindow n t
  if r.2 then
    let saving := s.tstate n t = tSaving
    let s := s.endTask n t 0
    if saving then s.cmdDone n 2 else s
  else s

/-- An instruction of a task is complete: it leaves the window, and a wait that this ends is ended. -/
def State.complete (s : State) (n t id : Nat) : State :=
  let s := s.modTask n t fun k => { k with window := k.window.filter (·.id != id), stall := 0 }
  (s.showWindow n t).settle n t

/-- Look for waits that the end of a start has satisfied. -/
def State.settleAll (s : State) (n : Nat) : State :=
  (List.range 4).foldl (fun s t => s.settle n t) s

end Sys2Proof.Machine
end

