-- ==== Sys2Proof/Machine/GlOps.lean ====
section
/-! DEFINITION. Gallery frames and how a module sends them (R263 to R271). -/

namespace Sys2Proof.Machine

def State.gport (s : State) (p : Nat) : GPortSt := kget s.gl.ports p {}

def State.setGport (s : State) (p : Nat) (v : GPortSt) : State :=
  { s with gl := { s.gl with ports := kput s.gl.ports p v {} } }

def State.modGport (s : State) (p : Nat) (f : GPortSt → GPortSt) : State := s.setGport p (f (s.gport p))

def State.modGl (s : State) (f : Gallery → Gallery) : State := { s with gl := f s.gl }

/-- Port states (R284, Table 13). -/
def gpOff : Nat := 0
def gpDown : Nat := 1
def gpHold : Nat := 2
def gpTraining : Nat := 3
def gpHello : Nat := 4
def gpChecking : Nat := 5
def gpUp : Nat := 6
def gpMiswired : Nat := 7

def State.gpState (s : State) (p : Nat) : Nat := s.get (GL_PORT_STATUS p) GL_PORT_STATUS.STATE

def State.setGpState (s : State) (p st : Nat) : State := s.set (GL_PORT_STATUS p) GL_PORT_STATUS.STATE st

/-- The 24 header bytes of a frame (R263, Table 3). -/
def gHeader (f : GFrame) : List Byte :=
  toBytes 8 (f.type % 16 + f.vc % 4 * 2 ^ 4 + f.hops % 64 * 2 ^ 6 + f.dest % 2 ^ 18 * 2 ^ 12 + f.src % 2 ^ 18 * 2 ^ 30
    + f.payload.length % 2 ^ 12 * 2 ^ 48 + bit f.poison * 2 ^ 60)
  ++ toBytes 8 (f.tag % 2 ^ 16 + f.lseq % 2 ^ 12 * 2 ^ 16 + f.op % 16 * 2 ^ 28 + f.aux % 2 ^ 32 * 2 ^ 32)
  ++ toBytes 8 (if f.type = 0 then f.pa else f.pa % 2 ^ 46)

/-- The correct CRC of a frame (R263). -/
def gCrc (f : GFrame) : BitVec 32 := crc32c (gHeader f ++ f.payload)

/-- A frame with its correct CRC. -/
def gSeal (f : GFrame) : GFrame := { f with crc := gCrc f }

/-- Credit units a frame costs (R266). -/
def gUnits (f : GFrame) : Nat := cdiv (28 + f.payload.length) 64

/-- The VC a frame type travels on (R265, Table 4); 4 for the types that have none. -/
def typeVc (t : Nat) : Nat :=
  match t with
  | 2 => 0
  | 3 => 0
  | 4 => 0
  | 5 => 3
  | 6 => 1
  | 7 => 2
  | 8 => 2
  | _ => 4

/-- The module's own Gallery address. -/
def State.addr (s : State) : Nat := s.get GL_STATUS GL_STATUS.ADDR

/-- Put a frame on a port's link. -/
def State.glEmit (s : State) (p : Nat) (f : GFrame) : State :=
  (s.modGl fun g => { g with out := g.out ++ [(p, f)] }).modGport p fun v => { v with lastTx := s.clk }

/-- Return the units of a frame that is forwarded or consumed (R266). -/
def State.giveBack (s : State) (p vc k : Nat) : State :=
  if 24 ≤ p then s else s.modGport p fun v => { v with ret := v.ret.set vc (v.ret.getD vc 0 + k), ackDue := true }

/-- Return the units of waiting transit frames. -/
def State.giveBackAll (s : State) (l : List (GFrame × Option Nat)) : State :=
  l.foldl (fun s x =>
    match x.2 with
    | some q => s.giveBack q x.1.vc (gUnits x.1)
    | none => s) s

/-- Send waiting frames (a waiting frame marked by a CRC of 1 is a copy to be ended with the inverse CRC, R268) of a port while their VC has the units (R266); a frame waiting on one VC holds back no other.
At most 2,048 frames stay unacknowledged (R267). -/
def glDrain (fuel : Nat) (s : State) (p : Nat) : State :=
  match fuel with
  | 0 => s
  | fuel + 1 =>
    let v := s.gport p
    if s.gpState p ≠ gpUp ∨ 2048 ≤ v.replay.length then s
    else
      match v.txq.find? (fun x => gUnits x.1 ≤ v.credits.getD x.1.vc 0
          && (v.txq.find? (fun y => y.1.vc = x.1.vc)) == some x) with
      | none => s
      | some (f, from_) =>
        let g := gSeal { f with lseq := v.sendSeq }
        let g := if f.crc = 1 then { g with crc := ~~~g.crc } else g
        let c := v.credits.getD f.vc 0 - gUnits f
        let v := { v with
          txq := v.txq.erase (f, from_)
          sendSeq := (v.sendSeq + 1) % 4096
          replay := v.replay ++ [g]
          credits := v.credits.set f.vc c }
        glDrain fuel ((((s.setGport p v).glEmit p g).tallyX 0xB01 p g.payload.length).giveBackAll [(f, from_)]) p

/-- Note since when a credit is held at zero while frames of its VC wait (R268). -/
def State.markStall (s : State) (p : Nat) : State :=
  s.modGport p fun v => { v with
    zeroSince := (List.range 4).map fun k =>
      if v.credits.getD k 0 = 0 ∧ v.txq.any (fun x => x.1.vc = k) then some ((v.zeroSince.getD k none).getD s.clk) else none }

/-- Send what may leave a port. -/
def State.glPump (s : State) (p : Nat) : State := (glDrain ((s.gport p).txq.length + 1) s p).markStall p

/-- Give a frame of VC0 to VC3 to a port; a transit frame lies in the receive buffer of the port that it came by until it leaves. -/
def State.glSendFrom (s : State) (p : Nat) (f : GFrame) (from_ : Option Nat) : State :=
  (s.modGport p fun v => { v with txq := v.txq ++ [(f, from_)] }).glPump p

def State.glSend (s : State) (p : Nat) (f : GFrame) : State := s.glSendFrom p f none

/-- The ports of a route entry in order (R284, Table 14). -/
def routePorts (e : Word) : List Nat :=
  if fget e GL_ROUTE_INTRA.VALID = 0 then []
  else [fget e GL_ROUTE_INTRA.PORT0, fget e GL_ROUTE_INTRA.PORT1, fget e GL_ROUTE_INTRA.PORT2,
    fget e GL_ROUTE_INTRA.PORT3].filter (· < 24)

/-- The route entry for a destination and a VC (R269 step 3). -/
def State.routeEntry (s : State) (dest vc : Nat) : Word :=
  if dest / 128 = s.addr / 128 then s.reg (GL_ROUTE_INTRA (dest % 128))
  else s.reg (GL_ROUTE_INTER (2 * (dest / 128 % 1024) + bit (decide (vc = 1 ∨ vc = 2))))

/-- The first UP port of the route (R269 step 4). -/
def State.route (s : State) (dest vc : Nat) : Option Nat :=
  (routePorts (s.routeEntry dest vc)).find? fun p => s.gpState p = gpUp

/-- A frame for the own address is delivered locally (R269 step 1). -/
def State.deliver (s : State) (p : Nat) (f : GFrame) : State :=
  s.modGl fun g => { g with rx := g.rx ++ [(p, f, s.now)] }

/-- A frame that this module sources. `some code`: it failed at once (R270): 8 no route, 9 not a member. -/
def State.originate (s : State) (f : GFrame) : State × Option Nat :=
  let f := { f with src := s.addr, hops := s.get GL_CTRL GL_CTRL.MAX_HOPS }
  if f.dest = s.addr then (s.deliver 24 (gSeal f), none)
  else if (f.vc = 0 ∨ f.vc = 3) ∧ !s.gl.view.contains f.dest then (s, some 9)
  else
    match s.route f.dest f.vc with
    | none => (s, some 8)
    | some p => (s.glSend p f, none)

/-- A blank frame of a type to a destination. -/
def mkFrame (type dest op aux pa : Nat) (payload : List Byte) : GFrame :=
  { type := type, vc := typeVc type, hops := 0, dest := dest, src := 0, poison := false, tag := 0, lseq := 0,
    op := op, aux := aux, pa := pa, payload := payload, crc := 0 }

/-- Record an end-to-end failure (R272); the failure of a WRITE or MSG may cut the passage (R283). -/
def State.e2eFail (s : State) (dest status type tag n : Nat) : State :=
  let s := if type = 3 ∨ type = 5 then s.modGl fun g => { g with failedTo := (g.failedTo ++ [dest]).eraseDups } else s
  let s := s.bump GL_E2E_FAIL 1
  let s := if s.get GL_E2E_LOG GL_E2E_LOG.VALID = 1 then s.set GL_E2E_LOG GL_E2E_LOG.OVERWRITTEN 1 else s
  let s := s.set GL_E2E_LOG GL_E2E_LOG.DEST dest
  let s := s.set GL_E2E_LOG GL_E2E_LOG.STATUS status
  let s := s.set GL_E2E_LOG GL_E2E_LOG.TYPE type
  let s := s.set GL_E2E_LOG GL_E2E_LOG.TAG tag
  let s := s.set GL_E2E_LOG GL_E2E_LOG.CHAMBER n
  s.set GL_E2E_LOG GL_E2E_LOG.VALID 1

/-- Send a request that awaits a RESPONSE (R272). -/
def State.request (s : State) (f : GFrame) (why : TxnFor) : State × Option Nat :=
  let tag := s.gl.nextTag
  let s := s.modGl fun g => { g with nextTag := (tag + 1) % 65536 }
  match s.originate { f with tag := tag } with
  | (s, some e) => (s, some e)
  | (s, none) =>
    (s.modGl fun g => { g with txns := g.txns ++ [⟨tag, f.type, f.dest, why, s.clk⟩] }, none)

/-- Send a frame that awaits no RESPONSE; where it finds no port, that is a failure (R270). -/
def State.sendOff (s : State) (f : GFrame) : State :=
  match s.originate f with
  | (s, none) => s
  | (s, some e) => s.e2eFail f.dest e f.type 0 0

/-- Answer a request with a RESPONSE (R272, Table 6). -/
def State.respond (s : State) (f : GFrame) (status : Nat) (data : List Byte) (poison : Bool) : State :=
  s.sendOff { mkFrame 6 f.src status 0 0 data with tag := f.tag, poison := poison }

/-- Whether every response carries BUSY (R272, R275): the module leaves, or has not joined, as while it resets. -/
def State.glBusy (s : State) : Bool := s.gl.leaving || !s.gl.joined

end Sys2Proof.Machine
end

