-- ==== Sys2Proof/Machine/RegOps.lean ====
section
/-! DEFINITION. Reading and writing any register by its address under its fields' access codes (R7, R8, R384). -/

namespace Sys2Proof.Machine

/-- Whether an address is a PC_COUNT, PC_SNAP or PC_RATE register, which the counters hold. -/
def isPerf (a : Nat) : Bool :=
  let inC := chWin 0 ≤ a && a < chWin 1024 && 0xC100 ≤ (a - chWin 0) % 0x10000 && (a - chWin 0) % 0x10000 < 0xC200
  let inX := y4xWin 10 + 0x100 ≤ a && a < y4xWin 10 + 0x500
  (inC || inX) && a % 0x20 != 0

/-- The stored value of any register, the counters included. -/
def State.peek (s : State) (a : Nat) : Word := if isPerf a then kget s.perf.vals a 0 else s.reg a

/-- Store any register's value. -/
def State.poke (s : State) (a : Nat) (v : Word) : State :=
  if isPerf a then { s with perf := { s.perf with vals := kput s.perf.vals a v 0 } } else s.setReg a v

/-- Read a register (R7): WO fields read 0; RC fields clear to their reset values in the same access. `none` where
no register lies (R384). -/
def State.readReg (s : State) (a : Nat) : Option (Word × State) :=
  match regRow a with
  | none => none
  | some r =>
    let v := s.peek a
    let seen := r.fields.foldl (fun v f => if f.acc = .wo then fset v f.fld 0 else v) v
    let left := r.fields.foldl (fun v f => if f.acc = .rc then fset v f.fld f.reset else v) v
    some (seen, if left = v then s else s.poke a left)

/-- The value a write leaves by the access codes alone (R7, R8): RW takes the value, W1C clears where 1 is written,
the rest and the reserved bits are ignored. -/
def written (r : RegRow) (old v : Word) : Word :=
  r.fields.foldl (fun x f =>
    match f.acc with
    | .rw => fset x f.fld (fget v f.fld)
    | .w1c => fset x f.fld ((fget old f.fld) &&& (2 ^ f.fld.w - 1 - fget v f.fld))
    | _ => x) old

/-- The classes of event numbers a block takes, and whether Table 3 of "Performance counters" lists the number (R387). -/
def chamberEvent (e : Nat) : Bool :=
  e ≤ 5 || (0x101 ≤ e && e ≤ 0x107) || (0x201 ≤ e && e ≤ 0x205) || (0x301 ≤ e && e ≤ 0x305)
  || (0x401 ≤ e && e ≤ 0x403) || (0x501 ≤ e && e ≤ 0x504) || (0x601 ≤ e && e ≤ 0x609)
  || (0x701 ≤ e && e ≤ 0x706) || (0x708 ≤ e && e ≤ 0x70B) || (0x801 ≤ e && e ≤ 0x803)

/-- Instances of a Y4X event; `none` for a number the Y4X block does not take. -/
def y4xInstances (e : Nat) : Option Nat :=
  if e = 0 ∨ e = 1 then some 1
  else if 0x901 ≤ e ∧ e ≤ 0x904 then some 128
  else if e = 0x905 then some 2
  else if 0xA01 ≤ e ∧ e ≤ 0xA04 then some 64
  else if (0xB01 ≤ e ∧ e ≤ 0xB04) ∨ (0xB10 ≤ e ∧ e ≤ 0xB13) then some 24
  else if e = 0xC01 ∨ e = 0xC02 then some 2
  else if e = 0xC03 ∨ e = 0xC04 then some 1
  else if 0xD01 ≤ e ∧ e ≤ 0xD03 then some 8
  else if 0xE01 ≤ e ∧ e ≤ 0xE08 then some 1
  else none

/-- Whether a chamber selection counts nothing (R387). -/
def chamberSelBad (v : Word) : Bool := !chamberEvent (fget v PCC_SEL.EVENT)

/-- Whether a Y4X selection counts nothing (R387). -/
def y4xSelBad (v : Word) : Bool :=
  match y4xInstances (fget v PCX_SEL.EVENT) with
  | none => true
  | some k => fget v PCX_SEL.INSTANCE != 0x3FF && k ≤ fget v PCX_SEL.INSTANCE

/-- Mark the open window of every counter at `a` and following as MIXED (R391). -/
def State.markMixed (s : State) (a : Nat) : State :=
  { s with perf := { s.perf with mixed := kput s.perf.mixed a true false } }

/-- Counters of the PC_ block whose window base is given: 8 of a chamber, 32 of the Y4X (R387). -/
def pcCounters (base : Nat) : Nat := if base < y4xWin 0 then 8 else 32

/-- Address of register `j` of counter `i` of a PC_ block: 0 SEL, 1 COUNT, 2 SNAP, 3 RATE (R393). -/
def pcReg (base i j : Nat) : Nat := base + 0x100 + 0x20 * i + 8 * j

/-- Set or clear FREEZE of a PC_ block (R390): a change marks every counter's open window (R391). -/
def State.pcFreeze (s : State) (base : Nat) (f : Bool) : State :=
  if s.get base PCC_CTRL.FREEZE = bit f then s
  else (List.range (pcCounters base)).foldl (fun (s : State) i => s.markMixed (pcReg base i 1)) (s.set base PCC_CTRL.FREEZE (bit f))

/-- CLEAR of a PC_ block (R390): every COUNT, OVF and snapshot is zero. -/
def State.pcClear (s : State) (base : Nat) : State :=
  (List.range (pcCounters base)).foldl (fun (s : State) i => (s.poke (pcReg base i 1) 0).poke (pcReg base i 2) 0) s

/-- A window length is written (R391): above 1,000,000 it is ignored; the write arms the windows, or with 0 stops them. -/
def State.pcArm (s : State) (base : Nat) (new : Word) : State :=
  if 1000000 < fget new PCC_WINDOW.LENGTH then s
  else
    let s := s.poke (base + 8) new
    let mine (a : Nat) : Bool := base ≤ a && a < base + 0x1000
    let p := s.perf
    let s := { s with perf := { p with
      armed := kput p.armed base s.clk 0
      win := p.win.filter fun (e : Nat × Nat) => !mine e.1
      mixed := p.mixed.filter fun (e : Nat × Bool) => !mine e.1 } }
    s.set (base + 0x18) PCC_WSTATUS.RUNNING (bit (decide (fget new PCC_WINDOW.LENGTH ≠ 0)))

/-- The chamber whose window holds an address. -/
def chOf (a : Nat) : Option (Nat × Nat) :=
  if chWin 0 ≤ a ∧ a < chWin 1024 then some ((a - chWin 0) / 0x10000, (a - chWin 0) % 0x10000) else none

/-- Whether no sump session of a chamber is open, or still being drained. -/
def State.noSession (s : State) (n : Nat) : Bool :=
  ((List.range 4).all fun t => s.get (SP_SESSION n t) SP_SESSION.OPEN = 0)
    && !((s.ch n).lists.any fun l => opcode l.word = 0x61 && !l.done)

/-- The hash seed written takes effect when no session is open (R117). -/
def State.takeSeed (s : State) (n : Nat) : State :=
  if s.noSession n then s.modCh n fun c => { c with seed := s.get (SP_CTRL n) SP_CTRL.HASH_SEED } else s

/-- A write to a register by its access codes, with the few values and side effects its chapter states: PACE 0, 6 and 7
are ignored (R382), a window above 1,000,000 is ignored and an arming write is remembered (R391), PC_SEL sets BAD
(R387) and MIXED, a hash seed waits for the sessions (R117). -/
def State.writeReg (s : State) (a : Nat) (v : Word) : State :=
  match regRow a with
  | none => s
  | some r =>
    let old := s.peek a
    let new := written r old v
    if a = PW_CTRL ∧ (fget new PW_CTRL.PACE = 0 ∨ 5 < fget new PW_CTRL.PACE) then
      s.poke a (fset new PW_CTRL.PACE (fget old PW_CTRL.PACE))
    else
      match chOf a with
      | some (n, o) =>
        if a = PCC_WINDOW n then s.pcArm (PCC_CTRL n) new
        else if a = PCC_CTRL n then
          let s := s.pcFreeze a (fget v PCC_CTRL.FREEZE = 1)
          if fget v PCC_CTRL.CLEAR = 1 then s.pcClear a else s
        else if 0xC100 ≤ o ∧ o < 0xC200 ∧ o % 0x20 = 0 then
          (s.poke a (fset new PCC_SEL.BAD (bit (chamberSelBad new)))).markMixed (a + 8)
        else if a = SP_CTRL n then (s.poke a new).takeSeed n
        else s.poke a new
      | none =>
        if a = PCX_WINDOW then s.pcArm PCX_CTRL new
        else if a = PCX_CTRL then
          let s := s.pcFreeze a (fget v PCX_CTRL.FREEZE = 1)
          if fget v PCX_CTRL.CLEAR = 1 then s.pcClear a else s
        else if y4xWin 10 + 0x100 ≤ a ∧ a < y4xWin 10 + 0x500 ∧ a % 0x20 = 0 then
          (s.poke a (fset new PCX_SEL.BAD (bit (y4xSelBad new)))).markMixed (a + 8)
        else s.poke a new

/-- Registers of a chamber's window that only the Lantern and the dispatcher write (R176, R184, R190, R80, R233). -/
def lanternOnly (n a : Nat) : Bool :=
  a == CH_CTRL n || a == CH_ROLE n || a == CH_BAR_BASE n || a == CH_CREATE0 n || a == CH_CREATE1 n || a == CH_CREATE2 n
  || a == CH_TASK_CMD n || a == AY_SPARE n || (List.range 4).any fun k => a == ST_MEMBER n k

/-- Whether a task may write a register (R384; log entry 11): those of a chamber's window that are not the Lantern's,
and the Y4X counters. -/
def taskMayWrite (a : Nat) : Bool :=
  match chOf a with
  | some (n, _) => !lanternOnly n a
  | none => y4xWin 10 ≤ a && a < y4xWin 11

end Sys2Proof.Machine
end

