-- ==== Sys2Proof/Machine/MemOps.lean ====
section
/-! DEFINITION. Memory: the physical map, Code T2 codewords, poison, the tun, translation (R191 to R216). One copy of
every data byte is held by physical address; the tun adds which lines are present and dirty. -/

namespace Sys2Proof.Machine

/-! ### The physical map (R191, R192, R198) -/

/-- What a physical address lies in. -/
inductive Place where
  | cellar (n off : Nat)
  | pocket (n off : Nat)
  | g7 (off : Nat)
  | ctrl (a : Nat)
  | hole
  deriving DecidableEq, Repr

/-- The physical map (R191, Table 1). -/
def place (pa : Nat) : Place :=
  if pa < 0x000600000000 then .cellar (pa / 0x01800000) (pa % 0x01800000)
  else if 0x000800000000 ≤ pa ∧ pa < 0x000860000000 then
    .pocket ((pa - 0x000800000000) / 0x00180000) ((pa - 0x000800000000) % 0x00180000)
  else if 0x001000000000 ≤ pa ∧ pa < 0x001A80000000 then .g7 (pa - 0x001000000000)
  else if 0x002000000000 ≤ pa ∧ pa < 0x004000000000 then .ctrl pa
  else .hole

/-- Tier of a cellar offset (R192). -/
def cellarTier (o : Nat) : Nat := o / 256 % 4

/-- Tier-local offset (R192). -/
def cellarLocal (o : Nat) : Nat := o / 1024 * 256 + o % 256

/-- Row of a cellar offset in its tier column. -/
def cellarRow (o : Nat) : Nat := cellarLocal o / 2048

/-- Codeword of a cellar offset within its row. -/
def cellarCw (o : Nat) : Nat := cellarLocal o % 2048 / 32

/-- The key under which codeword `c` of spare row `k` of a tier is held: no address reaches it (R192, log entry 96). -/
def spareCw (n tier k c : Nat) : Nat := 0x000860000000 / 32 + n * 4096 + tier * 1024 + k * 64 + c

/-- The codeword of a spare row behind a key: chamber, tier, row (the spare rows follow the data rows), codeword. -/
def spareOf (cw : Nat) : Option (Nat × Nat × Nat × Nat) :=
  let i := cw - 0x000860000000 / 32
  if 0x000860000000 / 32 ≤ cw ∧ i < 1024 * 4096 then some (i / 4096, i / 1024 % 4, 3072 + i / 64 % 16, i % 64) else none

/-- Codewords of the Lantern reserved area, 32 bytes of each 2 KiB unit (R198): held under keys past usable space, which no
address reaches (log entry 53). -/
def reservedCw (cw : Nat) : Bool := 0x001A80000000 / 32 ≤ cw && cw < 0x001A80000000 / 32 + 25165824

/-- 2 KiB unit of a usable offset (R198). -/
def g7Unit (a : Nat) : Nat := a / 256 / 7

/-- Channel of a usable offset (R198). -/
def g7Chan (a : Nat) : Nat := g7Unit a % 64

/-- Region of a usable offset (R211). -/
def g7Region (a : Nat) : Nat := a / 0x200000

/-- Whether a G7 region is retired (R214). -/
def State.regionRetired (s : State) (r : Nat) : Bool :=
  (List.range 256).any fun i =>
    s.get (GM_RETIRE i) GM_RETIRE.VALID = 1 && s.get (GM_RETIRE i) GM_RETIRE.REGION = r

/-! ### Code T2 (R206, R207) -/

/-- The check bytes: the remainder of x⁴ × d(x) ÷ g(x), byte 32 first. -/
def t2Check (data : List Byte) : List Byte :=
  data.foldl (fun c b =>
    let k := (c.headD 0 ^^^ b).toNat
    let m (g : Nat) : Byte := BitVec.ofNat 8 (gfMul k g)
    [c.getD 1 0 ^^^ m 0x0F, c.getD 2 0 ^^^ m 0x36, c.getD 3 0 ^^^ m 0x78, m 0x40]) [0, 0, 0, 0]

/-- Syndrome S_j = c(α^j), by Horner's rule. -/
def t2Syn (cw : List Byte) (j : Nat) : Nat :=
  cw.foldl (fun a b => gfMul a (gfPow j) ^^^ b.toNat) 0

/-- Inverse in GF(2⁸): a²⁵⁴, the product of a² to a¹²⁸. -/
def gfInv (a : Nat) : Nat :=
  ((List.range 7).foldl (fun r _ => (gfMul r.1 r.1, gfMul r.2 (gfMul r.1 r.1))) (a, 1)).2

/-- Errors in at most two bytes with the given syndromes: positions and values; the codeword has distance 5, so the
answer is unique. -/
def t2Locate (s0 s1 s2 s3 : Nat) : Option (List (Nat × Nat)) :=
  let x (p : Nat) : Nat := gfPow (35 - p)
  let fits (l : List (Nat × Nat)) : Bool :=
    (l.foldl (fun a e => a ^^^ e.2) 0 == s0)
    && (l.foldl (fun a e => a ^^^ gfMul e.2 (x e.1)) 0 == s1)
    && (l.foldl (fun a e => a ^^^ gfMul e.2 (gfMul (x e.1) (x e.1))) 0 == s2)
    && (l.foldl (fun a e => a ^^^ gfMul e.2 (gfMul (x e.1) (gfMul (x e.1) (x e.1)))) 0 == s3)
  match (List.range 36).find? (fun p => fits [(p, s0)]) with
  | some p => some [(p, s0)]
  | none =>
    (List.range 36).findSome? fun p =>
      (List.range 36).findSome? fun q =>
        if p < q then
          let v := gfMul (s1 ^^^ gfMul s0 (x p)) (gfInv (x p ^^^ x q))
          let l := [(p, s0 ^^^ v), (q, v)]
          if v ≠ 0 ∧ s0 ^^^ v ≠ 0 ∧ fits l then some l else none
        else none

/-- What reading a codeword finds (R207). -/
inductive T2 where
  | good
  | corrected (cw : List Byte)
  | uncorrectable
  deriving DecidableEq, Repr

/-- Decode 36 codeword bytes (R207). -/
def t2Decode (cw : List Byte) : T2 :=
  let s0 := t2Syn cw 0
  let s1 := t2Syn cw 1
  let s2 := t2Syn cw 2
  let s3 := t2Syn cw 3
  if s0 = 0 ∧ s1 = 0 ∧ s2 = 0 ∧ s3 = 0 then .good
  else
    match t2Locate s0 s1 s2 s3 with
    | none => .uncorrectable
    | some l => .corrected (l.foldl (fun c e => c.modify e.1 fun b => b ^^^ BitVec.ofNat 8 e.2) cw)

/-! ### Stored bytes and codewords -/

/-- What an unlisted byte of memory reads as (log entry 3). -/
def emptyByte : Byte := 0

/-- One stored data byte, of G7 DRAM the one at its channel. -/
def State.cell (s : State) (pa : Nat) : Byte := kget s.mem pa emptyByte

def State.setByte (s : State) (pa : Nat) (b : Byte) : State := { s with mem := kput s.mem pa b emptyByte }

/-- Store consecutive bytes. -/
def storeBytes (s : State) (pa : Nat) (l : List Byte) : State :=
  match l with
  | [] => s
  | b :: r => storeBytes (s.setByte pa b) (pa + 1) r

/-- The 36 stored bytes of a codeword, of G7 DRAM those at its channel. -/
def State.codeword (s : State) (cw : Nat) : List Byte :=
  (List.range 32).map (fun i => s.cell (cw * 32 + i)) ++ (List.range 4).map fun i => kget s.chk (cw * 4 + i) 0

/-- How byte `i` of the tun's copy of a codeword differs from the G7 DRAM's; byte 36 holds the copies of the poison flag. -/
def State.noise (s : State) (cw i : Nat) : Byte := kget s.tunNoise (cw * 64 + i) 0

def State.setNoise (s : State) (cw i : Nat) (b : Byte) : State :=
  { s with tunNoise := kput s.tunNoise (cw * 64 + i) b 0 }

/-- Forget what the tun's copies of some codewords differ in. -/
def State.dropNoise (s : State) (p : Nat → Bool) : State :=
  { s with tunNoise := s.tunNoise.filter fun e => !p (e.1 / 64) }

/-- A data byte as its readers see it: in the tun's copy where its line is present (R194). -/
def State.byte (s : State) (pa : Nat) : Byte := s.cell pa ^^^ s.noise (pa / 32) (pa % 32)

/-- Data bytes `[pa, pa + k)` as their readers see them. -/
def State.bytes (s : State) (pa k : Nat) : List Byte := (List.range k).map fun i => s.byte (pa + i)

/-- The flag that three copies in bits 2 to 0 hold, by majority (R206). -/
def majority (b : Byte) : Bool := decide (2 ≤ bit (b.getLsbD 0) + bit (b.getLsbD 1) + bit (b.getLsbD 2))

/-- Three copies of a flag. -/
def thrice (b : Bool) : Byte := if b then 7 else 0

/-- The poison flag of codeword `cw` (physical address ÷ 32) where it is stored, of G7 DRAM at its channel. -/
def State.cellPoison (s : State) (cw : Nat) : Bool := majority (kget s.poison cw 0)

/-- The copies of a codeword's poison flag, as its readers see them. -/
def State.flags (s : State) (cw : Nat) : Byte := kget s.poison cw 0 ^^^ s.noise cw 36

/-- The poison flag of codeword `cw`, as its readers see it. -/
def State.poisoned (s : State) (cw : Nat) : Bool := majority (s.flags cw)

def State.setPoison (s : State) (cw : Nat) (b : Byte) : State := { s with poison := kput s.poison cw b 0 }

/-- The 36 bytes of a codeword as its readers see them. -/
def State.seen (s : State) (cw : Nat) : List Byte := (s.codeword cw).mapIdx fun i b => b ^^^ s.noise cw i

/-- Store the check bytes of a codeword. -/
def State.setChk (s : State) (cw : Nat) (l : List Byte) : State :=
  { s with chk := (List.range 4).foldl (fun m i => kput m (cw * 4 + i) (l.getD i 0) 0) s.chk }

/-- Store the 36 bytes of a codeword and the copies of its poison flag, of G7 DRAM at its channel. -/
def State.putRaw (s : State) (cw : Nat) (l : List Byte) (flags : Byte) : State :=
  ((storeBytes s (cw * 32) (l.take 32)).setChk cw (l.drop 32)).setPoison cw flags

/-- Store a codeword in the tun's copy of its line, G7 DRAM's staying what it is. -/
def State.putTun (s : State) (cw : Nat) (l : List Byte) (flags : Byte) : State :=
  let base := s.codeword cw
  let s := (List.range 36).foldl (fun (s : State) i => s.setNoise cw i (l.getD i 0 ^^^ base.getD i 0)) s
  s.setNoise cw 36 (flags ^^^ kget s.poison cw 0)

/-- Whether a G7 line is present in the tun (R194). -/
def State.inTun (s : State) (line : Nat) : Bool := (kfind s.tun line).isSome

/-- Whether a tun line is present and clean. -/
def State.cleanLine (s : State) (line : Nat) : Bool := (kfind s.tun line).any fun t => !t.dirty

/-- Store what the readers of a codeword see: in the tun's copy where its line is present, else where it is stored. -/
def State.putSeen (s : State) (cw : Nat) (l : List Byte) (flags : Byte) : State :=
  if s.inTun (cw / 8) then s.putTun cw l flags else s.putRaw cw l flags

/-- Store a whole codeword: new check bytes, the given poison flag (R208, R209). -/
def State.putCw (s : State) (cw : Nat) (data : List Byte) (poison : Bool) : State :=
  s.putSeen cw (data ++ t2Check data) (thrice poison)

/-- Store a codeword at its G7 DRAM channel; the tun's copy of its line stays what it was. -/
def State.putDram (s : State) (cw : Nat) (l : List Byte) (flags : Byte) : State :=
  if s.inTun (cw / 8) then (s.putRaw cw l flags).putTun cw (s.seen cw) (s.flags cw) else s.putRaw cw l flags

/-- Change one byte of a codeword. -/
def xorAt (l : List Byte) (i : Nat) (x : Byte) : List Byte := l.modify i fun b => b ^^^ x

/-- Noise on the copies of a poison flag: position 36 of its codeword. -/
def upsetFlags (u : Upset) (b : Byte) : Byte := if u.pos = 36 then b ^^^ u.xor else b

/-- Noise that has reached the copy of a codeword that its readers see. -/
def State.upset (s : State) (u : Upset) : State :=
  let hit := s.putSeen u.cw (xorAt (s.seen u.cw) u.pos u.xor) (upsetFlags u (s.flags u.cw))
  match place (u.cw * 32) with
  | .ctrl _ => s
  | .hole => if (spareOf u.cw).isSome || reservedCw u.cw then hit else s
  | _ => hit

/-- Noise that has reached a codeword at its G7 DRAM channel. -/
def State.upsetDram (s : State) (u : Upset) : State :=
  s.putDram u.cw (xorAt (s.codeword u.cw) u.pos u.xor) (upsetFlags u (kget s.poison u.cw 0))

/-! ### Error records and retirement triggers (R210, R211, R217 to R219) -/

/-- Record a found error in an error log: OVERWRITTEN where an unread record is replaced. -/
def State.errLog (s : State) (a : Nat) (valid ovr : Fld) (fs : List (Fld × Nat)) : State :=
  let o := s.get a valid
  let s := s.setReg a 0
  let s := fs.foldl (fun s x => s.set a x.1 x.2) s
  (s.set a ovr o).set a valid 1

/-- Whether `c` corrected codewords, or an uncorrectable one, trigger retirement at a threshold; 0 triggers on the
uncorrectable only (R211). -/
def triggers (thresh c : Nat) (uncorr : Bool) : Bool := uncorr || (thresh ≠ 0 && thresh ≤ c)

/-- The register of the spares used in a tier (R217, Table 11). -/
def clSpares (t : Nat) : Fld := ⟨5 * t, 5⟩

/-- The spares of a tier column that serve no row and have not failed, in order. -/
def State.freeSpares (s : State) (n tier : Nat) : List Nat :=
  let m := (s.ch n).rowMap.filter fun e => e.1 / 4096 = tier
  (List.range 16).filter fun k => !(m.any fun e => e.2 = k || e.1 % 4096 = 3072 + k)

/-- Start the retirement of a cellar row: steps 1 and 2 of Table 7 (R213). A spare row is a row like any other (step 5). -/
def State.retireRow (s : State) (n tier row : Nat) : State :=
  let waits := (s.ch n).retiring.filter fun x => x / 4096 = tier
  let free := (s.freeSpares n tier).filter fun k => !(waits ++ [row]).any fun x => x % 4096 = 3072 + k
  if waits.contains (tier * 4096 + row) then s
  else if waits.length < free.length then
    (s.set (CL_STATUS n) CL_STATUS.RETIRING 1).modCh n fun c =>
      { c with retiring := c.retiring ++ [tier * 4096 + row] }
  else s.set (CL_STATUS n) CL_STATUS.EXHAUSTED 1

/-- A row's addresses map to spare `k` of its tier column; a spare that it leaves serves no row any more (R213). -/
def State.spareRow (s : State) (n tier row k : Nat) : State :=
  let key := tier * 4096 + row
  (s.set (CL_STATUS n) (clSpares tier) (s.get (CL_STATUS n) (clSpares tier) + 1)).modCh n fun c =>
    let m := kset c.rowMap key k
    { c with rowMap := (kfind c.rowMap key).elim m fun j => kset m (tier * 4096 + 3072 + j) k }

/-- The highest of the regions below `r` that is neither retired nor assigned to a page of the recipe. -/
def freeBelow (s : State) (r : Nat) : Option Nat :=
  match r with
  | 0 => none
  | r + 1 => if s.regionRetired r || s.g7Used.contains r then freeBelow s r else some r

/-- A free G7 region (R214): of several, the model takes the highest (log entry 9). -/
def State.freeRegion (s : State) : Option Nat := freeBelow s 21504

/-- Start a G7 region move: steps 1 and 2 of Table 8 (R214). While another region moves, this one waits. -/
def State.retireRegion (s : State) (r : Nat) : State :=
  if s.regionRetired r ∨ s.moveWait.contains r ∨ s.move.any (fun m => m.1 = r) then s
  else if s.move.isSome then { s with moveWait := s.moveWait ++ [r] }
  else
    match s.freeRegion with
    | some f =>
      if s.get GM_STATUS GM_STATUS.RETIRED < 256 then
        { (s.set GM_STATUS GM_STATUS.MOVING 1) with move := some (r, f, 0) }
      else s.set GM_STATUS GM_STATUS.DEGRADED 1
    | none => s.set GM_STATUS GM_STATUS.DEGRADED 1

/-- An error found in codeword `cw` of a cellar row. -/
def State.cellarError (s : State) (n tier row cw : Nat) (uncorr scrub : Bool) : State :=
  let s := s.bump (if uncorr then CL_UNCORR n else CL_CORR n) 1
  let s := if uncorr then s else s.tally n 0x801 .any 1
  let key := tier * 4096 + row
  let c := kget (s.ch n).rowCount key 0 + bit (!uncorr)
  let s := s.modCh n fun h => { h with rowCount := kput h.rowCount key c 0 }
  let s := s.errLog (CL_ERR_LOG n) CL_ERR_LOG.VALID CL_ERR_LOG.OVERWRITTEN
    [(CL_ERR_LOG.UNCORR, bit uncorr), (CL_ERR_LOG.TIER, tier), (CL_ERR_LOG.ROW, row),
     (CL_ERR_LOG.CODEWORD, cw), (CL_ERR_LOG.SCRUB, bit scrub)]
  if triggers (s.get (CL_CTRL n) CL_CTRL.RETIRE_THRESH) c uncorr then s.retireRow n tier row else s

/-- An error found in a pocket codeword. -/
def State.pocketError (s : State) (n o : Nat) (uncorr scrub : Bool) : State :=
  let s := s.bump (if uncorr then CL_POCKET_UNCORR n else CL_POCKET_CORR n) 1
  let s := if uncorr then s else s.tally n 0x802 .any 1
  let key := 65536 + o / 2048
  let c := kget (s.ch n).rowCount key 0 + bit (!uncorr)
  let s := s.modCh n fun h => { h with rowCount := kput h.rowCount key c 0 }
  let s := s.errLog (CL_ERR_LOG n) CL_ERR_LOG.VALID CL_ERR_LOG.OVERWRITTEN
    [(CL_ERR_LOG.STORE, 1), (CL_ERR_LOG.UNCORR, bit uncorr), (CL_ERR_LOG.ROW, o / 2048),
     (CL_ERR_LOG.CODEWORD, o % 2048 / 32), (CL_ERR_LOG.SCRUB, bit scrub)]
  if triggers (s.get (CL_CTRL n) CL_CTRL.RETIRE_THRESH) c uncorr then (s.set (CL_STATUS n) CL_STATUS.POCKET_WORN 1).fenceAsk n else s

/-- Write a dirty line back (R194): each codeword is read in the tun, corrected or found uncorrectable (R207), and stored at
its channel with the poison it carries (R209); the line stays, clean. The errors found come beside it. -/
def State.storeBack (s : State) (line : Nat) : State × List (Nat × Bool) :=
  let s := (s.tallyX 0x903 (Config.tunBank line % 128) 1).tallyX 0xA02 (g7Chan (line * 256 - 0x001000000000)) 256
  let (s, es) := (List.range 8).foldl (fun (a : State × List (Nat × Bool)) i =>
    let cw := line * 8 + i
    let c := a.1.seen cw
    let p := a.1.poisoned cw
    let put (l : List Byte) (p : Bool) : State := a.1.putRaw cw (l.take 32 ++ t2Check (l.take 32)) (thrice p)
    match t2Decode c with
    | .good => (put c p, a.2)
    | .corrected f => (put f p, a.2 ++ [(cw, false)])
    | .uncorrectable => (put c true, a.2 ++ [(cw, true)])) (s, [])
  let s := s.dropNoise fun cw => cw / 8 == line
  ({ s with tun := (kfind s.tun line).elim s.tun fun t => kset s.tun line { t with dirty := false } }, es)

/-- Count and log an error found in a tun codeword, and tell whether its way's trigger is reached. -/
def State.tunFound (s : State) (cw : Nat) (dirty uncorr scrub : Bool) : State × Bool :=
  let line := cw / 8
  let t := kget s.tun line {}
  let bank := Config.tunBank line % 128
  let set := Config.tunSet line % 512
  let s := s.bump (if uncorr then TN_UNCORR else TN_CORR) 1
  let key := (bank * 512 + set) * 16 + t.way
  let c := kget s.tunCount key 0 + bit (!uncorr)
  let s := { s with tunCount := kput s.tunCount key c 0 }
  let s := s.errLog TN_ERR_LOG TN_ERR_LOG.VALID TN_ERR_LOG.OVERWRITTEN
    [(TN_ERR_LOG.UNCORR, bit uncorr), (TN_ERR_LOG.DIRTY, bit dirty), (TN_ERR_LOG.BANK, bank),
     (TN_ERR_LOG.SET, set), (TN_ERR_LOG.WAY, t.way), (TN_ERR_LOG.CODEWORD, cw % 8), (TN_ERR_LOG.SCRUB, bit scrub)]
  (s, triggers (s.get TN_CTRL TN_CTRL.DISABLE_THRESH) c uncorr)

/-- Disable a tun way, or set SET_FULL (R211): at most 4 ways of a set. -/
def State.disableWay (s : State) (line way : Nat) : State :=
  let set := Config.tunBank line % 128 * 512 + Config.tunSet line % 512
  let off := kget s.tunOff set 0
  let used := ((List.range 16).filter fun w => nbit off w).length
  if 4 ≤ used then s.set TN_STATUS TN_STATUS.SET_FULL 1
  else
    let s := (s.set TN_STATUS TN_STATUS.DISABLED (s.get TN_STATUS TN_STATUS.DISABLED + 1)).event 0xE004 srcModule set
    let s := s.keepLog fun l => { l with retired := l.retired ++ [.tunWay (set / 512) (set % 512) way] }
    let s := if s.cleanLine line then s else
      let (s, es) := s.storeBack line
      es.foldl (fun (s : State) e => (s.tunFound e.1 true e.2 false).1) s
    { s.dropNoise fun cw => cw / 8 == line with
      tunOff := kput s.tunOff set (off ||| 2 ^ way) 0
      tun := s.tun.filter fun e => e.1 != line }

/-- An error found in a tun codeword: the line location's count, the log, the way's trigger. -/
def State.tunError (s : State) (cw : Nat) (dirty uncorr scrub : Bool) : State :=
  let (s, hit) := s.tunFound cw dirty uncorr scrub
  if hit then s.disableWay (cw / 8) (kget s.tun (cw / 8) {}).way else s

/-- A dirty line is written back, with the errors that this finds (R194, R207, R211). -/
def State.wroteBack (s : State) (line : Nat) : State :=
  let (s, es) := s.storeBack line
  es.foldl (fun (s : State) e => if s.inTun line then s.tunError e.1 true e.2 false else s) s

/-- An error found in a G7 codeword read at its channel, by usable offset; past usable space the reserved bytes of unit after
unit, which lie in no region (R198). -/
def State.g7Error (s : State) (a : Nat) (uncorr scrub : Bool) : State :=
  let usable := a < 0x000A80000000
  let unit := if usable then g7Unit a else (a - 0x000A80000000) / 32
  let s := s.bump (if uncorr then GM_UNCORR (unit % 64) else GM_CORR (unit % 64)) 1
  let s := if uncorr then s else s.tallyX 0xA04 (unit % 64) 1
  let s := s.errLog GM_ERR_LOG GM_ERR_LOG.VALID GM_ERR_LOG.OVERWRITTEN
    [(GM_ERR_LOG.UNCORR, bit uncorr), (GM_ERR_LOG.CHANNEL, unit % 64), (GM_ERR_LOG.UNIT, unit / 64),
     (GM_ERR_LOG.LINE, if usable then a / 256 % 7 else 7), (GM_ERR_LOG.CODEWORD, if usable then a % 256 / 32 else 0),
     (GM_ERR_LOG.SCRUB, bit scrub)]
  if usable then
    let c := kget s.regionCount (g7Region a) 0 + bit (!uncorr)
    let s := { s with regionCount := kput s.regionCount (g7Region a) c 0 }
    if triggers (s.get GM_CTRL GM_CTRL.REGION_THRESH) c uncorr then s.retireRegion (g7Region a) else s
  else s

/-! ### The tun (R194, R195) -/

/-- Lines of the tun in the bank and set of a line. -/
def State.tunSetLines (s : State) (line : Nat) : List (Nat × TunLine) :=
  s.tun.filter fun e => Config.tunBank e.1 % 128 == Config.tunBank line % 128
    && Config.tunSet e.1 % 512 == Config.tunSet line % 512

/-- The way a pseudo-LRU tree points at: 15 node bits, node 1 the root, a bit of 1 pointing to the upper half. -/
def plruVictim (tree : Nat) : Nat :=
  let step (i : Nat) : Nat := 2 * i + bit (nbit tree i)
  step (step (step (step 1))) - 16

/-- The tree after way `w` is marked: the bits on its path point away from it, or toward it. -/
def plruMark (tree w : Nat) (toward : Bool) : Nat :=
  (List.range 4).foldl (fun t l =>
    let node := (w + 16) / 2 ^ (4 - l)
    let dir := nbit (w + 16) (3 - l)
    let b := if toward then dir else !dir
    if b then t ||| 2 ^ node else if nbit t node then t - 2 ^ node else t) tree

/-- The key under which a set's tree is held, beside the disabled ways. -/
def tunTreeKey (line : Nat) : Nat := 65536 + Config.tunBank line % 128 * 512 + Config.tunSet line % 512

/-- The line that leaves to make room in the bank and set of a line: none where a way is free, else that of the tree's victim
among the ways in use. -/
def State.tunVictim (s : State) (line : Nat) : Option (Nat × TunLine) :=
  let set := s.tunSetLines line
  let off := kget s.tunOff (tunTreeKey line - 65536) 0
  let v := plruVictim (kget s.tunOff (tunTreeKey line) 0)
  let way := if nbit off v then ((List.range 16).find? fun w => !nbit off w).getD 0 else v
  if (List.range 16).any fun w => !nbit off w && !set.any (fun e => e.2.way == w) then none
  else set.find? fun e => e.2.way == way

/-- Make a way free for a line: the victim's dirty line is written back, and where that takes its way out of use, the next
victim's. -/
def tunRoom (fuel : Nat) (s : State) (line : Nat) : State :=
  match fuel with
  | 0 => s
  | fuel + 1 =>
    match s.tunVictim line with
    | none => s
    | some e =>
      let s := if e.2.dirty then s.wroteBack e.1 else s
      tunRoom fuel ({ s with tun := s.tun.filter fun x => x.1 != e.1 }.dropNoise fun cw => cw / 8 == e.1) line

/-- Put a line into the tun, in a free way, with the content of G7 DRAM. STREAM inserts at the least-recent position (R194). -/
def State.tunInsert (s : State) (line hint : Nat) (dirty : Bool) : State :=
  let s := tunRoom 6 s line
  let set := s.tunSetLines line
  let off := kget s.tunOff (tunTreeKey line - 65536) 0
  let way := ((List.range 16).find? fun w => !nbit off w && !set.any (fun e => e.2.way == w)).getD 0
  { s with
    tun := kset s.tun line { dirty := dirty, way := way }
    tunOff := kput s.tunOff (tunTreeKey line) (plruMark (kget s.tunOff (tunTreeKey line) 0) way (hint = 1)) 0 }

/-- A present line is used: the tree marks its way, a write makes it dirty. -/
def State.tunUse (s : State) (line hint : Nat) (write : Bool) : State :=
  match kfind s.tun line with
  | none => s
  | some t =>
    let tree := kget s.tunOff (tunTreeKey line) 0
    { s with
      tun := kset s.tun line { t with dirty := t.dirty || write }
      tunOff := kput s.tunOff (tunTreeKey line) (plruMark tree t.way (hint = 1)) 0 }

/-- Read one codeword at its G7 DRAM channel (R207). -/
def State.readDram (s : State) (cw : Nat) (scrub : Bool) : List Byte × Bool × State :=
  let c := s.codeword cw
  let a := cw * 32 - 0x001000000000
  let p := s.cellPoison cw
  match t2Decode c with
  | .good => (c.take 32, p, s)
  | .corrected f => (f.take 32, p, (s.putDram cw f (thrice p)).g7Error a false scrub)
  | .uncorrectable => (c.take 32, true, (s.putDram cw c 7).g7Error a true scrub)

/-- Fill a line into the tun (R194): every codeword is read at the channel, and the tun holds what was delivered. -/
def State.fillLine (s : State) (line : Nat) : State :=
  (List.range 8).foldl (fun (s : State) i =>
    let cw := line * 8 + i
    let (d, p, s) := s.readDram cw false
    s.putTun cw (d ++ t2Check d) (thrice p)) s

/-- Read one codeword (R207): correct and write back, or poison; the error is logged where it was found. An uncorrectable
error in a clean tun line is refilled instead (R212). The answer is the data, whether it carries poison, and the state. -/
def State.readCw (s : State) (cw : Nat) (scrub : Bool) : List Byte × Bool × State :=
  let c := s.seen cw
  let p := s.poisoned cw
  let found (uncorr : Bool) (s : State) : State :=
    match place (cw * 32) with
    | .cellar n o => s.cellarError n (cellarTier o) (cellarRow o) (cellarCw o) uncorr scrub
    | .pocket n o => s.pocketError n o uncorr scrub
    | .g7 a => if s.inTun (cw / 8) then s.tunError cw (!s.cleanLine (cw / 8)) uncorr scrub else s.g7Error a uncorr scrub
    | _ => (spareOf cw).elim s fun r => s.cellarError r.1 r.2.1 r.2.2.1 r.2.2.2 uncorr scrub
  match t2Decode c with
  | .good => (c.take 32, p, s)
  | .corrected f => (f.take 32, p, found false (s.putSeen cw f (thrice p)))
  | .uncorrectable =>
    if s.cleanLine (cw / 8) then
      let s := found true s
      let s := ({ s with tun := kdel s.tun (cw / 8) }.dropNoise fun x => x / 8 == cw / 8).bump TN_REFETCH 1
      let s := ((s.tallyX 0xA01 (g7Chan (cw / 8 * 256 - 0x001000000000)) 256).tunInsert (cw / 8) 0 false).fillLine (cw / 8)
      ((s.seen cw).take 32, s.poisoned cw, s)
    else (c.take 32, true, found true (s.putSeen cw c 7))

/-- Read bytes `[pa, pa + k)` through their codewords: the bytes, whether any codeword is poisoned, the state. -/
def readSpan (fuel : Nat) (s : State) (pa k : Nat) (acc : List Byte) (p : Bool) : List Byte × Bool × State :=
  match fuel with
  | 0 => (acc, p, s)
  | fuel + 1 =>
    if k = 0 then (acc, p, s)
    else
      let o := pa % 32
      let m := min k (32 - o)
      let (d, q, s) := s.readCw (pa / 32) false
      readSpan fuel s (pa + m) (k - m) (acc ++ slice d o m) (p || q)

/-- Read bytes by physical address; in control space they are a register's (R384). -/
def State.readPa (s : State) (pa k : Nat) : List Byte × Bool × State :=
  match place pa with
  | .ctrl a =>
    match s.readReg a with
    | some (v, s) => ((toBytes 8 v.toNat).take k, false, s)
    | none => (List.replicate k 0, false, s)
  | _ => readSpan (k + 1) s pa k [] false

/-- Write bytes inside one codeword (R208): a whole aligned codeword stores new check bytes and takes the poison
carried; a part is merged into what is read, keeping poison already set or found. -/
def State.writeCw (s : State) (cw o : Nat) (l : List Byte) (poison : Bool) : State :=
  if l.length = 32 then s.putCw cw l poison
  else
    let (d, p, s) := s.readCw cw false
    s.putCw cw (d.take o ++ l ++ d.drop (o + l.length)) (p || poison)

/-- Write a run of bytes through its codewords. -/
def writeSpan (fuel : Nat) (s : State) (pa : Nat) (l : List Byte) (poison : Bool) : State :=
  match fuel with
  | 0 => s
  | fuel + 1 =>
    match l with
    | [] => s
    | _ =>
      let o := pa % 32
      let m := min l.length (32 - o)
      writeSpan fuel (s.writeCw (pa / 32) o (l.take m) poison) (pa + m) (l.drop m) poison

/-- The address that a write to a moving region reaches too (R214 step 3). -/
def State.moveTwin (s : State) (pa : Nat) : Option Nat :=
  match s.move, place pa with
  | some (r, f, _), .g7 a => if g7Region a = r then some (pa - r * 0x200000 + f * 0x200000) else none
  | _, _ => none

/-- A task's write to a register (R384): one that its block's chapter gives to another writer changes nothing (log entry 11). -/
def State.taskReg (s : State) (a : Nat) (l : List Byte) : State :=
  if taskMayWrite a then s.writeReg a (BitVec.ofNat 64 (ofBytes l)) else s

/-- The G7 lines of a span. -/
def spanLines (pa k : Nat) : List Nat :=
  if k = 0 then [] else (List.range ((pa + k - 1) / 256 - pa / 256 + 1)).map fun i => pa / 256 + i

/-- Lines of the new region that the tun holds are dirty once a write has reached them too (R214 step 3). -/
def State.twinDirty (s : State) (q k : Nat) : State := (spanLines q k).foldl (fun s l => s.tunUse l 0 true) s

/-- Write bytes by physical address; a region being moved takes every write at both addresses; in control space they go to a
register. -/
def State.writePa (s : State) (pa : Nat) (l : List Byte) (poison : Bool) : State :=
  match place pa with
  | .ctrl a => s.taskReg a l
  | _ =>
    let s' := writeSpan (l.length + 1) s pa l poison
    match s.moveTwin pa with
    | some q => writeSpan (l.length + 1) s' q l poison |>.twinDirty q l.length
    | none => s'

/-! ### Accesses to the tun (R194, R195) -/

/-- Bring an absent line into the tun, which reads it at its channel (R194). -/
def State.tunFill (s : State) (line hint : Nat) (dirty : Bool) : State :=
  ((s.tallyX 0xA01 (g7Chan (line * 256 - 0x001000000000)) 256).tunInsert line hint dirty).fillLine line

/-- Read every codeword of a line at its channel, as a part of it is written past the tun (R194); the codewords `merged` are read where
the write merges into them. -/
def State.readLine (s : State) (line : Nat) (merged : Nat → Bool) : State :=
  (List.range 8).foldl (fun (s : State) i => if merged (line * 8 + i) then s else (s.readDram (line * 8 + i) false).2.2)
    (s.tallyX 0xA01 (g7Chan (line * 256 - 0x001000000000)) 256)

/-- Whether a write of `[pa, pa + k)` covers a part of a codeword, which is merged into what is read (R208). -/
def partOf (pa k cw : Nat) : Bool :=
  decide (cw * 32 < pa + k) && decide (pa < cw * 32 + 32) && !(decide (pa ≤ cw * 32) && decide (cw * 32 + 32 ≤ pa + k))

/-- One access to a G7 line through the tun, with its hit or miss counted (R194): a miss allocates unless the hint is
BYPASS, and a write of less than the line reads it first. -/
def State.tunAccess (s : State) (line hint : Nat) (write whole : Bool) (merged : Nat → Bool) : State :=
  let bank := Config.tunBank line % 128
  let chan := g7Chan (line * 256 - 0x001000000000)
  if s.inTun line then (s.tallyX 0x901 bank 1).tunUse line hint write
  else
    let s := s.tallyX 0x902 bank 1
    if hint = 2 then
      if write then (if whole then s else s.readLine line merged).tallyX 0xA02 chan 256 else s.tallyX 0xA01 chan 256
    else if write && whole then s.tunInsert line hint true
    else s.tunFill line hint write

/-- Whether an address lies in G7 DRAM usable space. -/
def inG7 (pa : Nat) : Bool := 0x001000000000 ≤ pa && pa < 0x001A80000000

/-- The tun's part of an access to a span; nothing outside G7 usable space. -/
def State.touch (s : State) (pa k hint : Nat) (write : Bool) : State :=
  match place pa with
  | .g7 _ => (spanLines pa k).foldl (fun s l => s.tunAccess l hint write (pa ≤ l * 256 && (l + 1) * 256 ≤ pa + k) (partOf pa k)) s
  | _ => s

/-- Whether a line's channel retrains, so that what the tun asks of it waits (R354). -/
def State.lineHeld (s : State) (line : Nat) : Bool := s.svc.recals.head? = some (g7Chan (line * 256 - 0x001000000000))

/-- Whether an access to a span that leads to `u` has to wait for a channel that retrains (R354): it filled a line from there, wrote one
back, or went there past the tun. -/
def State.chanHeld (s u : State) (pa k hint : Nat) : Bool :=
  !s.svc.recals.isEmpty
    && ((u.tun.any fun e => s.lineHeld e.1 && !s.inTun e.1) || (s.tun.any fun e => s.lineHeld e.1 && e.2.dirty && u.cleanLine e.1)
      || (s.tun.any fun e => s.lineHeld e.1 && e.2.dirty && !u.inTun e.1)
      || (hint = 2 && inG7 pa && (spanLines pa k).any fun l => s.lineHeld l && !s.inTun l))

/-- What leads to `u` unless a table that it reads lies at a channel that retrains: then it waits (R354). -/
def State.orHeld (s u : State) : State := if s.chanHeld u 0 0 0 then s else u

/-! ### Translation (R199 to R203) -/

/-- What an access needs of its leaf (R201, Table 5). -/
structure Need where
  r : Bool := false
  w : Bool := false
  sp : Bool := false
  deriving DecidableEq, Repr

/-- Fault codes of R216 and of the blocks above it. -/
def clUncorr : Nat := 0x0901
def clPocketUncorr : Nat := 0x0902
def tnUncorr : Nat := 0x0A01
def tnAtomic : Nat := 0x0A02
def gmUncorr : Nat := 0x0B01
def gmXlatMiss : Nat := 0x0B02
def gmPerm : Nat := 0x0B03
def gmXlatFormat : Nat := 0x0B04
def gmRetired : Nat := 0x0B05
def gmNoTarget : Nat := 0x0B06

/-- The code of poison met at a physical address whose line is in the tun where `hit` (R209). -/
def poisonCode (pa : Nat) (hit : Bool) : Nat :=
  match place pa with
  | .cellar _ _ => clUncorr
  | .pocket _ _ => clPocketUncorr
  | _ => if hit then tnUncorr else gmUncorr

/-- The code of the first poisoned codeword that a read of `[pa, pa + k)` met; `s` is the state as the access came, `u` after
it (R209). -/
def State.metPoison (s u : State) (pa k : Nat) : Nat :=
  let cw := ((List.range ((pa + k - 1) / 32 - pa / 32 + 1)).map (pa / 32 + ·)).find? u.poisoned
  let p := cw.elim pa (· * 32)
  poisonCode p (s.inTun (p / 256))

/-- A leaf as the translation entries hold it: the low flag bits, the physical 64 KiB page, MODULE. -/
def leafPage (leaf : Nat) : Nat := bits leaf 45 16

def leafRemote (leaf : Nat) : Bool := nbit leaf 5

def leafHint (leaf : Nat) : Nat := bits leaf 7 6

def leafModule (leaf : Nat) : Nat := bits leaf 63 46

/-- Whether a leaf permits an access (R201, Table 5). -/
def leafAllows (leaf : Nat) (x : Need) : Bool :=
  (!x.r || nbit leaf 2) && (!x.w || nbit leaf 3) && (!x.sp || nbit leaf 4)

/-- Read one 8-byte table entry, in G7 DRAM: the walker faults on poison (R201), and on a retired region (R214). -/
def State.tableWord (s : State) (pa : Nat) : Except Nat Nat × State :=
  if !inG7 pa then (.error gmXlatFormat, s)
  else if s.regionRetired (g7Region (pa - 0x001000000000)) then (.error gmRetired, s)
  else
    let code := poisonCode pa (s.inTun (pa / 256))
    let s := s.touch pa 8 0 false
    let (d, p, s) := s.readPa pa 8
    (if p then .error code else .ok (ofBytes d), s)

/-- The context entry at an address (R199): two words, of which only VALID and ROOT may be set. -/
def State.contextAt (s : State) (pa : Nat) : Except Nat Nat × State :=
  match s.tableWord pa with
  | (.error c, s) => (.error c, s)
  | (.ok a, s) =>
    match s.tableWord (pa + 8) with
    | (.error c, s) => (.error c, s)
    | (.ok b, s) =>
      if ¬ nbit a 0 then (.error gmXlatMiss, s)
      else if bits a 11 1 ≠ 0 ∨ bits a 63 46 ≠ 0 ∨ b ≠ 0 ∨ !inG7 (bits a 45 12 * 4096) then (.error gmXlatFormat, s)
      else (.ok (bits a 45 12 * 4096), s)

/-- The context entry of a translation context (R199). -/
def State.contextWord (s : State) (x : Nat) : Except Nat Nat × State :=
  s.contextAt (s.get GM_XLAT_BASE GM_XLAT_BASE.BASE * 2 ^ 20 + 16 * x)

/-- Whether a local page of `2^k` bytes lies wholly within one assigned range (R201). -/
def pageAssigned (pa k : Nat) : Bool :=
  match place pa, place (pa + 2 ^ k - 1) with
  | .cellar _ _, .cellar _ _ => true
  | .pocket _ _, .pocket _ _ => k = 16
  | .g7 _, .g7 _ => true
  | .ctrl _, .ctrl _ => k = 16
  | _, _ => false

/-- Whether a page may be 2 MiB: only in the cellar and G7 usable space (R201). -/
def mayBe2M (pa : Nat) : Bool :=
  match place pa with
  | .cellar _ _ => true
  | .g7 _ => true
  | _ => false

/-- A leaf checked for form at its page size (R200, R201). -/
def checkLeaf (e k : Nat) : Except Nat Nat :=
  if ¬ nbit e 0 then .error gmXlatMiss
  else if bits e 11 8 ≠ 0 then .error gmXlatFormat
  else if ¬ nbit e 5 ∧ bits e 63 46 ≠ 0 then .error gmXlatFormat
  else
    let pa := bits e 45 12 * 4096
    if pa % 2 ^ k ≠ 0 then .error gmXlatFormat
    else if bits e 7 6 = 3 ∧ inG7 pa then .error gmXlatFormat
    else if ¬ nbit e 5 ∧ ¬ pageAssigned pa k then .error gmXlatFormat
    else if k = 21 ∧ ¬ nbit e 5 ∧ ¬ mayBe2M pa then .error gmXlatFormat
    else .ok e

/-- A pointer entry checked for form (R200): only VALID, LEAF and PA_FIELD may be set; the table lies in G7. -/
def checkPointer (e : Nat) : Except Nat Nat :=
  if ¬ nbit e 0 then .error gmXlatMiss
  else if nbit e 1 ∨ bits e 11 2 ≠ 0 ∨ bits e 63 46 ≠ 0 then .error gmXlatFormat
  else if ¬ inG7 (bits e 45 12 * 4096) then .error gmXlatFormat
  else .ok (bits e 45 12 * 4096)

/-- Follow entry `i` of the table at `t`, which must be a pointer (R200). -/
def State.tableAt (s : State) (t i : Nat) : Except Nat Nat × State :=
  match s.tableWord (t + 8 * i) with
  | (.error c, s) => (.error c, s)
  | (.ok e, s) => (checkPointer e, s)

/-- The key of a translation entry: context, page size, virtual page (R202). -/
def tlbKey (x va : Nat) (big : Bool) : Nat := x * 2 ^ 33 + if big then 2 ^ 32 + va / 0x200000 else va / 0x10000

/-- The leaf of a page as it stands for the 64 KiB around an address. -/
def leafAt (leaf va : Nat) (big : Bool) : Nat := if big then leaf + va % 0x200000 / 0x10000 * 0x10000 else leaf

/-- A full translation walk (R199, R201): the leaf of the page of a context that holds an address and whether the page is one of
2 MiB, or the fault. -/
def State.walk (s : State) (x va : Nat) : Except Nat (Nat × Bool) × State :=
  if 2 ^ 48 ≤ va then (.error gmXlatMiss, s)
  else
    match s.contextWord x with
    | (.error c, s) => (.error c, s)
    | (.ok t1, s) =>
      match s.tableAt t1 (bits va 47 39) with
      | (.error c, s) => (.error c, s)
      | (.ok t2, s) =>
        match s.tableAt t2 (bits va 38 30) with
        | (.error c, s) => (.error c, s)
        | (.ok t3, s) =>
          match s.tableWord (t3 + 8 * bits va 29 21) with
          | (.error c, s) => (.error c, s)
          | (.ok e3, s) =>
            if nbit e3 0 ∧ nbit e3 1 then ((checkLeaf e3 21).map (·, true), s)
            else
              match checkPointer e3 with
              | .error c => (.error c, s)
              | .ok t4 =>
                match s.tableWord (t4 + 8 * bits va 20 16) with
                | (.error c, s) => (.error c, s)
                | (.ok e4, s) => (if nbit e4 0 ∧ ¬ nbit e4 1 then .error gmXlatFormat else (checkLeaf e4 16).map (·, false), s)

/-- Put a translation entry into a chamber's 64; which one leaves is a free value (R202, log entry 12). -/
def State.tlbPut (s : State) (n key leaf : Nat) : State :=
  let c := s.ch n
  if c.tlb.length < 64 ∨ (kfind c.tlb key).isSome then s.setCh n { c with tlb := kset c.tlb key leaf }
  else
    let (v, s) := s.free
    let out := ((c.tlb[v.toNat % 64]?).map (·.1)).getD 0
    s.modCh n fun c => { c with tlb := kset (kdel c.tlb out) key leaf }

/-- The same for the Y4X's 4,096 entries. -/
def State.ytlbPut (s : State) (key leaf : Nat) : State :=
  if s.ytlb.length < 4096 ∨ (kfind s.ytlb key).isSome then { s with ytlb := kset s.ytlb key leaf }
  else
    let (v, s) := s.free
    let out := ((s.ytlb[v.toNat % 4096]?).map (·.1)).getD 0
    { s with ytlb := kset (kdel s.ytlb out) key leaf }

/-- The entry of a translation cache for an address: its page's leaf, and whether the page is one of 2 MiB. -/
def cached (m : List (Nat × Nat)) (x va : Nat) : Option (Nat × Bool) :=
  ((kfind m (tlbKey x va false)).map (·, false)).orElse fun _ => (kfind m (tlbKey x va true)).map (·, true)

/-- Look an address up: the chamber's entries, then the Y4X's, whose entry the chamber takes; `none` on a miss (R202). -/
def State.lookup (s : State) (n x va : Nat) : Option Nat × State :=
  if 2 ^ 48 ≤ va then (none, s)
  else
    match cached (s.ch n).tlb x va with
    | some l => (some (leafAt l.1 va l.2), s)
    | none =>
      match cached s.ytlb x va with
      | some l => (some (leafAt l.1 va l.2), s.tlbPut n (tlbKey x va l.2) l.1)
      | none => (none, s)

/-- A walk whose result the chamber's and the Y4X's entries take. -/
def State.walkFill (s : State) (n x va : Nat) : Except Nat Nat × State :=
  match s.walk x va with
  | (.error c, s) => (.error c, s)
  | (.ok (l, big), s) => (.ok (leafAt l va big), (s.tlbPut n (tlbKey x va big) l).ytlbPut (tlbKey x va big) l)

/-- Translate (R199 to R202): the entries, else a walk. -/
def State.translate (s : State) (n x va : Nat) (need : Need) : Except Nat (Nat × Nat) × State :=
  let use (leaf : Nat) (s : State) : Except Nat (Nat × Nat) × State :=
    (if leafAllows leaf need then .ok (leafPage leaf * 0x10000 + va % 0x10000, leaf) else .error gmPerm, s)
  match s.lookup n x va with
  | (some l, s) => use l s
  | (none, s) =>
    match s.walkFill n x va with
    | (.error c, s) => (.error c, s)
    | (.ok l, s) => use l s

/-- Record a memory fault in the register of its block (R216) with the virtual address; `kind` as GM_FAULT.KIND. -/
def State.memFaultReg (s : State) (n t code va kind : Nat) : State :=
  match code / 256 with
  | 9 =>
    (s.recFault (CL_FAULT n) CL_FAULT.CODE CL_FAULT.LOST code [(CL_FAULT.TAG, t)]).setReg (CL_FAULT_VA n)
      (BitVec.ofNat 64 (va % 2 ^ 48))
  | 10 =>
    (s.recFault TN_FAULT TN_FAULT.CODE TN_FAULT.LOST code [(TN_FAULT.CHAMBER, n), (TN_FAULT.TAG, t)]).setReg TN_FAULT_VA
      (BitVec.ofNat 64 (va % 2 ^ 48))
  | _ =>
    (s.recFault GM_FAULT GM_FAULT.CODE GM_FAULT.LOST code
      [(GM_FAULT.CHAMBER, n), (GM_FAULT.TAG, t), (GM_FAULT.KIND, kind)]).setReg GM_FAULT_VA (BitVec.ofNat 64 (va % 2 ^ 48))

/-- A memory fault of a task: the block's register and the abort (R216, R188). -/
def State.memFault (s : State) (n t code va kind id : Nat) : State :=
  (s.memFaultReg n t code va kind).taskFault n t code id

/-- The end of a read on a task's behalf. -/
inductive Rd where
  | ok (data : List Byte) (poison : Bool) (code : Nat)   -- the code a consumer takes on the poison (R209)
  | fault (code va : Nat)
  | wait                               -- a remote read is outstanding (R204), or its line's channel retrains (R354)

/-- Whether a physical span may be accessed: assigned, not in a retired region (R191, R214). -/
def State.target (s : State) (pa k : Nat) : Except Nat Unit :=
  match place pa, place (pa + k - 1) with
  | .hole, _ => .error gmNoTarget
  | _, .hole => .error gmNoTarget
  | .g7 a, .g7 b => if s.regionRetired (g7Region a) ∨ s.regionRetired (g7Region b) then .error gmRetired else .ok ()
  | .ctrl a, _ => if k = 8 ∧ a % 8 = 0 ∧ (regRow a).isSome then .ok () else .error gmNoTarget
  | _, _ => .ok ()

/-- One read of at most one 64 KiB page. A remote page sends a READ_REQ once and waits for its data (R204, R272). -/
def State.readPage (s : State) (n t va k : Nat) (need : Need) : Rd × State :=
  let tk := s.task n t
  let s0 := s
  match s.translate n tk.xlat va need with
  | (.error c, s) => if s0.chanHeld s 0 0 0 then (.wait, s0) else (.fault c va, s)
  | (.ok (pa, leaf), s) =>
    if leafRemote leaf then
      match kfind tk.rbuf va with
      | some (d, p) => (.ok (padTo k d) p (poisonCode pa false), s.modTask n t fun x => { x with rbuf := kdel x.rbuf va })
      | none =>
        if s.gl.txns.any (fun x => x.for_ == TxnFor.instr n t va) then (.wait, s)
        else
          match s.request (mkFrame 2 (leafModule leaf) 0 k pa []) (.instr n t va) with
          | (s, none) => (.wait, s)
          | (s, some st) => (.ok (List.replicate k 0) true (poisonCode pa false), s.e2eFail (leafModule leaf) st 2 t n)
    else
      match s.target pa k with
      | .error c => (.fault c va, s)
      | .ok _ =>
        let (d, p, u) := (s.touch pa k (leafHint leaf) false).readPa pa k
        if s0.chanHeld u pa k (leafHint leaf) then (.wait, s0) else (.ok d p (s.metPoison u pa k), u)

/-- Read `k` bytes at a device-virtual address for a task, one 2 KiB block after another: a READ_REQ asks for no more (R271). -/
def readVaAux (fuel : Nat) (s : State) (n t va k : Nat) (need : Need) (acc : List Byte) (p : Bool) (first : Option Nat) :
    Rd × State :=
  match fuel with
  | 0 => (.ok acc p (first.getD 0), s)
  | fuel + 1 =>
    if k = 0 then (.ok acc p (first.getD 0), s)
    else
      let m := min k (2048 - va % 2048)
      match s.readPage n t va m need with
      | (.ok d q c, s) =>
        readVaAux fuel s n t (va + m) (k - m) need (acc ++ d) (p || q) (if p then first else if q then some c else first)
      | (r, s) => (r, s)

def State.readVa (s : State) (n t va k : Nat) (need : Need) : Rd × State :=
  readVaAux (k / 2048 + 2) s n t va k need [] false none

/-- A read by a consumer, which faults on poison with the code of the store (R209). -/
def State.consume (s : State) (n t va k : Nat) : Rd × State :=
  match s.readVa n t va k { r := true } with
  | (.ok d p c, s) => if p then (.fault c va, s) else (.ok d false c, s)
  | r => r

/-- Write bytes at a device-virtual address for a task, one 2 KiB block after another; `none` where all is written. On a remote page
each block's bytes are one WRITE frame (R263), whose response is awaited as an instruction's. -/
def writeVaAux (fuel : Nat) (s : State) (n t va : Nat) (l : List Byte) (need : Need) (poison : Bool) :
    Option (Nat × Nat) × State :=
  match fuel with
  | 0 => (none, s)
  | fuel + 1 =>
    match l with
    | [] => (none, s)
    | _ =>
      let m := min l.length (2048 - va % 2048)
      match s.translate n (s.task n t).xlat va need with
      | (.error c, s) => (some (c, va), s)
      | (.ok (pa, leaf), s) =>
        if leafRemote leaf then
          let (s, r) := s.request { mkFrame 3 (leafModule leaf) 0 0 pa (l.take m) with poison := poison } (.instr n t va)
          let s := match r with
            | none => s
            | some st => (s.e2eFail (leafModule leaf) st 3 t n).abortFrom n t 0x01FF
          writeVaAux fuel s n t (va + m) (l.drop m) need poison
        else
          match s.target pa m with
          | .error c => (some (c, va), s)
          | .ok _ =>
            let s := s.touch pa m (leafHint leaf) true
            writeVaAux fuel (s.writePa pa (l.take m) poison) n t (va + m) (l.drop m) need poison

def State.writeVa (s : State) (n t va : Nat) (l : List Byte) (need : Need) (poison : Bool) : Option (Nat × Nat) × State :=
  writeVaAux (l.length / 2048 + 2) s n t va l need poison

end Sys2Proof.Machine
end

