-- ==== Sys2Proof/Machine/Operands.lean ====
section
/-! DEFINITION. The fields of tile instructions (R167 to R172), stream descriptors and their iteration (R222 to R225,
R394), and the issue checks of R187. -/

namespace Sys2Proof.Machine

/-! ### Opcodes and reserved bits (R167, R169, R172) -/

/-- The bits `[hi:lo]` as a mask. -/
def mask (hi lo : Nat) : Nat := (2 ^ (hi + 1 - lo) - 1) * 2 ^ lo

/-- The bits above MARK that an instruction's layout assigns (R170, R172); none for an opcode not in Table 1. -/
def assigned (w : BitVec 128) : Option Nat :=
  match opcode w with
  | 0x00 => some 0
  | 0x01 => some 0
  | 0x02 => some (mask 63 32)
  | 0x03 => some (mask 20 9 ||| mask 47 32)
  | 0x04 => some (mask 11 9 ||| mask 63 32)
  | 0x05 => some (mask 11 9 ||| mask 63 16)
  | 0x06 => some (mask 20 9 ||| mask 63 32)
  | 0x10 => some (mask 16 9)
  | 0x11 => some (mask 15 9 ||| mask 31 16)
  | 0x12 => some (mask 63 16 ||| mask 115 80 ||| mask 124 120)
  | 0x20 => some (mask 16 9)
  | 0x21 => some (mask 13 9)
  | 0x30 => some (mask 26 9 ||| mask 63 32)
  | 0x31 => some (mask 14 9 ||| mask 26 26 ||| mask 63 32)
  | 0x40 => some (if wf w 15 14 = 0 then mask 107 9 ||| mask 127 116 else mask 74 9 ||| mask 115 108)
  | 0x50 => some (mask 72 9)
  | 0x60 => some (mask 63 16)
  | 0x61 => some (mask 13 9)
  | 0x70 => some (mask 25 9)
  | 0x71 => some (mask 19 9)
  | _ => none

/-- A reserved bit is set: CH_RESERVED_BITS (R167). -/
def reservedSet (w : BitVec 128) : Bool :=
  match assigned w with
  | some m => (w.toNat &&& (2 ^ 128 - 1 - (m ||| 0x1FF))) ≠ 0
  | none => false

/-- MARK (R167). -/
def marked (w : BitVec 128) : Bool := nbit w.toNat 8

/-- Sequencer fault codes (R187, Table 11) and those of the engines. -/
def chIllegalOpcode : Nat := 0x0101
def chIllegalFormat : Nat := 0x0102
def chIllegalMode : Nat := 0x0103
def chIllegalSlot : Nat := 0x0104
def chReservedBits : Nat := 0x0105
def chBadOperand : Nat := 0x0106
def chFetch : Nat := 0x0107
def chBound : Nat := 0x0108
def chBarrier : Nat := 0x0109
def chWaitTimeout : Nat := 0x010A
def chAborted : Nat := 0x01FF
def ayAccOverflow : Nat := 0x0201
def ayCkPersist : Nat := 0x0202
def ayChamberFenced : Nat := 0x0203
def ltStruct : Nat := 0x0301
def ltOrder : Nat := 0x0302
def ltOverfull : Nat := 0x0303
def ltRange : Nat := 0x0304
def spSpillFull : Nat := 0x0401
def spKeyRange : Nat := 0x0402
def spSession : Nat := 0x0403
def spRestoreBad : Nat := 0x0404
def spEntryEcc : Nat := 0x0405
def fsBadChain : Nat := 0x0501
def fsBadRef : Nat := 0x0502
def fsOverlap : Nat := 0x0503
def gvParam : Nat := 0x0601
def gvRegion : Nat := 0x0602
def stBadDesc : Nat := 0x0701
def stOverlap : Nat := 0x0702
def stCreditDeadlock : Nat := 0x0703
def stStall : Nat := 0x0704
def stSpargeLen : Nat := 0x0705
def stSpargeGroup : Nat := 0x0706
def abHold : Nat := 0x0801
def abForced : Nat := 0x0802

/-! ### Fields of ARRAY (R170, Table 2) -/

def aMode (w : BitVec 128) : Nat := wf w 10 9
def aGroups (w : BitVec 128) : Nat := wf w 13 11
def aPack (w : BitVec 128) : Nat := wf w 15 14
def aFeed (w : BitVec 128) : Bool := nbit w.toNat 16
def aAcc (w : BitVec 128) : Bool := nbit w.toNat 17
def aSlot (w : BitVec 128) : Nat := wf w 19 18
def aCont (w : BitVec 128) : Bool := nbit w.toNat 20
def aDrain (w : BitVec 128) : Bool := nbit w.toNat 21
def aDrainFmt (w : BitVec 128) : Nat := wf w 25 22
def aOvf (w : BitVec 128) : Bool := nbit w.toNat 26
def aPartial (w : BitVec 128) : Bool := nbit w.toNat 27
def aExtreme (w : BitVec 128) : Nat := wf w 29 28
def aStatus (w : BitVec 128) : Bool := nbit w.toNat 30
def aDest (w : BitVec 128) : Bool := nbit w.toNat 31
def aSel (w : BitVec 128) : Bool := nbit w.toNat 32
def aRsel (w : BitVec 128) : Nat := wf w 34 33
def aRcomp (w : BitVec 128) : Bool := nbit w.toNat 35
def aRmask (w : BitVec 128) : Bool := nbit w.toNat 36
def aFmtA (w : BitVec 128) : Nat := wf w 40 37
def aFmtB (w : BitVec 128) : Nat := wf w 44 41
def aScaleA (w : BitVec 128) : Nat := wf w 46 45
def aScaleB (w : BitVec 128) : Nat := wf w 48 47
def aSpfA (w : BitVec 128) : Nat := wf w 52 49
def aSpfB (w : BitVec 128) : Nat := wf w 56 53
def aDescA (w : BitVec 128) : Nat := wf w 61 57
def aDescB (w : BitVec 128) : Nat := wf w 66 62
def aDescW (w : BitVec 128) : Nat := wf w 71 67
def aK (w : BitVec 128) : Nat := wf w 91 72
def aPackEnt (w : BitVec 128) : Nat := wf w 74 72
def aBaseTr (w : BitVec 128) : Nat := wf w 107 92
def aPtag (w : BitVec 128) (g : Nat) : Nat := wf w (109 + 2 * g) (108 + 2 * g)
def aRowLimit (w : BitVec 128) : Nat := wf w 127 116

/-- Column groups of a PACK code (R56). -/
def packGroups (p : Nat) : Nat := if p = 0 then 1 else if p = 1 then 2 else 4

/-- Columns of one column group. -/
def groupCols (p : Nat) : Nat := 64 / packGroups p

/-- Row groups P; 16 positions in wide mode are separate rows (R56). -/
def rowGroups (w : BitVec 128) : Nat := if aMode w = 0 then 16 else 2 ^ aGroups w

/-- Whether the accumulator is INT32: both operands integer and neither block-scaled (R23, Table 4). -/
def aInt (w : BitVec 128) : Bool := !isFloat (aFmtA w) && aScaleA w = 0 && aScaleB w = 0

/-- Whether the format is FP8, either variant. -/
def isFp8 (f : Nat) : Bool := f = 2 || f = 3

/-- Whether the format is FP6 or FP4. -/
def isFp64 (f : Nat) : Bool := f = 4 || f = 5 || f = 6

/-- Twice the rate of Table 4 (R23) in normal accumulation, times two again: 4 × multiply-accumulates per cell per
reference cycle; none for a pairing the table lacks. -/
def rate4 (w : BitVec 128) : Option Nat :=
  let a := aFmtA w
  let b := aFmtB w
  let half (x : Nat) : Nat := if aAcc w then x / 2 else x
  if isFp8 a ∧ isFp8 b then some (half 4)
  else if isFp64 a ∧ isFp64 b then some (half 8)
  else if (isFp8 a ∧ isFp64 b) ∨ (isFp64 a ∧ isFp8 b) then some (half 4)
  else if a = 1 ∧ b = 1 then some (half 2)
  else if (a = 7 ∧ b = 7) ∨ (a = 7 ∧ b = 8) ∨ (a = 8 ∧ b = 7) then some 4
  else if a = 8 ∧ b = 8 then some 8
  else if a = 9 ∧ b = 8 ∧ aMode w = 2 then some 16
  else none

/-- m′ = max(m, 1): element pairs of one step (R58, R63). -/
def stepPairs (w : BitVec 128) : Nat := max 1 ((rate4 w).getD 4 / 4)

/-! ### The issue checks of ARRAY (R187, steps 4 to 7) -/

/-- Whether an element format is allowed as an array operand (R18, Table 1). -/
def arrayFmt (f : Nat) : Bool := 1 ≤ f && f ≤ 9

/-- Whether a scaling code accepts an element format (R21, Table 3). -/
def scaleOk (sc f : Nat) : Bool :=
  match sc with
  | 0 => true
  | 1 => [2, 3, 4, 5, 6, 7].contains f
  | 2 => [5, 6].contains f
  | _ => false

/-- Whether two sparse formats may combine (R41, Table 2); operand A is the weights. -/
def spfOk (a b : Nat) : Bool :=
  match a with
  | 0 => b = 0 || b = 2
  | 1 => b = 0 || b = 2
  | 8 => b = 0 || b = 8
  | _ => 3 ≤ a && a ≤ 7 && b = 0

/-- The illegal mode combinations of R57 (Table 3) and R159. -/
def modeFault (w : BitVec 128) : Bool :=
  aMode w = 3 || 4 < aGroups w || aPack w = 3
  || (aMode w = 0 && (aGroups w != 0 || aPack w != 0))
  || (aMode w = 2 && !(aFmtA w = 9 && aFmtB w = 8))
  || (aFeed w && (aMode w = 2 || aGroups w != 0 || aPack w != 0 || aAcc w))
  || (aFeed w && (isFp64 (aFmtA w) || isFp64 (aFmtB w) || aScaleA w != 0 || aScaleB w != 0
      || !(aSpfA w = 0 || aSpfA w = 1) || !(aSpfB w = 0 || aSpfB w = 1)))
  || aRsel w = 3
  || (aRsel w != 0 && (aMode w != 1 || aFeed w))
  || (aRsel w = 2 && aPack w != 0)

/-- The checks of R153, R165 on a gravity parameter copy. Table 4 of R165 does not say which instruction tests which condition: SEL and
GV_CHECK test U, GROUP_BASE, GROUP_ROWS and POLICY, RSEL instructions GROUP_ROWS and POLICY, GV_JOIN POLICY (DESIGN CHOICE, log entry
113). -/
def gvParamBad (g : GvCopy) : Bool :=
  let u := fget g.ctrl GV_CTRL.U
  u = 0 || 64 < u || fget g.ctrl GV_CTRL.GROUP_BASE % 64 != 0 || fget g.ctrl GV_CTRL.GROUP_ROWS = 3
  || fget g.ctrl GV_CTRL.POLICY = 3

/-- GV_PARAM of an ARRAY instruction (R153, R163, R165): a SEL instruction breaking R153 or with bad parameters; an
RSEL instruction under a reserved policy or GROUP_ROWS. -/
def arrayGvFault (w : BitVec 128) (g : GvCopy) : Bool :=
  (aSel w && (aMode w != 2 || aPack w != 0 || !aDrain w || aDest w || aDrainFmt w != 10 || gvParamBad g))
  || (aRsel w != 0 && (fget g.ctrl GV_CTRL.POLICY = 3 || fget g.ctrl GV_CTRL.GROUP_ROWS = 3))

/-- DRAIN_FMT against the accumulator (R98). -/
def drainFmtOk (w : BitVec 128) : Bool :=
  !aDrain w ||
  (if aInt w then
    (if aPartial w then aDrainFmt w = 10 else aDrainFmt w = 7 || aDrainFmt w = 10)
  else
    (if aPartial w then aDrainFmt w = 0 else aDrainFmt w ≤ 3))

/-- CH_ILLEGAL_FORMAT of an ARRAY instruction (R18, R21 to R23, R40, R41, R44, R48, R98, R159). -/
def arrayFormatFault (w : BitVec 128) : Bool :=
  !arrayFmt (aFmtA w) || !arrayFmt (aFmtB w) || (rate4 w).isNone
  || !scaleOk (aScaleA w) (aFmtA w) || !scaleOk (aScaleB w) (aFmtB w)
  || (aScaleA w != 0 && aScaleB w != 0 && aScaleA w != aScaleB w)
  || !spfOk (aSpfA w) (aSpfB w)
  || (aSpfB w = 2 && aScaleB w = 1)
  || (aSpfA w = 8 && aScaleA w != 0) || (aSpfB w = 8 && aScaleB w != 0)
  || (aRsel w != 0 && !(aSpfA w = 0 || aSpfA w = 1))
  || (aRsel w = 2 && !(aSpfB w = 0 || aSpfB w = 2))
  || !drainFmtOk w

/-- Streams an operand of a sparse format uses (R171, Table 3). -/
def operandStreams (spf sc : Nat) : Nat :=
  if spf = 0 then (if sc = 0 then 1 else 3)
  else if spf = 8 then 3
  else if sc = 0 then 2 else 3

/-! ### Descriptors (R222, Table 2) -/

/-- Field `[hi:lo]` of a descriptor. -/
def df (d : BitVec 512) (hi lo : Nat) : Nat := bits d.toNat hi lo

def dBase (d : BitVec 512) : Nat := df d 47 0
def dFmt (d : BitVec 512) : Nat := df d 51 48
def dOrder (d : BitVec 512) : Nat := df d 53 52
def dSkew (d : BitVec 512) : Bool := nbit d.toNat 54
def dPad (d : BitVec 512) : Nat := df d 56 55
def dCopy (d : BitVec 512) : Bool := nbit d.toNat 57
def dCopyTo (d : BitVec 512) : Nat := df d 62 58
def dMcast (d : BitVec 512) : Bool := nbit d.toNat 63
def dFill (d : BitVec 512) : Nat := df d 95 64
def dPerm (d : BitVec 512) (l : Nat) : Nat := df d (98 + 3 * l) (96 + 3 * l)
def dMgroup (d : BitVec 512) : Nat := df d 119 112
def dRegion (d : BitVec 512) : Nat := df d 123 120
def dUses (d : BitVec 512) : Nat := df d 131 124
def dCred (d : BitVec 512) : Nat := df d 135 132
def dCredDim (d : BitVec 512) : Nat := df d 138 136
def dCredRole (d : BitVec 512) : Nat := df d 140 139
def dStride (d : BitVec 512) (i : Nat) : Int := signed 32 (df d (175 + 32 * i) (144 + 32 * i))
def dExtent (d : BitVec 512) (i : Nat) : Nat := df d (323 + 40 * i) (304 + 40 * i)
def dBound (d : BitVec 512) (i : Nat) : Nat := df d (343 + 40 * i) (324 + 40 * i)

/-- A descriptor of a tag, from its registers (R222). -/
def State.desc (s : State) (n t d : Nat) : BitVec 512 :=
  let i := t * 32 + d
  let w : List Nat := [(s.reg (ST_DESC0 n i)).toNat, (s.reg (ST_DESC1 n i)).toNat, (s.reg (ST_DESC2 n i)).toNat,
    (s.reg (ST_DESC3 n i 0)).toNat, (s.reg (ST_DESC3 n i 1)).toNat, (s.reg (ST_DESC3 n i 2)).toNat,
    (s.reg (ST_DESC3 n i 3)).toNat, (s.reg (ST_DESC7 n i)).toNat]
  BitVec.ofNat 512 (w.foldr (fun x a => x + 2 ^ 64 * a) 0)

/-- The register that holds word `j` of a descriptor. -/
def descAddr (n t d j : Nat) : Nat := chWin n + 0x9000 + 0x40 * (t * 32 + d) + 8 * j

/-- Write a descriptor's eight words. -/
def State.setDesc (s : State) (n t d : Nat) (v : BitVec 512) : State :=
  (List.range 8).foldl (fun s j => s.setReg (descAddr n t d j) (BitVec.ofNat 64 (df v (64 * j + 63) (64 * j)))) s

/-- A descriptor with another BOUND of one dimension (R180). -/
def dWithBound (d : BitVec 512) (i x : Nat) : BitVec 512 :=
  BitVec.ofNat 512 (d.toNat - dBound d i * 2 ^ (324 + 40 * i) + x * 2 ^ (324 + 40 * i))

/-- A descriptor of `k` consecutive raw bytes from an address on. -/
def rawDesc (va k : Nat) : BitVec 512 :=
  BitVec.ofNat 512 (va % 2 ^ 48 + 7 * 2 ^ 48 + 2 ^ 144
    + ((List.range 5).map fun i => (if i = 0 then k else 1) * (2 ^ (304 + 40 * i) + 2 ^ (324 + 40 * i))).foldl (· + ·) 0)

/-- A flat stream (R394): its element e is index e of dimension 0, bounded by BOUND_0 alone. -/
def dFlat (d : BitVec 512) : BitVec 512 :=
  BitVec.ofNat 512 (d.toNat - dExtent d 0 * 2 ^ 304 + dBound d 0 * 2 ^ 304)

/-- Whether a sparse format is N:M (R40, Table 1). -/
def isNM (f : Nat) : Bool := 3 ≤ f && f ≤ 7

/-- Whether the values of an operand of a sparse format are a flat stream (R394). -/
def flatFormat (spf : Nat) : Bool := spf = 1 || spf = 2 || spf = 8

/-- The streams that an operand uses (R171, Table 3), as R394 bounds them. -/
def streamsUsed (spf sc : Nat) (ds : List (BitVec 512)) : List (BitVec 512) :=
  ((if spf = 0 then ds.take 1 else ds.take 2) ++ (if operandStreams spf sc = 3 then ds.drop 2 else [])).mapIdx fun i d =>
    if spf = 8 || (flatFormat spf && i != 1) then dFlat d else d

/-- The dimension that level `l` iterates (R223). -/
def dLevel (d : BitVec 512) (l : Nat) : Nat :=
  match dOrder d with
  | 1 => if l = 0 then 1 else if l = 1 then 0 else l
  | 2 => dPerm d l
  | _ => l

/-- EXTENT of a level. -/
def dLevelExtent (d : BitVec 512) (l : Nat) : Nat := dExtent d (dLevel d l)

/-- Elements of an iteration. -/
def dCount (d : BitVec 512) : Nat :=
  (List.range 5).foldl (fun p l => p * dLevelExtent d l) 1

/-- The index at each level of iteration element `k`, level 0 least significant. -/
def dIndices (d : BitVec 512) (k : Nat) : List Nat :=
  ((List.range 5).foldl (fun (a : Nat × List Nat) l =>
    (a.1 / max 1 (dLevelExtent d l), a.2 ++ [a.1 % max 1 (dLevelExtent d l)])) (k, [])).2

/-- The index in dimension `i` of iteration element `k`. -/
def dDimIndex (d : BitVec 512) (k i : Nat) : Nat :=
  match (List.range 5).find? (fun l => dLevel d l = i) with
  | some l => (dIndices d k).getD l 0
  | none => 0

/-- Whether iteration element `k` is in bounds (R224). -/
def dInBounds (d : BitVec 512) (k : Nat) : Bool := (List.range 5).all fun i => dDimIndex d k i < dBound d i

/-- Bit address of iteration element `k`, or of element `k` of a flat stream when the other extents are 1. -/
def dBitAddr (d : BitVec 512) (k : Nat) : Int :=
  (dBase d : Int) * 8 +
    ((List.range 5).foldl (fun (a : Int) i => a + (dDimIndex d k i : Int) * dStride d i) 0) * (fmtBits (dFmt d) : Int)

/-- Byte address and byte count of an element; `none` where the address leaves 0 to 2⁴⁸ − 1 (R201). -/
def dSpan (d : BitVec 512) (k : Nat) : Option (Nat × Nat) :=
  let a := dBitAddr d k
  if a < 0 ∨ 2 ^ 51 < a + fmtBits (dFmt d) then none
  else
    let b := a.toNat
    some (b / 8, (b % 8 + fmtBits (dFmt d) + 7) / 8)

/-- The element's pattern from its bytes. -/
def dExtract (d : BitVec 512) (k : Nat) (bs : List Byte) : Nat :=
  ofBytes bs / 2 ^ ((dBitAddr d k).toNat % 8) % 2 ^ fmtBits (dFmt d)

/-- The fill pattern: only the low bits of the element's width are used. -/
def dFillBits (d : BitVec 512) : Nat := dFill d % 2 ^ fmtBits (dFmt d)

/-- The credit unit of iteration element `k`: its indices at every level from CRED_DIM upward; without a role all are one
(R231). -/
def dUnit (d : BitVec 512) (k : Nat) : Nat :=
  if dCredRole d = 0 then 0 else k / (List.range (dCredDim d)).foldl (fun p l => p * max 1 (dLevelExtent d l)) 1

/-- Whether levels 1 to 4 from `from_` on have EXTENT 1. -/
def dOnes (d : BitVec 512) (from_ : Nat) : Bool :=
  (List.range 5).all fun l => l < from_ || dLevelExtent d l = 1

/-- Reserved codes of a descriptor (R225, first item) and the alignment of BASE. -/
def descCodesBad (d : BitVec 512) : Bool :=
  10 < dFmt d || dOrder d = 3 || dPad d = 3 || dCredRole d = 3
  || (dOrder d = 2 && !((List.range 5).all fun i => (List.range 5).any fun l => dPerm d l = i))
  || dBase d % max 1 (fmtBits (dFmt d) / 8) != 0
  || 4 < dCredDim d

end Sys2Proof.Machine
end

