-- ==== Sys2Proof/Machine/Flags.lean ====
section
/-! DEFINITION. The numeric flags of a tile (R39), the drain status word (R106), the extremes of a drain (R105), and what
a drain makes of a slot's values (R25, R33, R101, R104). -/

namespace Sys2Proof.Machine

/-- The numeric flags of a tile (R39, Table 6). -/
structure NumFlags where
  repeats : Nat := 0
  nanOut : Bool := false
  infOut : Bool := false
  sat : Bool := false
  nanLost : Bool := false
  underflow : Bool := false
  paired : Bool := false
  deriving DecidableEq, Repr

/-- The field of R39. -/
def NumFlags.word (f : NumFlags) : Nat :=
  f.repeats % 4 + 4 * bit f.nanOut + 8 * bit f.infOut + 16 * bit f.sat + 32 * bit f.nanLost + 64 * bit f.underflow
    + 128 * bit f.paired

/-- The OR over column groups, REPEATS holding the largest (R106). -/
def NumFlags.join (f g : NumFlags) : NumFlags :=
  ⟨max f.repeats g.repeats, f.nanOut || g.nanOut, f.infOut || g.infOut, f.sat || g.sat, f.nanLost || g.nanLost,
   f.underflow || g.underflow, f.paired || g.paired⟩

/-- What a conversion adds to the flags (R36): NaN and infinity as drained, saturation, a lost NaN, underflow. -/
def NumFlags.addCvt (f : NumFlags) (fmt : Nat) (c : Cvt) : NumFlags :=
  let v := decodeElem fmt c.bits
  { f with
    nanOut := f.nanOut || (isFloat fmt && v.isNan)
    infOut := f.infOut || (isFloat fmt && v.isInf)
    sat := f.sat || c.sat
    nanLost := f.nanLost || c.nanLost
    underflow := f.underflow || c.underflow }

/-- The drain status word (R106, Table 4). -/
def statusWord (flags slot tag : Nat) (part : Bool) (extreme : Nat) (extEmpty : Bool) (attempts seq : Nat) : Nat :=
  flags % 256 + slot % 2 * 2 ^ 8 + tag % 4 * 2 ^ 9 + bit part * 2 ^ 11 + extreme % 4 * 2 ^ 12 + bit extEmpty * 2 ^ 14
    + attempts % 4 * 2 ^ 15 + seq % 2 ^ 32 * 2 ^ 32

/-- Combine neighbours; an odd last one stands. -/
def pairUp {α : Type} (f : α → α → α) : List α → List α
  | a :: b :: r => f a b :: pairUp f r
  | l => l

/-- The balanced pairwise tree of R25 over at most 16 segments. -/
def segTree {α : Type} (f : α → α → α) (l : List α) : List α := pairUp f (pairUp f (pairUp f (pairUp f l)))

/-- Combine two segment accumulators (R25, R28, R26): the sum and whether an INT32 sum saturated. -/
def combineAcc (int paired : Bool) (a b : Acc × Bool) : Acc × Bool :=
  if int then
    let (w, s) := satI32 (i32 a.1.s + i32 b.1.s)
    (⟨w, 0⟩, a.2 || b.2 || s)
  else if paired then (Acc.combine a.1 b.1, a.2 || b.2)
  else (⟨fadd a.1.s b.1.s, 0⟩, a.2 || b.2)

/-- The drained result before the rescale (R71, R101): `s + c` with one rounding in paired mode. -/
def accValue (int paired : Bool) (a : Acc) : Num :=
  if int then Num.ofInt (i32 a.s) else if paired then f32 (toF32 a.exact) else f32 a.s

/-- An extreme record's value and index (R105): the candidates are the in-bounds columns' rescaled values with their
coordinates; of equal values, and of NaN, the one with the lowest index stands. `none` is the empty position. -/
def extreme (big : Bool) (l : List (Nat × Num)) : Option (Nat × Num) :=
  let beats (x y : Nat × Num) : Bool :=
    if x.2.isNan || y.2.isNan then x.2.isNan && (!y.2.isNan || decide (x.1 < y.1))
    else if (if big then y.2.lt x.2 else x.2.lt y.2) then true
    else x.2.eq y.2 && decide (x.1 < y.1)
  l.foldl (fun b x =>
    match b with
    | none => some x
    | some y => if beats x y then some x else b) none

/-- The 8-byte record (R105): the value in the accumulator's format. -/
def extremeRecord (int nonsat big : Bool) (e : Option (Nat × Num)) : Nat :=
  match e with
  | some (i, v) => (convert (if int then 10 else 0) nonsat v).bits + i % 2 ^ 32 * 2 ^ 32
  | none =>
    (if int then (if big then 0x80000000 else 0x7FFFFFFF) else (if big then 0xFF800000 else 0x7F800000)) + 0xFFFFFFFF * 2 ^ 32

end Sys2Proof.Machine
end

