-- ==== Sys2Proof/Machine/Arbiters.lean ====
section
/-! DEFINITION. Arbiters (R237 to R242, R246): requests, phases, grants, the hold watchdog. An arbiter's key is
chamber × 4 + class, 4096 + tun bank, or 4224 + G7 channel. -/

namespace Sys2Proof.Machine

def State.arb (s : State) (k : Nat) : Arb := kget s.arbs k {}

def State.setArb (s : State) (k : Nat) (a : Arb) : State := { s with arbs := kput s.arbs k a {} }

/-- The key of an arbiter. -/
def arbKey : ArbId → Nat
  | .chamber n c => n.val * 4 + c.val
  | .bank b => 4096 + b.val
  | .channel c => 4224 + c.val

/-- Class of Table 6 of an arbiter's key. -/
def arbClass (k : Nat) : Nat := if k < 4096 then k % 4 else if k < 4224 then 4 else 5

/-- Counter register `j` (0 GRANTS, 1 WAIT_SUM, 2 WAIT_MAX) of an input (R246). -/
def arbCounter (k i j : Nat) : Nat :=
  if k < 4096 then chWin (k / 4) + 0x7100 + 0x100 * (k % 4) + 0x20 * i + 8 * j
  else if k < 4224 then y4xWin 6 + 0x1000 + 0x100 * (k - 4096) + 0x20 * i + 8 * j
  else y4xWin 6 + 0x9000 + 0x100 * (k - 4224) + 0x20 * i + 8 * j

/-- Show a chamber arbiter's holder in AB_STATUS (R246). -/
def State.showHolder (s : State) (k : Nat) : State :=
  if k < 4096 then s.set (ABC_STATUS (k / 4)) ⟨4 * (k % 4), 4⟩ ((s.arb k).holder.getD 15) else s

/-- Raise a request. -/
def State.arbRequest (s : State) (k : Nat) (r : ArbReq) : State :=
  s.setArb k { s.arb k with reqs := (s.arb k).reqs ++ [r] }

/-- Whether two requests are of one requester for one data phase. -/
def ArbReq.same (q r : ArbReq) : Bool := r.ch = q.ch && r.tag = q.tag && r.eng = q.eng && r.no = q.no

/-- A requester asks for the resources on its way, each an arbiter with its input there: requests that it raised elsewhere go. -/
def State.ask (s : State) (q : ArbReq) (route : List (Nat × Nat)) : State :=
  let s := s.arbs.foldl (fun s e =>
    if (s.arb e.1).reqs.any fun r => q.same r && !route.contains (e.1, r.input) then
      s.setArb e.1 { s.arb e.1 with reqs := (s.arb e.1).reqs.filter fun r => !(q.same r && !route.contains (e.1, r.input)) }
    else s) s
  route.eraseDups.foldl (fun s x =>
    if (s.arb x.1).reqs.any fun r => q.same r && r.input = x.2 then s
    else s.arbRequest x.1 { q with input := x.2, since := s.now }) s

/-- The priority of a request: fixed, or that of its task at this phase (R237, R240). -/
def State.reqPrio (s : State) (r : ArbReq) : Nat :=
  match r.prio, r.ch with
  | some p, _ => p
  | none, some n => s.get (CH_TASK n r.tag) CH_TASK.PRIORITY
  | none, none => s.get AB_CTRL AB_CTRL.REMOTE_PRIO

/-- The inputs that wait, each with the request at its head. -/
def Arb.waiting (a : Arb) : List ArbReq :=
  (List.range 8).filterMap fun i => if a.holder = some i then none else a.reqs.find? fun r => r.input = i && !r.moved

/-- How long ago an input was granted: 0 for one never granted, larger the later. -/
def Arb.lastGrant (a : Arb) (i : Nat) : Nat := (a.recent.idxOf i + 1) % (a.recent.length + 1)

/-- Whether an arbiter's channel retrains: it grants nothing, and its hold watchdog is suspended (R354). -/
def State.retraining (s : State) (k : Nat) : Bool := s.svc.recals.head? = some (k - 4224) && decide (4224 ≤ k)

/-- The choice of a phase: highest priority, then least recently granted (R238). -/
def State.arbChoice (s : State) (a : Arb) : Option Nat :=
  (a.waiting.foldl (fun (b : Option ArbReq) r =>
    match b with
    | none => some r
    | some x =>
      if s.reqPrio x < s.reqPrio r ∨ (s.reqPrio x = s.reqPrio r ∧ a.lastGrant r.input < a.lastGrant x.input) then some r
      else b) none).map (·.input)

/-- Grant a resource to an input, recording its wait (R241). -/
def State.arbGrant (s : State) (k i : Nat) : State :=
  let a := s.arb k
  let w := match a.reqs.find? fun r => r.input = i && !r.moved with
    | some r => s.now - r.since
    | none => 0
  let s := s.bump (arbCounter k i 0) 1
  let s := s.bump (arbCounter k i 1) w
  let s := s.set (arbCounter k i 2) count32 (min 0xFFFFFFFF (max w (s.get (arbCounter k i 2) count32)))
  let a := { a with
    holder := some i
    winner := none
    recent := a.recent.filter (· != i) ++ [i]
    lastMove := s.now }
  (s.setArb k a).showHolder k

/-- Whether an arbiter's input holds the grant and no forced release is open. -/
def State.granted (s : State) (k i : Nat) : Bool := (s.arb k).holder = some i && (s.arb k).forced.isNone

/-- A data phase of a requester ends at its resources: its requests go, the owners have moved data. -/
def State.arbMoved (s : State) (q : ArbReq) (route : List (Nat × Nat)) : State :=
  route.eraseDups.foldl (fun s x =>
    let a := s.arb x.1
    s.setArb x.1 { a with reqs := a.reqs.filter fun r => !(r.input = x.2 && q.same r), lastMove := s.now }) s

/-- Whether a requester has passed a resource on its way, or may: its request is there, granted or with its data phase over. -/
def State.passes (s : State) (q : ArbReq) (x : Nat × Nat) : Bool :=
  (s.arb x.1).reqs.any fun r => q.same r && r.input = x.2 && (r.moved || s.granted x.1 x.2)

/-- Whether a requester's data phase may end: it passes every resource on its way. -/
def State.clear (s : State) (q : ArbReq) (route : List (Nat × Nat)) : Bool := route.all (s.passes q)

/-- A requester that is not clear passes the resources granted to it, one data phase each, and holds none while it waits for the
others (R239). -/
def State.pass (s : State) (q : ArbReq) (route : List (Nat × Nat)) : State :=
  route.eraseDups.foldl (fun s x =>
    let a := s.arb x.1
    if s.granted x.1 x.2 && a.reqs.any fun r => q.same r && r.input = x.2 && !r.moved then
      s.setArb x.1 { a with reqs := a.reqs.map fun r => if q.same r && r.input = x.2 then { r with moved := true } else r, lastMove := s.now }
    else s) s

/-- What a command does whose data phase needs resources (R237 to R239): it acts once it has passed them, and until then asks. -/
def State.arbitrate (s : State) (q : ArbReq) (route : List (Nat × Nat)) (act : State → State) : State :=
  if s.clear q route then act (s.arbMoved q route) else (s.pass q route).ask q route

/-- A request of a chamber's task, at its priority; engines 4 to 7 are the Lauter, Flowstone, the sump's merge, the
sparge receiver. -/
def taskReq (n t e no : Nat) : ArbReq := { input := 0, prio := none, ch := some n, tag := t, eng := e, no := no, since := 0 }

/-- A request that belongs to no task, at a fixed priority; engines 9 to 13 are a scrubber, the Lantern, a retirement copy, a tun
fill, the Gallery inbound. -/
def otherReq (prio : Option Nat) (e no : Nat) : ArbReq :=
  { input := 0, prio := prio, ch := none, tag := 0, eng := e, no := no, since := 0 }

/-- Withdraw every request of a task. -/
def State.arbWithdraw (s : State) (n t : Nat) : State :=
  s.arbs.foldl (fun s e => s.setArb e.1 { s.arb e.1 with
    reqs := (s.arb e.1).reqs.filter fun r => !(r.ch = some n && r.tag = t) }) s

/-- Rewrite or withdraw every request. -/
def State.arbRetag (s : State) (g : ArbReq → Option ArbReq) : State :=
  s.arbs.foldl (fun s e => s.setArb e.1 { s.arb e.1 with reqs := (s.arb e.1).reqs.filterMap g }) s

/-! ### What an engine shows (R245) -/

/-- The starts in an engine's slots, ACTIVE first. -/
def Engine.slots (en : Engine) : List Start := en.active.toList ++ en.pending.toList

/-- Every start that an engine has accepted, its internal starts after its slots'. -/
def Engine.starts (en : Engine) : List Start := en.slots ++ en.internal

/-- The start at a place of an engine: of the internal starts the first. -/
def Engine.at_ (en : Engine) : SlotPos → Option Start
  | .active => en.active
  | .pending => en.pending
  | .internal => en.internal.head?

/-- Replace a start at its place. -/
def Engine.put (en : Engine) (p : SlotPos) (st : Option Start) : Engine :=
  match p with
  | .active => { en with active := st }
  | .pending => { en with pending := st }
  | .internal => { en with internal := st.toList ++ en.internal.drop 1 }

/-- Take a start out of its place: PENDING becomes ACTIVE. -/
def Engine.remove (en : Engine) : SlotPos → Engine
  | .active => { en with active := en.pending, pending := none }
  | .pending => { en with pending := none }
  | .internal => { en with internal := en.internal.drop 1 }

/-- Change every start that an engine has accepted. -/
def Engine.mapStarts (en : Engine) (f : Start → Start) : Engine :=
  { en with active := en.active.map f, pending := en.pending.map f, internal := en.internal.map f }

/-- Keep the accepted and queued starts that a test admits; PENDING moves up where ACTIVE goes. -/
def Engine.filter (en : Engine) (p : Start → Bool) : Engine :=
  let a := en.active.filter p
  let b := en.pending.filter p
  { en with
    active := if a.isSome then a else b
    pending := if a.isSome then b else none
    internal := en.internal.filter p
    queue := en.queue.filter p }

/-- Transfers outstanding over an engine's starts (R220). -/
def Engine.outstanding (en : Engine) : Nat := (en.starts.map fun st => st.out.length).foldl (· + ·) 0

def regFree : Nat := 0
def regArmed : Nat := 1
def regFilling : Nat := 2
def regComplete : Nat := 3

def State.regState (s : State) (n r : Nat) : Nat := s.get (ST_REGION n r) ST_REGION.STATE

/-- Whether two sets of ranges share a byte. -/
def overlaps (a b : List (Nat × Nat)) : Bool :=
  a.any fun x => b.any fun y => decide (x.1 < y.1 + y.2) && decide (y.1 < x.1 + x.2) && x.2 != 0 && y.2 != 0

/-- Whether ranges overlap a region of the chamber that is ARMED or FILLING (R233). -/
def State.regionBusy (s : State) (n : Nat) (ranges : List (Nat × Nat)) : Bool :=
  (List.range 16).any fun r =>
    (s.regState n r = regArmed || s.regState n r = regFilling) && overlaps ranges (s.region n r).foot

/-- Whether a transfer reads a region of its chamber that is still to be filled (R233). -/
def State.regionHeld (s : State) (n : Nat) (tr : Transfer) : Bool :=
  tr.pa.any fun pa => !leafRemote tr.leaf && s.regionBusy n [(pa, tr.len)]

/-- The request of a transfer: of a privileged start at ST_CTRL.PRIV_PRIO (R235). -/
def State.transferReq (s : State) (n e : Nat) (st : Start) (no : Nat) : ArbReq :=
  { taskReq n st.tag e no with prio := if st.priv then some (s.get (ST_CTRL n) ST_CTRL.PRIV_PRIO) else none }

/-- The array instruction that a start group belongs to. -/
def State.arrOf (s : State) (n tag id : Nat) : Option ArrInstr :=
  (s.ch n).arr.find? fun a => a.tag = tag && a.id = id

/-- What a start group waits for with its Lauter: 1 a credit of its metadata, 2 a region, 4 the reading that tells which elements are
needed; 0 where it has that. -/
def State.groupWait (s : State) (n : Nat) (st : Start) : Nat :=
  match st.kind, s.arrOf n st.tag st.id with
  | .group _, some a =>
    if a.starved.isSome then 1 else if a.phase == .regionWait then 2 else if a.phase == .queued then 4 else 0
  | _, _ => 0

/-- What a start waits for (R245, Table 11): 1 credit, 2 region or arm count, 3 grant, 4 the other side of a copy, the producer of
its data or the Lauter, 5 translation. -/
def State.waitCode (s : State) (n e : Nat) (st : Start) : Nat :=
  let read := st.kind == .copyRead || st.kind == .send || (match st.kind with | .group _ => true | _ => false)
  if st.creditSince.isSome || (st.kind == .receive && st.begun && (s.region n (dRegion st.d)).turn.isSome) then 1
  else if !st.begun then (if st.kind == .send || st.kind == .receive then 2 else 4)
  else if read && (st.held || st.out.any fun tr => s.regionHeld n tr) then 2
  else if st.out.any fun tr => tr.pa.isSome && !s.clear (s.transferReq n e st tr.no) tr.route then 3
  else if st.out.any fun tr => tr.pa.isNone then 5
  else s.groupWait n st

/-- Show an engine in ST_ENGINE. -/
def State.showEngine (s : State) (n e : Nat) : State :=
  let en := s.eng n e
  let a := ST_ENGINE n e
  let s := s.set a ST_ENGINE.ACT_VALID (bit en.active.isSome)
  let s := s.set a ST_ENGINE.ACT_TAG ((en.active.map (·.tag)).getD 0)
  let s := s.set a ST_ENGINE.ACT_DESC ((en.active.map (·.desc)).getD 0)
  let s := s.set a ST_ENGINE.PEND_VALID (bit en.pending.isSome)
  let s := s.set a ST_ENGINE.PEND_TAG ((en.pending.map (·.tag)).getD 0)
  let s := s.set a ST_ENGINE.PEND_DESC ((en.pending.map (·.desc)).getD 0)
  let s := s.set a ST_ENGINE.OUTSTANDING en.outstanding
  s.set a ST_ENGINE.WAIT ((en.slots.map (s.waitCode n e)).find? (· != 0) |>.getD 0)

/-- Change an engine and what ST_ENGINE shows of it. -/
def State.putEng (s : State) (n e : Nat) (en : Engine) : State := (s.setEng n e en).showEngine n e

/-- Show what the running chain waits for in FS_STATUS (R145, R149): the pocket's ports, the sump's acceptance of its updates. -/
def State.showFlowWaits (s : State) (n : Nat) : State :=
  match (s.ch n).chains.find? (·.running) with
  | none => s
  | some c =>
    let port (k : Nat) : Bool := (s.arb k).reqs.any fun r =>
      r.ch = some n && r.tag = c.tag && r.eng = 5 && !r.moved && !s.granted k r.input
    let s := s.set (FS_STATUS n) FS_STATUS.WAIT_POCKET (bit (port (n * 4 + 1) || port (n * 4 + 2)))
    s.set (FS_STATUS n) FS_STATUS.WAIT_SUMP (bit ((s.ch n).updQ.any fun u => u.own = c.tag && u.id = c.id))

/-- Show the engines, and the chain, whose requests wait at an arbiter. -/
def State.showWaits (s : State) (k : Nat) : State :=
  (s.arb k).reqs.foldl (fun s r =>
    match r.ch with
    | some n => if r.eng < 4 then s.showEngine n r.eng else if r.eng = 5 then s.showFlowWaits n else s
    | none => s) s

/-- ARB_PHASE (R238): choose among the waiting inputs; an idle resource goes to the winner at once. -/
def execArbPhase (a : ArbId) (s : State) : Out :=
  let k := arbKey a
  let v := s.arb k
  match s.arbChoice v with
  | none => .next s
  | some i =>
    if v.forced.isSome ∨ s.retraining k then .next s
    else
      match v.holder with
      | none => .next ((s.arbGrant k i).showWaits k)
      | some _ => .next (s.setArb k { v with winner := some i })

/-- ARB_REQUEST_DROP (R238, R239): an owner with no further data phase drops its request; the winner of the last phase
takes the resource, and without one the handover waits for a phase. -/
def execArbRequestDrop (a : ArbId) (s : State) : Out :=
  let k := arbKey a
  let v := s.arb k
  match v.holder with
  | none => .next s
  | some h =>
    if v.forced.isSome ∨ s.retraining k ∨ v.reqs.any (fun r => r.input = h && !r.moved) then .next s
    else
      match v.winner with
      | some w =>
        if v.reqs.any fun r => r.input = w && !r.moved then .next ((s.arbGrant k w).showWaits k)
        else .next ((s.setArb k { v with holder := none, winner := none }).showHolder k)
      | none => .next ((s.setArb k { v with holder := none }).showHolder k)

/-- The timeout of a field `n`: `2^n` µs in ticks of 10 ns. -/
def microTicks (n : Nat) : Nat := 100 * 2 ^ n

/-- HOLD_WATCHDOG_BITE (R242): an owner that moved no data for the hold timeout; AB_FAULT records the bite, its task is
aborted with AB_HOLD, other tasks using the resource with AB_FORCED. The data phase of an owner of no task is discarded, the Lantern is
told, and a Gallery inbound owner's request is answered with the failure (R272). -/
def execHoldWatchdogBite (a : ArbId) (s : State) : Out :=
  let k := arbKey a
  let v := s.arb k
  let n := s.get AB_CTRL AB_CTRL.HOLD_TIMEOUT
  match v.holder with
  | none => .next s
  | some h =>
    if n = 0 ∨ s.now - v.lastMove < microTicks n ∨ v.forced.isSome ∨ s.retraining k then .next s
    else
      let own := v.reqs.filter fun r => r.input = h && !r.moved
      let (c, t, isTask) := match own with
        | r :: _ => (r.ch.getD 0, r.tag, r.ch.isSome)
        | [] => (0, 0, false)
      let s := if k < 4096 then
          s.recFault (ABC_FAULT (k / 4)) ABC_FAULT.CODE ABC_FAULT.LOST abHold
            [(ABC_FAULT.RESOURCE, arbClass k), (ABC_FAULT.INPUT, h), (ABC_FAULT.TAG, if isTask then t else 0),
             (ABC_FAULT.NO_TASK, bit (!isTask))]
        else
          s.recFault AB_FAULT AB_FAULT.CODE AB_FAULT.LOST abHold
            [(AB_FAULT.RESOURCE, arbClass k), (AB_FAULT.INPUT, h), (AB_FAULT.TAG, if isTask then t else 0),
             (AB_FAULT.CHAMBER, if isTask then c else 0), (AB_FAULT.NO_TASK, bit (!isTask))]
      let s := own.foldl (fun s r =>
        match r.ch with
        | some m => if isTask && m = c && r.tag = t then s else s.abortFrom m r.tag abForced
        | none => s) s
      let s := if isTask then s.abortFrom c t abHold else s
      let v := { v with forced := some s.clk, reqs := v.reqs.filter fun r => r.input != h || r.moved || r.ch.isSome }
      let lost := (own.filter fun r => r.ch.isNone && r.eng = 13).map (·.no)
      let s := if isTask then s else s.modSvc fun x => { x with told := x.told ++ [k] }
      .next ((s.setArb k v).modGl fun g => { g with lost := g.lost ++ lost })

/-- FORCED_RELEASE_DONE (R242): the grant is free and the next phase grants the winning waiter; a wedged resource stays
wedged. -/
def execForcedReleaseDone (a : ArbId) (s : State) : Out :=
  let k := arbKey a
  let v := s.arb k
  match v.forced, v.holder with
  | some _, some h =>
    if s.svc.wedges.contains (arbClass k, if k < 4096 then k / 4 else if k < 4224 then k - 4096 else k - 4224) then .next s
    else
      let s := s.modSvc fun x => { x with told := x.told.filter (· != k) }
      .next ((s.setArb k { v with holder := none, winner := none, forced := none
                                  reqs := v.reqs.filter fun r => r.input != h || r.moved }).showHolder k)
  | _, _ => .next s

end Sys2Proof.Machine
end

