-- ==== Sys2Proof/Machine/StreamOps.lean ====
section
/-! DEFINITION. What stream starts and transfers share (R220 to R236, R243): positions, credits, translation of a
transfer, its arbiters, its data, and the end of a start. -/

namespace Sys2Proof.Machine

/-! ### Faults and registers -/

/-- Record a stream fault (R245, Table 12) and abort its task. The detail fields show the descriptor's. -/
def State.stFault (s : State) (n t code e desc : Nat) (d : BitVec 512) (cause id : Nat) : State :=
  let s := s.recFault (ST_FAULT n) ST_FAULT.CODE ST_FAULT.LOST code [(ST_FAULT.TAG, t), (ST_FAULT.ENGINE, e)]
  let s := s.set (ST_FAULT_INFO n) ST_FAULT_INFO.DESC desc
  let s := s.set (ST_FAULT_INFO n) ST_FAULT_INFO.CAUSE cause
  let s := s.set (ST_FAULT_INFO n) ST_FAULT_INFO.CRED (dCred d)
  let s := s.set (ST_FAULT_INFO n) ST_FAULT_INFO.REGION (dRegion d)
  let s := s.set (ST_FAULT_INFO n) ST_FAULT_INFO.MGROUP (dMgroup d)
  s.taskFault n t code id

/-! ### Credits (R231) -/

/-- Add to a credit counter, saturating. -/
def State.creditAdd (s : State) (n k x : Nat) : State :=
  let c := s.get (ST_CREDIT n k) ST_CREDIT.COUNT + x
  let s := if 0xFFFFFFFF < c then s.set (ST_STATUS n) ST_STATUS.CRED_SAT 1 else s
  s.set (ST_CREDIT n k) ST_CREDIT.COUNT (min c 0xFFFFFFFF)

/-- The counter a descriptor's role takes from: SPACE for PRODUCER, FULL for CONSUMER. -/
def creditTake (d : BitVec 512) : Nat := 2 * dCred d + bit (dCredRole d = 2)

/-- The counter it adds to. -/
def creditGive (d : BitVec 512) : Nat := 2 * dCred d + bit (dCredRole d = 1)

/-- The turns of what waits on a credit counter: starts, array instructions whose metadata needs a unit, and receivers whose next unit
needs one. -/
def State.creditWaiters (s : State) (n k : Nat) : List Nat :=
  ((List.range 4).flatMap fun e => (s.eng n e).starts.filterMap fun st => if st.creditOn = k then st.creditSince else none)
    ++ ((s.ch n).arr.filterMap fun a => (a.starved.filter fun x => x.2 = k).map (·.1))
    ++ (List.range 16).filterMap fun r => (s.region n r).turn.filter fun _ => creditTake (s.region n r).d = k

/-! ### Positions of a start's iteration (R223, R224) -/

/-- Raise a fault `f` of a column group's task `t` by the instruction `id` of the task `owner` (R77). Another task's window does
not hold that instruction: the fault comes after its own (R188), and its PC is that of the ARRAY. -/
def State.tileFault (s : State) (n owner t id : Nat) (f : State → Nat → State) : State :=
  if t = owner then f s id
  else
    let k := s.task n t
    let u := f s k.nextId
    match s.arrOf n owner id with
    | some a => if s.tstate n t = tAborting then u else u.modTask n t fun x => { x with abortPc := a.pc }
    | none => u

/-- Change an array instruction. -/
def State.modArr (s : State) (n tag id : Nat) (f : ArrInstr → ArrInstr) : State :=
  s.modCh n fun c => { c with arr := c.arr.map fun a => if a.tag = tag && a.id = id then f a else a }

/-- A group's element: column group × 2⁴⁰ + element of its value stream. -/
def elCode (g k : Nat) : Nat := g * 2 ^ 40 + k

/-- The descriptor and element behind an element of a start. -/
def State.elDesc (s : State) (n : Nat) (st : Start) (el : Nat) : BitVec 512 × Nat :=
  match st.kind with
  | .group o =>
    match s.arrOf n st.tag st.id with
    | some a =>
      let tile := a.tiles.getD (el / 2 ^ 40) ({} : Tile)
      let d := (if o = 0 then tile.dA else tile.dB).headD 0
      (if flatFormat (if o = 0 then aSpfA a.word else aSpfB a.word) then dFlat d else d, el % 2 ^ 40)
    | none => (st.d, el)
  | .sink =>
    match s.arrOf n st.tag st.id with
    | some a => ((a.tiles.getD (el / 2 ^ 40) ({} : Tile)).dW, el % 2 ^ 40)
    | none => (st.d, el)
  | _ => (st.d, el)

/-- The tag whose context an element is addressed in: its column group's (R182). -/
def State.elTag (s : State) (n : Nat) (st : Start) (el : Nat) : Nat :=
  match (s.arrOf n st.tag st.id).filter fun _ => st.kind != .internal with
  | some a => ((a.tiles[el / 2 ^ 40]?).map Tile.tag).getD st.tag
  | none => st.tag

/-- The translation context of a transfer. -/
def State.trXlat (s : State) (n : Nat) (st : Start) (tr : Transfer) : Nat :=
  (s.task n (s.elTag n st (tr.els.headD 0))).xlat

/-- Whether a task's drains go on: it is ACTIVE, it is being preempted (R107), or its chamber reports itself failed and it is
aborted once its tiles that passed have drained (R76). -/
def State.drains (s : State) (n t : Nat) : Bool :=
  s.live n t || (s.tstate n t = tSaving && !(s.task n t).stopped)
    || (s.tstate n t = tAborting && (s.task n t).abortCode = ayChamberFenced)

/-- Whether a start may move (R243): its task is ACTIVE, or the start writes a drain that goes on, or it is an internal start of a
task that is being preempted. -/
def State.mayMove (s : State) (n : Nat) (st : Start) : Bool :=
  s.live n st.tag || (st.kind == .internal && (s.tstate n st.tag = tSaving || s.drains n st.tag))
    || (s.drains n st.tag && st.kind == .sink && (s.arrOf n st.tag st.id).any fun a => a.phase == .draining)

/-- Whether a start holds up no other of its engine: it has issued its last transfer (R227), or its task is being preempted or aborted
and it may not move (R185, R243, R76). -/
def State.heldUp (s : State) (n : Nat) (st : Start) (issued : Bool) : Bool := issued || !s.mayMove n st

/-- What lies at a position: an element that forms part of a transfer, one that forms none, one that forms none but begins a unit
for which a CONSUMER has still to take a credit (R231), or nothing (yet). -/
inductive Pos where
  | skip
  | stop
  | take (unit : Nat)
  | use (el va len unit : Nat) (val : Nat × Bool)

/-- An element's place; one whose address leaves the address space is given the first address beyond it (R201). -/
def placeOf (d : BitVec 512) (k : Nat) : Nat × Nat := (dSpan d k).getD (2 ^ 48, 1)

/-- The element at position `i` in the order the start issues. -/
def Start.at_ (st : Start) (i : Nat) : Nat := if st.reverse then dCount st.d - 1 - i else i

/-- What lies at position `i` of a start. -/
def State.posOf (s : State) (n : Nat) (st : Start) (i : Nat) : Pos :=
  let use (el : Nat) (d : BitVec 512) (k : Nat) (v : Nat × Bool) : Pos :=
    let (va, len) := placeOf d k
    .use el va len (elCode (el / 2 ^ 40) (dUnit d k)) v
  let skip (el : Nat) (d : BitVec 512) (k : Nat) : Pos :=
    let u := elCode (el / 2 ^ 40) (dUnit d k)
    if dCredRole d = 2 ∧ !st.units.contains u then .take u else .skip
  match st.kind with
  | .group _ =>
    match st.todo[i]? with
    | some el =>
      let (d, k) := s.elDesc n st el
      if dInBounds d k then use el d k (0, false) else skip el d k
    | none => .stop
  | .sink =>
    match st.todo[i]? with
    | some el =>
      let (d, k) := s.elDesc n st el
      if dInBounds d k ∨ dPad d ≠ 0 then use el d k (kget st.buf el (0, false)) else skip el d k
    | none => .stop
  | .receive => .stop
  | kind =>
    if dCount st.d ≤ i then .stop
    else
      let k := st.at_ i
      let pad := dPad st.d
      match kind with
      | .copyWrite =>
        let data := if dInBounds st.src k then kfind st.buf k else some (dFillBits st.src, false)
        match data with
        | none => .stop
        | some v =>
          if dInBounds st.d k then use k st.d k v
          else if pad = 0 then skip k st.d k
          else use k st.d k (if pad = 1 then dFillBits st.d else 0, false)
      | .fill =>
        if dInBounds st.d k then use k st.d k (dFillBits st.d, false)
        else if pad = 0 then skip k st.d k
        else use k st.d k (if pad = 1 then dFillBits st.d else 0, false)
      | .internal => use k st.d k (kget st.buf k (0, false))
      | _ => if dInBounds st.d k then use k st.d k (0, false) else skip k st.d k

/-- Of the elements of a stream those that a start goes through, in iteration order: the ones to move, and, of a CONSUMER, those out of
bounds, whose units it takes too (R231). -/
def withSkipped (d : BitVec 512) (need : List Nat) : List Nat :=
  if dCredRole d = 2 then
    (List.range (dCount d)).filter fun k => need.contains k || !dInBounds d k
  else need

/-- The elements that the input of a list instruction goes through. -/
def listEls (d : BitVec 512) : List Nat := withSkipped d ((List.range (dCount d)).filter (dInBounds d))

/-- The first position from `i` on that is no skip. -/
def skipTo (fuel : Nat) (q : Nat → Pos) (i : Nat) : Nat :=
  match fuel with
  | 0 => i
  | fuel + 1 =>
    match q i with
    | .skip => skipTo fuel q (i + 1)
    | _ => i

/-- Fuel that covers every position left. -/
def Start.left (st : Start) : Nat := dCount st.d + st.todo.length + 1

/-- Move a start past positions that form no transfer. -/
def State.advance (s : State) (n : Nat) (st : Start) : Start :=
  { st with next := skipTo st.left (s.posOf n st) st.next }

/-- A run of positions: consecutive elements in one 2 KiB block and one credit unit (R221). -/
structure RunOf where
  els : List Nat := []
  vals : List (Nat × Bool) := []
  lo : Nat := 0
  hi : Nat := 0
  unit : Nat := 0
  next : Nat

/-- Gather the run from position `i`. -/
def formRun (fuel : Nat) (q : Nat → Pos) (r : RunOf) : RunOf :=
  match fuel with
  | 0 => r
  | fuel + 1 =>
    match q r.next with
    | .use el va len unit v =>
      if r.els.isEmpty then formRun fuel q ⟨[el], [v], va, va + len, unit, r.next + 1⟩
      else if va / 2048 = r.lo / 2048 ∧ unit = r.unit ∧ el / 2 ^ 40 = r.els.headD 0 / 2 ^ 40 then
        formRun fuel q ⟨r.els ++ [el], r.vals ++ [v], min r.lo va, max r.hi (va + len), unit, r.next + 1⟩
      else r
    | _ => r

/-- Whether a start has issued its last transfer (R227). -/
def State.issuedAll (s : State) (n : Nat) (st : Start) : Bool :=
  match st.kind with
  | .group _ =>
    match s.arrOf n st.tag st.id with
    | some a => a.phase != .queued && a.phase != .regionWait && decide (st.todo.length ≤ st.next)
    | none => decide (st.todo.length ≤ st.next)
  | .sink => st.begun && decide (st.todo.length ≤ st.next)
  | .receive => false
  | _ => st.begun && dCount st.d ≤ st.next

/-! ### Translation of a transfer (R199 to R204) -/

/-- The permission a start's transfers need (R201, Table 5). -/
def Start.need (st : Start) : Need :=
  match st.kind with
  | .copyWrite => { w := true }
  | .fill => { w := true }
  | .sink => { w := true }
  | .internal => { w := true }
  | .receive => { sp := true }
  | _ => { r := true }

/-- Whether a start's transfers write. -/
def Start.writes (st : Start) : Bool :=
  match st.kind with
  | .copyWrite => true
  | .fill => true
  | .sink => true
  | .internal => true
  | _ => false

/-- The arbiters a local transfer of engine `e` needs, with its input at each (R237, Table 6). -/
def routeOf (n e pa len : Nat) (write : Bool) : List (Nat × Nat) :=
  match place pa with
  | .cellar m _ => if m = n then [(n * 4, e)] else [(n * 4 + 3, e), (m * 4, 3)] ++ (if write then [] else [(m * 4 + 3, 4)])
  | .pocket m _ =>
    if write then (if m = n then [(n * 4 + 2, 0)] else [(n * 4 + 3, e), (m * 4 + 2, 3)])
    else (if m = n then [(n * 4 + 1, e)] else [(n * 4 + 3, e), (m * 4 + 1, 4), (m * 4 + 3, 4)])
  | .g7 _ => (n * 4 + 3, e) :: ((spanLines pa len).map fun l => (4096 + Config.tunBank l % 128, n / 512))
  | _ => [(n * 4 + 3, e)]

/-- The arbiter of a line's channel. -/
def lineChan (line : Nat) : Nat := 4224 + g7Chan (line * 256 - 0x001000000000)

/-- The channels that filling a line of the tun needs: its own for the fill, and the victim's for a write-back (R237). -/
def State.fillRoute (s : State) (line : Nat) : List (Nat × Nat) :=
  (lineChan line, 0) :: ((s.tunVictim line).filter fun e => e.2.dirty).toList.map fun e => (lineChan e.1, 1)

/-- The channels that an access to a span needs where its lines are absent from the tun. -/
def State.missRoute (s : State) (pa len : Nat) : List (Nat × Nat) :=
  if inG7 pa then ((spanLines pa len).filter fun l => !s.inTun l).flatMap s.fillRoute else []

/-- The member chambers of a group. -/
def State.members (s : State) (g : Nat) : List Nat :=
  (List.range 1024).filter fun m => nbit (s.reg (ST_MEMBER m (g / 64))).toNat (g % 64)

/-- Whether a start reads the dense operand of an indexed feed from the pocket, through the Lauter's gather (R237, R87). -/
def State.gathers (s : State) (n : Nat) (st : Start) : Bool :=
  st.kind == .group 1 && (s.arrOf n st.tag st.id).any fun a => aSpfA a.word = 8

/-- The arbiters a transfer needs: its engine's route, at the Lauter's input for a gather, and for a multicast that leaves the
chamber the injection point of its elements (R233). -/
def State.routeTo (s : State) (n e : Nat) (st : Start) (pa len : Nat) : List (Nat × Nat) :=
  let r := routeOf n e pa len st.writes
  let r := if s.gathers n st then r.map fun x => if x = (n * 4 + 1, e) then (x.1, 2) else x else r
  if st.kind == .send && (s.members (dMgroup st.d)).any (· != n) then r ++ [(n * 4 + 3, 3)] else r

/-- Raise a transfer's requests. -/
def State.raise (s : State) (n e : Nat) (st : Start) (tr : Transfer) : State := s.ask (s.transferReq n e st tr.no) tr.route

/-- The bits and masks of an element's bytes, by address. -/
def elBytes (d : BitVec 512) (k v : Nat) : List (Nat × Nat × Nat) :=
  let (va, len) := placeOf d k
  let sh := (dBitAddr d k).toNat % 8
  let m := (2 ^ fmtBits (dFmt d) - 1) * 2 ^ sh
  let x := v % 2 ^ fmtBits (dFmt d) * 2 ^ sh
  (List.range len).map fun i => (va + i, x / 256 ^ i % 256, m / 256 ^ i % 256)

/-- The bytes a write transfer stores, merged in issue order: address, value, mask, poison. -/
def writeBytes (d : BitVec 512) (els : List Nat) (vals : List (Nat × Bool)) : List (Nat × (Nat × Nat × Bool)) :=
  (els.zip vals).foldl (fun m x =>
    (elBytes d x.1 x.2.1).foldl (fun m b =>
      let (v, k, p) := kget m b.1 (0, 0, false)
      kset m b.1 ((v &&& (255 - b.2.2)) ||| b.2.1, k ||| b.2.2, p || x.2.2)) m) []

/-- Whether masked bytes that lie in one codeword cover the whole of it. -/
def allBytes (l : List (Nat × (Nat × Nat × Bool))) : Bool := l.length == 32 && l.all fun b => b.2.2.1 == 255

/-- Store masked bytes that lie in one codeword (R205, R208). -/
def State.storeMasked (s : State) (cw : Nat) (l : List (Nat × (Nat × Nat × Bool))) : State :=
  let poison := l.any fun b => b.2.2.2
  let (d, p, s) := if allBytes l then (List.replicate 32 0, false, s) else s.readCw cw false
  let d := l.foldl (fun d b => d.set (b.1 % 32)
    (BitVec.ofNat 8 (((d.getD (b.1 % 32) 0).toNat &&& (255 - b.2.2.1)) ||| b.2.1))) d
  let s' := s.putCw cw d (p || poison)
  match s.moveTwin (cw * 32) with
  | some q => (s'.putCw (q / 32) d (p || poison)).twinDirty q 32
  | none => s'

/-- Store masked bytes by physical address. -/
def storeAll (fuel : Nat) (s : State) (l : List (Nat × (Nat × Nat × Bool))) : State :=
  match fuel, l with
  | 0, _ => s
  | _, [] => s
  | fuel + 1, b :: r =>
    let cw := b.1 / 32
    storeAll fuel (s.storeMasked cw ((b :: r).filter fun x => x.1 / 32 = cw)) (r.filter fun x => x.1 / 32 != cw)

/-- Contiguous runs of bytes with one poison state, for WRITE frames (R271): of a byte of which the run covers only some
bits the others keep what the byte held (R205). -/
def byteRuns (l : List (Nat × (Nat × Nat × Bool))) (old : Nat → Byte × Bool) : List (Nat × List Byte × Bool) :=
  (l.mergeSort fun a b => a.1 ≤ b.1).foldl (fun rs b =>
    let part := b.2.2.1 != 255
    let x : Byte := BitVec.ofNat 8 (b.2.1 ||| ((old b.1).1.toNat &&& (255 - b.2.2.1)))
    let q := b.2.2.2 || (part && (old b.1).2)
    match rs.getLast? with
    | some (a, bs, p) =>
      if a + bs.length = b.1 ∧ p = q then rs.dropLast ++ [(a, bs ++ [x], p)] else rs ++ [(b.1, [x], q)]
    | none => [(b.1, [x], q)]) []

/-- Runs of contiguous bytes of the elements of a read, in whatever order it takes them (R271). -/
def readRuns (d : BitVec 512) (els : List Nat) : List (Nat × Nat) :=
  ((els.map (placeOf d)).mergeSort fun a b => a.1 ≤ b.1).foldl (fun rs x =>
    match rs.getLast? with
    | some (a, m) => if x.1 ≤ a + m then rs.dropLast ++ [(a, max m (x.1 + x.2 - a))] else rs ++ [x]
    | none => [x]) []

/-- Change a transfer of a start in a slot of an engine. -/
def State.modTransfer (s : State) (n e no : Nat) (f : Transfer → Transfer) : State :=
  s.setEng n e ((s.eng n e).mapStarts fun st => { st with out := st.out.map fun tr => if tr.no = no then f tr else tr })

/-- A Gallery request failed at its source (R270, R272): a read delivers poison, a write aborts its task and completes
as if accepted. -/
def State.transferFailed (s : State) (n e no va len tag dest st type : Nat) : State :=
  let s := s.e2eFail dest st type tag n
  let part := (s.eng n e).starts.any fun st => st.out.any fun tr => tr.no = no && !tr.part.isEmpty
  if type = 2 && !part then s.modTransfer n e no fun tr => { tr with got := kset tr.got va (List.replicate len 0, true) }
  else s.abortFrom n tag chAborted

/-- Form the WRITE frames of transfers whose partly covered bytes have been read (R205). -/
def State.mergeParts (s : State) (n e : Nat) : State :=
  s.setEng n e ((s.eng n e).mapStarts fun st => { st with out := st.out.map fun tr =>
    if tr.part.isEmpty || !tr.tags.isEmpty then tr
    else
      let (d, _) := s.elDesc n st (tr.els.headD 0)
      let ks := tr.els.map fun el => (s.elDesc n st el).2
      let old (va : Nat) : Byte × Bool := ((kfind tr.got va).map fun g => (g.1.headD 0, g.2)).getD (0, false)
      { tr with part := [], got := [], runs := byteRuns (writeBytes d ks tr.vals) old } })

/-- Whether a WRITE of an engine to a 2 KiB block awaits its response, be its start aborted or not (R271). -/
def State.blockOpen (s : State) (n e b : Nat) : Bool :=
  s.gl.txns.any fun x =>
    x.type = 3 && match x.for_ with
      | .transfer m f _ va => m = n && f = e && va / 2048 = b
      | _ => false

/-- Send the WRITE frames that may leave: of one engine and one 2 KiB block only one awaits its response (R271). -/
def State.pumpWrites (s : State) (n e : Nat) : State :=
  let s := s.mergeParts n e
  ((s.eng n e).starts.flatMap fun st => st.out.map fun tr => (st.tag, tr.no)).foldl (fun s x =>
    let all := (s.eng n e).starts.flatMap (·.out)
    match all.find? (·.no = x.2) with
    | some tr =>
      match tr.runs, tr.pa with
      | (va, bs, p) :: rest, some pa =>
        let before := all.any fun o => o.no < tr.no && o.va / 2048 = tr.va / 2048
          && (o.pa.isNone || !o.runs.isEmpty || !o.part.isEmpty || !o.tags.isEmpty)
        if tr.tags.isEmpty ∧ !before ∧ !s.blockOpen n e (tr.va / 2048) then
          let dest := leafModule tr.leaf
          let s := s.modTransfer n e tr.no fun t => { t with runs := rest }
          let tag := s.gl.nextTag
          match s.request { mkFrame 3 dest 0 0 (pa + va - tr.va) bs with poison := p } (.transfer n e tr.no va) with
          | (s, none) => s.modTransfer n e tr.no fun t => { t with tags := [tag] }
          | (s, some st) => s.transferFailed n e tr.no va bs.length x.1 dest st 3
        else s
      | _, _ => s
    | none => s) s

/-- Whether an address lies in control space. -/
def inCtrl (pa : Nat) : Bool :=
  match place pa with
  | .ctrl _ => true
  | _ => false

/-- A transfer whose last element runs over the end of its page: the next page is translated too (R201), or its fault and address. -/
def State.nextPage (s : State) (n : Nat) (st : Start) (tr : Transfer) : Except (Nat × Nat) Nat × State :=
  let q := (tr.va + tr.len - 1) / 0x10000 * 0x10000
  if q ≤ tr.va ∨ tr.len = 0 then (.ok 0, s)
  else
    match s.translate n (s.trXlat n st tr) q st.need with
    | (.error c, s) => (.error (c, q), s)
    | (.ok (pa, leaf), s) =>
      match if leafRemote leaf then .ok () else s.target pa (tr.va + tr.len - q) with
      | .error c => (.error (c, q), s)
      | .ok _ => (.ok pa, s)

/-- A translated transfer: its target is checked (a register takes all of its 8 bytes at once, R384), tun lines are looked up, arbiters
requested (of an access past the tun its channels at the inputs of fills and write-backs, log entry 114), frames sent. -/
def State.attach (s : State) (n e : Nat) (st : Start) (tr : Transfer) (pa leaf : Nat) : State :=
  let len := tr.len
  let (d, _) := s.elDesc n st (tr.els.headD 0)
  let ks := tr.els.map fun el => (s.elDesc n st el).2
  match s.nextPage n st tr with
  | (.error c, s) =>
    let tg := s.elTag n st (tr.els.headD 0)
    s.tileFault n st.tag tg st.id fun s id => s.memFault n tg c.1 c.2 (if st.writes then 1 else 0) id
  | (.ok pa2, s) =>
  let tr := { tr with pa := some pa, pa2 := pa2, leaf := leaf }
  if leafRemote leaf then
    let tr := { tr with route := [(n * 4 + 3, e)] }
    let ask (s : State) (l : List (Nat × Nat)) : State := l.foldl (fun s r =>
      let tag := s.gl.nextTag
      match s.request (mkFrame 2 (leafModule leaf) 0 r.2 (pa + r.1 - tr.va) []) (.transfer n e tr.no r.1) with
      | (s, none) => s.modTransfer n e tr.no fun t => { t with tags := t.tags ++ [tag] }
      | (s, some c) => s.transferFailed n e tr.no r.1 r.2 st.tag (leafModule leaf) c 2) s
    if st.writes then
      let bs := writeBytes d ks tr.vals
      let part := (bs.filter fun b => b.2.2.1 != 255).map (·.1)
      let tr := if part.isEmpty then { tr with runs := byteRuns bs fun _ => (0, false) } else { tr with part := part }
      let s := (s.modTransfer n e tr.no fun _ => tr).raise n e st tr
      (ask s (part.map (·, 1))).pumpWrites n e
    else ask ((s.modTransfer n e tr.no fun _ => tr).raise n e st tr) (readRuns d ks)
  else
    let whole : Bool := !inCtrl pa || tr.els.length * fmtBits (dFmt d) = 64
    match if whole then s.target pa (min len (0x10000 - pa % 0x10000)) else .error gmNoTarget with
    | .error c =>
      let tg := s.elTag n st (tr.els.headD 0)
      s.tileFault n st.tag tg st.id fun s id => s.memFault n tg c tr.va (if st.writes then 1 else 0) id
    | .ok _ =>
      let hint := leafHint leaf
      let g7 := inG7 pa
      let ls := if g7 then spanLines pa len else []
      let full (l : Nat) : Bool := st.writes && l * 256 ≥ pa && (l + 1) * 256 ≤ pa + len
        && tr.vals.length * fmtBits (dFmt d) = 8 * len
      let s := ls.foldl (fun s l =>
        let b := Config.tunBank l % 128
        if s.inTun l then s.tallyX 0x901 b 1
        else
          let s := s.tallyX 0x902 b 1
          if hint = 2 then s.tallyX (if st.writes then 0xA02 else 0xA01) (g7Chan (l * 256 - 0x001000000000)) 256 else s) s
      let missed := ls.filter fun l => !s.inTun l
      let need := if hint = 2 then [] else missed.filter fun l => !full l
      let direct := missed.flatMap fun l =>
        if hint = 2 then (if st.writes && full l then [] else [(lineChan l, 0)]) ++ if st.writes then [(lineChan l, 1)] else []
        else if full l then (s.fillRoute l).drop 1 else []
      let tr := { tr with route := s.routeTo n e st pa len ++ direct, lines := need, missed := missed }
      (s.modTransfer n e tr.no fun _ => tr).raise n e st tr

/-- The physical address of a byte of a transfer: on its first page, or on the next one. -/
def Transfer.bytePa (tr : Transfer) (va : Nat) : Nat :=
  if va / 0x10000 = tr.va / 0x10000 then tr.pa.getD 0 + va - tr.va else tr.pa2 + va % 0x10000

/-! ### Data -/

/-- Read the codewords of a list once each. -/
def readCws (s : State) (l : List Nat) : List (Nat × (List Byte × Bool)) × State :=
  l.foldl (fun (a : List (Nat × (List Byte × Bool)) × State) cw =>
    if (kfind a.1 cw).isSome then a
    else
      let (d, p, s) := a.2.readCw cw false
      (kset a.1 cw (d, p), s)) ([], s)

/-- Elements read by a local transfer: pattern, poison, physical address. -/
def State.readEls (s : State) (n : Nat) (st : Start) (tr : Transfer) : List (Nat × (Nat × Bool × Nat)) × State :=
  let spans := tr.els.map fun el =>
    let (d, k) := s.elDesc n st el
    let (va, len) := placeOf d k
    (el, d, k, (List.range len).map fun i => tr.bytePa (va + i))
  let a := tr.pa.getD 0
  let (m, s) :=
    if inCtrl a then
      let (d, _, s) := s.readPa a 8
      ([(a / 32, (List.replicate (a % 32) (0 : Byte) ++ d, false))], s)
    else readCws s (spans.flatMap fun x => x.2.2.2.map (· / 32))
  (spans.map fun (el, d, k, pas) =>
    let bs := pas.map fun p => ((kget m (p / 32) ([], false)).1).getD (p % 32) 0
    (el, (dExtract d k bs, pas.any fun p => (kget m (p / 32) ([], false)).2, pas.headD 0)), s)

/-- Elements read by a remote transfer, from what the responses brought. -/
def State.gotEls (s : State) (n : Nat) (st : Start) (tr : Transfer) : List (Nat × (Nat × Bool × Nat)) :=
  tr.els.map fun el =>
    let (d, k) := s.elDesc n st el
    let (va, len) := placeOf d k
    match tr.got.find? fun g => g.1 ≤ va && va + len ≤ g.1 + g.2.1.length with
    | some (a, bs, p) => (el, (dExtract d k (slice bs (va - a) len), p, tr.pa.getD 0 + va - tr.va))
    | none => (el, (0, true, tr.pa.getD 0 + va - tr.va))

/-- The tun's part when a transfer to G7 completes (R194): a present line is used; an absent one is filled under NORMAL and STREAM, one
that a write covers wholly only allocated. A line that was present as the transfer was translated, and is not any more, misses now. Of a
part of a line written past the tun the write's own reads bring the codewords `merged`. -/
def State.touchDone (s : State) (pa len hint : Nat) (write whole : Bool) (missed : List Nat) (merged : Nat → Bool) : State :=
  if inG7 pa then
    (spanLines pa len).foldl (fun s l =>
      let all := whole && pa ≤ l * 256 && (l + 1) * 256 ≤ pa + len
      if s.inTun l then s.tunUse l hint write
      else
        let s := if missed.contains l then s else s.tallyX 0x902 (Config.tunBank l % 128) 1
        if hint = 2 then (if !write || all then s else s.readLine l merged)
        else if write && all then s.tunInsert l hint true else s.tunFill l hint write) s
  else s

/-- Count the bytes a transfer moved (R387). -/
def State.tallyMove (s : State) (n e t pa len : Nat) (write remote : Bool) : State :=
  let s := s.tally n (0x601 + e) (.tag t) len
  if remote then (if write then s.tally n 0x706 (.tag t) len else s)
  else
    match place pa with
    | .cellar m _ =>
      let s := s.tally m (if write then 0x702 else 0x701) (.tag t) len
      if m = n then s else s.tally (if write then n else m) 0x706 (.tag t) len
    | .pocket m _ =>
      let s := s.tally m (if write then 0x705 else 0x704) (.tag t) len
      if m = n then s else s.tally (if write then n else m) 0x706 (.tag t) len
    | .g7 _ => (if write then s.tally n 0x706 (.tag t) len else s).tallyX 0x905 (n / 512) len
    | _ => s

/-! ### Sparge (R233) -/

/-- Whether a receiver start may arm a region (R233, Table 4, step 1). -/
def State.mayArm (s : State) (n r : Nat) : Bool :=
  s.regState n r = regFree || (s.regState n r = regComplete && s.get (ST_REGION n r) ST_REGION.USES_LEFT = 0)

/-- Arm a region: the arm count of its group and region rises. -/
def State.armRegion (s : State) (n : Nat) (st : Start) (foot pages : List (Nat × Nat)) : State :=
  let r := dRegion st.d
  let g := dMgroup st.d
  let a := ST_REGION n r
  let s := s.setReg a 0
  let s := s.set a ST_REGION.STATE regArmed
  let s := s.set a ST_REGION.MGROUP g
  let s := s.set a ST_REGION.TAG st.tag
  let s := s.setRegion n r { d := st.d, count := dCount st.d, foot := foot, pages := pages, xlat := (s.task n st.tag).xlat,
                             id := st.id, priv := st.priv, inq := (s.region n r).inq, born := (s.task n st.tag).born }
  let s := { s with arm := kput s.arm (g * 16 + r) (kget s.arm (g * 16 + r) 0 + 1) 0 }
  ((s.showEngine n 0).showEngine n 1).showEngine n 3

/-- Byte runs that a start's positions touch; padding positions count where `padded` (R205, R224). -/
def footRuns (d : BitVec 512) (padded : Bool) : List (Nat × Nat) :=
  (List.range (dCount d)).foldl (fun rs k =>
    if dInBounds d k || padded then
      let (va, len) := placeOf d k
      match rs.getLast? with
      | some (a, m) => if a ≤ va ∧ va ≤ a + m then rs.dropLast ++ [(a, max m (va + len - a))] else rs ++ [(va, len)]
      | none => [(va, len)]
    else rs) []

/-- Split runs at 64 KiB pages. -/
def pageSplit (l : List (Nat × Nat)) : List (Nat × Nat) :=
  l.flatMap fun r =>
    if r.2 = 0 then []
    else
      (List.range ((r.1 + r.2 - 1) / 0x10000 - r.1 / 0x10000 + 1)).map fun i =>
        let lo := max r.1 ((r.1 / 0x10000 + i) * 0x10000)
        let hi := min (r.1 + r.2) ((r.1 / 0x10000 + i + 1) * 0x10000)
        (lo, hi - lo)

/-- Translate byte runs: their physical ranges (a remote page's under its module) and the pages met, or a fault and its
address. -/
def State.footprint (s : State) (n x : Nat) (runs : List (Nat × Nat)) (need : Need) :
    Except (Nat × Nat) (List (Nat × Nat) × List (Nat × Nat)) × State :=
  (pageSplit runs).foldl (fun (a : Except (Nat × Nat) (List (Nat × Nat) × List (Nat × Nat)) × State) r =>
    match a with
    | (.error c, s) => (.error c, s)
    | (.ok (l, pg), s) =>
      match s.translate n x r.1 need with
      | (.error c, s) => (.error (c, r.1), s)
      | (.ok (pa, leaf), s) =>
        let key := pa + (if leafRemote leaf then (leafModule leaf + 1) * 2 ^ 46 else 0)
        (.ok (l ++ [(key, r.2)], kset pg (r.1 / 0x10000) (pa / 0x10000)), s)) (.ok ([], []), s)

/-- Arm the receiver starts that wait in a slot for a region that has become free (R233, Table 4, steps 1, 2). -/
def State.rearm (s : State) (n : Nat) : State :=
  [.active, .pending].foldl (fun s act =>
    let en := s.eng n 3
    match en.at_ act with
    | some st =>
      if !st.begun && s.mayArm n (dRegion st.d) && s.live n st.tag then
        match s.footprint n (s.task n st.tag).xlat (footRuns st.d false) { sp := true } with
        | (.ok (f, pg), s) => (s.putEng n 3 (en.put act (some { st with begun := true }))).armRegion n st f pg
        | (.error c, s) => s.memFault n st.tag c.1 c.2 2 st.id
      else s
    | none => s) s

/-- A region becomes FREE (R233). -/
def State.regionFree (s : State) (n r : Nat) : State :=
  (((s.set (ST_REGION n r) ST_REGION.STATE regFree).rearm n).showEngine n 0).showEngine n 1

/-- Whether the task that armed a region is still the one in its tag. -/
def State.armedBy (s : State) (n r t : Nat) : Bool :=
  s.get (ST_REGION n r) ST_REGION.TAG = t && (s.region n r).born = (s.task n t).born

/-- Lower the uses of the regions that an operand footprint overlaps (R233, Table 4, step 10). -/
def State.regionUse (s : State) (n : Nat) (ranges : List (Nat × Nat)) : State :=
  (List.range 16).foldl (fun s r =>
    let u := s.get (ST_REGION n r) ST_REGION.USES_LEFT
    if s.regState n r = regComplete ∧ 0 < u ∧ overlaps ranges (s.region n r).foot then
      let s := s.set (ST_REGION n r) ST_REGION.USES_LEFT (u - 1)
      if u = 1 then s.regionFree n r else s
    else s) s

/-! ### The end of a start -/

/-- Whether `w` is the side of a copy on the write engine whose side on the read engine is `st` (R226). -/
def Start.writeSide (st w : Start) : Bool := w.kind == .copyWrite && w.id = st.id && w.tag = st.tag

/-- Whether a start's last transfer is complete: a copy is one start, whose side on the read engine stays until its last
byte is written (R226, R227). -/
def State.finished (s : State) (n : Nat) (st : Start) : Bool :=
  s.issuedAll n st && st.out.isEmpty && (st.kind != .send || dCount st.d ≤ st.read)
    && !(st.kind == .copyRead && ((s.eng n 2).starts ++ (s.eng n 2).queue).any st.writeSide)

/-- A copy that acts as a move writes once its source is wholly read (R229). -/
def State.releaseMoves (s : State) (n : Nat) : State :=
  let read := ([0, 1].flatMap fun e => (s.eng n e).starts).filter fun st =>
    st.kind == .copyRead && s.issuedAll n st && st.out.isEmpty
  let g (w : Start) : Start := if !w.begun && read.any (·.writeSide w) then { w with begun := true } else w
  let en := s.eng n 2
  if en.starts.any fun w => (g w).begun != w.begun then s.putEng n 2 (en.mapStarts g) else s

/-- Add the TOLERANT counts of a tile that drains, or of a list that is complete, to the counters of its task's tag (R83). -/
def State.tolAdd (s : State) (n : Nat) (l : List (Nat × Tol)) : State :=
  l.foldl (fun s x =>
    let s := s.bump (LT_TOL_ORDER n x.1) x.2.order
    let s := s.bump (LT_TOL_OVERFULL n x.1) x.2.overfull
    let s := s.bump (LT_TOL_RANGE n x.1) x.2.range
    s.tally n 0x205 (.tag x.1) (x.2.order + x.2.overfull + x.2.range)) s

/-- Valid entries of the sump. -/
def Chamber.resident (c : Chamber) : Nat := (c.sump.map fun x => x.2.length).foldl (· + ·) 0

/-- Show the sump in SP_STATUS (R117). -/
def State.showSump (s : State) (n : Nat) : State :=
  let c := s.ch n
  let s := s.set (SP_STATUS n) SP_STATUS.RESIDENT c.resident
  let s := s.set (SP_STATUS n) SP_STATUS.SPILL_BUF c.spill.length
  let s := s.set (SP_STATUS n) SP_STATUS.SPILL_STALL (bit (decide (64 ≤ c.spill.length) && !c.runs.isEmpty))
  s.set (SP_STATUS n) SP_STATUS.SUMP_DRAINING (bit c.sumpDrain.isSome)

/-- A SUMP_DRAIN whose entries are written is over: SP_SUMP_DONE, and a hash seed that waited (R114, step 4, R117). -/
def State.sumpDone (s : State) (n t id : Nat) : State :=
  match (s.ch n).sumpDrain with
  | some d =>
    match d.closed with
    | some (k, nan) =>
      if d.tag ≠ t ∨ d.id ≠ id then s
      else
        let a := SP_SUMP_DONE n
        let s := s.setReg a 0
        let s := s.set a SP_SUMP_DONE.ENTRIES k
        let s := s.set a SP_SUMP_DONE.TAG t
        let s := s.set a SP_SUMP_DONE.NAN (bit nan)
        let s := s.set a SP_SUMP_DONE.SAT (bit (s.task n t).sumSat)
        let s := s.set a SP_SUMP_DONE.VALID 1
        ((s.modCh n fun c => { c with sumpDrain := none }).takeSeed n).showSump n
    | none => s
  | none => s

/-- A list instruction is complete: it leaves the Lauter, and its TOLERANT counts are added (R83). -/
def State.listDone (s : State) (n t id : Nat) : State :=
  let mine (l : ListInstr) : Bool := l.tag = t && l.id = id
  let tol := ((s.ch n).lists.filter mine).map fun l => (l.tag, l.tol)
  (((s.modCh n fun c => { c with lists := c.lists.filter fun l => !mine l }).tolAdd n tol).sumpDone n t id).complete n t id

/-- Whether a waiting instruction of the gravity unit is a GV_JOIN. -/
def GvJoin.isJoin (j : GvJoin) : Bool := opcode j.word = 0x71

/-- Show the gravity unit in GV_STATUS (R166, Table 7): a drain whose keep word is on its way, GV_CHECKs, waiting GV_JOINs; TAG is that
of the first of these. -/
def State.showJoin (s : State) (n : Nat) : State :=
  let c := s.ch n
  let sel := c.arr.find? fun a => a.keep && a.phase == .draining
  let chk := ((c.checks.map fun x => x.1) ++ (c.joins.filter fun j => !j.isJoin).map (·.tag)).head?
  let join := c.joins.find? GvJoin.isJoin
  let a := GV_STATUS n
  let s := s.set a GV_STATUS.SELECTING (bit sel.isSome)
  let s := s.set a GV_STATUS.CHECKING (bit chk.isSome)
  let s := s.set a GV_STATUS.JOIN_WAIT (bit join.isSome)
  s.set a GV_STATUS.TAG (((sel.map (·.tag)).orElse fun _ => chk.orElse fun _ => join.map (·.tag)).getD 0)

/-- GV_CHECK is complete: its counts rise (R161). -/
def State.checkDone (s : State) (n t id : Nat) : State :=
  let mine (x : Nat × Nat × Nat × Nat) : Bool := x.1 = t && x.2.1 = id
  let (k, m) := (((s.ch n).checks.find? mine).map fun x => x.2.2).getD (0, 0)
  let s := (s.modCh n fun c => { c with checks := c.checks.filter fun x => !mine x }).showJoin n
  let s := (s.bump (GV_CHECKED n t) k).bump (GV_MISSES n t) m
  (s.tally n 0x503 (.tag t) m).complete n t id

/-- What the end of an internal start (R220) sets off, by its code: 1 a keep word written at issue, with which its instruction is
complete (R155), 2 GV_CHECK's miss word (R161); a run (0) and a drain's keep word (3) are looked for by what waits for them. -/
def State.internalEnd (s : State) (n : Nat) (st : Start) : State :=
  match st.desc with
  | 1 => s.complete n st.tag st.id
  | 2 => s.checkDone n st.tag st.id
  | _ => s

/-- Queue an internal start of the write engine (R220): bytes at an address, its descriptor one of raw bytes; an address that leaves the
address space misses (R201). -/
def State.startInternal (s : State) (n t id code va : Nat) (l : List Byte) : State :=
  let en := s.eng n 2
  let st : Start := { kind := .internal, id := id, tag := t, desc := code, d := rawDesc va l.length,
                      buf := l.mapIdx fun i b => (i, (b.toNat, false)) }
  if 2 ^ 48 < va + l.length then s.memFault n t gmXlatMiss va 1 id else s.setEng n 2 { en with internal := en.internal ++ [st] }

/-- Runs of a chamber that wait to be written (R113): the internal starts of code 0. -/
def State.runsDue (s : State) (n : Nat) : Nat := ((s.eng n 2).internal.filter fun st => st.desc = 0).length

/-- Whether an internal start with a code is still to be written for an instruction. -/
def State.internalDue (s : State) (n t id code : Nat) : Bool :=
  (s.eng n 2).internal.any fun st => st.tag = t && st.id = id && st.desc = code

/-- The multicast that a send start runs, with its number. -/
def State.mcastOf (s : State) (n : Nat) (st : Start) : Option (Nat × Mcast) :=
  s.mcast.find? fun m => m.2.sender = (n, st.tag, st.id) && !m.2.closed

/-- A send start's multicast closes: no more elements come (R233). -/
def State.closeMcast (s : State) (n : Nat) (st : Start) : State :=
  match s.mcastOf n st with
  | some m => { s with mcast := kset s.mcast m.1 { m.2 with closed := true } }
  | none => s

/-- What the end of a start sets off: a group's taken credit stays with its instruction, a list whose last entry is written
is complete, a send closes its multicast. -/
def State.startEnd (s : State) (n : Nat) (st : Start) : State :=
  match st.kind with
  | .group o =>
    let s := s.modCh n fun c => { c with lists := c.lists.map fun (l : ListInstr) =>
      if l.tag = st.tag && l.id = st.id then (if o = 0 then { l with unitsA := st.units } else { l with unitsB := st.units }) else l }
    s.modArr n st.tag st.id fun a => if o = 0 then { a with unitsA := st.units } else { a with unitsB := st.units }
  | .sink =>
    if (s.ch n).lists.any fun l => l.tag = st.tag && l.id = st.id && l.done then
      s.listDone n st.tag st.id
    else s
  | .send => s.closeMcast n st
  | .internal => s.internalEnd n st
  | _ => s

/-- Let the finished starts of an engine leave it (R227). -/
def State.retire (s : State) (n e : Nat) : State :=
  let once (s : State) (p : SlotPos) : State :=
    match (s.eng n e).at_ p with
    | some st => if s.finished n st then (s.putEng n e ((s.eng n e).remove p)).startEnd n st else s
    | none => s
  [.active, .pending, .active, .internal].foldl once s

/-- Let finished starts of a chamber leave, and end the waits that this satisfies. -/
def State.retireAll (s : State) (n : Nat) : State :=
  ([2, 0, 1].foldl (fun s e => s.retire n e) (s.releaseMoves n)).settleAll n

/-- Whether a start moves the elements of its `todo`: a group, or a sink. -/
def StartKind.byTodo : StartKind → Bool
  | .group _ => true
  | .sink => true
  | _ => false

/-- Whether a start is a group of an array or list instruction. -/
def StartKind.isGroup : StartKind → Bool
  | .group _ => true
  | _ => false

/-- Credit units whose last transfer is complete are returned (R231): a unit the start has moved beyond with no transfer
outstanding. A CONSUMER in an array start group returns its units when the instruction completes. -/
def State.returnUnits (s : State) (n e : Nat) (p : SlotPos) : State :=
  let en := s.eng n e
  match en.at_ p with
  | none => s
  | some st =>
    let desc (u : Nat) : BitVec 512 := (s.elDesc n st (elCode (u / 2 ^ 40) 0)).1
    let unitOf (el : Nat) : Nat :=
      let (d, k) := s.elDesc n st el
      elCode (el / 2 ^ 40) (dUnit d k)
    let cur := match s.posOf n st st.next with
      | .use _ _ _ u _ => some u
      | .take u => some u
      | _ => if s.issuedAll n st then none else some (dUnit st.d (st.at_ st.next))
    let kept := st.kind.isGroup && (s.arrOf n st.tag st.id).isSome
    let done := st.units.filter fun u =>
      !st.given.contains u && cur != some u && !(st.out.any fun tr => tr.els.any fun el => unitOf el = u)
        && !(kept && dCredRole (desc u) = 2)
    if done.isEmpty then s
    else
      let s := s.putEng n e (en.put p (some { st with given := st.given ++ done }))
      done.foldl (fun s u => s.creditAdd n (creditGive (desc u)) 1) s

/-- Give the elements that a send has read, in order, to every member of its multicast number `no` (R233). -/
def sendOut (fuel : Nat) (s : State) (st : Start) (no : Nat) (ms : List Nat) : State × Start :=
  match fuel with
  | 0 => (s, st)
  | fuel + 1 =>
    if dCount st.d ≤ st.read then (s, st)
    else
      let k := st.read
      match (if dInBounds st.d k then kfind st.buf k else some (dFillBits st.d, false)) with
      | none => (s, st)
      | some v =>
        let r := dRegion st.d
        let s := ms.foldl (fun s m => s.setRegion m r { s.region m r with inq := (s.region m r).inq ++ [(no, v)] }) s
        sendOut fuel s { st with read := k + 1, buf := kdel st.buf k } no ms

/-- Drop every start of a task from an engine's slots and queue (R188, R243); a copy's two sides go together. -/
def State.dropStarts (s : State) (n t : Nat) : State :=
  (List.range 4).foldl (fun s e => s.putEng n e ((s.eng n e).filter fun st => st.tag != t)) s

/-- Take the starts of one instruction out of slots and queues. -/
def State.dropInstr (s : State) (n t id : Nat) : State :=
  (List.range 4).foldl (fun s e => s.putEng n e ((s.eng n e).filter fun st => !(st.tag = t && st.id = id))) s

/-- Whether a list or write start of an instruction stands in a slot, ready to move data: ACTIVE, or PENDING behind an
ACTIVE start that holds it up no more (R227). -/
def State.slotted (s : State) (n e t id : Nat) : Bool :=
  let en := s.eng n e
  let mine (x : Option Start) : Bool := x.any fun st => st.tag = t && st.id = id
  mine en.active || (mine en.pending && en.active.all fun a => s.heldUp n a (s.issuedAll n a))

/-- The start that an instruction made at an engine, slots first; an internal start (R220) is none. -/
def State.startOf (s : State) (n e t id : Nat) : Option Start :=
  ((s.eng n e).slots ++ (s.eng n e).queue).find? fun st => st.tag = t && st.id = id

/-- Whether an instruction's start at an engine stands ready: in a slot, or, having no elements, complete at its acceptance (R223). -/
def State.ready (s : State) (n e t id : Nat) : Bool := s.slotted n e t id || (s.startOf n e t id).isNone

/-- Whether a read start of an instruction still has bytes to bring. -/
def State.bytesDue (s : State) (n t id : Nat) : Bool := (s.startOf n 0 t id).isSome || (s.startOf n 1 t id).isSome

/-- The list instruction in the Lauter: the first, from the acceptance of an input on, with no array instruction before it. -/
def State.listHeld (s : State) (n : Nat) : Option ListInstr :=
  ((s.ch n).lists.head?).filter fun l =>
    opcode l.word != 0x61 && (s.bytesDue n l.tag l.id || l.done)
      && !((s.ch n).arr.any fun a => a.seq < l.seq && (a.phase == .queued || a.phase == .regionWait))

/-- Show the Lauter in LT_STATUS (R96, Table 9): the current instruction is the first it holds in issue order; an array
instruction that has its lists and no step yet waits on the feed port, one with bytes to come on its source. -/
def State.showLauter (s : State) (n : Nat) : State :=
  let held := (s.ch n).arr.filter fun a => a.phase == .regionWait || a.phase == .read || a.phase == .inArray || a.reading
  let a := LT_STATUS n
  let list := s.listHeld n
  let first := held.head?.filter fun i => list.all fun l => i.seq < l.seq
  match first, list with
  | none, none => s.setReg a 0
  | none, some l =>
    let s := (s.setReg a 0).set a LT_STATUS.BUSY 1
    let s := s.set a LT_STATUS.WAIT (if s.bytesDue n l.tag l.id then 1 else 0)
    s.set a LT_STATUS.TAG l.tag
  | some i, _ =>
    let w := i.word
    let s := s.set a LT_STATUS.BUSY 1
    let s := s.set a LT_STATUS.FORMAT_A (aSpfA w)
    let s := s.set a LT_STATUS.FORMAT_B (aSpfB w)
    let s := s.set a LT_STATUS.FEED_KIND
      (if aMode w = 0 then 3 else if isNM (aSpfA w) then 1 else if aSpfA w = 8 then 2 else 0)
    let s := s.set a LT_STATUS.WAIT
      (if i.phase == .regionWait then 2 else if i.reading || s.bytesDue n i.tag i.id then 1 else if i.phase == .read then 3 else 0)
    s.set a LT_STATUS.TAG i.tag

end Sys2Proof.Machine
end

