-- ==== Sys2Proof/Machine/Streams.lean ====
section
/-! DEFINITION. The stream commands (R220 to R236): transfers, credits, multicast, the stall
watchdog; and the two memory events that transfers wait for (R199, R194). -/

namespace Sys2Proof.Machine

/-! ### Transfers -/

/-- The start whose turn it is to issue: the first internal start, between the transfers of slotted starts (R220); ACTIVE until it
has issued its last transfer or may not move, then PENDING (R227, R243). -/
def State.issuing (s : State) (n e : Nat) : Option (Start × SlotPos) :=
  let en := s.eng n e
  match en.internal.head?.filter fun st => !s.issuedAll n st with
  | some i => some (i, .internal)
  | none =>
    match en.active with
    | none => none
    | some a => if s.heldUp n a (s.issuedAll n a) then en.pending.map fun p => (p, .pending) else some (a, .active)

/-- The next transfer of a start: the run of positions that forms it (R221). -/
def State.nextRun (s : State) (n : Nat) (st : Start) : RunOf := formRun st.left (s.posOf n st) { next := st.next }

/-- The unit for which a start has to take a credit before it goes on, and the counter: its next transfer's, or that of a CONSUMER's
unit without a transfer (R231). -/
def State.creditDue (s : State) (n : Nat) (st : Start) (r : RunOf) : Option (Nat × Nat) :=
  let due (u : Nat) (d : BitVec 512) : Option (Nat × Nat) :=
    if dCredRole d = 0 ∨ st.units.contains u then none else some (u, creditTake d)
  match r.els with
  | el :: _ => due r.unit (s.elDesc n st el).1
  | [] =>
    match s.posOf n st st.next with
    | .take u => due u (s.elDesc n st (elCode (u / 2 ^ 40) 0)).1
    | _ => none

/-- Take the credit that is due. -/
def State.takeCredit (s : State) (n : Nat) (due : Option (Nat × Nat)) : State :=
  match due with
  | some (_, k) => s.set (ST_CREDIT n k) ST_CREDIT.COUNT (s.get (ST_CREDIT n k) ST_CREDIT.COUNT - 1)
  | none => s

/-- A transfer leaves: its credit is taken, its address translated where an entry holds it, its requests raised. A read of a
region still to be filled waits (R221, R226, R231, R233). -/
def State.issueRun (s : State) (n e : Nat) (act : SlotPos) (st : Start) (r : RunOf) : State :=
  let due := s.creditDue n st r
  let tg := s.elTag n st (r.els.headD 0)
  let x := (s.task n tg).xlat
  let (found, s) := s.lookup n x r.lo
  let need := st.need
  let busy := match found with
    | some l => need.r && !leafRemote l && s.regionBusy n [(leafPage l * 0x10000 + r.lo % 0x10000, r.hi - r.lo)]
    | none => false
  if busy then s.putEng n e ((s.eng n e).put act (some { st with held := true }))
  else
    let s := s.takeCredit n due
    let no := (s.eng n e).nextNo
    let tr : Transfer := { no := no, els := r.els, va := r.lo, len := r.hi - r.lo, vals := r.vals }
    let st := { st with
      units := st.units ++ due.toList.map (·.1)
      held := false
      todo := if st.kind.byTodo then st.todo.drop r.next else st.todo
      next := if st.kind.byTodo then 0 else r.next
      out := st.out ++ [tr] }
    let st := s.advance n st
    let en := { s.eng n e with nextNo := no + 1 }
    let s := s.setEng n e (en.put act (some st))
    let s := s.tally n 0x605 (.tag st.tag) 1
    match found with
    | none => (s.tally n 0x608 (.tag st.tag) 1).showEngine n e
    | some l =>
      if leafAllows l need then (s.attach n e st tr (leafPage l * 0x10000 + r.lo % 0x10000) l).showEngine n e
      else s.tileFault n st.tag tg st.id fun s id => s.memFault n tg gmPerm r.lo (if st.writes then 1 else 0) id

/-- TRANSFER_ISSUE (R221): the next transfer of the start whose turn it is; a start without a credit takes its turn to wait
(R231). -/
def execTransferIssue (n : Ch) (e : Eng) (s : State) : Out :=
  match s.issuing n e with
  | none => .next s
  | some (st, act) =>
    if !s.mayMove n st ∨ 6 ≤ (s.eng n e).outstanding ∨ !st.begun ∨ st.creditSince.isSome then .next s
    else
      let st := s.advance n st
      let r := s.nextRun n st
      let en := s.eng n e
      let due := s.creditDue n st r
      if due.any fun u => s.get (ST_CREDIT n u.2) ST_CREDIT.COUNT = 0 || !(s.creditWaiters n u.2).isEmpty then
        let turn := (s.ch n).turn
        let s := s.modCh n fun c => { c with turn := turn + 1 }
        .next (s.putEng n e (en.put act (some { st with creditSince := some turn, creditOn := (due.map (·.2)).getD 0 })))
      else if r.els.isEmpty then
        let s := (s.takeCredit n due).putEng n e (en.put act (some { st with units := st.units ++ due.toList.map (·.1) }))
        .next ((s.returnUnits n e act).retireAll n)
      else .next (s.issueRun n e act st r)

/-- The engine's oldest transfer that waits for its translation; one of an aborted task is discarded (R188). -/
def State.walking (s : State) (n e : Nat) : Option (Start × Transfer) :=
  (s.eng n e).starts.findSome? fun st => (st.out.find? fun tr =>
    let t := s.elTag n st (tr.els.headD 0)
    tr.pa.isNone && (s.live n t || s.tstate n t = tSaving || ((st.kind == .sink || st.kind == .internal) && s.drains n t))).map fun tr => (st, tr)

/-- XLAT_WALK_DONE (R199, R202): the walk of the engine's oldest transfer without a translation ends; one whose tables lie at a channel
that retrains goes on (R354). -/
def execXlatWalkDone (n : Ch) (e : Eng) (s : State) : Out :=
  match s.walking n e with
  | none => .next s
  | some (st, tr) =>
    let kind := if st.writes then 1 else 0
    let tg := s.elTag n st (tr.els.headD 0)
    let x := (s.task n tg).xlat
    match s.walkFill n x tr.va with
    | (.error c, u) => .next (s.orHeld (u.tileFault n st.tag tg st.id fun s id => s.memFault n tg c tr.va kind id))
    | (.ok l, u) =>
      let pa := leafPage l * 0x10000 + tr.va % 0x10000
      if !leafAllows l st.need then .next (s.orHeld (u.tileFault n st.tag tg st.id fun s id => s.memFault n tg gmPerm tr.va kind id))
      else .next (s.orHeld ((u.attach n e st tr pa l).showEngine n e))

/-- The transfers that wait for a line of the tun: chamber, engine, start, transfer. -/
def State.lineWaiters (s : State) (line : Nat) : List (Nat × Nat × Start × Transfer) :=
  s.chambers.flatMap fun c => c.2.engines.flatMap fun en => en.2.starts.flatMap fun st =>
    (st.out.filter fun tr => tr.lines.contains line).map fun tr => (c.1, en.1, st, tr)

/-- The tun fills a line that transfers wait for. -/
def State.fillFor (s : State) (line hint : Nat) : State :=
  let s := s.tunFill line hint false
  let g (st : Start) : Start :=
    { st with out := st.out.map fun tr => { tr with lines := tr.lines.filter (· != line) } }
  { s with chambers := s.chambers.map fun c =>
    (c.1, { c.2 with engines := c.2.engines.map fun en => (en.1, en.2.mapStarts g) }) }

/-- TUN_FILL_DONE (R194): a line that a transfer waits for is filled from G7 DRAM, the channel granted at the priority of the
request that missed, and the victim's channel for its write-back (R237); it waits while its channel retrains (R354). -/
def execTunFillDone (line : Nat) (s : State) : Out :=
  match s.lineWaiters line with
  | [] => .next s
  | (n, e, st, tr) :: _ =>
    if s.inTun line ∨ s.lineHeld line then .next s
    else
      let q := otherReq (some (s.reqPrio (s.transferReq n e st tr.no))) 12 line
      .next (s.arbitrate q (s.fillRoute line) fun s => s.fillFor line (leafHint tr.leaf))

/-- Give what a read transfer brought to the start's consumer (R209: the array feed takes a fault on poison). -/
def State.handOver (s : State) (n e : Nat) (act : SlotPos) (st : Start) (tr : Transfer)
    (els : List (Nat × (Nat × Bool × Nat))) : State :=
  match st.kind with
  | .group o =>
    let s := match els.find? fun x => x.2.2.1 with
      | some x =>
        let tg := s.elTag n st x.1
        let code := poisonCode x.2.2.2 (!leafRemote tr.leaf && !tr.missed.contains (x.2.2.2 / 256))
        s.tileFault n st.tag tg st.id fun s id => s.memFault n tg code tr.va 0 id
      | none => s
    let s := s.modCh n fun c => { c with lists := c.lists.map fun (l : ListInstr) =>
      if l.tag = st.tag && l.id = st.id then
        (if o = 0 then { l with feedA := els.foldl (fun m x => kset m x.1 x.2.1) l.feedA }
         else { l with feedB := els.foldl (fun m x => kset m x.1 x.2.1) l.feedB })
      else l }
    s.modArr n st.tag st.id fun a =>
      { a with tiles := a.tiles.mapIdx fun (g : Nat) (t : Tile) =>
          let mine := (els.filter fun x => x.1 / 2 ^ 40 = g).map fun x => (x.1 % 2 ^ 40, x.2.1)
          if o = 0 then { t with feedA := mine.foldl (fun m x => kset m x.1 x.2) t.feedA }
          else { t with feedB := mine.foldl (fun m x => kset m x.1 x.2) t.feedB } }
  | .copyRead =>
    let en := s.eng n 2
    let g (w : Start) : Start :=
      if w.kind == .copyWrite && w.id = st.id && w.tag = st.tag then
        { w with buf := els.foldl (fun b x => kset b x.1 (x.2.1, x.2.2.1)) w.buf } else w
    s.putEng n 2 { en.mapStarts g with queue := en.queue.map g }
  | .send =>
    let en := s.eng n e
    match en.at_ act with
    | some w =>
      let w := { w with buf := els.foldl (fun b x => kset b x.1 (x.2.1, x.2.2.1)) w.buf }
      match s.mcastOf n w with
      | some m =>
        let (s, w) := sendOut (dCount w.d + 1) s w m.1 m.2.members
        s.putEng n e (en.put act (some w))
      | none => s
    | none => s
  | _ => s

/-- The bytes that a write transfer carries. -/
def State.carried (s : State) (n : Nat) (st : Start) (tr : Transfer) : List (Nat × (Nat × Nat × Bool)) :=
  writeBytes (s.elDesc n st (tr.els.headD 0)).1 (tr.els.map fun el => (s.elDesc n st el).2) tr.vals

/-- Whether a write transfer covers a part of a codeword, into which it is merged (R208). -/
def State.merges (s : State) (n : Nat) (st : Start) (tr : Transfer) (cw : Nat) : Bool :=
  let l := ((s.carried n st tr).map fun b => (tr.bytePa b.1, b.2)).filter fun b => b.1 / 32 = cw
  !l.isEmpty && !allBytes l

/-- Store what a local write transfer carries. -/
def State.putTransfer (s : State) (n : Nat) (st : Start) (tr : Transfer) : State :=
  let bs := s.carried n st tr
  if inCtrl (tr.pa.getD 0) then s.writePa (tr.pa.getD 0) (bs.map fun b => BitVec.ofNat 8 b.2.1) false
  else
    let l := bs.map fun b => (tr.bytePa b.1, b.2)
    storeAll (l.length + 1) s l

/-- Transfer number `i` of an engine, its start, and where that stands. -/
def State.findTransfer (s : State) (n e i : Nat) : Option (Start × Transfer × SlotPos) :=
  let find (p : SlotPos) : Option (Start × Transfer × SlotPos) :=
    ((s.eng n e).at_ p).bind fun st => (st.out.find? fun tr => tr.no = i).map fun tr => (st, tr, p)
  [.active, .pending, .internal].findSome? find

/-- Where a transfer's bytes lie: as it was translated, or as a walk would translate it now. -/
def State.transferPa (s : State) (n : Nat) (st : Start) (tr : Transfer) : Option Nat :=
  tr.pa.orElse fun _ =>
    match (s.translate n (s.trXlat n st tr) tr.va st.need).1 with
    | .ok (pa, leaf) => if leafRemote leaf then none else some pa
    | .error _ => none

/-- Whether an earlier transfer of the engine has to take effect first: writes of one 2 KiB block, and accesses to one line of the
tun (R195, R221). -/
def State.orderHeld (s : State) (n e : Nat) (st : Start) (tr : Transfer) : Bool :=
  let pa := tr.pa.getD 0
  (s.eng n e).starts.any fun o => o.out.any fun x =>
    x.no < tr.no && (s.transferPa n o x).any fun p =>
      (st.writes && p / 2048 = pa / 2048)
        || (inG7 pa && p / 256 ≤ (pa + tr.len - 1) / 256 && pa / 256 ≤ (p + x.len - 1) / 256)

/-- The state once a local transfer has passed the tun. -/
def State.throughTun (s : State) (n : Nat) (st : Start) (tr : Transfer) : State :=
  let whole := st.writes && tr.vals.length * fmtBits (dFmt (s.elDesc n st (tr.els.headD 0)).1) = 8 * tr.len
  s.touchDone (tr.pa.getD 0) tr.len (leafHint tr.leaf) st.writes whole tr.missed (s.merges n st tr)

/-- Whether a local transfer has to wait for a channel that retrains (R354). -/
def State.tunHeld (s : State) (n : Nat) (st : Start) (tr : Transfer) : Bool :=
  !leafRemote tr.leaf && s.chanHeld (s.throughTun n st tr) (tr.pa.getD 0) tr.len (leafHint tr.leaf)

/-- Whether a transfer can move: translated, its lines present, its responses in, no region under it still to be filled, no earlier
transfer before it, no channel to wait for that retrains (R194, R195, R221, R233, R271, R354). -/
def State.transferAble (s : State) (n e : Nat) (st : Start) (tr : Transfer) : Bool :=
  let ts := s.tstate n st.tag
  (ts = tActive || ts = tSaving || ((st.kind == .sink || st.kind == .internal) && s.drains n st.tag))
    && tr.pa.isSome && tr.lines.isEmpty && tr.tags.isEmpty && tr.runs.isEmpty && tr.part.isEmpty
    && (st.writes || !s.regionHeld n tr)
    && (leafRemote tr.leaf || !s.orderHeld n e st tr) && !s.tunHeld n st tr

/-- Whether a transfer may complete: it can move, and passes every resource on its way (R238). -/
def State.transferReady (s : State) (n e : Nat) (st : Start) (tr : Transfer) : Bool :=
  s.transferAble n e st tr && s.clear (s.transferReq n e st tr.no) tr.route

/-- A transfer returns its data, or is accepted (R221). -/
def State.transferDone (s : State) (n e : Nat) (st : Start) (tr : Transfer) (act : SlotPos) : State :=
  let remote := leafRemote tr.leaf
  let pa := tr.pa.getD 0
  let missed := tr.missed
  let tr := if remote ∨ !inG7 pa then tr
    else { tr with missed := tr.missed ++ (spanLines pa tr.len).filter fun l => !s.inTun l && !tr.missed.contains l }
  let s := if remote then s else s.throughTun n st { tr with missed := missed }
  let s := s.arbMoved (s.transferReq n e st tr.no) tr.route
  let s := s.tallyMove n e st.tag pa tr.len st.writes remote
  let (els, s) :=
    if st.writes then ([], if remote then s else s.putTransfer n st tr)
    else if remote then (s.gotEls n st tr, s)
    else s.readEls n st tr
  let en := s.eng n e
  let drop (x : Start) : Start := { x with out := x.out.filter fun o => o.no != tr.no }
  let s := s.putEng n e (en.put act ((en.at_ act).map drop))
  let s := s.handOver n e act st tr els
  let s := ((s.returnUnits n e act).retireAll n).progress n st.tag
  if st.kind.isGroup then s.showLauter n else s

/-- TRANSFER_COMPLETE (R221): a transfer that can move but still waits for a resource passes those granted to it. -/
def execTransferComplete (n : Ch) (e : Eng) (i : Nat) (upsets : List Upset) (s : State) : Out :=
  match s.findTransfer n e i with
  | none => .next s
  | some (st, tr, act) =>
    if !s.transferAble n e st tr then .next s
    else if !s.clear (s.transferReq n e st tr.no) tr.route then .next (s.pass (s.transferReq n e st tr.no) tr.route)
    else .next ((upsets.foldl State.upset s).transferDone n e st tr act)

/-- CREDIT_WAIT_END (R231): of the starts waiting on a counter above zero the first in turn takes a credit. -/
def execCreditWaitEnd (n : Ch) (e : Eng) (s : State) : Out :=
  match s.issuing n e with
  | none => .next s
  | some (st, act) =>
    match st.creditSince with
    | none => .next s
    | some turn =>
      let k := st.creditOn
      let c := s.get (ST_CREDIT n k) ST_CREDIT.COUNT
      if c = 0 ∨ (s.creditWaiters n k).any (· < turn) ∨ !s.mayMove n st then .next s
      else
        let u := match s.posOf n (s.advance n st) (s.advance n st).next with
          | .use _ _ _ u _ => u
          | .take u => u
          | _ => 0
        let s := (s.takeCredit n (some (u, k))).putEng n e ((s.eng n e).put act (some { st with creditSince := none, units := st.units ++ [u] }))
        .next ((s.returnUnits n e act).retireAll n)

/-! ### Multicast (R233) -/

/-- The number of a new multicast. -/
def State.mcastNo (s : State) : Nat := (s.mcast.map (·.1)).foldl max 0 + 1

/-- MULTICAST_RUN (R233, Table 4, step 4). -/
def execMulticastRun (n : Ch) (e : Eng) (s : State) : Out :=
  let en := s.eng n e
  let waits (x : Option Start) : Bool := x.any fun st => st.kind == .send && !st.begun && s.live n st.tag
  if !(waits en.active || waits en.pending) then .next s
  else
    let act : SlotPos := if waits en.active then .active else .pending
    match en.at_ act with
    | none => .next s
    | some st =>
      let g := dMgroup st.d
      let r := dRegion st.d
      let ms := s.members g
      if ms.isEmpty ∨ kget s.arm (g * 16 + r) 0 ≠ ms.length then .next s
      else
        let no := s.mcastNo
        let s := { s with arm := kput s.arm (g * 16 + r) 0 0, mcast := kset s.mcast no ⟨g, r, (n, st.tag, st.id), ms, false⟩ }
        let s := ms.foldl (fun s m =>
          (s.set (ST_REGION m r) ST_REGION.STATE regFilling).setRegion m r { s.region m r with mc := some no }) s
        let (s, st) := sendOut (dCount st.d + 1) s { st with begun := true } no ms
        .next ((s.putEng n e (en.put act (some (s.advance n st)))).retireAll n)

/-- The bytes of the element at a position of a receiver's iteration, by physical address. -/
def Region.bytesAt (g : Region) (k : Nat) (v : Nat × Bool) : List (Nat × (Nat × Nat × Bool)) :=
  if dInBounds g.d k then
    (writeBytes g.d [k] [v]).map fun b => ((kget g.pages (b.1 / 0x10000) 0) * 0x10000 + b.1 % 0x10000, b.2)
  else []

/-- An element is written at its position (R233, Table 4, step 5): a PRODUCER's unit is given when its last element is (R231). -/
def State.receive (s : State) (n r : Nat) (v : Nat × Bool) : State :=
  let g := s.region n r
  let t := s.get (ST_REGION n r) ST_REGION.TAG
  let l := g.bytesAt g.got v
  let s := if l.isEmpty then s else (storeAll (l.length + 1) s l).tally n 0x604 (.tag t) l.length
  let u := dUnit g.d g.got
  let s := if g.units.contains u && (g.count ≤ g.got + 1 || dUnit g.d (g.got + 1) != u) then s.creditAdd n (creditGive g.d) 1 else s
  let s := s.setRegion n r { g with got := g.got + 1, inq := g.inq.drop 1 }
  let s := s.set (ST_REGION n r) ST_REGION.RECEIVED (min (g.got + 1) 0xFFFFFF)
  if s.armedBy n r t then s.progress n t else s

/-- SPARGE_ELEMENT_ARRIVE (R233, Table 4, steps 5, 6 and 11): the element is written through the pocket's write port (R237); one whose
unit needs a credit waits for it in turn (R231); one of a multicast that no longer fills the region is dropped. -/
def execSpargeElementArrive (n : Ch) (r : Fin 16) (s : State) : Out :=
  let g := s.region n r
  match g.inq with
  | [] => .next s
  | (no, v) :: rest =>
    if g.mc ≠ some no ∨ s.regState n r ≠ regFilling ∨ g.count ≤ g.got then
      .next ((s.setRegion n r { g with inq := rest }).bump (ST_SPARGE_DROP n) 1)
    else
      let k := creditTake g.d
      let u := dUnit g.d g.got
      let wants := dCredRole g.d != 0 && !g.units.contains u && (dCredRole g.d = 2 || dInBounds g.d g.got)
      if wants then
        let turn := g.turn.getD (s.ch n).turn
        if s.get (ST_CREDIT n k) ST_CREDIT.COUNT = 0 ∨ (s.creditWaiters n k).any (· < turn) then
          .next (((s.modCh n fun c => { c with turn := max c.turn (turn + 1) }).setRegion n r { g with turn := some turn }).showEngine n 3)
        else .next (((s.takeCredit n (some (u, k))).setRegion n r { g with units := g.units ++ [u], turn := none }).showEngine n 3)
      else
        let q := { taskReq n (s.get (ST_REGION n r) ST_REGION.TAG) 7 r with
          prio := if g.priv then some (s.get (ST_CTRL n) ST_CTRL.PRIV_PRIO) else none }
        .next (s.arbitrate q (if (g.bytesAt g.got v).isEmpty then [] else [(n * 4 + 2, 1)]) fun s => s.receive n r v)

/-- End the receiver start of a region. -/
def State.endReceiver (s : State) (n r : Nat) : State :=
  let en := s.eng n 3
  let mine (x : Option Start) : Bool := x.any fun st => st.begun && dRegion st.d = r
  let s := if mine en.active then s.putEng n 3 (en.remove .active)
    else if mine en.pending then s.putEng n 3 (en.remove .pending) else s
  ((((s.rearm n).showEngine n 0).showEngine n 1).settleAll n)

/-- Multicast number `no` is delivered to a member (R233, Table 4, steps 7 and 8): the region that it fills is COMPLETE with its uses, or,
short of its element count, ST_SPARGE_LEN. -/
def State.delivered (s : State) (n r no : Nat) : State :=
  if s.regState n r ≠ regFilling ∨ (s.region n r).mc ≠ some no then s
  else
    let x := s.region n r
    if x.got = x.count then
      let s := s.set (ST_REGION n r) ST_REGION.USES_LEFT (dUses x.d)
      (s.set (ST_REGION n r) ST_REGION.STATE regComplete).endReceiver n r
    else
      let t := s.get (ST_REGION n r) ST_REGION.TAG
      let desc := ((s.startOf n 3 t x.id).map (·.desc)).getD 0
      let s := if s.armedBy n r t then s.stFault n t stSpargeLen 3 desc x.d 0 x.id else s
      (s.set (ST_REGION n r) ST_REGION.STATE regFree).endReceiver n r

/-- Whether a multicast has delivered its last element: it is closed, and none of its elements is on its way. -/
def State.mcastOver (s : State) (m : Nat × Mcast) : Bool :=
  m.2.closed && m.2.members.all fun n => (s.region n m.2.region).inq.all fun v => v.1 != m.1

/-- SPARGE_DELIVERY_END (R233, Table 4, steps 7 and 8). -/
def execSpargeDeliveryEnd (g : Fin 256) (r : Fin 16) (s : State) : Out :=
  match s.mcast.find? fun m => m.2.group = g.val && m.2.region = r.val && s.mcastOver m with
  | none => .next s
  | some m => .next (m.2.members.foldl (fun s n => s.delivered n r m.1) { s with mcast := kdel s.mcast m.1 })

/-! ### The stall watchdog (R236) -/

/-- The wait of Table 5 that a start is on: credit, region or arm count, arbiter grant; 0 for another. -/
def State.startWait (s : State) (n e : Nat) (st : Start) : Nat :=
  match s.waitCode n e st with
  | 1 => 1
  | 2 => 2
  | 3 => 6
  | _ => 0

/-- A task's oldest start in program order that waits. -/
def State.oldestWaiting (s : State) (n t : Nat) : Option (Nat × Start) :=
  let l := (List.range 4).flatMap fun e =>
    ((s.eng n e).starts.filter fun st => st.tag = t && s.startWait n e st != 0).map fun st => (e, st)
  l.foldl (fun (b : Option (Nat × Start)) x =>
    match b with
    | none => some x
    | some y => if x.2.id < y.2.id then some x else b) none

/-- The wait a task is on (R236, Table 5), the engine, the start behind it: that of its oldest waiting start, else another of its. -/
def State.stallCause (s : State) (n t : Nat) : Nat × Nat × Option Start :=
  match s.oldestWaiting n t with
  | some x => (s.startWait n x.1 x.2, x.1, some x.2)
  | none =>
    if (s.ch n).arr.any (fun a => a.tag = t && a.starved.isSome) then (1, 0, none)
    else if (s.ch n).arr.any (fun a => a.tag = t && a.phase == .regionWait) then (2, 0, none)
    else
      match (s.task n t).wait with
      | .barrier _ _ _ => (3, 0, none)
      | _ =>
        if s.arbs.any fun a => a.2.reqs.any fun r => r.ch = some n && r.tag = t && !r.moved && !s.granted a.1 r.input then (6, 0, none)
        else if (s.ch n).arr.any (fun a => a.tag = t && a.phase == .inArray) then (4, 0, none)
        else if (s.ch n).updQ.any (fun u => u.tag = t || u.own = t) then (5, 0, none)
        else if (s.ch n).joins.any (fun j => j.tag = t) then (7, 0, none)
        else (0, 0, none)

/-- STALL_WATCHDOG_BITE (R236). -/
def execStallWatchdogBite (n : Ch) (t : Tag) (s : State) : Out :=
  let w := s.get (ST_CTRL n) ST_CTRL.WDOG_TIMEOUT
  if w = 0 ∨ !s.live n t ∨ (s.task n t).stall < microTicks w then .next s
  else
    let (cause, e, st) := s.stallCause n t
    let s := (s.bump (ST_WDOG_BITES n) 1).tally n 0x609 (.tag t) 1
    let code := if cause = 1 then stCreditDeadlock else stStall
    .next (s.stFault n t code e ((st.map (·.desc)).getD 0) ((st.map (·.d)).getD 0) cause (s.task n t).nextId)

end Sys2Proof.Machine
end

