-- ==== Sys2Proof/Machine/Seq.lean ====
section
/-! DEFINITION. The sequencer (R167 to R182): fetch, the choice of what issues, control and sync instructions, SARM and
SWAIT. -/

namespace Sys2Proof.Machine

/-! ### What may issue (R173, R174) -/

/-- The instruction next to issue: the first fetched one. -/
def Task.head (k : Task) : Option Fetched := k.fetched.head?

/-- Starts waiting in an engine's issue queue. -/
def State.queued (s : State) (n e : Nat) : Nat := (s.eng n e).queue.length

/-- Array instructions in the array's issue queue: those that the Lauter holds and those that run again have left it. -/
def State.arrQueued (s : State) (n : Nat) : Nat :=
  ((s.ch n).arr.filter fun a => a.phase == .queued && !a.reading && !a.again).length

/-- List instructions that wait in the Lauter's issue queue: the one it serves, and those whose entries are all handed on, have left
it. -/
def State.listsWaiting (s : State) (n : Nat) : Nat :=
  ((s.ch n).lists.filter fun l => !l.done && !((s.listHeld n).any fun x => x.tag = l.tag && x.id = l.id)
    && !((s.ch n).sumpDrain.any fun d => d.tag = l.tag && d.id = l.id)).length

/-- Whether the issue queue of an instruction's engine has room (R173: four deep, beside what the engine serves). A SUMP_OPEN waits for a SUMP_DRAIN of its
tag (log entry 16). -/
def State.room (s : State) (n t : Nat) (w : BitVec 128) : Bool :=
  match opcode w with
  | 0x20 => s.queued n (wf w 15 14) < 4
  | 0x30 => s.listsWaiting n < 4
  | 0x31 => s.listsWaiting n < 4
  | 0x61 => s.listsWaiting n < 4
  | 0x60 => !((s.ch n).lists.any fun l => l.tag = t && opcode l.word = 0x61)
  | 0x40 => s.arrQueued n < 4 && s.get (AY_STATUS n) AY_STATUS.CK_OPEN = 0
  | 0x50 => ((s.ch n).chains.filter fun c => !c.running).length < 4
  | 0x70 => (s.ch n).joins.length < 5
  | 0x71 => (s.ch n).joins.length < 5
  | _ => true

/-- The address that an instruction reads at its issue (R176, R177, R179, R110). -/
def State.issueVa (s : State) (n : Nat) (w : BitVec 128) : Option Nat :=
  match opcode w with
  | 0x05 => some (wf w 63 16)
  | 0x11 => some (s.get (CH_BAR_BASE n) CH_BAR_BASE.BASE * 64 + 64 * wf w 15 9)
  | 0x12 => some (wf w 63 16)
  | 0x60 => some (wf w 63 16)
  | _ => none

/-- Whether an instruction's read at issue waits for a response of another module (R204). -/
def State.issueWaits (s : State) (n t : Nat) (w : BitVec 128) : Bool :=
  (s.issueVa n w).any fun va => s.gl.txns.any fun x => x.for_ == TxnFor.instr n t va

/-- Whether an instruction of an ACTIVE task may issue as far as its own task and queue go (R173, R174). A BARRIER makes
its fetch-and-add, and so issues here, once every earlier instruction is complete (R176); prefetches issued ahead of it are later
ones (R14, R178). -/
def State.issuable (s : State) (n t : Nat) : Bool :=
  let k := s.task n t
  s.live n t && s.get (CH_CTRL n) CH_CTRL.HOLD = 0 && k.wait == .none && k.window.length < 16
    && match k.head with
      | none => false
      | some ⟨_, none⟩ => true
      | some ⟨_, some w⟩ => s.room n t w && !s.issueWaits n t w && (opcode w != 0x11 || (k.window.all fun i => k.nextId < i.id) || wf w 31 16 = 0)

/-- How recently a tag issued: 0 the least. -/
def State.recency (s : State) (n t : Nat) : Nat := (s.ch n).lastIssue.idxOf t

/-- Whether it is the tag's turn: priority, then least recent issue (R173). -/
def State.turnOf (s : State) (n t : Nat) : Bool :=
  s.issuable n t && (List.range 4).all fun u =>
    u = t || !s.issuable n u
      || s.get (CH_TASK n u) CH_TASK.PRIORITY < s.get (CH_TASK n t) CH_TASK.PRIORITY
      || (s.get (CH_TASK n u) CH_TASK.PRIORITY = s.get (CH_TASK n t) CH_TASK.PRIORITY && s.recency n t < s.recency n u)

/-! ### Issue -/

/-- Set the PC of a task. -/
def State.setPc (s : State) (n t pc : Nat) : State := s.set (CH_TASK_PC n t) CH_TASK_PC.PC pc

/-- Fetched instructions that were issued ahead are passed over (R178). -/
def passAhead (fuel : Nat) (s : State) (n t : Nat) : State :=
  match fuel with
  | 0 => s
  | fuel + 1 =>
    let k := s.task n t
    match k.fetched with
    | f :: r =>
      if k.doneAhead.contains f.pc then
        let s := s.setTask n t { k with fetched := r, doneAhead := k.doneAhead.erase f.pc, nextId := k.nextId + 1 }
        passAhead fuel (s.setPc n t (f.pc + 16)) n t
      else s
    | [] => s

/-- Count an issue: CH_ISSUED, LAST_TAG, the order of R173, progress. -/
def State.countIssue (s : State) (n t : Nat) : State :=
  let s := (s.bump (CH_ISSUED n) 1).tally n 0x002 (.tag t) 1
  let s := s.set (CH_STATUS n) CH_STATUS.LAST_TAG t
  let s := s.modCh n fun c => { c with lastIssue := c.lastIssue.filter (· != t) ++ [t], issues := c.issues + 1 }
  (s.progress n t).showWindow n t

/-- The head leaves the fetched instructions and the PC moves on; `stay` puts it into the window. -/
def State.take (s : State) (n t : Nat) (stay : Bool) : State :=
  let k := s.task n t
  match k.fetched with
  | f :: r =>
    let w := f.word.getD 0
    let s := s.setTask n t { k with
      fetched := r
      nextId := k.nextId + 1
      window := if stay then k.window ++ [⟨k.nextId, f.pc, w⟩] else k.window }
    passAhead 33 ((s.setPc n t (f.pc + 16)).countIssue n t) n t
  | [] => s

/-- The place in program order of the instruction next to issue. -/
def Task.headId (k : Task) : Nat := k.nextId

/-- A fault found at issue, before the instruction has any effect (R187): its PC is recorded. -/
def State.issueFault (s : State) (n t code : Nat) : State :=
  let k := s.task n t
  let id := k.headId
  let pc := (k.head.map (·.pc)).getD 0
  (s.taskFault n t code id).modTask n t fun k => if k.abortId = id then { k with abortPc := pc } else k

/-- CH_FETCH: the head's fetch failed; the register of its memory fault is written (R168, R216). -/
def State.fetchFault (s : State) (n t : Nat) : State :=
  (match (s.task n t).fetchErr with
    | some (c, va) => s.memFaultReg n t c va 0
    | none => s).issueFault n t chFetch

/-- Issue the head of tag `t` if it is the tag's turn and its opcode is `op`: a failed fetch is CH_FETCH, a reserved bit
CH_RESERVED_BITS; else the instruction's own effect. -/
def State.issue (s : State) (n t op : Nat) (act : BitVec 128 → Nat → Out) : Out :=
  if !s.turnOf n t then .next s
  else
    match (s.task n t).head with
    | none => .next s
    | some ⟨_, none⟩ => .next (s.fetchFault n t)
    | some ⟨pc, some w⟩ =>
      if opcode w ≠ op then .next s
      else if reservedSet w then .next (s.issueFault n t chReservedBits)
      else act w pc

/-- Continue at another address: what was fetched ahead is dropped. -/
def State.redirect (s : State) (n t pc target : Nat) : State :=
  if target = pc + 16 then s
  else
    (s.modTask n t fun k => { k with fetched := [], fetchPc := target % 2 ^ 48, doneAhead := [], nextId := k.nextId + 33 }).setPc
      n t (target % 2 ^ 48)

/-- Address of the instruction `i` instructions after the next one. -/
def jumpTo (pc : Nat) (i : Int) : Nat := (((pc : Int) + 16 + 16 * i) % (2 ^ 48 : Nat)).toNat

/-- INSTRUCTION_FETCH (R168): up to 32 instructions ahead; a failed fetch is remembered and faults only when it would
issue. A prefetch that issued ahead before a preemption is passed over (R178, R185). -/
def execInstructionFetch (n : Ch) (t : Tag) (s : State) : Out :=
  let k := s.task n t
  let failedHead (s : State) : State :=
    match (s.task n t).head with
    | some ⟨_, none⟩ => if s.issuable n t then s.fetchFault n t else s
    | _ => s
  if !s.live n t then .next s
  else if 32 ≤ k.fetched.length ∨ (k.fetched.getLast?.any fun f => f.word.isNone) then .next (failedHead s)
  else
    let pc := k.fetchPc
    let add (s : State) (w : Option (BitVec 128)) (e : Option (Nat × Nat)) : State :=
      s.modTask n t fun k => { k with fetched := k.fetched ++ [⟨pc, w⟩], fetchPc := (pc + 16) % 2 ^ 48, fetchErr := e }
    if pc % 16 ≠ 0 then .next (failedHead (add s none none))
    else
      match s.consume n t pc 16 with
      | (.ok d _ _, s) => .next (passAhead 33 (add s (some (BitVec.ofNat 128 (ofBytes d))) none) n t)
      | (.fault c va, s) => .next (failedHead (add s none (some (c, va))))
      | (.wait, s) => .next s

/-- The prefetch that may issue ahead (R178): the first fetched SARM with PRIV = 1 that no unissued MARK precedes, with its
address, word and place. -/
def Task.prefetch (k : Task) : Option (Nat × BitVec 128 × Nat) :=
  let free := k.fetched.takeWhile fun f => match f.word with
    | some w => !marked w || k.doneAhead.contains f.pc
    | none => false
  let hit := free.zipIdx.find? fun f => match f.1.word with
    | some w => opcode w = 0x20 && nbit w.toNat 16 && !reservedSet w && !k.doneAhead.contains f.1.pc
    | none => false
  hit.map fun f => (f.1.pc, f.1.word.getD 0, f.2)

/-- PRIVILEGED_PREFETCH_ISSUE (R178): a fetched SARM with PRIV = 1 that no unissued MARK precedes. -/
def execPrivilegedPrefetchIssue (n : Ch) (t : Tag) (s : State) : Out :=
  let k := s.task n t
  match k.prefetch with
  | none => .next s
  | some (pc, w, i) =>
    let e := wf w 15 14
    if !s.live n t ∨ s.get (CH_CTRL n) CH_CTRL.HOLD = 1 ∨ 16 ≤ k.window.length ∨ !s.room n t w then .next s
    else
      let id := k.nextId + i
      let s := s.setTask n t { k with window := k.window ++ [⟨id, pc, w⟩], doneAhead := k.doneAhead ++ [pc] }
      let kind := if e < 2 then StartKind.copyRead else if e = 2 then .fill else .receive
      let en := s.eng n e
      let s := s.setEng n e { en with queue := en.queue ++ [{ kind := kind, id := id, tag := t, desc := wf w 13 9, priv := true }] }
      .next (passAhead 33 (s.countIssue n t) n t)

/-! ### Control (R169 to R181) -/

/-- ILLEGAL_OPCODE_ISSUE (R169). -/
def execIllegalOpcodeIssue (n : Ch) (t : Tag) (s : State) : Out :=
  if !s.turnOf n t then .next s
  else
    match (s.task n t).head with
    | some ⟨_, none⟩ => .next (s.fetchFault n t)
    | some ⟨_, some w⟩ => if (assigned w).isNone then .next (s.issueFault n t chIllegalOpcode) else .next s
    | none => .next s

/-- NOP (R169). -/
def execNop (n : Ch) (t : Tag) (s : State) : Out := s.issue n t 0x00 fun _ _ => .next (s.take n t false)

/-- Whether a group is open on a slot (R98). -/
def State.slotOpen (s : State) (n i : Nat) : Bool :=
  s.get (SP_STATUS n) (if i = 0 then SP_STATUS.SLOT0_OPEN else SP_STATUS.SLOT1_OPEN) = 1

/-- END (R174): the task ends once every earlier instruction is complete; a group of the task left open is
CH_ILLEGAL_SLOT (R99). -/
def execEnd (n : Ch) (t : Tag) (s : State) : Out :=
  s.issue n t 0x01 fun _ _ =>
    let id := (s.task n t).headId
    if (List.range 2).any fun i => s.slotOpen n i && (s.slot n i).last.tag = t then .next (s.issueFault n t chIllegalSlot)
    else .next (((s.take n t true).modTask n t fun k => { k with wait := .ending id }).settle n t)

/-- JUMP (R172). -/
def execJump (n : Ch) (t : Tag) (s : State) : Out :=
  s.issue n t 0x02 fun w pc => .next ((s.take n t false).redirect n t pc (jumpTo pc (signed 32 (wf w 63 32))))

/-- The value of a bound register. -/
def State.bound (s : State) (n t b : Nat) : Nat := s.get (CH_BOUND n t b) CH_BOUND.VALUE

/-- BUCKET (R181). -/
def execBucket (n : Ch) (t : Tag) (s : State) : Out :=
  s.issue n t 0x03 fun w pc =>
    let i := min (cdiv (s.bound n t (wf w 11 9)) (2 ^ wf w 16 12)) (wf w 20 17)
    .next ((s.take n t false).redirect n t pc (jumpTo pc ((i * wf w 47 32 : Nat) : Int)))

/-- SETB (R179). -/
def execSetb (n : Ch) (t : Tag) (s : State) : Out :=
  s.issue n t 0x04 fun w _ => .next ((s.take n t false).set (CH_BOUND n t (wf w 11 9)) CH_BOUND.VALUE (wf w 63 32))

/-- LOADB (R179). -/
def execLoadb (n : Ch) (t : Tag) (s : State) : Out :=
  s.issue n t 0x05 fun w _ =>
    let a := wf w 63 16
    if a % 4 ≠ 0 then .next (s.issueFault n t chBadOperand)
    else
      match s.consume n t a 4 with
      | (.ok d _ _, s) => .next ((s.take n t false).set (CH_BOUND n t (wf w 11 9)) CH_BOUND.VALUE (ofBytes d))
      | (.fault c va, s) => .next ((s.memFaultReg n t c va 0).issueFault n t c)
      | (.wait, s) => .next s

/-- BIND (R180): a descriptor's bound or a vector reference's; DIM 5 to 7 is CH_BAD_OPERAND (log entry 15). -/
def execBind (n : Ch) (t : Tag) (s : State) : Out :=
  s.issue n t 0x06 fun w _ =>
    let x : Int := (s.bound n t (wf w 11 9) : Int) + signed 32 (wf w 63 32)
    let vref := nbit w.toNat 20
    let width := if vref then FS_VREF1.BOUND.w else 20
    if !vref ∧ 4 < wf w 19 17 then .next (s.issueFault n t chBadOperand)
    else if x < 0 ∨ ((2 ^ width : Nat) : Int) ≤ x then .next (s.issueFault n t chBound)
    else
      let s := s.take n t false
      if vref then .next (s.set (FS_VREF1 n t (wf w 14 12)) FS_VREF1.BOUND x.toNat)
      else
        .next (s.setDesc n t (wf w 16 12) (dWithBound (s.desc n t (wf w 16 12)) (wf w 19 17) x.toNat))

/-! ### Sync (R175 to R177) -/

/-- FENCE (R175). -/
def execFence (n : Ch) (t : Tag) (s : State) : Out :=
  s.issue n t 0x10 fun _ _ =>
    let id := (s.task n t).headId
    .next (((s.take n t true).modTask n t fun k => { k with wait := .fence id }).settle n t)

/-- A 64-bit fetch-and-add at a tun bank (R196): the old value, or the fault. -/
def State.fetchAdd (s : State) (pa hint x : Nat) : Except Nat Nat × State :=
  if !inG7 pa ∨ pa % 8 ≠ 0 then (.error tnAtomic, s)
  else
    match s.target pa 8 with
    | .error c => (.error c, s)
    | .ok _ =>
      let code := poisonCode pa (s.inTun (pa / 256))
      let s := s.touch pa 8 hint false
      let (d, p, s) := s.readPa pa 8
      let s := s.tallyX 0x904 (Config.tunBank (pa / 256) % 128) 1
      if p then (.error code, s)
      else (.ok (ofBytes d), (s.tunUse (pa / 256) hint true).writePa pa (toBytes 8 ((ofBytes d + x) % 2 ^ 64)) false)

/-- The fetch-and-add of a BARRIER at a device-virtual address; a remote page's goes as an ATOMIC frame (R204, R265). -/
def State.barrierAdd (s : State) (n t va : Nat) : Rd × State :=
  let k := s.task n t
  let s0 := s
  match s.translate n k.xlat va { r := true, w := true } with
  | (.error c, s) => if s0.chanHeld s 0 0 0 then (.wait, s0) else (.fault c va, s)
  | (.ok (pa, leaf), s) =>
    if leafRemote leaf then
      match kfind k.rbuf va with
      | some (d, p) => (if p then .fault (poisonCode pa false) va else .ok (padTo 8 d) false 0, s.modTask n t fun x => { x with rbuf := kdel x.rbuf va })
      | none =>
        if s.gl.txns.any (fun x => x.for_ == TxnFor.instr n t va) then (.wait, s)
        else
          match s.request (mkFrame 4 (leafModule leaf) 0 0 pa (toBytes 8 1)) (.instr n t va) with
          | (s, none) => (.wait, s)
          | (s, some st) => (.wait, (s.e2eFail (leafModule leaf) st 4 t n).abortFrom n t chAborted)
    else
      match s.fetchAdd pa (leafHint leaf) 1 with
      | (.error c, u) => if s0.chanHeld u pa 8 (leafHint leaf) then (.wait, s0) else (.fault c va, u)
      | (.ok v, u) => if s0.chanHeld u pa 8 (leafHint leaf) then (.wait, s0) else (.ok (toBytes 8 v) false 0, u)

/-- BARRIER (R176). -/
def execBarrier (n : Ch) (t : Tag) (s : State) : Out :=
  s.issue n t 0x11 fun w _ =>
    let c := wf w 31 16
    let va := s.get (CH_BAR_BASE n) CH_BAR_BASE.BASE * 64 + 64 * wf w 15 9
    if c = 0 then .next (s.issueFault n t chBarrier)
    else
      match s.barrierAdd n t va with
      | (.ok d _ _, s) =>
        let v := ofBytes d
        let target := (v / c + 1) * c
        let id := (s.task n t).headId
        let s := s.take n t true
        if target ≤ v + 1 then .next (s.complete n t id)
        else .next (s.modTask n t fun k => { k with wait := .barrier id va target })
      | (.fault c va, s) => .next ((s.memFaultReg n t c va 3).issueFault n t c)
      | (.wait, s) => .next s

/-- The waiting instruction passes. -/
def State.waitOver (s : State) (n t id : Nat) : State := (s.modTask n t fun k => { k with wait := .none }).complete n t id

/-- BARRIER_REREAD (R176). -/
def execBarrierReread (n : Ch) (t : Tag) (s : State) : Out :=
  match (s.task n t).wait with
  | .barrier id va target =>
    if !s.live n t then .next s
    else
      match s.consume n t va 8 with
      | (.ok d _ _, s) => if target ≤ ofBytes d then .next (s.waitOver n t id) else .next s
      | (.fault c va, s) => .next (s.memFault n t c va 0 id)
      | (.wait, s) => .next s
  | _ => .next s

/-- WAITW (R177). -/
def execWaitw (n : Ch) (t : Tag) (s : State) : Out :=
  s.issue n t 0x12 fun w _ =>
    let a := wf w 63 16
    let v := if nbit w.toNat 112 then s.bound n t (wf w 115 113) else wf w 111 80
    if a % 8 ≠ 0 then .next (s.issueFault n t chBadOperand)
    else
      match s.consume n t a 8 with
      | (.ok d _ _, s) =>
        let id := (s.task n t).headId
        let s := s.take n t true
        if v ≤ ofBytes d then .next (s.complete n t id)
        else .next (s.modTask n t fun k => { k with wait := .waitw id a v s.now (wf w 124 120) })
      | (.fault c va, s) => .next ((s.memFaultReg n t c va 0).issueFault n t c)
      | (.wait, s) => .next s

/-- WAITW_REREAD (R177). -/
def execWaitwReread (n : Ch) (t : Tag) (s : State) : Out :=
  match (s.task n t).wait with
  | .waitw id va v _ _ =>
    if !s.live n t then .next s
    else
      match s.consume n t va 8 with
      | (.ok d _ _, s) => if v ≤ ofBytes d then .next (s.waitOver n t id) else .next s
      | (.fault c va, s) => .next (s.memFault n t c va 0 id)
      | (.wait, s) => .next s
  | _ => .next s

/-- CH_WAIT_TIMEOUT (R177). -/
def execChWaitTimeout (n : Ch) (t : Tag) (s : State) : Out :=
  match (s.task n t).wait with
  | .waitw id _ _ since timeout =>
    if !s.live n t ∨ timeout = 0 ∨ s.now - since < microTicks timeout then .next s
    else .next (s.taskFault n t chWaitTimeout id)
  | _ => .next s

/-! ### Streams (R226, R227) -/

/-- SARM (R226, R228): the start goes to its engine's issue queue; the engine accepts it (START_ACCEPT). -/
def execSarm (n : Ch) (t : Tag) (s : State) : Out :=
  s.issue n t 0x20 fun w _ =>
    let e := wf w 15 14
    let id := (s.task n t).headId
    let s := s.take n t true
    let kind := if e < 2 then StartKind.copyRead else if e = 2 then .fill else .receive
    let en := s.eng n e
    .next (s.setEng n e { en with queue := en.queue ++ [{ kind := kind, id := id, tag := t, desc := wf w 13 9, priv := nbit w.toNat 16 }] })

/-- SWAIT (R227). -/
def execSwait (n : Ch) (t : Tag) (s : State) : Out :=
  s.issue n t 0x21 fun _ _ => .next ((s.take n t true).settle n t)

end Sys2Proof.Machine
end

