-- ==== Sys2Proof/Machine/Lauter.lean ====
section
/-! DEFINITION. What the Lauter does (R81 to R96): reading and checking metadata under R51 and R52, the compacted lists,
windows and index lists, the gravity mask (R157 to R160), and the elements that the read streams bring. -/

namespace Sys2Proof.Machine

/-- Why a read of metadata ends early. -/
inductive LErr where
  | bad (code unit pos check operand : Nat)
  | mem (code va : Nat)
  | gv
  | region                             -- a sparge region is not complete (R92)
  | wait                               -- a remote read is outstanding (R204)
  deriving DecidableEq, Repr

/-- What a reading of metadata goes on in: the state, the column group, the byte ranges read (read engine, tag, address, length), the
units read of the streams with a CRED_ROLE (stream 6·group + 3·operand + number, unit). -/
structure LMS where
  s : State
  g : Nat := 0
  bytes : List (Nat × Nat × Nat × Nat) := []
  units : List (Nat × Nat) := []

/-- Reading metadata: the state goes on, an error ends the reading. -/
abbrev LM := ExceptT LErr (StateM LMS)

def getS : LM State := do pure (← get).s

def setS (s : State) : LM Unit := modify fun m => { m with s := s }

/-- Read bytes for a tag through read engine `o`; poison faults its consumer (R81, R209). -/
def rdBytes (n t o va k : Nat) : LM (List Byte) := do
  let m ← get
  match m.s.consume n t va k with
  | (.ok d _ _, s) => do
    set { m with s := s.tally n 0x204 (.tag t) k, bytes := m.bytes ++ [(o, t, va, k)] }
    pure d
  | (.fault c va, s) => do
    setS s
    throw (.mem c va)
  | (.wait, s) => do
    setS s
    throw .wait

/-- Read elements of stream `j` of operand `o`, one run of contiguous bytes at a time. -/
def rdEls (n t o j : Nat) (d : BitVec 512) (els : List Nat) : LM (List Nat) := do
  let m ← (readRuns d els).foldlM (init := ([] : List (Nat × List Byte))) fun acc r => do
    let b ← rdBytes n t o r.1 r.2
    pure (acc ++ [(r.1, b)])
  if dCredRole d ≠ 0 then modify fun m => { m with units := m.units ++ els.map fun k => (6 * m.g + 3 * o + j, dUnit d k) }
  pure (els.map fun k =>
    let (va, len) := placeOf d k
    match m.find? fun g => g.1 ≤ va && va + len ≤ g.1 + g.2.length with
    | some g => dExtract d k (slice g.2 (va - g.1) len)
    | none => 0)

/-- The elements `[a, b)` of unit `u` of a row-structured stream (R394). -/
def unitEls (d : BitVec 512) (u a b : Nat) : List Nat := (List.range (b - a)).map fun i => a + i + dLevelExtent d 0 * u

/-- How many elements of a unit lie within the stream's bound, and how many units (R394). R394 names the bounds alone: an element
or unit at or beyond its EXTENT, which no iteration reaches, counts as beyond the bound too (log entry 93). -/
def unitBound (d : BitVec 512) : Nat := min (dLevelExtent d 0) (dBound d (dLevel d 0))

def unitCount (d : BitVec 512) : Nat := min (dLevelExtent d 1) (dBound d (dLevel d 1))

/-- Elements within the bound of a flat stream. -/
def flatBound (d : BitVec 512) : Nat := dBound d 0

/-- What a TOLERANT task counts, or the fault of a STRICT one (R52). -/
def metaErr (tol : Bool) (code unit pos check operand : Nat) : LM Unit :=
  if tol then pure () else throw (.bad code unit pos check operand)

/-- The set bits of a number among its low `w` bits, in increasing order. -/
def setBits (w x : Nat) : List Nat := (List.range w).filter fun i => nbit x i

/-- Tile-row record of unit `u` (R43, R44, R51): the kept tiles with the tiles stored for them, and the counts. The padding to the
next 8 bytes is not read (log entry 93). -/
def readRecord (n t : Nat) (tol : Bool) (m v : BitVec 512) (u tiles perTile o : Nat) : LM (List (Nat × Nat) × Tol) := do
  if unitCount m ≤ u then pure ([], {})
  else
    let words := cdiv tiles 32
    if unitBound m < 8 + 4 * words then throw (.bad ltStruct u 0 1 o)
    let b ← rdEls n t o 1 m (unitEls m u 0 (8 + 4 * words))
    let b := b.map fun x => BitVec.ofNat 8 x
    let first := num b 0 4
    let count := num b 4 2
    if flatBound v / perTile < first + count then throw (.bad ltStruct u 0 1 o)
    let on := setBits (32 * words) (num b 8 (4 * words))
    if count < on.length then metaErr tol ltOverfull u (on.getD count 0) 3 o
    let kept := on.take count
    let out := kept.filter fun x => tiles ≤ x
    if !out.isEmpty then metaErr tol ltRange u (out.headD 0) 4 o
    pure (kept.zipIdx.map fun x => (x.1, first + x.2), ⟨0, on.length - count, out.length⟩)

/-- N and M of an N:M format (R40). -/
def nmOf (f : Nat) : Nat × Nat :=
  match f with
  | 3 => (1, 2)
  | 4 => (2, 4)
  | 5 => (1, 4)
  | 6 => (2, 8)
  | _ => (4, 8)

/-- Group masks of row `u` (R46, R47, R51): the kept indices with their elements of the value stream. Of a row whose mask unit lies
within the mask stream's BOUND_1 but whose slot unit does not lie within the value stream's, the spec does not say whether the masks
are read: the row lies outside the tensor, and nothing is read or checked (DESIGN CHOICE, log entry 112). -/
def readMasks (n t : Nat) (tol : Bool) (f : Nat) (m v : BitVec 512) (u k : Nat) : LM (List (Nat × Nat) × Tol) := do
  if unitCount m ≤ u ∨ unitCount v ≤ u then pure ([], {})
  else
    let (sn, sm) := nmOf f
    let groups := cdiv k sm
    let need := cdiv (groups * sm) 8
    if unitBound m < need then throw (.bad ltStruct u 0 1 0)
    let b ← rdEls n t 0 1 m (unitEls m u 0 need)
    let x := ofBytes (b.map fun y => BitVec.ofNat 8 y)
    (List.range groups).foldlM (init := (([], {}) : List (Nat × Nat) × Tol)) fun acc g => do
      let on := setBits sm (x / 2 ^ (sm * g))
      let kept := on.take sn
      if !kept.isEmpty ∧ unitBound v < g * sn + kept.length then throw (.bad ltStruct u g 1 0)
      if sn < on.length then metaErr tol ltOverfull u g 3 0
      let out := kept.filter fun p => k ≤ g * sm + p
      if !out.isEmpty then metaErr tol ltRange u g 4 0
      pure (acc.1 ++ kept.zipIdx.map fun p => (g * sm + p.1, g * sn + p.2 + dLevelExtent v 0 * u),
        ⟨0, acc.2.overfull + (on.length - kept.length), acc.2.range + out.length⟩)

/-- The order check over a row's indices (R51, step 2): those that pass with their places, and the others' places. -/
def orderCheck (l : List (Nat × Nat)) : List (Nat × Nat) × List Nat :=
  let r := l.foldl (fun (a : List (Nat × Nat) × List Nat × Option Nat) x =>
    if a.2.2.any fun p => x.1 ≤ p then (a.1, a.2.1 ++ [x.2], a.2.2) else (a.1 ++ [x], a.2.1, some x.1)) ([], [], none)
  (r.1, r.2.1)

/-- Compressed row `u` (R48, R51): the kept indices with their elements of VALUES. -/
def readRow (n t : Nat) (tol : Bool) (v p x : BitVec 512) (u k limit o : Nat) : LM (List (Nat × Nat) × Tol) := do
  if flatBound p ≤ u + 1 then pure ([], {})
  else
    let ps ← rdEls n t o 1 (dFlat p) [u, u + 1]
    let a := ps.getD 0 0
    let b := ps.getD 1 0
    if b < a ∨ flatBound x < b ∨ flatBound v < b then throw (.bad ltStruct u 0 1 o)
    let idx ← rdEls n t o 2 (dFlat x) ((List.range (b - a)).map fun i => a + i)
    let (good, bad) := orderCheck idx.zipIdx
    if !bad.isEmpty then metaErr tol ltOrder u (bad.headD 0) 2 o
    let ovr := if limit ≠ 0 ∧ limit < good.length then good.length - limit else 0
    if ovr ≠ 0 then metaErr tol ltOverfull u ((good.getD limit (0, 0)).2) 3 o
    let kept := if limit = 0 then good else good.take limit
    let out := kept.filter fun e => k ≤ e.1
    if !out.isEmpty then metaErr tol ltRange u ((out.headD (0, 0)).2) 4 o
    pure (kept.map fun e => (e.1, a + e.2), ⟨bad.length, ovr, out.length⟩)

/-- ROW_PTR[R] beyond the bound of COL_IDX or VALUES (R51). -/
def checkRowPtr (n t : Nat) (v p x : BitVec 512) (o : Nat) : LM Unit := do
  if flatBound p = 0 then pure ()
  else
    let e ← rdEls n t o 1 (dFlat p) [flatBound p - 1]
    if flatBound x < e.headD 0 ∨ flatBound v < e.headD 0 then throw (.bad ltStruct (flatBound p - 1) 0 1 o)
    pure ()

/-- The scales of row `u` of a dense or N:M operand, one byte per block (R22, R394). -/
def readScaleRow (n t : Nat) (d : BitVec 512) (u blocks o : Nat) : LM (List (Nat × Nat)) := do
  if unitCount d ≤ u then pure []
  else
    if unitBound d < blocks then throw (.bad ltStruct u 0 1 o)
    let els := unitEls d u 0 blocks
    let b ← rdEls n t o 2 d els
    pure (els.zip b)

/-- The scales of one stored tile of a block operand (R44). -/
def readTileScales (n t : Nat) (d : BitVec 512) (i per u o : Nat) : LM (List (Nat × Nat)) := do
  if flatBound d < (i + 1) * per then throw (.bad ltStruct u 0 1 o)
  let els := (List.range per).map fun j => i * per + j
  let b ← rdEls n t o 2 (dFlat d) els
  pure (els.zip b)

/-- The scales of the stored tiles that an operand's lists use (R44, R45, R159): of the kept tiles of unit `u`, those that cover an
index of `idx`. -/
def readBlockScales (n t : Nat) (d : BitVec 512) (per span u o : Nat) (kept : List (Nat × Nat)) (idx : List Nat) :
    LM (List (Nat × Nat)) :=
  let tiles := (idx.map (· / span)).foldr (fun x (m : List (Nat × Unit)) => kset m x ()) []
  (kept.filter fun e => (kfind tiles e.1).isSome).foldlM (init := ([] : List (Nat × Nat))) fun l e => do
    let b ← readTileScales n t d e.2 per u o
    pure (l ++ b)

/-! ### The layer mask (R157 to R160) -/

/-- Rows of a group (R150). -/
def gvRows (g : GvCopy) : Nat := 16 * 2 ^ fget g.ctrl GV_CTRL.GROUP_ROWS

def gvPolicy (g : GvCopy) : Nat := fget g.ctrl GV_CTRL.POLICY

/-- The effective bit of group `b` (R158, R160): under OFF no mask byte is read. -/
def effBit (n : Nat) (a : ArrInstr) (b : Nat) : LM Bool := do
  let comp := aRcomp a.word
  if gvPolicy a.gv = 0 then pure (!comp)
  else
    let base := ((if aRmask a.word then a.gv.mask1 else a.gv.mask0).toNat) % 2 ^ 48
    let va := base + b / 8
    let s ← getS
    match s.translate n (s.task n a.tag).xlat va { r := true } with
    | (.error c, s) => do
      setS s
      throw (.mem c va)
    | (.ok (pa, leaf), s) => do
      setS s
      if leafRemote leaf then throw .gv
      match place pa with
      | .pocket m _ =>
        if m ≠ n then throw .gv
        if s.regionBusy n [(pa, 1)] then throw .region
        let d ← rdBytes n a.tag (if aRsel a.word = 2 then 1 else 0) va 1
        let keep := nbit ((d.headD 0).toNat) (b % 8)
        pure (if comp then !keep && a.miss.getD false && gvPolicy a.gv = 2 else keep)
      | _ => throw .gv

/-- Effective bits of a list of numbers, each mapped to its group, read once a group. -/
def effBits (n : Nat) (a : ArrInstr) (group : Nat → Nat) (l : List Nat) : LM (List (Nat × Bool)) :=
  l.foldlM (init := ([] : List (Nat × Bool))) fun acc x => do
    let b := group x
    match acc.find? fun y => group y.1 = b with
    | some y => pure (acc ++ [(x, y.2)])
    | none => do
      let v ← effBit n a b
      pure (acc ++ [(x, v)])

/-! ### Reading a tile's metadata (R82) -/

/-- The base alignments of both operands, checked when the instruction starts (R43, R44, R47, R51). -/
def checkBases (w : BitVec 128) (t : Tile) : LM Unit := do
  let off (d : BitVec 512) (k : Nat) : Bool := decide (dBase d % k ≠ 0)
  let bad (f : Nat) (ds : List (BitVec 512)) : Bool :=
    if f = 1 || f = 2 then off (ds.getD 1 0) 8 || off (ds.getD 0 0) 64
    else isNM f && (off (ds.getD 1 0) 4 || off (ds.getD 0 0) 4)
  if bad (aSpfA w) t.dA then throw (.bad ltStruct 0 0 1 0)
  if bad (aSpfB w) t.dB then throw (.bad ltStruct 0 0 1 1)

/-- The metadata of operand A of a tile, quarter by quarter or column by column; a quarter whose effective bit is 0 has
its record read and no value (R159). The scales of a block operand are read with its lists. -/
def readA (n : Nat) (a : ArrInstr) (tol : Bool) (t : Tile) : LM (Tile × List Bool) := do
  let w := a.word
  let f := aSpfA w
  let sc := aScaleA w
  let cols := groupCols (aPack w)
  let v := t.dA.getD 0 0
  let m := t.dA.getD 1 0
  let x := t.dA.getD 2 0
  let blocks := if sc = 0 then 0 else cdiv t.k (scaleBlock sc)
  if f = 8 then checkRowPtr n t.tag v m x 0
  let quarters := List.range (cols / 16)
  let on ← quarters.foldlM (init := (t, ([] : List Bool))) fun acc q => do
    let (t, on) := acc
    let u := t.baseTr + q
    let t ←
      if f = 1 then do
        let (kept, c) ← readRecord n t.tag tol m v u (cdiv t.k 64) 1024 0
        pure { t with aMap := t.aMap ++ [(q, kept)], tol := ⟨t.tol.order, t.tol.overfull + c.overfull, t.tol.range + c.range⟩ }
      else pure t
    let bitQ ← if aRsel w = 1 then effBit n a (16 * u / gvRows a.gv) else pure true
    pure (t, on ++ [bitQ])
  let t := on.1
  let t ←
    if f = 1 then pure t
    else
      (List.range cols).foldlM (init := t) fun t c => do
        let u := 16 * t.baseTr + c
        let (kept, cnt) ←
          if isNM f then readMasks n t.tag tol f m v u t.k
          else if f = 8 then readRow n t.tag tol v m x u t.k t.rowLimit 0
          else pure (([], {}) : List (Nat × Nat) × Tol)
        let sl ← if sc ≠ 0 ∧ f ≠ 8 then readScaleRow n t.tag x u blocks 0 else pure []
        pure { t with
          aMap := if f = 0 then t.aMap else t.aMap ++ [(c, kept)]
          aScale := t.aScale ++ sl
          tol := ⟨t.tol.order + cnt.order, t.tol.overfull + cnt.overfull, t.tol.range + cnt.range⟩ }
  pure (t, on.2)

/-- The metadata of operand B of a tile. Every position of a row-group instruction lies in the activation tile row of record 0, which
holds 16 positions (log entry 93). -/
def readB (n : Nat) (a : ArrInstr) (tol : Bool) (t : Tile) : LM Tile := do
  let w := a.word
  let f := aSpfB w
  let sc := aScaleB w
  let v := t.dB.getD 0 0
  let m := t.dB.getD 1 0
  let x := t.dB.getD 2 0
  let pos := List.range (rowGroups w)
  if f = 2 then
    let (kept, c) ← readRecord n t.tag tol m v 0 (cdiv t.k 16) 256 1
    pure { t with bMap := [(0, kept)],
                  tol := ⟨t.tol.order, t.tol.overfull + c.overfull, t.tol.range + c.range⟩ }
  else if f = 8 then
    checkRowPtr n t.tag v m x 1
    pos.foldlM (init := t) fun t p => do
      let (kept, c) ← readRow n t.tag tol v m x p t.k t.rowLimit 1
      pure { t with
        bMap := t.bMap ++ [(p, kept)]
        tol := ⟨t.tol.order + c.order, t.tol.overfull + c.overfull, t.tol.range + c.range⟩ }
  else
    let blocks := if sc = 0 then 0 else cdiv t.k (scaleBlock sc)
    if sc = 0 then pure t
    else pos.foldlM (init := t) fun t p => do
      let sl ← readScaleRow n t.tag x p blocks 1
      pure { t with bScale := t.bScale ++ sl }

/-! ### Lists (R63 to R65, R84 to R90) -/

/-- The indices of a 16-index span. -/
def spanIdx (s : Nat) : List Nat := (List.range 16).map fun i => 16 * s + i

/-- Cut a list into row segments (R85): S = m′ × ⌈|L| × P ÷ (16 m′)⌉; positions beyond it carry dealer fill. -/
def dealLane (m p : Nat) (l : List Nat) : Lane := ⟨m * cdiv (l.length * p) (16 * m), l.map some⟩

/-- The spans of the reduction dimension that the activations and the reduction role leave (R84, R159), `none` where
neither cuts the list; and how many spans that lie below K the reduction role masks: they count as absent activation tiles. -/
def spansLeft (n : Nat) (a : ArrInstr) (t : Tile) (wanted : List Nat) : LM (Option (List Nat) × Nat) := do
  let w := a.word
  if aSpfB w ≠ 2 ∧ aRsel w ≠ 2 then pure (none, 0)
  else
    let all := List.range (cdiv t.k 16)
    let l := if aSpfB w = 2 then (kget t.bMap 0 []).map (·.1) else all ++ wanted.filter fun x => cdiv t.k 16 ≤ x
    if aRsel w = 2 then do
      let e ← effBits n a (fun s => 16 * s / gvRows a.gv) l
      pure (some ((e.filter (·.2)).map (·.1)), (e.filter fun x => !x.2 && decide (x.1 < cdiv t.k 16)).length)
    else pure (some l, 0)

/-- The lists of a deep, row-group or gravity instruction fed by quarters (R63, R84, R85), and the spans masked. -/
def compactLanes (n : Nat) (a : ArrInstr) (t : Tile) (on : List Bool) : LM (List Lane × Nat) := do
  let w := a.word
  let m := stepPairs w
  let p := rowGroups w
  let quarters := List.range (groupCols (aPack w) / 16)
  let all := if aSpfA w = 1 then
      (quarters.flatMap fun q => (kget t.aMap q []).flatMap fun e => (List.range 4).map fun i => 4 * e.1 + i)
    else List.range (cdiv t.k 16)
  let (spans, masked) ← spansLeft n a t (all.foldr (fun x l => if l.contains x then l else x :: l) [])
  let lanes := quarters.map fun q =>
    if !(on.getD q true) then ⟨0, []⟩
    else if aSpfA w = 1 then
      dealLane m p ((kget t.aMap q []).flatMap fun e =>
        (List.range 4).flatMap fun i =>
          let s := 4 * e.1 + i
          match spans with
          | some l => if l.contains s then spanIdx s else []
          | none => spanIdx s)
    else
      match spans with
      | some l => dealLane m p (l.flatMap spanIdx)
      | none =>
        let seg := m * cdiv (t.k * p) (16 * m)
        (⟨seg, (List.range (seg * (16 / p))).map some⟩ : Lane)
  pure (lanes, masked)

/-- The windows of an N:M operand (R86): per column, the kept indices of each window padded to its capacity. -/
def windowLanes (a : ArrInstr) (t : Tile) : List Lane :=
  let w := a.word
  let m := stepPairs w
  let (_, sm) := nmOf (aSpfA w)
  let win := max sm (2 * m)
  let cap := win / 2
  let p := rowGroups w
  let v := cdiv (cdiv t.k win * p) 16
  (List.range (groupCols (aPack w))).map fun c =>
    let kept := (kget t.aMap c []).map (·.1)
    ⟨v * cap, (List.range (v * (16 / p))).flatMap fun i =>
      let l := (kept.filter fun k => i * win ≤ k && k < (i + 1) * win).map some
      l ++ List.replicate (cap - l.length) none⟩

/-- The index lists of compressed rows (R87, R88). -/
def indexLanes (a : ArrInstr) (t : Tile) : List Lane :=
  let w := a.word
  let p := rowGroups w
  let lists := (List.range (groupCols (aPack w))).flatMap fun c =>
    let ks := (kget t.aMap c []).map (·.1)
    if aSpfB w = 8 then (List.range 16).map fun g => ks.filter fun k => (kfind (kget t.bMap g []) k).isSome
    else [ks]
  let nmax := (lists.map List.length).foldl max 0
  lists.map fun l => ⟨cdiv (nmax * p) 16, l.map some⟩

/-- Indices at or beyond `hi` that TOLERANT keeps of range entries, each once (R52): wide mode's list goes on with them. -/
def keptBeyond (hi : Nat) (l : List Nat) : List Nat :=
  ((l.filter (hi ≤ ·)).foldr (fun x (m : List (Nat × Unit)) => kset m x ()) []).map (·.1)

/-- The one list of a wide instruction, and the spans it skips (R90). -/
def wideList (a : ArrInstr) (t : Tile) : List Nat × Nat :=
  let w := a.word
  let m := stepPairs w
  let present (x : Nat) : Bool := (List.range 4).any fun q => (kfind (kget t.aMap q []) x).isSome
  let last := ((List.range 4).flatMap fun q => (kget t.aMap q []).map (·.1 + 1)).foldl max (cdiv t.k 64)
  let bKept := (kget t.bMap 0 []).map (·.1)
  let lastB := (bKept.map (· + 1)).foldl max (cdiv t.k 16)
  if aSpfA w = 1 ∧ aSpfB w = 2 then
    let l := (List.range (max (4 * last) lastB)).filter fun s => present (s / 4) && bKept.contains s
    (l.flatMap spanIdx, cdiv t.k 16 - (l.filter (· < cdiv t.k 16)).length)
  else if aSpfA w = 1 then
    let l := (List.range last).filter present
    (l.flatMap fun x => (List.range 64).map fun i => 64 * x + i, cdiv t.k 64 - (l.filter (· < cdiv t.k 64)).length)
  else if aSpfB w = 2 then (bKept.flatMap spanIdx, cdiv t.k 16 - (bKept.filter (· < cdiv t.k 16)).length)
  else
    let hi := m * cdiv t.k m
    (List.range hi ++ keptBeyond hi ((t.aMap ++ t.bMap).flatMap fun e => e.2.map (·.1)), 0)

/-- Absent tiles of the records a tile read (R84). -/
def absentTiles (w : BitVec 128) (t : Tile) : Nat :=
  let a := if aSpfA w = 1 then
      (t.aMap.map fun q => cdiv t.k 64 - (q.2.filter fun e => e.1 < cdiv t.k 64).length).foldl (· + ·) 0 else 0
  let b := if aSpfB w = 2 then
      (t.bMap.map fun q => cdiv t.k 16 - (q.2.filter fun e => e.1 < cdiv t.k 16).length).foldl (· + ·) 0 else 0
  a + b

/-- The start of a tile's reading: its base alignments (R51, step 1). -/
def readStart (a : ArrInstr) (t : Tile) : LM Tile := do
  checkBases a.word t
  pure { t with aMap := [], bMap := [], aScale := [], bScale := [], feedA := [], feedB := [], lanes := [], tol := {} }

/-- A tile's operand A (R51, R82): also the effective bits of its quarters. -/
def readFirst (n : Nat) (a : ArrInstr) (t : Tile) : LM (Tile × List Bool) := do
  let s ← getS
  readA n a (s.tolerant n t.tag) t

/-- A tile's operand B. -/
def readSecond (n : Nat) (a : ArrInstr) (t : Tile) : LM Tile := do
  let s ← getS
  readB n a (s.tolerant n t.tag) t

/-- Form a tile's lists; also the spans and tiles skipped. -/
def formLists (n : Nat) (a : ArrInstr) (t : Tile) (on : List Bool) : LM (Tile × Nat) := do
  let w := a.word
  let m := stepPairs w
  if aMode w = 0 then
    let (l, skipped) := wideList a t
    pure ({ t with lanes := List.replicate 4 ⟨l.length, l.map some⟩, laneKind := 0, per := m, steps := cdiv l.length m }, skipped)
  else if isNM (aSpfA w) then
    let l := windowLanes a t
    pure ({ t with lanes := l, laneKind := 1, per := m, steps := (l.map fun x => cdiv x.seg m).foldl max 0 }, absentTiles w t)
  else if aSpfA w = 8 then
    let l := indexLanes a t
    pure ({ t with lanes := l, laneKind := if aSpfB w = 8 then 2 else 1, per := 1, steps := (l.map (·.seg)).foldl max 0 }, 0)
  else
    let (l, masked) ← compactLanes n a t on
    pure ({ t with lanes := l, laneKind := 0, per := m, steps := (l.map fun x => cdiv x.seg m).foldl max 0 }, absentTiles w t + masked)

/-- The scales of block operands: of the stored tiles that the lists use (R44, R45, R159). -/
def readListScales (n : Nat) (a : ArrInstr) (t : Tile) : LM Tile := do
  let w := a.word
  let lane (q : Nat) : List Nat := ((t.lanes.getD q {}).idx).filterMap id
  let sa ←
    if aSpfA w = 1 ∧ aScaleA w ≠ 0 then
      t.aMap.foldlM (init := ([] : List (Nat × Nat))) fun l e => do
        let b ← readBlockScales n t.tag (t.dA.getD 2 0) (16 * (64 / scaleBlock (aScaleA w))) 64 (t.baseTr + e.1) 0 e.2 (lane e.1)
        pure (l ++ b)
    else pure t.aScale
  let sb ←
    if aSpfB w = 2 ∧ aScaleB w ≠ 0 then
      readBlockScales n t.tag (t.dB.getD 2 0) 16 16 0 1 (kget t.bMap 0 []) (((List.range t.lanes.length).map lane).flatten)
    else pure t.bScale
  pure { t with aScale := sa, bScale := sb }

/-! ### Elements -/

/-- Whether the row that serves column `c` of operand A lies outside the tensor (R394). -/
def Tile.outA (t : Tile) (w : BitVec 128) (c : Nat) : Bool :=
  let m := t.dA.getD 1 0
  let u := 16 * t.baseTr + c
  if aSpfA w = 1 then unitCount m ≤ t.baseTr + c / 16
  else if isNM (aSpfA w) then unitCount m ≤ u || unitCount (t.dA.getD 0 0) ≤ u
  else aSpfA w = 8 && flatBound m ≤ u + 1

/-- Whether the row of operand B that serves position `p` lies outside the tensor. -/
def Tile.outB (t : Tile) (w : BitVec 128) (p : Nat) : Bool :=
  let m := t.dB.getD 1 0
  if aSpfB w = 2 then unitCount m = 0 else aSpfB w = 8 && flatBound m ≤ p + 1

/-- The lane of a cell: column `c` within the group, position `p`. -/
def Tile.lane (t : Tile) (c p : Nat) : Lane :=
  match t.laneKind with
  | 0 => t.lanes.getD (c / 16) {}
  | 1 => t.lanes.getD c {}
  | _ => t.lanes.getD (c * 16 + p) {}

/-- A dense operand's element (R394, R68): the fill value beyond K, the iteration or the bounds. -/
def denseSrc (d : BitVec 512) (kmax row k : Nat) : Src :=
  let e0 := dLevelExtent d 0
  let rows := dLevelExtent d 1 * dLevelExtent d 2 * dLevelExtent d 3 * dLevelExtent d 4
  if k < kmax ∧ k < e0 ∧ row < rows ∧ dInBounds d (k + e0 * row) then .el (k + e0 * row) else .fill

/-- Where column `c`'s element `k` of operand A comes from. -/
def Tile.srcA (t : Tile) (w : BitVec 128) (c k : Nat) : Src :=
  match aSpfA w with
  | 0 => denseSrc (t.dA.getD 0 0) t.k (16 * t.baseTr + c) k
  | 1 =>
    match kfind (kget t.aMap (c / 16) []) (k / 64) with
    | none => .zero
    | some i => if t.k ≤ k then .fill else .el (i * 1024 + c % 16 * 64 + k % 64)
  | _ =>
    match kfind (kget t.aMap c []) k with
    | none => .zero
    | some e => if t.k ≤ k then .fill else .el e

/-- Where position `p`'s element `k` of operand B comes from. -/
def Tile.srcB (t : Tile) (w : BitVec 128) (p k : Nat) : Src :=
  match aSpfB w with
  | 2 =>
    match kfind (kget t.bMap 0 []) (k / 16) with
    | none => .zero
    | some i => if t.k ≤ k then .fill else .el (i * 256 + p % 16 * 16 + k % 16)
  | 8 =>
    match kfind (kget t.bMap p []) k with
    | none => .zero
    | some e => if t.k ≤ k then .fill else .el e
  | _ => denseSrc (t.dB.getD 0 0) t.k p k

/-- The block of a row that covers index `k`; `none` beyond the row's last block, ⌈K ÷ block⌉ − 1 (R22). -/
def Tile.blockOf (t : Tile) (sc k : Nat) : Option Nat :=
  if k / scaleBlock sc < cdiv t.k (scaleBlock sc) then some (k / scaleBlock sc) else none

/-- The stored scale of an element of operand A: the FILL byte of the scale stream outside the tensor and beyond its row's last block
(R22, log entry 21). -/
def Tile.scaleA (t : Tile) (w : BitVec 128) (c k : Nat) : Num :=
  let sc := aScaleA w
  if sc = 0 then .fin false 1 0
  else
    let x := t.dA.getD 2 0
    let i := if aSpfA w = 1 then
        (kfind (kget t.aMap (c / 16) []) (k / 64)).map fun i => (i * 16 + c % 16) * (64 / scaleBlock sc) + k % 64 / scaleBlock sc
      else (t.blockOf sc k).map fun b => b + dLevelExtent x 0 * (16 * t.baseTr + c)
    scaleValue sc ((i.bind fun j => kfind t.aScale j).getD (dFill x % 256))

/-- The stored scale of an element of operand B. -/
def Tile.scaleB (t : Tile) (w : BitVec 128) (p k : Nat) : Num :=
  let sc := aScaleB w
  if sc = 0 then .fin false 1 0
  else
    let x := t.dB.getD 2 0
    let i := if aSpfB w = 2 then (kfind (kget t.bMap 0 []) (k / 16)).map fun i => i * 16 + p % 16
      else (t.blockOf sc k).map fun b => b + dLevelExtent x 0 * p
    scaleValue sc ((i.bind fun j => kfind t.bScale j).getD (dFill x % 256))

/-- The value of operand A at column `c` and index `k`; `none` while it is not at the feed port. -/
def Tile.valA (t : Tile) (w : BitVec 128) (c k : Nat) : Option Num :=
  match t.srcA w c k with
  | .zero => some .zero
  | .fill => some ((decodeElem (aFmtA w) (dFillBits (t.dA.getD 0 0))).mul (t.scaleA w c k))
  | .el e => (kfind t.feedA e).map fun x => (decodeElem (aFmtA w) x).mul (t.scaleA w c k)

/-- The value of operand B at position `p` and index `k`. -/
def Tile.valB (t : Tile) (w : BitVec 128) (p k : Nat) : Option Num :=
  match t.srcB w p k with
  | .zero => some .zero
  | .fill => some ((decodeElem (aFmtB w) (dFillBits (t.dB.getD 0 0))).mul (t.scaleB w p k))
  | .el e => (kfind t.feedB e).map fun x => (decodeElem (aFmtB w) x).mul (t.scaleB w p k)

/-- The elements a list of sources needs, in increasing order, each once. -/
def elsOf (l : List Src) : List Nat :=
  (l.foldr (fun x (m : List (Nat × Unit)) => match x with
    | .el e => kset m e ()
    | _ => m) []).map (·.1)

/-- The elements of operand A that a tile's lists need (R82: read in iteration order). -/
def Tile.needA (t : Tile) (w : BitVec 128) : List Nat :=
  elsOf ((List.range (groupCols (aPack w))).flatMap fun c =>
    (if t.laneKind = 2 then (List.range (rowGroups w)).flatMap fun p => (t.lane c p).idx else (t.lane c 0).idx).filterMap
      fun k => k.map fun k => t.srcA w c k)

/-- The elements of operand B: an N:M feed brings every element of its windows (R86). -/
def Tile.needB (t : Tile) (w : BitVec 128) : List Nat :=
  elsOf ((List.range (rowGroups w)).flatMap fun p =>
    let ks : List Nat :=
      if isNM (aSpfA w) && aMode w != 0 then List.range t.k
      else if t.laneKind = 0 then (t.lanes.flatMap (·.idx)).filterMap id
      else (List.range (groupCols (aPack w))).flatMap fun c => (t.lane c p).idx.filterMap id
    ks.map fun k => t.srcB w p k)

/-! ### LAUTER_READ -/

/-- The footprints of a tile's operands that a sparge region could hold (R92). -/
def State.operandBusy (s : State) (n : Nat) (a : ArrInstr) : Bool :=
  a.tiles.any fun t =>
    !t.gone && (streamsUsed (aSpfA a.word) (aScaleA a.word) t.dA ++ streamsUsed (aSpfB a.word) (aScaleB a.word) t.dB).any fun d =>
      match (s.footprint n (s.task n t.tag).xlat (footRuns d false) { r := true }).1 with
      | .ok (f, _) => s.regionBusy n f
      | .error _ => false

/-- What remote reads brought stays with its task when the reading has to wait for more. -/
def State.keepReads (s s0 : State) (n : Nat) : State :=
  (List.range 4).foldl (fun s t =>
    let old := (s0.task n t).rbuf
    s.modTask n t fun k => { k with rbuf := k.rbuf ++ old.filter fun x => !(k.rbuf.any fun y => y.1 = x.1) }) s

/-- Record a Lauter fault (R95, R96) and abort the task. -/
def State.ltFault (s : State) (n t code unit pos check operand id : Nat) : State :=
  let s := s.recFault (LT_FAULT n) LT_FAULT.CODE LT_FAULT.LOST code [(LT_FAULT.TAG, t), (LT_FAULT.OPERAND, operand)]
  let s := s.set (LT_FAULT_LOC n) LT_FAULT_LOC.UNIT unit
  let s := s.set (LT_FAULT_LOC n) LT_FAULT_LOC.POSITION pos
  (s.set (LT_FAULT_LOC n) LT_FAULT_LOC.CHECK check).taskFault n t code id

/-- A gravity fault (R165, R166). -/
def State.gvFault (s : State) (n t code id : Nat) : State :=
  (s.recFault (GV_FAULT n) GV_FAULT.CODE GV_FAULT.LOST code [(GV_FAULT.TAG, t)]).taskFault n t code id

/-- What an error of the reading does to the task of the tag it is found for. -/
def State.lErr (s : State) (n t id : Nat) (e : LErr) : State :=
  match e with
  | .bad c u p k o => s.ltFault n t c u p k o id
  | .mem c va => s.memFault n t c va 0 id
  | .gv => s.gvFault n t gvRegion id
  | .region => s
  | .wait => s

/-- A value stream's descriptor as its elements are numbered: flat in the formats whose values follow one another. -/
def flatOf (spf : Nat) (d : BitVec 512) : BitVec 512 := if flatFormat spf then dFlat d else d

/-- Show the Lauter, and the read engines whose start groups wait for it. -/
def State.showReading (s : State) (n : Nat) : State := ((s.showLauter n).showEngine n 0).showEngine n 1

/-- Set what a group's start has to read. -/
def State.setTodo (s : State) (n e : Nat) (a : ArrInstr) (l : List Nat) : State :=
  s.putEng n e ((s.eng n e).mapStarts fun st =>
    if st.tag = a.tag && st.id = a.id && st.kind.isGroup then { st with todo := l, next := 0 } else st)

/-- The descriptor whose credit a unit of its metadata takes. -/
def ArrInstr.credit (a : ArrInstr) (u : Nat × Nat) : BitVec 512 :=
  let t := a.tiles.getD (u.1 / 6) {}
  (if u.1 / 3 % 2 = 0 then t.dA else t.dB).getD (u.1 % 3) 0

/-- Whether an instruction issued before `seq` still waits for the Lauter or occupies it (R81, R114). -/
def State.lauterBefore (s : State) (n seq : Nat) : Bool :=
  ((s.ch n).arr.any fun a => a.seq < seq && (a.phase == .queued || a.phase == .regionWait))
  || (s.ch n).lists.any fun x => x.seq < seq

/-- The array instruction whose turn with the Lauter it is (R81, R82): the first in issue order that is not read, none
read ahead of the array; its starts hold their slots and every GV_JOIN it waits for is complete (R160). -/
def State.lauterNext (s : State) (n : Nat) (phase : ArrPhase) : Option ArrInstr :=
  let l := (s.ch n).arr
  match l.find? fun a => a.phase == .queued || a.phase == .regionWait with
  | none => none
  | some a =>
    if a.phase == phase && s.live n a.tag
        && (if a.again then !((l.any fun b => b.phase == .read) && (l.any fun b => b.phase == .inArray))
          else !s.lauterBefore n a.seq && !(l.any fun b => b.phase == .read))
        && s.ready n 0 a.tag a.id && s.ready n 1 a.tag a.id
        && (a.reading || s.get (LT_CTRL n) LT_CTRL.LOOKAHEAD = 1 || !(l.any fun b => b.phase == .inArray))
        && !(aRcomp a.word && (s.ch n).joins.any fun j => opcode j.word = 0x71 && j.tag = a.tag && j.id < a.id) then some a else none

/-- A reading in progress: the tiles with their quarters' effective bits and what they skip, why the reading has to be made again,
what it goes on in. -/
structure Reading where
  tiles : List (Tile × List Bool × Nat)
  hold : Option LErr := none
  m : LMS

/-- One pass of an instruction's reading over its tiles; a tile whose task faults is discarded (R77, R95). The reading has to be
made again where a remote read or a region is outstanding. -/
def Reading.pass (r : Reading) (n : Nat) (a : ArrInstr) (f : Tile → List Bool → Nat → LM (Tile × List Bool × Nat)) : Reading :=
  r.tiles.foldl (fun (r : Reading) x =>
    let (t, on, k) := x
    let add (y : Tile × List Bool × Nat) (hold : Option LErr) (m : LMS) : Reading := ⟨r.tiles ++ [y], hold, m⟩
    let off := t.gone || !r.m.s.live n t.tag
    if r.hold.isSome ∨ off ∨ !t.run then add ({ t with gone := off }, on, k) r.hold r.m
    else
      match (f t on k).run { r.m with g := r.tiles.length } with
      | (.ok y, m) => add y r.hold m
      | (.error .wait, m) => add x (some .wait) m
      | (.error .region, m) => add x (some .region) m
      | (.error e, m) => add ({ t with gone := true }, on, k) r.hold
          { m with s := m.s.tileFault n a.tag t.tag a.id fun s id => s.lErr n t.tag id e })
    { r with tiles := [] }

/-- Read every tile's metadata (R82): the base alignments of all of them as the instruction starts (R51), operand A of all of them, operand B of all of them, then the lists and the scales of the stored
tiles they use. -/
def State.readTiles (s : State) (n : Nat) (a : ArrInstr) : Reading :=
  let r : Reading := { tiles := a.tiles.map fun t => (t, [], 0), m := { s := s } }
  let r := r.pass n a fun t on k => do
    let t ← readStart a t
    pure (t, on, k)
  let r := r.pass n a fun t _ k => do
    let (t, on) ← readFirst n a t
    pure (t, on, k)
  let r := r.pass n a fun t on k => do
    let t ← readSecond n a t
    pure (t, on, k)
  r.pass n a fun t on _ => do
    let (t, k) ← formLists n a t on
    let t ← readListScales n a t
    pure (t, on, k)

/-- Wait on a sparge region (R92): counted once an instruction. -/
def State.waitRegion (s : State) (n : Nat) (a : ArrInstr) : State :=
  let s := if a.waited then s else s.bump (LT_SPARGE_WAIT n) 1
  (s.modArr n a.tag a.id fun x => { x with phase := .regionWait, waited := true }).showReading n

/-- Dealer fill steps per quarter and row beyond a quarter's segment (R85). -/
def fillSteps (w : BitVec 128) (j : Nat) (t : Tile) : Nat :=
  if aMode w = 0 then 0
  else
    let q := groupCols (aPack w) / 16
    let l := if t.laneKind = 0 then t.lanes.map fun x => cdiv x.seg t.per else List.replicate q t.steps
    16 * (l.map fun x => j - x).foldl (· + ·) 0

/-- The credit units that a reading still has to take, each once. -/
def ArrInstr.unitsDue (a : ArrInstr) (l : List (Nat × Nat)) : List (Nat × Nat) := (l.filter fun x => !a.held.contains x).eraseDups

/-- Take the credit units of a reading, one at a time in its order (R231): those taken, and the counter that it waits for. -/
def State.takeUnits (s : State) (n : Nat) (a : ArrInstr) (l : List (Nat × Nat)) : State × List (Nat × Nat) × Option Nat :=
  l.foldl (fun (x : State × List (Nat × Nat) × Option Nat) u =>
    let k := creditTake (a.credit u)
    let before (t : Nat) : Bool := match a.starved with
      | some y => t < y.1
      | none => true
    if x.2.2.isSome then x
    else if x.1.get (ST_CREDIT n k) ST_CREDIT.COUNT = 0 ∨ (x.1.creditWaiters n k).any before then (x.1, x.2.1, some k)
    else (x.1.takeCredit n (some (0, k)), x.2.1 ++ [u], none)) (s, [], none)

/-- The arbiters that the transfers of a reading need (R81, R237). -/
def State.readRoute (s : State) (n : Nat) (l : List (Nat × Nat × Nat × Nat)) : List (Nat × Nat) :=
  (l.flatMap fun x => (pageSplit [(x.2.2.1, x.2.2.2)]).flatMap fun r =>
    match (s.translate n (s.task n x.2.1).xlat r.1 { r := true }).1 with
    | .ok (pa, leaf) => if leafRemote leaf then [(n * 4 + 3, x.1)] else routeOf n x.1 pa r.2 false ++ s.missRoute pa r.2
    | .error _ => []).eraseDups

/-- Count the transfers that a reading makes, one for each 2 KiB block of a range (R81, R221, R387). -/
def State.tallyReads (s : State) (n : Nat) (l : List (Nat × Nat × Nat × Nat)) : State :=
  l.foldl (fun (s : State) x =>
    let (e, t, va, len) := x
    let s := s.tally n 0x605 (.tag t) (if len = 0 then 0 else (va + len - 1) / 2048 - va / 2048 + 1)
    (pageSplit [(va, len)]).foldl (fun (s : State) r =>
      match (s.translate n (s.task n t).xlat r.1 { r := true }).1 with
      | .ok (pa, leaf) => s.tallyMove n e t pa r.2 false (leafRemote leaf)
      | .error _ => s) s) s

/-- The reading of an instruction is complete: its lists are formed, and its streams have their elements to read (R82). -/
def State.readDone (s : State) (n : Nat) (a : ArrInstr) (r : Reading) : State :=
  let ts := r.tiles.map (·.1)
  let skipped := (r.tiles.map (·.2.2)).foldl (· + ·) 0
  let w := a.word
  let live := ts.filter fun t => t.run && !t.gone
  let j := (live.map (·.steps)).foldl max 0
  let s := (s.tallyReads n r.m.bytes).modArr n a.tag a.id fun x => { x with
    tiles := ts, phase := .read, reading := false, step := 0, steps := j, miss := a.miss, held := a.held, gave := true, starved := none }
  let s := if a.gave then s else a.held.foldl (fun (s : State) u =>
    if dCredRole (a.credit u) = 1 then s.creditAdd n (creditGive (a.credit u)) 1 else s) s
  let fill := (live.map (fillSteps w j)).foldl (· + ·) 0
  let kept := (live.map fun t => if aSpfA w = 1 then (t.aMap.map (·.2.length)).foldl (· + ·) 0 else 0).foldl (· + ·) 0
  let s := (s.bump (LT_FILL_STEPS n) fill).tally n 0x203 (.tag a.tag) fill
  let s := (s.bump (LT_SKIPPED n) skipped).tally n 0x202 (.tag a.tag) skipped
  let s := s.tally n 0x201 (.tag a.tag) kept
  let codes (f : Tile → List Nat) : List Nat :=
    (ts.mapIdx fun (g : Nat) (t : Tile) => if t.run && !t.gone then (f t).map (elCode g) else []).flatten
  let s := s.setTodo n 0 a (codes fun t => withSkipped (flatOf (aSpfA w) (t.dA.headD 0)) (t.needA w))
  let s := s.setTodo n 1 a (codes fun t => withSkipped (flatOf (aSpfB w) (t.dB.headD 0)) (t.needB w))
  ((s.progress n a.tag).showLauter n).retireAll n

/-- The Lauter reads an instruction's metadata, through read engine 0 for operand A and 1 for operand B (R81): once it has the credit
units it needs (R231) and its transfers have passed their arbiters (R237), the reading is complete. -/
def State.lauterRead (s : State) (n : Nat) (a : ArrInstr) : State :=
  if s.operandBusy n a then s.waitRegion n a
  else
    let a := { a with miss := some (a.miss.getD (s.get (GV_STATE n a.tag) GV_STATE.MISS_NOW = 1)) }
    let r := s.readTiles n a
    let sampled (s : State) (a : ArrInstr) : State :=
      (s.modArr n a.tag a.id fun x => { x with miss := a.miss, held := a.held, starved := a.starved, reading := true }).showReading n
    match r.hold with
    | some .region => (sampled (r.m.s.keepReads s n) a).waitRegion n a
    | some _ => sampled (r.m.s.keepReads s n) a
    | none =>
      let due := a.unitsDue r.m.units
      let (s', taken, short) := s.takeUnits n a due
      let a' := { a with held := a.held ++ taken, starved := none }
      match short with
      | some k =>
        let turn := (a.starved.map (·.1)).getD (s.ch n).turn
        let s' := s'.modCh n fun c => { c with turn := max c.turn (turn + 1) }
        sampled s' { a' with starved := some (turn, k) }
      | none =>
        let q := taskReq n a.tag 4 a.seq
        let route := s.readRoute n r.m.bytes
        if s.clear q route then ((r.m.s.takeUnits n a due).1.arbMoved q route).readDone n a' r
        else sampled ((s'.pass q route).ask q route) a'

end Sys2Proof.Machine
end

