-- ==== Sys2Proof/Machine/Gravity.lean ====
section
/-! DEFINITION. The gravity pass (R150 to R166): the parameters an instruction takes at its issue, the select block, the
keep word, GV_CHECK and GV_JOIN. -/

namespace Sys2Proof.Machine

/-- The gravity parameters of a tag as they stand (R163). -/
def State.gvCopy (s : State) (n t : Nat) : GvCopy :=
  ⟨s.reg (GV_CTRL n t), s.reg (GV_THETA n t), s.reg (GV_CHECK_PARAM n t), s.reg (GV_SEL_DEST n t), s.reg (GV_MASK0 n t),
   s.reg (GV_MASK1 n t)⟩

def gvU (g : GvCopy) : Nat := fget g.ctrl GV_CTRL.U

def gvBase (g : GvCopy) : Nat := fget g.ctrl GV_CTRL.GROUP_BASE

/-- The columns kept for one position's estimates (R154): THRESH, or the TOPK largest with ties to the lower column. -/
def keptCols (g : GvCopy) (e : List Int) : List Nat :=
  let l := e.zipIdx
  if fget g.ctrl GV_CTRL.SEL_MODE = 0 then
    (l.filter fun x => signed 32 (fget g.theta GV_THETA.THETA) ≤ x.1).map (·.2)
  else
    (l.filter fun x =>
      (l.filter fun y => x.1 < y.1 || (y.1 = x.1 && y.2 < x.2)).length < fget g.ctrl GV_CTRL.TOPK).map (·.2)

/-- The keep word (R154): a group is kept when it is kept for at least one position. -/
def keepWord (g : GvCopy) (rows : List (List Int)) : Nat :=
  let k := rows.flatMap fun e => keptCols g (e.take (gvU g))
  (List.range (gvU g)).foldl (fun w c => w + bit (k.contains c) * 2 ^ c) 0

/-- Write the keep word through the write engine (R154): an internal start (`State.internalEnd` gives its codes), translated under
the issuing tag. -/
def State.writeKeep (s : State) (n t id code : Nat) (g : GvCopy) (w : Nat) : State :=
  s.startInternal n t id code (g.dest.toNat % 2 ^ 48 + gvBase g / 8) (toBytes 8 w)

/-- A GV_PARAM fault at issue (R165, R187). -/
def State.gvIssueFault (s : State) (n t code : Nat) : State :=
  (s.recFault (GV_FAULT n) GV_FAULT.CODE GV_FAULT.LOST code [(GV_FAULT.TAG, t)]).issueFault n t code

/-- Whether a translated range lies in chamber `n`'s own pocket window (R165); a remote page's stands beyond the address space. -/
def ownPocket (n pa k : Nat) : Bool :=
  decide (pa < 2 ^ 46) &&
  match place pa, place (pa + k - 1) with
  | .pocket m _, .pocket m' _ => m = n && m' = n
  | _, _ => false

end Sys2Proof.Machine
end

