-- ==== Sys2Proof/Machine/ArrayOps.lean ====
section
/-! DEFINITION. The array and its slots (R55 to R108): issue of ARRAY, terms and their accumulation, the scaled repeat,
checks and the checksum procedure, and what a drain delivers. -/

namespace Sys2Proof.Machine

/-! ### Slots (R97 to R100) -/

/-- Phases of a slot in SP_STATUS (R117, Table 12). -/
def phFree : Nat := 0
def phFilling : Nat := 1
def phChecking : Nat := 2
def phHeld : Nat := 3
def phDraining : Nat := 4

def slotFld (i : Nat) : Fld := if i = 0 then SP_STATUS.SLOT0 else SP_STATUS.SLOT1

def slotOpenFld (i : Nat) : Fld := if i = 0 then SP_STATUS.SLOT0_OPEN else SP_STATUS.SLOT1_OPEN

def State.slotPhase (s : State) (n i : Nat) : Nat := s.get (SP_STATUS n) (slotFld i)

def State.setPhase (s : State) (n i p : Nat) : State := s.set (SP_STATUS n) (slotFld i) p

/-- An open checksum procedure of a tile (R74). -/
def Tile.ckOpen (t : Tile) : Bool := !t.gone && !t.passed && decide (1 < t.attempt)

/-- Show the array in AY_STATUS (R80, Table 10). Where procedures of several tiles are open, CK_ATTEMPT shows the largest attempt
(DESIGN CHOICE, log entry 112). -/
def State.showArray (s : State) (n : Nat) : State :=
  let l := (s.ch n).arr
  let a := AY_STATUS n
  let busy := l.filter fun x => x.phase == .inArray || x.phase == .checking
  let ck := (l.flatMap (·.tiles)).filter Tile.ckOpen
  let s := s.setReg a 0
  let s := s.set a AY_STATUS.BUSY (bit (!busy.isEmpty))
  let s := s.set a AY_STATUS.SLOT0_FILLING (bit (s.slotPhase n 0 = phFilling))
  let s := s.set a AY_STATUS.SLOT1_FILLING (bit (s.slotPhase n 1 = phFilling))
  let s := s.set a AY_STATUS.CK_OPEN (bit (!ck.isEmpty))
  let s := s.set a AY_STATUS.CK_ATTEMPT ((ck.map fun t => t.attempt - 1).foldl max 0)
  match busy.getLast? with
  | none => s
  | some x =>
    let g := (x.tiles.findIdx? fun t => t.run && !t.gone).getD 0
    let s := s.set a AY_STATUS.OVF_R ((s.slot n (aSlot x.word)).cur.r.getD g 0)
    let s := s.set a AY_STATUS.Y3_FEED (bit (aFeed x.word))
    let s := s.set a AY_STATUS.ARRAY_MODE (aMode x.word)
    let s := s.set a AY_STATUS.GROUPS (aGroups x.word)
    s.set a AY_STATUS.PACK (aPack x.word)

/-! ### Issue of ARRAY (R98, R99, R170, R182, R187) -/

/-- The tags of the column groups in use. -/
def arrayTags (w : BitVec 128) (t : Nat) : List Nat :=
  if aPack w = 0 then [t] else (List.range (packGroups (aPack w))).map (aPtag w)

/-- CH_BAD_OPERAND of ARRAY (R171, R182). -/
def State.arrayOperandBad (s : State) (n : Nat) (w : BitVec 128) : Bool :=
  let ovr (a b : Nat) : Bool :=
    decide (32 < a + operandStreams (aSpfA w) (aScaleA w)) || decide (32 < b + operandStreams (aSpfB w) (aScaleB w))
  if aPack w = 0 then ovr (aDescA w) (aDescB w)
  else
    let k := packGroups (aPack w)
    ((List.range k).any fun g =>
      let p := s.reg (CH_PACK n (aPackEnt w) g)
      fget p CH_PACK.VALID = 0 || !s.live n (aPtag w g) || ovr (fget p CH_PACK.DESC_A) (fget p CH_PACK.DESC_B))
    || ((List.range 4).any fun g => decide (k ≤ g) && aPtag w g != 0)

/-- CH_ILLEGAL_SLOT under the slot scoreboard (R99, Table 2). -/
def State.scoreboardBad (s : State) (n t : Nat) (w : BitVec 128) : Bool :=
  let i := aSlot w
  let l := (s.slot n i).last
  if aCont w then
    !(s.slotOpen n i && l.mode = aMode w && l.groups = aGroups w && l.pack = aPack w && l.acc = aAcc w && l.int = aInt w
      && l.tags = arrayTags w t)
  else s.slotOpen n i

/-- An indexed feed whose dense operand B, as its descriptor stands at issue, does not lie in the chamber's pocket (R87): of the
instruction's own tag, or of the valid pack entries (R182). An address that does not translate faults when it is read. -/
def State.indexedOutside (s : State) (n t : Nat) (w : BitVec 128) : Bool :=
  let own (pa : Nat) : Bool := match place pa with
    | .pocket m _ => m = n
    | _ => false
  let outside (u d : Nat) : Bool :=
    match (s.footprint n (s.task n u).xlat (footRuns (s.desc n u (d % 32)) false) { r := true }).1 with
    | .ok (f, _) => !(f.all fun r => own r.1 && own (r.1 + r.2 - 1))
    | .error _ => false
  aSpfA w = 8 && aSpfB w = 0 && aMode w != 0 &&
    (if aPack w = 0 then outside t (aDescB w)
     else (List.range (packGroups (aPack w))).any fun g =>
       let p := s.reg (CH_PACK n (aPackEnt w) g)
       fget p CH_PACK.VALID = 1 && outside (aPtag w g) (fget p CH_PACK.DESC_B))

/-- A SEL instruction under policy OFF (R155). -/
def offSel (w : BitVec 128) (g : GvCopy) : Bool := aSel w && gvPolicy g = 0

/-- The first instruction fault of ARRAY in the order of R187; `none` where it may issue. -/
def State.arrayFault (s : State) (n t : Nat) (w : BitVec 128) : Option Nat :=
  let g := s.gvCopy n t
  let sump := aDrain w && aDest w
  let tags := arrayTags w t
  if 2 ≤ aSlot w then some chIllegalSlot
  else if modeFault w then some chIllegalMode
  else if arrayGvFault w g then some gvParam
  else if arrayFormatFault w || s.indexedOutside n t w then some chIllegalFormat
  else if sump && tags.any (fun x => s.get (SP_SESSION n x) SP_SESSION.OPEN = 1
      && aDrainFmt w != (if s.get (SP_SESSION n x) SP_SESSION.TYPE = 1 then 10 else 0)) then some chIllegalFormat
  else if s.arrayOperandBad n w then some chBadOperand
  else if !offSel w g && s.scoreboardBad n t w then some chIllegalSlot
  else if sump && tags.any (fun x => s.get (SP_SESSION n x) SP_SESSION.OPEN = 0) then some spSession
  else none

/-- Whether an accumulator runs in paired mode (R23, R29: integer inputs run as normal, block-scaled ones too). -/
def arrPaired (w : BitVec 128) : Bool := aAcc w && isFloat (aFmtA w)

/-- The accumulation group that an ACC_CONT = 0 instruction of task `t` opens (R98). -/
def groupOf (w : BitVec 128) (t : Nat) : AccGroup :=
  ⟨t, aMode w, aGroups w, aPack w, aAcc w, arrPaired w, aInt w, arrayTags w t⟩

/-- The column groups of an instruction at its issue (R66, R182). -/
def State.arrayTiles (s : State) (n t : Nat) (w : BitVec 128) : List Tile :=
  if aPack w = 0 then
    [{ tag := t, k := aK w, baseTr := aBaseTr w, descA := aDescA w, descB := aDescB w, descW := aDescW w, rowLimit := aRowLimit w }]
  else
    (List.range (packGroups (aPack w))).map fun g =>
      let p := s.reg (CH_PACK n (aPackEnt w) g)
      { tag := aPtag w g, k := fget p CH_PACK.K, baseTr := fget p CH_PACK.BASE_TR, descA := fget p CH_PACK.DESC_A,
        descB := fget p CH_PACK.DESC_B, descW := fget p CH_PACK.DESC_W, rowLimit := fget p CH_PACK.ROW_LIMIT }

/-- Queue a start at an engine. -/
def State.queueStart (s : State) (n e : Nat) (st : Start) : State :=
  s.setEng n e { s.eng n e with queue := (s.eng n e).queue ++ [st] }

/-- Whether the drain of an instruction goes through the write engine. -/
def toSink (w : BitVec 128) : Bool := aDrain w && !aDest w

/-- ARRAY issues (R98, R99, R226): the group of its slot opens or closes, its starts go to their engines. -/
def State.arrayIssue (s : State) (n t : Nat) (w : BitVec 128) (pc : Nat) : State :=
  let id := (s.task n t).headId
  let g := s.gvCopy n t
  if offSel w g then
    (s.take n t true).writeKeep n t id 1 g (2 ^ gvU g - 1)
  else
    let tiles := s.arrayTiles n t w
    let s := s.take n t true
    let i := aSlot w
    let s := if aCont w then s else s.setSlot n i { s.slot n i with last := groupOf w t }
    let s := s.set (SP_STATUS n) (slotOpenFld i) (bit (!aDrain w))
    let a : ArrInstr := { id := id, tag := t, pc := pc, seq := (s.ch n).issues, word := w, gv := g, tiles := tiles }
    let s := s.modCh n fun c => { c with arr := c.arr ++ [a] }
    let t0 := tiles.headD {}
    let s := s.queueStart n 0 { kind := .group 0, id := id, tag := t, desc := t0.descA }
    let s := s.queueStart n 1 { kind := .group 1, id := id, tag := t, desc := t0.descB }
    if toSink w then s.queueStart n 2 { kind := .sink, id := id, tag := t, desc := t0.descW, begun := false } else s

/-! ### Terms and accumulation (R24 to R32) -/

/-- Add one term to a cell (R24, R26, R28): the new cell, whether an FP32 accumulator overflowed (R30), whether an INT32
accumulation saturated. -/
def addTerm (int paired : Bool) (c : CellV) (x : Num) : CellV × Bool × Bool :=
  let c := { c with terms := c.terms + 1 }
  if int then
    let (w, sat) := satI32 (i32 c.acc.s + Num.intAt 0 x)
    ({ c with acc := ⟨w, 0⟩ }, false, sat)
  else
    let (a, ovf) := c.acc.addTerm paired x
    ({ c with acc := a }, ovf, false)

/-- Deliver a finished block sum as one term, rounded once to FP32 (R24); in paired mode the exact remainder of that rounding
follows it into the accumulator (R28). -/
def flushBlock (paired : Bool) (c : CellV) : CellV × Bool × Bool :=
  match c.blk with
  | none => (c, false, false)
  | some (_, x) =>
    let w := f32 (toF32 x)
    let (c, o, b) := addTerm false paired { c with blk := none } w
    if paired && x.isFin && w.isFin then
      let (a, o') := c.acc.addTerm true (x.sub w)
      ({ c with acc := a }, o || o', b)
    else (c, o || f32Overflows x, b)

/-- One entry of a step at a cell: dealer fill, or a product at its reduction index. `blk` is the block size, 0 where
neither operand is block-scaled; there dealer fill is no term of its own (log entry 28). -/
def addEntry (int paired : Bool) (blk : Nat) (c : CellV) (e : Option (Nat × Num)) : CellV × Bool × Bool :=
  if blk = 0 then addTerm int paired c ((e.map (·.2)).getD .zero)
  else
    match e with
    | none => (c, false, false)
    | some (k, x) =>
      match c.blk with
      | some (b, y) =>
        if b = k / blk then ({ c with blk := some (b, y.add x) }, false, false)
        else
          let (c, o, t) := flushBlock paired c
          ({ c with blk := some (k / blk, x) }, o, t)
      | none => ({ c with blk := some (k / blk, x) }, false, false)

/-- Block size of an instruction. -/
def arrBlock (w : BitVec 128) : Nat := max (scaleBlock (aScaleA w)) (scaleBlock (aScaleB w))

/-- Position and place within its row group of a logical row. -/
def rowPos (w : BitVec 128) (r : Nat) : Nat × Nat :=
  let h := 16 / rowGroups w
  (r / h, r % h)

/-- Whether a cell of a wide instruction takes dealer fill at an index of the list: its row lies outside the tensor (R394), or the
index is one that only other rows' range entries brought into the list (R52). -/
def Tile.wideFill (t : Tile) (w : BitVec 128) (c p k : Nat) : Bool :=
  let m := stepPairs w
  aMode w = 0 && (t.outA w c || t.outB w p
    || ((isNM (aSpfA w) || aSpfA w = 8) && decide (m * cdiv t.k m ≤ k)
      && t.srcA w c k == .zero && (aSpfB w = 0 || t.srcB w p k == .zero)))

/-- The entries of step `j` at the cell of row `r` and column `c` of a tile, scaled by 2^(−4r) (R31, R58, R85): `none` while
an operand is not at the feed port. -/
def Tile.entries (t : Tile) (w : BitVec 128) (rep r c j : Nat) : Option (List (Option (Nat × Num))) :=
  let (p, i) := rowPos w r
  let l := t.lane c p
  (List.range t.per).mapM fun x =>
    if j * t.per + x < l.seg then
      match l.idx.getD (i * l.seg + j * t.per + x) none with
      | none => some none
      | some k => if t.wideFill w c p k then some none else do
        let a ← t.valA w c k
        let b ← t.valB w p k
        pure (some (k, (a.mul b).scale (-(4 * (rep : Int)))))
    else some none

/-- What a step leaves: the values, whether a cell overflowed. -/
structure StepRes where
  vals : SlotVals
  ovf : Bool := false

/-- Add to a check accumulator and its magnitude (R71, R89). -/
def SlotVals.addCheck (v : SlotVals) (key : Nat) (xs : List Num) : SlotVals :=
  let (a, b) := kget v.chk key (Num.zero, Num.zero)
  { v with chk := kput v.chk key (a.add (Num.sum xs), b.add (Num.sum (xs.map Num.abs))) (Num.zero, Num.zero) }

/-- Put a cell's result: its saturation marks its row and column (R73). -/
def StepRes.put (q : StepRes) (row col g : Nat) (x : CellV × Bool × Bool) : StepRes :=
  let v := { q.vals with cells := kput q.vals.cells (row * 64 + col) x.1 {} }
  let add (l : List Nat) (k : Nat) : List Nat := if l.contains k then l else k :: l
  let v := if x.2.2 then { v with satRow := add v.satRow row, satCol := add v.satCol col, sat := add v.sat g } else v
  ⟨v, q.ovf || x.2.1⟩

/-- Step `j` of column group `g` (R58 to R65, R71); `none` while an operand is missing. -/
def Tile.step (t : Tile) (w : BitVec 128) (g j : Nat) (v : SlotVals) : Option StepRes := do
  let cols := groupCols (aPack w)
  let rep := v.r.getD g 0
  let int := aInt w
  let paired := arrPaired w
  (List.range 16).foldlM (init := (⟨v, false⟩ : StepRes)) fun q r =>
    (List.range cols).foldlM (init := q) fun q c => do
      let es ← t.entries w rep r c j
      let col := g * cols + c
      let cell := kget q.vals.cells (r * 64 + col) {}
      let res := es.foldl (fun (a : CellV × Bool × Bool) e =>
        let b := addEntry int paired (arrBlock w) a.1 e
        (b.1, a.2.1 || b.2.1, a.2.2 || b.2.2)) (cell, false, false)
      let xs := es.filterMap fun e => e.map (·.2)
      let q := q.put r col g res
      let v := q.vals.addCheck (r * 4 + col / 16) xs
      let v := if aMode w = 0 then v.addCheck (64 + col) xs else v
      pure { q with vals := v }

/-- The last block terms of a column group, when its last step has entered (R24). -/
def flushTile (w : BitVec 128) (g : Nat) (v : SlotVals) : StepRes :=
  let cols := groupCols (aPack w)
  if arrBlock w = 0 then ⟨v, false⟩
  else
    (List.range 16).foldl (fun q r =>
      (List.range cols).foldl (fun (q : StepRes) c =>
        let col := g * cols + c
        q.put r col g (flushBlock (arrPaired w) (kget q.vals.cells (r * 64 + col) {}))) q) ⟨v, false⟩

/-- The column group that a slot key belongs to under a pack code: of a cell, a row check or a column check. -/
def keyGroup (pack : Nat) (cell : Bool) (k : Nat) : Nat :=
  let cols := groupCols pack
  if cell then k % 64 / cols else if k < 64 then k % 4 * 16 / cols else (k - 64) / cols

/-- Whether a slot key belongs to column group `g`. -/
def ofGroup (pack g : Nat) (cell : Bool) (k : Nat) : Bool := keyGroup pack cell k = g

/-- Put a column group's part of `x` in place of that of `v`. A row's saturation mark is one for all column groups of a packed
slot: a group that runs again keeps it (log entry 92). -/
def SlotVals.takeGroup (v x : SlotVals) (pack g : Nat) : SlotVals :=
  let cols := groupCols pack
  let merge {β : Type} (cell : Bool) (a b : List (Nat × β)) : List (Nat × β) :=
    (b.filter fun e => ofGroup pack g cell e.1).foldl (fun m e => kset m e.1 e.2) (a.filter fun e => !ofGroup pack g cell e.1)
  { cells := merge true v.cells x.cells
    chk := merge false v.chk x.chk
    satRow := if packGroups pack = 1 then x.satRow else v.satRow
    satCol := v.satCol.filter (fun c => c / cols != g) ++ x.satCol.filter (fun c => c / cols = g)
    r := v.r.set g (x.r.getD g 0)
    n := v.n.set g (x.n.getD g 0)
    formed := v.formed.set g (x.formed.getD g 0)
    sat := v.sat.filter (· != g) ++ x.sat.filter (· = g) }

/-- Multiply an FP32 word by 2^k, rounded. -/
def scaleWord (k : Int) (w : BitVec 32) : BitVec 32 := toF32 ((f32 w).scale k)

/-- The factor of a column group's carried values: 2^(−4r′), r′ the increase in r since they were formed (R31). -/
def SlotVals.carryScale (v : SlotVals) (g : Nat) : Int := -4 * ((v.r.getD g 0 : Int) - v.formed.getD g 0)

/-- The values that an attempt resumes from (R31, R100): a carry snapshot's values, rounded once, and its check state, times
2^(−4r′). -/
def SlotVals.carried (v : SlotVals) (pack : Nat) : SlotVals :=
  { v with
    cells := v.cells.map fun e =>
      let k := v.carryScale (keyGroup pack true e.1)
      (e.1, if k = 0 then e.2 else { e.2 with acc := ⟨scaleWord k e.2.acc.s, scaleWord k e.2.acc.c⟩ })
    chk := v.chk.map fun e =>
      let k := v.carryScale (keyGroup pack false e.1)
      (e.1, (e.2.1.scale k, e.2.2.scale k))
    formed := v.r }

/-- Raise a column group's r by 1 in a carry snapshot (R31). -/
def SlotVals.raiseRep (v : SlotVals) (g : Nat) : SlotVals := { v with r := v.r.set g (v.r.getD g 0 + 1) }

/-! ### Passes and repeats -/

/-- Take an instruction's read starts away, with their transfers' requests; the credit units they hold. -/
def State.dropGroup (s : State) (n e : Nat) (a : ArrInstr) : State × Option Start :=
  let mine (st : Start) : Bool := st.tag = a.tag && st.id = a.id && st.kind.isGroup
  let en := s.eng n e
  let st := (en.starts ++ en.queue).find? mine
  let nos := ((en.starts.filter mine).flatMap (·.out)).map (·.no)
  let s := s.putEng n e (en.filter fun st => !mine st)
  (s.arbs.foldl (fun s x => s.setArb x.1 { s.arb x.1 with
    reqs := (s.arb x.1).reqs.filter fun r => !(r.ch = some n && r.eng = e && nos.contains r.no) }) s, st)

/-- Each attempt restarts its start groups from their first element; credits are not taken again (R227). -/
def State.restartGroups (s : State) (n : Nat) (a : ArrInstr) : State :=
  [0, 1].foldl (fun s e =>
    let (s, st) := s.dropGroup n e a
    let held := if e = 0 then a.unitsA else a.unitsB
    let t0 := a.tiles.headD {}
    let d := (if e = 0 then t0.dA else t0.dB).headD 0
    let new : Start := match st with
      | some x => { x with todo := [], out := [], next := 0, creditSince := none, again := true }
      | none => { kind := .group e, id := a.id, tag := a.tag, desc := if e = 0 then t0.descA else t0.descB, d := d,
                  units := held, given := held, again := true }
    s.setEng n e { s.eng n e with queue := new :: (s.eng n e).queue }) s

/-- The physical ranges of every operand of an instruction. -/
def State.operandFoot (s : State) (n : Nat) (a : ArrInstr) : List (Nat × Nat) :=
  a.tiles.flatMap fun t =>
    let ds := streamsUsed (aSpfA a.word) (aScaleA a.word) t.dA ++ streamsUsed (aSpfB a.word) (aScaleB a.word) t.dB
    match (s.footprint n (s.task n t.tag).xlat (ds.flatMap fun d => footRuns d false) { r := true }).1 with
    | .ok (f, _) => f
    | .error _ => []

/-- The TOLERANT counts of an instruction's column groups, by tag (R83). -/
def ArrInstr.tolCounts (a : ArrInstr) : List (Nat × Tol) := (a.tiles.filter fun t => !t.gone).map fun t => (t.tag, t.tol)

/-- An instruction leaves the array for good: a CONSUMER's credits are returned (R231). -/
def State.arrayDone (s : State) (n : Nat) (a : ArrInstr) : State :=
  let s := [0, 1].foldl (fun (s : State) e =>
    let (s, st) := s.dropGroup n e a
    let units := (st.map (·.units)).getD (if e = 0 then a.unitsA else a.unitsB)
    units.foldl (fun s u =>
      let d := a.credit (6 * (u / 2 ^ 40) + 3 * e, 0)
      if dCredRole d = 2 then s.creditAdd n (creditGive d) 1 else s) s) s
  let s := a.held.foldl (fun s x =>
    let d := a.credit x
    if dCredRole d = 2 then s.creditAdd n (creditGive d) 1 else s) s
  (s.modCh n fun c => { c with arr := c.arr.filter fun x => !(x.tag = a.tag && x.id = a.id) }).retireAll n

/-- Record an array fault (R79, R80) and abort the tile's task. -/
def State.ayFault (s : State) (n t code id : Nat) : State :=
  (s.recFault (AY_FAULT n) AY_FAULT.CODE AY_FAULT.LOST code [(AY_FAULT.TAG, t)]).taskFault n t code id

/-- An overflow in column group `g` (R31, R32, R34, R100). -/
def State.overflow (s : State) (n : Nat) (a : ArrInstr) (g : Nat) : State :=
  let i := aSlot a.word
  let sl := s.slot n i
  let t := a.tiles.getD g {}
  let setT (s : State) (f : Tile → Tile) : State :=
    s.modArr n a.tag a.id fun x => { x with tiles := x.tiles.mapIdx fun (h : Nat) (y : Tile) => if h = g then f y else y }
  if sl.snap.r.getD g 0 = 3 then (setT s fun t => { t with gone := true }).tileFault n a.tag t.tag a.id fun s id => s.ayFault n t.tag ayAccOverflow id
  else
    let s := (s.bump (AY_OVF_REPEAT n) 1).tally n 0x105 (.tag t.tag) 1
    let snap := sl.snap.raiseRep g
    let s := s.setSlot n i { sl with snap := snap, cur := sl.cur.takeGroup (snap.carried (aPack a.word)) (aPack a.word) g }
    setT s fun t => { t with run := false }

/-! ### What a drain makes of the values (R25, R33, R101 to R106) -/

/-- The combined accumulator of position `p` and absolute column `col`, and whether an INT32 sum saturated. -/
def drainAcc (w : BitVec 128) (v : SlotVals) (p col : Nat) : Acc × Bool :=
  let h := 16 / rowGroups w
  let l := (List.range h).map fun i => ((kget v.cells ((p * h + i) * 64 + col) {}).acc, false)
  (segTree (combineAcc (aInt w) (arrPaired w)) l).headD (Acc.zero, false)

/-- The rescaled value before conversion (R33). -/
def drainValue (w : BitVec 128) (v : SlotVals) (g p col : Nat) : Num :=
  (accValue (aInt w) (arrPaired w) (drainAcc w v p col).1).scale (4 * (v.r.getD g 0 : Int))

/-- The drained values of a column group by position, then column, with its flags. With PARTIAL in paired mode each is the
pair s, c (R104). -/
def drainGroup (w : BitVec 128) (v : SlotVals) (g : Nat) : List Nat × NumFlags :=
  let cols := groupCols (aPack w)
  let fmt := aDrainFmt w
  let rep : Int := 4 * (v.r.getD g 0 : Int)
  let f0 : NumFlags := { repeats := v.r.getD g 0, sat := v.sat.contains g, paired := arrPaired w }
  (List.range (rowGroups w)).foldl (fun acc p =>
    (List.range cols).foldl (fun (acc : List Nat × NumFlags) c =>
      let col := g * cols + c
      let (x, sat) := drainAcc w v p col
      let vals := if aPartial w && arrPaired w then [(f32 x.s).scale rep, (f32 x.c).scale rep]
        else [(accValue (aInt w) (arrPaired w) x).scale rep]
      vals.foldl (fun (acc : List Nat × NumFlags) y =>
        let k := convert fmt (aOvf w) y
        (acc.1 ++ [k.bits], { acc.2.addCvt fmt k with sat := acc.2.sat || sat || k.sat })) acc) acc) ([], f0)

/-- Extreme records of a column group (R105), and whether one is empty: the candidates are the columns whose values the
write stream would write within its bounds. -/
def drainExtremes (w : BitVec 128) (v : SlotVals) (d : BitVec 512) (g : Nat) : List Nat × Bool :=
  let cols := groupCols (aPack w)
  let per := if aPartial w && arrPaired w then 2 else 1
  if aExtreme w = 0 then ([], false)
  else
    (List.range (rowGroups w)).foldl (fun (acc : List Nat × Bool) p =>
      let cand := (List.range cols).filterMap fun c =>
        let k := (p * cols + c) * per
        if k < dCount d ∧ dInBounds d k then some ((dIndices d k).headD 0, drainValue w v g p (g * cols + c)) else none
      let mk (big : Bool) : Nat := extremeRecord (aInt w) (aOvf w) big (extreme big cand)
      (acc.1 ++ (if nbit (aExtreme w) 0 then [mk true] else []) ++ (if nbit (aExtreme w) 1 then [mk false] else []),
       acc.2 || cand.isEmpty)) ([], false)

/-- The elements that 8-byte words take, least significant byte first (R101). -/
def wordEls (fmt : Nat) (l : List Nat) : List Nat :=
  let e := max 8 (fmtBits fmt)
  l.flatMap fun x => (List.range (64 / e)).map fun i => x / 2 ^ (e * i) % 2 ^ e

/-- Give a sink the elements of column group `g` from position `k0` of its iteration on (R224). -/
def Start.sinkPut (st : Start) (d : BitVec 512) (g k0 : Nat) (els : List Nat) : Start :=
  els.zipIdx.foldl (fun st x =>
    let k := k0 + x.2
    let code := elCode g k
    if dCount d ≤ k then st
    else if dInBounds d k then { st with todo := st.todo ++ [code], buf := kset st.buf code (x.1, false) }
    else if dPad d = 0 then (if dCredRole d = 2 then { st with todo := st.todo ++ [code] } else st)
    else { st with todo := st.todo ++ [code], buf := kset st.buf code (if dPad d = 1 then dFillBits d else 0, false) }) st

/-- Give the write stream's start what a drain delivers (R101, R106): it is accepted, and its descriptors are copied. -/
def State.drainFeed (s : State) (n : Nat) (a : ArrInstr) : State :=
  let w := a.word
  let i := aSlot w
  let v := (s.slot n i).cur
  let live := (a.tiles.zipIdx.filter fun x => !x.1.gone && (s.tstate n x.1.tag != tAborting || s.drains n x.1.tag))
  let outs := live.map fun x => (x.2, x.1, drainGroup w v x.2, if aDest w then ([], false) else drainExtremes w v x.1.dW x.2)
  let flags := outs.foldl (fun f o => f.join o.2.2.1.2) ({} : NumFlags)
  let tag := if aPack w = 0 then a.tag else ((live.map (·.1.tag)).head?).getD ((a.tiles.headD {}).tag)
  let tries := (a.tiles.map fun t => t.attempt - 1).foldl max 0
  let word := statusWord flags.word i tag (aPartial w) (aExtreme w) (outs.any fun o => o.2.2.2.2) tries (s.ch n).drainSeq
  let s := s.modCh n fun c => { c with drainSeq := c.drainSeq + 1 }
  let s := s.setReg (SP_LAST_DRAIN n) (BitVec.ofNat 64 word)
  if aDest w then
    let cols := groupCols (aPack w)
    let per := if aPartial w && arrPaired w then 2 else 1
    let ups := outs.flatMap fun o =>
      let k := s.task n o.2.1.tag
      o.2.2.1.1.zipIdx.map fun x =>
        let j := x.2 / per
        ({ key := k.keyBase + j / cols * k.keyStride + j % cols, value := BitVec.ofNat 32 x.1, tag := o.2.1.tag, id := a.id,
           own := a.tag, drain := true } : Upd)
    s.modCh n fun c => { c with updQ := c.updQ ++ ups }
  else
    let en := s.eng n 2
    let g (st : Start) : Start :=
      if st.tag = a.tag && st.id = a.id && st.kind == .sink then
        let items (o : Nat × Tile × (List Nat × NumFlags) × (List Nat × Bool)) : List Nat :=
          o.2.2.1.1 ++ wordEls (aDrainFmt w) o.2.2.2.1
        let st := outs.foldl (fun st o => st.sinkPut o.2.1.dW o.1 0 (items o)) { st with begun := true }
        match outs with
        | o :: _ => if aStatus w then st.sinkPut o.2.1.dW o.1 (items o).length (wordEls (aDrainFmt w) [word]) else st
        | [] => st
      else st
    (s.putEng n 2 (en.mapStarts g)).retireAll n

/-- A drain starts (R101): to the sump at once, to the write stream as soon as its start is accepted. -/
def State.drainStart (s : State) (n : Nat) (a : ArrInstr) : State :=
  let s := s.tally n 0x106 (.tag a.tag) 1
  let s := (s.setPhase n (aSlot a.word) phDraining).modArr n a.tag a.id fun x => { x with phase := .draining }
  let accepted := !((s.eng n 2).queue.any fun st => st.tag = a.tag && st.id = a.id)
  if aDest a.word ∨ accepted then s.drainFeed n { a with phase := .draining } else s

/-- A pass is over: tiles that have neither passed nor gone run again (R31, R74); else the instruction drains, or its slot
is held (R99) and it is complete (R174). -/
def State.passEnd (s : State) (n : Nat) (a0 : ArrInstr) : State :=
  match s.arrOf n a0.tag a0.id with
  | none => s
  | some a =>
    let i := aSlot a.word
    if a.tiles.any fun t => !t.gone && !t.passed then
      let s := s.modArr n a.tag a.id fun x => { x with
        phase := .queued, again := true, reading := false, step := 0, regs := none,
        tiles := x.tiles.map fun t => { t with run := !t.gone && !t.passed, feedA := [], feedB := [] } }
      (((s.setPhase n i phFilling).restartGroups n a).showArray n).showLauter n
    else if !s.live n a.tag && !(aDrain a.word && s.drains n a.tag && a.tiles.any (·.passed)) then s
    else if aDrain a.word then ((s.drainStart n a).showArray n).showLauter n
    else
      let sl := s.slot n i
      let s := s.setSlot n i { sl with due := sl.due ++ a.tolCounts, reads := sl.reads ++ [s.operandFoot n a] }
      let s := (s.setPhase n i phHeld).arrayDone n a
      ((s.showArray n).showLauter n).complete n a.tag a.id

end Sys2Proof.Machine
end

