-- ==== Sys2Proof/Machine/Starts.lean ====
section
/-! DEFINITION. Acceptance of starts (R225 to R229, R394). -/

namespace Sys2Proof.Machine

/-! ### Acceptance checks (R225, R394) -/

/-- What makes any read start illegal. -/
def readDescBad (d : BitVec 512) : Bool := descCodesBad d || dPad d != 0 || (dCopy d && dMcast d)

/-- A read start by SARM. -/
def sarmReadBad (d : BitVec 512) : Bool := readDescBad d || dSkew d || (!dCopy d && !dMcast d)

/-- A write start. -/
def writeDescBad (d : BitVec 512) : Bool := descCodesBad d || dOrder d != 0 || dSkew d || (dCopy d && dMcast d)

/-- A receiver start. -/
def receiverDescBad (d : BitVec 512) : Bool := writeDescBad d || dPad d != 0

/-- Whether a flat stream breaks its layout (R394). -/
def flatBad (d : BitVec 512) : Bool := dOrder d != 0 || !dOnes d 1

/-- Whether a row-structured stream breaks its layout (R394). -/
def rowsBad (d : BitVec 512) : Bool := !dOnes d 2

/-- A start group's stream that moves raw bytes: its FMT code and its layout. -/
def rawBad (d : BitVec 512) (fmt : Nat) (flat : Bool) : Bool :=
  readDescBad d || dCopy d || dMcast d || dSkew d || dFmt d != fmt || (if flat then flatBad d else rowsBad d)

/-- Which descriptor of the start group of an operand of ARRAY is bad, 0 to 2 (R171, R225, R394). -/
def groupBad (w : BitVec 128) (o : Nat) (v m x : BitVec 512) : Option Nat :=
  let spf := if o = 0 then aSpfA w else aSpfB w
  let sc := if o = 0 then aScaleA w else aScaleB w
  let fmt := if o = 0 then aFmtA w else aFmtB w
  let block := spf = 1 || spf = 2
  if readDescBad v || dCopy v || dMcast v || dFmt v != fmt || dSkew v == aFeed w
      || (if spf = 0 then false else if block || spf = 8 then flatBad v else rowsBad v) then some 0
  else if spf != 0 && rawBad m (if spf = 8 then 10 else 7) (decide (spf = 8)) then some 1
  else if if spf = 8 then rawBad x 10 true else sc != 0 && rawBad x 7 block then some 2
  else none

/-- A write start of an instruction (R225). -/
def sinkBad (d : BitVec 512) : Bool := writeDescBad d || dCopy d || dMcast d

/-- The input lists of MERGE and SCATTER_IN (R225). -/
def listBad (d : BitVec 512) : Bool := readDescBad d || dCopy d || dMcast d || dSkew d

/-- Whether a copy is plain (R229). -/
def plainCopy (a b : BitVec 512) : Bool :=
  dOrder a = 0 && dOrder b = 0 && dFmt a = dFmt b
    && (List.range 5).all fun i => dExtent a i = dExtent b i && dBound a i = dBound b i && dStride a i = dStride b i

/-! ### Slots (R227) -/

/-- Where a start goes: an empty slot, or in place of a pending start of its tag and descriptor; `none` where it waits. -/
def Engine.take (en : Engine) (st : Start) : Option (Engine × Option Start) :=
  match en.active, en.pending with
  | none, _ => some ({ en with active := some st }, none)
  | some _, none => some ({ en with pending := some st }, none)
  | some _, some p =>
    if p.tag = st.tag ∧ p.desc = st.desc then some ({ en with pending := some st }, some p) else none

/-- The other side of a replaced copy goes too. -/
def State.dropPartner (s : State) (n : Nat) (p : Start) : State :=
  let drop (s : State) (e : Nat) : State :=
    s.putEng n e { (s.eng n e).filter fun o => !(o.id = p.id && o.tag = p.tag) with queue := (s.eng n e).queue }
  match p.kind with
  | .copyRead => drop s 2
  | .copyWrite => drop s p.reng
  | _ => s

/-- Put a start into a slot of an engine; `none` where it has to wait. -/
def State.placeStart (s : State) (n e : Nat) (st : Start) : Option State :=
  match (s.eng n e).take st with
  | none => none
  | some (en, none) => some (s.putEng n e en)
  | some (en, some p) =>
    let s := s.putEng n e en
    some (((s.set (ST_ENGINE n e) ST_ENGINE.REPLACED 1).bump (ST_REPLACED n) 1).dropPartner n p)

/-- Whether an engine has room for a start (R227). -/
def State.room_ (s : State) (n e : Nat) (st : Start) : Bool := ((s.eng n e).take st).isSome

/-- The start leaves the issue queue. -/
def State.unqueue (s : State) (n e : Nat) : State := s.setEng n e { s.eng n e with queue := (s.eng n e).queue.drop 1 }

/-- SARM is complete on acceptance (R174, R227). -/
def State.sarmDone (s : State) (n : Nat) (st : Start) : State := (s.complete n st.tag st.id).retireAll n

/-- Accept a copy (R225, R228, R229): both slots, both descriptors, both footprints. -/
def State.acceptCopy (s : State) (n e : Nat) (st : Start) (d : BitVec 512) : State :=
  let toA := dCopyTo d
  let b := s.desc n st.tag toA
  if writeDescBad b then (s.unqueue n e).stFault n st.tag stBadDesc 2 toA b 0 st.id
  else if dFmt d ≠ dFmt b ∨ dCount d ≠ dCount b then
    (s.unqueue n e).stFault n st.tag stBadDesc e st.desc d 0 st.id
  else if dCount d = 0 then (s.unqueue n e).sarmDone n st
  else
    let x := (s.task n st.tag).xlat
    match s.footprint n x (footRuns d false) { r := true } with
    | (.error c, s) => (s.unqueue n e).memFault n st.tag c.1 c.2 0 st.id
    | (.ok (fa, _), s) =>
      match s.footprint n x (footRuns b (dPad b != 0)) { w := true } with
      | (.error c, s) => (s.unqueue n e).memFault n st.tag c.1 c.2 1 st.id
      | (.ok (fb, _), s) =>
        let ovr := overlaps fa fb
        if ovr ∧ !plainCopy d b then (s.unqueue n e).stFault n st.tag stOverlap e st.desc d 0 st.id
        else
          let above := decide ((fa.map (·.1)).foldl min (2 ^ 64) < (fb.map (·.1)).foldl min (2 ^ 64))
          let rev := ovr && above
          let r : Start := { st with d := d, kind := .copyRead, reverse := rev }
          let w : Start := { kind := .copyWrite, id := st.id, tag := st.tag, desc := toA, priv := st.priv, d := b, src := d,
                             reng := e, reverse := rev, begun := !ovr }
          match (s.unqueue n e).placeStart n e (s.advance n r) with
          | none => s
          | some s1 =>
            match s1.placeStart n 2 w with
            | none => s
            | some s2 => s2.sarmDone n st

/-- Accept a start of SARM that is no copy. -/
def State.acceptSarm (s : State) (n e : Nat) (st : Start) (d : BitVec 512) : State :=
  let bad := match st.kind with
    | .send => sarmReadBad d
    | .fill => writeDescBad d
    | _ => receiverDescBad d
  let g := dMgroup d
  if bad then (s.unqueue n e).stFault n st.tag stBadDesc e st.desc d 0 st.id
  else if (st.kind == .send && (s.members g).isEmpty) ∨ (st.kind == .receive && !(s.members g).contains n) then
    (s.unqueue n e).stFault n st.tag stSpargeGroup e st.desc d 0 st.id
  else if dCount d = 0 then (s.unqueue n e).sarmDone n st
  else
    let st := { st with d := d, begun := st.kind == .fill }
    if st.kind == .receive then
      match s.footprint n (s.task n st.tag).xlat (footRuns d false) { sp := true } with
      | (.error c, s) => (s.unqueue n e).memFault n st.tag c.1 c.2 2 st.id
      | (.ok _, s) =>
        match (s.unqueue n e).placeStart n e st with
        | none => s
        | some s1 => (s1.complete n st.tag st.id).rearm n
    else
      match (s.unqueue n e).placeStart n e (s.advance n st) with
      | none => s
      | some s1 => s1.sarmDone n st

/-- The descriptor copies of a start group or sink of ARRAY: one per column group (R171, R182, R222). -/
def State.copyDescs (s : State) (n : Nat) (a : ArrInstr) (o : Nat) : ArrInstr :=
  { a with tiles := a.tiles.map fun t =>
      let at_ (d : Nat) : BitVec 512 := s.desc n t.tag (d % 32)
      match o with
      | 0 => { t with dA := [at_ t.descA, at_ (t.descA + 1), at_ (t.descA + 2)] }
      | 1 => { t with dB := [at_ t.descB, at_ (t.descB + 1), at_ (t.descB + 2)] }
      | _ => { t with dW := at_ t.descW } }

/-- Whether a start of an array instruction has no elements (R223). -/
def ArrInstr.empty (a : ArrInstr) (o : Nat) : Bool :=
  a.tiles.all fun t => t.gone || dCount (match o with | 0 => t.dA.headD 0 | 1 => t.dB.headD 0 | _ => t.dW) = 0

/-- Accept a start of an array instruction: operand 0 or 1, or 2 for DESC_W. A packed instruction's start goes on for the column
groups that did not fault (R77). -/
def State.acceptArr (s : State) (n e : Nat) (st : Start) (a : ArrInstr) (o : Nat) : State :=
  if st.again then
    if a.empty o then s.unqueue n e
    else
      match (s.unqueue n e).placeStart n e st with
      | none => s
      | some s1 => if o = 2 ∧ a.phase == .draining then s1.drainFeed n a else s1
  else
    let a' := s.copyDescs n a o
    let bad := (a'.tiles.filter fun t => !t.gone).findSome? fun t =>
      let k := if o = 2 then (if sinkBad t.dW || dFmt t.dW != aDrainFmt a.word then some 0 else none)
        else
          let ds := if o = 0 then t.dA else t.dB
          groupBad a.word o (ds.getD 0 0) (ds.getD 1 0) (ds.getD 2 0)
      k.map fun k => (t, k)
    match bad with
    | some (t, k) =>
      let d := if o = 2 then t.dW else (if o = 0 then t.dA else t.dB).getD k 0
      let no := (if o = 2 then t.descW else (if o = 0 then t.descA else t.descB) + k) % 32
      let s := if aPack a.word = 0 then s.unqueue n e
        else s.modArr n a.tag a.id fun x => { x with tiles := x.tiles.map fun u => if u.tag = t.tag then { u with gone := true } else u }
      s.tileFault n a.tag t.tag st.id fun s id =>
        s.stFault n t.tag stBadDesc e no d 0 id
    | none =>
      let t0 := a'.tiles.head?
      let d0 := match t0 with
        | some t => if o = 2 then t.dW else (if o = 0 then t.dA else t.dB).getD 0 0
        | none => 0
      let placed := if a'.empty o then some (s.unqueue n e) else (s.unqueue n e).placeStart n e { st with d := d0 }
      match placed with
      | none => s
      | some s1 =>
        let s1 := s1.modArr n a.tag a.id fun _ => a'
        if o = 2 ∧ a.phase == .draining then s1.drainFeed n a' else s1

/-- Accept a list start of MERGE, SCATTER_IN or SUMP_DRAIN: input `o`, or the destination. -/
def State.acceptList (s : State) (n e : Nat) (st : Start) (write : Bool) (o : Nat) : State :=
  let d := s.desc n st.tag st.desc
  if (if write then sinkBad d else listBad d) then (s.unqueue n e).stFault n st.tag stBadDesc e st.desc d 0 st.id
  else
    let todo := if write then [] else listEls d
    let placed := if dCount d = 0 then some (s.unqueue n e)
      else (s.unqueue n e).placeStart n e { st with d := d, todo := todo, begun := !write }
    match placed with
    | none => s
    | some s1 =>
      (s1.modCh n fun c => { c with lists := c.lists.map fun (l : ListInstr) =>
        if l.tag = st.tag && l.id = st.id && !write then (if o = 0 then { l with dA := d } else { l with dB := d })
        else l }).retireAll n |>.showLauter n

/-- Whether every engine that a start needs has room for it: a copy takes a slot on the write engine too (R226). -/
def State.placeable (s : State) (n e : Nat) (st : Start) : Bool :=
  let d := s.desc n st.tag st.desc
  s.room_ n e st && !(st.kind == .copyRead && !st.again && dCopy d && !s.room_ n 2 { st with desc := dCopyTo d })

/-- A start that may move goes before those of its issue queue that may not (R243). -/
def State.frontMovable (s : State) (n e : Nat) : State :=
  let en := s.eng n e
  match en.queue.find? (s.mayMove n) with
  | some st => if en.queue.head? = some st then s else s.setEng n e { en with queue := st :: en.queue.erase st }
  | none => s

/-- The write engine's slots give way to a drain under way (R76, R107): a start of a task that is being preempted or aborted, with no
transfer outstanding, goes back to the issue queue as it stands (R243). -/
def State.yieldSlots (s : State) (n : Nat) : State :=
  let en := s.eng n 2
  let stuck (st : Start) : Bool := !s.mayMove n st && st.out.isEmpty
  match en.queue with
  | st :: _ =>
    if st.kind == .sink && s.mayMove n st && !s.live n st.tag && en.pending.isSome then
      let out := en.slots.filter stuck
      let en' := { en.filter (fun x => !stuck x) with internal := en.internal }
      s.putEng n 2 { en' with queue := en.queue ++ out.map fun x => { x with again := true, creditSince := none, held := false } }
    else s
  | [] => s

/-- Accept the first start of an issue queue, which has room. -/
def State.acceptStart (s : State) (n e : Nat) (st : Start) : State :=
  match st.kind, s.arrOf n st.tag st.id with
  | .group o, some a => s.acceptArr n e st a o
  | .sink, some a => s.acceptArr n e st a 2
  | _, _ =>
    if st.again then (((s.unqueue n e).placeStart n e st).getD s).rearm n
    else
      match st.kind, s.arrOf n st.tag st.id with
      | .group o, none => s.acceptList n e st false o
      | .sink, none => s.acceptList n e st true 0
      | .copyRead, _ =>
        let d := s.desc n st.tag st.desc
        if dCopy d ∧ !sarmReadBad d then s.acceptCopy n e st d
        else s.acceptSarm n e { st with kind := .send } d
      | _, _ => s.acceptSarm n e st (s.desc n st.tag st.desc)

/-- START_ACCEPT (R227): the engine accepts the first start of its issue queue, or leaves it waiting; what R225 checks is checked as
it is accepted. A start that was accepted before (a repeat, a resume) only takes its slot again. -/
def execStartAccept (n : Ch) (e : Eng) (s : State) : Out :=
  let s := s.frontMovable n e
  let s := if e.val = 2 then s.yieldSlots n else s
  match (s.eng n e).queue with
  | [] => .next s
  | st :: _ =>
    if !s.mayMove n st ∨ !s.placeable n e st then .next s
    else .next (s.orHeld (s.acceptStart n e st))

end Sys2Proof.Machine
end

