-- ==== Sys2Proof/Machine/Array.lean ====
section
/-! DEFINITION. The array commands (R55 to R108, R170): ARRAY, the Lauter's reading, entry, steps, checks and drains. -/

namespace Sys2Proof.Machine

/-- ARRAY (R170): the instruction faults of R187, or its issue. -/
def execArray (n : Ch) (t : Tag) (s : State) : Out :=
  s.issue n t 0x40 fun w pc =>
    match s.arrayFault n t w with
    | none => .next (s.arrayIssue n t w pc)
    | some c =>
      if c = gvParam then .next (s.gvIssueFault n t c)
      else if c = spSession then
        .next ((s.recFault (SP_FAULT n) SP_FAULT.CODE SP_FAULT.LOST c [(SP_FAULT.TAG, t)]).issueFault n t c)
      else .next (s.issueFault n t c)

/-- SPARGE_REGION_WAIT_END (R92): the region an instruction waited for is complete, and its reading starts. -/
def execSpargeRegionWaitEnd (n : Ch) (s : State) : Out :=
  match s.lauterNext n .regionWait with
  | some a => .next (s.lauterRead n a)
  | none => .next s

/-- The instruction that may enter the array (R61, R70, R99): the first in issue order not in it. A repeat runs alone. -/
def State.arrayNext (s : State) (n : Nat) : Option ArrInstr :=
  let l := (s.ch n).arr
  let busy := l.filter fun a => a.phase == .inArray || a.phase == .checking
  match l.find? fun a => a.phase == .queued || a.phase == .regionWait || a.phase == .read with
  | none => none
  | some a =>
    let ph := s.slotPhase n (aSlot a.word)
    let slotOk := a.again || (if aCont a.word then ph = phHeld else ph = phFree)
    let alone := a.again || aFeed a.word || busy.any (·.again)
    if a.phase == .read && slotOk && !(busy.any fun b => b.phase == .inArray) && (!alone || busy.isEmpty)
        && (s.live n a.tag) then some a else none

/-- The registers that writes change for later instructions only, as they stand when the first step of an instruction's present
attempt issues (R59, R75, R80). -/
def State.latchRegs (s : State) (n : Nat) (a : ArrInstr) : Word × Word :=
  a.regs.getD (s.reg (AY_CTRL n), s.reg (AY_SPARE n))

/-- ARRAY_ENTER (R99, R100): the carry snapshot is taken; K = 0 leaves no step. -/
def execArrayEnter (n : Ch) (s : State) : Out :=
  match s.arrayNext n with
  | none => .next s
  | some a =>
    let w := a.word
    let i := aSlot w
    let sl := s.slot n i
    let base : SlotVals := if aCont w then { sl.cur with formed := sl.cur.r } else {}
    let sl := if a.again then sl else
      { sl with occ := if aCont w then sl.occ else groupOf w a.tag, cur := base, snap := base }
    let clear (v : SlotVals) : SlotVals := { v with cells := v.cells.map fun e => (e.1, { e.2 with terms := 0 }) }
    let s := (s.setSlot n i { sl with cur := clear sl.cur }).setPhase n i (if a.steps = 0 then phChecking else phFilling)
    let s := s.modArr n a.tag a.id fun x => { x with
      phase := if a.steps = 0 then .checking else .inArray, step := 0
      regs := if a.steps = 0 then some (s.latchRegs n a) else a.regs }
    .next (((s.progress n a.tag).showArray n).showLauter n)

/-- Whether the chamber's receiver writes a region armed with PRIV = 1 (R234). -/
def State.privFilling (s : State) (n : Nat) : Bool :=
  (List.range 16).any fun r => s.regState n r = regFilling && (s.region n r).priv

/-- One step of every column group that takes part: the slot's values and the groups that overflowed; none while an operand is
missing (R58, R60). A shorter group receives dealer fill after its last step (R66, R85). -/
def State.stepTiles (s : State) (n : Nat) (a : ArrInstr) : Option (SlotVals × List Nat) :=
  let w := a.word
  let j := a.step
  let runs (t : Tile) : Bool := t.run && !t.gone && s.live n t.tag
  a.tiles.zipIdx.foldlM (init := ((s.slot n (aSlot w)).cur, ([] : List Nat))) fun acc x =>
    if !runs x.1 then some acc
    else do
      let q ← x.1.step w x.2 j acc.1
      let q' := if j + 1 = a.steps then flushTile w x.2 q.vals else ⟨q.vals, false⟩
      pure (q'.vals, if q.ovf || q'.ovf then acc.2 ++ [x.2] else acc.2)

/-- The deepest occupancy of the feeder queues once step `a.step` has entered under Y3 feed (R70): the queue of physical row p
holds at most p entries. -/
def State.feederPeak (s : State) (n : Nat) (a : ArrInstr) (spare : Word) : State :=
  if aFeed a.word then
    let deepest := if fget spare AY_SPARE.SPARE_USED = 1 then 17 else 15
    s.set (AY_Y3_QUEUE n) AY_Y3_QUEUE.PEAK (max (s.get (AY_Y3_QUEUE n) AY_Y3_QUEUE.PEAK) (min (a.step + 1) deepest))
  else s

/-- ARRAY_STEP (R58, R60): one step of the instruction in the array, once every operand is at the feed port; an overflow
discards its tile (R31, R32). -/
def execArrayStep (n : Ch) (s : State) : Out :=
  match (s.ch n).arr.find? fun a => a.phase == .inArray with
  | none => .next s
  | some a =>
    if s.privFilling n ∨ !s.live n a.tag then .next s
    else
      let i := aSlot a.word
      let j := a.step
      match s.stepTiles n a with
      | none => .next s
      | some (v, ovr) =>
        let s := s.setSlot n i { s.slot n i with cur := v }
        let m := s.latchRegs n a
        let s := s.feederPeak n a m.2
        let s := (s.tally n 0x101 (.tag a.tag) 1).progress n a.tag
        let s := ovr.foldl (fun s g =>
          match s.arrOf n a.tag a.id with
          | some b => s.overflow n b g
          | none => s) s
        let s := s.modArr n a.tag a.id fun x => { x with step := j + 1, regs := some m }
        let left := match s.arrOf n a.tag a.id with
          | some b => b.tiles.any fun t => t.run && !t.gone && s.live n t.tag
          | none => false
        if !left then .next (s.passEnd n a)
        else if j + 1 = a.steps then
          let s := (s.setPhase n i phChecking).modArr n a.tag a.id fun x => { x with phase := .checking }
          .next ((s.showArray n).showLauter n)
        else .next s

/-! ### Checks (R71 to R76, R395) -/

/-- The physical row that serves logical row `r` under a value of AY_SPARE (R59). -/
def rowMap (spare : Word) (r : Nat) : Nat :=
  if fget spare AY_SPARE.SPARE_USED = 1 ∧ fget spare AY_SPARE.SPARE_FOR = r then 17 else r

/-- The word a defective cell delivers. -/
def faultWord (f : CellFault) (w : BitVec 32) : BitVec 32 := (w ||| f.orMask) &&& f.andMask

/-- A check value as a defective checksum cell delivers it: changed through its 32-bit word, where that changes. -/
def faultyCheck (int : Bool) (f : CellFault) (x : Num) : Num :=
  let w := if int then BitVec.ofInt 32 (Num.intAt 0 x) else toF32 x
  let y := faultWord f w
  if y = w then x else if int then Num.ofInt (i32 y) else f32 y

/-- The values of a slot as defective cells leave them: only the column groups that `run` names take part in the pass, the
others' cells are idle (R77). -/
def defective (spare : Word) (run : Nat → Bool) (w : BitVec 128) (v : SlotVals) (fs : List CellFault) : SlotVals :=
  let cols := groupCols (aPack w)
  fs.foldl (fun v f =>
    match (List.range 16).find? fun r => rowMap spare r = f.prow with
    | some r =>
      if f.col < 64 then
        if !run (f.col / cols) then v else
        let c := kget v.cells (r * 64 + f.col) {}
        { v with cells := kput v.cells (r * 64 + f.col) { c with acc := { c.acc with s := faultWord f c.acc.s } } {} }
      else
        ((List.range 4).filter fun q => run (q * 16 / cols)).foldl (fun v q =>
          let (x, m) := kget v.chk (r * 4 + q) (Num.zero, Num.zero)
          { v with chk := kput v.chk (r * 4 + q) (faultyCheck (aInt w) f x, m) (Num.zero, Num.zero) }) v
    | none =>
      if f.prow = 16 ∧ f.col < 64 ∧ aMode w = 0 then
        let (x, m) := kget v.chk (64 + f.col) (Num.zero, Num.zero)
        { v with chk := kput v.chk (64 + f.col) (faultyCheck (aInt w) f x, m) (Num.zero, Num.zero) }
      else v) v

/-- The end of one comparison (R72, R73). -/
inductive CkRes where
  | pass | miss | skip
  deriving DecidableEq, Repr

/-- Compare a computed sum with its check (R72): `n + d` is `k`. -/
def compareCheck (int sat : Bool) (margin k : Nat) (vals : List Num) (chk mag : Num) : CkRes :=
  if sat ∨ !(vals.all Num.isFin && chk.isFin && mag.isFin) then .skip
  else
    let diff := ((Num.sum vals).sub chk).abs
    let lim := if int then Num.zero else (mag.mul (Num.ofInt k)).scale ((margin : Int) - 24)
    if lim.lt diff then .miss else .pass

/-- The checks of column group `g` (R71): row checks as (row, quarter), column checks, tree checks, and how many are
skipped. -/
structure Checks where
  rows : List (Nat × Nat) := []
  cols : List Nat := []
  tree : Bool := false
  skipped : Nat := 0
  deriving DecidableEq, Repr

/-- Make the checks of a column group. An INT32 sum that saturates only in the segment tree skips the tree check, as one whose rows'
accumulations saturated does (DESIGN CHOICE, log entry 112). -/
def tileChecks (w : BitVec 128) (margin : Nat) (v : SlotVals) (g k : Nat) : Checks :=
  let int := aInt w
  let cols := groupCols (aPack w)
  let exact (key : Nat) : Num :=
    let a := (kget v.cells key {}).acc
    if int then Num.ofInt (i32 a.s) else if arrPaired w then a.exact else f32 a.s
  let quarters := (List.range (cols / 16)).map fun q => g * cols / 16 + q
  let rowsR := (List.range 16).flatMap fun r => quarters.map fun q =>
    let (x, m) := kget v.chk (r * 4 + q) (Num.zero, Num.zero)
    ((r, q), compareCheck int (v.satRow.contains r) margin (k + 1) ((List.range 16).map fun c => exact (r * 64 + q * 16 + c)) x m)
  let colsR := if aMode w ≠ 0 then [] else
    (List.range 64).map fun c =>
      let (x, m) := kget v.chk (64 + c) (Num.zero, Num.zero)
      (c, compareCheck int (v.satCol.contains c) margin (k + 1) ((List.range 16).map fun r => exact (r * 64 + c)) x m)
  let treeR := if aMode w = 0 then [] else
    (List.range (rowGroups w)).flatMap fun p => quarters.map fun q =>
      let h := 16 / rowGroups w
      let rows := (List.range h).map fun i => p * h + i
      let outs := (List.range 16).map fun c => drainAcc w v p (q * 16 + c)
      let chks := rows.map fun r => kget v.chk (r * 4 + q) (Num.zero, Num.zero)
      compareCheck int ((rows.any fun r => v.satRow.contains r) || outs.any (·.2)) margin (k + 5)
        (outs.map fun x => accValue int (arrPaired w) x.1) (Num.sum (chks.map (·.1))) (Num.sum (chks.map (·.2)))
  { rows := (rowsR.filter fun x => x.2 = .miss).map (·.1)
    cols := (colsR.filter fun x => x.2 = .miss).map (·.1)
    tree := treeR.any (· = .miss)
    skipped := (rowsR.filter fun x => x.2 = .skip).length + (colsR.filter fun x => x.2 = .skip).length
      + (treeR.filter (· = .skip)).length }

/-- The single suspect row of a mismatch (R74): a skipped check of another row counts as one that passes, and checks that are all
passed or skipped as "All pass" (DESIGN CHOICE, log entry 112). -/
def Checks.suspect (c : Checks) : Option Nat :=
  match (c.rows.map (·.1)).eraseDups with
  | [r] => some r
  | _ => none

def Checks.bad (c : Checks) : Bool := !c.rows.isEmpty || !c.cols.isEmpty || c.tree

/-- Record a checksum event in AY_CK_LOG (R80, Table 12). -/
def State.ckLog (s : State) (n : Nat) (t : Tile) (cause : Nat) : State :=
  let a := AY_CK_LOG n
  let ovr := s.get a AY_CK_LOG.VALID = 1
  let s := s.set a AY_CK_LOG.OVERWRITTEN (bit (ovr || s.get a AY_CK_LOG.OVERWRITTEN = 1))
  let s := s.set a AY_CK_LOG.VALID 1
  let s := s.set a AY_CK_LOG.ROW t.logRow
  let s := s.set a AY_CK_LOG.QUARTER t.logQ
  let s := s.set a AY_CK_LOG.COLUMN (t.logCol.getD 0)
  let s := s.set a AY_CK_LOG.COL_VALID (bit t.logCol.isSome)
  let s := s.set a AY_CK_LOG.CAUSE cause
  s.set a AY_CK_LOG.TAG t.tag

/-- The Lantern logs a map change (R75). -/
def State.logSpare (s : State) (n r : Nat) : State :=
  s.keepLog fun l => { l with spareFor := kset l.spareFor n r }

/-- Instructions of which some tiles passed and no other will run again, since their tasks are aborted, drain those (R76). -/
def State.drainPassed (s : State) (n : Nat) : State :=
  (s.ch n).arr.foldl (fun (s : State) a =>
    if a.phase == .draining || a.phase == .checking || !(a.tiles.any fun t => t.passed && !t.gone) then s
    else
      let failed (t : Tile) : Tile := if t.passed || s.live n t.tag then t else { t with gone := true, run := false }
      let s := s.modArr n a.tag a.id fun x => { x with tiles := x.tiles.map failed }
      if (a.tiles.map failed).all fun t => t.gone || t.passed then s.passEnd n a else s) s

/-- The chamber reports itself failed (R76): its other tasks are aborted, their tiles that passed draining first
(`State.drains`), it takes no further work, the Lantern fences it (R352). -/
def State.chamberFailed (s : State) (n t : Nat) : State :=
  let s := (List.range 4).foldl (fun (s : State) u =>
    if u ≠ t ∧ s.tstate n u ≠ tFree ∧ s.tstate n u ≠ tEnded then
      (s.recFault (AY_FAULT n) AY_FAULT.CODE AY_FAULT.LOST ayChamberFenced [(AY_FAULT.TAG, u)]).abortFrom n u ayChamberFenced
    else s) s
  ((s.drainPassed n).set (CH_CTRL n) CH_CTRL.HOLD 1).fenceAsk n

/-- The checksum procedure for a column group whose checks are made (R74, Table 6): the state and the tile. AY_CK_LOG shows the lowest row that mismatched, and CAUSE 2 also where only attempt 2
names a single row (log entry 92). -/
def State.procedure (s : State) (n owner id : Nat) (t : Tile) (c : Checks) : State × Tile :=
  let s := (s.bump (AY_CK_SKIP n) c.skipped)
  if !c.bad then
    let s := if t.attempt = 2 then s.ckLog n t 0 else if t.attempt = 3 ∧ t.mapped then s.ckLog n t 1 else s
    (s, { t with passed := true, run := false })
  else
    let s := (s.bump (AY_CK_MISMATCH n) 1).tally n 0x104 (.tag t.tag) 1
    let t' := { t with
      logRow := (c.rows.head?.map (·.1)).getD t.logRow
      logQ := (c.rows.head?.map (·.2)).getD t.logQ
      logCol := c.cols.head? }
    match t.attempt with
    | 1 => (s, { t' with attempt := 2, suspect := c.suspect, run := false })
    | 2 =>
      let spare := s.get (AY_SPARE n) AY_SPARE.SPARE_USED = 0 && s.get (AY_SPARE n) AY_SPARE.SPARE_BAD = 0
      match c.suspect with
      | some r =>
        if t.suspect = some r ∧ spare then
          let s := (s.set (AY_SPARE n) AY_SPARE.SPARE_FOR r).set (AY_SPARE n) AY_SPARE.SPARE_USED 1
          (s.logSpare n r, { t' with attempt := 3, mapped := true, run := false })
        else (s.ckLog n t' (if t.suspect = some r then 5 else 2), { t' with attempt := 3, run := false })
      | none => (s.ckLog n t' (if c.rows.isEmpty then 4 else 3), { t' with attempt := 3, run := false })
    | _ =>
      let s := (s.tileFault n owner t.tag id fun s id => s.ayFault n t.tag ayCkPersist id).ckLog n t' 6
      (s.chamberFailed n t.tag, { t' with gone := true, run := false })

/-- The checks of every column group that takes part, and what each leaves of the slot (R72 to R77). -/
def State.checkTiles (s : State) (n slot : Nat) (a : ArrInstr) (defects : List CellFault) : State :=
  let w := a.word
  let sl := s.slot n slot
  let m := s.latchRegs n a
  let here := s
  let runs (t : Tile) : Bool := t.run && !t.gone && here.live n t.tag
  let v := defective m.2 (fun g => (a.tiles[g]?).any runs) w sl.cur defects
  let s := s.setSlot n slot { sl with cur := v }
  let margin := fget m.1 AY_CTRL.CK_MARGIN
  let s := a.tiles.zipIdx.foldl (fun s x =>
    let (t, g) := x
    let setT (s : State) (t : Tile) : State :=
      s.modArr n a.tag a.id fun y => { y with tiles := y.tiles.set g t }
    if !t.run ∨ t.gone then s
    else if !runs t then setT s { t with gone := true, run := false }
    else
      let sl := s.slot n slot
      let cols := groupCols (aPack w)
      let terms := ((sl.cur.cells.filter fun e => e.1 % 64 / cols = g).map fun e => e.2.terms).foldl max 0
      let k := min (sl.snap.n.getD g 0 + terms) 0xFFFFFFFF
      let (s, t) := s.procedure n a.tag a.id t (tileChecks w margin sl.cur g k)
      let sl := s.slot n slot
      let s := if t.passed then s.setSlot n slot { sl with cur := { sl.cur with n := sl.cur.n.set g k } }
        else s.setSlot n slot { sl with cur := sl.cur.takeGroup (sl.snap.carried (aPack w)) (aPack w) g }
      setT s t) s
  let keep (t : Tile) : Tile := if t.passed || s.live n t.tag then t else { t with gone := true, run := false }
  s.modArr n a.tag a.id fun y => { y with tiles := y.tiles.map keep }

/-- CHECKS_COMPLETE (R72 to R77): the checks of the instruction whose last step is done on a slot. `defects` are the cells
that delivered wrong words. -/
def execChecksComplete (n : Ch) (slot : Fin 2) (defects : List CellFault) (s : State) : Out :=
  match (s.ch n).arr.find? fun a => a.phase == .checking && aSlot a.word = slot.val with
  | none => .next s
  | some a =>
    if !s.live n a.tag && !(s.drains n a.tag && a.tiles.any (·.passed)) then .next s
    else .next ((((s.checkTiles n slot a defects).progress n a.tag).passEnd n a).showArray n)

/-! ### The end of a drain (R101, R154) -/

/-- The select block acts on a drain (R154): it keeps groups, counts, and writes the keep word. -/
def State.select (s : State) (n : Nat) (a : ArrInstr) : State :=
  let w := a.word
  let v := (s.slot n (aSlot w)).cur
  let u := gvU a.gv
  let rows := (List.range (rowGroups w)).map fun p => (List.range u).map fun c => i32 (drainAcc w v p c).1.s
  let word := keepWord a.gv rows
  let s := (s.bump (GV_EST n a.tag) (u * rowGroups w)).tally n 0x501 (.tag a.tag) (u * rowGroups w)
  let kept := ((List.range u).filter fun c => nbit word c).length
  let s := (s.bump (GV_KEPT n a.tag) kept).tally n 0x502 (.tag a.tag) kept
  ((s.writeKeep n a.tag a.id 3 a.gv word).modArr n a.tag a.id fun x => { x with keep := true }).showJoin n

/-- A drain is over: the slot is free and empty, and the instruction is complete (R99, R101, R174); the uses of the regions that
the group's instructions read fall (R92, R233). -/
def State.drained (s : State) (n slot : Nat) (a : ArrInstr) : State :=
  let sl := s.slot n slot
  let s := s.setPhase n slot phFree
  let s := (sl.reads ++ [s.operandFoot n a]).foldl (fun (s : State) f => s.regionUse n f) s
  let counts := (sl.due.filter fun x => s.tstate n x.1 != tAborting || s.drains n x.1) ++ a.tolCounts
  let s := (s.setSlot n slot { last := (s.slot n slot).last }).tolAdd n counts
  let s := ((s.arrayDone n a).progress n a.tag).showJoin n
  (s.showArray n).complete n a.tag a.id

/-- DRAIN_COMPLETE (R101): the write stream or the sump has accepted the last item; the select block acts, and once its keep word is
written (R154) the slot is free. -/
def execDrainComplete (n : Ch) (slot : Fin 2) (s : State) : Out :=
  match (s.ch n).arr.find? fun a => a.phase == .draining && aSlot a.word = slot.val with
  | none => .next s
  | some a =>
    let ready := if aDest a.word then !((s.ch n).updQ.any fun u => u.id = a.id && u.own = a.tag)
      else (s.startOf n 2 a.tag a.id).isNone
    if !ready ∨ !s.drains n a.tag then .next s
    else
      if aSel a.word && !a.keep then .next (s.select n a)
      else if s.internalDue n a.tag a.id 3 then .next s
      else .next (s.drained n slot a)

end Sys2Proof.Machine
end

