-- ==== Sys2Proof/Machine/Sump.lean ====
section
/-! DEFINITION. Coordinate lists and the sump (R49 to R52, R91, R109 to R117): MERGE, SCATTER_IN, SUMP_OPEN, SUMP_DRAIN,
updates, spills and the drain's merge passes; and the Lauter's reading, which arrays and lists share in issue order. -/

namespace Sys2Proof.Machine

/-! ### Entries (R49) -/

/-- A list entry: key and value. -/
abbrev Entry := Nat × BitVec 32

/-- The key that marks padding. -/
def padKey : Nat := 0xFFFFFFFF

/-- Add two values of a session type (R91, R112): the sum and whether an INT32 sum saturated. -/
def addValue (int : Bool) (a b : BitVec 32) : BitVec 32 × Bool :=
  if int then satI32 (i32 a + i32 b) else (fadd a b, false)

/-- Insert an entry into a sorted list; an equal key's value is added to what stands (R91). -/
def putEntry (int : Bool) : List Entry → Entry → List Entry × Bool
  | [], e => ([e], false)
  | x :: r, e =>
    if e.1 < x.1 then (e :: x :: r, false)
    else if e.1 = x.1 then
      let (v, s) := addValue int x.2 e.2
      ((x.1, v) :: r, s)
    else
      let (l, s) := putEntry int r e
      (x :: l, s)

/-- Sort by key and combine equal keys, in the order given (R91, R113). -/
def combineEntries (int : Bool) (base : List Entry) (l : List Entry) : List Entry × Bool :=
  l.foldl (fun (a : List Entry × Bool) e =>
    let (m, s) := putEntry int a.1 e
    (m, a.2 || s)) (base, false)

/-- The bytes of a list entry. -/
def entryBytes (e : Entry) : List Byte := toBytes 4 e.1 ++ toBytes 4 e.2.toNat

/-- The entries in a byte string. -/
def entriesOf (fuel : Nat) (l : List Byte) : List Entry :=
  match fuel with
  | 0 => []
  | fuel + 1 => if l.length < 8 then [] else (num l 0 4, BitVec.ofNat 32 (num l 4 4)) :: entriesOf fuel (l.drop 8)

/-- A run's bytes: its entries, then padding entries up to its slots (R113). -/
def runBytes (slots : Nat) (l : List Entry) : List Byte :=
  l.flatMap entryBytes ++ (List.replicate (64 * slots - l.length) (entryBytes (padKey, 0))).flatten

/-- The entries of an input list as its start brought them; an out-of-bounds element delivers the fill value. -/
def listEntries (d : BitVec 512) (feed : List (Nat × Nat)) : List Entry :=
  let b := fmtBits (dFmt d)
  let x := (List.range (dCount d)).foldr (fun k a => a * 2 ^ b + (kfind feed k).getD (dFillBits d)) 0
  (List.range (dCount d * b / 64)).map fun i =>
    let e := x / 2 ^ (64 * i) % 2 ^ 64
    (e % 2 ^ 32, BitVec.ofNat 32 (e / 2 ^ 32))

/-- The elements of a write descriptor that 8-byte entries make. -/
def entryEls (fmt : Nat) (l : List Entry) : List Nat :=
  let b := max 1 (fmtBits fmt)
  let x := l.foldr (fun e a => a * 2 ^ 64 + (e.1 + e.2.toNat * 2 ^ 32)) 0
  (List.range (cdiv (64 * l.length) b)).map fun i => x / 2 ^ (b * i) % 2 ^ b

/-! ### Issue -/

/-- Value type of the open session of a tag differs from a producer's (R110). -/
def State.typeDiffers (s : State) (n t ty : Nat) : Bool :=
  s.get (SP_SESSION n t) SP_SESSION.OPEN = 1 && s.get (SP_SESSION n t) SP_SESSION.TYPE != ty

/-- Whether a list that an instruction names has an element format that is none of the two that R49 allows, FP32 and INT32: checked at
issue, as its descriptor stands (R187). -/
def State.listFormatBad (s : State) (n t : Nat) (l : List Nat) : Bool :=
  l.any fun d => dFmt (s.desc n t d) != 0 && dFmt (s.desc n t d) != 10

/-- An SP_SESSION fault at issue (R110). -/
def State.sessionFault (s : State) (n t : Nat) : State :=
  (s.recFault (SP_FAULT n) SP_FAULT.CODE SP_FAULT.LOST spSession [(SP_FAULT.TAG, t)]).issueFault n t spSession

/-- A sump fault of a task (R116). -/
def State.spFault (s : State) (n t code id : Nat) : State :=
  (s.recFault (SP_FAULT n) SP_FAULT.CODE SP_FAULT.LOST code [(SP_FAULT.TAG, t)]).taskFault n t code id

/-- A list instruction issues: it joins the Lauter's queue. -/
def State.listIssue (s : State) (n t : Nat) (w : BitVec 128) (pc : Nat) (starts : List (Nat × StartKind × Nat)) : State :=
  let id := (s.task n t).headId
  let s := s.take n t true
  let s := s.modCh n fun c => { c with lists := c.lists ++ [{ id := id, tag := t, pc := pc, seq := c.issues, word := w }] }
  starts.foldl (fun s x => s.queueStart n x.1 { kind := x.2.1, id := id, tag := t, desc := x.2.2, begun := x.1 != 2 }) s

/-- MERGE (R91). -/
def execMerge (n : Ch) (t : Tag) (s : State) : Out :=
  s.issue n t 0x30 fun w pc =>
    let sump := nbit w.toNat 25
    let lists := [wf w 13 9] ++ (if nbit w.toNat 19 then [] else [wf w 18 14]) ++ (if sump then [] else [wf w 24 20])
    if s.listFormatBad n t lists || sump && s.typeDiffers n t (wf w 26 26) then .next (s.issueFault n t chIllegalFormat)
    else if sump && s.get (SP_SESSION n t) SP_SESSION.OPEN = 0 then .next (s.sessionFault n t)
    else
      .next (s.listIssue n t w pc
        ([(0, .group 0, wf w 13 9)] ++ (if nbit w.toNat 19 then [] else [(1, .group 1, wf w 18 14)])
          ++ (if sump then [] else [(2, .sink, wf w 24 20)])))

/-- SCATTER_IN (R110). -/
def execScatterIn (n : Ch) (t : Tag) (s : State) : Out :=
  s.issue n t 0x31 fun w pc =>
    if s.listFormatBad n t [wf w 13 9] || s.typeDiffers n t (wf w 26 26) then .next (s.issueFault n t chIllegalFormat)
    else if s.get (SP_SESSION n t) SP_SESSION.OPEN = 0 then .next (s.sessionFault n t)
    else .next (s.listIssue n t w pc [(0, .group 0, wf w 13 9)])

/-- SUMP_OPEN (R110): the session block is read at issue, and the session's registers are loaded. -/
def execSumpOpen (n : Ch) (t : Tag) (s : State) : Out :=
  s.issue n t 0x60 fun w _ =>
    let a := wf w 63 16
    if a % 32 ≠ 0 then .next (s.issueFault n t chBadOperand)
    else
      match s.consume n t a 32 with
      | (.wait, s) => .next s
      | (.fault c va, s) => .next ((s.memFaultReg n t c va 0).issueFault n t c)
      | (.ok b _ _, s) =>
        let base := num b 16 6
        if num b 14 1 / 2 ≠ 0 ∨ num b 15 1 ≠ 0 ∨ num b 22 10 ≠ 0 then .next (s.issueFault n t chReservedBits)
        else if base % 512 ≠ 0 then .next (s.issueFault n t chBadOperand)
        else if s.get (SP_SESSION n t) SP_SESSION.OPEN = 1 then .next (s.sessionFault n t)
        else
          let s := s.take n t false
          let s := s.takeSeed n
          let s := s.setReg (SP_SESSION n t) 0
          let s := s.set (SP_SESSION n t) SP_SESSION.OPEN 1
          let s := s.set (SP_SESSION n t) SP_SESSION.TYPE (num b 14 1)
          let s := s.set (SP_SESSION n t) SP_SESSION.KEY_LIMIT (num b 0 4)
          let s := s.set (SP_SPILL_BASE n t) SP_SPILL_BASE.BASE (base / 512)
          let s := s.set (SP_SPILL_USE n t) SP_SPILL_USE.CAPACITY (num b 12 2)
          let s := s.set (SP_SPILL_USE n t) SP_SPILL_USE.USED 0
          .next (s.modTask n t fun k => { k with keyBase := num b 4 4, keyStride := num b 8 4, sumSat := false })

/-- SUMP_DRAIN issues (R110, R114): the session takes no more producers. -/
def execSumpDrain (n : Ch) (t : Tag) (s : State) : Out :=
  s.issue n t 0x61 fun w pc =>
    if s.listFormatBad n t [wf w 13 9] then .next (s.issueFault n t chIllegalFormat)
    else if s.get (SP_SESSION n t) SP_SESSION.OPEN = 0 then .next (s.sessionFault n t)
    else .next ((s.listIssue n t w pc [(2, .sink, wf w 13 9)]).set (SP_SESSION n t) SP_SESSION.OPEN 0)

/-! ### The Lauter reads a list (R51, R52, R91, R111) -/

/-- What checking one list leaves: kept entries, the last key that passed the order check, counts, the first error. -/
structure ListChk where
  kept : List Entry := []
  last : Option Nat := none
  order : Nat := 0
  range : Nat := 0
  err : Option (Nat × Nat × Nat) := none   -- code, entry, check

/-- Check a list (R51, R52): padding entries are skipped; order where the list is sorted; the key limits. -/
def checkList (tol sorted : Bool) (limits : List Nat) (l : List Entry) : ListChk :=
  l.zipIdx.foldl (fun (a : ListChk) x =>
    let (e, i) := x
    if a.err.isSome ∨ e.1 = padKey then a
    else if sorted && a.last.any (fun p => e.1 ≤ p) then
      if tol then { a with order := a.order + 1 } else { a with err := some (ltOrder, i, 2) }
    else
      let a := { a with last := some e.1 }
      if limits.any fun m => m ≠ 0 && m ≤ e.1 then
        if tol then { a with range := a.range + 1 } else { a with err := some (ltRange, i, 4) }
      else { a with kept := a.kept ++ [e] }) {}

/-- The list instruction whose turn with the Lauter it is; its input lists are read and its destination is accepted. -/
def State.listNext (s : State) (n : Nat) : Option ListInstr :=
  match (s.ch n).lists with
  | [] => none
  | l :: _ =>
    let gone (e : Nat) : Bool := (s.startOf n e l.tag l.id).isNone
    let w := l.word
    let sink := opcode w = 0x30 && !nbit w.toNat 25
    if opcode w != 0x61 && !l.done && s.live n l.tag && !s.lauterBefore n l.seq && gone 0 && gone 1
        && (!sink || s.ready n 2 l.tag l.id) then some l else none

/-- Give a list destination's start its entries (R224). -/
def State.feedList (s : State) (n t id : Nat) (es : List Entry) : State :=
  let en := s.eng n 2
  let g (st : Start) : Start :=
    if st.tag = t && st.id = id && st.kind == .sink then ({ st with begun := true }).sinkPut st.d 0 0 (entryEls (dFmt st.d) es) else st
  let s := s.modCh n fun c => { c with lists := c.lists.map fun (l : ListInstr) =>
    if l.tag = t && l.id = id then { l with done := true } else l }
  (s.putEng n 2 (en.mapStarts g)).retireAll n

/-- A list instruction without a destination stream is complete when its last update is accepted. -/
def State.listSettle (s : State) (n t id : Nat) : State :=
  let waits := (s.ch n).updQ.any fun u => u.own = t && u.id = id
  let done := (s.ch n).lists.any fun l => l.tag = t && l.id = id && l.done
  let sink := (s.startOf n 2 t id).isSome
  if done && !waits && !sink then
    (s.listDone n t id).showLauter n
  else s

/-- The Lauter reads a list instruction's inputs and hands its entries on. -/
def State.listRead (s : State) (n : Nat) (l : ListInstr) : State :=
  let w := l.word
  let t := l.tag
  let tol := s.tolerant n t
  let merge := decide (opcode w = 0x30)
  let sump := !merge || nbit w.toNat 25
  let int := nbit w.toNat 26
  let limits := wf w 63 32 :: (if sump then [s.get (SP_SESSION n t) SP_SESSION.KEY_LIMIT] else [])
  let sorted := merge || nbit w.toNat 14
  let a := checkList tol sorted limits (listEntries l.dA l.feedA)
  let b := if merge && !nbit w.toNat 19 then checkList tol sorted limits (listEntries l.dB l.feedB) else {}
  match a.err, b.err with
  | some (c, i, k), _ => s.ltFault n t c i 0 k 0 l.id
  | none, some (c, i, k) => s.ltFault n t c i 0 k 1 l.id
  | none, none =>
    let count (x : ListInstr) : ListInstr :=
      if x.tag = t && x.id = l.id then { x with tol := ⟨a.order + b.order, 0, a.range + b.range⟩ } else x
    let s := s.modCh n fun c => { c with lists := c.lists.map count }
    let es := if merge then (combineEntries int a.kept b.kept).1 else a.kept
    if merge && !sump then (s.feedList n t l.id es).listSettle n t l.id
    else
      let s := s.modCh n fun c => { c with
        updQ := c.updQ ++ es.map fun e => { key := e.1, value := e.2, tag := t, id := l.id, own := t }
        lists := c.lists.map fun (x : ListInstr) => if x.tag = t && x.id = l.id then { x with done := true } else x }
      s.listSettle n t l.id

/-- LAUTER_READ (R81, R82): the next instruction in issue order, an array instruction or a list. -/
def execLauterRead (n : Ch) (s : State) : Out :=
  match s.lauterNext n .queued with
  | some a => .next (s.lauterRead n a)
  | none =>
    match s.listNext n with
    | some l => .next ((s.listRead n l).showLauter n)
    | none => .next s

/-! ### Updates (R109, R111, R112) -/

/-- The set of a key (R109). -/
def sumpSet (seed k : Nat) : Nat :=
  bits k 9 0 ^^^ bits k 19 10 ^^^ bits k 29 20 ^^^ bits k 31 30 ^^^ seed

def State.sumpWays (s : State) (n set : Nat) : List (Nat × SumpEntry) := kget (s.ch n).sump set []

def State.setWays (s : State) (n set : Nat) (l : List (Nat × SumpEntry)) : State :=
  s.modCh n fun c => { c with sump := kput c.sump set l [] }

/-- Take a way out of a set: the later ages close up. -/
def dropWay (l : List (Nat × SumpEntry)) (way : Nat) : List (Nat × SumpEntry) :=
  match kfind l way with
  | none => l
  | some e =>
    (kdel l way).map fun x => if e.age < x.2.age then (x.1, { x.2 with age := x.2.age - 1 }) else x

/-- Address of run slot `j` in a half of a tag's spill region. -/
def State.runVa (s : State) (n t half j : Nat) : Nat :=
  s.get (SP_SPILL_BASE n t) SP_SPILL_BASE.BASE * 512 + (half * s.get (SP_SPILL_USE n t) SP_SPILL_USE.CAPACITY + j) * 512

/-- Put a run of a tag on its way to its spill region (R113), an internal start of the write engine (R220): SP_SPILL_FULL beyond the
capacity. -/
def State.newRun (s : State) (n t : Nat) (es : List Entry) (id : Nat) : State :=
  let a := SP_SPILL_USE n t
  let j := s.get a SP_SPILL_USE.USED
  if s.get a SP_SPILL_USE.CAPACITY ≤ j then s.spFault n t spSpillFull id
  else
    let s := (s.set a SP_SPILL_USE.USED (j + 1)).set a SP_SPILL_USE.PEAK (max (s.get a SP_SPILL_USE.PEAK) (j + 1))
    (s.startInternal n t id 0 (s.runVa n t 0 j) (runBytes 1 es)).modCh n fun c => { c with runs := c.runs ++ [⟨t, j⟩] }

/-- The value type of a tag's session. -/
def State.sumInt (s : State) (n t : Nat) : Bool := s.get (SP_SESSION n t) SP_SESSION.TYPE = 1

/-- Empty the spill buffer's entries of a tag as one run: sorted, equal keys combined (R113, R114). -/
def State.flushSpill (s : State) (n t id : Nat) : State :=
  let mine := ((s.ch n).spill.filter (·.tag = t)).map fun e => (e.key.toNat, e.value)
  if mine.isEmpty then s
  else
    let (es, sat) := combineEntries (s.sumInt n t) [] mine
    let s := s.modCh n fun c => { c with spill := c.spill.filter (·.tag != t) }
    (s.modTask n t fun k => { k with sumSat := k.sumSat || sat }).newRun n t es id

/-- Empty a spill buffer that is full while no run is being written (R113). -/
def State.emptySpill (s : State) (n : Nat) : State :=
  if 64 ≤ (s.ch n).spill.length ∧ (s.ch n).runs.isEmpty then
    (List.range 4).foldl (fun s t => s.flushSpill n t (s.task n t).nextId) s
  else s

/-- Put an entry into the spill buffer; a full buffer is emptied whole, tag by tag (R113). -/
def State.spillPut (s : State) (n : Nat) (e : SumpEntry) (id : Nat) : State :=
  let s := s.modCh n fun c => { c with spill := c.spill ++ [e] }
  if (s.ch n).spill.length < 64 ∨ !(s.ch n).runs.isEmpty then s
  else (List.range 4).foldl (fun s t => s.flushSpill n t (if t = e.tag then id else (s.task n t).nextId)) s

/-- What an update does in its set (R112): the ways, the entry that spills, a hit, an eviction, INT32 saturation. -/
structure UpdRes where
  ways : List (Nat × SumpEntry)
  out : Option SumpEntry := none
  hit : Bool := false
  evict : Bool := false
  sat : Bool := false

/-- Apply an update to the ways of its set. Of several invalid ways it fills the lowest-numbered (DESIGN CHOICE, log entry 112). -/
def applyUpd (int : Bool) (l : List (Nat × SumpEntry)) (u : Upd) : UpdRes :=
  let k := BitVec.ofNat 32 u.key
  match l.find? fun x => x.2.key = k ∧ x.2.tag = u.tag with
  | some x =>
    let (v, sat) := addValue int x.2.value u.value
    { ways := kset l x.1 { x.2 with value := v }, hit := true, sat := sat }
  | none =>
    match (List.range 4).find? fun w => (kfind l w).isNone with
    | some w => { ways := kset l w ⟨k, u.value, u.tag, l.length⟩ }
    | none =>
      let mine := l.filter fun x => x.2.tag = u.tag
      match mine.foldl (fun (b : Option (Nat × SumpEntry)) x =>
          match b with
          | none => some x
          | some y => if x.2.age < y.2.age then some x else b) none with
      | some x => { ways := kset (dropWay l x.1) x.1 ⟨k, u.value, u.tag, 3⟩, out := some x.2, evict := true }
      | none => { ways := l, out := some ⟨k, u.value, u.tag, 0⟩ }

/-- Errors found in the ways of a set as it is read (R109): corrected ones are counted, uncorrectable ones fault the entry's
task and invalidate it. -/
def State.sumpEcc (s : State) (n set : Nat) (ecc : List (Fin 4 × Bool)) : State :=
  ecc.foldl (fun s x =>
    match kfind (s.sumpWays n set) x.1 with
    | none => s
    | some e =>
      if x.2 then
        let s := (s.setWays n set (dropWay (s.sumpWays n set) x.1)).setReg (SP_FAULT_KEY n) (BitVec.ofNat 64 e.key.toNat)
        s.spFault n e.tag spEntryEcc (s.task n e.tag).nextId
      else s.bump (SP_ECC_CORR n) 1) s

/-- Whether an update's key is out of range (R111). -/
def State.keyOut (s : State) (n : Nat) (u : Upd) : Bool :=
  let m := s.get (SP_SESSION n u.tag) SP_SESSION.KEY_LIMIT
  2 ^ 32 ≤ u.key || u.key = padKey || (m ≠ 0 && m ≤ u.key)

/-- An update leaves the queue. -/
def State.updTaken (s : State) (n : Nat) (u : Upd) : State := s.modCh n fun c => { c with updQ := c.updQ.erase u }

/-- Whether an update is still taken: its task runs or is being preempted, or it belongs to a drain that goes on (R76). -/
def State.updMoves (s : State) (n : Nat) (u : Upd) : Bool :=
  s.live n u.tag || s.tstate n u.tag = tSaving
    || (s.drains n u.tag && (s.ch n).arr.any fun a => a.phase == .draining && a.tag = u.own && a.id = u.id)

/-- SUMP_UPDATE (R112): the first update that waits at a bank. -/
def execSumpUpdate (n : Ch) (bank : Fin 16) (ecc : List (Fin 4 × Bool)) (s : State) : Out :=
  let seed := (s.ch n).seed
  match (s.ch n).updQ.find? fun u => sumpSet seed (u.key % 2 ^ 32) % 16 = bank.val with
  | none => .next s
  | some u =>
    let done (s : State) : State := ((((s.updTaken n u).showSump n).showFlowWaits n).progress n u.tag).listSettle n u.own u.id
    if !s.updMoves n u then .next s
    else if s.keyOut n u then
      if s.tolerant n u.tag then .next (done (s.bump (SP_TOL_RANGE n u.tag) 1))
      else
        .next ((s.setReg (SP_FAULT_KEY n) (BitVec.ofNat 64 (u.key % 2 ^ 32))).spFault n u.tag spKeyRange
          (if u.own = u.tag then u.id else (s.task n u.tag).nextId))
    else
      let set := sumpSet seed u.key
      let s := s.sumpEcc n set ecc
      let r := applyUpd (s.sumInt n u.tag) (s.sumpWays n set) u
      if r.out.isSome ∧ 64 ≤ (s.ch n).spill.length then .next (s.showSump n)
      else
        let s := s.setWays n set r.ways
        let s := s.modTask n u.tag fun k => { k with sumSat := k.sumSat || r.sat }
        let s := s.tally n 0x301 (.tag u.tag) 1
        let s := if r.hit then s.tally n 0x302 (.tag u.tag) 1 else s
        let s := if r.evict then (s.bump (SP_EVICT n u.tag) 1).tally n 0x303 (.tag u.tag) 1 else s
        let s := match r.out with
          | some e => s.spillPut n e u.id
          | none => s
        .next (done s)

/-- SPILL_RUN_WRITTEN (R113): the oldest run has reached its region, its write transfers complete; a buffer that filled meanwhile is
emptied. -/
def execSpillRunWritten (n : Ch) (s : State) : Out :=
  match (s.ch n).runs with
  | [] => .next s
  | r :: rest =>
    if (s.ch n).runs.length ≤ s.runsDue n then .next s
    else
      let s := (s.modCh n fun c => { c with runs := rest }).tally n 0x304 (.tag r.tag) 1
      .next (((s.emptySpill n).showSump n).progress n r.tag)

/-! ### SUMP_DRAIN (R114) -/

/-- Resident entries of a tag in increasing bank, set and way. -/
def Chamber.residents (c : Chamber) (t : Nat) : List Entry :=
  (List.range 16).flatMap fun b => (List.range 64).flatMap fun k =>
    ((kget c.sump (k * 16 + b) []).filter fun x => x.2.tag = t).map fun x => (x.2.key.toNat, x.2.value)

/-- Cut a list into pieces of 64. -/
def chunks64 (fuel : Nat) (l : List Entry) : List (List Entry) :=
  match fuel with
  | 0 => []
  | fuel + 1 => if l.isEmpty then [] else l.take 64 :: chunks64 fuel (l.drop 64)

/-- Flush a tag's entries as runs (R114, step 1). -/
def State.flushTag (s : State) (n t id : Nat) : State :=
  let s := s.flushSpill n t id
  let int := s.sumInt n t
  let s := (chunks64 65 ((s.ch n).residents t)).foldl (fun (s : State) g =>
    if s.live n t || s.tstate n t = tSaving then s.newRun n t (combineEntries int [] g).1 id else s) s
  s.modCh n fun c => { c with sump := (c.sump.map fun x =>
    (x.1, x.2.foldl (fun l e => if e.2.tag = t then dropWay l e.1 else l) x.2)).filter fun x => !x.2.isEmpty }

/-- Whether an earlier producer of a tag is not complete (R114): one of its own instructions, or a packed ARRAY of another task
with a column group of the tag. -/
def State.producerBefore (s : State) (n t id seq : Nat) : Bool :=
  ((s.ch n).arr.any fun a => a.seq < seq && aDest a.word && aDrain a.word && a.tiles.any fun u => u.tag = t && !u.gone)
  || (s.task n t).window.any fun i => i.id < id &&
    match opcode i.word with
    | 0x31 => true
    | 0x30 => nbit i.word.toNat 25
    | 0x40 => aDest i.word && aDrain i.word
    | 0x50 => true
    | _ => false

/-- Whether entry `i` of a list lies within a destination, whose elements are 32 bits: its value is element 2i + 1. -/
def entryIn (d : BitVec 512) (i : Nat) : Bool := decide (2 * i + 1 < dCount d) && dInBounds d (2 * i + 1)

/-- The merge is over: the entries go to the destination; when they are written the drain is over (`State.sumpDone`; R114, step 4). NAN
tells of values that are written (R117, Table 15). -/
def State.sumpClose (s : State) (n : Nat) (d : SumpDrain) (es : List Entry) : State :=
  let dst := (s.startOf n 2 d.tag d.id).map (·.d)
  let nan := !s.sumInt n d.tag && es.zipIdx.any fun e => (f32 e.1.2).isNan && dst.any fun x => entryIn x e.2
  let s := s.modCh n fun c => { c with sumpDrain := some { d with closed := some (es.length, nan) } }
  (((s.feedList n d.tag d.id es).listSettle n d.tag d.id).takeSeed n).showSump n

/-- SUMP_DRAIN_START (R114): the earlier producers are complete, and the tag's entries are flushed as runs. -/
def execSumpDrainStart (n : Ch) (s : State) : Out :=
  match (s.ch n).lists with
  | [] => .next s
  | l :: _ =>
    if opcode l.word ≠ 0x61 ∨ l.done ∨ (s.ch n).sumpDrain.isSome ∨ !s.live n l.tag ∨ s.lauterBefore n l.seq
        ∨ s.producerBefore n l.tag l.id l.seq ∨ !s.ready n 2 l.tag l.id then .next s
    else
      let s := s.flushTag n l.tag l.id
      let r := s.get (SP_SPILL_USE n l.tag) SP_SPILL_USE.USED
      let d : SumpDrain := { id := l.id, tag := l.tag, runs := r, total := r }
      let s := (s.modCh n fun c => { c with sumpDrain := some d }).progress n l.tag
      if r = 0 ∧ s.live n l.tag then .next (s.sumpClose n d []) else .next (s.showSump n)

/-- Read a run of `k` slots from slot `j` on, up to its first padding entry. -/
def State.readRun (s : State) (n t half j k : Nat) : Except (Option (Nat × Nat)) (List Entry) × State :=
  match s.consume n t (s.runVa n t half j) (512 * k) with
  | (.ok b _ _, s) => (.ok ((entriesOf (64 * k) b).takeWhile fun e => e.1 != padKey), s)
  | (.fault c va, s) => (.error (some (c, va)), s)
  | (.wait, s) => (.error none, s)

/-- Run slots of run `j` of a drain: the last one may have fewer than the others. -/
def SumpDrain.slots (d : SumpDrain) (j size : Nat) : Nat := min size (d.total - j * size)

/-- Merge runs `2i` and `2i + 1` (an odd last run stands alone). -/
def State.mergePair (s : State) (n : Nat) (d : SumpDrain) (i : Nat) :
    Except (Option (Nat × Nat)) (List Entry) × State :=
  match s.readRun n d.tag d.half (2 * i * d.size) (d.slots (2 * i) d.size) with
  | (.error e, s) => (.error e, s)
  | (.ok a, s) =>
    if d.runs ≤ 2 * i + 1 then (.ok a, s)
    else
      match s.readRun n d.tag d.half ((2 * i + 1) * d.size) (d.slots (2 * i + 1) d.size) with
      | (.error e, s) => (.error e, s)
      | (.ok b, s) =>
        let (es, sat) := combineEntries (s.sumInt n d.tag) a b
        (.ok es, s.modTask n d.tag fun k => { k with sumSat := k.sumSat || sat })

/-- One pass over the runs of a drain: neighbours are merged into the other half (R114, step 3). -/
def State.mergePass (s : State) (n : Nat) (d : SumpDrain) : Except (Option (Nat × Nat × Nat)) Unit × State :=
  (List.range (cdiv d.runs 2)).foldl (fun (acc : Except (Option (Nat × Nat × Nat)) Unit × State) i =>
    match acc with
    | (.error e, s) => (.error e, s)
    | (.ok _, s) =>
      match s.mergePair n d i with
      | (.error (some (c, va)), s) => (.error (some (c, va, 0)), s)
      | (.error none, s) => (.error none, s)
      | (.ok es, s) =>
        let k := d.slots i (2 * d.size)
        let s := if d.half = 0 then s.modCh n fun c => { c with
            sumpDrain := c.sumpDrain.map fun (x : SumpDrain) => { x with other := max x.other (2 * i * d.size + k) } }
          else s
        match s.writeVa n d.tag (s.runVa n d.tag (1 - d.half) (2 * i * d.size)) (runBytes k es) { w := true } false with
        | (none, s) => (.ok (), s)
        | (some (c, va), s) => (.error (some (c, va, 1)), s)) (.ok (), s)

/-- The byte ranges that a pass touches (R114): the runs read, an even one by read engine 0 and its neighbour by 1, and those written. -/
def State.passRanges (s : State) (n : Nat) (d : SumpDrain) : List (Nat × Nat × Nat × Nat) × List (Nat × Nat) :=
  let at_ (half j : Nat) : Nat := s.runVa n d.tag half (j * d.size)
  ((List.range d.runs).map fun j => (j % 2, d.tag, at_ d.half j, 512 * d.slots j d.size),
   if d.runs ≤ 2 then [] else (List.range (cdiv d.runs 2)).map fun i => (at_ (1 - d.half) (2 * i), 512 * d.slots i (2 * d.size)))

/-- The arbiters that a pass needs (R237). -/
def State.passRoute (s : State) (n : Nat) (d : SumpDrain) : List (Nat × Nat) :=
  let r := s.passRanges n d
  s.readRoute n r.1 ++ (pageSplit r.2).flatMap fun x =>
    match (s.translate n (s.task n d.tag).xlat x.1 { w := true }).1 with
    | .ok (pa, leaf) => if leafRemote leaf then [(n * 4 + 3, 2)] else routeOf n 2 pa x.2 true ++ s.missRoute pa x.2
    | .error _ => []

/-- A merge pass acts: over the runs of one half into the other; the last writes to the destination. -/
def State.mergeRun (s : State) (n : Nat) (d : SumpDrain) : State :=
  if d.runs ≤ 2 then
    match s.mergePair n d 0 with
    | (.ok es, s) => (s.sumpClose n d es).progress n d.tag
    | (.error (some (c, va)), s) => s.memFault n d.tag c va 0 d.id
    | (.error none, s') => s'.keepReads s n
  else
    match s.mergePass n d with
    | (.ok _, s) =>
      let on (x : SumpDrain) : SumpDrain := { x with runs := cdiv d.runs 2, half := 1 - d.half, size := 2 * d.size }
      (s.modCh n fun c => { c with sumpDrain := c.sumpDrain.map on }).progress n d.tag
    | (.error (some (c, va, k)), s) => s.memFault n d.tag c va k d.id
    | (.error none, s') => s'.keepReads s n

/-- SUMP_MERGE_PASS (R114): one pass, through the Lauter's read engines and the write engine, once its transfers have passed their
arbiters. -/
def execSumpMergePass (n : Ch) (s : State) : Out :=
  match (s.ch n).sumpDrain with
  | none => .next s
  | some d =>
    if !s.live n d.tag ∨ d.closed.isSome ∨ (s.ch n).runs.any (fun r => r.tag = d.tag) then .next s
    else .next (s.arbitrate (taskReq n d.tag 6 d.id) (s.passRoute n d) fun s => s.mergeRun n d)

end Sys2Proof.Machine
end

