-- ==== Sys2Proof/Machine/FlowOps.lean ====
section
/-! DEFINITION. What Flowstone's lanes compute (R119, R127 to R143): stages, masks, permutes, scans, the reduction unit
and sampling. A row is a list of its N lane words. -/

namespace Sys2Proof.Machine

/-- A lane word. -/
abbrev Lw := BitVec 32

/-- A stage word (R126, Table 4). -/
structure Stg where
  op : Nat
  a : Nat
  b : Nat
  c : Nat
  msel : Nat
  mzero : Bool
  sub : Nat
  param : Nat
  imm : Lw
  deriving DecidableEq, Repr

/-- Read a stage word. -/
def stgOf (w : Word) : Stg :=
  { op := fget w FS_CHAIN_STG.OP, a := fget w FS_CHAIN_STG.SRC_A, b := fget w FS_CHAIN_STG.SRC_B,
    c := fget w FS_CHAIN_STG.SRC_C, msel := fget w FS_CHAIN_STG.MASK_SEL, mzero := fget w FS_CHAIN_STG.MASK_MODE = 1,
    sub := fget w FS_CHAIN_STG.SUB, param := fget w FS_CHAIN_STG.PARAM,
    imm := BitVec.ofNat 32 (fget w FS_CHAIN_STG.IMM) }

/-- Slots of a stage code (R128, Table 5); `none` for a reserved code. -/
def stageSlots (op : Nat) : Option Nat :=
  if op ≤ 0x0A then some 1
  else if 0x10 ≤ op ∧ op ≤ 0x17 then some 2
  else if op = 0x18 ∨ op = 0x19 then some 3
  else if 0x20 ≤ op ∧ op ≤ 0x2B then some 1
  else if op = 0x30 ∨ op = 0x31 then some 1
  else if 0x38 ≤ op ∧ op ≤ 0x3B then some 1
  else if op = 0x40 then some 2
  else if op = 0x41 then some 3
  else if op = 0x42 then some 4
  else if op = 0x43 then some 1
  else none

/-- Codes that read operand B. -/
def usesB (op : Nat) : Bool :=
  [0x01, 0x02, 0x03, 0x04, 0x05, 0x06, 0x09, 0x0A, 0x13, 0x20, 0x21, 0x22, 0x23, 0x24, 0x25, 0x26, 0x27, 0x28, 0x29, 0x3B,
   0x40, 0x41, 0x43].contains op

/-- Codes that read operand C. -/
def usesC (op : Nat) : Bool := op == 0x04 || op == 0x40 || op == 0x41

/-- Whether a stage reads operand B: SHUFFLE reads it for the interleaving variants only (R132). -/
def Stg.readsB (g : Stg) : Bool := usesB g.op || (g.op == 0x39 && g.sub != 4)

/-- The source codes a stage reads. -/
def Stg.srcs (g : Stg) : List Nat := [g.a] ++ (if g.readsB then [g.b] else []) ++ (if usesC g.op then [g.c] else [])

/-- The largest SUB of a stage code that has variants (R128, R132, R142). -/
def subMax (op : Nat) : Nat :=
  match op with
  | 0x09 => 6
  | 0x29 => 5
  | 0x39 => 4
  | 0x42 => 1
  | 0x30 => 7
  | 0x31 => 7
  | _ => 15

/-- Whether source code `x` of stage `i` is X (R127). -/
def isX (i x : Nat) : Bool := x == 1 || (x == 0 && i == 0)

/-! ### Lane arithmetic -/

/-- Whether a word's sign bit is set. -/
def negW (a : Lw) : Bool := a.getLsbD 31

/-- MAX (R128). -/
def fmaxW (a b : Lw) : Lw :=
  if (f32 a).isNan || (f32 b).isNan then qnan32
  else if (f32 a).lt (f32 b) then b
  else if (f32 b).lt (f32 a) then a
  else if negW a then b else a

/-- MIN (R128). -/
def fminW (a b : Lw) : Lw :=
  if (f32 a).isNan || (f32 b).isNan then qnan32
  else if (f32 a).lt (f32 b) then a
  else if (f32 b).lt (f32 a) then b
  else if negW a then a else b

/-- The comparison of CMP (R128). -/
def cmpF (sub : Nat) (a b : Lw) : Bool :=
  let x := f32 a
  let y := f32 b
  match sub with
  | 0 => x.eq y
  | 1 => !x.eq y
  | 2 => x.lt y
  | 3 => x.lt y || x.eq y
  | 4 => y.lt x
  | 5 => y.lt x || x.eq y
  | _ => x.isNan || y.isNan

/-- The comparison of ICMP. -/
def cmpI (sub : Nat) (a b : Lw) : Bool :=
  match sub with
  | 0 => a == b
  | 1 => a != b
  | 2 => decide (i32 a < i32 b)
  | 3 => decide (i32 a ≤ i32 b)
  | 4 => decide (i32 b < i32 a)
  | _ => decide (i32 b ≤ i32 a)

/-- SMNORM of `x`, `m`, `s` (R139) in an active lane: the word, and whether rule 2 counts the row empty. -/
def smnorm (x m z : Lw) : Lw × Bool :=
  if (f32 m).isNan || (f32 z).isNan then (qnan32, false)
  else if z = 0 then (0, true)
  else if (f32 x).eq (f32 m) then (fnRcp z, false)
  else if (f32 m).isInf then (0, false)
  else (fnDiv (fnExp (fadd x (m ^^^ 0x80000000))) z, false)

/-- The noise of SAMPLE (R142), modulo 2⁶⁴. -/
def gumbel (seed : BitVec 64) (step k : Nat) : Lw :=
  let z := seed ^^^ BitVec.ofNat 64 (step * 2 ^ 32 + k)
  let z := (z ^^^ (z >>> 30)) * 0xBF58476D1CE4E5B9
  let z := (z ^^^ (z >>> 27)) * 0x94D049BB133111EB
  let z := z ^^^ (z >>> 31)
  let u := toF32 (.fin false (2 * (z.toNat / 2 ^ 41) + 1) (-24))
  fnLog (fnLog u ^^^ 0x80000000) ^^^ 0x80000000

/-- What SAMPLE reads of the tag: seed, step, index base. -/
structure Sampling where
  seed : BitVec 64
  step : Nat
  base : Nat

/-- The result of an elementwise stage in one lane with its flags (R128 to R130); `k` is the position in the row. -/
def laneOp (g : Stg) (q : Sampling) (p : Bool) (k : Nat) (a b c : Lw) : Lw × NumFlags :=
  let f (w : Lw) : Lw × NumFlags := (w, {})
  let int (r : BitVec 32 × Bool) : Lw × NumFlags := (r.1, { sat := r.2 })
  match g.op with
  | 0x01 => f (fadd a b)
  | 0x02 => f (toF32 ((f32 a).sub (f32 b)))
  | 0x03 => f (fmul a b)
  | 0x04 => f (ffma a b c)
  | 0x05 => f (fmaxW a b)
  | 0x06 => f (fminW a b)
  | 0x07 => f (if (f32 a).isNan then qnan32 else a &&& 0x7FFFFFFF)
  | 0x08 => f (if (f32 a).isNan then qnan32 else a ^^^ 0x80000000)
  | 0x0A => f (if p then a else b)
  | 0x10 =>
    let w := fnExp a
    (w, { infOut := (f32 a).isFin && (f32 w).isInf })
  | 0x11 => f (fnLog a)
  | 0x12 => f (fnRcp a)
  | 0x13 => f (fnDiv a b)
  | 0x14 => f (fnSqrt a)
  | 0x15 => f (fnRsqrt a)
  | 0x16 => f (fnTanh a)
  | 0x17 => f (fnSigmoid a)
  | 0x18 => f (fnSilu a)
  | 0x19 => f (fnGelu a)
  | 0x20 => int (satI32 (i32 a + i32 b))
  | 0x21 => int (satI32 (i32 a - i32 b))
  | 0x22 => f (a * b)
  | 0x23 => f (a &&& b)
  | 0x24 => f (a ||| b)
  | 0x25 => f (a ^^^ b)
  | 0x26 => f (a <<< (b.toNat % 32))
  | 0x27 => f (a >>> (b.toNat % 32))
  | 0x28 => f (a.sshiftRight (b.toNat % 32))
  | 0x2A => f (toF32 (Num.ofInt (i32 a)))
  | 0x2B =>
    let r := convertInt 32 (f32 a)
    (BitVec.ofNat 32 r.bits, { sat := r.sat, nanLost := r.nanLost })
  | 0x41 => f (smnorm a b c).1
  | 0x42 =>
    if g.sub = 1 then f a
    else f (ffma a g.imm (gumbel q.seed q.step (q.base + k)))
  | _ => f a

/-- The lane that a SHUFFLE lane reads: `false` operand A, `true` operand B (R132). -/
def shuffleFrom (sub param i : Nat) : Bool × Nat :=
  match sub with
  | 0 => (i % 2 = 1, i / 2)
  | 1 => (i % 2 = 1, i / 2 + 32)
  | 2 => if i < 32 then (false, 2 * i) else (true, 2 * i - 64)
  | 3 => if i < 32 then (false, 2 * i + 1) else (true, 2 * i - 63)
  | _ => (false, (i + param) % 64)

/-- A word of a row; a lane that does not exist (R122) gives a free value (log entry 6). -/
def laneAt (l : List Lw) (k ctr : Nat) : Lw := (l[k]?).getD ((Config.free (ctr + k)).setWidth 32)

/-- PERMUTE, SHUFFLE and ROPE: lane `k` of the row, in its vector of 64 (R132, R141). -/
def crossOp (g : Stg) (perm : List Nat) (ctr : Nat) (a b c : List Lw) (k : Nat) : Lw :=
  let v := k / 64 * 64
  let i := k % 64
  match g.op with
  | 0x38 =>
    let x := perm.getD i 0
    if nbit x 6 then 0 else laneAt a (v + x % 64) ctr
  | 0x39 =>
    let r := shuffleFrom g.sub g.param i
    laneAt (if r.1 then b else a) (v + r.2) ctr
  | _ =>
    let x := laneAt a k ctr
    let y := laneAt a (if i % 2 = 0 then k + 1 else k - 1) ctr
    let cs := laneAt b k ctr
    let sn := laneAt c k ctr
    if i % 2 = 0 then ffma x cs (fmul y sn ^^^ 0x80000000) else ffma x cs (fmul y sn)

/-- One element of a scan (R134): the running sum, none at the start of a segment; its result and the sum after it. -/
def scanStep (int excl : Bool) (run : Option Lw) (a : Lw) : Lw × Option Lw × Bool :=
  let (next, sat) := match run with
    | none => (if int then a else toF32 (f32 a), false)
    | some r => if int then satI32 (i32 r + i32 a) else (fadd r a, false)
  (if excl then run.getD 0 else next, some next, sat)

/-- SCAN and ISCAN over a row (R134): the elements are A, the segment flag and whether the lane is active. -/
def scanRow (int excl mzero : Bool) (run : Option Lw) (l : List (Lw × Bool × Bool)) : List Lw × Bool :=
  match l with
  | [] => ([], false)
  | (a, seg, act) :: r =>
    let run := if seg then none else run
    if act then
      let (w, run, sat) := scanStep int excl run a
      let (ws, x) := scanRow int excl mzero run r
      (w :: ws, x || sat)
    else
      let (ws, x) := scanRow int excl mzero run r
      ((if mzero then 0 else a) :: ws, x)

/-- The lanes that a mask selection takes: none, P, the mask stream, not P (R126). -/
def maskSel (sel : Nat) (p m : List Bool) : List Bool :=
  match sel with
  | 0 => p.map fun _ => true
  | 1 => p
  | 2 => m
  | _ => p.map (!·)

/-! ### Reductions (R135 to R140) -/

/-- Combine two nodes, of which either may be excluded. -/
def joinOpt {α : Type} (f : α → α → α) (a b : Option α) : Option α :=
  match a, b with
  | some x, some y => some (f x y)
  | some x, none => some x
  | none, y => y

/-- The balanced pairwise tree over the 64 lanes of a vector (R135). -/
def laneTree {α : Type} (f : α → α → α) (l : List (Option α)) : Option α :=
  (Nat.repeat (pairUp (joinOpt f)) 6 (l ++ List.replicate (64 - l.length) none)).headD none

/-- The running values of a row's reduction. -/
structure Red where
  n : Nat := 0
  sum : Acc := ⟨0, 0⟩
  prod : Lw := 0x3F800000
  best : Option (Lw × Nat) := none
  m : Lw := 0xFF800000
  z : Lw := 0
  nan : Bool := false
  deriving DecidableEq, Repr

/-- The better of two candidates for MAX or MIN (R136). -/
def better (big : Bool) (x y : Lw × Nat) : Lw × Nat :=
  let lower := if y.2 < x.2 then y else x
  match (f32 x.1).isNan, (f32 y.1).isNan with
  | true, true => lower
  | true, false => x
  | false, true => y
  | false, false =>
    if (f32 x.1).eq (f32 y.1) then lower
    else if (f32 x.1).lt (f32 y.1) then (if big then y else x) else (if big then x else y)

/-- `e(x)` against the maximum `m` (R138): 1 where equal, else EXP of the difference. -/
def smTerm (x m : Lw) : Lw := if (f32 x).eq (f32 m) then 0x3F800000 else fnExp (fadd x (m ^^^ 0x80000000))

/-- One vector of SMSTATS or SMMERGE (R138, R140): each taken lane's value and its partial sum, `none` for SMSTATS. -/
def Red.soft (r : Red) (l : List (Option (Lw × Option Lw))) : Red :=
  let nan := r.nan || l.any fun x => x.any fun y => (f32 y.1).isNan
  match laneTree fmaxW (l.map (Option.map Prod.fst)) with
  | none => r
  | some t =>
    if nan then { r with nan := true }
    else
      let m := fmaxW r.m t
      let term (x : Lw × Option Lw) : Lw :=
        match x.2 with
        | none => smTerm x.1 m
        | some z => fmul z (smTerm x.1 m)
      let sum := (laneTree fadd (l.map (Option.map term))).getD 0
      { r with m := m, z := fadd (fmul r.z (smTerm r.m m)) sum }

/-- Add a vector to the reduction: for every lane, its word, index and Y word, where it is taken (R135). -/
def Red.vector (r : Red) (kind : Nat) (comp : Bool) (l : List (Option (Lw × Nat × Lw))) : Red :=
  let n := (l.filter Option.isSome).length
  let r := { r with n := r.n + n }
  let ws := l.map (Option.map Prod.fst)
  if n = 0 then r
  else
    match kind with
    | 2 => { r with prod := fmul r.prod ((laneTree fmul ws).getD 0) }
    | 3 => { r with best := joinOpt (better true) r.best (laneTree (better true) (l.map (Option.map fun x => (x.1, x.2.1)))) }
    | 4 => { r with best := joinOpt (better false) r.best (laneTree (better false) (l.map (Option.map fun x => (x.1, x.2.1)))) }
    | 5 => r
    | 7 => r.soft (l.map (Option.map fun x => (x.1, none)))
    | 8 => r.soft (l.map (Option.map fun x => (x.1, some x.2.2)))
    | _ =>
      if comp then
        { r with sum := Acc.combine r.sum ((laneTree Acc.combine (ws.map (Option.map fun w => ⟨w, 0⟩))).getD ⟨0, 0⟩) }
      else { r with sum := ⟨fadd r.sum.s ((laneTree fadd ws).getD 0), 0⟩ }

/-- A count as FP32. -/
def countF (n : Nat) : Lw := toF32 (Num.ofInt n)

/-- The sum of SUM and MEAN. -/
def Red.total (r : Red) (comp : Bool) : Lw := if comp then toF32 r.sum.exact else r.sum.s

/-- The record of a row: V and W (R135, Table 7). -/
def Red.record (r : Red) (kind : Nat) (comp : Bool) : Lw × Lw :=
  let cnt := BitVec.ofNat 32 r.n
  match kind with
  | 1 => (r.total comp, cnt)
  | 2 => (r.prod, cnt)
  | 5 => (countF r.n, cnt)
  | 6 => (if r.n = 0 then qnan32 else fnDiv (r.total comp) (countF r.n), cnt)
  | 7 => if r.nan then (qnan32, qnan32) else (r.m, r.z)
  | 8 => if r.nan then (qnan32, qnan32) else (r.m, r.z)
  | _ =>
    match r.best with
    | some (v, i) => (if (f32 v).isNan then qnan32 else v, BitVec.ofNat 32 i)
    | none => (if kind = 3 then 0xFF800000 else 0x7F800000, 0xFFFFFFFF)

/-- Cut a row into its vectors. -/
def vectors {α : Type} (fuel : Nat) (l : List α) : List (List α) :=
  match fuel with
  | 0 => []
  | fuel + 1 => if l.isEmpty then [] else l.take 64 :: vectors fuel (l.drop 64)

end Sys2Proof.Machine
end

