-- ==== Sys2Proof/Machine/Flowstone.lean ====
section
/-! DEFINITION. Flowstone's commands (R118 to R149): CHAIN, the start of a chain with its checks, its rows, and its
completion. -/

namespace Sys2Proof.Machine

/-! ### Fields (R120, R126) -/

def cEntry (w : BitVec 128) : Nat := wf w 13 9
def cN (w : BitVec 128) : Nat := wf w 37 14
def cRows (w : BitVec 128) : Nat := wf w 53 38
/-- Vector reference `i` of an instruction: X, Y, Z, OUT, MASK, RED. -/
def cRef (w : BitVec 128) (i : Nat) : Nat := wf w (56 + 3 * i) (54 + 3 * i)
def cNoOut (w : BitVec 128) : Bool := nbit w.toNat 72

def Chain.fmtX (c : Chain) (i : Nat) : Nat :=
  fget c.header (if i = 0 then FS_CHAIN_HDR.FMT_X else if i = 1 then FS_CHAIN_HDR.FMT_Y else FS_CHAIN_HDR.FMT_Z)
def Chain.fmtOut (c : Chain) : Nat := fget c.header FS_CHAIN_HDR.FMT_OUT
def Chain.storeOp (c : Chain) : Nat := fget c.header FS_CHAIN_HDR.STORE_OP
def Chain.storeSel (c : Chain) : Nat := fget c.header FS_CHAIN_HDR.STORE_SEL
def Chain.reduce (c : Chain) : Nat := fget c.header FS_CHAIN_HDR.REDUCE
def Chain.comp (c : Chain) : Bool := fget c.header FS_CHAIN_HDR.COMP = 1 && (c.reduce == 1 || c.reduce == 6)
def Chain.idxSrc (c : Chain) : Bool := fget c.header FS_CHAIN_HDR.IDX_SRC = 1
def Chain.stgs (c : Chain) : List Stg := c.stages.map stgOf
def Chain.has (c : Chain) (op : Nat) : Bool := c.stgs.any fun g => g.op == op
def Chain.last (c : Chain) : Nat := (c.stgs.getLast?.map (·.op)).getD 0
def Chain.writesOut (c : Chain) : Bool := !cNoOut c.word && c.last != 0x43
def Chain.addp (c : Chain) : Bool := c.storeOp == 2

/-- Whether the chain uses vector reference `i` (R120, R123, R136, R140). -/
def Chain.uses (c : Chain) (i : Nat) : Bool :=
  let codes := c.stgs.zipIdx.flatMap fun x => x.1.srcs.map fun y => (x.2, y)
  match i with
  | 0 => c.has 0x3B || codes.any fun x => isX x.1 x.2
  | 1 => (codes.any fun x => x.2 == 2) || c.reduce == 8 || ((c.reduce == 3 || c.reduce == 4) && c.idxSrc)
  | 2 => codes.any fun x => x.2 == 3
  | 3 => c.writesOut
  | 4 => c.storeSel == 2
      || c.stgs.any fun g => g.msel == 2 || ((g.op == 0x30 || g.op == 0x31) && nbit g.sub 1 && nbit g.sub 2)
  | _ => c.reduce != 0

/-- A vector reference (R121, Table 2). -/
structure VRef where
  base : Nat
  fill : Nat
  es : Int
  rs : Int
  bound : Nat

/-- Reference `i` of a chain. -/
def Chain.ref (c : Chain) (i : Nat) : VRef :=
  let w := c.refs.getD i (0, 0)
  { base := fget w.1 FS_VREF0.BASE, fill := fget w.1 FS_VREF0.FILL,
    es := signed 12 (fget w.2 FS_VREF1.ELEM_STRIDE), rs := signed 28 (fget w.2 FS_VREF1.ROW_STRIDE),
    bound := fget w.2 FS_VREF1.BOUND }

/-- Bits of an element of reference `i`. -/
def Chain.refBits (c : Chain) (i : Nat) : Nat :=
  if i < 3 then fmtBits (c.fmtX i)
  else if i = 3 then (if c.addp then 64 else fmtBits c.fmtOut)
  else if i = 4 then 1 else 64

/-- Bit address of element `e` of row `r` of reference `i` (R121, R123, R125). -/
def Chain.bitAddr (c : Chain) (i r e : Nat) : Int :=
  let v := c.ref i
  if i = 5 then (v.base : Int) * 8 + 64 * (r : Int) * v.es
  else (v.base : Int) * 8 + ((r : Int) * v.rs + (e : Int) * v.es) * (c.refBits i : Int)

/-! ### The start of a chain (R118, R121 to R126, R146) -/

/-- The first stage that breaks R126, for FS_FAULT.STAGE; 0 for the header. A format code is checked under R124. R133 forbids X to stages
other than UNPACK and does not say what X as UNPACK's own B would read: it breaks the rule too (DESIGN CHOICE, log entry 113). -/
def Chain.bad (c : Chain) : Option Nat :=
  let n := fget c.header FS_CHAIN_HDR.STAGES
  let gs := c.stgs.zipIdx
  let hdr := n = 0 || 8 < n || c.storeOp == 3 || 8 < c.reduce
  let cmpBefore (i : Nat) : Bool := gs.any fun x => x.2 < i && (x.1.op == 0x09 || x.1.op == 0x29)
  let slots (i : Nat) : Nat := ((c.stgs.take (i + 1)).map fun g => (stageSlots g.op).getD 0).foldl (· + ·) 0
  let stage (x : Stg × Nat) : Bool :=
    let g := x.1
    8 < slots x.2 || (stageSlots g.op).isNone || 5 < g.a || 5 < g.b || 5 < g.c || subMax g.op < g.sub
    || ((g.op == 0x3A || g.op == 0x43) && x.2 + 1 != n)
    || ((g.msel == 1 || g.msel == 3) && !cmpBefore x.2)
    || (g.op == 0x3B && !isX x.2 g.a)
    || (g.op == 0x3B && gs.any fun y => y.2 < x.2 && y.1.op == 0x3B)
    || (c.has 0x3B && ((if g.op == 0x3B then g.srcs.drop 1 else g.srcs).any (isX x.2)))
  if hdr then some 0
  else
    match gs.find? stage with
    | some x => some x.2
    | none =>
      if (c.storeSel == 1 || c.storeSel == 3) && !cmpBefore n then some (n - 1)
      else if c.last = 0x3A && (c.storeSel != 0 || (c.reduce != 0 && c.reduce != 5)) then some (n - 1)
      else if c.last = 0x43 && (c.reduce != 0 || (c.fmtOut != 0 && c.fmtOut != 10)) then some (n - 1)
      else none

/-- Formats that Flowstone does not load or store, and reserved format codes (R18, R124, R125; log entry 89). -/
def Chain.badFormat (c : Chain) : Bool :=
  10 < c.fmtX 0 || 10 < c.fmtX 1 || 10 < c.fmtX 2 || 10 < c.fmtOut
  || ((List.range 3).any fun i => c.uses i && !([0, 1, 2, 3, 7, 10].contains (c.fmtX i)))
  || (c.writesOut && (8 < c.fmtOut || (c.addp && c.fmtOut != 0)))

/-- Misaligned BASE, or a mask with ELEM_STRIDE ≠ 1 (R121, R123). -/
def Chain.badRef (c : Chain) (i : Nat) : Bool :=
  let k := if i = 3 && c.addp then 4 else c.refBits i / 8
  (k != 0 && (c.ref i).base % k != 0) || (i = 4 && (c.ref i).es != 1)

/-- Byte ranges of reference `i`'s elements of row `r` in bounds (R121, R122, R205). -/
def Chain.rowSpans (c : Chain) (i r : Nat) : List (Int × Nat) :=
  let v := c.ref i
  let k := if i = 5 then bit (decide (r < v.bound))
    else if v.es = 0 && i < 3 then min 1 (min v.bound (cN c.word)) else min v.bound (cN c.word)
  (List.range k).map fun e =>
    let a := c.bitAddr i r e
    (a / 8, ((a % 8).toNat + c.refBits i + 7) / 8)

/-- Byte ranges of reference `i`'s elements in bounds. -/
def Chain.spans (c : Chain) (i : Nat) : List (Int × Nat) := (List.range (cRows c.word)).flatMap (c.rowSpans i)

/-- What a reference needs of its pages (R201, Table 5). -/
def Chain.need (c : Chain) (i : Nat) : Need :=
  if i < 3 ∨ i = 4 then { r := true } else if i = 3 then { r := c.storeOp != 0, w := true } else { w := true }

/-- Translate the footprint of a reference: its physical ranges and pages, or the fault (R121). An address below 0 lies outside the
address space (R201). -/
def State.chainFoot (s : State) (n : Nat) (c : Chain) (i : Nat) :
    Except (Nat × Nat) (List (Nat × Nat) × List (Nat × Nat)) × State :=
  match s.footprint n (s.task n c.tag).xlat ((c.spans i).map fun x => ((x.1 % 2 ^ 64).toNat, x.2)) (c.need i) with
  | (.error e, s) => (.error e, s)
  | (.ok (f, pg), s) => if f.all fun x => ownPocket n x.1 x.2 then (.ok (f, pg), s) else (.error (fsBadRef, 0), s)

/-- The footprints of every reference a chain uses, with the pages met, or the first fault (R121). -/
def State.chainFeet (s : State) (n : Nat) (c : Chain) :
    Except (Nat × Nat × Need) (List (Nat × List (Nat × Nat)) × List (Nat × Nat)) × State :=
  ((List.range 6).filter c.uses).foldl
    (fun (a : Except (Nat × Nat × Need) (List (Nat × List (Nat × Nat)) × List (Nat × Nat)) × State) i =>
      match a with
      | (.error e, s) => (.error e, s)
      | (.ok (fs, pg), s) =>
        match s.chainFoot n c i with
        | (.error e, s) => (.error (e.1, e.2, c.need i), s)
        | (.ok (f, p), s) => (.ok (kset fs i f, p.foldl (fun m x => kset m x.1 x.2) pg), s)) (.ok ([], []), s)

/-- Forbidden overlaps (R146). Under ADDP the output's strides count pairs, and none is the same as an input's: an overlap with an input
of equal BASE and stride fields faults (DESIGN CHOICE, log entry 113). -/
def Chain.badOverlap (c : Chain) (foot : List (Nat × List (Nat × Nat))) : Bool :=
  let f (i : Nat) : List (Nat × Nat) := kget foot i []
  let same (i : Nat) : Bool :=
    let o := c.refs.getD 3 (0, 0)
    let v := c.refs.getD i (0, 0)
    i < 3 && !c.addp && c.fmtOut == c.fmtX i && fget o.1 FS_VREF0.BASE == fget v.1 FS_VREF0.BASE
      && fget o.2 FS_VREF1.ELEM_STRIDE == fget v.2 FS_VREF1.ELEM_STRIDE
      && fget o.2 FS_VREF1.ROW_STRIDE == fget v.2 FS_VREF1.ROW_STRIDE && !(i = 0 && c.has 0x3B)
  ([0, 1, 2, 4, 5].any fun i => overlaps (f 3) (f i) && !same i)
  || ([0, 1, 2, 4].any fun i => overlaps (f 5) (f i))

/-- Show the engine in FS_STATUS (R149, Table 12). -/
def State.showFlow (s : State) (n : Nat) : State :=
  match (s.ch n).chains.find? (·.running) with
  | none => s.setReg (FS_STATUS n) 0
  | some c =>
    let s := s.setReg (FS_STATUS n) 0
    let s := s.set (FS_STATUS n) FS_STATUS.BUSY 1
    let s := s.set (FS_STATUS n) FS_STATUS.CHAIN (cEntry c.word)
    let s := s.set (FS_STATUS n) FS_STATUS.TAG c.tag
    (s.set (FS_STATUS n) FS_STATUS.ROW c.row).showFlowWaits n

/-- A Flowstone fault (R148, R149). -/
def State.fsFault (s : State) (n t code stage id : Nat) : State :=
  (s.recFault (FS_FAULT n) FS_FAULT.CODE FS_FAULT.LOST code [(FS_FAULT.TAG, t), (FS_FAULT.STAGE, stage)]).taskFault n t code id

/-- Change a chain. -/
def State.modChain (s : State) (n : Nat) (c : Chain) (f : Chain → Chain) : State :=
  s.modCh n fun h => { h with chains := h.chains.map fun (x : Chain) => if x.tag = c.tag && x.id = c.id then f x else x }

/-- CHAIN (R120): the instruction joins Flowstone's queue; ROWS = 0 completes at once. -/
def execChain (n : Ch) (t : Tag) (s : State) : Out :=
  s.issue n t 0x50 fun w pc =>
    let id := (s.task n t).headId
    let s := s.take n t true
    if cRows w = 0 then .next (s.complete n t id)
    else .next (s.modCh n fun c => { c with chains := c.chains ++ [{ id := id, tag := t, pc := pc, word := w }] })

/-- Whether the tag's session is open for a chain: no SUMP_DRAIN issued ahead of it has closed it (R110, R143). -/
def State.sessionOpenFor (s : State) (n t id : Nat) : Bool :=
  s.get (SP_SESSION n t) SP_SESSION.OPEN = 1
    || (s.ch n).lists.any fun l => l.tag = t && opcode l.word = 0x61 && !l.done && decide (id < l.id)

/-- The entry and references of a chain as they stand when it starts: one resumed keeps those it started with (R126, R132,
R147). -/
def State.chainLoad (s : State) (n : Nat) (c : Chain) : Chain :=
  if c.refs.length = 6 then { c with running := true, parked := false } else
  let e := cEntry c.word
  let hdr := s.reg (FS_CHAIN_HDR n e)
  { c with
    running := true
    parked := false
    header := hdr
    stages := (List.range (min 8 (fget hdr FS_CHAIN_HDR.STAGES))).map fun j => s.reg (FS_CHAIN_STG n e j)
    perm := (List.range 64).map fun i => fget (s.reg (FS_PERM n (i / 8))) ⟨8 * (i % 8), 7⟩
    refs := (List.range 6).map fun i =>
      (s.reg (FS_VREF0 n c.tag (cRef c.word i)), s.reg (FS_VREF1 n c.tag (cRef c.word i))) }

/-- CHAIN_START (R118, R126): the first chain of the queue starts once none runs; its entry, formats, session, references
and overlaps are checked. -/
def execChainStart (n : Ch) (s : State) : Out :=
  match (s.ch n).chains with
  | [] => .next s
  | c0 :: _ =>
    if c0.running ∨ !s.live n c0.tag then .next s
    else
      let c := s.chainLoad n c0
      let t := c.tag
      let scatter := c.last = 0x43
      match c.bad with
      | some g => .next (s.fsFault n t fsBadChain g c.id)
      | none =>
        if c.badFormat then .next (s.taskFault n t chIllegalFormat c.id)
        else if scatter ∧ s.sessionOpenFor n t c.id ∧ c.fmtOut ≠ (if s.sumInt n t then 10 else 0) then
          .next (s.taskFault n t chIllegalFormat c.id)
        else if scatter ∧ !s.sessionOpenFor n t c.id then .next (s.spFault n t spSession c.id)
        else
          let used := (List.range 6).filter c.uses
          if used.any c.badRef then .next (s.fsFault n t fsBadRef 0 c.id)
          else
            match s.chainFeet n c with
            | (.error (code, va, need), u) =>
              if code = fsBadRef then .next (s.orHeld (u.fsFault n t code 0 c.id))
              else .next (s.orHeld (u.memFault n t code va (bit need.w) c.id))
            | (.ok (fs, pg), u) =>
              if c.badOverlap fs then .next (s.orHeld (u.fsFault n t fsOverlap 0 c.id))
              else .next (s.orHeld (((u.modChain n c fun _ => { c with pages := pg }).progress n t).showFlow n))

/-! ### Rows (R122 to R125, R131 to R143) -/

/-- Work on a row: the state goes on, a fault ends it with its code and address. -/
abbrev FM := ExceptT (Nat × Nat) (StateM State)

/-- Bytes that a vector has written and that memory does not hold yet: address, value, mask. -/
abbrev Overlay := List (Nat × (Nat × Nat × Bool))

/-- The physical address of a byte of a chain. -/
def Chain.pa (c : Chain) (va : Nat) : Nat := kget c.pages (va / 0x10000) 0 * 0x10000 + va % 0x10000

/-- Read `b` bits at a bit address of the pocket, each codeword once, over what the vector has written; poison faults (R209). -/
def rdBits (n : Nat) (c : Chain) (ov : Overlay) (a : Int) (b : Nat) : FM Nat := do
  let va := (a / 8).toNat
  let sh := (a % 8).toNat
  let k := (sh + b + 7) / 8
  let s ← get
  let pas := (List.range k).map fun i => c.pa (va + i)
  let (m, s) := readCws s (pas.map (· / 32))
  let bs := pas.map fun p => ((kget m (p / 32) ([], false)).1).getD (p % 32) 0
  set (s.tally n 0x704 (.tag c.tag) k)
  if pas.any fun p => (kget m (p / 32) ([], false)).2 then throw (clPocketUncorr, va)
  let l := bs.zipIdx.map fun x =>
    let o := kget ov (c.pa (va + x.2)) (0, 0, false)
    (x.1.toNat &&& (255 - o.2.1)) ||| o.1
  pure (l.foldr (fun x y => x + 256 * y) 0 / 2 ^ sh % 2 ^ b)

/-- Put `b` bits at a bit address into what the vector has written. -/
def wrBits (c : Chain) (ov : Overlay) (a : Int) (b x : Nat) : Overlay :=
  let va := (a / 8).toNat
  let sh := (a % 8).toNat
  let m := (2 ^ b - 1) * 2 ^ sh
  let v := x % 2 ^ b * 2 ^ sh
  (List.range ((sh + b + 7) / 8)).foldl (fun o i =>
    let k := m / 256 ^ i % 256
    let y := kget o (c.pa (va + i)) (0, 0, false)
    kset o (c.pa (va + i)) ((y.1 &&& (255 - k)) ||| v / 256 ^ i % 256, y.2.1 ||| k, false)) ov

/-- The lane word of a loaded element (R124). -/
def loadWord (fmt x : Nat) : Lw :=
  match fmt with
  | 0 => BitVec.ofNat 32 x
  | 10 => BitVec.ofNat 32 x
  | 7 => BitVec.ofInt 32 (signed 8 x)
  | _ => toF32 (decodeElem fmt x)

/-- The fill value of an input (R121): for an integer load converted to INT32, with what that adds to the flags (R36). -/
def Chain.fillCvt (c : Chain) (i : Nat) : Cvt := convertInt 32 (decodeElem 1 (c.ref i).fill)

def Chain.fillWord (c : Chain) (i : Nat) : Lw :=
  if c.fmtX i = 7 ∨ c.fmtX i = 10 then BitVec.ofNat 32 (c.fillCvt i).bits else toF32 (decodeElem 1 (c.ref i).fill)

/-- What the fill of an input adds to the flags, where `k` elements of a row are read: UNDERFLOW tells of stores only (R149, Table 14). -/
def Chain.fillFlags (c : Chain) (i k : Nat) (f : NumFlags) : NumFlags :=
  let read := if (c.ref i).es = 0 then min 1 k else k
  if (c.fmtX i = 7 ∨ c.fmtX i = 10) ∧ c.uses i ∧ (c.ref i).bound < read then f.addCvt 10 { c.fillCvt i with underflow := false } else f

/-- Load element `e` of row `r` of an input (R122). -/
def loadEl (n : Nat) (c : Chain) (i r e : Nat) : FM Lw :=
  if (c.ref i).bound ≤ e then pure (c.fillWord i)
  else do
    let x ← rdBits n c [] (c.bitAddr i r e) (c.refBits i)
    pure (loadWord (c.fmtX i) x)

/-- Load a row of an input: a broadcast input reads its one element, a row of no element reads none (R122). -/
def loadRow (n : Nat) (c : Chain) (i r : Nat) : FM (List Lw) :=
  if c.uses i && cN c.word != 0 then
    if (c.ref i).es = 0 then do
      let x ← loadEl n c i r 0
      pure (List.replicate (cN c.word) x)
    else (List.range (cN c.word)).mapM fun e => loadEl n c i r e
  else pure (List.replicate (cN c.word) 0)

/-- Load a row of the mask stream (R123). -/
def loadMask (n : Nat) (c : Chain) (r : Nat) : FM (List Bool) :=
  (List.range (cN c.word)).mapM fun e =>
    if c.uses 4 && decide (e < (c.ref 4).bound) then do
      let x ← rdBits n c [] (c.bitAddr 4 r e) 1
      pure (x = 1)
    else pure false

/-- A row on its way through the stages. -/
structure Row where
  x : List Lw
  y : List Lw
  z : List Lw
  m : List Bool
  prev : List Lw
  p : List Bool
  a : List Lw                          -- operands A and B and active lanes of the last stage, for SCATTER
  b : List Lw
  act : List Bool
  flags : NumFlags := {}
  emptyRow : Bool := false

/-- A source of a stage (R126, R127). -/
def Row.src (q : Row) (imm : Lw) (code : Nat) : List Lw :=
  match code with
  | 0 => q.prev
  | 1 => q.x
  | 2 => q.y
  | 3 => q.z
  | 4 => q.prev.map fun _ => imm
  | _ => q.prev.zipIdx.map fun x => BitVec.ofNat 32 x.2

/-- The result of UNPACK (R133): the next unconsumed elements of X for the lanes `take`, `j` consumed so far. -/
def unpackRow (n : Nat) (c : Chain) (r j : Nat) (l : List (Bool × Bool × Lw)) : FM (List Lw) :=
  match l with
  | [] => pure []
  | (take, zero, b) :: rest =>
    if take then do
      let w ← loadEl n c 0 r (if (c.ref 0).es = 0 then 0 else j)
      let ws ← unpackRow n c r (j + 1) rest
      pure (w :: ws)
    else do
      let ws ← unpackRow n c r j rest
      pure ((if zero then 0 else b) :: ws)

/-- One stage over a row. A masked CMP or ICMP leaves P of an inactive lane as it was (log entry 94). -/
def stageRow (n : Nat) (c : Chain) (r ctr : Nat) (sm : Sampling) (q : Row) (g : Stg) : FM Row := do
  let a := q.src g.imm g.a
  let b := q.src g.imm g.b
  let z := q.src g.imm g.c
  let act := maskSel g.msel q.p q.m
  let masked (res : List Lw) : List Lw :=
    (res.zip (a.zip act)).map fun x => if x.2.2 then x.1 else if g.mzero then 0 else x.2.1
  let q := { q with a := a, b := b, act := act }
  if g.op = 0x3B then
    let l := (act.zip q.p).zip b
    let ws ← unpackRow n c r 0 (l.map fun x => (x.1.1 && x.1.2, !x.1.1 && g.mzero, x.2))
    pure { q with prev := ws, flags := c.fillFlags 0 (l.filter fun x => x.1.1 && x.1.2).length q.flags }
  else if g.op = 0x30 ∨ g.op = 0x31 then
    let seg := if nbit g.sub 1 then (if nbit g.sub 2 then q.m else q.p) else q.p.map fun _ => false
    let (ws, sat) := scanRow (g.op = 0x31) (nbit g.sub 0) g.mzero none (a.zip (seg.zip act))
    pure { q with prev := ws, flags := { q.flags with sat := q.flags.sat || sat } }
  else if g.op = 0x38 ∨ g.op = 0x39 ∨ g.op = 0x40 then
    pure { q with prev := masked ((List.range a.length).map (crossOp g c.perm ctr a b z)) }
  else
    let rs := (a.zip (b.zip (z.zip q.p))).zipIdx.map fun x =>
      laneOp g sm x.1.2.2.2 x.2 x.1.1 x.1.2.1 x.1.2.2.1
    let flags := (rs.zip act).foldl (fun f x => if x.2 then f.join x.1.2 else f) q.flags
    let p :=
      if g.op = 0x09 ∨ g.op = 0x29 then
        ((a.zip b).zip (act.zip q.p)).map fun x =>
          if x.2.1 then (if g.op = 0x09 then cmpF g.sub x.1.1 x.1.2 else cmpI g.sub x.1.1 x.1.2) else x.2.2
      else q.p
    if g.op = 0x41 then
      let hit := ((a.zip (b.zip z)).zip act).any fun x => x.2 && (smnorm x.1.1 x.1.2.1 x.1.2.2).2
      pure { q with
        prev := (rs.zip act).map fun x => if x.2 then x.1.1 else 0
        flags := flags
        emptyRow := q.emptyRow || hit }
    else pure { q with prev := masked (rs.map Prod.fst), flags := flags, p := p }

/-- What a word written or recorded adds to the flags. -/
def NumFlags.addWord (f : NumFlags) (w : Lw) : NumFlags :=
  { f with nanOut := f.nanOut || (f32 w).isNan, infOut := f.infOut || (f32 w).isInf }

/-- Store a word to element `e` of the output (R122, R124, R125). -/
def storeEl (n : Nat) (c : Chain) (r : Nat) (q : Overlay × NumFlags) (e : Nat) (w : Lw) : FM (Overlay × NumFlags) :=
  if (c.ref 3).bound ≤ e then pure q
  else
    let a := c.bitAddr 3 r e
    let put (x : Nat) : Overlay := wrBits c q.1 a (c.refBits 3) x
    let nonsat := fget c.header FS_CHAIN_HDR.OUT_OVF = 1
    let cvt (x : Num) : Overlay × NumFlags :=
      let v := convert c.fmtOut nonsat x
      (put v.bits, q.2.addCvt c.fmtOut v)
    if c.storeOp = 2 then do
      let old ← rdBits n c q.1 a 64
      let s := (Acc.mk (BitVec.ofNat 32 old) (BitVec.ofNat 32 (old / 2 ^ 32))).addPaired (f32 w)
      pure (put (s.s.toNat + s.c.toNat * 2 ^ 32), (q.2.addWord s.s).addWord s.c)
    else if c.storeOp = 1 then do
      let old ← rdBits n c q.1 a (c.refBits 3)
      if c.fmtOut = 0 then
        let x := fadd (BitVec.ofNat 32 old) w
        pure (put x.toNat, q.2.addWord x)
      else pure (cvt (f32 (fadd (toF32 (decodeElem c.fmtOut old)) w)))
    else if c.fmtOut = 0 then pure (put w.toNat, q.2.addWord w)
    else pure (cvt (f32 w))

/-- Add the bytes of a vector's stores to the ranges that a chain has written. -/
def addRanges (l : List (Nat × Nat)) (ov : Overlay) : List (Nat × Nat) :=
  ov.foldl (fun l b =>
    match l.getLast? with
    | some (a, k) => if a ≤ b.1 ∧ b.1 ≤ a + k then l.dropLast ++ [(a, max k (b.1 + 1 - a))] else l ++ [(b.1, 1)]
    | none => [(b.1, 1)]) l

/-- Make a vector's stores: one write of each codeword it touches (R208). -/
def flushOverlay (n : Nat) (c : Chain) (ov : Overlay) : FM Unit :=
  modify fun s =>
    ((storeAll (ov.length + 1) s ov).tally n 0x705 (.tag c.tag) ov.length).modChain n c fun x => { x with wrote := addRanges x.wrote ov }

/-- Store a row: for each element its output place and word, `none` where nothing is written. -/
def storeRow (n : Nat) (c : Chain) (r : Nat) (f : NumFlags) (l : List (Option (Nat × Lw))) : FM NumFlags :=
  (vectors (l.length + 1) l).foldlM (init := f) fun f v => do
    let q ← v.foldlM (init := (([] : Overlay), f)) fun q x =>
      match x with
      | some (e, w) => storeEl n c r q e w
      | none => pure q
    flushOverlay n c q.1
    pure q.2

/-- The output places of PACK (R133): the lanes taken, one after another. -/
def packPlaces (j : Nat) (l : List (Bool × Lw)) : List (Option (Nat × Lw)) :=
  match l with
  | [] => []
  | (true, w) :: r => some (j, w) :: packPlaces (j + 1) r
  | (false, _) :: r => none :: packPlaces j r

/-- One row of a chain (R122; PACK under a stage mask takes the lanes that are active and have P true, log entry 94): loads, stages, the store, the record, the updates, flags and empty rows. FS_SAMPLE_SEED, FS_SAMPLE_STEP and FS_IDX_BASE
are read at each row (DESIGN CHOICE, log entry 113: R142 does not say when). -/
def chainRow (n : Nat) (c : Chain) (r : Nat) : FM Unit := do
  let t := c.tag
  let len := cN c.word
  let s ← get
  let sm : Sampling := ⟨s.reg (FS_SAMPLE_SEED n t), s.get (FS_SAMPLE_STEP n t) FS_SAMPLE_STEP.STEP, s.get (FS_IDX_BASE n t) FS_IDX_BASE.BASE⟩
  let x ← if c.has 0x3B then pure (List.replicate len 0) else loadRow n c 0 r
  let y ← loadRow n c 1 r
  let z ← loadRow n c 2 r
  let m ← loadMask n c r
  let ctr := s.freeCtr
  let q0 : Row := { x := x, y := y, z := z, m := m, prev := x, p := List.replicate len false, a := x, b := x,
                    act := List.replicate len true
                    flags := [1, 2].foldl (fun f i => c.fillFlags i len f) (if c.has 0x3B then {} else c.fillFlags 0 len {}) }
  let q ← c.stgs.zipIdx.foldlM (init := q0) fun q g => stageRow n c r (ctr + g.2 * 2 ^ 25) sm q g.1
  if c.stgs.any fun g => g.op == 0x38 || g.op == 0x39 || g.op == 0x40 then
    modify fun s => { s with freeCtr := s.freeCtr + 2 ^ 28 }
  let packed := (q.act.zip q.p).map fun v => v.1 && v.2
  let take := if c.last = 0x3A then packed else maskSel c.storeSel q.p q.m
  let zero := fget c.header FS_CHAIN_HDR.STORE_MODE = 1
  let f ←
    if c.writesOut then
      if c.last = 0x3A then storeRow n c r q.flags (packPlaces 0 (packed.zip q.prev))
      else storeRow n c r q.flags ((take.zip q.prev).zipIdx.map fun v =>
        if v.1.1 then some (v.2, v.1.2) else if zero then some (v.2, 0) else none)
    else pure q.flags
  let lanes := (take.zip (q.prev.zip q.y)).zipIdx.map fun v =>
    if v.1.1 then some (v.1.2.1, (if c.idxSrc then v.1.2.2.toNat else (sm.base + v.2) % 2 ^ 32), v.1.2.2) else none
  let red := (vectors (len + 1) lanes).foldl (fun (a : Red) v => a.vector c.reduce c.comp v) {}
  let f ←
    if c.reduce = 0 ∨ (c.ref 5).bound ≤ r then pure f
    else do
      let (v, w) := red.record c.reduce c.comp
      flushOverlay n c (wrBits c [] (c.bitAddr 5 r 0) 64 (v.toNat + w.toNat * 2 ^ 32))
      pure (if c.reduce = 7 ∨ c.reduce = 8 then (f.addWord v).addWord w else f.addWord v)
  if c.last = 0x43 then
    modify fun s => s.modCh n fun h => { h with
      updQ := h.updQ ++ ((q.act.zip (q.a.zip q.b)).filter (·.1)).map fun v =>
        { key := v.2.1.toNat, value := v.2.2, tag := t, id := c.id, own := t, drain := true } }
  let empty := (c.reduce != 0 && red.n == 0) || q.emptyRow
  modify fun s =>
    let s := if empty then s.bump (FS_EMPTY_ROWS n t) 1 else s
    let s := s.setReg (FS_FLAGS n t) (s.reg (FS_FLAGS n t) ||| BitVec.ofNat 64 (f.word / 4 % 32 * 4 + 128 * bit empty))
    s.tally n 0x401 (.tag t) (cdiv len 64)

/-- The physical ranges that the next row of a chain reads. -/
def Chain.rowReads (c : Chain) : List (Nat × Nat) :=
  let ins : List Nat := [0, 1, 2, 4].filter c.uses ++ if c.writesOut && c.storeOp != 0 then [3] else []
  (ins.flatMap fun i => pageSplit ((c.rowSpans i c.row).map fun (x : Int × Nat) => (x.1.toNat, x.2))).map
    fun (x : Nat × Nat) => (c.pa x.1, x.2)

/-- The pocket ports that a row of a chain needs (R145, R237): the read port for its loads and the reads of ADD and ADDP, the write
port for its stores. -/
def Chain.rowRoute (c : Chain) (n : Nat) : List (Nat × Nat) :=
  let loads := (cN c.word != 0 && [0, 1, 2, 4].any fun i => c.uses i && (c.ref i).bound != 0) || (c.writesOut && c.storeOp != 0)
  let stores := (c.writesOut && cN c.word != 0 && (c.ref 3).bound != 0) || (c.reduce != 0 && decide (c.row < (c.ref 5).bound))
  (if loads then [(n * 4 + 1, 3)] else []) ++ (if stores then [(n * 4 + 2, 2)] else [])

/-- A row of a chain is complete; under preemption the chain stops there. -/
def State.rowDone (s : State) (n : Nat) (c : Chain) (saving : Bool) : State :=
  match (chainRow n c c.row).run s with
  | (.error (code, va), s) => s.memFault n c.tag code va 0 c.id
  | (.ok _, s) => (s.modChain n c fun x => { x with row := c.row + 1, parked := saving }).progress n c.tag

/-- CHAIN_ROW_DONE (R147): the running chain completes its next row, once it has passed the pocket's ports (R145) and no
region that it reads is still to be filled (R233). -/
def execChainRowDone (n : Ch) (s : State) : Out :=
  match (s.ch n).chains.find? (·.running) with
  | none => .next s
  | some c =>
    let saving := s.tstate n c.tag = tSaving && !(s.task n c.tag).stopped
    if !(s.live n c.tag || saving) ∨ c.parked ∨ cRows c.word ≤ c.row ∨ s.regionBusy n c.rowReads then .next s
    else .next ((s.arbitrate (taskReq n c.tag 5 c.id) (c.rowRoute n) fun s => s.rowDone n c saving).showFlow n)

/-- CHAIN_COMPLETE (R118, R174): every row is done and every update accepted. -/
def execChainComplete (n : Ch) (s : State) : Out :=
  match (s.ch n).chains.find? (·.running) with
  | none => .next s
  | some c =>
    let waits := (s.ch n).updQ.any fun u => u.own = c.tag && u.id = c.id
    let saving := s.tstate n c.tag = tSaving && !(s.task n c.tag).stopped
    if !(s.live n c.tag || saving) ∨ c.row < cRows c.word ∨ waits then .next (s.showFlow n)
    else
      let s := s.modCh n fun h => { h with chains := h.chains.filter fun (x : Chain) => !(x.tag = c.tag && x.id = c.id) }
      .next ((s.complete n c.tag c.id).showFlow n)

end Sys2Proof.Machine
end

