-- ==== Sys2Proof/Machine/Gv.lean ====
section
/-! DEFINITION. The gravity-class instructions (R161 to R163): GV_CHECK and GV_JOIN. -/

namespace Sys2Proof.Machine

/-- The bytes of an access by the gravity unit, on each page that they touch, must lie in the task's own pocket window (R165). -/
def State.gvRanges (s : State) (n t va k : Nat) (need : Need) : Except (Nat × Nat) (List (Nat × Nat)) × State :=
  match s.footprint n (s.task n t).xlat [(va, k)] need with
  | (.error c, s) => (.error c, s)
  | (.ok (l, _), s) => (if l.all fun r => ownPocket n r.1 r.2 then .ok l else .error (gvRegion, va), s)

/-- Read bytes for the gravity unit; `none` where a region over them is still to be filled (R233). -/
def State.gvRead (s : State) (n t va k : Nat) : Except (Option (Nat × Nat)) (List Byte) × State :=
  match s.gvRanges n t va k { r := true } with
  | (.error e, s) => (.error (some e), s)
  | (.ok l, s) =>
    if s.regionBusy n l then (.error none, s)
    else
      match s.consume n t va k with
      | (.ok d _ _, s) => (.ok d, s)
      | (.fault c a, s) => (.error (some (c, a)), s)
      | (.wait, s) => (.error none, s)

/-- An address of the gravity unit; one that leaves the address space becomes the first beyond it, which misses (R201). -/
def gvPlace (a : Int) (k : Nat) : Nat := if 0 ≤ a ∧ a + k ≤ (2 ^ 48 : Nat) then a.toNat else 2 ^ 48

/-- Element `(r, e)` of a vector reference whose elements are `b` bytes wide (R121). -/
def vrefVa (w : Word × Word) (b r e : Nat) : Nat :=
  gvPlace ((fget w.1 FS_VREF0.BASE : Int) + ((r : Int) * signed 28 (fget w.2 FS_VREF1.ROW_STRIDE)
    + (e : Int) * signed 12 (fget w.2 FS_VREF1.ELEM_STRIDE)) * (b : Int)) b

def State.vref (s : State) (n t i : Nat) : Word × Word := (s.reg (FS_VREF0 n t i), s.reg (FS_VREF1 n t i))

/-- A fault of a gravity-class instruction found while it acts. -/
def State.gvStop (s : State) (n t : Nat) (e : Nat × Nat) (write : Nat) (id : Nat) : State :=
  if e.1 = gvRegion then s.gvFault n t gvRegion id else s.memFault n t e.1 e.2 write id

/-- The actual maximum of group `c` (R161): the empty record where its row lies beyond REC's bound. -/
def State.gvActual (s : State) (n t : Nat) (rec : Word × Word) (c : Nat) : Except (Option (Nat × Nat)) (BitVec 32) × State :=
  if fget rec.2 FS_VREF1.BOUND ≤ c then (.ok 0xFF800000, s)
  else
    let va := gvPlace ((fget rec.1 FS_VREF0.BASE : Int) + 8 * (c : Int) * signed 12 (fget rec.2 FS_VREF1.ELEM_STRIDE)) 8
    match s.gvRead n t va 8 with
    | (.ok d, s) => (.ok (BitVec.ofNat 32 (num d 0 4)), s)
    | (.error e, s) => (.error e, s)

/-- The estimate `e(c, POS)` (R161); beyond the reference's bound its fill value (R122). -/
def State.gvEstimate (s : State) (n t : Nat) (est : Word × Word) (pos c : Nat) : Except (Option (Nat × Nat)) Int × State :=
  let i := if fget est.2 FS_VREF1.ELEM_STRIDE = 0 then 0 else c
  if fget est.2 FS_VREF1.BOUND ≤ i then
    (.ok (i32 (BitVec.ofNat 32 (convertInt 32 (decodeElem 1 (fget est.1 FS_VREF0.FILL))).bits)), s)
  else
    match s.gvRead n t (vrefVa est 4 pos i) 4 with
    | (.ok d, s) => (.ok (i32 (BitVec.ofNat 32 (num d 0 4))), s)
    | (.error e, s) => (.error e, s)

/-- Whether a group is a miss (R161). -/
def gvMiss (scale margin a : BitVec 32) (e : Int) : Bool :=
  (f32 a).isNan || (f32 (ffma scale (toF32 (Num.ofInt e)) margin)).lt (f32 a)

/-- Compare the kept groups: how many, and how many missed. -/
def State.gvCompare (s : State) (n t : Nat) (g : GvCopy) (est rec : Word × Word) (pos : Nat) (l : List Nat) :
    Except (Option (Nat × Nat)) (Nat × Nat) × State :=
  match l with
  | [] => (.ok (0, 0), s)
  | c :: r =>
    match s.gvEstimate n t est pos c with
    | (.error e, s) => (.error e, s)
    | (.ok x, s) =>
      match s.gvActual n t rec c with
      | (.error e, s) => (.error e, s)
      | (.ok a, s) =>
        match s.gvCompare n t g est rec pos r with
        | (.error e, s) => (.error e, s)
        | (.ok (k, m), s) =>
          let miss := gvMiss (BitVec.ofNat 32 (fget g.check GV_CHECK_PARAM.SCALE))
            (BitVec.ofNat 32 (fget g.check GV_CHECK_PARAM.MARGIN)) a x
          (.ok (k + 1, m + bit miss), s)

/-- The miss word (R161, Table 2). -/
def missWord (g : GvCopy) (m : Nat) : Nat := m % 2 ^ 16 + bit (m != 0) * 2 ^ 16 + gvBase g % 2 ^ 13 * 2 ^ 32

/-- GV_CHECK acts: the keep word, the comparison, and the miss word through the write engine (R161, R220); nothing where it has to
wait for a region (R233). Its references are read as it acts, which R163's copy does not list (DESIGN CHOICE, log entry 113). -/
def State.gvCheck (s : State) (n : Nat) (j : GvJoin) : Option State :=
  let w := j.word
  let g := j.gv
  let t := j.tag
  let est := s.vref n t (wf w 11 9)
  let rec_ := s.vref n t (wf w 14 12)
  let out := s.vref n t (wf w 17 15)
  let compared : Except (Option (Nat × Nat)) (Nat × Nat) × State :=
    if gvPolicy g = 0 then (.ok (0, 0), s)
    else
      match s.gvRead n t (gvPlace ((if nbit w.toNat 22 then g.mask1 else g.mask0).toNat % 2 ^ 48 + gvBase g / 8 : Nat) 8) 8 with
      | (.error e, s) => (.error e, s)
      | (.ok d, s) => s.gvCompare n t g est rec_ (wf w 21 18) ((List.range (gvU g)).filter fun c => nbit (ofBytes d) c)
  match compared with
  | (.error none, _) => none
  | (.error (some e), s) => some (s.gvStop n t e 0 j.id)
  | (.ok (k, m), s) =>
    let va := fget out.1 FS_VREF0.BASE
    let s := (s.modCh n fun c => { c with checks := c.checks ++ [(t, j.id, k, m)] }).showJoin n
    if fget out.2 FS_VREF1.BOUND = 0 then some (s.checkDone n t j.id)
    else
      match s.gvRanges n t va 8 { w := true } with
      | (.error e, s) => some (s.gvStop n t e 1 j.id)
      | (.ok _, s) => some (s.startInternal n t j.id 2 va (toBytes 8 (missWord g m)))

/-- GV_CHECK (R161): its parameters are checked at issue (R165). One that has to wait for a region is tried again as the waiting joins
are (log entry 97). -/
def execGvCheck (n : Ch) (t : Tag) (s : State) : Out :=
  s.issue n t 0x70 fun w _ =>
    let g := s.gvCopy n t
    if gvParamBad g || decide (4 < wf w 25 23) || decide (2 ^ wf w 25 23 ≤ wf w 21 18) then .next (s.gvIssueFault n t gvParam)
    else
      let j : GvJoin := ⟨(s.task n t).headId, t, w, g⟩
      let s := s.take n t true
      .next ((s.gvCheck n j).getD ((s.modCh n fun c => { c with joins := c.joins ++ [j] }).showJoin n))

/-- GV_JOIN (R162): under OFF or COUNT it clears MISS_NOW and is complete; under MAKEUP it waits. -/
def execGvJoin (n : Ch) (t : Tag) (s : State) : Out :=
  s.issue n t 0x71 fun w _ =>
    let g := s.gvCopy n t
    if gvPolicy g = 3 ∨ wf w 19 12 = 0 then .next (s.gvIssueFault n t gvParam)
    else
      let id := (s.task n t).headId
      let s := s.take n t true
      if gvPolicy g = 2 then
        .next ((s.modCh n fun c => { c with joins := c.joins ++ [⟨id, t, w, g⟩] }).showJoin n)
      else .next ((s.set (GV_STATE n t) GV_STATE.MISS_NOW 0).complete n t id)

/-- Addresses of the miss words of a join: its reference is read as it acts, which R163's copy does not list (DESIGN CHOICE, log entry
113). -/
def State.joinVas (s : State) (n : Nat) (j : GvJoin) : List Nat :=
  (List.range (wf j.word 19 12)).map fun i => gvPlace (fget (s.reg (FS_VREF0 n j.tag (wf j.word 11 9))) FS_VREF0.BASE + 8 * i : Nat) 8

/-- Read a join's miss words one after another: whether any has MISS; `none` where their region is not complete. -/
def State.joinRead (s : State) (n t : Nat) (l : List Nat) : Except (Option (Nat × Nat)) Bool × State :=
  match l with
  | [] => (.ok false, s)
  | va :: r =>
    match s.gvRead n t va 8 with
    | (.error e, s) => (.error e, s)
    | (.ok d, s) =>
      match s.joinRead n t r with
      | (.ok b, s) => (.ok (b || nbit (ofBytes d) 16), s)
      | x => x

/-- Whether the first instruction of its tag that waits in the gravity unit waits on a region (R233). -/
def State.joinBlocked (s : State) (n t : Nat) : Bool :=
  (((s.ch n).joins.find? fun j => j.tag = t).any fun j =>
    if j.isJoin then
      match (s.joinRead n t (s.joinVas n j)).1 with
      | .error none => true
      | _ => false
    else (s.gvCheck n j).isNone)

/-- A waiting instruction leaves the gravity unit. -/
def State.joinGone (s : State) (n : Nat) (j : GvJoin) : State :=
  s.modCh n fun c => { c with joins := c.joins.filter fun x => !(x.tag = j.tag && x.id = j.id) }

/-- GV_JOIN_READ (R162): the first instruction of the tag that waits on a region for its miss words reads them once it is complete; so
does a GV_CHECK that waits. -/
def execGvJoinRead (n : Ch) (t : Tag) (s : State) : Out :=
  match (s.ch n).joins.find? fun j => j.tag = t.val with
  | none => .next s
  | some j =>
    if !s.live n t then .next s
    else if !j.isJoin then .next (((s.joinGone n j).gvCheck n j).getD s)
    else
      match s.joinRead n t (s.joinVas n j) with
      | (.error none, _) => .next s
      | (.error (some e), s) => .next (s.gvStop n t e 0 j.id)
      | (.ok b, s) =>
        let s := (s.joinGone n j).set (GV_STATE n t) GV_STATE.MISS_NOW (bit b)
        let s := if b then (s.bump (GV_MAKEUPS n t) 1).tally n 0x504 (.tag t) 1 else s
        .next ((s.complete n t j.id).showJoin n)

end Sys2Proof.Machine
end

