-- ==== Sys2Proof/Machine/Tasks.lean ====
section
/-! DEFINITION. Task contexts (R183 to R188): creation, preemption, resume, abort and release, with the slot images of R107
and the save area of R185. -/

namespace Sys2Proof.Machine

/-! ### Registers with a copy per tag (R96, R117, R147, R164, R179, R185) -/

/-- The copies that creation clears. -/
def tagRegs (n t : Nat) : List Nat :=
  [LT_TOL_ORDER n t, LT_TOL_OVERFULL n t, LT_TOL_RANGE n t,
   SP_SESSION n t, SP_SPILL_BASE n t, SP_SPILL_USE n t, SP_EVICT n t, SP_TOL_RANGE n t,
   FS_FLAGS n t, FS_EMPTY_ROWS n t, FS_IDX_BASE n t, FS_SAMPLE_SEED n t, FS_SAMPLE_STEP n t,
   GV_CTRL n t, GV_THETA n t, GV_CHECK_PARAM n t, GV_SEL_DEST n t, GV_MASK0 n t, GV_MASK1 n t, GV_STATE n t,
   GV_EST n t, GV_KEPT n t, GV_CHECKED n t, GV_MISSES n t, GV_MAKEUPS n t]
  ++ (List.range 8).map (FS_VREF0 n t) ++ (List.range 8).map (FS_VREF1 n t) ++ (List.range 8).map (CH_BOUND n t)

/-- The stream descriptors, which preemption saves too. -/
def tagDescs (n t : Nat) : List Nat := (List.range 32).flatMap fun d => (List.range 8).map fun j => descAddr n t d j

/-! ### Creation and release (R184, R188) -/

/-- CREATE in the tag that CH_CREATE0 names. -/
def State.cmdCreate (s : State) (n : Nat) : State :=
  let c := s.reg (CH_CREATE0 n)
  let t := fget c CH_CREATE0.TAG
  if s.tstate n t ≠ tFree then s.cmdDone n 1
  else
    let s := (tagRegs n t).foldl (fun (s : State) a => s.setReg a (resetReg a)) s
    let s := s.setReg (CH_TASK n t) 0
    let s := s.set (CH_TASK n t) CH_TASK.PRIORITY (fget c CH_CREATE0.PRIORITY)
    let s := s.set (CH_TASK n t) CH_TASK.POLICY (fget c CH_CREATE0.POLICY)
    let s := s.set (CH_TASK_PC n t) CH_TASK_PC.PC (fget c CH_CREATE0.PC)
    let s := s.set (CH_TASK_SAVE n t) CH_TASK_SAVE.SAVE_BASE (s.get (CH_CREATE1 n) CH_CREATE1.SAVE_BASE)
    let s := s.setTask n t { xlat := s.get (CH_CREATE2 n) CH_CREATE2.XLAT, fetchPc := fget c CH_CREATE0.PC, born := (s.ch n).births }
    let s := s.modCh n fun c => { c with births := c.births + 1 }
    (s.setTstate n t tActive).cmdDone n 0

/-- RELEASE returns an ENDED context to FREE. -/
def State.cmdRelease (s : State) (n t : Nat) : State :=
  if s.tstate n t ≠ tEnded then s.cmdDone n 2 else (s.setTstate n t tFree).cmdDone n 0

/-- TASK_CREATE (R184). -/
def execTaskCreate (n : Ch) (s : State) : Out := .next (s.cmdCreate n)

/-- TASK_RELEASE (R188). -/
def execTaskRelease (n : Ch) (t : Tag) (s : State) : Out := .next (s.cmdRelease n t)

/-! ### Preemption (R185, Table 8) -/

/-- PREEMPT: an ACTIVE task becomes SAVING. Where an END that it has issued completes before its engines have stopped, the task
ends and the PREEMPT is refused (R188, `State.settle`). -/
def State.cmdPreempt (s : State) (n t : Nat) : State :=
  if s.tstate n t ≠ tActive then s.cmdDone n 2
  else
    let s := (s.setTstate n t tSaving).set (CH_TASK n t) CH_TASK.PREEMPT_PENDING 1
    s.modTask n t fun k => { k with saving := true, stopped := false, fetched := [], fetchPc := s.get (CH_TASK_PC n t) CH_TASK_PC.PC }

/-- TASK_PREEMPT (R185). -/
def execTaskPreempt (n : Ch) (t : Tag) (s : State) : Out := .next (s.cmdPreempt n t)

/-- A tile as it starts again on resume: the checksum procedure at attempt 1, nothing read (R78, R95). -/
def Tile.restart (t : Tile) : Tile :=
  { t with run := !t.gone, passed := false, attempt := 1, suspect := none, mapped := false, feedA := [], feedB := [], tol := {} }

/-- Whether an array instruction has entered the array. -/
def ArrInstr.entered (a : ArrInstr) : Bool := a.again || a.phase == .inArray || a.phase == .checking

/-- The list instruction whose inputs the Lauter is still to read. -/
def State.listOf (s : State) (n t id : Nat) : Option ListInstr := (s.ch n).lists.find? fun l => l.tag = t && l.id = id && !l.done

/-- What a stopped start is saved as: accepted starts take a slot again without a new acceptance and go on from their next
element; the groups of ARRAY read again from their first element, keeping their credit units (R243), and so do the inputs of a list
instruction, whose reading the Lauter discards (R95, log entry 98). -/
def State.parkStart (s : State) (n : Nat) (st : Start) : Start :=
  let st := { st with again := true, creditSince := none, held := false, out := [] }
  if !st.kind.isGroup then st
  else if (s.arrOf n st.tag st.id).isSome then { st with todo := [], next := 0 }
  else { st with todo := listEls st.d, next := 0 }

/-- Inputs of list instructions that have left their slots and have to be made again, with the units they hold (R95). -/
def State.lostLists (s : State) (n t : Nat) : List (Nat × Start) :=
  ((s.ch n).lists.filter fun l => l.tag = t && opcode l.word != 0x61 && !l.done).flatMap fun l =>
    (if opcode l.word = 0x30 && !nbit l.word.toNat 19 then [0, 1] else [0]).filterMap fun e =>
      if (s.startOf n e t l.id).isSome then none
      else
        let d := if e = 0 then l.dA else l.dB
        let u := if e = 0 then l.unitsA else l.unitsB
        some (e, ({ kind := .group e, id := l.id, tag := t, desc := if e = 0 then wf l.word 13 9 else wf l.word 18 14, d := d,
                    todo := listEls d, units := u, given := u, again := true } : Start))

/-- Start groups of ARRAY that have left their slots and have to be made again, with the units they hold (R78, R243). -/
def State.lostGroups (s : State) (n t : Nat) : List (Nat × Start) :=
  let here (e id : Nat) : Bool := ((s.eng n e).starts ++ (s.eng n e).queue).any fun st => st.tag = t && st.id = id
  ((s.ch n).arr.filter (·.tag = t)).flatMap fun a => [0, 1].filterMap fun e =>
    if here e a.id then none
    else
      let t0 := a.tiles.headD {}
      let u := if e = 0 then a.unitsA else a.unitsB
      some (e, ({ kind := .group e, id := a.id, tag := t, desc := if e = 0 then t0.descA else t0.descB,
                  d := (if e = 0 then t0.dA else t0.dB).headD 0, units := u, given := u, again := true } : Start))

/-- Every start of a task, as it is saved. -/
def State.parkedStarts (s : State) (n t : Nat) : List (Nat × Start) :=
  ((List.range 4).flatMap fun e =>
    (((s.eng n e).starts.filter (·.tag = t)).map fun st => (e, s.parkStart n st))
      ++ ((s.eng n e).queue.filter (·.tag = t)).map fun st => (e, st)) ++ s.lostGroups n t ++ s.lostLists n t

/-- Whether every engine has reached its stop point for a task (R185, Table 8, step 3): the array has completed any drain under way
(R107). -/
def State.enginesStopped (s : State) (n t : Nat) : Bool :=
  let c := s.ch n
  ((List.range 4).all fun e => (s.eng n e).starts.all fun st => st.tag != t || (st.out.isEmpty && st.kind != .internal))
    && c.arr.all (fun a => a.phase != .draining)
    && c.chains.all (fun x => x.tag != t || !x.running || x.parked || decide (cRows x.word ≤ x.row))
    && c.updQ.all (fun u => u.tag != t && u.own != t) && c.runs.all (fun r => r.tag != t)

/-- The array abandons the task's instructions (R78): the slot of one that has entered, or waits to enter again, goes back to its
carry snapshot, at the r of the group (R34). -/
def State.parkArray (s : State) (n t : Nat) : State :=
  let l := (s.ch n).arr.filter (·.tag = t)
  let s := l.foldl (fun (s : State) a =>
    let i := aSlot a.word
    if a.entered then
      let v := (s.slot n i).snap.carried (aPack a.word)
      (s.setSlot n i { s.slot n i with cur := v, snap := v }).setPhase n i phHeld
    else s) s
  s.modCh n fun c => { c with arr := c.arr.map fun (a : ArrInstr) =>
    if a.tag = t then { a with again := a.entered, phase := .queued, reading := false, step := 0, miss := none, regs := none, tiles := a.tiles.map Tile.restart }
    else a }

/-- A preempted task whose engines have stopped gives up what it holds in them: its starts go back to the issue queues, its
instructions in flight are abandoned, and the sump flushes the tag (R78, R115, R185, Table 8, steps 3 and 4). -/
def State.parkTask (s : State) (n t : Nat) : State :=
  let parked := s.parkedStarts n t
  let s := ((s.parkArray n t).dropStarts n t).arbWithdraw n t
  let s := parked.foldl (fun (s : State) x => s.setEng n x.1 { s.eng n x.1 with queue := (s.eng n x.1).queue ++ [x.2] }) s
  let s := s.modCh n fun c => { c with
    chains := c.chains.map fun (x : Chain) => if x.tag = t then { x with running := false, parked := false } else x
    lists := c.lists.map fun (l : ListInstr) => if l.tag = t && !l.done then { l with feedA := [], feedB := [], tol := {} } else l }
  let s := s.modTask n t fun k => { k with stopped := true }
  let s := s.flushTag n t (s.task n t).nextId
  (((s.showArray n).showLauter n).showFlow n).showSump n

/-- PREEMPT_ENGINES_STOPPED (R185, Table 8, steps 3 and 4). -/
def execPreemptEnginesStopped (n : Ch) (t : Tag) (s : State) : Out :=
  if s.tstate n t ≠ tSaving ∨ (s.task n t).stopped ∨ !s.enginesStopped n t then .next s
  else .next (s.parkTask n t)

/-- Whether a slot holds values of a group that task `t` issued, and whether the group open on it is that task's. -/
def State.slotHolds (s : State) (n t i : Nat) : Bool := (s.slot n i).occ.tag = t && s.slotPhase n i == phHeld

def State.slotOpens (s : State) (n t i : Nat) : Bool := s.slotOpen n i && (s.slot n i).last.tag = t

/-- Slots that hold values or an open group of a task (R107). -/
def State.heldSlots (s : State) (n t : Nat) : List Nat :=
  (List.range 2).filter fun i => s.slotHolds n t i || s.slotOpens n t i

/-- A slot as task `t` saves it: the group whose values it holds, else the group open on it, which holds none yet. -/
def State.slotOf (s : State) (n t i : Nat) : Slot :=
  let l := s.slot n i
  if s.slotHolds n t i then l else { last := l.last, occ := l.last }

/-- Bytes of the module's internal form: free values (R107, R185). -/
def freeBytes (ctr k : Nat) : List Byte := (List.range k).map fun i => (Config.free (ctr + i)).setWidth 8

/-- The image of a slot (R107, Table 6); its check state is in the internal form. -/
def slotImage (l : Slot) (ctr : Nat) : List Byte :=
  let v := l.cur
  let p := l.occ
  let g4 (f : Nat → Nat) (w lo : Nat) : Nat := (List.range 4).foldl (fun a g => a + f g % 2 ^ w * 2 ^ (lo + w * g)) 0
  let word := 1 + p.mode % 4 * 2 + p.groups % 8 * 8 + p.pack % 4 * 64 + bit p.acc * 256 + bit p.int * 512
    + g4 (fun g => v.r.getD g 0) 2 10 + g4 (fun g => p.tags.getD g 0) 2 18
  let flag (g : Nat) : Nat := v.r.getD g 0 % 4 + 16 * bit (v.sat.contains g) + 128 * bit p.paired
  let cell (k : Nat) : Acc := (kget v.cells k {}).acc
  toBytes 8 word ++ (List.range 4).flatMap (fun g => toBytes 4 (v.n.getD g 0)) ++ (List.range 4).flatMap (fun g => toBytes 1 (flag g))
    ++ List.replicate 36 0 ++ (List.range 1024).flatMap (fun k => toBytes 4 (cell k).s.toNat)
    ++ (List.range 1024).flatMap (fun k => toBytes 4 (cell k).c.toNat) ++ freeBytes ctr 4096

/-- The bytes written to the save area (R185, Table 9): slot images, then the internal form. -/
def State.saveBytes (s : State) (n t : Nat) : List Byte :=
  let held := s.heldSlots n t
  (List.range 2).flatMap (fun i =>
      if held.contains i then slotImage (s.slotOf n t i) (s.freeCtr + 4096 * i) else List.replicate 12352 0)
    ++ freeBytes (s.freeCtr + 8192) 3584

/-- A task leaves its context: what it holds in the chamber goes. -/
def State.clearContext (s : State) (n t : Nat) (slots : List Nat) : State :=
  let s := slots.foldl (fun (s : State) i =>
    let last := if s.slotOpens n t i then {} else (s.slot n i).last
    let closed := if s.slotOpens n t i then s.set (SP_STATUS n) (slotOpenFld i) 0 else s
    if s.slotHolds n t i then (closed.setSlot n i { last := last }).setPhase n i phFree
    else closed.setSlot n i { s.slot n i with last := last }) s
  let s := s.dropStarts n t
  let s := s.modCh n fun c => { c with
    checks := c.checks.filter fun x => x.1 != t
    chains := c.chains.filter fun (x : Chain) => x.tag != t
    arr := c.arr.filter fun (x : ArrInstr) => x.tag != t
    lists := c.lists.filter fun (x : ListInstr) => x.tag != t
    joins := c.joins.filter fun (x : GvJoin) => x.tag != t
    sumpDrain := c.sumpDrain.filter fun (x : SumpDrain) => x.tag != t }
  let s := s.setReg (SP_SESSION n t) 0
  let s := (s.setTask n t { xlat := (s.task n t).xlat }).showWindow n t
  (((((s.takeSeed n).showArray n).showLauter n).showFlow n).showSump n).showJoin n

/-- The image of a task is in its save area at `pa`: the context is FREE, the preemption counted and reported (R185, Table 8,
step 5). -/
def State.saved (s : State) (n t pa : Nat) : State :=
  let s := { s with freeCtr := s.freeCtr + 12288 }
  let c := s.ch n
  let held := s.heldSlots n t
  let img : SaveImg := {
    tag := t, task := s.task n t, pc := s.get (CH_TASK_PC n t) CH_TASK_PC.PC
    prio := s.get (CH_TASK n t) CH_TASK.PRIORITY, policy := s.get (CH_TASK n t) CH_TASK.POLICY
    regs := (tagRegs n t ++ tagDescs n t).map s.reg
    held := held.map fun i => (i, if s.slotHolds n t i then phHeld else phFree, s.slotOpens n t i, s.slotOf n t i)
    chains := c.chains.filter fun x => x.tag = t
    arr := c.arr.filter fun x => x.tag = t
    lists := c.lists.filter fun x => x.tag = t
    joins := c.joins.filter fun x => x.tag = t
    starts := (List.range 4).flatMap fun e => ((s.eng n e).queue.filter fun st => st.tag = t).map fun st => (e, st)
    drain := c.sumpDrain.filter fun x => x.tag = t }
  let s := { s with saves := kset s.saves pa img }
  let s := (s.clearContext n t held).setTstate n t tFree
  let s := s.set (CH_TASK n t) CH_TASK.PREEMPT_PENDING 0
  let s := (s.bump (CH_PREEMPTS n) 1).tally n 0x004 (.tag t) 1
  s.cmdDone n 0

/-- PREEMPT_SAVE_WRITTEN (R185, Table 8, step 5): the image reaches the save area, and the context is FREE. -/
def execPreemptSaveWritten (n : Ch) (t : Tag) (s : State) : Out :=
  if s.tstate n t ≠ tSaving ∨ !(s.task n t).stopped ∨ (s.ch n).runs.any (fun r => r.tag = t.val) then .next s
  else
    let base := s.get (CH_TASK_SAVE n t) CH_TASK_SAVE.SAVE_BASE * 4096
    match s.translate n (s.task n t).xlat base { w := true } with
    | (.error c, s) => .next (s.memFault n t c base 1 (s.task n t).nextId)
    | (.ok (pa, _), s) =>
      match s.writeVa n t base (s.saveBytes n t) { w := true } false with
      | (some (c, va), s) => .next (s.memFault n t c va 1 (s.task n t).nextId)
      | (none, s) => .next (s.saved n t pa)

/-! ### Resume (R186, R107, R108) -/

/-- Tags that packed groups and packed instructions of an image name beside its own. -/
def SaveImg.others (i : SaveImg) : List Nat :=
  ((i.held.flatMap fun h => h.2.2.2.occ.tags) ++ i.arr.flatMap fun a => a.tiles.map (·.tag)).filter (· != i.tag)

/-- RESUME of the image at the save base into tag `t`. -/
def State.cmdResume (s : State) (n t : Nat) : State :=
  if s.tstate n t ≠ tFree then s.cmdDone n 1
  else
    let base := s.get (CH_CREATE1 n) CH_CREATE1.SAVE_BASE * 4096
    let x := s.get (CH_CREATE2 n) CH_CREATE2.XLAT
    match s.translate n x base { r := true } with
    | (.error _, s) => s.cmdDone n 3
    | (.ok (pa, _), s) =>
      match kfind s.saves pa with
      | none => s.cmdDone n 3
      | some i =>
        let packed := !i.others.isEmpty && (decide (i.tag ≠ t) || i.others.any fun u => !s.live n u)
        if packed || i.held.any fun h => s.slotOpen n h.1 then s.cmdDone n 3
        else
          let s := s.setReg (CH_TASK n t) 0
          let s := s.set (CH_TASK n t) CH_TASK.PRIORITY i.prio
          let s := s.set (CH_TASK n t) CH_TASK.POLICY i.policy
          let s := s.set (CH_TASK_PC n t) CH_TASK_PC.PC i.pc
          let s := s.set (CH_TASK_SAVE n t) CH_TASK_SAVE.SAVE_BASE (base / 4096)
          let s := s.setTask n t { xlat := i.task.xlat, born := (s.ch n).births }
          let s := s.modCh n fun c => { c with resumeImg := kset c.resumeImg t pa, births := c.births + 1 }
          s.setTstate n t tRestoring

/-- TASK_RESUME (R186). -/
def execTaskResume (n : Ch) (t : Tag) (s : State) : Out := .next (s.cmdResume n t)

/-- A slot restored from its image in memory: the mode word and values as read, the check state as kept. `none` where R108
refuses the image. -/
def restoreSlot (l : Slot) (b : List Byte) (old new : Nat) : Option Slot :=
  let w := num b 0 8
  let mode := bits w 2 1
  let groups := bits w 5 3
  let pack := bits w 7 6
  if bits w 63 26 ≠ 0 ∨ (slice b 28 36).any (· != 0) ∨ mode = 3 ∨ 4 < groups ∨ pack = 3 ∨ (mode = 0 ∧ (groups ≠ 0 ∨ pack ≠ 0)) then none
  else
    let acc (k : Nat) : Acc := ⟨BitVec.ofNat 32 (num b (64 + 4 * k) 4), BitVec.ofNat 32 (num b (4160 + 4 * k) 4)⟩
    let cells := (List.range 1024).foldl (fun (m : List (Nat × CellV)) k =>
      let c := kget m k {}
      if (kfind m k).isNone ∧ acc k = ⟨0, 0⟩ then m else kset m k { c with acc := acc k }) l.cur.cells
    let v : SlotVals := { l.cur with
      cells := cells
      r := (List.range 4).map fun g => bits w (11 + 2 * g) (10 + 2 * g)
      n := (List.range 4).map fun g => num b (8 + 4 * g) 4
      sat := (List.range 4).filter fun g => nbit (num b (24 + g) 1) 4
      formed := (List.range 4).map fun g => bits w (11 + 2 * g) (10 + 2 * g) }
    let tags := ((List.range (packGroups pack)).map fun g => bits w (19 + 2 * g) (18 + 2 * g)).map fun u => if u = old then new else u
    let p : AccGroup := { tag := new, mode := mode, groups := groups, pack := pack, acc := nbit w 8, paired := l.occ.paired,
                          int := nbit w 9, tags := tags }
    let q : AccGroup := { l.last with tag := new, tags := l.last.tags.map fun u => if u = old then new else u }
    some { last := if l.last = l.occ then p else q, occ := p, cur := v, snap := v, due := l.due.map fun x => (if x.1 = old then new else x.1, x.2), reads := l.reads }

/-- Put the instructions of an image back: they are issued again first, in their order (R185; log entry 17). -/
def State.putBack (s : State) (n t : Nat) (i : SaveImg) : State :=
  let k := i.task
  let c0 := (s.ch n).issues
  let seqOf (id : Nat) : Nat := c0 + 1 + (k.window.findIdx? fun w => w.id = id).getD 0
  let s := s.modCh n fun c => { c with
    chains := c.chains ++ i.chains.map fun (x : Chain) => { x with tag := t }
    arr := c.arr ++ i.arr.map fun (a : ArrInstr) =>
      { a with tag := t, seq := seqOf a.id, tiles := a.tiles.map fun (u : Tile) => if u.tag = i.tag then { u with tag := t } else u }
    lists := c.lists ++ i.lists.map fun (l : ListInstr) => { l with tag := t, seq := seqOf l.id }
    joins := c.joins ++ i.joins.map fun (j : GvJoin) => { j with tag := t }
    sumpDrain := if c.sumpDrain.isSome then c.sumpDrain else i.drain.map fun (d : SumpDrain) => { d with tag := t }
    issues := c.issues + k.window.length
    resumeImg := kdel c.resumeImg t }
  let s := (s.bump (CH_ISSUED n) k.window.length).tally n 0x002 (.tag t) k.window.length
  let s := i.starts.foldl (fun (s : State) x =>
    let st := { x.2 with tag := t }
    if st.kind == .receive && st.begun then
      let r := dRegion st.d
      let mine := (s.regState n r == regArmed || s.regState n r == regFilling) && (s.region n r).id == st.id
        && s.get (ST_REGION n r) ST_REGION.TAG == i.tag && (s.region n r).born == k.born
      if mine then
        let s := s.setRegion n r { s.region n r with born := (s.task n t).born }
        (s.set (ST_REGION n r) ST_REGION.TAG t).queueStart n x.1 st
      else s
    else s.queueStart n x.1 st) s
  (s.setTask n t { k with saving := false, stopped := false, stall := 0, born := (s.task n t).born }).showWindow n t

/-- Restore every slot image of a save area whose HELD bit is 1; the flag says that R108 refuses one (R107). -/
def State.restoreSlots (s : State) (n t : Nat) (i : SaveImg) (b : List Byte) : State × Bool :=
  (List.range 2).foldl (fun (a : State × Bool) j =>
    let s := a.1
    let img := slice b (12352 * j) 12352
    let h := (i.held.find? (·.1 = j)).getD (j, phHeld, true, {})
    if !nbit (num img 0 8) 0 then a
    else
      match restoreSlot h.2.2.2 img i.tag t with
      | none => (s, true)
      | some l => (((s.setSlot n j l).setPhase n j h.2.1).set (SP_STATUS n) (slotOpenFld j) (bit h.2.2.1), a.2)) (s, false)

/-- What RESUME puts back beside the slots: the tag's registers, its instructions, and the context is ACTIVE (R186). -/
def State.restored (s : State) (n t : Nat) (i : SaveImg) : State :=
  let s := ((tagRegs n t ++ tagDescs n t).zip i.regs).foldl (fun (s : State) x => s.setReg x.1 x.2) s
  let s := (s.putBack n t i).setTstate n t tActive
  let s := ((((s.showArray n).showLauter n).showFlow n).showSump n).showJoin n
  (s.settleAll n).cmdDone n 0

/-- RESUME_RESTORED (R186, R107): every slot image is restored once its slot is free, and the context is ACTIVE. -/
def execResumeRestored (n : Ch) (t : Tag) (s : State) : Out :=
  match kfind (s.ch n).resumeImg t with
  | none => .next s
  | some pa =>
    match kfind s.saves pa with
    | none => .next s
    | some i =>
      if s.tstate n t ≠ tRestoring ∨ i.held.any (fun h => s.slotPhase n h.1 != phFree || s.slotOpen n h.1)
          ∨ (i.drain.isSome ∧ (s.ch n).sumpDrain.isSome) then .next s
      else
        let base := s.get (CH_TASK_SAVE n t) CH_TASK_SAVE.SAVE_BASE * 4096
        match s.readVa n t base 24704 { r := true } with
        | (.ok b _ _, s) =>
          let (s, bad) := s.restoreSlots n t i b
          let s := s.restored n t i
          .next (if bad then s.spFault n t spRestoreBad (s.task n t).nextId else s)
        | (.fault c va, s) => .next (s.memFault n t c va 0 (s.task n t).nextId)
        | (.wait, s) => .next s

/-! ### Abort (R188) -/

/-- ABORT: the task ends with CH_ABORTED. -/
def State.cmdAbort (s : State) (n t : Nat) : State :=
  let st := s.tstate n t
  if st = tActive ∨ st = tSaving ∨ st = tRestoring then (s.abortFrom n t chAborted).cmdDone n 0 else s.cmdDone n 2

/-- TASK_ABORT (R188). -/
def execTaskAbort (n : Ch) (t : Tag) (s : State) : Out := .next (s.cmdAbort n t)

/-- Bytes that hold unspecified data (R147, R185, R188): free values, where the address still translates to this module. -/
def State.scramble (s : State) (n x : Nat) (l : List (Nat × Nat)) : State :=
  (pageSplit l).foldl (fun (s : State) r =>
    match s.translate n x r.1 { w := true } with
    | (.ok (pa, leaf), s) =>
      if leafRemote leaf then s
      else
        match s.target pa r.2 with
        | .ok _ => { s.writePa pa (freeBytes s.freeCtr r.2) false with freeCtr := s.freeCtr + r.2 }
        | .error _ => s
    | (.error _, s) => s) s

/-- Elements that a write start has issued. -/
def Start.issued (st : Start) : List Nat :=
  match st.kind with
  | .copyWrite => (List.range st.next).map st.at_
  | .fill => (List.range st.next).map st.at_
  | .sink => (st.buf.map (·.1)).filter fun el => !st.todo.contains el
  | _ => []

/-- Put unspecified data at physical ranges. -/
def State.scramblePa (s : State) (l : List (Nat × Nat)) : State :=
  l.foldl (fun (s : State) r => { s.writePa r.1 (freeBytes s.freeCtr r.2) false with freeCtr := s.freeCtr + r.2 }) s

/-- Where the aborted instructions of a task had written; a chain's ranges are physical (`Chain.wrote`). A run that still waits to be
written has left its slot as it was (R115). -/
def State.partWritten (s : State) (n t : Nat) : List (Nat × Nat) :=
  let streams := (((s.eng n 2).starts ++ (s.eng n 2).queue).filter fun st => st.tag = t).flatMap fun st => st.issued.map fun el =>
    let (d, k) := s.elDesc n st el
    placeOf d k
  let use := SP_SPILL_USE n t
  let alive := s.get (SP_SESSION n t) SP_SESSION.OPEN = 1
    || (s.ch n).lists.any fun l => l.tag = t && opcode l.word = 0x61 && !l.done
  let drain := (s.ch n).sumpDrain.filter fun d => d.tag = t
  let waits (va : Nat) : Bool := (s.eng n 2).internal.any fun st => st.tag = t && st.desc = 0 && st.next = 0 && dBase st.d = va
  let spill := (if alive then ((List.range (s.get use SP_SPILL_USE.USED)).map fun j => s.runVa n t 0 j).filterMap fun va =>
      if waits va then none else some (va, 512) else [])
    ++ (drain.map fun d => [(s.runVa n t 1 0, 512 * d.other)]).getD []
  let save := if (s.task n t).saving then [(s.get (CH_TASK_SAVE n t) CH_TASK_SAVE.SAVE_BASE * 4096, 28288)] else []
  streams ++ spill ++ save

/-- The regions and multicasts of an aborted task (R233, Table 4, steps 9 and 11). -/
def State.abortSparge (s : State) (n t : Nat) : State :=
  let sends := [0, 1].flatMap fun e => (s.eng n e).starts.filter fun st => st.tag = t && st.kind == .send && st.begun
  let s := sends.foldl (fun (s : State) st => s.closeMcast n st) s
  (List.range 16).foldl (fun (s : State) r =>
    let st := s.regState n r
    if s.armedBy n r t ∧ (st = regArmed ∨ st = regFilling) then
      let g := s.region n r
      let k := dMgroup g.d * 16 + r
      let s := if st = regArmed then { s with arm := kput s.arm k (kget s.arm k 0 - 1) 0 } else s
      let s := if st = regFilling then s.scramblePa g.foot else s
      (s.setRegion n r { g with mc := none, turn := none }).regionFree n r
    else s) s

/-- Whether a column group still counts: its task runs, or it has passed and drains (R76, R77). -/
def State.goesOn (s : State) (n : Nat) (u : Tile) : Bool := !u.gone && (s.live n u.tag || (u.passed && s.drains n u.tag))

/-- Array instructions of an aborted task that go on for the column groups of other tags (R77): packed, with a live group, and
their slot's group drains. -/
def State.survives (s : State) (n t : Nat) (a : ArrInstr) : Bool :=
  aPack a.word != 0 && a.tiles.any (fun u => u.tag != t && s.goesOn n u)
    && (s.ch n).arr.any fun b => b.tag = t && aSlot b.word = aSlot a.word && decide (a.seq ≤ b.seq) && aDrain b.word

/-- The array discards the task's instructions, slots and column groups (R77, R99). -/
def State.abortArray (s : State) (n t : Nat) : State :=
  let l := (s.ch n).arr
  let stay := l.filter fun a => a.tag = t && s.survives n t a
  let go := l.filter fun a => a.tag = t && !s.survives n t a
  let s := go.foldl (fun (s : State) a => s.regionUse n (s.operandFoot n a)) s
  let newTag (a : ArrInstr) : Nat := ((a.tiles.find? fun u => u.tag != t && s.goesOn n u).map (·.tag)).getD t
  let kept (i : Nat) : Option ArrInstr := (l.find? fun a => a.tag = t && aSlot a.word = i).filter fun a =>
    (aCont a.word || a.entered || a.phase == .draining) && s.survives n t a
  let dead (a : ArrInstr) : ArrInstr :=
    { a with tiles := a.tiles.map fun u => if u.tag = t then { u with gone := true, run := false } else u }
  let s := (List.range 2).foldl (fun (s : State) i =>
    let sl := s.slot n i
    match kept i with
    | some a => s.setSlot n i { sl with occ := { sl.occ with tag := newTag a }, due := sl.due.filter fun x => x.1 != t }
    | none =>
      if s.slotPhase n i ≠ phFree ∧ sl.occ.tag = t then
        let s := sl.reads.foldl (fun (s : State) f => s.regionUse n f) s
        (s.setSlot n i { last := sl.last }).setPhase n i phFree
      else s.setSlot n i { sl with
        due := sl.due.filter fun x => x.1 != t
        cur := sl.occ.tags.zipIdx.foldl (fun v x => if x.1 = t then v.takeGroup {} sl.occ.pack x.2 else v) sl.cur }) s
  let s := (List.range 2).foldl (fun (s : State) i =>
    if s.slotOpens n t i then (s.setSlot n i { s.slot n i with last := {} }).set (SP_STATUS n) (slotOpenFld i) 0 else s) s
  let gone (tag id el : Nat) : Bool := l.any fun a => a.tag = tag && a.id = id && (a.tiles[el / 2 ^ 40]?).any fun u => u.tag = t
  let s := (List.range 3).foldl (fun (s : State) e =>
    let en := s.eng n e
    let f (st : Start) : Start :=
      let st := { st with out := st.out.filter fun tr => !(st.kind.byTodo && gone st.tag st.id (tr.els.headD 0)) }
      let st := if st.kind.byTodo then { st with todo := st.todo.filter fun el => !gone st.tag st.id el } else st
      match stay.find? fun a => a.tag = st.tag && a.id = st.id with
      | some a => { st with tag := newTag a, id := 2 ^ 64 + a.seq }
      | none => st
    let was := (en.starts.flatMap fun st => st.out.map fun tr => (tr.no, st.tag))
    let en := { en.mapStarts f with queue := en.queue.map f }
    let now := en.starts.flatMap fun st => st.out.map fun tr => (tr.no, st.tag)
    let g (r : ArbReq) : Option ArbReq :=
      if r.ch = some n && r.eng = e && was.any (·.1 = r.no) then (now.find? (·.1 = r.no)).map fun x => { r with tag := x.2 }
      else some r
    (s.setEng n e en).arbRetag g) s
  s.modCh n fun c => { c with
    arr := (c.arr.filter fun (a : ArrInstr) => !(go.any fun b => b.tag = a.tag && b.id = a.id)).map fun a =>
      if a.tag = t then { dead a with tag := newTag a, id := 2 ^ 64 + a.seq } else dead a
    updQ := (c.updQ.filter fun (u : Upd) => u.tag != t).filterMap fun u =>
      if u.own = t then (stay.find? fun a => a.id = u.id).map fun a => { u with own := newTag a, id := 2 ^ 64 + a.seq } else some u }

/-- The end of an abort (R188): every engine has discarded the task's work; the task is ENDED with its code. -/
def State.abortEnd (s : State) (n t : Nat) : State :=
  let k := s.task n t
  let part := s.partWritten n t
  let s := ((s.abortSparge n t).abortArray n t).arbWithdraw n t
  let s := (s.scramble n k.xlat part).scramblePa (((s.ch n).chains.filter fun c => c.tag = t).flatMap (·.wrote))
  let s := s.modCh n fun c => { c with
    sump := (c.sump.map fun x => (x.1, x.2.foldl (fun l e => if e.2.tag = t then dropWay l e.1 else l) x.2)).filter fun x => !x.2.isEmpty
    spill := c.spill.filter fun e => e.tag != t
    runs := c.runs.filter fun r => r.tag != t
    resumeImg := kdel c.resumeImg t }
  let s := (s.clearContext n t []).emptySpill n
  let s := if k.saving then s.cmdDone n 2 else s
  let s := (s.set (CH_FAULT n) CH_FAULT.CODE k.abortCode).set (CH_FAULT n) CH_FAULT.TAG t
  let s := s.set (CH_FAULT_PC n) CH_FAULT_PC.PC k.abortPc
  (((s.endTask n t k.abortCode).retireAll n).rearm n).showSump n

/-- Whether tiles of a task have still to drain before its abort ends (R76). -/
def State.drainDue (s : State) (n t : Nat) : Bool :=
  s.drains n t && (s.ch n).arr.any fun a => aDrain a.word && a.tiles.any fun u => u.tag = t && u.passed && !u.gone

/-- ABORT_COMPLETE (R188). -/
def execAbortComplete (n : Ch) (t : Tag) (s : State) : Out :=
  if s.tstate n t ≠ tAborting ∨ s.drainDue n t then .next s else .next (s.abortEnd n t)

end Sys2Proof.Machine
end

