-- ==== Sys2Proof/Machine/Memory.lean ====
section
/-! DEFINITION. The memory events (R197, R203, R210, R213, R214, R218): scrubbing, retirement, invalidation, the tun flush. -/

namespace Sys2Proof.Machine

/-! ### Scrubbing (R210, R211) -/

/-- The key of a scrubber, its period field, the field that shows its pass, the codewords of a pass. Pocket and cellar of
a chamber share SCRUB_ACTIVE. The spare rows of a cellar and the reserved area of G7 DRAM follow what addresses reach; a spare
row in use is read at the addresses it stands for. -/
def scrubKey : ScrubStore → Nat
  | .cellar n => 2 * n.val
  | .pocket n => 2 * n.val + 1
  | .tun => 2048
  | .g7 => 2049

def State.scrubPeriod (s : State) : ScrubStore → Nat
  | .cellar n => s.get (CL_CTRL n) CL_CTRL.CELLAR_PERIOD
  | .pocket n => s.get (CL_CTRL n) CL_CTRL.POCKET_PERIOD
  | .tun => s.get TN_CTRL TN_CTRL.PERIOD
  | .g7 => s.get GM_CTRL GM_CTRL.PERIOD

def scrubWords : ScrubStore → Nat
  | .cellar _ => 786432 + 4096
  | .pocket _ => 49152
  | .tun => 8388608
  | .g7 => 1409286144 + 25165824

/-- Show whether a scrub pass runs. -/
def State.showScrub (s : State) : ScrubStore → State
  | .cellar n | .pocket n =>
    s.set (CL_STATUS n) CL_STATUS.SCRUB_ACTIVE (bit ([2 * n.val, 2 * n.val + 1].any fun k => (kget s.scrubs k (0, false)).2))
  | .tun => s.set TN_STATUS TN_STATUS.SCRUB_ACTIVE (bit (kget s.scrubs 2048 (0, false)).2)
  | .g7 => s.set GM_STATUS GM_STATUS.SCRUB_ACTIVE (bit (kget s.scrubs 2049 (0, false)).2)

/-- The line in a location of the tun. -/
def State.tunAt (s : State) (bank set way : Nat) : Option Nat :=
  (s.tun.find? fun e => Config.tunBank e.1 % 128 == bank && Config.tunSet e.1 % 512 == set && e.2.way == way).map (·.1)

/-- The count of a unit starts again as the scrubber reads its first codeword (R211). -/
def State.scrubCount (s : State) (x : ScrubStore) (i : Nat) : State :=
  match x with
  | .cellar n =>
    let o := i * 32
    let (tier, row, cw) := if i < 786432 then (cellarTier o, cellarRow o, cellarCw o)
      else ((i - 786432) / 1024, 3072 + (i - 786432) / 64 % 16, i % 64)
    if cw = 0 then s.modCh n fun c => { c with rowCount := kdel c.rowCount (tier * 4096 + row) } else s
  | .pocket n => if i % 64 = 0 then s.modCh n fun c => { c with rowCount := kdel c.rowCount (65536 + i / 64) } else s
  | .tun => if i % 8 = 0 then { s with tunCount := kdel s.tunCount (i / 8) } else s
  | .g7 => if i % 65536 = 0 then { s with regionCount := kdel s.regionCount (i / 65536) } else s

/-- The scrub read of codeword `i` of a pass. -/
def State.scrubAt (s : State) (x : ScrubStore) (i : Nat) (upsets : List Upset) : State :=
  match x with
  | .cellar n =>
    let j := i - 786432
    if i < 786432 then ((upsets.foldl State.upset s).readCw (n.val * 786432 + i) true).2.2
    else if (s.freeSpares n (j / 1024)).contains (j / 64 % 16) then
      ((upsets.foldl State.upset s).readCw (spareCw n (j / 1024) (j / 64 % 16) (j % 64)) true).2.2
    else s
  | .pocket n => ((upsets.foldl State.upset s).readCw (0x000800000000 / 32 + n.val * 49152 + i) true).2.2
  | .tun =>
    match s.tunAt (i / 65536) (i / 128 % 512) (i / 8 % 16) with
    | some line => ((upsets.foldl State.upset s).readCw (line * 8 + i % 8) true).2.2
    | none => s
  | .g7 =>
    let cw := 0x001000000000 / 32 + i
    ((upsets.foldl (fun (s : State) u => if u.cw = cw then s.upsetDram u else s) s).readDram cw true).2.2

/-- The channel that holds codeword `i` of a G7 scrub pass: past usable space the reserved bytes of unit after unit (R198). -/
def scrubChan (i : Nat) : Nat := if i < 1409286144 then g7Chan (32 * i) else (i - 1409286144) % 64

/-- What a scrub read requests, at priority 0 (R210, R237): its store's port, bank or channel, and the pocket's write port where it
writes back. -/
def State.scrubRoute (s : State) (x : ScrubStore) (i : Nat) (upsets : List Upset) : List (Nat × Nat) :=
  match x with
  | .cellar n => [(n.val * 4, 4)]
  | .pocket n =>
    let a := upsets.foldl State.upset s
    let b := (a.readCw (0x000800000000 / 32 + n.val * 49152 + i) true).2.2
    (n.val * 4 + 1, 5) :: if b.mem = a.mem ∧ b.chk = a.chk ∧ b.poison = a.poison then [] else [(n.val * 4 + 2, 4)]
  | .tun => [(4096 + i / 65536, 4)]
  | .g7 => [(4224 + scrubChan i, 2)]

/-- The scrub read of codeword `i` of a pass is made: the pass goes on. -/
def State.scrubDone (s : State) (store : ScrubStore) (i : Nat) (upsets : List Upset) : State :=
  let s := (s.scrubCount store i).scrubAt store i upsets
  let j := i + 1
  let s := { s with scrubs :=
    if j < scrubWords store then kset s.scrubs (scrubKey store) (j, true) else kdel s.scrubs (scrubKey store) }
  s.showScrub store

/-- SCRUB_READ (R210): the patrol scrubber of a store reads its next codeword, once granted. A period of 0 starts no pass; a pass under
way goes to its end. -/
def execScrubRead (store : ScrubStore) (upsets : List Upset) (s : State) : Out :=
  let (i, on) := kget s.scrubs (scrubKey store) (0, false)
  if !on ∧ s.scrubPeriod store = 0 then .next s
  else
    .next (s.arbitrate (otherReq (some 0) 9 (scrubKey store)) (s.scrubRoute store i upsets) fun s => s.scrubDone store i upsets)

/-! ### Row retirement (R213) -/

/-- Codeword `c` of a row of a tier, by physical codeword number. -/
def rowWord (n tier row c : Nat) : Nat :=
  let l := row * 2048 + c * 32
  if row < 3072 then (n * 0x01800000 + l / 256 * 1024 + tier * 256 + l % 256) / 32 else spareCw n tier (row - 3072) c

/-- The copy of a row ends (R213, Table 7, steps 3 and 4): with correction, poison kept; its addresses map to the tier's next spare. -/
def State.rowCopied (s : State) (n : Ch) (key : Nat) : State :=
  let tier := key / 4096
  let row := key % 4096
  let k := (s.freeSpares n tier).find? (fun k => row != 3072 + k) |>.getD 0
  let s := (List.range 64).foldl (fun (s : State) c =>
    let (d, p, s) := s.readCw (rowWord n tier row c) false
    s.putCw (if row < 3072 then rowWord n tier row c else spareCw n tier k c) d p) s
  let s := (s.spareRow n tier row k).modCh n fun c => { c with
    retiring := c.retiring.filter (· != key)
    rowCount := kdel c.rowCount key }
  let s := s.set (CL_STATUS n) CL_STATUS.RETIRING (bit !(s.ch n).retiring.isEmpty)
  let s := s.keepLog fun l => { l with retired := l.retired ++ [.cellarRow n (Fin.ofNat 4 tier) row] }
  (s.tally n 0x803 .any 1).event 0xE004 n key

/-- CELLAR_ROW_COPY_END (R213): the copy of the row that retires goes through the cellar port at priority 7 (R237). -/
def execCellarRowCopyEnd (n : Ch) (s : State) : Out :=
  match (s.ch n).retiring with
  | [] => .next s
  | key :: _ => .next (s.arbitrate (otherReq (some 7) 11 n) [(n * 4, 5)] fun s => s.rowCopied n key)

/-! ### Region moves (R195, R214) -/

/-- The codewords of a G7 region that hold anything. -/
def State.regionWords (s : State) (r : Nat) : List Nat :=
  let lo := (0x001000000000 + r * 0x200000) / 32
  (((s.mem.map fun (e : Nat × Byte) => e.1 / 32) ++ (s.chk.map fun (e : Nat × Byte) => e.1 / 4)
    ++ s.poison.map fun (e : Nat × Byte) => e.1).filter fun c => lo ≤ c && c < lo + 65536).eraseDups

/-- The data of a codeword as a read delivers it (R207), nothing written back: none where the read finds poison. -/
def State.decoded (s : State) (cw : Nat) : Option (List Byte) :=
  let c := s.seen cw
  if s.poisoned cw then none
  else if c.all (· == 0) then some (c.take 32)
  else
    match t2Decode c with
    | .good => some (c.take 32)
    | .corrected f => some (f.take 32)
    | .uncorrectable => none

/-- A table entry as a read delivers it; one with poison is none to the Lantern, as to a walk (R201). -/
def State.entryAt (s : State) (a : Nat) : Nat := ((s.decoded (a / 32)).map fun d => ofBytes (slice d (a % 32) 8)).getD 0

/-- Physical addresses of the tables that a table of `k` entries points to at one level. -/
def State.below (s : State) (k : Nat) (tables : List Nat) : List Nat :=
  tables.flatMap fun t => (List.range k).filterMap fun i =>
    let e := s.entryAt (t + 8 * i)
    if nbit e 0 && !nbit e 1 then some (bits e 45 12 * 4096) else none

/-- Addresses of every leaf entry of every context (R199, R200). -/
def State.leaves (s : State) : List Nat :=
  let base := s.get GM_XLAT_BASE GM_XLAT_BASE.BASE * 2 ^ 20
  let l1 := (List.range 65536).filterMap fun x =>
    let e := s.entryAt (base + 16 * x)
    if nbit e 0 then some (bits e 45 12 * 4096) else none
  let l3 := s.below 512 (s.below 512 l1)
  let l4 := s.below 512 l3
  let leafIn (k : Nat) (t : Nat) : List Nat := (List.range k).filterMap fun i =>
    let e := s.entryAt (t + 8 * i)
    if nbit e 0 && nbit e 1 then some (t + 8 * i) else none
  (l3.flatMap (leafIn 512)) ++ l4.flatMap (leafIn 32)

/-- The Lantern writes memory: through the tun where it is G7 DRAM (R195); poison travels with data that it copies (R209). -/
def State.lanternPut (s : State) (pa : Nat) (l : List Byte) (poison : Bool) : State :=
  (s.touch pa l.length 0 true).writePa pa l poison

/-- The Lantern writes bytes of its own. -/
def State.lanternWrite (s : State) (pa : Nat) (l : List Byte) : State := s.lanternPut pa l false

/-- The Lantern reads memory. -/
def State.lanternRead (s : State) (pa k : Nat) : List Byte × Bool × State := (s.touch pa k 0 false).readPa pa k

/-- Rewrite every leaf that maps region `r` so that it maps region `f` (R214, Table 8, step 4). -/
def State.remapLeaves (s : State) (r f : Nat) : State :=
  s.leaves.foldl (fun (s : State) a =>
    let e := s.entryAt a
    let pa := bits e 45 12 * 4096
    if !leafRemote e && inG7 pa && g7Region (pa - 0x001000000000) = r then
      (s.lanternRead a 8).2.2.lanternWrite a (toBytes 8 (e - pa + (pa - r * 0x200000 + f * 0x200000)))
    else s) s

/-- Start an invalidation by scope, context and range exponent (R203). -/
def State.invalStart (s : State) (scope x log2 : Nat) : State :=
  if s.get GM_INVAL_STATUS GM_INVAL_STATUS.BUSY = 1 then s
  else
    let s := (s.set GM_INVAL_STATUS GM_INVAL_STATUS.BUSY 1).set GM_INVAL_STATUS GM_INVAL_STATUS.DONE 0
    { s with inval := some (scope, x, log2, s.get GM_INVAL_VA GM_INVAL_VA.VA) }

/-- The lines of a region that the tun holds dirty. -/
def State.dirtyOf (s : State) (r : Nat) : List Nat :=
  let line0 := (0x001000000000 + r * 0x200000) / 256
  (s.tun.filter fun e => line0 ≤ e.1 && e.1 < line0 + 8192 && e.2.dirty).map (·.1)

/-- A region's copy ends (R214, Table 8, steps 3 and 4; R195): each line is copied at the channels, its dirty tun copy written back
first, and what the tun holds of the new line gives way to the copy; then the leaves are rewritten and all contexts invalidated. -/
def State.regionCopied (s : State) (r f : Nat) : State :=
  let s := (s.dirtyOf r).foldl (fun (s : State) l => s.wroteBack l) s
  let lo := (0x001000000000 + r * 0x200000) / 32
  let hi := (0x001000000000 + f * 0x200000) / 32
  let new (line : Nat) : Bool := hi ≤ line * 8 && line * 8 < hi + 65536
  let s := { s with tun := s.tun.filter fun e => !new e.1 }.dropNoise fun cw => new (cw / 8)
  let cws := ((s.regionWords r).map (· - lo)) ++ (s.regionWords f).map (· - hi)
  let s := cws.eraseDups.foldl (fun (s : State) c =>
    let (d, p, s) := s.readDram (lo + c) false
    s.putDram (hi + c) (d ++ t2Check d) (thrice p)) s
  let s := s.remapLeaves r f
  { s with move := some (r, f, 1) }.invalStart 1 0 0

/-- What a region's copy requests (R195, R237): input 3 of every channel, at priority 7. -/
def copyReq : ArbReq := otherReq (some 7) 10 0

def copyRoute : List (Nat × Nat) := (List.range 64).map fun c => (4224 + c, 3)

/-- G7_REGION_COPY_END (R214): the copy of the region that moves, through the channels' arbiters. The Lantern waits while another
invalidation runs. -/
def execG7RegionCopyEnd (s : State) : Out :=
  match s.move with
  | some (r, f, 0) =>
    if s.inval.isSome then .next s else .next (s.arbitrate copyReq copyRoute fun s => s.regionCopied r f)
  | _ => .next s

/-- G7_REGION_RETIRE (R214, Table 8, step 5). -/
def execG7RegionRetire (s : State) : Out :=
  match s.move with
  | some (r, f, 1) =>
    if s.get GM_INVAL_STATUS GM_INVAL_STATUS.DONE = 0 then .next s
    else
      match (List.range 256).find? fun i => s.get (GM_RETIRE i) GM_RETIRE.VALID = 0 with
      | none => .next s
      | some i =>
        let s := (s.set (GM_RETIRE i) GM_RETIRE.REGION r).set (GM_RETIRE i) GM_RETIRE.VALID 1
        let s := s.set GM_STATUS GM_STATUS.RETIRED (s.get GM_STATUS GM_STATUS.RETIRED + 1)
        let s := s.set GM_STATUS GM_STATUS.MOVING 0
        let s := { s with
          move := none
          regionCount := kdel s.regionCount r
          g7Used := s.g7Used.map fun u => if u = r then f else u }
        let s := s.keepLog fun l => { l with retired := l.retired ++ [.g7Region r] }
        let s := s.event 0xE004 srcModule r
        .next (match s.moveWait with
          | [] => s
          | q :: rest => { s with moveWait := rest }.retireRegion q)
  | _ => .next s

/-! ### Invalidation (R203) -/

/-- GM_INVAL_ALL (R203): scope 1; a write while BUSY is ignored (R219). -/
def execGmInvalAll (s : State) : Out := .next (s.invalStart 1 0 0)

/-- GM_INVAL_CONTEXT (R203): scope 2. -/
def execGmInvalContext (x : BitVec 16) (s : State) : Out := .next (s.invalStart 2 x.toNat 0)

/-- GM_INVAL_RANGE (R203): scope 3, `2 ^ log2` bytes at GM_INVAL_VA as it stands at the write. -/
def execGmInvalRange (x : BitVec 16) (log2 : Nat) (s : State) : Out := .next (s.invalStart 3 x.toNat log2)

/-- Whether a cached entry's key lies in an invalidation's scope. -/
def inScope (scope x log2 va key : Nat) : Bool :=
  if scope = 1 then true
  else if scope = 2 then key / 2 ^ 33 = x
  else
    let size := if key / 2 ^ 32 % 2 = 1 then 0x200000 else 0x10000
    let p := key % 2 ^ 32 * size
    let lo := va / 2 ^ log2 * 2 ^ log2
    key / 2 ^ 33 = x && lo < p + size && p < lo + 2 ^ log2

/-- GM_INVAL_DONE (R203): no translation cache holds an entry in scope any more. -/
def execGmInvalDone (s : State) : Out :=
  match s.inval with
  | none => .next s
  | some (scope, x, log2, va) =>
    let keep (m : List (Nat × Nat)) : List (Nat × Nat) := m.filter fun e => !inScope scope x log2 va e.1
    let s := { s with
      inval := none
      ytlb := keep s.ytlb
      chambers := s.chambers.map fun (c : Nat × Chamber) => (c.1, { c.2 with tlb := keep c.2.tlb }) }
    .next ((s.set GM_INVAL_STATUS GM_INVAL_STATUS.BUSY 0).set GM_INVAL_STATUS GM_INVAL_STATUS.DONE 1)

/-! ### The tun flush, refresh (R218, R197) -/

/-- TUN_FLUSH (R218): every line dirty now is to be written back. -/
def execTunFlush (s : State) : Out :=
  let lines := (s.tun.filter fun e => e.2.dirty).map (·.1)
  .next ({ s with flush := s.flush ++ lines.filter fun l => !s.flush.contains l }.set TN_STATUS TN_STATUS.FLUSHING 1)

/-- The lines that a flush has still to write back. -/
def State.flushLines (s : State) : List Nat := (s.tun.filter fun e => e.2.dirty && s.flush.contains e.1).map (·.1)

/-- What a flush requests (R237): the write-back input of its lines' channels, as the Lantern's access (log entry 114). -/
def flushReq : ArbReq := otherReq (some 7) 10 1

def State.flushRoute (s : State) : List (Nat × Nat) :=
  (s.flushLines.map fun l => (4224 + g7Chan (l * 256 - 0x001000000000), 1)).eraseDups

/-- The lines of a flush are written back and stay valid (R218). -/
def State.flushed (s : State) : State :=
  { s.flushLines.foldl (fun (s : State) l => s.wroteBack l) s with flush := [] }.set TN_STATUS TN_STATUS.FLUSHING 0

/-- TUN_FLUSH_DONE (R218): the flush's write-backs, through the channels' arbiters. -/
def execTunFlushDone (s : State) : Out :=
  if s.get TN_STATUS TN_STATUS.FLUSHING = 0 then .next s
  else .next (s.arbitrate flushReq s.flushRoute State.flushed)

/-- G7_REFRESH (R197): the controllers refresh a channel's cells, which changes nothing that they hold. -/
def execG7Refresh (_ : Fin 64) (_ : Bool) (s : State) : Out := .next s

end Sys2Proof.Machine
end

