-- ==== Sys2Proof/Machine/Recipe.lean ====
section
/-! DEFINITION. The sections of an image (R314), and what the Lantern reads from a recipe's (R316, R248). -/

namespace Sys2Proof.Machine

/-- An entry of the section table (R314). -/
structure Sec where
  type : Nat
  flags : Nat
  module : Nat
  off : Nat
  len : Nat
  digest : List Byte
  deriving DecidableEq, Repr

def imgSecCount (l : List Byte) : Nat := num l 0x14 2

/-- The section table as it stands in the image. -/
def imgTable (l : List Byte) : List Byte := slice l 0x80 (96 * imgSecCount l)

/-- The section table. -/
def imgSections (l : List Byte) : List Sec :=
  (List.range (imgSecCount l)).map fun i =>
    let o := 0x80 + 96 * i
    ⟨num l o 2, num l (o + 2) 2, num l (o + 4) 1, num l (o + 8) 8, num l (o + 16) 8, slice l (o + 24) 64⟩

/-- A reserved byte or flag of the section table is not 0. -/
def imgTableBad (l : List Byte) : Bool :=
  (List.range (imgSecCount l)).any fun i =>
    let o := 0x80 + 96 * i
    decide (2 ≤ num l (o + 2) 2) || (slice l (o + 5) 3 ++ slice l (o + 88) 8).any (· != 0)

/-- Whether a module reads a section (R314, R318). -/
def Sec.mine (x : Sec) (idx : Nat) : Bool := x.module = idx || x.module = 0xFF

/-- The bytes of a section. -/
def Sec.bytes (x : Sec) (l : List Byte) : List Byte := slice l x.off x.len

/-- The sections of a type that a module reads, end to end; `none` where it has none. -/
def imgPart (l : List Byte) (type idx : Nat) : Option (List Byte) :=
  let mine := (imgSections l).filter fun x => x.type = type && x.mine idx
  if mine.isEmpty then none else some (mine.flatMap fun x => x.bytes l)

/-- The words of bytes. -/
def bytesWords (k : Nat) (l : List Byte) : List Word := (List.range k).map fun i => BitVec.ofNat 64 (num l (8 * i) 8)

/-- The passage record that a recipe carries (R248, R316). -/
def imgPassage (l : List Byte) : List Word :=
  match (imgSections l).find? fun x => x.type = 1 with
  | some x => bytesWords 8 (slice l x.off (min 64 x.len))
  | none => []

/-- Whether a recipe holds every required section, and none twice (R316). -/
def imgComplete (l : List Byte) : Bool :=
  let types := (imgSections l).map (·.type)
  decide types.Nodup && [1, 2, 3, 4, 5, 8, 9].all types.contains

/-- What a recipe's sections say: the passage record is laid out by Table 1 of R248; the layouts of the others are open (log
entry 30). -/
def recipeOf (l : List Byte) : Recipe := { Config.recipe l with complete := imgComplete l, passage := imgPassage l }

end Sys2Proof.Machine
end

