-- ==== Sys2Proof/Machine/Links.lean ====
section
/-! DEFINITION. The Gallery's ports (R261 to R275): frames received, acknowledgement, bring-up, flaps. A command that stands for
a periodic send stands for its timer (log entry 32). -/

namespace Sys2Proof.Machine

/-- Ticks of a number of milliseconds. -/
def ms (n : Nat) : Nat := n * 100000

/-- Change a port's state and raise the event (R300, Table 13). -/
def State.gpTo (s : State) (p st : Nat) : State :=
  if s.gpState p = st then s
  else
    let s := (s.setGpState p st).event 0xE001 p st
    if s.svc.portRecal.isEmpty then s else s.recalPorts.showAout

/-- The recipe's entry for a port. -/
def State.portDef (s : State) (p : Nat) : Option PortDef :=
  match s.svc.recipe with
  | some (_, img) => (recipeOf img).ports.find? fun d => d.port = p
  | none => none

/-- The address frames of a link go to that no module forwards (R264). -/
def linkLocal : Nat := 0x3FFFF

/-- Put a frame on a port that is not UP: HELLO, and NEIGHBOUR before the link carries VCs. -/
def State.glRaw (s : State) (p : Nat) (f : GFrame) : State :=
  s.glEmit p (gSeal { f with src := s.addr, hops := s.get GL_CTRL GL_CTRL.MAX_HOPS })

/-- A LINK_CTRL frame (R268, Table 5). -/
def State.linkCtrl (s : State) (p going : Nat) : GFrame :=
  let v := s.gport p
  let w1 := (v.expect + 4095) % 4096 + bit v.got * 2 ^ 12 + bit v.nakDue * 2 ^ 13 + going * 2 ^ 14
  { mkFrame 0 linkLocal (w1 / 2 ^ 28 % 16) (w1 / 2 ^ 32)
      (v.ret.getD 0 0 % 4096 + v.ret.getD 1 0 % 4096 * 2 ^ 12 + v.ret.getD 2 0 % 4096 * 2 ^ 24
        + v.ret.getD 3 0 % 4096 * 2 ^ 36) [] with
    vc := 0, tag := w1 % 2 ^ 16, lseq := w1 / 2 ^ 16 % 2 ^ 12 }

/-- Send LINK_CTRL with what is due. -/
def State.sendLinkCtrl (s : State) (p going : Nat) : State :=
  (s.glRaw p (s.linkCtrl p going)).modGport p fun v => { v with ackDue := false, nakDue := false, ret := [0, 0, 0, 0] }

/-- Start training at a tick (R273, step 1). -/
def State.glTrain (s : State) (p at_ : Nat) : State :=
  let s := s.modGl fun g => { g with rx := g.rx.filter fun x => !(x.1 = p && x.2.1.type = 7 && x.2.1.op = 0) }
  (s.modGport p fun v => { v with trainSince := some at_, lastHello := none }).gpTo p gpTraining

/-- A port leaves UP: what waits at it is discarded (R268). -/
def State.glDrop (s : State) (p last : Nat) : State :=
  ((s.giveBackAll (s.gport p).txq).modGport p fun v => { v with
    txq := [], replay := [], credits := [0, 0, 0, 0], ret := [0, 0, 0, 0], ackDue := false, nakDue := false,
    nakSeq := 4096, nakCount := 0, zeroSince := [none, none, none, none], lost := false, got := false }).set
      (GL_PORT_STATUS p) GL_PORT_STATUS.LAST_DOWN last

/-- The DOWNs of a port that count as flaps: none older than HOLD_WINDOW, none before HOLD_WINDOW of continuous UP (R274). -/
def State.flaps (s : State) (p : Nat) : List Nat :=
  let v := s.gport p
  let win := s.get GL_CTRL GL_CTRL.HOLD_WINDOW * 100000000
  if s.gpState p = gpUp ∧ win ≤ s.clk - v.upSince then [] else v.downAt.filter fun t => s.clk - t < win

/-- Show a port's flaps, and in HOLD the milliseconds left of it (R284, Table 13). -/
def State.showHold (s : State) (p : Nat) : State :=
  let s := s.set (GL_PORT_STATUS p) GL_PORT_STATUS.FLAPS (min 31 (s.flaps p).length)
  s.set (GL_PORT_STATUS p) GL_PORT_STATUS.HOLD_LEFT
    (if s.gpState p = gpHold then min 0xFFFF (cdiv ((s.gport p).holdUntil - s.clk) (ms 1)) else 0)

/-- A port goes DOWN by itself (R273 step 8, R274): the flap is counted and the port holds. -/
def State.glFlap (s : State) (p last : Nat) : State :=
  let downs := s.flaps p ++ [s.clk]
  let n := downs.length
  let hold := s.get GL_CTRL GL_CTRL.HOLD_BASE * ms 10 * min 64 (2 ^ (n - 1))
  let s := (s.glDrop p last).gpTo p gpDown
  let s := s.modGport p fun v => { v with downAt := downs, holdUntil := s.clk + hold }
  (s.gpTo p gpHold).showHold p

/-! ### Frames received -/

/-- Whether a frame's type, VC and addresses are as R264 and R265 allow. -/
def gLegal (f : GFrame) : Bool :=
  typeVc f.type = f.vc && f.dest < 0x20000 && f.src < 0x20000

/-- Route a frame that arrived for another module (R269, steps 2 to 4), its units returned once it has left or is dropped (R266). -/
def State.forward (s : State) (p : Nat) (f : GFrame) : State :=
  if f.hops = 0 then (s.bump GL_DROP_TTL 1).giveBack p f.vc (gUnits f)
  else
    match s.route f.dest f.vc with
    | none => (s.bump GL_DROP_NO_ROUTE 1).giveBack p f.vc (gUnits f)
    | some q => s.glSendFrom q { f with hops := f.hops - 1, crc := 0 } (some p)

/-- A transit frame whose CRC fails after its header went on: the outgoing copy is ended badly (R268). -/
def State.stomp (s : State) (f : GFrame) : State :=
  if !gLegal f ∨ f.dest = s.addr ∨ f.hops = 0 then s
  else
    match s.route f.dest f.vc with
    | none => s
    | some q => s.glSend q { f with hops := f.hops - 1, crc := 1 }

/-- Whether a command serves an operation of a frame type (R265, Table 4). -/
def gKnown (f : GFrame) : Bool :=
  match f.type with
  | 5 => f.op < 6
  | 7 => f.op < 7
  | 8 => f.op < 3
  | _ => true

/-- A frame of an operation that the tables do not define: a MSG has its RESPONSE (R272), and nothing more comes of it. -/
def State.unknownOp (s : State) (f : GFrame) : State :=
  if f.type = 5 then s.respond f (if s.glBusy then 4 else 0) [] false else s

/-- Serve an accepted frame: drop it, deliver it or pass it on. -/
def State.glServe (s : State) (p : Nat) (f : GFrame) : State :=
  if !gLegal f then (s.bump GL_DROP_BAD 1).giveBack p (f.vc % 4) (gUnits f)
  else if f.dest ≠ s.addr then s.forward p f
  else if gKnown f then s.deliver p f
  else (s.unknownOp f).giveBack p f.vc (gUnits f)

/-- Whether `a` is behind `b` among 4,096 sequence numbers. -/
def seqBehind (a b : Nat) : Bool := decide (0 < (b + 4096 - a) % 4096 ∧ (b + 4096 - a) % 4096 ≤ 2048)

/-- Whether a port in a state decodes FEC codewords and takes link-local frames. -/
def gpTrained (st : Nat) : Bool := st = gpHello || st = gpChecking || st = gpUp || st = gpMiswired

/-- The FEC codewords that a frame came in (R262, R284): corrected ones, and ones that the code could not correct. -/
def State.glFec (s : State) (p : Nat) (c : Fec) : State :=
  ((s.bump (GL_PORT_FEC_CORR p) c.corr).bump (GL_PORT_FEC_UNCORR p) c.uncorr).tallyX 0xB04 p c.corr

/-- A bad frame or a gap (R267): a NAK names the last good LSEQ at once, and later frames are discarded until the expected one. -/
def State.glNak (s : State) (p : Nat) : State := (s.modGport p fun v => { v with lost := true, nakDue := true }).sendLinkCtrl p 0

/-- The expected frame was received in order. -/
def State.glInOrder (s : State) (p : Nat) : State :=
  s.modGport p fun v => { v with expect := (v.expect + 1) % 4096, lost := false, got := true, ackDue := true }

/-- GL_FRAME_RECEIVE (R262, R267, R268): a frame of VC0 to VC3 reaches a port, its codewords counted. Before UP only NEIGHBOUR is taken
(R273). A frame that touches a codeword left uncorrected fails its CRC check. -/
def execGlFrameReceive (p : GPort) (a : GArrival) (s : State) : Out :=
  let f := a.frame
  let c := a.fec
  let st := s.gpState p
  if f.type < 2 ∨ !gpTrained st then .next s
  else
    let s := s.glFec p c
    let whole : Bool := c.uncorr = 0
    let good : Bool := whole && f.crc == gCrc f
    let s := if good || (whole && f.crc == ~~~(gCrc f)) then s else s.bump (GL_PORT_CRC p) 1
    if st ≠ gpUp then
      if !good then .next s
      else if !gLegal f then .next (s.bump GL_DROP_BAD 1)
      else if f.type = 7 ∧ f.op = 0 then .next (s.deliver p f)
      else .next s
    else
      let s := s.modGport p fun v => { v with lastRx := s.clk }
      let v := s.gport p
      if whole ∧ f.crc = ~~~(gCrc f) then
        let s := s.bump (GL_PORT_STOMP p) 1
        if f.lseq = v.expect then .next (((s.glInOrder p).stomp f).giveBack p (f.vc % 4) (gUnits f)) else .next s
      else if !good then .next ((if f.lseq = v.expect then s.stomp f else s).glNak p)
      else if f.lseq = v.expect then .next (((s.glInOrder p).tallyX 0xB02 p f.payload.length).glServe p f)
      else if seqBehind f.lseq v.expect then .next (s.modGport p fun v => { v with ackDue := true })
      else if v.lost then .next s
      else .next (s.glNak p)

/-- Whether a link-local frame carries the addresses that R264 gives it. -/
def gLocal (f : GFrame) : Bool := f.dest = linkLocal && f.src < 0x20000

/-- The going-down notice of R273, step 9. -/
def State.glGoingDown (s : State) (p : Nat) : State :=
  ((s.glDrop p 5).gpTo p gpDown).glTrain p (s.clk + ms 1000)

/-- What an UP port makes of a LINK_CTRL frame (R266 to R268): acknowledged frames go, units come back, a NAK replays, and the NAK
that reaches RETRY_LIMIT takes the port DOWN. -/
def State.glCtrlUp (s : State) (p : Nat) (f : GFrame) : State :=
  let ack := f.tag % 2 ^ 12
  let v := s.gport p
  let left := if nbit f.tag 12 then v.replay.filter fun g => !(g.lseq = ack || seqBehind g.lseq ack) else v.replay
  let nak := nbit f.tag 13
  let v := { v with
    replay := left
    credits := v.credits.mapIdx fun k c => c + f.pa / 2 ^ (12 * k) % 4096
    nakCount := if nak then (if v.nakSeq = ack then v.nakCount + 1 else 1)
      else if left.length < v.replay.length then 0 else v.nakCount
    nakSeq := if nak then ack else v.nakSeq }
  let s := (s.setGport p v).markStall p
  if nak ∧ s.get GL_CTRL GL_CTRL.RETRY_LIMIT ≤ v.nakCount then s.glFlap p 3
  else
    let s := if nak then
        (left.foldl (fun (s : State) g => (s.glEmit p g).tallyX 0xB03 p 1) s).bump (GL_PORT_REPLAY p) left.length
      else s
    s.glPump p

/-- GL_LINK_CTRL (R267, R266, R268): acknowledgements, NAKs, credits, a going-down notice. -/
def execGlLinkCtrl (p : GPort) (a : GArrival) (s : State) : Out :=
  let f := a.frame
  let c := a.fec
  let st := s.gpState p
  if f.type ≠ 0 ∨ !gpTrained st then .next s
  else
    let s := s.glFec p c
    if c.uncorr ≠ 0 ∨ f.crc ≠ gCrc f then .next (s.bump (GL_PORT_CRC p) 1)
    else if !gLocal f then .next (s.bump GL_DROP_BAD 1)
    else
      let s := s.modGport p fun v => { v with lastRx := s.clk }
      if f.tag / 2 ^ 14 + f.lseq % 2 * 4 ≠ 0 then .next (s.glGoingDown p)
      else if st ≠ gpUp then .next s
      else .next (s.glCtrlUp p f)

/-! ### Bring-up (R273, Table 7) -/

/-- The HELLO payload (R277, Table 8). -/
def State.helloPayload (s : State) (p : Nat) : List Byte :=
  let seen := match (s.gport p).lastHello with
    | some t => decide (s.clk - t ≤ ms 10)
    | none => false
  toBytes 4 s.addr ++ toBytes 1 p ++ toBytes 3 (bit seen)
    ++ toBytes 2 768 ++ toBytes 2 768 ++ toBytes 2 128 ++ toBytes 2 384 ++ List.replicate 16 0

/-- The NEIGHBOUR message (R280, Table 9). -/
def State.sendNeighbour (s : State) (p : Nat) : State :=
  let toA := ((s.portDef p).map (·.addr)).getD 0
  s.glRaw p (mkFrame 7 toA 0 (s.get GL_MEMBER GL_MEMBER.EPOCH) 0
    (toBytes 8 s.gl.galleryId ++ toBytes 4 s.gl.topoGen ++ toBytes 3 s.addr ++ toBytes 1 p))

/-- GL_HELLO (R273, step 4): a HELLO arrives. -/
def execGlHello (p : GPort) (a : GArrival) (s : State) : Out :=
  let f := a.frame
  let c := a.fec
  let st := s.gpState p
  if f.type ≠ 1 ∨ !gpTrained st then .next s
  else
    let s := s.glFec p c
    if c.uncorr ≠ 0 ∨ f.crc ≠ gCrc f then .next (s.bump (GL_PORT_CRC p) 1)
    else if !gLocal f then .next (s.bump GL_DROP_BAD 1)
    else if !(st = gpHello ∨ st = gpChecking) then .next s
    else
    let u (k : Nat) : Nat := num f.payload (8 + 2 * k) 2
    let s := s.modGport p fun v => { v with lastHello := some s.clk, lastRx := s.clk, units := [u 0, u 1, u 2, u 3] }
    if st = gpHello ∧ num f.payload 5 1 = 1 then .next ((s.gpTo p gpChecking).sendNeighbour p) else .next s

/-- GL_HELLO_SEND (R273, step 2). -/
def execGlHelloSend (p : GPort) (s : State) : Out :=
  if s.gpState p = gpHello ∨ s.gpState p = gpChecking then
    .next (s.glRaw p (mkFrame 1 linkLocal 0 0 0 (s.helloPayload p)))
  else .next s

/-- GL_HELLO_LOST (R273, step 5): no HELLO for 10 ms. -/
def execGlHelloLost (p : GPort) (s : State) : Out :=
  let v := s.gport p
  let last := v.lastHello.getD (v.trainSince.getD 0)
  if (s.gpState p = gpHello ∨ s.gpState p = gpChecking) ∧ ms 10 ≤ s.clk - last then .next (s.glTrain p s.clk)
  else .next s

/-- WIDTH from the lanes that trained: four; two of a pair 0–1 or 2–3; else none (R261). -/
def laneWidth (l : Nat) : Nat := if l = 15 then 2 else if l % 4 = 3 ∨ l / 4 = 3 then 1 else 0

/-- GL_TRAINING_DONE (R273, step 2; R262: FEC and RATE written take effect here). -/
def execGlTrainingDone (p : GPort) (lanes : BitVec 4) (s : State) : Out :=
  let w := laneWidth lanes.toNat
  if s.gpState p ≠ gpTraining ∨ w = 0 ∨ s.clk < (s.gport p).trainSince.getD 0 then .next s
  else
    let s := s.set (GL_PORT_STATUS p) GL_PORT_STATUS.WIDTH w
    let s := s.set (GL_PORT_STATUS p) GL_PORT_STATUS.RATE_NOW (s.get (GL_PORT_CTRL p) GL_PORT_CTRL.RATE)
    let s := s.set (GL_PORT_STATUS p) GL_PORT_STATUS.FEC_NOW (s.get (GL_PORT_CTRL p) GL_PORT_CTRL.FEC)
    .next ((s.modGport p fun v => { v with lastHello := none, trainSince := some s.clk }).gpTo p gpHello)

/-- GL_TRAINING_TIMEOUT (R273, step 3): it starts again after 1 s. -/
def execGlTrainingTimeout (p : GPort) (s : State) : Out :=
  if s.gpState p = gpTraining ∧ (s.gport p).trainSince.getD 0 + ms 100 ≤ s.clk then
    .next (s.modGport p fun v => { v with trainSince := some (s.clk + ms 1000) })
  else .next s

/-- Show what a NEIGHBOUR message says. -/
def State.showNeigh (s : State) (p addr port : Nat) : State :=
  let s := s.set (GL_PORT_NEIGH p) GL_PORT_NEIGH.ADDR addr
  (s.set (GL_PORT_NEIGH p) GL_PORT_NEIGH.PORT port).set (GL_PORT_NEIGH p) GL_PORT_NEIGH.VALID 1

/-- Take the first delivered frame that a test admits with the time of its arrival, returning its units. -/
def State.takeRxAt (s : State) (ok : Nat → GFrame → Bool) : Option ((Nat × GFrame × Nat) × State) :=
  match s.gl.rx.find? fun x => ok x.1 x.2.1 with
  | none => none
  | some x =>
    let s := s.modGl fun g => { g with rx := g.rx.erase x }
    some (x, if s.gpState x.1 = gpUp then s.giveBack x.1 x.2.1.vc (gUnits x.2.1) else s)

def State.takeRx (s : State) (ok : Nat → GFrame → Bool) : Option ((Nat × GFrame) × State) :=
  (s.takeRxAt ok).map fun x => ((x.1.1, x.1.2.1), x.2)

/-- NEIGHBOUR (R273, steps 6 and 7). One that came while the port was still in HELLO waits for CHECKING. -/
def execNeighbour (p : GPort) (s : State) : Out :=
  if s.gpState p = gpHello then .next s
  else
  match s.takeRx fun q f => q = p.val && f.type = 7 && f.op = 0 with
  | none => .next s
  | some ((_, f), s) =>
    let st := s.gpState p
    if !(st = gpChecking ∨ st = gpMiswired) then .next s
    else
      let l := f.payload
      let addr := num l 12 3
      let port := num l 15 1
      let s := s.showNeigh p addr port
      let same := match s.portDef p with
        | some d => decide (num l 0 8 = s.gl.galleryId ∧ num l 8 4 = s.gl.topoGen ∧ addr = d.addr ∧ port = d.nport)
        | none => false
      if same then
        .next ((s.modGport p fun v => { v with
          sendSeq := 0, expect := 0, replay := [], lost := false, credits := v.units, ret := [0, 0, 0, 0],
          nakCount := 0, nakSeq := 4096, upSince := s.clk, lastRx := s.clk, got := false,
          zeroSince := [none, none, none, none] }).gpTo p gpUp)
      else .next ((s.modGport p fun v => { v with checkedAt := s.clk }).gpTo p gpMiswired)

/-- GL_MISWIRED_RECHECK (R273, step 7): every 1 s. -/
def execGlMiswiredRecheck (p : GPort) (s : State) : Out :=
  if s.gpState p = gpMiswired ∧ ms 1000 ≤ s.clk - (s.gport p).checkedAt then
    .next ((s.modGport p fun v => { v with checkedAt := s.clk }).sendNeighbour p)
  else .next s

/-- Whether a VC of a port has waited for credit for the stall time (R268). -/
def State.glStalled (s : State) (p : Nat) : Bool :=
  (s.gport p).zeroSince.any fun z =>
    match z with
    | some t => decide (t + microTicks (s.get GL_CTRL GL_CTRL.CREDIT_STALL) ≤ s.clk)
    | none => false

/-- GL_PORT_DOWN (R273, step 8). A loss of signal in HOLD restarts the hold (R274). -/
def execGlPortDown (p : GPort) (cause : DownCause) (s : State) : Out :=
  let st := s.gpState p
  let v := s.gport p
  match cause with
  | .signalLost => if st = gpUp ∨ st = gpHold then .next (s.glFlap p 1) else .next s
  | .noFrame => if st = gpUp ∧ 10000 ≤ s.clk - v.lastRx then .next (s.glFlap p 2) else .next s
  | .retryLimit =>
    if st = gpUp ∧ 0 < v.nakCount ∧ s.get GL_CTRL GL_CTRL.RETRY_LIMIT ≤ v.nakCount then .next (s.glFlap p 3) else .next s
  | .creditStall => if st = gpUp ∧ s.glStalled p then .next (s.glFlap p 4) else .next s

/-- GL_CREDIT_STALL (R268). -/
def execGlCreditStall (p : GPort) (s : State) : Out :=
  if s.gpState p = gpUp ∧ s.glStalled p then .next (s.glFlap p 4) else .next s

/-- GL_HOLD_EXPIRE (R274). -/
def execGlHoldExpire (p : GPort) (s : State) : Out :=
  if s.gpState p = gpHold ∧ (s.gport p).holdUntil ≤ s.clk then
    .next ((s.set (GL_PORT_STATUS p) GL_PORT_STATUS.HOLD_LEFT 0).glTrain p s.clk)
  else .next s

/-- Recalibrate an UP port (R273, step 10). -/
def State.glRecal (s : State) (p : Nat) : State :=
  if s.gpState p = gpUp then ((s.sendLinkCtrl p 3).glDrop p 6).glTrain p s.clk else s

/-- GL_RECAL (R273, step 10). -/
def execGlRecal (p : GPort) (s : State) : Out := .next (s.glRecal p)

/-- GL_ENABLE (R273, step 1): a port that the recipe gives no neighbour stays OFF. -/
def execGlEnable (p : GPort) (s : State) : Out :=
  let s := s.set (GL_PORT_CTRL p) GL_PORT_CTRL.ENABLE 1
  if s.gpState p = gpOff ∧ (s.portDef p).isSome then .next (s.glTrain p s.clk) else .next s

/-- GL_ACK_DUE (R268). -/
def execGlAckDue (p : GPort) (s : State) : Out :=
  let v := s.gport p
  if s.gpState p = gpUp ∧ (v.ackDue ∨ v.nakDue ∨ v.ret.any (· ≠ 0)) then .next (s.sendLinkCtrl p 0) else .next s

/-- GL_KEEPALIVE (R268): 10 µs with nothing else sent. -/
def execGlKeepalive (p : GPort) (s : State) : Out :=
  if s.gpState p = gpUp ∧ 1000 ≤ s.clk - (s.gport p).lastTx then .next (s.sendLinkCtrl p 0) else .next s

end Sys2Proof.Machine
end

