-- ==== Sys2Proof/Machine/Disp.lean ====
section
/-! DEFINITION. The request dispatcher's operations: the passage record, step headers, tickets, token records, the end of
requests, a cut passage (R247 to R259, R283, R291 to R295). -/

namespace Sys2Proof.Machine

/-! ### The passage record and step headers -/

/-- The running recipe. -/
def State.recipe (s : State) : Recipe := (s.svc.recipe.map fun r => recipeOf r.2).getD default

/-- Bits of a word of the passage record (R248, Table 1). -/
def State.prec (s : State) (w hi lo : Nat) : Nat := bits (s.recipe.passage.getD w 0).toNat hi lo

def State.pId (s : State) : Nat := s.prec 0 15 0
def State.pIndex (s : State) : Nat := s.prec 0 23 16
def State.pModules (s : State) : Nat := s.prec 0 31 24
def State.pNext (s : State) : Nat := s.prec 0 49 32
def State.pEntry (s : State) : Nat := s.prec 1 17 0
def State.pInflight (s : State) : Nat := s.prec 1 46 42
def State.pKvSlots (s : State) : Nat := s.prec 1 54 47
def State.pIdle (s : State) : Nat := s.prec 1 57 55
def State.pBusy (s : State) : Nat := s.prec 1 60 58
def State.pPeriod (s : State) (g : Nat) : Nat := if g < 4 then s.prec 2 (16 * g + 15) (16 * g) else if g = 4 then s.prec 3 15 0 else 0
def State.pChunk (s : State) : Nat := s.prec 3 31 16
def State.pBusyAt (s : State) : Nat := s.prec 3 36 32
def State.pInbox (s : State) : Nat := s.prec 4 47 0
def State.pSlotBytes (s : State) : Nat := s.prec 5 31 0
def State.pHdr (s : State) : Nat := s.prec 6 47 0
def State.pEndBar (s : State) : Nat := s.prec 7 6 0
def State.pEndCount (s : State) : Nat := s.prec 7 22 7

/-- Whether a recipe is running. -/
def State.hasRecipe (s : State) : Bool := s.svc.recipe.isSome

/-- Whether this is the passage's entry module, its last module (R13, R247). -/
def State.isEntry (s : State) : Bool := s.hasRecipe && s.pIndex = 0

def State.isLast (s : State) : Bool := s.hasRecipe && s.pIndex + 1 = s.pModules

/-- Bits of a step header (R250, Table 2). -/
def hdr (h : List Word) (w hi lo : Nat) : Nat := bits (h.getD w 0).toNat hi lo

def hdrKind (h : List Word) : Nat := hdr h 2 41 40
def hdrClass (h : List Word) : Nat := hdr h 2 44 42
def hdrGroups (h : List Word) : Nat := hdr h 2 47 45
def hdrTicket (h : List Word) : Nat := hdr h 2 51 48
def hdrReq (h : List Word) : Nat := hdr h 0 31 0
def hdrUp (h : List Word) : Nat := hdr h 3 63 0
def hdrDelivered (h : List Word) : Nat := hdr h 4 63 0

/-- A step header. -/
def mkHdr (req step pos npos kv kind cls groups ticket up : Nat) (seed : Word) : List Word :=
  let w (x : Nat) : Word := BitVec.ofNat 64 x
  [w (req % 2 ^ 32 + step % 2 ^ 32 * 2 ^ 32), w (pos % 2 ^ 32 + npos % 2 ^ 32 * 2 ^ 32),
   w ((pos + npos) % 2 ^ 32 + kv % 2 ^ 8 * 2 ^ 32 + kind % 4 * 2 ^ 40 + cls % 8 * 2 ^ 42 + groups % 8 * 2 ^ 45
      + ticket % 16 * 2 ^ 48),
   w up, 0, seed, 0, 0]

/-- The bytes of words. -/
def wordBytes (l : List Word) : List Byte := l.flatMap fun w => toBytes 8 w.toNat

/-! ### Step tasks (R251, R256, R259) -/

/-- The chamber that stands for a recipe's chamber (R352). -/
def State.placeOf (s : State) (n : Nat) : Nat := kget s.svc.place n n

/-- The recipe's tasks, each at the chamber that runs it. -/
def State.stepTasks (s : State) : List TaskDef := s.recipe.tasks.map fun d => { d with ch := s.placeOf d.ch }

/-- The working chambers with the context of their step tasks (R249). -/
def State.working (s : State) : List (Nat × Nat) := (s.stepTasks.map fun d => (d.ch, d.xlat)).eraseDups

/-- Create a task from its definition (R184). -/
def State.createTask (s : State) (d : TaskDef) : State :=
  let n := d.ch
  let s := s.setReg (CH_CREATE0 n) (fset (fset (fset (fset 0 CH_CREATE0.PC d.pc) CH_CREATE0.PRIORITY d.prio)
    CH_CREATE0.POLICY d.policy) CH_CREATE0.TAG d.tag)
  let s := s.setReg (CH_CREATE1 n) (fset 0 CH_CREATE1.SAVE_BASE (d.save / 4096))
  let s := s.setReg (CH_CREATE2 n) (fset 0 CH_CREATE2.XLAT d.xlat)
  s.cmdCreate n

/-- Resume a task under its former tag (R256). -/
def State.resumeTask (s : State) (d : TaskDef) : State :=
  let n := d.ch
  let s := s.setReg (CH_CREATE1 n) (fset 0 CH_CREATE1.SAVE_BASE (d.save / 4096))
  let s := s.setReg (CH_CREATE2 n) (fset 0 CH_CREATE2.XLAT d.xlat)
  s.cmdResume n d.tag

/-- Whether a step task has failed (R259): aborted, or ended with a code. -/
def State.taskFailed (s : State) (d : TaskDef) : Bool :=
  s.tstate d.ch d.tag = tAborting || (s.tstate d.ch d.tag = tEnded && s.get (CH_TASK d.ch d.tag) CH_TASK.END_CODE ≠ 0)

/-- The end code of the first failed step task. -/
def State.failCode (s : State) : Nat :=
  (s.stepTasks.findSome? fun d =>
    if s.tstate d.ch d.tag = tEnded ∧ s.get (CH_TASK d.ch d.tag) CH_TASK.END_CODE ≠ 0 then
      some (s.get (CH_TASK d.ch d.tag) CH_TASK.END_CODE)
    else if s.tstate d.ch d.tag = tAborting then some (s.task d.ch d.tag).abortCode else none).getD 0x01FF

/-- The step tasks that run PREFILL steps, or the others. -/
def State.tasksOf (s : State) (prefill : Bool) : List TaskDef := s.stepTasks.filter fun d => d.prefill == prefill

/-- The tasks that run a step. -/
def State.stepOwn (s : State) (h : List Word) : List TaskDef := s.tasksOf (hdrKind h = 2)

/-- Abort the step tasks of the sets given; they are created again when all have ended (R259, R283). -/
def State.abortSets (s : State) (sets : List Bool) : State :=
  let s := (sets.flatMap s.tasksOf).foldl (fun (s : State) d => s.cmdAbort d.ch d.tag) s
  { s with disp := { s.disp with renew := (s.disp.renew ++ sets).eraseDups } }

/-- Abort every step task. -/
def State.abortSteps (s : State) : State := s.abortSets [true, false]

/-- Release and create the aborted sets of step tasks again, once every one has ended (R259). Tasks whose saves hold a PREFILL
step are left free, for they are resumed. -/
def State.renewSteps (s : State) : State :=
  let tasks := s.disp.renew.flatMap s.tasksOf
  let old := (s.disp.leftover ++ tasks.map fun d => (d.ch, d.tag)).eraseDups
  if old.all fun x => s.tstate x.1 x.2 = tEnded ∨ s.tstate x.1 x.2 = tFree then
    let s := old.foldl (fun (s : State) x => if s.tstate x.1 x.2 = tEnded then s.cmdRelease x.1 x.2 else s) s
    let s := (tasks.filter fun d => !d.prefill || s.disp.paused.isEmpty).foldl State.createTask s
    { s with disp := { s.disp with renew := [], leftover := [] } }
  else s

/-- Data on its way: runs of bytes, each with its poison (R209). -/
abbrev Pieces := List (List Byte × Bool)

/-- Write data at a virtual address of a context for the dispatcher, a run that crosses a page in two. -/
def dispWrite (s : State) (n x va : Nat) (l : Pieces) : State :=
  (l.foldl (fun (a : State × Nat) r =>
    ((pageSplit [(a.2, r.1.length)]).foldl (fun (s : State) q =>
      match s.translate n x q.1 {} with
      | (.ok (pa, leaf), s) => if leafRemote leaf then s else s.lanternPut pa (slice r.1 (q.1 - a.2) q.2) r.2
      | (.error _, s) => s) a.1, a.2 + r.1.length)) (s, va)).1

/-- Cut a byte range at codewords. -/
def cwSplit (va k : Nat) : List (Nat × Nat) :=
  if k = 0 then []
  else
    (List.range ((va + k - 1) / 32 - va / 32 + 1)).map fun i =>
      let lo := max va ((va / 32 + i) * 32)
      (lo, min (va + k) ((va / 32 + i + 1) * 32) - lo)

/-- Read the codewords of a physical range for the Lantern, each with its poison. -/
def State.lanternPieces (s : State) (pa k : Nat) : Pieces × State :=
  (cwSplit pa k).foldl (fun (a : Pieces × State) q =>
    let (d, p, s) := a.2.lanternRead q.1 q.2
    (a.1 ++ [(d, p)], s)) ([], s)

/-- Read data at a virtual address of a context for the dispatcher. -/
def dispRead (s : State) (n x va k : Nat) : Pieces × State :=
  (cwSplit va k).foldl (fun (a : Pieces × State) q =>
    match a.2.translate n x q.1 {} with
    | (.ok (pa, leaf), s) =>
      if leafRemote leaf then (a.1 ++ [(List.replicate q.2 0, false)], s)
      else
        let (d, p, s) := s.lanternRead pa q.2
        (a.1 ++ [(d, p)], s)
    | (.error _, s) => (a.1 ++ [(List.replicate q.2 0, false)], s)) ([], s)

/-- The bytes of data. -/
def Pieces.bytes (l : Pieces) : List Byte := l.flatMap (·.1)

/-- The arbiters that the Lantern's accesses to a range need (R237): the banks, or a chamber's port at its mesh arrivals. -/
def State.lanternRoute (s : State) (pa len : Nat) (write : Bool) : List (Nat × Nat) :=
  match place pa with
  | .cellar m _ => [(m * 4, 3)]
  | .pocket m _ => [(m * 4 + (if write then 2 else 1), if write then 3 else 4)]
  | .g7 _ => ((spanLines pa len).map fun l => (4096 + Config.tunBank l % 128, 3)) ++ s.missRoute pa len
  | _ => []

/-- The arbiters that the dispatcher's accesses to a virtual range need. -/
def State.dispRoute (s : State) (n x va k : Nat) (write : Bool) : List (Nat × Nat) :=
  (pageSplit [(va, k)]).flatMap fun q =>
    match (s.translate n x q.1 {}).1 with
    | .ok (pa, leaf) => if leafRemote leaf then [] else s.lanternRoute pa q.2 write
    | .error _ => []

/-! ### Messages between dispatchers -/

/-- Send a MSG (R265, Table 4). -/
def State.sendMsg (s : State) (dest op aux : Nat) (payload : List Byte) (why : TxnFor) : State × Bool :=
  match s.request (mkFrame 5 dest op aux 0 payload) why with
  | (s, none) => (s, true)
  | (s, some e) => (s.e2eFail dest e 5 0 0, false)

/-- The dispatcher's requests for preparing a step and for writing its header. -/
def prepReq : ArbReq := otherReq (some 7) 14 0

def writeReq : ArbReq := otherReq (some 7) 14 1

/-- The step chosen is given up: what was asked for it at the arbiters goes. -/
def State.dropPrep (s : State) : State :=
  let s := s.arbRetag fun r => if r.ch.isNone && r.eng = 14 then none else some r
  { s with disp := { s.disp with chosen := none, prepared := false } }

/-! ### Token records and the end of requests (R293) -/

def State.modDisp (s : State) (f : Disp → Disp) : State := { s with disp := f s.disp }

/-- SY_STATUS shows open submissions and running requests. -/
def State.showReqs (s : State) : State :=
  (s.set SY_STATUS SY_STATUS.OPEN_SUB s.disp.subs.length).set SY_STATUS SY_STATUS.RUNNING s.disp.reqs.length

/-- Queue a TOK record. -/
def State.tok (s : State) (port kind reason fault req tag step : Nat) (ids : List Nat) : State :=
  s.modDisp fun d => { d with toks := d.toks ++ [⟨port, kind, reason, fault, req, tag, step, s.now, ids, s.clk⟩] }

/-- Free a ticket; where its step is still in the passage, what it returns is for nobody, and the ticket is given to no other step
until it has returned (R253). -/
def State.freeTicket (s : State) (t : Nat) (away : Bool) : State :=
  s.modDisp fun d => { d with
    tickets := kdel d.tickets t
    stale := if away then d.stale ++ [t] else d.stale }

/-- End a request (R293): its END record, its tickets and KV slot freed. END reasons 3 to 7 are counted. -/
def State.endReq (s : State) (r : Req) (reason fault : Nat) (away : Bool) : State :=
  let s := s.tok r.port 2 reason fault r.id r.tag r.delivered []
  let s := if 3 ≤ reason then s.bump SY_ENDS_FAILED 1 else s
  let s := (s.disp.tickets.filter fun x => x.2.1 = r.id).foldl (fun (s : State) x => s.freeTicket x.1 away) s
  (s.modDisp fun d => { d with reqs := d.reqs.filter fun x => x.id != r.id }).showReqs

/-- Whether the header of a step with a ticket lies at this module. -/
def State.heldHere (s : State) (t : Nat) : Bool :=
  let d := s.disp
  (d.inbox ++ d.queue ++ d.chosen.toList ++ d.running.toList ++ d.paused.map (·.1)).any fun x => x.1 = t

/-- The entry module reports the steps whose headers a module held that is gone (R259): the requests end with MODULE_GONE, and the tickets
come back. Which of the steps passed on lay there no message tells, so that is a free value for each (log entry 115). -/
def State.moduleGone (s : State) : State :=
  let out := (s.disp.tickets.map (·.1) ++ s.disp.stale).filter fun t => !s.heldHere t
  let (lost, s) := out.foldl (fun (a : List Nat × State) t =>
    let (v, s) := a.2.free
    (if v.toNat % 2 = 1 then a.1 ++ [t] else a.1, s)) ([], s)
  let hit := s.disp.reqs.filter fun r => s.disp.tickets.any fun x => lost.contains x.1 && x.2.1 = r.id
  (hit.foldl (fun (s : State) r => s.endReq r 5 0 true) s).modDisp fun d => { d with stale := d.stale.filter fun t => !lost.contains t }

/-- Change a request. -/
def State.modReq (s : State) (id : Nat) (f : Req → Req) : State :=
  s.modDisp fun d => { d with reqs := d.reqs.map fun r => if r.id = id then f r else r }

/-! ### Issuing steps at the entry module (R253, R257, R258) -/

/-- Whether the module may serve: a member of its own view, or frozen (R279, R281). -/
def State.inView (s : State) : Bool := s.get GL_STATUS GL_STATUS.MEMBER = 1 || s.get GL_STATUS GL_STATUS.VIEW = 2

/-- Whether the entry module issues steps: serving, not cut, not switching or leaving, its chambers powered. -/
def State.admits (s : State) : Bool :=
  s.get LN_BOOT LN_BOOT.STAGE = 9 && s.get GL_STATUS GL_STATUS.CUT = 0 && s.svc.switch.isNone && s.svc.leaveAt.isNone
    && !s.pw.rails.contains false && s.inView

/-- The smallest GROUPS code whose P holds a number of positions. -/
def groupsFor (k : Nat) : Nat := if k ≤ 1 then 0 else if k ≤ 2 then 1 else if k ≤ 4 then 2 else if k ≤ 8 then 3 else 4

/-- The lowest free ticket: not held by a step in the passage (R253). -/
def State.freeTicketNo (s : State) : Option Nat :=
  (List.range (min 16 s.pInflight)).find? fun t => (kfind s.disp.tickets t).isNone && !s.disp.stale.contains t

/-- The GROUPS code of a request's next step (R258). -/
def State.nextGroups (s : State) (r : Req) : Nat :=
  let cap := if s.pBusyAt ≠ 0 ∧ s.pBusyAt ≤ s.disp.queue.length + s.disp.inbox.length then s.pBusy else s.pIdle
  min (groupsFor r.next.length) cap

/-- A header lies in an inbox slot, after those that arrived before it (R251, R255). -/
def State.arrive (s : State) (t : Nat) (h : List Word) : State :=
  s.modDisp fun d => { d with inbox := (d.inbox.filter fun x => x.1 != t) ++ [(t, h)], arrived := kset d.arrived t s.now }

/-- Issue the next step of a request with a ticket, which also notes the most ids that the step returns. -/
def State.issueStep (s : State) (r : Req) (t : Nat) : State :=
  if r.sent < r.prompt.length then
    let k := min s.pChunk (r.prompt.length - r.sent)
    let h := mkHdr r.id r.sent r.sent k r.kv 2 r.cls 0 t 0 r.seed
    let s := (s.arrive t h).modDisp fun d => { d with
      tickets := kset d.tickets t (r.id, bit (r.prompt.length ≤ r.sent + k))
      embeds := kset d.embeds t ((r.prompt.drop r.sent).take k) }
    s.modReq r.id fun r => { r with sent := r.sent + k, ready := decide (r.sent + k < r.prompt.length), pos := r.sent + k }
  else
    let g := s.nextGroups r
    let (pad, s) := s.free
    let toks := (r.next ++ List.replicate (2 ^ g) (pad.toNat % 2 ^ 32)).take (2 ^ g)
    let h := mkHdr r.id r.pos r.pos (2 ^ g) r.kv (if g = 0 then 0 else 1) r.cls g t r.upTime r.seed
    let s := (s.arrive t h).modDisp fun d => { d with
      tickets := kset d.tickets t (r.id, 2 ^ g)
      embeds := kset d.embeds t toks }
    s.modReq r.id fun r => { r with ready := false }

/-- Whether a request's next step may be queued (R295): it would hold at most 256 undelivered ids with those that the step returns
(log entry 99). -/
def State.mayIssue (s : State) (r : Req) : Bool :=
  let new := if r.sent + s.pChunk < r.prompt.length then 0 else if r.sent < r.prompt.length then 1 else 2 ^ s.nextGroups r
  r.ready && !r.cancelled && decide (r.held + new ≤ 256)

/-- Issue steps while a request has one to issue and a ticket is free. -/
def pumpSteps (fuel : Nat) (s : State) : State :=
  match fuel with
  | 0 => s
  | fuel + 1 =>
    if !s.admits then s
    else
      match s.disp.reqs.find? s.mayIssue, s.freeTicketNo with
      | some r, some t => pumpSteps fuel (s.issueStep r t)
      | _, _ => s

def State.pump (s : State) : State := pumpSteps 16 s

/-! ### A cut passage (R283) -/

/-- The module declares its passage cut: notices to NEXT and ENTRY, step tasks aborted; the entry module fails every request
and frees every ticket. -/
def State.cutPassage (s : State) : State :=
  if !s.hasRecipe ∨ s.get GL_STATUS GL_STATUS.CUT = 1 then s
  else
    let s := ((s.set GL_STATUS GL_STATUS.CUT 1).event 0xE002 srcModule 1).modGl fun g => { g with failedTo := [] }
    let s := if s.pNext = s.addr then s else (s.sendMsg s.pNext 4 0 [] .message).1
    let s := if s.isEntry ∨ s.pEntry = s.pNext then s else (s.sendMsg s.pEntry 4 0 [] .message).1
    let s := s.abortSteps.dropPrep
    let s := s.modDisp fun d => { d with inbox := [], queue := [], running := none, paused := [], idMsgs := [], embeds := [] }
    if s.isEntry then
      let s := s.disp.reqs.foldl (fun (s : State) r => s.endReq r 4 0 false) s
      s.modDisp fun d => { d with tickets := [], stale := [] }
    else s

/-- What a failed or refused transaction does at its source (R272, R283). -/
def State.txnFailed (s : State) (dest type : Nat) : State :=
  if s.hasRecipe ∧ dest = s.pNext ∧ (type = 3 ∨ type = 5) ∧ s.get LN_BOOT LN_BOOT.STAGE = 9 then s.cutPassage else s

/-- The Lantern looks at the WRITEs and MSGs that failed since it last looked (R283). -/
def State.lookFailed (s : State) : State :=
  if s.gl.failedTo.isEmpty then s
  else (s.gl.failedTo.foldl (fun (s : State) d => s.txnFailed d 3) s).modGl fun g => { g with failedTo := [] }

/-- Send a MSG to NEXT; a failure cuts the passage. -/
def State.sendNext (s : State) (op aux : Nat) (payload : List Byte) (why : TxnFor) : State :=
  match s.sendMsg s.pNext op aux payload why with
  | (s, true) => s
  | (s, false) => s.txnFailed s.pNext 5

/-- A failure notice (R259) to the entry module: REQ_ID and the code, the ticket in AUX. -/
def State.failNotice (s : State) (h : List Word) (code : Nat) : State :=
  (s.sendMsg s.pEntry 1 (hdrTicket h) (toBytes 4 (hdrReq h) ++ toBytes 4 code) .message).1

end Sys2Proof.Machine
end

