-- ==== Sys2Proof/Machine/Passage.lean ====
section
/-! DEFINITION. The life of a step at one module (R251 to R259, Table 3), and the ids that return to the entry module. -/

namespace Sys2Proof.Machine

/-- STEP_HEADER_ARRIVE (R251, Table 3, step 1; R255): the header lying in slot TICKET is queued, after those that arrived before it. -/
def execStepHeaderArrive (ticket : Fin 16) (s : State) : Out :=
  match s.disp.inbox.findIdx? fun x => x.1 = ticket.val with
  | none => .next s
  | some k => .next (s.modDisp fun d => { d with inbox := d.inbox.drop (k + 1), queue := d.queue ++ d.inbox.take (k + 1) })

/-- The queued step of the highest CLASS, among equals the first to arrive (R255). -/
def bestStep (q : List (Nat × List Word)) : Option (Nat × List Word) :=
  q.foldl (fun (b : Option (Nat × List Word)) x =>
    match b with
    | none => some x
    | some y => if hdrClass y.2 < hdrClass x.2 then some x else b) none

/-- Whether the dispatcher takes a step: serving, nothing holds it (R341, R352), no step tasks to create again,
the chambers powered (R371). -/
def State.dispFree (s : State) : Bool :=
  s.get LN_BOOT LN_BOOT.STAGE = 9 && s.svc.change = 0 && s.svc.fencing.isNone && s.disp.renew.isEmpty
    && s.get GL_STATUS GL_STATUS.CUT = 0 && !s.pw.rails.contains false && s.inView

/-- The value of a patch (R252). -/
def State.patchValue (s : State) (q : Patch) (h : List Word) : Nat :=
  if q.output then s.recipe.outVa + hdrTicket h * s.pSlotBytes else q.base + hdr h 2 39 32 * q.stride

/-- The bytes of a step's activation in its slot. -/
def State.actLen (s : State) (h : List Word) : Nat := min (s.recipe.actBytes * hdr h 1 63 32) s.pSlotBytes

/-- What step 4 of Table 3 puts into every working chamber, with its poison: the activation in the slot, or at the entry module the
embedding rows of the ids (R251, R209). -/
def State.stepData (s : State) (t : Nat) (h : List Word) : Pieces × State :=
  let r := s.recipe
  if s.isEntry then
    (kget s.disp.embeds t []).foldl (fun (a : Pieces × State) id =>
      let (d, s) := a.2.lanternPieces (r.embedPa + id * r.embedRow) r.embedRow
      (a.1 ++ d, s)) ([], s)
  else
    match s.working with
    | [] => ([], s)
    | w :: _ => dispRead s w.1 w.2 (s.pInbox + t * s.pSlotBytes) (s.actLen h)

/-- The arbiters on the way of step 4 (R237). -/
def State.prepRoute (s : State) (t : Nat) (h : List Word) : List (Nat × Nat) :=
  let r := s.recipe
  let ids := kget s.disp.embeds t []
  let src :=
    if s.isEntry then ids.flatMap fun id => s.lanternRoute (r.embedPa + id * r.embedRow) r.embedRow false
    else
      match s.working with
      | [] => []
      | w :: _ => s.dispRoute w.1 w.2 (s.pInbox + t * s.pSlotBytes) (s.actLen h) false
  let k := if s.isEntry then ids.length * r.embedRow else s.actLen h
  src ++ s.working.flatMap fun w => s.dispRoute w.1 w.2 r.actVa k true

/-- The PREFILL tasks of the module. -/
def State.prefillTasks (s : State) : List TaskDef := s.tasksOf true

/-- Step 4 of Table 3 (R251): the activation goes to every working chamber; the last module sets the sampling seed and step;
descriptors are patched. The PREFILL tasks, where their saves hold another PREFILL step, are created for this one (log entry 100). -/
def State.stepPrepared (s : State) (t : Nat) (h : List Word) : State :=
  let r := s.recipe
  let (act, s) := s.stepData t h
  let s := s.working.foldl (fun (s : State) w => dispWrite s w.1 w.2 r.actVa act) s
  let s := if s.isLast then
      s.working.foldl (fun (s : State) w =>
        (s.setReg (FS_SAMPLE_SEED w.1 r.sampleTag) (h.getD 5 0)).set (FS_SAMPLE_STEP w.1 r.sampleTag)
          FS_SAMPLE_STEP.STEP (hdr h 0 63 32)) s
    else s
  let s := r.patches.foldl (fun (s : State) q =>
    s.set (ST_DESC0 (s.placeOf q.ch) (q.tag * 32 + q.desc) + 8 * q.word) ⟨0, 48⟩ (s.patchValue q h)) s
  let s := if hdrKind h = 2 && !s.disp.paused.isEmpty then s.prefillTasks.foldl State.createTask s else s
  s.modDisp fun d => { d with prepared := true }

/-- Prepare the chosen step once the ports and banks on the way are passed. -/
def State.prepareStep (s : State) (t : Nat) (h : List Word) : State :=
  s.arbitrate prepReq (s.prepRoute t h) fun s => s.stepPrepared t h

/-- Whether a PREFILL task is being saved. -/
def State.savingPrefill (s : State) : Bool := s.prefillTasks.any fun x => s.tstate x.ch x.tag = tSaving

/-- Choose a step. -/
def State.takeStep (s : State) (x : Nat × List Word) : State :=
  s.modDisp fun d => { d with queue := d.queue.filter fun y => y.1 != x.1, chosen := some x, prepared := false }

/-- The last preempted PREFILL step runs again, its tasks resumed under their former tags (R251, step 8; R256). -/
def State.resumePrefill (s : State) : State :=
  match s.disp.paused with
  | [] => s
  | (x, target) :: rest =>
    (s.prefillTasks.foldl State.resumeTask s).modDisp fun d => { d with paused := rest, running := some x, target := target }

/-- Whether a queued step has a higher CLASS than the last preempted PREFILL step. -/
def State.outranked (s : State) : Bool :=
  match s.disp.paused with
  | [] => true
  | (x, _) :: _ => s.disp.queue.any fun y => hdrClass x.2 < hdrClass y.2

/-- STEP_CHOOSE (R255, R256; Table 3, steps 2 to 4): the step is chosen, a running PREFILL step of lower class preempted
first, and the step is prepared once its tasks are saved. Given again, it prepares a step that waited for that. A module that is free
with a preempted step and no queued step above it runs that one again. -/
def execStepChoose (s : State) : Out :=
  let d := s.disp
  match d.chosen with
  | some (t, h) => if d.prepared ∨ s.savingPrefill then .next s else .next (s.prepareStep t h)
  | none =>
    if !s.dispFree then .next s
    else
      match d.running with
      | none =>
        if !d.paused.isEmpty ∧ !s.outranked then .next (if s.savingPrefill then s else s.resumePrefill)
        else
          match bestStep d.queue with
          | none => .next s
          | some (t, h) => .next ((s.takeStep (t, h)).prepareStep t h)
      | some x =>
        match bestStep d.queue with
        | none => .next s
        | some y =>
          if hdrKind x.2 = 2 ∧ hdrClass x.2 < hdrClass y.2 then
            let s := s.prefillTasks.foldl (fun (s : State) d => s.cmdPreempt d.ch d.tag) s
            .next ((s.takeStep y).modDisp fun d => { d with running := none, paused := (x, d.target) :: d.paused })
          else .next s

/-- The END_BAR counter of the module's context (R176). -/
def State.endCounter (s : State) : Nat × State :=
  match s.working with
  | [] => (0, s)
  | w :: _ =>
    let va := s.get (CH_BAR_BASE w.1) CH_BAR_BASE.BASE * 64 + 64 * s.pEndBar
    let (d, s) := dispRead s w.1 w.2 va 8
    (ofBytes d.bytes, s)

/-- Write words into every working chamber at an offset of the header (R250). -/
def State.writeHdr (s : State) (off : Nat) (l : List Word) : State :=
  s.working.foldl (fun (s : State) w => dispWrite s w.1 w.2 (s.pHdr + off) [(wordBytes l, false)]) s

/-- The time before which a step is not delivered (R254); 0 where it is not held. -/
def State.dueAt (s : State) (h : List Word) : Nat :=
  if hdrUp h = 0 ∨ s.pPeriod (hdrGroups h) = 0 then 0 else hdrUp h + s.pPeriod (hdrGroups h)

/-- Steps 5 and 6 of Table 3 (R251, R254): the header is written, READY last, and a step that arrived too late for its period is
counted. -/
def State.stepDelivered (s : State) (t : Nat) (h : List Word) : State :=
  let h := h.set 4 (BitVec.ofNat 64 s.now)
  let (c, s) := s.endCounter
  let s := (s.writeHdr 0 (h.take 7)).writeHdr 56 [1]
  let late := bit (decide (s.dueAt h ≠ 0 ∧ s.dueAt h < kget s.disp.arrived t 0))
  s.modDisp fun d => { d with
    chosen := none, prepared := false, running := some (t, h), target := c + s.pEndCount, late := d.late + late }

/-- STEP_DELIVER (R254; Table 3, steps 5 and 6). -/
def execStepDeliver (s : State) : Out :=
  match s.disp.chosen with
  | none => .next s
  | some (t, h) =>
    if !s.disp.prepared ∨ s.now < s.dueAt h then .next s
    else .next (s.arbitrate writeReq (s.working.flatMap fun w => s.dispRoute w.1 w.2 s.pHdr 64 true) fun s => s.stepDelivered t h)

/-- Words of 4 bytes up to 0xFFFF_FFFF, which stands for none. -/
def idWords (l : List Byte) : List Nat :=
  ((List.range (l.length / 4)).map fun i => num l (4 * i) 4).takeWhile (· != 0xFFFFFFFF)

/-- The ids that a step returns (R258): the longest prefix of its drafts that equal the tokens sampled at the positions before them,
and one further token. -/
def acceptIds (drafts sampled : List Nat) : List Nat :=
  sampled.take (((drafts.zip sampled).takeWhile fun x => x.1 = x.2).length + 1)

/-- What the last module returns of a step to the entry module (R12, R250, R258; log entry 31): its delivery time, the ids, new drafts.
It keeps the drafts, for they are the positions of the request's next step. -/
def State.returnIds (s : State) (h : List Word) : List Byte × State :=
  let (d, _, s) := s.lanternRead s.recipe.idsPa s.recipe.idsLen
  let npos := if hdrKind h = 2 then 1 else hdr h 1 63 32
  let mine := (kget s.disp.drafts (hdrReq h) []).take (npos - 1)
  let ids := acceptIds mine (idWords (slice d 0 (4 * npos)))
  let new := idWords (slice d (4 * npos) (4 * (2 ^ s.pIdle - 1)))
  (toBytes 8 (hdrDelivered h) ++ toBytes 4 ids.length ++ (ids ++ new).flatMap (toBytes 4),
   s.modDisp fun d => { d with drafts := kset d.drafts (hdrReq h) new })

/-- Send a step on (R251, Table 3, step 8): the header to NEXT, with this module's delivery time as UP_TIME unless it is a
PREFILL step; the last module returns the ids to the entry module (R12). -/
def State.passOn (s : State) (t : Nat) (h : List Word) : State :=
  if s.isLast then
    let (l, s) := s.returnIds h
    s.sendNext 2 t l (.step t)
  else
    let h := h.set 3 (if hdrKind h = 2 then 0 else h.getD 4 0)
    s.sendNext 0 t (wordBytes (h.set 4 0)) (.step t)

/-- The END_BAR counter rose by a number for a step that is over: the targets of preempted steps rise with it. -/
def State.spend (s : State) (k : Nat) : State :=
  s.modDisp fun d => { d with running := none, paused := d.paused.map fun x => (x.1, x.2 + k) }

/-- The END_BAR counter has reached the running step's target (R251, Table 3, step 8). A step with a task that failed is not passed on
(R259). Where a PREFILL step ran while another is preempted, its tasks end, so that the other's can be resumed when its turn comes (log entry
100). -/
def State.stepEnd (s : State) : State :=
  match s.disp.running with
  | none => s
  | some (t, h) =>
    let (c, s') := s.endCounter
    if c < s.disp.target ∨ (s.stepOwn h).any s.taskFailed then s
    else
      let s := s'.passOn t h
      let s := (s.modDisp fun d => { d with embeds := kdel d.embeds t }).spend s.pEndCount
      if s.disp.paused.isEmpty then s
      else if hdrKind h = 2 then s.abortSets [true]
      else if s.outranked ∨ s.savingPrefill then s
      else s.resumePrefill

/-- The steps that fail with sets of step tasks (R259): the running one by its own tasks; the last preempted PREFILL step by the PREFILL
tasks that were being saved. A fence or wedge fails what runs or lies preempted (R352, R360), a wedge also what waits. -/
def State.stepsHit (s : State) (forced : Bool) (sets : List Bool) : List (Nat × List Word) :=
  let d := s.disp
  let run := d.running.toList.filter fun x => forced || sets.contains (hdrKind x.2 == 2)
  let runPre := d.running.toList.any fun x => hdrKind x.2 = 2
  let old := if forced then d.paused else if sets.contains true && !runPre then d.paused.take 1 else []
  run ++ old.map (·.1) ++ if s.svc.failAll then d.chosen.toList ++ d.queue else []

/-- A step task was aborted, or the step fails by a fence (R352) or a wedge (R360). The notice goes to the entry module, the step's other
tasks are aborted, and a chosen step that was not delivered waits again; other steps go on. Once all have ended, the tasks are released and
created (R259). -/
def State.stepFail (s : State) : State :=
  let s := s.lookFailed
  if !s.disp.renew.isEmpty then s.renewSteps
  else
    let forced := s.svc.fencing.isSome || s.svc.failAll
    let failed := [true, false].filter fun b => (s.tasksOf b).any s.taskFailed
    let sets := if forced then [true, false] else failed
    let hit := s.stepsHit forced sets
    if failed.isEmpty ∧ hit.isEmpty then s
    else
      let code := s.failCode
      let (c, s) := match s.disp.running with
        | some _ => s.endCounter
        | none => (0, s)
      let s := hit.foldl (fun (s : State) x => s.failNotice x.2 code) s
      let s := (s.modDisp fun d => { d with
        queue := if s.svc.failAll then [] else d.chosen.toList ++ d.queue
        paused := d.paused.filter fun x => !hit.contains x.1 }).dropPrep
      let s := match s.disp.running with
        | some x => if hit.contains x then s.spend (c + s.pEndCount - s.disp.target) else s
        | none => s
      s.abortSets sets

/-- Ids delivered up to a stop id and to what MAX_NEW leaves owed (R293). -/
def takeIds (r : Req) (ids : List Nat) : List Nat × Bool :=
  let ids := ids.take (r.maxNew - r.delivered)
  let stop (i : Nat) : Bool := decide (i ≠ 0xFFFFFFFF ∧ (i = r.stop0 ∨ i = r.stop1))
  match ids.findIdx? stop with
  | some k => (ids.take (k + 1), true)
  | none => (ids, false)

/-- A step's ids reach the entry module (R258, R293): they go to the host, and the request's next step may be issued or it ends. The
first id of a request starts its first DECODE step, with UP_TIME 0 (R257). -/
def State.takeTokens (s : State) (r : Req) (up : Nat) (ids drafts : List Nat) : State :=
  let (out, stop) := takeIds r ids
  let s := (s.tok r.port 1 0 0 r.id r.tag r.delivered out).tallyX 0xC03 0 out.length
  let first := r.delivered = 0
  let r := { r with
    delivered := r.delivered + out.length
    held := r.held + out.length
    pos := if first then r.prompt.length else r.pos + ids.length
    next := ids.getLast?.toList ++ if first then [] else drafts.take (2 ^ s.pIdle - 1)
    upTime := if first then 0 else up
    ready := true }
  let s := s.modReq r.id fun _ => r
  if stop then (s.endReq r 1 0 true).pump else if r.maxNew ≤ r.delivered then (s.endReq r 0 0 true).pump else s.pump

/-- The ids and new drafts that a token id message brings after its 8-byte DELIVERED time and its 4-byte count. -/
def idsOf (msg : List Byte) : List (BitVec 32) × List (BitVec 32) :=
  ((List.range (msg.length / 4 - 3)).map fun i => BitVec.ofNat 32 (num msg (12 + 4 * i) 4)).splitAt (num msg 8 4)

/-- TOKEN_IDS_ARRIVE (R258, R293, R253): the ids of the step with a ticket return to the entry module; the ticket is free. The event
takes place when the message of that ticket, which brings those ids and drafts, has come. -/
def execTokenIdsArrive (ticket : Fin 16) (ids drafts : List (BitVec 32)) (s : State) : Out :=
  let t := ticket.val
  match kfind s.disp.idMsgs t with
  | none => .next s
  | some msg =>
    if idsOf msg ≠ (ids, drafts) then .next s
    else
    let s := s.modDisp fun d => { d with idMsgs := kdel d.idMsgs t }
    if s.disp.stale.contains t then .next (s.modDisp fun d => { d with stale := d.stale.erase t }).pump
    else
      match kfind s.disp.tickets t with
      | none => .next s
      | some (id, most) =>
        let s := s.freeTicket t false
        match s.disp.reqs.find? fun r => r.id = id with
        | none => .next s.pump
        | some r =>
          let ids := (ids.take most).map (·.toNat)
          if r.cancelled then .next (if s.disp.tickets.any (fun x => x.2.1 = id) then s else (s.endReq r 2 0 false).pump)
          else if ids.isEmpty then .next s.pump
          else .next (s.takeTokens r (num msg 0 8) ids (drafts.map (·.toNat)))

end Sys2Proof.Machine
end

