-- ==== Sys2Proof/Machine/GlTraffic.lean ====
section
/-! DEFINITION. Frames served at this module: remote accesses, messages between dispatchers, responses (R265, R271, R272, R283,
R324). -/

namespace Sys2Proof.Machine

/-! ### Remote accesses (R272) -/

/-- The status of a remote access to a span (R272, Table 6). -/
def State.remoteStatus (s : State) (pa k : Nat) : Nat :=
  if s.glBusy then 4
  else
    match s.target pa k with
    | .ok _ => 0
    | .error c => if c = gmRetired then 3 else 2

/-- The arbiters that a remote access to a span needs (R237): the mesh arrivals' input of a chamber's port and for a read the injection
of its response, or the banks' input for the Gallery. -/
def State.inboundRoute (s : State) (pa len : Nat) (write : Bool) : List (Nat × Nat) :=
  match place pa with
  | .cellar m _ => (m * 4, 3) :: if write then [] else [(m * 4 + 3, 4)]
  | .pocket m _ => if write then [(m * 4 + 2, 3)] else [(m * 4 + 1, 4), (m * 4 + 3, 4)]
  | .g7 _ => ((spanLines pa len).map fun l => (4096 + Config.tunBank l % 128, 2)) ++ s.missRoute pa len
  | _ => []

/-- The number of an inbound request: its source and tag. -/
def gNo (f : GFrame) : Nat := f.src * 2 ^ 16 + f.tag

/-- Serve an inbound access to a span, at REMOTE_PRIO (R237): `s` holds the frame, `s'` has taken it. One whose data phase a forced
release discarded is answered DISCARDED (R242, R272); one that is not granted its resources waits. -/
def State.inbound (s s' : State) (f : GFrame) (len : Nat) (write : Bool) (act : State → State) : State :=
  let st := s'.remoteStatus f.pa len
  let q := otherReq none 13 (gNo f)
  if s.gl.lost.contains (gNo f) then (s'.modGl fun g => { g with lost := g.lost.erase (gNo f) }).respond f 1 [] false
  else if st ≠ 0 then s'.respond f st [] false
  else
    let route := s.inboundRoute f.pa len write
    if s.clear q route then act (s'.arbMoved q route) else (s.pass q route).ask q route

/-- READ_REQ (R272): AUX [11:0] bytes at PA. -/
def execReadReq (s : State) : Out :=
  match s.takeRx fun _ f => f.type = 2 with
  | none => .next s
  | some ((_, f), s') =>
    let k := f.aux % 4096
    .next (s.inbound s' f k false fun s =>
      let (d, p, s) := (s.touch f.pa k 0 false).readPa f.pa k
      s.respond f 0 d p)

/-- WRITE (R271, R272): the payload at PA; a poisoned frame's codewords are written with poison. -/
def execWrite (s : State) : Out :=
  match s.takeRx fun _ f => f.type = 3 with
  | none => .next s
  | some ((_, f), s') =>
    let k := f.payload.length
    .next (s.inbound s' f k true fun s => ((s.touch f.pa k 0 true).writePa f.pa f.payload f.poison).respond f 0 [] false)

/-- ATOMIC (R265, R196): a fetch-and-add of the 8-byte addend; the old value is returned. -/
def execAtomic (s : State) : Out :=
  match s.takeRx fun _ f => f.type = 4 with
  | none => .next s
  | some ((_, f), s') =>
    if s'.glBusy then .next (s'.respond f 4 [] false)
    else if f.op ≠ 0 ∨ f.pa % 8 ≠ 0 ∨ !inG7 f.pa then .next (s'.respond f 5 [] false)
    else
      .next (s.inbound s' f 8 true fun s =>
        match s.fetchAdd f.pa 0 (ofBytes f.payload) with
        | (.ok v, s) => s.respond f 0 (toBytes 8 v) false
        | (.error _, s) => s.respond f 0 (List.replicate 8 0) true)

/-! ### Responses (R272) -/

/-- A transaction has failed with a status: its consumer gets poison, its task is aborted, or a message is lost. -/
def State.txnFail (s : State) (x : Txn) (status : Nat) : State :=
  let s := match x.for_ with
    | .transfer n e no va =>
      let own : Option (Nat × Transfer) := (s.eng n e).starts.findSome? fun (st : Start) =>
        (st.out.find? fun (tr : Transfer) => tr.no = no).map fun tr => (st.tag, tr)
      match own with
      | none => s.e2eFail x.dest status x.type 0 n
      | some (t, tr) =>
        let s := s.modTransfer n e no fun tr => { tr with tags := tr.tags.erase x.tag }
        (s.transferFailed n e no va (min 2048 (tr.va + tr.len - va)) t x.dest status x.type).pumpWrites n e
    | .instr n t va =>
      let s := s.e2eFail x.dest status x.type t n
      if x.type = 2 then s.modTask n t fun k => { k with rbuf := kset k.rbuf va (List.replicate 2048 0, true) }
      else s.abortFrom n t chAborted
    | _ => s.e2eFail x.dest status x.type 0 0
  s.txnFailed x.dest x.type

/-- A transaction is answered. -/
def State.txnDone (s : State) (x : Txn) (d : List Byte) (poison : Bool) : State :=
  match x.for_ with
  | .transfer n e no va =>
    let s := s.modTransfer n e no fun tr => { tr with
      tags := tr.tags.erase x.tag
      got := if x.type = 2 then kset tr.got va (d, poison) else tr.got }
    s.pumpWrites n e
  | .instr n t va => if x.type = 3 then s else s.modTask n t fun k => { k with rbuf := kset k.rbuf va (d, poison) }
  | _ => s

/-- RESPONSE (R272): one that no transaction waits for, or that comes after 2^E2E_TIMEOUT µs, is discarded. -/
def execResponse (s : State) : Out :=
  match s.takeRx fun _ f => f.type = 6 with
  | none => .next s
  | some ((_, f), s) =>
    match s.gl.txns.find? fun x => x.tag = f.tag ∧ x.dest = f.src with
    | none => .next s
    | some x =>
      if microTicks (s.get GL_CTRL GL_CTRL.E2E_TIMEOUT) < s.clk - x.since then .next s
      else
      let s := s.modGl fun g => { g with txns := g.txns.erase x }
      if f.op = 0 then .next (s.txnDone x f.payload f.poison) else .next (s.txnFail x f.op)

/-- E2E_TIMEOUT (R272): no response within 2^E2E_TIMEOUT µs. -/
def execE2eTimeout (tag : BitVec 16) (s : State) : Out :=
  match s.gl.txns.find? fun x => x.tag = tag.toNat with
  | none => .next s
  | some x =>
    if s.clk - x.since < microTicks (s.get GL_CTRL GL_CTRL.E2E_TIMEOUT) then .next s
    else .next ((s.modGl fun g => { g with txns := g.txns.erase x }).txnFail x 10)

/-! ### Messages (R265, Table 4) -/

/-- Take the first MSG of an operation and answer it. -/
def State.takeMsg (s : State) (op : Nat) : Option (GFrame × Bool × State) :=
  match s.takeRx fun _ f => f.type = 5 && f.op = op with
  | none => none
  | some ((_, f), s) => some (f, !s.glBusy, s.respond f (if s.glBusy then 4 else 0) [] false)

/-- MSG_STEP_HEADER (R251, R253): the header lies in its inbox slot. A module that serves no step fails it (R352, R360). -/
def execMsgStepHeader (s : State) : Out :=
  match s.takeMsg 0 with
  | none => .next s
  | some (_, false, s) => .next s
  | some (f, true, s) =>
    let h := bytesWords 8 f.payload
    if s.svc.failAll then .next (s.failNotice h 0x01FF)
    else .next (s.arrive (f.aux % 16) h)

/-- MSG_FAILURE_NOTICE (R259): the entry module reports the request as failed and frees its ticket and cache slot. -/
def execMsgFailureNotice (s : State) : Out :=
  match s.takeMsg 1 with
  | none => .next s
  | some (_, false, s) => .next s
  | some (f, true, s) =>
    if !s.isEntry then .next s
    else
      let t := f.aux % 16
      if s.disp.stale.contains t then .next (s.modDisp fun d => { d with stale := d.stale.erase t }).pump
      else
      let id := num f.payload 0 4
      let s := s.freeTicket t false
      match s.disp.reqs.find? fun r => r.id = id with
      | none => .next s.pump
      | some r => .next (s.endReq r 3 (num f.payload 4 4 % 65536) true).pump

/-- MSG_TOKEN_IDS (R12): the sampled ids of the step with the ticket in AUX reach the entry module. -/
def execMsgTokenIds (s : State) : Out :=
  match s.takeMsg 2 with
  | none => .next s
  | some (_, false, s) => .next s
  | some (f, true, s) =>
    if s.isEntry then .next (s.modDisp fun d => { d with idMsgs := kset d.idMsgs (f.aux % 16) f.payload }) else .next s

/-- The address of the module before this one, where the passage record gives it (R248, R283): that of module 0, or of the other module
of two. -/
def State.pBefore (s : State) : Option Nat :=
  if s.pIndex = 1 then some s.pEntry else if s.pIndex = 0 ∧ s.pModules ≤ 2 then some s.pNext else none

/-- MSG_PASSAGE_HEARTBEAT (R283): it counts where it comes from upstream. -/
def execMsgPassageHeartbeat (s : State) : Out :=
  match s.takeMsg 3 with
  | none => .next s
  | some (f, _, s) =>
    if s.pBefore.all (· = f.src) then .next (s.modGl fun g => { g with passHeard := s.clk }) else .next s

/-- MSG_CUT_NOTICE (R283). -/
def execMsgCutNotice (s : State) : Out :=
  match s.takeMsg 4 with
  | none => .next s
  | some (_, _, s) => .next s.cutPassage

/-! ### Heartbeats of a passage (R283) -/

/-- PASSAGE_HEARTBEAT_SEND (R283). -/
def execPassageHeartbeatSend (s : State) : Out :=
  if !s.hasRecipe ∨ s.get LN_BOOT LN_BOOT.STAGE ≠ 9 then .next s else .next (s.sendNext 3 0 [] .message)

/-- PASSAGE_UPSTREAM_LOST (R283): no heartbeat from upstream for 3 ms. -/
def execPassageUpstreamLost (s : State) : Out :=
  if !s.hasRecipe ∨ s.get LN_BOOT LN_BOOT.STAGE ≠ 9 ∨ s.clk - s.gl.passHeard < ms 3 then .next s else .next s.cutPassage

end Sys2Proof.Machine
end

