-- ==== Sys2Proof/Machine/Membership.lean ====
section
/-! DEFINITION. The Gallery's membership (R279 to R282) and its time (R276 to R278). -/

namespace Sys2Proof.Machine

/-! ### The view (R279) -/

def State.epoch (s : State) : Nat := s.get GL_MEMBER GL_MEMBER.EPOCH
def State.leader (s : State) : Nat := s.get GL_MEMBER GL_MEMBER.LEADER
def State.isLeader (s : State) : Bool := s.get GL_STATUS GL_STATUS.LEADER = 1
def State.viewState (s : State) : Nat := s.get GL_STATUS GL_STATUS.VIEW

/-- The weight of a module (R279). -/
def State.weightOf (s : State) (a : Nat) : Nat := kget s.gl.weights a 0

/-- Whether a weight, with the modules known to have acknowledged, reaches Q (R279). -/
def State.quorum (s : State) (w : Nat) (acked : List Nat) : Bool :=
  let total := s.get GL_WEIGHT GL_WEIGHT.TOTAL
  let low := (s.gl.weights.map (·.1)).foldl min 0x3FFFF
  decide (total < 2 * w) || (2 * w = total && acked.contains low)

/-- The aggregator of a group: its lowest-address member in the view (R280). -/
def State.aggregator (s : State) (g : Nat) : Option Nat :=
  (s.gl.view.filter fun a => a / 128 = g).foldl (fun (b : Option Nat) a => some (min a (b.getD a))) none

def State.isAggregator (s : State) : Bool := s.aggregator (s.addr / 128) = some s.addr

/-- Whether a module can be reached (R269). -/
def State.reaches (s : State) (a : Nat) : Bool := a = s.addr || (s.route a 2).isSome

/-- Send a LANTERN message, with an epoch in AUX (R280). -/
def State.lantern (s : State) (dest op epoch : Nat) (payload : List Byte) : State :=
  s.sendOff (mkFrame 7 dest op epoch 0 payload)

/-- TB_PPS.STEERING: time master and LOCKED (R381, R383). -/
def State.showSteer (s : State) : State :=
  s.set TB_PPS TB_PPS.STEERING (bit (s.isLeader && s.get TB_PPS TB_PPS.STATE = 2))

/-- Adopt a view (R281, step 3). The entry module reports the steps whose headers lay at a module that is gone (R259). -/
def State.adopt (s : State) (view : List Nat) (epoch leader : Nat) : State :=
  let mine := view.contains s.addr
  let gone := s.isEntry && s.gl.view.any fun a => a != s.addr && !view.contains a
  let s := s.modGl fun g => { g with
    view := view.mergeSort (· ≤ ·), joined := mine, change := none, seenChange := none, acked := none, ackSum := none,
    beaconAt := s.clk, heard := view.foldl (fun m a => kset m a s.clk) [], answered := false }
  let s := (s.set GL_MEMBER GL_MEMBER.EPOCH epoch).set GL_MEMBER GL_MEMBER.LEADER leader
  let s := (s.set GL_STATUS GL_STATUS.MEMBER (bit mine)).set GL_STATUS GL_STATUS.VIEW (if mine then 1 else if s.gl.leaving then 0 else 3)
  let s := (s.set GL_STATUS GL_STATUS.LEADER (bit (decide (leader = s.addr)))).showSteer
  let s := (s.set GL_WEIGHT GL_WEIGHT.SEEN (view.foldl (fun w a => w + s.weightOf a) 0)).set GL_TIME GL_TIME.MASTER leader
  let s := s.event 0xE005 srcModule epoch
  if gone then s.moduleGone else s

/-- Form the view alone (R282). -/
def State.formAlone (s : State) : State := s.adopt [s.addr] (s.epoch + 1) s.addr

/-- What a change makes of a view. A module that joins is sent the whole new view, and keeps nothing of its own (R282). -/
def changed (view : List Nat) (c : Change) (byLeader : Bool) (joins : Bool) : List Nat :=
  if joins then c.addrs
  else if c.kind = 0 then (view ++ c.addrs).eraseDups
  else if c.kind = 2 ∧ byLeader then view
  else view.filter fun a => !(c.addrs.contains a || c.whole.contains (a / 128))

/-- The 4-byte entries of a change. -/
def changeEntries (c : Change) : List Byte :=
  (c.addrs.flatMap fun a => toBytes 4 a) ++ c.whole.flatMap fun g => toBytes 4 (g * 128 + 2 ^ 18)

/-- The PROPOSE payloads of a kind and its entries, at most 510 a frame (R280, Table 9). -/
def proposeFrames (kind : Nat) (es : List Byte) : List (List Byte) :=
  let n := max 1 (cdiv es.length 2040)
  (List.range n).map fun i =>
    toBytes 2 i ++ toBytes 2 n ++ toBytes 4 kind ++ slice es (2040 * i) 2040

/-- Commit the open change (R281, step 3). The leader proposes a LEADER change when a lower-addressed locked member has joined; no message
of Table 9 tells it whether a member's PPS is locked, so that is a free value (log entry 102). -/
def State.commitChange (s : State) (c : Change) : State :=
  let view := changed s.gl.view c s.isLeader false
  let toA := (s.gl.view ++ view).eraseDups.filter (· != s.addr)
  let s := toA.foldl (fun (s : State) a => s.lantern a 5 c.epoch (toBytes 4 c.epoch)) s
  let leader := if c.kind = 2 ∧ s.isLeader then c.addrs.headD s.addr else s.addr
  let was := s.isLeader
  let s := s.adopt view c.epoch leader
  match c.addrs.mergeSort (· ≤ ·) with
  | a :: _ =>
    if c.kind = 0 ∧ was ∧ a < s.addr then
      let (w, s) := s.free
      if w.toNat % 2 = 1 then s.modGl fun g => { g with asks := (2, a) :: g.asks } else s
    else s
  | [] => s

/-- Open a change: PROPOSE with EPOCH + 1 (R281, step 1); modules that join are sent the whole new view. -/
def State.proposeNow (s : State) (kind : Nat) (addrs whole : List Nat) : State :=
  let e := s.epoch + 1
  let w := s.get GL_WEIGHT GL_WEIGHT.OWN
  let c : Change := { kind := kind, epoch := e, addrs := addrs, whole := whole, weight := w, acked := [s.addr],
                      since := s.clk, proposer := s.addr }
  let s := s.modGl fun g => { g with change := some c, acked := some (e, s.addr) }
  let send (s : State) (a : Nat) (es : List Byte) : State :=
    (proposeFrames kind es).foldl (fun (s : State) f => s.lantern a 3 e f) s
  let s := (s.gl.view.filter (· != s.addr)).foldl (fun (s : State) a => send s a (changeEntries c)) s
  let s := if kind = 0 then
      (addrs.filter (· != s.addr)).foldl (fun (s : State) a =>
        send s a (changeEntries { c with addrs := (s.gl.view ++ addrs).eraseDups })) s
    else s
  if s.quorum w [s.addr] then s.commitChange c else s

/-- Ask for a change: at once, or batched behind the open one (R281). -/
def State.askChange (s : State) (kind a : Nat) : State :=
  if s.gl.change.isSome then s.modGl fun g => { g with asks := (g.asks ++ [(kind, a)]).eraseDups } else s.proposeNow kind [a] []

/-- Open the next change of those waiting, batching its kind. -/
def State.nextChange (s : State) : State :=
  if s.gl.change.isSome then s
  else
  match s.gl.asks with
  | [] => s
  | (k, _) :: _ =>
    let mine := s.gl.asks.filter fun x => x.1 = k
    (s.modGl fun g => { g with asks := g.asks.filter fun x => x.1 != k }).proposeNow k (mine.map (·.2)) []

/-! ### Messages -/

/-- Take the first LANTERN message of an operation. -/
def State.takeLantern (s : State) (op : Nat) : Option (GFrame × State) :=
  (s.takeRx fun _ f => f.type = 7 && f.op = op).map fun x => (x.1.2, x.2)

/-- LANTERN_HEARTBEAT (R280): from a member, or from an aggregator with its bitmap. -/
def execLanternHeartbeat (s : State) : Out :=
  match s.takeLantern 1 with
  | none => .next s
  | some (f, s) =>
    let bits' := ofBytes f.payload
    let ms := (List.range 128).filter fun i => nbit bits' i
    .next (s.modGl fun g => { g with
      heard := (f.src :: ms.map fun i => f.src / 128 * 128 + i).foldl (fun m a => kset m a s.clk) g.heard })

/-- A JOIN message (R280, Table 9). -/
def State.sendJoin (s : State) (dest : Nat) : State :=
  s.lantern dest 6 s.epoch (toBytes 3 s.addr ++ toBytes 1 (s.get GL_WEIGHT GL_WEIGHT.OWN) ++ toBytes 4 s.gl.topoGen)

/-- An aggregator passes a BEACON on to its members (R280). -/
def State.passBeacon (s : State) (f : GFrame) : State :=
  if s.isAggregator ∧ f.src = num f.payload 0 3 then
    (s.gl.view.filter fun a => a / 128 = s.addr / 128 && a != s.addr && a != f.src).foldl
      (fun (s : State) a => s.lantern a 2 f.aux f.payload) s
  else s

/-- BEACON (R280, R282): an aggregator passes it on; a joining module answers one of a higher EPOCH with JOIN, a FROZEN one the first. -/
def execBeacon (s : State) : Out :=
  match s.takeLantern 2 with
  | none => .next s
  | some (f, s) =>
    let leader := num f.payload 0 3
    let locked := num f.payload 3 1 % 2 = 1
    if s.viewState ≠ 1 then
      if s.viewState = 0 ∨ f.aux ≤ s.epoch then .next s
      else
        let u := s.passBeacon f
        .next (if s.viewState = 2 ∧ s.gl.answered then u else (u.sendJoin leader).modGl fun g => { g with answered := true })
    else if leader ≠ s.leader then .next s
    else
      let s := s.modGl fun g => { g with
        beaconAt := s.clk
        locked := if locked then (leader :: g.locked).eraseDups else g.locked.filter (· != leader) }
      .next (s.passBeacon f)

/-- Read the change of a PROPOSE message. -/
def readChange (f : GFrame) (now : Nat) : Change :=
  let es := (List.range ((f.payload.length - 8) / 4)).map fun i => num f.payload (8 + 4 * i) 4
  { kind := num f.payload 4 1, epoch := f.aux, proposer := f.src, since := now,
    addrs := (es.filter fun e => !nbit e 18).map (· % 2 ^ 18),
    whole := (es.filter fun e => nbit e 18).map fun e => e % 2 ^ 18 / 128 }

/-- The members of the own group in the view that a change keeps: the lowest is the aggregator that gathers their acknowledgements (R280). -/
def State.ackGroup (s : State) (c : Change) : List Nat :=
  let stay := changed s.gl.view c (c.proposer = s.leader) false
  s.gl.view.filter fun a => a / 128 = s.addr / 128 && stay.contains a

/-- Where a member's ACK goes: to its group's aggregator, or to the proposer from a module without a committed view (R280). -/
def State.ackTo (s : State) (c : Change) : Nat :=
  if s.viewState ≠ 1 then c.proposer else ((s.ackGroup c).min?.getD c.proposer)

/-- An aggregator adds a member's acknowledged weight to what it has not passed on (R280, Table 9). -/
def State.addAck (s : State) (e a w : Nat) : State :=
  s.modGl fun g => { g with
    ackSum := match g.ackSum with
      | some (e', w', l) => if e' = e then (if l.contains a then some (e', w', l) else some (e, w' + w, l ++ [a])) else some (e, w, [a])
      | none => some (e, w, [a]) }

/-- Pass on the weight gathered for the proposal acknowledged. -/
def State.passAck (s : State) : State :=
  match s.gl.ackSum, s.gl.seenChange with
  | some (e, w, l), some c =>
    if e ≠ c.epoch ∨ w = 0 then s
    else (s.modGl fun g => { g with ackSum := some (e, 0, l) }).lantern c.proposer 4 e (toBytes 4 w)
  | _, _ => s

/-- Pass it on once every member of the group has acknowledged. -/
def State.ackReady (s : State) : State :=
  match s.gl.ackSum, s.gl.seenChange with
  | some (_, _, l), some c =>
    if (s.ackGroup c).all l.contains then s.passAck
    else s
  | _, _ => s

/-- Acknowledge the proposal at hand: an aggregator counts itself among its group. -/
def State.ackOwn (s : State) : State :=
  match s.gl.seenChange with
  | none => s
  | some c =>
    let w := s.get GL_WEIGHT GL_WEIGHT.OWN
    let toA := s.ackTo c
    if toA = s.addr then (s.addAck c.epoch s.addr w).ackReady else s.lantern toA 4 c.epoch (toBytes 4 w)

/-- Whether a module may take part in a change: a FROZEN one commits none but that of its own JOIN (R282). -/
def State.mayChange (s : State) (c : Change) : Bool := s.viewState != 2 || (c.kind = 0 && c.addrs.contains s.addr)

/-- PROPOSE (R281, step 2): at most one proposal of an epoch is acknowledged, of two at hand the one from the lower address. The first
frame of a change starts it, again where it is tried again; later frames add their entries, and the last has the acknowledgement. A
LEAVE of its sender alone at the present epoch asks the leader for it (log entry 103). -/
def execPropose (s : State) : Out :=
  match s.takeLantern 3 with
  | none => .next s
  | some (f, s1) =>
    let lower := s1.gl.rx.any fun x => x.2.1.type = 7 && x.2.1.op = 3 && x.2.1.aux = f.aux && x.2.1.src < f.src
    let c := readChange f s.clk
    let i := num f.payload 0 2
    let last : Bool := i + 1 = num f.payload 2 2
    let mine : Bool := s1.gl.acked.all fun x => x.1 < f.aux || (x.1 = f.aux && x.2 = f.src)
    if s.isLeader ∧ s.viewState = 1 ∧ f.aux = s.epoch ∧ c.kind = 1 ∧ c.addrs = [f.src] then .next (s1.askChange 1 f.src)
    else if f.aux ≤ s.epoch ∨ lower ∨ !mine ∨ (i = 0 ∧ num f.payload 2 2 = 1 ∧ !s.mayChange c) then .next s1
    else
      let s := s1.modGl fun g => { g with
        acked := some (f.aux, f.src)
        seenChange := if i = 0 then some c
          else g.seenChange.map fun o => { o with addrs := o.addrs ++ c.addrs, whole := o.whole ++ c.whole } }
      .next (if last ∧ s.gl.seenChange.all s.mayChange then s.ackOwn else s)

/-- ACK (R280, R281, step 3): the proposer adds the weight and commits at Q within 100 ms; an aggregator sums its group's. -/
def execAck (s : State) : Out :=
  match s.takeLantern 4 with
  | none => .next s
  | some (f, s) =>
    match s.gl.change with
    | some c =>
      if c.epoch ≠ f.aux ∨ c.retry ∨ ms 100 ≤ s.clk - c.since then .next s
      else
        let c := { c with weight := c.weight + num f.payload 0 4, acked := c.acked ++ [f.src] }
        if s.quorum c.weight c.acked then .next ((s.commitChange c).nextChange)
        else .next (s.modGl fun g => { g with change := some c })
    | none => .next (s.addAck f.aux f.src (num f.payload 0 4)).ackReady

/-- COMMIT (R281, step 3): the member adopts the view of the proposal it acknowledged. -/
def execCommit (s : State) : Out :=
  match s.takeLantern 5 with
  | none => .next s
  | some (f, s) =>
    match s.gl.seenChange with
    | none => .next s
    | some c =>
      if c.epoch ≠ num f.payload 0 4 ∨ !s.mayChange c then .next s
      else
        let byLeader : Bool := c.proposer = s.leader && !s.gl.view.isEmpty
        let view := changed s.gl.view c byLeader (c.kind = 0 && c.addrs.contains s.addr)
        let leader := if c.kind = 2 ∧ byLeader then c.addrs.headD c.proposer else c.proposer
        .next (s.adopt view c.epoch leader)

/-- Return a refused JOIN toward the module that sent it, by the port it came by: its address is that of a member, so no route tells. -/
def State.returnJoin (s : State) (p : Nat) (f : GFrame) (a : Nat) : State :=
  if 24 ≤ p ∨ s.gpState p ≠ gpUp then s
  else s.glSend p { mkFrame 7 a 6 f.aux 0 f.payload with src := s.addr, hops := s.get GL_CTRL GL_CTRL.MAX_HOPS }

/-- JOIN (R281): the leader proposes it, or refuses a clash by returning it to the module that it had it from; another member passes it
to the leader, and what the leader returns to the joining module. A module whose own JOIN comes back shows ADDR_CLASH. -/
def execJoin (s : State) : Out :=
  match s.takeRx fun _ f => f.type = 7 && f.op = 6 with
  | none => .next s
  | some ((p, f), s) =>
    let a := num f.payload 0 3
    if s.viewState ≠ 1 then .next (if a = s.addr then s.set GL_STATUS GL_STATUS.ADDR_CLASH 1 else s)
    else if !s.isLeader then
      if f.src = s.leader then
        .next (match kfind s.gl.joins a with
          | some q => (s.modGl fun g => { g with joins := kdel g.joins a }).returnJoin q f a
          | none => s)
      else .next ((s.modGl fun g => { g with joins := kset g.joins a p }).lantern s.leader 6 f.aux f.payload)
    else if num f.payload 4 4 ≠ s.gl.topoGen then .next s
    else if s.gl.view.contains a then .next (if f.src = a then s.returnJoin p f a else s.lantern f.src 6 f.aux f.payload)
    else
      let s := if (kfind s.gl.weights a).isSome then s else s.modGl fun g => { g with weights := kset g.weights a (num f.payload 3 1) }
      .next (s.askChange 0 a)

/-! ### Timers -/

/-- The modules of a group heard within 30 ms. -/
def State.heardBits (s : State) : Nat :=
  (List.range 128).foldl (fun b i =>
    let a := s.addr / 128 * 128 + i
    if a = s.addr ∨ (s.gl.view.contains a ∧ s.clk - kget s.gl.heard a 0 < ms 30) then b + 2 ^ i else b) 0

/-- Where the leader's BEACON goes (R280): the aggregators, its own members where it is an aggregator itself, and the modules of the
recipe that it reaches outside the view, for R282 has them hear it (log entry 104). -/
def State.beaconTo (s : State) : List Nat :=
  let own := s.isAggregator
  (s.gl.view.filter fun a => a != s.addr && (s.aggregator (a / 128) = some a || (own && a / 128 = s.addr / 128)))
    ++ ((s.gl.weights.map (·.1)).filter fun a => a != s.addr && !s.gl.view.contains a && s.reaches a)

/-- MEMBERSHIP_HEARTBEAT_TIMER (R280): every 10 ms. A joining module sends JOIN to the lowest other module it reaches. -/
def execMembershipHeartbeatTimer (s : State) : Out :=
  if s.viewState = 3 then
    match (s.gl.weights.map (·.1)).find? fun a => a != s.addr && s.reaches a with
    | some a => .next (s.sendJoin a)
    | none => .next s
  else if s.viewState = 0 then .next s
  else
    let s :=
      if s.isAggregator then
        (if s.isLeader then s else s.lantern s.leader 1 s.epoch (toBytes 16 s.heardBits))
      else
        match s.aggregator (s.addr / 128) with
        | some a => s.lantern a 1 s.epoch []
        | none => s
    let s := s.passAck
    if s.isLeader ∧ s.viewState = 1 then
      let s := s.nextChange
      let flags := bit (decide (s.get TB_PPS TB_PPS.STATE = 2))
      .next (s.beaconTo.foldl (fun (s : State) a => s.lantern a 2 s.epoch (toBytes 3 s.addr ++ toBytes 1 flags)) s)
    else .next s

/-- MEMBER_UNHEARD (R281): the leader proposes LEAVE for a module unheard for 30 ms, for its whole group where all of it is. -/
def execMemberUnheard (addr : Nat) (s : State) : Out :=
  let lost (a : Nat) : Bool := decide (ms 30 ≤ s.clk - kget s.gl.heard a 0)
  if !s.isLeader ∨ s.viewState ≠ 1 ∨ addr = s.addr ∨ !s.gl.view.contains addr ∨ !lost addr then .next s
  else
    let g := addr / 128
    if g ≠ s.addr / 128 ∧ s.gl.change.isNone ∧ (s.gl.view.filter fun a => a / 128 = g).all lost then
      .next (s.proposeNow 1 [] [g])
    else .next (s.askChange 1 addr)

/-- BEACON_LOST (R281): no BEACON for 30 ms plus 10 ms × rank; the member proposes itself, with LEAVE for every module it
cannot reach. A module that waits in JOINING proposes the view of the modules it reaches (log entry 35). -/
def execBeaconLost (s : State) : Out :=
  let base := if s.viewState = 3 then s.gl.weights.map (·.1) else s.gl.view
  let near := base.filter fun a => s.reaches a
  let rank := (near.filter (· < s.addr)).length
  if s.isLeader ∨ !(s.viewState = 1 ∨ s.viewState = 3) ∨ s.gl.change.isSome
      ∨ s.clk - s.gl.beaconAt < ms (30 + 10 * rank) then .next s
  else if s.viewState = 3 then .next (s.proposeNow 0 near [])
  else .next (s.proposeNow 2 (base.filter fun a => !s.reaches a) [])

/-- CHANGE_TIMEOUT (R281, step 4): a change without quorum in 100 ms is dropped, and after 1 s more tried again. -/
def execChangeTimeout (s : State) : Out :=
  match s.gl.change with
  | none => .next s
  | some c =>
    if c.retry then
      if s.clk - c.since < ms 1100 then .next s
      else .next ((s.modGl fun g => { g with change := none }).proposeNow c.kind c.addrs c.whole)
    else if s.clk - c.since < ms 100 then .next s
    else .next (s.modGl fun g => { g with change := if s.isLeader then some { c with retry := true } else none })

/-- FREEZE (R281): no commit within 100 ms of losing the BEACON. -/
def execFreeze (s : State) : Out :=
  if s.isLeader ∨ s.viewState ≠ 1 ∨ s.clk - s.gl.beaconAt < ms 100 then .next s
  else .next (((s.set GL_STATUS GL_STATUS.VIEW 2).modGl fun g => { g with change := none, answered := false }).event 0xE005 srcModule s.epoch)

/-! ### Time (R276 to R278) -/

/-- Change the time state and raise the event. -/
def State.timeTo (s : State) (x : Nat) : State :=
  if s.get GL_STATUS GL_STATUS.TIME_STATE = x then s
  else (s.set GL_STATUS GL_STATUS.TIME_STATE x).event 0xE006 srcModule x

/-- Slew the timebase by a signed number of ticks, in place of what it had still to slew (R278). -/
def State.slewBy (s : State) (d : Int) : State := s.modGl fun g => { g with slew := d }

/-- Hold the count for a number of ticks (R381). -/
def State.holdTime (s : State) (k : Nat) : State := s.modGl fun g => { g with slewDebt := k }

/-- A timebase step ends the open windows with no latch (R391). -/
def State.stepTime (s : State) (d : Int) : State :=
  if d = 0 then s
  else
    let s := s.setReg TB_TIME (BitVec.ofInt 64 ((s.now : Int) + d))
    { s with perf := { s.perf with win := [], armed := s.perf.armed.map fun (a : Nat × Nat) => (a.1, s.clk) } }

/-- Move a timebase that is ahead by a number of ticks to the time it should show, before the module serves: one behind is stepped, one
ahead stands until that time has come, so that no read goes back (R278, R381; log entry 81). -/
def State.setTime (s : State) (ahead : Int) : State :=
  if 0 < ahead then s.holdTime ahead.natAbs else (s.holdTime 0).stepTime (-ahead)

/-- Send a TIME frame on a port to the neighbour; a port that is not UP takes none (R270). -/
def State.sendTime (s : State) (p op : Nat) (payload : List Byte) : State :=
  let dest := s.get (GL_PORT_NEIGH p) GL_PORT_NEIGH.ADDR
  if s.gpState p ≠ gpUp then s.e2eFail dest 8 8 0 0
  else s.glSend p { mkFrame 8 dest op 0 0 payload with src := s.addr, hops := s.get GL_CTRL GL_CTRL.MAX_HOPS }

/-- A signed number of 48 bits as bytes. -/
def signedBytes (x : Int) : List Byte := toBytes 6 (BitVec.ofInt 48 x).toNat

/-- Take the first TIME frame of an operation from a port, with the time of its arrival. -/
def State.takeTime (s : State) (p op : Nat) : Option (GFrame × Nat × State) :=
  (s.takeRxAt fun q f => q = p && f.type = 8 && f.op = op).map fun x => (x.1.2.1, x.1.2.2, x.2)

/-- SYNC (R276, R278): from the first UP port of the route to the master; set before serving, slewed while serving, to the nearest tick, and
passed on with the link delay and the frame's residence time added. Which neighbours route toward the master through this module no
register or message tells: a free value (log entry 105). -/
def execSync (p : GPort) (s : State) : Out :=
  match s.takeTime p 0 with
  | none => .next s
  | some (f, at_, s) =>
    if s.isLeader ∨ s.route s.leader 2 ≠ some p.val then .next s
    else
      let corr := signed 48 (num f.payload 10 6) + (s.gport p).delay + ((s.now : Int) - at_) * 10000
      let off : Int := (s.now : Int) * 10000 - (num f.payload 0 8 * 10000 + num f.payload 8 2 * 10000 / 65536 : Nat) - corr
      let ticks := (off + 5000) / 10000
      let serving := s.get LN_BOOT LN_BOOT.STAGE = 9
      let s := s.set GL_TIME GL_TIME.OFFSET (BitVec.ofInt 32 (off.tdiv 1000)).toNat
      let s := s.modGl fun g => { g with syncAt := s.clk }
      let s := if serving then s.slewBy (-ticks) else s.setTime ticks
      let s := s.timeTo (if serving ∧ 100000 < off.natAbs then 3 else 1)
      let out := slice f.payload 0 10 ++ signedBytes corr
      let (w, s) := s.free
      .next ((List.range 24).foldl (fun (s : State) q =>
        if q ≠ p.val ∧ s.gpState q = gpUp ∧ nbit w.toNat q then s.sendTime q 0 out else s) s)

/-- SYNC_SEND (R276): the time master, on every UP port. -/
def execSyncSend (s : State) : Out :=
  if !s.isLeader then .next s
  else
    .next ((List.range 24).foldl (fun (s : State) q =>
      if s.gpState q = gpUp then s.sendTime q 0 (toBytes 8 s.now ++ List.replicate 8 0) else s) s)

/-- SYNC_LOSS (R278): no SYNC for 16 ms. -/
def execSyncLoss (s : State) : Out :=
  let t := s.get GL_STATUS GL_STATUS.TIME_STATE
  if s.isLeader ∨ !(t = 1 ∨ t = 3) ∨ s.clk - s.gl.syncAt < ms 16 then .next s else .next ((s.slewBy 0).timeTo 2)

/-- PDELAY_TIMER (R276): an UP port sends a request. -/
def execPdelayTimer (p : GPort) (s : State) : Out :=
  if s.gpState p ≠ gpUp then .next s
  else
    .next ((s.modGport p fun v => { v with pdT1 := some s.now }).sendTime p 1 (toBytes 8 s.now ++ List.replicate 8 0))

/-- PDELAY_REQ (R276, R277): answered with this module's transmit time and the request's receive time as an offset from it. -/
def execPdelayReq (p : GPort) (s : State) : Out :=
  match s.takeTime p 1 with
  | none => .next s
  | some (_, at_, s) => .next (s.sendTime p 2 (toBytes 8 s.now ++ toBytes 2 0 ++ signedBytes (((at_ : Int) - s.now) * 10000)))

/-- PDELAY_RSP (R276): the link delay is ((t₄ − t₁) − (t₃ − t₂)) ÷ 2, in picoseconds. -/
def execPdelayRsp (p : GPort) (s : State) : Out :=
  match s.takeTime p 2 with
  | none => .next s
  | some (f, at_, s) =>
    match (s.gport p).pdT1 with
    | none => .next s
    | some t1 =>
      let back : Int := -signed 48 (num f.payload 10 6)
      let d := ((((at_ : Int) - t1) * 10000) - back) / 2
      .next (s.modGport p fun v => { v with pdT1 := none, delay := d })

end Sys2Proof.Machine
end

