-- ==== Sys2Proof/Machine/SyLinks.lean ====
section
/-! DEFINITION. The Sirdy ports (R285 to R289, R294, R298): frames, acknowledgement, port states. -/

namespace Sys2Proof.Machine

def State.sport (s : State) (p : Nat) : SPortSt := kget s.sy.ports p {}

def State.modSport (s : State) (p : Nat) (f : SPortSt → SPortSt) : State :=
  { s with sy := { s.sy with ports := kput s.sy.ports p (f (s.sport p)) {} } }

/-- Port states (R302, Table 15). -/
def spDown : Nat := 1
def spTraining : Nat := 2
def spHello : Nat := 3
def spUp : Nat := 4

def State.spState (s : State) (p : Nat) : Nat := s.get (SY_PORT_STATUS p) SY_PORT_STATUS.STATE

/-- Change a port's state and raise the event, whose SOURCE is the port's number (R300, Table 13). -/
def State.spTo (s : State) (p st : Nat) : State :=
  if s.spState p = st then s
  else
    let s := (s.set (SY_PORT_STATUS p) SY_PORT_STATUS.STATE st).event 0xE001 p st
    if s.svc.portRecal.isEmpty then s else s.recalPorts.showAout

/-- The 16 header bytes (R286, Table 2). -/
def sHeader (f : SFrame) : List Byte :=
  toBytes 8 (f.type % 16 + f.ch % 8 * 2 ^ 4 + f.payload.length % 2 ^ 12 * 2 ^ 8 + f.seq % 2 ^ 12 * 2 ^ 20 + f.op % 16 * 2 ^ 32)
    ++ toBytes 8 (f.tag % 2 ^ 32 + f.aux % 2 ^ 32 * 2 ^ 32)

/-- The correct CRC. -/
def sCrc (f : SFrame) : BitVec 32 := crc32c (sHeader f ++ f.payload)

def sSeal (f : SFrame) : SFrame := { f with crc := sCrc f }

/-- Credit units of a frame (R287). -/
def sUnits (f : SFrame) : Nat := cdiv (20 + f.payload.length) 64

/-- Put a frame on a port. -/
def State.syEmit (s : State) (p : Nat) (f : SFrame) : State :=
  { s with sy := { s.sy with out := s.sy.out ++ [(p, f)] } }.modSport p fun v => { v with lastTx := s.clk }

/-- A DATA frame. -/
def mkData (ch op tag aux : Nat) (payload : List Byte) : SFrame :=
  { type := 2, ch := ch, seq := 0, op := op, tag := tag, aux := aux, payload := payload, crc := 0 }

/-- Send waiting frames of a port while their channel has the units; at most 1,024 stay unacknowledged (R287, R288). -/
def syDrain (fuel : Nat) (s : State) (p : Nat) : State :=
  match fuel with
  | 0 => s
  | fuel + 1 =>
    let v := s.sport p
    if s.spState p ≠ spUp ∨ 1024 ≤ v.replay.length then s
    else
      match v.txq.find? (fun f => sUnits f ≤ v.credits.getD f.ch 0
          && (v.txq.find? (fun x => x.ch = f.ch)) == some f) with
      | none => s
      | some f =>
        let g := sSeal { f with seq := v.sendSeq }
        let c := v.credits.getD f.ch 0 - sUnits f
        let s := s.modSport p fun v => { v with
          txq := v.txq.erase f
          sendSeq := (v.sendSeq + 1) % 4096
          replay := v.replay ++ [g]
          credits := v.credits.set f.ch c }
        syDrain fuel ((s.syEmit p g).tallyX 0xC01 p g.payload.length) p

/-- Whether a channel of a port has something to send: a frame, TOK records, on the service port event items. -/
def State.syWaits (s : State) (p k : Nat) : Bool :=
  (s.sport p).txq.any (fun x => x.ch = k) || (k = 1 && s.disp.toks.any fun r => r.port = p)
    || (k = 4 && s.get SY_STATUS SY_STATUS.SVC_NOW = p && s.logs.evts.any fun x => x.sent.isNone)

/-- Note since when a credit is held at zero while frames of its channel wait (R289). -/
def State.syMarkStall (s : State) (p : Nat) : State :=
  s.modSport p fun v => { v with
    zeroSince := (List.range 5).map fun k =>
      if s.spState p = spUp ∧ v.credits.getD k 0 = 0 ∧ s.syWaits p k then some ((v.zeroSince.getD k none).getD s.clk) else none }

/-- Send what may leave a port. -/
def State.syPump (s : State) (p : Nat) : State := (syDrain ((s.sport p).txq.length + 1) s p).syMarkStall p

/-- Give a DATA frame to an UP port; at any other it is lost. -/
def State.sySend (s : State) (p : Nat) (f : SFrame) : State :=
  if s.spState p ≠ spUp then s
  else (s.modSport p fun v => { v with txq := v.txq ++ [f] }).syPump p

/-- The service port (R298). -/
def State.svcPort (s : State) : Nat := s.get SY_STATUS SY_STATUS.SVC_NOW

/-- The events in unacknowledged frames are to be sent again (R300). -/
def State.resendEvts (s : State) : State :=
  s.modLogs fun l => { l with evts := l.evts.map fun x => { x with sent := none, resend := x.sent.isSome || x.resend } }

/-- Move the service channels to a port (R298): events in unacknowledged frames are sent again. -/
def State.svcMove (s : State) (p : Nat) : State :=
  if s.svcPort = p then s else (s.set SY_STATUS SY_STATUS.SVC_NOW p).resendEvts.event 0xE008 srcModule p

/-- The port that SVC_PORT names for the service channels. -/
def State.svcHome (s : State) : Nat := s.get SY_CTRL SY_CTRL.SVC_PORT

/-- LINK_CTRL (R288, Table 4). -/
def State.syCtrl (s : State) (p going : Nat) : SFrame :=
  let v := s.sport p
  { type := 0, ch := 0, seq := 0, op := 0, tag := 0
    aux := (v.expect + 4095) % 4096 + bit v.got * 2 ^ 12 + bit v.nakDue * 2 ^ 13 + going * 2 ^ 14
    payload := toBytes 8 ((List.range 5).foldl (fun x k => x + v.ret.getD k 0 % 4096 * 2 ^ (12 * k)) 0), crc := 0 }

/-- Send LINK_CTRL with what is due. -/
def State.sendSyCtrl (s : State) (p going : Nat) : State :=
  (s.syEmit p (sSeal (s.syCtrl p going))).modSport p fun v => { v with ackDue := false, nakDue := false, ret := [0, 0, 0, 0, 0] }

/-- Start training at a tick. -/
def State.syTrain (s : State) (p at_ : Nat) : State := (s.modSport p fun v => { v with trainAt := at_ }).spTo p spTraining

/-- A port that is DOWN trains at a tick (R289, steps 5 and 6). -/
def State.syLater (s : State) (p at_ : Nat) (slow : Bool) : State := s.modSport p fun v => { v with trainAt := at_, slow := slow }

/-- A port that is DOWN begins to train when its time has come. -/
def State.syTimer (s : State) (p : Nat) : State :=
  if s.spState p = spDown ∧ (s.sport p).trainAt ≤ s.clk then s.syTrain p s.clk else s

/-- A port leaves UP (R289, R294, R298): its frames go, its submissions are discarded, its requests end with PORT_DOWN on the
other port if that is UP, and the service channels move there; from the other port only a write of SVC_PORT moves them back. -/
def State.syDrop (s : State) (p last : Nat) : State :=
  let s := (s.modSport p fun v => { v with
    txq := [], replay := [], credits := [0, 0, 0, 0, 0], ret := [0, 0, 0, 0, 0], ackDue := false, nakDue := false,
    nakSeq := 4096, nakCount := 0, zeroSince := [none, none, none, none, none], lost := false, got := false }).set
      (SY_PORT_STATUS p) SY_PORT_STATUS.LAST_DOWN last
  let s := { s with sy := { s.sy with rx := s.sy.rx.filter fun x => x.1 != p } }
  let s := s.spTo p spDown
  let s := s.modDisp fun d => { d with
    subs := d.subs.filter fun x => x.port != p
    toks := d.toks.filter fun x => x.port != p }
  let other := 1 - p
  let up := s.spState other = spUp
  let s := (s.disp.reqs.filter fun r => r.port = p).foldl (fun (s : State) r =>
    s.endReq { r with port := other } 6 0 true) s
  let s := if up then s else s.modDisp fun d => { d with toks := d.toks.filter fun x => x.port != other || x.reason != 6 }
  let s := if s.svcPort ≠ p then s else if up && s.svcHome = p then s.svcMove other else s.resendEvts
  s.showReqs.pump

/-! ### Frames received -/

/-- Return a consumed frame's units. -/
def State.syGiveBack (s : State) (p : Nat) (f : SFrame) : State :=
  s.modSport p fun v => { v with ret := v.ret.set f.ch (v.ret.getD f.ch 0 + sUnits f), ackDue := true }

/-- Whether a host frame's channel and operation are ones the module takes (R286, R290, R296). -/
def sLegal (f : SFrame) : Bool :=
  f.payload.length ≤ 2048 && ((f.ch = 0 && f.op < 3) || (f.ch = 2 && f.op < 3) || (f.ch = 3 && f.op = 0))

/-- Whether a port in a state decodes FEC codewords. -/
def spTrained (st : Nat) : Bool := st = spHello || st = spUp

/-- The FEC codewords that a frame came in (R285, R302). -/
def State.syFec (s : State) (p : Nat) (c : Fec) : State :=
  (s.bump (SY_PORT_FEC_CORR p) c.corr).bump (SY_PORT_FEC_UNCORR p) c.uncorr

/-- An error or a gap (R288): a NAK names the last good SEQ at once, and later frames are discarded until the expected one. -/
def State.syNak (s : State) (p : Nat) : State := (s.modSport p fun v => { v with lost := true, nakDue := true }).sendSyCtrl p 0

/-- SY_DATA_RECEIVE (R286, R288): a frame of another type than LINK_CTRL and HELLO. One of a reserved type, channel or length, or of a
channel that its direction does not carry, is dropped and counted. -/
def execSyDataReceive (p : SPort) (a : SArrival) (s : State) : Out :=
  let f := a.frame
  let c := a.fec
  let st := s.spState p
  if f.type < 2 ∨ !spTrained st then .next s
  else
    let s := s.syFec p c
    let good : Bool := c.uncorr = 0 && f.crc == sCrc f
    let s := if good then s else s.bump (SY_PORT_CRC p) 1
    if st ≠ spUp then .next (if good && (3 ≤ f.type || !sLegal f) then s.bump (SY_PORT_DROP p) 1 else s)
    else
      let s := s.modSport p fun v => { v with lastRx := s.clk }
      let v := s.sport p
      if !good then .next (s.syNak p)
      else if 3 ≤ f.type then .next (s.bump (SY_PORT_DROP p) 1)
      else if f.seq = v.expect then
        let s := s.modSport p fun v => { v with expect := (v.expect + 1) % 4096, lost := false, got := true, ackDue := true }
        let s := s.tallyX 0xC02 p f.payload.length
        if sLegal f then .next { s with sy := { s.sy with rx := s.sy.rx ++ [(p.val, f)] } }
        else .next ((s.bump (SY_PORT_DROP p) 1).syGiveBack p f)
      else if seqBehind f.seq v.expect then .next (s.modSport p fun v => { v with ackDue := true })
      else if v.lost then .next s
      else .next (s.syNak p)

/-- Take the first accepted frame that a test admits, returning its units. -/
def State.takeSy (s : State) (ok : Nat → SFrame → Bool) : Option (Nat × SFrame × State) :=
  match s.sy.rx.find? fun x => ok x.1 x.2 with
  | none => none
  | some x =>
    let s := { s with sy := { s.sy with rx := s.sy.rx.erase x } }
    some (x.1, x.2, if s.spState x.1 = spUp then s.syGiveBack x.1 x.2 else s)

/-- SY_LINK_CTRL (R288, R289 step 6): acknowledged EVT frames take their items out of the FIFO (R300). -/
def execSyLinkCtrl (p : SPort) (a : SArrival) (s : State) : Out :=
  let f := a.frame
  let c := a.fec
  if f.type ≠ 0 ∨ !spTrained (s.spState p) then .next s
  else
    let s := s.syFec p c
    if c.uncorr ≠ 0 ∨ f.crc ≠ sCrc f then .next (s.bump (SY_PORT_CRC p) 1)
    else if 2048 < f.payload.length then .next (s.bump (SY_PORT_DROP p) 1)
    else if s.spState p ≠ spUp then .next s
    else
    let s := s.modSport p fun v => { v with lastRx := s.clk }
    let going := f.aux / 2 ^ 14 % 8
    if going ≠ 0 then .next ((s.syDrop p 5).syLater p (s.clk + ms 1000) true)
    else
      let ack := f.aux % 4096
      let v := s.sport p
      let done (g : SFrame) : Bool := g.seq = ack || seqBehind g.seq ack
      let acked := if nbit f.aux 12 then v.replay.filter done else []
      let left := if nbit f.aux 12 then v.replay.filter fun g => !done g else v.replay
      let nak := nbit f.aux 13
      let cred (k : Nat) : Nat := num f.payload 0 8 / 2 ^ (12 * k) % 4096
      let s := s.modSport p fun v => { v with
        replay := left
        credits := v.credits.mapIdx fun k c => c + cred k
        nakCount := if nak then (if v.nakSeq = ack then v.nakCount + 1 else 1) else if acked.isEmpty then v.nakCount else 0
        nakSeq := if nak then ack else v.nakSeq }
      let seqs := (acked.filter fun g => g.ch = 4).map (·.seq)
      let s := if s.svcPort = p.val ∧ !seqs.isEmpty then
          (s.modLogs fun l => { l with evts := l.evts.filter fun x =>
            match x.sent with
            | some q => !seqs.contains q
            | none => true }).showFifo
        else s
      if nak ∧ v.limit ≤ (s.sport p).nakCount then .next ((s.syDrop p 3).syLater p (s.clk + ms 100) false)
      else
        let s := if nak then
            (left.foldl (fun (s : State) g => s.syEmit p g) s).bump (SY_PORT_REPLAY p) left.length
          else s
        .next (s.syPump p)

/-! ### Port states (R289, Table 5) -/

/-- SY_HELLO (R289, step 3); where the port of SVC_PORT went DOWN while no other was UP, the service channels move now (R298, log entry
117). -/
def execSyHello (p : SPort) (a : SArrival) (s : State) : Out :=
  let f := a.frame
  let c := a.fec
  if f.type ≠ 1 ∨ !spTrained (s.spState p) then .next s
  else
    let s := s.syFec p c
    if c.uncorr ≠ 0 ∨ f.crc ≠ sCrc f then .next (s.bump (SY_PORT_CRC p) 1)
    else if 2048 < f.payload.length then .next (s.bump (SY_PORT_DROP p) 1)
    else if s.spState p ≠ spHello then .next (s.modSport p fun v => { v with lastRx := s.clk })
    else
    let lim := s.get SY_CTRL SY_CTRL.RETRY_LIMIT
    let stall := s.get SY_CTRL SY_CTRL.CREDIT_STALL
    let units : List Nat := (List.range 5).map (fun k => num f.payload (2 * k) 2)
    let s := s.modSport p fun v => { v with sendSeq := 0, expect := 0, replay := [], txq := [], lost := false, nakCount := 0 }
    let s := s.modSport p fun v => { v with
      nakSeq := 4096, got := false, slow := false, credits := units, ret := [0, 0, 0, 0, 0], lastRx := s.clk, lastHello := s.clk, limit := lim, stall := stall }
    let s := s.spTo p spUp
    let gone : Bool := s.get (SY_PORT_STATUS s.svcPort) SY_PORT_STATUS.LAST_DOWN ≠ 0
    .next (if s.svcPort = s.svcHome ∧ s.spState s.svcPort ≠ spUp ∧ gone then s.svcMove p else s)

/-- SY_HELLO_SEND (R289, step 2; R288). -/
def execSyHelloSend (p : SPort) (s : State) : Out :=
  if s.spState p ≠ spHello then .next s
  else
    let units := toBytes 2 640 ++ toBytes 2 0 ++ toBytes 2 256 ++ toBytes 2 64 ++ toBytes 2 0
    let l := units ++ toBytes 3 s.addr ++ toBytes 1 (bit s.isEntry) ++ toBytes 2 s.pId
    .next (s.syEmit p (sSeal { type := 1, ch := 0, seq := 0, op := 0, tag := 0, aux := 0, payload := l, crc := 0 }))

/-- SY_TRAINING_DONE (R289, step 2). -/
def execSyTrainingDone (p : SPort) (lanes : BitVec 4) (s : State) : Out :=
  let w := laneWidth lanes.toNat
  if s.spState p ≠ spTraining ∨ w = 0 ∨ s.clk < (s.sport p).trainAt then .next s
  else
    .next (((s.set (SY_PORT_STATUS p) SY_PORT_STATUS.WIDTH w).modSport p fun v => { v with lastHello := s.clk }).spTo p spHello)

/-- SY_TRAINING_TIMEOUT (R289, steps 4 and 6): training starts again after 100 ms, or is tried every 1 s after a going-down notice. -/
def execSyTrainingTimeout (p : SPort) (s : State) : Out :=
  let v := s.sport p
  if s.spState p = spHello ∧ ms 10 ≤ s.clk - v.lastHello then .next (s.syTrain p (s.clk + ms 100))
  else if s.spState p = spTraining ∧ v.trainAt + ms 100 ≤ s.clk then
    .next (s.syTrain p (if v.slow then v.trainAt + ms 1000 else s.clk + ms 100))
  else .next s

/-- SY_PORT_DOWN (R289, step 5). -/
def execSyPortDown (p : SPort) (cause : DownCause) (s : State) : Out :=
  let v := s.sport p
  let hit : Option Nat := match cause with
    | .signalLost => some 1
    | .noFrame => if 10000 ≤ s.clk - v.lastRx then some 2 else none
    | .retryLimit => if 0 < v.nakCount ∧ v.limit ≤ v.nakCount then some 3 else none
    | .creditStall =>
      if v.zeroSince.any (fun z => match z with
          | some t => decide (t + microTicks v.stall ≤ s.clk)
          | none => false) then some 4 else none
  match hit with
  | some c => if s.spState p = spUp then .next ((s.syDrop p c).syLater p (s.clk + ms 100) false) else .next s
  | none => .next s

/-- Recalibrate an UP port (R289, step 7). -/
def State.syRecal (s : State) (p : Nat) : State :=
  if s.spState p = spUp then ((s.sendSyCtrl p 3).syDrop p 6).syTrain p s.clk else s

/-- SY_RECAL (R289, step 7). -/
def execSyRecal (p : SPort) (s : State) : Out := .next (s.syRecal p)

/-- ENABLE is set (R289, step 1). -/
def State.syEnable (s : State) (p : Nat) : State :=
  let s := s.set (SY_PORT_CTRL p) SY_PORT_CTRL.ENABLE 1
  if s.spState p = 0 then s.syTrain p s.clk else s

/-- A port that goes idle says so if it is UP (R289). -/
def State.syIdle (s : State) (p going : Nat) : State :=
  let last := s.get (SY_PORT_STATUS p) SY_PORT_STATUS.LAST_DOWN
  (if s.spState p = spUp then (s.sendSyCtrl p going).syDrop p last else s).spTo p 0

/-- ENABLE is cleared: the port says so, goes DOWN and stays OFF. -/
def State.syDisable (s : State) (p : Nat) : State :=
  let s := s.set (SY_PORT_CTRL p) SY_PORT_CTRL.ENABLE 0
  s.syIdle p 2

/-- SY_ENABLE (R289, step 1). -/
def execSyEnable (p : SPort) (s : State) : Out := .next (s.syEnable p)

/-- SY_ACK_DUE (R288). -/
def execSyAckDue (p : SPort) (s : State) : Out :=
  let v := s.sport p
  if s.spState p = spUp ∧ (v.ackDue ∨ v.nakDue ∨ v.ret.any (· ≠ 0)) then .next (s.sendSyCtrl p 0) else .next s

/-- SY_KEEPALIVE (R288). -/
def execSyKeepalive (p : SPort) (s : State) : Out :=
  if s.spState p = spUp ∧ 1000 ≤ s.clk - (s.sport p).lastTx then .next (s.sendSyCtrl p 0) else .next s

end Sys2Proof.Machine
end

