-- ==== Sys2Proof/Machine/Console.lean ====
section
/-! DEFINITION. The lines of the command sessions (R339, R340, R342): the characters printed, the command that a line spells. -/

namespace Sys2Proof.Machine

/-- Characters as bytes. -/
def ascii (x : String) : List Byte := x.toList.map fun c => BitVec.ofNat 8 c.toNat

/-- The lowest `k` hexadecimal digits of a number, the highest first. -/
def hexDigits (k n : Nat) : List Byte :=
  (List.range k).map fun i =>
    let d := n / 16 ^ (k - 1 - i) % 16
    BitVec.ofNat 8 (if d < 10 then 48 + d else 87 + d)

/-- A word as an output line of 16 hexadecimal digits (log entry 37). -/
def hexLine (w : Word) : List Byte := hexDigits 16 w.toNat ++ [10]

/-- A word as two groups of 8 hexadecimal digits, the higher first (R342). -/
def groupLine (w : Word) : List Byte := hexDigits 8 (w.toNat / 2 ^ 32) ++ [32] ++ hexDigits 8 w.toNat ++ [10]

/-! ### Error codes (R340, Table 1) -/

def errUnknown : Nat := 1
def errSyntax : Nat := 2
def errState : Nat := 3
def errBusy : Nat := 4
def errRefused : Nat := 5
def errFailed : Nat := 6
def errNotFound : Nat := 7

/-- The name of a code, and the short text of one that says nothing more (log entry 37). -/
def errName (code : Nat) : String × String :=
  match code with
  | 1 => ("ERR 01 UNKNOWN ", "no such command")
  | 2 => ("ERR 02 SYNTAX ", "bad line")
  | 3 => ("ERR 03 STATE ", "not allowed now")
  | 4 => ("ERR 04 BUSY ", "same change runs")
  | 5 => ("ERR 05 REFUSED ", "refused")
  | 6 => ("ERR 06 FAILED ", "see log")
  | _ => ("ERR 07 NOT_FOUND ", "no such unit")

/-- The final line (R340): "OK", or the code, its name and a short text, which names the rule under 05 and the cause under 06. -/
def finalLine (code : Nat) (text : String) : List Byte :=
  if code = 0 then ascii "OK" ++ [10]
  else ascii (errName code).1 ++ ascii (if text.isEmpty then (errName code).2 else text) ++ [10]

/-! ### The commands' lines (R339, R342, Table 2) -/

/-- The words of a line, between blanks. -/
def lineWords (l : List Byte) : List (List Byte) :=
  let r := l.foldr (fun b (a : List Byte × List (List Byte)) => if b = 32 then ([], a.1 :: a.2) else (b :: a.1, a.2)) ([], [])
  (r.1 :: r.2).filter fun w => !w.isEmpty

/-- The value of a hexadecimal digit. -/
def hexDigit (b : Byte) : Option Nat :=
  let k := b.toNat
  if 48 ≤ k ∧ k < 58 then some (k - 48)
  else if 97 ≤ k ∧ k < 103 then some (k - 87)
  else if 65 ≤ k ∧ k < 71 then some (k - 55)
  else none

/-- Bytes from pairs of hexadecimal digits. -/
def hexBytes : List Byte → Option (List Byte)
  | [] => some []
  | a :: b :: r => do
    let x ← hexDigit a
    let y ← hexDigit b
    let t ← hexBytes r
    return BitVec.ofNat 8 (16 * x + y) :: t
  | _ => none

/-- Digits of a base. -/
def digitsNum (base : Nat) (l : List Byte) : Option Nat :=
  l.foldl (fun a b => do
    let x ← a
    let d ← hexDigit b
    if d < base then some (x * base + d) else none) (if l.isEmpty then none else some 0)

/-- A number: decimal, or hexadecimal after 0x (R339). -/
def numWord (w : List Byte) : Option Nat := if w.take 2 == ascii "0x" then digitsNum 16 (w.drop 2) else digitsNum 10 w

/-- A number that a line holds. -/
def lineNum (w : List Byte) : Except Nat Nat := (numWord w).elim (.error errSyntax) .ok

/-- A number of a unit of which there are `k`. -/
def lineUnit (k : Nat) (w : List Byte) : Except Nat (Fin k) := do
  let x ← lineNum w
  if h : x < k then .ok ⟨x, h⟩ else .error errNotFound

def firstOf {α : Type} (w : List Byte) (l : List (String × α)) : Except Nat α :=
  (l.find? fun x => ascii x.1 == w).elim (.error errSyntax) fun x => .ok x.2

/-- Kinds of objects and their slots; the spelling of the kinds but "fw" is the model's (log entry 37). -/
def lineKind (w : List Byte) : Except Nat ObjKind :=
  firstOf w [("fw", .firmware), ("recipe", .recipe), ("model", .model), ("script", .script), ("fuse", .fuseBuf)]

def lineSlot (w : List Byte) : Except Nat Nat :=
  if w == ascii "A" || w == ascii "a" then .ok 0 else if w == ascii "B" || w == ascii "b" then .ok 1 else lineNum w

/-- A unit of the retirement log. -/
def lineRet (ws : List (List Byte)) : Except Nat (Option RetUnit) :=
  match ws with
  | [a] => firstOf a [("all", none)]
  | [a, b] => do
    firstOf a [("g7", ())]
    return some (.g7Region (← lineNum b))
  | [a, x, y, z] => do
    let tun ← firstOf a [("cellar", false), ("tun", true)]
    if tun then return some (.tunWay (← lineNum x) (← lineNum y) (← lineNum z))
    else return some (.cellarRow (← lineUnit 1024 x) (← lineUnit 4 y) (← lineNum z))
  | _ => .error errSyntax

/-- Quantities of AOUT in the order of Table 5 of R347. -/
def lineQuantity (w : List Byte) : Except Nat Nat :=
  firstOf w [("temp", 0), ("rate", 1), ("iin", 2), ("pin", 3), ("icore", 4), ("rail", 5)]

/-- The arguments of `aout`: a mode, or a quantity with its sel, as in "aout rate 0" (R347). -/
def lineAout (ws : List (List Byte)) : Except Nat (AoutMode × Nat × Nat) :=
  match ws with
  | [] => .error errSyntax
  | m :: r =>
    let r := if m == ascii "quantity" then r else m :: r
    match firstOf m [("status", AoutMode.status), ("test", .test), ("off", .off)], r with
    | .ok x, [_] => .ok (x, 0, 0)
    | .ok _, _ => .error errSyntax
    | .error _, [q] => do return (.quantity, ← lineQuantity q, 0)
    | .error _, [q, k] => do return (.quantity, ← lineQuantity q, ← lineNum k)
    | .error _, _ => .error errSyntax

/-- The arguments of `selftest` after the block. -/
def lineTest (ws : List (List Byte)) : Except Nat (Option Ch × Bool) :=
  let force := ws.getLast? == some (ascii "force")
  match if force then ws.dropLast else ws with
  | [] => .ok (none, force)
  | [a, n] => do
    firstOf a [("chamber", ())]
    return (some (← lineUnit 1024 n), force)
  | _ => .error errSyntax

/-- Commands without arguments. -/
def plainCmds (c : Session) : List (String × Instr) :=
  [("status", .consoleStatus c), ("dir", .consoleDir c), ("leave", .consoleLeave c), ("reset", .consoleReset c),
   ("challenge", .consoleChallenge c), ("fuse", .consoleFuse c ()), ("endorse", .endorse c)]

/-- The command of an argument-taking keyword (R342, Table 2); what its reads find comes from outside the line. -/
def lineArgs (c : Session) (k : String) (ws : List (List Byte)) : Except Nat Instr :=
  match k, ws with
  | "read", [a] => do return .consoleRead c (← lineNum a) 1
  | "read", [a, n] => do return .consoleRead c (← lineNum a) (← lineNum n)
  | "log", [] => .ok (.consoleLog c 1)
  | "log", [n] => do return .consoleLog c (← lineNum n)
  | "aout", ws => do
    let x ← lineAout ws
    return .consoleAout c x.1 x.2.1 x.2.2
  | "selftest", b :: ws => do
    let x ← lineTest ws
    return .consoleSelftest c (← lineNum b) x.1 x.2 []
  | "recv", [k] => firstOf k [("abort", .consoleRecvAbort c)]
  | "recv", [k, i, n] => do return .consoleRecv c (← lineKind k) (← lineSlot i) (← lineNum n)
  | "hex", [d] => .ok (.consoleHex c d)
  | "remove", [k, i] => do return .consoleRemove c (← lineKind k) (← lineSlot i)
  | "activate", [i] => do return .consoleActivate c (← lineNum i)
  | "stage", [i] => do return .consoleStage c (← lineNum i)
  | "switch", [m] => firstOf m [("end", .consoleSwitch c false), ("keep", .consoleSwitch c true)]
  | "fence", [n] => do return .consoleFence c (← lineUnit 1024 n)
  | "reload", [n] => do return .consoleReload c (← lineUnit 1024 n)
  | "fwupdate", [x] => do
    let b ← firstOf x [("A", false), ("a", false), ("B", true), ("b", true)]
    return .consoleFwupdate c b []
  | "recal", [k] => firstOf k [("g7", .consoleRecalG7 c none)]
  | "recal", [k, x] => do
    match ← firstOf k [("gallery", 0), ("sirdy", 1), ("g7", 2)] with
    | 0 => return .consoleRecalGallery c (← lineUnit 24 x)
    | 1 => return .consoleRecalSirdy c (← lineUnit 2 x)
    | _ => return .consoleRecalG7 c (some (← lineUnit 64 x))
  | "retire", [k, r] => do
    firstOf k [("g7", ())]
    return .consoleRetireG7 c (← lineNum r)
  | "retire", [k, x, y, z] => do
    if ← firstOf k [("cellar", true), ("cask", false)] then
      return .consoleRetireCellar c (← lineUnit 1024 x) (← lineUnit 4 y) (← lineNum z)
    else return .consoleRetireCask c (← lineNum x) (← lineNum y) (← lineNum z)
  | "spare", [k, n] => do
    if ← firstOf k [("clear", true), ("bad", false)] then
      if n == ascii "all" then return .consoleSpareClear c none else return .consoleSpareClear c (some (← lineUnit 1024 n))
    else return .consoleSpareBad c (← lineUnit 1024 n)
  | "retlog", k :: ws => do
    firstOf k [("clear", ())]
    return .consoleRetlogClear c (← lineRet ws)
  | "set", [f, v] => do
    let x ← firstOf f [("abort_timeout", SvcField.abortTimeout), ("auto_reset", .autoReset), ("auto_fence", .autoFence)]
    return .consoleSet c x (← lineNum v)
  | "attest", [n] => do return .attest c (BitVec.ofNat 256 (← lineNum n))
  | _, _ => .error errSyntax

/-- Keywords that take arguments. -/
def argCmds : List String :=
  ["read", "log", "aout", "selftest", "recv", "hex", "remove", "activate", "stage", "switch", "fence", "reload", "fwupdate", "recal",
   "retire", "spare", "retlog", "set", "attest"]

/-- The command that a line of a session spells, or the code that answers it: 01 an unknown keyword, 02 a malformed argument, 07 a unit
that is not there. A line that lost characters or is too long is kept as an empty one, which is malformed. -/
def lineCmd (c : Session) (l : List Byte) : Except Nat Instr :=
  match lineWords l with
  | [] => .error errSyntax
  | w :: ws =>
    match (plainCmds c).find? fun x => ascii x.1 == w with
    | some x => if ws.isEmpty then .ok x.2 else .error errSyntax
    | none =>
      match argCmds.find? fun k => ascii k == w with
      | some k => lineArgs c k ws
      | none => .error errUnknown

/-- A command without what its reads find. -/
def bare : Instr → Instr
  | .consoleSelftest c b n f _ => .consoleSelftest c b n f []
  | .consoleFwupdate c b _ => .consoleFwupdate c b []
  | i => i

/-- The line at the head of a session's, which its next command takes. -/
def State.headLine (s : State) (c : Session) : Option (List Byte) := (s.svc.lines.find? fun x => x.1 == c).map (·.2)

/-- Whether a command may be that of the session's head line: where a line waits, it spells the command. -/
def State.lineFits (s : State) (c : Session) (i : Instr) : Bool :=
  match s.headLine c with
  | none => true
  | some l =>
    match lineCmd c l with
    | .ok j => j == bare i
    | .error _ => false

/-- The code that answers a line at the head of a session's which spells no command. -/
def State.lineError (s : State) (c : Session) : Option Nat :=
  match s.headLine c with
  | none => none
  | some l =>
    match lineCmd c l with
    | .ok _ => none
    | .error e => some e

end Sys2Proof.Machine
end

