-- ==== Sys2Proof/Machine/SyTraffic.lean ====
section
/-! DEFINITION. What travels over Sirdy (R290 to R300): requests, token records, management, the console tunnel, the FIFOs; and
the three command sessions' lines and replies (R339, R340). -/

namespace Sys2Proof.Machine

/-! ### Requests (R290 to R292) -/

/-- REFUSE and END reasons (R293, Table 9). -/
def refNotEntry : Nat := 1
def refNoSlot : Nat := 2
def refBadField : Nat := 3
def refCut : Nat := 4
def refIncomplete : Nat := 5
def refNotServing : Nat := 6
def refTooMany : Nat := 7

/-- Refuse a request (R291). -/
def State.refuse (s : State) (port tag reason : Nat) : State :=
  ((s.tok port 3 reason 0 0xFFFFFFFF tag 0 []).bump SY_REFUSALS 1)

def subLen (x : Sub) : Nat := num x.block 4 4
def subNew (x : Sub) : Nat := num x.block 8 4

/-- Whether a submission breaks a field rule (R291). -/
def State.subBad (s : State) (x : Sub) : Bool :=
  x.block.length < 32 || subLen x = 0 || subNew x = 0
    || decide (s.recipe.contextLimit < subLen x + subNew x)
    || x.ids.any (fun i => decide (s.recipe.vocab ≤ i))
    || decide (8 ≤ num x.block 0 1) || num x.block 1 3 ≠ 0 || num x.block 20 4 ≠ 0
    || decide (subLen x < x.ids.length)

/-- A free KV slot (R253). -/
def State.freeKv (s : State) : Option Nat :=
  (List.range s.pKvSlots).find? fun k => s.disp.reqs.all fun r => r.kv != k

/-- Take a submission as far as it goes: refuse it, keep it open, or admit it (R291). -/
def State.trySub (s : State) (x : Sub) : State :=
  let s := s.modDisp fun d => { d with subs := d.subs.filter fun y => !(y.port = x.port && y.tag = x.tag) }
  if s.subBad x then (s.refuse x.port x.tag refBadField).showReqs
  else if x.ids.length < subLen x then (s.modDisp fun d => { d with subs := d.subs ++ [x] }).showReqs
  else
    match s.freeKv with
    | none => (s.refuse x.port x.tag refNoSlot).showReqs
    | some kv =>
      if s.get GL_STATUS GL_STATUS.CUT = 1 then (s.refuse x.port x.tag refCut).showReqs
      else if s.get LN_BOOT LN_BOOT.STAGE ≠ 9 then (s.refuse x.port x.tag refNotServing).showReqs
      else
        let id := s.disp.nextReq
        let r : Req := { id := id, port := x.port, tag := x.tag, cls := num x.block 0 1 % 8, maxNew := subNew x,
                         stop0 := num x.block 12 4, stop1 := num x.block 16 4, seed := BitVec.ofNat 64 (num x.block 24 8),
                         prompt := x.ids, kv := kv }
        let s := s.modDisp fun d => { d with reqs := d.reqs ++ [r], nextReq := (id + 1) % 0xFFFFFFFF }
        let s := ((s.tok x.port 0 0 0 id x.tag 0 []).bump SY_ADMITS 1).tallyX 0xC04 0 1
        s.showReqs.pump

/-- The ids of a payload. -/
def payIds (l : List Byte) : List Nat := (List.range (l.length / 4)).map fun i => num l (4 * i) 4

/-- Why a module refuses every request: one that is STOPPED serves none (R322), one that is no entry module has none; 0 an entry module. -/
def State.noEntry (s : State) : Nat :=
  if s.get LN_BOOT LN_BOOT.STAGE = 11 then refNotServing else if s.isEntry then 0 else refNotEntry

/-- OPEN (R290). -/
def execOpen (p : SPort) (s : State) : Out :=
  match s.takeSy fun q f => q = p.val && f.ch = 0 && f.op = 0 with
  | none => .next s
  | some (_, f, s) =>
    let subs := s.disp.subs.filter fun x => x.port = p.val
    if s.noEntry ≠ 0 then .next (s.refuse p f.tag s.noEntry)
    else if 16 ≤ subs.length then .next (s.refuse p f.tag refTooMany)
    else if subs.any (fun x => x.tag = f.tag) ∨ s.disp.reqs.any (fun r => r.port = p.val ∧ r.tag = f.tag) then
      .next (s.refuse p f.tag refBadField)
    else .next (s.trySub ⟨p, f.tag, f.payload.take 32, payIds (f.payload.drop 32), s.clk⟩)

/-- MORE (R290); one for no open submission changes nothing. -/
def execMore (p : SPort) (s : State) : Out :=
  match s.takeSy fun q f => q = p.val && f.ch = 0 && f.op = 1 with
  | none => .next s
  | some (_, f, s) =>
    if s.noEntry ≠ 0 then .next (s.refuse p f.tag s.noEntry)
    else
      match s.disp.subs.find? fun x => x.port = p.val ∧ x.tag = f.tag with
      | none => .next s
      | some x => .next (s.trySub { x with ids := x.ids ++ payIds f.payload, since := s.clk })

/-- CANCEL (R292): END follows at the request's next step boundary, at once where no step of it is in the passage. -/
def execCancel (p : SPort) (s : State) : Out :=
  match s.takeSy fun q f => q = p.val && f.ch = 0 && f.op = 2 with
  | none => .next s
  | some (_, f, s) =>
    if s.noEntry ≠ 0 then .next (s.refuse p f.tag s.noEntry)
    else if s.disp.subs.any (fun x => x.port = p.val ∧ x.tag = f.tag) then
      .next (s.modDisp fun d => { d with subs := d.subs.filter fun x => !(x.port = p.val && x.tag = f.tag) }).showReqs
    else
      match s.disp.reqs.find? fun r => r.port = p.val ∧ r.tag = f.tag with
      | none => .next (s.bump (SY_PORT_DROP p) 1)
      | some r =>
        let s := s.modReq r.id fun r => { r with cancelled := true }
        if s.disp.tickets.any (fun x => x.2.1 = r.id) then .next s else .next (s.endReq r 2 0 false).pump

/-- SUBMISSION_INCOMPLETE (R291): no MORE for 100 ms. -/
def execSubmissionIncomplete (p : SPort) (tag : BitVec 32) (s : State) : Out :=
  match s.disp.subs.find? fun x => x.port = p.val ∧ x.tag = tag.toNat with
  | none => .next s
  | some x =>
    if s.clk - x.since < ms 100 then .next s
    else
      .next ((s.modDisp fun d => { d with subs := d.subs.filter fun y => !(y.port = p.val && y.tag = tag.toNat) }).refuse
        p x.tag refIncomplete).showReqs

/-! ### Token frames (R293) -/

/-- A TOK record's bytes (R293, Table 8). -/
def tokBytes (r : TokRec) : List Byte :=
  toBytes 8 (r.kind % 4 + r.ids.length % 64 * 2 ^ 2 + r.reason % 256 * 2 ^ 8 + r.fault % 2 ^ 16 * 2 ^ 16 + r.req % 2 ^ 32 * 2 ^ 32)
    ++ toBytes 8 (r.tag % 2 ^ 32 + r.step % 2 ^ 32 * 2 ^ 32) ++ toBytes 8 r.time
    ++ padTo (cdiv r.ids.length 2 * 8) (r.ids.flatMap fun i => toBytes 4 i)

/-- The records that one frame takes. -/
def packToks (fuel room : Nat) (l : List TokRec) : List TokRec :=
  match fuel, l with
  | fuel + 1, r :: rest => if (tokBytes r).length ≤ room then r :: packToks fuel (room - (tokBytes r).length) rest else []
  | _, _ => []

/-- TOK_FRAME_SEND (R293): a frame of the port's records leaves where TOK has the credit; ids sent make room (R295). -/
def execTokFrameSend (p : SPort) (s : State) : Out :=
  let mine := s.disp.toks.filter fun r => r.port = p.val
  let rs := packToks mine.length 2048 mine
  let f := mkData 1 0 0 0 (rs.flatMap tokBytes)
  if s.spState p ≠ spUp ∨ rs.isEmpty ∨ (s.sport p).credits.getD 1 0 < sUnits f then .next s
  else
    let s := s.modDisp fun d => { d with toks := rs.foldl (fun l r => l.erase r) d.toks }
    let s := rs.foldl (fun (s : State) r =>
      s.modReq r.req fun q => { q with held := q.held - r.ids.length }) s
    .next ((s.sySend p f).pump)

/-! ### The FIFOs (R299, R300) -/

/-- EVT_FRAME_SEND (R300): the first item not yet sent leaves on the service port where EVT has the credit. -/
def execEvtFrameSend (s : State) : Out :=
  let p := s.svcPort
  match s.logs.evts.findIdx? fun x => x.sent.isNone with
  | none => .next s
  | some i =>
    match s.logs.evts[i]? with
    | none => .next s
    | some x =>
      let f := mkData 4 0 0 0 (toBytes 8 x.word.toNat ++ toBytes 8 x.time)
      let v := s.sport p
      if s.spState p ≠ spUp ∨ v.credits.getD 4 0 < sUnits f ∨ 1024 ≤ v.replay.length then .next s
      else
        let seq := v.sendSeq
        .next ((s.modLogs fun l => { l with evts := l.evts.set i { x with sent := some seq, resend := false } }).sySend p f)

/-- Push into the inbound mailbox (R299). -/
def State.mboxPush (s : State) (v : Nat) : State :=
  (s.modLogs fun l => { l with fifoIn := fifoPush 256 l.fifoIn ⟨itemWord v, s.now, none, false⟩ }).showFifo

/-- Items of an output move into the outbound mailbox while it has room, none behind a gap marker (R300, R343). -/
def mboxFill (fuel : Nat) (s : State) : State :=
  match fuel, s.svc.mboxWait with
  | fuel + 1, w :: rest =>
    if 255 ≤ s.logs.fifoOut.length ∨ s.logs.fifoOut.getLast?.any (fun x => nbit x.word.toNat 62) then s
    else mboxFill fuel ((s.modSvc fun v => { v with mboxWait := rest }).modLogs fun l => { l with fifoOut := l.fifoOut ++ [⟨w, s.now, none, false⟩] })
  | _, _ => s

/-- Pop the outbound mailbox: the head item, 0 where it is empty. -/
def State.mboxPop (s : State) : Word × State :=
  match s.logs.fifoOut with
  | [] => (0, s)
  | x :: r => (x.word, (mboxFill s.svc.mboxWait.length (s.modLogs fun l => { l with fifoOut := r })).showFifo)

/-- Pop the first event not yet sent in an EVT frame, latching its time; one to be sent again has been. -/
def State.evtPop (s : State) : Word × State :=
  match s.logs.evts.find? fun x => x.sent.isNone && !x.resend with
  | none => (0, s)
  | some x =>
    (x.word, ((s.modLogs fun l => { l with evts := l.evts.erase x }).showFifo).setReg SY_EVT_TIME (BitVec.ofNat 64 x.time))

/-- SY_MBOX_IN (R300). -/
def execSyMboxIn (v : BitVec 62) (s : State) : Out := .next (s.mboxPush v.toNat)

/-- SY_MBOX_OUT (R300): the item read stands in the register's last value. -/
def execSyMboxOut (s : State) : Out :=
  let (w, s) := s.mboxPop
  .next { s with hostRead := w }

/-- SY_EVT_POP (R300). -/
def execSyEvtPop (s : State) : Out :=
  let (w, s) := s.evtPop
  .next { s with hostRead := w }

/-! ### Management (R296) -/

/-- A read of a register by the host, with the pops of R300. -/
def State.hostReg (s : State) (a : Nat) : Option (Word × State) :=
  if a = SY_MBOX_OUT then some s.mboxPop else if a = SY_EVT_POP then some s.evtPop else s.readReg a

/-- A write of an SY_ register (R302): the service channels move when SVC_PORT is written, the mailbox takes an item, a port
recalibrates, trains or stops. -/
def State.syWrite (s : State) (a : Nat) (v : Word) : State :=
  if a = SY_CTRL then (s.writeReg a v).svcMove (fget v SY_CTRL.SVC_PORT)
  else if a = SY_MBOX_IN then s.mboxPush (v.toNat % 2 ^ 62)
  else if a = SY_PORT_CTRL 0 ∨ a = SY_PORT_CTRL 1 then
    let p := if a = SY_PORT_CTRL 0 then 0 else 1
    let s := if fget v SY_PORT_CTRL.ENABLE = 1 then s.syEnable p else s.syDisable p
    if fget v SY_PORT_CTRL.RECAL = 1 then s.syRecal p else s
  else s.writeReg a v

/-- Whether the host may write a register: SY_ registers with RW or WO fields (R296). -/
def hostMayWrite (a : Nat) : Bool :=
  decide (y4xWin 8 ≤ a) && decide (a < y4xWin 9) &&
    match regRow a with
    | some r => r.fields.any fun f => f.acc == .rw || f.acc == .wo
    | none => false

/-- Whether the Lantern is starting or resetting (R296, Table 12). -/
def State.lnBusy (s : State) : Bool := s.get LN_BOOT LN_BOOT.STAGE < 2

/-- Answer a MGMT frame (R296). -/
def State.mgmtRespond (s : State) (p tag st : Nat) (d : List Byte) : State := s.sySend p (mkData 2 3 tag st d)

/-- MGMT_READ (R296). While a firmware hand-over runs, management operations wait (R353). -/
def execMgmtRead (s : State) : Out :=
  match if s.svc.fwTo.isSome then none else s.takeSy fun _ f => f.ch = 2 && f.op = 0 with
  | none => .next s
  | some (p, f, s) =>
    let a := num f.payload 0 8
    if s.lnBusy then .next (s.mgmtRespond p f.tag 3 [])
    else if f.payload.length ≠ 8 ∨ a % 8 ≠ 0 then .next (s.mgmtRespond p f.tag 4 [])
    else
      match s.hostReg a with
      | none => .next (s.mgmtRespond p f.tag 1 [])
      | some (v, s) => .next (s.mgmtRespond p f.tag 0 (toBytes 8 v.toNat))

/-- MGMT_WRITE (R296). -/
def execMgmtWrite (s : State) : Out :=
  match if s.svc.fwTo.isSome then none else s.takeSy fun _ f => f.ch = 2 && f.op = 1 with
  | none => .next s
  | some (p, f, s) =>
    let a := num f.payload 0 8
    if s.lnBusy then .next (s.mgmtRespond p f.tag 3 [])
    else if f.payload.length ≠ 16 ∨ a % 8 ≠ 0 then .next (s.mgmtRespond p f.tag 4 [])
    else if (regRow a).isNone then .next (s.mgmtRespond p f.tag 1 [])
    else if !hostMayWrite a then .next (s.mgmtRespond p f.tag 2 [])
    else .next ((s.syWrite a (BitVec.ofNat 64 (num f.payload 8 8))).mgmtRespond p f.tag 0 [])

/-! ### Command sessions (R339, R340) -/

/-- Lines that fit in a payload, cut at a line boundary (R343). -/
def cutLines (room : Nat) (ls : List (List Byte)) : List Byte × Bool :=
  ls.foldl (fun (a : List Byte × Bool) l => if a.2 ∨ room < a.1.length + l.length then (a.1, true) else (a.1 ++ l, false))
    ([], false)

/-- Split bytes into CONS payloads of at most 2,048 (R297). -/
def consFrames (fuel : Nat) (l : List Byte) : List (List Byte) :=
  match fuel with
  | 0 => []
  | fuel + 1 => if l.isEmpty then [] else l.take 2048 :: consFrames fuel (l.drop 2048)

/-- Give a session its output: values and bytes printed, then the final line with its text (R297, R340, R343). -/
def State.replyOne (s : State) (c : Session) (vals : List Word) (data : List Byte) (code : Nat) (text : String) : State :=
  let s := s.modSvc fun v => { v with replies := v.replies ++ [⟨c, vals, data, code⟩] }
  let lines := (vals.map hexLine) ++ (if data.isEmpty then [] else [data]) ++ [finalLine code text]
  match c with
  | .uart => s.modSvc fun v => { v with echo := v.echo ++ lines.flatten ++ ascii "y4> " }
  | .tunnel => (consFrames (lines.flatten.length + 1) lines.flatten).foldl
      (fun (s : State) x => s.sySend s.svcPort (mkData 3 0 0 0 x)) s
  | .mgmt =>
    match s.svc.mgmtTag with
    | [] => s
    | (p, tag) :: rest =>
      let (out, cut) := cutLines 2048 lines
      let body := if cut then (cutLines (2048 - 17) lines).1 ++ ascii "ERR 06 TRUNCATED" ++ [10] else out
      (s.modSvc fun v => { v with mgmtTag := rest }).mgmtRespond p tag 0 body

/-- A command of a session runs: its line is taken from those submitted. -/
def State.takeLine (s : State) (c : Session) : State :=
  match s.svc.lines.find? fun x => x.1 == c with
  | some x => s.modSvc fun v => { v with lines := v.lines.erase x }
  | none => s

def State.stage (s : State) : Nat := s.get LN_BOOT LN_BOOT.STAGE

/-- Whether a firmware runs: it does in every stage from FIRMWARE on but STOPPED without one. -/
def State.fwRuns (s : State) : Bool :=
  decide (2 ≤ s.stage) && !(s.stage = 11 && [1, 2, 3].contains (s.get LN_BOOT LN_BOOT.ERROR))

/-- Whether commands of a session are served (R342, R353): with the IO rail, no hand-over of firmware, and without a firmware the
UART alone. -/
def State.served (s : State) (c : Session) : Bool :=
  s.pw.rails.getD 1 false && s.pw.good && s.svc.fwTo.isNone && (s.fwRuns || c == .uart)

/-- Lines at the head of a session's that spell no command are answered with their error (R340). -/
def dropUnknown (fuel : Nat) (s : State) (c : Session) : State :=
  match fuel with
  | 0 => s
  | fuel + 1 =>
    match s.lineError c with
    | some e => if s.served c then dropUnknown fuel ((s.takeLine c).replyOne c [] [] e "") c else s
    | none => s

/-- Give a session its output; lines behind it that spell no command have theirs. -/
def State.reply (s : State) (c : Session) (vals : List Word) (data : List Byte) (code : Nat) (text : String := "") : State :=
  dropUnknown s.svc.lines.length (s.replyOne c vals data code text) c

/-- A command ends: its line goes, its output and final line are given. -/
def State.ends (s : State) (c : Session) (vals : List Word) (data : List Byte) (code : Nat) (text : String := "") : State :=
  (s.takeLine c).reply c vals data code text

/-- A line is submitted. -/
def State.submit (s : State) (c : Session) (l : List Byte) : State :=
  dropUnknown 1 (s.modSvc fun v => { v with lines := v.lines ++ [(c, l)] }) c

/-- Characters a session's line buffer holds: the lines that wait behind the running one, and the line being typed. -/
def State.waitingChars (s : State) (c : Session) (typed : List Byte) : Nat :=
  ((((s.svc.lines.filter fun x => x.1 == c).drop 1).map fun x => x.2.length + 1).sum) + typed.length

/-- One character of a byte-stream session (R339): the line typed so far and whether it lost a character. -/
def State.lineChar (s : State) (c : Session) (typed : List Byte) (bad : Bool) (ch : Byte) : State × List Byte × Bool :=
  let runs := s.svc.lines.any fun x => x.1 == c
  if ch = 13 ∨ ch = 10 then
    if typed.isEmpty ∧ !bad then (s, [], false)
    else if bad ∨ 255 < typed.length then (s.submit c [], [], false)
    else (s.submit c typed, [], false)
  else if runs ∧ 1024 ≤ s.waitingChars c typed then (s, typed, true)
  else if 1024 ≤ typed.length then (s, typed, true)
  else (s, typed ++ [ch], bad)

/-- UART_CHARACTER (R339): echoed, then taken into the line. -/
def execUartCharacter (c : Byte) (s : State) : Out :=
  let s := s.modSvc fun v => { v with echo := v.echo ++ [c] }
  let (s, l, b) := s.lineChar .uart s.svc.uartBuf s.svc.uartBad c
  .next (s.modSvc fun v => { v with uartBuf := l, uartBad := b })

/-- CONS (R297): the tunnel's characters in order. -/
def execCons (s : State) : Out :=
  match s.takeSy fun _ f => f.ch = 3 with
  | none => .next s
  | some (_, f, s) =>
    if s.get LN_BOOT LN_BOOT.STAGE < 2 then .next s
    else
      .next (f.payload.foldl (fun (s : State) ch =>
        let (s, l, b) := s.lineChar .tunnel s.svc.consBuf s.svc.consBad ch
        s.modSvc fun v => { v with consBuf := l, consBad := b }) s)

/-- MGMT_COMMAND (R296, R343): one command line is submitted; its RESPONSE follows the command. -/
def execMgmtCommand (s : State) : Out :=
  match if s.svc.fwTo.isSome then none else s.takeSy fun _ f => f.ch = 2 && f.op = 2 with
  | none => .next s
  | some (p, f, s) =>
    if s.lnBusy then .next (s.mgmtRespond p f.tag 3 [])
    else if f.payload.isEmpty ∨ f.payload.any (fun b => 128 ≤ b.toNat) then .next (s.mgmtRespond p f.tag 4 [])
    else .next ((s.modSvc fun v => { v with mgmtTag := v.mgmtTag ++ [(p, f.tag)] }).submit .mgmt f.payload)

end Sys2Proof.Machine
end

