-- ==== Sys2Proof/Machine/Image.lean ====
section
/-! DEFINITION. Signed images (R314, R315, R328, R329), recipes and model images (R316 to R319), their verification record
(R333), and how the Lantern lays a recipe out in memory (R199, R200, R214). -/

namespace Sys2Proof.Machine

/-! ### The image header (R314, Table 4) -/

def imgGen (l : List Byte) : Nat := num l 0x10 4
def imgHint (l : List Byte) : Nat := num l 0x16 1
def imgSigner (l : List Byte) : Nat := num l 0x24 1
def imgSig (l : List Byte) : Nat := num l 0x68 8
def imgHeader (l : List Byte) : List Byte := l.take 128

/-- Step 1 of R315 fails: MAGIC, FORMAT, KIND, SECTIONS outside 1 to 4,096 (log entry 118) and the reserved bytes. -/
def imgFormatBad (kind : Nat) (l : List Byte) : Bool :=
  l.length < 128 || num l 0 4 != 0x344E5259 || num l 4 1 != kind || num l 5 1 != 1 || imgSecCount l = 0
    || decide (4096 < imgSecCount l)
    || (slice l 6 2 ++ slice l 0x17 1 ++ slice l 0x25 3 ++ slice l 0x70 16).any (· != 0)

/-- The layout tests of a signature block whose signer slot is to be `slot` (R328, Table 1). -/
def sigBlockBad (b : List Byte) (slot : Nat) : Bool :=
  b.length != 3104 || num b 0 4 != 0x47533459 || num b 4 1 != slot || num b 5 1 != 1 || decide (4 ≤ slot)
    || (slice b 6 10 ++ slice b 0x711 15).any (· != 0)

/-- The signature block of an image is not where and what R328 requires. -/
def imgBlockBad (l : List Byte) : Bool :=
  imgSig l % 8 != 0 || num l 8 8 != imgSig l + 3104 || l.length != num l 8 8
    || sigBlockBad (slice l (imgSig l) 3104) (imgSigner l)

/-- Whether a signer slot may sign: 1 it is not VALID, 2 it is REVOKED, 0 it may (R329, Table 7 of R338). -/
def State.slotBad (s : State) (slot : Nat) : Nat :=
  if nbit (s.get SC_FUSES SC_FUSES.SLOT_REVOKED) slot then 2
  else if !nbit (s.get SC_FUSES SC_FUSES.SLOT_VALID) slot then 1 else 0

/-- The bytes of a register's words. -/
def State.regBytes (s : State) (l : List Nat) : List Byte := l.flatMap fun a => toBytes 8 (s.reg a).toNat

/-- PUBKEY and SIGNATURE of a signature block (R328, Table 1). -/
def sigKey (b : List Byte) : List Byte := slice b 0x10 1793
def sigBytes (b : List Byte) : List Byte := slice b 0x720 1280

/-- Whether the digest of a block's PUBKEY equals the fused digest of a slot (R329). -/
def State.keyFits (s : State) (b : List Byte) (slot : Nat) : Bool :=
  digest (sigKey b) == s.regBytes ((List.range 8).map (SC_SLOT_DIGEST slot))

/-- The signature block of an image. -/
def imgBlock (l : List Byte) : List Byte := slice l (imgSig l) 3104

/-- The first section that fails its DIGEST, of those read: of a model image, those of the module (R315, R318). -/
def imgBadSection (kind : Nat) (l : List Byte) (idx : Nat) : Option Nat :=
  (imgSections l).findIdx? fun x => (kind != 3 || x.mine idx) && digest (x.bytes l) != x.digest

/-- Verify an image to step `upto` of R315, R316, R329: `none` where it passes, else the step, the cause of SC_VERIFY_LOG and the
section. `idx` is the MODULE_INDEX whose part of a model image is read. -/
def State.verify (s : State) (kind : Nat) (l : List Byte) (idx upto : Nat) : Option (Nat × Nat × Nat) :=
  if imgFormatBad kind l then some (1, 0, 0)
  else if imgBlockBad l then some (2, 0, 0)
  else if s.slotBad (imgSigner l) ≠ 0 then some (2, s.slotBad (imgSigner l), 0)
  else if !s.keyFits (imgBlock l) (imgSigner l) then some (2, 3, 0)
  else if kind = 1 ∧ imgGen l / 2 ^ 24 < s.get SC_FUSES SC_FUSES.FW_FLOOR then some (2, 7, 0)
  else if !falconVerify (sigKey (imgBlock l)) (sigBytes (imgBlock l)) (imgHeader l) then some (2, 4, 0)
  else if digest (imgTable l) != slice l 0x28 64 then some (3, 5, 0)
  else if imgTableBad l || (kind = 2 && !imgComplete l) then some (3, 0, 0)
  else if upto < 4 then none
  else (imgBadSection kind l idx).map fun i => (4, 6, i)

/-- The spans of an image that a verification to step 4 reads: header and table, the sections, the signature block. -/
def imgReads (kind : Nat) (l : List Byte) (idx : Nat) : List (Nat × Nat) :=
  (0, 128 + 96 * imgSecCount l) :: (((imgSections l).filter fun x => kind != 3 || x.mine idx).map fun x => (x.off, x.len))
    ++ [(imgSig l, 3104)]

/-- Record a verification failure (R333, R338): the counter, SC_VERIFY_LOG and the fault log with the slot and the step. -/
def State.verifyFail (s : State) (kind slot : Nat) (l : List Byte) (atStore : Bool) (x : Nat × Nat × Nat) : State :=
  let s := s.bump SC_VERIFY_FAIL 1
  let s := s.errLog SC_VERIFY_LOG SC_VERIFY_LOG.VALID SC_VERIFY_LOG.OVERWRITTEN
    [(SC_VERIFY_LOG.KIND, kind), (SC_VERIFY_LOG.SLOT, slot), (SC_VERIFY_LOG.STEP, x.1), (SC_VERIFY_LOG.CAUSE, x.2.1),
     (SC_VERIFY_LOG.AT_STORE, bit atStore), (SC_VERIFY_LOG.SECTION, x.2.2), (SC_VERIFY_LOG.GENERATION, imgGen l)]
  s.record 0 srcModule (slot + 16 * x.1) 4 [s.reg SC_VERIFY_LOG]

/-! ### Tensors (R318, R319) -/

/-- A tensor table entry (R318). -/
structure Tensor where
  ch : Nat
  store : Nat
  len : Nat
  dest : Nat
  src : Nat
  layer : Nat
  deriving DecidableEq, Repr

/-- The module's tensors. -/
def imgTensors (l : List Byte) (idx : Nat) : List Tensor :=
  let t := (imgPart l 0x0100 idx).getD []
  (List.range (t.length / 32)).map fun i =>
    let o := 32 * i
    ⟨num t o 2, num t (o + 2) 1, num t (o + 4) 4, num t (o + 8) 8, num t (o + 16) 8, num t (o + 24) 2⟩

def storeSize (store : Nat) : Nat := if store = 0 then 0x01800000 else 0x00180000

/-- Physical base of a chamber's slice or pocket (R191, R192). -/
def storeBase (ch store : Nat) : Nat := if store = 0 then ch * 0x01800000 else 0x000800000000 + ch * 0x00180000

/-- An entry leaves its slice or pocket, or overlaps another (R318). -/
def tensorsBad (ts : List Tensor) : Bool :=
  ts.any (fun t => decide (1024 ≤ t.ch ∨ 2 ≤ t.store ∨ storeSize t.store < t.dest + t.len))
    || ts.zipIdx.any fun a => ts.zipIdx.any fun b => decide (a.2 < b.2 ∧ a.1.ch = b.1.ch ∧ a.1.store = b.1.store
      ∧ a.1.dest < b.1.dest + b.1.len ∧ b.1.dest < a.1.dest + a.1.len)

/-- A model image is invalid for a module (R318): it does not hold one table of the module, the table's entries do not fill it or have
a reserved byte that is not 0, or tensorsBad. -/
def modelBad (l : List Byte) (idx : Nat) : Bool :=
  let t := (imgPart l 0x0100 idx).getD []
  ((imgSections l).filter fun x => x.type = 0x0100 && x.mine idx).length != 1 || t.length % 32 != 0
    || (List.range (t.length / 32)).any (fun i => (slice t (32 * i + 3) 1 ++ slice t (32 * i + 26) 6).any (· != 0))
    || tensorsBad (imgTensors l idx)

/-- What a codeword holds beside the bytes that are written. -/
def State.edge (s : State) (pa k : Nat) : List Byte × State :=
  if k = 0 then ([], s)
  else
    let r := s.lanternRead pa k
    (r.1, r.2.2)

/-- Write bytes as whole codewords (R208): what the first and the last hold beside them is read and written again, so that no poison is
left. -/
def State.lanternWhole (s : State) (pa : Nat) (l : List Byte) : State :=
  if l.isEmpty then s
  else
    let lo := pa / 32 * 32
    let hi := (pa + l.length + 31) / 32 * 32
    let (a, s) := s.edge lo (pa - lo)
    let (z, s) := s.edge (pa + l.length) (hi - (pa + l.length))
    s.lanternWrite lo (a ++ l ++ z)

/-- The spans of an image where a range of sections taken end to end lies (R318). -/
def partSpans (l : List Sec) (src len : Nat) : List (Nat × Nat) :=
  match l with
  | [] => []
  | x :: r =>
    if x.len ≤ src then partSpans r (src - x.len) len
    else (x.off + src, min len (x.len - src)) :: partSpans r 0 (len - (x.len - src))

/-- Where the tensors that a test admits lie in the image. -/
def tensorSpans (img : List Byte) (idx : Nat) (which : Nat → Bool) : List (Nat × Nat) :=
  let data := (imgSections img).filter fun x => x.type = 0x0101 && x.mine idx
  (((imgTensors img idx).filter fun t => which t.ch).flatMap fun t => partSpans data t.src t.len).filter fun x => x.2 != 0

/-- Write the tensors of the recipe's chambers that a test admits, each at the chamber that stands for it (R319, R352). -/
def State.loadTensors (s : State) (img : List Byte) (idx : Nat) (which : Nat → Bool) : State :=
  let data := (imgPart img 0x0101 idx).getD []
  ((imgTensors img idx).filter fun t => which t.ch).foldl (fun (s : State) t =>
    s.lanternWhole (storeBase (s.placeOf t.ch) t.store + t.dest) (slice data t.src t.len)) s

/-! ### Recipes (R316, R317) -/

/-- The passage record fails R248. -/
def passageBad (p : List Word) : Bool :=
  let f (w hi lo : Nat) : Nat := bits (p.getD w 0).toNat hi lo
  f 0 31 24 = 0 || decide (f 0 31 24 ≤ f 0 23 16) || f 1 41 34 = 0 || f 1 46 42 = 0 || decide (16 < f 1 46 42)
    || decide (f 1 57 55 < f 1 60 58) || decide (4 < f 1 57 55)
    || f 0 63 50 != 0 || f 1 63 61 != 0 || f 3 63 37 != 0 || f 4 63 48 != 0 || f 5 63 32 != 0 || f 6 63 48 != 0
    || f 7 63 23 != 0

/-- Whether a PRESETS pair is allowed: an address in the listed blocks, no reserved field set. -/
def presetOk (x : Word × Nat) : Bool :=
  let a := x.2
  let inBlock : Bool := match chOf a with
    | some (_, o) => o < 0x6000 || (0x7000 ≤ o && o < 0xB000)
    | none => y4xWin 6 ≤ a && a < y4xWin 7
  inBlock && match regRow a with
    | some r => r.fields.foldl (fun v f => fset v f.fld 0) x.1 == 0
    | none => false

/-- 2 MiB regions that the LAYOUT's G7 ranges take, and one for the tables. -/
def layoutRegions (l : List MapRange) : Nat := 1 + ((l.filter fun m => m.store = 2).map fun m => cdiv m.size 0x200000).sum

/-- G7 regions retired: of the log, before the logs are applied (R317, R322). -/
def State.g7Retired (s : State) : Nat :=
  max (s.get GM_STATUS GM_STATUS.RETIRED) (s.logs.retired.filter fun u => match u with
    | .g7Region _ => true
    | _ => false).length

/-- Whether the LAYOUT fits the stores that are not retired. -/
def State.layoutFits (s : State) (l : List MapRange) : Bool :=
  l.all (fun m => decide (m.store ≠ 0 ∧ m.store ≠ 1 ∨ m.off + m.size ≤ storeSize m.store))
    && decide (layoutRegions l + s.g7Retired ≤ 21504)

/-- Checks of R317 made when a recipe is chosen. -/
def State.recipeBad (s : State) (r : Recipe) : Bool :=
  passageBad r.passage || !(r.presets.all fun x => presetOk (x.2, x.1)) || !s.layoutFits r.layout

/-- Spare chambers that a recipe names. -/
def recipeSpares (r : Recipe) : Nat := (r.roles.filter fun x => x.2 = 5).length

/-! ### Laying a recipe out (R199, R200, R214, R319) -/

/-- Clear a span of memory: its bytes, check bytes and poison marks read as nothing written. -/
def State.zeroSpan (s : State) (lo k : Nat) : State :=
  let c (cw : Nat) : Bool := !(lo / 32 ≤ cw && cw < (lo + k) / 32)
  { s with
    mem := s.mem.filter fun (e : Nat × Byte) => c (e.1 / 32)
    chk := s.chk.filter fun (e : Nat × Byte) => c (e.1 / 4)
    poison := s.poison.filter fun (e : Nat × Byte) => c e.1
    tunNoise := s.tunNoise.filter fun (e : Nat × Byte) => c (e.1 / 64) }

/-- Take the lowest G7 region that is neither retired nor assigned; its offset's address. -/
def State.takeRegion (s : State) : Option (Nat × State) :=
  ((List.range 21504).find? fun r => !s.regionRetired r && !s.g7Used.contains r).map fun r =>
    (r, { s with g7Used := s.g7Used ++ [r] })

def regionBase (r : Nat) : Nat := 0x001000000000 + r * 0x200000

/-- Take a number of regions. -/
def takeRegions (k : Nat) (s : State) : Option (List Nat × State) :=
  match k with
  | 0 => some ([], s)
  | k + 1 =>
    match s.takeRegion with
    | none => none
    | some (r, s) => (takeRegions k s).map fun x => (r :: x.1, x.2)

/-- A new 4 KiB table. -/
def State.newTable (s : State) : Nat × State :=
  let a := s.svc.tableAt
  if a % 0x200000 ≠ 0 then (a, (s.modSvc fun v => { v with tableAt := a + 4096 }).zeroSpan a 4096)
  else
    match s.takeRegion with
    | some (r, s) => (regionBase r, (s.modSvc fun v => { v with tableAt := regionBase r + 4096 }).zeroSpan (regionBase r) 4096)
    | none => (a, s)

/-- The table that an entry points to, made where there is none. -/
def State.tableNext (s : State) (a : Nat) : Nat × State :=
  let e := ofBytes (s.bytes a 8)
  if nbit e 0 then (bits e 45 12 * 4096, s)
  else
    let (t, s) := s.newTable
    (t, s.lanternWrite a (toBytes 8 (t + 1)))

/-- Write the leaf of a page of a context (R199). -/
def State.mapPage (s : State) (x va log2 leaf : Nat) : State :=
  let base := s.get GM_XLAT_BASE GM_XLAT_BASE.BASE * 2 ^ 20
  let (t1, s) := s.tableNext (base + 16 * x)
  let (t2, s) := s.tableNext (t1 + 8 * bits va 47 39)
  let (t3, s) := s.tableNext (t2 + 8 * bits va 38 30)
  if log2 = 21 then s.lanternWrite (t3 + 8 * bits va 29 21) (toBytes 8 leaf)
  else
    let (t4, s) := s.tableNext (t3 + 8 * bits va 29 21)
    s.lanternWrite (t4 + 8 * bits va 20 16) (toBytes 8 leaf)

/-- Map a range: its pages to the store, G7 pages to regions that the Lantern takes. -/
def State.mapRange (s : State) (m : MapRange) : State :=
  let page := 2 ^ m.log2
  let bitsOf := 3 + m.perms % 8 * 4 + (if m.store = 2 then m.hint % 4 * 64 else 0)
    + (if m.store = 3 then 32 + m.ch * 2 ^ 46 else 0)
  let go (s : State) (pa : Nat → Nat) : State :=
    (List.range (cdiv m.size page)).foldl (fun (s : State) i =>
      s.mapPage m.ctx (m.va + i * page) m.log2 (bitsOf + pa i)) s
  if m.store = 2 then
    match takeRegions (cdiv m.size 0x200000) s with
    | none => s
    | some (rs, s) => go s fun i => regionBase (rs.getD (i * page / 0x200000) 0) + i * page % 0x200000
  else if m.store < 2 then go s fun i => storeBase (s.placeOf m.ch) m.store + m.off + i * page
  else go s fun i => m.off + i * page

/-- Empty every translation cache: the Lantern's invalidation of all contexts, waited for (R203). -/
def State.invalAllNow (s : State) : State :=
  { s with ytlb := [], chambers := s.chambers.map fun (c : Nat × Chamber) => (c.1, { c.2 with tlb := [] }) }.set
    GM_INVAL_STATUS GM_INVAL_STATUS.DONE 1

/-- Build the context table and the tables of a LAYOUT. -/
def State.applyLayout (s : State) (l : List MapRange) : State :=
  match s.takeRegion with
  | none => s
  | some (r, s) =>
    let s := s.zeroSpan (regionBase r) 0x100000
    let s := s.set GM_XLAT_BASE GM_XLAT_BASE.BASE (regionBase r / 2 ^ 20)
    let s := s.modSvc fun v => { v with tableAt := regionBase r + 0x100000 }
    (l.foldl State.mapRange s).invalAllNow

/-- Write bytes at virtual addresses of a context by the tables themselves. -/
def ctxWrite (fuel : Nat) (s : State) (x va : Nat) (l : List Byte) (ok : Nat → Bool) : State :=
  match fuel with
  | 0 => s
  | fuel + 1 =>
    if l.isEmpty then s
    else
      let k := min l.length (0x10000 - va % 0x10000)
      let s := match s.walk x va with
        | (.ok (e, big), s) =>
          let leaf := leafAt e va big
          let pa := leafPage leaf * 0x10000 + va % 0x10000
          if leafRemote leaf || !ok pa then s else s.lanternWrite pa (l.take k)
        | (.error _, s) => s
      ctxWrite fuel s x (va + k) (l.drop k) ok

/-- Write the task programs whose place a test admits. -/
def State.writePrograms (s : State) (r : Recipe) (ok : Nat → Bool) : State :=
  r.programs.foldl (fun (s : State) p => ctxWrite (p.2.2.length + 1) s p.1 p.2.1 p.2.2 ok) s

/-- The address that a preset of a recipe's chamber has at the chamber that stands for it. -/
def State.presetAt (s : State) (a : Nat) : Nat :=
  match chOf a with
  | some (n, o) => chWin (s.placeOf n) + o
  | none => a

/-- Roles and sparge groups of the CHAMBERS section. -/
def State.applyChambers (s : State) (r : Recipe) (which : Nat → Bool) : State :=
  let s := (r.roles.filter fun x => which x.1).foldl (fun (s : State) x =>
    s.set (CH_ROLE (s.placeOf x.1)) CH_ROLE.ROLE x.2) s
  (r.stMembers.filter fun x => which x.1).foldl (fun (s : State) x =>
    x.2.zipIdx.foldl (fun (s : State) w => s.setReg (ST_MEMBER (s.placeOf x.1) w.2) w.1) s) s

/-- The presets of the recipe's chambers that a test admits, and of the Y4X. -/
def State.applyPresets (s : State) (r : Recipe) (which : Nat → Bool) : State :=
  (r.presets.filter fun x => match chOf x.1 with
    | some (n, _) => which n
    | none => true).foldl (fun (s : State) x => s.writeReg (s.presetAt x.1) x.2) s

/-- GL_ and power settings of a recipe (R284, R316, R320, R321, R367, R368): with no POWER section pace 3 and 2,400 W. -/
def State.applyGallery (s : State) (img : List Byte) (r : Recipe) : State :=
  let own := if imgHint img = 0xFF then r.addr / 128 * 128 + s.get LN_STRAPS LN_STRAPS.HINT else r.addr
  let s := (s.writeReg GL_CTRL r.glCtrl).set GL_STATUS GL_STATUS.ADDR own
  let s := (s.set GL_WEIGHT GL_WEIGHT.TOTAL r.total).set GL_WEIGHT GL_WEIGHT.OWN r.weight
  let s := r.intra.foldl (fun (s : State) x => s.writeReg (GL_ROUTE_INTRA x.1) x.2) s
  let s := r.inter.foldl (fun (s : State) x => s.writeReg (GL_ROUTE_INTER x.1) x.2) s
  let s := r.ports.foldl (fun (s : State) d =>
    (s.set (GL_PORT_CTRL d.port) GL_PORT_CTRL.FEC d.fec).set (GL_PORT_CTRL d.port) GL_PORT_CTRL.RATE d.rate) s
  let s := s.modGl fun g => { g with weights := r.members, galleryId := num img 0x18 8, topoGen := num img 0x20 4 }
  let (lim, pace) := r.power.getD (2400, 3)
  (s.writeReg PW_CTRL (fset (s.reg PW_CTRL) PW_CTRL.PACE pace)).set PW_CTRL PW_CTRL.LIMIT lim

/-- The recipe runs: its slot and generation. -/
def State.runRecipe (s : State) (slot : Nat) (img : List Byte) : State :=
  let s := s.modSvc fun v => { v with recipe := some (slot, img) }
  let s := (s.set LN_RECIPE LN_RECIPE.GENERATION (imgGen img)).set LN_RECIPE LN_RECIPE.SLOT slot
  (s.set LN_RECIPE LN_RECIPE.VALID 1).set SY_STATUS SY_STATUS.ENTRY (bit (s.prec 0 23 16 = 0))

/-- Two of three bits that agree, in every place (R330). -/
def maj3 (a b c : Nat) : Nat := (a &&& b) ||| (a &&& c) ||| (b &&& c)

/-- A field of the fuses as it reads: by majority of its three copies. -/
def Fuses.read (f : Fuses) (x : FuseCopy → Nat) : Nat := maj3 (x f.a) (x f.b) (x f.c)

/-- The fuses of a field that are blown. -/
def blown (n : Nat) : Nat := ((List.range 64).filter (nbit n)).length

/-- SC_FUSES and SC_SLOT_DIGEST show the fuses (R330, R338). -/
def State.showFuses (s : State) : State :=
  let f := s.fuses
  let s := (s.set SC_FUSES SC_FUSES.SLOT_VALID (f.read (·.valid))).set SC_FUSES SC_FUSES.SLOT_REVOKED (f.read (·.revoked))
  let s := (s.set SC_FUSES SC_FUSES.FW_FLOOR (blown (f.read (·.floor)))).set SC_FUSES SC_FUSES.ORDERING (f.read (·.ordering))
  (List.range 4).foldl (fun (s : State) k =>
    let d := f.read fun c => c.digests.getD k 0
    (List.range 8).foldl (fun (s : State) i => s.setReg (SC_SLOT_DIGEST k i) (BitVec.ofNat 64 (d / 2 ^ (64 * i)))) s) s

/-- SC_STATUS.BUSY: the security block verifies an image, signs a report or programs a fuse (R338). -/
def State.showSec (s : State) : State :=
  s.set SC_STATUS SC_STATUS.BUSY (bit (s.svc.fuseBusy.isSome || s.svc.staging.isSome
    || s.svc.xfer.any (fun x => x.full && x.kind != .fuseBuf) || (!s.svc.attests.isEmpty && s.get SC_STATUS SC_STATUS.ID_READY = 1)))

/-- The model image is in use. -/
def State.runModel (s : State) (slot : Nat) (img : List Byte) : State :=
  let s := s.modSvc fun v => { v with model := some (slot, img) }
  ((s.set LN_MODEL LN_MODEL.GENERATION (imgGen img)).set LN_MODEL LN_MODEL.SLOT slot).set LN_MODEL LN_MODEL.VALID 1

end Sys2Proof.Machine
end

