-- ==== Sys2Proof/Machine/Cask.lean ====
section
/-! DEFINITION. The cask (R303 to R313): blocks, wear, the patrol, retirement, objects. A block's key is
(die × 4 + plane) × 1,656 + block; a block holds 36 map units of 1 MiB in page order. -/

namespace Sys2Proof.Machine

def State.modCask (s : State) (f : Cask → Cask) : State := { s with cask := f s.cask }

def blockKey (die plane block : Nat) : Nat := (die * 4 + plane) * 1656 + block

def blockDie (b : Nat) : Nat := b / 6624

def State.nand (s : State) (b : Nat) : NBlock := kget s.cask.blocks b {}

def State.modNand (s : State) (b : Nat) (f : NBlock → NBlock) : State :=
  s.modCask fun c => { c with blocks := kput c.blocks b (f (s.nand b)) {} }

def mapUnit : Nat := 0x100000

def unitsPerBlock : Nat := 36

/-- Blocks of a die that the logical capacity needs: 6.40 TB over the dies in equal parts. -/
def blocksNeeded : Nat := 5299

/-- The sector tags of a block that still count: those that the map names (R306). -/
def State.liveTags (s : State) (x : NBlock) : List (Nat × Nat) := x.units.filter fun t => kfind s.cask.map t.1 == some t.2

/-- Spare blocks of a die (R310). -/
def State.spareBlocks (s : State) (die : Nat) : Nat :=
  6624 - (s.cask.blocks.filter fun (e : Nat × NBlock) => e.2.retired && blockDie e.1 = die).length - blocksNeeded

/-- The CK_ registers that follow from the blocks (R310, R311). -/
def State.showCask (s : State) : State :=
  let bs := s.cask.blocks.map (·.2)
  let avg := (bs.map (·.erases)).sum / 211968
  let top := (bs.map (·.erases)).foldl max 0
  let low := (List.range 32).foldl (fun (m : Nat × Nat) d =>
    if s.spareBlocks d < m.2 then (d, s.spareBlocks d) else m) (0, s.spareBlocks 0)
  let health := if !s.cask.noAnswer.isEmpty then 3 else if low.2 < 16 then 2 else if low.2 < 64 then 1 else 0
  let s := (s.set CK_WEAR CK_WEAR.AVG_ERASE avg).set CK_WEAR CK_WEAR.MAX_ERASE top
  let s := s.set CK_WEAR CK_WEAR.PCT_USED (min 255 (100 * avg / 3000))
  let s := (s.set CK_SPARE CK_SPARE.MIN_SPARE low.2).set CK_SPARE CK_SPARE.MIN_DIE low.1
  let s := s.set CK_SPARE CK_SPARE.FACTORY (bs.filter (·.factory)).length
  let s := s.set CK_SPARE CK_SPARE.GROWN (bs.filter fun b => b.retired && !b.factory).length
  (s.set CK_STATUS CK_STATUS.HEALTH health).showAout

/-- READ_ONLY, or FAILED: the cask refuses every write. -/
def State.caskReadOnly (s : State) : Bool := 2 ≤ s.get CK_STATUS CK_STATUS.HEALTH

/-- Pages read from a block: it counts them (R309). -/
def State.caskRead (s : State) (b pages : Nat) : State :=
  let n := s.cask.fill + pages * 16384
  let s := (s.bump CK_MB_READ (n / 1000000)).modCask fun c => { c with fill := n % 1000000 }
  (s.tallyX 0xD01 (blockDie b / 4) (pages * 16384)).modNand b fun x => { x with reads := x.reads + pages }

/-- Bytes written to a block. -/
def State.caskWrite (s : State) (b k : Nat) : State :=
  let n := s.cask.fillW + k
  let s := (s.bump CK_MB_WRITTEN (n / 1000000)).modCask fun c => { c with fillW := n % 1000000 }
  s.tallyX 0xD02 (blockDie b / 4) k

/-! ### Free blocks (R306, R307) -/

/-- Erase count and key of the free blocks: erased, not retired, not open; of those never used, the lowest. -/
def State.freeBlocks (s : State) : List (Nat × Nat) :=
  let bs := s.cask.blocks
  let used := bs.filterMap fun (e : Nat × NBlock) =>
    if e.2.units.isEmpty && !e.2.retired && s.cask.opened != some e.1 then some (e.2.erases, e.1) else none
  let fresh := (List.range (bs.length + 2)).find? fun b => b < 211968 && !(bs.any fun e => e.1 = b) && s.cask.opened != some b
  used ++ fresh.toList.map fun b => (0, b)

/-- The free block of the lowest erase count, or of the highest; of equals the lowest-numbered. -/
def State.freeBlock (s : State) (worn : Bool) : Option Nat :=
  (s.freeBlocks.foldl (fun (m : Option (Nat × Nat)) x =>
    match m with
    | none => some x
    | some y =>
      let better : Bool := if worn then decide (y.1 < x.1) else decide (x.1 < y.1)
      if better || (x.1 = y.1 && decide (x.2 < y.2)) then some x else some y) none).map (·.2)

/-- Erase a block. -/
def State.eraseNand (s : State) (b : Nat) : State :=
  s.modNand b fun x => { x with units := [], erases := x.erases + 1, reads := 0 }

/-- A block that is not being written and holds nothing that counts is erased. -/
def State.sweepNand (s : State) (b : Nat) : State :=
  if s.cask.opened ≠ some b ∧ !(s.nand b).units.isEmpty ∧ (s.liveTags (s.nand b)).isEmpty then s.eraseNand b else s

/-- The block where what counts of a map unit lies, and its place there. -/
def State.findUnit (s : State) (u : Nat) : Option (Nat × Nat) :=
  match kfind s.cask.map u with
  | none => none
  | some q => s.cask.blocks.findSome? fun e => (e.2.units.findIdx? (· == (u, q))).map fun i => (e.1, i)

/-- Append a map unit to the block being written, opening the free block of the lowest erase count where it is full; what it held before no
longer counts. -/
def State.putUnit (s : State) (u : Nat) : State :=
  let fits := match s.cask.opened with
    | some b => if (s.nand b).units.length < unitsPerBlock then some b else none
    | none => none
  match fits.orElse fun _ => s.freeBlock false with
  | none => s
  | some b =>
    let was := [s.cask.opened, (s.findUnit u).map (·.1)].filterMap id
    let q := s.cask.seq + 1
    let s := s.modCask fun c => { c with opened := some b, seq := q, map := kset c.map u q }
    let s := s.modNand b fun x =>
      { x with units := x.units ++ [(u, q)], wrote := if x.units.isEmpty then s.cask.ticks else x.wrote }
    was.foldl State.sweepNand (s.caskWrite b mapUnit)

/-- Map units are no longer wanted: a block left without any is erased. -/
def State.dropUnits (s : State) (us : List Nat) : State :=
  let bs := us.filterMap fun u => (s.findUnit u).map (·.1)
  bs.eraseDups.foldl State.sweepNand (s.modCask fun c => { c with map := c.map.filter fun e => !us.contains e.1 })

/-- The map is written to the cask (R306), after a store or a removal (log entry 74). -/
def State.saveMap (s : State) : State := s.modCask fun c => { c with saved := c.map, savedSeq := c.seq }

/-- Move a block's data to another, which it becomes where it was open. -/
def State.moveNand (s : State) (b toA : Nat) : State :=
  let us := s.liveTags (s.nand b)
  let s := s.modNand toA fun x => { x with units := us, wrote := s.cask.ticks }
  let s := if s.cask.opened = some b then s.modCask fun c => { c with opened := some toA } else s
  ((s.caskRead b (us.length * 64)).caskWrite toA (us.length * mapUnit)).modNand b fun x => { x with units := [] }

/-- Refresh a block (R308): its data moves to a free block and it is erased. A cask that refuses writes refreshes none. -/
def State.refreshNand (s : State) (b : Nat) (disturb : Bool) : State :=
  if s.caskReadOnly ∨ (s.nand b).units.isEmpty then s
  else
    match s.freeBlock false with
    | none => s
    | some f =>
      let s := ((s.moveNand b f).eraseNand b).bump CK_REFRESH 1
      (if disturb then s.bump CK_DISTURB 1 else s).showCask

/-- A block has been read CK_CTRL.DISTURB_K × 1,000 times since its erase (R309). -/
def State.disturbed (s : State) (b : Nat) : Bool :=
  let k := s.get CK_CTRL CK_CTRL.DISTURB_K
  k ≠ 0 && decide (k * 1000 ≤ (s.nand b).reads)

/-- A block's data has been in place for more than CK_CTRL.REFRESH_DAYS (R308). -/
def State.aged (s : State) (x : NBlock) : Bool :=
  let days := s.get CK_CTRL CK_CTRL.REFRESH_DAYS
  days ≠ 0 && !x.units.isEmpty && decide (days * 8640000000000 < s.cask.ticks - x.wrote)

/-- Read disturb refreshes a block. -/
def State.disturbNand (s : State) (b : Nat) : State := if s.disturbed b then s.refreshNand b true else s

/-- Age refreshes blocks, once the cask is ready (R308). -/
def State.ageNand (s : State) : State :=
  if s.get LN_BOOT LN_BOOT.STAGE < 1 then s
  else (s.cask.blocks.filter fun e => s.aged e.2).foldl (fun (s : State) e => s.refreshNand e.1 false) s

/-- A map unit is written anew, and what is not changed of it read first (R306). -/
def State.rewriteUnit (s : State) (u : Nat) (part : Bool) : State :=
  match s.findUnit u with
  | some x => if part then ((s.caskRead x.1 64).putUnit u).disturbNand x.1 else s.putUnit u
  | none => s.putUnit u

/-- Retire a block (R310): what is readable in it moves first. A cask in READ_ONLY, which cannot write it elsewhere, keeps the block. -/
def State.retireNand (s : State) (b : Nat) : State :=
  let full := !(s.liveTags (s.nand b)).isEmpty
  if (s.nand b).retired ∨ (full ∧ s.caskReadOnly) then s
  else
    let s := if full then (match s.freeBlock false with
        | some f => s.moveNand b f
        | none => s) else s
    let s := s.modNand b fun x => { x with retired := true, units := [] }
    let s := if s.cask.opened = some b then s.modCask fun c => { c with opened := none } else s
    (s.event 0xE004 srcModule b).showCask

/-! ### The directory (R312, R313) -/

/-- Map units of the logical space for objects: the logs' 64 MiB and two directory copies stand beside them. -/
def objUnits : Nat := 6103515 - 66

/-- The first map unit of the logs; the two directory copies follow their 64. -/
def logUnit : Nat := objUnits

/-- Write the directory copy that does not hold the newer generation, with the generation raised (R313). A cask in READ_ONLY refuses
it. -/
def State.commitDir (s : State) (f : List (Nat × CObj) → List (Nat × CObj)) : State :=
  if s.caskReadOnly then s
  else
    let c := s.cask
    let d : DirCopy := ⟨c.dirGen + 1, f c.objs⟩
    let first : Bool := decide (c.copyA.gen ≤ c.copyB.gen)
    let s := s.modCask fun c => { c with
      objs := d.objs, dirGen := d.gen, copyA := if first then d else c.copyA, copyB := if first then c.copyB else d }
    s.rewriteUnit (logUnit + 64 + bit !first) false

/-- Zero the bytes of a sector of 4,096. -/
def blankSector (l : List Byte) (i : Nat) : List Byte :=
  l.take (4096 * i) ++ List.replicate (min 4096 (l.length - 4096 * i)) 0 ++ l.drop (4096 * i + 4096)

/-- An object has lost some of its sectors. -/
def CObj.lose (o : CObj) (l : List Nat) : CObj :=
  { o with damaged := true, lost := o.lost ++ l, bytes := l.foldl blankSector o.bytes }

/-- Sectors of a map unit are lost: the object that holds them is marked damaged (R310, R313); a cask in READ_ONLY keeps the mark out of
its directory copies. -/
def State.loseSectors (s : State) (u : Nat) (l : List Nat) : State :=
  let mark (m : List (Nat × CObj)) : List (Nat × CObj) := m.map fun (o : Nat × CObj) =>
    if o.2.start ≤ u && u < o.2.start + cdiv o.2.bytes.length mapUnit then (o.1, o.2.lose (l.map ((u - o.2.start) * 256 + ·))) else o
  if s.caskReadOnly then s.modCask fun c => { c with objs := mark c.objs } else s.commitDir mark

/-! ### Errors (R305, R310, R325) -/

/-- CK_ERR_LOG records an error. -/
def State.caskErr (s : State) (b page cw : Nat) (uncorr patrol : Bool) : State :=
  s.errLog CK_ERR_LOG CK_ERR_LOG.VALID CK_ERR_LOG.OVERWRITTEN
    [(CK_ERR_LOG.UNCORR, bit uncorr), (CK_ERR_LOG.DIE, blockDie b), (CK_ERR_LOG.PLANE, b / 1656 % 4), (CK_ERR_LOG.BLOCK, b % 1656),
     (CK_ERR_LOG.PAGE, page), (CK_ERR_LOG.CODEWORD, cw), (CK_ERR_LOG.PATROL, bit patrol)]

/-- A codeword has been read (R305): what the counters, the error log and the health take from it. -/
def State.cwFound (s : State) (b page cw : Nat) (patrol : Bool) (x : CwFind) : State :=
  match x with
  | .clean => s
  | .corrected _ => (s.bump CK_LDPC_CORR 1).caskErr b page cw false patrol
  | .retried => ((s.bump CK_LDPC_RETRY 1).tallyX 0xD03 (blockDie b / 4) 1).caskErr b page cw false patrol
  | .uncorrectable => (s.bump CK_UNCORR 1).caskErr b page cw true patrol
  | .silent => (s.modCask fun c => { c with noAnswer := (c.noAnswer ++ [blockDie b]).eraseDups }).showCask

/-- The codewords of a page that could not be decoded. -/
def badCws (found : List CwFind) : List Nat := (List.range 4).filter fun j => found[j]? == some .uncorrectable

/-- A page has been read (R305, R310): of a sector that could not be decoded the object is damaged, and the block retires. -/
def State.pageFound (s : State) (b page : Nat) (patrol : Bool) (found : List CwFind) : State :=
  let s := (found.take 4).zipIdx.foldl (fun (s : State) x => s.cwFound b page x.2 patrol x.1) s
  let bad := badCws found
  if bad.isEmpty then s
  else
    let s := match (s.nand b).units[page / 64]? with
      | some t => if kfind s.cask.map t.1 = some t.2 then s.loseSectors t.1 (bad.map (page % 64 * 4 + ·)) else s
      | none => s
    s.retireNand b

/-! ### The patrol (R308) -/

/-- The next written page of the patrol pass, in rising order of blocks; a die that does not answer is passed over. -/
def State.patrolNext (s : State) : Option (Nat × Nat) :=
  let (b0, p0) := match s.cask.patrolAt with
    | none => (0, 0)
    | some (b, p) => (b, p + 1)
  (s.cask.blocks.find? fun (e : Nat × NBlock) => !s.cask.noAnswer.contains (blockDie e.1)
    && ((e.1 = b0 && decide (p0 < e.2.units.length * 64)) || (decide (b0 < e.1) && !e.2.units.isEmpty))).map fun e =>
      (e.1, if e.1 = b0 then p0 else 0)

/-- A patrol pass begins. -/
def State.patrolStart (s : State) : State :=
  (s.modCask fun c => { c with patrolAt := none, passAt := c.ticks }).set CK_STATUS CK_STATUS.PATROL_ACTIVE
    (bit (decide (s.get CK_CTRL CK_CTRL.PATROL_DAYS ≠ 0)))

/-- The days of a pass are over, and the next one begins. -/
def State.patrolDue (s : State) : State :=
  let days := s.get CK_CTRL CK_CTRL.PATROL_DAYS
  if s.get CK_STATUS CK_STATUS.PATROL_ACTIVE = 1 ∨ days = 0 ∨ s.cask.ticks - s.cask.passAt < days * 8640000000000 then s
  else s.patrolStart

/-- CASK_PATROL_READ (R308, R309): the patrol reads the next written page of its pass, which ends with the last. -/
def execCaskPatrolRead (die plane block page : Nat) (found : List CwFind) (s : State) : Out :=
  let b := blockKey die plane block
  if !s.pw.good ∨ s.get LN_BOOT LN_BOOT.STAGE < 1 then .next s
  else
    let s0 := s
    let s := s.patrolDue
    if s.get CK_STATUS CK_STATUS.PATROL_ACTIVE = 0 ∨ s.patrolNext ≠ some (b, page) then .next s0
    else
      let old := s.aged (s.nand b)
      let s := (s.caskRead b 1).modCask fun c => { c with patrolAt := some (b, page) }
      let s := s.set CK_STATUS CK_STATUS.PATROL_ACTIVE (bit s.patrolNext.isSome)
      let s := s.pageFound b page true found
      let weak := (found.take 4).any fun x => x == .retried || x == .corrected true
      .next (if s.disturbed b then s.refreshNand b true else if weak || old then s.refreshNand b false else s)

/-- The least-worn block that holds data, and the erases of the most-worn block in use (R307). -/
def State.leastWorn (s : State) : Option (Nat × NBlock) :=
  (s.cask.blocks.filter fun (e : Nat × NBlock) => !e.2.retired && !e.2.units.isEmpty).foldl
    (fun (m : Option (Nat × NBlock)) e =>
      match m with
      | none => some e
      | some y => if e.2.erases < y.2.erases then some e else some y) none

def State.mostErases (s : State) : Nat :=
  ((s.cask.blocks.filter fun (e : Nat × NBlock) => !e.2.retired).map fun (e : Nat × NBlock) => e.2.erases).foldl max 0

/-- STATIC_WEAR_LEVEL (R307): the data of the least-worn block that holds any moves to the most-worn free block. -/
def execStaticWearLevel (s : State) : Out :=
  match s.leastWorn, s.freeBlock true with
  | some (b, x), some f =>
    if !s.pw.good ∨ s.get LN_BOOT LN_BOOT.STAGE < 1 ∨ s.caskReadOnly ∨ s.mostErases ≤ x.erases + 16 * s.get CK_CTRL CK_CTRL.WL_SPREAD then .next s
    else .next ((s.moveNand b f).eraseNand b).showCask
  | _, _ => .next s

/-- NAND_PROGRAM_FAIL (R310): the block being written is retired; the controller's buffer is programmed elsewhere. -/
def execNandProgramFail (die plane block : Nat) (s : State) : Out :=
  let b := blockKey die plane block
  if s.cask.opened ≠ some b ∨ (s.nand b).retired then .next s else .next (s.retireNand b)

/-- NAND_ERASE_FAIL (R310): a block being erased holds no data. -/
def execNandEraseFail (die plane block : Nat) (s : State) : Out :=
  let b := blockKey die plane block
  if (s.nand b).retired ∨ !(s.nand b).units.isEmpty then .next s else .next (s.retireNand b)

/-- NAND_UNCORR_READ (R310): which of the block's pages and codewords could not be read, no operand says. -/
def execNandUncorrRead (die plane block : Nat) (s : State) : Out :=
  let b := blockKey die plane block
  let n := (s.nand b).units.length
  if (s.nand b).retired ∨ n = 0 then .next s
  else
    let (w, s) := s.free
    .next (s.pageFound b (w.toNat % (n * 64)) false ((List.range 4).map fun j =>
      if j = w.toNat / 2 ^ 32 % 4 then .uncorrectable else .clean))

/-! ### Objects (R312, R313) -/

def kindNo : ObjKind → Nat
  | .firmware => 1
  | .recipe => 2
  | .model => 3
  | .script => 4
  | .fuseBuf => 5

/-- Slots of a kind (R312, Table 3). -/
def kindSlots : ObjKind → Nat
  | .firmware => 2
  | .recipe => 8
  | .fuseBuf => 1
  | _ => 16

/-- Largest object of a kind in bytes. -/
def kindMax : ObjKind → Nat
  | .firmware => 64 * 2 ^ 20
  | .recipe => 256 * 2 ^ 20
  | .model => 512 * 2 ^ 30
  | .script => 16 * 2 ^ 20
  | .fuseBuf => 3272

def State.obj (s : State) (kind slot : Nat) : Option CObj := kfind s.cask.objs (kind * 16 + slot)

/-- The lowest free extent of a number of map units. -/
def State.freeExtent (s : State) (k : Nat) : Option Nat :=
  let os := s.cask.objs.map fun (o : Nat × CObj) => (o.2.start, o.2.start + cdiv o.2.bytes.length mapUnit)
  ((0 :: os.map (·.2)).mergeSort (· ≤ ·)).find? fun a => a + k ≤ objUnits && os.all fun o => decide (a + k ≤ o.1 ∨ o.2 ≤ a)

/-- Logs that have grown are written (R306, R311). -/
def State.flushLogs (s : State) : State :=
  if s.cask.due.isEmpty ∨ s.caskReadOnly ∨ s.stage < 1 then s
  else ((s.cask.due.foldl (fun (s : State) k => s.rewriteUnit (logUnit + k) true) s).modCask fun c => { c with due := [] }).showCask

/-- Remove an object. -/
def State.removeObj (s : State) (kind slot : Nat) : State :=
  match s.obj kind slot with
  | none => s
  | some o =>
    let us := (List.range (cdiv o.bytes.length mapUnit)).map (o.start + ·)
    ((s.commitDir fun l => kdel l (kind * 16 + slot)).dropUnits us).saveMap.showCask

/-- Store an object (R313): the new object goes into free space, then the directory, then the old one's units are free. -/
def State.storeObj (s : State) (kind slot at_ : Nat) (l : List Byte) : State :=
  let old := s.obj kind slot
  let us := (List.range (cdiv l.length mapUnit)).map (at_ + ·)
  let seq := s.cask.seq + 1
  let s := us.foldl State.putUnit s
  let s := s.commitDir fun m => kset m (kind * 16 + slot) { start := at_, bytes := l, seq := seq }
  let s := match old with
    | some o => s.dropUnits ((List.range (cdiv o.bytes.length mapUnit)).map (o.start + ·))
    | none => s
  s.saveMap.showCask

/-! ### Reading objects (R305, R315) -/

/-- The sectors of an object of `len` bytes that spans lie in. -/
def spanSectors (len : Nat) (spans : List (Nat × Nat)) : List Nat :=
  (spans.flatMap fun x =>
    let hi := min (x.1 + x.2) len
    if hi ≤ x.1 then [] else (List.range (cdiv hi 4096 - x.1 / 4096)).map (x.1 / 4096 + ·)).eraseDups

/-- Whether a find of a sector's read gives its bytes. -/
def cwOk (x : CwFind) : Bool := x != .uncorrectable && x != .silent

/-- Spans of an object are read from its pages: whether every sector of them could be read. -/
def State.readObj (s : State) (kind slot : Nat) (spans : List (Nat × Nat)) (f : ReadFinds) : Bool × State :=
  match s.obj kind slot with
  | none => (false, s)
  | some o =>
    let secs := spanSectors o.bytes.length spans
    ((secs.map (· / 4)).eraseDups).foldl (fun (a : Bool × State) p =>
      let s := a.2
      let mine := secs.filter (· / 4 = p)
      match s.findUnit (o.start + p / 64) with
      | none => (false, s)
      | some (b, i) =>
        if s.cask.noAnswer.contains (blockDie b) then (false, s)
        else
          let found := (List.range 4).map fun j => kget f (4 * p + j) .clean
          let ok := mine.all fun x => !o.lost.contains x && cwOk (kget f x .clean)
          (a.1 && ok, ((s.caskRead b 1).pageFound b (i * 64 + p % 64) false found).disturbNand b)) (true, s)

/-- Read an image from the cask and verify it to step 4 (R315): `inl` why it fails, where it was read whole, else `inr` its bytes. A
sector that cannot be read fails it with no step (log entry 120). -/
def State.fetchImage (s : State) (kind slot idx : Nat) (f : ReadFinds) : Except (Option (Nat × Nat × Nat)) (List Byte) × State :=
  match s.obj kind slot with
  | none => (.error none, s)
  | some o =>
    let r := s.readObj kind slot (imgReads kind o.bytes idx) f
    if !r.1 then (.error none, r.2)
    else
      match r.2.verify kind o.bytes idx 4 with
      | some x => (.error (some x), r.2.verifyFail kind slot o.bytes false x)
      | none => (.ok o.bytes, r.2)

/-- A section that an image names and the cask does not hold (R318): its bytes are all 0, and its digest is not theirs (log entry 121). -/
def secAbsent (l : List Byte) (x : Sec) : Bool :=
  x.len != 0 && (x.bytes l).all (· == 0) && digest (x.bytes l) != x.digest

/-- The model image that a recipe binds: not DAMAGED, with the recipe's header digest and a part for this module (R318, R319). -/
def State.modelOf (s : State) (r : Recipe) : Option (Nat × CObj) :=
  let idx := bits (r.passage.getD 0 0).toNat 23 16
  (List.range 16).findSome? fun k =>
    match s.obj 3 k with
    | some o =>
      let mine := (imgSections o.bytes).filter fun x => x.mine idx
      if !o.damaged && digest (imgHeader o.bytes) == r.modelDigest && (imgPart o.bytes 0x0100 idx).isSome
        && (imgPart o.bytes 0x0101 idx).isSome && !mine.any (secAbsent o.bytes) then some (k, o) else none
    | none => none

/-- Push into the outbound mailbox (R344, Table 3), behind what waits for room in it. -/
def State.mboxSend (s : State) (op x : Nat) : State :=
  let w := itemWord (op * 2 ^ 56 + x % 2 ^ 56)
  if s.svc.mboxWait.isEmpty then (s.modLogs fun l => { l with fifoOut := fifoPush 256 l.fifoOut ⟨w, s.now, none, false⟩ }).showFifo
  else s.modSvc fun v => { v with mboxWait := v.mboxWait ++ [w] }

/-- The cause that a final line gives of a failed transfer (R344, Table 3). -/
def xferText (fail : Nat) : String := ["", "OVERRUN", "LENGTH", "NO_TRANSFER", "VERIFY", "NO_SPACE", "ABORTED"].getD fail ""

/-- The open transfer ends: DONE or FAILED in the mailbox, and the reply to the hex command that ended it. -/
def State.endXfer (s : State) (x : Xfer) (fail : Nat) : State :=
  let s := s.modSvc fun v => { v with xfer := none }
  let s := (s.set CK_STATUS CK_STATUS.WRITING 0).showSec
  let s := if fail = 0 then s.mboxSend 0x13 x.total else s.mboxSend 0x14 fail
  if x.byHex then s.ends x.by_ [] [] (if fail = 0 then 0 else errFailed) (xferText fail) else s

/-- OBJECT_STORE (R313, R333, R344): the complete transfer is verified to step 3 and stored; the fuse buffer takes its bytes as
they are. A failed transfer writes nothing. -/
def execObjectStore (_ : Unit) (s : State) : Out :=
  match s.svc.xfer with
  | none => .next s
  | some x =>
    if !x.full then .next s
    else
      let k := kindNo x.kind
      if x.kind = .fuseBuf then .next ((s.modSvc fun y => { y with fuseBuf := x.got }).endXfer x 0)
      else
        match s.verify k x.got 0 3 with
        | some f => .next ((s.verifyFail k x.slot x.got true f).endXfer x 4)
        | none =>
          match s.freeExtent (cdiv x.total mapUnit) with
          | none => .next (s.endXfer x 5)
          | some a => if s.caskReadOnly then .next (s.endXfer x 5) else .next ((s.storeObj k x.slot a x.got).endXfer x 0)

end Sys2Proof.Machine
end

