-- ==== Sys2Proof/Machine/Boot.lean ====
section
/-! DEFINITION. Start-up (R320 to R322), staging and switching a recipe (R323, R324), the restart probe (R283), the full module
reset (R361). -/

namespace Sys2Proof.Machine

def State.modPw (s : State) (f : Power → Power) : State := { s with pw := f s.pw }

/-- The stage becomes `k`; ELAPSED takes the time from power-good. -/
def State.stageTo (s : State) (k : Nat) : State :=
  ((s.set LN_BOOT LN_BOOT.STAGE k).set LN_BOOT LN_BOOT.ELAPSED (min 0xFFFF ((s.clk - s.pw.goodAt) / 1000000))).showAout

/-- The boot stops with an error (R322); a fault record is written (R362). -/
def State.bootStop (s : State) (err : Nat) : State :=
  ((s.set LN_BOOT LN_BOOT.ERROR err).stageTo 11).record 0 srcModule err 3 []

/-! ### The full module reset (R361, Table 12, step 3) -/

/-- TB_IN after a reset (R383): its Reset column, with the straps' levels and that of RESET_N, which makes the reset, as they are (log
entry 123). -/
def State.tbInReset (s : State) : Word :=
  fset (fset (resetReg TB_IN) TB_IN.STRAPS (s.get TB_IN TB_IN.STRAPS)) TB_IN.RESET_N (s.get TB_IN TB_IN.RESET_N)

/-- All logic resets: every register at its Reset column. The record of the last power-off and the rest of the AUX domain, the fuses and
the cask stay; memory keeps its bytes while its rails stay on; frames and replies already given stay given. -/
def State.fullReset (s : State) : State :=
  let ring := s.logs.ring
  let r : State := {
    clk := s.clk, pending := s.pending, freeCtr := s.freeCtr, mem := s.mem, chk := s.chk, poison := s.poison
    gl := { out := s.gl.out }
    sy := { out := s.sy.out }
    logs := { recent := ring.take 256, ring := ring, inSecond := s.logs.inSecond, seq := s.logs.seq,
              retired := s.logs.retired, fenced := s.logs.fenced, spareBad := s.logs.spareBad, spareFor := s.logs.spareFor }
    cask := s.cask
    pw := { s.pw with
      good := false, target := 3, capAt := none, capEvt := false, lowAt := none, fastAt := none, hot := [],
      rated := [], extRaw := true, extFirst := 0, extNew := false, extAt := none, extWait := none, ppsRise := none, ppsEdge := none, ppsOk := 0 }
    svc := { replies := s.svc.replies, echo := s.svc.echo, fuseBad := s.svc.fuseBad }
    fuses := s.fuses }
  ((r.setReg PW_LAST_OFF (s.reg PW_LAST_OFF)).setReg TB_IN s.tbInReset).showFuses

/-- The largest power limit of a strap class (R320, Table 6). -/
def classLimit (c : Nat) : Nat := if c ≤ 4 then 1200 + 300 * c else 1200

/-- PW_RAIL.IN_WINDOW shows the rails, in the order of their test points. -/
def State.showRails (s : State) : State :=
  let w (i : Nat) : Nat := bit (s.pw.rails.getD i false)
  let s := (s.set (PW_RAIL 1) PW_RAIL.IN_WINDOW (w 3)).set (PW_RAIL 2) PW_RAIL.IN_WINDOW (w 4)
  ((s.set (PW_RAIL 3) PW_RAIL.IN_WINDOW (w 1)).set (PW_RAIL 4) PW_RAIL.IN_WINDOW (w 2)).set (PW_RAIL 5) PW_RAIL.IN_WINDOW (w 0)

/-- The module's own converter measures a rail: free readings (log entry 5). -/
def State.measureRail (s : State) (sel : Nat) : State :=
  let (w, s) := s.free
  (s.set (PW_RAIL sel) PW_RAIL.MV w.toNat).set (PW_RAIL sel) PW_RAIL.CURRENT (w.toNat / 2 ^ 16)

/-- The security block takes 32 new random bytes as its challenge (R331). -/
def State.newChallenge (s : State) : State :=
  (List.range 4).foldl (fun (s : State) i =>
    let (w, s) := s.free
    s.setReg (SC_CHALLENGE i) w) s

/-- POWER_GOOD (R322, steps 1 and 2; R371, step 5): every rail inside its window and the wait over, RESET_N high. -/
def execPowerGood (s : State) : Out :=
  let p := s.pw
  if !p.on ∨ p.rails.contains false ∨ p.good ∨ p.held ∨ s.get TB_IN TB_IN.RESET_N = 0 ∨ p.latched ∨ s.clk < p.readyAt then .next s
  else
    let s := s.fullReset.modPw fun p => { p with
      good := true, goodAt := s.clk, retries := 0, seqFail := false, tripped := false, left := false }
    let v := s.get TB_IN TB_IN.STRAPS
    let s := s.setReg LN_STRAPS (BitVec.ofNat 64 (v + bit (decide (4 < v / 4 % 8)) * 2 ^ 14))
    let s := ((List.range 6).foldl State.measureRail s.newChallenge.showRails).set PW_STATUS PW_STATUS.LIMIT_NOW (classLimit (v / 4 % 8))
    let s := s.set PW_STATUS PW_STATUS.EXT_LIMIT (1 - s.get TB_IN TB_IN.EXT_LIMIT_N)
    let s := s.set TB_PPS TB_PPS.LEVEL (s.get TB_IN TB_IN.PPS_IN)
    let s := s.stageTo 0
    let src := s.get LN_STRAPS LN_STRAPS.BOOT_SRC
    .next (if src = 3 then s.bootStop 1 else if src = 2 then s.syTrain 0 s.clk else s)

/-! ### Firmware (R322, steps 3 to 7; R326, R333) -/

/-- A word of the host's firmware image: taken only while the boot ROM waits under boot source 2 (R326). -/
def State.hostboot (s : State) (w : Word) : State :=
  if s.pw.good ∧ s.stage = 0 ∧ s.get LN_STRAPS LN_STRAPS.BOOT_SRC = 2 then
    s.modSvc fun v => { v with hostFw := v.hostFw ++ toBytes 8 w.toNat }
  else s

/-- HOSTBOOT_WRITE (R326). -/
def execHostbootWrite (w : Word) (s : State) : Out := .next (s.hostboot w)

/-- Whether the host's image has come in whole. -/
def State.hostImageWhole (s : State) : Bool :=
  let l := s.svc.hostFw
  decide (128 ≤ l.length) && decide (num l 8 8 ≤ l.length)

/-- A firmware image runs: stage FIRMWARE, and the Sirdy ports train. -/
def State.runFirmware (s : State) (slot : Nat) (fallback : Bool) (l : List Byte) : State :=
  let s := s.modSvc fun v => { v with firmware := l }
  let s := (s.set LN_BOOT LN_BOOT.FW_SLOT slot).set LN_BOOT LN_BOOT.FW_FALLBACK (bit fallback)
  let s := if fallback then s.record 0 srcModule slot 4 [] else s
  let s := s.stageTo 2
  [0, 1].foldl (fun (s : State) p => if s.spState p = 0 then s.syEnable p else s) s

/-- The cask's channels and health are known (R322, step 3). -/
def State.caskFound (s : State) : State :=
  (s.set CK_STATUS CK_STATUS.CHANNEL_OK
    ((List.range 8).foldl (fun b c => b + bit (!s.cask.noAnswer.any fun d => d / 4 = c) * 2 ^ c) 0)).showCask

/-- The patrol starts and the cask is ready (R308; R322, step 4). -/
def State.caskReady (s : State) : State := s.patrolStart.stageTo 1

/-- The first initialisation records the blocks with the factory's bad-block marker (R310). -/
def State.caskInit (s : State) (factory : List Nat) : State :=
  if s.cask.inited then s
  else (factory.foldl (fun (s : State) b => s.modNand b fun x => { x with retired := true, factory := true }) s).modCask fun c =>
    { c with inited := true }

/-- The map as last written, with the sector tags written since (R306). -/
def Cask.rebuilt (c : Cask) : List (Nat × Nat) :=
  (c.blocks.flatMap fun e => e.2.units).foldl (fun m t =>
    if c.savedSeq < t.2 ∧ kget m t.1 0 ≤ t.2 then kset m t.1 t.2 else m) c.saved

/-- The sectors of an object whose map units hold something else since (R313: an older directory copy may name them). -/
def lostTo (map : List (Nat × Nat)) (o : CObj) : List Nat :=
  (List.range (cdiv o.bytes.length mapUnit)).flatMap fun i =>
    if kfind map (o.start + i) = some (o.seq + i) then []
    else (List.range (min 256 (cdiv o.bytes.length 4096 - 256 * i))).map (256 * i + ·)

/-- The directory with which a module starts (R313): the copy of the higher generation whose check passes. -/
def Cask.started (c : Cask) (x : CaskFind) : Cask :=
  let a : DirCopy := if x.copies.1 then c.copyA else {}
  let b : DirCopy := if x.copies.2 then c.copyB else {}
  let d := if a.gen < b.gen then b else a
  let map := c.rebuilt
  { c with
    copyA := a, copyB := b, dirGen := d.gen, map := map, noAnswer := x.silent.filter (· < 32)
    objs := d.objs.map fun (e : Nat × CObj) => if (lostTo map e.2).isEmpty then e else (e.1, e.2.lose (lostTo map e.2)) }

/-- The cask controller starts (R322, step 3): defect map and map are rebuilt, the directory is chosen. -/
def State.caskStart (s : State) (x : CaskFind) : State := ((s.caskInit x.factory).modCask (Cask.started · x)).caskFound

/-- The boot ROM reads and verifies a firmware slot. -/
def State.tryFirmware (s : State) (slot : Nat) (f : ReadFinds) : Option (List Byte) × State :=
  let r := s.fetchImage 1 slot 0 f
  (r.1.toOption, r.2)

/-- BOOT_CASK_READY (R322, steps 3 to 7). Under boot source 2 the ROM waits for the host's whole image. -/
def execBootCaskReady (found : CaskFind) (fwA fwB : ReadFinds) (s : State) : Out :=
  let src := s.get LN_STRAPS LN_STRAPS.BOOT_SRC
  if !s.pw.good ∨ s.stage ≠ 0 ∨ (src = 2 ∧ !s.hostImageWhole) then .next s
  else
    let s := s.caskStart found
    if found.copies = (false, false) ∨ s.get CK_STATUS CK_STATUS.HEALTH = 3 then .next (s.bootStop 2)
    else
      let s := s.caskReady
      if src = 2 then
        let l := s.svc.hostFw.take (num s.svc.hostFw 8 8)
        match s.verify 1 l 0 4 with
        | none => .next (s.runFirmware 1 false l)
        | some x => .next (((s.verifyFail 1 0 l false x).modSvc fun v => { v with hostFw := [] }).bootStop 3)
      else
        match s.tryFirmware src (if src = 0 then fwA else fwB) with
        | (some l, s) => .next (s.runFirmware src false l)
        | (none, s) =>
          match s.tryFirmware (1 - src) (if src = 0 then fwB else fwA) with
          | (some l, s) => .next (s.runFirmware (1 - src) true l)
          | (none, s) => .next (s.bootStop 3)

/-! ### G7 training, recipe, logs (R322, steps 8 to 14) -/

/-- The ACTIVE recipe of the strap hint; where no recipe, ACTIVE or not, holds that hint, the one of HINT 0xFF (R321). -/
def State.chosenRecipe (s : State) : Option (Nat × CObj) :=
  let of_ (h : Nat) : List (Nat × CObj) := (List.range 8).filterMap fun k =>
    match s.obj 2 k with
    | some o => if imgHint o.bytes = h then some (k, o) else none
    | none => none
  let mine := of_ (s.get LN_STRAPS LN_STRAPS.HINT)
  (if mine.isEmpty then of_ 0xFF else mine).find? fun x => x.2.active

/-- Fence a chamber at start: it takes no work and leaves every sparge group. -/
def State.bootFence (s : State) (n : Nat) : State :=
  let s := (s.set (CH_CTRL n) CH_CTRL.HOLD 1).set (CH_STATUS n) CH_STATUS.FENCED 1
  (List.range 4).foldl (fun (s : State) k => s.setReg (ST_MEMBER n k) 0) s

/-- The logs are applied (R75, R215, R352). -/
def State.applyLogs (s : State) : State :=
  let s := s.logs.spareFor.foldl (fun (s : State) x =>
    (s.set (AY_SPARE x.1) AY_SPARE.SPARE_USED 1).set (AY_SPARE x.1) AY_SPARE.SPARE_FOR x.2) s
  let s := s.logs.spareBad.foldl (fun (s : State) n => s.set (AY_SPARE n) AY_SPARE.SPARE_BAD 1) s
  let s := s.logs.fenced.foldl State.bootFence s
  s.logs.retired.foldl (fun (s : State) u =>
    match u with
    | .cellarRow n tier row =>
      s.spareRow n tier row ((s.freeSpares n tier).headD 0)
    | .tunWay bank set way =>
      { s with tunOff := kput s.tunOff (bank * 512 + set) (kget s.tunOff (bank * 512 + set) 0 ||| 2 ^ way) 0 }.set
        TN_STATUS TN_STATUS.DISABLED (s.get TN_STATUS TN_STATUS.DISABLED + 1)
    | .g7Region r =>
      let i := s.get GM_STATUS GM_STATUS.RETIRED
      ((s.set (GM_RETIRE i) GM_RETIRE.REGION r).set (GM_RETIRE i) GM_RETIRE.VALID 1).set GM_STATUS GM_STATUS.RETIRED (i + 1)) s

/-- Every channel is trained (R322, step 8). -/
def State.g7Ready (s : State) : State :=
  ((s.set GM_STATUS GM_STATUS.TRAINED 1).set GM_STATUS GM_STATUS.RATE_NOW (s.get GM_CTRL GM_CTRL.RATE)).stageTo 3

/-- A verified recipe and the logs are applied, and the self-tests start (R322, steps 11 to 15). -/
def State.startRecipe (s : State) (k : Nat) (img : List Byte) : State :=
  let r := recipeOf img
  let s := ((s.runRecipe k img).applyGallery img r).applyChambers r fun _ => true
  let s := ((s.stageTo 4).applyLogs).stageTo 5
  let s := s.modSvc fun v => { v with testPace := s.get PW_STATUS PW_STATUS.PACE_NOW, testSteps := 0 }
  (s.set LN_SELFTEST LN_SELFTEST.RUNNING 1).stageTo 6

/-- BOOT_G7_TRAINED (R322, steps 8 to 15): training ends; unless in safe mode the recipe is chosen, verified and applied, the
logs are applied, and the self-tests start. -/
def execBootG7Trained (failed : List (Fin 64)) (v : ReadFinds) (s : State) : Out :=
  if s.stage ≠ 2 then .next s
  else if !failed.isEmpty then .next (s.bootStop 4)
  else
    let s := s.g7Ready
    if s.get LN_STRAPS LN_STRAPS.SAFE = 1 then .next (s.stageTo 10)
    else
      match s.chosenRecipe with
      | none => .next (s.bootStop 5)
      | some (k, _) =>
        match s.fetchImage 2 k 0 v with
        | (.error _, s) => .next (s.bootStop 6)
        | (.ok l, s) => .next (if s.recipeBad (recipeOf l) then s.bootStop 6 else s.startRecipe k l)

/-! ### Self-test at start (R322, steps 15 and 16; R350) -/

/-- A failure of block 0 whose unit is 1,024 + n is that of the spare row of chamber n. -/
def spareRowFail (f : TestFail) : Bool := f.block = 0 && 1024 ≤ f.unit

/-- Chambers that failed. -/
def failedChambers (l : List TestFail) : List Nat :=
  ((l.filter fun f => f.block < 8 && f.unit < 1024).map (·.unit)).eraseDups

/-- The result code of a self-test (R346, Table 4). -/
def testCode (l : List TestFail) (fenced : Bool) : Nat :=
  match (l.map (·.block)).eraseDups with
  | [] => 24
  | [b] => if fenced then 25 else 36 + b
  | _ => if fenced then 25 else 26

/-- The least and the most 10⁶ handshakes a second of a pace (R366, Table 2). -/
def paceBounds (pace : Nat) : Nat × Nat :=
  [(800, 1000), (1050, 1330), (1320, 1660), (1500, 1880), (1670, 2100)].getD (pace - 1) (0, 0xFFFF)

/-- The failures of block 13 with cause RATE: a die's rate, measured since power-good, lies outside the bounds of its pace (R366). -/
def State.rateFails (s : State) : List TestFail :=
  let pace := s.get PW_STATUS PW_STATUS.PACE_NOW
  let b := paceBounds pace
  ((List.range 3).filter fun d =>
    let r := fget (s.reg PW_RATE) ⟨16 * d, 16⟩
    s.pw.rated.contains d && (decide (r < b.1) || decide (b.2 < r))).map fun d => ⟨13, d, pace, ascii "RATE"⟩

/-- What a rail may read in mV at a pace, by sel (R348, Table 6). -/
def railBounds (pace sel : Nat) : Nat × Nat :=
  let core := [600, 680, 750, 800, 850].getD (pace - 1) 750
  [(40000, 60000), (core - 15, core + 15), (core - 15, core + 15), (784, 816), (1176, 1224), (3200, 3400)].getD sel (0, 0xFFFF)

/-- The last `k` decimal digits of a number. -/
def decDigits (k n : Nat) : List Byte := (List.range k).map fun i => BitVec.ofNat 8 (48 + n / 10 ^ (k - 1 - i) % 10)

/-- A number in decimal. -/
def decText (n : Nat) : List Byte := decDigits (max 1 ((List.range 20).filter fun i => decide (10 ^ i ≤ n)).length) n

/-- A reading in volts with three decimals (R362, Table 14). -/
def voltText (mv : Nat) : List Byte := decText (mv / 1000) ++ ascii "." ++ decDigits 3 mv ++ ascii " V"

/-- The failures of block 13 that the rails show: each is held against Table 6 (R349, R370). Its unit is 16 + sel. -/
def State.railFails (s : State) : List TestFail :=
  let pace := s.get PW_STATUS PW_STATUS.PACE_NOW
  ((List.range 6).filter fun k =>
    let mv := s.get (PW_RAIL k) PW_RAIL.MV
    decide (mv < (railBounds pace k).1) || decide ((railBounds pace k).2 < mv)).map fun k =>
      ⟨13, 16 + k, pace, voltText (s.get (PW_RAIL k) PW_RAIL.MV)⟩

/-- The registers that a self-test failure's record shows (R362, Table 13; log entry 119). -/
def testRegs (f : TestFail) : List Nat :=
  let n := f.unit % 1024
  match f.block with
  | 0 => [AY_FAULT n, AY_CK_LOG n]
  | 1 => [LT_FAULT n]
  | 2 => [SP_FAULT n]
  | 3 => [FS_FAULT n]
  | 4 => [GV_FAULT n]
  | 5 => [ST_FAULT n, ABC_FAULT n]
  | 6 => [CL_FAULT n, CL_ERR_LOG n]
  | 7 => [CL_FAULT n, CL_ERR_LOG n]
  | 8 => [TN_FAULT, TN_ERR_LOG]
  | 9 => [GM_FAULT, GM_ERR_LOG]
  | 10 => [GL_PORT_STATUS n]
  | 11 => [SY_PORT_STATUS n]
  | 12 => [CK_ERR_LOG]
  | _ => if 16 ≤ f.unit then [PW_RAIL (f.unit - 16)] else [PW_RATE, TB_PPS]

/-- Record self-test failures (R362), show them in LN_SELFTEST, and mark spare rows that failed (R350). -/
def State.testResult (s : State) (l : List TestFail) : State :=
  let s := l.foldl (fun (s : State) f => s.record 0 (f.unit % 1024) f.block 2 ((testRegs f).map s.reg)) s
  let s := (l.filter spareRowFail).foldl (fun (s : State) f =>
    (s.set (AY_SPARE (f.unit - 1024)) AY_SPARE.SPARE_BAD 1).keepLog fun g => { g with
      spareBad := (g.spareBad ++ [f.unit - 1024]).eraseDups }) s
  let s := s.set LN_SELFTEST LN_SELFTEST.FAILED (l.foldl (fun b f => b ||| 2 ^ f.block) 0)
  (s.set LN_SELFTEST LN_SELFTEST.RUNNING 0).modSvc fun v => { v with
    untested := (v.untested ++ failedChambers l).eraseDups }

/-- The lowest-numbered spare chamber that passed its last self-test and is not fenced (R352, step 3). -/
def State.spareChamber (s : State) : Option Nat :=
  (List.range 1024).find? fun n => s.get (CH_ROLE n) CH_ROLE.ROLE = 5 && s.get (CH_STATUS n) CH_STATUS.FENCED = 0
    && !s.svc.untested.contains n

/-- A spare takes a fenced chamber's place, and its role. -/
def State.placeSpare (s : State) (n sp : Nat) : State :=
  let m := ((s.svc.place.find? fun x => x.2 = n).map (·.1)).getD n
  (s.modSvc fun v => { v with place := kset v.place m sp }).set (CH_ROLE sp) CH_ROLE.ROLE (s.get (CH_ROLE n) CH_ROLE.ROLE)

/-- Spares stand for every fenced working chamber. -/
def State.placeSpares (s : State) : State :=
  ((List.range 1024).filter fun n => s.get (CH_STATUS n) CH_STATUS.FENCED = 1 && s.get (CH_ROLE n) CH_ROLE.ROLE ≠ 5).foldl
    (fun (s : State) n =>
      match s.spareChamber with
      | some sp => s.placeSpare n sp
      | none => s) s

/-- The Gallery ports of the recipe are enabled; a Gallery of one module forms its view alone (R282). -/
def State.enableGallery (s : State) : State :=
  let s := s.recipe.ports.foldl (fun (s : State) d =>
    let s := s.set (GL_PORT_CTRL d.port) GL_PORT_CTRL.ENABLE 1
    if s.gpState d.port = gpOff then s.glTrain d.port s.clk else s) s
  if s.recipe.members.length = 1 then s.formAlone
  else (s.set GL_STATUS GL_STATUS.VIEW 3).modGl fun g => { g with beaconAt := s.clk }

/-- The scripts in these slots are read and verified in turn (R317, R333): the first that does not pass, with the step and cause where it
was read whole. -/
def readScripts (l : List Nat) (v : List (Nat × ReadFinds)) (s : State) : Option (Nat × Option (Nat × Nat)) × State :=
  match l with
  | [] => (none, s)
  | k :: r =>
    match s.fetchImage 4 k 0 (kget v k []) with
    | (.ok _, s) => readScripts r v s
    | (.error x, s) => (some (k, x.map fun y => (y.1, y.2.1)), s)

/-- The results of the self-tests at start are shown and recorded, and the chambers that failed are fenced (R322, step 15). -/
def State.bootTested (s : State) (fails : List TestFail) : State :=
  let s := s.testResult fails
  let s := (failedChambers fails).foldl (fun (s : State) n =>
    if s.get (CH_STATUS n) CH_STATUS.FENCED = 1 then s else (s.bootFence n).event 0xE003 n 0) s
  s.set LN_SELFTEST LN_SELFTEST.FENCED s.fencedNow

/-- Whether a test may be over: the pace is that of the test again, or has left it three times (R367, log entry 122). -/
def State.paceBack (s : State) : Bool := s.get PW_STATUS PW_STATUS.PACE_NOW = s.svc.testPace || decide (3 ≤ s.svc.testSteps)

/-- Whether a failure is one of cause PACE only where three steps of the pace have interrupted the test (R367). -/
def State.paceCause (s : State) (f : TestFail) : Bool := f.cause != ascii "PACE" || decide (3 ≤ s.svc.testSteps)

/-- Whether a failure is of a pace at which the start-up self-test runs its block: block 0 at each pace from 1 to 5, the others at the present
one (R349). -/
def State.bootPace (s : State) (f : TestFail) : Bool :=
  (if f.block = 0 then decide (1 ≤ f.pace) && decide (f.pace ≤ 5) else f.pace = s.svc.testPace) && s.paceCause f

/-- BOOT_SELFTEST_DONE (R322, steps 15 to 17; R317). -/
def execBootSelftestDone (fails : List TestFail) (scripts : List (Nat × ReadFinds)) (s : State) : Out :=
  if s.stage ≠ 6 ∨ !s.paceBack then .next s
  else
    let fails := fails.filter s.bootPace ++ s.rateFails ++ s.railFails
    let (script, s) := readScripts s.recipe.scripts scripts s
    let chambers := failedChambers fails
    let s := s.bootTested fails
    let fits : Bool := !(fails.any fun f => 8 ≤ f.block) && script.isNone && decide (s.fencedNow ≤ recipeSpares s.recipe)
    let s := s.modSvc fun v => { v with tested := some (testCode fails (fits && !chambers.isEmpty)) }
    if !fits then .next (s.bootStop 7)
    else
      let s := s.set LN_BOOT LN_BOOT.DEGRADED (bit !chambers.isEmpty)
      .next ((s.placeSpares.stageTo 7).enableGallery)

/-! ### The model image (R322, steps 17 to 19) -/

/-- BOOT_GALLERY_JOINED (R322, step 17): the JOIN has committed; the model image is read and verified. -/
def execBootGalleryJoined (v : ReadFinds) (s : State) : Out :=
  if s.stage ≠ 7 ∨ s.viewState ≠ 1 ∨ !s.gl.joined then .next s
  else
    let s := s.stageTo 8
    match s.modelOf s.recipe with
    | none => .next (s.bootStop 8)
    | some (k, _) =>
      match s.fetchImage 3 k s.pIndex v with
      | (.error _, s) => .next (s.bootStop 9)
      | (.ok l, s) => .next (if modelBad l s.pIndex then s.bootStop 9 else s.modSvc fun v => { v with model := some (k, l) })

/-- BOOT_MODEL_LOADED (R322, step 18): tensors written, memory laid out, tasks created. -/
def execBootModelLoaded (s : State) : Out :=
  match s.svc.model with
  | none => .next s
  | some (k, img) =>
    if s.stage ≠ 8 ∨ s.get LN_MODEL LN_MODEL.VALID = 1 then .next s
    else
      let r := s.recipe
      let s := (s.loadTensors img s.pIndex fun _ => true).applyLayout r.layout
      let s := (s.writePrograms r fun _ => true).applyPresets r fun _ => true
      .next ((s.stepTasks.foldl State.createTask s).runModel k img)

/-- STAGE SERVING: CH_CTRL.HOLD is cleared in the working chambers (R322, step 20). -/
def State.serveNow (s : State) : State :=
  let s := (s.stepTasks.map (·.ch)).eraseDups.foldl (fun (s : State) n => s.set (CH_CTRL n) CH_CTRL.HOLD 0) s
  ((s.modGl fun g => { g with passHeard := s.clk }).stageTo 9).pump

/-! ### Staging and switching (R323, R324) -/

/-- Whether two recipes' GALLERY sections differ in anything but GL_CTRL's timers (R323). -/
def galleryDiffers (a b : Recipe) : Bool :=
  let plain (w : Word) : List Nat := [GL_CTRL.MAX_HOPS, GL_CTRL.RETRY_LIMIT, GL_CTRL.SLEW_PPM].map (fget w)
  a.addr != b.addr || a.weight != b.weight || a.total != b.total || a.members != b.members || a.ports != b.ports
    || a.intra != b.intra || a.inter != b.inter || plain a.glCtrl != plain b.glCtrl

/-- KEEP-compatible (R323): the same MODEL digest, KV_SLOTS, FIRST_LAYER and LAYERS. -/
def keepOk (a b : Recipe) : Bool :=
  let f (r : Recipe) : List Nat := [(54, 47), (33, 18), (41, 34)].map fun x => bits (r.passage.getD 1 0).toNat x.1 x.2
  a.modelDigest == b.modelDigest && f a == f b

/-- The staging space is free again. -/
def State.freeStaging (s : State) : State :=
  ({ s with g7Used := s.g7Used.filter fun r => !s.svc.stageAt.contains r }.modSvc fun v => { v with
    stageAt := [], staged := none }).setReg LN_STAGED 0

/-- Write bytes into regions one after another. -/
def stageWrite (s : State) (rs : List Nat) (l : List Byte) : State :=
  match rs with
  | [] => s
  | r :: rest => stageWrite (s.lanternWrite (regionBase r) (l.take 0x200000)) rest (l.drop 0x200000)

/-- Staging of a recipe starts (R323). -/
def State.stageStart (s : State) (slot : Nat) (by_ : Option Session) : State :=
  let s := (s.freeStaging.modSvc fun v => { v with staging := some (slot, by_) }).showSec
  let g := ((s.obj 2 slot).map fun o => imgGen o.bytes).getD 0
  (((s.set LN_STAGED LN_STAGED.GENERATION g).set LN_STAGED LN_STAGED.SLOT slot).set LN_STAGED LN_STAGED.STATE 1).showAout

/-- Copy the staged tensors from the staging space into place (R324, step 4). -/
def State.copyStaged (s : State) (img : List Byte) : State :=
  (imgTensors img s.pIndex).foldl (fun (s : State) t =>
    let rec go (fuel : Nat) (s : State) (src dst k : Nat) : State :=
      match fuel with
      | 0 => s
      | fuel + 1 =>
        if k = 0 then s
        else
          let m := min k (0x200000 - src % 0x200000)
          let (d, s) := s.lanternPieces (regionBase (s.svc.stageAt.getD (src / 0x200000) 0) + src % 0x200000) m
          let s := (d.foldl (fun (a : State × Nat) q => (a.1.lanternPut a.2 q.1 q.2, a.2 + q.1.length)) (s, dst)).1
          go fuel s (src + m) (dst + m) (k - m)
    go (t.len / 0x200000 + 2) s t.src (storeBase (s.placeOf t.ch) t.store + t.dest) t.len) s

/-- Mark a recipe ACTIVE, and no other of its HINT (R313). -/
def State.markActive (s : State) (slot : Nat) : State :=
  match s.obj 2 slot with
  | none => s
  | some o =>
    s.commitDir fun l => l.map fun (e : Nat × CObj) =>
      if e.1 = 32 + slot then (e.1, { e.2 with active := true })
      else if e.1 / 16 = 2 ∧ imgHint e.2.bytes = imgHint o.bytes then (e.1, { e.2 with active := false }) else e

/-- The staged recipe takes effect (R324, Table 8, step 4). Its tasks are created again once the old ones have ended. -/
def State.switchNow (s : State) : State :=
  match s.svc.staged with
  | none => s
  | some (slot, img, mslot, mimg) =>
    let old := s.recipe
    let r := recipeOf img
    let tasks := s.stepTasks
    let s := s.abortSteps.modDisp fun d => { d with leftover := tasks.map fun d => (d.ch, d.tag) }
    let s := ((s.copyStaged mimg).runRecipe slot img).applyGallery img r
    let s := s.applyChambers r fun _ => true
    let s := if r.layout = old.layout then s
      else { s with g7Used := s.svc.stageAt }.applyLayout r.layout
    let s := (s.writePrograms r fun _ => true).applyPresets r fun _ => true
    let s := ((s.markActive slot).showCask.runModel mslot mimg).freeStaging
    ((s.set LN_STATUS LN_STATUS.MISMATCH 0).bump LN_SWITCHES 1).showAout

/-! ### The restart probe (R283, R322 step 20, R324) -/

/-- The payload of a restart probe. -/
def probePayload (gen : Nat) (keep : Bool) : List Byte := toBytes 4 gen ++ toBytes 1 (bit keep) ++ List.replicate 11 0

/-- GENERATION of the running recipe. -/
def State.recipeGen (s : State) : Nat := s.get LN_RECIPE LN_RECIPE.GENERATION

/-- CUT clears as the probe passes, and a module that waits for it serves. -/
def State.uncut (s : State) : State :=
  let s := if s.get GL_STATUS GL_STATUS.CUT = 1 then
      ((s.set GL_STATUS GL_STATUS.CUT 0).modGl fun g => { g with passHeard := s.clk }).event 0xE002 srcModule 0
    else s
  if s.stage = 8 then s.serveNow else s

/-- The probe passes on to NEXT. -/
def State.passProbe (s : State) (p : List Byte) : State := s.uncut.sendNext 5 0 p .message

/-- Whether a change of R341 runs, so that step 4 of a switch waits. -/
def State.changeBusy (s : State) : Bool := s.svc.change ≠ 0 || s.svc.fencing.isSome

/-- Whether tasks of the recipe before a switch have not yet ended, so that the new recipe's are not created (R324, step 4). -/
def State.recreating (s : State) : Bool := !s.disp.leftover.isEmpty

/-- A probe at a module of the passage (R324, Table 8, steps 3 to 6): it passes once the module's tasks are created again. -/
def State.probeHere (s : State) (p : List Byte) : State :=
  let g := num p 0 4
  let hold (s : State) : State := s.modSvc fun v => { v with heldProbe := some p }
  if g = s.recipeGen then (if s.recreating then hold s else s.passProbe p)
  else if s.get LN_STAGED LN_STAGED.STATE = 2 ∧ s.get LN_STAGED LN_STAGED.GENERATION = g then
    if s.changeBusy then hold s
    else
      let s := s.switchNow
      if s.recreating then hold s else s.passProbe p
  else if s.get LN_STAGED LN_STAGED.STATE = 1 ∧ s.get LN_STAGED LN_STAGED.GENERATION = g then hold s
  else
    match (List.range 8).find? fun k => ((s.obj 2 k).map fun o => imgGen o.bytes) = some g with
    | some k => hold (s.stageStart k none)
    | none => (hold s).set LN_STATUS LN_STATUS.MISMATCH 1

/-- A held probe is looked at again. -/
def State.resumeProbe (s : State) : State :=
  match s.svc.heldProbe with
  | none => s
  | some p => (s.modSvc fun v => { v with heldProbe := none }).probeHere p

/-- A probe held for the module's tasks passes once they are created again (R324, step 4). -/
def State.probeFreed (s : State) : State :=
  match s.svc.heldProbe with
  | none => s
  | some p => if num p 0 4 = s.recipeGen ∧ !s.recreating then s.resumeProbe else s

/-- The probe has returned to the entry module (R283; R324, steps 7 and 8). -/
def State.probeBack (s : State) (p : List Byte) : State :=
  if num p 0 4 ≠ s.recipeGen then s
  else
    let s := s.uncut
    match s.svc.switch with
    | some (keep, true) =>
      let s := if keep then s else s.disp.reqs.foldl (fun (s : State) r => s.endReq r 7 0 false) s
      let c := s.svc.switchOf
      let s := (s.modSvc fun v => { v with switch := none }).set LN_STATUS LN_STATUS.SWITCHING 0
      ((s.takeLine c).reply c [] [] 0).showAout.pump
    | _ => s.pump

/-- Whether the module runs its recipe with its model loaded. -/
def State.loaded (s : State) : Bool := s.stage = 9 || (s.stage = 8 && s.get LN_MODEL LN_MODEL.VALID = 1)

/-- MSG_RESTART_PROBE (R283, R324): passed on only by a member of the same view as the entry module, committed or frozen. -/
def execMsgRestartProbe (s : State) : Out :=
  match s.takeMsg 5 with
  | none => .next s
  | some (_, false, s) => .next s
  | some (f, true, s) =>
    if !s.loaded then .next s
    else if s.isEntry then .next (s.probeBack f.payload)
    else if !(s.viewState = 1 ∨ s.viewState = 2) ∨ !s.gl.view.contains s.pEntry ∨ !s.gl.view.contains s.addr then .next s
    else .next (s.probeHere f.payload)

/-- RESTART_PROBE_SEND (R283, R322, R324): the entry module, every 100 ms while the passage is cut, starting or switching. -/
def execRestartProbeSend (s : State) : Out :=
  let keep : Option Bool := match s.svc.switch with
    | some (k, true) => some k
    | some (_, false) => none
    | none => if s.get GL_STATUS GL_STATUS.CUT = 1 ∨ s.stage = 8 then some false else none
  match keep with
  | none => .next s
  | some k =>
    if !s.isEntry ∨ !s.loaded ∨ s.recreating ∨ (s.gl.lastProbe ≠ 0 ∧ s.clk < s.gl.lastProbe + ms 100) then .next s
    else .next ((s.modGl fun g => { g with lastProbe := s.clk }).sendNext 5 0 (probePayload s.recipeGen k) .message)

/-- The model part is written to the staging space, and the recipe is STAGED (R323). -/
def State.stagedNow (s : State) (slot : Nat) (by_ : Option Session) (img : List Byte) (mslot : Nat) (mimg : List Byte)
    (rs : List Nat) (part : List Byte) : State :=
  let s := stageWrite s rs part
  let s := s.modSvc fun v => { v with stageAt := rs, staged := some (slot, img, mslot, mimg) }
  let s := (s.set LN_STAGED LN_STAGED.STATE 2).set LN_STAGED LN_STAGED.KEEP_OK (bit (keepOk (recipeOf img) s.recipe))
  match by_ with
  | some c => (s.takeLine c).reply c [] [] 0
  | none => s

/-- Staging fails with a reason (R323); a probe that waits for it is held with MISMATCH (R324, step 6). -/
def State.stageFail (s : State) (by_ : Option Session) (reason : Nat) : State :=
  let s := (s.set LN_STAGED LN_STAGED.STATE 4).set LN_STAGED LN_STAGED.REASON reason
  let s := if s.svc.heldProbe.isSome then s.set LN_STATUS LN_STATUS.MISMATCH 1 else s
  match by_ with
  | some c => s.showAout.ends c [] [] errFailed ("REASON " ++ (["NONE", "VERIFY", "INVALID", "NO_SPACE", "GALLERY"].getD reason ""))
  | none => s.showAout

/-- STAGE_DONE (R323): the recipe and the model image are verified and the model part lies in the staging space. -/
def execStageDone (recipe model : ReadFinds) (s : State) : Out :=
  match s.svc.staging with
  | none => .next s
  | some (slot, by_) =>
    let s := (s.modSvc fun v => { v with staging := none }).showSec
    match s.fetchImage 2 slot 0 recipe with
    | (.error _, s) => .next (s.stageFail by_ 1)
    | (.ok img, s) =>
      let r := recipeOf img
      if s.recipeBad r ∨ recipeSpares r < s.fencedNow then .next (s.stageFail by_ 2)
      else if galleryDiffers r s.recipe then .next (s.stageFail by_ 4)
      else
        match s.modelOf r with
        | none => .next (s.stageFail by_ 1)
        | some (mk, _) =>
          let idx := bits (r.passage.getD 0 0).toNat 23 16
          match s.fetchImage 3 mk idx model with
          | (.error _, s) => .next (s.stageFail by_ 1)
          | (.ok mimg, s) =>
            if modelBad mimg idx then .next (s.stageFail by_ 1)
            else
              let part := (imgPart mimg 0x0101 idx).getD []
              match takeRegions (cdiv part.length 0x200000) s with
              | none => .next (s.stageFail by_ 3)
              | some (rs, s) => .next (s.stagedNow slot by_ img mk mimg rs part).showAout.resumeProbe

/-- SWITCH_TICKETS_RETURNED (R324, step 2): every ticket has returned; the entry module switches and sends the probe. -/
def execSwitchTicketsReturned (s : State) : Out :=
  match s.svc.switch with
  | some (keep, false) =>
    if !s.disp.tickets.isEmpty ∨ s.changeBusy then .next s
    else
      let s := s.switchNow.modSvc fun v => { v with switch := some (keep, true) }
      if s.recreating then .next (s.modGl fun g => { g with lastProbe := 0 })
      else .next ((s.modGl fun g => { g with lastProbe := s.clk }).sendNext 5 0 (probePayload s.recipeGen keep) .message)
  | _ => .next s

end Sys2Proof.Machine
end

