-- ==== Sys2Proof/Machine/Service.lean ====
section
/-! DEFINITION. The console's commands that read, move objects and test (R339 to R350, R356), the mailbox transfers (R344), wedges
(R359, R360). -/

namespace Sys2Proof.Machine

/-! ### Sessions (R340 to R342) -/

/-- Whether a command of the session still runs or waits. -/
def State.sessionBusy (s : State) (c : Session) : Bool :=
  let v := s.svc
  (v.change != 0 && v.changeOf == c)
    || (match v.staging with
        | some (_, some x) => x == c
        | _ => false)
    || (v.switch.isSome && v.switchOf == c) || v.fenceBy.any (fun (x : Nat × Session) => x.2 == c)
    || v.waiting.any (fun (x : ChangeReq) => x.by_ == c && x.kind != 1)
    || v.test.any (fun (x : Session × Nat × Option Nat × Bool) => x.1 == c)
    || (v.leaveAt.isSome && v.leaveOf == c) || v.attests.any (fun (x : Session × BitVec 256) => x.1 == c)
    || (v.fuseBusy.isSome && v.fuseTo == c) || v.xfer.any (fun (x : Xfer) => x.full && x.byHex && x.by_ == c)

/-- A command line of a session (R342, Table 2): served by the firmware in the command's stages, by the boot ROM where it serves
it, on the UART alone. No console is served without the IO rail; a hand-over of firmware holds every command (R353). Where a line waits at the
session's head, the command is the one that it spells. -/
def State.console (s : State) (c : Session) (rom : Bool) (stages : Nat → Bool) (i : Instr) (f : State → State) : Out :=
  if !s.served c ∨ s.sessionBusy c ∨ !s.lineFits c i then .next s
  else if s.fwRuns then .next (if stages s.stage then f s else s.ends c [] [] errState)
  else .next (if rom then f s else s.ends c [] [] errUnknown)

/-- Stages of Table 2. -/
def inAll (_ : Nat) : Bool := true
def inServing (k : Nat) : Bool := k = 9
def inServingSafe (k : Nat) : Bool := k = 9 || k = 10
def inServingStopped (k : Nat) : Bool := k = 9 || k = 11
def inLogsOn (k : Nat) : Bool := decide (5 ≤ k)

/-- A state-changing command is recorded (R362). -/
def State.recordCmd (s : State) : State := s.record 0 srcModule 0 7 []

/-! ### Reading (R342, R343) -/

/-- CONSOLE_STATUS (R342). -/
def execConsoleStatus (c : Session) (s : State) : Out :=
  s.console c true inAll (.consoleStatus c) fun s =>
    s.ends c [s.reg LN_BOOT, BitVec.ofNat 64 (s.get CK_STATUS CK_STATUS.HEALTH), BitVec.ofNat 64 s.fencedNow, s.reg LN_WEDGED,
      s.reg GL_STATUS] [] 0

/-- Read registers one after another. -/
def readMany (k : Nat) (s : State) (a : Nat) : List Word × State :=
  match k with
  | 0 => ([], s)
  | k + 1 =>
    match s.hostReg a with
    | none => ([], s)
    | some (v, s) =>
      let r := readMany k s (a + 8)
      (v :: r.1, r.2)

/-- CONSOLE_READ (R342): at most 64 registers, every one of which must exist. -/
def execConsoleRead (c : Session) (addr n : Nat) (s : State) : Out :=
  s.console c true inAll (.consoleRead c addr n) fun s =>
    if n = 0 ∨ 64 < n ∨ (List.range n).any (fun i => (regRow (addr + 8 * i)).isNone) then s.ends c [] [] errSyntax
    else
      let (l, s) := readMany n s addr
      s.ends c l [] 0

/-- CONSOLE_DIR (R342, R313): for each object its kind, slot, flags and length in bytes, its extent in map units, and its GENERATION. -/
def execConsoleDir (c : Session) (s : State) : Out :=
  s.console c false inAll (.consoleDir c) fun s =>
    s.ends c (s.cask.objs.flatMap fun (e : Nat × CObj) =>
      [BitVec.ofNat 64 (e.1 / 16 + e.1 % 16 * 2 ^ 4 + bit e.2.active * 2 ^ 8 + bit e.2.damaged * 2 ^ 9
        + e.2.bytes.length % 2 ^ 40 * 2 ^ 10), BitVec.ofNat 64 (e.2.start + cdiv e.2.bytes.length mapUnit * 2 ^ 32),
       BitVec.ofNat 64 (imgGen e.2.bytes)]) [] 0

/-- The 64 bytes of a fault record (R362, Table 13). -/
def recBytes (r : LogRec) : List Byte :=
  toBytes 8 r.time ++ toBytes 4 r.seq ++ toBytes 2 r.code ++ toBytes 2 r.source ++ toBytes 4 r.arg ++ toBytes 1 r.kind
    ++ toBytes 1 r.stage ++ [0, 0] ++ padTo 40 (r.detail.flatMap fun w => toBytes 8 w.toNat)

/-- Output sent through the mailbox under R343 where the session is MGMT: DATA items, and "OK MAILBOX" with the byte count. -/
def State.output (s : State) (c : Session) (l : List Byte) : State :=
  if c = .mgmt then
    let items := (List.range (cdiv l.length 7)).map fun i => itemWord (0x15 * 2 ^ 56 + num l (7 * i) 7)
    let s := s.modSvc fun v => { v with mboxWait := v.mboxWait ++ items }
    let s := (mboxFill s.svc.mboxWait.length s).showFifo.takeLine c
    let s := s.modSvc fun v => { v with replies := v.replies ++ [⟨c, [], l, 0⟩] }
    match s.svc.mgmtTag with
    | [] => s
    | (p, tag) :: rest =>
      let s := (s.modSvc fun v => { v with mgmtTag := rest }).mgmtRespond p tag 0
        (ascii "OK MAILBOX " ++ ascii (toString l.length) ++ [10])
      dropUnknown s.svc.lines.length s c
  else s.ends c [] l 0

/-- CONSOLE_LOG (R342): the newest records. -/
def execConsoleLog (c : Session) (n : Nat) (s : State) : Out :=
  s.console c false inAll (.consoleLog c n) fun s =>
    if n = 0 ∨ 256 < n then s.ends c [] [] errSyntax else s.output c ((s.logs.recent.take n).flatMap recBytes)

/-- CONSOLE_CHALLENGE (R342): in groups of 8 digits. -/
def execConsoleChallenge (c : Session) (s : State) : Out :=
  s.console c false inAll (.consoleChallenge c) fun s =>
    let l := (List.range 4).map (fun i => s.reg (SC_CHALLENGE i)) ++ (List.range 8).map fun i => s.reg (SC_ID_DIGEST i)
    s.ends c [] (l.flatMap groupLine) 0

/-! ### AOUT (R345 to R347) -/

/-- Values of sel that a quantity has (R347, Table 5). -/
def selsOf (q : Nat) : Nat :=
  match q with
  | 0 => 3
  | 1 => 3
  | 2 => 1
  | 3 => 1
  | 4 => 2
  | 5 => 6
  | _ => 0

/-- The level of a quantity in mV, from its readings (R347, Table 5). -/
def State.quantityMv (s : State) (q sel : Nat) : Nat :=
  match q with
  | 0 => 10 * fget (s.reg PW_TEMP) ⟨8 * sel, 8⟩
  | 1 => fget (s.reg PW_RATE) ⟨16 * sel, 16⟩
  | 2 => s.get PW_INPUT PW_INPUT.IIN * 4 / 10
  | 3 => s.get PW_INPUT PW_INPUT.PIN
  | 4 => s.get (PW_RAIL (1 + sel)) (PW_RAIL.CURRENT) * 2 / 10
  | _ =>
    let mv := s.get (PW_RAIL sel) PW_RAIL.MV
    if sel = 0 then mv / 20 else if sel = 5 then mv / 2 else mv

/-- AOUT's quantity is driven anew. -/
def State.driveQuantity (s : State) : State :=
  let mv := s.quantityMv (s.get LN_AOUT LN_AOUT.QUANTITY) (s.get LN_AOUT LN_AOUT.SELECT)
  (s.modSvc fun v => { v with aoutMv := min 2500 mv }).showAout

/-- CONSOLE_AOUT (R345). Table 2 serves aout in all stages, but the boot ROM serves only what R342 lists. -/
def execConsoleAout (c : Session) (mode : AoutMode) (q sel : Nat) (s : State) : Out :=
  s.console c false inAll (.consoleAout c mode q sel) fun s =>
    let m : Nat := match mode with
      | .status => 0
      | .test => 1
      | .quantity => 2
      | .off => 3
    if mode = .quantity ∧ selsOf q ≤ sel then s.ends c [] [] errSyntax
    else
      let s := (s.recordCmd).set LN_AOUT LN_AOUT.MODE m
      let s := if mode = .quantity then
          ((s.set LN_AOUT LN_AOUT.QUANTITY q).set LN_AOUT LN_AOUT.SELECT sel).driveQuantity
        else s
      s.showAout.ends c [] [] 0

/-- AOUT_FULL_SCALE_END (R346): 100 ms after power-good. -/
def execAoutFullScaleEnd (s : State) : Out :=
  if s.pw.good ∧ s.pw.goodAt + ms 100 ≤ s.clk then .next s.showAout else .next s

/-- AOUT_QUANTITY_REFRESH (R345, R347): every 10 ms. -/
def execAoutQuantityRefresh (s : State) : Out :=
  if s.pw.good ∧ s.get LN_AOUT LN_AOUT.MODE = 2 then .next s.driveQuantity else .next s

/-! ### Self-tests (R349, R350) -/

/-- A chamber that works for the passage. -/
def State.worksFor (s : State) (n : Nat) : Bool :=
  s.stage = 9 && (s.stepTasks.any fun d => d.ch = n) && s.get (CH_STATUS n) CH_STATUS.FENCED = 0

/-- The scripts that a self-test runs: those of the recipe; in SAFE and STOPPED the reference scripts (R349). -/
def State.testScripts (s : State) : List Nat := if 5 ≤ s.stage ∧ s.stage ≤ 9 then s.recipe.scripts else []

/-- A number as characters. -/
def numText (n : Nat) : String := String.ofList ((decText n).map fun b => Char.ofNat b.toNat)

/-- The cause that the console reports of a script that does not pass (R333): its slot, then the step and cause of SC_VERIFY_LOG, or that it
could not be read. -/
def scriptText (x : Nat × Option (Nat × Nat)) : String :=
  "SCRIPT " ++ numText x.1 ++ match x.2 with
    | some (step, cause) => " STEP " ++ numText step ++ " CAUSE " ++ numText cause
    | none => " UNREADABLE"

/-- A self-test is not run: TEST mode shows code 28 (R346). -/
def State.testRefused (s : State) (c : Session) (code : Nat) (text : String) : State :=
  (s.modSvc fun y => { y with tested := some 28 }).showAout.ends c [] [] code text

/-- CONSOLE_SELFTEST (R350). With force a working chamber is first fenced. -/
def execConsoleSelftest (c : Session) (block : Nat) (chamber : Option Ch) (force : Bool) (v : List (Nat × ReadFinds)) (s : State) : Out :=
  s.console c false inLogsOn (.consoleSelftest c block chamber force v) fun s =>
    let n := chamber.map (·.val)
    let works : Bool := block < 8 && n.any s.worksFor
    if 13 < block then s.ends c [] [] errSyntax
    else if s.get LN_SELFTEST LN_SELFTEST.RUNNING = 1 then s.ends c [] [] errBusy
    else if block = 8 ∧ s.stage = 9 then s.testRefused c errState ""
    else if works ∧ !force then s.testRefused c errState ""
    else
      match readScripts s.testScripts v s with
      | (some x, s) => s.testRefused c errFailed (scriptText x)
      | (none, s) =>
        let s := s.recordCmd.modSvc fun y => { y with
          test := some (c, block, n, works), testPace := s.get PW_STATUS PW_STATUS.PACE_NOW, testSteps := 0 }
        let s := s.set LN_SELFTEST LN_SELFTEST.RUNNING 1
        (if works then s.fenceAsk (n.getD 0) else s).showAout

/-- The units that a self-test tests: of a serving module no chamber that works, no Gallery port that is UP, not the Sirdy port that
carries the service channels, and of G7 DRAM the regions that no recipe page holds (R349, Table 7). -/
def State.testUnits (s : State) (block : Nat) (n : Option Nat) : List Nat :=
  let idle := s.stage != 9
  if block < 8 then
    match n with
    | some m => [m]
    | none => (List.range 1024).filter fun m => !s.worksFor m
  else if block = 9 then
    if idle || (List.range 21504).any fun r => !s.g7Used.contains r && !s.regionRetired r then List.range 64 else []
  else if block = 10 then (List.range 24).filter fun p => idle || s.gpState p != gpUp
  else if block = 11 then [0, 1].filter fun p => idle || s.svcPort != p
  else [0]

/-- Whether a failure is of a unit that the test runs on, at its pace; cause PACE only of one that three steps of the pace interrupted
(R367, log entry 122). -/
def State.testTakes (s : State) (block : Nat) (units : List Nat) (f : TestFail) : Bool :=
  f.block = block && f.pace = s.svc.testPace && s.paceCause f
    && (block = 13 || units.contains (if block < 8 then f.unit % 1024 else f.unit))

/-- Names of the blocks in a self-test's lines. -/
def blockNames : List String :=
  ["array", "lauter", "sump", "flowstone", "gravity", "streams", "cellar", "pocket", "tun", "g7", "gallery", "sirdy", "cask", "power"]

/-- Names of the rails' test points, by sel (R348, Table 6). -/
def railNames : List String := ["TP-50V", "TP-CORE-A", "TP-CORE-B", "TP-IO", "TP-G7", "TP-AUX"]

/-- A unit in a self-test's lines: " chamber 5", " rail TP-G7", or nothing where the module is the unit. -/
def unitText (block unit : Nat) : List Byte :=
  if block < 8 then (if unit < 1024 then ascii " chamber " else ascii " spare row ") ++ decText (unit % 1024)
  else if block = 9 then ascii " channel " ++ decText unit
  else if block = 10 ∨ block = 11 then ascii " port " ++ decText unit
  else if block = 13 ∧ 16 ≤ unit then ascii " rail " ++ ascii (railNames.getD (unit - 16) "")
  else []

/-- One line of a self-test (R350; R362, Table 14): PASS or FAIL with the block, the unit and the cause. -/
def testLine (f : TestFail) (pass : Bool) : List Byte :=
  ascii (if pass then "PASS " else "FAIL ") ++ ascii (blockNames.getD f.block "") ++ unitText f.block f.unit
    ++ (if f.cause.isEmpty then [] else ascii " " ++ f.cause) ++ [10]

/-- The lines of a self-test: for each unit tested its failures, or PASS. -/
def testLines (block : Nat) (units : List Nat) (fails : List TestFail) : List Byte :=
  units.flatMap fun u =>
    let mine := fails.filter fun f => block = 13 || (if block < 8 then f.unit % 1024 else f.unit) = u
    if mine.isEmpty then testLine ⟨block, u, 0, []⟩ true else mine.flatMap fun f => testLine f false

/-- The self-test ends: its failures are recorded, the TEST code is set, and a chamber that was fenced for its test and passed becomes a
spare. -/
def State.testEnd (s : State) (b : Nat) (units : List Nat) (forced : Bool) (fails : List TestFail) : State :=
  let ran := if b < 8 then units else []
  let s := s.modSvc fun v => { v with untested := v.untested.filter fun m => !ran.contains m, test := none }
  let s := (s.testResult fails).modSvc fun v => { v with tested := some (testCode fails false) }
  let s := if forced ∧ fails.isEmpty then
      (s.set (CH_ROLE (units.headD 0)) CH_ROLE.ROLE 5).set (CH_STATUS (units.headD 0)) CH_STATUS.FENCED 0
    else s
  (s.set LN_SELFTEST LN_SELFTEST.FENCED s.fencedNow).showAout

/-- SELFTEST_DONE (R350): PASS or FAIL lines, the TEST code. A unit that a step of the pace interrupted runs again when the pace is back, at most
three times (R367). -/
def execSelftestDone (fails : List TestFail) (s : State) : Out :=
  match s.svc.test with
  | none => .next s
  | some (c, b, n, forced) =>
    if forced ∧ (s.get (CH_STATUS (n.getD 0)) CH_STATUS.FENCED = 0 ∨ s.svc.fencing = n) then .next s
    else if !s.paceBack then .next s
    else
      let units := s.testUnits b n
      let fails := fails.filter (s.testTakes b units) ++ (if b = 13 then s.rateFails ++ s.railFails else [])
      .next ((s.testEnd b units forced fails).ends c [] (testLines b units fails) 0)

/-! ### Transfers (R344) -/

/-- CONSOLE_RECV (R344): the boot ROM takes firmware alone. -/
def execConsoleRecv (c : Session) (kind : ObjKind) (slot bytes : Nat) (s : State) : Out :=
  s.console c (kind == .firmware) inAll (.consoleRecv c kind slot bytes) fun s =>
    if kindSlots kind ≤ slot then s.ends c [] [] errNotFound
    else if bytes = 0 ∨ (kind = .fuseBuf ∧ bytes ≠ 3272) then s.ends c [] [] errSyntax
    else if s.svc.xfer.isSome then s.ends c [] [] errBusy
    else if kindMax kind < bytes then s.ends c [] [] errRefused "R312"
    else if kind ≠ .fuseBuf ∧ s.caskReadOnly then s.ends c [] [] errRefused "R310"
    else
      (s.recordCmd.modSvc fun v => { v with
        xfer := some { by_ := c, kind := kind, slot := slot, total := bytes, got := [] }, endDue := false }).ends c [] [] 0

/-- The transfer takes bytes: the last one starts the store. PROGRESS is sent every 1 MiB. -/
def State.xferTake (s : State) (x : Xfer) (l : List Byte) (byHex : Bool) : State :=
  let got := x.got ++ l
  let full := got.length = x.total
  let s := s.modSvc fun v => { v with xfer := some { x with got := got, full := full, byHex := byHex && full } }
  let s := if full then (s.set CK_STATUS CK_STATUS.WRITING (bit (x.kind != .fuseBuf))).showSec else s
  if got.length / 0x100000 ≠ x.got.length / 0x100000 then s.mboxSend 0x12 got.length else s

/-- CONSOLE_HEX (R342): up to 64 bytes; the one that completes the transfer is answered when it is stored. -/
def execConsoleHex (c : Session) (digits : List Byte) (s : State) : Out :=
  s.console c true inAll (.consoleHex c digits) fun s =>
    match s.svc.xfer, hexBytes digits with
    | none, _ => s.ends c [] [] errState
    | some _, none => s.ends c [] [] errSyntax
    | some x, some l =>
      if x.full then s.ends c [] [] errState
      else if l.isEmpty ∨ 64 < l.length ∨ x.total < x.got.length + l.length then s.ends c [] [] errSyntax
      else
        let s := s.xferTake { x with by_ := c } l true
        if x.got.length + l.length = x.total then s else s.ends c [] [] 0

/-- CONSOLE_RECV_ABORT (R342). -/
def execConsoleRecvAbort (c : Session) (s : State) : Out :=
  s.console c false inAll (.consoleRecvAbort c) fun s =>
    match s.svc.xfer with
    | none => s.ends c [] [] errState
    | some x => (s.recordCmd.endXfer x 6).ends c [] [] 0

/-- Take the head of the inbound mailbox where a test admits it. -/
def State.takeMbox (s : State) (ok : Nat → Bool) : Option (Nat × State) :=
  match s.logs.fifoIn with
  | [] => none
  | x :: r => if ok x.word.toNat then some (x.word.toNat, (s.modLogs fun l => { l with fifoIn := r }).showFifo) else none

/-- OP of a mailbox item, and whether it is a gap marker. -/
def mboxOp (w : Nat) : Nat := bits w 61 56
def mboxGap (w : Nat) : Bool := nbit w 62

/-- MAILBOX_DATA (R344): seven bytes of the open transfer; a gap marker fails it. An item whose OP Table 3 does not list is
discarded. -/
def execMailboxData (s : State) : Out :=
  if !s.fwRuns then .next s
  else
    match s.takeMbox fun w => mboxGap w || (mboxOp w ≠ 3 && mboxOp w ≠ 4) with
    | none => .next s
    | some (w, s) =>
      match s.svc.xfer with
      | none => if mboxGap w ∨ mboxOp w ≠ 2 then .next s else .next (s.mboxSend 0x14 3)
      | some x =>
        if mboxGap w then .next (s.endXfer x 1)
        else if mboxOp w ≠ 2 then .next s
        else
          let k := min 7 (x.total - x.got.length)
          if bits w 55 (8 * k) ≠ 0 ∧ k < 7 then .next (s.endXfer x 2)
          else if k = 0 then .next s
          else
            let s := s.xferTake x (toBytes k w) false
            .next (if k = x.total - x.got.length then s.modSvc fun v => { v with endDue := true } else s)

/-- MAILBOX_END (R344): with bytes still owed the transfer fails. -/
def execMailboxEnd (s : State) : Out :=
  if !s.fwRuns then .next s
  else
    match s.takeMbox fun w => !mboxGap w && mboxOp w = 3 with
    | none => .next s
    | some (_, s) =>
      if s.svc.endDue then .next (s.modSvc fun v => { v with endDue := false })
      else
        match s.svc.xfer with
        | none => .next (s.mboxSend 0x14 3)
        | some x => if x.full then .next s else .next (s.endXfer x 2)

/-- MAILBOX_ABORT (R344). -/
def execMailboxAbort (s : State) : Out :=
  if !s.fwRuns then .next s
  else
    match s.takeMbox fun w => !mboxGap w && mboxOp w = 4 with
    | none => .next s
    | some (_, s) =>
      match s.svc.xfer with
      | none => .next (s.mboxSend 0x14 3)
      | some x => .next (s.endXfer x 6)

/-! ### Objects (R342) -/

/-- Whether a stored object runs: the firmware, the recipe, the loaded model image. -/
def State.objRuns (s : State) (kind slot : Nat) (o : CObj) : Bool :=
  let is_ (x : Option (Nat × List Byte)) : Bool := x.any fun (y : Nat × List Byte) => y.1 = slot && y.2 == o.bytes
  (kind = 1 && s.get LN_BOOT LN_BOOT.FW_SLOT = slot && s.svc.firmware == o.bytes)
    || (kind = 2 && is_ s.svc.recipe) || (kind = 3 && is_ s.svc.model)

/-- CONSOLE_REMOVE (R342). -/
def execConsoleRemove (c : Session) (kind : ObjKind) (slot : Nat) (s : State) : Out :=
  s.console c false inAll (.consoleRemove c kind slot) fun s =>
    let k := kindNo kind
    match if slot < kindSlots kind then s.obj k slot else none with
    | none => s.ends c [] [] errNotFound
    | some o =>
      if s.objRuns k slot o then s.ends c [] [] errRefused "R342"
      else if s.caskReadOnly then s.ends c [] [] errRefused "R310"
      else (s.recordCmd.removeObj k slot).ends c [] [] 0

/-- CONSOLE_ACTIVATE (R342). -/
def execConsoleActivate (c : Session) (slot : Nat) (s : State) : Out :=
  s.console c false inAll (.consoleActivate c slot) fun s =>
    match if slot < 8 then s.obj 2 slot else none with
    | none => s.ends c [] [] errNotFound
    | some _ =>
      if s.caskReadOnly then s.ends c [] [] errRefused "R310" else ((s.recordCmd.markActive slot).showCask).ends c [] [] 0

/-- CONSOLE_STAGE (R323). -/
def execConsoleStage (c : Session) (slot : Nat) (s : State) : Out :=
  s.console c false inServing (.consoleStage c slot) fun s =>
    if 8 ≤ slot ∨ (s.obj 2 slot).isNone then s.ends c [] [] errNotFound
    else if s.svc.staging.isSome ∨ s.svc.switch.isSome then s.ends c [] [] errBusy
    else s.recordCmd.stageStart slot (some c)

/-- CONSOLE_SWITCH (R324, Table 8, step 1). -/
def execConsoleSwitch (c : Session) (keep : Bool) (s : State) : Out :=
  s.console c false inServing (.consoleSwitch c keep) fun s =>
    if s.svc.switch.isSome then s.ends c [] [] errBusy
    else if !s.isEntry ∨ s.get LN_STAGED LN_STAGED.STATE ≠ 2 then s.ends c [] [] errState
    else if keep ∧ s.get LN_STAGED LN_STAGED.KEEP_OK = 0 then s.ends c [] [] errRefused "R324"
    else
      let s := s.recordCmd.modSvc fun v => { v with switch := some (keep, false), switchOf := c }
      ((s.set LN_STATUS LN_STATUS.SWITCHING 1).set LN_STAGED LN_STAGED.STATE 3).showAout

/-! ### The logs of spare rows and retirements (R356), LN_SVC_CTRL (R363) -/

/-- A change to the logs, which a cask in READ_ONLY refuses. -/
def State.editLogs (s : State) (c : Session) (f : Logs → Logs) : State :=
  if s.caskReadOnly then s.ends c [] [] errRefused "R310" else ((s.recordCmd.modLogs f).logGrows 0).ends c [] [] 0

/-- CONSOLE_SPARE_CLEAR (R356): the entries of a chamber, or of all; they count again at the next full reset. -/
def execConsoleSpareClear (c : Session) (n : Option Ch) (s : State) : Out :=
  s.console c false inAll (.consoleSpareClear c n) fun s =>
    let keep (m : Nat) : Bool := n.any fun k => k.val ≠ m
    s.editLogs c fun l => { l with
      spareFor := l.spareFor.filter fun (x : Nat × Nat) => keep x.1
      spareBad := l.spareBad.filter keep
      fenced := l.fenced.filter keep }

/-- CONSOLE_SPARE_BAD (R356). -/
def execConsoleSpareBad (c : Session) (n : Ch) (s : State) : Out :=
  s.console c false inAll (.consoleSpareBad c n) fun s =>
    s.editLogs c fun l => { l with spareBad := (l.spareBad ++ [n.val]).eraseDups }

/-- CONSOLE_RETLOG_CLEAR (R356). -/
def execConsoleRetlogClear (c : Session) (unit : Option RetUnit) (s : State) : Out :=
  s.console c false inAll (.consoleRetlogClear c unit) fun s =>
    match unit with
    | none => s.editLogs c fun l => { l with retired := [] }
    | some u =>
      if s.logs.retired.contains u then s.editLogs c fun l => { l with retired := l.retired.filter (· != u) }
      else s.ends c [] [] errNotFound

/-- CONSOLE_SET (R342, R363). -/
def execConsoleSet (c : Session) (f : SvcField) (v : Nat) (s : State) : Out :=
  s.console c false inAll (.consoleSet c f v) fun s =>
    let top : Nat := if f = .abortTimeout then 31 else 1
    if top < v then s.ends c [] [] errSyntax
    else
      let fld : Fld := match f with
        | .abortTimeout => LN_SVC_CTRL.ABORT_TIMEOUT
        | .autoReset => LN_SVC_CTRL.AUTO_RESET
        | .autoFence => LN_SVC_CTRL.AUTO_FENCE
      (s.recordCmd.set LN_SVC_CTRL fld v).ends c [] [] 0

end Sys2Proof.Machine
end

