-- ==== Sys2Proof/Machine/Changes.lean ====
section
/-! DEFINITION. Planned changes (R341, R351 to R357), wedges (R359, R360) and planned resets (R361). -/

namespace Sys2Proof.Machine

/-! ### Waiting and ending (R341) -/

/-- Whether the dispatcher stands between steps, so that a change may hold it. -/
def State.between (s : State) : Bool := s.disp.running.isNone && s.disp.chosen.isNone

/-- Write the tensors of the chamber that stands at `n` anew from the model image in the cask, in whole codewords (R355). -/
def State.reloadTensors (s : State) (n : Nat) : State :=
  match s.svc.model with
  | none => s
  | some (k, img) =>
    let mine (m : Nat) : Bool := s.placeOf m = n
    let s := (s.readObj 3 k (tensorSpans img s.pIndex mine) []).2
    s.loadTensors img s.pIndex mine

/-- The channels that a retraining takes in turn: a named one, or every one (R354). -/
def recalList (target : Nat) : List Nat := if target < 64 then [target] else List.range 64

/-- What waits begins, while nothing else holds the dispatcher (R341): a change once the dispatcher stands between steps, a fence at once
(R352). A reload is over as it begins. -/
def runWaiting (fuel : Nat) (s : State) : State :=
  match fuel with
  | 0 => s
  | fuel + 1 =>
    if s.svc.fencing.isSome then s.showAout
    else
      match s.svc.changeReq with
      | some r =>
        if !s.between then s.showAout
        else if r.kind = 6 then
          let s := (s.modSvc fun v => { v with changeReq := none, change := 0 }).reloadTensors r.target
          runWaiting fuel (s.ends r.by_ [] [] 0)
        else (s.modSvc fun v => { v with
          changeReq := none, recals := recalList r.target, recalBad := false, recalAt := s.now }).showAout
      | none =>
        if s.svc.change ≠ 0 then s.showAout
        else
          match s.svc.waiting with
          | [] => s.showAout.pump
          | r :: rest =>
            let s := s.modSvc fun v => { v with waiting := rest }
            if r.kind = 1 then
              if s.get (CH_STATUS r.target) CH_STATUS.FENCED = 1 then runWaiting fuel s else s.fenceStart r.target
            else runWaiting fuel (s.modSvc fun v => { v with change := r.kind, changeOf := r.by_, changeReq := some r })

/-- Let waiting changes begin: each takes at most two rounds. -/
def State.runNext (s : State) : State := runWaiting (2 * s.svc.waiting.length + 2) s

/-- A change that held the dispatcher has ended: a held probe is looked at, then what waits begins. -/
def State.changeEnd (s : State) : State := s.resumeProbe.runNext

/-- A change of a command (R341): it is accepted, and begins at once where nothing runs or waits and the dispatcher stands between steps. -/
def State.changeAsk (s : State) (r : ChangeReq) : State :=
  (s.recordCmd.modSvc fun v => { v with waiting := v.waiting ++ [r] }).runNext

/-- A step is over: a change that waited for it begins, and a probe that waited for the tasks passes. -/
def State.stepOver (s : State) : State :=
  let s := s.probeFreed
  if s.svc.changeReq.isSome then s.runNext else s

/-- STEP_END (R251, Table 3, step 8). -/
def execStepEnd (s : State) : Out := .next s.stepEnd.stepOver

/-- STEP_FAIL (R259); given again once the tasks that were aborted have ended, it has them created. -/
def execStepFail (s : State) : Out := .next s.stepFail.stepOver

/-- A leave or a reset cancels every queued change; each ends with ERR 05. -/
def State.cancelWaiting (s : State) : State :=
  let w := s.svc.waiting
  let q := (w.filter fun r => r.kind = 1).map (·.target)
  let s := s.modSvc fun v => { v with waiting := [] }
  let s := (w.filter fun r => r.kind != 1).foldl (fun (s : State) r => s.ends r.by_ [] [] errRefused "R341") s
  let by_ := s.svc.fenceBy.filter fun (x : Nat × Session) => q.contains x.1
  let s := s.modSvc fun v => { v with fenceBy := v.fenceBy.filter fun (x : Nat × Session) => !q.contains x.1 }
  (by_.foldl (fun (s : State) x => s.ends x.2 [] [] errRefused "R341") s).showAout

/-! ### Fencing (R352) -/

/-- CONSOLE_FENCE (R352). -/
def execConsoleFence (c : Session) (n : Ch) (s : State) : Out :=
  s.console c false inServing (.consoleFence c n) fun s =>
    if s.get (CH_STATUS n) CH_STATUS.FENCED = 1 then s.ends c [] [] errState
    else if s.fenceWaits n then s.ends c [] [] errBusy
    else ((s.recordCmd.modSvc fun v => { v with fenceBy := v.fenceBy ++ [(n.val, c)] }).fenceAsk n).showAout

/-- A fence ends: the command that asked for it is answered. -/
def State.fenceEnd (s : State) (n code : Nat) : State :=
  let by_ := s.svc.fenceBy.filter fun (x : Nat × Session) => x.1 = n
  let s := s.modSvc fun v => { v with
    fencing := none, spare := none, fenceBy := v.fenceBy.filter fun (x : Nat × Session) => x.1 != n }
  let s := by_.foldl (fun (s : State) x => s.ends x.2 [] [] code (if code = 0 then "" else "NO SPARE CHAMBER")) s
  s.changeEnd

/-- Rewrite every leaf that maps the slice or pocket of chamber `n` to that of `sp` (Table 9, step 6). -/
def State.remapChamber (s : State) (n sp : Nat) : State :=
  s.leaves.foldl (fun (s : State) a =>
    let e := ofBytes (s.bytes a 8)
    let pa := bits e 45 12 * 4096
    let at_ (store : Nat) : Bool := storeBase n store ≤ pa && pa < storeBase n store + storeSize store
    if leafRemote e then s
    else if at_ 0 then s.lanternWrite a (toBytes 8 (e - pa + (pa - storeBase n 0 + storeBase sp 0)))
    else if at_ 1 then s.lanternWrite a (toBytes 8 (e - pa + (pa - storeBase n 1 + storeBase sp 1)))
    else s) s

/-- Whether a physical address lies in a chamber's slice or pocket. -/
def inChamberStore (n pa : Nat) : Bool :=
  [0, 1].any fun k => storeBase n k ≤ pa && pa < storeBase n k + storeSize k

/-- Table 9, steps 3, 5 and 6: spare `sp` takes chamber `n`'s place; tensors, role, programs, presets and ST_MEMBER words are
written, the mapping moves, and all contexts are invalidated. -/
def State.bringSpare (s : State) (n sp : Nat) : State :=
  let r := s.recipe
  let tags := (s.stepTasks.filter fun d => d.ch = n).map fun d => (d.ch, d.tag)
  let m := ((s.svc.place.find? fun (x : Nat × Nat) => x.2 = n).map (·.1)).getD n
  let s := s.placeSpare n sp
  let s := (s.reloadTensors sp).applyChambers r fun x => x = m
  let s := s.remapChamber n sp
  let s := (s.writePrograms r (inChamberStore sp)).applyPresets r fun x => x = m
  let s := if !s.disp.renew.isEmpty then s.modDisp fun d => { d with leftover := d.leftover ++ tags }
    else tags.foldl (fun (s : State) x => s.cmdAbort x.1 x.2) s
  (s.modSvc fun v => { v with spare := some sp }).invalStart 1 0 0

/-- FENCE_MAPPING_DONE (R352, Table 9, steps 3 to 7): once the running step has failed the spare is brought in; given again when
DONE is 1, its tasks are created and the dispatcher resumes. AUTO_FENCE 0 leaves a failed chamber fenced without one (R363). -/
def execFenceMappingDone (s : State) : Out :=
  match s.svc.fencing with
  | none => .next s
  | some n =>
    match s.svc.spare with
    | some sp =>
      if s.get GM_INVAL_STATUS GM_INVAL_STATUS.DONE = 0 then .next s
      else
        let s := if !s.disp.renew.isEmpty then s else (s.stepTasks.filter fun d => d.ch = sp).foldl State.createTask s
        .next ((s.set (CH_CTRL sp) CH_CTRL.HOLD 0).fenceEnd n 0)
    | none =>
      if !s.between ∨ !s.disp.paused.isEmpty ∨ s.inval.isSome then .next s
      else if s.get (CH_ROLE n) CH_ROLE.ROLE = 5 ∨ !(s.stepTasks.any fun d => d.ch = n) then .next (s.fenceEnd n 0)
      else if s.get LN_SVC_CTRL LN_SVC_CTRL.AUTO_FENCE = 0 ∧ !(s.svc.fenceBy.any fun (x : Nat × Session) => x.1 = n) then
        .next (s.fenceEnd n 0)
      else
        match s.spareChamber with
        | some sp => .next (s.bringSpare n sp)
        | none => .next (((s.modSvc fun v => { v with noSpare := true, failAll := true }).fenceEnd n errFailed).showAout)

/-! ### Reload, retraining, recalibration (R354, R355) -/

/-- CONSOLE_RELOAD (R341, R355). -/
def execConsoleReload (c : Session) (n : Ch) (s : State) : Out :=
  s.console c false inServing (.consoleReload c n) fun s =>
    if s.svc.model.isNone then s.ends c [] [] errNotFound else s.changeAsk ⟨c, 6, n.val⟩

/-- CONSOLE_RECAL_G7 (R341, R354). -/
def execConsoleRecalG7 (c : Session) (ch : Option (Fin 64)) (s : State) : Out :=
  s.console c false inServingSafe (.consoleRecalG7 c ch) fun s => s.changeAsk ⟨c, 3, (ch.map (·.val)).getD 64⟩

/-- G7_RETRAIN_DONE (R354): the channel's retraining ends; its hold watchdog goes on. One that failed keeps the rate in use, and
the Lantern retires the channel's regions: with 1,792 bytes in turn to each channel (R193), every region. -/
def execG7RetrainDone (ok : Bool) (s : State) : Out :=
  match s.svc.recals with
  | [] => .next s
  | c :: rest =>
    let a := s.arb (4224 + c)
    let s := s.setArb (4224 + c) { a with lastMove := if a.holder.isSome then a.lastMove + (s.now - s.svc.recalAt) else a.lastMove }
    let s := s.modSvc fun v => { v with recals := rest, recalBad := v.recalBad || !ok, recalAt := s.now }
    let s := if ok then s else (List.range 21504).foldl State.retireRegion s
    if !rest.isEmpty then .next s.showAout
    else
      let bad := s.svc.recalBad
      let toA := s.svc.changeOf
      let s := if bad then s else s.set GM_STATUS GM_STATUS.RATE_NOW (s.get GM_CTRL GM_CTRL.RATE)
      let s := (s.modSvc fun v => { v with change := 0 }).ends toA [] [] (if bad then errFailed else 0) (if bad then "TRAINING" else "")
      .next s.changeEnd

/-- A port that a recal command retrains is shown as a planned change until it is done (R351). -/
def State.recalShown (s : State) (sirdy : Bool) (p : Nat) : State :=
  ((s.modSvc fun v => { v with portRecal := v.portRecal ++ [(sirdy, p)] }).recalPorts).showAout

/-- CONSOLE_RECAL_GALLERY (R351; R273, step 10). -/
def execConsoleRecalGallery (c : Session) (p : GPort) (s : State) : Out :=
  s.console c false inServingSafe (.consoleRecalGallery c p) fun s =>
    if s.gpState p ≠ gpUp then s.ends c [] [] errState else (s.recordCmd.glRecal p).recalShown false p |>.ends c [] [] 0

/-- CONSOLE_RECAL_SIRDY (R351; R289, step 7). -/
def execConsoleRecalSirdy (c : Session) (p : SPort) (s : State) : Out :=
  s.console c false inServingSafe (.consoleRecalSirdy c p) fun s =>
    if s.spState p ≠ spUp then s.ends c [] [] errState else (s.recordCmd.syRecal p).recalShown true p |>.ends c [] [] 0

/-! ### Forced retirements (R342; R213, R214, R310) -/

/-- Whether a retirement runs. -/
def State.retiringNow (s : State) : Bool :=
  s.move.isSome || s.chambers.any fun (x : Nat × Chamber) => !x.2.retiring.isEmpty

/-- CONSOLE_RETIRE_CELLAR (R213). -/
def execConsoleRetireCellar (c : Session) (n : Ch) (tier : Fin 4) (row : Nat) (s : State) : Out :=
  s.console c false inServingSafe (.consoleRetireCellar c n tier row) fun s =>
    if 3072 ≤ row then s.ends c [] [] errNotFound
    else if s.retiringNow then s.ends c [] [] errBusy
    else
      let s := s.recordCmd.retireRow n tier row
      s.showAout.ends c [] [] (if (s.ch n).retiring.isEmpty then errFailed else 0) "NO SPARE ROW"

/-- CONSOLE_RETIRE_G7 (R214). -/
def execConsoleRetireG7 (c : Session) (region : Nat) (s : State) : Out :=
  s.console c false inServingSafe (.consoleRetireG7 c region) fun s =>
    if 21504 ≤ region then s.ends c [] [] errNotFound
    else if s.retiringNow then s.ends c [] [] errBusy
    else if s.regionRetired region then s.ends c [] [] errRefused "R214"
    else
      let s := s.recordCmd.retireRegion region
      s.showAout.ends c [] [] (if s.move.isNone then errFailed else 0) "NO REGION"

/-- CONSOLE_RETIRE_CASK (R310). -/
def execConsoleRetireCask (c : Session) (die plane block : Nat) (s : State) : Out :=
  s.console c false inServingSafe (.consoleRetireCask c die plane block) fun s =>
    let b := blockKey die plane block
    if 32 ≤ die ∨ 4 ≤ plane ∨ 1656 ≤ block then s.ends c [] [] errNotFound
    else if s.retiringNow then s.ends c [] [] errBusy
    else if s.caskReadOnly ∨ (s.nand b).retired then s.ends c [] [] errRefused "R310"
    else (s.recordCmd.retireNand b).ends c [] [] 0

/-! ### Firmware (R353) -/

/-- The cause of an image that fails verification, or cannot be read (R333). -/
def verifyText (x : Option (Nat × Nat × Nat)) : String :=
  match x with
  | some (step, cause, _) => "STEP " ++ numText step ++ " CAUSE " ++ numText cause
  | none => "UNREADABLE"

/-- CONSOLE_FWUPDATE (R353). -/
def execConsoleFwupdate (c : Session) (slotB : Bool) (v : ReadFinds) (s : State) : Out :=
  s.console c false inAll (.consoleFwupdate c slotB v) fun s =>
    if (s.obj 1 (bit slotB)).isNone then s.ends c [] [] errNotFound
    else
      match s.fetchImage 1 (bit slotB) 0 v with
      | (.error x, s) => s.ends c [] [] errFailed (verifyText x)
      | (.ok l, s) => (s.recordCmd.modSvc fun y => { y with fwTo := some (c, bit slotB, l, s.clk) }).showAout

/-- FWUPDATE_HANDOVER_DONE (R353): the new firmware reports ready within 20 ms. -/
def execFwupdateHandoverDone (s : State) : Out :=
  match s.svc.fwTo with
  | none => .next s
  | some (c, k, l, t) =>
    if ms 20 < s.clk - t then .next s
    else
      let s := s.modSvc fun v => { v with fwTo := none, firmware := l }
      .next ((s.set LN_BOOT LN_BOOT.FW_SLOT k).showAout.ends c [] [] 0)

/-- FWUPDATE_TIMEOUT (R353): the old firmware resumes. -/
def execFwupdateTimeout (s : State) : Out :=
  match s.svc.fwTo with
  | none => .next s
  | some (c, _, _, t) =>
    if s.clk - t ≤ ms 20 then .next s
    else .next ((s.modSvc fun v => { v with fwTo := none }).showAout.ends c [] [] errFailed "TIMEOUT")

/-! ### Rails off and on (R371) -/

/-- PW_LAST_OFF records why the rails went off (R382): the rail's sel where a rail is the reason. -/
def State.lastOff (s : State) (cause sel : Nat) (latched : Bool) : State :=
  s.setReg PW_LAST_OFF (fset (fset (fset 0 PW_LAST_OFF.CAUSE cause) PW_LAST_OFF.RAIL sel) PW_LAST_OFF.LATCHED (bit latched))

/-- CORE-A, CORE-B and G7 go off: the chambers, the tun and every memory lose what they hold; no die makes handshakes, and the converter
measures the rails anew (R366, R382). -/
def State.coresOff (s : State) : State :=
  let s := { s with
    mem := [], chk := [], poison := [], chambers := [], saves := [], tun := [], tunNoise := [], tunCount := [], flush := [],
    ytlb := [], arbs := [], arm := [], mcast := [], inval := none, move := none, moveWait := []
    regs := s.regs.filter fun (e : Nat × Word) => !(chWin 0 ≤ e.1 && e.1 < chWin 1024) }
  let s := s.modPw fun p => { p with
    rails := [p.rails.getD 0 false, p.rails.getD 1 false, false, false, false], ramp := [], rated := [] }
  ([1, 2, 4].foldl State.measureRail (s.setReg PW_RATE 0)).showRails

/-- The next rails of Table 4 start to ramp; with every rail up, power-good may rise after a wait. -/
def State.rampNext (s : State) (wait : Nat) : State :=
  s.modPw fun p =>
    let up (i : Nat) : Bool := p.rails.getD i false
    let go (l : List Nat) : Power := { p with ramp := (l.filter fun i => !up i).map fun i => (i, s.clk) }
    if !up 0 then go [0]
    else if !up 1 then go [1]
    else if !up 2 then go [2]
    else if !up 3 ∨ !up 4 then go [3, 4]
    else { p with ramp := [], readyAt := s.clk + wait }

/-! ### Leaving (R357) -/

/-- Send GOING_DOWN on every UP Gallery port (R275). -/
def State.glNotices (s : State) (going : Nat) : State :=
  (List.range 24).foldl (fun (s : State) p =>
    if s.gpState p = gpUp then
      ((s.sendLinkCtrl p going).glDrop p (s.get (GL_PORT_STATUS p) GL_PORT_STATUS.LAST_DOWN)).gpTo p gpOff
    else s) s

/-- Send GOING_DOWN 1 on every UP Sirdy port. -/
def State.syNotices (s : State) : State :=
  [0, 1].foldl (fun (s : State) p => if s.spState p = spUp then s.syIdle p 1 else s) s

/-- Ask to leave (R281): a leader proposes its own LEAVE, another member sends the leader a LEAVE of itself at the present epoch (log entry
103). -/
def State.askLeave (s : State) : State :=
  if s.viewState ≠ 1 then s
  else if s.isLeader then s.askChange 1 s.addr
  else (proposeFrames 1 (toBytes 4 s.addr)).foldl (fun (s : State) l => s.lantern s.leader 3 s.epoch l) s

/-- CONSOLE_LEAVE (R357). -/
def execConsoleLeave (c : Session) (s : State) : Out :=
  s.console c false inServingStopped (.consoleLeave c) fun s =>
    if s.pw.left then s.ends c [] [] errState
    else if s.svc.leaveAt.isSome then s.ends c [] [] errBusy
    else
    let s := s.recordCmd.cancelWaiting.cutPassage
    let s := (s.askLeave.glNotices 2).modGl fun g => { g with leaving := true }
    (s.modSvc fun v => { v with leaveAt := some s.clk, leaveOf := c }).showAout

/-- LEAVE_COMMITTED (R357, step 3): the LEAVE has committed, so that the view has not this module, or 1 s has passed in a frozen or joining view, or there is no view to
leave. -/
def execLeaveCommitted (s : State) : Out :=
  match s.svc.leaveAt with
  | none => .next s
  | some t =>
    if (s.viewState = 1 ∧ s.gl.view.contains s.addr) ∨ ((s.viewState = 2 ∨ s.viewState = 3) ∧ s.clk - t < ms 1000) then .next s
    else
      let c := s.svc.leaveOf
      let s := (s.coresOff.lastOff 9 0 false).modPw fun p => { p with left := true }
      let s := ((s.set GL_STATUS GL_STATUS.MEMBER 0).set GL_STATUS GL_STATUS.VIEW 0).set GL_STATUS GL_STATUS.LEADER 0
      let s := s.showSteer
      .next ((s.modSvc fun v => { v with leaveAt := none }).showAout.ends c [] [] 0)

/-! ### Reset (R361) -/

/-- All logic resets after a record and, where it is planned, the notices (Table 12, steps 1 to 3). -/
def State.resetNow (s : State) (cause : Nat) (planned : Bool) : State :=
  let s := s.record 0 srcModule cause 6 []
  let s := if planned then (s.glNotices 1).syNotices else s
  (s.lastOff cause 0 s.pw.latched).fullReset

/-- The planned reset: a latch is cleared where the Lantern still runs (R371), and rails that are off come up again; after an
unlatched trip they wait for the sensors (R372). -/
def State.plannedReset (s : State) : State :=
  let hot := s.pw.tripped && !s.pw.latched
  let s := (s.resetNow 8 true).modPw fun p => { p with latched := false, left := false, tripped := hot }
  if hot then s else s.rampNext 0

/-- CONSOLE_RESET (R361). -/
def execConsoleReset (c : Session) (s : State) : Out :=
  s.console c true inAll (.consoleReset c) fun s => (s.recordCmd.cancelWaiting.ends c [] [] 0).plannedReset

/-- LANTERN_WATCHDOG_BITE (R358): an unplanned full reset. Rails that are off come up again, but those of a module latched off (R371), or that
waits for its sensors after a trip (R372). -/
def execLanternWatchdogBite (s : State) : Out :=
  if !s.pw.good ∨ !s.fwRuns then .next s
  else
    let s := s.resetNow 7 false
    .next (if s.pw.latched || s.pw.tripped then s else s.rampNext 0)

/-! ### Wedges (R359, R360) -/

/-- A wedge is found (Table 11). LN_WEDGED keeps the first. -/
def State.wedge (s : State) (chamber : Option Nat) (resource index : Nat) : State :=
  let s := s.modSvc fun v => { v with wedges := v.wedges ++ [(resource, index)] }
  let s := if s.get LN_WEDGED LN_WEDGED.VALID = 1 then s
    else
      let s := (s.set LN_WEDGED LN_WEDGED.VALID 1).set LN_WEDGED LN_WEDGED.SCOPE (bit chamber.isNone)
      (s.set LN_WEDGED LN_WEDGED.RESOURCE resource).set LN_WEDGED LN_WEDGED.INDEX index
  let s := s.record 0 (chamber.getD srcModule) (resource + 8 * index) 5 [s.reg LN_WEDGED]
  match chamber with
  | some n =>
    let s := if s.get (CH_STATUS n) CH_STATUS.FENCED = 1 ∨ s.changeBusy then s.event 0xE003 n 0 else s
    (s.fenceAsk n).showAout
  | none =>
    let s := s.event 0xE007 srcModule 16
    if s.get LN_SVC_CTRL LN_SVC_CTRL.AUTO_RESET = 1 then s.cancelWaiting.plannedReset
    else (s.modSvc fun v => { v with failAll := true }).showAout

/-- AB_WEDGED shows the first resource that was found wedged (R246, R359). -/
def State.showWedge (s : State) (resource index : Nat) : State :=
  if s.get AB_WEDGED AB_WEDGED.VALID = 1 then s
  else ((s.set AB_WEDGED AB_WEDGED.VALID 1).set AB_WEDGED AB_WEDGED.RESOURCE resource).set AB_WEDGED AB_WEDGED.INDEX index

/-- ABORT_TIMEOUT (R359): a task stays ABORTING, or a forced release stays open, past the abort timeout. -/
def execAbortTimeout (w : AbortOf) (s : State) : Out :=
  let limit := microTicks (s.get LN_SVC_CTRL LN_SVC_CTRL.ABORT_TIMEOUT)
  match w with
  | .task n t =>
    if s.tstate n t ≠ tAborting ∨ s.clk - (s.task n t).abortSince < limit ∨ s.svc.wedges.contains (7, n.val) then .next s
    else .next (s.wedge (some n.val) 7 n.val)
  | .release a =>
    let k := arbKey a
    let index := if k < 4096 then k / 4 else if k < 4224 then k - 4096 else k - 4224
    match (s.arb k).forced with
    | none => .next s
    | some t =>
      if s.clk - t < limit ∨ s.svc.wedges.contains (arbClass k, index) then .next s
      else
        .next ((s.showWedge (arbClass k) index).wedge (if k < 4096 then some (k / 4) else none) (arbClass k) index)

end Sys2Proof.Machine
end

