-- ==== Sys2Proof/Machine/Security.lean ====
section
/-! DEFINITION. The security block (R330 to R338): fuse commands, the identity key, attestation, endorsement. -/

namespace Sys2Proof.Machine

/-! ### The identity key (R334 to R336) -/

/-- SC_STATUS.QUEUED shows the attestations that wait, and BUSY whether a report is being signed. -/
def State.showAttests (s : State) : State := (s.set SC_STATUS SC_STATUS.QUEUED (min 8 s.svc.attests.length)).showSec

/-- The identity key pair (R334): key generation from SHAKE256 of the seed and "Y4ID" alone. -/
def State.idKeys (s : State) : List Byte × List Byte :=
  let l := Config.idSeed s.fuses.helper ++ ascii "Y4ID"
  Config.falconKeys (shakeByte l)

/-- The identity public key of 1,793 bytes. -/
def State.idKey (s : State) : List Byte := padTo 1793 s.idKeys.2

/-- ID_KEYGEN_DONE (R334 to R336): the key exists, or the response could not be corrected, and attestations are refused. -/
def execIdKeygenDone (pufOk : Bool) (s : State) : Out :=
  if !s.fwRuns ∨ s.get SC_STATUS SC_STATUS.ID_READY = 1 ∨ s.get SC_STATUS SC_STATUS.ID_FAIL = 1 then .next s
  else if pufOk then
    let d := shake s.idKey
    let s := (s.set SC_STATUS SC_STATUS.ID_READY 1).showSec
    .next ((List.range 8).foldl (fun (s : State) i => s.setReg (SC_ID_DIGEST i) (BitVec.ofNat 64 (d / 2 ^ (64 * i)))) s)
  else
    let s := (s.set SC_STATUS SC_STATUS.ID_FAIL 1).record 0 srcModule 0 1 [s.reg SC_STATUS]
    let l := s.svc.attests
    let s := (s.modSvc fun v => { v with attests := [] }).showAttests
    .next (l.foldl (fun (s : State) x => s.ends x.1 [] [] errRefused "NO_IDENTITY") s)

/-! ### Fuse commands (R331, R332) -/

def fmOp (l : List Byte) : Nat := num l 4 1
def fmTarget (l : List Byte) : Nat := num l 5 1
def fmSigner (l : List Byte) : Nat := num l 6 1

/-- The message is not laid out as Table 2 requires. -/
def fuseMsgBad (l : List Byte) : Bool :=
  num l 0 4 != 0x43533459 || fmOp l = 0 || decide (3 < fmOp l) || num l 7 1 != 0
    || (fmOp l = 3 && fmTarget l != 0) || (fmOp l != 3 && decide (4 ≤ fmTarget l))
    || (fmOp l != 1 && (slice l 104 64).any (· != 0))

/-- The RESULT that refuses a fuse command before R332 is looked at (R331, R338): 6 no identity; 1 layout, signature, digest or
challenge; 2 the signer's slot. -/
def State.fuseRefusal (s : State) (l : List Byte) : Option Nat :=
  if s.get SC_STATUS SC_STATUS.ID_FAIL = 1 then some 6
  else if fuseMsgBad l ∨ sigBlockBad (l.drop 168) (fmSigner l) then some 1
  else if s.slotBad (fmSigner l) ≠ 0 then some 2
  else if !s.keyFits (l.drop 168) (fmSigner l) then some 1
  else if !falconVerify (sigKey (l.drop 168)) (sigBytes (l.drop 168)) (l.take 168) then some 1
  else if slice l 8 64 != s.regBytes ((List.range 8).map SC_ID_DIGEST) ∨ slice l 72 32 != s.regBytes ((List.range 4).map SC_CHALLENGE)
  then some 1
  else none

/-- The code and text that answer a RESULT of SC_CMD_STATUS (R338, R340). -/
def fuseCode (result : Nat) : Nat × String :=
  match result with
  | 0 => (0, "")
  | 5 => (errFailed, "FUSE PROGRAMMING")
  | 3 => (errRefused, "R332")
  | 4 => (errRefused, "R332")
  | _ => (errRefused, "R331")

/-- A fuse command ends: SC_CMD_STATUS has its result, the challenge is replaced, the console prints RESULT. -/
def State.fuseEnd (s : State) (c : Session) (op result : Nat) : State :=
  let s := s.setReg SC_CMD_STATUS (fset (fset (fset 0 SC_CMD_STATUS.VALID 1) SC_CMD_STATUS.RESULT result) SC_CMD_STATUS.OP op)
  let s := (s.newChallenge.modSvc fun v => { v with fuseBusy := none }).showSec
  s.ends c [BitVec.ofNat 64 result] [] (fuseCode result).1 (fuseCode result).2

/-- CONSOLE_FUSE (R331): the command in the fuse buffer is checked; one that is accepted is then carried out under R332. -/
def execConsoleFuse (c : Session) (u : Unit) (s : State) : Out :=
  s.console c false inAll (.consoleFuse c u) fun s =>
    let l := s.svc.fuseBuf
    if l.length ≠ 3272 then s.newChallenge.ends c [] [] errState
    else if s.svc.fuseBusy.isSome then s.newChallenge.ends c [] [] errBusy
    else
      let s := s.recordCmd
      match s.fuseRefusal l with
      | some r => s.fuseEnd c (fmOp l) r
      | none => (s.modSvc fun y => { y with fuseBusy := some l, fuseTo := c }).showSec

/-- The message of the fuse command under way, where it is of an operation. -/
def State.fuseRuns (s : State) (op : Nat) : Option (List Byte) := s.svc.fuseBusy.filter fun l => fmOp l = op

def fuseBit (w : Nat) (i : Nat) : Nat := w ||| 2 ^ i

/-- Program the three copies of the fuses; fuses only go from 0 to 1 (R330). -/
def State.programFuses (s : State) (f : FuseCopy → FuseCopy) : State :=
  { s with fuses := { s.fuses with a := f s.fuses.a, b := f s.fuses.b, c := f s.fuses.c } }.showFuses

/-- Free bits, `k` words of them. -/
def freeBits (k : Nat) (s : State) : Nat × State :=
  match k with
  | 0 => (0, s)
  | k + 1 =>
    let (w, s) := s.free
    let (n, s) := freeBits k s
    (w.toNat + 2 ^ 64 * n, s)

/-- Programming fails: which of the fuses blew, copy by copy, no rule states; they read by majority (R330, R332). -/
def State.failFuses (s : State) (words : Nat) (f : Nat → FuseCopy → FuseCopy) : State :=
  let (x, s) := freeBits words s
  let (y, s) := freeBits words s
  let (z, s) := freeBits words s
  { s with fuses := { s.fuses with a := f x s.fuses.a, b := f y s.fuses.b, c := f z s.fuses.c } }.showFuses

/-- ENROL (R332): the digest is programmed, then VALID. -/
def execEnrol (programmed : Bool) (s : State) : Out :=
  match s.fuseRuns 1 with
  | none => .next s
  | some l =>
    let t := fmTarget l
    let c := s.svc.fuseTo
    let d := num l 104 64
    let put (m : Nat) (x : FuseCopy) : FuseCopy := { x with digests := x.digests.set t (x.digests.getD t 0 ||| (d &&& m)) }
    if s.slotBad t ≠ 1 then .next (s.fuseEnd c 1 4)
    else if s.svc.fuseBad.contains t then .next (s.fuseEnd c 1 5)
    else if programmed then
      .next ((s.programFuses fun x => { put d x with valid := fuseBit x.valid t }).fuseEnd c 1 0)
    else .next (((s.failFuses 8 put).modSvc fun v => { v with fuseBad := v.fuseBad ++ [t] }).fuseEnd c 1 5)

/-- A stored firmware image fails a test. -/
def State.anyFirmware (s : State) (p : List Byte → Bool) : Bool :=
  [0, 1].any fun k => (s.obj 1 k).any fun (o : CObj) => p o.bytes

/-- REVOKE (R332). -/
def execRevoke (programmed : Bool) (s : State) : Out :=
  match s.fuseRuns 2 with
  | none => .next s
  | some l =>
    let t := fmTarget l
    let c := s.svc.fuseTo
    let left := (List.range 4).any fun k => k ≠ t && s.slotBad k = 0
    if fmSigner l = t ∨ !left ∨ s.anyFirmware (fun x => imgSigner x = t) then .next (s.fuseEnd c 2 3)
    else if s.svc.fuseBad.contains t then .next (s.fuseEnd c 2 5)
    else if programmed then .next ((s.programFuses fun x => { x with revoked := fuseBit x.revoked t }).fuseEnd c 2 0)
    else
      let s := s.failFuses 1 fun m x => { x with revoked := x.revoked ||| (2 ^ t &&& m) }
      .next ((s.modSvc fun v => { v with fuseBad := v.fuseBad ++ [t] }).fuseEnd c 2 5)

/-- RAISE_FLOOR (R332): the field has 64 fuses, so no floor lies above 64. -/
def execRaiseFloor (programmed : Bool) (s : State) : Out :=
  match s.fuseRuns 3 with
  | none => .next s
  | some _ =>
    let c := s.svc.fuseTo
    let floor := imgGen s.svc.firmware / 2 ^ 24
    let now := s.get SC_FUSES SC_FUSES.FW_FLOOR
    if floor ≤ now ∨ s.anyFirmware (fun x => decide (imgGen x / 2 ^ 24 < floor)) then .next (s.fuseEnd c 3 3)
    else if 64 < floor then .next (s.fuseEnd c 3 5)
    else if programmed then .next ((s.programFuses fun x => { x with floor := x.floor ||| (2 ^ floor - 1) }).fuseEnd c 3 0)
    else .next ((s.failFuses 1 fun m x => { x with floor := x.floor ||| ((2 ^ floor - 1) &&& m) }).fuseEnd c 3 5)

/-! ### Attestation (R337) -/

/-- ATTEST (R337): at most 8 wait. -/
def execAttest (c : Session) (nonce : BitVec 256) (s : State) : Out :=
  s.console c false inAll (.attest c nonce) fun s =>
    if s.get SC_STATUS SC_STATUS.ID_FAIL = 1 then s.ends c [] [] errRefused "NO_IDENTITY"
    else if 8 ≤ s.svc.attests.length then s.ends c [] [] errBusy
    else (s.modSvc fun v => { v with attests := v.attests ++ [(c, nonce)] }).showAttests

/-- The digest of an image's header, 0 where there is none. -/
def headerDigest (l : List Byte) : List Byte :=
  if l.isEmpty then List.replicate 64 0 else digest (imgHeader l)

/-- The 2,512 bytes that a report's signature covers (R337, Table 5). -/
def State.report (s : State) (nonce : BitVec 256) (seq : Nat) : List Byte :=
  let img (x : Option (Nat × List Byte)) : List Byte := (x.map (·.2)).getD []
  let fw := s.svc.firmware
  let re := img s.svc.recipe
  let mo := if s.get LN_MODEL LN_MODEL.VALID = 1 then img s.svc.model else []
  let st := match s.svc.staged with
    | some (_, l, _, _) => l
    | none => []
  let gen (l : List Byte) : Nat := if l.isEmpty then 0 else imgGen l
  let flags := s.get LN_BOOT LN_BOOT.DEGRADED + 2 * s.get LN_BOOT LN_BOOT.FW_FALLBACK + 4 * s.get LN_STRAPS LN_STRAPS.SAFE
    + 8 * bit (decide (s.get LN_STRAPS LN_STRAPS.BOOT_SRC = 2)) + 16 * bit (decide (s.get LN_STAGED LN_STAGED.STATE = 2))
  let spares := ((List.range 1024).filter fun n => s.get (AY_SPARE n) AY_SPARE.SPARE_USED = 1).length
  let health := s.fencedNow + spares * 2 ^ 11 + s.get GM_STATUS GM_STATUS.RETIRED % 512 * 2 ^ 22
    + s.get CK_STATUS CK_STATUS.HEALTH % 4 * 2 ^ 31
  toBytes 4 0x54413459 ++ toBytes 2 1 ++ toBytes 2 flags ++ toBytes 32 nonce.toNat ++ toBytes 8 s.now ++ toBytes 8 seq
    ++ toBytes 1 (s.get SC_FUSES SC_FUSES.ORDERING) ++ toBytes 1 s.stage ++ toBytes 1 (s.get LN_BOOT LN_BOOT.ERROR) ++ [0]
    ++ toBytes 4 ((s.reg SC_FUSES).toNat % 2 ^ 16)
    ++ s.regBytes ((List.range 8).map SC_ID_DIGEST)
    ++ s.regBytes ((List.range 4).flatMap fun k => (List.range 8).map (SC_SLOT_DIGEST k))
    ++ headerDigest fw ++ headerDigest re ++ headerDigest mo ++ headerDigest st
    ++ toBytes 4 (gen fw) ++ toBytes 4 (gen re) ++ toBytes 4 (gen mo) ++ toBytes 4 (gen st)
    ++ toBytes 8 (s.reg LN_STRAPS).toNat ++ toBytes 8 (s.addr % 2 ^ 18 + s.pId % 2 ^ 16 * 2 ^ 18 + s.pIndex % 2 ^ 8 * 2 ^ 34)
    ++ toBytes 8 health ++ List.replicate 24 0 ++ s.idKey ++ List.replicate 15 0

/-- ATTEST_SERVE (R337): the first queued command gets its report of one snapshot, once the key exists. -/
def execAttestServe (s : State) : Out :=
  match s.svc.attests with
  | [] => .next s
  | (c, nonce) :: rest =>
    if s.get SC_STATUS SC_STATUS.ID_READY = 0 then .next s
    else
      let seq := s.svc.reports + 1
      let l := s.report nonce seq
      let s := (s.modSvc fun v => { v with attests := rest, reports := seq }).showAttests.bump SC_REPORTS 1
      .next (s.output c (l ++ padTo 1280 (Config.falconSign s.idKeys.1 l)))

/-- A signature block of slot 0 over bytes that Colmel signs (R328, Table 1; R335). -/
def colmelBlock (l : List Byte) : List Byte :=
  toBytes 4 0x47533459 ++ [0, 1] ++ List.replicate 10 0 ++ padTo 1793 Config.colmelKey ++ List.replicate 15 0
    ++ padTo 1280 (Config.colmelSign l)

/-- The endorsement record of the one-time store (R335): identity digest, serial number and ordering code, with Colmel's signature block. -/
def State.endorsement (s : State) : List Byte :=
  let l := Config.endorsement (digest s.idKey) Config.serial (s.get SC_FUSES SC_FUSES.ORDERING)
  l ++ colmelBlock l

/-- ENDORSE (R335). -/
def execEndorse (c : Session) (s : State) : Out :=
  s.console c false inAll (.endorse c) fun s => s.output c s.endorsement

end Sys2Proof.Machine
end

