-- ==== Sys2Proof/Machine/Power.lean ====
section
/-! DEFINITION. Power (R364 to R373), the slow inputs (R378, R379) and the PPS input (R380, R381). Rails are numbered in the order
of Table 4 of R371: 0 AUX, 1 IO, 2 G7, 3 CORE-A, 4 CORE-B. -/

namespace Sys2Proof.Machine

/-! ### Rails (R365, R370, R371) -/

/-- The sel of a rail (R348, Table 6). -/
def railSel (r : Nat) : Nat := [5, 3, 4, 1, 2].getD r 0

/-- Every rail but AUX off, in the reverse order of Table 4; all logic loses what it holds. -/
def State.railsOff (s : State) : State :=
  let aux := s.pw.rails.getD 0 false
  ((s.fullReset.coresOff).modPw fun p => { p with
    rails := [aux, false, false, false, false], tripped := false, left := false }).showRails.showAout

/-- SENSE_TURN_ON (R364, R365; R371, step 1). A module latched off draws power but stays off. -/
def execSenseTurnOn (s : State) : Out :=
  if s.pw.on ∨ s.pw.ovr then .next s
  else
    let s := s.modPw fun p => { p with on := true }
    .next (if s.pw.latched then s else s.rampNext 0)

/-- RAIL_IN_WINDOW (R371, Table 4): the next rail ramps, or after 1 ms power-good may rise. -/
def execRailInWindow (rail : Fin 5) (s : State) : Out :=
  match kfind s.pw.ramp rail.val with
  | none => .next s
  | some _ =>
    let s := (s.modPw fun p => { p with rails := p.rails.set rail.val true, ramp := kdel p.ramp rail.val }).showRails
    .next (if s.pw.ramp.isEmpty then s.rampNext (ms 1) else s)

/-- RAIL_SEQUENCING_FAIL (R371, step 7): at most three tries again, then latched off. -/
def execRailSequencingFail (rail : Fin 5) (s : State) : Out :=
  match kfind s.pw.ramp rail.val with
  | none => .next s
  | some t =>
    if s.clk - t < ms 20 then .next s
    else
      let latch : Bool := decide (3 ≤ s.pw.retries) || s.pw.latched
      .next ((s.lastOff 5 (railSel rail) latch).railsOff.modPw fun p => { p with
        seqFail := true, retries := p.retries + 1, latched := latch,
        restartAt := if latch then none else some (s.clk + ms 1000) }).showAout

/-- RAIL_FAULT (R370): a second within 10 minutes latches the module off; one that is latched stays so. -/
def execRailFault (rail : Fin 5) (s : State) : Out :=
  if !s.pw.rails.getD rail.val false then .next s
  else
    let latch : Bool := (s.pw.faultAt.any fun t => decide (s.clk - t ≤ ms 600000)) || s.pw.latched
    .next ((s.lastOff 3 (railSel rail) latch).railsOff.modPw fun p => { p with
      faultAt := some s.clk, latched := latch, restartAt := if latch then none else some (s.clk + ms 1000) })

/-- POWER_RESTART (R370, R371): from step 2 of Table 4. -/
def execPowerRestart (s : State) : Out :=
  match s.pw.restartAt with
  | none => .next s
  | some t =>
    if !s.pw.on ∨ s.clk < t then .next s else .next ((s.modPw fun p => { p with restartAt := none }).rampNext 0)

/-- UNDERVOLTAGE (R364). -/
def execUndervoltage (s : State) : Out :=
  if !s.pw.on then .next s
  else .next ((s.lastOff 1 0 s.pw.latched).railsOff.modPw fun p => { p with on := false, restartAt := none })

/-- OVERVOLTAGE (R364). -/
def execOvervoltage (s : State) : Out :=
  if !s.pw.on then .next s
  else .next ((s.lastOff 2 0 s.pw.latched).railsOff.modPw fun p => { p with on := false, ovr := true, restartAt := none })

/-- OVERVOLTAGE_RECOVER (R364): below 62.0 V the module turns on again. -/
def execOvervoltageRecover (s : State) : Out :=
  if !s.pw.ovr then .next s
  else
    let s := s.modPw fun p => { p with on := true, ovr := false }
    .next (if s.pw.latched then s else s.rampNext 0)

/-- AUX_LOSS (R371, R382): the standby controller loses its record and any latch. -/
def execAuxLoss (s : State) : Out :=
  let low : Bool := s.get TB_IN TB_IN.RESET_N = 0
  let s := s.railsOff.modPw fun _ => { on := false, rails := [false, false, false, false, false], held := low }
  .next ((s.setReg PW_LAST_OFF 0).showRails.showAout)

/-! ### Pace (R366 to R369) -/

/-- An event of cause `k` (R369): ARG bit 4 is 1 at the start. -/
def State.powerCause (s : State) (k : Nat) (start : Bool) : State := s.event 0xE007 srcModule (k + 16 * bit start)

/-- A status bit of PW_STATUS changes: the event of its cause, and what AOUT shows. -/
def State.powerFlag (s : State) (f : Fld) (k : Nat) (on : Bool) : State :=
  if s.get PW_STATUS f = bit on then s else ((s.set PW_STATUS f (bit on)).powerCause k on).showAout

/-- The limits that do not follow the bus voltage, in W (R368). -/
def State.plainLimit (s : State) : Nat :=
  let l := min (classLimit (s.get LN_STRAPS LN_STRAPS.PWR_CLASS)) (max 1200 (min 2400 (s.get PW_CTRL PW_CTRL.LIMIT)))
  if s.get PW_STATUS PW_STATUS.EXT_LIMIT = 1 then min 1200 l else l

def State.pace (s : State) : Nat := s.get PW_STATUS PW_STATUS.PACE_NOW

/-- The sensors whose throttle moves the pace: not those of the G7 devices (R372). -/
def State.paceHot (s : State) : Bool := s.pw.hot.any (· < 16)

/-- The readings of a decision (R368, R382). -/
def State.readInput (s : State) (vin iin pin : Nat) : State :=
  ((s.set PW_INPUT PW_INPUT.VIN vin).set PW_INPUT PW_INPUT.IIN iin).set PW_INPUT PW_INPUT.PIN pin

/-- FAST_LIMIT clears 10 ms after the fast limit acted. -/
def State.fastOver (s : State) : State :=
  if s.pw.fastAt.any fun t => decide (ms 10 ≤ s.clk - t) then
    (s.modPw fun p => { p with fastAt := none }).powerFlag PW_STATUS.FAST_LIMIT 4 false
  else s

/-- P_lim in mW at a bus voltage in mV (R368). -/
def State.pLim (s : State) (vin : Nat) : Nat := min (60 * vin) (s.plainLimit * 1000)

/-- The pace that a decision leaves (R368): one step down, one up while no sensor throttles, or as it is. While the fast limit stands it
holds. -/
def State.paceStep (s : State) (target : Nat) (ovr calm : Bool) : Nat :=
  let old := s.pace
  if s.pw.fastAt.isSome then old
  else if 1 < old ∧ (ovr ∨ s.paceHot ∨ target < old) then old - 1
  else if calm ∧ !ovr ∧ s.pw.hot.isEmpty ∧ old < target then old + 1
  else old

/-- The pace is held below its target by P_lim since a tick: CAPPING, and cause 1 once it has lasted more than 1 s (R369). -/
def State.showCap (s : State) (cap : Bool) : State :=
  let since : Option Nat := if cap then some (s.pw.capAt.getD s.clk) else none
  let evt : Bool := since.any fun t => decide (ms 1000 < s.clk - t)
  let s := (s.set PW_STATUS PW_STATUS.CAPPING (bit cap)).modPw fun p => { p with capAt := since }
  if evt == s.pw.capEvt then s else (s.modPw fun p => { p with capEvt := evt }).powerCause 1 evt

/-- The pace becomes `new`; a self-test counts the steps that leave its own pace (R367). -/
def State.paceTo (s : State) (new : Nat) : State :=
  let away : Bool := s.get LN_SELFTEST LN_SELFTEST.RUNNING = 1 && s.pace = s.svc.testPace && new != s.pace
  (if away then s.modSvc fun v => { v with testSteps := v.testSteps + 1 } else s).set PW_STATUS PW_STATUS.PACE_NOW new

/-- PACE_DECISION (R368): every 100 µs, from bus voltage in mV, input current in 10 mA and average input power in W. A target
that changed during a self-test waits for its end (R350). With the cores off no pace moves, and the readings and limits go on. -/
def execPaceDecision (vin iin pin : Nat) (s : State) : Out :=
  if !s.pw.good then .next s
  else
    let on := s.pw.rails.getD 3 false
    let s := (s.readInput vin iin pin).fastOver
    let target := if s.get LN_SELFTEST LN_SELFTEST.RUNNING = 1 then s.pw.target else s.get PW_CTRL PW_CTRL.PACE
    let lim := s.pLim vin
    let s := (s.set PW_STATUS PW_STATUS.LIMIT_NOW (lim / 1000)).powerFlag PW_STATUS.LOW_BUS 5 (decide (lim < s.plainLimit * 1000))
    let ovr : Bool := decide (lim < pin * 1000)
    let lowAt : Option Nat := if pin * 10000 ≤ 9 * lim then some (s.pw.lowAt.getD s.clk) else none
    let old := s.pace
    let new := if on then s.paceStep target ovr (lowAt.any fun t => decide (ms 10 ≤ s.clk - t)) else old
    let s := s.modPw fun p => { p with target := target, lowAt := lowAt }
    let s := if new < old ∧ (ovr ∨ s.paceHot) then s.bump PW_CAP_STEPS 1 else s
    let held : Bool := ovr || (s.pw.hot.isEmpty && s.pw.fastAt.isNone && decide (new ≤ old))
    .next ((s.paceTo new).showCap (on && held && decide (new < target)))

/-- FAST_LIMIT (R368): above 66 A for 20 µs both cores go to pace 1 at once. -/
def execFastLimit (s : State) : Out :=
  if !s.pw.good ∨ !s.pw.rails.getD 3 false then .next s
  else
    let s := (s.bump PW_CAP_STEPS (s.pace - 1)).paceTo 1
    .next ((s.modPw fun p => { p with fastAt := some s.clk }).powerFlag PW_STATUS.FAST_LIMIT 4 true)

/-- PACE_SLEW_DONE (R367): the core rails stand at the voltage of the pace; the converter's readings are free. -/
def execPaceSlewDone (s : State) : Out :=
  if !s.pw.good ∨ !s.pw.rails.getD 3 false then .next s else .next ((s.measureRail 1).measureRail 2)

/-- RATE_MEASURE (R366): every 1 ms, in 10⁶ handshakes a second; a rate does not follow where the cores are off. -/
def execRateMeasure (die : Fin 3) (rate : Nat) (s : State) : Out :=
  if !s.pw.good ∨ !s.pw.rails.getD 3 false then .next s
  else
    let f : Fld := ⟨16 * die.val, 16⟩
    .next ((s.set PW_RATE f rate).modPw fun p => { p with rated := (p.rated ++ [die.val]).eraseDups })

/-! ### Thermal limits (R372) -/

/-- The number of a sensor. -/
def sensorNo : Sensor → Nat
  | .y4c0 => 0
  | .y4c1 => 1
  | .y4x => 2
  | .conv => 3
  | .g7 d => 16 + d.val

/-- Throttle and trip points of a sensor (Table 5). -/
def throttleAt (x : Nat) : Nat := if x < 3 then 95 else if x = 3 then 110 else 90
def releaseBelow (x : Nat) : Nat := if x < 3 then 90 else if x = 3 then 100 else 85
def tripPoint (x : Nat) : Nat := if x < 3 then 105 else if x = 3 then 125 else 100

/-- A sensor reads a temperature; PW_TEMP shows the hottest of each kind. -/
def State.sense (s : State) (x temp : Nat) : State :=
  let s := s.modPw fun p => { p with temps := kset p.temps x temp }
  let g7 := (List.range 16).foldl (fun m d => max m (kget s.pw.temps (16 + d) 0)) 0
  let s := (s.set PW_TEMP PW_TEMP.Y4C0 (kget s.pw.temps 0 0)).set PW_TEMP PW_TEMP.Y4C1 (kget s.pw.temps 1 0)
  let s := (s.set PW_TEMP PW_TEMP.Y4X (kget s.pw.temps 2 0)).set PW_TEMP PW_TEMP.CONV (kget s.pw.temps 3 0)
  s.set PW_TEMP PW_TEMP.G7 g7

/-- A sensor throttles. -/
def State.throttle (s : State) (x : Nat) : State :=
  (s.modPw fun p => { p with hot := (p.hot ++ [x]).eraseDups }).powerFlag PW_STATUS.THROTTLE 2 true

/-- A trip (R372): the cores and G7 go off; a second within 10 minutes of the first latches the module off. -/
def State.trip (s : State) : State :=
  let latch : Bool := s.pw.tripAt.any fun t => decide (s.clk - t ≤ ms 600000)
  let s := (s.coresOff.lastOff 4 0 latch).bump PW_TRIPS 1
  let s := s.modPw fun p => { p with tripped := true, tripAt := some s.clk, latched := latch }
  (((s.glNotices 1).syNotices).powerCause 6 true).showAout

/-- THERMAL_THROTTLE (R372). -/
def execThermalThrottle (x : Sensor) (temp : Nat) (s : State) : Out :=
  let k := sensorNo x
  if !s.pw.good ∨ temp < throttleAt k then .next s else .next ((s.sense k temp).throttle k)

/-- THROTTLE_RELEASE (R372): below its release point for 10 ms; how far below, no operand says. -/
def execThrottleRelease (x : Sensor) (s : State) : Out :=
  let k := sensorNo x
  if !s.pw.hot.contains k then .next s
  else
    let (w, s) := s.free
    let s := (s.sense k (w.toNat % releaseBelow k)).modPw fun p => { p with hot := p.hot.filter (· != k) }
    .next (if s.pw.hot.isEmpty then s.powerFlag PW_STATUS.THROTTLE 2 false else s)

/-- THERMAL_TRIP (R372): a G7 device trips at its reading. -/
def execThermalTrip (x : Sensor) (temp : Nat) (s : State) : Out :=
  let k := sensorNo x
  if !s.pw.good ∨ !s.pw.rails.getD 2 false ∨ temp < tripPoint k then .next s else .next (s.sense k temp).trip

/-- G7_TEMP_READ (R197, R372): the reading of a device, once a second. -/
def execG7TempRead (dev : Fin 16) (temp : Nat) (s : State) : Out :=
  let k := 16 + dev.val
  if !s.pw.good ∨ !s.pw.rails.getD 2 false then .next s
  else
    let s := s.sense k temp
    .next (if tripPoint k ≤ temp then s.trip else if throttleAt k ≤ temp then s.throttle k else s)

/-- TRIP_RECOVER (R372): every sensor reads below 70 °C; the module restarts from step 3 of Table 4. -/
def execTripRecover (s : State) : Out :=
  if !s.pw.tripped ∨ s.pw.latched ∨ !s.pw.ramp.isEmpty ∨ !s.pw.rails.contains false then .next s
  else
    let s := (s.pw.temps.filter fun (e : Nat × Nat) => 70 ≤ e.2).foldl (fun (s : State) e =>
      let (w, s) := s.free
      s.sense e.1 (w.toNat % 70)) s
    let s := (s.powerCause 6 false).modPw fun p => { p with good := false }
    .next (s.rampNext 0).showAout

/-! ### Slow inputs (R379) -/

/-- Ticks between the first sample of a new level and its acceptance: 100 samples in a row, the first counted. -/
def acceptLag : Nat := 99

/-- SLOW_INPUT_CHANGE (R379): a new level has been shown by 100 samples in a row; it is timed at the first. -/
def execSlowInputChange (x : SlowInput) (level : Bool) (s : State) : Out :=
  if !s.pw.rails.headD false then .next s
  else
    match x with
    | .resetN =>
      if s.get TB_IN TB_IN.RESET_N = bit level then .next s else .next (s.set TB_IN TB_IN.RESET_N (bit level))
    | .extLimitN =>
      if s.pw.extRaw = level then .next s
      else .next (s.modPw fun p => { p with extRaw := level, extFirst := s.clk - acceptLag, extNew := true })
    | .pps =>
      if s.get TB_IN TB_IN.PPS_IN = bit level then .next s
      else
        let s := ((s.set TB_IN TB_IN.PPS_IN (bit level)).set TB_PPS TB_PPS.LEVEL (bit level)).set TB_PPS TB_PPS.STUCK 0
        .next (s.modPw fun p => { p with
          ppsChange := s.clk - acceptLag, ppsRise := if level then some (s.clk - acceptLag) else p.ppsRise })
    | .strap i =>
      let v := s.get TB_IN TB_IN.STRAPS
      if nbit v i = level then .next s
      else
        let s := s.set TB_IN TB_IN.STRAPS (if level then v + 2 ^ i.val else v - 2 ^ i.val)
        .next (if s.pw.good then s.set TB_IN TB_IN.STRAP_MOVED 1 else s)

/-- SLOW_INPUT_GLITCH (R379, R383). -/
def execSlowInputGlitch (x : SlowInput) (s : State) : Out :=
  let f : Fld := match x with
    | .pps => TB_GLITCH.PPS
    | .resetN => TB_GLITCH.RESET
    | .extLimitN => TB_GLITCH.LIMIT
    | .strap _ => TB_GLITCH.STRAP
  if !s.pw.rails.headD false then .next s else .next (s.set TB_GLITCH f (min 0xFF (s.get TB_GLITCH f + 1)))

/-- RESET_N_LOW (R371): power-good drops and all logic resets while the rails stay on. -/
def execResetNLow (s : State) : Out :=
  if s.get TB_IN TB_IN.RESET_N = 1 ∨ s.pw.held then .next s
  else .next (((s.resetNow 6 false).modPw fun p => { p with held := true, left := false }).showRails.showAout)

/-- RESET_N_HIGH (R371): a latch is cleared, and the rails that are off come up, but of a module that waits for its sensors after an unlatched
trip (R372); with every rail up, power-good rises 1 ms later. -/
def execResetNHigh (s : State) : Out :=
  if s.get TB_IN TB_IN.RESET_N = 0 ∨ !s.pw.held then .next s
  else
    let s := s.modPw fun p => { p with held := false, latched := false, tripped := p.tripped && !p.latched }
    .next (if s.pw.on ∧ s.pw.ramp.isEmpty ∧ s.pw.restartAt.isNone ∧ !s.pw.tripped then s.rampNext (ms 1) else s)

/-- An accepted change of EXT_LIMIT_N, an event of tick `t`, takes effect (R368, R369, R379). -/
def State.extTake (s : State) (level : Bool) (t : Nat) : State :=
  let s := (s.set TB_IN TB_IN.EXT_LIMIT_N (bit level)).modPw fun p => { p with extAt := some t, extWait := none }
  s.powerFlag PW_STATUS.EXT_LIMIT 3 (!level)

/-- EXT_LIMIT_CHANGE (R379): a change of the level, timed at its first sample; within 1 s of the last accepted one it is deferred, but for a
return to the level that is accepted. -/
def execExtLimitChange (level : Bool) (s : State) : Out :=
  if s.pw.extRaw ≠ level ∨ !s.pw.extNew then .next s
  else
    let t := s.pw.extFirst
    let s := s.modPw fun p => { p with extNew := false }
    if s.get TB_IN TB_IN.EXT_LIMIT_N = bit level then .next s
    else if s.pw.extAt.any fun u => decide (t - u < ms 1000) then
      .next ((s.bump TB_DEFER 1).modPw fun p => { p with extWait := some level })
    else .next (s.extTake level t)

/-- EXT_LIMIT_DEFER_END (R379): at the end of the interval a deferred change applies, unless the level has returned. -/
def execExtLimitDeferEnd (s : State) : Out :=
  match s.pw.extWait with
  | none => .next s
  | some l =>
    let t := (s.pw.extAt.getD 0) + ms 1000
    if s.clk < t then .next s
    else if s.pw.extRaw = l then .next (s.extTake l t)
    else .next (s.modPw fun p => { p with extWait := none })

/-! ### PPS (R380, R381) -/

/-- TB_PPS.STATE. -/
def State.pps (s : State) : Nat := s.get TB_PPS TB_PPS.STATE

/-- An interval of 1 s ± 100 µs. -/
def inTolerance (k : Nat) : Bool := decide (99990000 ≤ k) && decide (k ≤ 100010000)

/-- The phase error of a timestamp (R381). -/
def phaseError (t : Nat) : Int :=
  let r := t % 100000000
  if r < 50000000 then (r : Int) else (r : Int) - 100000000

/-- The state that follows an accepted edge, and the intervals in tolerance (R380). -/
def ppsNext (state ok : Nat) (interval : Option Nat) : Nat × Nat :=
  match state, interval with
  | 1, some k => if inTolerance k then (if 3 ≤ ok then (2, 4) else (1, ok + 1)) else (1, 0)
  | 2, some k => if inTolerance k then (2, 4) else (1, 0)
  | _, _ => (1, 0)

/-- The time master, `e` ahead of the second, steers (R381): before it serves it removes e at once, never running backward; while it serves
it slews it away and updates TB_FREQ, whose value no rule states. -/
def State.steer (s : State) (e : Int) : State :=
  if s.stage ≠ 9 then (s.setTime e).timeTo 1
  else
    let (w, s) := (s.slewBy (-e)).free
    (s.set TB_FREQ TB_FREQ.CORR w.toNat).timeTo (if 10 < e.natAbs then 3 else 1)

/-- PPS_EDGE (R379 to R381): a rising edge is accepted or, within 0.5 s of the last accepted one, rejected. -/
def execPpsEdge (s : State) : Out :=
  match s.pw.ppsRise with
  | none => .next s
  | some t =>
    let s := s.modPw fun p => { p with ppsRise := none }
    if s.pw.ppsEdge.any fun u => decide (t - u < ms 500) then .next (s.bump TB_PPS_REJECT 1)
    else
      let (st, ok) := ppsNext s.pps s.pw.ppsOk (s.pw.ppsEdge.map fun u => t - u)
      let stamp := s.now - (s.clk - t)
      let e := phaseError stamp
      let s := (s.modPw fun p => { p with ppsEdge := some t, ppsOk := ok }).setReg TB_PPS_LAST (BitVec.ofNat 64 stamp)
      let s := (s.bump TB_PPS_ACCEPT 1).tallyX 0xE08 0 1
      let s := s.set TB_PPS_ERR TB_PPS_ERR.ERR (BitVec.ofInt 32 e).toNat
      let s := s.set GL_TIME GL_TIME.PPS_DIFF (BitVec.ofInt 14 (max (-8192) (min 8191 (e.tdiv 10)))).toNat
      let s := ((s.set TB_PPS TB_PPS.STATE st).set TB_PPS TB_PPS.STUCK 0).showSteer
      .next (if s.isLeader ∧ st = 2 then s.steer e else s)

/-- PPS_HOLDOVER (R380): more than 1.5 s without an accepted edge; an edge at hand wins. -/
def execPpsHoldover (s : State) : Out :=
  match s.pw.ppsEdge with
  | none => .next s
  | some t =>
    if !(s.pps = 1 ∨ s.pps = 2) ∨ s.clk - t ≤ ms 1500 ∨ s.pw.ppsRise.isSome then .next s
    else
      let s := ((s.set TB_PPS TB_PPS.STATE 3).set TB_PPS TB_PPS.STUCK (bit (decide (ms 1500 < s.clk - s.pw.ppsChange)))).showSteer
      .next (if s.isLeader then s.timeTo 2 else s)

/-- PPS_STUCK (R380). -/
def execPpsStuck (s : State) : Out :=
  if s.pps ≠ 3 ∨ s.clk - s.pw.ppsChange ≤ ms 1500 then .next s else .next (s.set TB_PPS TB_PPS.STUCK 1)

end Sys2Proof.Machine
end

