-- ==== Sys2Proof/Machine/Counters.lean ====
section
/-! DEFINITION. Performance counters (R387 to R393), register writes with the effect of the register written (R7, R384), and what
10 ns of reference time do. -/

namespace Sys2Proof.Machine

/-! ### Freezing, clearing, windows (R390, R391) -/

/-- The base of a block of counters. -/
def pcBase : PcBlock → Nat
  | .chamber n => PCC_CTRL n
  | .y4x => PCX_CTRL

/-- PC_FREEZE (R390). -/
def execPcFreeze (b : PcBlock) (freeze : Bool) (s : State) : Out := .next (s.pcFreeze (pcBase b) freeze)

/-- PC_CLEAR (R390). -/
def execPcClear (b : PcBlock) (s : State) : Out := .next (s.pcClear (pcBase b))

/-- Ticks since the last boundary of a block's windows; `none` before START. -/
def State.pcLag (s : State) (base : Nat) : Option Nat :=
  let start := (s.reg (base + 0x10)).toNat
  let len := s.get (base + 8) PCC_WINDOW.LENGTH * 100
  if s.now < start ∨ len = 0 then none else some ((s.now - start) % len)

/-- Latch one counter: SNAP with MIXED, and RATE. -/
def State.pcLatch (s : State) (base len i : Nat) : State :=
  let c := pcReg base i 1
  let k := kget s.perf.win c 0 % 2 ^ 48
  let m := kget s.perf.mixed c false
  let s := s.poke (pcReg base i 2) (BitVec.ofNat 64 (k + bit m * 2 ^ 49))
  let s := s.poke (pcReg base i 3) (BitVec.ofNat 64 (min 0xFFFFFFFF (k / len)))
  let p := s.perf
  { s with perf := { p with win := kdel p.win c, mixed := kdel p.mixed c } }

/-- PC_WINDOW_BOUNDARY (R391, R392): within 50 ns of a boundary that comes after the arming write and after the boundary before
it. -/
def execPcWindowBoundary (b : PcBlock) (s : State) : Out :=
  let base := pcBase b
  match s.pcLag base with
  | none => .next s
  | some lag =>
    let st := base + 0x18
    if s.get st PCC_WSTATUS.RUNNING = 0 ∨ 5 < lag ∨ s.clk - lag ≤ kget s.perf.armed base 0 then .next s
    else
      let len := s.get (base + 8) PCC_WINDOW.LENGTH
      let s := (List.range (pcCounters base)).foldl (fun (s : State) i => s.pcLatch base len i) s
      let s := s.setReg (base + 0x20) (BitVec.ofNat 64 (s.now - lag))
      let s := s.set st PCC_WSTATUS.SEQ (s.get st PCC_WSTATUS.SEQ + 1)
      let s := if s.get (base + 8) PCC_WINDOW.REPEAT = 0 then s.set st PCC_WSTATUS.RUNNING 0 else s
      .next { s with perf := { s.perf with armed := kput s.perf.armed base (s.clk - lag) 0 } }

/-! ### Register writes (R7, R8, R384) -/

/-- A task command written to CH_TASK_CMD (R184 to R188). -/
def State.taskCmd (s : State) (n cmd t : Nat) : State :=
  match cmd with
  | 1 => s.cmdCreate n
  | 2 => s.cmdPreempt n t
  | 3 => s.cmdResume n t
  | 4 => s.cmdAbort n t
  | 5 => s.cmdRelease n t
  | _ => s

/-- GL_PORT_CTRL of a port is written (R262, R273): RECAL retrains an UP port; ENABLE trains a port of the recipe, or stops it. -/
def State.glPortWrite (s : State) (p : Nat) (v : Word) : State :=
  let on := fget v GL_PORT_CTRL.ENABLE = 1
  let s := (s.writeReg (GL_PORT_CTRL p) v).set (GL_PORT_CTRL p) GL_PORT_CTRL.RECAL 0
  if on then
    let s := if s.gpState p = gpOff ∧ (s.portDef p).isSome then s.glTrain p s.clk else s
    if fget v GL_PORT_CTRL.RECAL = 1 then s.glRecal p else s
  else if s.gpState p = gpOff then s
  else
    let s := if s.gpState p = gpUp then s.sendLinkCtrl p 4 else s
    ((s.glDrop p (s.get (GL_PORT_STATUS p) GL_PORT_STATUS.LAST_DOWN)).gpTo p gpOff)

/-- A write of the Lantern to any register, with what the register's chapter makes of it. -/
def State.lanternReg (s : State) (a : Nat) (v : Word) : State :=
  match chOf a with
  | some (n, o) => if o = 0x48 then s.taskCmd n (fget v CH_TASK_CMD.CMD) (fget v CH_TASK_CMD.TAG) else s.writeReg a v
  | none =>
    if a = GM_INVAL then
      if fget v GM_INVAL.SCOPE = 0 then s
      else s.invalStart (fget v GM_INVAL.SCOPE) (fget v GM_INVAL.XLAT) (fget v GM_INVAL.LOG2_SIZE)
    else if a = TN_CTRL then
      let s := s.writeReg a v
      if fget v TN_CTRL.FLUSH = 1 then
        match execTunFlush s with
        | .next s => s
        | _ => s
      else s
    else if a = LN_HOSTBOOT then s.hostboot v
    else if y4xWin 8 ≤ a ∧ a < y4xWin 9 then s.syWrite a v
    else
      match (List.range 24).find? fun p => GL_PORT_CTRL p = a with
      | some p => s.glPortWrite p v
      | none => s.writeReg a v

/-- REGISTER_WRITE (R7, R384): the writer must be one that the register's chapter names. A task that writes where no register is faults; the
page through which it came has been translated (R201), and its virtual address is no operand. -/
def execRegisterWrite (w : Writer) (addr : Nat) (v : Word) (s : State) : Out :=
  match w with
  | .lantern => .next (s.lanternReg addr v)
  | .host =>
    if addr = LN_HOSTBOOT then .next (s.hostboot v)
    else if hostMayWrite addr then .next (s.syWrite addr v)
    else .next s
  | .task n t =>
    if addr % 8 ≠ 0 ∨ (regRow addr).isNone then
      let (w, s) := s.free
      .next (s.memFault n t gmNoTarget w.toNat 1 (s.task n t).nextId)
    else .next (if taskMayWrite addr then s.writeReg addr v else s)

/-! ### Ten nanoseconds of reference time (R9, R236, R388; log entry 1) -/

/-- Whether the array stands at a step whose operands are not there (R60). -/
def State.feedStall (s : State) (n : Nat) : Bool :=
  ((s.ch n).arr.any fun a => a.phase == .inArray) &&
    match execArrayStep (Fin.ofNat 1024 n) s with
    | .next s' => decide (s' = s)
    | _ => false

/-- Whether an instruction waits for its slot (R99, Table 2). -/
def State.slotWaiter (s : State) (n : Nat) : Option ArrInstr :=
  ((s.ch n).arr.find? fun a => a.phase == .queued || a.phase == .regionWait || a.phase == .read).filter fun a =>
    !a.again && (if aCont a.word then s.slotPhase n (aSlot a.word) != phHeld else s.slotPhase n (aSlot a.word) != phFree)

/-- For whom the condition of a chamber's T event holds (R387 to R389, Table 3). -/
def State.tickWhose (s : State) (n ev : Nat) : List Whose :=
  let tags (l : List Nat) : List Whose := l.map .tag
  let when_ (b : Bool) (l : List Whose) : List Whose := if b then l else []
  let starts := (List.range 4).flatMap fun e => (s.eng n e).starts
  let inside := (s.ch n).arr.filter fun a => a.phase == .inArray || a.phase == .checking
  match ev with
  | 0x001 => [.any]
  | 0x005 => tags ((List.range 4).filter fun t => s.live n t)
  | 0x102 => when_ (s.get (AY_STATUS n) AY_STATUS.BUSY = 1) (tags (inside.map (·.tag)))
  | 0x103 => when_ (s.feedStall n) (tags (inside.map (·.tag)))
  | 0x107 => tags ((s.slotWaiter n).toList.map (·.tag))
  | 0x305 => when_ (s.get (SP_STATUS n) SP_STATUS.SPILL_STALL = 1) (tags ((s.ch n).updQ.map (·.own)))
  | 0x402 => when_ (s.get (FS_STATUS n) FS_STATUS.BUSY = 1) (tags [s.get (FS_STATUS n) FS_STATUS.TAG])
  | 0x403 => when_ (s.get (FS_STATUS n) FS_STATUS.WAIT_POCKET = 1 || s.get (FS_STATUS n) FS_STATUS.WAIT_SUMP = 1)
      (tags [s.get (FS_STATUS n) FS_STATUS.TAG])
  | 0x606 => tags ((starts.filter fun st => st.creditSince.isSome).map (·.tag))
  | 0x607 => tags (((List.range 4).flatMap fun e => ((s.eng n e).starts.filter fun st => s.startWait n e st = 2).map (·.tag))
      ++ (((s.ch n).arr.filter fun a => a.phase == .regionWait).map (·.tag)) ++ (List.range 4).filter (s.joinBlocked n))
  | 0x703 => when_ (s.arb (n * 4)).holder.isSome [.any]
  | _ =>
    if 0x708 ≤ ev ∧ ev ≤ 0x70B then
      (s.arb (n * 4 + (ev - 0x708))).waiting.map fun r => if r.ch = some n then .tag r.tag else .noTask
    else []

/-- Instances of the Y4X for which the condition of a T event holds. -/
def State.tickInst (s : State) (ev i : Nat) : Bool :=
  if ev = 0x001 then true
  else if ev = 0xA03 then (s.arb (4224 + i)).holder.isSome
  else if 0xB10 ≤ ev ∧ ev ≤ 0xB13 then s.gpState i = gpUp && (s.gport i).txq.any fun x => x.1.vc = ev - 0xB10
  else if 0xE01 ≤ ev ∧ ev ≤ 0xE05 then s.get PW_STATUS PW_STATUS.PACE_NOW = ev - 0xE00
  else if ev = 0xE06 then s.get PW_STATUS PW_STATUS.CAPPING = 1
  else if ev = 0xE07 then s.get PW_STATUS PW_STATUS.THROTTLE = 1
  else false

/-- The T events of one counter, whose PC_SEL lies at `a` and reads `sel`. -/
def State.tickCounter (s : State) (a : Nat) (sel : Word) : State :=
  let add (s : State) (k : Nat) : State := if k = 0 then s else { s with perf := s.perf.add (a + 8) k }
  let ev := fget sel PCC_SEL.EVENT
  if fget sel PCC_SEL.ENABLE = 0 ∨ fget sel PCC_SEL.BAD = 1 then s
  else
    match chOf a with
    | some (n, _) =>
      if s.get (PCC_CTRL n) PCC_CTRL.FREEZE = 1 then s else add s (bit ((s.tickWhose n ev).any (selTakes sel)))
    | none =>
      if s.get PCX_CTRL PCX_CTRL.FREEZE = 1 then s
      else
        let i := fget sel PCX_SEL.INSTANCE
        if i = 0x3FF then add s ((List.range ((y4xInstances ev).getD 0)).filter (s.tickInst ev)).length
        else add s (bit (s.tickInst ev i))

/-- Whether an address is that of a PC_SEL register. -/
def isPcSel (a : Nat) : Bool :=
  match chOf a with
  | some (_, o) => 0xC100 ≤ o && o < 0xC200 && o % 0x20 = 0
  | none => y4xWin 10 + 0x100 ≤ a && a < y4xWin 10 + 0x500 && a % 0x20 = 0

/-- The chamber and tag of a CH_TASK register. -/
def taskOf (a : Nat) : Option (Nat × Nat) :=
  match chOf a with
  | some (n, o) => if 0x80 ≤ o ∧ o < 0xA0 ∧ o % 8 = 0 then some (n, (o - 0x80) / 8) else none
  | none => none

/-- The stall count of an ACTIVE task goes on: held at 0 in WAITW (R236), held while a channel retrains (R354). -/
def State.tickStall (s : State) (n t : Nat) : State :=
  if !s.live n t ∨ !s.svc.recals.isEmpty then s
  else s.modTask n t fun k =>
    match k.wait with
    | .waitw _ _ _ _ _ => { k with stall := 0 }
    | _ => { k with stall := k.stall + 1 }

/-- One tick of timebase time: TB_TIME, the T events, the stall counts. -/
def State.timeTick (s : State) : State :=
  let regs := s.regs
  let s := regs.foldl (fun (s : State) e => if isPcSel e.1 then s.tickCounter e.1 e.2 else s) s
  let s := regs.foldl (fun (s : State) e =>
    match taskOf e.1 with
    | some (n, t) => s.tickStall n t
    | none => s) s
  s.setReg TB_TIME (BitVec.ofNat 64 (s.now + 1))

/-- What the timebase slews in a tick of the reference: SLEW_PPM millionths of a tick, forward or back (R278). -/
def State.slewStep (s : State) : Int × State :=
  if s.gl.slew = 0 then (0, s.modGl fun g => { g with slewAcc := 0 })
  else
    let acc := s.gl.slewAcc + s.get GL_CTRL GL_CTRL.SLEW_PPM
    if acc < 1000000 then (0, s.modGl fun g => { g with slewAcc := acc })
    else (s.gl.slew.sign, s.modGl fun g => { g with slewAcc := acc - 1000000, slew := g.slew - g.slew.sign })

/-- What the last frequency correction, in parts per 10¹², adds or takes in a tick of the reference, where the timebase runs from it: in
HOLDOVER, and while no PPS edge has been accepted (R380). -/
def State.freqStep (s : State) : Int × State :=
  let st := s.get TB_PPS TB_PPS.STATE
  if st = 1 ∨ st = 2 then (0, s)
  else
    let acc := s.gl.freqAcc + signed 32 (s.get TB_FREQ TB_FREQ.CORR)
    let d : Int := if 1000000000000 ≤ acc then 1 else if acc ≤ -1000000000000 then -1 else 0
    (d, s.modGl fun g => { g with freqAcc := acc - d * 1000000000000 })

/-- Some ticks of timebase time. -/
def timeTicks (k : Nat) (s : State) : State :=
  match k with
  | 0 => s
  | k + 1 => timeTicks k s.timeTick

/-- One cycle of the 100 MHz reference: with power-good the timebase counts it, unless it is held, corrected and slewed (R278, R380, R381). What the
ports show and do with time follows, and the Lantern looks at what failed (R283) and
writes the logs that grew (R306). -/
def State.tick (s : State) : State :=
  let s := { s with clk := s.clk + 1 }
  if !s.pw.good then s
  else
    let s := { s with cask := { s.cask with ticks := s.cask.ticks + 1 } }
    let s : State := (s.gl.ports.map (·.1)).foldl State.showHold s.lookFailed.flushLogs.ageNand.showFollow
    let s : State := (s.sy.ports.map (·.1)).foldl (fun (s : State) p => (s.syTimer p).syMarkStall p) s
    if 0 < s.gl.slewDebt then s.modGl fun g => { g with slewDebt := g.slewDebt - 1 }
    else
      let (d, s) := s.slewStep
      let (f, s) := s.freqStep
      timeTicks (1 + d + f).toNat s

end Sys2Proof.Machine
end

