-- ==== Sys2Proof/Machine/Dispatch.lean ====
section
/-! DEFINITION. What each command does: one arm per constructor, each a call of its meaning. -/

namespace Sys2Proof.Machine

/-- The command's effect on everything but the queue. -/
def exec (i : Instr) (s : State) : Host.Outcome State Fault Refusal :=
  match i with
  | .nop n t => Sys2Proof.Machine.execNop n t s
  | .end_ n t => Sys2Proof.Machine.execEnd n t s
  | .jump n t => Sys2Proof.Machine.execJump n t s
  | .bucket n t => Sys2Proof.Machine.execBucket n t s
  | .setb n t => Sys2Proof.Machine.execSetb n t s
  | .loadb n t => Sys2Proof.Machine.execLoadb n t s
  | .bind n t => Sys2Proof.Machine.execBind n t s
  | .fence n t => Sys2Proof.Machine.execFence n t s
  | .barrier n t => Sys2Proof.Machine.execBarrier n t s
  | .barrierReread n t => Sys2Proof.Machine.execBarrierReread n t s
  | .waitw n t => Sys2Proof.Machine.execWaitw n t s
  | .waitwReread n t => Sys2Proof.Machine.execWaitwReread n t s
  | .chWaitTimeout n t => Sys2Proof.Machine.execChWaitTimeout n t s
  | .sarm n t => Sys2Proof.Machine.execSarm n t s
  | .swait n t => Sys2Proof.Machine.execSwait n t s
  | .merge n t => Sys2Proof.Machine.execMerge n t s
  | .scatterIn n t => Sys2Proof.Machine.execScatterIn n t s
  | .array n t => Sys2Proof.Machine.execArray n t s
  | .chain n t => Sys2Proof.Machine.execChain n t s
  | .sumpOpen n t => Sys2Proof.Machine.execSumpOpen n t s
  | .sumpDrain n t => Sys2Proof.Machine.execSumpDrain n t s
  | .gvCheck n t => Sys2Proof.Machine.execGvCheck n t s
  | .gvJoin n t => Sys2Proof.Machine.execGvJoin n t s
  | .instructionFetch n t => Sys2Proof.Machine.execInstructionFetch n t s
  | .privilegedPrefetchIssue n t => Sys2Proof.Machine.execPrivilegedPrefetchIssue n t s
  | .arrayEnter n => Sys2Proof.Machine.execArrayEnter n s
  | .arrayStep n => Sys2Proof.Machine.execArrayStep n s
  | .checksComplete n slot defects => Sys2Proof.Machine.execChecksComplete n slot defects s
  | .drainComplete n slot => Sys2Proof.Machine.execDrainComplete n slot s
  | .lauterRead n => Sys2Proof.Machine.execLauterRead n s
  | .spargeRegionWaitEnd n => Sys2Proof.Machine.execSpargeRegionWaitEnd n s
  | .sumpUpdate n bank ecc => Sys2Proof.Machine.execSumpUpdate n bank ecc s
  | .spillRunWritten n => Sys2Proof.Machine.execSpillRunWritten n s
  | .sumpDrainStart n => Sys2Proof.Machine.execSumpDrainStart n s
  | .sumpMergePass n => Sys2Proof.Machine.execSumpMergePass n s
  | .chainStart n => Sys2Proof.Machine.execChainStart n s
  | .chainRowDone n => Sys2Proof.Machine.execChainRowDone n s
  | .chainComplete n => Sys2Proof.Machine.execChainComplete n s
  | .gvJoinRead n t => Sys2Proof.Machine.execGvJoinRead n t s
  | .taskCreate n => Sys2Proof.Machine.execTaskCreate n s
  | .taskPreempt n t => Sys2Proof.Machine.execTaskPreempt n t s
  | .preemptEnginesStopped n t => Sys2Proof.Machine.execPreemptEnginesStopped n t s
  | .preemptSaveWritten n t => Sys2Proof.Machine.execPreemptSaveWritten n t s
  | .taskResume n t => Sys2Proof.Machine.execTaskResume n t s
  | .resumeRestored n t => Sys2Proof.Machine.execResumeRestored n t s
  | .taskAbort n t => Sys2Proof.Machine.execTaskAbort n t s
  | .taskRelease n t => Sys2Proof.Machine.execTaskRelease n t s
  | .abortComplete n t => Sys2Proof.Machine.execAbortComplete n t s
  | .xlatWalkDone n e => Sys2Proof.Machine.execXlatWalkDone n e s
  | .tunFillDone line => Sys2Proof.Machine.execTunFillDone line s
  | .scrubRead store upsets => Sys2Proof.Machine.execScrubRead store upsets s
  | .cellarRowCopyEnd n => Sys2Proof.Machine.execCellarRowCopyEnd n s
  | .g7RegionCopyEnd => Sys2Proof.Machine.execG7RegionCopyEnd s
  | .g7RegionRetire => Sys2Proof.Machine.execG7RegionRetire s
  | .gmInvalAll => Sys2Proof.Machine.execGmInvalAll s
  | .gmInvalContext x => Sys2Proof.Machine.execGmInvalContext x s
  | .gmInvalRange x log2 => Sys2Proof.Machine.execGmInvalRange x log2 s
  | .gmInvalDone => Sys2Proof.Machine.execGmInvalDone s
  | .tunFlush => Sys2Proof.Machine.execTunFlush s
  | .tunFlushDone => Sys2Proof.Machine.execTunFlushDone s
  | .g7Refresh c allBank => Sys2Proof.Machine.execG7Refresh c allBank s
  | .g7TempRead dev temp => Sys2Proof.Machine.execG7TempRead dev temp s
  | .startAccept n e => Sys2Proof.Machine.execStartAccept n e s
  | .transferIssue n e => Sys2Proof.Machine.execTransferIssue n e s
  | .transferComplete n e k upsets => Sys2Proof.Machine.execTransferComplete n e k upsets s
  | .creditWaitEnd n e => Sys2Proof.Machine.execCreditWaitEnd n e s
  | .multicastRun n e => Sys2Proof.Machine.execMulticastRun n e s
  | .spargeElementArrive n r => Sys2Proof.Machine.execSpargeElementArrive n r s
  | .spargeDeliveryEnd g r => Sys2Proof.Machine.execSpargeDeliveryEnd g r s
  | .stallWatchdogBite n t => Sys2Proof.Machine.execStallWatchdogBite n t s
  | .arbPhase a => Sys2Proof.Machine.execArbPhase a s
  | .arbRequestDrop a => Sys2Proof.Machine.execArbRequestDrop a s
  | .holdWatchdogBite a => Sys2Proof.Machine.execHoldWatchdogBite a s
  | .forcedReleaseDone a => Sys2Proof.Machine.execForcedReleaseDone a s
  | .abortTimeout w => Sys2Proof.Machine.execAbortTimeout w s
  | .stepHeaderArrive ticket => Sys2Proof.Machine.execStepHeaderArrive ticket s
  | .stepChoose => Sys2Proof.Machine.execStepChoose s
  | .stepDeliver => Sys2Proof.Machine.execStepDeliver s
  | .stepEnd => Sys2Proof.Machine.execStepEnd s
  | .stepFail => Sys2Proof.Machine.execStepFail s
  | .tokenIdsArrive ticket ids drafts => Sys2Proof.Machine.execTokenIdsArrive ticket ids drafts s
  | .glLinkCtrl p a => Sys2Proof.Machine.execGlLinkCtrl p a s
  | .glHello p a => Sys2Proof.Machine.execGlHello p a s
  | .glFrameReceive p a => Sys2Proof.Machine.execGlFrameReceive p a s
  | .readReq => Sys2Proof.Machine.execReadReq s
  | .write => Sys2Proof.Machine.execWrite s
  | .atomic => Sys2Proof.Machine.execAtomic s
  | .msgStepHeader => Sys2Proof.Machine.execMsgStepHeader s
  | .msgFailureNotice => Sys2Proof.Machine.execMsgFailureNotice s
  | .msgTokenIds => Sys2Proof.Machine.execMsgTokenIds s
  | .msgPassageHeartbeat => Sys2Proof.Machine.execMsgPassageHeartbeat s
  | .msgCutNotice => Sys2Proof.Machine.execMsgCutNotice s
  | .msgRestartProbe => Sys2Proof.Machine.execMsgRestartProbe s
  | .response => Sys2Proof.Machine.execResponse s
  | .e2eTimeout tag => Sys2Proof.Machine.execE2eTimeout tag s
  | .neighbour p => Sys2Proof.Machine.execNeighbour p s
  | .lanternHeartbeat => Sys2Proof.Machine.execLanternHeartbeat s
  | .beacon => Sys2Proof.Machine.execBeacon s
  | .propose => Sys2Proof.Machine.execPropose s
  | .ack => Sys2Proof.Machine.execAck s
  | .commit => Sys2Proof.Machine.execCommit s
  | .join => Sys2Proof.Machine.execJoin s
  | .sync p => Sys2Proof.Machine.execSync p s
  | .pdelayReq p => Sys2Proof.Machine.execPdelayReq p s
  | .pdelayRsp p => Sys2Proof.Machine.execPdelayRsp p s
  | .glAckDue p => Sys2Proof.Machine.execGlAckDue p s
  | .glKeepalive p => Sys2Proof.Machine.execGlKeepalive p s
  | .glCreditStall p => Sys2Proof.Machine.execGlCreditStall p s
  | .glTrainingDone p lanes => Sys2Proof.Machine.execGlTrainingDone p lanes s
  | .glTrainingTimeout p => Sys2Proof.Machine.execGlTrainingTimeout p s
  | .glHelloSend p => Sys2Proof.Machine.execGlHelloSend p s
  | .glHelloLost p => Sys2Proof.Machine.execGlHelloLost p s
  | .glMiswiredRecheck p => Sys2Proof.Machine.execGlMiswiredRecheck p s
  | .glPortDown p cause => Sys2Proof.Machine.execGlPortDown p cause s
  | .glHoldExpire p => Sys2Proof.Machine.execGlHoldExpire p s
  | .glRecal p => Sys2Proof.Machine.execGlRecal p s
  | .glEnable p => Sys2Proof.Machine.execGlEnable p s
  | .pdelayTimer p => Sys2Proof.Machine.execPdelayTimer p s
  | .syncSend => Sys2Proof.Machine.execSyncSend s
  | .syncLoss => Sys2Proof.Machine.execSyncLoss s
  | .membershipHeartbeatTimer => Sys2Proof.Machine.execMembershipHeartbeatTimer s
  | .memberUnheard addr => Sys2Proof.Machine.execMemberUnheard addr s
  | .beaconLost => Sys2Proof.Machine.execBeaconLost s
  | .changeTimeout => Sys2Proof.Machine.execChangeTimeout s
  | .freeze => Sys2Proof.Machine.execFreeze s
  | .passageHeartbeatSend => Sys2Proof.Machine.execPassageHeartbeatSend s
  | .passageUpstreamLost => Sys2Proof.Machine.execPassageUpstreamLost s
  | .restartProbeSend => Sys2Proof.Machine.execRestartProbeSend s
  | .syLinkCtrl p a => Sys2Proof.Machine.execSyLinkCtrl p a s
  | .syHello p a => Sys2Proof.Machine.execSyHello p a s
  | .syDataReceive p a => Sys2Proof.Machine.execSyDataReceive p a s
  | .open_ p => Sys2Proof.Machine.execOpen p s
  | .more p => Sys2Proof.Machine.execMore p s
  | .cancel p => Sys2Proof.Machine.execCancel p s
  | .submissionIncomplete p tag => Sys2Proof.Machine.execSubmissionIncomplete p tag s
  | .tokFrameSend p => Sys2Proof.Machine.execTokFrameSend p s
  | .evtFrameSend => Sys2Proof.Machine.execEvtFrameSend s
  | .mgmtRead => Sys2Proof.Machine.execMgmtRead s
  | .mgmtWrite => Sys2Proof.Machine.execMgmtWrite s
  | .mgmtCommand => Sys2Proof.Machine.execMgmtCommand s
  | .cons => Sys2Proof.Machine.execCons s
  | .syAckDue p => Sys2Proof.Machine.execSyAckDue p s
  | .syKeepalive p => Sys2Proof.Machine.execSyKeepalive p s
  | .syTrainingDone p lanes => Sys2Proof.Machine.execSyTrainingDone p lanes s
  | .syHelloSend p => Sys2Proof.Machine.execSyHelloSend p s
  | .syTrainingTimeout p => Sys2Proof.Machine.execSyTrainingTimeout p s
  | .syPortDown p cause => Sys2Proof.Machine.execSyPortDown p cause s
  | .syRecal p => Sys2Proof.Machine.execSyRecal p s
  | .syEnable p => Sys2Proof.Machine.execSyEnable p s
  | .syMboxIn v => Sys2Proof.Machine.execSyMboxIn v s
  | .syMboxOut => Sys2Proof.Machine.execSyMboxOut s
  | .syEvtPop => Sys2Proof.Machine.execSyEvtPop s
  | .caskPatrolRead die plane block page found => Sys2Proof.Machine.execCaskPatrolRead die plane block page found s
  | .staticWearLevel => Sys2Proof.Machine.execStaticWearLevel s
  | .nandProgramFail die plane block => Sys2Proof.Machine.execNandProgramFail die plane block s
  | .nandEraseFail die plane block => Sys2Proof.Machine.execNandEraseFail die plane block s
  | .nandUncorrRead die plane block => Sys2Proof.Machine.execNandUncorrRead die plane block s
  | .objectStore v => Sys2Proof.Machine.execObjectStore v s
  | .powerGood => Sys2Proof.Machine.execPowerGood s
  | .bootCaskReady dirOk fwA fwB => Sys2Proof.Machine.execBootCaskReady dirOk fwA fwB s
  | .bootG7Trained failed v => Sys2Proof.Machine.execBootG7Trained failed v s
  | .bootSelftestDone fails scripts => Sys2Proof.Machine.execBootSelftestDone fails scripts s
  | .bootGalleryJoined v => Sys2Proof.Machine.execBootGalleryJoined v s
  | .bootModelLoaded => Sys2Proof.Machine.execBootModelLoaded s
  | .idKeygenDone pufOk => Sys2Proof.Machine.execIdKeygenDone pufOk s
  | .hostbootWrite w => Sys2Proof.Machine.execHostbootWrite w s
  | .stageDone recipe model => Sys2Proof.Machine.execStageDone recipe model s
  | .switchTicketsReturned => Sys2Proof.Machine.execSwitchTicketsReturned s
  | .consoleStatus c => Sys2Proof.Machine.execConsoleStatus c s
  | .consoleRead c addr n => Sys2Proof.Machine.execConsoleRead c addr n s
  | .consoleDir c => Sys2Proof.Machine.execConsoleDir c s
  | .consoleLog c n => Sys2Proof.Machine.execConsoleLog c n s
  | .consoleAout c mode q sel => Sys2Proof.Machine.execConsoleAout c mode q sel s
  | .consoleSelftest c block chamber force v => Sys2Proof.Machine.execConsoleSelftest c block chamber force v s
  | .selftestDone fails => Sys2Proof.Machine.execSelftestDone fails s
  | .consoleRecv c kind slot bytes => Sys2Proof.Machine.execConsoleRecv c kind slot bytes s
  | .consoleHex c digits => Sys2Proof.Machine.execConsoleHex c digits s
  | .consoleRecvAbort c => Sys2Proof.Machine.execConsoleRecvAbort c s
  | .mailboxData => Sys2Proof.Machine.execMailboxData s
  | .mailboxEnd => Sys2Proof.Machine.execMailboxEnd s
  | .mailboxAbort => Sys2Proof.Machine.execMailboxAbort s
  | .consoleRemove c kind slot => Sys2Proof.Machine.execConsoleRemove c kind slot s
  | .consoleActivate c slot => Sys2Proof.Machine.execConsoleActivate c slot s
  | .consoleStage c slot => Sys2Proof.Machine.execConsoleStage c slot s
  | .consoleSwitch c keep => Sys2Proof.Machine.execConsoleSwitch c keep s
  | .consoleFence c n => Sys2Proof.Machine.execConsoleFence c n s
  | .fenceMappingDone => Sys2Proof.Machine.execFenceMappingDone s
  | .consoleReload c n => Sys2Proof.Machine.execConsoleReload c n s
  | .consoleFwupdate c slotB v => Sys2Proof.Machine.execConsoleFwupdate c slotB v s
  | .fwupdateTimeout => Sys2Proof.Machine.execFwupdateTimeout s
  | .consoleRecalGallery c p => Sys2Proof.Machine.execConsoleRecalGallery c p s
  | .consoleRecalSirdy c p => Sys2Proof.Machine.execConsoleRecalSirdy c p s
  | .consoleRecalG7 c ch => Sys2Proof.Machine.execConsoleRecalG7 c ch s
  | .g7RetrainDone ok => Sys2Proof.Machine.execG7RetrainDone ok s
  | .consoleRetireCellar c n tier row => Sys2Proof.Machine.execConsoleRetireCellar c n tier row s
  | .consoleRetireG7 c region => Sys2Proof.Machine.execConsoleRetireG7 c region s
  | .consoleRetireCask c die plane block => Sys2Proof.Machine.execConsoleRetireCask c die plane block s
  | .consoleSpareClear c n => Sys2Proof.Machine.execConsoleSpareClear c n s
  | .consoleSpareBad c n => Sys2Proof.Machine.execConsoleSpareBad c n s
  | .consoleRetlogClear c unit => Sys2Proof.Machine.execConsoleRetlogClear c unit s
  | .consoleLeave c => Sys2Proof.Machine.execConsoleLeave c s
  | .leaveCommitted => Sys2Proof.Machine.execLeaveCommitted s
  | .consoleReset c => Sys2Proof.Machine.execConsoleReset c s
  | .consoleSet c f v => Sys2Proof.Machine.execConsoleSet c f v s
  | .consoleChallenge c => Sys2Proof.Machine.execConsoleChallenge c s
  | .consoleFuse c v => Sys2Proof.Machine.execConsoleFuse c v s
  | .enrol programmed => Sys2Proof.Machine.execEnrol programmed s
  | .revoke programmed => Sys2Proof.Machine.execRevoke programmed s
  | .raiseFloor programmed => Sys2Proof.Machine.execRaiseFloor programmed s
  | .attest c nonce => Sys2Proof.Machine.execAttest c nonce s
  | .attestServe => Sys2Proof.Machine.execAttestServe s
  | .endorse c => Sys2Proof.Machine.execEndorse c s
  | .lanternWatchdogBite => Sys2Proof.Machine.execLanternWatchdogBite s
  | .senseTurnOn => Sys2Proof.Machine.execSenseTurnOn s
  | .railInWindow rail => Sys2Proof.Machine.execRailInWindow rail s
  | .railSequencingFail rail => Sys2Proof.Machine.execRailSequencingFail rail s
  | .railFault rail => Sys2Proof.Machine.execRailFault rail s
  | .powerRestart => Sys2Proof.Machine.execPowerRestart s
  | .undervoltage => Sys2Proof.Machine.execUndervoltage s
  | .overvoltage => Sys2Proof.Machine.execOvervoltage s
  | .paceDecision vin iin pin => Sys2Proof.Machine.execPaceDecision vin iin pin s
  | .fastLimit => Sys2Proof.Machine.execFastLimit s
  | .paceSlewDone => Sys2Proof.Machine.execPaceSlewDone s
  | .thermalThrottle x temp => Sys2Proof.Machine.execThermalThrottle x temp s
  | .thermalTrip x temp => Sys2Proof.Machine.execThermalTrip x temp s
  | .tripRecover => Sys2Proof.Machine.execTripRecover s
  | .slowInputChange x level => Sys2Proof.Machine.execSlowInputChange x level s
  | .slowInputGlitch x => Sys2Proof.Machine.execSlowInputGlitch x s
  | .resetNLow => Sys2Proof.Machine.execResetNLow s
  | .resetNHigh => Sys2Proof.Machine.execResetNHigh s
  | .extLimitChange level => Sys2Proof.Machine.execExtLimitChange level s
  | .extLimitDeferEnd => Sys2Proof.Machine.execExtLimitDeferEnd s
  | .ppsEdge => Sys2Proof.Machine.execPpsEdge s
  | .ppsHoldover => Sys2Proof.Machine.execPpsHoldover s
  | .ppsStuck => Sys2Proof.Machine.execPpsStuck s
  | .rateMeasure die rate => Sys2Proof.Machine.execRateMeasure die rate s
  | .pcFreeze b freeze => Sys2Proof.Machine.execPcFreeze b freeze s
  | .pcClear b => Sys2Proof.Machine.execPcClear b s
  | .pcWindowBoundary b => Sys2Proof.Machine.execPcWindowBoundary b s
  | .registerWrite w addr v => Sys2Proof.Machine.execRegisterWrite w addr v s
  | .illegalOpcodeIssue n t => Sys2Proof.Machine.execIllegalOpcodeIssue n t s
  | .auxLoss => Sys2Proof.Machine.execAuxLoss s
  | .overvoltageRecover => Sys2Proof.Machine.execOvervoltageRecover s
  | .throttleRelease x => Sys2Proof.Machine.execThrottleRelease x s
  | .aoutFullScaleEnd => Sys2Proof.Machine.execAoutFullScaleEnd s
  | .aoutQuantityRefresh => Sys2Proof.Machine.execAoutQuantityRefresh s
  | .fwupdateHandoverDone => Sys2Proof.Machine.execFwupdateHandoverDone s
  | .uartCharacter c => Sys2Proof.Machine.execUartCharacter c s

end Sys2Proof.Machine
end

