-- ==== Sys2Proof/Safety.lean ====
section
/-! DEFINITION. The terms that statements use: what counts as a safe run, when a tile instruction issues, and what a command
leaves as it was. -/

namespace Sys2Proof.Machine

/-- A run of `k` steps reaches a next state at each. -/
def runs : Nat → State → Option State
  | 0, s => some s
  | k + 1, s =>
    match step s with
    | .next s' => runs k s'
    | _ => none

/-- Safe for `k` steps. -/
def Safe (k : Nat) (s : State) : Prop := (runs k s).isSome

/-- It is the turn of tag `t` (R173, R174), and its next instruction is `w`, fetched at `pc`, with opcode `op` and no reserved
bit set. -/
abbrev State.issues (s : State) (n t op : Nat) (w : BitVec 128) (pc : Nat) : Prop :=
  s.turnOf n t = true ∧ (s.task n t).head = some ⟨pc, some w⟩ ∧ opcode w = op ∧ reservedSet w = false

/-- An issue is counted in CH_ISSUED and its tag shown in LAST_TAG (R190). -/
abbrev IssueSeen (n t : Nat) (s u : State) : Prop :=
  u.get (CH_ISSUED n) count32 = min (s.get (CH_ISSUED n) count32 + 1) 0xFFFFFFFF
    ∧ u.get (CH_STATUS n) CH_STATUS.LAST_TAG = t

/-- The PC has moved on by one instruction, unless a prefetch was issued ahead (R168, R178). -/
abbrev PcNext (n t pc : Nat) (s u : State) : Prop :=
  (s.task n t).doneAhead = [] → u.get (CH_TASK_PC n t) CH_TASK_PC.PC = (pc + 16) % 2 ^ 48

/-- Every byte of memory, the check bytes of every codeword and the copies of its poison flag read as before. -/
def KeepsMem (s u : State) : Prop :=
  ∀ a, u.byte a = s.byte a ∧ u.seen a = s.seen a ∧ u.flags a = s.flags a

/-- No chamber changes, and nothing that memory stores. -/
abbrev Apart (s u : State) : Prop :=
  u.mem = s.mem ∧ u.chk = s.chk ∧ u.poison = s.poison ∧ u.tunNoise = s.tunNoise ∧ u.chambers = s.chambers

/-- Every register but those that `p` names reads as before. -/
def KeepsRegs (p : Nat → Prop) (s u : State) : Prop := ∀ a, ¬ p a → u.reg a = s.reg a

/-- Whether an address lies in chamber `n`'s window (R385). -/
def InWindow (n a : Nat) : Prop := chWin n ≤ a ∧ a < chWin n + 0x10000

/-- Only chamber `n` is changed: its registers, what it holds, its counters. -/
def Local (n : Nat) (s u : State) : Prop :=
  u = { s with regs := u.regs, perf := u.perf, chambers := u.chambers }
    ∧ KeepsRegs (InWindow n) s u ∧ ∀ m, m ≠ n → u.ch m = s.ch m

/-- The stored memory is in its canonical form: addresses strictly rising, no entry equal to what an unlisted one reads
as. -/
abbrev Memory.wf (s : State) : Prop :=
  kwf (fun _ => emptyByte) s.mem = true ∧ kwf (fun _ => (0 : Byte)) s.chk = true ∧ kwf (fun _ => (0 : Byte)) s.poison = true
    ∧ kwf (fun _ => (0 : Byte)) s.tunNoise = true

/-- `i` is the integer nearest `(-1)^neg × m × 2^e`, of two equally near the even one. -/
def NearestEven (neg : Bool) (m : Nat) (e i : Int) : Prop :=
  let d : Int := 2 ^ (-e).toNat
  let x : Int := (if neg then -(m : Int) else m) * 2 ^ e.toNat
  2 * (x - i * d).natAbs < d.natAbs ∨ (2 * (x - i * d).natAbs = d.natAbs ∧ i % 2 = 0)

/-- A session's command is served: IO rail and power-good up, no hand-over of firmware, no earlier command of the session
still running, no line waiting that spells another, a firmware running in a stage that serves it (R339, R340, R342, R353). -/
abbrev State.serves (s : State) (c : Session) (stages : Nat → Bool) (i : Instr) : Prop :=
  s.pw.rails.getD 1 false = true ∧ s.pw.good = true ∧ s.svc.fwTo = none ∧ s.sessionBusy c = false ∧ s.lineFits c i = true
    ∧ s.fwRuns = true ∧ stages s.stage = true

/-- A command has its reply: its session, values, bytes and final code. Lines of the session behind it that spell no command have theirs,
each an error code alone, at once (R340). -/
abbrev Replied (c : Session) (vals : List Word) (data : List Byte) (code : Nat) (s u : State) : Prop :=
  ∃ more, u.svc.replies = s.svc.replies ++ ⟨c, vals, data, code⟩ :: more ∧ ∀ r ∈ more, ∃ e, r = ⟨c, [], [], e⟩

end Sys2Proof.Machine
end

