-- ==== Sys2Proof/Certificates/Slice0/Obligations.lean ====
section
/-! DEFINITION. The statements about the model that the provers are given. -/

open Sys2Proof Sys2Proof.Machine

/-! ### The queue, reset, memory -/

/-- Model's own (log entry 1): the command at the front of the queue acts on the state with the rest of the queue. -/
def Obligations.StepRunsFrontCommand : Prop :=
  ∀ (c : Instr) (q : List Instr) (s : State), s.pending = c :: q → step s = exec c { s with pending := q }

/-! ### Tile instructions at their issue (chapter 9) -/

/-- R169, R172, R174, R179, R180, R181: NOP, END, JUMP, BUCKET, SETB, LOADB and BIND, each at its turn, complete as their
definitions say, in their own chamber. -/
def Obligations.ControlInstructionsComplete : Prop :=
  ∀ (n : Ch) (t : Tag) (s : State) (w : BitVec 128) (pc : Nat),
    (s.issues n t 0x00 w pc →
      ∃ u, exec (.nop n t) s = .next u ∧ IssueSeen n t s u ∧ PcNext n t pc s u ∧ Local n s u
        ∧ (u.task n t).window = (s.task n t).window)
  ∧ (s.issues n t 0x01 w pc → (s.task n t).window = [] →
      (∀ i, i < 2 → s.slotOpen n i = true → (s.slot n i).last.tag ≠ t) →
      ∃ u, exec (.end_ n t) s = .next u ∧ IssueSeen n t s u ∧ Local n s u
        ∧ u.tstate n t = tEnded ∧ u.get (CH_TASK n t) CH_TASK.END_CODE = 0 ∧ (u.task n t).window = [])
  ∧ (s.issues n t 0x02 w pc → jumpTo pc (signed 32 (wf w 63 32)) ≠ pc + 16 →
      ∃ u, exec (.jump n t) s = .next u ∧ IssueSeen n t s u ∧ Local n s u
        ∧ u.get (CH_TASK_PC n t) CH_TASK_PC.PC = jumpTo pc (signed 32 (wf w 63 32))
        ∧ (u.task n t).fetched = [] ∧ (u.task n t).fetchPc = jumpTo pc (signed 32 (wf w 63 32)))
  ∧ (s.issues n t 0x02 w pc → jumpTo pc (signed 32 (wf w 63 32)) = pc + 16 →
      ∃ u, exec (.jump n t) s = .next u ∧ IssueSeen n t s u ∧ PcNext n t pc s u ∧ Local n s u)
  ∧ (s.issues n t 0x03 w pc →
      let i := min (cdiv (s.bound n t (wf w 11 9)) (2 ^ wf w 16 12)) (wf w 20 17)
      let a := jumpTo pc ((i * wf w 47 32 : Nat) : Int)
      ∃ u, exec (.bucket n t) s = .next u ∧ IssueSeen n t s u ∧ Local n s u
        ∧ (a ≠ pc + 16 → u.get (CH_TASK_PC n t) CH_TASK_PC.PC = a ∧ (u.task n t).fetched = [])
        ∧ (a = pc + 16 → PcNext n t pc s u))
  ∧ (s.issues n t 0x04 w pc →
      ∃ u, exec (.setb n t) s = .next u ∧ IssueSeen n t s u ∧ PcNext n t pc s u ∧ Local n s u
        ∧ u.bound n t (wf w 11 9) = wf w 63 32)
  ∧ (∀ d p k s', s.issues n t 0x05 w pc → wf w 63 16 % 4 = 0 → s.consume n t (wf w 63 16) 4 = (.ok d p k, s') →
      (s'.task n t).fetched ≠ [] →
      ∃ u, exec (.loadb n t) s = .next u ∧ IssueSeen n t s' u ∧ Local n s' u
        ∧ u.bound n t (wf w 11 9) = ofBytes d % 2 ^ 32)
  ∧ (s.issues n t 0x06 w pc →
      let x : Int := (s.bound n t (wf w 11 9) : Int) + signed 32 (wf w 63 32)
      (nbit w.toNat 20 = true → 0 ≤ x → x < 2 ^ 24 →
        ∃ u, exec (.bind n t) s = .next u ∧ IssueSeen n t s u ∧ PcNext n t pc s u ∧ Local n s u
          ∧ (u.get (FS_VREF1 n t (wf w 14 12)) FS_VREF1.BOUND : Int) = x)
      ∧ (nbit w.toNat 20 = false → wf w 19 17 ≤ 4 → 0 ≤ x → x < 2 ^ 20 →
        ∃ u, exec (.bind n t) s = .next u ∧ IssueSeen n t s u ∧ PcNext n t pc s u ∧ Local n s u
          ∧ u.desc n t (wf w 16 12) = dWithBound (s.desc n t (wf w 16 12)) (wf w 19 17) x.toNat
          ∧ (dBound (u.desc n t (wf w 16 12)) (wf w 19 17) : Int) = x))

/-- R168, R169, R178: a fetch appends what it read, and the prefetches issued ahead at the head are passed over; an opcode outside Table 1 aborts its task, a prefetch marked PRIV joins its
engine's issue queue ahead of its turn. -/
def Obligations.FetchAndIllegalOpcodeComplete : Prop :=
  ∀ (n : Ch) (t : Tag) (s : State),
    (∀ d p k s', s.live n t = true → (s.task n t).fetched.length < 32 →
      (∀ f, (s.task n t).fetched.getLast? = some f → f.word ≠ none) → (s.task n t).fetchPc % 16 = 0 →
      s.consume n t (s.task n t).fetchPc 16 = (.ok d p k, s') →
      ∃ u, exec (.instructionFetch n t) s = .next u ∧ Local n s' u
        ∧ (let l := (s'.task n t).fetched ++ [⟨(s.task n t).fetchPc, some (BitVec.ofNat 128 (ofBytes d))⟩]
           ∃ k, (u.task n t).fetched = l.drop k ∧ ∀ f ∈ l.take k, f.pc ∈ (s'.task n t).doneAhead)
        ∧ (u.task n t).fetchPc = ((s.task n t).fetchPc + 16) % 2 ^ 48)
  ∧ (∀ pc w, s.turnOf n t = true → (s.task n t).head = some ⟨pc, some w⟩ → assigned w = none →
      ∃ u, exec (.illegalOpcodeIssue n t) s = .next u ∧ Local n s u
        ∧ u.tstate n t = tAborting ∧ (u.task n t).abortCode = chIllegalOpcode ∧ (u.task n t).abortPc = pc
        ∧ (u.task n t).window = (s.task n t).window)
  ∧ (∀ pc w i, (s.task n t).prefetch = some (pc, w, i) → s.live n t = true → s.get (CH_CTRL n) CH_CTRL.HOLD = 0 →
      (s.task n t).window.length < 16 → s.room n t w = true →
      let e := wf w 15 14
      ∃ u st, exec (.privilegedPrefetchIssue n t) s = .next u ∧ IssueSeen n t s u ∧ Local n s u
        ∧ (u.eng n e).queue = (s.eng n e).queue ++ [st]
        ∧ st.id = (s.task n t).nextId + i ∧ st.tag = t.val ∧ st.desc = wf w 13 9 ∧ st.priv = true
        ∧ st.kind = (if e < 2 then .copyRead else if e = 2 then .fill else .receive))

/-- R175, R176, R177: FENCE, BARRIER, WAITW, their re-reads and the WAITW timeout, each where it passes and where it waits. -/
def Obligations.SyncInstructionsComplete : Prop :=
  ∀ (n : Ch) (t : Tag) (s : State) (w : BitVec 128) (pc : Nat),
    (s.issues n t 0x10 w pc →
      ∃ u, exec (.fence n t) s = .next u ∧ IssueSeen n t s u ∧ PcNext n t pc s u ∧ Local n s u
        ∧ ((s.task n t).window = [] → (u.task n t).wait = .none ∧ (u.task n t).window = [])
        ∧ ((∃ i ∈ (s.task n t).window, i.id < (s.task n t).nextId ∧ opcode i.word ≠ 0x21
              ∧ fenceNames (wf w 16 9) (opcode i.word / 16) = true) →
            (∀ i ∈ (s.task n t).window, i.id < (s.task n t).nextId) →
            (u.task n t).wait = .fence (s.task n t).nextId))
  ∧ (∀ d p k s', s.issues n t 0x11 w pc → wf w 31 16 ≠ 0 →
      let va := s.get (CH_BAR_BASE n) CH_BAR_BASE.BASE * 64 + 64 * wf w 15 9
      s.barrierAdd n t va = (.ok d p k, s') → (s'.task n t).fetched ≠ [] →
      let target := (ofBytes d / wf w 31 16 + 1) * wf w 31 16
      ∃ u, exec (.barrier n t) s = .next u ∧ IssueSeen n t s' u ∧ Local n s' u
        ∧ (target ≤ ofBytes d + 1 → ∀ i ∈ (u.task n t).window, i.id ≠ (s'.task n t).nextId)
        ∧ (ofBytes d + 1 < target → (u.task n t).wait = .barrier (s'.task n t).nextId va target))
  ∧ (∀ id va target d p k s', (s.task n t).wait = .barrier id va target → s.live n t = true →
      s.consume n t va 8 = (.ok d p k, s') →
      (target ≤ ofBytes d → ∃ u, exec (.barrierReread n t) s = .next u ∧ Local n s' u
        ∧ (u.task n t).wait = .none ∧ ∀ i ∈ (u.task n t).window, i.id ≠ id)
      ∧ (ofBytes d < target → exec (.barrierReread n t) s = .next s'))
  ∧ (∀ d p k s', s.issues n t 0x12 w pc → wf w 63 16 % 8 = 0 → s.consume n t (wf w 63 16) 8 = (.ok d p k, s') →
      (s'.task n t).fetched ≠ [] →
      let v := if nbit w.toNat 112 then s.bound n t (wf w 115 113) else wf w 111 80
      ∃ u, exec (.waitw n t) s = .next u ∧ IssueSeen n t s' u ∧ Local n s' u
        ∧ (v ≤ ofBytes d → ∀ i ∈ (u.task n t).window, i.id ≠ (s'.task n t).nextId)
        ∧ (ofBytes d < v →
            (u.task n t).wait = .waitw (s'.task n t).nextId (wf w 63 16) v s'.now (wf w 124 120)))
  ∧ (∀ id va v since tmo d p k s', (s.task n t).wait = .waitw id va v since tmo → s.live n t = true →
      s.consume n t va 8 = (.ok d p k, s') →
      (v ≤ ofBytes d → ∃ u, exec (.waitwReread n t) s = .next u ∧ Local n s' u
        ∧ (u.task n t).wait = .none ∧ ∀ i ∈ (u.task n t).window, i.id ≠ id)
      ∧ (ofBytes d < v → exec (.waitwReread n t) s = .next s'))
  ∧ (∀ id va v since tmo, (s.task n t).wait = .waitw id va v since tmo → s.live n t = true → tmo ≠ 0 →
      microTicks tmo ≤ s.now - since →
      ∃ u, exec (.chWaitTimeout n t) s = .next u ∧ Local n s u
        ∧ u.tstate n t = tAborting ∧ (u.task n t).abortCode = chWaitTimeout ∧ (u.task n t).abortId = id)

/-- R226, R227: SARM puts a start into its engine's issue queue; SWAIT leaves the window once no start of its descriptor is
left. -/
def Obligations.StreamInstructionsComplete : Prop :=
  ∀ (n : Ch) (t : Tag) (s : State) (w : BitVec 128) (pc : Nat),
    (s.issues n t 0x20 w pc →
      let e := wf w 15 14
      ∃ u, exec (.sarm n t) s = .next u ∧ IssueSeen n t s u ∧ PcNext n t pc s u ∧ Local n s u
        ∧ (u.eng n e).queue = (s.eng n e).queue ++ [{
            kind := if e < 2 then .copyRead else if e = 2 then .fill else .receive
            id := (s.task n t).nextId, tag := t, desc := wf w 13 9, priv := nbit w.toNat 16 }]
        ∧ (u.task n t).window = (s.task n t).window ++ [⟨(s.task n t).nextId, pc, w⟩])
  ∧ (s.issues n t 0x21 w pc →
      ∃ u, exec (.swait n t) s = .next u ∧ IssueSeen n t s u ∧ PcNext n t pc s u ∧ Local n s u
        ∧ (s.noStart n t (wf w 13 9) (s.task n t).nextId = true →
            ⟨(s.task n t).nextId, pc, w⟩ ∉ (u.task n t).window)
        ∧ (s.noStart n t (wf w 13 9) (s.task n t).nextId = false →
            ⟨(s.task n t).nextId, pc, w⟩ ∈ (u.task n t).window))

/-- R49, R91, R110, R114: MERGE, SCATTER_IN and SUMP_DRAIN, each with formats that R49 allows, join the Lauter's queue with their starts;
one with another format aborts its task with CH_ILLEGAL_FORMAT at its issue, before a session is looked at; SUMP_OPEN loads the session's
registers from its block. -/
def Obligations.ListInstructionsIssue : Prop :=
  ∀ (n : Ch) (t : Tag) (s : State) (w : BitVec 128) (pc : Nat),
    let id := (s.task n t).nextId
    let start (e : Nat) (k : StartKind) (d : Nat) (b : Bool) (u : State) : Prop :=
      (u.eng n e).queue = (s.eng n e).queue ++ [{ kind := k, id := id, tag := t, desc := d, begun := b }]
    let listed (u : State) : Prop := ∃ l, (u.ch n).lists = (s.ch n).lists ++ [l] ∧ l.id = id ∧ l.tag = t.val ∧ l.word = w
    let inputs := [wf w 13 9] ++ if nbit w.toNat 19 then [] else [wf w 18 14]
    (s.issues n t 0x30 w pc → nbit w.toNat 25 = false → s.listFormatBad n t (inputs ++ [wf w 24 20]) = false →
      ∃ u, exec (.merge n t) s = .next u ∧ IssueSeen n t s u ∧ PcNext n t pc s u ∧ Local n s u ∧ listed u
        ∧ start 0 (.group 0) (wf w 13 9) true u
        ∧ (nbit w.toNat 19 = false → start 1 (.group 1) (wf w 18 14) true u)
        ∧ start 2 .sink (wf w 24 20) false u)
  ∧ (s.issues n t 0x30 w pc → nbit w.toNat 25 = true → s.listFormatBad n t inputs = false →
      s.typeDiffers n t (wf w 26 26) = false →
      s.get (SP_SESSION n t) SP_SESSION.OPEN = 1 →
      ∃ u, exec (.merge n t) s = .next u ∧ IssueSeen n t s u ∧ PcNext n t pc s u ∧ Local n s u ∧ listed u
        ∧ start 0 (.group 0) (wf w 13 9) true u
        ∧ (nbit w.toNat 19 = false → start 1 (.group 1) (wf w 18 14) true u)
        ∧ (u.eng n 2).queue = (s.eng n 2).queue)
  ∧ (s.issues n t 0x31 w pc → s.listFormatBad n t [wf w 13 9] = false → s.typeDiffers n t (wf w 26 26) = false → s.get (SP_SESSION n t) SP_SESSION.OPEN = 1 →
      ∃ u, exec (.scatterIn n t) s = .next u ∧ IssueSeen n t s u ∧ PcNext n t pc s u ∧ Local n s u ∧ listed u
        ∧ start 0 (.group 0) (wf w 13 9) true u)
  ∧ (s.issues n t 0x61 w pc → s.listFormatBad n t [wf w 13 9] = false → s.get (SP_SESSION n t) SP_SESSION.OPEN = 1 →
      ∃ u, exec (.sumpDrain n t) s = .next u ∧ IssueSeen n t s u ∧ PcNext n t pc s u ∧ Local n s u ∧ listed u
        ∧ start 2 .sink (wf w 13 9) false u ∧ u.get (SP_SESSION n t) SP_SESSION.OPEN = 0)
  ∧ (s.listFormatBad n t [wf w 13 9] = true →
      (s.issues n t 0x30 w pc → exec (.merge n t) s = .next (s.issueFault n t chIllegalFormat))
      ∧ (s.issues n t 0x31 w pc → exec (.scatterIn n t) s = .next (s.issueFault n t chIllegalFormat))
      ∧ (s.issues n t 0x61 w pc → exec (.sumpDrain n t) s = .next (s.issueFault n t chIllegalFormat)))
  ∧ (∀ b p k s', s.issues n t 0x60 w pc → wf w 63 16 % 32 = 0 → s.consume n t (wf w 63 16) 32 = (.ok b p k, s') →
      (s'.task n t).fetched ≠ [] →
      num b 14 1 < 2 → num b 15 1 = 0 → num b 22 10 = 0 → num b 16 6 % 512 = 0 →
      s'.get (SP_SESSION n t) SP_SESSION.OPEN = 0 →
      ∃ u, exec (.sumpOpen n t) s = .next u ∧ IssueSeen n t s' u ∧ Local n s' u
        ∧ u.get (SP_SESSION n t) SP_SESSION.OPEN = 1 ∧ u.get (SP_SESSION n t) SP_SESSION.TYPE = num b 14 1
        ∧ u.get (SP_SESSION n t) SP_SESSION.KEY_LIMIT = num b 0 4
        ∧ u.get (SP_SPILL_BASE n t) SP_SPILL_BASE.BASE * 512 = num b 16 6
        ∧ u.get (SP_SPILL_USE n t) SP_SPILL_USE.CAPACITY = num b 12 2
        ∧ u.get (SP_SPILL_USE n t) SP_SPILL_USE.USED = 0
        ∧ (u.task n t).keyBase = num b 4 4 ∧ (u.task n t).keyStride = num b 8 4)

/-- R98, R120, R155, R170: ARRAY without an instruction fault joins the array's queue and opens or closes its slot's group, or
under policy OFF with SEL starts the write of an all-kept word, whose end completes it; CHAIN joins Flowstone's queue, with ROWS = 0
it is complete. -/
def Obligations.ArrayAndChainIssue : Prop :=
  ∀ (n : Ch) (t : Tag) (s : State) (w : BitVec 128) (pc : Nat),
    (s.issues n t 0x40 w pc → s.arrayFault n t w = none → offSel w (s.gvCopy n t) = false →
      ∃ u a, exec (.array n t) s = .next u ∧ IssueSeen n t s u ∧ PcNext n t pc s u ∧ Local n s u
        ∧ (u.ch n).arr = (s.ch n).arr ++ [a] ∧ a.id = (s.task n t).nextId ∧ a.tag = t.val ∧ a.word = w
        ∧ a.phase = .queued ∧ a.gv = s.gvCopy n t ∧ a.tiles = s.arrayTiles n t w
        ∧ u.get (SP_STATUS n) (slotOpenFld (aSlot w)) = bit (!aDrain w)
        ∧ (u.eng n 0).queue.length = (s.eng n 0).queue.length + 1
        ∧ (u.eng n 1).queue.length = (s.eng n 1).queue.length + 1
        ∧ (u.eng n 2).queue.length = (s.eng n 2).queue.length + bit (toSink w))
  ∧ (s.issues n t 0x40 w pc → s.arrayFault n t w = none → offSel w (s.gvCopy n t) = true →
      let g := s.gvCopy n t
      exec (.array n t) s = .next ((s.take n t true).writeKeep n t (s.task n t).nextId 1 g (2 ^ gvU g - 1)))
  ∧ (s.issues n t 0x50 w pc → cRows w ≠ 0 →
      ∃ u c, exec (.chain n t) s = .next u ∧ IssueSeen n t s u ∧ PcNext n t pc s u ∧ Local n s u
        ∧ (u.ch n).chains = (s.ch n).chains ++ [c] ∧ c.id = (s.task n t).nextId ∧ c.tag = t.val ∧ c.word = w
        ∧ c.running = false ∧ c.row = 0)
  ∧ (s.issues n t 0x50 w pc → cRows w = 0 →
      ∃ u, exec (.chain n t) s = .next u ∧ IssueSeen n t s u ∧ PcNext n t pc s u ∧ Local n s u
        ∧ (u.ch n).chains = (s.ch n).chains ∧ ∀ i ∈ (u.task n t).window, i.id ≠ (s.task n t).nextId)

/-- R161, R162, R165, R233: GV_CHECK acts with its parameters as they stand at its issue, or joins those that wait where a region
that it reads is still to be filled; GV_JOIN clears MISS_NOW under OFF and COUNT and waits under MAKEUP; the waiting join takes the OR
of its miss words and counts a make-up, and a waiting check is tried again. -/
def Obligations.GravityInstructionsComplete : Prop :=
  ∀ (n : Ch) (t : Tag) (s : State) (w : BitVec 128) (pc : Nat),
    (s.issues n t 0x70 w pc → gvParamBad (s.gvCopy n t) = false → wf w 25 23 ≤ 4 → wf w 21 18 < 2 ^ wf w 25 23 →
      let j : GvJoin := ⟨(s.task n t).nextId, t, w, s.gvCopy n t⟩
      let s1 := s.take n t true
      exec (.gvCheck n t) s = .next ((s1.gvCheck n j).getD ((s1.modCh n fun c => { c with joins := c.joins ++ [j] }).showJoin n)))
  ∧ (s.issues n t 0x71 w pc → gvPolicy (s.gvCopy n t) < 2 → wf w 19 12 ≠ 0 →
      ∃ u, exec (.gvJoin n t) s = .next u ∧ IssueSeen n t s u ∧ PcNext n t pc s u ∧ Local n s u
        ∧ u.get (GV_STATE n t) GV_STATE.MISS_NOW = 0 ∧ ∀ i ∈ (u.task n t).window, i.id ≠ (s.task n t).nextId)
  ∧ (s.issues n t 0x71 w pc → gvPolicy (s.gvCopy n t) = 2 → wf w 19 12 ≠ 0 →
      ∃ u, exec (.gvJoin n t) s = .next u ∧ IssueSeen n t s u ∧ PcNext n t pc s u ∧ Local n s u
        ∧ (u.ch n).joins = (s.ch n).joins ++ [⟨(s.task n t).nextId, t, w, s.gvCopy n t⟩]
        ∧ u.get (GV_STATUS n) GV_STATUS.JOIN_WAIT = 1)
  ∧ (∀ j, ((s.ch n).joins.find? fun j => j.tag = t.val) = some j → s.live n t = true → j.isJoin = false →
      exec (.gvJoinRead n t) s = .next (((s.joinGone n j).gvCheck n j).getD s))
  ∧ (∀ j b s', ((s.ch n).joins.find? fun j => j.tag = t.val) = some j → s.live n t = true → j.isJoin = true →
      s.joinRead n t (s.joinVas n j) = (.ok b, s') →
      ∃ u, exec (.gvJoinRead n t) s = .next u ∧ Local n s' u
        ∧ u.get (GV_STATE n t) GV_STATE.MISS_NOW = bit b
        ∧ u.get (GV_MAKEUPS n t) count32 = min (s'.get (GV_MAKEUPS n t) count32 + bit b) 0xFFFFFFFF
        ∧ (∀ x ∈ (u.ch n).joins, ¬ (x.tag = j.tag ∧ x.id = j.id))
        ∧ ∀ i ∈ (u.task n t).window, i.id ≠ j.id)

/-! ### The array, the sump, Flowstone (chapters 4 to 8) -/

/-- R58, R60, R99, R100: an instruction enters the array with its carry snapshot taken; a step without an overflow puts the
values it leaves into the slot and moves the step count on, the last one going over to the checks. -/
def Obligations.ArrayEntryAndStepsComplete : Prop :=
  ∀ (n : Ch) (s : State) (a : ArrInstr),
    (s.arrayNext n = some a →
      ∃ u, exec (.arrayEnter n) s = .next u ∧ Local n s u
        ∧ u.slotPhase n (aSlot a.word) = (if a.steps = 0 then phChecking else phFilling)
        ∧ (a.again = false →
            (u.slot n (aSlot a.word)).snap
              = if aCont a.word then
                  { (s.slot n (aSlot a.word)).cur with formed := (s.slot n (aSlot a.word)).cur.r } else {}))
  ∧ (∀ v, ((s.ch n).arr.find? fun x => x.phase == .inArray) = some a → s.privFilling n = false →
      s.live n a.tag = true → s.arrOf n a.tag a.id = some a → s.stepTiles n a = some (v, []) →
      (∃ t ∈ a.tiles, t.run = true ∧ t.gone = false ∧ s.live n t.tag = true) →
      ∃ u b, exec (.arrayStep n) s = .next u ∧ Local n s u
        ∧ (u.slot n (aSlot a.word)).cur = v ∧ u.arrOf n a.tag a.id = some b ∧ b.step = a.step + 1
        ∧ b.phase = (if a.step + 1 = a.steps then .checking else .inArray)
        ∧ (a.step + 1 = a.steps → u.slotPhase n (aSlot a.word) = phChecking))

/-- R72 to R77, R82, R92, R101, R154: the checks of an instruction, the end of its drain, at which a selecting one first starts the
write of its keep word, the Lauter's reading of it and the end of its wait for a sparge region. -/
def Obligations.ChecksDrainsAndReadingComplete : Prop :=
  ∀ (n : Ch) (s : State) (a : ArrInstr),
    (∀ (slot : Fin 2) (d : List CellFault),
      ((s.ch n).arr.find? fun x => x.phase == .checking && aSlot x.word = slot.val) = some a → s.live n a.tag = true →
      exec (.checksComplete n slot d) s = .next ((((s.checkTiles n slot a d).progress n a.tag).passEnd n a).showArray n))
  ∧ (∀ (slot : Fin 2),
      ((s.ch n).arr.find? fun x => x.phase == .draining && aSlot x.word = slot.val) = some a →
      (aDest a.word = true → ∀ u ∈ (s.ch n).updQ, ¬ (u.id = a.id ∧ u.own = a.tag)) →
      (aDest a.word = false → s.startOf n 2 a.tag a.id = none) → s.drains n a.tag = true →
      (aSel a.word = false ∨ a.keep = true → s.internalDue n a.tag a.id 3 = false →
        exec (.drainComplete n slot) s = .next (s.drained n slot a))
      ∧ (aSel a.word = true → a.keep = false → exec (.drainComplete n slot) s = .next (s.select n a)))
  ∧ (s.lauterNext n .queued = some a → exec (.lauterRead n) s = .next (s.lauterRead n a))
  ∧ (∀ l, s.lauterNext n .queued = none → s.listNext n = some l → exec (.lauterRead n) s = .next ((s.listRead n l).showLauter n))
  ∧ (s.lauterNext n .regionWait = some a → exec (.spargeRegionWaitEnd n) s = .next (s.lauterRead n a))

/-- R109, R111 to R114: an update acts in its set, a key out of range under TOLERANT is counted, a spill run reaches its
region, a drain starts with its tag's entries flushed, and a merge pass halves its runs or closes it. -/
def Obligations.SumpCommandsComplete : Prop :=
  ∀ (n : Ch) (s : State),
    (∀ (bank : Fin 16) (ecc : List (Fin 4 × Bool)) (u : Upd),
      ((s.ch n).updQ.find? fun u => sumpSet (s.ch n).seed (u.key % 2 ^ 32) % 16 = bank.val) = some u →
      s.live n u.tag = true → s.keyOut n u = false →
      let set := sumpSet (s.ch n).seed u.key
      let s1 := s.sumpEcc n set ecc
      let r := applyUpd (s1.sumInt n u.tag) (s1.sumpWays n set) u
      (r.out = none ∨ (s1.ch n).spill.length < 64) →
      ∃ v, exec (.sumpUpdate n bank ecc) s = .next v ∧ v.sumpWays n set = r.ways
        ∧ (v.ch n).updQ = (s1.ch n).updQ.erase u
        ∧ (∀ e, r.out = some e → (s1.ch n).spill.length < 63 → (v.ch n).spill = (s1.ch n).spill ++ [e]))
  ∧ (∀ (bank : Fin 16) (ecc : List (Fin 4 × Bool)) (u : Upd),
      ((s.ch n).updQ.find? fun u => sumpSet (s.ch n).seed (u.key % 2 ^ 32) % 16 = bank.val) = some u →
      s.live n u.tag = true → s.keyOut n u = true → s.tolerant n u.tag = true →
      ∃ v, exec (.sumpUpdate n bank ecc) s = .next v ∧ Local n s v
        ∧ v.get (SP_TOL_RANGE n u.tag) count32 = min (s.get (SP_TOL_RANGE n u.tag) count32 + 1) 0xFFFFFFFF
        ∧ (v.ch n).updQ = (s.ch n).updQ.erase u ∧ (v.ch n).sump = (s.ch n).sump)
  ∧ (∀ r rest, (s.ch n).runs = r :: rest → s.runsDue n < (s.ch n).runs.length →
      let s1 := (s.modCh n fun c => { c with runs := rest }).tally n 0x304 (.tag r.tag) 1
      exec (.spillRunWritten n) s = .next (((s1.emptySpill n).showSump n).progress n r.tag))
  ∧ (∀ l rest, (s.ch n).lists = l :: rest → opcode l.word = 0x61 → l.done = false → (s.ch n).sumpDrain = none →
      s.live n l.tag = true → s.lauterBefore n l.seq = false → s.producerBefore n l.tag l.id l.seq = false →
      s.ready n 2 l.tag l.id = true →
      let s1 := s.flushTag n l.tag l.id
      let r := s1.get (SP_SPILL_USE n l.tag) SP_SPILL_USE.USED
      (r ≠ 0 → ∃ u, exec (.sumpDrainStart n) s = .next u ∧ Local n s1 u
        ∧ (u.ch n).sumpDrain = some { id := l.id, tag := l.tag, runs := r, total := r })
      ∧ (r = 0 → s1.live n l.tag = true →
        let d : SumpDrain := { id := l.id, tag := l.tag, runs := 0 }
        exec (.sumpDrainStart n) s
          = .next (((s1.modCh n fun c => { c with sumpDrain := some d }).progress n l.tag).sumpClose n d [])))
  ∧ (∀ d, (s.ch n).sumpDrain = some d → s.live n d.tag = true → d.closed = none → (∀ r ∈ (s.ch n).runs, r.tag ≠ d.tag) →
      s.clear (taskReq n d.tag 6 d.id) (s.passRoute n d) = true →
      let s1 := s.arbMoved (taskReq n d.tag 6 d.id) (s.passRoute n d)
      (∀ es s', d.runs ≤ 2 → s1.mergePair n d 0 = (.ok es, s') →
        exec (.sumpMergePass n) s = .next ((s'.sumpClose n d es).progress n d.tag))
      ∧ (∀ s', 2 < d.runs → s1.mergePass n d = (.ok (), s') →
        ∃ u, exec (.sumpMergePass n) s = .next u ∧ Local n s' u
          ∧ (u.ch n).sumpDrain = (s'.ch n).sumpDrain.map fun x =>
              { x with runs := cdiv d.runs 2, half := 1 - d.half, size := 2 * d.size }))

/-- R118, R126, R147: the first chain of the queue starts once its entry, formats, session, references and overlaps pass; a row
is done after the other; the chain is complete when every row is done and every update accepted. -/
def Obligations.ChainCommandsComplete : Prop :=
  ∀ (n : Ch) (s : State),
    (∀ c0 rest fs pg s', (s.ch n).chains = c0 :: rest → c0.running = false → s.live n c0.tag = true →
      let c := s.chainLoad n c0
      c.bad = none → c.badFormat = false →
      (c.last = 0x43 → s.sessionOpenFor n c.tag c.id = true ∧ c.fmtOut = if s.sumInt n c.tag then 10 else 0) →
      (∀ i, i < 6 → c.uses i = true → c.badRef i = false) → s.chainFeet n c = (.ok (fs, pg), s') →
      c.badOverlap fs = false →
      exec (.chainStart n) s
        = .next (s.orHeld (((s'.modChain n c fun _ => { c with pages := pg }).progress n c.tag).showFlow n)))
  ∧ (∀ c s', ((s.ch n).chains.find? (·.running)) = some c → s.live n c.tag = true → c.parked = false →
      c.row < cRows c.word → s.regionBusy n c.rowReads = false →
      s.clear (taskReq n c.tag 5 c.id) (c.rowRoute n) = true →
      (chainRow n c c.row).run (s.arbMoved (taskReq n c.tag 5 c.id) (c.rowRoute n)) = (.ok (), s') →
      exec (.chainRowDone n) s
        = .next (((s'.modChain n c fun x => { x with row := c.row + 1, parked := false }).progress n c.tag).showFlow n))
  ∧ (∀ c, ((s.ch n).chains.find? (·.running)) = some c → s.live n c.tag = true → cRows c.word ≤ c.row →
      (∀ u ∈ (s.ch n).updQ, ¬ (u.own = c.tag ∧ u.id = c.id)) →
      ∃ u, exec (.chainComplete n) s = .next u ∧ Local n s u
        ∧ (∀ x ∈ (u.ch n).chains, ¬ (x.tag = c.tag ∧ x.id = c.id))
        ∧ ∀ i ∈ (u.task n c.tag).window, i.id ≠ c.id)

/-! ### Task contexts (R183 to R188) -/

/-- R184, R188: CREATE makes a FREE context ACTIVE with its registers at reset and reports 0, for one in use 1; RELEASE frees an
ENDED context, else reports 2; ABORT makes a task ABORTING with CH_ABORTED; the end of an abort. -/
def Obligations.CreateReleaseAbortComplete : Prop :=
  ∀ (n : Ch) (s : State),
    (let c := s.reg (CH_CREATE0 n)
     let t := fget c CH_CREATE0.TAG
     (s.tstate n t = tFree →
       ∃ u, exec (.taskCreate n) s = .next u ∧ Local n s u ∧ u.tstate n t = tActive
         ∧ u.get (CH_TASK_PC n t) CH_TASK_PC.PC = fget c CH_CREATE0.PC
         ∧ u.get (CH_TASK n t) CH_TASK.PRIORITY = fget c CH_CREATE0.PRIORITY
         ∧ u.get (CH_TASK n t) CH_TASK.POLICY = fget c CH_CREATE0.POLICY
         ∧ u.get (CH_TASK_SAVE n t) CH_TASK_SAVE.SAVE_BASE = s.get (CH_CREATE1 n) CH_CREATE1.SAVE_BASE
         ∧ (u.task n t).xlat = s.get (CH_CREATE2 n) CH_CREATE2.XLAT ∧ (u.task n t).window = []
         ∧ (∀ a ∈ tagRegs n t, u.reg a = resetReg a)
         ∧ u.get (CH_CMD_STATUS n) CH_CMD_STATUS.RESULT = 0 ∧ u.get (CH_CMD_STATUS n) CH_CMD_STATUS.VALID = 1)
     ∧ (s.tstate n t ≠ tFree →
       ∃ u, exec (.taskCreate n) s = .next u ∧ KeepsRegs (· = CH_CMD_STATUS n) s u ∧ u = { s with regs := u.regs }
         ∧ u.get (CH_CMD_STATUS n) CH_CMD_STATUS.RESULT = 1 ∧ u.get (CH_CMD_STATUS n) CH_CMD_STATUS.VALID = 1))
  ∧ (∀ t : Tag,
      (s.tstate n t = tEnded →
        ∃ u, exec (.taskRelease n t) s = .next u ∧ u = { s with regs := u.regs }
          ∧ KeepsRegs (fun a => a = CH_CMD_STATUS n ∨ a = CH_TASK n t ∨ a = CH_STATUS n) s u ∧ u.tstate n t = tFree
          ∧ u.get (CH_CMD_STATUS n) CH_CMD_STATUS.RESULT = 0 ∧ u.get (CH_CMD_STATUS n) CH_CMD_STATUS.VALID = 1)
      ∧ (s.tstate n t ≠ tEnded →
        ∃ u, exec (.taskRelease n t) s = .next u ∧ u = { s with regs := u.regs }
          ∧ KeepsRegs (· = CH_CMD_STATUS n) s u ∧ u.get (CH_CMD_STATUS n) CH_CMD_STATUS.RESULT = 2)
      ∧ ((s.tstate n t = tActive ∨ s.tstate n t = tSaving ∨ s.tstate n t = tRestoring) →
        ∃ u, exec (.taskAbort n t) s = .next u ∧ Local n s u ∧ u.tstate n t = tAborting
          ∧ (u.task n t).abortCode = chAborted ∧ u.get (CH_TASK n t) CH_TASK.PREEMPT_PENDING = 0
          ∧ u.get (CH_CMD_STATUS n) CH_CMD_STATUS.RESULT = 0)
      ∧ ((s.tstate n t = tFree ∨ s.tstate n t = tAborting ∨ s.tstate n t = tEnded) →
        ∃ u, exec (.taskAbort n t) s = .next u ∧ u = { s with regs := u.regs } ∧ KeepsRegs (· = CH_CMD_STATUS n) s u
          ∧ u.get (CH_CMD_STATUS n) CH_CMD_STATUS.RESULT = 2)
      ∧ (s.tstate n t = tAborting → s.drainDue n t = false → exec (.abortComplete n t) s = .next (s.abortEnd n t)))

/-- R185, R186: PREEMPT makes an ACTIVE task SAVING; once its engines have stopped the chamber gives up its starts and
instructions, and its image is written to its save area and the context is FREE; RESUME makes a FREE context RESTORING from the
image at its save base, and ACTIVE once every slot image is restored. -/
def Obligations.PreemptAndResumeComplete : Prop :=
  ∀ (n : Ch) (t : Tag) (s : State),
    (s.tstate n t = tActive →
      ∃ u, exec (.taskPreempt n t) s = .next u ∧ Local n s u ∧ u.tstate n t = tSaving
        ∧ u.get (CH_TASK n t) CH_TASK.PREEMPT_PENDING = 1 ∧ (u.task n t).saving = true ∧ (u.task n t).fetched = [])
  ∧ (s.tstate n t ≠ tActive →
      ∃ u, exec (.taskPreempt n t) s = .next u ∧ u = { s with regs := u.regs } ∧ KeepsRegs (· = CH_CMD_STATUS n) s u
        ∧ u.get (CH_CMD_STATUS n) CH_CMD_STATUS.RESULT = 2)
  ∧ (s.tstate n t = tSaving → (s.task n t).stopped = false → s.enginesStopped n t = true →
      exec (.preemptEnginesStopped n t) s = .next (s.parkTask n t))
  ∧ (∀ pa leaf s1 s2, s.tstate n t = tSaving → (s.task n t).stopped = true →
      (∀ r ∈ (s.ch n).runs, r.tag ≠ t.val) →
      let base := s.get (CH_TASK_SAVE n t) CH_TASK_SAVE.SAVE_BASE * 4096
      s.translate n (s.task n t).xlat base { w := true } = (.ok (pa, leaf), s1) →
      s1.writeVa n t base (s1.saveBytes n t) { w := true } false = (none, s2) →
      exec (.preemptSaveWritten n t) s = .next (s2.saved n t pa))
  ∧ (∀ pa leaf s' i, s.tstate n t = tFree →
      let base := s.get (CH_CREATE1 n) CH_CREATE1.SAVE_BASE * 4096
      s.translate n (s.get (CH_CREATE2 n) CH_CREATE2.XLAT) base { r := true } = (.ok (pa, leaf), s') →
      kfind s'.saves pa = some i → i.others = [] → (∀ h ∈ i.held, s'.slotOpen n h.1 = false) →
      ∃ u, exec (.taskResume n t) s = .next u ∧ Local n s' u ∧ u.tstate n t = tRestoring
        ∧ u.get (CH_TASK_PC n t) CH_TASK_PC.PC = i.pc % 2 ^ 48 ∧ kfind (u.ch n).resumeImg t = some pa
        ∧ (u.task n t).xlat = i.task.xlat)
  ∧ (∀ pa i b p k s' s2, kfind (s.ch n).resumeImg t = some pa → kfind s.saves pa = some i →
      s.tstate n t = tRestoring → (∀ h ∈ i.held, s.slotPhase n h.1 = phFree ∧ s.slotOpen n h.1 = false) →
      s.readVa n t (s.get (CH_TASK_SAVE n t) CH_TASK_SAVE.SAVE_BASE * 4096) 24704 { r := true } = (.ok b p k, s') →
      s'.restoreSlots n t i b = (s2, false) →
      exec (.resumeRestored n t) s = .next (s2.restored n t i))

/-! ### Memory (chapter 10) -/

/-- R194, R199, R202, R354: the end of a walk fills the translation entries and sends the transfer on its way, or waits where a line it
reads lies in a channel that is retrained; a tun fill makes its
line present and ends every wait for it. -/
def Obligations.WalkAndFillComplete : Prop :=
  ∀ (s : State),
    (∀ (n : Ch) (e : Eng) st tr l big s',
      s.walking n e = some (st, tr) →
      let x := (s.task n (s.elTag n st (tr.els.headD 0))).xlat
      s.walk x tr.va = (.ok (l, big), s') → leafAllows (leafAt l tr.va big) st.need = true →
      let leaf := leafAt l tr.va big
      exec (.xlatWalkDone n e) s
        = .next (s.orHeld ((((s'.tlbPut n (tlbKey x tr.va big) l).ytlbPut (tlbKey x tr.va big) l).attach n e st tr
            (leafPage leaf * 0x10000 + tr.va % 0x10000) leaf).showEngine n e)))
  ∧ (∀ line n e st tr rest, s.lineWaiters line = (n, e, st, tr) :: rest → s.inTun line = false →
      s.lineHeld line = false →
      s.clear (otherReq (some (s.reqPrio (s.transferReq n e st tr.no))) 12 line) (s.fillRoute line) = true →
      ∃ u, exec (.tunFillDone line) s = .next u ∧ u.inTun line = true
        ∧ ∀ (m : Ch) (e : Eng), ∀ st ∈ (u.eng m e).starts, ∀ tr ∈ st.out, line ∉ tr.lines)

/-- R206 to R213, R237: once granted, the scrubber goes on by one codeword, starting again after the last, and the end of a row copy
maps the row to the first of its tier's spares that is free. -/
def Obligations.ScrubAndRowCopyComplete : Prop :=
  ∀ (s : State),
    (∀ (x : ScrubStore) (l : List Upset) i on, kget s.scrubs (scrubKey x) (0, false) = (i, on) →
      (on = true ∨ s.scrubPeriod x ≠ 0) →
      s.clear (otherReq (some 0) 9 (scrubKey x)) (s.scrubRoute x i l) = true →
      ∃ u, exec (.scrubRead x l) s = .next u
        ∧ kget u.scrubs (scrubKey x) (0, false) = if i + 1 < scrubWords x then (i + 1, true) else (0, false))
  ∧ (∀ (n : Ch) key rest, (s.ch n).retiring = key :: rest →
      let used := s.get (CL_STATUS n) (clSpares (key / 4096))
      key / 4096 < 4 → key % 4096 < 3088 → s.clear (otherReq (some 7) 11 n) [(n.val * 4, 5)] = true →
      ∃ u, exec (.cellarRowCopyEnd n) s = .next u
        ∧ (∀ k, ((s.freeSpares n (key / 4096)).find? fun k => key % 4096 != 3072 + k) = some k →
            kfind (u.ch n).rowMap key = some k)
        ∧ u.get (CL_STATUS n) (clSpares (key / 4096)) = (used + 1) % 32
        ∧ (u.ch n).retiring = rest.filter (· != key)
        ∧ u.get (CL_STATUS n) CL_STATUS.RETIRING = bit (!(rest.filter (· != key)).isEmpty))

/-- R197, R195, R214: the copy of a moving region, once it has passed every channel's arbiter, ends with the leaves rewritten and
an invalidation of every context under way; once that is done the region is listed as retired, and where no other waits none moves; a
refresh changes nothing that the channel holds. -/
def Obligations.RegionMoveComplete : Prop :=
  ∀ (s : State),
    (∀ r f, s.move = some (r, f, 0) → s.inval = none → s.clear copyReq copyRoute = true →
      ∃ u, exec .g7RegionCopyEnd s = .next u ∧ u = (s.arbMoved copyReq copyRoute).regionCopied r f
        ∧ u.move = some (r, f, 1) ∧ u.get GM_INVAL_STATUS GM_INVAL_STATUS.BUSY = 1)
  ∧ (∀ r f i, s.move = some (r, f, 1) → s.get GM_INVAL_STATUS GM_INVAL_STATUS.DONE = 1 →
      ((List.range 256).find? fun i => s.get (GM_RETIRE i) GM_RETIRE.VALID = 0) = some i →
      ∃ u, exec .g7RegionRetire s = .next u
        ∧ u.get (GM_RETIRE i) GM_RETIRE.VALID = 1 ∧ u.get (GM_RETIRE i) GM_RETIRE.REGION = r % 2 ^ GM_RETIRE.REGION.w
        ∧ (s.moveWait = [] → u.move = none ∧ u.get GM_STATUS GM_STATUS.MOVING = 0))
  ∧ (∀ (c : Fin 64) (b : Bool), exec (.g7Refresh c b) s = .next s)

/-- R203, R218, R219: an invalidation starts while none runs, and a write while one runs is ignored; at its end no translation cache
holds an entry in its scope, and every other entry stands. A flush of the tun names every line that is dirty, and at its end those
lines are written back, clean and still present or their way disabled. -/
def Obligations.InvalidationAndFlushComplete : Prop :=
  ∀ (s : State),
    (∀ (c : Instr) (scope x k : Nat),
      ((c = .gmInvalAll ∧ scope = 1 ∧ x = 0 ∧ k = 0)
        ∨ (∃ v : BitVec 16, c = .gmInvalContext v ∧ scope = 2 ∧ x = v.toNat ∧ k = 0)
        ∨ (∃ v : BitVec 16, c = .gmInvalRange v k ∧ scope = 3 ∧ x = v.toNat)) →
      (s.get GM_INVAL_STATUS GM_INVAL_STATUS.BUSY = 0 →
        ∃ u, exec c s = .next u ∧ u = { s with regs := u.regs, inval := some (scope, x, k, s.get GM_INVAL_VA GM_INVAL_VA.VA) }
          ∧ KeepsRegs (· = GM_INVAL_STATUS) s u ∧ u.get GM_INVAL_STATUS GM_INVAL_STATUS.BUSY = 1
          ∧ u.get GM_INVAL_STATUS GM_INVAL_STATUS.DONE = 0)
      ∧ (s.get GM_INVAL_STATUS GM_INVAL_STATUS.BUSY = 1 → exec c s = .next s))
  ∧ (∀ scope x k va, s.inval = some (scope, x, k, va) →
      ∃ u, exec .gmInvalDone s = .next u
        ∧ u = { s with regs := u.regs, inval := none, ytlb := u.ytlb, chambers := u.chambers }
        ∧ KeepsRegs (· = GM_INVAL_STATUS) s u ∧ u.get GM_INVAL_STATUS GM_INVAL_STATUS.BUSY = 0
        ∧ u.get GM_INVAL_STATUS GM_INVAL_STATUS.DONE = 1
        ∧ ∀ key, kfind u.ytlb key = (if inScope scope x k va key then none else kfind s.ytlb key)
          ∧ ∀ n, kfind (u.ch n).tlb key = if inScope scope x k va key then none else kfind (s.ch n).tlb key)
  ∧ (∃ u, exec .tunFlush s = .next u ∧ u = { s with regs := u.regs, flush := u.flush }
      ∧ KeepsRegs (· = TN_STATUS) s u ∧ u.get TN_STATUS TN_STATUS.FLUSHING = 1
      ∧ (∀ e ∈ s.tun, e.2.dirty = true → e.1 ∈ u.flush) ∧ ∀ l ∈ s.flush, l ∈ u.flush)
  ∧ (s.get TN_STATUS TN_STATUS.FLUSHING = 1 → s.clear flushReq s.flushRoute = true →
      let s0 := s.arbMoved flushReq s.flushRoute
      let s1 := s.flushLines.foldl (fun u l => u.wroteBack l) s0
      ∃ u, exec .tunFlushDone s = .next u ∧ u = { s1 with flush := [], regs := u.regs } ∧ KeepsRegs (· = TN_STATUS) s1 u
        ∧ u.get TN_STATUS TN_STATUS.FLUSHING = 0
        ∧ (rising s.tun = true → ∀ e ∈ u.tun, e.1 ∈ s.flush → e.2.dirty = false))

/-! ### Streams and arbiters (chapter 11) -/

/-- R220, R221, R227, R231: the acceptance of the first start that may move, by kind, where its engines have room; the issue of a transfer, and the start
that takes its turn to wait for a credit; the completion of a transfer, and one that passes the resources granted so far; the end of a
wait for credit, which takes one. -/
def Obligations.StreamCommandsComplete : Prop :=
  ∀ (n : Ch) (e : Eng) (s : State),
    (∀ st rest,
      let v := s.frontMovable n e
      let v := if e.val = 2 then v.yieldSlots n else v
      let d := v.desc n st.tag st.desc
      let accepts (x : State) : Prop := exec (.startAccept n e) s = .next (v.orHeld x)
      (v.eng n e).queue = st :: rest → v.mayMove n st = true → v.placeable n e st = true →
      (∀ o a, st.kind = .group o → v.arrOf n st.tag st.id = some a → accepts (v.acceptArr n e st a o))
      ∧ (∀ a, st.kind = .sink → v.arrOf n st.tag st.id = some a → accepts (v.acceptArr n e st a 2))
      ∧ (v.arrOf n st.tag st.id = none → st.again = true → accepts ((((v.unqueue n e).placeStart n e st).getD v).rearm n))
      ∧ (∀ o, st.kind = .group o → v.arrOf n st.tag st.id = none → st.again = false → accepts (v.acceptList n e st false o))
      ∧ (st.kind = .sink → v.arrOf n st.tag st.id = none → st.again = false → accepts (v.acceptList n e st true 0))
      ∧ (st.kind = .copyRead → st.again = false → dCopy d = true → sarmReadBad d = false → accepts (v.acceptCopy n e st d))
      ∧ (st.kind = .copyRead → st.again = false → dCopy d = false ∨ sarmReadBad d = true →
        accepts (v.acceptSarm n e { st with kind := .send } d))
      ∧ (st.kind = .fill ∨ st.kind = .receive → st.again = false → accepts (v.acceptSarm n e st d)))
  ∧ (∀ st act, s.issuing n e = some (st, act) → s.mayMove n st = true → (s.eng n e).outstanding < 6 → st.begun = true →
      st.creditSince = none →
      let st' := s.advance n st
      let r := s.nextRun n st'
      (r.els ≠ [] → (∀ u k, s.creditDue n st' r = some (u, k) →
          s.get (ST_CREDIT n k) ST_CREDIT.COUNT ≠ 0 ∧ s.creditWaiters n k = []) →
        exec (.transferIssue n e) s = .next (s.issueRun n e act st' r))
      ∧ (∀ u k, s.creditDue n st' r = some (u, k) →
          s.get (ST_CREDIT n k) ST_CREDIT.COUNT = 0 ∨ s.creditWaiters n k ≠ [] →
        exec (.transferIssue n e) s
          = .next ((s.modCh n fun c => { c with turn := c.turn + 1 }).putEng n e ((s.eng n e).put act
              (some { st' with creditSince := some (s.ch n).turn, creditOn := k })))))
  ∧ (∀ i (l : List Upset) st tr act, s.findTransfer n e i = some (st, tr, act) → s.transferAble n e st tr = true →
      let q := s.transferReq n e st tr.no
      (s.clear q tr.route = true →
        exec (.transferComplete n e i l) s = .next ((l.foldl State.upset s).transferDone n e st tr act))
      ∧ (s.clear q tr.route = false → exec (.transferComplete n e i l) s = .next (s.pass q tr.route)))
  ∧ (∀ st act turn u (el va len : Nat) (v : Nat × Bool), s.issuing n e = some (st, act) → st.creditSince = some turn → s.mayMove n st = true →
      let k := st.creditOn
      let st' := s.advance n st
      s.posOf n st' st'.next = .use el va len u v ∨ s.posOf n st' st'.next = .take u →
      s.get (ST_CREDIT n k) ST_CREDIT.COUNT ≠ 0 → (∀ w ∈ s.creditWaiters n k, turn ≤ w) →
      let s1 := s.set (ST_CREDIT n k) ST_CREDIT.COUNT (s.get (ST_CREDIT n k) ST_CREDIT.COUNT - 1)
      let s2 := s1.putEng n e ((s.eng n e).put act (some { st with creditSince := none, units := st.units ++ [u] }))
      exec (.creditWaitEnd n e) s = .next ((s2.returnUnits n e act).retireAll n))

/-- R231, R233, R236: a multicast runs once every member has armed; an element that arrives takes the credit of its unit, is written
and counted once the pocket's port is passed, or is dropped where its region does not fill; a delivery ends at every member; the stall
watchdog aborts the task that made no progress. -/
def Obligations.SpargeAndWatchdogComplete : Prop :=
  ∀ (s : State),
    (∀ (n : Ch) (e : Eng) st, (s.eng n e).active = some st → st.kind = .send → st.begun = false → s.live n st.tag = true →
      let g := dMgroup st.d
      let r := dRegion st.d
      s.members g ≠ [] → kget s.arm (g * 16 + r) 0 = (s.members g).length →
      ∃ u, exec (.multicastRun n e) s = .next u ∧ kget u.arm (g * 16 + r) 0 = 0
        ∧ (∀ m ∈ s.members g, u.regState m r = regFilling)
        ∧ ∃ c, kfind u.mcast s.mcastNo = some c ∧ c.group = g ∧ c.region = r ∧ c.members = s.members g)
  ∧ (∀ (n : Ch) (r : Fin 16) no v rest, (s.region n r).inq = (no, v) :: rest →
      let g := s.region n r
      let u := dUnit g.d g.got
      let k := creditTake g.d
      let q := { taskReq n (s.get (ST_REGION n r) ST_REGION.TAG) 7 r with
        prio := if g.priv then some (s.get (ST_CTRL n) ST_CTRL.PRIV_PRIO) else none }
      let route : List (Nat × Nat) := if (g.bytesAt g.got v).isEmpty then [] else [(n.val * 4 + 2, 1)]
      (g.mc = some no → s.regState n r = regFilling → g.got < g.count →
        dCredRole g.d = 0 ∨ g.units.contains u = true ∨ (dCredRole g.d ≠ 2 ∧ dInBounds g.d g.got = false) →
        s.clear q route = true →
        ∃ x, exec (.spargeElementArrive n r) s = .next x ∧ x = (s.arbMoved q route).receive n r v
          ∧ x.get (ST_REGION n r) ST_REGION.RECEIVED = min (g.got + 1) 0xFFFFFF ∧ (x.region n r).inq = rest)
      ∧ (g.mc = some no → s.regState n r = regFilling → g.got < g.count → dCredRole g.d ≠ 0 → g.units.contains u = false →
        dCredRole g.d = 2 ∨ dInBounds g.d g.got = true → s.get (ST_CREDIT n k) ST_CREDIT.COUNT ≠ 0 →
        (∀ w ∈ s.creditWaiters n k, g.turn.getD (s.ch n).turn ≤ w) →
        ∃ x, exec (.spargeElementArrive n r) s = .next x ∧ Local n s x
          ∧ x.get (ST_CREDIT n k) ST_CREDIT.COUNT = s.get (ST_CREDIT n k) ST_CREDIT.COUNT - 1
          ∧ x.region n r = { g with units := g.units ++ [u], turn := none })
      ∧ (g.mc ≠ some no ∨ s.regState n r ≠ regFilling ∨ g.count ≤ g.got →
        ∃ x, exec (.spargeElementArrive n r) s = .next x ∧ Local n s x
          ∧ x.get (ST_SPARGE_DROP n) count32 = min (s.get (ST_SPARGE_DROP n) count32 + 1) 0xFFFFFFFF
          ∧ (x.region n r).inq = rest))
  ∧ (∀ (g : Fin 256) (r : Fin 16) m, (s.mcast.find? fun m => m.2.group = g.val && m.2.region = r.val && s.mcastOver m) = some m →
      exec (.spargeDeliveryEnd g r) s
        = .next (m.2.members.foldl (fun u n => u.delivered n r m.1) { s with mcast := kdel s.mcast m.1 }))
  ∧ (∀ (n : Ch) (t : Tag), s.get (ST_CTRL n) ST_CTRL.WDOG_TIMEOUT ≠ 0 → s.live n t = true →
      microTicks (s.get (ST_CTRL n) ST_CTRL.WDOG_TIMEOUT) ≤ (s.task n t).stall →
      let code := if (s.stallCause n t).1 = 1 then stCreditDeadlock else stStall
      ∃ u, exec (.stallWatchdogBite n t) s = .next u ∧ Local n s u ∧ u.tstate n t = tAborting
        ∧ (u.task n t).abortCode = code ∧ u.get (ST_FAULT n) ST_FAULT.CODE = code
        ∧ u.get (ST_FAULT_INFO n) ST_FAULT_INFO.CAUSE = (s.stallCause n t).1
        ∧ u.get (ST_WDOG_BITES n) count32 = min (s.get (ST_WDOG_BITES n) count32 + 1) 0xFFFFFFFF)

/-- R238, R239, R242, R354, R359: a phase grants an idle resource or names the next owner; an owner without a request gives the
resource up; the hold watchdog opens a forced release and aborts the owner's task; the release ends; past the abort timeout the
task's chamber or the resource is wedged. -/
def Obligations.ArbiterCommandsComplete : Prop :=
  ∀ (a : ArbId) (s : State),
    let k := arbKey a
    let v := s.arb k
    (∀ i, s.arbChoice v = some i → v.forced = none → s.retraining k = false →
      (∀ r ∈ v.reqs, ∀ m, r.ch = some m → m < 1024) →
      ∃ u, exec (.arbPhase a) s = .next u ∧ KeepsMem s u ∧ u.chambers = s.chambers
        ∧ (v.holder = none → (u.arb k).holder = some i ∧ (u.arb k).winner = none
            ∧ u.get (arbCounter k i 0) count32 = min (s.get (arbCounter k i 0) count32 + 1) 0xFFFFFFFF)
        ∧ (v.holder ≠ none → (u.arb k).holder = v.holder ∧ (u.arb k).winner = some i))
  ∧ (∀ h, v.holder = some h → v.forced = none → s.retraining k = false → 
      (∀ r ∈ v.reqs, r.input = h → r.moved = true) →
      ∃ u, exec (.arbRequestDrop a) s = .next u ∧ KeepsMem s u ∧ u.chambers = s.chambers
        ∧ (v.winner = none → (u.arb k).holder = none)
        ∧ ∀ w, v.winner = some w → (u.arb k).holder = if v.reqs.any (fun r => r.input = w && !r.moved) then some w else none)
  ∧ (∀ h r rest c, v.holder = some h → s.get AB_CTRL AB_CTRL.HOLD_TIMEOUT ≠ 0 →
      microTicks (s.get AB_CTRL AB_CTRL.HOLD_TIMEOUT) ≤ s.now - v.lastMove → v.forced = none → s.retraining k = false →
      v.reqs.filter (fun r => r.input = h && !r.moved) = r :: rest → r.ch = some c →
      (∀ q ∈ v.reqs, q.tag < 4 ∧ ∀ m, q.ch = some m → m < 1024) → s.live c r.tag = true →
      ∃ u, exec (.holdWatchdogBite a) s = .next u ∧ KeepsMem s u ∧ (u.arb k).forced = some s.clk ∧ (u.arb k).holder = some h
        ∧ u.tstate c r.tag = tAborting ∧ (u.task c r.tag).abortCode = abHold
        ∧ (k < 4096 → u.get (ABC_FAULT (k / 4)) ABC_FAULT.CODE = abHold)
        ∧ (4096 ≤ k → u.get AB_FAULT AB_FAULT.CODE = abHold))
  ∧ (∀ h x, v.holder = some h → v.forced = some x →
      (arbClass k, if k < 4096 then k / 4 else if k < 4224 then k - 4096 else k - 4224) ∉ s.svc.wedges →
      ∃ u, exec (.forcedReleaseDone a) s = .next u ∧ KeepsMem s u ∧ u.chambers = s.chambers
        ∧ (u.arb k).holder = none ∧ (u.arb k).forced = none ∧ ∀ r ∈ (u.arb k).reqs, r.input = h → r.moved = true)
  ∧ (∀ (n : Ch) (t : Tag), s.tstate n t = tAborting →
      microTicks (s.get LN_SVC_CTRL LN_SVC_CTRL.ABORT_TIMEOUT) ≤ s.clk - (s.task n t).abortSince →
      (7, n.val) ∉ s.svc.wedges →
      exec (.abortTimeout (.task n t)) s = .next (s.wedge (some n.val) 7 n.val))
  ∧ (∀ x, v.forced = some x → microTicks (s.get LN_SVC_CTRL LN_SVC_CTRL.ABORT_TIMEOUT) ≤ s.clk - x →
      let index := if k < 4096 then k / 4 else if k < 4224 then k - 4096 else k - 4224
      (arbClass k, index) ∉ s.svc.wedges →
      exec (.abortTimeout (.release a)) s
        = .next ((s.showWedge (arbClass k) index).wedge (if k < 4096 then some (k / 4) else none) (arbClass k) index))

/-! ### Passages (chapter 12) -/

/-- R237, R251, R254 to R256, R258, R259, R293: the headers up to one that arrived join the queue in their order; the best queued step
is chosen and, once its ports and banks are passed, prepared; a running PREFILL step of lower class is preempted first, and resumed
where no queued step is above it; a prepared step that is due is delivered; a step ends when its counter reaches its target; a failed
step task ends its step; after either, what waited for the time between steps goes on; the ids of a step become a TOK record. -/
def Obligations.DispatcherCommandsComplete : Prop :=
  ∀ (s : State),
    (∀ (k : Fin 16) i, (s.disp.inbox.findIdx? fun x => x.1 = k.val) = some i →
      exec (.stepHeaderArrive k) s = .next (s.modDisp fun d => { d with
        inbox := d.inbox.drop (i + 1), queue := d.queue ++ d.inbox.take (i + 1) }))
  ∧ (s.disp.chosen = none → s.dispFree = true →
      (∀ y, s.disp.running = none → s.outranked = true → bestStep s.disp.queue = some y →
        exec .stepChoose s = .next ((s.takeStep y).prepareStep y.1 y.2))
      ∧ (s.disp.running = none → s.outranked = false → s.savingPrefill = false →
        exec .stepChoose s = .next s.resumePrefill)
      ∧ (∀ x y, s.disp.running = some x → bestStep s.disp.queue = some y → hdrKind x.2 = 2 → hdrClass x.2 < hdrClass y.2 →
        ∃ u, exec .stepChoose s = .next u ∧ u.disp.running = none ∧ u.disp.paused = (x, s.disp.target) :: s.disp.paused
          ∧ u.disp.chosen = some y ∧ u.disp.prepared = false))
  ∧ (∀ k h, s.disp.chosen = some (k, h) → s.disp.prepared = false → s.savingPrefill = false →
      exec .stepChoose s = .next (s.prepareStep k h)
      ∧ (s.clear prepReq (s.prepRoute k h) = true →
        s.prepareStep k h = (s.arbMoved prepReq (s.prepRoute k h)).stepPrepared k h ∧ (s.prepareStep k h).disp.prepared = true))
  ∧ (∀ k h, s.disp.chosen = some (k, h) → s.disp.prepared = true → s.dueAt h ≤ s.now →
      let route := s.working.flatMap fun w => s.dispRoute w.1 w.2 s.pHdr 64 true
      s.clear writeReq route = true →
      ∃ u, exec .stepDeliver s = .next u ∧ u = (s.arbMoved writeReq route).stepDelivered k h ∧ u.disp.chosen = none
        ∧ u.disp.prepared = false ∧ u.disp.running = some (k, h.set 4 (BitVec.ofNat 64 s.now)))
  ∧ (∀ k h c s', s.disp.running = some (k, h) → s.endCounter = (c, s') → s.disp.target ≤ c →
      (∀ d ∈ s.stepOwn h, s.taskFailed d = false) →
      let s1 := s'.passOn k h
      let s2 := (s1.modDisp fun d => { d with embeds := kdel d.embeds k }).spend s1.pEndCount
      exec .stepEnd s
        = .next (if s2.disp.paused = [] then s2 else if hdrKind h = 2 then s2.abortSets [true]
            else if s2.outranked ∨ s2.savingPrefill then s2 else s2.resumePrefill).stepOver)
  ∧ (s.lookFailed.disp.renew ≠ [] → exec .stepFail s = .next s.lookFailed.renewSteps.stepOver)
  ∧ (∀ b, s.gl.failedTo = [] → s.disp.renew = [] → (∃ d ∈ s.tasksOf b, s.taskFailed d = true) →
      ∃ u : State, exec .stepFail s = .next u.stepOver ∧ b ∈ u.disp.renew ∧ u.disp.chosen = none ∧ u.disp.prepared = false
        ∧ ∀ x, s.disp.running = some x → (hdrKind x.2 == 2) = b → u.disp.running = none)
  ∧ (∀ (k : Fin 16) (ids drafts : List (BitVec 32)) msg id most r, kfind s.disp.idMsgs k.val = some msg →
      s.disp.stale.contains k.val = false →
      kfind s.disp.tickets k.val = some (id, most) → (s.disp.reqs.find? fun r => r.id = id) = some r → r.cancelled = false →
      idsOf msg = (ids, drafts) → ids.take most ≠ [] →
      let out := (ids.take most).map (·.toNat)
      let s1 := (s.modDisp fun d => { d with idMsgs := kdel d.idMsgs k }).freeTicket k false
      ∃ u rec, exec (.tokenIdsArrive k ids drafts) s = .next u ∧ u = s1.takeTokens r (num msg 0 8) out (drafts.map (·.toNat))
        ∧ rec ∈ u.disp.toks ∧ rec.kind = 1 ∧ rec.req = r.id ∧ rec.port = r.port ∧ rec.step = r.delivered
        ∧ rec.ids = (takeIds r out).1)

/-! ### The Gallery (chapter 13) -/

/-- R262 to R269: a good LINK_CTRL takes what it acknowledges from the replay buffer, adds its credit and on a NAK sends the rest again;
the NAK that reaches RETRY_LIMIT takes the port DOWN; one that fails its CRC is counted; a going-down notice sends the port to training.
A good frame in sequence is served and acknowledged, one out of sequence or with a bad CRC is dropped and asked for again, a stomped one
is counted. -/
def Obligations.GalleryFramesComplete : Prop :=
  ∀ (p : GPort) (f : GFrame) (c : Fec) (s : State), s.gpState p = gpUp →
    let v := s.gport p
    let ack := f.tag % 2 ^ 12
    let count := if v.nakSeq = ack then v.nakCount + 1 else 1
    let limit := s.get GL_CTRL GL_CTRL.RETRY_LIMIT
    let fecRegs (a : Nat) : Prop := a = GL_PORT_FEC_CORR p ∨ a = GL_PORT_FEC_UNCORR p
    let s1 := (s.glFec p c).modGport p fun v => { v with lastRx := s.clk }
    (f.type = 0 → c.uncorr = 0 → f.crc = gCrc f → gLocal f = true → f.tag / 2 ^ 14 + f.lseq % 2 * 4 = 0 → v.txq = [] →
      (nbit f.tag 13 = true → count < limit) →
      let left := if nbit f.tag 12 then v.replay.filter fun g => !(g.lseq = ack || seqBehind g.lseq ack) else v.replay
      ∃ u, exec (.glLinkCtrl p ⟨f, c⟩) s = .next u ∧ Apart s u
        ∧ (u.gport p).replay = left ∧ (u.gport p).lastRx = s.clk
        ∧ (u.gport p).credits = v.credits.mapIdx (fun k c => c + f.pa / 2 ^ (12 * k) % 4096)
        ∧ u.gl.out = s.gl.out ++ (if nbit f.tag 13 then left.map fun g => (p.val, g) else [])
        ∧ ∀ q, q ≠ p.val → u.gport q = s.gport q)
  ∧ (f.type = 0 → c.uncorr = 0 → f.crc = gCrc f → gLocal f = true → f.tag / 2 ^ 14 + f.lseq % 2 * 4 = 0 →
      nbit f.tag 13 = true → limit ≤ count →
      ∃ u, exec (.glLinkCtrl p ⟨f, c⟩) s = .next u ∧ Apart s u ∧ u.gpState p = gpHold
        ∧ u.get (GL_PORT_STATUS p) GL_PORT_STATUS.LAST_DOWN = 3)
  ∧ (f.type = 0 → c.uncorr ≠ 0 ∨ f.crc ≠ gCrc f →
      ∃ u, exec (.glLinkCtrl p ⟨f, c⟩) s = .next u ∧ u = { s with regs := u.regs, perf := u.perf }
        ∧ KeepsRegs (fun a => a = GL_PORT_CRC p ∨ fecRegs a) s u
        ∧ u.get (GL_PORT_CRC p) count32 = min (s.get (GL_PORT_CRC p) count32 + 1) 0xFFFFFFFF
        ∧ u.get (GL_PORT_FEC_UNCORR p) count32 = min (s.get (GL_PORT_FEC_UNCORR p) count32 + c.uncorr) 0xFFFFFFFF)
  ∧ (f.type = 0 → c.uncorr = 0 → f.crc = gCrc f → gLocal f = true → f.tag / 2 ^ 14 + f.lseq % 2 * 4 ≠ 0 →
      ∃ u, exec (.glLinkCtrl p ⟨f, c⟩) s = .next u ∧ Apart s u ∧ u.gpState p = gpTraining
        ∧ u.get (GL_PORT_STATUS p) GL_PORT_STATUS.LAST_DOWN = 5
        ∧ (u.gport p).trainSince = some (s.clk + ms 1000) ∧ (u.gport p).replay = [] ∧ (u.gport p).txq = [])
  ∧ (2 ≤ f.type → c.uncorr = 0 → f.crc = gCrc f → f.crc ≠ ~~~gCrc f → f.lseq = v.expect →
      exec (.glFrameReceive p ⟨f, c⟩) s = .next (((s1.glInOrder p).tallyX 0xB02 p f.payload.length).glServe p f)
      ∧ (gLegal f = true → f.dest = s.addr → gKnown f = true →
        ∃ u, exec (.glFrameReceive p ⟨f, c⟩) s = .next u ∧ Apart s u ∧ u.gl.rx = s.gl.rx ++ [(p.val, f, s.now)]
          ∧ (u.gport p).expect = (v.expect + 1) % 4096 ∧ (u.gport p).ackDue = true))
  ∧ (2 ≤ f.type → c.uncorr = 0 → f.crc = gCrc f → f.crc ≠ ~~~gCrc f → f.lseq ≠ v.expect → seqBehind f.lseq v.expect = false →
      v.lost = false →
      ∃ u g, exec (.glFrameReceive p ⟨f, c⟩) s = .next u ∧ Apart s u ∧ u.gl.rx = s.gl.rx
        ∧ u.gl.out = s.gl.out ++ [(p.val, g)] ∧ g.type = 0 ∧ nbit g.tag 13 = true
        ∧ (u.gport p).lost = true ∧ (u.gport p).expect = v.expect
        ∧ ∀ q, q ≠ p.val → u.gport q = s.gport q)
  ∧ (2 ≤ f.type → c.uncorr ≠ 0 ∨ (f.crc ≠ gCrc f ∧ f.crc ≠ ~~~gCrc f) →
      let s2 := ((s.glFec p c).bump (GL_PORT_CRC p) 1).modGport p fun v => { v with lastRx := s.clk }
      exec (.glFrameReceive p ⟨f, c⟩) s = .next ((if f.lseq = v.expect then s2.stomp f else s2).glNak p))
  ∧ (2 ≤ f.type → c.uncorr = 0 → f.crc = ~~~gCrc f →
      let s2 := s1.bump (GL_PORT_STOMP p) 1
      (f.lseq = v.expect →
        exec (.glFrameReceive p ⟨f, c⟩) s = .next (((s2.glInOrder p).stomp f).giveBack p (f.vc % 4) (gUnits f)))
      ∧ (f.lseq ≠ v.expect →
        ∃ u, exec (.glFrameReceive p ⟨f, c⟩) s = .next u ∧ Apart s u ∧ KeepsRegs (fun a => a = GL_PORT_STOMP p ∨ fecRegs a) s u
          ∧ u.gl.rx = s.gl.rx
          ∧ u.get (GL_PORT_STOMP p) count32 = min (s.get (GL_PORT_STOMP p) count32 + 1) 0xFFFFFFFF
          ∧ (u.gport p).expect = v.expect))

/-- R268, R273: what is due at an UP port goes in a LINK_CTRL frame, after 10 µs of silence too; a VC that waits for credit past
the stall time takes the port DOWN; HELLO frames are sent and noted in HELLO and CHECKING, and 10 ms without one starts training
again. -/
def Obligations.GalleryLinkTimersComplete : Prop :=
  ∀ (p : GPort) (s : State),
    let v := s.gport p
    let clear (u : State) : Prop := (u.gport p).ackDue = false ∧ (u.gport p).nakDue = false ∧ (u.gport p).ret = [0, 0, 0, 0]
    let sent (f : GFrame) (u : State) : Prop := ∃ g, u.gl.out = s.gl.out ++ [(p.val, g)] ∧ g.type = f.type
      ∧ g.tag = f.tag ∧ g.pa = f.pa ∧ g.payload = f.payload ∧ g.crc = gCrc g ∧ g.src = s.addr
    (s.gpState p = gpUp → (v.ackDue = true ∨ v.nakDue = true ∨ v.ret.any (· ≠ 0) = true) →
      ∃ u, exec (.glAckDue p) s = .next u ∧ u = { s with gl := u.gl } ∧ clear u ∧ sent (s.linkCtrl p 0) u)
  ∧ (s.gpState p = gpUp → 1000 ≤ s.clk - v.lastTx →
      ∃ u, exec (.glKeepalive p) s = .next u ∧ u = { s with gl := u.gl } ∧ clear u ∧ sent (s.linkCtrl p 0) u
        ∧ (u.gport p).lastTx = s.clk)
  ∧ (s.gpState p = gpUp → s.glStalled p = true →
      ∃ u, exec (.glCreditStall p) s = .next u ∧ Apart s u ∧ u.gpState p = gpHold
        ∧ u.get (GL_PORT_STATUS p) GL_PORT_STATUS.LAST_DOWN = 4 ∧ (u.gport p).replay = [] ∧ (u.gport p).txq = [])
  ∧ (s.gpState p = gpHello ∨ s.gpState p = gpChecking →
      ∃ u, exec (.glHelloSend p) s = .next u ∧ u = { s with gl := u.gl }
        ∧ sent (mkFrame 1 linkLocal 0 0 0 (s.helloPayload p)) u)
  ∧ (∀ (f : GFrame) (c : Fec), s.gpState p = gpHello ∨ s.gpState p = gpChecking → f.type = 1 → c.uncorr = 0 →
      f.crc = gCrc f → gLocal f = true →
      ∃ u, exec (.glHello p ⟨f, c⟩) s = .next u ∧ Apart s u ∧ (u.gport p).lastHello = some s.clk
        ∧ (u.gport p).units = (List.range 4).map (fun k => num f.payload (8 + 2 * k) 2)
        ∧ u.gpState p = if s.gpState p = gpHello ∧ num f.payload 5 1 ≠ 1 then gpHello else gpChecking)
  ∧ (s.gpState p = gpHello ∨ s.gpState p = gpChecking → ms 10 ≤ s.clk - v.lastHello.getD (v.trainSince.getD 0) →
      ∃ u, exec (.glHelloLost p) s = .next u ∧ Apart s u ∧ u.gpState p = gpTraining
        ∧ (u.gport p).trainSince = some s.clk ∧ (u.gport p).lastHello = none)

/-- R261, R262, R273, R274 (Table 7): bring-up and the ways down: training done goes to HELLO with the width, rate and FEC it took,
or tries again after 1 s; the NEIGHBOUR check makes the port UP or MISWIRED, and MISWIRED checks each second; an UP port that fails
holds, and trains when the hold expires; recalibration and enabling train it. -/
def Obligations.GalleryPortsComplete : Prop :=
  ∀ (p : GPort) (s : State),
    let v := s.gport p
    (∀ lanes : BitVec 4, s.gpState p = gpTraining → laneWidth lanes.toNat ≠ 0 → v.trainSince.getD 0 ≤ s.clk →
      ∃ u, exec (.glTrainingDone p lanes) s = .next u ∧ Apart s u ∧ u.gpState p = gpHello
        ∧ u.get (GL_PORT_STATUS p) GL_PORT_STATUS.WIDTH = laneWidth lanes.toNat
        ∧ u.get (GL_PORT_STATUS p) GL_PORT_STATUS.RATE_NOW = s.get (GL_PORT_CTRL p) GL_PORT_CTRL.RATE
        ∧ u.get (GL_PORT_STATUS p) GL_PORT_STATUS.FEC_NOW = s.get (GL_PORT_CTRL p) GL_PORT_CTRL.FEC)
  ∧ (s.gpState p = gpTraining → v.trainSince.getD 0 + ms 100 ≤ s.clk →
      ∃ u, exec (.glTrainingTimeout p) s = .next u ∧ u = { s with gl := u.gl }
        ∧ u.gport p = { v with trainSince := some (s.clk + ms 1000) } ∧ ∀ q, q ≠ p.val → u.gport q = s.gport q)
  ∧ (∀ q f s1, s.takeRx (fun q f => q = p.val && f.type = 7 && f.op = 0) = some ((q, f), s1) →
      s1.gpState p = gpChecking ∨ s1.gpState p = gpMiswired →
      let l := f.payload
      let same : Prop := ∃ d, s.portDef p = some d ∧ num l 0 8 = s.gl.galleryId ∧ num l 8 4 = s.gl.topoGen
        ∧ num l 12 3 = d.addr ∧ num l 15 1 = d.nport
      ∃ u, exec (.neighbour p) s = .next u ∧ Apart s u
        ∧ u.get (GL_PORT_NEIGH p) GL_PORT_NEIGH.ADDR = num l 12 3 % 2 ^ GL_PORT_NEIGH.ADDR.w
        ∧ u.get (GL_PORT_NEIGH p) GL_PORT_NEIGH.VALID = 1
        ∧ (same → u.gpState p = gpUp ∧ (u.gport p).sendSeq = 0 ∧ (u.gport p).expect = 0
            ∧ (u.gport p).credits = (s1.gport p).units)
        ∧ (¬ same → u.gpState p = gpMiswired ∧ (u.gport p).checkedAt = s.clk))
  ∧ (s.gpState p = gpMiswired → ms 1000 ≤ s.clk - v.checkedAt →
      ∃ u f, exec (.glMiswiredRecheck p) s = .next u ∧ u = { s with gl := u.gl } ∧ (u.gport p).checkedAt = s.clk
        ∧ u.gl.out = s.gl.out ++ [(p.val, f)] ∧ f.type = 7 ∧ f.op = 0)
  ∧ (∀ cause : DownCause, s.gpState p = gpUp →
      (cause = .noFrame → 10000 ≤ s.clk - v.lastRx) →
      (cause = .retryLimit → 0 < v.nakCount ∧ s.get GL_CTRL GL_CTRL.RETRY_LIMIT ≤ v.nakCount) →
      (cause = .creditStall → s.glStalled p = true) →
      let last := match cause with | .signalLost => 1 | .noFrame => 2 | .retryLimit => 3 | .creditStall => 4
      ∃ u, exec (.glPortDown p cause) s = .next u ∧ Apart s u ∧ u.gpState p = gpHold
        ∧ u.get (GL_PORT_STATUS p) GL_PORT_STATUS.LAST_DOWN = last ∧ (u.gport p).replay = [] ∧ (u.gport p).txq = []
        ∧ (u.gport p).downAt = s.flaps p ++ [s.clk]
        ∧ u.get (GL_PORT_STATUS p) GL_PORT_STATUS.FLAPS = min 31 (u.flaps p).length
        ∧ (u.gport p).holdUntil
            = s.clk + s.get GL_CTRL GL_CTRL.HOLD_BASE * ms 10 * min 64 (2 ^ ((u.gport p).downAt.length - 1)))
  ∧ (s.gpState p = gpHold → v.holdUntil ≤ s.clk →
      ∃ u, exec (.glHoldExpire p) s = .next u ∧ Apart s u ∧ u.gpState p = gpTraining
        ∧ (u.gport p).trainSince = some s.clk ∧ u.get (GL_PORT_STATUS p) GL_PORT_STATUS.HOLD_LEFT = 0)
  ∧ (s.gpState p = gpUp →
      ∃ u f, exec (.glRecal p) s = .next u ∧ Apart s u ∧ u.gpState p = gpTraining
        ∧ u.get (GL_PORT_STATUS p) GL_PORT_STATUS.LAST_DOWN = 6
        ∧ u.gl.out = s.gl.out ++ [(p.val, f)] ∧ f.type = 0 ∧ f.tag / 2 ^ 14 = 3)
  ∧ (s.gpState p = gpOff →
      ∃ u, exec (.glEnable p) s = .next u ∧ Apart s u ∧ u.get (GL_PORT_CTRL p) GL_PORT_CTRL.ENABLE = 1
        ∧ u.gpState p = if (s.portDef p).isSome then gpTraining else gpOff)

/-- R237, R265, R271, R272: a remote access is refused with its status, or served and answered once its resources are passed, and one
that is not granted them waits; a RESPONSE in time ends its transaction, a late one is discarded, and a transaction without one ends with
status 10. While the module resets, leaves or has not joined the status is BUSY. -/
def Obligations.RemoteAccessesComplete : Prop :=
  ∀ (s : State) (q : Nat) (f : GFrame) (s1 : State),
    let req := otherReq none 13 (gNo f)
    let unlost := s.gl.lost.contains (gNo f) = false
    (s.takeRx (fun _ f => f.type = 2) = some ((q, f), s1) → unlost →
      let k := f.aux % 4096
      let st := s1.remoteStatus f.pa k
      let route := s.inboundRoute f.pa k false
      (st ≠ 0 → exec .readReq s = .next (s1.respond f st [] false))
      ∧ (st = 0 → s.clear req route = true → ∀ d p s2, ((s1.arbMoved req route).touch f.pa k 0 false).readPa f.pa k = (d, p, s2) →
          exec .readReq s = .next (s2.respond f 0 d p))
      ∧ (st = 0 → s.clear req route = false → exec .readReq s = .next ((s.pass req route).ask req route)))
  ∧ (s.takeRx (fun _ f => f.type = 3) = some ((q, f), s1) → unlost →
      let k := f.payload.length
      let st := s1.remoteStatus f.pa k
      let route := s.inboundRoute f.pa k true
      (st ≠ 0 → exec .write s = .next (s1.respond f st [] false))
      ∧ (st = 0 → s.clear req route = true → exec .write s
          = .next ((((s1.arbMoved req route).touch f.pa k 0 true).writePa f.pa f.payload f.poison).respond f 0 [] false)))
  ∧ (s.takeRx (fun _ f => f.type = 4) = some ((q, f), s1) → unlost →
      let route := s.inboundRoute f.pa 8 true
      (s1.glBusy = true → exec .atomic s = .next (s1.respond f 4 [] false))
      ∧ (s1.glBusy = false → f.op = 0 → f.pa % 8 = 0 → inG7 f.pa = true → s1.remoteStatus f.pa 8 = 0 → s.clear req route = true →
          ∀ v s2, (s1.arbMoved req route).fetchAdd f.pa 0 (ofBytes f.payload) = (.ok v, s2) →
            exec .atomic s = .next (s2.respond f 0 (toBytes 8 v) false)))
  ∧ (∀ x, s.takeRx (fun _ f => f.type = 6) = some ((q, f), s1) →
      (s1.gl.txns.find? fun x => x.tag = f.tag ∧ x.dest = f.src) = some x →
      let s2 := s1.modGl fun g => { g with txns := g.txns.erase x }
      let limit := microTicks (s1.get GL_CTRL GL_CTRL.E2E_TIMEOUT)
      (s1.clk - x.since ≤ limit →
        exec .response s = .next (if f.op = 0 then s2.txnDone x f.payload f.poison else s2.txnFail x f.op))
      ∧ (limit < s1.clk - x.since → exec .response s = .next s1))
  ∧ (∀ (tag : BitVec 16) x, (s.gl.txns.find? fun x => x.tag = tag.toNat) = some x →
      microTicks (s.get GL_CTRL GL_CTRL.E2E_TIMEOUT) ≤ s.clk - x.since →
      exec (.e2eTimeout tag) s = .next ((s.modGl fun g => { g with txns := g.txns.erase x }).txnFail x 10))
  ∧ ∀ pa k, s.glBusy = true → s.remoteStatus pa k = 4

/-- R12, R251, R259, R283, R324: a step header lies in the inbox slot of its ticket; a failure notice ends its request at the entry
module, which keeps the token ids of a step; heartbeats are sent on and noted, and without one for 3 ms, or with a cut notice,
the passage is cut; a restart probe goes on round the passage. -/
def Obligations.DispatcherMessagesComplete : Prop :=
  ∀ (s : State) (f : GFrame) (s1 : State),
    (s.takeMsg 0 = some (f, true, s1) →
      let h := bytesWords 8 f.payload
      (s1.svc.failAll = false → ∃ u, exec .msgStepHeader s = .next u ∧ u = { s1 with disp := u.disp }
        ∧ kfind u.disp.inbox (f.aux % 16) = some h ∧ kfind u.disp.arrived (f.aux % 16) = some s1.now
        ∧ u.disp.queue = s1.disp.queue)
      ∧ (s1.svc.failAll = true → exec .msgStepHeader s = .next (s1.failNotice h 0x01FF)))
  ∧ (s.takeMsg 1 = some (f, true, s1) → s1.isEntry = true →
      let t := f.aux % 16
      (∀ r, s1.disp.stale.contains t = false → (s1.disp.reqs.find? fun r => r.id = num f.payload 0 4) = some r →
        exec .msgFailureNotice s
          = .next (((s1.freeTicket t false).endReq r 3 (num f.payload 4 4 % 65536) true).pump))
      ∧ (s1.disp.stale.contains t = true →
        exec .msgFailureNotice s = .next (s1.modDisp fun d => { d with stale := d.stale.erase t }).pump))
  ∧ (s.takeMsg 2 = some (f, true, s1) → s1.isEntry = true →
      ∃ u, exec .msgTokenIds s = .next u ∧ u = { s1 with disp := u.disp }
        ∧ kfind u.disp.idMsgs (f.aux % 16) = some f.payload)
  ∧ (∀ b, s.takeMsg 3 = some (f, b, s1) → s1.pBefore = none ∨ s1.pBefore = some f.src →
      ∃ u, exec .msgPassageHeartbeat s = .next u ∧ u = { s1 with gl := { s1.gl with passHeard := s1.clk } })
  ∧ (∀ b, s.takeMsg 4 = some (f, b, s1) → exec .msgCutNotice s = .next s1.cutPassage)
  ∧ (s.takeMsg 5 = some (f, true, s1) → s1.loaded = true →
      (s1.isEntry = true → exec .msgRestartProbe s = .next (s1.probeBack f.payload))
      ∧ (s1.isEntry = false → s1.viewState = 1 ∨ s1.viewState = 2 → s1.gl.view.contains s1.pEntry = true →
          s1.gl.view.contains s1.addr = true → exec .msgRestartProbe s = .next (s1.probeHere f.payload)))
  ∧ (s.hasRecipe = true → s.get LN_BOOT LN_BOOT.STAGE = 9 →
      exec .passageHeartbeatSend s = .next (s.sendNext 3 0 [] .message)
      ∧ (ms 3 ≤ s.clk - s.gl.passHeard → exec .passageUpstreamLost s = .next s.cutPassage))
  ∧ (s.isEntry = true → s.loaded = true → s.recreating = false → s.svc.switch = none → s.get GL_STATUS GL_STATUS.CUT = 1 →
      s.gl.lastProbe = 0 ∨ s.gl.lastProbe + ms 100 ≤ s.clk →
      exec .restartProbeSend s
        = .next ((s.modGl fun g => { g with lastProbe := s.clk }).sendNext 5 0 (probePayload s.recipeGen false) .message))

/-- R280, R281: what each message of the membership does at a member, at an aggregator, at the leader and at a proposer. That a member
asks to leave by a PROPOSE at the present epoch is the model's choice (log entry 103). A FROZEN module takes part in no change but one
that joins it, and answers the first BEACON of a higher EPOCH; a JOIN that is refused goes back the way it came. -/
def Obligations.MembershipMessagesComplete : Prop :=
  ∀ (s : State) (f : GFrame) (s1 : State),
    (s.takeLantern 1 = some (f, s1) →
      ∃ u, exec .lanternHeartbeat s = .next u ∧ u = { s1 with gl := u.gl }
        ∧ kget u.gl.heard f.src 0 = s1.clk
        ∧ ∀ i, i < 128 → nbit (ofBytes f.payload) i = true → kget u.gl.heard (f.src / 128 * 128 + i) 0 = s1.clk)
  ∧ (s.takeLantern 2 = some (f, s1) →
      let leader := num f.payload 0 3
      (s1.viewState = 1 → leader = s1.leader →
        ∃ u, exec .beacon s = .next u ∧ Apart s1 u ∧ u.gl.beaconAt = s1.clk
          ∧ (leader ∈ u.gl.locked ↔ num f.payload 3 1 % 2 = 1))
      ∧ (s1.viewState ≠ 1 → s1.viewState ≠ 0 → s1.epoch < f.aux → (s1.viewState = 2 → s1.gl.answered = false) →
        exec .beacon s = .next (((s1.passBeacon f).sendJoin leader).modGl fun g => { g with answered := true }))
      ∧ (s1.viewState = 2 → s1.epoch < f.aux → s1.gl.answered = true → exec .beacon s = .next (s1.passBeacon f)))
  ∧ (s.takeLantern 3 = some (f, s1) →
      (s1.gl.rx.any fun x => x.2.1.type = 7 && x.2.1.op = 3 && x.2.1.aux = f.aux && x.2.1.src < f.src) = false →
      s.epoch < f.aux →
      (s1.gl.acked = none ∨ ∃ e p, s1.gl.acked = some (e, p) ∧ (e < f.aux ∨ (e = f.aux ∧ p = f.src))) →
      let c := readChange f s.clk
      (num f.payload 0 2 = 0 → num f.payload 2 2 = 1 → s.mayChange c = true) →
      let seen := if num f.payload 0 2 = 0 then some c
        else s1.gl.seenChange.map fun o => { o with addrs := o.addrs ++ c.addrs, whole := o.whole ++ c.whole }
      let s2 := s1.modGl fun g => { g with acked := some (f.aux, f.src), seenChange := seen }
      exec .propose s
        = .next (if num f.payload 0 2 + 1 = num f.payload 2 2 ∧ seen.all s2.mayChange then s2.ackOwn else s2))
  ∧ (s.takeLantern 3 = some (f, s1) → s.isLeader = true → s.viewState = 1 → f.aux = s.epoch →
      (readChange f s.clk).kind = 1 → (readChange f s.clk).addrs = [f.src] →
      exec .propose s = .next (s1.askChange 1 f.src))
  ∧ (s.takeLantern 4 = some (f, s1) → s1.gl.change = none →
      exec .ack s = .next ((s1.addAck f.aux f.src (num f.payload 0 4)).ackReady))
  ∧ (∀ c, s.takeLantern 4 = some (f, s1) → s1.gl.change = some c → c.epoch = f.aux → c.retry = false →
      s1.clk - c.since < ms 100 →
      let c' := { c with weight := c.weight + num f.payload 0 4, acked := c.acked ++ [f.src] }
      exec .ack s = .next (if s1.quorum c'.weight c'.acked then (s1.commitChange c').nextChange
        else { s1 with gl := { s1.gl with change := some c' } }))
  ∧ (∀ c, s.takeLantern 5 = some (f, s1) → s1.gl.seenChange = some c → c.epoch = num f.payload 0 4 → s1.mayChange c = true →
      let byLeader : Bool := c.proposer = s1.leader && !s1.gl.view.isEmpty
      let view := changed s1.gl.view c byLeader (c.kind = 0 && c.addrs.contains s1.addr)
      let leader := if c.kind = 2 ∧ byLeader = true then c.addrs.headD c.proposer else c.proposer
      exec .commit s = .next (s1.adopt view c.epoch leader))
  ∧ (∀ q, s.takeRx (fun _ f => f.type = 7 && f.op = 6) = some ((q, f), s1) →
      let a := num f.payload 0 3
      (a = s1.addr → s1.viewState ≠ 1 → ∃ u, exec .join s = .next u ∧ u = { s1 with regs := u.regs }
        ∧ KeepsRegs (· = GL_STATUS) s1 u ∧ u.get GL_STATUS GL_STATUS.ADDR_CLASH = 1)
      ∧ (s1.viewState = 1 → s1.isLeader = false → f.src ≠ s1.leader →
          exec .join s = .next ((s1.modGl fun g => { g with joins := kset g.joins a q }).lantern s1.leader 6 f.aux f.payload))
      ∧ (∀ r, s1.viewState = 1 → s1.isLeader = false → f.src = s1.leader → kfind s1.gl.joins a = some r →
          exec .join s = .next ((s1.modGl fun g => { g with joins := kdel g.joins a }).returnJoin r f a))
      ∧ (s1.viewState = 1 → s1.isLeader = true → num f.payload 4 4 = s1.gl.topoGen →
          (s1.gl.view.contains a = true → exec .join s
            = .next (if f.src = a then s1.returnJoin q f a else s1.lantern f.src 6 f.aux f.payload))
          ∧ (s1.gl.view.contains a = false →
            exec .join s = .next ((if (kfind s1.gl.weights a).isSome then s1
              else s1.modGl fun g => { g with weights := kset g.weights a (num f.payload 3 1) }).askChange 0 a))))

/-- R280, R281: the timers of the membership: who is sent a heartbeat and a BEACON, when a module unheard for 30 ms is proposed to
leave, when a BEACON is lost, when a change without quorum is dropped and tried again, and when the view freezes. -/
def Obligations.MembershipTimersComplete : Prop :=
  ∀ (s : State),
    (∀ a, s.viewState = 3 → ((s.gl.weights.map (·.1)).find? fun a => a != s.addr && s.reaches a) = some a →
      exec .membershipHeartbeatTimer s = .next (s.sendJoin a))
  ∧ (∀ a, s.viewState = 1 ∨ s.viewState = 2 → s.isLeader = false → s.isAggregator = false →
      s.aggregator (s.addr / 128) = some a →
      exec .membershipHeartbeatTimer s = .next (s.lantern a 1 s.epoch []).passAck)
  ∧ (s.viewState = 1 ∨ s.viewState = 2 → s.isLeader = false → s.isAggregator = true →
      exec .membershipHeartbeatTimer s = .next (s.lantern s.leader 1 s.epoch (toBytes 16 s.heardBits)).passAck)
  ∧ (s.viewState = 1 → s.isLeader = true → s.isAggregator = true →
      let s1 := s.passAck.nextChange
      let flags := bit (decide (s1.get TB_PPS TB_PPS.STATE = 2))
      exec .membershipHeartbeatTimer s = .next (s1.beaconTo.foldl (fun (s : State) a =>
        s.lantern a 2 s.epoch (toBytes 3 s.addr ++ toBytes 1 flags)) s1))
  ∧ (∀ a, s.isLeader = true → s.viewState = 1 → a ≠ s.addr → s.gl.view.contains a = true →
      ms 30 ≤ s.clk - kget s.gl.heard a 0 →
      let g := a / 128
      let all := (s.gl.view.filter fun a => a / 128 = g).all fun a => decide (ms 30 ≤ s.clk - kget s.gl.heard a 0)
      exec (.memberUnheard a) s = .next
        (if g ≠ s.addr / 128 ∧ s.gl.change = none ∧ all = true then s.proposeNow 1 [] [g] else s.askChange 1 a))
  ∧ (s.isLeader = false → s.viewState = 1 → s.gl.change = none →
      let rank := ((s.gl.view.filter fun a => s.reaches a).filter (· < s.addr)).length
      ms (30 + 10 * rank) ≤ s.clk - s.gl.beaconAt →
      exec .beaconLost s = .next (s.proposeNow 2 (s.gl.view.filter fun a => !s.reaches a) []))
  ∧ (∀ c, s.gl.change = some c → c.retry = false → ms 100 ≤ s.clk - c.since →
      ∃ u, exec .changeTimeout s = .next u ∧ u = { s with gl := u.gl }
        ∧ u.gl.change = if s.isLeader then some { c with retry := true } else none)
  ∧ (∀ c, s.gl.change = some c → c.retry = true → ms 1100 ≤ s.clk - c.since →
      exec .changeTimeout s = .next ((s.modGl fun g => { g with change := none }).proposeNow c.kind c.addrs c.whole))
  ∧ (s.isLeader = false → s.viewState = 1 → ms 100 ≤ s.clk - s.gl.beaconAt →
      ∃ u, exec .freeze s = .next u ∧ Apart s u ∧ u.viewState = 2 ∧ u.gl.change = none)

/-- R276, R278: SYNC measures the offset against the master's time with the link delay and the frame's residence time added, steps the
timebase before serving and slews it while serving, and is passed on to ports a free value names (log entry 105); the link delay
is ((t₄ − t₁) − (t₃ − t₂)) ÷ 2; the time is lost after 16 ms without SYNC. -/
def Obligations.TimeCommandsComplete : Prop :=
  ∀ (p : GPort) (s : State),
    (∀ f r s1, s.takeTime p 0 = some (f, r, s1) → s1.isLeader = false → s1.route s1.leader 2 = some p.val →
      let corr := signed 48 (num f.payload 10 6) + (s1.gport p).delay + ((s1.now : Int) - r) * 10000
      let off : Int := (s1.now : Int) * 10000 - (num f.payload 0 8 * 10000 + num f.payload 8 2 * 10000 / 65536 : Nat) - corr
      let ticks := (off + 5000) / 10000
      let serving := s1.get LN_BOOT LN_BOOT.STAGE = 9
      let s2 := (s1.set GL_TIME GL_TIME.OFFSET (BitVec.ofInt 32 (off.tdiv 1000)).toNat).modGl fun g => { g with syncAt := s1.clk }
      let s3 := (if serving then s2.slewBy (-ticks) else s2.setTime ticks).timeTo (if serving ∧ 100000 < off.natAbs then 3 else 1)
      exec (.sync p) s = .next ((List.range 24).foldl (fun (t : State) q =>
        if q ≠ p.val ∧ t.gpState q = gpUp ∧ nbit s3.free.1.toNat q then
          t.sendTime q 0 (slice f.payload 0 10 ++ signedBytes corr) else t) s3.free.2))
  ∧ (∀ f r s1, s.takeTime p 1 = some (f, r, s1) →
      exec (.pdelayReq p) s
        = .next (s1.sendTime p 2 (toBytes 8 s1.now ++ toBytes 2 0 ++ signedBytes (((r : Int) - s1.now) * 10000))))
  ∧ (∀ f r s1 t1, s.takeTime p 2 = some (f, r, s1) → (s1.gport p).pdT1 = some t1 →
      ∃ u, exec (.pdelayRsp p) s = .next u ∧ u = { s1 with gl := u.gl } ∧ (u.gport p).pdT1 = none
        ∧ (u.gport p).delay = (((r : Int) - t1) * 10000 + signed 48 (num f.payload 10 6)) / 2)
  ∧ (s.gpState p = gpUp →
      exec (.pdelayTimer p) s = .next ((s.modGport p fun v => { v with pdT1 := some s.now }).sendTime p 1
        (toBytes 8 s.now ++ List.replicate 8 0)))
  ∧ (s.isLeader = true →
      exec .syncSend s = .next ((List.range 24).foldl (fun (s : State) q =>
        if s.gpState q = gpUp then s.sendTime q 0 (toBytes 8 s.now ++ List.replicate 8 0) else s) s))
  ∧ (s.isLeader = false → s.get GL_STATUS GL_STATUS.TIME_STATE = 1 ∨ s.get GL_STATUS GL_STATUS.TIME_STATE = 3 →
      ms 16 ≤ s.clk - s.gl.syncAt → exec .syncLoss s = .next ((s.slewBy 0).timeTo 2))

/-! ### Sirdy (chapter 14) -/

/-- R286 to R289: a good LINK_CTRL takes what it acknowledges from the replay buffer and adds its credit, the RETRY_LIMIT-th NAK for one
SEQ takes the port down; a bad frame is counted and asked for again, a good DATA frame in sequence is accepted; what is due at an UP port
goes in a LINK_CTRL frame. The FEC codewords that a frame came in are counted. -/
def Obligations.SirdyFramesComplete : Prop :=
  ∀ (p : SPort) (f : SFrame) (c : Fec) (s : State), s.spState p = spUp →
    let v := s.sport p
    let s0 := s.syFec p c
    let clear (u : State) : Prop := (u.sport p).ackDue = false ∧ (u.sport p).nakDue = false ∧ (u.sport p).ret = [0, 0, 0, 0, 0]
    (f.type = 0 → c.uncorr = 0 → f.crc = sCrc f → f.payload.length ≤ 2048 → f.aux / 2 ^ 14 % 8 = 0 → v.txq = [] →
      let ack := f.aux % 4096
      let left := if nbit f.aux 12 then v.replay.filter fun g => !(g.seq = ack || seqBehind g.seq ack) else v.replay
      let naks := if v.nakSeq = ack then v.nakCount + 1 else 1
      (¬ (nbit f.aux 13 = true ∧ v.limit ≤ naks) →
        ∃ u, exec (.syLinkCtrl p ⟨f, c⟩) s = .next u ∧ Apart s u ∧ (u.sport p).replay = left ∧ (u.sport p).lastRx = s.clk
          ∧ (u.sport p).credits = (v.credits.mapIdx fun k c => c + num f.payload 0 8 / 2 ^ (12 * k) % 4096)
          ∧ u.sy.out = s.sy.out ++ (if nbit f.aux 13 then left.map fun g => (p.val, g) else []))
      ∧ (nbit f.aux 13 = true → v.limit ≤ naks →
        ∃ u, exec (.syLinkCtrl p ⟨f, c⟩) s = .next u ∧ u.spState p = spDown
          ∧ u.get (SY_PORT_STATUS p) SY_PORT_STATUS.LAST_DOWN = 3 ∧ (u.sport p).trainAt = s.clk + ms 100))
  ∧ (f.type = 2 → c.uncorr = 0 → f.crc = sCrc f → f.seq = v.expect → sLegal f = true →
      ∃ u, exec (.syDataReceive p ⟨f, c⟩) s = .next u ∧ u = { s0 with sy := u.sy, perf := u.perf }
        ∧ u.sy.rx = s.sy.rx ++ [(p.val, f)] ∧ (u.sport p).expect = (v.expect + 1) % 4096 ∧ (u.sport p).ackDue = true)
  ∧ (3 ≤ f.type → c.uncorr = 0 → f.crc = sCrc f →
      ∃ u, exec (.syDataReceive p ⟨f, c⟩) s = .next u ∧ u.sy.rx = s.sy.rx
        ∧ u.get (SY_PORT_DROP p) count32 = min (s.get (SY_PORT_DROP p) count32 + 1) 0xFFFFFFFF)
  ∧ (2 ≤ f.type → c.uncorr ≠ 0 ∨ f.crc ≠ sCrc f →
      exec (.syDataReceive p ⟨f, c⟩) s
        = .next (((s0.bump (SY_PORT_CRC p) 1).modSport p fun v => { v with lastRx := s.clk }).syNak p))
  ∧ (v.ackDue = true ∨ v.nakDue = true ∨ v.ret.any (· ≠ 0) = true →
      ∃ u, exec (.syAckDue p) s = .next u ∧ u = { s with sy := u.sy } ∧ clear u
        ∧ u.sy.out = s.sy.out ++ [(p.val, sSeal (s.syCtrl p 0))])
  ∧ (1000 ≤ s.clk - v.lastTx →
      ∃ u, exec (.syKeepalive p) s = .next u ∧ u = { s with sy := u.sy } ∧ clear u
        ∧ u.sy.out = s.sy.out ++ [(p.val, sSeal (s.syCtrl p 0))] ∧ (u.sport p).lastTx = s.clk)

/-- R289, R298: the states of a Sirdy port: HELLO after training, UP on the host's HELLO, training again after 100 ms, or after 1 s
where the host said that it goes down; an UP port that fails discards what waits at it and its submissions; recalibration and enabling
train it. -/
def Obligations.SirdyPortsComplete : Prop :=
  ∀ (p : SPort) (s : State),
    let v := s.sport p
    (∀ lanes : BitVec 4, s.spState p = spTraining → laneWidth lanes.toNat ≠ 0 → v.trainAt ≤ s.clk →
      ∃ u, exec (.syTrainingDone p lanes) s = .next u ∧ Apart s u ∧ u.spState p = spHello
        ∧ u.get (SY_PORT_STATUS p) SY_PORT_STATUS.WIDTH = laneWidth lanes.toNat)
  ∧ (s.spState p = spHello →
      ∃ u f, exec (.syHelloSend p) s = .next u ∧ u = { s with sy := u.sy } ∧ u.sy.out = s.sy.out ++ [(p.val, f)]
        ∧ f.type = 1 ∧ f.crc = sCrc f ∧ num f.payload 0 2 = 640 ∧ num f.payload 4 2 = 256 ∧ num f.payload 6 2 = 64)
  ∧ (∀ (f : SFrame) (c : Fec), s.spState p = spHello → f.type = 1 → c.uncorr = 0 → f.crc = sCrc f → f.payload.length ≤ 2048 →
      ∃ u, exec (.syHello p ⟨f, c⟩) s = .next u ∧ Apart s u ∧ u.spState p = spUp ∧ (u.sport p).sendSeq = 0
        ∧ (u.sport p).expect = 0 ∧ (u.sport p).replay = [] ∧ (u.sport p).got = false
        ∧ (u.sport p).credits = ((List.range 5).map fun k => num f.payload (2 * k) 2))
  ∧ (∀ (f : SFrame) (c : Fec), s.spState p = spUp → f.type = 0 → c.uncorr = 0 → f.crc = sCrc f → f.payload.length ≤ 2048 →
      f.aux / 2 ^ 14 % 8 ≠ 0 →
      ∃ u, exec (.syLinkCtrl p ⟨f, c⟩) s = .next u ∧ u.spState p = spDown
        ∧ u.get (SY_PORT_STATUS p) SY_PORT_STATUS.LAST_DOWN = 5 ∧ (u.sport p).trainAt = s.clk + ms 1000)
  ∧ (s.spState p = spTraining → v.trainAt + ms 100 ≤ s.clk →
      exec (.syTrainingTimeout p) s = .next (s.syTrain p (if v.slow then v.trainAt + ms 1000 else s.clk + ms 100)))
  ∧ (∀ cause : DownCause, s.spState p = spUp → (cause = .noFrame → 10000 ≤ s.clk - v.lastRx) →
      (cause = .retryLimit → 0 < v.nakCount ∧ v.limit ≤ v.nakCount) →
      (cause = .creditStall → ∃ t, some t ∈ v.zeroSince ∧ t + microTicks v.stall ≤ s.clk) →
      let last := match cause with | .signalLost => 1 | .noFrame => 2 | .retryLimit => 3 | .creditStall => 4
      exec (.syPortDown p cause) s = .next ((s.syDrop p last).syLater p (s.clk + ms 100) false))
  ∧ (s.spState p = spDown → v.trainAt ≤ s.clk →
      (s.syTimer p).spState p = spTraining ∧ ((s.syTimer p).sport p).trainAt = s.clk)
  ∧ (s.spState p = spUp → exec (.syRecal p) s = .next (((s.sendSyCtrl p 3).syDrop p 6).syTrain p s.clk))
  ∧ (s.spState p = 0 →
      ∃ u, exec (.syEnable p) s = .next u ∧ Apart s u ∧ u.get (SY_PORT_CTRL p) SY_PORT_CTRL.ENABLE = 1
        ∧ u.spState p = spTraining ∧ (u.sport p).trainAt = s.clk)

/-- R290 to R293, R300, R322: OPEN and MORE go as far as their submission does, and are refused with NOT_SERVING on a module stopped in its
start and with NOT_ENTRY on another that is no entry module; a submission waits 100 ms for MORE; CANCEL ends a request;
a frame of TOK records and a frame of an event leave where their channel has the credit. -/
def Obligations.SubmissionsComplete : Prop :=
  ∀ (p : SPort) (s : State) (q : Nat) (f : SFrame) (s1 : State),
    (s.takeSy (fun q f => q = p.val && f.ch = 0 && f.op = 0) = some (q, f, s1) →
      let subs := s1.disp.subs.filter fun x => x.port = p.val
      (s1.noEntry ≠ 0 → exec (.open_ p) s = .next (s1.refuse p f.tag s1.noEntry))
      ∧ (s1.noEntry = 0 → 16 ≤ subs.length → exec (.open_ p) s = .next (s1.refuse p f.tag refTooMany))
      ∧ (s1.noEntry = 0 → subs.length < 16 → (∀ x ∈ subs, x.tag ≠ f.tag) →
          (∀ r ∈ s1.disp.reqs, ¬ (r.port = p.val ∧ r.tag = f.tag)) →
          exec (.open_ p) s = .next (s1.trySub ⟨p, f.tag, f.payload.take 32, payIds (f.payload.drop 32), s1.clk⟩))
      ∧ (s1.noEntry = 0 → subs.length < 16 →
          ((∃ x ∈ subs, x.tag = f.tag) ∨ ∃ r ∈ s1.disp.reqs, r.port = p.val ∧ r.tag = f.tag) →
          exec (.open_ p) s = .next (s1.refuse p f.tag refBadField)))
  ∧ (∀ x, s.takeSy (fun q f => q = p.val && f.ch = 0 && f.op = 1) = some (q, f, s1) → s1.noEntry = 0 →
      (s1.disp.subs.find? fun x => x.port = p.val ∧ x.tag = f.tag) = some x →
      exec (.more p) s = .next (s1.trySub { x with ids := x.ids ++ payIds f.payload, since := s1.clk }))
  ∧ (∀ r, s.takeSy (fun q f => q = p.val && f.ch = 0 && f.op = 2) = some (q, f, s1) → s1.noEntry = 0 →
      (∀ x ∈ s1.disp.subs, ¬ (x.port = p.val ∧ x.tag = f.tag)) →
      (s1.disp.reqs.find? fun r => r.port = p.val ∧ r.tag = f.tag) = some r →
      let s2 := s1.modReq r.id fun r => { r with cancelled := true }
      exec (.cancel p) s = .next (if s2.disp.tickets.any (fun x => x.2.1 = r.id) then s2 else (s2.endReq r 2 0 false).pump))
  ∧ (∀ (tag : BitVec 32) x, (s.disp.subs.find? fun x => x.port = p.val ∧ x.tag = tag.toNat) = some x →
      ms 100 ≤ s.clk - x.since →
      ∃ u rec, exec (.submissionIncomplete p tag) s = .next u ∧ Apart s u ∧ u.disp.toks = s.disp.toks ++ [rec]
        ∧ rec.kind = 3 ∧ rec.reason = refIncomplete ∧ rec.tag = x.tag ∧ rec.port = p.val
        ∧ (∀ y ∈ u.disp.subs, ¬ (y.port = p.val ∧ y.tag = tag.toNat))
        ∧ u.get SY_REFUSALS count32 = min (s.get SY_REFUSALS count32 + 1) 0xFFFFFFFF)
  ∧ (let mine := s.disp.toks.filter fun r => r.port = p.val
     let rs := packToks mine.length 2048 mine
     let f := mkData 1 0 0 0 (rs.flatMap tokBytes)
     s.spState p = spUp → rs ≠ [] → sUnits f ≤ (s.sport p).credits.getD 1 0 →
      let s1 := s.modDisp fun d => { d with toks := rs.foldl (fun l r => l.erase r) d.toks }
      let s2 := rs.foldl (fun (s : State) r => s.modReq r.req fun q => { q with held := q.held - r.ids.length }) s1
      exec (.tokFrameSend p) s = .next ((s2.sySend p f).pump))
  ∧ (∀ i x, (s.logs.evts.findIdx? fun x => x.sent.isNone) = some i → s.logs.evts[i]? = some x →
      let p := s.svcPort
      let v := s.sport p
      let f := mkData 4 0 0 0 (toBytes 8 x.word.toNat ++ toBytes 8 x.time)
      s.spState p = spUp → sUnits f ≤ v.credits.getD 4 0 → v.replay.length < 1024 →
      exec .evtFrameSend s = .next
        ((s.modLogs fun l => { l with evts := l.evts.set i { x with sent := some v.sendSeq, resend := false } }).sySend p f))

/-- R296, R297, R299, R300, R343: a management operation is answered with its status; a write of a register the host may write is
done first; a command joins its session's lines, as the tunnel's
characters do, and a line that spells no command is answered with its code at once, as ERR 01 or ERR 02; the mailboxes and the event FIFO take and give
their items in order. -/
def Obligations.ManagementComplete : Prop :=
  ∀ (s : State) (p : Nat) (f : SFrame) (s1 : State),
    (s.svc.fwTo = none → s.takeSy (fun _ f => f.ch = 2 && f.op = 0) = some (p, f, s1) →
      let a := num f.payload 0 8
      (s1.lnBusy = true → exec .mgmtRead s = .next (s1.mgmtRespond p f.tag 3 []))
      ∧ (s1.lnBusy = false → f.payload.length ≠ 8 ∨ a % 8 ≠ 0 → exec .mgmtRead s = .next (s1.mgmtRespond p f.tag 4 []))
      ∧ (s1.lnBusy = false → f.payload.length = 8 → a % 8 = 0 →
          (s1.hostReg a = none → exec .mgmtRead s = .next (s1.mgmtRespond p f.tag 1 []))
          ∧ ∀ v s2, s1.hostReg a = some (v, s2) →
            exec .mgmtRead s = .next (s2.mgmtRespond p f.tag 0 (toBytes 8 v.toNat))))
  ∧ (s.svc.fwTo = none → s.takeSy (fun _ f => f.ch = 2 && f.op = 1) = some (p, f, s1) → s1.lnBusy = false →
      f.payload.length = 16 → num f.payload 0 8 % 8 = 0 → (regRow (num f.payload 0 8)).isSome = true →
      let a := num f.payload 0 8
      (hostMayWrite a = false → exec .mgmtWrite s = .next (s1.mgmtRespond p f.tag 2 []))
      ∧ (hostMayWrite a = true → exec .mgmtWrite s
          = .next ((s1.syWrite a (BitVec.ofNat 64 (num f.payload 8 8))).mgmtRespond p f.tag 0 [])))
  ∧ (s.svc.fwTo = none → s.takeSy (fun _ f => f.ch = 2 && f.op = 2) = some (p, f, s1) → s1.lnBusy = false →
      (f.payload = [] ∨ (∃ b ∈ f.payload, 128 ≤ b.toNat) → exec .mgmtCommand s = .next (s1.mgmtRespond p f.tag 4 []))
      ∧ (f.payload ≠ [] → (∀ b ∈ f.payload, b.toNat < 128) → (∀ x ∈ s1.svc.lines, x.1 ≠ .mgmt) →
        ∃ u, exec .mgmtCommand s = .next u
          ∧ (∀ i, lineCmd .mgmt f.payload = .ok i → u = { s1 with svc := { s1.svc with
              lines := s1.svc.lines ++ [(.mgmt, f.payload)], mgmtTag := s1.svc.mgmtTag ++ [(p, f.tag)] } })
          ∧ (∀ e, lineCmd .mgmt f.payload = .error e → s1.served .mgmt = true →
              u.svc.replies = s1.svc.replies ++ [⟨.mgmt, [], [], e⟩] ∧ u.svc.lines = s1.svc.lines)))
  ∧ (∀ x l, s.takeSy (fun _ f => f.ch = 3) = some (p, f, s1) → 2 ≤ s1.get LN_BOOT LN_BOOT.STAGE →
      (∀ b ∈ l, b ≠ 13 ∧ b ≠ 10) → x = 13 ∨ x = 10 → f.payload = l ++ [x] → l ≠ [] → l.length ≤ 255 → (∃ i, lineCmd .tunnel l = .ok i) →
      s1.svc.consBuf = [] → s1.svc.consBad = false → (∀ x ∈ s1.svc.lines, x.1 ≠ .tunnel) →
      ∃ u, exec .cons s = .next u ∧ u = { s1 with svc := { s1.svc with lines := s1.svc.lines ++ [(.tunnel, l)] } })
  ∧ (∀ v : BitVec 62, s.logs.fifoIn.length < 255 → (∀ x, s.logs.fifoIn.getLast? = some x → nbit x.word.toNat 62 = false) →
      ∃ u, exec (.syMboxIn v) s = .next u ∧ u = { s with regs := u.regs, logs := u.logs }
        ∧ u.logs = { s.logs with fifoIn := s.logs.fifoIn ++ [⟨itemWord v.toNat, s.now, none, false⟩] }
        ∧ KeepsRegs (· = SY_FIFO_LEVEL) s u ∧ u.get SY_FIFO_LEVEL SY_FIFO_LEVEL.MBOX_IN = s.logs.fifoIn.length + 1)
  ∧ (∀ x r, s.logs.fifoOut = x :: r → s.svc.mboxWait = [] →
      ∃ u, exec .syMboxOut s = .next u ∧ u.hostRead = x.word ∧ u.logs = { s.logs with fifoOut := r }
        ∧ KeepsRegs (· = SY_FIFO_LEVEL) s u)
  ∧ (∀ x, (s.logs.evts.find? fun x => x.sent.isNone && !x.resend) = some x →
      ∃ u, exec .syEvtPop s = .next u ∧ u.hostRead = x.word ∧ u.logs = { s.logs with evts := s.logs.evts.erase x }
        ∧ u.reg SY_EVT_TIME = BitVec.ofNat 64 x.time
        ∧ KeepsRegs (fun a => a = SY_FIFO_LEVEL ∨ a = SY_EVT_TIME) s u)

/-! ### The cask (chapter 15) -/

/-- R305, R307 to R310, R313: what the patrol's read of its next page does, and what the codewords of a page that is read leave; static wear levelling moves the least-worn data; a block
that fails to program or erase, or holds an unreadable page, is retired; a complete transfer is verified and stored. -/
def Obligations.CaskCommandsComplete : Prop :=
  ∀ (s : State) (die plane block page : Nat),
    let b := blockKey die plane block
    let x := s.nand b
    (∀ found : List CwFind, s.pw.good = true → 1 ≤ s.get LN_BOOT LN_BOOT.STAGE →
      s.patrolDue.get CK_STATUS CK_STATUS.PATROL_ACTIVE = 1 → s.patrolDue.patrolNext = some (b, page) →
      let s1 := (s.patrolDue.caskRead b 1).modCask fun c => { c with patrolAt := some (b, page) }
      let s2 := (s1.set CK_STATUS CK_STATUS.PATROL_ACTIVE (bit s1.patrolNext.isSome)).pageFound b page true found
      let weak : Bool := (found.take 4).any fun y => y == .retried || y == .corrected true
      exec (.caskPatrolRead die plane block page found) s
        = .next (if s2.disturbed b then s2.refreshNand b true
            else if weak || s.patrolDue.aged (s.patrolDue.nand b) then s2.refreshNand b false else s2))
  ∧ (∀ patrol : Bool,
      s.pageFound b page patrol [] = s
      ∧ (∀ half : Bool, s.pageFound b page patrol [.corrected half] = (s.bump CK_LDPC_CORR 1).caskErr b page 0 false patrol)
      ∧ s.pageFound b page patrol [.retried]
          = ((s.bump CK_LDPC_RETRY 1).tallyX 0xD03 (blockDie b / 4) 1).caskErr b page 0 false patrol
      ∧ (∀ t, let s1 := (s.bump CK_UNCORR 1).caskErr b page 0 true patrol
          (s1.nand b).units[page / 64]? = some t → kfind s1.cask.map t.1 = some t.2 →
          s.pageFound b page patrol [.uncorrectable] = (s1.loseSectors t.1 [page % 64 * 4]).retireNand b))
  ∧ (∀ b' y f, s.leastWorn = some (b', y) → s.freeBlock true = some f → s.caskReadOnly = false → s.pw.good = true →
      1 ≤ s.get LN_BOOT LN_BOOT.STAGE → y.erases + 16 * s.get CK_CTRL CK_CTRL.WL_SPREAD < s.mostErases →
      exec .staticWearLevel s = .next ((s.moveNand b' f).eraseNand b').showCask)
  ∧ (s.cask.opened = some b → x.retired = false → exec (.nandProgramFail die plane block) s = .next (s.retireNand b))
  ∧ (x.retired = false → x.units = [] → exec (.nandEraseFail die plane block) s = .next (s.retireNand b))
  ∧ (∀ w s1, x.retired = false → x.units ≠ [] → s.free = (w, s1) →
      exec (.nandUncorrRead die plane block) s
        = .next (s1.pageFound b (w.toNat % (x.units.length * 64)) false
            ((List.range 4).map fun j => if j = w.toNat / 2 ^ 32 % 4 then .uncorrectable else .clean)))
  ∧ (∀ t, s.svc.xfer = some t → t.full = true → t.kind ≠ .fuseBuf →
      let k := kindNo t.kind
      (∀ r, s.verify k t.got 0 3 = some r →
        exec (.objectStore ()) s = .next ((s.verifyFail k t.slot t.got true r).endXfer t 4))
      ∧ (∀ a, s.verify k t.got 0 3 = none → s.freeExtent (cdiv t.total mapUnit) = some a → s.caskReadOnly = false →
        exec (.objectStore ()) s = .next ((s.storeObj k t.slot a t.got).endXfer t 0)))
  ∧ (∀ t, s.svc.xfer = some t → t.full = true → t.kind = .fuseBuf →
      exec (.objectStore ()) s = .next ((s.modSvc fun y => { y with fuseBuf := t.got }).endXfer t 0))

/-! ### Start-up and recipes (chapter 16) -/

/-- R321, R322, R326: the boot sequence, stage by stage: what each event checks, what stops the start and with which error, and what
follows a check that passes. -/
def Obligations.StartUpComplete : Prop :=
  ∀ (s : State),
    (s.pw.on = true → s.pw.rails.contains false = false → s.pw.good = false → s.pw.held = false → s.pw.latched = false →
      s.get TB_IN TB_IN.RESET_N ≠ 0 → s.pw.readyAt ≤ s.clk →
      ∃ u, exec .powerGood s = .next u ∧ u.pw.good = true ∧ u.pw.goodAt = s.clk ∧ u.mem = s.mem ∧ u.cask = { s.cask with due := u.cask.due }
        ∧ u.disp = {} ∧ u.stage = if u.get LN_STRAPS LN_STRAPS.BOOT_SRC = 3 then 11 else 0)
  ∧ (s.pw.good = true → s.stage = 0 → s.get LN_STRAPS LN_STRAPS.BOOT_SRC = 2 →
      ∀ w : Word, ∃ u, exec (.hostbootWrite w) s = .next u
        ∧ u = { s with svc := { s.svc with hostFw := s.svc.hostFw ++ toBytes 8 w.toNat } })
  ∧ (∀ x fwA fwB, s.pw.good = true → s.stage = 0 → s.get LN_STRAPS LN_STRAPS.BOOT_SRC < 2 →
      let one := s.get LN_STRAPS LN_STRAPS.BOOT_SRC
      let s1 := s.caskStart x
      let finds (k : Nat) : ReadFinds := if k = 0 then fwA else fwB
      (x.copies = (false, false) → exec (.bootCaskReady x fwA fwB) s = .next (s1.bootStop 2))
      ∧ (x.copies ≠ (false, false) → s1.get CK_STATUS CK_STATUS.HEALTH ≠ 3 →
        (∀ s2 l, s1.caskReady.tryFirmware one (finds one) = (some l, s2) →
          exec (.bootCaskReady x fwA fwB) s = .next (s2.runFirmware one false l))
        ∧ (∀ s2 s3 l, s1.caskReady.tryFirmware one (finds one) = (none, s2) →
          s2.tryFirmware (1 - one) (finds (1 - one)) = (some l, s3) →
          exec (.bootCaskReady x fwA fwB) s = .next (s3.runFirmware (1 - one) true l))
        ∧ (∀ s2 s3, s1.caskReady.tryFirmware one (finds one) = (none, s2) →
          s2.tryFirmware (1 - one) (finds (1 - one)) = (none, s3) →
          exec (.bootCaskReady x fwA fwB) s = .next (s3.bootStop 3))))
  ∧ (∀ failed v, s.stage = 2 →
      (failed ≠ [] → exec (.bootG7Trained failed v) s = .next (s.bootStop 4))
      ∧ (failed = [] → s.g7Ready.get LN_STRAPS LN_STRAPS.SAFE = 1 →
          exec (.bootG7Trained failed v) s = .next (s.g7Ready.stageTo 10))
      ∧ (∀ k o s1 l, failed = [] → s.g7Ready.get LN_STRAPS LN_STRAPS.SAFE = 0 → s.g7Ready.chosenRecipe = some (k, o) →
          s.g7Ready.fetchImage 2 k 0 v = (.ok l, s1) →
          exec (.bootG7Trained failed v) s
            = .next (if s1.recipeBad (recipeOf l) then s1.bootStop 6 else s1.startRecipe k l))
      ∧ (∀ k o s1 r, failed = [] → s.g7Ready.get LN_STRAPS LN_STRAPS.SAFE = 0 → s.g7Ready.chosenRecipe = some (k, o) →
          s.g7Ready.fetchImage 2 k 0 v = (.error r, s1) → exec (.bootG7Trained failed v) s = .next (s1.bootStop 6)))
  ∧ (∀ fails v bad s0, s.stage = 6 → s.paceBack = true →
      let all := fails.filter s.bootPace ++ s.rateFails ++ s.railFails
      readScripts s.recipe.scripts v s = (bad, s0) →
      let s1 := s0.bootTested all
      let c := failedChambers all
      let tested (b : Bool) : State := s1.modSvc fun v => { v with tested := some (testCode all b) }
      (((∃ f ∈ all, 8 ≤ f.block) ∨ bad ≠ none ∨ recipeSpares s1.recipe < s1.fencedNow) →
          exec (.bootSelftestDone fails v) s = .next ((tested false).bootStop 7))
      ∧ ((∀ f ∈ all, f.block < 8) → bad = none → s1.fencedNow ≤ recipeSpares s1.recipe →
          exec (.bootSelftestDone fails v) s = .next
            (((((tested !c.isEmpty).set LN_BOOT LN_BOOT.DEGRADED (bit !c.isEmpty)).placeSpares).stageTo 7).enableGallery)))
  ∧ (∀ v k o s1 l, s.stage = 7 → s.viewState = 1 → s.gl.joined = true → (s.stageTo 8).modelOf (s.stageTo 8).recipe = some (k, o) →
      (s.stageTo 8).fetchImage 3 k (s.stageTo 8).pIndex v = (.ok l, s1) → modelBad l s1.pIndex = false →
      exec (.bootGalleryJoined v) s = .next (s1.modSvc fun v => { v with model := some (k, l) }))
  ∧ (∀ k img, s.stage = 8 → s.svc.model = some (k, img) → s.get LN_MODEL LN_MODEL.VALID = 0 →
      let r := s.recipe
      let s1 := (s.loadTensors img s.pIndex fun _ => true).applyLayout r.layout
      let s2 := (s1.writePrograms r fun _ => true).applyPresets r fun _ => true
      exec .bootModelLoaded s = .next ((s2.stepTasks.foldl State.createTask s2).runModel k img))

/-- R323, R324: `stage` starts to stage a stored recipe and is answered when it is STAGED; `switch` holds new requests, and once every
ticket has returned the entry module switches and sends the probe, when its step tasks are created again. -/
def Obligations.RecipeCommandsComplete : Prop :=
  ∀ (s : State) (c : Session),
    (∀ slot, s.serves c inServing (.consoleStage c slot) → slot < 8 → (s.obj 2 slot).isSome = true → s.svc.staging = none → s.svc.switch = none →
      exec (.consoleStage c slot) s = .next (s.recordCmd.stageStart slot (some c)))
  ∧ (∀ slot by_ img mk mo mimg rs s1 s2 s3 recipe model, s.svc.staging = some (slot, by_) →
      (s.modSvc fun v => { v with staging := none }).showSec.fetchImage 2 slot 0 recipe = (.ok img, s1) →
      let r := recipeOf img
      let idx := bits (r.passage.getD 0 0).toNat 23 16
      let part := (imgPart mimg 0x0101 idx).getD []
      s1.recipeBad r = false → s1.fencedNow ≤ recipeSpares r → galleryDiffers r s1.recipe = false →
      s1.modelOf r = some (mk, mo) → s1.fetchImage 3 mk idx model = (.ok mimg, s2) → modelBad mimg idx = false →
      takeRegions (cdiv part.length 0x200000) s2 = some (rs, s3) →
      exec (.stageDone recipe model) s = .next (s3.stagedNow slot by_ img mk mimg rs part).showAout.resumeProbe)
  ∧ (∀ slot by_ x s1 recipe model, s.svc.staging = some (slot, by_) →
      (s.modSvc fun v => { v with staging := none }).showSec.fetchImage 2 slot 0 recipe = (.error x, s1) →
      exec (.stageDone recipe model) s = .next (s1.stageFail by_ 1))
  ∧ (∀ keep : Bool, s.serves c inServing (.consoleSwitch c keep) → s.svc.switch = none → s.isEntry = true → s.get LN_STAGED LN_STAGED.STATE = 2 →
      (keep = true → s.get LN_STAGED LN_STAGED.KEEP_OK = 1) →
      ∃ u, exec (.consoleSwitch c keep) s = .next u ∧ Apart s u ∧ u.svc.switch = some (keep, false)
        ∧ u.get LN_STATUS LN_STATUS.SWITCHING = 1 ∧ u.get LN_STAGED LN_STAGED.STATE = 3)
  ∧ (∀ keep : Bool, s.svc.switch = some (keep, false) → s.disp.tickets = [] → s.changeBusy = false →
      let s1 := s.switchNow.modSvc fun v => { v with switch := some (keep, true) }
      (s1.recreating = false → exec .switchTicketsReturned s
        = .next ((s1.modGl fun g => { g with lastProbe := s1.clk }).sendNext 5 0 (probePayload s1.recipeGen keep) .message))
      ∧ (s1.recreating = true → exec .switchTicketsReturned s = .next (s1.modGl fun g => { g with lastProbe := 0 })))

/-! ### Service (chapter 18) -/

/-- R339, R342 to R347: the commands that read the module, the analog test output, and a character of the UART. -/
def Obligations.ConsoleReadsComplete : Prop :=
  ∀ (s : State) (c : Session),
    ((s.serves c inAll (.consoleStatus c) →
        exec (.consoleStatus c) s = .next (s.ends c [s.reg LN_BOOT, BitVec.ofNat 64 (s.get CK_STATUS CK_STATUS.HEALTH),
          BitVec.ofNat 64 s.fencedNow, s.reg LN_WEDGED, s.reg GL_STATUS] [] 0))
      ∧ (∀ addr n, s.serves c inAll (.consoleRead c addr n) → 0 < n → n ≤ 64 → (∀ i, i < n → (regRow (addr + 8 * i)).isSome = true) →
          exec (.consoleRead c addr n) s = .next ((readMany n s addr).2.ends c (readMany n s addr).1 [] 0))
      ∧ (s.serves c inAll (.consoleDir c) →
        exec (.consoleDir c) s = .next (s.ends c (s.cask.objs.flatMap fun (e : Nat × CObj) =>
          [BitVec.ofNat 64 (e.1 / 16 + e.1 % 16 * 2 ^ 4 + bit e.2.active * 2 ^ 8 + bit e.2.damaged * 2 ^ 9
            + e.2.bytes.length % 2 ^ 40 * 2 ^ 10), BitVec.ofNat 64 (e.2.start + cdiv e.2.bytes.length mapUnit * 2 ^ 32),
           BitVec.ofNat 64 (imgGen e.2.bytes)]) [] 0))
      ∧ (∀ n, s.serves c inAll (.consoleLog c n) → 0 < n → n ≤ 256 → exec (.consoleLog c n) s = .next (s.output c ((s.logs.recent.take n).flatMap recBytes)))
      ∧ (s.serves c inAll (.consoleChallenge c) →
        exec (.consoleChallenge c) s = .next (s.ends c [] (((List.range 4).map (fun i => s.reg (SC_CHALLENGE i))
          ++ (List.range 8).map fun i => s.reg (SC_ID_DIGEST i)).flatMap groupLine) 0))
      ∧ (∀ mode q sel, s.serves c inAll (.consoleAout c mode q sel) → (mode = .quantity → sel < selsOf q) →
          ∃ u, exec (.consoleAout c mode q sel) s = .next u ∧ Apart s u ∧ Replied c [] [] 0 s u
            ∧ u.get LN_AOUT LN_AOUT.MODE
                = (match mode with | .status => 0 | .test => 1 | .quantity => 2 | .off => 3)
            ∧ (mode = .quantity → u.get LN_AOUT LN_AOUT.SELECT = sel)))
  ∧ (s.pw.good = true → s.pw.goodAt + ms 100 ≤ s.clk → exec .aoutFullScaleEnd s = .next s.showAout)
  ∧ (s.pw.good = true → s.get LN_AOUT LN_AOUT.MODE = 2 →
      ∃ u, exec .aoutQuantityRefresh s = .next u ∧ Apart s u
        ∧ u.svc.aoutMv = min 2500 (s.quantityMv (s.get LN_AOUT LN_AOUT.QUANTITY) (s.get LN_AOUT LN_AOUT.SELECT)))
  ∧ (∀ x : Byte, x ≠ 13 → x ≠ 10 → s.svc.uartBuf.length < 1024 → (∀ y ∈ s.svc.lines, y.1 ≠ .uart) →
      ∃ u, exec (.uartCharacter x) s = .next u
        ∧ u = { s with svc := { s.svc with echo := s.svc.echo ++ [x], uartBuf := s.svc.uartBuf ++ [x] } })
  ∧ (∀ x : Byte, x = 13 ∨ x = 10 → s.svc.uartBuf ≠ [] → s.svc.uartBuf.length ≤ 255 → s.svc.uartBad = false →
      (∃ i, lineCmd .uart s.svc.uartBuf = .ok i) → (∀ y ∈ s.svc.lines, y.1 ≠ .uart) →
      ∃ u, exec (.uartCharacter x) s = .next u
        ∧ u = { s with svc := { s.svc with
            echo := s.svc.echo ++ [x], uartBuf := [], lines := s.svc.lines ++ [(.uart, s.svc.uartBuf)] } })

/-- R313, R342, R344: transfers by hex commands and by mailbox items, and the commands that remove and activate stored objects. -/
def Obligations.ConsoleObjectsComplete : Prop :=
  ∀ (s : State) (c : Session),
    (∀ kind slot bytes, s.serves c inAll (.consoleRecv c kind slot bytes) → slot < kindSlots kind → 0 < bytes → bytes ≤ kindMax kind →
      (kind = .fuseBuf → bytes = 3272) → (kind ≠ .fuseBuf → s.caskReadOnly = false) → s.svc.xfer = none →
      ∃ u, exec (.consoleRecv c kind slot bytes) s = .next u ∧ Apart s u ∧ Replied c [] [] 0 s u ∧ u.svc.endDue = false
        ∧ u.svc.xfer = some { by_ := c, kind := kind, slot := slot, total := bytes, got := [] })
  ∧ (∀ digits x l, s.serves c inAll (.consoleHex c digits) → s.svc.xfer = some x → x.full = false → hexBytes digits = some l → l ≠ [] →
      l.length ≤ 64 → x.got.length + l.length ≤ x.total →
      (x.got.length + l.length < x.total →
        ∃ u, exec (.consoleHex c digits) s = .next u ∧ Apart s u ∧ Replied c [] [] 0 s u
          ∧ u.svc.xfer = some { x with by_ := c, got := x.got ++ l, byHex := false })
      ∧ (x.got.length + l.length = x.total →
        exec (.consoleHex c digits) s = .next (s.xferTake { x with by_ := c } l true)))
  ∧ (∀ x, s.serves c inAll (.consoleRecvAbort c) → s.svc.xfer = some x →
      exec (.consoleRecvAbort c) s = .next ((s.recordCmd.endXfer x 6).ends c [] [] 0))
  ∧ (∀ x w s1, s.fwRuns = true → s.takeMbox (fun w => mboxGap w || (mboxOp w ≠ 3 && mboxOp w ≠ 4)) = some (w, s1) →
      s1.svc.xfer = some x →
      let k := min 7 (x.total - x.got.length)
      (mboxGap w = true → exec .mailboxData s = .next (s1.endXfer x 1))
      ∧ (mboxGap w = false → mboxOp w = 2 → (k < 7 → bits w 55 (8 * k) = 0) → k ≠ 0 → k < x.total - x.got.length →
          exec .mailboxData s = .next (s1.xferTake x (toBytes k w) false))
      ∧ (mboxGap w = false → mboxOp w = 2 → (k < 7 → bits w 55 (8 * k) = 0) → k ≠ 0 → k = x.total - x.got.length →
          exec .mailboxData s = .next ((s1.xferTake x (toBytes k w) false).modSvc fun v => { v with endDue := true })))
  ∧ (∀ w s1, s.fwRuns = true → s.takeMbox (fun w => !mboxGap w && mboxOp w = 3) = some (w, s1) →
      (s1.svc.endDue = true → exec .mailboxEnd s = .next (s1.modSvc fun v => { v with endDue := false }))
      ∧ (∀ x, s1.svc.endDue = false → s1.svc.xfer = some x → x.full = false →
          exec .mailboxEnd s = .next (s1.endXfer x 2)))
  ∧ (∀ w s1 x, s.fwRuns = true → s.takeMbox (fun w => !mboxGap w && mboxOp w = 4) = some (w, s1) → s1.svc.xfer = some x →
      exec .mailboxAbort s = .next (s1.endXfer x 6))
  ∧ (∀ kind slot o, s.serves c inAll (.consoleRemove c kind slot) → slot < kindSlots kind → s.obj (kindNo kind) slot = some o →
      s.objRuns (kindNo kind) slot o = false → s.caskReadOnly = false →
      exec (.consoleRemove c kind slot) s = .next ((s.recordCmd.removeObj (kindNo kind) slot).ends c [] [] 0))
  ∧ (∀ slot, s.serves c inAll (.consoleActivate c slot) → slot < 8 → (s.obj 2 slot).isSome = true → s.caskReadOnly = false →
      exec (.consoleActivate c slot) s = .next (((s.recordCmd.markActive slot).showCask).ends c [] [] 0))

/-- R341, R351, R352, R354, R355: a fence starts and brings a spare in; a reload and a retraining of G7 wait for what runs before them and
for the time between steps, and then go on by themselves; ports that are UP are recalibrated. -/
def Obligations.ConsoleChangesComplete : Prop :=
  ∀ (s : State) (c : Session),
    let free : Prop := s.svc.change = 0 ∧ s.svc.changeReq = none ∧ s.svc.fencing = none ∧ s.svc.waiting = []
    let busy : Prop := s.svc.fencing ≠ none ∨ (s.svc.change ≠ 0 ∧ s.svc.changeReq = none)
    (∀ n : Ch, s.serves c inServing (.consoleFence c n) → s.get (CH_STATUS n) CH_STATUS.FENCED = 0 → s.fenceWaits n = false →
      exec (.consoleFence c n) s
        = .next (((s.recordCmd.modSvc fun v => { v with fenceBy := v.fenceBy ++ [(n.val, c)] }).fenceAsk n).showAout))
  ∧ (∀ n, s.svc.fencing = some n →
      (∀ sp, s.svc.spare = some sp → s.get GM_INVAL_STATUS GM_INVAL_STATUS.DONE = 1 →
        let s1 := if s.disp.renew = [] then (s.stepTasks.filter fun d => d.ch = sp).foldl State.createTask s else s
        exec .fenceMappingDone s = .next ((s1.set (CH_CTRL sp) CH_CTRL.HOLD 0).fenceEnd n 0))
      ∧ (∀ sp, s.svc.spare = none → s.between = true → s.disp.paused = [] → s.inval = none →
        s.get (CH_ROLE n) CH_ROLE.ROLE ≠ 5 → (∃ d ∈ s.stepTasks, d.ch = n) → s.get LN_SVC_CTRL LN_SVC_CTRL.AUTO_FENCE = 1 →
        s.spareChamber = some sp → exec .fenceMappingDone s = .next (s.bringSpare n sp)))
  ∧ (∀ n : Ch, let r : ChangeReq := ⟨c, 6, n.val⟩
      s.serves c inServing (.consoleReload c n) → s.svc.model ≠ none →
      exec (.consoleReload c n) s = .next (s.changeAsk r)
      ∧ (free → s.between = true →
          let s1 := s.recordCmd.modSvc fun v => { v with waiting := [], change := 0, changeOf := c, changeReq := none }
          s.changeAsk r = ((s1.reloadTensors n).ends c [] [] 0).showAout.pump)
      ∧ (free → s.between = false → (s.changeAsk r).svc.change = 6 ∧ (s.changeAsk r).svc.changeReq = some r)
      ∧ (busy → (s.changeAsk r).svc.waiting = s.svc.waiting ++ [r]))
  ∧ (∀ ch : Option (Fin 64), let r : ChangeReq := ⟨c, 3, (ch.map (·.val)).getD 64⟩
      s.serves c inServingSafe (.consoleRecalG7 c ch) →
      exec (.consoleRecalG7 c ch) s = .next (s.changeAsk r)
      ∧ (free → s.between = true →
          let u := s.changeAsk r
          Apart s u ∧ u.svc.change = 3 ∧ u.svc.changeOf = c ∧ u.svc.changeReq = none
            ∧ u.svc.recals = (match ch with | some x => [x.val] | none => List.range 64)
            ∧ u.svc.recalBad = false ∧ u.svc.recalAt = s.now)
      ∧ (free → s.between = false → (s.changeAsk r).svc.change = 3 ∧ (s.changeAsk r).svc.changeReq = some r)
      ∧ (busy → (s.changeAsk r).svc.waiting = s.svc.waiting ++ [r]))
  ∧ (∀ x rest, s.svc.recals = x :: rest → rest ≠ [] →
      ∃ u, exec (.g7RetrainDone true) s = .next u ∧ Apart s u ∧ u.svc.recals = rest ∧ u.svc.recalAt = s.now
        ∧ u.svc.change = s.svc.change)
  ∧ (∀ p : GPort, s.serves c inServingSafe (.consoleRecalGallery c p) → s.gpState p = gpUp →
      exec (.consoleRecalGallery c p) s = .next (((s.recordCmd.glRecal p).recalShown false p).ends c [] [] 0))
  ∧ (∀ p : SPort, s.serves c inServingSafe (.consoleRecalSirdy c p) → s.spState p = spUp →
      exec (.consoleRecalSirdy c p) s = .next (((s.recordCmd.syRecal p).recalShown true p).ends c [] [] 0))

/-- R213, R214, R310, R342, R356, R363: forced retirements, the commands over the Lantern's logs, and `set`. -/
def Obligations.ConsoleRetireComplete : Prop :=
  ∀ (s : State) (c : Session),
    (s.retiringNow = false →
      (∀ (n : Ch) (tier : Fin 4) row, s.serves c inServingSafe (.consoleRetireCellar c n tier row) → row < 3072 →
        let s1 := s.recordCmd.retireRow n tier row
        exec (.consoleRetireCellar c n tier row) s
          = .next (s1.showAout.ends c [] [] (if (s1.ch n).retiring.isEmpty then errFailed else 0) "NO SPARE ROW"))
      ∧ (∀ region, s.serves c inServingSafe (.consoleRetireG7 c region) → region < 21504 → s.regionRetired region = false →
        let s1 := s.recordCmd.retireRegion region
        exec (.consoleRetireG7 c region) s
          = .next (s1.showAout.ends c [] [] (if s1.move.isNone then errFailed else 0) "NO REGION"))
      ∧ (∀ die plane block, s.serves c inServingSafe (.consoleRetireCask c die plane block) → die < 32 → plane < 4 → block < 1656 → s.caskReadOnly = false →
        (s.nand (blockKey die plane block)).retired = false →
        exec (.consoleRetireCask c die plane block) s
          = .next ((s.recordCmd.retireNand (blockKey die plane block)).ends c [] [] 0)))
  ∧ (s.caskReadOnly = false →
      (∀ n : Option Ch, s.serves c inAll (.consoleSpareClear c n) → ∃ u, exec (.consoleSpareClear c n) s = .next u ∧ Apart s u ∧ Replied c [] [] 0 s u
        ∧ (n = none → u.logs.spareFor = [] ∧ u.logs.spareBad = [] ∧ u.logs.fenced = [])
        ∧ (∀ k : Ch, n = some k → u.logs.spareFor = s.logs.spareFor.filter (fun x => k.val ≠ x.1)
            ∧ u.logs.spareBad = s.logs.spareBad.filter (fun m => k.val ≠ m)))
      ∧ (∀ n : Ch, s.serves c inAll (.consoleSpareBad c n) → ∃ u, exec (.consoleSpareBad c n) s = .next u ∧ Apart s u ∧ Replied c [] [] 0 s u
        ∧ u.logs.spareBad = (s.logs.spareBad ++ [n.val]).eraseDups)
      ∧ (∀ unit : Option RetUnit, s.serves c inAll (.consoleRetlogClear c unit) → (∀ x, unit = some x → x ∈ s.logs.retired) →
        ∃ u, exec (.consoleRetlogClear c unit) s = .next u ∧ Apart s u ∧ Replied c [] [] 0 s u
          ∧ u.logs.retired = match unit with | none => [] | some x => s.logs.retired.filter (· != x)))
  ∧ (∀ v,
      (s.serves c inAll (.consoleSet c .abortTimeout v) → v ≤ 31 → ∃ u, exec (.consoleSet c .abortTimeout v) s = .next u ∧ Apart s u ∧ Replied c [] [] 0 s u
        ∧ u.get LN_SVC_CTRL LN_SVC_CTRL.ABORT_TIMEOUT = v)
      ∧ (s.serves c inAll (.consoleSet c .autoReset v) → v ≤ 1 → ∃ u, exec (.consoleSet c .autoReset v) s = .next u ∧ Apart s u ∧ Replied c [] [] 0 s u
        ∧ u.get LN_SVC_CTRL LN_SVC_CTRL.AUTO_RESET = v)
      ∧ (s.serves c inAll (.consoleSet c .autoFence v) → v ≤ 1 → ∃ u, exec (.consoleSet c .autoFence v) s = .next u ∧ Apart s u ∧ Replied c [] [] 0 s u
        ∧ u.get LN_SVC_CTRL LN_SVC_CTRL.AUTO_FENCE = v))

/-- R349, R350, R352, R353: a self-test whose scripts pass starts, after the fence where it is forced on a working chamber, which is refused
without force; its end shows its results, prints a line per unit and lets a forced chamber that passed be a spare; a firmware update hands
over to an image that verifies and is answered, or after 20 ms the old firmware resumes. -/
def Obligations.TestAndFirmwareComplete : Prop :=
  ∀ (s : State) (c : Session),
    (∀ (block : Nat) (n : Option Ch) (force : Bool) v, s.serves c inLogsOn (.consoleSelftest c block n force v) → block ≤ 13 →
      s.get LN_SELFTEST LN_SELFTEST.RUNNING = 0 → (block = 8 → s.stage ≠ 9) →
      let works : Bool := decide (block < 8) && (n.map (·.val)).any s.worksFor
      (∀ s0, works = false ∨ force = true → readScripts s.testScripts v s = (none, s0) →
        let s1 := s0.recordCmd.modSvc fun y => { y with
          test := some (c, block, n.map (·.val), works), testPace := s0.recordCmd.get PW_STATUS PW_STATUS.PACE_NOW, testSteps := 0 }
        let s2 := s1.set LN_SELFTEST LN_SELFTEST.RUNNING 1
        exec (.consoleSelftest c block n force v) s
          = .next (if works then s2.fenceAsk ((n.map (·.val)).getD 0) else s2).showAout)
      ∧ (∀ x s0, works = false ∨ force = true → readScripts s.testScripts v s = (some x, s0) →
        exec (.consoleSelftest c block n force v) s = .next (s0.testRefused c errFailed (scriptText x)))
      ∧ (works = true → force = false →
        exec (.consoleSelftest c block n force v) s = .next (s.testRefused c errState "")))
  ∧ (∀ c b n forced (fails : List TestFail), s.svc.test = some (c, b, n, forced) →
      (forced = true → s.get (CH_STATUS (n.getD 0)) CH_STATUS.FENCED ≠ 0 ∧ s.svc.fencing ≠ n) → s.paceBack = true →
      let units := s.testUnits b n
      let found := fails.filter (s.testTakes b units) ++ (if b = 13 then s.rateFails ++ s.railFails else [])
      let u := (s.testEnd b units forced found).ends c [] (testLines b units found) 0
      exec (.selftestDone fails) s = .next u
        ∧ (s.testEnd b units forced found).svc.test = none
        ∧ (s.testEnd b units forced found).svc.tested = some (testCode found false)
        ∧ (s.testEnd b units forced found).get LN_SELFTEST LN_SELFTEST.RUNNING = 0
        ∧ (forced = true → found = [] → units.headD 0 < 1024 →
            (s.testEnd b units forced found).get (CH_ROLE (units.headD 0)) CH_ROLE.ROLE = 5
            ∧ (s.testEnd b units forced found).get (CH_STATUS (units.headD 0)) CH_STATUS.FENCED = 0))
  ∧ (∀ (b : Bool) v, s.serves c inAll (.consoleFwupdate c b v) → (s.obj 1 (bit b)).isSome = true →
      (∀ l s0, s.fetchImage 1 (bit b) 0 v = (.ok l, s0) →
        exec (.consoleFwupdate c b v) s
          = .next (s0.recordCmd.modSvc fun y => { y with fwTo := some (c, bit b, l, s0.recordCmd.clk) }).showAout)
      ∧ (∀ x s0, s.fetchImage 1 (bit b) 0 v = (.error x, s0) →
        exec (.consoleFwupdate c b v) s = .next (s0.ends c [] [] errFailed (verifyText x))))
  ∧ (∀ c k l t, s.svc.fwTo = some (c, k, l, t) →
      (s.clk - t ≤ ms 20 →
        let s1 := s.modSvc fun v => { v with fwTo := none, firmware := l }
        exec .fwupdateHandoverDone s = .next ((s1.set LN_BOOT LN_BOOT.FW_SLOT k).showAout.ends c [] [] 0))
      ∧ (ms 20 < s.clk - t →
        exec .fwupdateTimeout s = .next ((s.modSvc fun v => { v with fwTo := none }).showAout.ends c [] [] errFailed "TIMEOUT")))

/-- R357, R358, R361: leaving the Gallery, and the two full resets: all logic is at its reset state, the cask and what memory holds
stay. -/
def Obligations.LeaveAndResetComplete : Prop :=
  ∀ (s : State) (c : Session),
    (s.serves c inServingStopped (.consoleLeave c) →
      let s1 := ((s.recordCmd.cancelWaiting.cutPassage.askLeave).glNotices 2).modGl fun g => { g with leaving := true }
      (s.pw.left = false → s.svc.leaveAt = none →
        exec (.consoleLeave c) s = .next ((s1.modSvc fun v => { v with leaveAt := some s1.clk, leaveOf := c }).showAout))
      ∧ (s.pw.left = true → exec (.consoleLeave c) s = .next (s.ends c [] [] errState))
      ∧ (s.pw.left = false → s.svc.leaveAt ≠ none → exec (.consoleLeave c) s = .next (s.ends c [] [] errBusy)))
  ∧ (∀ t, s.svc.leaveAt = some t → ¬ (s.viewState = 1 ∧ s.gl.view.contains s.addr = true) → ((s.viewState = 2 ∨ s.viewState = 3) → ms 1000 ≤ s.clk - t) →
      ∃ u, exec .leaveCommitted s = .next u ∧ u.svc.leaveAt = none ∧ u.pw.left = true ∧ u.viewState = 0
        ∧ u.get GL_STATUS GL_STATUS.MEMBER = 0 ∧ u.get GL_STATUS GL_STATUS.LEADER = 0 ∧ u.mem = [] ∧ u.chambers = []
        ∧ u.pw.rails = [s.pw.rails.getD 0 false, s.pw.rails.getD 1 false, false, false, false]
        ∧ Replied s.svc.leaveOf [] [] 0 s u)
  ∧ (s.serves c inAll (.consoleReset c) →
      exec (.consoleReset c) s = .next ((s.recordCmd.cancelWaiting.ends c [] [] 0).plannedReset))
  ∧ (s.pw.good = true → s.fwRuns = true →
      ∃ u, exec .lanternWatchdogBite s = .next u ∧ u.pw.good = false ∧ u.stage = 0 ∧ u.disp = {} ∧ u.chambers = []
        ∧ u.cask = { s.cask with due := u.cask.due } ∧ u.mem = s.mem ∧ u.chk = s.chk ∧ u.poison = s.poison)

/-! ### Security (chapter 17) -/

/-- R331, R332, R334 to R337: a fuse command is checked, then enrols, revokes or raises the floor and is answered with its RESULT;
the identity key comes ready; attestations wait, eight at most, and are served with a report. -/
def Obligations.SecurityCommandsComplete : Prop :=
  ∀ (s : State) (c : Session),
    (s.serves c inAll (.consoleFuse c ()) → s.svc.fuseBuf.length = 3272 → s.svc.fuseBusy = none →
      (∀ r, s.recordCmd.fuseRefusal s.svc.fuseBuf = some r →
        exec (.consoleFuse c ()) s = .next (s.recordCmd.fuseEnd c (fmOp s.svc.fuseBuf) r))
      ∧ (s.recordCmd.fuseRefusal s.svc.fuseBuf = none →
        ∃ u, exec (.consoleFuse c ()) s = .next u ∧ Apart s u ∧ u.svc.fuseBusy = some s.svc.fuseBuf
          ∧ u.svc.fuseTo = c ∧ u.get SC_STATUS SC_STATUS.BUSY = 1))
  ∧ (∀ l, s.fuseRuns 1 = some l →
      let t := fmTarget l
      s.slotBad t = 1 → s.svc.fuseBad.contains t = false → t < 4 →
      ∃ u, exec (.enrol true) s = .next u ∧ Apart s u ∧ u.svc.fuseBusy = none ∧ Replied s.svc.fuseTo [0] [] 0 s u
        ∧ u.get SC_CMD_STATUS SC_CMD_STATUS.RESULT = 0 ∧ u.get SC_CMD_STATUS SC_CMD_STATUS.VALID = 1
        ∧ nbit (u.get SC_FUSES SC_FUSES.SLOT_VALID) t = true
        ∧ ((∀ x ∈ [s.fuses.a, s.fuses.b, s.fuses.c], x.digests.length = 4 ∧ x.digests.getD t 0 = 0) →
            ∀ i, i < 8 → u.reg (SC_SLOT_DIGEST t i) = BitVec.ofNat 64 (num l 104 64 / 2 ^ (64 * i))))
  ∧ (∀ l, s.fuseRuns 2 = some l →
      let t := fmTarget l
      fmSigner l ≠ t → (∃ k, k < 4 ∧ k ≠ t ∧ s.slotBad k = 0) → t < 4 →
      s.anyFirmware (fun x => imgSigner x = t) = false → s.svc.fuseBad.contains t = false →
      ∃ u, exec (.revoke true) s = .next u ∧ Apart s u ∧ Replied s.svc.fuseTo [0] [] 0 s u
        ∧ nbit (u.get SC_FUSES SC_FUSES.SLOT_REVOKED) t = true ∧ u.get SC_CMD_STATUS SC_CMD_STATUS.RESULT = 0)
  ∧ (∀ l, s.fuseRuns 3 = some l →
      let floor := imgGen s.svc.firmware / 2 ^ 24
      let now := s.get SC_FUSES SC_FUSES.FW_FLOOR
      now < floor → floor ≤ 64 →
      (∀ x ∈ [s.fuses.a, s.fuses.b, s.fuses.c], x.floor = 2 ^ now - 1) →
      s.anyFirmware (fun x => decide (imgGen x / 2 ^ 24 < floor)) = false →
      ∃ u, exec (.raiseFloor true) s = .next u ∧ Apart s u ∧ Replied s.svc.fuseTo [0] [] 0 s u
        ∧ u.get SC_FUSES SC_FUSES.FW_FLOOR = floor % 2 ^ SC_FUSES.FW_FLOOR.w ∧ u.get SC_CMD_STATUS SC_CMD_STATUS.RESULT = 0)
  ∧ (s.fwRuns = true → s.get SC_STATUS SC_STATUS.ID_READY = 0 → s.get SC_STATUS SC_STATUS.ID_FAIL = 0 →
      (∃ u, exec (.idKeygenDone true) s = .next u ∧ u = { s with regs := u.regs }
        ∧ KeepsRegs (fun a => a = SC_STATUS ∨ ∃ i, i < 8 ∧ a = SC_ID_DIGEST i) s u
        ∧ u.get SC_STATUS SC_STATUS.ID_READY = 1)
      ∧ ∃ u, exec (.idKeygenDone false) s = .next u ∧ u.svc.attests = [] ∧ Apart s u
        ∧ u.get SC_STATUS SC_STATUS.ID_FAIL = 1 ∧ u.get SC_STATUS SC_STATUS.QUEUED = 0)
  ∧ (∀ nonce, s.serves c inAll (.attest c nonce) → s.get SC_STATUS SC_STATUS.ID_FAIL = 0 → s.svc.attests.length < 8 →
      ∃ u, exec (.attest c nonce) s = .next u ∧ u = { s with regs := u.regs, svc := u.svc }
        ∧ u.svc = { s.svc with attests := s.svc.attests ++ [(c, nonce)] }
        ∧ KeepsRegs (· = SC_STATUS) s u ∧ u.get SC_STATUS SC_STATUS.QUEUED = s.svc.attests.length + 1)
  ∧ (∀ d nonce rest, s.svc.attests = (d, nonce) :: rest → s.get SC_STATUS SC_STATUS.ID_READY = 1 →
      let l := s.report nonce (s.svc.reports + 1)
      exec .attestServe s = .next
        (((s.modSvc fun v => { v with attests := rest, reports := s.svc.reports + 1 }).showAttests.bump SC_REPORTS 1).output d
          (l ++ padTo 1280 (Config.falconSign s.idKeys.1 l))))
  ∧ (s.serves c inAll (.endorse c) → exec (.endorse c) s = .next (s.output c s.endorsement))

/-! ### Power and slow inputs (chapter 19) -/

/-- R364, R365, R370, R371: turning on, the ramp of each rail, and the four ways the rails go off with what PW_LAST_OFF then says;
what a module tries again and when it latches off. -/
def Obligations.PowerRailsComplete : Prop :=
  ∀ (s : State),
    let off (u : State) (cause : Nat) : Prop := u.pw.rails = [s.pw.rails.getD 0 false, false, false, false, false] ∧ u.mem = []
      ∧ u.chambers = [] ∧ u.disp = {} ∧ u.pw.good = false ∧ u.cask = s.cask
      ∧ u.get PW_LAST_OFF PW_LAST_OFF.CAUSE = cause
    (s.pw.on = false → s.pw.ovr = false →
      exec .senseTurnOn s = .next (let s1 := s.modPw fun p => { p with on := true }
        if s.pw.latched then s1 else s1.rampNext 0))
  ∧ (∀ (rail : Fin 5) t, kfind s.pw.ramp rail.val = some t →
      ∃ u, exec (.railInWindow rail) s = .next u ∧ Apart s u ∧ u.pw.rails = s.pw.rails.set rail.val true
        ∧ (kdel s.pw.ramp rail.val ≠ [] → u.pw.ramp = kdel s.pw.ramp rail.val)
        ∧ (s.pw.ramp.length = 1 → s.pw.rails.set rail.val true = [true, true, true, true, true] →
            u.pw.ramp = [] ∧ u.pw.readyAt = s.clk + ms 1))
  ∧ (∀ (rail : Fin 5) t, kfind s.pw.ramp rail.val = some t → ms 20 ≤ s.clk - t →
      ∃ u, exec (.railSequencingFail rail) s = .next u ∧ off u 5 ∧ u.pw.seqFail = true
        ∧ u.get PW_LAST_OFF PW_LAST_OFF.RAIL = railSel rail ∧ u.pw.retries = s.pw.retries + 1
        ∧ u.pw.latched = (decide (3 ≤ s.pw.retries) || s.pw.latched)
        ∧ u.pw.restartAt = if 3 ≤ s.pw.retries ∨ s.pw.latched = true then none else some (s.clk + ms 1000))
  ∧ (∀ rail : Fin 5, s.pw.rails.getD rail.val false = true →
      let again : Bool := (s.pw.faultAt.any fun t => decide (s.clk - t ≤ ms 600000)) || s.pw.latched
      ∃ u, exec (.railFault rail) s = .next u ∧ off u 3 ∧ u.get PW_LAST_OFF PW_LAST_OFF.RAIL = railSel rail
        ∧ u.pw.faultAt = some s.clk ∧ u.pw.latched = again
        ∧ u.pw.restartAt = if again then none else some (s.clk + ms 1000))
  ∧ (∀ t, s.pw.restartAt = some t → s.pw.on = true → t ≤ s.clk →
      exec .powerRestart s = .next ((s.modPw fun p => { p with restartAt := none }).rampNext 0))
  ∧ (s.pw.on = true →
      (∃ u, exec .undervoltage s = .next u ∧ off u 1 ∧ u.pw.on = false ∧ u.pw.ovr = s.pw.ovr)
      ∧ ∃ u, exec .overvoltage s = .next u ∧ off u 2 ∧ u.pw.on = false ∧ u.pw.ovr = true)
  ∧ (s.pw.ovr = true →
      exec .overvoltageRecover s = .next (let s1 := s.modPw fun p => { p with on := true, ovr := false }
        if s.pw.latched then s1 else s1.rampNext 0))
  ∧ (∃ u, exec .auxLoss s = .next u ∧ u.pw.rails = [false, false, false, false, false] ∧ u.pw.on = false ∧ u.pw.latched = false
      ∧ u.mem = [] ∧ u.chambers = [] ∧ u.reg PW_LAST_OFF = 0 ∧ u.cask = s.cask
      ∧ u.pw.held = decide (s.get TB_IN TB_IN.RESET_N = 0))

/-- R366 to R369: a decision above the limit takes one pace off, and one 10 ms at or below 0.9 P_lim gives one back up to the target;
above 66 A both cores go to pace 1; the readings of rails and rates. -/
def Obligations.PaceComplete : Prop :=
  ∀ (s : State), s.pw.good = true → s.pw.rails.getD 3 false = true →
    (∀ vin iin pin, s.pw.fastAt = none → s.get LN_SELFTEST LN_SELFTEST.RUNNING = 0 →
      let lim := s.pLim vin
      let target := s.get PW_CTRL PW_CTRL.PACE
      (lim < pin * 1000 → 1 < s.pace →
        ∃ u, exec (.paceDecision vin iin pin) s = .next u ∧ Apart s u ∧ u.pace = s.pace - 1 ∧ u.pw.target = target
          ∧ u.get PW_CAP_STEPS count32 = min (s.get PW_CAP_STEPS count32 + 1) 0xFFFFFFFF
          ∧ u.get PW_STATUS PW_STATUS.LIMIT_NOW = lim / 1000 % 2 ^ 12)
      ∧ (∀ t, pin * 10000 ≤ 9 * lim → s.pw.hot = [] → s.pace ≤ target → s.pw.lowAt = some t → ms 10 ≤ s.clk - t →
        ∃ u, exec (.paceDecision vin iin pin) s = .next u ∧ Apart s u ∧ u.pw.target = target ∧ u.pw.lowAt = some t
          ∧ u.pace = (if s.pace < target then s.pace + 1 else s.pace)
          ∧ u.get PW_CAP_STEPS count32 = s.get PW_CAP_STEPS count32))
  ∧ (∃ u, exec .fastLimit s = .next u ∧ Apart s u ∧ u.pace = 1 ∧ u.pw.fastAt = some s.clk
      ∧ u.get PW_STATUS PW_STATUS.FAST_LIMIT = 1)
  ∧ exec .paceSlewDone s = .next ((s.measureRail 1).measureRail 2)
  ∧ (∀ (die : Fin 3) rate, ∃ u, exec (.rateMeasure die rate) s = .next u ∧ u = { s with regs := u.regs, pw := { s.pw with rated := u.pw.rated } }
      ∧ KeepsRegs (· = PW_RATE) s u ∧ die.val ∈ u.pw.rated ∧ u.get PW_RATE ⟨16 * die.val, 16⟩ = rate % 2 ^ 16)

/-- R197, R369, R372: a sensor at its throttle point throttles, at its trip point the cores and G7 go off, which a fault record, the notices
and the event follow, a second trip within 10 minutes latching; a throttle ends below its release point; a trip recovers with every sensor
below 70 °C, the module restarting at the rails that are off; a G7 device's reading does whichever it calls for. -/
def Obligations.ThermalComplete : Prop :=
  ∀ (s : State),
    (∀ (x : Sensor) temp, s.pw.good = true → throttleAt (sensorNo x) ≤ temp →
      exec (.thermalThrottle x temp) s = .next ((s.sense (sensorNo x) temp).throttle (sensorNo x))
      ∧ sensorNo x ∈ ((s.sense (sensorNo x) temp).throttle (sensorNo x)).pw.hot
      ∧ ((s.sense (sensorNo x) temp).throttle (sensorNo x)).get PW_STATUS PW_STATUS.THROTTLE = 1)
  ∧ (∀ (x : Sensor) temp, s.pw.good = true → s.pw.rails.getD 2 false = true → tripPoint (sensorNo x) ≤ temp →
      exec (.thermalTrip x temp) s = .next (s.sense (sensorNo x) temp).trip)
  ∧ (let again : Bool := s.pw.tripAt.any fun t => decide (s.clk - t ≤ ms 600000)
     let s1 := ((s.coresOff.lastOff 4 0 again).bump PW_TRIPS 1).modPw fun p =>
       { p with tripped := true, tripAt := some s.clk, latched := again }
     s.trip = (((s1.glNotices 1).syNotices).powerCause 6 true).showAout ∧ s1.mem = [] ∧ s1.chambers = [] ∧ s1.pw.good = s.pw.good
       ∧ s1.pw.rails = [s.pw.rails.getD 0 false, s.pw.rails.getD 1 false, false, false, false]
       ∧ s1.get PW_LAST_OFF PW_LAST_OFF.CAUSE = 4 ∧ s1.get PW_LAST_OFF PW_LAST_OFF.LATCHED = bit again
       ∧ s1.get PW_TRIPS count32 = min (s.get PW_TRIPS count32 + 1) 0xFFFFFFFF)
  ∧ (∀ x : Sensor, s.pw.hot.contains (sensorNo x) = true →
      ∃ u s1 temp, exec (.throttleRelease x) s = .next u ∧ temp < releaseBelow (sensorNo x)
        ∧ s1 = (s.free.2.sense (sensorNo x) temp).modPw (fun p => { p with hot := s.pw.hot.filter (· != sensorNo x) })
        ∧ u = (if s1.pw.hot.isEmpty then s1.powerFlag PW_STATUS.THROTTLE 2 false else s1))
  ∧ (s.pw.tripped = true → s.pw.latched = false → s.pw.ramp = [] → s.pw.rails.contains false = true →
      ∃ u s1, exec .tripRecover s = .next u ∧ u = (((s1.powerCause 6 false).modPw fun p => { p with good := false }).rampNext 0).showAout
        ∧ s1.pw.rails = s.pw.rails ∧ s1.pw.tripped = true ∧ s1.pw.latched = false ∧ Apart s s1
        ∧ (rising s.pw.temps = true → ∀ e ∈ s1.pw.temps, e.2 < 70))
  ∧ (∀ (dev : Fin 16) temp, s.pw.good = true → s.pw.rails.getD 2 false = true →
      let s1 := s.sense (16 + dev.val) temp
      (temp < 90 → exec (.g7TempRead dev temp) s = .next s1)
      ∧ (90 ≤ temp → temp < 100 → exec (.g7TempRead dev temp) s = .next (s1.throttle (16 + dev.val)))
      ∧ (100 ≤ temp → exec (.g7TempRead dev temp) s = .next s1.trip))

/-- R371, R378 to R381: what an accepted level, a glitch, RESET_N, EXT_LIMIT_N and the PPS input do. -/
def Obligations.SlowInputsComplete : Prop :=
  ∀ (s : State),
    (∀ level : Bool, s.pw.rails.headD false = true →
      let only (u : State) : Prop := u = { s with regs := u.regs } ∧ KeepsRegs (· = TB_IN) s u
      (s.get TB_IN TB_IN.RESET_N ≠ bit level → ∃ u, exec (.slowInputChange .resetN level) s = .next u ∧ only u
        ∧ u.get TB_IN TB_IN.RESET_N = bit level)
      ∧ (s.pw.extRaw ≠ level → ∃ u, exec (.slowInputChange .extLimitN level) s = .next u
        ∧ u = { s with pw := { s.pw with extRaw := level, extFirst := s.clk - 99, extNew := true } })
      ∧ (s.get TB_IN TB_IN.PPS_IN ≠ bit level → ∃ u, exec (.slowInputChange .pps level) s = .next u ∧ Apart s u
        ∧ u.get TB_IN TB_IN.PPS_IN = bit level ∧ u.get TB_PPS TB_PPS.LEVEL = bit level ∧ u.get TB_PPS TB_PPS.STUCK = 0
        ∧ (level = true → u.pw.ppsRise = some (s.clk - 99)))
      ∧ ∀ i : Fin 14, nbit (s.get TB_IN TB_IN.STRAPS) i ≠ level →
        ∃ u, exec (.slowInputChange (.strap i) level) s = .next u ∧ only u ∧ nbit (u.get TB_IN TB_IN.STRAPS) i = level
          ∧ (s.pw.good = true → u.get TB_IN TB_IN.STRAP_MOVED = 1))
  ∧ (∀ x : SlowInput, s.pw.rails.headD false = true →
      let f := match x with
        | .pps => TB_GLITCH.PPS | .resetN => TB_GLITCH.RESET | .extLimitN => TB_GLITCH.LIMIT | .strap _ => TB_GLITCH.STRAP
      ∃ u, exec (.slowInputGlitch x) s = .next u ∧ u = { s with regs := u.regs } ∧ KeepsRegs (· = TB_GLITCH) s u
        ∧ u.get TB_GLITCH f = min 0xFF (s.get TB_GLITCH f + 1))
  ∧ (s.get TB_IN TB_IN.RESET_N = 0 → s.pw.held = false →
      ∃ u, exec .resetNLow s = .next u ∧ u.pw.held = true ∧ u.pw.good = false ∧ u.pw.rails = s.pw.rails ∧ u.disp = {}
        ∧ u.chambers = [] ∧ u.stage = 0 ∧ u.mem = s.mem ∧ u.cask = { s.cask with due := u.cask.due })
  ∧ (s.get TB_IN TB_IN.RESET_N = 1 → s.pw.held = true →
      let s1 := s.modPw fun p => { p with held := false, latched := false, tripped := p.tripped && !p.latched }
      exec .resetNHigh s
        = .next (if s1.pw.on = true ∧ s1.pw.ramp.isEmpty = true ∧ s1.pw.restartAt.isNone = true ∧ s1.pw.tripped = false
            then s1.rampNext (ms 1) else s1))
  ∧ (∀ level : Bool, s.pw.extRaw = level → s.pw.extNew = true → s.get TB_IN TB_IN.EXT_LIMIT_N ≠ bit level →
      ((∃ t, s.pw.extAt = some t ∧ s.pw.extFirst - t < ms 1000) →
        ∃ u, exec (.extLimitChange level) s = .next u ∧ Apart s u ∧ u.pw.extWait = some level
          ∧ u.get TB_DEFER count32 = min (s.get TB_DEFER count32 + 1) 0xFFFFFFFF
          ∧ u.get PW_STATUS PW_STATUS.EXT_LIMIT = s.get PW_STATUS PW_STATUS.EXT_LIMIT)
      ∧ ((∀ t, s.pw.extAt = some t → ms 1000 ≤ s.pw.extFirst - t) →
        ∃ u, exec (.extLimitChange level) s = .next u ∧ Apart s u ∧ u.pw.extAt = some s.pw.extFirst
          ∧ u.get TB_IN TB_IN.EXT_LIMIT_N = bit level ∧ u.get PW_STATUS PW_STATUS.EXT_LIMIT = bit !level))
  ∧ (∀ (l : Bool) t, s.pw.extWait = some l → s.pw.extAt = some t → t + ms 1000 ≤ s.clk →
      (s.pw.extRaw = l → ∃ u, exec .extLimitDeferEnd s = .next u ∧ Apart s u ∧ u.pw.extWait = none ∧ u.pw.extAt = some (t + ms 1000)
        ∧ u.get TB_IN TB_IN.EXT_LIMIT_N = bit l ∧ u.get PW_STATUS PW_STATUS.EXT_LIMIT = bit !l)
      ∧ (s.pw.extRaw ≠ l → ∃ u, exec .extLimitDeferEnd s = .next u ∧ u = { s with pw := { s.pw with extWait := none } }))
  ∧ (∀ t, s.pw.ppsRise = some t →
      ((∃ x, s.pw.ppsEdge = some x ∧ t - x < ms 500) →
        ∃ u, exec .ppsEdge s = .next u ∧ Apart s u ∧ u.pw.ppsRise = none ∧ u.pps = s.pps
          ∧ u.get TB_PPS_REJECT count32 = min (s.get TB_PPS_REJECT count32 + 1) 0xFFFFFFFF)
      ∧ ((∀ x, s.pw.ppsEdge = some x → ms 500 ≤ t - x) →
        ∃ u, exec .ppsEdge s = .next u ∧ Apart s u ∧ u.pw.ppsRise = none ∧ u.pw.ppsEdge = some t
          ∧ (u.pps, u.pw.ppsOk) = ppsNext s.pps s.pw.ppsOk (s.pw.ppsEdge.map fun x => t - x)
          ∧ u.reg TB_PPS_LAST = BitVec.ofNat 64 (s.now - (s.clk - t))
          ∧ u.get TB_PPS_ACCEPT count32 = min (s.get TB_PPS_ACCEPT count32 + 1) 0xFFFFFFFF))
  ∧ (∀ t, s.pw.ppsEdge = some t → s.pps = 1 ∨ s.pps = 2 → ms 1500 < s.clk - t → s.pw.ppsRise = none →
      ∃ u, exec .ppsHoldover s = .next u ∧ Apart s u ∧ u.pps = 3
        ∧ (s.isLeader = true → u.get GL_STATUS GL_STATUS.TIME_STATE = 2))
  ∧ (s.pps = 3 → ms 1500 < s.clk - s.pw.ppsChange →
      ∃ u, exec .ppsStuck s = .next u ∧ u = { s with regs := u.regs } ∧ KeepsRegs (· = TB_PPS) s u
        ∧ u.get TB_PPS TB_PPS.STUCK = 1)

/-! ### Counters and registers (chapters 1 and 20) -/

/-- R7, R384, R390 to R392: freezing and clearing a block of counters, a window's end, and a write of any register by a writer that
its chapter names, or by one that it does not. -/
def Obligations.CountersAndWritesComplete : Prop :=
  ∀ (s : State),
    (∀ (b : PcBlock) (f : Bool),
      (s.get (pcBase b) PCC_CTRL.FREEZE = bit f → exec (.pcFreeze b f) s = .next s)
      ∧ (s.get (pcBase b) PCC_CTRL.FREEZE ≠ bit f →
        ∃ u, exec (.pcFreeze b f) s = .next u ∧ u = { s with regs := u.regs, perf := { s.perf with mixed := u.perf.mixed } }
          ∧ KeepsRegs (· = pcBase b) s u ∧ u.get (pcBase b) PCC_CTRL.FREEZE = bit f
          ∧ ∀ i, i < pcCounters (pcBase b) → kget u.perf.mixed (pcReg (pcBase b) i 1) false = true))
  ∧ (∀ b : PcBlock, ∃ u, exec (.pcClear b) s = .next u ∧ u = { s with perf := { s.perf with vals := u.perf.vals } }
      ∧ ∀ i, i < pcCounters (pcBase b) → u.peek (pcReg (pcBase b) i 1) = 0 ∧ u.peek (pcReg (pcBase b) i 2) = 0
        ∧ u.peek (pcReg (pcBase b) i 3) = s.peek (pcReg (pcBase b) i 3))
  ∧ (∀ (b : PcBlock) lag, s.pcLag (pcBase b) = some lag → s.get (pcBase b + 0x18) PCC_WSTATUS.RUNNING = 1 → lag ≤ 5 →
      kget s.perf.armed (pcBase b) 0 < s.clk - lag →
      let len := s.get (pcBase b + 8) PCC_WINDOW.LENGTH
      ∃ u, exec (.pcWindowBoundary b) s = .next u ∧ Apart s u
        ∧ u.reg (pcBase b + 0x20) = BitVec.ofNat 64 (s.now - lag)
        ∧ u.get (pcBase b + 0x18) PCC_WSTATUS.SEQ = (s.get (pcBase b + 0x18) PCC_WSTATUS.SEQ + 1) % 2 ^ 32
        ∧ (s.get (pcBase b + 8) PCC_WINDOW.REPEAT = 0 → u.get (pcBase b + 0x18) PCC_WSTATUS.RUNNING = 0)
        ∧ ∀ i, i < pcCounters (pcBase b) →
          let c := pcReg (pcBase b) i 1
          let k := kget s.perf.win c 0 % 2 ^ 48
          u.peek (pcReg (pcBase b) i 2) = BitVec.ofNat 64 (k + bit (kget s.perf.mixed c false) * 2 ^ 49)
            ∧ u.peek (pcReg (pcBase b) i 3) = BitVec.ofNat 64 (min 0xFFFFFFFF (k / len)) ∧ kget u.perf.win c 0 = 0)
  ∧ (∀ (a : Nat) (v : Word),
      exec (.registerWrite .lantern a v) s = .next (s.lanternReg a v)
      ∧ (a ≠ LN_HOSTBOOT → exec (.registerWrite .host a v) s = .next (if hostMayWrite a then s.syWrite a v else s))
      ∧ ∀ (n : Ch) (t : Tag),
        (a % 8 = 0 → (regRow a).isSome = true →
          exec (.registerWrite (.task n t) a v) s = .next (if taskMayWrite a then s.writeReg a v else s))
        ∧ (a % 8 ≠ 0 ∨ regRow a = none →
          exec (.registerWrite (.task n t) a v) s
            = .next (s.free.2.memFault n t gmNoTarget s.free.1.toNat 1 (s.task n t).nextId)))

/-! ### Rules over the whole module -/

/-- R7, R8: what a read shows and what a write leaves in each field of every register of the tables: RW takes the value, W1C clears
where 1 is written, RO, RC and WO ignore it; WO reads 0; a read clears RC; bits of no field never change. -/
def Obligations.AccessCodes : Prop :=
  ∀ (a : Nat) (r : RegRow), regRow a = some r →
    (∀ f ∈ r.fields, ∀ old v : Word,
      fget (written r old v) f.fld =
        match f.acc with
        | .rw => fget v f.fld
        | .w1c => fget old f.fld &&& (2 ^ f.fld.w - 1 - fget v f.fld)
        | _ => fget old f.fld)
  ∧ (∀ (i : Nat) (old v : Word), i < 64 → (∀ f ∈ r.fields, ¬ (f.fld.lo ≤ i ∧ i < f.fld.lo + f.fld.w)) →
      (written r old v).getLsbD i = old.getLsbD i)
  ∧ ∀ s : State, ∃ v u, s.readReg a = some (v, u)
      ∧ ∀ f ∈ r.fields, (f.acc = .wo → fget v f.fld = 0)
        ∧ (f.acc ≠ .wo → fget v f.fld = fget (s.peek a) f.fld)
        ∧ (f.acc = .rc → fget (u.peek a) f.fld = f.reset % 2 ^ f.fld.w)
        ∧ (f.acc ≠ .rc → fget (u.peek a) f.fld = fget (s.peek a) f.fld)

/-- R270: a frame of VC0 or VC3 to a module outside the view fails at once with status 9, one that no port of the route can take
with status 8, and nothing is sent; a LANTERN or TIME frame needs no member. -/
def Obligations.FramesOutsideTheView : Prop :=
  ∀ (s : State) (f : GFrame), f.dest ≠ s.addr →
    (f.vc = 0 ∨ f.vc = 3 → f.dest ∉ s.gl.view → s.originate f = (s, some 9))
  ∧ (f.vc = 0 ∨ f.vc = 3 → f.dest ∈ s.gl.view → s.route f.dest f.vc = none → s.originate f = (s, some 8))
  ∧ (f.vc ≠ 0 → f.vc ≠ 3 → s.route f.dest f.vc = none → s.originate f = (s, some 8))
  ∧ (∀ p, f.type = 7 ∨ f.type = 8 → f.vc = typeVc f.type → s.route f.dest f.vc = some p →
      (s.originate f).2 = none
        ∧ (s.originate f).1 = s.glSend p { f with src := s.addr, hops := s.get GL_CTRL GL_CTRL.MAX_HOPS })

/-- R130: FTOI gives the integer nearest its operand, ties to even, the INT32 limit with SAT where that is past it, and 0 with
NAN_LOST for a NaN; ITOF gives the nearest FP32 value, ties to even. -/
def Obligations.FtoiAndItofRoundToNearestEven : Prop :=
  ∀ (g : Stg) (q : Sampling) (p : Bool) (k : Nat) (a b c : BitVec 32),
    (g.op = 0x2B →
      let r := laneOp g q p k a b c
      (f32 a = .nan → r.1 = 0 ∧ r.2 = { nanLost := true })
      ∧ (∀ neg, f32 a = .inf neg → r.1 = (if neg then 0x80000000 else 0x7FFFFFFF) ∧ r.2 = { sat := true })
      ∧ (∀ neg m e, f32 a = .fin neg m e → ∃ i : Int, NearestEven neg m e i
          ∧ (2147483647 < i → r.1 = 0x7FFFFFFF ∧ r.2 = { sat := true })
          ∧ (i < -2147483648 → r.1 = 0x80000000 ∧ r.2 = { sat := true })
          ∧ (-2147483648 ≤ i → i ≤ 2147483647 → r.1.toInt = i ∧ r.2 = {})))
  ∧ (g.op = 0x2A →
      let r := laneOp g q p k a b c
      r.2 = {} ∧ ∃ neg m e, f32 r.1 = .fin neg m e ∧ m < 2 ^ 24
        ∧ (e < 0 → (if neg then -(m : Int) else m) = a.toInt * 2 ^ (-e).toNat)
        ∧ (0 ≤ e → let d := 2 * (a.toInt - (if neg then -(m : Int) else m) * 2 ^ e.toNat).natAbs
            d < 2 ^ e.toNat ∨ (d = 2 ^ e.toNat ∧ m % 2 = 0)))

/-- R294: a port that goes DOWN discards its open submissions and ends the requests admitted on it with PORT_DOWN, freeing their
tickets; the END records go out on the other port if that is UP, else they are lost. -/
def Obligations.PortDownEndsItsRequests : Prop :=
  ∀ (p : SPort) (last : Nat) (s : State),
    let u := s.syDrop p last
    (∀ x ∈ u.disp.subs, x.port ≠ p.val) ∧ (∀ x ∈ s.disp.subs, x.port ≠ p.val → x ∈ u.disp.subs)
  ∧ (∀ r ∈ u.disp.reqs, r.port ≠ p.val)
  ∧ (∀ r ∈ s.disp.reqs, r.port = p.val →
      (∀ t ∈ u.disp.tickets, t.2.1 ≠ r.id) ∧ (∀ r' ∈ u.disp.reqs, r'.id ≠ r.id)
      ∧ (s.spState (1 - p.val) = spUp →
          ∃ x ∈ u.disp.toks, x.kind = 2 ∧ x.reason = 6 ∧ x.req = r.id ∧ x.tag = r.tag ∧ x.port = 1 - p.val)
      ∧ (s.spState (1 - p.val) ≠ spUp → ∀ x ∈ u.disp.toks, ¬ (x.kind = 2 ∧ x.reason = 6)
          ∨ ∃ y ∈ s.disp.toks, y = x))

/-- R212: an uncorrectable error in a clean line of the tun is not poisoned: the line is dropped and filled again, what the channel
holds is delivered, and TN_REFETCH rises. -/
def Obligations.CleanTunLinesAreRefilled : Prop :=
  ∀ (s : State) (cw : Nat) (scrub : Bool) (a : Nat), place (cw * 32) = .g7 a → s.cleanLine (cw / 8) = true →
    t2Decode (s.seen cw) = .uncorrectable → t2Decode (s.codeword cw) = .good →
    let r := s.readCw cw scrub
    r.1 = (s.codeword cw).take 32 ∧ r.2.1 = s.cellPoison cw
      ∧ r.2.2.get TN_REFETCH count32 = min (s.get TN_REFETCH count32 + 1) 0xFFFFFFFF
      ∧ r.2.2.inTun (cw / 8) = true ∧ r.2.2.poisoned cw = s.cellPoison cw

/-- R206: the check bytes that a write stores make every codeword one that reads as good. -/
def Obligations.WrittenCodewordsReadGood : Prop :=
  ∀ data : List Byte, data.length = 32 → (t2Check data).length = 4 ∧ t2Decode (data ++ t2Check data) = .good

/-- R206, R207: Code T2 corrects every error in one byte of a codeword and every error in two. -/
def Obligations.CodeT2CorrectsTwoBytes : Prop :=
  ∀ data : List Byte, data.length = 32 →
    let cw := data ++ t2Check data
    (∀ (i : Nat) (x : Byte), i < 36 → x ≠ 0 → t2Decode (xorAt cw i x) = .corrected cw)
  ∧ (∀ (i j : Nat) (x y : Byte), i < j → j < 36 → x ≠ 0 → y ≠ 0 → t2Decode (xorAt (xorAt cw i x) j y) = .corrected cw)

/-- R7: right after reset every register holds its Reset column's value, no byte of memory is listed, no chamber holds anything, and
no command waits. -/
def Obligations.ResetState : Prop :=
  (∀ a, State.reset.reg a = resetReg a) ∧ (∀ a, State.reset.byte a = emptyByte) ∧ (∀ n, State.reset.ch n = {})
    ∧ State.reset.pending = [] ∧ State.reset.stage = 0 ∧ ∀ (n : Ch) (t : Tag), State.reset.tstate n t = tFree

/-- The model's own (log entries 1 and 107): with no command waiting, a step is one cycle of the 100 MHz reference, which the timebase
counts while power-good is up and it is not held; where it slews, or keeps the last frequency correction, it counts fewer or more once a whole tick has gathered. The
clauses on time and memory say what a cycle does in which the Lantern finds no failed WRITE or MSG to look at. -/
def Obligations.EmptyQueueTick : Prop :=
  ∀ s : State, s.pending = [] → ∃ u, step s = .next u
    ∧ (s.pw.good = false → u = { s with clk := s.clk + 1 })
    ∧ (s.pw.good = true → s.gl.failedTo = [] →
        let gathered := s.gl.slewAcc + s.get GL_CTRL GL_CTRL.SLEW_PPM
        let d : Int := if s.gl.slew = 0 ∨ gathered < 1000000 then 0 else s.gl.slew.sign
        let f : Int := s.freqStep.1
        u.clk = s.clk + 1 ∧ u.pending = [] ∧ u.mem = s.mem ∧ u.chk = s.chk ∧ u.poison = s.poison ∧ u.tunNoise = s.tunNoise
        ∧ (s.gl.slewDebt = 0 → u.reg TB_TIME = BitVec.ofNat 64 (s.now + (1 + d + f).toNat) ∧ u.gl.slew = s.gl.slew - d)
        ∧ (0 < s.gl.slewDebt → u.reg TB_TIME = s.reg TB_TIME ∧ u.gl.slewDebt = s.gl.slewDebt - 1))

/-- The model's own (log entry 3): the stored memory of the machine after reset is in its canonical form. -/
def Obligations.MemoryCanonicalAtReset : Prop := Memory.wf State.reset

/-- The model's own (log entry 3): every step keeps the stored memory in its canonical form, so that equal memories are equal data. -/
def Obligations.MemoryStaysCanonical : Prop :=
  ∀ s u : State, Memory.wf s → step s = .next u → Memory.wf u
end

