-- ==== Sys2Proof/Laws/Bits.lean ====
section
/-! SUPPORT. Laws of the sorted maps and of register fields: what a read finds after a write, what keeps the canonical form. -/

namespace Sys2Proof.Machine

/-! ### Sorted maps -/

variable {β : Type}

@[simp] theorem kget_nil (k : Nat) (d : β) : kget [] k d = d := rfl

@[simp] theorem kfind_nil (k : Nat) : kfind ([] : List (Nat × β)) k = none := rfl

theorem kget_kfind (m : List (Nat × β)) (k : Nat) (d : β) : kget m k d = (kfind m k).getD d := by
  induction m with
  | nil => rfl
  | cons e r ih =>
    obtain ⟨k', v⟩ := e
    simp only [kget, kfind]
    split <;> simp [ih]

theorem kfind_mem {m : List (Nat × β)} {k : Nat} {v : β} (h : kfind m k = some v) : (k, v) ∈ m := by
  induction m with
  | nil => cases h
  | cons e r ih =>
    obtain ⟨k', w⟩ := e
    simp only [kfind] at h
    split at h
    · next q =>
      cases h
      exact q ▸ List.mem_cons_self
    · exact List.mem_cons_of_mem _ (ih h)

theorem kfind_none {m : List (Nat × β)} {k : Nat} : kfind m k = none ↔ ∀ e ∈ m, e.1 ≠ k := by
  induction m with
  | nil => simp
  | cons e r ih =>
    obtain ⟨k', w⟩ := e
    simp only [kfind]
    split <;> simp_all

/-- A filter on keys leaves what it keeps and nothing else. -/
theorem kfind_filter (m : List (Nat × β)) (p : Nat → Bool) (k : Nat) :
    kfind (m.filter fun e => p e.1) k = if p k then kfind m k else none := by
  induction m with
  | nil => simp
  | cons e r ih =>
    obtain ⟨k', v⟩ := e
    rw [List.filter_cons]
    by_cases h : p k' = true
    · simp only [h, if_true, kfind]
      by_cases q : k' = k
      · subst q
        simp [h]
      · simp [q, ih]
    · simp only [h, if_false, kfind, ih, Bool.false_eq_true]
      by_cases q : k' = k
      · subst q
        simp [h]
      · simp [q]

@[simp] theorem kfind_kdel (m : List (Nat × β)) (k j : Nat) : kfind (kdel m k) j = if j = k then none else kfind m j := by
  have h := kfind_filter m (fun x => x != k) j
  rw [show kdel m k = m.filter fun e => e.1 != k from rfl, h]
  by_cases q : j = k <;> simp [q]

theorem kfind_kins (m : List (Nat × β)) (k : Nat) (v : β) (j : Nat) (h : ∀ e ∈ m, e.1 ≠ k) :
    kfind (kins m k v) j = if j = k then some v else kfind m j := by
  induction m with
  | nil => simp [kins, kfind, eq_comm]
  | cons e r ih =>
    obtain ⟨k', w⟩ := e
    simp only [kins]
    split
    · simp only [kfind, eq_comm]
    · have h' := ih fun e he => h e (List.mem_cons_of_mem _ he)
      have hk : k' ≠ k := h (k', w) List.mem_cons_self
      simp only [kfind, h']
      by_cases q : k' = j
      · subst q
        simp [hk]
      · simp [q]

@[simp] theorem kfind_kset (m : List (Nat × β)) (k : Nat) (v : β) (j : Nat) :
    kfind (kset m k v) j = if j = k then some v else kfind m j := by
  unfold kset
  rw [kfind_kins _ _ _ _ (by simp [kdel])]
  by_cases h : j = k <;> simp [h]

/-- What a map reads as after one key is set: that key's new value, every other as before. -/
@[simp] theorem kget_kput [DecidableEq β] (m : List (Nat × β)) (k : Nat) (v d : β) (j : Nat) (d' : β) (hd : j = k → d' = d) :
    kget (kput m k v d) j d' = if j = k then v else kget m j d' := by
  rw [kget_kfind, kget_kfind, kput]
  by_cases h : v = d
  · simp only [h, if_true, kfind_kdel]
    by_cases q : j = k
    · simp [q, hd q]
    · simp [q]
  · rw [if_neg h, show kins (kdel m k) k v = kset m k v from rfl, kfind_kset]
    by_cases q : j = k <;> simp [q]

theorem kget_kput_same [DecidableEq β] (m : List (Nat × β)) (k : Nat) (v d : β) : kget (kput m k v d) k d = v := by
  rw [kget_kput _ _ _ _ _ _ fun _ => rfl, if_pos rfl]

theorem kget_kput_ne [DecidableEq β] (m : List (Nat × β)) {k j : Nat} (v d d' : β) (h : j ≠ k) :
    kget (kput m k v d) j d' = kget m j d' := by
  rw [kget_kput _ _ _ _ _ _ fun q => absurd q h, if_neg h]

/-! ### The canonical form -/

theorem rising_cons {e : Nat × β} {r : List (Nat × β)} : rising (e :: r) = true ↔ (∀ x ∈ r, e.1 < x.1) ∧ rising r = true := by
  simp [rising]

theorem rising_filter {m : List (Nat × β)} (p : Nat × β → Bool) (h : rising m = true) : rising (m.filter p) = true := by
  induction m with
  | nil => rfl
  | cons e r ih =>
    have q := rising_cons.1 h
    rw [List.filter_cons]
    split
    · exact rising_cons.2 ⟨fun x hx => q.1 x (List.mem_of_mem_filter hx), ih q.2⟩
    · exact ih q.2

theorem mem_kins {m : List (Nat × β)} {k : Nat} {v : β} {e : Nat × β} : e ∈ kins m k v ↔ e = (k, v) ∨ e ∈ m := by
  induction m with
  | nil => simp [kins]
  | cons x r ih =>
    simp only [kins]
    split <;> simp_all
    tauto

theorem rising_kins {m : List (Nat × β)} {k : Nat} {v : β} (h : rising m = true) (hk : ∀ e ∈ m, e.1 ≠ k) :
    rising (kins m k v) = true := by
  induction m with
  | nil => rfl
  | cons x r ih =>
    have q := rising_cons.1 h
    simp only [kins]
    split
    · next lt =>
      refine rising_cons.2 ⟨fun y hy => ?_, h⟩
      rcases List.mem_cons.1 hy with rfl | hy
      · exact lt
      · exact lt_trans lt (q.1 y hy)
    · next ge =>
      refine rising_cons.2 ⟨fun y hy => ?_, ih q.2 fun e he => hk e (List.mem_cons_of_mem _ he)⟩
      rcases mem_kins.1 hy with rfl | hy
      · exact lt_of_le_of_ne (not_lt.1 ge) (hk x List.mem_cons_self)
      · exact q.1 y hy

theorem kwf_iff [DecidableEq β] {d : Nat → β} {m : List (Nat × β)} :
    kwf d m = true ↔ rising m = true ∧ ∀ e ∈ m, e.2 ≠ d e.1 := by
  simp [kwf]

theorem kwf_nil [DecidableEq β] (d : Nat → β) : kwf d [] = true := rfl

/-- Entries may be taken out of a canonical map. -/
theorem kwf_filter [DecidableEq β] {d : Nat → β} {m : List (Nat × β)} (p : Nat × β → Bool) (h : kwf d m = true) :
    kwf d (m.filter p) = true :=
  kwf_iff.2 ⟨rising_filter p (kwf_iff.1 h).1, fun e he => (kwf_iff.1 h).2 e (List.mem_of_mem_filter he)⟩

/-- Setting a key keeps the canonical form. -/
theorem kwf_kput [DecidableEq β] {d : Nat → β} {m : List (Nat × β)} (k : Nat) (v : β) (h : kwf d m = true) :
    kwf d (kput m k v (d k)) = true := by
  have f : kwf d (kdel m k) = true := kwf_filter _ h
  unfold kput
  split
  · exact f
  · next ne =>
    refine kwf_iff.2 ⟨rising_kins (kwf_iff.1 f).1 (by simp [kdel]), fun e he => ?_⟩
    rcases mem_kins.1 he with rfl | he
    · exact ne
    · exact (kwf_iff.1 f).2 e he

/-- In a canonical map the entries that are listed are what is read. -/
theorem kfind_of_mem {m : List (Nat × β)} (h : rising m = true) {k : Nat} {v : β} (e : (k, v) ∈ m) : kfind m k = some v := by
  induction m with
  | nil => cases e
  | cons x r ih =>
    have q := rising_cons.1 h
    obtain ⟨k', w⟩ := x
    rcases List.mem_cons.1 e with e | e
    · cases e
      simp [kfind]
    · have lt := q.1 _ e
      simp only [kfind]
      rw [if_neg (by simp at lt; omega)]
      exact ih q.2 e

/-! ### Fields of a register -/

theorem Fld.mask_getLsbD (f : Fld) (i : Nat) (hi : i < 64) : f.mask.getLsbD i = decide (f.lo ≤ i ∧ i < f.lo + f.w) := by
  unfold Fld.mask
  rw [BitVec.getLsbD_ofNat]
  simp only [hi, decide_true, Bool.true_and]
  rw [Nat.testBit_mul_two_pow, Nat.testBit_two_pow_sub_one]
  by_cases a : f.lo ≤ i <;> simp [a]
  omega

/-- Bit `i` of a word of which a field was replaced. -/
theorem fset_getLsbD (v : Word) (f : Fld) (x i : Nat) (hi : i < 64) :
    (fset v f x).getLsbD i = if f.lo ≤ i ∧ i < f.lo + f.w then x.testBit (i - f.lo) else v.getLsbD i := by
  unfold fset
  simp only [BitVec.getLsbD_or, BitVec.getLsbD_and, BitVec.getLsbD_not, Fld.mask_getLsbD f i hi, hi, decide_true, Bool.true_and,
    BitVec.getLsbD_ofNat]
  by_cases h : f.lo ≤ i ∧ i < f.lo + f.w
  · simp only [h, and_self, decide_true, Bool.not_true, Bool.and_false, Bool.false_or, Bool.and_true, if_true]
    rw [Nat.testBit_mul_two_pow, Nat.testBit_mod_two_pow]
    simp [h.1, show i - f.lo < f.w by omega]
  · simp [h]

/-- Bit `i` of a field's value. -/
theorem fget_testBit (v : Word) (f : Fld) (i : Nat) : (fget v f).testBit i = (decide (i < f.w) && v.getLsbD (f.lo + i)) := by
  unfold fget
  rw [Nat.testBit_mod_two_pow, Nat.testBit_div_two_pow]
  simp [BitVec.getLsbD, Nat.add_comm]

theorem fget_lt (v : Word) (f : Fld) : fget v f < 2 ^ f.w := Nat.mod_lt _ (by positivity)

/-- A field reads as the low bits of what was written. -/
theorem fget_fset_same (v : Word) (f : Fld) (x : Nat) (h : f.lo + f.w ≤ 64) : fget (fset v f x) f = x % 2 ^ f.w := by
  apply Nat.eq_of_testBit_eq
  intro i
  rw [fget_testBit, Nat.testBit_mod_two_pow]
  by_cases q : i < f.w
  · rw [fset_getLsbD _ _ _ _ (by omega), if_pos ⟨by omega, by omega⟩]
    simp [q]
  · simp [q]

/-- A field that shares no bit with the written one reads as before. -/
theorem fget_fset_other (v : Word) (f g : Fld) (x : Nat) (h : g.lo + g.w ≤ 64)
    (d : f.lo + f.w ≤ g.lo ∨ g.lo + g.w ≤ f.lo) : fget (fset v f x) g = fget v g := by
  apply Nat.eq_of_testBit_eq
  intro i
  rw [fget_testBit, fget_testBit]
  by_cases q : i < g.w
  · rw [fset_getLsbD _ _ _ _ (by omega), if_neg (by omega)]
  · simp [q]

/-- A bit of no field that is written reads as before. -/
theorem fset_getLsbD_other (v : Word) (f : Fld) (x i : Nat) (hi : i < 64) (d : ¬ (f.lo ≤ i ∧ i < f.lo + f.w)) :
    (fset v f x).getLsbD i = v.getLsbD i := by rw [fset_getLsbD v f x i hi, if_neg d]

/-- A write of what a field already holds changes nothing. -/
theorem fset_fget (v : Word) (f : Fld) : fset v f (fget v f) = v := by
  apply BitVec.eq_of_getLsbD_eq
  intro i hi
  rw [fset_getLsbD v f _ i hi]
  split
  · next h =>
    rw [fget_testBit]
    simp [show i - f.lo < f.w by omega, show f.lo + (i - f.lo) = i by omega]
  · rfl

/-! ### Byte strings -/

@[simp] theorem toBytes_length (k x : Nat) : (toBytes k x).length = k := by
  induction k generalizing x with
  | zero => rfl
  | succ k ih => simp [toBytes, ih]

theorem ofBytes_lt (l : List Byte) : ofBytes l < 256 ^ l.length := by
  induction l with
  | nil => simp [ofBytes]
  | cons b r ih =>
    have := b.isLt
    simp only [ofBytes, List.length_cons, pow_succ]
    omega

/-- The number that the low bytes of a number stand for. -/
theorem ofBytes_toBytes (k x : Nat) : ofBytes (toBytes k x) = x % 256 ^ k := by
  induction k generalizing x with
  | zero => simp [toBytes, ofBytes, Nat.mod_one]
  | succ k ih =>
    have h : x % 256 ^ (k + 1) = x % 256 + 256 * (x / 256 % 256 ^ k) := by rw [Nat.pow_succ', Nat.mod_mul]
    rw [h, toBytes, ofBytes, ih]
    simp

/-- The bytes of the number that a byte string stands for. -/
theorem toBytes_ofBytes (l : List Byte) : toBytes l.length (ofBytes l) = l := by
  induction l with
  | nil => rfl
  | cons b r ih =>
    have := b.isLt
    simp only [List.length_cons, ofBytes, toBytes]
    rw [show (b.toNat + 256 * ofBytes r) / 256 = ofBytes r by omega, ih]
    congr 1
    apply BitVec.eq_of_toNat_eq
    simp
    omega

@[simp] theorem padTo_length (k : Nat) (l : List Byte) : (padTo k l).length = k := by
  simp [padTo]
  omega

@[simp] theorem xor_bit_self (b : Bool) : bit b = 1 ↔ b = true := by cases b <;> simp [bit]

end Sys2Proof.Machine
end

