-- ==== Sys2Proof/Laws/State.lean ====
section
/-! SUPPORT. Laws of the state's updates: what each leaves as it was, and what a read finds. -/

namespace Sys2Proof.Machine

section setReg

variable (s : State) (a : Nat) (v : Word)

@[simp] theorem State.setReg_clk : (s.setReg a v).clk = s.clk := rfl
@[simp] theorem State.setReg_perf : (s.setReg a v).perf = s.perf := rfl
@[simp] theorem State.setReg_mem : (s.setReg a v).mem = s.mem := rfl
@[simp] theorem State.setReg_chk : (s.setReg a v).chk = s.chk := rfl
@[simp] theorem State.setReg_poison : (s.setReg a v).poison = s.poison := rfl
@[simp] theorem State.setReg_chambers : (s.setReg a v).chambers = s.chambers := rfl
@[simp] theorem State.setReg_saves : (s.setReg a v).saves = s.saves := rfl
@[simp] theorem State.setReg_tun : (s.setReg a v).tun = s.tun := rfl
@[simp] theorem State.setReg_tunOff : (s.setReg a v).tunOff = s.tunOff := rfl
@[simp] theorem State.setReg_tunNoise : (s.setReg a v).tunNoise = s.tunNoise := rfl
@[simp] theorem State.setReg_scrubs : (s.setReg a v).scrubs = s.scrubs := rfl
@[simp] theorem State.setReg_tunCount : (s.setReg a v).tunCount = s.tunCount := rfl
@[simp] theorem State.setReg_flush : (s.setReg a v).flush = s.flush := rfl
@[simp] theorem State.setReg_ytlb : (s.setReg a v).ytlb = s.ytlb := rfl
@[simp] theorem State.setReg_arbs : (s.setReg a v).arbs = s.arbs := rfl
@[simp] theorem State.setReg_arm : (s.setReg a v).arm = s.arm := rfl
@[simp] theorem State.setReg_mcast : (s.setReg a v).mcast = s.mcast := rfl
@[simp] theorem State.setReg_inval : (s.setReg a v).inval = s.inval := rfl
@[simp] theorem State.setReg_move : (s.setReg a v).move = s.move := rfl
@[simp] theorem State.setReg_moveWait : (s.setReg a v).moveWait = s.moveWait := rfl
@[simp] theorem State.setReg_regionCount : (s.setReg a v).regionCount = s.regionCount := rfl
@[simp] theorem State.setReg_g7Used : (s.setReg a v).g7Used = s.g7Used := rfl
@[simp] theorem State.setReg_gl : (s.setReg a v).gl = s.gl := rfl
@[simp] theorem State.setReg_logs : (s.setReg a v).logs = s.logs := rfl
@[simp] theorem State.setReg_disp : (s.setReg a v).disp = s.disp := rfl
@[simp] theorem State.setReg_sy : (s.setReg a v).sy = s.sy := rfl
@[simp] theorem State.setReg_cask : (s.setReg a v).cask = s.cask := rfl
@[simp] theorem State.setReg_pw : (s.setReg a v).pw = s.pw := rfl
@[simp] theorem State.setReg_svc : (s.setReg a v).svc = s.svc := rfl
@[simp] theorem State.setReg_fuses : (s.setReg a v).fuses = s.fuses := rfl
@[simp] theorem State.setReg_hostRead : (s.setReg a v).hostRead = s.hostRead := rfl
@[simp] theorem State.setReg_freeCtr : (s.setReg a v).freeCtr = s.freeCtr := rfl
@[simp] theorem State.setReg_pending : (s.setReg a v).pending = s.pending := rfl
@[simp] theorem State.setReg_ch_ (m : Nat) : (s.setReg a v).ch m = s.ch m := rfl
@[simp] theorem State.setReg_task_ (m u : Nat) : (s.setReg a v).task m u = s.task m u := rfl
@[simp] theorem State.setReg_byte_ (b₁ : Nat) : (s.setReg a v).byte b₁ = s.byte b₁ := rfl
@[simp] theorem State.setReg_gport_ (q : Nat) : (s.setReg a v).gport q = s.gport q := rfl
@[simp] theorem State.setReg_sport_ (q : Nat) : (s.setReg a v).sport q = s.sport q := rfl
@[simp] theorem State.setReg_eng_ (m j : Nat) : (s.setReg a v).eng m j = s.eng m j := rfl

end setReg

section set

variable (s : State) (a : Nat) (f : Fld) (x : Nat)

@[simp] theorem State.set_clk : (s.set a f x).clk = s.clk := rfl
@[simp] theorem State.set_perf : (s.set a f x).perf = s.perf := rfl
@[simp] theorem State.set_mem : (s.set a f x).mem = s.mem := rfl
@[simp] theorem State.set_chk : (s.set a f x).chk = s.chk := rfl
@[simp] theorem State.set_poison : (s.set a f x).poison = s.poison := rfl
@[simp] theorem State.set_chambers : (s.set a f x).chambers = s.chambers := rfl
@[simp] theorem State.set_saves : (s.set a f x).saves = s.saves := rfl
@[simp] theorem State.set_tun : (s.set a f x).tun = s.tun := rfl
@[simp] theorem State.set_tunOff : (s.set a f x).tunOff = s.tunOff := rfl
@[simp] theorem State.set_tunNoise : (s.set a f x).tunNoise = s.tunNoise := rfl
@[simp] theorem State.set_scrubs : (s.set a f x).scrubs = s.scrubs := rfl
@[simp] theorem State.set_tunCount : (s.set a f x).tunCount = s.tunCount := rfl
@[simp] theorem State.set_flush : (s.set a f x).flush = s.flush := rfl
@[simp] theorem State.set_ytlb : (s.set a f x).ytlb = s.ytlb := rfl
@[simp] theorem State.set_arbs : (s.set a f x).arbs = s.arbs := rfl
@[simp] theorem State.set_arm : (s.set a f x).arm = s.arm := rfl
@[simp] theorem State.set_mcast : (s.set a f x).mcast = s.mcast := rfl
@[simp] theorem State.set_inval : (s.set a f x).inval = s.inval := rfl
@[simp] theorem State.set_move : (s.set a f x).move = s.move := rfl
@[simp] theorem State.set_moveWait : (s.set a f x).moveWait = s.moveWait := rfl
@[simp] theorem State.set_regionCount : (s.set a f x).regionCount = s.regionCount := rfl
@[simp] theorem State.set_g7Used : (s.set a f x).g7Used = s.g7Used := rfl
@[simp] theorem State.set_gl : (s.set a f x).gl = s.gl := rfl
@[simp] theorem State.set_logs : (s.set a f x).logs = s.logs := rfl
@[simp] theorem State.set_disp : (s.set a f x).disp = s.disp := rfl
@[simp] theorem State.set_sy : (s.set a f x).sy = s.sy := rfl
@[simp] theorem State.set_cask : (s.set a f x).cask = s.cask := rfl
@[simp] theorem State.set_pw : (s.set a f x).pw = s.pw := rfl
@[simp] theorem State.set_svc : (s.set a f x).svc = s.svc := rfl
@[simp] theorem State.set_fuses : (s.set a f x).fuses = s.fuses := rfl
@[simp] theorem State.set_hostRead : (s.set a f x).hostRead = s.hostRead := rfl
@[simp] theorem State.set_freeCtr : (s.set a f x).freeCtr = s.freeCtr := rfl
@[simp] theorem State.set_pending : (s.set a f x).pending = s.pending := rfl
@[simp] theorem State.set_ch_ (m : Nat) : (s.set a f x).ch m = s.ch m := rfl
@[simp] theorem State.set_task_ (m u : Nat) : (s.set a f x).task m u = s.task m u := rfl
@[simp] theorem State.set_byte_ (b₁ : Nat) : (s.set a f x).byte b₁ = s.byte b₁ := rfl
@[simp] theorem State.set_gport_ (q : Nat) : (s.set a f x).gport q = s.gport q := rfl
@[simp] theorem State.set_sport_ (q : Nat) : (s.set a f x).sport q = s.sport q := rfl
@[simp] theorem State.set_eng_ (m j : Nat) : (s.set a f x).eng m j = s.eng m j := rfl

end set

section bump

variable (s : State) (a k : Nat)

@[simp] theorem State.bump_clk : (s.bump a k).clk = s.clk := State.set_clk s a count32 _
@[simp] theorem State.bump_perf : (s.bump a k).perf = s.perf := State.set_perf s a count32 _
@[simp] theorem State.bump_mem : (s.bump a k).mem = s.mem := State.set_mem s a count32 _
@[simp] theorem State.bump_chk : (s.bump a k).chk = s.chk := State.set_chk s a count32 _
@[simp] theorem State.bump_poison : (s.bump a k).poison = s.poison := State.set_poison s a count32 _
@[simp] theorem State.bump_chambers : (s.bump a k).chambers = s.chambers := State.set_chambers s a count32 _
@[simp] theorem State.bump_saves : (s.bump a k).saves = s.saves := State.set_saves s a count32 _
@[simp] theorem State.bump_tun : (s.bump a k).tun = s.tun := State.set_tun s a count32 _
@[simp] theorem State.bump_tunOff : (s.bump a k).tunOff = s.tunOff := State.set_tunOff s a count32 _
@[simp] theorem State.bump_tunNoise : (s.bump a k).tunNoise = s.tunNoise := State.set_tunNoise s a count32 _
@[simp] theorem State.bump_scrubs : (s.bump a k).scrubs = s.scrubs := State.set_scrubs s a count32 _
@[simp] theorem State.bump_tunCount : (s.bump a k).tunCount = s.tunCount := State.set_tunCount s a count32 _
@[simp] theorem State.bump_flush : (s.bump a k).flush = s.flush := State.set_flush s a count32 _
@[simp] theorem State.bump_ytlb : (s.bump a k).ytlb = s.ytlb := State.set_ytlb s a count32 _
@[simp] theorem State.bump_arbs : (s.bump a k).arbs = s.arbs := State.set_arbs s a count32 _
@[simp] theorem State.bump_arm : (s.bump a k).arm = s.arm := State.set_arm s a count32 _
@[simp] theorem State.bump_mcast : (s.bump a k).mcast = s.mcast := State.set_mcast s a count32 _
@[simp] theorem State.bump_inval : (s.bump a k).inval = s.inval := State.set_inval s a count32 _
@[simp] theorem State.bump_move : (s.bump a k).move = s.move := State.set_move s a count32 _
@[simp] theorem State.bump_moveWait : (s.bump a k).moveWait = s.moveWait := State.set_moveWait s a count32 _
@[simp] theorem State.bump_regionCount : (s.bump a k).regionCount = s.regionCount := State.set_regionCount s a count32 _
@[simp] theorem State.bump_g7Used : (s.bump a k).g7Used = s.g7Used := State.set_g7Used s a count32 _
@[simp] theorem State.bump_gl : (s.bump a k).gl = s.gl := State.set_gl s a count32 _
@[simp] theorem State.bump_logs : (s.bump a k).logs = s.logs := State.set_logs s a count32 _
@[simp] theorem State.bump_disp : (s.bump a k).disp = s.disp := State.set_disp s a count32 _
@[simp] theorem State.bump_sy : (s.bump a k).sy = s.sy := State.set_sy s a count32 _
@[simp] theorem State.bump_cask : (s.bump a k).cask = s.cask := State.set_cask s a count32 _
@[simp] theorem State.bump_pw : (s.bump a k).pw = s.pw := State.set_pw s a count32 _
@[simp] theorem State.bump_svc : (s.bump a k).svc = s.svc := State.set_svc s a count32 _
@[simp] theorem State.bump_fuses : (s.bump a k).fuses = s.fuses := State.set_fuses s a count32 _
@[simp] theorem State.bump_hostRead : (s.bump a k).hostRead = s.hostRead := State.set_hostRead s a count32 _
@[simp] theorem State.bump_freeCtr : (s.bump a k).freeCtr = s.freeCtr := State.set_freeCtr s a count32 _
@[simp] theorem State.bump_pending : (s.bump a k).pending = s.pending := State.set_pending s a count32 _
@[simp] theorem State.bump_ch_ (m : Nat) : (s.bump a k).ch m = s.ch m := State.set_ch_ s a count32 _ _
@[simp] theorem State.bump_task_ (m u : Nat) : (s.bump a k).task m u = s.task m u := State.set_task_ s a count32 _ _ _
@[simp] theorem State.bump_byte_ (b₁ : Nat) : (s.bump a k).byte b₁ = s.byte b₁ := State.set_byte_ s a count32 _ _
@[simp] theorem State.bump_gport_ (q : Nat) : (s.bump a k).gport q = s.gport q := State.set_gport_ s a count32 _ _
@[simp] theorem State.bump_sport_ (q : Nat) : (s.bump a k).sport q = s.sport q := State.set_sport_ s a count32 _ _
@[simp] theorem State.bump_eng_ (m j : Nat) : (s.bump a k).eng m j = s.eng m j := State.set_eng_ s a count32 _ _ _

end bump

section setCh

variable (s : State) (n : Nat) (c : Chamber)

@[simp] theorem State.setCh_clk : (s.setCh n c).clk = s.clk := rfl
@[simp] theorem State.setCh_regs : (s.setCh n c).regs = s.regs := rfl
@[simp] theorem State.setCh_perf : (s.setCh n c).perf = s.perf := rfl
@[simp] theorem State.setCh_mem : (s.setCh n c).mem = s.mem := rfl
@[simp] theorem State.setCh_chk : (s.setCh n c).chk = s.chk := rfl
@[simp] theorem State.setCh_poison : (s.setCh n c).poison = s.poison := rfl
@[simp] theorem State.setCh_saves : (s.setCh n c).saves = s.saves := rfl
@[simp] theorem State.setCh_tun : (s.setCh n c).tun = s.tun := rfl
@[simp] theorem State.setCh_tunOff : (s.setCh n c).tunOff = s.tunOff := rfl
@[simp] theorem State.setCh_tunNoise : (s.setCh n c).tunNoise = s.tunNoise := rfl
@[simp] theorem State.setCh_scrubs : (s.setCh n c).scrubs = s.scrubs := rfl
@[simp] theorem State.setCh_tunCount : (s.setCh n c).tunCount = s.tunCount := rfl
@[simp] theorem State.setCh_flush : (s.setCh n c).flush = s.flush := rfl
@[simp] theorem State.setCh_ytlb : (s.setCh n c).ytlb = s.ytlb := rfl
@[simp] theorem State.setCh_arbs : (s.setCh n c).arbs = s.arbs := rfl
@[simp] theorem State.setCh_arm : (s.setCh n c).arm = s.arm := rfl
@[simp] theorem State.setCh_mcast : (s.setCh n c).mcast = s.mcast := rfl
@[simp] theorem State.setCh_inval : (s.setCh n c).inval = s.inval := rfl
@[simp] theorem State.setCh_move : (s.setCh n c).move = s.move := rfl
@[simp] theorem State.setCh_moveWait : (s.setCh n c).moveWait = s.moveWait := rfl
@[simp] theorem State.setCh_regionCount : (s.setCh n c).regionCount = s.regionCount := rfl
@[simp] theorem State.setCh_g7Used : (s.setCh n c).g7Used = s.g7Used := rfl
@[simp] theorem State.setCh_gl : (s.setCh n c).gl = s.gl := rfl
@[simp] theorem State.setCh_logs : (s.setCh n c).logs = s.logs := rfl
@[simp] theorem State.setCh_disp : (s.setCh n c).disp = s.disp := rfl
@[simp] theorem State.setCh_sy : (s.setCh n c).sy = s.sy := rfl
@[simp] theorem State.setCh_cask : (s.setCh n c).cask = s.cask := rfl
@[simp] theorem State.setCh_pw : (s.setCh n c).pw = s.pw := rfl
@[simp] theorem State.setCh_svc : (s.setCh n c).svc = s.svc := rfl
@[simp] theorem State.setCh_fuses : (s.setCh n c).fuses = s.fuses := rfl
@[simp] theorem State.setCh_hostRead : (s.setCh n c).hostRead = s.hostRead := rfl
@[simp] theorem State.setCh_freeCtr : (s.setCh n c).freeCtr = s.freeCtr := rfl
@[simp] theorem State.setCh_pending : (s.setCh n c).pending = s.pending := rfl
@[simp] theorem State.setCh_reg_ (b₁ : Nat) : (s.setCh n c).reg b₁ = s.reg b₁ := rfl
@[simp] theorem State.setCh_get_ (b₁ : Nat) (g : Fld) : (s.setCh n c).get b₁ g = s.get b₁ g := rfl
@[simp] theorem State.setCh_byte_ (b₁ : Nat) : (s.setCh n c).byte b₁ = s.byte b₁ := rfl
@[simp] theorem State.setCh_gport_ (q : Nat) : (s.setCh n c).gport q = s.gport q := rfl
@[simp] theorem State.setCh_sport_ (q : Nat) : (s.setCh n c).sport q = s.sport q := rfl

end setCh

section modCh

variable (s : State) (n : Nat) (f : Chamber → Chamber)

@[simp] theorem State.modCh_clk : (s.modCh n f).clk = s.clk := rfl
@[simp] theorem State.modCh_regs : (s.modCh n f).regs = s.regs := rfl
@[simp] theorem State.modCh_perf : (s.modCh n f).perf = s.perf := rfl
@[simp] theorem State.modCh_mem : (s.modCh n f).mem = s.mem := rfl
@[simp] theorem State.modCh_chk : (s.modCh n f).chk = s.chk := rfl
@[simp] theorem State.modCh_poison : (s.modCh n f).poison = s.poison := rfl
@[simp] theorem State.modCh_saves : (s.modCh n f).saves = s.saves := rfl
@[simp] theorem State.modCh_tun : (s.modCh n f).tun = s.tun := rfl
@[simp] theorem State.modCh_tunOff : (s.modCh n f).tunOff = s.tunOff := rfl
@[simp] theorem State.modCh_tunNoise : (s.modCh n f).tunNoise = s.tunNoise := rfl
@[simp] theorem State.modCh_scrubs : (s.modCh n f).scrubs = s.scrubs := rfl
@[simp] theorem State.modCh_tunCount : (s.modCh n f).tunCount = s.tunCount := rfl
@[simp] theorem State.modCh_flush : (s.modCh n f).flush = s.flush := rfl
@[simp] theorem State.modCh_ytlb : (s.modCh n f).ytlb = s.ytlb := rfl
@[simp] theorem State.modCh_arbs : (s.modCh n f).arbs = s.arbs := rfl
@[simp] theorem State.modCh_arm : (s.modCh n f).arm = s.arm := rfl
@[simp] theorem State.modCh_mcast : (s.modCh n f).mcast = s.mcast := rfl
@[simp] theorem State.modCh_inval : (s.modCh n f).inval = s.inval := rfl
@[simp] theorem State.modCh_move : (s.modCh n f).move = s.move := rfl
@[simp] theorem State.modCh_moveWait : (s.modCh n f).moveWait = s.moveWait := rfl
@[simp] theorem State.modCh_regionCount : (s.modCh n f).regionCount = s.regionCount := rfl
@[simp] theorem State.modCh_g7Used : (s.modCh n f).g7Used = s.g7Used := rfl
@[simp] theorem State.modCh_gl : (s.modCh n f).gl = s.gl := rfl
@[simp] theorem State.modCh_logs : (s.modCh n f).logs = s.logs := rfl
@[simp] theorem State.modCh_disp : (s.modCh n f).disp = s.disp := rfl
@[simp] theorem State.modCh_sy : (s.modCh n f).sy = s.sy := rfl
@[simp] theorem State.modCh_cask : (s.modCh n f).cask = s.cask := rfl
@[simp] theorem State.modCh_pw : (s.modCh n f).pw = s.pw := rfl
@[simp] theorem State.modCh_svc : (s.modCh n f).svc = s.svc := rfl
@[simp] theorem State.modCh_fuses : (s.modCh n f).fuses = s.fuses := rfl
@[simp] theorem State.modCh_hostRead : (s.modCh n f).hostRead = s.hostRead := rfl
@[simp] theorem State.modCh_freeCtr : (s.modCh n f).freeCtr = s.freeCtr := rfl
@[simp] theorem State.modCh_pending : (s.modCh n f).pending = s.pending := rfl
@[simp] theorem State.modCh_reg_ (b₁ : Nat) : (s.modCh n f).reg b₁ = s.reg b₁ := rfl
@[simp] theorem State.modCh_get_ (b₁ : Nat) (g : Fld) : (s.modCh n f).get b₁ g = s.get b₁ g := rfl
@[simp] theorem State.modCh_byte_ (b₁ : Nat) : (s.modCh n f).byte b₁ = s.byte b₁ := rfl
@[simp] theorem State.modCh_gport_ (q : Nat) : (s.modCh n f).gport q = s.gport q := rfl
@[simp] theorem State.modCh_sport_ (q : Nat) : (s.modCh n f).sport q = s.sport q := rfl

end modCh

section setTask

variable (s : State) (n t : Nat) (k : Task)

@[simp] theorem State.setTask_clk : (s.setTask n t k).clk = s.clk := rfl
@[simp] theorem State.setTask_regs : (s.setTask n t k).regs = s.regs := rfl
@[simp] theorem State.setTask_perf : (s.setTask n t k).perf = s.perf := rfl
@[simp] theorem State.setTask_mem : (s.setTask n t k).mem = s.mem := rfl
@[simp] theorem State.setTask_chk : (s.setTask n t k).chk = s.chk := rfl
@[simp] theorem State.setTask_poison : (s.setTask n t k).poison = s.poison := rfl
@[simp] theorem State.setTask_saves : (s.setTask n t k).saves = s.saves := rfl
@[simp] theorem State.setTask_tun : (s.setTask n t k).tun = s.tun := rfl
@[simp] theorem State.setTask_tunOff : (s.setTask n t k).tunOff = s.tunOff := rfl
@[simp] theorem State.setTask_tunNoise : (s.setTask n t k).tunNoise = s.tunNoise := rfl
@[simp] theorem State.setTask_scrubs : (s.setTask n t k).scrubs = s.scrubs := rfl
@[simp] theorem State.setTask_tunCount : (s.setTask n t k).tunCount = s.tunCount := rfl
@[simp] theorem State.setTask_flush : (s.setTask n t k).flush = s.flush := rfl
@[simp] theorem State.setTask_ytlb : (s.setTask n t k).ytlb = s.ytlb := rfl
@[simp] theorem State.setTask_arbs : (s.setTask n t k).arbs = s.arbs := rfl
@[simp] theorem State.setTask_arm : (s.setTask n t k).arm = s.arm := rfl
@[simp] theorem State.setTask_mcast : (s.setTask n t k).mcast = s.mcast := rfl
@[simp] theorem State.setTask_inval : (s.setTask n t k).inval = s.inval := rfl
@[simp] theorem State.setTask_move : (s.setTask n t k).move = s.move := rfl
@[simp] theorem State.setTask_moveWait : (s.setTask n t k).moveWait = s.moveWait := rfl
@[simp] theorem State.setTask_regionCount : (s.setTask n t k).regionCount = s.regionCount := rfl
@[simp] theorem State.setTask_g7Used : (s.setTask n t k).g7Used = s.g7Used := rfl
@[simp] theorem State.setTask_gl : (s.setTask n t k).gl = s.gl := rfl
@[simp] theorem State.setTask_logs : (s.setTask n t k).logs = s.logs := rfl
@[simp] theorem State.setTask_disp : (s.setTask n t k).disp = s.disp := rfl
@[simp] theorem State.setTask_sy : (s.setTask n t k).sy = s.sy := rfl
@[simp] theorem State.setTask_cask : (s.setTask n t k).cask = s.cask := rfl
@[simp] theorem State.setTask_pw : (s.setTask n t k).pw = s.pw := rfl
@[simp] theorem State.setTask_svc : (s.setTask n t k).svc = s.svc := rfl
@[simp] theorem State.setTask_fuses : (s.setTask n t k).fuses = s.fuses := rfl
@[simp] theorem State.setTask_hostRead : (s.setTask n t k).hostRead = s.hostRead := rfl
@[simp] theorem State.setTask_freeCtr : (s.setTask n t k).freeCtr = s.freeCtr := rfl
@[simp] theorem State.setTask_pending : (s.setTask n t k).pending = s.pending := rfl
@[simp] theorem State.setTask_reg_ (b₁ : Nat) : (s.setTask n t k).reg b₁ = s.reg b₁ := rfl
@[simp] theorem State.setTask_get_ (b₁ : Nat) (g : Fld) : (s.setTask n t k).get b₁ g = s.get b₁ g := rfl
@[simp] theorem State.setTask_byte_ (b₁ : Nat) : (s.setTask n t k).byte b₁ = s.byte b₁ := rfl
@[simp] theorem State.setTask_gport_ (q : Nat) : (s.setTask n t k).gport q = s.gport q := rfl
@[simp] theorem State.setTask_sport_ (q : Nat) : (s.setTask n t k).sport q = s.sport q := rfl

end setTask

section modTask

variable (s : State) (n t : Nat) (f : Task → Task)

@[simp] theorem State.modTask_clk : (s.modTask n t f).clk = s.clk := rfl
@[simp] theorem State.modTask_regs : (s.modTask n t f).regs = s.regs := rfl
@[simp] theorem State.modTask_perf : (s.modTask n t f).perf = s.perf := rfl
@[simp] theorem State.modTask_mem : (s.modTask n t f).mem = s.mem := rfl
@[simp] theorem State.modTask_chk : (s.modTask n t f).chk = s.chk := rfl
@[simp] theorem State.modTask_poison : (s.modTask n t f).poison = s.poison := rfl
@[simp] theorem State.modTask_saves : (s.modTask n t f).saves = s.saves := rfl
@[simp] theorem State.modTask_tun : (s.modTask n t f).tun = s.tun := rfl
@[simp] theorem State.modTask_tunOff : (s.modTask n t f).tunOff = s.tunOff := rfl
@[simp] theorem State.modTask_tunNoise : (s.modTask n t f).tunNoise = s.tunNoise := rfl
@[simp] theorem State.modTask_scrubs : (s.modTask n t f).scrubs = s.scrubs := rfl
@[simp] theorem State.modTask_tunCount : (s.modTask n t f).tunCount = s.tunCount := rfl
@[simp] theorem State.modTask_flush : (s.modTask n t f).flush = s.flush := rfl
@[simp] theorem State.modTask_ytlb : (s.modTask n t f).ytlb = s.ytlb := rfl
@[simp] theorem State.modTask_arbs : (s.modTask n t f).arbs = s.arbs := rfl
@[simp] theorem State.modTask_arm : (s.modTask n t f).arm = s.arm := rfl
@[simp] theorem State.modTask_mcast : (s.modTask n t f).mcast = s.mcast := rfl
@[simp] theorem State.modTask_inval : (s.modTask n t f).inval = s.inval := rfl
@[simp] theorem State.modTask_move : (s.modTask n t f).move = s.move := rfl
@[simp] theorem State.modTask_moveWait : (s.modTask n t f).moveWait = s.moveWait := rfl
@[simp] theorem State.modTask_regionCount : (s.modTask n t f).regionCount = s.regionCount := rfl
@[simp] theorem State.modTask_g7Used : (s.modTask n t f).g7Used = s.g7Used := rfl
@[simp] theorem State.modTask_gl : (s.modTask n t f).gl = s.gl := rfl
@[simp] theorem State.modTask_logs : (s.modTask n t f).logs = s.logs := rfl
@[simp] theorem State.modTask_disp : (s.modTask n t f).disp = s.disp := rfl
@[simp] theorem State.modTask_sy : (s.modTask n t f).sy = s.sy := rfl
@[simp] theorem State.modTask_cask : (s.modTask n t f).cask = s.cask := rfl
@[simp] theorem State.modTask_pw : (s.modTask n t f).pw = s.pw := rfl
@[simp] theorem State.modTask_svc : (s.modTask n t f).svc = s.svc := rfl
@[simp] theorem State.modTask_fuses : (s.modTask n t f).fuses = s.fuses := rfl
@[simp] theorem State.modTask_hostRead : (s.modTask n t f).hostRead = s.hostRead := rfl
@[simp] theorem State.modTask_freeCtr : (s.modTask n t f).freeCtr = s.freeCtr := rfl
@[simp] theorem State.modTask_pending : (s.modTask n t f).pending = s.pending := rfl
@[simp] theorem State.modTask_reg_ (b₁ : Nat) : (s.modTask n t f).reg b₁ = s.reg b₁ := rfl
@[simp] theorem State.modTask_get_ (b₁ : Nat) (g : Fld) : (s.modTask n t f).get b₁ g = s.get b₁ g := rfl
@[simp] theorem State.modTask_byte_ (b₁ : Nat) : (s.modTask n t f).byte b₁ = s.byte b₁ := rfl
@[simp] theorem State.modTask_gport_ (q : Nat) : (s.modTask n t f).gport q = s.gport q := rfl
@[simp] theorem State.modTask_sport_ (q : Nat) : (s.modTask n t f).sport q = s.sport q := rfl

end modTask

section setSlot

variable (s : State) (n i : Nat) (v : Slot)

@[simp] theorem State.setSlot_clk : (s.setSlot n i v).clk = s.clk := rfl
@[simp] theorem State.setSlot_regs : (s.setSlot n i v).regs = s.regs := rfl
@[simp] theorem State.setSlot_perf : (s.setSlot n i v).perf = s.perf := rfl
@[simp] theorem State.setSlot_mem : (s.setSlot n i v).mem = s.mem := rfl
@[simp] theorem State.setSlot_chk : (s.setSlot n i v).chk = s.chk := rfl
@[simp] theorem State.setSlot_poison : (s.setSlot n i v).poison = s.poison := rfl
@[simp] theorem State.setSlot_saves : (s.setSlot n i v).saves = s.saves := rfl
@[simp] theorem State.setSlot_tun : (s.setSlot n i v).tun = s.tun := rfl
@[simp] theorem State.setSlot_tunOff : (s.setSlot n i v).tunOff = s.tunOff := rfl
@[simp] theorem State.setSlot_tunNoise : (s.setSlot n i v).tunNoise = s.tunNoise := rfl
@[simp] theorem State.setSlot_scrubs : (s.setSlot n i v).scrubs = s.scrubs := rfl
@[simp] theorem State.setSlot_tunCount : (s.setSlot n i v).tunCount = s.tunCount := rfl
@[simp] theorem State.setSlot_flush : (s.setSlot n i v).flush = s.flush := rfl
@[simp] theorem State.setSlot_ytlb : (s.setSlot n i v).ytlb = s.ytlb := rfl
@[simp] theorem State.setSlot_arbs : (s.setSlot n i v).arbs = s.arbs := rfl
@[simp] theorem State.setSlot_arm : (s.setSlot n i v).arm = s.arm := rfl
@[simp] theorem State.setSlot_mcast : (s.setSlot n i v).mcast = s.mcast := rfl
@[simp] theorem State.setSlot_inval : (s.setSlot n i v).inval = s.inval := rfl
@[simp] theorem State.setSlot_move : (s.setSlot n i v).move = s.move := rfl
@[simp] theorem State.setSlot_moveWait : (s.setSlot n i v).moveWait = s.moveWait := rfl
@[simp] theorem State.setSlot_regionCount : (s.setSlot n i v).regionCount = s.regionCount := rfl
@[simp] theorem State.setSlot_g7Used : (s.setSlot n i v).g7Used = s.g7Used := rfl
@[simp] theorem State.setSlot_gl : (s.setSlot n i v).gl = s.gl := rfl
@[simp] theorem State.setSlot_logs : (s.setSlot n i v).logs = s.logs := rfl
@[simp] theorem State.setSlot_disp : (s.setSlot n i v).disp = s.disp := rfl
@[simp] theorem State.setSlot_sy : (s.setSlot n i v).sy = s.sy := rfl
@[simp] theorem State.setSlot_cask : (s.setSlot n i v).cask = s.cask := rfl
@[simp] theorem State.setSlot_pw : (s.setSlot n i v).pw = s.pw := rfl
@[simp] theorem State.setSlot_svc : (s.setSlot n i v).svc = s.svc := rfl
@[simp] theorem State.setSlot_fuses : (s.setSlot n i v).fuses = s.fuses := rfl
@[simp] theorem State.setSlot_hostRead : (s.setSlot n i v).hostRead = s.hostRead := rfl
@[simp] theorem State.setSlot_freeCtr : (s.setSlot n i v).freeCtr = s.freeCtr := rfl
@[simp] theorem State.setSlot_pending : (s.setSlot n i v).pending = s.pending := rfl
@[simp] theorem State.setSlot_reg_ (b₁ : Nat) : (s.setSlot n i v).reg b₁ = s.reg b₁ := rfl
@[simp] theorem State.setSlot_get_ (b₁ : Nat) (g : Fld) : (s.setSlot n i v).get b₁ g = s.get b₁ g := rfl
@[simp] theorem State.setSlot_byte_ (b₁ : Nat) : (s.setSlot n i v).byte b₁ = s.byte b₁ := rfl
@[simp] theorem State.setSlot_gport_ (q : Nat) : (s.setSlot n i v).gport q = s.gport q := rfl
@[simp] theorem State.setSlot_sport_ (q : Nat) : (s.setSlot n i v).sport q = s.sport q := rfl

end setSlot

section setEng

variable (s : State) (n e : Nat) (v : Engine)

@[simp] theorem State.setEng_clk : (s.setEng n e v).clk = s.clk := rfl
@[simp] theorem State.setEng_regs : (s.setEng n e v).regs = s.regs := rfl
@[simp] theorem State.setEng_perf : (s.setEng n e v).perf = s.perf := rfl
@[simp] theorem State.setEng_mem : (s.setEng n e v).mem = s.mem := rfl
@[simp] theorem State.setEng_chk : (s.setEng n e v).chk = s.chk := rfl
@[simp] theorem State.setEng_poison : (s.setEng n e v).poison = s.poison := rfl
@[simp] theorem State.setEng_saves : (s.setEng n e v).saves = s.saves := rfl
@[simp] theorem State.setEng_tun : (s.setEng n e v).tun = s.tun := rfl
@[simp] theorem State.setEng_tunOff : (s.setEng n e v).tunOff = s.tunOff := rfl
@[simp] theorem State.setEng_tunNoise : (s.setEng n e v).tunNoise = s.tunNoise := rfl
@[simp] theorem State.setEng_scrubs : (s.setEng n e v).scrubs = s.scrubs := rfl
@[simp] theorem State.setEng_tunCount : (s.setEng n e v).tunCount = s.tunCount := rfl
@[simp] theorem State.setEng_flush : (s.setEng n e v).flush = s.flush := rfl
@[simp] theorem State.setEng_ytlb : (s.setEng n e v).ytlb = s.ytlb := rfl
@[simp] theorem State.setEng_arbs : (s.setEng n e v).arbs = s.arbs := rfl
@[simp] theorem State.setEng_arm : (s.setEng n e v).arm = s.arm := rfl
@[simp] theorem State.setEng_mcast : (s.setEng n e v).mcast = s.mcast := rfl
@[simp] theorem State.setEng_inval : (s.setEng n e v).inval = s.inval := rfl
@[simp] theorem State.setEng_move : (s.setEng n e v).move = s.move := rfl
@[simp] theorem State.setEng_moveWait : (s.setEng n e v).moveWait = s.moveWait := rfl
@[simp] theorem State.setEng_regionCount : (s.setEng n e v).regionCount = s.regionCount := rfl
@[simp] theorem State.setEng_g7Used : (s.setEng n e v).g7Used = s.g7Used := rfl
@[simp] theorem State.setEng_gl : (s.setEng n e v).gl = s.gl := rfl
@[simp] theorem State.setEng_logs : (s.setEng n e v).logs = s.logs := rfl
@[simp] theorem State.setEng_disp : (s.setEng n e v).disp = s.disp := rfl
@[simp] theorem State.setEng_sy : (s.setEng n e v).sy = s.sy := rfl
@[simp] theorem State.setEng_cask : (s.setEng n e v).cask = s.cask := rfl
@[simp] theorem State.setEng_pw : (s.setEng n e v).pw = s.pw := rfl
@[simp] theorem State.setEng_svc : (s.setEng n e v).svc = s.svc := rfl
@[simp] theorem State.setEng_fuses : (s.setEng n e v).fuses = s.fuses := rfl
@[simp] theorem State.setEng_hostRead : (s.setEng n e v).hostRead = s.hostRead := rfl
@[simp] theorem State.setEng_freeCtr : (s.setEng n e v).freeCtr = s.freeCtr := rfl
@[simp] theorem State.setEng_pending : (s.setEng n e v).pending = s.pending := rfl
@[simp] theorem State.setEng_reg_ (b₁ : Nat) : (s.setEng n e v).reg b₁ = s.reg b₁ := rfl
@[simp] theorem State.setEng_get_ (b₁ : Nat) (g : Fld) : (s.setEng n e v).get b₁ g = s.get b₁ g := rfl
@[simp] theorem State.setEng_byte_ (b₁ : Nat) : (s.setEng n e v).byte b₁ = s.byte b₁ := rfl
@[simp] theorem State.setEng_gport_ (q : Nat) : (s.setEng n e v).gport q = s.gport q := rfl
@[simp] theorem State.setEng_sport_ (q : Nat) : (s.setEng n e v).sport q = s.sport q := rfl

end setEng

section setRegion

variable (s : State) (n r : Nat) (v : Region)

@[simp] theorem State.setRegion_clk : (s.setRegion n r v).clk = s.clk := rfl
@[simp] theorem State.setRegion_regs : (s.setRegion n r v).regs = s.regs := rfl
@[simp] theorem State.setRegion_perf : (s.setRegion n r v).perf = s.perf := rfl
@[simp] theorem State.setRegion_mem : (s.setRegion n r v).mem = s.mem := rfl
@[simp] theorem State.setRegion_chk : (s.setRegion n r v).chk = s.chk := rfl
@[simp] theorem State.setRegion_poison : (s.setRegion n r v).poison = s.poison := rfl
@[simp] theorem State.setRegion_saves : (s.setRegion n r v).saves = s.saves := rfl
@[simp] theorem State.setRegion_tun : (s.setRegion n r v).tun = s.tun := rfl
@[simp] theorem State.setRegion_tunOff : (s.setRegion n r v).tunOff = s.tunOff := rfl
@[simp] theorem State.setRegion_tunNoise : (s.setRegion n r v).tunNoise = s.tunNoise := rfl
@[simp] theorem State.setRegion_scrubs : (s.setRegion n r v).scrubs = s.scrubs := rfl
@[simp] theorem State.setRegion_tunCount : (s.setRegion n r v).tunCount = s.tunCount := rfl
@[simp] theorem State.setRegion_flush : (s.setRegion n r v).flush = s.flush := rfl
@[simp] theorem State.setRegion_ytlb : (s.setRegion n r v).ytlb = s.ytlb := rfl
@[simp] theorem State.setRegion_arbs : (s.setRegion n r v).arbs = s.arbs := rfl
@[simp] theorem State.setRegion_arm : (s.setRegion n r v).arm = s.arm := rfl
@[simp] theorem State.setRegion_mcast : (s.setRegion n r v).mcast = s.mcast := rfl
@[simp] theorem State.setRegion_inval : (s.setRegion n r v).inval = s.inval := rfl
@[simp] theorem State.setRegion_move : (s.setRegion n r v).move = s.move := rfl
@[simp] theorem State.setRegion_moveWait : (s.setRegion n r v).moveWait = s.moveWait := rfl
@[simp] theorem State.setRegion_regionCount : (s.setRegion n r v).regionCount = s.regionCount := rfl
@[simp] theorem State.setRegion_g7Used : (s.setRegion n r v).g7Used = s.g7Used := rfl
@[simp] theorem State.setRegion_gl : (s.setRegion n r v).gl = s.gl := rfl
@[simp] theorem State.setRegion_logs : (s.setRegion n r v).logs = s.logs := rfl
@[simp] theorem State.setRegion_disp : (s.setRegion n r v).disp = s.disp := rfl
@[simp] theorem State.setRegion_sy : (s.setRegion n r v).sy = s.sy := rfl
@[simp] theorem State.setRegion_cask : (s.setRegion n r v).cask = s.cask := rfl
@[simp] theorem State.setRegion_pw : (s.setRegion n r v).pw = s.pw := rfl
@[simp] theorem State.setRegion_svc : (s.setRegion n r v).svc = s.svc := rfl
@[simp] theorem State.setRegion_fuses : (s.setRegion n r v).fuses = s.fuses := rfl
@[simp] theorem State.setRegion_hostRead : (s.setRegion n r v).hostRead = s.hostRead := rfl
@[simp] theorem State.setRegion_freeCtr : (s.setRegion n r v).freeCtr = s.freeCtr := rfl
@[simp] theorem State.setRegion_pending : (s.setRegion n r v).pending = s.pending := rfl
@[simp] theorem State.setRegion_reg_ (b₁ : Nat) : (s.setRegion n r v).reg b₁ = s.reg b₁ := rfl
@[simp] theorem State.setRegion_get_ (b₁ : Nat) (g : Fld) : (s.setRegion n r v).get b₁ g = s.get b₁ g := rfl
@[simp] theorem State.setRegion_byte_ (b₁ : Nat) : (s.setRegion n r v).byte b₁ = s.byte b₁ := rfl
@[simp] theorem State.setRegion_gport_ (q : Nat) : (s.setRegion n r v).gport q = s.gport q := rfl
@[simp] theorem State.setRegion_sport_ (q : Nat) : (s.setRegion n r v).sport q = s.sport q := rfl

end setRegion

section setTstate

variable (s : State) (n t x : Nat)

@[simp] theorem State.setTstate_clk : (s.setTstate n t x).clk = s.clk := (State.set_clk (s.set (CH_TASK n t) CH_TASK.STATE x) (CH_STATUS n) _ _).trans (State.set_clk s (CH_TASK n t) _ _)
@[simp] theorem State.setTstate_perf : (s.setTstate n t x).perf = s.perf := (State.set_perf (s.set (CH_TASK n t) CH_TASK.STATE x) (CH_STATUS n) _ _).trans (State.set_perf s (CH_TASK n t) _ _)
@[simp] theorem State.setTstate_mem : (s.setTstate n t x).mem = s.mem := (State.set_mem (s.set (CH_TASK n t) CH_TASK.STATE x) (CH_STATUS n) _ _).trans (State.set_mem s (CH_TASK n t) _ _)
@[simp] theorem State.setTstate_chk : (s.setTstate n t x).chk = s.chk := (State.set_chk (s.set (CH_TASK n t) CH_TASK.STATE x) (CH_STATUS n) _ _).trans (State.set_chk s (CH_TASK n t) _ _)
@[simp] theorem State.setTstate_poison : (s.setTstate n t x).poison = s.poison := (State.set_poison (s.set (CH_TASK n t) CH_TASK.STATE x) (CH_STATUS n) _ _).trans (State.set_poison s (CH_TASK n t) _ _)
@[simp] theorem State.setTstate_chambers : (s.setTstate n t x).chambers = s.chambers := (State.set_chambers (s.set (CH_TASK n t) CH_TASK.STATE x) (CH_STATUS n) _ _).trans (State.set_chambers s (CH_TASK n t) _ _)
@[simp] theorem State.setTstate_saves : (s.setTstate n t x).saves = s.saves := (State.set_saves (s.set (CH_TASK n t) CH_TASK.STATE x) (CH_STATUS n) _ _).trans (State.set_saves s (CH_TASK n t) _ _)
@[simp] theorem State.setTstate_tun : (s.setTstate n t x).tun = s.tun := (State.set_tun (s.set (CH_TASK n t) CH_TASK.STATE x) (CH_STATUS n) _ _).trans (State.set_tun s (CH_TASK n t) _ _)
@[simp] theorem State.setTstate_tunOff : (s.setTstate n t x).tunOff = s.tunOff := (State.set_tunOff (s.set (CH_TASK n t) CH_TASK.STATE x) (CH_STATUS n) _ _).trans (State.set_tunOff s (CH_TASK n t) _ _)
@[simp] theorem State.setTstate_tunNoise : (s.setTstate n t x).tunNoise = s.tunNoise := (State.set_tunNoise (s.set (CH_TASK n t) CH_TASK.STATE x) (CH_STATUS n) _ _).trans (State.set_tunNoise s (CH_TASK n t) _ _)
@[simp] theorem State.setTstate_scrubs : (s.setTstate n t x).scrubs = s.scrubs := (State.set_scrubs (s.set (CH_TASK n t) CH_TASK.STATE x) (CH_STATUS n) _ _).trans (State.set_scrubs s (CH_TASK n t) _ _)
@[simp] theorem State.setTstate_tunCount : (s.setTstate n t x).tunCount = s.tunCount := (State.set_tunCount (s.set (CH_TASK n t) CH_TASK.STATE x) (CH_STATUS n) _ _).trans (State.set_tunCount s (CH_TASK n t) _ _)
@[simp] theorem State.setTstate_flush : (s.setTstate n t x).flush = s.flush := (State.set_flush (s.set (CH_TASK n t) CH_TASK.STATE x) (CH_STATUS n) _ _).trans (State.set_flush s (CH_TASK n t) _ _)
@[simp] theorem State.setTstate_ytlb : (s.setTstate n t x).ytlb = s.ytlb := (State.set_ytlb (s.set (CH_TASK n t) CH_TASK.STATE x) (CH_STATUS n) _ _).trans (State.set_ytlb s (CH_TASK n t) _ _)
@[simp] theorem State.setTstate_arbs : (s.setTstate n t x).arbs = s.arbs := (State.set_arbs (s.set (CH_TASK n t) CH_TASK.STATE x) (CH_STATUS n) _ _).trans (State.set_arbs s (CH_TASK n t) _ _)
@[simp] theorem State.setTstate_arm : (s.setTstate n t x).arm = s.arm := (State.set_arm (s.set (CH_TASK n t) CH_TASK.STATE x) (CH_STATUS n) _ _).trans (State.set_arm s (CH_TASK n t) _ _)
@[simp] theorem State.setTstate_mcast : (s.setTstate n t x).mcast = s.mcast := (State.set_mcast (s.set (CH_TASK n t) CH_TASK.STATE x) (CH_STATUS n) _ _).trans (State.set_mcast s (CH_TASK n t) _ _)
@[simp] theorem State.setTstate_inval : (s.setTstate n t x).inval = s.inval := (State.set_inval (s.set (CH_TASK n t) CH_TASK.STATE x) (CH_STATUS n) _ _).trans (State.set_inval s (CH_TASK n t) _ _)
@[simp] theorem State.setTstate_move : (s.setTstate n t x).move = s.move := (State.set_move (s.set (CH_TASK n t) CH_TASK.STATE x) (CH_STATUS n) _ _).trans (State.set_move s (CH_TASK n t) _ _)
@[simp] theorem State.setTstate_moveWait : (s.setTstate n t x).moveWait = s.moveWait := (State.set_moveWait (s.set (CH_TASK n t) CH_TASK.STATE x) (CH_STATUS n) _ _).trans (State.set_moveWait s (CH_TASK n t) _ _)
@[simp] theorem State.setTstate_regionCount : (s.setTstate n t x).regionCount = s.regionCount := (State.set_regionCount (s.set (CH_TASK n t) CH_TASK.STATE x) (CH_STATUS n) _ _).trans (State.set_regionCount s (CH_TASK n t) _ _)
@[simp] theorem State.setTstate_g7Used : (s.setTstate n t x).g7Used = s.g7Used := (State.set_g7Used (s.set (CH_TASK n t) CH_TASK.STATE x) (CH_STATUS n) _ _).trans (State.set_g7Used s (CH_TASK n t) _ _)
@[simp] theorem State.setTstate_gl : (s.setTstate n t x).gl = s.gl := (State.set_gl (s.set (CH_TASK n t) CH_TASK.STATE x) (CH_STATUS n) _ _).trans (State.set_gl s (CH_TASK n t) _ _)
@[simp] theorem State.setTstate_logs : (s.setTstate n t x).logs = s.logs := (State.set_logs (s.set (CH_TASK n t) CH_TASK.STATE x) (CH_STATUS n) _ _).trans (State.set_logs s (CH_TASK n t) _ _)
@[simp] theorem State.setTstate_disp : (s.setTstate n t x).disp = s.disp := (State.set_disp (s.set (CH_TASK n t) CH_TASK.STATE x) (CH_STATUS n) _ _).trans (State.set_disp s (CH_TASK n t) _ _)
@[simp] theorem State.setTstate_sy : (s.setTstate n t x).sy = s.sy := (State.set_sy (s.set (CH_TASK n t) CH_TASK.STATE x) (CH_STATUS n) _ _).trans (State.set_sy s (CH_TASK n t) _ _)
@[simp] theorem State.setTstate_cask : (s.setTstate n t x).cask = s.cask := (State.set_cask (s.set (CH_TASK n t) CH_TASK.STATE x) (CH_STATUS n) _ _).trans (State.set_cask s (CH_TASK n t) _ _)
@[simp] theorem State.setTstate_pw : (s.setTstate n t x).pw = s.pw := (State.set_pw (s.set (CH_TASK n t) CH_TASK.STATE x) (CH_STATUS n) _ _).trans (State.set_pw s (CH_TASK n t) _ _)
@[simp] theorem State.setTstate_svc : (s.setTstate n t x).svc = s.svc := (State.set_svc (s.set (CH_TASK n t) CH_TASK.STATE x) (CH_STATUS n) _ _).trans (State.set_svc s (CH_TASK n t) _ _)
@[simp] theorem State.setTstate_fuses : (s.setTstate n t x).fuses = s.fuses := (State.set_fuses (s.set (CH_TASK n t) CH_TASK.STATE x) (CH_STATUS n) _ _).trans (State.set_fuses s (CH_TASK n t) _ _)
@[simp] theorem State.setTstate_hostRead : (s.setTstate n t x).hostRead = s.hostRead := (State.set_hostRead (s.set (CH_TASK n t) CH_TASK.STATE x) (CH_STATUS n) _ _).trans (State.set_hostRead s (CH_TASK n t) _ _)
@[simp] theorem State.setTstate_freeCtr : (s.setTstate n t x).freeCtr = s.freeCtr := (State.set_freeCtr (s.set (CH_TASK n t) CH_TASK.STATE x) (CH_STATUS n) _ _).trans (State.set_freeCtr s (CH_TASK n t) _ _)
@[simp] theorem State.setTstate_pending : (s.setTstate n t x).pending = s.pending := (State.set_pending (s.set (CH_TASK n t) CH_TASK.STATE x) (CH_STATUS n) _ _).trans (State.set_pending s (CH_TASK n t) _ _)
@[simp] theorem State.setTstate_ch_ (m : Nat) : (s.setTstate n t x).ch m = s.ch m := (State.set_ch_ (s.set (CH_TASK n t) CH_TASK.STATE x) (CH_STATUS n) _ _ _).trans (State.set_ch_ s (CH_TASK n t) _ _ _)
@[simp] theorem State.setTstate_task_ (m u : Nat) : (s.setTstate n t x).task m u = s.task m u := (State.set_task_ (s.set (CH_TASK n t) CH_TASK.STATE x) (CH_STATUS n) _ _ _ _).trans (State.set_task_ s (CH_TASK n t) _ _ _ _)
@[simp] theorem State.setTstate_byte_ (b₁ : Nat) : (s.setTstate n t x).byte b₁ = s.byte b₁ := (State.set_byte_ (s.set (CH_TASK n t) CH_TASK.STATE x) (CH_STATUS n) _ _ _).trans (State.set_byte_ s (CH_TASK n t) _ _ _)
@[simp] theorem State.setTstate_gport_ (q : Nat) : (s.setTstate n t x).gport q = s.gport q := (State.set_gport_ (s.set (CH_TASK n t) CH_TASK.STATE x) (CH_STATUS n) _ _ _).trans (State.set_gport_ s (CH_TASK n t) _ _ _)
@[simp] theorem State.setTstate_sport_ (q : Nat) : (s.setTstate n t x).sport q = s.sport q := (State.set_sport_ (s.set (CH_TASK n t) CH_TASK.STATE x) (CH_STATUS n) _ _ _).trans (State.set_sport_ s (CH_TASK n t) _ _ _)
@[simp] theorem State.setTstate_eng_ (m j : Nat) : (s.setTstate n t x).eng m j = s.eng m j := (State.set_eng_ (s.set (CH_TASK n t) CH_TASK.STATE x) (CH_STATUS n) _ _ _ _).trans (State.set_eng_ s (CH_TASK n t) _ _ _ _)

end setTstate

section showWindow

variable (s : State) (n t : Nat)

@[simp] theorem State.showWindow_clk : (s.showWindow n t).clk = s.clk := State.set_clk s (CH_TASK n t) CH_TASK.WINDOW _
@[simp] theorem State.showWindow_perf : (s.showWindow n t).perf = s.perf := State.set_perf s (CH_TASK n t) CH_TASK.WINDOW _
@[simp] theorem State.showWindow_mem : (s.showWindow n t).mem = s.mem := State.set_mem s (CH_TASK n t) CH_TASK.WINDOW _
@[simp] theorem State.showWindow_chk : (s.showWindow n t).chk = s.chk := State.set_chk s (CH_TASK n t) CH_TASK.WINDOW _
@[simp] theorem State.showWindow_poison : (s.showWindow n t).poison = s.poison := State.set_poison s (CH_TASK n t) CH_TASK.WINDOW _
@[simp] theorem State.showWindow_chambers : (s.showWindow n t).chambers = s.chambers := State.set_chambers s (CH_TASK n t) CH_TASK.WINDOW _
@[simp] theorem State.showWindow_saves : (s.showWindow n t).saves = s.saves := State.set_saves s (CH_TASK n t) CH_TASK.WINDOW _
@[simp] theorem State.showWindow_tun : (s.showWindow n t).tun = s.tun := State.set_tun s (CH_TASK n t) CH_TASK.WINDOW _
@[simp] theorem State.showWindow_tunOff : (s.showWindow n t).tunOff = s.tunOff := State.set_tunOff s (CH_TASK n t) CH_TASK.WINDOW _
@[simp] theorem State.showWindow_tunNoise : (s.showWindow n t).tunNoise = s.tunNoise := State.set_tunNoise s (CH_TASK n t) CH_TASK.WINDOW _
@[simp] theorem State.showWindow_scrubs : (s.showWindow n t).scrubs = s.scrubs := State.set_scrubs s (CH_TASK n t) CH_TASK.WINDOW _
@[simp] theorem State.showWindow_tunCount : (s.showWindow n t).tunCount = s.tunCount := State.set_tunCount s (CH_TASK n t) CH_TASK.WINDOW _
@[simp] theorem State.showWindow_flush : (s.showWindow n t).flush = s.flush := State.set_flush s (CH_TASK n t) CH_TASK.WINDOW _
@[simp] theorem State.showWindow_ytlb : (s.showWindow n t).ytlb = s.ytlb := State.set_ytlb s (CH_TASK n t) CH_TASK.WINDOW _
@[simp] theorem State.showWindow_arbs : (s.showWindow n t).arbs = s.arbs := State.set_arbs s (CH_TASK n t) CH_TASK.WINDOW _
@[simp] theorem State.showWindow_arm : (s.showWindow n t).arm = s.arm := State.set_arm s (CH_TASK n t) CH_TASK.WINDOW _
@[simp] theorem State.showWindow_mcast : (s.showWindow n t).mcast = s.mcast := State.set_mcast s (CH_TASK n t) CH_TASK.WINDOW _
@[simp] theorem State.showWindow_inval : (s.showWindow n t).inval = s.inval := State.set_inval s (CH_TASK n t) CH_TASK.WINDOW _
@[simp] theorem State.showWindow_move : (s.showWindow n t).move = s.move := State.set_move s (CH_TASK n t) CH_TASK.WINDOW _
@[simp] theorem State.showWindow_moveWait : (s.showWindow n t).moveWait = s.moveWait := State.set_moveWait s (CH_TASK n t) CH_TASK.WINDOW _
@[simp] theorem State.showWindow_regionCount : (s.showWindow n t).regionCount = s.regionCount := State.set_regionCount s (CH_TASK n t) CH_TASK.WINDOW _
@[simp] theorem State.showWindow_g7Used : (s.showWindow n t).g7Used = s.g7Used := State.set_g7Used s (CH_TASK n t) CH_TASK.WINDOW _
@[simp] theorem State.showWindow_gl : (s.showWindow n t).gl = s.gl := State.set_gl s (CH_TASK n t) CH_TASK.WINDOW _
@[simp] theorem State.showWindow_logs : (s.showWindow n t).logs = s.logs := State.set_logs s (CH_TASK n t) CH_TASK.WINDOW _
@[simp] theorem State.showWindow_disp : (s.showWindow n t).disp = s.disp := State.set_disp s (CH_TASK n t) CH_TASK.WINDOW _
@[simp] theorem State.showWindow_sy : (s.showWindow n t).sy = s.sy := State.set_sy s (CH_TASK n t) CH_TASK.WINDOW _
@[simp] theorem State.showWindow_cask : (s.showWindow n t).cask = s.cask := State.set_cask s (CH_TASK n t) CH_TASK.WINDOW _
@[simp] theorem State.showWindow_pw : (s.showWindow n t).pw = s.pw := State.set_pw s (CH_TASK n t) CH_TASK.WINDOW _
@[simp] theorem State.showWindow_svc : (s.showWindow n t).svc = s.svc := State.set_svc s (CH_TASK n t) CH_TASK.WINDOW _
@[simp] theorem State.showWindow_fuses : (s.showWindow n t).fuses = s.fuses := State.set_fuses s (CH_TASK n t) CH_TASK.WINDOW _
@[simp] theorem State.showWindow_hostRead : (s.showWindow n t).hostRead = s.hostRead := State.set_hostRead s (CH_TASK n t) CH_TASK.WINDOW _
@[simp] theorem State.showWindow_freeCtr : (s.showWindow n t).freeCtr = s.freeCtr := State.set_freeCtr s (CH_TASK n t) CH_TASK.WINDOW _
@[simp] theorem State.showWindow_pending : (s.showWindow n t).pending = s.pending := State.set_pending s (CH_TASK n t) CH_TASK.WINDOW _
@[simp] theorem State.showWindow_ch_ (m : Nat) : (s.showWindow n t).ch m = s.ch m := State.set_ch_ s (CH_TASK n t) CH_TASK.WINDOW _ _
@[simp] theorem State.showWindow_task_ (m u : Nat) : (s.showWindow n t).task m u = s.task m u := State.set_task_ s (CH_TASK n t) CH_TASK.WINDOW _ _ _
@[simp] theorem State.showWindow_byte_ (b₁ : Nat) : (s.showWindow n t).byte b₁ = s.byte b₁ := State.set_byte_ s (CH_TASK n t) CH_TASK.WINDOW _ _
@[simp] theorem State.showWindow_gport_ (q : Nat) : (s.showWindow n t).gport q = s.gport q := State.set_gport_ s (CH_TASK n t) CH_TASK.WINDOW _ _
@[simp] theorem State.showWindow_sport_ (q : Nat) : (s.showWindow n t).sport q = s.sport q := State.set_sport_ s (CH_TASK n t) CH_TASK.WINDOW _ _
@[simp] theorem State.showWindow_eng_ (m j : Nat) : (s.showWindow n t).eng m j = s.eng m j := State.set_eng_ s (CH_TASK n t) CH_TASK.WINDOW _ _ _

end showWindow

section progress

variable (s : State) (n t : Nat)

@[simp] theorem State.progress_clk : (s.progress n t).clk = s.clk := rfl
@[simp] theorem State.progress_regs : (s.progress n t).regs = s.regs := rfl
@[simp] theorem State.progress_perf : (s.progress n t).perf = s.perf := rfl
@[simp] theorem State.progress_mem : (s.progress n t).mem = s.mem := rfl
@[simp] theorem State.progress_chk : (s.progress n t).chk = s.chk := rfl
@[simp] theorem State.progress_poison : (s.progress n t).poison = s.poison := rfl
@[simp] theorem State.progress_saves : (s.progress n t).saves = s.saves := rfl
@[simp] theorem State.progress_tun : (s.progress n t).tun = s.tun := rfl
@[simp] theorem State.progress_tunOff : (s.progress n t).tunOff = s.tunOff := rfl
@[simp] theorem State.progress_tunNoise : (s.progress n t).tunNoise = s.tunNoise := rfl
@[simp] theorem State.progress_scrubs : (s.progress n t).scrubs = s.scrubs := rfl
@[simp] theorem State.progress_tunCount : (s.progress n t).tunCount = s.tunCount := rfl
@[simp] theorem State.progress_flush : (s.progress n t).flush = s.flush := rfl
@[simp] theorem State.progress_ytlb : (s.progress n t).ytlb = s.ytlb := rfl
@[simp] theorem State.progress_arbs : (s.progress n t).arbs = s.arbs := rfl
@[simp] theorem State.progress_arm : (s.progress n t).arm = s.arm := rfl
@[simp] theorem State.progress_mcast : (s.progress n t).mcast = s.mcast := rfl
@[simp] theorem State.progress_inval : (s.progress n t).inval = s.inval := rfl
@[simp] theorem State.progress_move : (s.progress n t).move = s.move := rfl
@[simp] theorem State.progress_moveWait : (s.progress n t).moveWait = s.moveWait := rfl
@[simp] theorem State.progress_regionCount : (s.progress n t).regionCount = s.regionCount := rfl
@[simp] theorem State.progress_g7Used : (s.progress n t).g7Used = s.g7Used := rfl
@[simp] theorem State.progress_gl : (s.progress n t).gl = s.gl := rfl
@[simp] theorem State.progress_logs : (s.progress n t).logs = s.logs := rfl
@[simp] theorem State.progress_disp : (s.progress n t).disp = s.disp := rfl
@[simp] theorem State.progress_sy : (s.progress n t).sy = s.sy := rfl
@[simp] theorem State.progress_cask : (s.progress n t).cask = s.cask := rfl
@[simp] theorem State.progress_pw : (s.progress n t).pw = s.pw := rfl
@[simp] theorem State.progress_svc : (s.progress n t).svc = s.svc := rfl
@[simp] theorem State.progress_fuses : (s.progress n t).fuses = s.fuses := rfl
@[simp] theorem State.progress_hostRead : (s.progress n t).hostRead = s.hostRead := rfl
@[simp] theorem State.progress_freeCtr : (s.progress n t).freeCtr = s.freeCtr := rfl
@[simp] theorem State.progress_pending : (s.progress n t).pending = s.pending := rfl
@[simp] theorem State.progress_reg_ (b₁ : Nat) : (s.progress n t).reg b₁ = s.reg b₁ := rfl
@[simp] theorem State.progress_get_ (b₁ : Nat) (g : Fld) : (s.progress n t).get b₁ g = s.get b₁ g := rfl
@[simp] theorem State.progress_byte_ (b₁ : Nat) : (s.progress n t).byte b₁ = s.byte b₁ := rfl
@[simp] theorem State.progress_gport_ (q : Nat) : (s.progress n t).gport q = s.gport q := rfl
@[simp] theorem State.progress_sport_ (q : Nat) : (s.progress n t).sport q = s.sport q := rfl

end progress

section markMixed

variable (s : State) (a : Nat)

@[simp] theorem State.markMixed_clk : (s.markMixed a).clk = s.clk := rfl
@[simp] theorem State.markMixed_regs : (s.markMixed a).regs = s.regs := rfl
@[simp] theorem State.markMixed_mem : (s.markMixed a).mem = s.mem := rfl
@[simp] theorem State.markMixed_chk : (s.markMixed a).chk = s.chk := rfl
@[simp] theorem State.markMixed_poison : (s.markMixed a).poison = s.poison := rfl
@[simp] theorem State.markMixed_chambers : (s.markMixed a).chambers = s.chambers := rfl
@[simp] theorem State.markMixed_saves : (s.markMixed a).saves = s.saves := rfl
@[simp] theorem State.markMixed_tun : (s.markMixed a).tun = s.tun := rfl
@[simp] theorem State.markMixed_tunOff : (s.markMixed a).tunOff = s.tunOff := rfl
@[simp] theorem State.markMixed_tunNoise : (s.markMixed a).tunNoise = s.tunNoise := rfl
@[simp] theorem State.markMixed_scrubs : (s.markMixed a).scrubs = s.scrubs := rfl
@[simp] theorem State.markMixed_tunCount : (s.markMixed a).tunCount = s.tunCount := rfl
@[simp] theorem State.markMixed_flush : (s.markMixed a).flush = s.flush := rfl
@[simp] theorem State.markMixed_ytlb : (s.markMixed a).ytlb = s.ytlb := rfl
@[simp] theorem State.markMixed_arbs : (s.markMixed a).arbs = s.arbs := rfl
@[simp] theorem State.markMixed_arm : (s.markMixed a).arm = s.arm := rfl
@[simp] theorem State.markMixed_mcast : (s.markMixed a).mcast = s.mcast := rfl
@[simp] theorem State.markMixed_inval : (s.markMixed a).inval = s.inval := rfl
@[simp] theorem State.markMixed_move : (s.markMixed a).move = s.move := rfl
@[simp] theorem State.markMixed_moveWait : (s.markMixed a).moveWait = s.moveWait := rfl
@[simp] theorem State.markMixed_regionCount : (s.markMixed a).regionCount = s.regionCount := rfl
@[simp] theorem State.markMixed_g7Used : (s.markMixed a).g7Used = s.g7Used := rfl
@[simp] theorem State.markMixed_gl : (s.markMixed a).gl = s.gl := rfl
@[simp] theorem State.markMixed_logs : (s.markMixed a).logs = s.logs := rfl
@[simp] theorem State.markMixed_disp : (s.markMixed a).disp = s.disp := rfl
@[simp] theorem State.markMixed_sy : (s.markMixed a).sy = s.sy := rfl
@[simp] theorem State.markMixed_cask : (s.markMixed a).cask = s.cask := rfl
@[simp] theorem State.markMixed_pw : (s.markMixed a).pw = s.pw := rfl
@[simp] theorem State.markMixed_svc : (s.markMixed a).svc = s.svc := rfl
@[simp] theorem State.markMixed_fuses : (s.markMixed a).fuses = s.fuses := rfl
@[simp] theorem State.markMixed_hostRead : (s.markMixed a).hostRead = s.hostRead := rfl
@[simp] theorem State.markMixed_freeCtr : (s.markMixed a).freeCtr = s.freeCtr := rfl
@[simp] theorem State.markMixed_pending : (s.markMixed a).pending = s.pending := rfl
@[simp] theorem State.markMixed_reg_ (b₁ : Nat) : (s.markMixed a).reg b₁ = s.reg b₁ := rfl
@[simp] theorem State.markMixed_get_ (b₁ : Nat) (g : Fld) : (s.markMixed a).get b₁ g = s.get b₁ g := rfl
@[simp] theorem State.markMixed_ch_ (m : Nat) : (s.markMixed a).ch m = s.ch m := rfl
@[simp] theorem State.markMixed_task_ (m u : Nat) : (s.markMixed a).task m u = s.task m u := rfl
@[simp] theorem State.markMixed_byte_ (b₁ : Nat) : (s.markMixed a).byte b₁ = s.byte b₁ := rfl
@[simp] theorem State.markMixed_gport_ (q : Nat) : (s.markMixed a).gport q = s.gport q := rfl
@[simp] theorem State.markMixed_sport_ (q : Nat) : (s.markMixed a).sport q = s.sport q := rfl
@[simp] theorem State.markMixed_eng_ (m j : Nat) : (s.markMixed a).eng m j = s.eng m j := rfl

end markMixed

section modLogs

variable (s : State) (f : Logs → Logs)

@[simp] theorem State.modLogs_clk : (s.modLogs f).clk = s.clk := rfl
@[simp] theorem State.modLogs_regs : (s.modLogs f).regs = s.regs := rfl
@[simp] theorem State.modLogs_perf : (s.modLogs f).perf = s.perf := rfl
@[simp] theorem State.modLogs_mem : (s.modLogs f).mem = s.mem := rfl
@[simp] theorem State.modLogs_chk : (s.modLogs f).chk = s.chk := rfl
@[simp] theorem State.modLogs_poison : (s.modLogs f).poison = s.poison := rfl
@[simp] theorem State.modLogs_chambers : (s.modLogs f).chambers = s.chambers := rfl
@[simp] theorem State.modLogs_saves : (s.modLogs f).saves = s.saves := rfl
@[simp] theorem State.modLogs_tun : (s.modLogs f).tun = s.tun := rfl
@[simp] theorem State.modLogs_tunOff : (s.modLogs f).tunOff = s.tunOff := rfl
@[simp] theorem State.modLogs_tunNoise : (s.modLogs f).tunNoise = s.tunNoise := rfl
@[simp] theorem State.modLogs_scrubs : (s.modLogs f).scrubs = s.scrubs := rfl
@[simp] theorem State.modLogs_tunCount : (s.modLogs f).tunCount = s.tunCount := rfl
@[simp] theorem State.modLogs_flush : (s.modLogs f).flush = s.flush := rfl
@[simp] theorem State.modLogs_ytlb : (s.modLogs f).ytlb = s.ytlb := rfl
@[simp] theorem State.modLogs_arbs : (s.modLogs f).arbs = s.arbs := rfl
@[simp] theorem State.modLogs_arm : (s.modLogs f).arm = s.arm := rfl
@[simp] theorem State.modLogs_mcast : (s.modLogs f).mcast = s.mcast := rfl
@[simp] theorem State.modLogs_inval : (s.modLogs f).inval = s.inval := rfl
@[simp] theorem State.modLogs_move : (s.modLogs f).move = s.move := rfl
@[simp] theorem State.modLogs_moveWait : (s.modLogs f).moveWait = s.moveWait := rfl
@[simp] theorem State.modLogs_regionCount : (s.modLogs f).regionCount = s.regionCount := rfl
@[simp] theorem State.modLogs_g7Used : (s.modLogs f).g7Used = s.g7Used := rfl
@[simp] theorem State.modLogs_gl : (s.modLogs f).gl = s.gl := rfl
@[simp] theorem State.modLogs_disp : (s.modLogs f).disp = s.disp := rfl
@[simp] theorem State.modLogs_sy : (s.modLogs f).sy = s.sy := rfl
@[simp] theorem State.modLogs_cask : (s.modLogs f).cask = s.cask := rfl
@[simp] theorem State.modLogs_pw : (s.modLogs f).pw = s.pw := rfl
@[simp] theorem State.modLogs_svc : (s.modLogs f).svc = s.svc := rfl
@[simp] theorem State.modLogs_fuses : (s.modLogs f).fuses = s.fuses := rfl
@[simp] theorem State.modLogs_hostRead : (s.modLogs f).hostRead = s.hostRead := rfl
@[simp] theorem State.modLogs_freeCtr : (s.modLogs f).freeCtr = s.freeCtr := rfl
@[simp] theorem State.modLogs_pending : (s.modLogs f).pending = s.pending := rfl
@[simp] theorem State.modLogs_logs : (s.modLogs f).logs = f s.logs := rfl
@[simp] theorem State.modLogs_reg_ (b₁ : Nat) : (s.modLogs f).reg b₁ = s.reg b₁ := rfl
@[simp] theorem State.modLogs_get_ (b₁ : Nat) (g : Fld) : (s.modLogs f).get b₁ g = s.get b₁ g := rfl
@[simp] theorem State.modLogs_ch_ (m : Nat) : (s.modLogs f).ch m = s.ch m := rfl
@[simp] theorem State.modLogs_task_ (m u : Nat) : (s.modLogs f).task m u = s.task m u := rfl
@[simp] theorem State.modLogs_byte_ (b₁ : Nat) : (s.modLogs f).byte b₁ = s.byte b₁ := rfl
@[simp] theorem State.modLogs_gport_ (q : Nat) : (s.modLogs f).gport q = s.gport q := rfl
@[simp] theorem State.modLogs_sport_ (q : Nat) : (s.modLogs f).sport q = s.sport q := rfl
@[simp] theorem State.modLogs_eng_ (m j : Nat) : (s.modLogs f).eng m j = s.eng m j := rfl

end modLogs

section modSvc

variable (s : State) (f : Svc → Svc)

@[simp] theorem State.modSvc_clk : (s.modSvc f).clk = s.clk := rfl
@[simp] theorem State.modSvc_regs : (s.modSvc f).regs = s.regs := rfl
@[simp] theorem State.modSvc_perf : (s.modSvc f).perf = s.perf := rfl
@[simp] theorem State.modSvc_mem : (s.modSvc f).mem = s.mem := rfl
@[simp] theorem State.modSvc_chk : (s.modSvc f).chk = s.chk := rfl
@[simp] theorem State.modSvc_poison : (s.modSvc f).poison = s.poison := rfl
@[simp] theorem State.modSvc_chambers : (s.modSvc f).chambers = s.chambers := rfl
@[simp] theorem State.modSvc_saves : (s.modSvc f).saves = s.saves := rfl
@[simp] theorem State.modSvc_tun : (s.modSvc f).tun = s.tun := rfl
@[simp] theorem State.modSvc_tunOff : (s.modSvc f).tunOff = s.tunOff := rfl
@[simp] theorem State.modSvc_tunNoise : (s.modSvc f).tunNoise = s.tunNoise := rfl
@[simp] theorem State.modSvc_scrubs : (s.modSvc f).scrubs = s.scrubs := rfl
@[simp] theorem State.modSvc_tunCount : (s.modSvc f).tunCount = s.tunCount := rfl
@[simp] theorem State.modSvc_flush : (s.modSvc f).flush = s.flush := rfl
@[simp] theorem State.modSvc_ytlb : (s.modSvc f).ytlb = s.ytlb := rfl
@[simp] theorem State.modSvc_arbs : (s.modSvc f).arbs = s.arbs := rfl
@[simp] theorem State.modSvc_arm : (s.modSvc f).arm = s.arm := rfl
@[simp] theorem State.modSvc_mcast : (s.modSvc f).mcast = s.mcast := rfl
@[simp] theorem State.modSvc_inval : (s.modSvc f).inval = s.inval := rfl
@[simp] theorem State.modSvc_move : (s.modSvc f).move = s.move := rfl
@[simp] theorem State.modSvc_moveWait : (s.modSvc f).moveWait = s.moveWait := rfl
@[simp] theorem State.modSvc_regionCount : (s.modSvc f).regionCount = s.regionCount := rfl
@[simp] theorem State.modSvc_g7Used : (s.modSvc f).g7Used = s.g7Used := rfl
@[simp] theorem State.modSvc_gl : (s.modSvc f).gl = s.gl := rfl
@[simp] theorem State.modSvc_logs : (s.modSvc f).logs = s.logs := rfl
@[simp] theorem State.modSvc_disp : (s.modSvc f).disp = s.disp := rfl
@[simp] theorem State.modSvc_sy : (s.modSvc f).sy = s.sy := rfl
@[simp] theorem State.modSvc_cask : (s.modSvc f).cask = s.cask := rfl
@[simp] theorem State.modSvc_pw : (s.modSvc f).pw = s.pw := rfl
@[simp] theorem State.modSvc_fuses : (s.modSvc f).fuses = s.fuses := rfl
@[simp] theorem State.modSvc_hostRead : (s.modSvc f).hostRead = s.hostRead := rfl
@[simp] theorem State.modSvc_freeCtr : (s.modSvc f).freeCtr = s.freeCtr := rfl
@[simp] theorem State.modSvc_pending : (s.modSvc f).pending = s.pending := rfl
@[simp] theorem State.modSvc_svc : (s.modSvc f).svc = f s.svc := rfl
@[simp] theorem State.modSvc_reg_ (b₁ : Nat) : (s.modSvc f).reg b₁ = s.reg b₁ := rfl
@[simp] theorem State.modSvc_get_ (b₁ : Nat) (g : Fld) : (s.modSvc f).get b₁ g = s.get b₁ g := rfl
@[simp] theorem State.modSvc_ch_ (m : Nat) : (s.modSvc f).ch m = s.ch m := rfl
@[simp] theorem State.modSvc_task_ (m u : Nat) : (s.modSvc f).task m u = s.task m u := rfl
@[simp] theorem State.modSvc_byte_ (b₁ : Nat) : (s.modSvc f).byte b₁ = s.byte b₁ := rfl
@[simp] theorem State.modSvc_gport_ (q : Nat) : (s.modSvc f).gport q = s.gport q := rfl
@[simp] theorem State.modSvc_sport_ (q : Nat) : (s.modSvc f).sport q = s.sport q := rfl
@[simp] theorem State.modSvc_eng_ (m j : Nat) : (s.modSvc f).eng m j = s.eng m j := rfl

end modSvc

section modDisp

variable (s : State) (f : Disp → Disp)

@[simp] theorem State.modDisp_clk : (s.modDisp f).clk = s.clk := rfl
@[simp] theorem State.modDisp_regs : (s.modDisp f).regs = s.regs := rfl
@[simp] theorem State.modDisp_perf : (s.modDisp f).perf = s.perf := rfl
@[simp] theorem State.modDisp_mem : (s.modDisp f).mem = s.mem := rfl
@[simp] theorem State.modDisp_chk : (s.modDisp f).chk = s.chk := rfl
@[simp] theorem State.modDisp_poison : (s.modDisp f).poison = s.poison := rfl
@[simp] theorem State.modDisp_chambers : (s.modDisp f).chambers = s.chambers := rfl
@[simp] theorem State.modDisp_saves : (s.modDisp f).saves = s.saves := rfl
@[simp] theorem State.modDisp_tun : (s.modDisp f).tun = s.tun := rfl
@[simp] theorem State.modDisp_tunOff : (s.modDisp f).tunOff = s.tunOff := rfl
@[simp] theorem State.modDisp_tunNoise : (s.modDisp f).tunNoise = s.tunNoise := rfl
@[simp] theorem State.modDisp_scrubs : (s.modDisp f).scrubs = s.scrubs := rfl
@[simp] theorem State.modDisp_tunCount : (s.modDisp f).tunCount = s.tunCount := rfl
@[simp] theorem State.modDisp_flush : (s.modDisp f).flush = s.flush := rfl
@[simp] theorem State.modDisp_ytlb : (s.modDisp f).ytlb = s.ytlb := rfl
@[simp] theorem State.modDisp_arbs : (s.modDisp f).arbs = s.arbs := rfl
@[simp] theorem State.modDisp_arm : (s.modDisp f).arm = s.arm := rfl
@[simp] theorem State.modDisp_mcast : (s.modDisp f).mcast = s.mcast := rfl
@[simp] theorem State.modDisp_inval : (s.modDisp f).inval = s.inval := rfl
@[simp] theorem State.modDisp_move : (s.modDisp f).move = s.move := rfl
@[simp] theorem State.modDisp_moveWait : (s.modDisp f).moveWait = s.moveWait := rfl
@[simp] theorem State.modDisp_regionCount : (s.modDisp f).regionCount = s.regionCount := rfl
@[simp] theorem State.modDisp_g7Used : (s.modDisp f).g7Used = s.g7Used := rfl
@[simp] theorem State.modDisp_gl : (s.modDisp f).gl = s.gl := rfl
@[simp] theorem State.modDisp_logs : (s.modDisp f).logs = s.logs := rfl
@[simp] theorem State.modDisp_sy : (s.modDisp f).sy = s.sy := rfl
@[simp] theorem State.modDisp_cask : (s.modDisp f).cask = s.cask := rfl
@[simp] theorem State.modDisp_pw : (s.modDisp f).pw = s.pw := rfl
@[simp] theorem State.modDisp_svc : (s.modDisp f).svc = s.svc := rfl
@[simp] theorem State.modDisp_fuses : (s.modDisp f).fuses = s.fuses := rfl
@[simp] theorem State.modDisp_hostRead : (s.modDisp f).hostRead = s.hostRead := rfl
@[simp] theorem State.modDisp_freeCtr : (s.modDisp f).freeCtr = s.freeCtr := rfl
@[simp] theorem State.modDisp_pending : (s.modDisp f).pending = s.pending := rfl
@[simp] theorem State.modDisp_disp : (s.modDisp f).disp = f s.disp := rfl
@[simp] theorem State.modDisp_reg_ (b₁ : Nat) : (s.modDisp f).reg b₁ = s.reg b₁ := rfl
@[simp] theorem State.modDisp_get_ (b₁ : Nat) (g : Fld) : (s.modDisp f).get b₁ g = s.get b₁ g := rfl
@[simp] theorem State.modDisp_ch_ (m : Nat) : (s.modDisp f).ch m = s.ch m := rfl
@[simp] theorem State.modDisp_task_ (m u : Nat) : (s.modDisp f).task m u = s.task m u := rfl
@[simp] theorem State.modDisp_byte_ (b₁ : Nat) : (s.modDisp f).byte b₁ = s.byte b₁ := rfl
@[simp] theorem State.modDisp_gport_ (q : Nat) : (s.modDisp f).gport q = s.gport q := rfl
@[simp] theorem State.modDisp_sport_ (q : Nat) : (s.modDisp f).sport q = s.sport q := rfl
@[simp] theorem State.modDisp_eng_ (m j : Nat) : (s.modDisp f).eng m j = s.eng m j := rfl

end modDisp

section modGl

variable (s : State) (f : Gallery → Gallery)

@[simp] theorem State.modGl_clk : (s.modGl f).clk = s.clk := rfl
@[simp] theorem State.modGl_regs : (s.modGl f).regs = s.regs := rfl
@[simp] theorem State.modGl_perf : (s.modGl f).perf = s.perf := rfl
@[simp] theorem State.modGl_mem : (s.modGl f).mem = s.mem := rfl
@[simp] theorem State.modGl_chk : (s.modGl f).chk = s.chk := rfl
@[simp] theorem State.modGl_poison : (s.modGl f).poison = s.poison := rfl
@[simp] theorem State.modGl_chambers : (s.modGl f).chambers = s.chambers := rfl
@[simp] theorem State.modGl_saves : (s.modGl f).saves = s.saves := rfl
@[simp] theorem State.modGl_tun : (s.modGl f).tun = s.tun := rfl
@[simp] theorem State.modGl_tunOff : (s.modGl f).tunOff = s.tunOff := rfl
@[simp] theorem State.modGl_tunNoise : (s.modGl f).tunNoise = s.tunNoise := rfl
@[simp] theorem State.modGl_scrubs : (s.modGl f).scrubs = s.scrubs := rfl
@[simp] theorem State.modGl_tunCount : (s.modGl f).tunCount = s.tunCount := rfl
@[simp] theorem State.modGl_flush : (s.modGl f).flush = s.flush := rfl
@[simp] theorem State.modGl_ytlb : (s.modGl f).ytlb = s.ytlb := rfl
@[simp] theorem State.modGl_arbs : (s.modGl f).arbs = s.arbs := rfl
@[simp] theorem State.modGl_arm : (s.modGl f).arm = s.arm := rfl
@[simp] theorem State.modGl_mcast : (s.modGl f).mcast = s.mcast := rfl
@[simp] theorem State.modGl_inval : (s.modGl f).inval = s.inval := rfl
@[simp] theorem State.modGl_move : (s.modGl f).move = s.move := rfl
@[simp] theorem State.modGl_moveWait : (s.modGl f).moveWait = s.moveWait := rfl
@[simp] theorem State.modGl_regionCount : (s.modGl f).regionCount = s.regionCount := rfl
@[simp] theorem State.modGl_g7Used : (s.modGl f).g7Used = s.g7Used := rfl
@[simp] theorem State.modGl_logs : (s.modGl f).logs = s.logs := rfl
@[simp] theorem State.modGl_disp : (s.modGl f).disp = s.disp := rfl
@[simp] theorem State.modGl_sy : (s.modGl f).sy = s.sy := rfl
@[simp] theorem State.modGl_cask : (s.modGl f).cask = s.cask := rfl
@[simp] theorem State.modGl_pw : (s.modGl f).pw = s.pw := rfl
@[simp] theorem State.modGl_svc : (s.modGl f).svc = s.svc := rfl
@[simp] theorem State.modGl_fuses : (s.modGl f).fuses = s.fuses := rfl
@[simp] theorem State.modGl_hostRead : (s.modGl f).hostRead = s.hostRead := rfl
@[simp] theorem State.modGl_freeCtr : (s.modGl f).freeCtr = s.freeCtr := rfl
@[simp] theorem State.modGl_pending : (s.modGl f).pending = s.pending := rfl
@[simp] theorem State.modGl_gl : (s.modGl f).gl = f s.gl := rfl
@[simp] theorem State.modGl_reg_ (b₁ : Nat) : (s.modGl f).reg b₁ = s.reg b₁ := rfl
@[simp] theorem State.modGl_get_ (b₁ : Nat) (g : Fld) : (s.modGl f).get b₁ g = s.get b₁ g := rfl
@[simp] theorem State.modGl_ch_ (m : Nat) : (s.modGl f).ch m = s.ch m := rfl
@[simp] theorem State.modGl_task_ (m u : Nat) : (s.modGl f).task m u = s.task m u := rfl
@[simp] theorem State.modGl_byte_ (b₁ : Nat) : (s.modGl f).byte b₁ = s.byte b₁ := rfl
@[simp] theorem State.modGl_sport_ (q : Nat) : (s.modGl f).sport q = s.sport q := rfl
@[simp] theorem State.modGl_eng_ (m j : Nat) : (s.modGl f).eng m j = s.eng m j := rfl

end modGl

section modPw

variable (s : State) (f : Power → Power)

@[simp] theorem State.modPw_clk : (s.modPw f).clk = s.clk := rfl
@[simp] theorem State.modPw_regs : (s.modPw f).regs = s.regs := rfl
@[simp] theorem State.modPw_perf : (s.modPw f).perf = s.perf := rfl
@[simp] theorem State.modPw_mem : (s.modPw f).mem = s.mem := rfl
@[simp] theorem State.modPw_chk : (s.modPw f).chk = s.chk := rfl
@[simp] theorem State.modPw_poison : (s.modPw f).poison = s.poison := rfl
@[simp] theorem State.modPw_chambers : (s.modPw f).chambers = s.chambers := rfl
@[simp] theorem State.modPw_saves : (s.modPw f).saves = s.saves := rfl
@[simp] theorem State.modPw_tun : (s.modPw f).tun = s.tun := rfl
@[simp] theorem State.modPw_tunOff : (s.modPw f).tunOff = s.tunOff := rfl
@[simp] theorem State.modPw_tunNoise : (s.modPw f).tunNoise = s.tunNoise := rfl
@[simp] theorem State.modPw_scrubs : (s.modPw f).scrubs = s.scrubs := rfl
@[simp] theorem State.modPw_tunCount : (s.modPw f).tunCount = s.tunCount := rfl
@[simp] theorem State.modPw_flush : (s.modPw f).flush = s.flush := rfl
@[simp] theorem State.modPw_ytlb : (s.modPw f).ytlb = s.ytlb := rfl
@[simp] theorem State.modPw_arbs : (s.modPw f).arbs = s.arbs := rfl
@[simp] theorem State.modPw_arm : (s.modPw f).arm = s.arm := rfl
@[simp] theorem State.modPw_mcast : (s.modPw f).mcast = s.mcast := rfl
@[simp] theorem State.modPw_inval : (s.modPw f).inval = s.inval := rfl
@[simp] theorem State.modPw_move : (s.modPw f).move = s.move := rfl
@[simp] theorem State.modPw_moveWait : (s.modPw f).moveWait = s.moveWait := rfl
@[simp] theorem State.modPw_regionCount : (s.modPw f).regionCount = s.regionCount := rfl
@[simp] theorem State.modPw_g7Used : (s.modPw f).g7Used = s.g7Used := rfl
@[simp] theorem State.modPw_gl : (s.modPw f).gl = s.gl := rfl
@[simp] theorem State.modPw_logs : (s.modPw f).logs = s.logs := rfl
@[simp] theorem State.modPw_disp : (s.modPw f).disp = s.disp := rfl
@[simp] theorem State.modPw_sy : (s.modPw f).sy = s.sy := rfl
@[simp] theorem State.modPw_cask : (s.modPw f).cask = s.cask := rfl
@[simp] theorem State.modPw_svc : (s.modPw f).svc = s.svc := rfl
@[simp] theorem State.modPw_fuses : (s.modPw f).fuses = s.fuses := rfl
@[simp] theorem State.modPw_hostRead : (s.modPw f).hostRead = s.hostRead := rfl
@[simp] theorem State.modPw_freeCtr : (s.modPw f).freeCtr = s.freeCtr := rfl
@[simp] theorem State.modPw_pending : (s.modPw f).pending = s.pending := rfl
@[simp] theorem State.modPw_pw : (s.modPw f).pw = f s.pw := rfl
@[simp] theorem State.modPw_reg_ (b₁ : Nat) : (s.modPw f).reg b₁ = s.reg b₁ := rfl
@[simp] theorem State.modPw_get_ (b₁ : Nat) (g : Fld) : (s.modPw f).get b₁ g = s.get b₁ g := rfl
@[simp] theorem State.modPw_ch_ (m : Nat) : (s.modPw f).ch m = s.ch m := rfl
@[simp] theorem State.modPw_task_ (m u : Nat) : (s.modPw f).task m u = s.task m u := rfl
@[simp] theorem State.modPw_byte_ (b₁ : Nat) : (s.modPw f).byte b₁ = s.byte b₁ := rfl
@[simp] theorem State.modPw_gport_ (q : Nat) : (s.modPw f).gport q = s.gport q := rfl
@[simp] theorem State.modPw_sport_ (q : Nat) : (s.modPw f).sport q = s.sport q := rfl
@[simp] theorem State.modPw_eng_ (m j : Nat) : (s.modPw f).eng m j = s.eng m j := rfl

end modPw

section modCask

variable (s : State) (f : Cask → Cask)

@[simp] theorem State.modCask_clk : (s.modCask f).clk = s.clk := rfl
@[simp] theorem State.modCask_regs : (s.modCask f).regs = s.regs := rfl
@[simp] theorem State.modCask_perf : (s.modCask f).perf = s.perf := rfl
@[simp] theorem State.modCask_mem : (s.modCask f).mem = s.mem := rfl
@[simp] theorem State.modCask_chk : (s.modCask f).chk = s.chk := rfl
@[simp] theorem State.modCask_poison : (s.modCask f).poison = s.poison := rfl
@[simp] theorem State.modCask_chambers : (s.modCask f).chambers = s.chambers := rfl
@[simp] theorem State.modCask_saves : (s.modCask f).saves = s.saves := rfl
@[simp] theorem State.modCask_tun : (s.modCask f).tun = s.tun := rfl
@[simp] theorem State.modCask_tunOff : (s.modCask f).tunOff = s.tunOff := rfl
@[simp] theorem State.modCask_tunNoise : (s.modCask f).tunNoise = s.tunNoise := rfl
@[simp] theorem State.modCask_scrubs : (s.modCask f).scrubs = s.scrubs := rfl
@[simp] theorem State.modCask_tunCount : (s.modCask f).tunCount = s.tunCount := rfl
@[simp] theorem State.modCask_flush : (s.modCask f).flush = s.flush := rfl
@[simp] theorem State.modCask_ytlb : (s.modCask f).ytlb = s.ytlb := rfl
@[simp] theorem State.modCask_arbs : (s.modCask f).arbs = s.arbs := rfl
@[simp] theorem State.modCask_arm : (s.modCask f).arm = s.arm := rfl
@[simp] theorem State.modCask_mcast : (s.modCask f).mcast = s.mcast := rfl
@[simp] theorem State.modCask_inval : (s.modCask f).inval = s.inval := rfl
@[simp] theorem State.modCask_move : (s.modCask f).move = s.move := rfl
@[simp] theorem State.modCask_moveWait : (s.modCask f).moveWait = s.moveWait := rfl
@[simp] theorem State.modCask_regionCount : (s.modCask f).regionCount = s.regionCount := rfl
@[simp] theorem State.modCask_g7Used : (s.modCask f).g7Used = s.g7Used := rfl
@[simp] theorem State.modCask_gl : (s.modCask f).gl = s.gl := rfl
@[simp] theorem State.modCask_logs : (s.modCask f).logs = s.logs := rfl
@[simp] theorem State.modCask_disp : (s.modCask f).disp = s.disp := rfl
@[simp] theorem State.modCask_sy : (s.modCask f).sy = s.sy := rfl
@[simp] theorem State.modCask_pw : (s.modCask f).pw = s.pw := rfl
@[simp] theorem State.modCask_svc : (s.modCask f).svc = s.svc := rfl
@[simp] theorem State.modCask_fuses : (s.modCask f).fuses = s.fuses := rfl
@[simp] theorem State.modCask_hostRead : (s.modCask f).hostRead = s.hostRead := rfl
@[simp] theorem State.modCask_freeCtr : (s.modCask f).freeCtr = s.freeCtr := rfl
@[simp] theorem State.modCask_pending : (s.modCask f).pending = s.pending := rfl
@[simp] theorem State.modCask_cask : (s.modCask f).cask = f s.cask := rfl
@[simp] theorem State.modCask_reg_ (b₁ : Nat) : (s.modCask f).reg b₁ = s.reg b₁ := rfl
@[simp] theorem State.modCask_get_ (b₁ : Nat) (g : Fld) : (s.modCask f).get b₁ g = s.get b₁ g := rfl
@[simp] theorem State.modCask_ch_ (m : Nat) : (s.modCask f).ch m = s.ch m := rfl
@[simp] theorem State.modCask_task_ (m u : Nat) : (s.modCask f).task m u = s.task m u := rfl
@[simp] theorem State.modCask_byte_ (b₁ : Nat) : (s.modCask f).byte b₁ = s.byte b₁ := rfl
@[simp] theorem State.modCask_gport_ (q : Nat) : (s.modCask f).gport q = s.gport q := rfl
@[simp] theorem State.modCask_sport_ (q : Nat) : (s.modCask f).sport q = s.sport q := rfl
@[simp] theorem State.modCask_eng_ (m j : Nat) : (s.modCask f).eng m j = s.eng m j := rfl

end modCask

section setGport

variable (s : State) (p : Nat) (v : GPortSt)

@[simp] theorem State.setGport_clk : (s.setGport p v).clk = s.clk := rfl
@[simp] theorem State.setGport_regs : (s.setGport p v).regs = s.regs := rfl
@[simp] theorem State.setGport_perf : (s.setGport p v).perf = s.perf := rfl
@[simp] theorem State.setGport_mem : (s.setGport p v).mem = s.mem := rfl
@[simp] theorem State.setGport_chk : (s.setGport p v).chk = s.chk := rfl
@[simp] theorem State.setGport_poison : (s.setGport p v).poison = s.poison := rfl
@[simp] theorem State.setGport_chambers : (s.setGport p v).chambers = s.chambers := rfl
@[simp] theorem State.setGport_saves : (s.setGport p v).saves = s.saves := rfl
@[simp] theorem State.setGport_tun : (s.setGport p v).tun = s.tun := rfl
@[simp] theorem State.setGport_tunOff : (s.setGport p v).tunOff = s.tunOff := rfl
@[simp] theorem State.setGport_tunNoise : (s.setGport p v).tunNoise = s.tunNoise := rfl
@[simp] theorem State.setGport_scrubs : (s.setGport p v).scrubs = s.scrubs := rfl
@[simp] theorem State.setGport_tunCount : (s.setGport p v).tunCount = s.tunCount := rfl
@[simp] theorem State.setGport_flush : (s.setGport p v).flush = s.flush := rfl
@[simp] theorem State.setGport_ytlb : (s.setGport p v).ytlb = s.ytlb := rfl
@[simp] theorem State.setGport_arbs : (s.setGport p v).arbs = s.arbs := rfl
@[simp] theorem State.setGport_arm : (s.setGport p v).arm = s.arm := rfl
@[simp] theorem State.setGport_mcast : (s.setGport p v).mcast = s.mcast := rfl
@[simp] theorem State.setGport_inval : (s.setGport p v).inval = s.inval := rfl
@[simp] theorem State.setGport_move : (s.setGport p v).move = s.move := rfl
@[simp] theorem State.setGport_moveWait : (s.setGport p v).moveWait = s.moveWait := rfl
@[simp] theorem State.setGport_regionCount : (s.setGport p v).regionCount = s.regionCount := rfl
@[simp] theorem State.setGport_g7Used : (s.setGport p v).g7Used = s.g7Used := rfl
@[simp] theorem State.setGport_logs : (s.setGport p v).logs = s.logs := rfl
@[simp] theorem State.setGport_disp : (s.setGport p v).disp = s.disp := rfl
@[simp] theorem State.setGport_sy : (s.setGport p v).sy = s.sy := rfl
@[simp] theorem State.setGport_cask : (s.setGport p v).cask = s.cask := rfl
@[simp] theorem State.setGport_pw : (s.setGport p v).pw = s.pw := rfl
@[simp] theorem State.setGport_svc : (s.setGport p v).svc = s.svc := rfl
@[simp] theorem State.setGport_fuses : (s.setGport p v).fuses = s.fuses := rfl
@[simp] theorem State.setGport_hostRead : (s.setGport p v).hostRead = s.hostRead := rfl
@[simp] theorem State.setGport_freeCtr : (s.setGport p v).freeCtr = s.freeCtr := rfl
@[simp] theorem State.setGport_pending : (s.setGport p v).pending = s.pending := rfl
@[simp] theorem State.setGport_reg_ (b₁ : Nat) : (s.setGport p v).reg b₁ = s.reg b₁ := rfl
@[simp] theorem State.setGport_get_ (b₁ : Nat) (g : Fld) : (s.setGport p v).get b₁ g = s.get b₁ g := rfl
@[simp] theorem State.setGport_ch_ (m : Nat) : (s.setGport p v).ch m = s.ch m := rfl
@[simp] theorem State.setGport_task_ (m u : Nat) : (s.setGport p v).task m u = s.task m u := rfl
@[simp] theorem State.setGport_byte_ (b₁ : Nat) : (s.setGport p v).byte b₁ = s.byte b₁ := rfl
@[simp] theorem State.setGport_sport_ (q : Nat) : (s.setGport p v).sport q = s.sport q := rfl
@[simp] theorem State.setGport_eng_ (m j : Nat) : (s.setGport p v).eng m j = s.eng m j := rfl

end setGport

section modGport

variable (s : State) (p : Nat) (f : GPortSt → GPortSt)

@[simp] theorem State.modGport_clk : (s.modGport p f).clk = s.clk := rfl
@[simp] theorem State.modGport_regs : (s.modGport p f).regs = s.regs := rfl
@[simp] theorem State.modGport_perf : (s.modGport p f).perf = s.perf := rfl
@[simp] theorem State.modGport_mem : (s.modGport p f).mem = s.mem := rfl
@[simp] theorem State.modGport_chk : (s.modGport p f).chk = s.chk := rfl
@[simp] theorem State.modGport_poison : (s.modGport p f).poison = s.poison := rfl
@[simp] theorem State.modGport_chambers : (s.modGport p f).chambers = s.chambers := rfl
@[simp] theorem State.modGport_saves : (s.modGport p f).saves = s.saves := rfl
@[simp] theorem State.modGport_tun : (s.modGport p f).tun = s.tun := rfl
@[simp] theorem State.modGport_tunOff : (s.modGport p f).tunOff = s.tunOff := rfl
@[simp] theorem State.modGport_tunNoise : (s.modGport p f).tunNoise = s.tunNoise := rfl
@[simp] theorem State.modGport_scrubs : (s.modGport p f).scrubs = s.scrubs := rfl
@[simp] theorem State.modGport_tunCount : (s.modGport p f).tunCount = s.tunCount := rfl
@[simp] theorem State.modGport_flush : (s.modGport p f).flush = s.flush := rfl
@[simp] theorem State.modGport_ytlb : (s.modGport p f).ytlb = s.ytlb := rfl
@[simp] theorem State.modGport_arbs : (s.modGport p f).arbs = s.arbs := rfl
@[simp] theorem State.modGport_arm : (s.modGport p f).arm = s.arm := rfl
@[simp] theorem State.modGport_mcast : (s.modGport p f).mcast = s.mcast := rfl
@[simp] theorem State.modGport_inval : (s.modGport p f).inval = s.inval := rfl
@[simp] theorem State.modGport_move : (s.modGport p f).move = s.move := rfl
@[simp] theorem State.modGport_moveWait : (s.modGport p f).moveWait = s.moveWait := rfl
@[simp] theorem State.modGport_regionCount : (s.modGport p f).regionCount = s.regionCount := rfl
@[simp] theorem State.modGport_g7Used : (s.modGport p f).g7Used = s.g7Used := rfl
@[simp] theorem State.modGport_logs : (s.modGport p f).logs = s.logs := rfl
@[simp] theorem State.modGport_disp : (s.modGport p f).disp = s.disp := rfl
@[simp] theorem State.modGport_sy : (s.modGport p f).sy = s.sy := rfl
@[simp] theorem State.modGport_cask : (s.modGport p f).cask = s.cask := rfl
@[simp] theorem State.modGport_pw : (s.modGport p f).pw = s.pw := rfl
@[simp] theorem State.modGport_svc : (s.modGport p f).svc = s.svc := rfl
@[simp] theorem State.modGport_fuses : (s.modGport p f).fuses = s.fuses := rfl
@[simp] theorem State.modGport_hostRead : (s.modGport p f).hostRead = s.hostRead := rfl
@[simp] theorem State.modGport_freeCtr : (s.modGport p f).freeCtr = s.freeCtr := rfl
@[simp] theorem State.modGport_pending : (s.modGport p f).pending = s.pending := rfl
@[simp] theorem State.modGport_reg_ (b₁ : Nat) : (s.modGport p f).reg b₁ = s.reg b₁ := rfl
@[simp] theorem State.modGport_get_ (b₁ : Nat) (g : Fld) : (s.modGport p f).get b₁ g = s.get b₁ g := rfl
@[simp] theorem State.modGport_ch_ (m : Nat) : (s.modGport p f).ch m = s.ch m := rfl
@[simp] theorem State.modGport_task_ (m u : Nat) : (s.modGport p f).task m u = s.task m u := rfl
@[simp] theorem State.modGport_byte_ (b₁ : Nat) : (s.modGport p f).byte b₁ = s.byte b₁ := rfl
@[simp] theorem State.modGport_sport_ (q : Nat) : (s.modGport p f).sport q = s.sport q := rfl
@[simp] theorem State.modGport_eng_ (m j : Nat) : (s.modGport p f).eng m j = s.eng m j := rfl

end modGport

section modSport

variable (s : State) (p : Nat) (f : SPortSt → SPortSt)

@[simp] theorem State.modSport_clk : (s.modSport p f).clk = s.clk := rfl
@[simp] theorem State.modSport_regs : (s.modSport p f).regs = s.regs := rfl
@[simp] theorem State.modSport_perf : (s.modSport p f).perf = s.perf := rfl
@[simp] theorem State.modSport_mem : (s.modSport p f).mem = s.mem := rfl
@[simp] theorem State.modSport_chk : (s.modSport p f).chk = s.chk := rfl
@[simp] theorem State.modSport_poison : (s.modSport p f).poison = s.poison := rfl
@[simp] theorem State.modSport_chambers : (s.modSport p f).chambers = s.chambers := rfl
@[simp] theorem State.modSport_saves : (s.modSport p f).saves = s.saves := rfl
@[simp] theorem State.modSport_tun : (s.modSport p f).tun = s.tun := rfl
@[simp] theorem State.modSport_tunOff : (s.modSport p f).tunOff = s.tunOff := rfl
@[simp] theorem State.modSport_tunNoise : (s.modSport p f).tunNoise = s.tunNoise := rfl
@[simp] theorem State.modSport_scrubs : (s.modSport p f).scrubs = s.scrubs := rfl
@[simp] theorem State.modSport_tunCount : (s.modSport p f).tunCount = s.tunCount := rfl
@[simp] theorem State.modSport_flush : (s.modSport p f).flush = s.flush := rfl
@[simp] theorem State.modSport_ytlb : (s.modSport p f).ytlb = s.ytlb := rfl
@[simp] theorem State.modSport_arbs : (s.modSport p f).arbs = s.arbs := rfl
@[simp] theorem State.modSport_arm : (s.modSport p f).arm = s.arm := rfl
@[simp] theorem State.modSport_mcast : (s.modSport p f).mcast = s.mcast := rfl
@[simp] theorem State.modSport_inval : (s.modSport p f).inval = s.inval := rfl
@[simp] theorem State.modSport_move : (s.modSport p f).move = s.move := rfl
@[simp] theorem State.modSport_moveWait : (s.modSport p f).moveWait = s.moveWait := rfl
@[simp] theorem State.modSport_regionCount : (s.modSport p f).regionCount = s.regionCount := rfl
@[simp] theorem State.modSport_g7Used : (s.modSport p f).g7Used = s.g7Used := rfl
@[simp] theorem State.modSport_gl : (s.modSport p f).gl = s.gl := rfl
@[simp] theorem State.modSport_logs : (s.modSport p f).logs = s.logs := rfl
@[simp] theorem State.modSport_disp : (s.modSport p f).disp = s.disp := rfl
@[simp] theorem State.modSport_cask : (s.modSport p f).cask = s.cask := rfl
@[simp] theorem State.modSport_pw : (s.modSport p f).pw = s.pw := rfl
@[simp] theorem State.modSport_svc : (s.modSport p f).svc = s.svc := rfl
@[simp] theorem State.modSport_fuses : (s.modSport p f).fuses = s.fuses := rfl
@[simp] theorem State.modSport_hostRead : (s.modSport p f).hostRead = s.hostRead := rfl
@[simp] theorem State.modSport_freeCtr : (s.modSport p f).freeCtr = s.freeCtr := rfl
@[simp] theorem State.modSport_pending : (s.modSport p f).pending = s.pending := rfl
@[simp] theorem State.modSport_reg_ (b₁ : Nat) : (s.modSport p f).reg b₁ = s.reg b₁ := rfl
@[simp] theorem State.modSport_get_ (b₁ : Nat) (g : Fld) : (s.modSport p f).get b₁ g = s.get b₁ g := rfl
@[simp] theorem State.modSport_ch_ (m : Nat) : (s.modSport p f).ch m = s.ch m := rfl
@[simp] theorem State.modSport_task_ (m u : Nat) : (s.modSport p f).task m u = s.task m u := rfl
@[simp] theorem State.modSport_byte_ (b₁ : Nat) : (s.modSport p f).byte b₁ = s.byte b₁ := rfl
@[simp] theorem State.modSport_gport_ (q : Nat) : (s.modSport p f).gport q = s.gport q := rfl
@[simp] theorem State.modSport_eng_ (m j : Nat) : (s.modSport p f).eng m j = s.eng m j := rfl

end modSport

section setGpState

variable (s : State) (p x : Nat)

@[simp] theorem State.setGpState_clk : (s.setGpState p x).clk = s.clk := rfl
@[simp] theorem State.setGpState_perf : (s.setGpState p x).perf = s.perf := rfl
@[simp] theorem State.setGpState_mem : (s.setGpState p x).mem = s.mem := rfl
@[simp] theorem State.setGpState_chk : (s.setGpState p x).chk = s.chk := rfl
@[simp] theorem State.setGpState_poison : (s.setGpState p x).poison = s.poison := rfl
@[simp] theorem State.setGpState_chambers : (s.setGpState p x).chambers = s.chambers := rfl
@[simp] theorem State.setGpState_saves : (s.setGpState p x).saves = s.saves := rfl
@[simp] theorem State.setGpState_tun : (s.setGpState p x).tun = s.tun := rfl
@[simp] theorem State.setGpState_tunOff : (s.setGpState p x).tunOff = s.tunOff := rfl
@[simp] theorem State.setGpState_tunNoise : (s.setGpState p x).tunNoise = s.tunNoise := rfl
@[simp] theorem State.setGpState_scrubs : (s.setGpState p x).scrubs = s.scrubs := rfl
@[simp] theorem State.setGpState_tunCount : (s.setGpState p x).tunCount = s.tunCount := rfl
@[simp] theorem State.setGpState_flush : (s.setGpState p x).flush = s.flush := rfl
@[simp] theorem State.setGpState_ytlb : (s.setGpState p x).ytlb = s.ytlb := rfl
@[simp] theorem State.setGpState_arbs : (s.setGpState p x).arbs = s.arbs := rfl
@[simp] theorem State.setGpState_arm : (s.setGpState p x).arm = s.arm := rfl
@[simp] theorem State.setGpState_mcast : (s.setGpState p x).mcast = s.mcast := rfl
@[simp] theorem State.setGpState_inval : (s.setGpState p x).inval = s.inval := rfl
@[simp] theorem State.setGpState_move : (s.setGpState p x).move = s.move := rfl
@[simp] theorem State.setGpState_moveWait : (s.setGpState p x).moveWait = s.moveWait := rfl
@[simp] theorem State.setGpState_regionCount : (s.setGpState p x).regionCount = s.regionCount := rfl
@[simp] theorem State.setGpState_g7Used : (s.setGpState p x).g7Used = s.g7Used := rfl
@[simp] theorem State.setGpState_gl : (s.setGpState p x).gl = s.gl := rfl
@[simp] theorem State.setGpState_logs : (s.setGpState p x).logs = s.logs := rfl
@[simp] theorem State.setGpState_disp : (s.setGpState p x).disp = s.disp := rfl
@[simp] theorem State.setGpState_sy : (s.setGpState p x).sy = s.sy := rfl
@[simp] theorem State.setGpState_cask : (s.setGpState p x).cask = s.cask := rfl
@[simp] theorem State.setGpState_pw : (s.setGpState p x).pw = s.pw := rfl
@[simp] theorem State.setGpState_svc : (s.setGpState p x).svc = s.svc := rfl
@[simp] theorem State.setGpState_fuses : (s.setGpState p x).fuses = s.fuses := rfl
@[simp] theorem State.setGpState_hostRead : (s.setGpState p x).hostRead = s.hostRead := rfl
@[simp] theorem State.setGpState_freeCtr : (s.setGpState p x).freeCtr = s.freeCtr := rfl
@[simp] theorem State.setGpState_pending : (s.setGpState p x).pending = s.pending := rfl
@[simp] theorem State.setGpState_ch_ (m : Nat) : (s.setGpState p x).ch m = s.ch m := rfl
@[simp] theorem State.setGpState_task_ (m u : Nat) : (s.setGpState p x).task m u = s.task m u := rfl
@[simp] theorem State.setGpState_byte_ (b₁ : Nat) : (s.setGpState p x).byte b₁ = s.byte b₁ := rfl
@[simp] theorem State.setGpState_gport_ (q : Nat) : (s.setGpState p x).gport q = s.gport q := rfl
@[simp] theorem State.setGpState_sport_ (q : Nat) : (s.setGpState p x).sport q = s.sport q := rfl
@[simp] theorem State.setGpState_eng_ (m j : Nat) : (s.setGpState p x).eng m j = s.eng m j := rfl

end setGpState

section setByte

variable (s : State) (a : Nat) (b : Byte)

@[simp] theorem State.setByte_clk : (s.setByte a b).clk = s.clk := rfl
@[simp] theorem State.setByte_regs : (s.setByte a b).regs = s.regs := rfl
@[simp] theorem State.setByte_perf : (s.setByte a b).perf = s.perf := rfl
@[simp] theorem State.setByte_chk : (s.setByte a b).chk = s.chk := rfl
@[simp] theorem State.setByte_poison : (s.setByte a b).poison = s.poison := rfl
@[simp] theorem State.setByte_chambers : (s.setByte a b).chambers = s.chambers := rfl
@[simp] theorem State.setByte_saves : (s.setByte a b).saves = s.saves := rfl
@[simp] theorem State.setByte_tun : (s.setByte a b).tun = s.tun := rfl
@[simp] theorem State.setByte_tunOff : (s.setByte a b).tunOff = s.tunOff := rfl
@[simp] theorem State.setByte_tunNoise : (s.setByte a b).tunNoise = s.tunNoise := rfl
@[simp] theorem State.setByte_scrubs : (s.setByte a b).scrubs = s.scrubs := rfl
@[simp] theorem State.setByte_tunCount : (s.setByte a b).tunCount = s.tunCount := rfl
@[simp] theorem State.setByte_flush : (s.setByte a b).flush = s.flush := rfl
@[simp] theorem State.setByte_ytlb : (s.setByte a b).ytlb = s.ytlb := rfl
@[simp] theorem State.setByte_arbs : (s.setByte a b).arbs = s.arbs := rfl
@[simp] theorem State.setByte_arm : (s.setByte a b).arm = s.arm := rfl
@[simp] theorem State.setByte_mcast : (s.setByte a b).mcast = s.mcast := rfl
@[simp] theorem State.setByte_inval : (s.setByte a b).inval = s.inval := rfl
@[simp] theorem State.setByte_move : (s.setByte a b).move = s.move := rfl
@[simp] theorem State.setByte_moveWait : (s.setByte a b).moveWait = s.moveWait := rfl
@[simp] theorem State.setByte_regionCount : (s.setByte a b).regionCount = s.regionCount := rfl
@[simp] theorem State.setByte_g7Used : (s.setByte a b).g7Used = s.g7Used := rfl
@[simp] theorem State.setByte_gl : (s.setByte a b).gl = s.gl := rfl
@[simp] theorem State.setByte_logs : (s.setByte a b).logs = s.logs := rfl
@[simp] theorem State.setByte_disp : (s.setByte a b).disp = s.disp := rfl
@[simp] theorem State.setByte_sy : (s.setByte a b).sy = s.sy := rfl
@[simp] theorem State.setByte_cask : (s.setByte a b).cask = s.cask := rfl
@[simp] theorem State.setByte_pw : (s.setByte a b).pw = s.pw := rfl
@[simp] theorem State.setByte_svc : (s.setByte a b).svc = s.svc := rfl
@[simp] theorem State.setByte_fuses : (s.setByte a b).fuses = s.fuses := rfl
@[simp] theorem State.setByte_hostRead : (s.setByte a b).hostRead = s.hostRead := rfl
@[simp] theorem State.setByte_freeCtr : (s.setByte a b).freeCtr = s.freeCtr := rfl
@[simp] theorem State.setByte_pending : (s.setByte a b).pending = s.pending := rfl
@[simp] theorem State.setByte_reg_ (b₁ : Nat) : (s.setByte a b).reg b₁ = s.reg b₁ := rfl
@[simp] theorem State.setByte_get_ (b₁ : Nat) (g : Fld) : (s.setByte a b).get b₁ g = s.get b₁ g := rfl
@[simp] theorem State.setByte_ch_ (m : Nat) : (s.setByte a b).ch m = s.ch m := rfl
@[simp] theorem State.setByte_task_ (m u : Nat) : (s.setByte a b).task m u = s.task m u := rfl
@[simp] theorem State.setByte_gport_ (q : Nat) : (s.setByte a b).gport q = s.gport q := rfl
@[simp] theorem State.setByte_sport_ (q : Nat) : (s.setByte a b).sport q = s.sport q := rfl
@[simp] theorem State.setByte_eng_ (m j : Nat) : (s.setByte a b).eng m j = s.eng m j := rfl

end setByte

section setChk

variable (s : State) (c : Nat) (l : List Byte)

@[simp] theorem State.setChk_clk : (s.setChk c l).clk = s.clk := rfl
@[simp] theorem State.setChk_regs : (s.setChk c l).regs = s.regs := rfl
@[simp] theorem State.setChk_perf : (s.setChk c l).perf = s.perf := rfl
@[simp] theorem State.setChk_mem : (s.setChk c l).mem = s.mem := rfl
@[simp] theorem State.setChk_poison : (s.setChk c l).poison = s.poison := rfl
@[simp] theorem State.setChk_chambers : (s.setChk c l).chambers = s.chambers := rfl
@[simp] theorem State.setChk_saves : (s.setChk c l).saves = s.saves := rfl
@[simp] theorem State.setChk_tun : (s.setChk c l).tun = s.tun := rfl
@[simp] theorem State.setChk_tunOff : (s.setChk c l).tunOff = s.tunOff := rfl
@[simp] theorem State.setChk_tunNoise : (s.setChk c l).tunNoise = s.tunNoise := rfl
@[simp] theorem State.setChk_scrubs : (s.setChk c l).scrubs = s.scrubs := rfl
@[simp] theorem State.setChk_tunCount : (s.setChk c l).tunCount = s.tunCount := rfl
@[simp] theorem State.setChk_flush : (s.setChk c l).flush = s.flush := rfl
@[simp] theorem State.setChk_ytlb : (s.setChk c l).ytlb = s.ytlb := rfl
@[simp] theorem State.setChk_arbs : (s.setChk c l).arbs = s.arbs := rfl
@[simp] theorem State.setChk_arm : (s.setChk c l).arm = s.arm := rfl
@[simp] theorem State.setChk_mcast : (s.setChk c l).mcast = s.mcast := rfl
@[simp] theorem State.setChk_inval : (s.setChk c l).inval = s.inval := rfl
@[simp] theorem State.setChk_move : (s.setChk c l).move = s.move := rfl
@[simp] theorem State.setChk_moveWait : (s.setChk c l).moveWait = s.moveWait := rfl
@[simp] theorem State.setChk_regionCount : (s.setChk c l).regionCount = s.regionCount := rfl
@[simp] theorem State.setChk_g7Used : (s.setChk c l).g7Used = s.g7Used := rfl
@[simp] theorem State.setChk_gl : (s.setChk c l).gl = s.gl := rfl
@[simp] theorem State.setChk_logs : (s.setChk c l).logs = s.logs := rfl
@[simp] theorem State.setChk_disp : (s.setChk c l).disp = s.disp := rfl
@[simp] theorem State.setChk_sy : (s.setChk c l).sy = s.sy := rfl
@[simp] theorem State.setChk_cask : (s.setChk c l).cask = s.cask := rfl
@[simp] theorem State.setChk_pw : (s.setChk c l).pw = s.pw := rfl
@[simp] theorem State.setChk_svc : (s.setChk c l).svc = s.svc := rfl
@[simp] theorem State.setChk_fuses : (s.setChk c l).fuses = s.fuses := rfl
@[simp] theorem State.setChk_hostRead : (s.setChk c l).hostRead = s.hostRead := rfl
@[simp] theorem State.setChk_freeCtr : (s.setChk c l).freeCtr = s.freeCtr := rfl
@[simp] theorem State.setChk_pending : (s.setChk c l).pending = s.pending := rfl
@[simp] theorem State.setChk_reg_ (b₁ : Nat) : (s.setChk c l).reg b₁ = s.reg b₁ := rfl
@[simp] theorem State.setChk_get_ (b₁ : Nat) (g : Fld) : (s.setChk c l).get b₁ g = s.get b₁ g := rfl
@[simp] theorem State.setChk_ch_ (m : Nat) : (s.setChk c l).ch m = s.ch m := rfl
@[simp] theorem State.setChk_task_ (m u : Nat) : (s.setChk c l).task m u = s.task m u := rfl
@[simp] theorem State.setChk_byte_ (b₁ : Nat) : (s.setChk c l).byte b₁ = s.byte b₁ := rfl
@[simp] theorem State.setChk_gport_ (q : Nat) : (s.setChk c l).gport q = s.gport q := rfl
@[simp] theorem State.setChk_sport_ (q : Nat) : (s.setChk c l).sport q = s.sport q := rfl
@[simp] theorem State.setChk_eng_ (m j : Nat) : (s.setChk c l).eng m j = s.eng m j := rfl

end setChk

section setPoison

variable (s : State) (c : Nat) (b : Byte)

@[simp] theorem State.setPoison_clk : (s.setPoison c b).clk = s.clk := rfl
@[simp] theorem State.setPoison_regs : (s.setPoison c b).regs = s.regs := rfl
@[simp] theorem State.setPoison_perf : (s.setPoison c b).perf = s.perf := rfl
@[simp] theorem State.setPoison_mem : (s.setPoison c b).mem = s.mem := rfl
@[simp] theorem State.setPoison_chk : (s.setPoison c b).chk = s.chk := rfl
@[simp] theorem State.setPoison_chambers : (s.setPoison c b).chambers = s.chambers := rfl
@[simp] theorem State.setPoison_saves : (s.setPoison c b).saves = s.saves := rfl
@[simp] theorem State.setPoison_tun : (s.setPoison c b).tun = s.tun := rfl
@[simp] theorem State.setPoison_tunOff : (s.setPoison c b).tunOff = s.tunOff := rfl
@[simp] theorem State.setPoison_tunNoise : (s.setPoison c b).tunNoise = s.tunNoise := rfl
@[simp] theorem State.setPoison_scrubs : (s.setPoison c b).scrubs = s.scrubs := rfl
@[simp] theorem State.setPoison_tunCount : (s.setPoison c b).tunCount = s.tunCount := rfl
@[simp] theorem State.setPoison_flush : (s.setPoison c b).flush = s.flush := rfl
@[simp] theorem State.setPoison_ytlb : (s.setPoison c b).ytlb = s.ytlb := rfl
@[simp] theorem State.setPoison_arbs : (s.setPoison c b).arbs = s.arbs := rfl
@[simp] theorem State.setPoison_arm : (s.setPoison c b).arm = s.arm := rfl
@[simp] theorem State.setPoison_mcast : (s.setPoison c b).mcast = s.mcast := rfl
@[simp] theorem State.setPoison_inval : (s.setPoison c b).inval = s.inval := rfl
@[simp] theorem State.setPoison_move : (s.setPoison c b).move = s.move := rfl
@[simp] theorem State.setPoison_moveWait : (s.setPoison c b).moveWait = s.moveWait := rfl
@[simp] theorem State.setPoison_regionCount : (s.setPoison c b).regionCount = s.regionCount := rfl
@[simp] theorem State.setPoison_g7Used : (s.setPoison c b).g7Used = s.g7Used := rfl
@[simp] theorem State.setPoison_gl : (s.setPoison c b).gl = s.gl := rfl
@[simp] theorem State.setPoison_logs : (s.setPoison c b).logs = s.logs := rfl
@[simp] theorem State.setPoison_disp : (s.setPoison c b).disp = s.disp := rfl
@[simp] theorem State.setPoison_sy : (s.setPoison c b).sy = s.sy := rfl
@[simp] theorem State.setPoison_cask : (s.setPoison c b).cask = s.cask := rfl
@[simp] theorem State.setPoison_pw : (s.setPoison c b).pw = s.pw := rfl
@[simp] theorem State.setPoison_svc : (s.setPoison c b).svc = s.svc := rfl
@[simp] theorem State.setPoison_fuses : (s.setPoison c b).fuses = s.fuses := rfl
@[simp] theorem State.setPoison_hostRead : (s.setPoison c b).hostRead = s.hostRead := rfl
@[simp] theorem State.setPoison_freeCtr : (s.setPoison c b).freeCtr = s.freeCtr := rfl
@[simp] theorem State.setPoison_pending : (s.setPoison c b).pending = s.pending := rfl
@[simp] theorem State.setPoison_reg_ (b₁ : Nat) : (s.setPoison c b).reg b₁ = s.reg b₁ := rfl
@[simp] theorem State.setPoison_get_ (b₁ : Nat) (g : Fld) : (s.setPoison c b).get b₁ g = s.get b₁ g := rfl
@[simp] theorem State.setPoison_ch_ (m : Nat) : (s.setPoison c b).ch m = s.ch m := rfl
@[simp] theorem State.setPoison_task_ (m u : Nat) : (s.setPoison c b).task m u = s.task m u := rfl
@[simp] theorem State.setPoison_byte_ (b₁ : Nat) : (s.setPoison c b).byte b₁ = s.byte b₁ := rfl
@[simp] theorem State.setPoison_gport_ (q : Nat) : (s.setPoison c b).gport q = s.gport q := rfl
@[simp] theorem State.setPoison_sport_ (q : Nat) : (s.setPoison c b).sport q = s.sport q := rfl
@[simp] theorem State.setPoison_eng_ (m j : Nat) : (s.setPoison c b).eng m j = s.eng m j := rfl

end setPoison

section setNoise

variable (s : State) (c i : Nat) (b : Byte)

@[simp] theorem State.setNoise_clk : (s.setNoise c i b).clk = s.clk := rfl
@[simp] theorem State.setNoise_regs : (s.setNoise c i b).regs = s.regs := rfl
@[simp] theorem State.setNoise_perf : (s.setNoise c i b).perf = s.perf := rfl
@[simp] theorem State.setNoise_mem : (s.setNoise c i b).mem = s.mem := rfl
@[simp] theorem State.setNoise_chk : (s.setNoise c i b).chk = s.chk := rfl
@[simp] theorem State.setNoise_poison : (s.setNoise c i b).poison = s.poison := rfl
@[simp] theorem State.setNoise_chambers : (s.setNoise c i b).chambers = s.chambers := rfl
@[simp] theorem State.setNoise_saves : (s.setNoise c i b).saves = s.saves := rfl
@[simp] theorem State.setNoise_tun : (s.setNoise c i b).tun = s.tun := rfl
@[simp] theorem State.setNoise_tunOff : (s.setNoise c i b).tunOff = s.tunOff := rfl
@[simp] theorem State.setNoise_scrubs : (s.setNoise c i b).scrubs = s.scrubs := rfl
@[simp] theorem State.setNoise_tunCount : (s.setNoise c i b).tunCount = s.tunCount := rfl
@[simp] theorem State.setNoise_flush : (s.setNoise c i b).flush = s.flush := rfl
@[simp] theorem State.setNoise_ytlb : (s.setNoise c i b).ytlb = s.ytlb := rfl
@[simp] theorem State.setNoise_arbs : (s.setNoise c i b).arbs = s.arbs := rfl
@[simp] theorem State.setNoise_arm : (s.setNoise c i b).arm = s.arm := rfl
@[simp] theorem State.setNoise_mcast : (s.setNoise c i b).mcast = s.mcast := rfl
@[simp] theorem State.setNoise_inval : (s.setNoise c i b).inval = s.inval := rfl
@[simp] theorem State.setNoise_move : (s.setNoise c i b).move = s.move := rfl
@[simp] theorem State.setNoise_moveWait : (s.setNoise c i b).moveWait = s.moveWait := rfl
@[simp] theorem State.setNoise_regionCount : (s.setNoise c i b).regionCount = s.regionCount := rfl
@[simp] theorem State.setNoise_g7Used : (s.setNoise c i b).g7Used = s.g7Used := rfl
@[simp] theorem State.setNoise_gl : (s.setNoise c i b).gl = s.gl := rfl
@[simp] theorem State.setNoise_logs : (s.setNoise c i b).logs = s.logs := rfl
@[simp] theorem State.setNoise_disp : (s.setNoise c i b).disp = s.disp := rfl
@[simp] theorem State.setNoise_sy : (s.setNoise c i b).sy = s.sy := rfl
@[simp] theorem State.setNoise_cask : (s.setNoise c i b).cask = s.cask := rfl
@[simp] theorem State.setNoise_pw : (s.setNoise c i b).pw = s.pw := rfl
@[simp] theorem State.setNoise_svc : (s.setNoise c i b).svc = s.svc := rfl
@[simp] theorem State.setNoise_fuses : (s.setNoise c i b).fuses = s.fuses := rfl
@[simp] theorem State.setNoise_hostRead : (s.setNoise c i b).hostRead = s.hostRead := rfl
@[simp] theorem State.setNoise_freeCtr : (s.setNoise c i b).freeCtr = s.freeCtr := rfl
@[simp] theorem State.setNoise_pending : (s.setNoise c i b).pending = s.pending := rfl
@[simp] theorem State.setNoise_reg_ (b₁ : Nat) : (s.setNoise c i b).reg b₁ = s.reg b₁ := rfl
@[simp] theorem State.setNoise_get_ (b₁ : Nat) (g : Fld) : (s.setNoise c i b).get b₁ g = s.get b₁ g := rfl
@[simp] theorem State.setNoise_ch_ (m : Nat) : (s.setNoise c i b).ch m = s.ch m := rfl
@[simp] theorem State.setNoise_task_ (m u : Nat) : (s.setNoise c i b).task m u = s.task m u := rfl
@[simp] theorem State.setNoise_gport_ (q : Nat) : (s.setNoise c i b).gport q = s.gport q := rfl
@[simp] theorem State.setNoise_sport_ (q : Nat) : (s.setNoise c i b).sport q = s.sport q := rfl
@[simp] theorem State.setNoise_eng_ (m j : Nat) : (s.setNoise c i b).eng m j = s.eng m j := rfl

end setNoise

section setArb

variable (s : State) (k : Nat) (v : Arb)

@[simp] theorem State.setArb_clk : (s.setArb k v).clk = s.clk := rfl
@[simp] theorem State.setArb_regs : (s.setArb k v).regs = s.regs := rfl
@[simp] theorem State.setArb_perf : (s.setArb k v).perf = s.perf := rfl
@[simp] theorem State.setArb_mem : (s.setArb k v).mem = s.mem := rfl
@[simp] theorem State.setArb_chk : (s.setArb k v).chk = s.chk := rfl
@[simp] theorem State.setArb_poison : (s.setArb k v).poison = s.poison := rfl
@[simp] theorem State.setArb_chambers : (s.setArb k v).chambers = s.chambers := rfl
@[simp] theorem State.setArb_saves : (s.setArb k v).saves = s.saves := rfl
@[simp] theorem State.setArb_tun : (s.setArb k v).tun = s.tun := rfl
@[simp] theorem State.setArb_tunOff : (s.setArb k v).tunOff = s.tunOff := rfl
@[simp] theorem State.setArb_tunNoise : (s.setArb k v).tunNoise = s.tunNoise := rfl
@[simp] theorem State.setArb_scrubs : (s.setArb k v).scrubs = s.scrubs := rfl
@[simp] theorem State.setArb_tunCount : (s.setArb k v).tunCount = s.tunCount := rfl
@[simp] theorem State.setArb_flush : (s.setArb k v).flush = s.flush := rfl
@[simp] theorem State.setArb_ytlb : (s.setArb k v).ytlb = s.ytlb := rfl
@[simp] theorem State.setArb_arm : (s.setArb k v).arm = s.arm := rfl
@[simp] theorem State.setArb_mcast : (s.setArb k v).mcast = s.mcast := rfl
@[simp] theorem State.setArb_inval : (s.setArb k v).inval = s.inval := rfl
@[simp] theorem State.setArb_move : (s.setArb k v).move = s.move := rfl
@[simp] theorem State.setArb_moveWait : (s.setArb k v).moveWait = s.moveWait := rfl
@[simp] theorem State.setArb_regionCount : (s.setArb k v).regionCount = s.regionCount := rfl
@[simp] theorem State.setArb_g7Used : (s.setArb k v).g7Used = s.g7Used := rfl
@[simp] theorem State.setArb_gl : (s.setArb k v).gl = s.gl := rfl
@[simp] theorem State.setArb_logs : (s.setArb k v).logs = s.logs := rfl
@[simp] theorem State.setArb_disp : (s.setArb k v).disp = s.disp := rfl
@[simp] theorem State.setArb_sy : (s.setArb k v).sy = s.sy := rfl
@[simp] theorem State.setArb_cask : (s.setArb k v).cask = s.cask := rfl
@[simp] theorem State.setArb_pw : (s.setArb k v).pw = s.pw := rfl
@[simp] theorem State.setArb_svc : (s.setArb k v).svc = s.svc := rfl
@[simp] theorem State.setArb_fuses : (s.setArb k v).fuses = s.fuses := rfl
@[simp] theorem State.setArb_hostRead : (s.setArb k v).hostRead = s.hostRead := rfl
@[simp] theorem State.setArb_freeCtr : (s.setArb k v).freeCtr = s.freeCtr := rfl
@[simp] theorem State.setArb_pending : (s.setArb k v).pending = s.pending := rfl
@[simp] theorem State.setArb_reg_ (b₁ : Nat) : (s.setArb k v).reg b₁ = s.reg b₁ := rfl
@[simp] theorem State.setArb_get_ (b₁ : Nat) (g : Fld) : (s.setArb k v).get b₁ g = s.get b₁ g := rfl
@[simp] theorem State.setArb_ch_ (m : Nat) : (s.setArb k v).ch m = s.ch m := rfl
@[simp] theorem State.setArb_task_ (m u : Nat) : (s.setArb k v).task m u = s.task m u := rfl
@[simp] theorem State.setArb_byte_ (b₁ : Nat) : (s.setArb k v).byte b₁ = s.byte b₁ := rfl
@[simp] theorem State.setArb_gport_ (q : Nat) : (s.setArb k v).gport q = s.gport q := rfl
@[simp] theorem State.setArb_sport_ (q : Nat) : (s.setArb k v).sport q = s.sport q := rfl
@[simp] theorem State.setArb_eng_ (m j : Nat) : (s.setArb k v).eng m j = s.eng m j := rfl

end setArb

section modNand

variable (s : State) (b : Nat) (f : NBlock → NBlock)

@[simp] theorem State.modNand_clk : (s.modNand b f).clk = s.clk := rfl
@[simp] theorem State.modNand_regs : (s.modNand b f).regs = s.regs := rfl
@[simp] theorem State.modNand_perf : (s.modNand b f).perf = s.perf := rfl
@[simp] theorem State.modNand_mem : (s.modNand b f).mem = s.mem := rfl
@[simp] theorem State.modNand_chk : (s.modNand b f).chk = s.chk := rfl
@[simp] theorem State.modNand_poison : (s.modNand b f).poison = s.poison := rfl
@[simp] theorem State.modNand_chambers : (s.modNand b f).chambers = s.chambers := rfl
@[simp] theorem State.modNand_saves : (s.modNand b f).saves = s.saves := rfl
@[simp] theorem State.modNand_tun : (s.modNand b f).tun = s.tun := rfl
@[simp] theorem State.modNand_tunOff : (s.modNand b f).tunOff = s.tunOff := rfl
@[simp] theorem State.modNand_tunNoise : (s.modNand b f).tunNoise = s.tunNoise := rfl
@[simp] theorem State.modNand_scrubs : (s.modNand b f).scrubs = s.scrubs := rfl
@[simp] theorem State.modNand_tunCount : (s.modNand b f).tunCount = s.tunCount := rfl
@[simp] theorem State.modNand_flush : (s.modNand b f).flush = s.flush := rfl
@[simp] theorem State.modNand_ytlb : (s.modNand b f).ytlb = s.ytlb := rfl
@[simp] theorem State.modNand_arbs : (s.modNand b f).arbs = s.arbs := rfl
@[simp] theorem State.modNand_arm : (s.modNand b f).arm = s.arm := rfl
@[simp] theorem State.modNand_mcast : (s.modNand b f).mcast = s.mcast := rfl
@[simp] theorem State.modNand_inval : (s.modNand b f).inval = s.inval := rfl
@[simp] theorem State.modNand_move : (s.modNand b f).move = s.move := rfl
@[simp] theorem State.modNand_moveWait : (s.modNand b f).moveWait = s.moveWait := rfl
@[simp] theorem State.modNand_regionCount : (s.modNand b f).regionCount = s.regionCount := rfl
@[simp] theorem State.modNand_g7Used : (s.modNand b f).g7Used = s.g7Used := rfl
@[simp] theorem State.modNand_gl : (s.modNand b f).gl = s.gl := rfl
@[simp] theorem State.modNand_logs : (s.modNand b f).logs = s.logs := rfl
@[simp] theorem State.modNand_disp : (s.modNand b f).disp = s.disp := rfl
@[simp] theorem State.modNand_sy : (s.modNand b f).sy = s.sy := rfl
@[simp] theorem State.modNand_pw : (s.modNand b f).pw = s.pw := rfl
@[simp] theorem State.modNand_svc : (s.modNand b f).svc = s.svc := rfl
@[simp] theorem State.modNand_fuses : (s.modNand b f).fuses = s.fuses := rfl
@[simp] theorem State.modNand_hostRead : (s.modNand b f).hostRead = s.hostRead := rfl
@[simp] theorem State.modNand_freeCtr : (s.modNand b f).freeCtr = s.freeCtr := rfl
@[simp] theorem State.modNand_pending : (s.modNand b f).pending = s.pending := rfl
@[simp] theorem State.modNand_reg_ (b₁ : Nat) : (s.modNand b f).reg b₁ = s.reg b₁ := rfl
@[simp] theorem State.modNand_get_ (b₁ : Nat) (g : Fld) : (s.modNand b f).get b₁ g = s.get b₁ g := rfl
@[simp] theorem State.modNand_ch_ (m : Nat) : (s.modNand b f).ch m = s.ch m := rfl
@[simp] theorem State.modNand_task_ (m u : Nat) : (s.modNand b f).task m u = s.task m u := rfl
@[simp] theorem State.modNand_byte_ (b₁ : Nat) : (s.modNand b f).byte b₁ = s.byte b₁ := rfl
@[simp] theorem State.modNand_gport_ (q : Nat) : (s.modNand b f).gport q = s.gport q := rfl
@[simp] theorem State.modNand_sport_ (q : Nat) : (s.modNand b f).sport q = s.sport q := rfl
@[simp] theorem State.modNand_eng_ (m j : Nat) : (s.modNand b f).eng m j = s.eng m j := rfl

end modNand

section dropNoise

variable (s : State) (p : Nat → Bool)

@[simp] theorem State.dropNoise_clk : (s.dropNoise p).clk = s.clk := rfl
@[simp] theorem State.dropNoise_regs : (s.dropNoise p).regs = s.regs := rfl
@[simp] theorem State.dropNoise_perf : (s.dropNoise p).perf = s.perf := rfl
@[simp] theorem State.dropNoise_mem : (s.dropNoise p).mem = s.mem := rfl
@[simp] theorem State.dropNoise_chk : (s.dropNoise p).chk = s.chk := rfl
@[simp] theorem State.dropNoise_poison : (s.dropNoise p).poison = s.poison := rfl
@[simp] theorem State.dropNoise_chambers : (s.dropNoise p).chambers = s.chambers := rfl
@[simp] theorem State.dropNoise_saves : (s.dropNoise p).saves = s.saves := rfl
@[simp] theorem State.dropNoise_tun : (s.dropNoise p).tun = s.tun := rfl
@[simp] theorem State.dropNoise_tunOff : (s.dropNoise p).tunOff = s.tunOff := rfl
@[simp] theorem State.dropNoise_scrubs : (s.dropNoise p).scrubs = s.scrubs := rfl
@[simp] theorem State.dropNoise_tunCount : (s.dropNoise p).tunCount = s.tunCount := rfl
@[simp] theorem State.dropNoise_flush : (s.dropNoise p).flush = s.flush := rfl
@[simp] theorem State.dropNoise_ytlb : (s.dropNoise p).ytlb = s.ytlb := rfl
@[simp] theorem State.dropNoise_arbs : (s.dropNoise p).arbs = s.arbs := rfl
@[simp] theorem State.dropNoise_arm : (s.dropNoise p).arm = s.arm := rfl
@[simp] theorem State.dropNoise_mcast : (s.dropNoise p).mcast = s.mcast := rfl
@[simp] theorem State.dropNoise_inval : (s.dropNoise p).inval = s.inval := rfl
@[simp] theorem State.dropNoise_move : (s.dropNoise p).move = s.move := rfl
@[simp] theorem State.dropNoise_moveWait : (s.dropNoise p).moveWait = s.moveWait := rfl
@[simp] theorem State.dropNoise_regionCount : (s.dropNoise p).regionCount = s.regionCount := rfl
@[simp] theorem State.dropNoise_g7Used : (s.dropNoise p).g7Used = s.g7Used := rfl
@[simp] theorem State.dropNoise_gl : (s.dropNoise p).gl = s.gl := rfl
@[simp] theorem State.dropNoise_logs : (s.dropNoise p).logs = s.logs := rfl
@[simp] theorem State.dropNoise_disp : (s.dropNoise p).disp = s.disp := rfl
@[simp] theorem State.dropNoise_sy : (s.dropNoise p).sy = s.sy := rfl
@[simp] theorem State.dropNoise_cask : (s.dropNoise p).cask = s.cask := rfl
@[simp] theorem State.dropNoise_pw : (s.dropNoise p).pw = s.pw := rfl
@[simp] theorem State.dropNoise_svc : (s.dropNoise p).svc = s.svc := rfl
@[simp] theorem State.dropNoise_fuses : (s.dropNoise p).fuses = s.fuses := rfl
@[simp] theorem State.dropNoise_hostRead : (s.dropNoise p).hostRead = s.hostRead := rfl
@[simp] theorem State.dropNoise_freeCtr : (s.dropNoise p).freeCtr = s.freeCtr := rfl
@[simp] theorem State.dropNoise_pending : (s.dropNoise p).pending = s.pending := rfl
@[simp] theorem State.dropNoise_reg_ (b₁ : Nat) : (s.dropNoise p).reg b₁ = s.reg b₁ := rfl
@[simp] theorem State.dropNoise_get_ (b₁ : Nat) (g : Fld) : (s.dropNoise p).get b₁ g = s.get b₁ g := rfl
@[simp] theorem State.dropNoise_ch_ (m : Nat) : (s.dropNoise p).ch m = s.ch m := rfl
@[simp] theorem State.dropNoise_task_ (m u : Nat) : (s.dropNoise p).task m u = s.task m u := rfl
@[simp] theorem State.dropNoise_gport_ (q : Nat) : (s.dropNoise p).gport q = s.gport q := rfl
@[simp] theorem State.dropNoise_sport_ (q : Nat) : (s.dropNoise p).sport q = s.sport q := rfl
@[simp] theorem State.dropNoise_eng_ (m j : Nat) : (s.dropNoise p).eng m j = s.eng m j := rfl

end dropNoise

/-! ### Registers -/

theorem State.reg_setReg (s : State) (a : Nat) (v : Word) (b : Nat) : (s.setReg a v).reg b = if b = a then v else s.reg b :=
  kget_kput _ _ _ _ _ _ fun h => by rw [h]

@[simp] theorem State.reg_setReg_same (s : State) (a : Nat) (v : Word) : (s.setReg a v).reg a = v := by
  rw [State.reg_setReg, if_pos rfl]

theorem State.reg_setReg_ne (s : State) {a b : Nat} (v : Word) (h : b ≠ a) : (s.setReg a v).reg b = s.reg b := by
  rw [State.reg_setReg, if_neg h]

theorem State.reg_set_same (s : State) (a : Nat) (f : Fld) (x : Nat) : (s.set a f x).reg a = fset (s.reg a) f x :=
  State.reg_setReg_same _ _ _

theorem State.reg_set_ne (s : State) {a b : Nat} (f : Fld) (x : Nat) (h : b ≠ a) : (s.set a f x).reg b = s.reg b :=
  State.reg_setReg_ne _ _ h

/-- A field reads as the low bits of what was written to it. -/
theorem State.get_set_same (s : State) (a : Nat) (f : Fld) (x : Nat) (h : f.lo + f.w ≤ 64) :
    (s.set a f x).get a f = x % 2 ^ f.w := by
  rw [State.get, State.reg_set_same, fget_fset_same _ _ _ h]

/-- A field of another register reads as before. -/
theorem State.get_set_ne (s : State) {a b : Nat} (f g : Fld) (x : Nat) (h : b ≠ a) : (s.set a f x).get b g = s.get b g := by
  rw [State.get, State.get, State.reg_set_ne _ _ _ h]

/-- A field apart from the one written reads as before, in the same register too. -/
theorem State.get_set_other (s : State) (a b : Nat) (f g : Fld) (x : Nat) (h : g.lo + g.w ≤ 64)
    (d : f.lo + f.w ≤ g.lo ∨ g.lo + g.w ≤ f.lo) : (s.set a f x).get b g = s.get b g := by
  by_cases q : b = a
  · subst q
    rw [State.get, State.get, State.reg_set_same, fget_fset_other _ _ _ _ h d]
  · exact State.get_set_ne _ _ _ _ q

/-- A counter register after `k` more. -/
theorem State.get_bump_same (s : State) (a k : Nat) :
    (s.bump a k).get a count32 = min (s.get a count32 + k) 0xFFFFFFFF := by
  have h : count32.lo + count32.w ≤ 64 := by decide
  rw [State.bump, State.get_set_same _ _ _ _ h]
  apply Nat.mod_eq_of_lt
  simp only [count32]
  omega

theorem State.reg_bump_ne (s : State) {a b : Nat} (k : Nat) (h : b ≠ a) : (s.bump a k).reg b = s.reg b :=
  State.reg_set_ne _ _ _ h

theorem State.get_bump_ne (s : State) {a b : Nat} (k : Nat) (g : Fld) (h : b ≠ a) : (s.bump a k).get b g = s.get b g :=
  State.get_set_ne _ _ _ _ h

theorem State.get_lt (s : State) (a : Nat) (f : Fld) : s.get a f < 2 ^ f.w := fget_lt _ _

/-! ### Chambers -/

theorem State.ch_setCh (s : State) (n : Nat) (c : Chamber) (m : Nat) : (s.setCh n c).ch m = if m = n then c else s.ch m :=
  kget_kput _ _ _ _ _ _ fun _ => rfl

@[simp] theorem State.ch_setCh_same (s : State) (n : Nat) (c : Chamber) : (s.setCh n c).ch n = c := by
  rw [State.ch_setCh, if_pos rfl]

@[simp] theorem State.ch_modCh_same (s : State) (n : Nat) (f : Chamber → Chamber) : (s.modCh n f).ch n = f (s.ch n) :=
  State.ch_setCh_same _ _ _

theorem State.ch_modCh_ne (s : State) {n m : Nat} (f : Chamber → Chamber) (h : m ≠ n) : (s.modCh n f).ch m = s.ch m := by
  rw [State.modCh, State.ch_setCh, if_neg h]

@[simp] theorem State.task_setTask_same (s : State) (n t : Nat) (k : Task) : (s.setTask n t k).task n t = k := by
  rw [State.task, State.setTask, State.ch_modCh_same]
  exact kget_kput_same _ _ _ _

theorem State.task_setTask_ne (s : State) {n m t u : Nat} (k : Task) (h : m ≠ n ∨ u ≠ t) :
    (s.setTask n t k).task m u = s.task m u := by
  by_cases q : m = n
  · subst q
    rw [State.task, State.setTask, State.ch_modCh_same]
    exact kget_kput_ne _ _ _ _ (h.resolve_left fun x => x rfl)
  · rw [State.task, State.setTask, State.ch_modCh_ne _ _ q, State.task]

theorem State.ch_setTask_ne (s : State) {n m : Nat} (t : Nat) (k : Task) (h : m ≠ n) : (s.setTask n t k).ch m = s.ch m :=
  State.ch_modCh_ne _ _ h

@[simp] theorem State.task_modTask_same (s : State) (n t : Nat) (f : Task → Task) : (s.modTask n t f).task n t = f (s.task n t) :=
  State.task_setTask_same _ _ _ _

@[simp] theorem State.eng_setEng_same (s : State) (n e : Nat) (v : Engine) : (s.setEng n e v).eng n e = v := by
  rw [State.eng, State.setEng, State.ch_modCh_same]
  exact kget_kput_same _ _ _ _

@[simp] theorem State.slot_setSlot_same (s : State) (n i : Nat) (v : Slot) : (s.setSlot n i v).slot n i = v := by
  rw [State.slot, State.setSlot, State.ch_modCh_same]
  exact kget_kput_same _ _ _ _

@[simp] theorem State.region_setRegion_same (s : State) (n r : Nat) (v : Region) : (s.setRegion n r v).region n r = v := by
  rw [State.region, State.setRegion, State.ch_modCh_same]
  exact kget_kput_same _ _ _ _

/-! ### Ports -/

theorem State.gport_setGport (s : State) (p : Nat) (v : GPortSt) (q : Nat) :
    (s.setGport p v).gport q = if q = p then v else s.gport q := kget_kput _ _ _ _ _ _ fun _ => rfl

@[simp] theorem State.gport_setGport_same (s : State) (p : Nat) (v : GPortSt) : (s.setGport p v).gport p = v := by
  rw [State.gport_setGport, if_pos rfl]

@[simp] theorem State.gport_modGport_same (s : State) (p : Nat) (f : GPortSt → GPortSt) :
    (s.modGport p f).gport p = f (s.gport p) := State.gport_setGport_same _ _ _

theorem State.gport_modGport_ne (s : State) {p q : Nat} (f : GPortSt → GPortSt) (h : q ≠ p) :
    (s.modGport p f).gport q = s.gport q := by rw [State.modGport, State.gport_setGport, if_neg h]

theorem State.sport_modSport (s : State) (p : Nat) (f : SPortSt → SPortSt) (q : Nat) :
    (s.modSport p f).sport q = if q = p then f (s.sport p) else s.sport q := kget_kput _ _ _ _ _ _ fun _ => rfl

@[simp] theorem State.sport_modSport_same (s : State) (p : Nat) (f : SPortSt → SPortSt) :
    (s.modSport p f).sport p = f (s.sport p) := by rw [State.sport_modSport, if_pos rfl]

@[simp] theorem State.free_fst (s : State) : s.free.1 = Config.free s.freeCtr := rfl

theorem State.free_snd (s : State) : s.free.2 = { s with freeCtr := s.freeCtr + 1 } := rfl

/-! ### The step -/

/-- A step with a command waiting is that command's effect on the state with the rest of the queue. -/
theorem step_cons {s : State} {c : Instr} {q : List Instr} (h : s.pending = c :: q) :
    step s = exec c { s with pending := q } := by
  unfold step
  rw [h]

theorem step_nil {s : State} (h : s.pending = []) : step s = .next s.tick := by
  unfold step
  rw [h]

end Sys2Proof.Machine
end

