-- ==== Sys2Proof/Laws/Ops.lean ====
section
/-! SUPPORT. Laws of the shared operations over registers, counters, events, tasks and fences: for each, once, everything it
can change. -/

namespace Sys2Proof.Machine

/-- Only registers change. -/
def RegsOnly (s u : State) : Prop := ∃ r, u = { s with regs := r }

/-- Only registers, the logs and which of the cask's logs have grown change. -/
def LogsOnly (s u : State) : Prop := ∃ r l d, u = { s with regs := r, logs := l, cask := { s.cask with due := d } }

/-- Only registers, chambers' contents, counters and the logs change. -/
def TaskOnly (s u : State) : Prop :=
  ∃ r p l c d, u = { s with regs := r, perf := p, logs := l, chambers := c, cask := { s.cask with due := d } }

/-- Only registers, the logs and the service's own state change. -/
def SvcOnly (s u : State) : Prop := ∃ r l v d, u = { s with regs := r, logs := l, svc := v, cask := { s.cask with due := d } }

theorem RegsOnly.refl (s : State) : RegsOnly s s := ⟨_, rfl⟩

theorem RegsOnly.trans {s u v : State} : RegsOnly s u → RegsOnly u v → RegsOnly s v := by
  rintro ⟨_, rfl⟩ ⟨r, rfl⟩; exact ⟨r, rfl⟩

theorem RegsOnly.logs {s u : State} : RegsOnly s u → LogsOnly s u := by
  rintro ⟨r, rfl⟩; exact ⟨r, s.logs, s.cask.due, rfl⟩

theorem RegsOnly.task {s u : State} : RegsOnly s u → TaskOnly s u := by
  rintro ⟨r, rfl⟩; exact ⟨r, s.perf, s.logs, s.chambers, s.cask.due, rfl⟩

theorem LogsOnly.refl (s : State) : LogsOnly s s := ⟨s.regs, s.logs, s.cask.due, rfl⟩

theorem LogsOnly.trans {s u v : State} : LogsOnly s u → LogsOnly u v → LogsOnly s v := by
  rintro ⟨_, _, _, rfl⟩ ⟨r, l, d, rfl⟩; exact ⟨r, l, d, rfl⟩

theorem LogsOnly.task {s u : State} : LogsOnly s u → TaskOnly s u := by
  rintro ⟨r, l, d, rfl⟩; exact ⟨r, s.perf, l, s.chambers, d, rfl⟩

theorem LogsOnly.svc {s u : State} : LogsOnly s u → SvcOnly s u := by
  rintro ⟨r, l, d, rfl⟩; exact ⟨r, l, s.svc, d, rfl⟩

theorem SvcOnly.refl (s : State) : SvcOnly s s := ⟨s.regs, s.logs, s.svc, s.cask.due, rfl⟩

theorem SvcOnly.trans {s u v : State} : SvcOnly s u → SvcOnly u v → SvcOnly s v := by
  rintro ⟨_, _, _, _, rfl⟩ ⟨r, l, v, d, rfl⟩; exact ⟨r, l, v, d, rfl⟩

theorem TaskOnly.refl (s : State) : TaskOnly s s := ⟨s.regs, s.perf, s.logs, s.chambers, s.cask.due, rfl⟩

theorem TaskOnly.trans {s u v : State} : TaskOnly s u → TaskOnly u v → TaskOnly s v := by
  rintro ⟨_, _, _, _, _, rfl⟩ ⟨r, p, l, c, d, rfl⟩; exact ⟨r, p, l, c, d, rfl⟩

/-- A fold of steps related by a reflexive and transitive relation is related by it. -/
theorem foldl_rel {α β : Type} {R : β → β → Prop} (refl : ∀ x, R x x) (trans : ∀ {x y z}, R x y → R y z → R x z)
    {f : β → α → β} (h : ∀ x a, R x (f x a)) (l : List α) (x : β) : R x (l.foldl f x) := by
  induction l generalizing x with
  | nil => exact refl x
  | cons a l ih => exact trans (h x a) (ih _)

/-! ### Registers -/

theorem setReg_only (s : State) (a : Nat) (v : Word) : RegsOnly s (s.setReg a v) := ⟨_, rfl⟩

theorem set_only (s : State) (a : Nat) (f : Fld) (x : Nat) : RegsOnly s (s.set a f x) := setReg_only s a _

theorem bump_only (s : State) (a k : Nat) : RegsOnly s (s.bump a k) := set_only s a _ _

theorem setTstate_only (s : State) (n t x : Nat) : RegsOnly s (s.setTstate n t x) :=
  (set_only s (CH_TASK n t) _ _).trans (set_only _ (CH_STATUS n) _ _)

theorem showWindow_only (s : State) (n t : Nat) : RegsOnly s (s.showWindow n t) := set_only s (CH_TASK n t) _ _

theorem recFault_only (s : State) (a : Nat) (code lost : Fld) (c : Nat) (more : List (Fld × Nat)) :
    RegsOnly s (s.recFault a code lost c more) := by
  unfold State.recFault
  refine (RegsOnly.trans ?_ (set_only _ a code c)).trans
    (foldl_rel RegsOnly.refl RegsOnly.trans (fun (u : State) (x : Fld × Nat) => set_only u a x.1 x.2) more _)
  split
  · exact set_only s a lost 1
  · exact .refl s

theorem showFifo_only (s : State) : RegsOnly s s.showFifo :=
  ((set_only s SY_FIFO_LEVEL _ _).trans (set_only _ SY_FIFO_LEVEL _ _)).trans (set_only _ SY_FIFO_LEVEL _ _)

theorem showChange_only (s : State) : RegsOnly s s.showChange :=
  ((set_only s LN_CHANGE _ _).trans (set_only _ LN_CHANGE _ _)).trans (set_only _ LN_CHANGE _ _)

theorem showAout_only (s : State) : RegsOnly s s.showAout :=
  ((showChange_only s).trans (set_only _ LN_AOUT _ _)).trans (set_only _ LN_AOUT _ _)

/-! ### Counters -/

/-- Only the performance counters change. -/
def PerfOnly (s u : State) : Prop := ∃ p, u = { s with perf := p }

theorem PerfOnly.refl (s : State) : PerfOnly s s := ⟨_, rfl⟩

theorem PerfOnly.trans {s u v : State} : PerfOnly s u → PerfOnly u v → PerfOnly s v := by
  rintro ⟨_, rfl⟩ ⟨p, rfl⟩; exact ⟨p, rfl⟩

theorem PerfOnly.task {s u : State} : PerfOnly s u → TaskOnly s u := by
  rintro ⟨p, rfl⟩; exact ⟨s.regs, p, s.logs, s.chambers, s.cask.due, rfl⟩

theorem tally_only (s : State) (n ev : Nat) (w : Whose) (k : Nat) : PerfOnly s (s.tally n ev w k) := by
  unfold State.tally
  split
  · exact .refl s
  · refine foldl_rel PerfOnly.refl PerfOnly.trans (fun u i => ?_) _ s
    dsimp only
    split
    · exact ⟨_, rfl⟩
    · exact .refl u

theorem tallyX_only (s : State) (ev inst k : Nat) : PerfOnly s (s.tallyX ev inst k) := by
  unfold State.tallyX
  split
  · exact .refl s
  · refine foldl_rel PerfOnly.refl PerfOnly.trans (fun u i => ?_) _ s
    dsimp only
    split
    · exact ⟨_, rfl⟩
    · exact .refl u

/-! ### Events and the fault log -/

theorem modLogs_only (s : State) (f : Logs → Logs) : LogsOnly s (s.modLogs f) := ⟨s.regs, _, s.cask.due, rfl⟩

theorem logGrows_only (s : State) (k : Nat) : LogsOnly s (s.logGrows k) := ⟨s.regs, s.logs, _, rfl⟩

theorem keepLog_only (s : State) (f : Logs → Logs) : LogsOnly s (s.keepLog f) := by
  unfold State.keepLog
  split
  · exact .refl s
  · exact (modLogs_only s f).trans (logGrows_only _ 0)

theorem record_only (s : State) (code source arg kind : Nat) (detail : List Word) :
    LogsOnly s (s.record code source arg kind detail) := by
  have h (u : State) (k j : Nat) (g : Logs → Logs) (P : Prop) [Decidable P] (v : LogsOnly s u) :
      LogsOnly s (if P then u.bump LN_LOG_LOST k else (u.modLogs g).logGrows j) := by
    split
    · exact v.trans (bump_only _ _ _).logs
    · exact v.trans ((modLogs_only _ _).trans (logGrows_only _ j))
  exact h _ _ _ _ _ (((set_only s LN_LOG_SEQ _ _).logs.trans (modLogs_only _ _)).trans (modLogs_only _ _))

theorem pushEvent_only (s : State) (code source arg : Nat) : LogsOnly s (s.pushEvent code source arg) :=
  (modLogs_only s _).trans (showFifo_only _).logs

theorem event_only (s : State) (code source arg : Nat) : LogsOnly s (s.event code source arg) :=
  (pushEvent_only s code source arg).trans (record_only _ _ _ _ _ _)

/-! ### Tasks -/

theorem setCh_only (s : State) (n : Nat) (c : Chamber) : TaskOnly s (s.setCh n c) := ⟨s.regs, s.perf, s.logs, _, s.cask.due, rfl⟩

theorem modCh_only (s : State) (n : Nat) (f : Chamber → Chamber) : TaskOnly s (s.modCh n f) := setCh_only s n _

theorem setTask_only (s : State) (n t : Nat) (k : Task) : TaskOnly s (s.setTask n t k) := modCh_only s n _

theorem modTask_only (s : State) (n t : Nat) (f : Task → Task) : TaskOnly s (s.modTask n t f) := setTask_only s n t _

/-- R188: an abort writes CH_TASK, CH_STATUS and CH_FAULT of its chamber and the task's own state, nothing else. -/
theorem taskFault_only (s : State) (n t code id : Nat) : TaskOnly s (s.taskFault n t code id) := by
  unfold State.taskFault
  dsimp only
  split
  · split
    · exact (set_only s _ _ _).task.trans (setTask_only _ n t _)
    · exact (set_only s _ _ _).task
  · split
    · exact ((setTstate_only s n t _).trans (set_only _ _ _ _)).task.trans (setTask_only _ n t _)
    · exact .refl s

theorem abortFrom_only (s : State) (n t code : Nat) : TaskOnly s (s.abortFrom n t code) := taskFault_only s n t code _

theorem endTask_only (s : State) (n t code : Nat) : TaskOnly s (s.endTask n t code) := by
  have h : TaskOnly s (((s.setTstate n t tEnded).set (CH_TASK n t) CH_TASK.END_CODE code).set (CH_TASK n t)
      CH_TASK.PREEMPT_PENDING 0) := ((setTstate_only s n t _).trans (set_only _ _ _ _)).trans (set_only _ _ _ _) |>.task
  unfold State.endTask
  dsimp only
  split
  · exact h
  · split
    · exact h.trans ((tally_only _ n _ _ 1).task.trans (pushEvent_only _ code n t).task)
    · exact h.trans ((tally_only _ n _ _ 1).task.trans (pushEvent_only _ code n t).task) |>.trans (record_only _ _ _ _ _ _).task

theorem cmdDone_only (s : State) (n r : Nat) : RegsOnly s (s.cmdDone n r) := (set_only s _ _ _).trans (set_only _ _ _ _)

theorem settle_only (s : State) (n t : Nat) : TaskOnly s (s.settle n t) := by
  have h (r : Task × Bool) : TaskOnly s (let u := (s.setTask n t r.1).showWindow n t
      if r.2 then (if u.tstate n t = tSaving then (u.endTask n t 0).cmdDone n 2 else u.endTask n t 0) else u) := by
    have hu := (setTask_only s n t r.1).trans (showWindow_only _ n t).task
    dsimp only
    split
    · split
      · exact (hu.trans (endTask_only _ n t 0)).trans (cmdDone_only _ n 2).task
      · exact hu.trans (endTask_only _ n t 0)
    · exact hu
  exact h _

theorem complete_only (s : State) (n t id : Nat) : TaskOnly s (s.complete n t id) :=
  ((modTask_only s n t _).trans (showWindow_only _ n t).task).trans (settle_only _ n t)

theorem settleAll_only (s : State) (n : Nat) : TaskOnly s (s.settleAll n) :=
  foldl_rel TaskOnly.refl TaskOnly.trans (fun u t => settle_only u n t) _ s

/-! ### Fencing (R352) -/

theorem modSvc_only (s : State) (f : Svc → Svc) : SvcOnly s (s.modSvc f) := ⟨s.regs, s.logs, _, s.cask.due, rfl⟩

theorem fenceStart_only (s : State) (n : Nat) : SvcOnly s (s.fenceStart n) := by
  have h : RegsOnly s ((List.range 4).foldl (fun (u : State) k => u.setReg (ST_MEMBER n k) 0)
      ((s.set (CH_CTRL n) CH_CTRL.HOLD 1).set (CH_STATUS n) CH_STATUS.FENCED 1)) :=
    ((set_only s (CH_CTRL n) _ _).trans (set_only _ (CH_STATUS n) _ _)).trans
      (foldl_rel RegsOnly.refl RegsOnly.trans (fun u k => setReg_only u (ST_MEMBER n k) 0) _ _)
  exact ((((h.logs.svc.trans (modSvc_only _ _)).trans (keepLog_only _ _).svc).trans (set_only _ LN_SELFTEST _ _).logs.svc).trans
    (event_only _ _ _ _).svc).trans (showAout_only _).logs.svc

theorem fenceAsk_only (s : State) (n : Nat) : SvcOnly s (s.fenceAsk n) := by
  unfold State.fenceAsk
  split
  · exact .refl s
  · split
    · exact (modSvc_only s _).trans (showChange_only _).logs.svc
    · exact fenceStart_only s n

end Sys2Proof.Machine
end

