-- ==== Sys2Proof/Laws/Memory.lean ====
section
/-! SUPPORT. Laws of memory: a byte read after a write, and that every memory operation keeps the canonical form. -/

namespace Sys2Proof.Machine

/-! ### Read after write -/

@[simp] theorem cell_setByte (s : State) (a : Nat) (b : Byte) (c : Nat) :
    (s.setByte a b).cell c = if c = a then b else s.cell c :=
  kget_kput _ _ _ _ _ _ fun _ => rfl

@[simp] theorem noise_setByte (s : State) (a : Nat) (b : Byte) (c i : Nat) : (s.setByte a b).noise c i = s.noise c i := rfl

theorem cell_storeBytes (l : List Byte) (s : State) (a c : Nat) :
    (storeBytes s a l).cell c = if a ≤ c ∧ c < a + l.length then l.getD (c - a) 0 else s.cell c := by
  induction l generalizing s a with
  | nil => rw [if_neg (by simp)]; rfl
  | cons b r ih =>
    rw [storeBytes, ih, cell_setByte]
    rcases Nat.lt_trichotomy c a with h | h | h
    · rw [if_neg (by omega), if_neg (by omega), if_neg (by omega)]
    · subst h; simp
    · obtain ⟨j, rfl⟩ : ∃ j, c = a + 1 + j := ⟨c - a - 1, by omega⟩
      simp only [List.length_cons, Nat.add_sub_cancel_left, show a + 1 + j - a = j + 1 by omega, List.getD_cons_succ]
      by_cases g : j < r.length
      · rw [if_pos (by omega), if_pos (by omega)]
      · rw [if_neg (by omega), if_neg (by omega), if_neg (by omega)]

@[simp] theorem chk_setByte (s : State) (a : Nat) (b : Byte) : (s.setByte a b).chk = s.chk := rfl

theorem storeBytes_only (l : List Byte) (s : State) (a : Nat) : ∃ m, storeBytes s a l = { s with mem := m } := by
  induction l generalizing s a with
  | nil => exact ⟨_, rfl⟩
  | cons b r ih => obtain ⟨m, h⟩ := ih (s.setByte a b) (a + 1); exact ⟨m, h⟩

theorem poison_setPoison (s : State) (c : Nat) (b : Byte) (d : Nat) :
    kget (s.setPoison c b).poison d 0 = if d = c then b else kget s.poison d 0 :=
  kget_kput _ _ _ _ _ _ fun _ => rfl

theorem chk_setChk (s : State) (c : Nat) (l : List Byte) (d : Nat) :
    kget (s.setChk c l).chk d 0 = if 4 * c ≤ d ∧ d < 4 * c + 4 then l.getD (d - 4 * c) 0 else kget s.chk d 0 := by
  have h (n : Nat) (hn : n ≤ 4) : kget ((List.range n).foldl (fun m i => kput m (c * 4 + i) (l.getD i 0) 0) s.chk) d 0
      = if 4 * c ≤ d ∧ d < 4 * c + n then l.getD (d - 4 * c) 0 else kget s.chk d 0 := by
    induction n with
    | zero => rw [if_neg (by omega)]; rfl
    | succ n ih =>
      rw [List.range_succ, List.foldl_append, List.foldl_cons, List.foldl_nil, kget_kput _ _ _ _ _ _ (fun _ => rfl), ih (by omega)]
      by_cases g : d = c * 4 + n
      · rw [if_pos g, if_pos (by omega), show d - 4 * c = n by omega]
      · rw [if_neg g]
        by_cases g' : 4 * c ≤ d ∧ d < 4 * c + n
        · rw [if_pos g', if_pos (by omega)]
        · rw [if_neg g', if_neg (by omega)]
  exact h 4 (by omega)

/-! ### What leaves the stored cells as they were -/

/-- No stored byte, check byte or poison flag changes, and no copy of the tun. -/
def SameCells (s u : State) : Prop := u.mem = s.mem ∧ u.chk = s.chk ∧ u.poison = s.poison ∧ u.tunNoise = s.tunNoise

theorem SameCells.refl (s : State) : SameCells s s := ⟨rfl, rfl, rfl, rfl⟩

theorem SameCells.trans {s u v : State} (h : SameCells s u) (g : SameCells u v) : SameCells s v :=
  ⟨g.1.trans h.1, g.2.1.trans h.2.1, g.2.2.1.trans h.2.2.1, g.2.2.2.trans h.2.2.2⟩

theorem RegsOnly.cells {s u : State} : RegsOnly s u → SameCells s u := by rintro ⟨_, rfl⟩; exact ⟨rfl, rfl, rfl, rfl⟩
theorem LogsOnly.cells {s u : State} : LogsOnly s u → SameCells s u := by rintro ⟨_, _, _, rfl⟩; exact ⟨rfl, rfl, rfl, rfl⟩
theorem PerfOnly.cells {s u : State} : PerfOnly s u → SameCells s u := by rintro ⟨_, rfl⟩; exact ⟨rfl, rfl, rfl, rfl⟩
theorem TaskOnly.cells {s u : State} : TaskOnly s u → SameCells s u := by
  rintro ⟨_, _, _, _, _, rfl⟩; exact ⟨rfl, rfl, rfl, rfl⟩
theorem SvcOnly.cells {s u : State} : SvcOnly s u → SameCells s u := by rintro ⟨_, _, _, _, rfl⟩; exact ⟨rfl, rfl, rfl, rfl⟩

/-- The stored memory stays canonical. -/
structure KeepsWf (s u : State) : Prop where
  wf : Memory.wf s → Memory.wf u

theorem KeepsWf.refl (s : State) : KeepsWf s s := ⟨id⟩

theorem KeepsWf.trans {s u v : State} (h : KeepsWf s u) (g : KeepsWf u v) : KeepsWf s v := ⟨g.wf ∘ h.wf⟩

theorem SameCells.keeps {s u : State} (h : SameCells s u) : KeepsWf s u := ⟨fun w => by
  obtain ⟨a, b, c, d⟩ := h; simpa only [Memory.wf, a, b, c, d] using w⟩

/-- Of two states that keep the form, the one chosen keeps it. -/
theorem ite_rel {β : Type} {R : β → β → Prop} {c : Prop} [Decidable c] {x y z : β} (h : c → R x y) (g : ¬ c → R x z) :
    R x (if c then y else z) := by
  split
  · exact h ‹_›
  · exact g ‹_›

/-! ### Registers reached by their addresses -/

theorem markMixed_cells (s : State) (a : Nat) : SameCells s (s.markMixed a) := ⟨rfl, rfl, rfl, rfl⟩

theorem poke_cells (s : State) (a : Nat) (v : Word) : SameCells s (s.poke a v) := by
  unfold State.poke
  split <;> exact ⟨rfl, rfl, rfl, rfl⟩

theorem pcFreeze_cells (s : State) (a : Nat) (f : Bool) : SameCells s (s.pcFreeze a f) := by
  unfold State.pcFreeze
  exact ite_rel (fun _ => .refl s) fun _ =>
    (set_only s a _ _).cells.trans (foldl_rel SameCells.refl SameCells.trans (fun u i => markMixed_cells u _) _ _)

theorem pcClear_cells (s : State) (a : Nat) : SameCells s (s.pcClear a) :=
  foldl_rel SameCells.refl SameCells.trans (fun u _ => (poke_cells u _ 0).trans (poke_cells _ _ 0)) _ s

theorem pcArm_cells (s : State) (a : Nat) (v : Word) : SameCells s (s.pcArm a v) := by
  unfold State.pcArm
  exact ite_rel (fun _ => .refl s) fun _ => (poke_cells s _ v).trans ⟨rfl, rfl, rfl, rfl⟩

theorem takeSeed_cells (s : State) (n : Nat) : SameCells s (s.takeSeed n) := by
  unfold State.takeSeed
  exact ite_rel (fun _ => (modCh_only s n _).cells) fun _ => .refl s

theorem writeReg_cells (s : State) (a : Nat) (v : Word) : SameCells s (s.writeReg a v) := by
  unfold State.writeReg
  split
  · exact .refl s
  · dsimp only
    refine ite_rel (fun _ => poke_cells s a _) fun _ => ?_
    split
    · refine ite_rel (fun _ => pcArm_cells s _ _) fun _ => ite_rel (fun _ => ?_) fun _ => ite_rel (fun _ => ?_) fun _ =>
        ite_rel (fun _ => (poke_cells s a _).trans (takeSeed_cells _ _)) fun _ => poke_cells s a _
      · exact ite_rel (fun _ => (pcFreeze_cells s a _).trans (pcClear_cells _ a)) fun _ => pcFreeze_cells s a _
      · exact (poke_cells s a _).trans (markMixed_cells _ _)
    · refine ite_rel (fun _ => pcArm_cells s _ _) fun _ => ite_rel (fun _ => ?_) fun _ => ite_rel (fun _ => ?_) fun _ =>
        poke_cells s a _
      · exact ite_rel (fun _ => (pcFreeze_cells s a _).trans (pcClear_cells _ a)) fun _ => pcFreeze_cells s a _
      · exact (poke_cells s a _).trans (markMixed_cells _ _)

theorem readReg_cells {s u : State} {a : Nat} {v : Word} (h : s.readReg a = some (v, u)) : SameCells s u := by
  unfold State.readReg at h
  split at h
  · cases h
  · simp only [Option.some.injEq, Prod.mk.injEq] at h
    obtain ⟨-, rfl⟩ := h
    exact ite_rel (fun _ => .refl s) fun _ => poke_cells s a _

/-! ### What an error leaves in the registers and logs -/

theorem errLog_only (s : State) (a : Nat) (valid ovr : Fld) (fs : List (Fld × Nat)) : RegsOnly s (s.errLog a valid ovr fs) :=
  (((setReg_only s a 0).trans (foldl_rel RegsOnly.refl RegsOnly.trans (fun (u : State) (x : Fld × Nat) => set_only u a x.1 x.2)
    fs _)).trans (set_only _ a ovr _)).trans (set_only _ a valid 1)

theorem retireRow_cells (s : State) (n tier row : Nat) : SameCells s (s.retireRow n tier row) := by
  unfold State.retireRow
  exact ite_rel (fun _ => .refl s) fun _ => ite_rel
    (fun _ => (set_only s _ _ _).cells.trans (modCh_only _ n _).cells) fun _ => (set_only s _ _ _).cells

theorem retireRegion_cells (s : State) (r : Nat) : SameCells s (s.retireRegion r) := by
  unfold State.retireRegion
  refine ite_rel (fun _ => .refl s) fun _ => ite_rel (fun _ => ⟨rfl, rfl, rfl, rfl⟩) fun _ => ?_
  split
  · exact ite_rel (fun _ => ⟨rfl, rfl, rfl, rfl⟩) fun _ => (set_only s _ _ _).cells
  · exact (set_only s _ _ _).cells

/-- What counts an error: a register, and an event where it was corrected. -/
theorem counted_cells (s : State) (a : Nat) (uncorr : Bool) (f : State → State) (h : ∀ u, SameCells u (f u)) :
    SameCells s (if uncorr then s.bump a 1 else f (s.bump a 1)) :=
  ite_rel (fun _ => (bump_only s a 1).cells) fun _ => (bump_only s a 1).cells.trans (h _)

theorem cellarError_cells (s : State) (n tier row cw : Nat) (uncorr scrub : Bool) :
    SameCells s (s.cellarError n tier row cw uncorr scrub) := by
  have h (u : State) (q : Prop) [Decidable q] (c : SameCells s u) :
      SameCells s (if q then u.retireRow n tier row else u) :=
    ite_rel (fun _ => c.trans (retireRow_cells u n _ _)) fun _ => c
  exact h _ _ ((counted_cells s _ uncorr (fun u => u.tally n 0x801 .any 1) fun _ => (tally_only _ _ _ _ _).cells).trans
    ((modCh_only _ n _).cells.trans (errLog_only _ _ _ _ _).cells))

theorem pocketError_cells (s : State) (n o : Nat) (uncorr scrub : Bool) : SameCells s (s.pocketError n o uncorr scrub) := by
  have h (u : State) (q : Prop) [Decidable q] (c : SameCells s u) :
      SameCells s (if q then (u.set (CL_STATUS n) CL_STATUS.POCKET_WORN 1).fenceAsk n else u) :=
    ite_rel (fun _ => c.trans ((set_only u _ _ _).cells.trans (fenceAsk_only _ n).cells)) fun _ => c
  exact h _ _ ((counted_cells s _ uncorr (fun u => u.tally n 0x802 .any 1) fun _ => (tally_only _ _ _ _ _).cells).trans
    ((modCh_only _ n _).cells.trans (errLog_only _ _ _ _ _).cells))

theorem tunFound_cells (s : State) (cw : Nat) (dirty uncorr scrub : Bool) : SameCells s (s.tunFound cw dirty uncorr scrub).1 := by
  have h (u : State) (m : List (Nat × Nat)) (fs : List (Fld × Nat)) :
      SameCells u (({ u with tunCount := m } : State).errLog TN_ERR_LOG TN_ERR_LOG.VALID TN_ERR_LOG.OVERWRITTEN fs) :=
    SameCells.trans (u := { u with tunCount := m }) ⟨rfl, rfl, rfl, rfl⟩ (errLog_only _ _ _ _ _).cells
  unfold State.tunFound
  extract_lets
  exact (bump_only s _ 1).cells.trans (h _ _ _)

theorem g7Error_cells (s : State) (a : Nat) (uncorr scrub : Bool) : SameCells s (s.g7Error a uncorr scrub) := by
  have h (u : State) (m : List (Nat × Nat)) : SameCells u ({ u with regionCount := m } : State) := ⟨rfl, rfl, rfl, rfl⟩
  unfold State.g7Error
  extract_lets _ unit v w x
  have c : SameCells s x := (counted_cells s _ uncorr (fun u => u.tallyX 0xA04 (unit % 64) 1) fun _ =>
    (tallyX_only _ _ _ _).cells).trans (errLog_only _ _ _ _ _).cells
  clear_value x
  split
  · exact c.trans ((h x _).trans (ite_rel (fun _ => retireRegion_cells _ _) fun _ => .refl _))
  · exact c

theorem tunUse_cells (s : State) (line hint : Nat) (write : Bool) : SameCells s (s.tunUse line hint write) := by
  unfold State.tunUse
  split <;> exact ⟨rfl, rfl, rfl, rfl⟩

/-! ### Every memory operation keeps the canonical form -/

theorem setByte_wf (s : State) (a : Nat) (b : Byte) : KeepsWf s (s.setByte a b) := ⟨fun w => ⟨kwf_kput a b w.1, w.2⟩⟩

theorem setPoison_wf (s : State) (c : Nat) (b : Byte) : KeepsWf s (s.setPoison c b) :=
  ⟨fun w => ⟨w.1, w.2.1, kwf_kput c b w.2.2.1, w.2.2.2⟩⟩

theorem setNoise_wf (s : State) (c i : Nat) (b : Byte) : KeepsWf s (s.setNoise c i b) :=
  ⟨fun w => ⟨w.1, w.2.1, w.2.2.1, kwf_kput _ b w.2.2.2⟩⟩

theorem dropNoise_wf (s : State) (p : Nat → Bool) : KeepsWf s (s.dropNoise p) :=
  ⟨fun w => ⟨w.1, w.2.1, w.2.2.1, kwf_filter _ w.2.2.2⟩⟩

theorem setChk_wf (s : State) (c : Nat) (l : List Byte) : KeepsWf s (s.setChk c l) := ⟨fun w =>
  ⟨w.1, foldl_rel (R := fun m m' => kwf (fun _ => (0 : Byte)) m = true → kwf (fun _ => (0 : Byte)) m' = true)
    (fun _ => id) (fun h g => g ∘ h) (f := fun m i => kput m (c * 4 + i) (l.getD i 0) 0)
    (fun _ i => kwf_kput (c * 4 + i) (l.getD i 0)) (List.range 4) s.chk w.2.1, w.2.2⟩⟩

theorem storeBytes_wf (l : List Byte) (s : State) (a : Nat) : KeepsWf s (storeBytes s a l) := by
  induction l generalizing s a with
  | nil => exact .refl s
  | cons b r ih => exact (setByte_wf s a b).trans (ih _ _)

theorem putRaw_wf (s : State) (c : Nat) (l : List Byte) (p : Byte) : KeepsWf s (s.putRaw c l p) :=
  ((storeBytes_wf _ s _).trans (setChk_wf _ _ _)).trans (setPoison_wf _ _ _)

theorem putTun_wf (s : State) (c : Nat) (l : List Byte) (p : Byte) : KeepsWf s (s.putTun c l p) :=
  (foldl_rel KeepsWf.refl KeepsWf.trans (fun (u : State) i => setNoise_wf u c i _) _ s).trans (setNoise_wf _ _ _ _)

theorem putSeen_wf (s : State) (c : Nat) (l : List Byte) (p : Byte) : KeepsWf s (s.putSeen c l p) :=
  ite_rel (fun _ => putTun_wf s c l p) fun _ => putRaw_wf s c l p

theorem putCw_wf (s : State) (c : Nat) (l : List Byte) (p : Bool) : KeepsWf s (s.putCw c l p) := putSeen_wf s c _ _

theorem putDram_wf (s : State) (c : Nat) (l : List Byte) (p : Byte) : KeepsWf s (s.putDram c l p) :=
  ite_rel (fun _ => (putRaw_wf s c l p).trans (putTun_wf _ _ _ _)) fun _ => putRaw_wf s c l p

theorem upset_wf (s : State) (x : Upset) : KeepsWf s (s.upset x) := by
  have h : KeepsWf s (s.putSeen x.cw (xorAt (s.seen x.cw) x.pos x.xor) (upsetFlags x (s.flags x.cw))) := putSeen_wf s _ _ _
  unfold State.upset
  split
  · exact .refl s
  · exact ite_rel (fun _ => h) fun _ => .refl s
  · exact h

theorem upsetDram_wf (s : State) (x : Upset) : KeepsWf s (s.upsetDram x) := putDram_wf s _ _ _

/-! ### The tun's operations -/

theorem storeBack_wf (s : State) (line : Nat) : KeepsWf s (s.storeBack line).1 := by
  have k (u : State) (m : List (Nat × TunLine)) : KeepsWf u { u with tun := m } := SameCells.keeps ⟨rfl, rfl, rfl, rfl⟩
  unfold State.storeBack
  extract_lets v
  have c : KeepsWf s v := ((tallyX_only s _ _ 1).cells.trans (tallyX_only _ _ _ 256).cells).keeps
  clear_value v
  split
  rename_i x es e
  have h : KeepsWf v x := by
    rw [show x = (x, es).1 from rfl, ← e]
    refine foldl_rel (R := fun x y : State × List (Nat × Bool) => KeepsWf x.1 y.1) (fun x => KeepsWf.refl x.1)
      (fun h g => KeepsWf.trans h g) (fun x i => ?_) _ (v, [])
    dsimp only
    split <;> exact putRaw_wf _ _ _ _
  exact ((c.trans h).trans (dropNoise_wf _ _)).trans (k _ _)

theorem disableWay_wf (s : State) (line way : Nat) : KeepsWf s (s.disableWay line way) := by
  have k (u : State) (m : List (Nat × TunLine)) (o : List (Nat × Nat)) : KeepsWf u { u with tunOff := o, tun := m } :=
    SameCells.keeps ⟨rfl, rfl, rfl, rfl⟩
  have e (es : List (Nat × Bool)) (u : State) :
      KeepsWf u (es.foldl (fun (s : State) e => (s.tunFound e.1 true e.2 false).1) u) :=
    foldl_rel KeepsWf.refl KeepsWf.trans (fun u e => (tunFound_cells u _ _ _ _).keeps) es u
  unfold State.disableWay
  extract_lets set off used u v w
  refine ite_rel (fun _ => (set_only s _ _ _).cells.keeps) fun _ => ?_
  have c : KeepsWf s v :=
    (((set_only s TN_STATUS _ _).cells.trans (event_only _ _ _ _).cells).trans (keepLog_only _ _).cells).keeps
  have d : KeepsWf v w := by
    unfold w
    split
    · exact .refl v
    · have h := storeBack_wf v line
      revert h
      generalize v.storeBack line = r
      exact fun h => h.trans (e _ _)
  clear_value w v
  exact ((c.trans d).trans (dropNoise_wf _ _)).trans (k _ _ _)

theorem tunError_wf (s : State) (cw : Nat) (dirty uncorr scrub : Bool) : KeepsWf s (s.tunError cw dirty uncorr scrub) := by
  have h := (tunFound_cells s cw dirty uncorr scrub).keeps
  unfold State.tunError
  revert h
  generalize s.tunFound cw dirty uncorr scrub = r
  exact fun h => h.trans (ite_rel (fun _ => disableWay_wf _ _ _) fun _ => .refl _)

theorem wroteBack_wf (s : State) (line : Nat) : KeepsWf s (s.wroteBack line) := by
  have h := storeBack_wf s line
  unfold State.wroteBack
  revert h
  generalize s.storeBack line = r
  exact fun h => h.trans (foldl_rel KeepsWf.refl KeepsWf.trans
    (fun u e => ite_rel (fun _ => tunError_wf u _ _ _ _) fun _ => .refl u) _ _)

theorem tunRoom_wf (fuel : Nat) (s : State) (line : Nat) : KeepsWf s (tunRoom fuel s line) := by
  have k (u : State) (m : List (Nat × TunLine)) : KeepsWf u { u with tun := m } := SameCells.keeps ⟨rfl, rfl, rfl, rfl⟩
  induction fuel generalizing s with
  | zero => exact .refl s
  | succ fuel ih =>
    unfold tunRoom
    split
    · exact .refl s
    · rename_i e _
      have h : KeepsWf s (if e.2.dirty then s.wroteBack e.1 else s) :=
        ite_rel (fun _ => wroteBack_wf s _) fun _ => .refl s
      revert h
      generalize (if e.2.dirty then s.wroteBack e.1 else s) = u
      exact fun h => ((h.trans (k _ _)).trans (dropNoise_wf _ _)).trans (ih _)

theorem tunInsert_wf (s : State) (line hint : Nat) (dirty : Bool) : KeepsWf s (s.tunInsert line hint dirty) := by
  have k (u : State) (m : List (Nat × TunLine)) (o : List (Nat × Nat)) : KeepsWf u { u with tun := m, tunOff := o } :=
    SameCells.keeps ⟨rfl, rfl, rfl, rfl⟩
  unfold State.tunInsert
  exact (tunRoom_wf 6 s line).trans (k _ _ _)

theorem readDram_wf (s : State) (c : Nat) (scrub : Bool) : KeepsWf s (s.readDram c scrub).2.2 := by
  unfold State.readDram
  dsimp only
  split
  · exact .refl s
  · dsimp only; exact (putDram_wf s c _ _).trans (g7Error_cells _ _ _ _).keeps
  · dsimp only; exact (putDram_wf s c _ _).trans (g7Error_cells _ _ _ _).keeps

theorem fillLine_wf (s : State) (line : Nat) : KeepsWf s (s.fillLine line) :=
  foldl_rel KeepsWf.refl KeepsWf.trans (fun u i => (readDram_wf u (line * 8 + i) false).trans (putTun_wf _ _ _ _)) _ s

theorem refill_wf (s : State) (line k : Nat) : KeepsWf s (((((({ s with tun := kdel s.tun line } : State).dropNoise
    fun x => x / 8 == line).bump TN_REFETCH 1).tallyX 0xA01 k 256).tunInsert line 0 false).fillLine line) := by
  have h : SameCells s ({ s with tun := kdel s.tun line } : State) := ⟨rfl, rfl, rfl, rfl⟩
  exact ((((h.keeps.trans (dropNoise_wf _ _)).trans (bump_only _ _ _).cells.keeps).trans (tallyX_only _ _ _ _).cells.keeps).trans
    (tunInsert_wf _ _ _ _)).trans (fillLine_wf _ _)

theorem readCw_wf (s : State) (c : Nat) (scrub : Bool) : KeepsWf s (s.readCw c scrub).2.2 := by
  unfold State.readCw
  extract_lets _ _ found
  have f (uncorr : Bool) (u : State) : KeepsWf u (found uncorr u) := by
    unfold found
    split
    · exact (cellarError_cells ..).keeps
    · exact (pocketError_cells ..).keeps
    · exact ite_rel (fun _ => tunError_wf ..) fun _ => (g7Error_cells ..).keeps
    · cases spareOf c
      · exact .refl u
      · exact (cellarError_cells ..).keeps
  clear_value found
  split
  · exact .refl s
  · exact (putSeen_wf s c _ _).trans (f false _)
  · split
    · exact (f true s).trans (refill_wf _ _ _)
    · exact (putSeen_wf s c _ _).trans (f true _)

theorem readSpan_wf (fuel : Nat) (s : State) (pa k : Nat) (acc : List Byte) (p : Bool) :
    KeepsWf s (readSpan fuel s pa k acc p).2.2 := by
  induction fuel generalizing s pa k acc p with
  | zero => exact .refl s
  | succ fuel ih =>
    unfold readSpan
    have h := readCw_wf s (pa / 32) false
    revert h
    generalize s.readCw (pa / 32) false = r
    intro h
    split
    · exact .refl s
    · exact h.trans (ih ..)

theorem readPa_wf (s : State) (pa k : Nat) : KeepsWf s (s.readPa pa k).2.2 := by
  unfold State.readPa
  split
  · split
    · rename_i h; exact (readReg_cells h).keeps
    · exact .refl s
  · exact readSpan_wf ..

theorem writeCw_wf (s : State) (c o : Nat) (l : List Byte) (p : Bool) : KeepsWf s (s.writeCw c o l p) := by
  have h := readCw_wf s c false
  unfold State.writeCw
  revert h
  generalize s.readCw c false = r
  exact fun h => ite_rel (fun _ => putCw_wf s c l p) fun _ => h.trans (putCw_wf _ c _ _)

theorem writeSpan_wf (fuel : Nat) (s : State) (pa : Nat) (l : List Byte) (p : Bool) : KeepsWf s (writeSpan fuel s pa l p) := by
  induction fuel generalizing s pa l with
  | zero => exact .refl s
  | succ fuel ih =>
    unfold writeSpan
    split
    · exact .refl s
    · exact (writeCw_wf s _ _ _ p).trans (ih ..)

theorem taskReg_cells (s : State) (a : Nat) (l : List Byte) : SameCells s (s.taskReg a l) :=
  ite_rel (fun _ => writeReg_cells s a _) fun _ => .refl s

theorem twinDirty_wf (s : State) (q k : Nat) : KeepsWf s (s.twinDirty q k) :=
  foldl_rel KeepsWf.refl KeepsWf.trans (fun u l => (tunUse_cells u l 0 true).keeps) _ s

theorem writePa_wf (s : State) (pa : Nat) (l : List Byte) (p : Bool) : KeepsWf s (s.writePa pa l p) := by
  unfold State.writePa
  split
  · exact (taskReg_cells s _ l).keeps
  · dsimp only
    split
    · exact ((writeSpan_wf _ s pa l p).trans (writeSpan_wf ..)).trans (twinDirty_wf ..)
    · exact writeSpan_wf _ s pa l p

theorem tunFill_wf (s : State) (line hint : Nat) (dirty : Bool) : KeepsWf s (s.tunFill line hint dirty) :=
  ((tallyX_only s _ _ _).cells.keeps.trans (tunInsert_wf _ _ _ _)).trans (fillLine_wf _ _)

theorem readLine_wf (s : State) (line : Nat) (m : Nat → Bool) : KeepsWf s (s.readLine line m) :=
  (tallyX_only s _ _ _).cells.keeps.trans
    (foldl_rel KeepsWf.refl KeepsWf.trans (fun u _ => ite_rel (fun _ => .refl u) fun _ => readDram_wf u _ false) _ _)

theorem tunAccess_wf (s : State) (line hint : Nat) (write whole : Bool) (merged : Nat → Bool) :
    KeepsWf s (s.tunAccess line hint write whole merged) := by
  unfold State.tunAccess
  have m (k : Nat) := (tallyX_only s 0x902 k 1).cells.keeps
  refine ite_rel (fun _ => ((tallyX_only s _ _ _).cells.trans (tunUse_cells ..)).keeps) fun _ => ?_
  refine ite_rel (fun _ => ite_rel (fun _ => ?_) fun _ => (m _).trans (tallyX_only _ _ _ _).cells.keeps) fun _ =>
    ite_rel (fun _ => (m _).trans (tunInsert_wf ..)) fun _ => (m _).trans (tunFill_wf ..)
  exact ((m _).trans (ite_rel (R := KeepsWf) (fun _ => .refl _) fun _ => readLine_wf _ _ _)).trans
    (tallyX_only _ _ _ _).cells.keeps

theorem touch_wf (s : State) (pa k hint : Nat) (write : Bool) : KeepsWf s (s.touch pa k hint write) := by
  unfold State.touch
  split
  · exact foldl_rel KeepsWf.refl KeepsWf.trans (fun u l => tunAccess_wf u l hint write _ _) _ s
  · exact .refl s

theorem tableWord_wf (s : State) (pa : Nat) : KeepsWf s (s.tableWord pa).2 := by
  unfold State.tableWord
  split
  · exact .refl s
  · split
    · exact .refl s
    · exact (touch_wf s pa 8 0 false).trans (readPa_wf ..)

theorem lanternWrite_wf (s : State) (pa : Nat) (l : List Byte) : KeepsWf s (s.lanternWrite pa l) :=
  (touch_wf s pa _ 0 true).trans (writePa_wf ..)

theorem lanternRead_wf (s : State) (pa k : Nat) : KeepsWf s (s.lanternRead pa k).2.2 :=
  (touch_wf s pa k 0 false).trans (readPa_wf ..)

end Sys2Proof.Machine
end

