-- ==== Sys2Proof/Laws/Access.lean ====
section
/-! SUPPORT. Laws of the Gallery's sending, and of accesses at device-virtual addresses: each keeps the stored memory in its
canonical form. -/

namespace Sys2Proof.Machine

/-! ### Sending frames (R266 to R272) -/

/-- Only the Gallery's state, registers and counters change. -/
def GlOnly (s u : State) : Prop := ∃ g r p, u = { s with gl := g, regs := r, perf := p }

theorem GlOnly.refl (s : State) : GlOnly s s := ⟨_, _, _, rfl⟩

theorem GlOnly.trans {s u v : State} : GlOnly s u → GlOnly u v → GlOnly s v := by
  rintro ⟨_, _, _, rfl⟩ ⟨g, r, p, rfl⟩; exact ⟨g, r, p, rfl⟩

theorem GlOnly.cells {s u : State} : GlOnly s u → SameCells s u := by rintro ⟨_, _, _, rfl⟩; exact ⟨rfl, rfl, rfl, rfl⟩

theorem RegsOnly.gl {s u : State} : RegsOnly s u → GlOnly s u := by rintro ⟨r, rfl⟩; exact ⟨_, r, _, rfl⟩

theorem PerfOnly.gl {s u : State} : PerfOnly s u → GlOnly s u := by rintro ⟨p, rfl⟩; exact ⟨_, _, p, rfl⟩

theorem modGl_only (s : State) (f : Gallery → Gallery) : GlOnly s (s.modGl f) := ⟨_, _, _, rfl⟩

theorem setGport_only (s : State) (p : Nat) (v : GPortSt) : GlOnly s (s.setGport p v) := ⟨_, _, _, rfl⟩

theorem glEmit_only (s : State) (p : Nat) (f : GFrame) : GlOnly s (s.glEmit p f) :=
  (modGl_only s _).trans (setGport_only _ p _)

theorem giveBack_only (s : State) (p vc k : Nat) : GlOnly s (s.giveBack p vc k) :=
  ite_rel (fun _ => .refl s) fun _ => setGport_only s p _

theorem giveBackAll_only (s : State) (l : List (GFrame × Option Nat)) : GlOnly s (s.giveBackAll l) := by
  refine foldl_rel GlOnly.refl GlOnly.trans (fun u x => ?_) l s
  split
  · exact giveBack_only u _ _ _
  · exact .refl u

theorem glDrain_only (fuel : Nat) (s : State) (p : Nat) : GlOnly s (glDrain fuel s p) := by
  induction fuel generalizing s with
  | zero => exact .refl s
  | succ fuel ih =>
    unfold glDrain
    extract_lets v
    split
    · exact .refl s
    · split
      · exact .refl s
      · extract_lets g g c v
        exact ((((setGport_only s p v).trans (glEmit_only _ p g)).trans (tallyX_only _ _ _ _).gl).trans
          (giveBackAll_only _ _)).trans (ih _)

theorem glPump_only (s : State) (p : Nat) : GlOnly s (s.glPump p) := (glDrain_only _ s p).trans (setGport_only _ p _)

/-- A frame that is sent, or waits at its port, changes the Gallery's state, registers and counters alone. -/
theorem glSend_only (s : State) (p : Nat) (f : GFrame) : GlOnly s (s.glSend p f) :=
  (setGport_only s p _).trans (glPump_only _ p)

theorem deliver_only (s : State) (p : Nat) (f : GFrame) : GlOnly s (s.deliver p f) := modGl_only s _

theorem originate_only (s : State) (f : GFrame) : GlOnly s (s.originate f).1 := by
  unfold State.originate
  extract_lets f
  split
  · exact deliver_only s _ _
  · split
    · exact .refl s
    · split
      · exact .refl s
      · exact glSend_only s _ f

theorem e2eFail_only (s : State) (dest status type tag n : Nat) : GlOnly s (s.e2eFail dest status type tag n) := by
  unfold State.e2eFail
  extract_lets a b c
  have h : GlOnly s c := by
    refine GlOnly.trans (u := b) ?_ (ite_rel (fun _ => (set_only b _ _ _).gl) fun _ => .refl b)
    exact GlOnly.trans (u := a) (ite_rel (fun _ => modGl_only s _) fun _ => .refl s) (bump_only a _ 1).gl
  clear_value c
  exact h.trans (((((set_only c _ _ _).trans (set_only _ _ _ _)).trans (set_only _ _ _ _)).trans (set_only _ _ _ _)).trans
      (set_only _ _ _ _) |>.trans (set_only _ _ _ _)).gl

theorem request_only (s : State) (f : GFrame) (why : TxnFor) : GlOnly s (s.request f why).1 := by
  have h := originate_only (s.modGl fun g => { g with nextTag := (s.gl.nextTag + 1) % 65536 }) { f with tag := s.gl.nextTag }
  revert h
  unfold State.request
  extract_lets tag u
  change GlOnly u (u.originate { f with tag := tag }).1 → _
  generalize u.originate { f with tag := tag } = r
  intro h
  have g : GlOnly s u := modGl_only s _
  split
  · exact g.trans h
  · exact GlOnly.trans (g.trans h) ⟨_, _, _, rfl⟩

theorem sendOff_only (s : State) (f : GFrame) : GlOnly s (s.sendOff f) := by
  have h := originate_only s f
  unfold State.sendOff
  revert h
  generalize s.originate f = r
  intro h
  split
  · exact h
  · exact h.trans (e2eFail_only _ _ _ _ _ _)

theorem respond_only (s : State) (f : GFrame) (status : Nat) (data : List Byte) (poison : Bool) :
    GlOnly s (s.respond f status data poison) := by
  unfold State.respond
  exact sendOff_only s _

/-! ### Translation (R199 to R203) -/

theorem contextAt_wf (s : State) (pa : Nat) : KeepsWf s (s.contextAt pa).2 := by
  unfold State.contextAt
  have h := tableWord_wf s pa
  revert h
  generalize s.tableWord pa = r
  intro h
  split
  · exact h
  · rename_i u
    replace h := h.trans (tableWord_wf u (pa + 8))
    revert h
    generalize u.tableWord (pa + 8) = r
    intro h
    split
    · exact h
    · split
      · exact h
      · split <;> exact h

theorem contextWord_wf (s : State) (x : Nat) : KeepsWf s (s.contextWord x).2 := contextAt_wf s _

theorem tableAt_wf (s : State) (t i : Nat) : KeepsWf s (s.tableAt t i).2 := by
  unfold State.tableAt
  have h := tableWord_wf s (t + 8 * i)
  revert h
  generalize s.tableWord (t + 8 * i) = r
  intro h
  split <;> exact h

theorem walk_wf (s : State) (x va : Nat) : KeepsWf s (s.walk x va).2 := by
  unfold State.walk
  split
  · exact .refl s
  · have h := contextWord_wf s x
    revert h
    generalize s.contextWord x = r
    intro h
    split
    · exact h
    · rename_i t1 u
      replace h := h.trans (tableAt_wf u t1 (bits va 47 39))
      revert h
      generalize u.tableAt t1 (bits va 47 39) = r
      intro h
      split
      · exact h
      · rename_i t2 u
        replace h := h.trans (tableAt_wf u t2 (bits va 38 30))
        revert h
        generalize u.tableAt t2 (bits va 38 30) = r
        intro h
        split
        · exact h
        · rename_i t3 u
          replace h := h.trans (tableWord_wf u (t3 + 8 * bits va 29 21))
          revert h
          generalize u.tableWord (t3 + 8 * bits va 29 21) = r
          intro h
          split
          · exact h
          · rename_i e3 u
            split
            · exact h
            · split
              · exact h
              · rename_i t4 _
                replace h := h.trans (tableWord_wf u (t4 + 8 * bits va 20 16))
                revert h
                generalize u.tableWord (t4 + 8 * bits va 20 16) = r
                intro h
                split <;> exact h

theorem tlbPut_cells (s : State) (n key leaf : Nat) : SameCells s (s.tlbPut n key leaf) := by
  unfold State.tlbPut
  extract_lets c
  split
  · exact (setCh_only s n _).cells
  · exact ⟨rfl, rfl, rfl, rfl⟩

theorem ytlbPut_cells (s : State) (key leaf : Nat) : SameCells s (s.ytlbPut key leaf) := by
  unfold State.ytlbPut
  split <;> exact ⟨rfl, rfl, rfl, rfl⟩

theorem lookup_cells (s : State) (n x va : Nat) : SameCells s (s.lookup n x va).2 := by
  unfold State.lookup
  split
  · exact .refl s
  · split
    · exact .refl s
    · split
      · exact tlbPut_cells s n _ _
      · exact .refl s

theorem walkFill_wf (s : State) (n x va : Nat) : KeepsWf s (s.walkFill n x va).2 := by
  have h := walk_wf s x va
  unfold State.walkFill
  revert h
  generalize s.walk x va = r
  intro h
  split
  · exact h
  · exact h.trans ((tlbPut_cells _ n _ _).trans (ytlbPut_cells _ _ _)).keeps

theorem translate_wf (s : State) (n x va : Nat) (need : Need) : KeepsWf s (s.translate n x va need).2 := by
  have h := (lookup_cells s n x va).keeps
  unfold State.translate
  revert h
  generalize s.lookup n x va = r
  intro h
  extract_lets use
  have g (l : Nat) (u : State) (k : KeepsWf s u) : KeepsWf s (use l u).2 := k
  clear_value use
  split
  · exact g _ _ h
  · rename_i u
    replace h := h.trans (walkFill_wf u n x va)
    revert h
    generalize u.walkFill n x va = r
    intro h
    split
    · exact h
    · exact g _ _ h

/-! ### Accesses of a task (R209, R272) -/

theorem readPage_wf (s : State) (n t va k : Nat) (need : Need) : KeepsWf s (s.readPage n t va k need).2 := by
  unfold State.readPage
  dsimp only
  generalize hr : s.translate n _ va need = r
  have h : KeepsWf s r.2 := hr ▸ translate_wf s n _ va need
  clear hr
  split
  · split
    · exact .refl s
    · exact h
  · rename_i pa leaf u
    split
    · split
      · dsimp only
        exact h.trans (modTask_only u n t _).cells.keeps
      · split
        · exact h
        · generalize hq : u.request _ _ = q
          have g : KeepsWf s q.1 := h.trans (hq ▸ request_only u _ _).cells.keeps
          clear hq
          split
          · exact g
          · exact g.trans (e2eFail_only _ _ _ _ _ _).cells.keeps
    · split
      · exact h
      · generalize hq : (u.touch pa k (leafHint leaf) false).readPa pa k = q
        have g : KeepsWf s q.2.2 := (h.trans (touch_wf u pa k _ false)).trans (hq ▸ readPa_wf _ _ _)
        clear hq
        split
        · exact .refl s
        · exact g

theorem readVaAux_wf (fuel : Nat) (s : State) (n t va k : Nat) (need : Need) (acc : List Byte) (p : Bool) (first : Option Nat) :
    KeepsWf s (readVaAux fuel s n t va k need acc p first).2 := by
  induction fuel generalizing s va k acc p first with
  | zero => exact .refl s
  | succ fuel ih =>
    unfold readVaAux
    split
    · exact .refl s
    · dsimp only
      generalize hr : s.readPage n t va _ need = r
      have h : KeepsWf s r.2 := hr ▸ readPage_wf s n t va _ need
      clear hr
      split
      · exact h.trans (ih ..)
      · exact h

theorem readVa_wf (s : State) (n t va k : Nat) (need : Need) : KeepsWf s (s.readVa n t va k need).2 := readVaAux_wf ..

theorem consume_wf (s : State) (n t va k : Nat) : KeepsWf s (s.consume n t va k).2 := by
  unfold State.consume
  generalize hr : s.readVa n t va k _ = r
  have h : KeepsWf s r.2 := hr ▸ readVa_wf s n t va k _
  clear hr
  split
  · split <;> exact h
  · exact h

theorem writeVaAux_wf (fuel : Nat) (s : State) (n t va : Nat) (l : List Byte) (need : Need) (poison : Bool) :
    KeepsWf s (writeVaAux fuel s n t va l need poison).2 := by
  induction fuel generalizing s va l with
  | zero => exact .refl s
  | succ fuel ih =>
    unfold writeVaAux
    split
    · exact .refl s
    · dsimp only
      generalize hr : s.translate n _ va need = r
      have h : KeepsWf s r.2 := hr ▸ translate_wf s n _ va need
      clear hr
      split
      · exact h
      · rename_i pa leaf u
        split
        · generalize hq : u.request _ _ = q
          have g : KeepsWf s q.1 := h.trans (hq ▸ request_only u _ _).cells.keeps
          clear hq
          split
          · exact g.trans (ih ..)
          · exact (g.trans ((e2eFail_only _ _ _ _ _ _).cells.trans (abortFrom_only _ n t _).cells).keeps).trans (ih ..)
        · split
          · exact h
          · exact ((h.trans (touch_wf u pa _ _ true)).trans (writePa_wf ..)).trans (ih ..)

theorem writeVa_wf (s : State) (n t va : Nat) (l : List Byte) (need : Need) (poison : Bool) :
    KeepsWf s (s.writeVa n t va l need poison).2 := writeVaAux_wf ..

end Sys2Proof.Machine
end

