-- ==== Sys2Proof/Laws/Mgmt.lean ====
section
/-! SUPPORT. Laws of the shared operations of the Lantern, the security block, the cask and the links: for each, once, what it can
change and what its answer says. -/

namespace Sys2Proof.Machine

/-! ### Fuses (R330) -/

/-- Two copies that agree outvote the third. -/
theorem maj3_two (a b : Nat) : maj3 a a b = a := by
  refine Nat.eq_of_testBit_eq fun i => ?_
  simp only [maj3, Nat.testBit_or, Nat.testBit_and]
  cases a.testBit i <;> cases b.testBit i <;> rfl

theorem maj3_rotate (a b c : Nat) : maj3 a b c = maj3 b c a := by
  refine Nat.eq_of_testBit_eq fun i => ?_
  simp only [maj3, Nat.testBit_or, Nat.testBit_and]
  cases a.testBit i <;> cases b.testBit i <;> cases c.testBit i <;> rfl

/-- Fuses whose copies agree read as any of them. -/
theorem Fuses.read_same (f : FuseCopy) (h : List Byte) (x : FuseCopy → Nat) : Fuses.read ⟨f, f, f, h⟩ x = x f := maj3_two _ _

theorem showFuses_only (s : State) : RegsOnly s s.showFuses := by
  unfold State.showFuses
  extract_lets f s1 s2
  have h : RegsOnly s s2 :=
    ((set_only s _ _ _).trans (set_only _ _ _ _)).trans ((set_only _ _ _ _).trans (set_only _ _ _ _))
  clear_value s2
  exact h.trans (foldl_rel RegsOnly.refl RegsOnly.trans (fun u _ =>
    foldl_rel RegsOnly.refl RegsOnly.trans (fun v _ => setReg_only v _ _) _ u) _ s2)

@[simp] theorem showFuses_fuses (s : State) : s.showFuses.fuses = s.fuses := by
  obtain ⟨r, h⟩ := showFuses_only s
  rw [h]

theorem programFuses_fuses (s : State) (f : FuseCopy → FuseCopy) :
    (s.programFuses f).fuses = { s.fuses with a := f s.fuses.a, b := f s.fuses.b, c := f s.fuses.c } := showFuses_fuses _

/-! ### Signatures (R327) -/

/-- A signature verifies only with a key and a signature of the lengths of the padded encoding. -/
theorem falconVerify_lengths {pk sig msg : List Byte} (h : falconVerify pk sig msg = true) : pk.length = 1793 ∧ sig.length = 1280 := by
  by_contra c
  have e : falconVerify pk sig msg = false := by
    unfold falconVerify
    exact if_pos (by rcases not_and_or.mp c with g | g <;> simp [g])
  rw [e] at h
  exact Bool.false_ne_true h

/-- An image that verifies passes every test of R315 up to the step asked for. -/
theorem verify_signed {s : State} {kind : Nat} {l : List Byte} {idx upto : Nat} (h : s.verify kind l idx upto = none) :
    imgFormatBad kind l = false ∧ imgBlockBad l = false ∧ s.slotBad (imgSigner l) = 0 ∧ s.keyFits (imgBlock l) (imgSigner l) = true
      ∧ falconVerify (sigKey (imgBlock l)) (sigBytes (imgBlock l)) (imgHeader l) = true ∧ digest (imgTable l) = slice l 0x28 64 := by
  unfold State.verify at h
  split_ifs at h with a b c d e f g
  all_goals
    simp only [bne_iff_ne, ne_eq, not_not, Bool.not_eq_true, Bool.not_eq_false', Bool.not_eq_true'] at *
    exact ⟨a, b, c, by simpa using d, by simpa using f, g⟩

/-! ### Time (R278, R381) -/

theorem stepTime_cells (s : State) (d : Int) : SameCells s (s.stepTime d) := by
  unfold State.stepTime
  split <;> exact ⟨rfl, rfl, rfl, rfl⟩

/-- Setting the time before serving changes no stored cell. -/
theorem setTime_cells (s : State) (e : Int) : SameCells s (s.setTime e) := by
  unfold State.setTime
  split
  · exact (modGl_only s _).cells
  · exact SameCells.trans (modGl_only s _).cells (stepTime_cells _ _)

/-- A timebase that is ahead is held and not stepped back: TB_TIME keeps its value. -/
theorem setTime_ahead (s : State) {e : Int} (h : 0 < e) : (s.setTime e).now = s.now := by
  unfold State.setTime
  rw [if_pos h]
  rfl

/-! ### Sessions (R339) -/

/-- With no line of its session waiting, a command is carried out as it comes. -/
theorem lineFits_free {s : State} {c : Session} {i : Instr} (h : s.headLine c = none) : s.lineFits c i = true := by
  simp [State.lineFits, h]

/-- A line that waits is carried out by the command it spells alone. -/
theorem lineFits_spelled {s : State} {c : Session} {i : Instr} {l : List Byte} (h : s.headLine c = some l) (f : s.lineFits c i = true) :
    lineCmd c l = .ok (bare i) := by
  simp only [State.lineFits, h] at f
  split at f
  · rename_i j e
    rw [e, beq_iff_eq.mp f]
  · exact absurd f Bool.false_ne_true

/-! ### Changes (R341) and the pace (R367) -/

theorem recalPorts_only (s : State) : SvcOnly s s.recalPorts := by
  unfold State.recalPorts
  split
  · exact SvcOnly.refl s
  · exact modSvc_only s _

theorem paceTo_only (s : State) (new : Nat) : SvcOnly s (s.paceTo new) := by
  unfold State.paceTo
  refine SvcOnly.trans ?_ (set_only _ _ _ _).logs.svc
  split
  · exact modSvc_only s _
  · exact SvcOnly.refl s

/-! ### Service channels (R298) -/

theorem resendEvts_only (s : State) : LogsOnly s s.resendEvts := modLogs_only s _

/-- Moving the service channels changes registers and logs alone. -/
theorem svcMove_only (s : State) (p : Nat) : LogsOnly s (s.svcMove p) := by
  unfold State.svcMove
  split
  · exact LogsOnly.refl s
  · exact ((set_only s _ _ _).logs.trans (resendEvts_only _)).trans (event_only _ _ _ _)

/-! ### The cask (R305 to R313) -/

/-- Registers and the cask alone change, or a change of the cask's health shows at the analog output. -/
theorem modCask_cells (s : State) (f : Cask → Cask) : SameCells s (s.modCask f) := ⟨rfl, rfl, rfl, rfl⟩

theorem patrolStart_cells (s : State) : SameCells s s.patrolStart := (modCask_cells s _).trans (set_only _ _ _ _).cells

theorem patrolDue_cells (s : State) : SameCells s s.patrolDue := by
  unfold State.patrolDue
  extract_lets days
  split
  · exact SameCells.refl s
  · exact patrolStart_cells s

theorem showCask_cells (s : State) : SameCells s s.showCask := by
  unfold State.showCask
  extract_lets bs avg top low health s1 s2 s3 s4 s5
  refine RegsOnly.cells ?_
  exact ((((((((set_only s _ _ _).trans (set_only _ _ _ _)).trans (set_only _ _ _ _)).trans (set_only _ _ _ _)).trans
    (set_only _ _ _ _)).trans (set_only _ _ _ _)).trans (set_only _ _ _ _)).trans (set_only _ _ _ _)).trans (showAout_only _)

/-- A copy of the directory whose check fails is never the one in use: with both good, the newer generation is (R313). -/
theorem started_gen (c : Cask) (x : CaskFind) (h : x.copies = (true, true)) : (c.started x).dirGen = max c.copyA.gen c.copyB.gen := by
  simp only [Cask.started, h, if_true]
  split <;> omega

end Sys2Proof.Machine
end

