-- ==== Sys2Proof/WellFormed.lean ====
section
/-! DEFINITION. Which operands are well formed beyond what their types say: values within the widths of the fields that
carry them (R206, R263, R286, R203, R304). -/

namespace Sys2Proof

/-- A Gallery frame whose fields fit their places (R263, Table 3). -/
def GFrame.wf (f : GFrame) : Bool :=
  f.type < 16 && f.vc < 4 && f.hops < 64 && f.dest < 2 ^ 18 && f.src < 2 ^ 18 && f.tag < 2 ^ 16 && f.lseq < 4096
    && f.op < 16 && f.aux < 2 ^ 32 && f.pa < 2 ^ 64 && f.payload.length < 4096

/-- A Sirdy frame whose fields fit their places (R286, Table 2). -/
def SFrame.wf (f : SFrame) : Bool :=
  f.type < 16 && f.ch < 16 && f.seq < 4096 && f.op < 256 && f.tag < 2 ^ 32 && f.aux < 2 ^ 32
    && f.payload.length ≤ 4096

/-- Noise on a byte of a codeword, or on the three copies of its poison flag (position 36), changing it. -/
def Upset.wf (u : Upset) : Bool := (u.pos < 36 || (u.pos = 36 && u.xor < 8)) && u.xor != 0

/-- A cell of the array, its checksum column 64 and checksum row 16 among them, or a spare row. -/
def CellFault.wf (c : CellFault) : Bool := c.prow < 18 && c.col ≤ 64

/-- A NAND page of the cask. -/
def nandWf (die plane block page : Nat) : Bool := die < 32 && plane < 4 && block < 1656 && page < 2304

/-- Which commands are well formed. -/
def Instr.wf : Instr → Bool
  | .checksComplete _ _ d => d.all CellFault.wf
  | .scrubRead _ u => u.all Upset.wf
  | .transferComplete _ _ _ u => u.all Upset.wf
  | .gmInvalRange _ k => 16 ≤ k && k ≤ 47
  | .tunFillDone line => line < 2 ^ 38
  | .glLinkCtrl _ a => a.frame.wf && a.frame.type == 0
  | .glHello _ a => a.frame.wf && a.frame.type == 1
  | .glFrameReceive _ a => a.frame.wf && 2 ≤ a.frame.type
  | .syLinkCtrl _ a => a.frame.wf && a.frame.type == 0
  | .syHello _ a => a.frame.wf && a.frame.type == 1
  | .syDataReceive _ a => a.frame.wf && 2 ≤ a.frame.type
  | .caskPatrolRead d p b g _ => nandWf d p b g
  | .nandProgramFail d p b => nandWf d p b 0
  | .nandEraseFail d p b => nandWf d p b 0
  | .nandUncorrRead d p b => nandWf d p b 0
  | _ => true

end Sys2Proof
end

