-- ==== Sys2Proof/Tests/Slice0.lean ====
section
/-! SUPPORT. Small tests, and for every statement of the obligations a state and operands that meet its hypotheses. -/

set_option Elab.async false

namespace Sys2Proof.Tests

open Sys2Proof Sys2Proof.Machine

/-! ### Small states -/

/-- The next state that a meaning answers. -/
def nx (o : Out) : State := match o with | .next s => s | _ => State.reset

/-- An instruction word from its opcode and fields (lowest bit, value). -/
def iw (op : Nat) (l : List (Nat × Nat)) : BitVec 128 := BitVec.ofNat 128 (l.foldl (fun a x => a + x.2 * 2 ^ x.1) op)

/-- Chamber 0 with HOLD released and an ACTIVE task under tag 0. -/
def live0 : State := (State.reset.set (CH_CTRL 0) CH_CTRL.HOLD 0).setTstate 0 0 tActive

/-- The task with one instruction fetched. -/
def turn (w : BitVec 128) : State := live0.setTask 0 0 { fetched := [⟨0x1000, some w⟩], fetchPc := 0x1010 }

/-- The task with an instruction in its window. -/
def inWin (w : BitVec 128) (k : Wait) : State :=
  live0.setTask 0 0 { nextId := 6, window := [⟨5, 0x1000, w⟩], wait := k, fetchPc := 0x1010 }

/-- Map virtual page `v` of context 0 to the cellar page `p`, readable, writable and open to spilling. -/
def mapped (s : State) (v p : Nat) : State :=
  s.modCh 0 fun c => { c with tlb := kset c.tlb (tlbKey 0 (v * 0x10000) false) (0x1F + p * 0x10000) }

/-- Store bytes with their check bytes. -/
def poke (s : State) (pa : Nat) (l : List Byte) : State := s.writePa pa l false

/-- The task with the instruction, its page 2 mapped to the cellar page 2 where the bytes lie. -/
def memTurn (w : BitVec 128) (l : List Byte) : State := poke (mapped (turn w) 2 2) 0x20000 l

/-- What a read on the task's behalf answers. -/
def rd (r : Rd × State) : Option (List Byte) := match r.1 with | .ok d _ _ => some d | _ => none

/-- Page 2 of the task is mapped to the first page of G7. -/
def g7Turn (w : BitVec 128) (l : List Byte) : State :=
  (poke (mapped (turn w) 2 0x100000) 0x1000000000 l).set (CH_BAR_BASE 0) CH_BAR_BASE.BASE 0x800

/-- The task waiting at a word of page 2, which holds `x`. -/
def waiting (k : Wait) (x : Nat) : State := poke (mapped (inWin 0 k) 2 2) 0x20000 (toBytes 8 x)

/-- Tag 0's session is open. -/
def opened (s : State) : State := s.set (SP_SESSION 0 0) SP_SESSION.OPEN 1

/-- The parameters of a pass over 64 groups under a policy, with a pocket page for its data. -/
def gvTurn (w : BitVec 128) (policy : Nat) : State :=
  mapped (((turn w).set (GV_CTRL 0 0) GV_CTRL.U 64).set (GV_CTRL 0 0) GV_CTRL.POLICY policy) 0 0x80000

/-- What a join's reading answers. -/
def joined (r : Except (Option (Nat × Nat)) Bool × State) : Option Bool := r.1.toOption

/-- An instruction of the array on slot 0 with one tile. -/
def arrI (ph : ArrPhase) (steps : Nat) (w : BitVec 128) : ArrInstr :=
  { id := 5, tag := 0, pc := 0x1000, word := w, phase := ph, steps := steps, tiles := [{ steps := steps, k := 1 }] }

/-- The starts of an instruction lie in the slots of both read engines. -/
def slots2 (s : State) : State :=
  let st (k : Nat) : Start := { kind := .group k, id := 5, tag := 0, desc := k }
  (s.setEng 0 0 { active := some (st 0) }).setEng 0 1 { active := some (st 1) }

def withArr (a : ArrInstr) : State := (inWin a.word .none).modCh 0 fun c => { c with arr := [a] }

/-- A tag-0 update on its way, in a chamber whose session limits keys to 100. -/
def withUpd (u : Upd) : State :=
  ((opened (inWin 0 .none)).set (SP_SESSION 0 0) SP_SESSION.KEY_LIMIT 100).modCh 0 fun c => { c with updQ := [u] }

/-- A set that is full with other tags' entries. -/
def fullSet (s : State) (set : Nat) : State :=
  s.setWays 0 set ((List.range 4).map fun w => (w, ⟨BitVec.ofNat 32 (set + 1024 * w), 0x3F800000, 1, w⟩))

/-- A SUMP_DRAIN whose destination's start has its slot, with a chamber content. -/
def draining (f : Chamber → Chamber) : State :=
  let l : ListInstr := { id := 5, tag := 0, pc := 0x1000, word := 0x61 }
  ((inWin l.word .none).setEng 0 2 { active := some { kind := .sink, id := 5, tag := 0, desc := 0, begun := false } }).modCh 0
    fun c => f { c with lists := [l] }

/-- What reading runs answers. -/
def read1 (r : Except (Option (Nat × Nat)) (List Entry) × State) : Option (List Entry) := r.1.toOption

/-- A chain over two lanes of one row that adds X and Y, in the pocket of chamber 0. -/
def chain1 : Chain := { id := 5, tag := 0, pc := 0x1000, word := iw 0x50 [(14, 2), (38, 1), (54, 0), (57, 1), (63, 3)] }

/-- Vector reference `i` of tag 0: a base, element stride 1, bound 2. -/
def ref1 (s : State) (i base : Nat) : State :=
  ((s.set (FS_VREF0 0 0 i) FS_VREF0.BASE base).set (FS_VREF1 0 0 i) FS_VREF1.ELEM_STRIDE 1).set (FS_VREF1 0 0 i) FS_VREF1.BOUND 2

/-- Entry 0 adds X and Y; X is 1 and 2, Y is 3 and 4. -/
def chainState (c : Chain) : State :=
  let s := (((inWin c.word .none).set (FS_CHAIN_HDR 0 0) FS_CHAIN_HDR.STAGES 1).set (FS_CHAIN_STG 0 0 0) FS_CHAIN_STG.OP 1)
  let s := (s.set (FS_CHAIN_STG 0 0 0) FS_CHAIN_STG.SRC_A 1).set (FS_CHAIN_STG 0 0 0) FS_CHAIN_STG.SRC_B 2
  let s := mapped (ref1 (ref1 (ref1 s 0 0) 1 0x20) 3 0x40) 0 0x80000
  poke (poke (s.modCh 0 fun h => { h with chains := [c] }) 0x800000000 (toBytes 8 0x400000003F800000)) 0x800000020
    (toBytes 8 0x4080000040400000)

/-- What translating a chain's references answers. -/
def feet (r : Except (Nat × Nat × Need) (List (Nat × List (Nat × Nat)) × List (Nat × Nat)) × State) :
    Option (List (Nat × List (Nat × Nat)) × List (Nat × Nat)) := r.1.toOption

/-- The command registers of chamber 0 name tag 3, a PC, a save base of one page and context 0. -/
def creating : State :=
  let s := (State.reset.set (CH_CREATE0 0) CH_CREATE0.TAG 3).set (CH_CREATE0 0) CH_CREATE0.PC 0x4000
  (s.set (CH_CREATE0 0) CH_CREATE0.PRIORITY 7).set (CH_CREATE1 0) CH_CREATE1.SAVE_BASE 0x20

/-- A task whose save area lies in a page of module 0 that is reached as a remote one. -/
def remotePage (s : State) : State :=
  s.modCh 0 fun c => { c with tlb := kset c.tlb (tlbKey 0 0 false) 0x3F }

/-- An image of a task that held nothing. -/
def img0 : SaveImg :=
  { tag := 0, task := {}, pc := 0x4000, prio := 7, policy := 0, regs := [], held := [], chains := [], arr := [], lists := [],
    joins := [], starts := [], drain := none }

/-- The save area's bytes have come back from its module. -/
def restoring : State :=
  let s := (remotePage { State.reset with saves := [(0, img0)] }).setTstate 0 0 tRestoring
  (s.setTask 0 0 { rbuf := (List.range 13).map fun i => (i * 2048, ([], false)) }).modCh 0 fun c => { c with resumeImg := [(0, 0)] }

/-- A start of engine 0 with one transfer. -/
def moving (tr : Transfer) : State :=
  live0.setEng 0 0 { active := some { kind := .copyRead, id := 5, tag := 0, desc := 0, out := [tr] } }

/-- Context 0's tables: one page that points to itself and holds a 2 MiB leaf to the cellar as its second entry. -/
def tables (s : State) : State :=
  let s := (poke s 0x1000000000 (toBytes 8 0x1000001001)).set GM_XLAT_BASE GM_XLAT_BASE.BASE 0x10000
  { poke s 0x1000001000 (toBytes 8 0x1000001001 ++ toBytes 8 0x1F) with tun := [(0x10000000, {}), (0x10000010, {})] }

/-- A step header of a kind and CLASS. -/
def stepHdr (kind cls : Nat) : List Word := mkHdr 7 0 0 1 0 kind cls 0 3 0 0

/-- A serving module without a recipe, its dispatcher holding `d`. -/
def serving (d : Disp) : State := { (State.reset.set LN_BOOT LN_BOOT.STAGE 9).set GL_STATUS GL_STATUS.MEMBER 1 with disp := d }

/-- A step task at chamber 0, tag 0. -/
def task0 : TaskDef := { (default : TaskDef) with xlat := 0 }

/-- The recipe in force is image `[]`; the step task has ended with a code. -/
def failing : State :=
  let s := (live0.setTstate 0 0 tEnded).set (CH_TASK 0 0) CH_TASK.END_CODE 0x0104
  { s with svc := { s.svc with recipe := some (0, []) } }

/-- A request that runs, and one that has a prompt. -/
def req7 : Req := { id := 7, port := 0, tag := 5, cls := 0, maxNew := 9, stop0 := 2, stop1 := 2, seed := 0, prompt := [1], kv := 0 }

/-- A port in a state. -/
def portIn (st : Nat) (v : GPortSt) : State := (State.reset.setGpState 3 st).setGport 3 v

/-- A frame of a type with its correct CRC. -/
def gf (type : Nat) (f : GFrame) : GFrame := gSeal { f with type := type, vc := typeVc type }

def frame0 : GFrame := mkFrame 0 0 0 0 0 []

/-- At tick `k`. -/
def atTick (s : State) (k : Nat) : State := { s with clk := k }

/-- A joined module with a frame to serve. -/
def arrived (f : GFrame) (s : State) : State := { s with gl := { s.gl with joined := true, rx := [(24, f, 0)] } }

/-- The recipe that image `[]` holds. -/
theorem recipe_of {s : State} (r : s.svc.recipe = some (0, [])) : s.recipe = recipeOf [] := by
  unfold State.recipe
  rw [r]
  rfl

/-- With a recipe in force whose record is all zeros the module is its passage's entry. -/
theorem entry_of {s : State} (r : s.svc.recipe = some (0, [])) : s.isEntry = true := by
  simp [State.isEntry, State.hasRecipe, State.pIndex, State.prec, recipe_of r, r]
  decide +kernel

/-- The recipe in force is image `[]`. -/
def run0 (s : State) : State := { s with svc := { s.svc with recipe := some (0, []) } }

/-- A MSG of an operation lies at the joined, serving module. -/
def msgAt (op : Nat) : State :=
  arrived (gf 5 { frame0 with op := op, aux := 3, payload := toBytes 8 7 ++ List.replicate 56 0 }) (serving { reqs := [req7] })

/-- What takes a MSG. -/
def taken (s : State) (op : Nat) : Option (Bool × State) := (s.takeMsg op).map fun x => (x.2.1, x.2.2)

/-- A LANTERN message of an operation lies at a member of the view of modules 0 and 1. -/
def lnAt (op : Nat) (f : GFrame) (g : Gallery → Gallery) : State :=
  (((arrived (gf 7 { f with op := op, dest := 0 }) State.reset).set GL_STATUS GL_STATUS.VIEW 1).set GL_MEMBER GL_MEMBER.LEADER 1).modGl
    fun x => g { x with view := [0, 1], weights := [(0, 1), (1, 1)] }

/-- A change that module 0 opened. -/
def change0 : Change := { kind := 1, epoch := 4, addrs := [1], whole := [], since := 0 }

/-- Route entry 1 names port 3, which is UP. -/
def routed (s : State) : State :=
  (s.setGpState 3 gpUp).setReg (GL_ROUTE_INTRA 1)
    (fset (fset (fset (fset (fset 0 GL_ROUTE_INTRA.VALID 1) GL_ROUTE_INTRA.PORT0 3) GL_ROUTE_INTRA.PORT1 31)
      GL_ROUTE_INTRA.PORT2 31) GL_ROUTE_INTRA.PORT3 31)

/-- A member of the view of modules 0 and 1, VIEW at `view`, LEADER at `lead`. -/
def member (view lead : Nat) (g : Gallery → Gallery) : State :=
  ((State.reset.set GL_STATUS GL_STATUS.VIEW view).set GL_STATUS GL_STATUS.LEADER lead).modGl
    fun x => g { x with view := [0, 1], weights := [(0, 1), (1, 1)] }

/-- A TIME frame of an operation lies at port 3, towards the master, module 1. -/
def timeAt (op : Nat) (payload : List Byte) (v : GPortSt) : State :=
  let s := (routed State.reset).set GL_MEMBER GL_MEMBER.LEADER 1
  let f := gf 8 { frame0 with op := op, payload := payload }
  { s with gl := { s.gl with rx := [(3, f, 0)], ports := [(3, v)] } }

/-- Sirdy port 0 in a state. -/
def sPort (st : Nat) (v : SPortSt) : State :=
  { State.reset.set (SY_PORT_STATUS 0) SY_PORT_STATUS.STATE st with sy := { ports := [(0, v)] } }

def sf0 : SFrame := { type := 2, ch := 0, seq := 0, op := 0, tag := 0, aux := 0, payload := [], crc := 0 }

/-- An accepted frame waits at Sirdy port 0 of a serving module. -/
def sArrived (f : SFrame) (d : Disp) : State :=
  { serving d with sy := { ports := [(0, { credits := [99, 99, 99, 99, 99] })], rx := [(0, f)] } }

/-- A submission's frame: three positions announced, one id given. -/
def subFrame (op : Nat) : SFrame :=
  { sf0 with op := op, tag := 5, payload := toBytes 4 0 ++ toBytes 4 3 ++ toBytes 4 9 ++ List.replicate 20 0 ++ toBytes 4 1 }

/-- What takes the frame of an operation of REQ. -/
def takenSy (s : State) (op : Nat) : Option (Nat × SFrame × State) := s.takeSy fun q f => q = 0 && f.ch = 0 && f.op = op

/-- A token record and an event wait at an UP port with credit. -/
def sends : State :=
  let s := (sArrived sf0 { toks := [⟨0, 1, 0, 0, 7, 5, 0, 0, [8], 0⟩], reqs := [req7] }).set
    (SY_PORT_STATUS 0) SY_PORT_STATUS.STATE spUp
  { s with logs := { evts := [⟨0xE001, 0, none, false⟩] } }

/-- A MGMT or CONS frame lies at port 0, which is UP. -/
def mgmt (ch op : Nat) (payload : List Byte) : State :=
  (sArrived { sf0 with ch := ch, op := op, payload := payload } {}).set (SY_PORT_STATUS 0) SY_PORT_STATUS.STATE spUp

/-- What takes the frame of an operation of MGMT. -/
def takenMg (s : State) (op : Nat) : Option (Nat × SFrame × State) := s.takeSy fun _ f => f.ch = 2 && f.op = op

/-- A cask, ready, with one block that holds map unit 0 under write sequence 1. -/
def casked (x : NBlock) (c : Cask → Cask) : State :=
  let s : State := { State.reset with cask := c { blocks := [(0, x)], map := [(0, 1)], seq := 1 }, pw := { State.reset.pw with good := true } }
  ((s.set CK_CTRL CK_CTRL.REFRESH_DAYS 0).set CK_CTRL CK_CTRL.DISTURB_K 0).set LN_BOOT LN_BOOT.STAGE 1

/-- The block's unit. -/
def block0 : NBlock := { units := [(0, 1)] }

/-! The signature of `sig1` has s2 = 1, so it verifies over a message under the key that is the point which the salted message hashes to. -/

/-- The key of `fw0`'s header. -/
def pubFw0 : List Nat :=
  [
    0x6e8a3477d52c5f7fc03312e190cc2915b5c7db02d9b7a0aea573c411b0f6fc02,
    0xf81d1dba42e6b25bad719a58bfebb69baf2788e0ba698965b7148dfae58f6445,
    0xb8441b34c31ea66937a36511071e3cbe107e6a719f0155c6fc4ffb0bba2c1088,
    0xc8146c697018eaefdd64b15deb11ebdd8cf43cc95fd8dd6ac63d77ef8fb89af5,
    0x0db298d4805a6a3fc3c0a6b25ca975d545657e7fa65f3aaea3f5226e410027a7,
    0xf1a80641eb650dce42a8026862c6e753a5c8e998dc9d8a2e2f44b98c5a70b257,
    0x77b2c41c23156ab095a95c5ca65d6be7463b95bdc480d6d92664c142c1750ae5,
    0xb7d294c63ad25f02b16665fca739b06cdf544841a20030949a3aa2853326b216,
    0x589a7d37de89cbcc2c5e927127852663f81f4c0ed5fc0d877efc02797695da8c,
    0x583b9a38534f21850925364c9d772a0c71a52d1b134cf9a71ea8b221401fe17b,
    0x9347bd3865746655b55cc6449252d791b5c12ac53a450a90151b397aea42a928,
    0x6c59214d659800518272edb77584b766364b8ba2667a82e2929542792b6323a0,
    0xc1751d7710106e6c27ead37758d1fe6519e684fa4ee5365dcdf445933ea58574,
    0xa5c32ea2511990335c16a0595c2b54dc87831ca0ef1992dac540a8fa587ae5d0,
    0x2e66fdb6d7aa33139691182a082b353c0f09434b7d16a2271b32520877899c45,
    0xac8097429eeb301e18719bfa7c3537ee5d97a6ab90c5510117e25bf5f110e98c,
    0x7d19132116c148a1ecd525198161f573019299e16dae567bd819f3525ab74160,
    0x66ef2d6694a00b4d75010937f598e1d693ecbfd19295165cb809668d91352e54,
    0xe755f3cf3b55442d648e5ed6ab04eb858aab8a8825ce89f68e2a007ac1907b0e,
    0x6b892084a391dea6b6b5126134050634828f2a7b62978ab605135289557f50d2,
    0x5810e42415c4aa359bad2a3e4c6b9b5a6d3a0c696d3b3f207e407e1e3a48d464,
    0x2fbc09c095931850f2d9d63599ca9dd4a465230ee7084dd3e4eaa10e3a45ffc8,
    0x955674372d71d25e040aae15b5410f6c3b4b36caa79fdef2bb4884704bcf8135,
    0x91bae506cacc8208bbb24fa552266da5f2b3d71812e9694ae10add21d619f7d8,
    0x1a51aaf5cc867cc20aac2e2048848c45b658a0b9a8502dbcd9c125552fedaa61,
    0x1272a903ba9fc112744e967d77e86510a783ef9fb9109a2229066e3d44762082,
    0x1eaa623d2b8b0b5b4328fcc4501f2e077a81b9d691cc0105ee22bcc8ee15b50b,
    0x1772eb31b09e657b439b2160296ee7e54960aef2da372390d00812bacb37eac4,
    0x18f08db0ae2e2e02b03766af41b500c0e3d353292e4f1e53cac3980c56623d51,
    0x94c88365ea3ec244d7b85576fe018180f42992efa8cb945d7a9d5f48d8eacf6c,
    0x01a3b6f2416da5da3fc978e4a01428c98119c9da25b6b797eeed0f26c2542b3d,
    0x02907c591b896412406215bb28bc864c278e20920eeedc5b155ddb4d55e17fc0,
    0xb8d8fd089a1b5cd02447a8a24990433b3511fca5c28f8aea1b23b2044573e3af,
    0xf450022b248d1bcb6a806ebba88fcea6ba5800c55ebc956996cabb95ff81555b,
    0x92efcc4e4d0149c611434e6e79ff5ab7839b350978700693e4b2646882c1d892,
    0x1e4d4d878bc53c4a0ddd21cda5ce00991ca04c11650ec6cda8a301da750112e6,
    0x410ecfbb95c51250217a122cc4702258e84efd26688427fcadb1e909bb1f23b6,
    0xf19eea22ea1c78414ba4eb488b2b815bc0f35b822a05069559d93809855b841a,
    0xdf7797ca1b70f491c00268e93792836f38c87f30ade79ca5985a05971f526f5a,
    0xb6d840edfb95392bb790a599b94e63c80acee615dc6be15685de0f29225834de,
    0xeda9552c4b2a036a8bca4ef0a798ae89887f083a4c2e9c9687f39ca3b982c5cf,
    0x34e48c066f256b4547c4b5357042db8c1ca8655ed7f7a9026fa9d21a87fadec3,
    0xb06082f209820c1cf67e8a2fe4b83d9515905e43258bf2b3593789c74fbec338,
    0x8296038c199fa75ec3d87a00ee5b7508da6cf837d3ed81179e9cce05c0ecb9a3,
    0x8a5b42918d639d8574a0378ecb774ecf3994ae9441c0c8d814e16a8908b08324,
    0x203a90e1731b92c69235d2a0f487238a60e0d40b8049a95eb95e8468ccda0b72,
    0x4522911f460478fefb5a49323461385191952dadc262021fe1fd71a9fbd3619b,
    0x6d38858b052d51cc10ec2df747dd1a2872b78b2099c61668afc0f08db19051e2,
    0x74089f791d85a4faa484cf51568514cca6190cad51625debd20f81f9c1840f6b,
    0x2dd5b167eae0c56335e511b6056252786197c568b7bd5c285187d807a14ee138,
    0x80036d931d63786d55422aa6e191d9499234e13ea2c608630ba42af8069e38a8,
    0xb69a5474df748a1951b163de7f3e84068785657d4d9aa3b14b10444ac5bdf090,
    0x064f024e12eb068b86816a69c2b36c636784302204d6d900fa4dcb066b937114,
    0x7f35b7e7f1b0d49866ea2ce6039e4a00c79e960649b959710c1f358c29352e13,
    0xc61d1c1a52ef8fb834fabe791341fa873a745a01cf134ab446b8eda35a1701ae,
    0x13cc9efb86ae47187755240a7201157b4031440aa4e8c521bbb27eac7280cee9]

/-- The key of `model0`'s header. -/
def pubModel0 : List Nat :=
  [
    0x49ed9c3035026702cea330cc0e2861e67b8a0b8e15ada042b2462d459cb46034,
    0xe1deed7d989274d216ce7ee53a08410fb732e00d41bba5010e75cea97b652744,
    0x12b003d11e755e94e263cad07874eeb773818a2db8d6366ac4d11b6a7e379037,
    0xe8fa04e2cf8390dc0e8c8017e8e9621c8a1018408be8274d2072a6c268c2877d,
    0x26d3ef0ae449ec3271d951429a6136d1fc51c9b648c7b09e58961022f0c73705,
    0xf6a79d6cc31743d38c58f28b384f4b287cc775e65ec50cf191cad9e07b6689aa,
    0xc5778684448d0229844bf03318cb886adf80bfed62bb4427930f4d9c099c4e7c,
    0x73507e183999707e36fd26ac6956ae5d28993f50433e0d2509f3c205bde65192,
    0x8c05a8077cd8ab325eaa034e67d488dcd36349f4d722283d5389b3d6954a9582,
    0x7e7b4692695107e599abc40d87071841b13a43d4785e82c2a16efe6e242a8024,
    0x80a60745bd411c29642b0a526025e3e37f2ab313e94990705418186c6dac71a8,
    0x6bb6a9ef77015ca0f3748f4c4fbdf9f7a383fe6152a9d4f647377bd554d6ab44,
    0x455325d9f6b7d5b5434684f7a49d7eb1b5eb581e6bc030cac465ab5b131c6efa,
    0x9301e4fe61002cb5805953862a82ca83952fbc4179869ead939caa97053819c3,
    0x545c38859a57a23325f5e755a766943c10db222e63bf6a2b73ae08d52f3d36b9,
    0x8d094076faa9331a19b3b106c175d0cb6969b158c1d36a454c708a7a571bb0ab,
    0x49f523b6c5386a58a56ba8589059d275f58c870d81ded21af361ac66593f5bb0,
    0x80c09839f19840d23d53493010286b9d326482f6abcc2f64caf541a948a8b89a,
    0xf5589e5f6f456ca06359aa8180f4447707cdda25a89b18de238289b28166521e,
    0xb5258a21a92bd2997be80cd4e7d2096074992aa291f1681221c99fcf1d3480a2,
    0x49b1144d5959c6cafa610408e5f671c4551930169c30242015a099c854d45b17,
    0x2af4a833652c067945990168104193f4df3a729ff3979165e5bf913e4f0688d2,
    0x3c90a70bfc6a67a26f469f0a7f1708af3e6a8524003fdae911da9b5600646c96,
    0xc2e0a42f2d9d25a19544a3659a2bb14cc6aa6afbbcb0a978ed0d2db8646ff4bd,
    0xc3c3b7e65621916878821ebd64c828e46040d349f64fa3a64d779b9d95ee3e1a,
    0xf5c947cfec18b8b5f7294458a44e7259f613b567905d8b3f4f808274d554b80d,
    0x1c8b0d87a3a824ef678d9abb1357b5a3e0b9118069092526c9a4766db028f51d,
    0xa0fc5fe721f675a0f62f249d32c4281f008b17557bf2fc15d30ae85a840ca6af,
    0x8f49d8c9834b9d5ffe869a91ed3fb71d72e72a039c3a8d433b63dbed83782d75,
    0x8ee7d650ce4ca7f10211370eee29bb403cbd3965979bca0b4e3902bbc9947744,
    0x51f602e616b1178af9416188b6a41d84fa550ab2abc6fe71d5c92a063da3610d,
    0x202dae20a473605f8f97d07ba0f4ae9843713ba4c808483d001e744c189ca8b8,
    0x57d80c2b18b32529d6964d2e75d5950af1249a0052f9caed63fb8bbeb94bb3d9,
    0xe74caa6c90e09f560e1d0c2409254c7215967045ce455d5d6093ca6b972446ea,
    0x47ecd83961e6ce0370e95340edad8389a01dbdda974980105308389a4703ae5e,
    0xb786bae4b8018d8fc9b3a18c5f73a368bfd089c0f7aeee2fa9e31516347ae83a,
    0xdf0ca80200217a16e1ab1029b9b8974566517c36e699686802040cc09063b40f,
    0x865d8059c5899cd662f3b71b2f36426a0937d5501a4dcda1ad5f3b9c701476ef,
    0x90a77e4920519dd88a3bc24d513607682b6e400a834dab91c1e9ba091289456e,
    0xb3f86880a311d5b605e9ad4d585a5ee723d33a304221ba244c957bc2ab3ac663,
    0x453e4191e1f61258bd78420303997275c9462aa38a3b218e0141c8a5a1837104,
    0xc9746204b130f397e7d78053fd3d95d121e75768e7e2476a74b529ace3cfd5d8,
    0x4f667158a9839845b0437416e6cd7d32d90bc6a82551c65558c1e1b848dcad40,
    0xacd7c2113e7685d318588bbe8c41b74d2428059e001198afbf74bf042bac06a9,
    0x3895014792d3b359d293fdc015986cd0396fea9fac9ef190698fb12be66ac040,
    0xa33a682165e246d35e983a4fd35014a2a109f867809e1998d4bb388f91439220,
    0x202471d6ba00e96d8320cfcb5536dde3801ef90d08969b994e541664fad8bfcf,
    0xa02632c0e81f54cc90c649face001975c2417167474f4e94eb05b147cd7e49b5,
    0x90c24a0c798c39e92e41cbb44c36653f987b31b93a0592d467789c590adc60ea,
    0x6a6e906847ec5a1e21feb5616fa23a348149a7172b7a94aa6663c7221afa1c40,
    0x25a8bd4b756d262623a27f12cde48963872156e05ac7c9b79f9d46a97f931f8b,
    0xd556cbe32d4b37a65b42cc2d21b4aa20431bc7364f6276a8531aaa8831d689c8,
    0x2d58416c94c3099823556d3b78b4aaa55995cd663962e2855859b0eae74c3d49,
    0x1e40ddd0829655b9bb6c8b5317318dfada9d484d5edbb303095d191a5756978a,
    0x4880327eb3fc15113be40684f0d6baa4f8c618a1426e8f7ac549a8c835ad62ff,
    0x1ac45b3b3e19f9664ccd460711ca2bd164923e8695e7e88c99007d66f133936c]

/-- The key of `recipe0`'s header. -/
def pubRecipe0 : List Nat :=
  [
    0xb7d508927b65e667fa0d492b9279b8c115d3d82e3671c6580304565c2b541b9a,
    0x1d03e49c5e8cf6efaae04db55344888e507488eda6c90812449481784a10da30,
    0x16b83bce445d9e4deb452e28fc73a9a81698a5ef860119b59d817a692e6ca8c8,
    0x47488d8c3ff4c3a2b733510e67ae22744abdc3e23410ca93b907103cda968282,
    0xe920a584fe925924d26ca1065a7242366fc134bf28fe36ea2af6624cf9d0aa09,
    0xeb94f6d7ebb4146644c86d6054c55fb6e8d1672ec5a1542d7e5aa3509232e510,
    0x90f4ee0e18090babf460c6526ca573561bf5a9662961835a626e599ba3b901e1,
    0x4d75ec699d4d43ba1a1f5b99df5739642bd493e43033ac5cb1a7e9aabe464f81,
    0xcce9e81948c4fa8e82854eadf67158df295faca4b2a0c19829c1e199a61ab501,
    0x11fa61b46ae08726fc9bc38d53823e38019e9f77b248c1a3fb498047d982eab7,
    0x86d2ae685884185861ae9975d8fb93271279390a0ed521569cf3cadf87b885bc,
    0x0b4b65473f15f4f271d98ab7ab01a92b7d9b6aa80961053b6e3427797140411a,
    0x3880c2a9b935d498553ccb1bfb849faede97f42b12397a80e316171648431aa3,
    0x327aced1b91caf3bc396623fb527f56fa5fc95de22a7842dc12e2cb5f0ddc7c1,
    0x877a997bc7d1d313f27052a6119589eed9b2ec50943b8854e42dd434013c9e08,
    0x28c4693e9c9c353d4d60bc489d5243eda729418776d4169f8dd182372bc707b9,
    0xe2da773a4227a338ba427bca7d01dcd79a4509226a3c827272cf1fb182cc4189,
    0xd0936e0eb7e6526523447da2b6e01e3c802c6e67a0e126a91e3989e0c42507f9,
    0xdc29f75783a726a4d0af88e1775eafaabe2348095675d52a6e8c6699d45918ec,
    0xf82e5532562e67dd6a2464d410ee9a43a838c71021842b6406034f21602ac5b1,
    0x69a6586aac05e170b7097d5f6ab3453eeb44585d6e695788870186f264e9131b,
    0x22ced6c370495a869c40e63460186a96503692d59ea9ecbe5744cb594078b55b,
    0x2d24f949d11463771e7f7679d1db7943c57f58d8b0cd8043b09833b3b0d5a027,
    0xa8700034afa5317a0266f85f639fd08a486da14213b936aa1d4cf779b20e419c,
    0x03f3560222ba576fe839b409a752eb189d56fb357eec1cb80113c5c12e0e239c,
    0x482a4acf807be1a1831829199e5ea83381a41409c1c2980e9e6e13c6afe5b657,
    0xe78a74e4f4a110ca7a0a6308f40e2aa00a7de7aaa40076a6fe1654a4291a8e75,
    0x4bbb5b52a18506f42a03647d2544966c22c3142dfd120d9ee864f5e36bd1dfe5,
    0x026028d1601a8151781416a62a715225f141f1944c80512c8a79d9a149d84120,
    0x5f081f6205a963fc4e5c471c1692fbaa48755012386724c99fd852c5841b7217,
    0xf630a2a66d3f1130804ac02f823be159fb82c3838d3a252658441347502b7965,
    0x43f7bc917de46c9ea387de9e0a26dc835a517cf14c6341436a4d1840eb931e74,
    0x3cd78489e55918e96250018c4cfeee4696417c0c20fc704c6d4d5f444fc99f67,
    0x2942f265a89b1b6d452404123ad4c73e01fbb31025e939510e1bf6c3424c693d,
    0xda7fe4e85ea0b7523c426576583d31b746b0b8e51dd4734e90afb813550d5690,
    0x0f869f7941e8be175e09a8dac876a13de45bcad7f709f25ff04a83e7a3ea0f16,
    0xbfe5463f51047616a5c537086fea0fd4ef4f661a730c8cc07be55f20878f036b,
    0x2855d9c614a411edd4d760c54134f5fe615920312fd892eb0c98d8385ee1703c,
    0x9c5c88283e92779b2d46dcfc57194afa24a6e4e8c2e52c3c30ee3572cca88828,
    0xe6e566d5b89a691c78129a855db1ca27a85efa268ab129d466848d99ee16788e,
    0xf785248b081fd1e3016effd7fd922a51f028eb2b5228347c1b37e9632b2a50cd,
    0x297312be5800edb17a4943902d66cba496465d0ee6bb3156e729a0a8779592e3,
    0x8b30b19a1614416e947756d167db44dcf2b1fe0b377a4972e039c1334dc51356,
    0xc493da402801a240610a1e3d908a3c891fa7c1f076ffe1d5732989cadda0b88e,
    0xee50a75a5aa930e42c51c35047b7653a928b6b6370b8d952651f41af7acc707f,
    0x992a32c861f71669d0aef97c3480149668340dea68137a4b1476820006676614,
    0xf2f9d953ed2982403a1226fd306e5ca866c1cc341688a87416bd83a5831a7860,
    0x0eb7c576e60b8cfb8d442851112b5674e19b73bea58983bea664b6d49a17ec83,
    0xbb9520cf42f93537790cd44ff45cca15545f49fd480a97912801a9f5c4a40c17,
    0x4f5cd45bc64643b96003632998d42ca96484ce9c196545f8d291943b6df957f9,
    0x404b5a21cd8de35643fc9f40da2425a3df035d2413561e3a8d34f8c9fe808678,
    0xe94462adea7a6f96f2690088748670cb05026f6155c9e105ba58b2bc093575c8,
    0x2634011efa42ea9191102446996ca6fe555c02c4312fd83eae62a4351a7ca07e,
    0x315568964c79eca2115f0835b3b5ce384f42865eb62fcb626c482e41376161c7,
    0x744dd8840b69e45f1274334344d2c4b1769c2763270f7e51a11ad00aff83cc53,
    0x5a3c91f05d094795a6549c924842b496a6485bce9659fe2b292ae84e0b119240]

/-- The key of `script0`'s header. -/
def pubScript0 : List Nat :=
  [
    0x9a5eb4f036a3b27920316a27dc9c58c2a8a068ee15810c96b605c78296060637,
    0xd6de3b1f9ebbd51ea84ebf9577987b620b2d5856801713cd2fb0a734b5c44993,
    0x7edd4160495520a15a1027111d8fe66dc41d0c5fb4d9ac7b9f65428b04f5d5da,
    0x28796d0666b08c20e784ac4b06396d058dedaf97060a630f9dee526dc8d66779,
    0x928596433e60949dd0540fdc7136744a5c162c68761cd531500b1de188c61b97,
    0xa3b438b498dad09f8864bfd6d5cfdd8f6dcfc425c49d9c99d5baa3a397530697,
    0xe092dc9a86254bd9fddc8ca71617abf74acf57d8f99711e2b548d02f409808e2,
    0x99c5c95b4ed33482557b18b76d645f21266655eac68ad4077586006909f1c4c2,
    0x72225e1fbe88a83a5ac2493935d6eddbee8a49e69246225a3c0111d68ec25021,
    0x6019d83c270109b048b122589a7c99d1915857280510fcab7c0a5d23f80f3036,
    0x0d79624de082a8685f1080f6c3d1ccc1ad7a18c58a48b6764ca9b705dbe82649,
    0x53952e5e720d093384088d2cbc249306482ca89dde87b9cec4122fe55b797bc0,
    0x64219ac203cf16fbbca86503ecee73a47e117660941d4af64fd6c3a37bba9572,
    0xe5a05f1a43a65f40d8c5329d0518d966ea1e9766495b8064c231a1b1e1ba99e0,
    0x7479ad901311fabdacb4f3216ebe6a74f193ff67b29cc608bb7d9d56978cca95,
    0x5cda356052f61b2062043296730a2ae8ef3e147f53d6a30d28f93da3ee1a4c41,
    0xd120a9ae1efd10d5db919ae38c11adbaf22b06b049f2a01487a14043391227e3,
    0xa23d49fee5744f4db432bacf83de5ce233c232e7aa59f38c380499faab87bc06,
    0x8713fbed20954e7639c8696160ee9676705211b87e9c31b08f0960edf26a9d92,
    0xf0b571f4647a49a033dd4512af5fd198f1aec5dcc60f3c5417821592d15d39aa,
    0x0465de74bd2d62b3faac85a085a97587859877c525e62a60ee6b109070962d9d,
    0x932092807f8fe446c8f42771a7e8253e72512cdfb4792079d6120f121b84a7db,
    0x02ef8e3401a66b5903f795ad1310fd1976905e07db9ddbc3b4ec06437a53d7a2,
    0x2aeb845b09c46dbe01aac3206816628673766b41bafd9ae1ac5a1c4f9062ab4c,
    0x8b565b62cd33a4a1a00f09a6c1f80bca6e8698b292061205ac6e616aed157e2c,
    0x8da10694d69b9e926b28efedba1e05428d8b6f353cfef608498a555cb1c0d997,
    0xec830c560bd3c39d8674f2ba65968d1ae179b91acc7b762e1cf32e54b7a9cc33,
    0xd224c62296d5f139facc2f492abab4584143186c0bf3c9ca03ab16825981d402,
    0x7b11a2424950c2abe906f92b82df826261143e5d698df5a2e09245ca4e0ab3d7,
    0x52c5297db14de8fbce489c9d5b02568e86b5baffb37dedf4aaed464969de9915,
    0xbcb05b2e26660e615ba7bb02f8282972858566c7874182d49e14ef2f49476917,
    0xcf0298308109231c6f1d1a6a1294a2a4a7decda041079008cd26b3d257f9846d,
    0xb2471d58256c1e9d93d493933b5924d4519ef1007ef1e6d6df399db11000d698,
    0x5f0c653351d4961405ba8368dc219276a08c12ed95c11fb0d44034e29ea86133,
    0x20c22c9a05cc6b17fb06f64d29e1a39b4c1ab5bcf0a47edbb46369e3d6ea9a0d,
    0x0172edf29d5f2266ec24166eed804b4c2fb4bc95ee101057f70c468732d24f7b,
    0x668c2b013d429a766f78a1f8412a0fd69cb39c78a7a04c1969d2b40601c1f60c,
    0xda162214d8cd9d1e3e8af165b8670854b24882750382598abf2a9ea008fceb39,
    0x1c1035ddfd23dd26650355fd3b8dde33b7c2449217cc949f6dca222d5c0c6c28,
    0xac502e955e38d095738ba64e86ce23751809375b7153678a153192dcd25646c7,
    0x020bce94934ddb6a868c56f2eadab14a19828bb01adc97f992606eaa9685a2e0,
    0x49b4c2d27a06689ba125e56e0811125bdb7f870586b0f2dcbd5c3e2ae4e899ae,
    0x8e60a6879c20c369541743b02dcd4615696268cd472b257a481c43eb27b95777,
    0x0defd0b28015e22ed7f84e5c735181e45209c1c5759683ca16550e6a9ddb7a2c,
    0x8226e4f711f22f3d67ca0181fb1200f822348e09a8e691b4c011b83b584fd0ce,
    0x5e6a3bb26849d529821f1c3bc29eddd73e089834154c3974b69fe858048c6664,
    0x3ec3d7c0c74f9500f13e4da16575ef32e1d1c5183d4b38346d8155b40516de59,
    0xf2ab51d8ca1113010229635059d16590c52a82dee46732a23cfa9d9b7913790b,
    0x830cc0b73cb58f557484f86a19631632176d3766bed08d88802aa68ed9eadbc9,
    0x125d5225d6084e2f1497b2615c24184a23872cae6181a28fd6e607a63f607378,
    0xd340f364fc639bc5edfd8e60b7b8b3c78b0184862aead8738e925d2309c9418e,
    0xc097f0532a3c042c71993e1fbe761002920b90e04f75a11528acc0989eba7a06,
    0xdc5171be8e5353db9a009d08f01bdd5b2b9291b4c380354cac5e559d87791596,
    0x1ae14c11326669f9f597ca6b25567ee9d968439ece4ab57bdb195689a8499acf,
    0x536d11c7a6c5d295ab8407e9861a374a3833403784c17cce3a81c7df513f659f,
    0x4bafa58304c90164f9e4c3bfc2873ba711dbb72ddcb46523fb6026b8b314efe0]

/-- The key of the message of `fusing 1`. -/
def pubFuse : List Nat :=
  [
    0x631eba416c599630296266ed40cb8a52bd3a366e920b38692b7e00a247146010,
    0x5ea64a1d720eb01b23313eca8e556dde52824d5b84bec620a25513a7f9644d55,
    0xf04220bb1c0f0fe824937026332db9b531fc0a72331e78b26e526004e6fc6546,
    0xe92cbcc9229985629e69a47a0b56d22d4f4cccb98c049869a21745d067a1b720,
    0xc0d16141fc793cd0ebde88871bae813409c0177ca5c188bf02347f661b9be90d,
    0x9e19ee4228fcd2fc4e3d39a727ac72962d34118e5f6728813153dc4982216cb2,
    0x41232f5c894092574e1e8759ca947b1762e556907e68168a2e64a0aba43ed53b,
    0x59f8021a550e21b06e3f3526967228c1b2f83a5bdc0f6cee80e3c8a77069d966,
    0xf249d0938ada08f80626175dc1a68719feae700f23a2926fa521ea87091d239e,
    0x4a0b0a360b09b798dca71da7682e5e300bbe2d91b9ee2b56c6159272a4b11496,
    0xa1399f806ce4d75bfb2f627a540c5b6a9cb05698b0865f939c28999616d08c76,
    0x54c7e0af4a813ad9486cde9aaf35301acd52b8bfa2cc67b100d2a0ee840bc12c,
    0x5f2db908e798809c6c2e30e8e48686b84e2ee2e79f6b6701f8b60cdf959744d8,
    0xe36a82811a90869711d5bd48201000e663ba8085e423e56f582a699aa38b8c14,
    0x7f9e3f95c260573da09db2442a7a03547d36ffa851af69b383da642b3d49b894,
    0x772d9985ec4a37bf94a04acdce980069905b9ea70305170cb778b4f1faa9ee04,
    0xf9b8230dcdf000d8d094698144002a58ab2014bc0b2cd92387198b127d094260,
    0x0bcc2020c5e09103870fe1fd511911376b287746010b4d3a4c7579a304bf6476,
    0x0dd70e45fcb08111252a21c96f08bacba36cf96e80169357ef3b067d16720deb,
    0xb18620c399fe190115126b5a961803305692b860cb9f9b7538c32a2bd35ba142,
    0x37506d5766c1658534007f37b46fd0a1e3419c69c4db00eeb608d1ade7a21720,
    0x4a3da6482e5f9e429db79511d12d997663b3a3273988bea8822945b85a969373,
    0x8185ec1b544139a1d2744c9449e156c15153ede6d0d4460e52ec0b6a5beb2889,
    0xe54adb322dc56ac1b23a30870b62e4e0a489cf4f7e3ce72203aac1a4e0be6afe,
    0x8810b755fba74da23978b4bf7535a738be7eb7f68bae497d5aa1510293bb4df5,
    0x56364bef4001a0ea2a4418c1664abff51ee1f93d4936290c88b32dc14a951e5d,
    0xde24e98d219f9119508d7c87a281294f5485b9709cee964cc3535dda6b45c214,
    0x327a2bdb4ed848b24faca2be314b775b6c4004fc9665026ba1750ef2f104dbc5,
    0x2d049795351d346300d1b3079bb01faa687128c3757842b6c4518d902f2627a8,
    0x988acca31891abb5873b5a743fd49c5102244959c35b4ece31ee19e9c9e37050,
    0xfd9928346a16537aca2bd9d27b5a8d6c105c861a6ee6ba17a5ee5e17ea2e64aa,
    0x64de0ad466ea69c59c4d7d466166833c6155647066a36d3da861ebe0a7a63c9d,
    0xa656da644a4bc8a003d313c99adc7b3614c4878ee539473492ee2c194501b58d,
    0x871ff1a445b6a59528b6193085904f7dfa4a0a5d41727d228a78491ec1acd89d,
    0x7300c11434326f79e344cf1105c5dbe49fd63f05bed9a191e59c2d509102148b,
    0x0d9669623d8c511789fb357b922caa0d78d889e59a8fc8ea0a8507cb9400d267,
    0x7c5807a119eb066b151a03b1b1609defe989c5bf4a66a992032aa57abd58a912,
    0x3593550ac0693e956623d2578e57d99126264074aa063fda15afe8a075990311,
    0x941473b51578941aa43f3eab80e986792880cb5815567093d5e5c17d64ca0c64,
    0x5e718c4ae78b50d00b1a668c39640dea61c98e01f401ea3f8380bb454b03cdd3,
    0xf2a4615fe50d68a0470530106deaa25ea85646a144d1042136882ece1f0486b2,
    0x1a3eac1d88d2f5f5c7a26b7dbda40b6fdc47bdc9cbd1674ca18214d2dad24adc,
    0x640cd5823bd5bfb7d868063a630a7d71427bec9497aa55f81710e2f551f2e43a,
    0x3f2c5598ad1c95daa3ee28367cd9fa2891964ac3385b5b1a4ed03af898c31438,
    0xde497b1b4319397123066ac282378a655a53a25d97b9f3db40171b68b82d504f,
    0x295e683e1e04d5d3dba235b410ff297820220a416e12467a12dfe3c799bb2ba9,
    0xc8f1dc14976c9da8f7d4a9215da80098c92ebb803cfb45d94454101612e97251,
    0x6a331927724395a8319c3b404e903365dcf31373af0965681837ed5f549f348a,
    0x80ddecd5584c03243804c48ea0bd313ae73c01be4ef70d6d686eded92acfafa8,
    0x065cf2c391dfa07cb6cc61b447549e25adcbd95e4f8ec90247785894b4ce0ca4,
    0x898467395ce8461ae48516dd0ae41aa9e451f19d45775402573c298357966887,
    0xd670541e004c4b7c890695886225b83a5a028cab6e721da3e8c2cf3a6696c8ca,
    0x5eba8c7edaa8f9124e3ba028055f952616643d74c384755b745ec03e27c72204,
    0xb8129458d614983d572edf2c5a210de0b55f85ba59a4a86d4f328fb04a18c641,
    0x2e55ce3e702ca8d43ae2aa755e154d911a3817c946ab3286ee6115465c4e8dfd,
    0x80c9cf764df1e2426786b545a5120beb5218865946989ad2524f19316b981415]

/-- A key's bytes from its words of 32. -/
def keyBytes (l : List Nat) : List Byte :=
  (0x0A : Byte) :: l.flatMap fun x => (List.range 32).map fun i => BitVec.ofNat 8 (x >>> (8 * (31 - i)))

/-- The signature with salt 0 and s2 = 1. -/
def sig1 : List Byte :=
  let n := (List.range 1023).foldl (fun a _ => a * 512 + 1) 3 * 2 ^ 696
  (0x3A : Byte) :: List.replicate 40 0 ++ (List.range 1239).map fun i => BitVec.ofNat 8 (n >>> (8 * (1238 - i)))

/-- A signature block of a signer slot with a key. -/
def sigBlock (slot : Nat) (pub : List Nat) : List Byte :=
  toBytes 4 0x47533459 ++ [BitVec.ofNat 8 slot, 1] ++ List.replicate 10 0 ++ keyBytes pub ++ List.replicate 15 0 ++ sig1

/-- A header of GENERATION 7 over a section table; the signature lies at `at_`. -/
def header (kind slot at_ count : Nat) (table : List Byte) : List Byte :=
  toBytes 4 0x344E5259 ++ [BitVec.ofNat 8 kind, 1, 0, 0] ++ toBytes 8 (at_ + 3104) ++ toBytes 4 7 ++ toBytes 2 count
    ++ List.replicate 14 0 ++ [BitVec.ofNat 8 slot, 0, 0, 0] ++ digest table ++ toBytes 8 at_ ++ List.replicate 16 0

/-- An image of a kind, of `count` sections and bytes after its table, signed under a key. -/
def image (kind slot count : Nat) (table data : List Byte) (pub : List Nat) : List Byte :=
  let at_ := (128 + table.length + data.length + 7) / 8 * 8
  let h := header kind slot at_ count table
  h ++ table ++ data ++ List.replicate (at_ - 128 - table.length - data.length) 0 ++ sigBlock slot pub

/-- The digests of signer slots 0 and 1 are two numbers; SLOT_VALID is `valid`. -/
def keyed (valid d e : Nat) (s : State) : State :=
  let c : FuseCopy := { valid := valid, digests := [d, e, 0, 0] }
  { s with fuses := { a := c, b := c, c := c } }.showFuses

/-- Objects of one map unit each, by kind and slot, are held from the cask's start. -/
def holding (s : State) (os : List (Nat × List Byte)) : State :=
  { s with cask := {
      s.cask with
      objs := os.mapIdx fun i x => (x.1, { start := i, bytes := x.2, active := true, seq := i + 1 })
      blocks := [(0, { units := (List.range os.length).map fun i => (i, i + 1) })]
      map := (List.range os.length).map fun i => (i, i + 1)
      seq := os.length } }

/-- Power is good, at a STAGE. -/
def staged (k : Nat) (s : State) : State := { s.set LN_BOOT LN_BOOT.STAGE k with pw := { s.pw with good := true } }

/-- A recipe that passes every check of its sections. -/
def plain : Recipe :=
  { (default : Recipe) with complete := true, passage := [0x0000000001000000, 0x0000040400000000], members := [(0, 1)] }

/-- A table entry of every module. -/
def sec (type off : Nat) (data : List Byte) : List Byte :=
  toBytes 2 type ++ [0, 0, 0xFF, 0, 0, 0] ++ toBytes 8 off ++ toBytes 8 data.length ++ digest data ++ List.replicate 8 0

/-- A firmware image. -/
@[irreducible] def fw0 : List Byte := image 1 0 1 (sec 0x0200 224 [1]) [1] pubFw0

/-- A model image with an empty tensor table and no tensor data, signed from slot 1. -/
@[irreducible] def model0 : List Byte := image 3 1 2 (sec 0x0100 320 [] ++ sec 0x0101 320 []) [] pubModel0

/-- The passage record of `recipe0`. -/
def passage0 : List Byte := toBytes 8 0x0000000001000000 ++ toBytes 8 0x0000040400000000 ++ List.replicate 48 0

/-- A recipe image with the required sections, of which the passage record has bytes. -/
@[irreducible] def recipe0 : List Byte :=
  image 2 0 7 (sec 1 800 passage0 ++ ([2, 3, 4, 5, 8, 9].flatMap fun t => sec t 864 [])) passage0 pubRecipe0

/-- A script image. -/
@[irreducible] def script0 : List Byte := image 4 0 1 (sec 0x0300 224 [1]) [1] pubScript0

/-! Digests of the keys that the images carry. -/

def keyFw0 : Nat :=
  0x4ee43fc19356ac6a283175ab43143d7c1bb0e10335ed552032f8d821393c29a7 * 2 ^ 256
  + 0x709456a6980f44744f7546dadad00ca42f4632311ba7e4f623de3141fd5f323b

def keyModel0 : Nat :=
  0x0d70c9aa85799765b46ba7e92af4e4bef73429474a0404e641a98b29776e4778 * 2 ^ 256
  + 0xd376ec069d2749193871634d967c5db28dd7f3876b2923e9e552d023365cc0ea

def keyRecipe0 : Nat :=
  0xf028b681d208de8afa8ca1c2cfb50467124212128b9ee4f69710c4e96120c218 * 2 ^ 256
  + 0xf5da30514fac11c1c1a5e9b42bc8340419190d9fd3d408b600295284197f2375

def keyScript0 : Nat :=
  0xa8bb5d40addffdf6f66623d1ff177705c299a132c31015914ba202bec9f2c4ed * 2 ^ 256
  + 0x3b94500256cc214582318656c4f2575d69b67e2a9cfd8ba3f8c01f6680278217

def keyFuse : Nat :=
  0xd3bb814adc7e1913f1010cad66a8d928940f186dab033078a3029c8720b37ecf * 2 ^ 256
  + 0xa8cc93d096daa83c02829d7bf205708fc0fa040bfe41282925d7717027e5306d

/-- The recipe `[]` is in force; the Gallery is joined; model image 0 is held. -/
def joining : State :=
  keyed 2 0 keyModel0 (holding (run0 ((staged 7 State.reset).set GL_STATUS GL_STATUS.VIEW 1 |>.modGl fun g => { g with joined := true }))
    [(48, model0)])

/-- A module at a STAGE whose firmware runs. -/
def console (k : Nat) : State := staged k State.reset

/-- Recipe 0 is being staged beside its model. -/
def staging : State :=
  keyed 3 keyRecipe0 keyModel0 (holding ((console 9).modSvc fun v => { v with staging := some (0, none) }) [(32, recipe0), (48, model0)])

/-- A transfer of ten bytes to script slot 3, of which three have come. -/
def xfer0 : Xfer := { by_ := .uart, kind := .script, slot := 3, total := 10, got := [1, 2, 3] }

/-- An item lies in the inbound mailbox while a transfer of some bytes is open. -/
def boxed (w : Nat) (total : Nat) : State :=
  let s := (console 9).modSvc fun v => { v with xfer := some { xfer0 with total := total } }
  { s with logs := { fifoIn := [⟨BitVec.ofNat 64 w, 0, none, false⟩] } }

/-- Chamber 0 of a recipe with one step task is being replaced; every other chamber is a spare. -/
def fencing0 : State :=
  run0 (((console 9).modSvc fun v => { v with fencing := some 0 }).set (CH_ROLE 0) CH_ROLE.ROLE 0)

/-- A fuse command of an operation on slot 3, from signer slot 0. -/
def fusing (op : Nat) : List Byte :=
  let m := toBytes 4 0x43533459 ++ toBytes 1 op ++ [3, 0, 0] ++ List.replicate 96 0 ++ List.replicate 64 (if op = 1 then 7 else 0)
  m ++ sigBlock 0 pubFuse

/-- A console with a fuse command loaded, and carried out; signer slots 0 and 3 as SLOT_VALID says. -/
def fused (op valid : Nat) (busy : Bool) : State :=
  let m := fusing op
  (keyed valid keyFuse 0 (console 9)).modSvc fun v =>
    { v with fuseBuf := m, fuseBusy := if busy then some m else none }

/-- The module with its standby controller as `f` says. -/
def powered (f : Power → Power) : State := (console 9).modPw f

/-- A clean line of the tun differs in three bytes from what the channel holds. -/
def noisy : State :=
  { State.reset with
    tun := [(0x10000000, {})]
    tunNoise := [(0x80000000 * 64 + 1, 5), (0x80000000 * 64 + 5, 9), (0x80000000 * 64 + 7, 1)] }

/-- A requester has asked for what its data phase needs and was granted it all. -/
def passing (s : State) (q : ArbReq) (route : List (Nat × Nat)) : State :=
  route.foldl (fun s x => s.arbGrant x.1 x.2) (s.ask q route)

/-- The command that a line spells, or the code with which it is refused. -/
def spelled (c : Session) (l : String) : Option Instr := (lineCmd c (ascii l)).toOption

def refusal (c : Session) (l : String) : Option Nat := match lineCmd c (ascii l) with | .ok _ => none | .error e => some e

/-- The first object that `holding` holds. -/
def obj0 (l : List Byte) : CObj := { start := 0, bytes := l, active := true, seq := 1 }

/-- What of a verification rests on the image alone. -/
def sound (kind : Nat) (l : List Byte) (idx : Nat) : Bool :=
  !imgFormatBad kind l && !imgBlockBad l && falconVerify (sigKey (imgBlock l)) (sigBytes (imgBlock l)) (imgHeader l)
    && digest (imgTable l) == slice l 0x28 64 && !imgTableBad l && (kind != 2 || imgComplete l) && (imgBadSection kind l idx).isNone

/-- What of it rests on the fuses. -/
def trusts (s : State) (kind : Nat) (l : List Byte) : Bool :=
  s.slotBad (imgSigner l) = 0 && s.keyFits (imgBlock l) (imgSigner l)
    && decide (kind = 1 → s.get SC_FUSES SC_FUSES.FW_FLOOR ≤ imgGen l / 2 ^ 24)

theorem verify_none {s : State} {kind idx : Nat} {l : List Byte} (upto : Nat) (a : sound kind l idx = true)
    (b : trusts s kind l = true) : s.verify kind l idx upto = none := by
  simp only [sound, trusts, Bool.and_eq_true, Bool.not_eq_true', beq_iff_eq, decide_eq_true_eq, Option.isNone_iff_eq_none] at a b
  obtain ⟨⟨⟨⟨⟨⟨h1, h2⟩, h3⟩, h4⟩, h5⟩, h6⟩, h7⟩ := a
  obtain ⟨⟨g1, g2⟩, g3⟩ := b
  have h6 : (kind = 2 && !imgComplete l) = false := by
    rcases Bool.or_eq_true _ _ |>.mp h6 with h | h
    · simp [bne_iff_ne.mp h]
    · simp [h]
  have h7' : ¬ (kind = 1 ∧ imgGen l / 2 ^ 24 < s.get SC_FUSES SC_FUSES.FW_FLOOR) := fun h => by have := g3 h.1; omega
  simp only [State.verify, h1, h2, h3, h4, h5, h6, h7, g1, g2, h7', Bool.false_eq_true, ne_eq, not_true_eq_false, Bool.not_true,
    bne_self_eq_false, Bool.or_self, Option.map_none, ite_self, if_false]

theorem sound_fw0 : sound 1 fw0 0 = true := by decide +kernel

theorem sound_model0 : sound 3 model0 0 = true := by decide +kernel

theorem sound_recipe0 : sound 2 recipe0 0 = true := by decide +kernel

theorem sound_script0 : sound 4 script0 0 = true := by decide +kernel

/-- An image that is held, can be read and verifies is fetched. -/
theorem fetch_ok {s : State} {kind slot idx : Nat} {o : CObj} {f : ReadFinds} (a : s.obj kind slot = some o)
    (b : (s.readObj kind slot (imgReads kind o.bytes idx) f).1 = true) (c : sound kind o.bytes idx = true)
    (d : trusts (s.readObj kind slot (imgReads kind o.bytes idx) f).2 kind o.bytes = true) :
    s.fetchImage kind slot idx f = (.ok o.bytes, (s.readObj kind slot (imgReads kind o.bytes idx) f).2) := by
  unfold State.fetchImage
  rw [a]
  simp [b, verify_none 4 c d]

/-- With recipe image `[]` in force the module's index is 0. -/
theorem pIndex_of {s : State} (r : s.svc.recipe = some (0, [])) : s.pIndex = 0 := by
  unfold State.pIndex State.prec
  rw [recipe_of r]
  decide +kernel

/-- The model image that a recipe of its digest binds. -/
theorem model_of {s : State} {r : Recipe} {o : CObj} (x : bits (r.passage.getD 0 0).toNat 23 16 = 0)
    (d : r.modelDigest = digest (imgHeader model0)) (e : s.obj 3 0 = some o) (b : o.bytes = model0) (g : o.damaged = false) :
    s.modelOf r = some (0, o) := by
  have a1 : (imgPart model0 0x0100 0).isSome = true := by decide +kernel
  have a2 : (imgPart model0 0x0101 0).isSome = true := by decide +kernel
  have a3 : (((imgSections model0).filter fun x => x.mine 0).any (secAbsent model0)) = false := by decide +kernel
  unfold State.modelOf
  rw [show List.range 16 = 0 :: (List.range 15).map Nat.succ from List.range_succ_eq_map]
  simp only [List.findSome?_cons, e, x, d, b, g, a1, a2, a3]
  simp

/-- Every rail reads at the lowest value that passes. -/
def railed (s : State) : State :=
  (List.range 6).foldl (fun (s : State) k => s.set (PW_RAIL k) PW_RAIL.MV (railBounds (s.get PW_STATUS PW_STATUS.PACE_NOW) k).1) s

/-! ### Tile instructions at their issue -/

theorem test_nop : (turn 0).issues 0 0 0x00 0 0x1000 ∧ (nx (exec (.nop 0 0) (turn 0))).get (CH_ISSUED 0) count32 = 1 := by
  decide +kernel

theorem test_end : (turn 1).issues 0 0 0x01 1 0x1000 ∧ ((turn 1).task 0 0).window = []
    ∧ (∀ i, i < 2 → (turn 1).slotOpen 0 i = true → ((turn 1).slot 0 i).last.tag ≠ 0)
    ∧ (nx (exec (.end_ 0 0) (turn 1))).tstate 0 0 = tEnded := by decide +kernel

/-- A jump of minus two instructions, and one to the next instruction. -/
theorem test_jump : let w := iw 2 [(32, 2 ^ 32 - 2)]
    (turn w).issues 0 0 0x02 w 0x1000 ∧ jumpTo 0x1000 (signed 32 (wf w 63 32)) ≠ 0x1010
    ∧ (nx (exec (.jump 0 0) (turn w))).get (CH_TASK_PC 0 0) CH_TASK_PC.PC = 0xFF0
    ∧ (turn 2).issues 0 0 0x02 2 0x1000 ∧ jumpTo 0x1000 (signed 32 (wf 2 63 32)) = 0x1010 := by decide +kernel

/-- A bound of 33 in buckets of 16: the third entry, of two instructions each. -/
theorem test_bucket : let w := iw 3 [(12, 4), (17, 7), (32, 2)]
    let s := (turn w).set (CH_BOUND 0 0 0) CH_BOUND.VALUE 33
    s.issues 0 0 0x03 w 0x1000 ∧ (nx (exec (.bucket 0 0) s)).get (CH_TASK_PC 0 0) CH_TASK_PC.PC = 0x1070 := by decide +kernel

theorem test_bucket_zero : let w := iw 3 []
    (turn w).issues 0 0 0x03 w 0x1000 ∧ (nx (exec (.bucket 0 0) (turn w))).get (CH_TASK_PC 0 0) CH_TASK_PC.PC = 0x1010 := by
  decide +kernel

theorem test_setb : let w := iw 4 [(9, 7), (32, 0xFFFFFFFF)]
    (turn w).issues 0 0 0x04 w 0x1000 ∧ (nx (exec (.setb 0 0) (turn w))).bound 0 0 7 = 0xFFFFFFFF := by decide +kernel

theorem test_loadb : let w := iw 5 [(9, 1), (16, 0x20004)]
    let s := memTurn w (toBytes 8 0x0123456789ABCDEF)
    s.issues 0 0 0x05 w 0x1000 ∧ wf w 63 16 % 4 = 0 ∧ rd (s.consume 0 0 (wf w 63 16) 4) = some (toBytes 4 0x01234567)
      ∧ ((s.consume 0 0 (wf w 63 16) 4).2.task 0 0).fetched ≠ []
      ∧ (nx (exec (.loadb 0 0) s)).bound 0 0 1 = 0x01234567 := by decide +kernel

/-- The largest bound that a vector reference takes, and that a descriptor's takes. -/
theorem test_bind : let w := iw 6 [(20, 1), (32, 2 ^ 24 - 1)]
    let v := iw 6 [(17, 4), (12, 31), (32, 2 ^ 20 - 1)]
    (turn w).issues 0 0 0x06 w 0x1000 ∧ (turn v).issues 0 0 0x06 v 0x1000
    ∧ (nx (exec (.bind 0 0) (turn w))).get (FS_VREF1 0 0 0) FS_VREF1.BOUND = 2 ^ 24 - 1
    ∧ dBound ((nx (exec (.bind 0 0) (turn v))).desc 0 0 31) 4 = 2 ^ 20 - 1 := by decide +kernel

theorem test_bind_below_zero : let w := iw 6 [(32, 2 ^ 32 - 1)]
    let u := nx (exec (.bind 0 0) (turn w))
    u.tstate 0 0 = tAborting ∧ (u.task 0 0).abortCode = chBound := by decide +kernel

theorem test_instructionFetch :
    let s := poke (mapped (live0.setTask 0 0 { fetchPc := 0x20000 }) 2 2) 0x20000 (toBytes 16 0x1234)
    s.live 0 0 = true ∧ (s.task 0 0).fetched = [] ∧ (s.task 0 0).fetchPc % 16 = 0
      ∧ rd (s.consume 0 0 0x20000 16) = some (toBytes 16 0x1234)
      ∧ ((nx (exec (.instructionFetch 0 0) s)).task 0 0).head = some ⟨0x20000, some 0x1234⟩ := by
  decide +kernel

theorem test_illegalOpcodeIssue : (turn 0x0F).turnOf 0 0 = true ∧ ((turn 0x0F).task 0 0).head = some ⟨0x1000, some 0x0F⟩
    ∧ assigned 0x0F = none
    ∧ ((nx (exec (.illegalOpcodeIssue 0 0) (turn 0x0F))).task 0 0).abortCode = chIllegalOpcode := by decide +kernel

/-- A privileged SARM behind a SETB. -/
theorem test_privilegedPrefetchIssue : let w := iw 0x20 [(16, 1), (14, 2)]
    let s := live0.setTask 0 0 { fetched := [⟨0x1000, some 4⟩, ⟨0x1010, some w⟩], fetchPc := 0x1020 }
    (s.task 0 0).prefetch = some (0x1010, w, 1) ∧ s.live 0 0 = true ∧ s.get (CH_CTRL 0) CH_CTRL.HOLD = 0
      ∧ (s.task 0 0).window.length < 16 ∧ s.room 0 0 w = true
      ∧ ((nx (exec (.privilegedPrefetchIssue 0 0) s)).eng 0 2).queue.length = 1 := by decide +kernel

/-- A fence over streams waits for a SARM before it, and passes where the window is empty. -/
theorem test_fence : let w := iw 0x10 [(9, 4)]
    let v := iw 0x20 []
    let s := live0.setTask 0 0
      { fetched := [⟨0x1010, some w⟩], fetchPc := 0x1020, nextId := 1, window := [⟨0, 0x1000, v⟩] }
    (turn w).issues 0 0 0x10 w 0x1000 ∧ ((turn w).task 0 0).window = []
      ∧ ((nx (exec (.fence 0 0) (turn w))).task 0 0).wait = .none
      ∧ s.issues 0 0 0x10 w 0x1010 ∧ opcode v ≠ 0x21 ∧ fenceNames (wf w 16 9) (opcode v / 16) = true
      ∧ ((nx (exec (.fence 0 0) s)).task 0 0).wait = .fence 1 := by decide +kernel

/-- A barrier of one arrival passes, the first arrival of two waits for two. -/
theorem test_barrier : let w := iw 0x11 [(16, 1)]
    let v := iw 0x11 [(16, 2)]
    let p := g7Turn w (toBytes 8 0x10)
    let q := g7Turn v (toBytes 8 0x10)
    p.issues 0 0 0x11 w 0x1000 ∧ rd (p.barrierAdd 0 0 0x20000) = some (toBytes 8 0x10)
      ∧ ((p.barrierAdd 0 0 0x20000).2.task 0 0).fetched ≠ []
      ∧ ((nx (exec (.barrier 0 0) p)).task 0 0).wait = .none
      ∧ q.issues 0 0 0x11 v 0x1000 ∧ ((nx (exec (.barrier 0 0) q)).task 0 0).wait = .barrier 0 0x20000 0x12 := by decide +kernel

theorem test_barrierReread : let k := Wait.barrier 5 0x20000 7
    ((waiting k 7).task 0 0).wait = k ∧ (waiting k 7).live 0 0 = true
      ∧ rd ((waiting k 7).consume 0 0 0x20000 8) = some (toBytes 8 7)
      ∧ ((nx (exec (.barrierReread 0 0) (waiting k 7))).task 0 0).window = []
      ∧ rd ((waiting k 6).consume 0 0 0x20000 8) = some (toBytes 8 6)
      ∧ ((nx (exec (.barrierReread 0 0) (waiting k 6))).task 0 0).wait = k := by decide +kernel

theorem test_waitw : let w := iw 0x12 [(16, 0x20000), (80, 7), (120, 3)]
    let p := memTurn w (toBytes 8 7)
    let q := memTurn w (toBytes 8 6)
    p.issues 0 0 0x12 w 0x1000 ∧ wf w 63 16 % 8 = 0 ∧ rd (p.consume 0 0 0x20000 8) = some (toBytes 8 7)
      ∧ ((p.consume 0 0 0x20000 8).2.task 0 0).fetched ≠ []
      ∧ ((nx (exec (.waitw 0 0) p)).task 0 0).wait = .none
      ∧ q.issues 0 0 0x12 w 0x1000 ∧ rd (q.consume 0 0 0x20000 8) = some (toBytes 8 6)
      ∧ ((nx (exec (.waitw 0 0) q)).task 0 0).wait = .waitw 0 0x20000 7 0 3 := by decide +kernel

theorem test_waitwReread : let k := Wait.waitw 5 0x20000 7 0 3
    ((waiting k 7).task 0 0).wait = k ∧ (waiting k 7).live 0 0 = true
      ∧ rd ((waiting k 7).consume 0 0 0x20000 8) = some (toBytes 8 7)
      ∧ ((nx (exec (.waitwReread 0 0) (waiting k 7))).task 0 0).wait = .none
      ∧ ((nx (exec (.waitwReread 0 0) (waiting k 6))).task 0 0).wait = k := by decide +kernel

/-- The timeout at its last tick. -/
theorem test_chWaitTimeout : let s := (waiting (.waitw 5 0x20000 7 0 3) 6).setReg TB_TIME (BitVec.ofNat 64 (microTicks 3))
    s.live 0 0 = true ∧ (s.task 0 0).wait = .waitw 5 0x20000 7 0 3 ∧ microTicks 3 ≤ s.now - 0
      ∧ ((nx (exec (.chWaitTimeout 0 0) s)).task 0 0).abortCode = chWaitTimeout := by decide +kernel

theorem test_sarm : let w := iw 0x20 [(9, 31), (14, 2)]
    (turn w).issues 0 0 0x20 w 0x1000
      ∧ ((nx (exec (.sarm 0 0) (turn w))).eng 0 2).queue.map (fun x => (x.kind, x.desc)) = [(.fill, 31)] := by decide +kernel

/-- SWAIT passes at once where no start of its descriptor waits, and stays while one does. -/
theorem test_swait : let w := iw 0x21 [(9, 3)]
    let q := (((turn w).modTask 0 0 fun k => { k with nextId := 1 }).setEng 0 0
      { queue := [{ kind := .copyRead, id := 0, tag := 0, desc := 3 }] })
    (turn w).issues 0 0 0x21 w 0x1000 ∧ (turn w).noStart 0 0 3 0 = true
      ∧ ((nx (exec (.swait 0 0) (turn w))).task 0 0).window = []
      ∧ q.issues 0 0 0x21 w 0x1000 ∧ q.noStart 0 0 3 1 = false
      ∧ ((nx (exec (.swait 0 0) q)).task 0 0).window.length = 1 := by decide +kernel

/-! ### Lists, the array, chains and gravity at their issue -/

theorem test_merge : let w := iw 0x30 [(9, 1), (14, 2), (20, 3), (32, 5)]
    let v := iw 0x30 [(9, 1), (19, 1), (25, 1), (32, 5)]
    (turn w).issues 0 0 0x30 w 0x1000 ∧ nbit w.toNat 25 = false ∧ (turn w).listFormatBad 0 0 [1, 2, 3] = false
      ∧ ((nx (exec (.merge 0 0) (turn w))).eng 0 2).queue.length = 1
      ∧ (opened (turn v)).issues 0 0 0x30 v 0x1000 ∧ nbit v.toNat 25 = true ∧ (opened (turn v)).listFormatBad 0 0 [1] = false
      ∧ (opened (turn v)).typeDiffers 0 0 (wf v 26 26) = false ∧ (opened (turn v)).get (SP_SESSION 0 0) SP_SESSION.OPEN = 1
      ∧ ((nx (exec (.merge 0 0) (opened (turn v)))).eng 0 0).queue.length = 1 := by decide +kernel

theorem test_scatterIn : let w := iw 0x31 [(9, 1), (32, 5)]
    (opened (turn w)).issues 0 0 0x31 w 0x1000 ∧ (opened (turn w)).typeDiffers 0 0 (wf w 26 26) = false
      ∧ (opened (turn w)).listFormatBad 0 0 [1] = false
      ∧ ((nx (exec (.scatterIn 0 0) (opened (turn w)))).ch 0).lists.length = 1 := by decide +kernel

theorem test_sumpDrain : let w := iw 0x61 [(9, 1)]
    (opened (turn w)).issues 0 0 0x61 w 0x1000 ∧ (opened (turn w)).listFormatBad 0 0 [1] = false
      ∧ (nx (exec (.sumpDrain 0 0) (opened (turn w)))).get (SP_SESSION 0 0) SP_SESSION.OPEN = 0 := by decide +kernel

/-- Descriptor 1 has a format that no list may have. -/
theorem test_listFormat : let m := iw 0x30 [(9, 1), (14, 2), (20, 3), (32, 5)]
    let i := iw 0x31 [(9, 1), (32, 5)]
    let d := iw 0x61 [(9, 1)]
    let bad (w : BitVec 128) : State := (turn w).setDesc 0 0 1 (BitVec.ofNat 512 (5 * 2 ^ 48))
    (bad m).listFormatBad 0 0 [1] = true ∧ wf m 13 9 = 1 ∧ wf i 13 9 = 1 ∧ wf d 13 9 = 1
      ∧ (bad m).issues 0 0 0x30 m 0x1000 ∧ (bad i).issues 0 0 0x31 i 0x1000 ∧ (bad d).issues 0 0 0x61 d 0x1000
      ∧ ((nx (exec (.sumpDrain 0 0) (bad d))).task 0 0).abortCode = chIllegalFormat := by decide +kernel

/-- A session block of type 1 with a spill region of 16 runs. -/
theorem test_sumpOpen : let w := iw 0x60 [(16, 0x20000)]
    let b := toBytes 4 1000 ++ toBytes 4 7 ++ toBytes 4 2 ++ toBytes 2 16 ++ toBytes 1 1 ++ toBytes 1 0 ++ toBytes 6 0x30000
      ++ toBytes 10 0
    let s := memTurn w b
    s.issues 0 0 0x60 w 0x1000 ∧ wf w 63 16 % 32 = 0 ∧ rd (s.consume 0 0 (wf w 63 16) 32) = some b
      ∧ ((s.consume 0 0 (wf w 63 16) 32).2.task 0 0).fetched ≠ []
      ∧ num b 14 1 < 2 ∧ num b 15 1 = 0 ∧ num b 22 10 = 0 ∧ num b 16 6 % 512 = 0
      ∧ (s.consume 0 0 (wf w 63 16) 32).2.get (SP_SESSION 0 0) SP_SESSION.OPEN = 0
      ∧ (nx (exec (.sumpOpen 0 0) s)).get (SP_SESSION 0 0) SP_SESSION.KEY_LIMIT = 1000
      ∧ ((nx (exec (.sumpOpen 0 0) s)).task 0 0).keyStride = 2 := by decide +kernel

/-- An uncompressed instruction of K = 4 that opens slot 0 and drains it; and under policy OFF one with SEL. -/
theorem test_array : let w := iw 0x40 [(37, 1), (41, 1), (62, 1), (67, 2), (72, 4), (21, 1)]
    let v := iw 0x40 [(9, 2), (37, 9), (41, 8), (62, 1), (67, 2), (72, 4), (21, 1), (22, 10), (32, 1)]
    let s := mapped ((turn v).set (GV_CTRL 0 0) GV_CTRL.U 64) 0 2
    (turn w).arrayFault 0 0 w = none ∧ (turn w).issues 0 0 0x40 w 0x1000 ∧ offSel w ((turn w).gvCopy 0 0) = false
      ∧ ((nx (exec (.array 0 0) (turn w))).ch 0).arr.length = 1
      ∧ ((nx (exec (.array 0 0) (turn w))).eng 0 2).queue.length = 1
      ∧ s.arrayFault 0 0 v = none ∧ s.issues 0 0 0x40 v 0x1000 ∧ offSel v (s.gvCopy 0 0) = true
      ∧ ((nx (exec (.array 0 0) s)).eng 0 2).internal.map (fun x => (x.kind, x.id)) = [(.internal, 0)] := by decide +kernel

theorem test_chain : let w := iw 0x50 [(14, 4), (38, 3)]
    cRows w = 3 ∧ (turn w).issues 0 0 0x50 w 0x1000 ∧ ((nx (exec (.chain 0 0) (turn w))).ch 0).chains.length = 1
      ∧ (turn 0x50).issues 0 0 0x50 0x50 0x1000 ∧ cRows 0x50 = 0
      ∧ ((nx (exec (.chain 0 0) (turn 0x50))).task 0 0).window = [] := by decide +kernel

theorem test_gvCheck : let w := iw 0x70 [(15, 1), (23, 4), (18, 15)]
    let s := gvTurn w 0
    s.issues 0 0 0x70 w 0x1000 ∧ gvParamBad (s.gvCopy 0 0) = false ∧ wf w 25 23 ≤ 4 ∧ wf w 21 18 < 2 ^ wf w 25 23
      ∧ ((nx (exec (.gvCheck 0 0) s)).task 0 0).window = [] := by decide +kernel

theorem test_gvJoin : let w := iw 0x71 [(12, 1)]
    (gvTurn w 1).issues 0 0 0x71 w 0x1000 ∧ gvPolicy ((gvTurn w 1).gvCopy 0 0) < 2 ∧ wf w 19 12 ≠ 0
      ∧ ((nx (exec (.gvJoin 0 0) (gvTurn w 1))).task 0 0).window = []
      ∧ (gvTurn w 2).issues 0 0 0x71 w 0x1000 ∧ gvPolicy ((gvTurn w 2).gvCopy 0 0) = 2
      ∧ ((nx (exec (.gvJoin 0 0) (gvTurn w 2))).ch 0).joins.length = 1 := by decide +kernel

/-- A join of one miss word that has MISS; a check that waited and compares nothing. -/
theorem test_gvJoinRead : let w := iw 0x71 [(12, 1)]
    let j : GvJoin := ⟨5, 0, w, {}⟩
    let s := (poke (mapped (inWin w .none) 0 0x80000) 0x800000000 (toBytes 8 0x10001)).modCh 0 fun c => { c with joins := [j] }
    (s.ch 0).joins.find? (fun j => j.tag = 0) = some j ∧ s.live 0 0 = true ∧ j.isJoin = true
      ∧ joined (s.joinRead 0 0 (s.joinVas 0 j)) = some true
      ∧ (nx (exec (.gvJoinRead 0 0) s)).get (GV_MAKEUPS 0 0) count32 = 1 := by decide +kernel

theorem test_gvJoinRead_check : let w := iw 0x70 [(15, 1), (23, 4), (18, 15)]
    let j : GvJoin := ⟨5, 0, w, {}⟩
    let s := (inWin w .none).modCh 0 fun c => { c with joins := [j] }
    (s.ch 0).joins.find? (fun j => j.tag = 0) = some j ∧ s.live 0 0 = true ∧ j.isJoin = false
      ∧ ((nx (exec (.gvJoinRead 0 0) s)).task 0 0).window = [] := by decide +kernel

/-! ### The array, the sump, Flowstone -/

/-- With steps and with none. -/
theorem test_arrayEnter : let a := arrI .read 1 0x40
    let b := arrI .read 0 0x40
    (withArr a).arrayNext 0 = some a ∧ (withArr b).arrayNext 0 = some b
      ∧ (nx (exec (.arrayEnter 0) (withArr a))).slotPhase 0 0 = phFilling
      ∧ (nx (exec (.arrayEnter 0) (withArr b))).slotPhase 0 0 = phChecking := by decide +kernel

/-- The last step of an instruction whose tile has had all of its own, and a cell that takes 3 × 5 into an accumulator of 1. -/
theorem test_arrayStep : let a := { arrI .inArray 1 (iw 0x40 [(37, 1), (41, 1)]) with tiles := [{ per := 0 }] }
    let s := withArr a
    (s.ch 0).arr.find? (fun x => x.phase == .inArray) = some a ∧ s.privFilling 0 = false ∧ s.live 0 0 = true
      ∧ s.arrOf 0 0 5 = some a ∧ (s.stepTiles 0 a).map (·.2) = some []
      ∧ (∃ t ∈ a.tiles, t.run = true ∧ t.gone = false ∧ s.live 0 t.tag = true)
      ∧ (addEntry false false 0 { acc := ⟨0x3F800000, 0⟩ } (some (0, .fin false 15 0))).1.acc.s = 0x41800000 := by
  decide +kernel

/-- The two slots, an instruction whose checks pass, and the ways a drain ends. -/
theorem test_checksComplete :
    let a := { arrI .checking 1 (iw 0x40 [(9, 1), (18, 1)]) with tiles := [{ k := 1, run := false, passed := true }] }
    ((withArr a).ch 0).arr.find? (fun x => x.phase == .checking && aSlot x.word = 1) = some a ∧ (withArr a).live 0 0 = true
      ∧ (nx (exec (.checksComplete 0 1 []) (withArr a))).slotPhase 0 1 = phHeld := by decide +kernel

theorem test_drainComplete : let a := arrI .draining 1 (iw 0x40 [(21, 1)])
    let b := arrI .draining 1 (iw 0x40 [(18, 1), (21, 1), (31, 1)])
    let s := withArr a
    let v := withArr b
    (s.ch 0).arr.find? (fun x => x.phase == .draining && aSlot x.word = 0) = some a ∧ aSel a.word = false ∧ aDest a.word = false
      ∧ s.startOf 0 2 0 5 = none ∧ s.drains 0 0 = true ∧ s.internalDue 0 0 5 3 = false
      ∧ ((nx (exec (.drainComplete 0 0) s)).task 0 0).window = []
      ∧ (v.ch 0).arr.find? (fun x => x.phase == .draining && aSlot x.word = 1) = some b ∧ aDest b.word = true
      ∧ (∀ u ∈ (v.ch 0).updQ, ¬ (u.id = 5 ∧ u.own = 0))
      ∧ ((nx (exec (.drainComplete 0 1) v)).task 0 0).window = [] := by decide +kernel

/-- A drain with SEL first starts the write of its keep word: THRESH with the threshold 0 over estimates of 0 keeps all
of 4 groups. -/
theorem test_drainComplete_select :
    let a := { arrI .draining 1 (iw 0x40 [(9, 2), (21, 1), (32, 1)]) with gv := { ctrl := fset 0 GV_CTRL.U 4 } }
    let s := mapped (withArr a) 0 2
    (s.ch 0).arr.find? (fun x => x.phase == .draining && aSlot x.word = 0) = some a ∧ aSel a.word = true ∧ aDest a.word = false
      ∧ s.startOf 0 2 0 5 = none ∧ s.drains 0 0 = true ∧ a.keep = false
      ∧ (nx (exec (.drainComplete 0 0) s)).internalDue 0 0 5 3 = true
      ∧ (nx (exec (.drainComplete 0 0) s)).get (GV_KEPT 0 0) count32 = 4 := by
  decide +kernel

theorem test_lauterRead : let a := arrI .queued 0 (iw 0x40 [(37, 1), (41, 1)])
    let s := slots2 (withArr a)
    s.lauterNext 0 .queued = some a ∧ (nx (exec (.lauterRead 0) s)).arrOf 0 0 5 ≠ some a := by decide +kernel

theorem test_spargeRegionWaitEnd : let a := arrI .regionWait 0 (iw 0x40 [(37, 1), (41, 1)])
    let s := slots2 (withArr a)
    s.lauterNext 0 .regionWait = some a ∧ (nx (exec (.spargeRegionWaitEnd 0) s)).arrOf 0 0 5 ≠ some a := by decide +kernel

/-- A MERGE of two empty lists whose read starts are over. -/
theorem test_lauterRead_list : let l : ListInstr := { id := 5, tag := 0, pc := 0x1000, word := iw 0x30 [(25, 1)] }
    let s := (opened (inWin l.word .none)).modCh 0 fun c => { c with lists := [l] }
    s.lauterNext 0 .queued = none ∧ s.listNext 0 = some l
      ∧ ((nx (exec (.lauterRead 0) s)).ch 0).lists ≠ (s.ch 0).lists := by decide +kernel

/-- The largest key: into an empty set, into a set full of another tag's entries, and with an uncorrectable way. -/
theorem test_sumpUpdate : let u : Upd := { key := 99, value := 0x40000000, tag := 0, id := 5, own := 0 }
    let s := withUpd u
    let v := fullSet s 99
    (s.ch 0).updQ.find? (fun u => sumpSet (s.ch 0).seed (u.key % 2 ^ 32) % 16 = 3) = some u ∧ s.live 0 0 = true
      ∧ s.keyOut 0 u = false ∧ (applyUpd false (s.sumpWays 0 99) u).out = none
      ∧ (nx (exec (.sumpUpdate 0 3 []) s)).sumpWays 0 99 = [(0, ⟨99, 0x40000000, 0, 0⟩)]
      ∧ (v.ch 0).updQ.find? (fun u => sumpSet (v.ch 0).seed (u.key % 2 ^ 32) % 16 = 3) = some u
      ∧ ((v.sumpEcc 0 99 [(3, false)]).ch 0).spill.length < 63
      ∧ ((nx (exec (.sumpUpdate 0 3 [(3, false)]) v)).ch 0).spill = [⟨99, 0x40000000, 0, 0⟩]
      ∧ (nx (exec (.sumpUpdate 0 3 [(3, false)]) v)).get (SP_ECC_CORR 0) count32 = 1 := by decide +kernel

/-- The first key out of range under TOLERANT. -/
theorem test_sumpUpdate_range : let u : Upd := { key := 100, value := 0x40000000, tag := 0, id := 5, own := 0 }
    let s := (withUpd u).set (CH_TASK 0 0) CH_TASK.POLICY 1
    (s.ch 0).updQ.find? (fun u => sumpSet (s.ch 0).seed (u.key % 2 ^ 32) % 16 = 4) = some u ∧ s.live 0 0 = true
      ∧ s.keyOut 0 u = true ∧ s.tolerant 0 0 = true
      ∧ (nx (exec (.sumpUpdate 0 4 []) s)).get (SP_TOL_RANGE 0 0) count32 = 1 := by decide +kernel

/-- A run of tag 0 whose write is not due stands last. -/
theorem test_spillRunWritten : let r : Run := ⟨0, 1⟩
    let s := (inWin 0 .none).modCh 0 fun c => { c with runs := [r] }
    (s.ch 0).runs = [r] ∧ s.runsDue 0 < (s.ch 0).runs.length
      ∧ ((nx (exec (.spillRunWritten 0) s)).ch 0).runs = [] := by decide +kernel

/-- With an entry of the tag to flush, and with none. -/
theorem test_sumpDrainStart : let l : ListInstr := { id := 5, tag := 0, pc := 0x1000, word := 0x61 }
    let s := (draining fun c => { c with spill := [⟨7, 0x3F800000, 0, 0⟩] }).set (SP_SPILL_USE 0 0) SP_SPILL_USE.CAPACITY 4
    let v := draining id
    (s.ch 0).lists = [l] ∧ opcode l.word = 0x61 ∧ (s.ch 0).sumpDrain = none ∧ s.live 0 0 = true
      ∧ s.lauterBefore 0 0 = false ∧ s.producerBefore 0 0 5 0 = false ∧ s.ready 0 2 0 5 = true ∧ l.done = false
      ∧ (s.flushTag 0 0 5).get (SP_SPILL_USE 0 0) SP_SPILL_USE.USED = 1
      ∧ v.lauterBefore 0 0 = false ∧ v.producerBefore 0 0 5 0 = false ∧ v.ready 0 2 0 5 = true
      ∧ (v.flushTag 0 0 5).live 0 0 = true
      ∧ (v.flushTag 0 0 5).get (SP_SPILL_USE 0 0) SP_SPILL_USE.USED = 0 := by decide +kernel

/-- The last pass over two runs, and one over three (here of size 0, which reads nothing); two runs' entries of one key are
combined. -/
theorem test_sumpMergePass : let d : SumpDrain := { id := 5, tag := 0, runs := 2, size := 0 }
    let e : SumpDrain := { id := 5, tag := 0, runs := 3, size := 0 }
    let s := draining fun c => { c with sumpDrain := some d }
    let v := mapped (draining fun c => { c with sumpDrain := some e }) 0 2
    (s.ch 0).sumpDrain = some d ∧ s.live 0 0 = true ∧ (∀ r ∈ (s.ch 0).runs, r.tag ≠ 0)
      ∧ s.clear (taskReq 0 d.tag 6 d.id) (s.passRoute 0 d) = true ∧ v.clear (taskReq 0 e.tag 6 e.id) (v.passRoute 0 e) = true
      ∧ read1 (s.mergePair 0 d 0) = some [] ∧ ((nx (exec (.sumpMergePass 0) s)).ch 0).sumpDrain = none
      ∧ (v.ch 0).sumpDrain = some e ∧ v.live 0 0 = true ∧ (∀ r ∈ (v.ch 0).runs, r.tag ≠ 0)
      ∧ (v.mergePass 0 e).1.toOption = some ()
      ∧ ((nx (exec (.sumpMergePass 0) v)).ch 0).sumpDrain.map (·.runs) = some 2
      ∧ combineEntries false [(7, 0x3F800000)] [(7, 0x40000000)] = ([(7, 0x40400000)], false) := by decide +kernel

theorem test_chainStart : let s := chainState chain1
    let c := s.chainLoad 0 chain1
    (s.ch 0).chains = [chain1] ∧ chain1.running = false ∧ s.live 0 0 = true ∧ c.bad = none ∧ c.badFormat = false
      ∧ c.last ≠ 0x43 ∧ (∀ i, i < 6 → c.uses i = true → c.badRef i = false) ∧ (feet (s.chainFeet 0 c)).isSome = true
      ∧ ((feet (s.chainFeet 0 c)).any fun f => c.badOverlap f.1) = false
      ∧ ((nx (exec (.chainStart 0) s)).ch 0).chains.map (·.running) = [true] := by decide +kernel

/-- The row's sums are 4 and 6; after it the chain is complete. -/
theorem test_chainRowDone : let s := nx (exec (.chainStart 0) (chainState chain1))
    let c := ((s.ch 0).chains.find? (·.running)).getD chain1
    let v := passing s (taskReq 0 0 5 5) (c.rowRoute 0)
    let u := nx (exec (.chainRowDone 0) v)
    c.parked = false ∧ c.row = 0 ∧ cRows c.word = 1 ∧ s.live 0 0 = true
      ∧ s.regionBusy 0 c.rowReads = false ∧ s.clear (taskReq 0 0 5 5) (c.rowRoute 0) = false
      ∧ v.clear (taskReq 0 0 5 5) (c.rowRoute 0) = true
      ∧ ((chainRow 0 c 0).run (v.arbMoved (taskReq 0 0 5 5) (c.rowRoute 0))).1.toOption = some ()
      ∧ u.bytes 0x800000040 8 = toBytes 8 0x40C0000040800000
      ∧ ((u.ch 0).chains.find? (·.running)).map (·.row) = some 1 ∧ (u.ch 0).updQ = []
      ∧ ((nx (exec (.chainComplete 0) u)).ch 0).chains = [] := by decide +kernel

/-! ### Task contexts -/

theorem test_taskCreate : fget (creating.reg (CH_CREATE0 0)) CH_CREATE0.TAG = 3 ∧ creating.tstate 0 3 = tFree
    ∧ (nx (exec (.taskCreate 0) creating)).get (CH_TASK_PC 0 3) CH_TASK_PC.PC = 0x4000
    ∧ (nx (exec (.taskCreate 0) (creating.setTstate 0 3 tEnded))).get (CH_CMD_STATUS 0) CH_CMD_STATUS.RESULT = 1
    ∧ (creating.setTstate 0 3 tEnded).tstate 0 3 ≠ tFree := by decide +kernel

theorem test_taskRelease : (live0.setTstate 0 0 tEnded).tstate 0 0 = tEnded
    ∧ (nx (exec (.taskRelease 0 0) (live0.setTstate 0 0 tEnded))).tstate 0 0 = tFree
    ∧ live0.tstate 0 0 ≠ tEnded
    ∧ (nx (exec (.taskRelease 0 0) live0)).get (CH_CMD_STATUS 0) CH_CMD_STATUS.RESULT = 2 := by decide +kernel

theorem test_taskAbort : live0.tstate 0 0 = tActive ∧ (nx (exec (.taskAbort 0 0) live0)).tstate 0 0 = tAborting
    ∧ State.reset.tstate 0 0 = tFree
    ∧ (nx (exec (.taskAbort 0 0) State.reset)).get (CH_CMD_STATUS 0) CH_CMD_STATUS.RESULT = 2 := by decide +kernel

theorem test_abortComplete : let s := nx (exec (.taskAbort 0 0) live0)
    s.tstate 0 0 = tAborting ∧ s.drainDue 0 0 = false ∧ (nx (exec (.abortComplete 0 0) s)).tstate 0 0 = tEnded
      ∧ (nx (exec (.abortComplete 0 0) s)).get (CH_TASK 0 0) CH_TASK.END_CODE = chAborted := by decide +kernel

theorem test_taskPreempt : live0.tstate 0 0 = tActive ∧ (live0.task 0 0).wait = .none
    ∧ (nx (exec (.taskPreempt 0 0) live0)).tstate 0 0 = tSaving ∧ State.reset.tstate 0 0 ≠ tActive
    ∧ (nx (exec (.taskPreempt 0 0) State.reset)).get (CH_CMD_STATUS 0) CH_CMD_STATUS.RESULT = 2 := by decide +kernel

theorem test_preemptEnginesStopped : let s := nx (exec (.taskPreempt 0 0) live0)
    s.tstate 0 0 = tSaving ∧ (s.task 0 0).stopped = false ∧ s.enginesStopped 0 0 = true
      ∧ ((nx (exec (.preemptEnginesStopped 0 0) s)).task 0 0).stopped = true := by decide +kernel

theorem test_taskResume : let s := remotePage { State.reset with saves := [(0, img0)] }
    s.tstate 0 0 = tFree ∧ s.get (CH_CREATE1 0) CH_CREATE1.SAVE_BASE = 0
      ∧ (s.translate 0 (s.get (CH_CREATE2 0) CH_CREATE2.XLAT) 0 { r := true }).1.toOption = some (0, 0x3F)
      ∧ kfind s.saves 0 = some img0 ∧ img0.others = [] ∧ (nx (exec (.taskResume 0 0) s)).tstate 0 0 = tRestoring := by
  decide +kernel

theorem test_resumeRestored : kfind (restoring.ch 0).resumeImg 0 = some 0 ∧ kfind restoring.saves 0 = some img0
    ∧ restoring.tstate 0 0 = tRestoring ∧ restoring.get (CH_TASK_SAVE 0 0) CH_TASK_SAVE.SAVE_BASE = 0 := by decide +kernel

theorem test_resumeRestored_read : let r := restoring.readVa 0 0 0 24704 { r := true }
    (rd r).isSome = true ∧ (r.2.restoreSlots 0 0 img0 ((rd r).getD [])).2 = false := by decide +kernel

/-- A stopped task whose image is to go to its save area, the cellar page 2. -/
def saving : State :=
  ((mapped State.reset 0 2).setTstate 0 0 tSaving).setTask 0 0 { stopped := true, saving := true }

theorem test_preemptSaveWritten : saving.tstate 0 0 = tSaving ∧ (saving.task 0 0).stopped = true ∧ (saving.ch 0).runs = []
    ∧ saving.get (CH_TASK_SAVE 0 0) CH_TASK_SAVE.SAVE_BASE = 0 ∧ saving.heldSlots 0 0 = [] := by decide +kernel

theorem saving_length : (saving.saveBytes 0 0).length = 28288 := by
  have h : ∀ i, (saving.heldSlots 0 0).contains i = false := by intro i; rw [test_preemptSaveWritten.2.2.2.2]; rfl
  unfold State.saveBytes
  simp only [h, Bool.false_eq_true, if_false, List.length_append, List.length_flatMap, List.length_replicate, freeBytes,
    List.length_map, List.length_range]
  rfl

/-- What decides a translation and a write at a cellar page. -/
def Same (s u : State) : Prop := u.chambers = s.chambers ∧ u.move = s.move ∧ u.tun = s.tun

theorem storeBytes_same (l : List Byte) : ∀ (s : State) (pa : Nat), Same s (storeBytes s pa l) := by
  induction l with
  | nil => intro s pa; exact ⟨rfl, rfl, rfl⟩
  | cons b r ih => intro s pa; exact ih (s.setByte pa b) (pa + 1)

/-- Writing whole codewords keeps it. -/
theorem writeSpan_same (p : Bool) : ∀ (fuel : Nat) (s : State) (pa : Nat) (l : List Byte), s.tun = [] → pa % 32 = 0 →
    l.length % 32 = 0 → Same s (writeSpan fuel s pa l p) := by
  intro fuel
  induction fuel with
  | zero => intro s pa l _ _ _; exact ⟨rfl, rfl, rfl⟩
  | succ k ih =>
    intro s pa l ht ha hl
    cases l with
    | nil => exact ⟨rfl, rfl, rfl⟩
    | cons b r =>
      have hm : min (b :: r).length (32 - pa % 32) = 32 := by simp only [List.length_cons] at hl ⊢; omega
      have hk : ((b :: r).take 32).length = 32 := by simp only [List.length_take, List.length_cons] at hl ⊢; omega
      have hw : Same s (s.writeCw (pa / 32) (pa % 32) ((b :: r).take 32) p) := by
        rw [State.writeCw, if_pos hk, State.putCw, State.putSeen, if_neg (by rw [State.inTun, ht]; exact Bool.false_ne_true)]
        exact storeBytes_same _ s _
      simp only [writeSpan, hm]
      obtain ⟨h1, h2, h3⟩ := ih (s.writeCw (pa / 32) (pa % 32) ((b :: r).take 32) p) (pa + 32) ((b :: r).drop 32)
        (hw.2.2.trans ht) (by omega) (by simp only [List.length_drop, List.length_cons] at hl ⊢; omega)
      exact ⟨h1.trans hw.1, h2.trans hw.2.1, h3.trans hw.2.2⟩

theorem saving_translate (va : Nat) (h : va < 0x10000) (s : State) (e : s.chambers = saving.chambers) :
    s.translate 0 (s.task 0 0).xlat va { w := true } = (.ok (0x20000 + va, 0x2001F), s) := by
  have hx : (s.task 0 0).xlat = 0 := by unfold State.task State.ch; rw [e]; rfl
  have hc : cached (s.ch 0).tlb 0 va = some (0x2001F, false) := by
    have : tlbKey 0 va false = 0 := by simp [tlbKey]; omega
    unfold cached State.ch
    rw [this, e, show kfind (kget saving.chambers 0 {}).tlb 0 = some 0x2001F by decide +kernel]
    rfl
  have h48 : ¬ 2 ^ 48 ≤ va := by omega
  rw [hx, State.translate, State.lookup]
  simp only [h48, if_false, hc, leafAt, Bool.false_eq_true]
  rw [if_pos (by decide +kernel), show leafPage 0x2001F * 0x10000 = 0x20000 by decide +kernel, Nat.mod_eq_of_lt h]

theorem saving_write : ∀ (fuel : Nat) (s : State) (va : Nat) (l : List Byte), Same saving s → va % 32 = 0 → l.length % 32 = 0 →
    va + l.length ≤ 0x10000 → (writeVaAux fuel s 0 0 va l { w := true } false).1 = none := by
  intro fuel
  induction fuel with
  | zero => intros; rfl
  | succ k ih =>
    intro s va l hs ha hl hb
    cases l with
    | nil => rfl
    | cons b r =>
      have hv : va < 0x10000 := by simp only [List.length_cons] at hb; omega
      rw [writeVaAux]
      · simp only [saving_translate va hv s hs.1, show leafRemote 0x2001F = false by decide +kernel, Bool.false_eq_true, if_false]
        generalize hm : min (b :: r).length (2048 - va % 2048) = m
        have hp : ∀ x, x < 0x20000 → place (0x20000 + x) = .cellar 0 (0x20000 + x) := by
          intro x hx
          simp only [place, if_pos (show 0x20000 + x < 0x000600000000 by omega), Place.cellar.injEq]
          omega
        have ht : s.target (0x20000 + va) m = .ok () := by
          unfold State.target
          rw [hp va (by omega), show 0x20000 + va + m - 1 = 0x20000 + (va + m - 1) by simp only [List.length_cons] at hm; omega,
            hp _ (by omega)]
        have hu : s.touch (0x20000 + va) m (leafHint 0x2001F) true = s := by
          unfold State.touch
          rw [hp va (by omega)]
        have hq : Same s (s.writePa (0x20000 + va) ((b :: r).take m) false) := by
          unfold State.writePa State.moveTwin
          rw [hp va (by omega), hs.2.1]
          exact writeSpan_same _ _ _ _ _ (hs.2.2.trans (by decide +kernel)) (by omega)
            (by simp only [List.length_take, List.length_cons] at hl hm ⊢; omega)
        simp only [ht, hu]
        exact ih _ _ _ ⟨hq.1.trans hs.1, hq.2.1.trans hs.2.1, hq.2.2.trans hs.2.2⟩ (by omega)
          (by simp only [List.length_drop, List.length_cons] at hl hm ⊢; omega)
          (by simp only [List.length_drop, List.length_cons] at hb hm ⊢; omega)
      · intro h
        cases h

theorem test_preemptSaveWritten_write :
    saving.translate 0 (saving.task 0 0).xlat 0 { w := true } = (.ok (0x20000, 0x2001F), saving)
      ∧ (saving.writeVa 0 0 0 (saving.saveBytes 0 0) { w := true } false).1 = none :=
  ⟨saving_translate 0 (by decide) saving rfl,
    saving_write _ _ _ _ ⟨rfl, rfl, rfl⟩ (by decide) (by rw [saving_length]) (by rw [saving_length]; decide)⟩

/-! ### Memory -/

theorem test_xlatWalkDone : let tr : Transfer := { no := 0, els := [0], va := 0x210004, len := 4 }
    let s := tables (moving tr)
    (s.walking 0 0).map (·.2) = some tr ∧ (s.walk 0 tr.va).1.toOption = some (0x1F, true)
      ∧ leafAllows (leafAt 0x1F tr.va true) { r := true } = true
      ∧ kfind ((nx (exec (.xlatWalkDone 0 0) s)).ch 0).tlb (tlbKey 0 0x210000 true) = some 0x1F := by decide +kernel

theorem test_tunFillDone :
    let tr : Transfer := { no := 0, els := [0], va := 0, len := 4, pa := some 0x1000000000, lines := [0x10000000] }
    let s := moving tr
    let q := otherReq (some (s.reqPrio (s.transferReq 0 0 ((s.eng 0 0).active.getD { kind := .sink, id := 0, tag := 0, desc := 0 }) 0))) 12 0x10000000
    let v := passing s q (s.fillRoute 0x10000000)
    (v.lineWaiters 0x10000000).map (fun w => (w.1, w.2.1, w.2.2.2)) = [(0, 0, tr)] ∧ v.inTun 0x10000000 = false
      ∧ v.lineHeld 0x10000000 = false
      ∧ v.clear q (v.fillRoute 0x10000000) = true ∧ s.clear q (s.fillRoute 0x10000000) = false
      ∧ (nx (exec (.tunFillDone 0x10000000) v)).inTun 0x10000000 = true := by decide +kernel

/-- Scrubbing of a store is granted its next codeword. -/
def scrubbing (s : State) (x : ScrubStore) (l : List Upset) : State :=
  passing s (otherReq (some 0) 9 (scrubKey x)) (s.scrubRoute x (kget s.scrubs (scrubKey x) (0, false)).1 l)

/-- The first codeword of a pass and the last, and a pass under way with a period of 0. -/
theorem test_scrubRead : let s := scrubbing (State.reset.set (CL_CTRL 0) CL_CTRL.CELLAR_PERIOD 1) (.cellar 0) []
    let k := scrubWords (.cellar 0) - 1
    let v := scrubbing { State.reset with scrubs := [(0, k, true)] } (.cellar 0) []
    kget s.scrubs (scrubKey (.cellar 0)) (0, false) = (0, false) ∧ s.scrubPeriod (.cellar 0) ≠ 0
      ∧ s.clear (otherReq (some 0) 9 (scrubKey (.cellar 0))) (s.scrubRoute (.cellar 0) 0 []) = true
      ∧ kget (nx (exec (.scrubRead (.cellar 0) []) s)).scrubs 0 (0, false) = (1, true)
      ∧ kget v.scrubs (scrubKey (.cellar 0)) (0, false) = (k, true)
      ∧ v.clear (otherReq (some 0) 9 (scrubKey (.cellar 0))) (v.scrubRoute (.cellar 0) k []) = true
      ∧ kget (nx (exec (.scrubRead (.cellar 0) []) v)).scrubs 0 (0, false) = (0, false) := by decide +kernel

/-- A corrected byte is counted and logged. -/
theorem test_scrubRead_corrected : let s := scrubbing (State.reset.set (CL_CTRL 0) CL_CTRL.CELLAR_PERIOD 1) (.cellar 0) []
    let u := nx (exec (.scrubRead (.cellar 0) [⟨0, 3, 0x80⟩]) s)
    u.get (CL_CORR 0) count32 = 1 ∧ u.byte 3 = 0 ∧ u.get (CL_ERR_LOG 0) CL_ERR_LOG.SCRUB = 1 := by decide +kernel

theorem test_cellarRowCopyEnd : let key := 3 * 4096 + 3087
    let s := passing (State.reset.modCh 0 fun c => { c with retiring := [key] }) (otherReq (some 7) 11 0) [(0, 5)]
    (s.ch 0).retiring = [key] ∧ key / 4096 < 4 ∧ key % 4096 < 3088 ∧ s.clear (otherReq (some 7) 11 0) [(0, 5)] = true
      ∧ ((s.freeSpares 0 3).find? fun k => key % 4096 != 3072 + k) = some 0 := by decide +kernel

theorem test_g7RegionCopyEnd : let s := passing { State.reset with move := some (1, 2, 0) } copyReq copyRoute
    s.move = some (1, 2, 0) ∧ s.inval = none ∧ s.clear copyReq copyRoute = true := by decide +kernel

/-- The second of two regions takes the second register. -/
theorem test_g7RegionRetire : let s := { State.reset with move := some (9, 2, 1) }
    let s := (s.set GM_INVAL_STATUS GM_INVAL_STATUS.DONE 1).set (GM_RETIRE 0) GM_RETIRE.VALID 1
    s.move = some (9, 2, 1) ∧ s.get GM_INVAL_STATUS GM_INVAL_STATUS.DONE = 1 ∧ s.moveWait = []
      ∧ ((List.range 256).find? fun i => s.get (GM_RETIRE i) GM_RETIRE.VALID = 0) = some 1
      ∧ (nx (exec .g7RegionRetire s)).get (GM_RETIRE 1) GM_RETIRE.REGION = 9
      ∧ (nx (exec .g7RegionRetire s)).move = none := by decide +kernel

/-- From rest, and while an invalidation runs. -/
theorem test_gmInval : State.reset.get GM_INVAL_STATUS GM_INVAL_STATUS.BUSY = 0
    ∧ (nx (exec .gmInvalAll State.reset)).inval = some (1, 0, 0, 0)
    ∧ (nx (exec (.gmInvalContext 7) State.reset)).inval = some (2, 7, 0, 0)
    ∧ (nx (exec (.gmInvalRange 7 47) State.reset)).inval = some (3, 7, 47, 0)
    ∧ (nx (exec .gmInvalAll State.reset)).get GM_INVAL_STATUS GM_INVAL_STATUS.BUSY = 1
    ∧ (nx (exec (.gmInvalContext 7) (nx (exec .gmInvalAll State.reset)))).inval = some (1, 0, 0, 0) := by decide +kernel

/-- Of two pages the one in the range goes. -/
theorem test_gmInvalDone : let s := { State.reset with
      inval := some (3, 7, 16, 0x40000), ytlb := [(tlbKey 7 0x30000 false, 1), (tlbKey 7 0x40000 false, 2)] }
    s.inval = some (3, 7, 16, 0x40000) ∧ (nx (exec .gmInvalDone s)).ytlb = [(tlbKey 7 0x30000 false, 1)] := by decide +kernel

theorem test_tunFlush : let s := { State.reset with tun := [(0x10000000, { dirty := true })] }
    let u := nx (exec .tunFlush s)
    let v := passing u flushReq u.flushRoute
    u.flush = [0x10000000] ∧ u.get TN_STATUS TN_STATUS.FLUSHING = 1 ∧ rising s.tun = true
      ∧ v.get TN_STATUS TN_STATUS.FLUSHING = 1 ∧ v.clear flushReq v.flushRoute = true
      ∧ (nx (exec .tunFlushDone v)).cleanLine 0x10000000 = true := by decide +kernel

theorem test_g7Refresh : nx (exec (.g7Refresh 0 true) State.reset) = State.reset := by decide +kernel

/-! ### Streams and arbiters -/

/-- One start at the front of an engine's queue. -/
def queued (e : Nat) (st : Start) (f : Chamber → Chamber) : State :=
  (live0.setEng 0 e { queue := [st] }).modCh 0 f

/-- A descriptor number 3 from fields (lowest bit, value). -/
def withDesc (s : State) (l : List (Nat × Nat)) : State :=
  s.setDesc 0 0 3 (BitVec.ofNat 512 (l.foldl (fun a x => a + x.2 * 2 ^ x.1) 0))

/-- Words of a descriptor are put back as they are read. -/
theorem test_setDesc : let d := BitVec.ofNat 512 (2 ^ 511 + 2 ^ 330 + 2 ^ 200 + 2 ^ 130 + 7)
    (State.reset.setDesc 1023 3 31 d).desc 1023 3 31 = d := by decide +kernel

/-- A start of each kind that an engine may accept. -/
theorem test_startAccept :
    let st (k : StartKind) (ag : Bool) : Start := { kind := k, id := 5, tag := 0, desc := 3, again := ag }
    let arr := fun (c : Chamber) => { c with arr := [arrI .queued 0 0x40] }
    let ok (e : Nat) (x : Start) (f : Chamber → Chamber) : Bool :=
      decide (((queued e x f).eng 0 e).queue = [x]) && (queued e x f).mayMove 0 x && (queued e x f).placeable 0 e x
    let has (s : State) : Bool := ((nx (exec (.startAccept 0 0) s)).eng 0 0).active.isSome
    ok 0 (st (.group 0) false) arr = true ∧ (queued 0 (st (.group 0) false) arr).arrOf 0 0 5 = some (arrI .queued 0 0x40)
      ∧ ok 2 (st .sink false) arr = true ∧ (queued 2 (st .sink false) arr).arrOf 0 0 5 = some (arrI .queued 0 0x40)
      ∧ ok 0 (st (.group 0) false) id = true ∧ (queued 0 (st (.group 0) false) id).arrOf 0 0 5 = none
      ∧ ok 2 (st .sink false) id = true ∧ (queued 2 (st .sink false) id).arrOf 0 0 5 = none
      ∧ ok 2 (st .fill false) id = true ∧ ok 3 (st .receive false) id = true
      ∧ ok 0 (st .copyRead true) id = true ∧ (queued 0 (st .copyRead true) id).arrOf 0 0 5 = none
      ∧ has (queued 0 (st .copyRead true) id) = true := by decide +kernel

/-- A copy of four bytes from descriptor 3 to itself, and a send. -/
theorem test_startAccept_copy : let st : Start := { kind := .copyRead, id := 5, tag := 0, desc := 3 }
    let s := withDesc (queued 0 st id) [(57, 1), (58, 4)]
    let v := withDesc (queued 0 st id) [(63, 1)]
    (s.eng 0 0).queue = [st] ∧ s.mayMove 0 st = true ∧ s.placeable 0 0 st = true ∧ v.placeable 0 0 st = true
      ∧ dCopy (s.desc 0 0 3) = true ∧ sarmReadBad (s.desc 0 0 3) = false
      ∧ (v.eng 0 0).queue = [st] ∧ v.mayMove 0 st = true ∧ dCopy (v.desc 0 0 3) = false := by decide +kernel

/-- A list source of two bytes at page 2, of which none is read; with a credit role its first transfer takes one. -/
def issuing (cred : Nat) (since : Option Nat) : State :=
  let d : BitVec 512 := BitVec.ofNat 512 (0x20000 + 7 * 2 ^ 48 + cred * 2 ^ 139 + 2 * 2 ^ 304 + 2 * 2 ^ 324
    + (2 ^ 344 + 2 ^ 364) + (2 ^ 384 + 2 ^ 404) + (2 ^ 424 + 2 ^ 444) + (2 ^ 464 + 2 ^ 484) + 2 ^ 144)
  let st : Start := { kind := .group 0, id := 5, tag := 0, desc := 3, d := d, todo := [0, 1], creditSince := since, creditOn := 1 }
  (mapped (live0.setEng 0 0 { active := some st }) 2 2).set (ST_CREDIT 0 1) ST_CREDIT.COUNT 1

/-- The start that stands in the ACTIVE slot of engine 0. -/
def act0 (s : State) : Start := ((s.eng 0 0).active).getD { kind := .sink, id := 0, tag := 0, desc := 0 }

/-- Without a credit role; with a credit that is there; with one that is not, where the start waits. -/
theorem test_transferIssue : let s := issuing 0 none
    let st := act0 s
    let v := issuing 2 none
    let q := act0 v
    let w := v.set (ST_CREDIT 0 1) ST_CREDIT.COUNT 0
    s.issuing 0 0 = some (st, .active) ∧ s.mayMove 0 st = true ∧ (s.eng 0 0).outstanding < 6 ∧ st.begun = true
      ∧ st.creditSince = none ∧ (s.nextRun 0 (s.advance 0 st)).els = [0, 1]
      ∧ s.creditDue 0 (s.advance 0 st) (s.nextRun 0 (s.advance 0 st)) = none
      ∧ (act0 (nx (exec (.transferIssue 0 0) s))).out.map (·.pa) = [some 0x20000]
      ∧ v.issuing 0 0 = some (q, .active) ∧ (v.nextRun 0 (v.advance 0 q)).els ≠ []
      ∧ v.creditDue 0 (v.advance 0 q) (v.nextRun 0 (v.advance 0 q)) = some (0, 1)
      ∧ v.get (ST_CREDIT 0 1) ST_CREDIT.COUNT ≠ 0 ∧ v.creditWaiters 0 1 = []
      ∧ (nx (exec (.transferIssue 0 0) v)).get (ST_CREDIT 0 1) ST_CREDIT.COUNT = 0
      ∧ w.creditDue 0 (w.advance 0 q) (w.nextRun 0 (w.advance 0 q)) = some (0, 1)
      ∧ (act0 (nx (exec (.transferIssue 0 0) w))).creditSince = some 0 := by decide +kernel

theorem test_creditWaitEnd : let s := issuing 2 (some 0)
    let st := act0 s
    s.issuing 0 0 = some (st, .active) ∧ st.creditSince = some 0 ∧ s.mayMove 0 st = true ∧ st.creditOn = 1
      ∧ (match s.posOf 0 (s.advance 0 st) (s.advance 0 st).next with | .use .. => true | _ => false) = true
      ∧ s.get (ST_CREDIT 0 1) ST_CREDIT.COUNT ≠ 0 ∧ (∀ w ∈ s.creditWaiters 0 1, 0 ≤ w)
      ∧ (nx (exec (.creditWaitEnd 0 0) s)).get (ST_CREDIT 0 1) ST_CREDIT.COUNT = 0 := by decide +kernel

/-- The transfer that was issued: it asks; its grants held, it brings its elements. -/
theorem test_transferComplete : let s := nx (exec (.transferIssue 0 0) (issuing 0 none))
    let st := act0 s
    let tr := st.out.headD { no := 9, els := [], va := 0, len := 0 }
    let v := tr.route.foldl (fun (s : State) r => s.arbGrant r.1 r.2) s
    s.findTransfer 0 0 0 = some (st, tr, .active) ∧ s.transferAble 0 0 st tr = true
      ∧ s.clear (s.transferReq 0 0 st tr.no) tr.route = false
      ∧ v.findTransfer 0 0 0 = some (st, tr, .active) ∧ v.transferAble 0 0 st tr = true
      ∧ v.clear (v.transferReq 0 0 st tr.no) tr.route = true
      ∧ (((nx (exec (.transferComplete 0 0 0 []) v)).eng 0 0).active.map (·.out.length)).getD 0 = 0 := by decide +kernel

/-- Chamber 0 alone is a member of group 0, and has armed. -/
theorem test_multicastRun : let st : Start := { kind := .send, id := 5, tag := 0, desc := 3, begun := false }
    let s := { (live0.setEng 0 0 { active := some st }).setReg (ST_MEMBER 0 0) 1 with arm := [(0, 1)] }
    (s.eng 0 0).active = some st ∧ s.live 0 0 = true ∧ dMgroup st.d = 0 ∧ dRegion st.d = 0
      ∧ s.members 0 = [0] ∧ kget s.arm 0 0 = 1
      ∧ (nx (exec (.multicastRun 0 0) s)).regState 0 0 = regFilling := by decide +kernel

/-- The last element of a region of one, whose bytes lie nowhere; one that comes after it; one of another multicast; one
whose unit has to
take a credit. -/
theorem test_spargeElementArrive :
    let el : Nat × (Nat × Bool) := (4, (7, false))
    let s := (live0.setRegion 0 0 { count := 1, mc := some 4, inq := [el] }).set (ST_REGION 0 0) ST_REGION.STATE regFilling
    let v := s.setRegion 0 0 { count := 1, got := 1, mc := some 4, inq := [el] }
    let z := s.setRegion 0 0 { count := 1, mc := some 5, inq := [el] }
    let d : BitVec 512 := BitVec.ofNat 512 (2 * 2 ^ 139 + 1 * 2 ^ 144)
    let w := (s.setRegion 0 0 { d := d, count := 1, mc := some 4, inq := [el] }).set (ST_CREDIT 0 1) ST_CREDIT.COUNT 1
    let q := taskReq 0 (s.get (ST_REGION 0 0) ST_REGION.TAG) 7 0
    (s.region 0 0).inq = [el] ∧ (s.region 0 0).mc = some 4 ∧ s.regState 0 0 = regFilling ∧ (s.region 0 0).priv = false
      ∧ (s.region 0 0).got < (s.region 0 0).count ∧ dCredRole (s.region 0 0).d = 0
      ∧ ((s.region 0 0).bytesAt 0 (7, false)).isEmpty = true ∧ s.clear q [] = true
      ∧ (nx (exec (.spargeElementArrive 0 0) s)).get (ST_REGION 0 0) ST_REGION.RECEIVED = 1
      ∧ (v.region 0 0).count ≤ (v.region 0 0).got
      ∧ (nx (exec (.spargeElementArrive 0 0) v)).get (ST_SPARGE_DROP 0) count32 = 1
      ∧ (z.region 0 0).mc ≠ some 4 ∧ (nx (exec (.spargeElementArrive 0 0) z)).get (ST_SPARGE_DROP 0) count32 = 1
      ∧ dCredRole d = 2 ∧ creditTake d = 1 ∧ (w.region 0 0).units.contains (dUnit d 0) = false ∧ w.creditWaiters 0 1 = []
      ∧ w.get (ST_CREDIT 0 1) ST_CREDIT.COUNT ≠ 0
      ∧ ((nx (exec (.spargeElementArrive 0 0) w)).region 0 0).units = [dUnit d 0] := by decide +kernel

theorem test_spargeDeliveryEnd : let m : Mcast := ⟨255, 15, (1, 0, 5), [0], true⟩
    let s := { (live0.set (ST_REGION 0 15) ST_REGION.STATE regFilling).setRegion 0 15 { mc := some 3 } with mcast := [(3, m)] }
    (s.mcast.find? fun m => m.2.group = 255 && m.2.region = 15 && s.mcastOver m) = some (3, m)
      ∧ (nx (exec (.spargeDeliveryEnd 255 15) s)).regState 0 15 = regComplete := by decide +kernel

/-- The watchdog at its last tick. -/
theorem test_stallWatchdogBite :
    let s := (live0.set (ST_CTRL 0) ST_CTRL.WDOG_TIMEOUT 1).modTask 0 0 fun k => { k with stall := microTicks 1 }
    s.get (ST_CTRL 0) ST_CTRL.WDOG_TIMEOUT ≠ 0 ∧ s.live 0 0 = true
      ∧ microTicks (s.get (ST_CTRL 0) ST_CTRL.WDOG_TIMEOUT) ≤ (s.task 0 0).stall
      ∧ ((nx (exec (.stallWatchdogBite 0 0) s)).task 0 0).abortCode = stStall := by decide +kernel

/-- Input 2 of the arbiter of chamber 0's class 1 asks; it is idle, then held by input 3, whose request is gone. -/
theorem test_arb : let r : ArbReq := { input := 2, prio := none, ch := some 0, tag := 0, eng := 0, no := 0, since := 0 }
    let s := live0.setArb 1 { reqs := [r] }
    let v := live0.setArb 1 { reqs := [r], holder := some 3, winner := some 2 }
    s.arbChoice (s.arb 1) = some 2 ∧ (s.arb 1).forced = none ∧ s.retraining 1 = false ∧ (s.arb 1).holder = none
      ∧ ((nx (exec (.arbPhase (.chamber 0 1)) s)).arb 1).holder = some 2
      ∧ v.arbChoice (v.arb 1) = some 2 ∧ (v.arb 1).forced = none ∧ (v.arb 1).holder ≠ none
      ∧ (∀ r ∈ (v.arb 1).reqs, r.input = 3 → r.moved = true) ∧ (v.arb 1).winner = some 2
      ∧ ((nx (exec (.arbRequestDrop (.chamber 0 1)) v)).arb 1).holder = some 2 := by decide +kernel

/-- The hold watchdog at its last tick, and what follows it. -/
theorem test_holdWatchdogBite :
    let r : ArbReq := { input := 3, prio := none, ch := some 0, tag := 0, eng := 0, no := 0, since := 0 }
    let s := ((live0.setArb 1 { reqs := [r], holder := some 3 }).set AB_CTRL AB_CTRL.HOLD_TIMEOUT 1).setReg TB_TIME 1000
    let u := nx (exec (.holdWatchdogBite (.chamber 0 1)) s)
    (s.arb 1).holder = some 3 ∧ s.get AB_CTRL AB_CTRL.HOLD_TIMEOUT ≠ 0
      ∧ microTicks (s.get AB_CTRL AB_CTRL.HOLD_TIMEOUT) ≤ s.now - (s.arb 1).lastMove ∧ (s.arb 1).forced = none
      ∧ s.retraining 1 = false ∧ (s.arb 1).reqs.filter (fun q => q.input = 3 && !q.moved) = [r] ∧ s.live 0 0 = true
      ∧ (u.task 0 0).abortCode = abHold ∧ (u.arb 1).forced = some s.clk
      ∧ (arbClass 1, 0) ∉ u.svc.wedges ∧ ((nx (exec (.forcedReleaseDone (.chamber 0 1)) u)).arb 1).holder = none := by
  decide +kernel

/-- The abort timeout of a task and of a release at their last tick, at which the resource of the other two kinds is
wedged too. -/
theorem test_abortTimeout : let s := { (live0.setTstate 0 0 tAborting) with clk := microTicks 31 }
    let v := { ((State.reset.set LN_SVC_CTRL LN_SVC_CTRL.AUTO_RESET 0).setArb 4223 { holder := some 3, forced := some 0 }).setArb 4287
        { holder := some 3, forced := some 0 } with
      clk := microTicks 31 }
    s.tstate 0 0 = tAborting
      ∧ microTicks (s.get LN_SVC_CTRL LN_SVC_CTRL.ABORT_TIMEOUT) ≤ s.clk - (s.task 0 0).abortSince ∧ (7, 0) ∉ s.svc.wedges
      ∧ (nx (exec (.abortTimeout (.task 0 0)) s)).svc.wedges = [(7, 0)]
      ∧ (v.arb 4223).forced = some 0 ∧ (v.arb 4287).forced = some 0
      ∧ microTicks (v.get LN_SVC_CTRL LN_SVC_CTRL.ABORT_TIMEOUT) ≤ v.clk - 0
      ∧ (nx (exec (.abortTimeout (.release (.bank 127))) v)).svc.wedges = [(4, 127)]
      ∧ (nx (exec (.abortTimeout (.release (.channel 63))) v)).svc.wedges = [(5, 63)] := by decide +kernel

/-! ### Passages -/

/-- Two headers have come; the second is named. -/
theorem test_stepHeaderArrive : let s := serving { inbox := [(9, stepHdr 0 1), (3, stepHdr 0 0)] }
    (s.disp.inbox.findIdx? fun x => x.1 = 3) = some 1
      ∧ (nx (exec (.stepHeaderArrive 3) s)).disp.queue = [(9, stepHdr 0 1), (3, stepHdr 0 0)] := by
  decide +kernel

/-- The step of the higher CLASS is chosen; a preempted step that none outranks runs again; a running PREFILL step of
lower class
gives way; a chosen step is prepared. -/
theorem test_stepChoose : let q := [(3, stepHdr 0 2), (4, stepHdr 0 5)]
    let s := serving { queue := q }
    let r := serving { paused := [((1, stepHdr 2 0), 7)] }
    let v := serving { queue := q, running := some (1, stepHdr 2 0) }
    let w := serving { chosen := some (4, stepHdr 0 5) }
    s.disp.chosen = none ∧ s.dispFree = true ∧ s.disp.running = none ∧ s.outranked = true
      ∧ bestStep s.disp.queue = some (4, stepHdr 0 5) ∧ (nx (exec .stepChoose s)).disp.chosen = some (4, stepHdr 0 5)
      ∧ r.disp.chosen = none ∧ r.dispFree = true ∧ r.disp.running = none ∧ r.outranked = false ∧ r.savingPrefill = false
      ∧ (nx (exec .stepChoose r)).disp.running = some (1, stepHdr 2 0)
      ∧ v.disp.chosen = none ∧ v.dispFree = true ∧ v.disp.running = some (1, stepHdr 2 0) ∧ hdrKind (stepHdr 2 0) = 2
      ∧ hdrClass (stepHdr 2 0) < hdrClass (stepHdr 0 5)
      ∧ (nx (exec .stepChoose v)).disp.paused.map (·.1) = [(1, stepHdr 2 0)]
      ∧ w.disp.prepared = false ∧ w.savingPrefill = false ∧ w.clear prepReq (w.prepRoute 4 (stepHdr 0 5)) = true
      ∧ (nx (exec .stepChoose w)).disp.prepared = true := by decide +kernel

theorem test_stepDeliver : let s := serving { chosen := some (3, stepHdr 0 0), prepared := true }
    s.disp.chosen = some (3, stepHdr 0 0) ∧ s.disp.prepared = true ∧ s.dueAt (stepHdr 0 0) ≤ s.now
      ∧ s.clear writeReq (s.working.flatMap fun w => s.dispRoute w.1 w.2 s.pHdr 64 true) = true
      ∧ (nx (exec .stepDeliver s)).disp.chosen = none := by decide +kernel

theorem test_stepEnd : let s := serving { running := some (3, stepHdr 0 0) }
    s.disp.running = some (3, stepHdr 0 0) ∧ s.endCounter.1 = 0 ∧ s.disp.target ≤ 0
      ∧ (∀ d ∈ s.stepOwn (stepHdr 0 0), s.taskFailed d = false)
      ∧ (nx (exec .stepEnd s)).disp.running = none := by decide +kernel

theorem test_stepFail_renew : let s := serving { renew := [true] }
    s.lookFailed.disp.renew ≠ [] ∧ (nx (exec .stepFail s)).disp.renew = [] := by decide +kernel

/-- `Config.recipe` is a free value, so the witness names what it answers for one image. -/
theorem test_stepFail_task (h : (Config.recipe []).tasks = [task0]) :
    failing.gl.failedTo = [] ∧ failing.disp.renew = [] ∧ ∃ d ∈ failing.tasksOf task0.prefill, failing.taskFailed d = true := by
  refine ⟨by decide +kernel, by decide +kernel, task0, ?_, by decide +kernel⟩
  have e : failing.stepTasks = (Config.recipe []).tasks.map fun d => { d with ch := failing.placeOf d.ch } := by
    unfold State.stepTasks
    rw [recipe_of rfl]
    rfl
  unfold State.tasksOf
  rw [e, h]
  decide +kernel

theorem test_tokenIdsArrive : let msg := toBytes 8 77 ++ toBytes 4 2 ++ toBytes 4 8 ++ toBytes 4 2 ++ toBytes 4 5
    let s := serving { idMsgs := [(3, msg)], tickets := [(3, (7, 1))], reqs := [req7] }
    kfind s.disp.idMsgs 3 = some msg ∧ s.disp.stale.contains 3 = false ∧ kfind s.disp.tickets 3 = some (7, 1)
      ∧ (s.disp.reqs.find? fun r => r.id = 7) = some req7 ∧ req7.cancelled = false
      ∧ idsOf msg = ([8, 2], [5]) ∧ [(8 : BitVec 32), 2].take 1 ≠ []
      ∧ (nx (exec (.tokenIdsArrive 3 [8] []) s)).disp.idMsgs.length = 1
      ∧ (nx (exec (.tokenIdsArrive 3 [8, 2] [5]) s)).disp.toks.map (·.ids) = [[8]]
      ∧ (takeIds req7 [8, 2, 4]).1 = [8, 2] := by decide +kernel

/-! ### The Gallery -/

theorem test_glLinkCtrl : let s := portIn gpUp { replay := [{ gf 7 frame0 with lseq := 5 }, { gf 7 frame0 with lseq := 6 }] }
    let f := gSeal { frame0 with dest := linkLocal, tag := 5 + 2 ^ 12 + 2 ^ 13, pa := 9 }
    let u := nx (exec (.glLinkCtrl 3 ⟨f, ⟨0, 0⟩⟩) s)
    s.gpState 3 = gpUp ∧ f.type = 0 ∧ f.crc = gCrc f ∧ gLocal f = true ∧ f.tag / 2 ^ 14 + f.lseq % 2 * 4 = 0
      ∧ (s.gport 3).txq = [] ∧ nbit f.tag 13 = true ∧ 1 < s.get GL_CTRL GL_CTRL.RETRY_LIMIT
      ∧ (u.gport 3).replay.map (·.lseq) = [6] ∧ u.gl.out.map (·.2.lseq) = [6] ∧ (u.gport 3).credits = [9, 0, 0, 0] := by
  decide +kernel

/-- The NAK that reaches the limit; a bad CRC and codewords that could not be corrected; a going-down notice. -/
theorem test_glLinkCtrl_other : let s := portIn gpUp { nakCount := 7, nakSeq := 5 }
    let nak := gSeal { frame0 with dest := linkLocal, tag := 5 + 2 ^ 13 }
    let bad := { frame0 with crc := gCrc frame0 + 1 }
    let down := gSeal { frame0 with dest := linkLocal, tag := 2 ^ 14 }
    s.gpState 3 = gpUp ∧ nak.crc = gCrc nak ∧ gLocal nak = true ∧ nak.tag / 2 ^ 14 = 0 ∧ nbit nak.tag 13 = true
      ∧ s.get GL_CTRL GL_CTRL.RETRY_LIMIT ≤ 8
      ∧ (nx (exec (.glLinkCtrl 3 ⟨nak, ⟨0, 0⟩⟩) s)).get (GL_PORT_STATUS 3) GL_PORT_STATUS.LAST_DOWN = 3
      ∧ bad.crc ≠ gCrc bad ∧ (nx (exec (.glLinkCtrl 3 ⟨bad, ⟨4, 2⟩⟩) s)).get (GL_PORT_CRC 3) count32 = 1
      ∧ (nx (exec (.glLinkCtrl 3 ⟨bad, ⟨4, 2⟩⟩) s)).get (GL_PORT_FEC_UNCORR 3) count32 = 2
      ∧ down.crc = gCrc down ∧ gLocal down = true ∧ down.tag / 2 ^ 14 + down.lseq % 2 * 4 ≠ 0
      ∧ (nx (exec (.glLinkCtrl 3 ⟨down, ⟨0, 0⟩⟩) s)).gpState 3 = gpTraining := by decide +kernel

/-- In sequence; past the next; with a bad CRC; stomped in sequence and not. -/
theorem test_glFrameReceive : let s := portIn gpUp { expect := 4095 }
    let f := gf 7 { frame0 with lseq := 4095 }
    let skip := gf 7 { frame0 with lseq := 1 }
    let bad := { skip with crc := gCrc skip + 1 }
    let stomp := { skip with crc := ~~~gCrc skip }
    let inSeq := { f with crc := ~~~gCrc f }
    let o (f : GFrame) : State := nx (exec (.glFrameReceive 3 ⟨f, ⟨0, 0⟩⟩) s)
    s.gpState 3 = gpUp ∧ 2 ≤ f.type ∧ f.crc = gCrc f ∧ f.crc ≠ ~~~gCrc f ∧ f.lseq = (s.gport 3).expect ∧ gLegal f = true
      ∧ f.dest = s.addr ∧ gKnown f = true ∧ ((o f).gport 3).expect = 0
      ∧ skip.crc = gCrc skip ∧ skip.crc ≠ ~~~gCrc skip ∧ skip.lseq ≠ (s.gport 3).expect
      ∧ seqBehind skip.lseq (s.gport 3).expect = false ∧ (s.gport 3).lost = false ∧ ((o skip).gport 3).lost = true
      ∧ bad.crc ≠ gCrc bad ∧ bad.crc ≠ ~~~gCrc bad ∧ (o bad).get (GL_PORT_CRC 3) count32 = 1
      ∧ 2 ≤ stomp.type ∧ stomp.crc = ~~~gCrc stomp ∧ stomp.lseq ≠ (s.gport 3).expect
      ∧ (o stomp).get (GL_PORT_STOMP 3) count32 = 1 ∧ inSeq.crc = ~~~gCrc inSeq ∧ inSeq.lseq = (s.gport 3).expect
      ∧ ((o inSeq).gport 3).expect = 0 := by decide +kernel

theorem test_glTimers : let s := atTick (portIn gpUp { ackDue := true, zeroSince := [some 0, none, none, none] }) 200000
    let h := portIn gpHello {}
    let f := gf 1 { frame0 with dest := linkLocal, payload := (List.range 16).map fun k => if k = 5 then 1 else 0 }
    let l := atTick h 1000000
    s.gpState 3 = gpUp ∧ (s.gport 3).ackDue = true ∧ ((nx (exec (.glAckDue 3) s)).gport 3).ackDue = false
      ∧ 1000 ≤ s.clk - (s.gport 3).lastTx ∧ (nx (exec (.glKeepalive 3) s)).gl.out.length = 1
      ∧ s.glStalled 3 = true ∧ (nx (exec (.glCreditStall 3) s)).gpState 3 = gpHold
      ∧ h.gpState 3 = gpHello ∧ (nx (exec (.glHelloSend 3) h)).gl.out.map (·.2.type) = [1]
      ∧ f.type = 1 ∧ f.crc = gCrc f ∧ gLocal f = true ∧ (nx (exec (.glHello 3 ⟨f, ⟨0, 0⟩⟩) h)).gpState 3 = gpChecking
      ∧ l.gpState 3 = gpHello ∧ ms 10 ≤ l.clk - (l.gport 3).lastHello.getD ((l.gport 3).trainSince.getD 0)
      ∧ (nx (exec (.glHelloLost 3) l)).gpState 3 = gpTraining := by decide +kernel

theorem test_glPorts : let t := portIn gpTraining {}
    let m := atTick (portIn gpMiswired {}) (ms 1000)
    let up := atTick (portIn gpUp { nakCount := 9, zeroSince := [some 0, none, none, none] }) 200000
    let h := portIn gpHold {}
    let o := portIn gpOff {}
    t.gpState 3 = gpTraining ∧ laneWidth 12 = 1 ∧ (t.gport 3).trainSince.getD 0 ≤ t.clk
      ∧ (nx (exec (.glTrainingDone 3 12) t)).get (GL_PORT_STATUS 3) GL_PORT_STATUS.WIDTH = 1
      ∧ (atTick t (ms 100)).gpState 3 = gpTraining ∧ ((atTick t (ms 100)).gport 3).trainSince.getD 0 + ms 100 ≤ ms 100
      ∧ m.gpState 3 = gpMiswired ∧ ms 1000 ≤ m.clk - (m.gport 3).checkedAt
      ∧ (nx (exec (.glMiswiredRecheck 3) m)).gl.out.map (·.2.type) = [7]
      ∧ up.gpState 3 = gpUp ∧ 10000 ≤ up.clk - (up.gport 3).lastRx
      ∧ 0 < (up.gport 3).nakCount ∧ up.get GL_CTRL GL_CTRL.RETRY_LIMIT ≤ (up.gport 3).nakCount ∧ up.glStalled 3 = true
      ∧ (nx (exec (.glPortDown 3 .retryLimit) up)).get (GL_PORT_STATUS 3) GL_PORT_STATUS.LAST_DOWN = 3
      ∧ h.gpState 3 = gpHold ∧ (h.gport 3).holdUntil ≤ h.clk ∧ (nx (exec (.glHoldExpire 3) h)).gpState 3 = gpTraining
      ∧ (nx (exec (.glRecal 3) up)).gpState 3 = gpTraining
      ∧ o.gpState 3 = gpOff ∧ (nx (exec (.glEnable 3) o)).get (GL_PORT_CTRL 3) GL_PORT_CTRL.ENABLE = 1 := by decide +kernel

/-- A NEIGHBOUR of another Gallery lies at port 3. -/
theorem test_neighbour : let f := gf 7 { frame0 with payload := List.replicate 16 5 }
    let s := { portIn gpChecking {} with gl := { (portIn gpChecking {}).gl with rx := [(3, f, 0)] } }
    let s1 := s.modGl fun g => { g with rx := [] }
    s.takeRx (fun q f => q = 3 && f.type = 7 && f.op = 0) = some ((3, f), s1) ∧ s1.gpState 3 = gpChecking
      ∧ s1.portDef 3 = none ∧ (nx (exec (.neighbour 3) s)).gpState 3 = gpMiswired := by decide +kernel

/-- The recipe names the neighbour that answers. -/
theorem test_neighbour_same (h : Config.recipe [] = { (default : Recipe) with ports := [⟨3, 0, 0, 0, 0⟩] }) :
    let s := { portIn gpChecking {} with svc := { recipe := some (0, []) } }
    let l : List Byte := List.replicate 16 0
    ∃ d, s.portDef 3 = some d ∧ num l 0 8 = s.gl.galleryId ∧ num l 8 4 = s.gl.topoGen ∧ num l 12 3 = d.addr
      ∧ num l 15 1 = d.nport := by
  have e : ({ portIn gpChecking {} with svc := { recipe := some (0, []) } } : State).portDef 3
      = (Config.recipe []).ports.find? fun d => d.port = 3 := rfl
  simp only [e, h]
  exact ⟨⟨3, 0, 0, 0, 0⟩, by decide +kernel⟩

/-- The Gallery inbound is granted what serving a frame needs. -/
def inboundAt (f : GFrame) (s : State) (k : Nat) (write : Bool) : State :=
  passing (arrived f s) (otherReq none 13 (gNo f)) ((arrived f s).inboundRoute f.pa k write)

/-- A read and a write that are served, a read that waits, and one that is refused. -/
theorem test_remoteAccess : let r := gf 2 { frame0 with pa := 0x20000, aux := 4 }
    let w := gf 3 { frame0 with pa := 0x20000, payload := [1, 2] }
    let bad := gf 2 { frame0 with pa := 0x3F00000000, aux := 4 }
    let s := inboundAt r State.reset 4 false
    let v := inboundAt w State.reset 2 true
    let wait := arrived r State.reset
    (s.takeRx fun _ f => f.type = 2).map (·.1) = some (24, r) ∧ s.remoteStatus r.pa 4 = 0 ∧ s.gl.lost.contains (gNo r) = false
      ∧ s.clear (otherReq none 13 (gNo r)) (s.inboundRoute r.pa 4 false) = true
      ∧ (nx (exec .readReq s)).gl.rx.map (·.2.1.payload) = [[0, 0, 0, 0]]
      ∧ wait.clear (otherReq none 13 (gNo r)) (wait.inboundRoute r.pa 4 false) = false
      ∧ (nx (exec .readReq wait)).gl.rx.map (·.2.1.type) = [2]
      ∧ ((arrived bad State.reset).takeRx fun _ f => f.type = 2).map (·.1) = some (24, bad) ∧ s.remoteStatus bad.pa 4 ≠ 0
      ∧ (v.takeRx fun _ f => f.type = 3).map (·.1) = some (24, w) ∧ v.remoteStatus w.pa 2 = 0
      ∧ v.clear (otherReq none 13 (gNo w)) (v.inboundRoute w.pa 2 true) = true
      ∧ (nx (exec .write v)).byte 0x20001 = 2 ∧ State.reset.glBusy = true
      ∧ State.reset.remoteStatus 0 1 = 4 := by decide +kernel

def atomic0 : GFrame := gf 4 { frame0 with pa := 0x1000000000, payload := toBytes 8 5 }

/-- An ATOMIC on a line that is in the tun; its request stands granted at every bank's arbiter. -/
def atAtomic : State :=
  { arrived atomic0 { poke State.reset 0x1000000000 (toBytes 8 9) with tun := [(0x10000000, {})] } with
    arbs := (List.range 128).map fun b => (4096 + b, { reqs := [{ otherReq none 13 (gNo atomic0) with input := 2 }], holder := some 2 }) }

theorem test_atomic : let b := { atAtomic with gl := { atAtomic.gl with joined := false } }
    (atAtomic.takeRx fun _ f => f.type = 4).map (·.1) = some (24, atomic0) ∧ atAtomic.glBusy = false ∧ atomic0.op = 0
      ∧ atomic0.pa % 8 = 0 ∧ inG7 atomic0.pa = true ∧ atAtomic.remoteStatus atomic0.pa 8 = 0
      ∧ atAtomic.gl.lost.contains (gNo atomic0) = false
      ∧ b.glBusy = true ∧ (b.takeRx fun _ f => f.type = 4).map (·.1) = some (24, atomic0) := by decide +kernel

theorem test_atomic_route : atAtomic.clear (otherReq none 13 (gNo atomic0)) (atAtomic.inboundRoute atomic0.pa 8 true) = true := by
  have e : atAtomic.inboundRoute atomic0.pa 8 true = [(4096 + Config.tunBank 0x10000000 % 128, 2)] := rfl
  have h : ∀ b : Fin 128, atAtomic.passes (otherReq none 13 (gNo atomic0)) (4096 + b.val, 2) = true := by decide +kernel
  rw [e]
  simp only [State.clear, List.all_cons, List.all_nil, Bool.and_true]
  exact h ⟨_, Nat.mod_lt _ (by decide)⟩

theorem test_atomic_sum : let req := otherReq none 13 (gNo atomic0)
    ((atAtomic.arbMoved req (atAtomic.inboundRoute atomic0.pa 8 true)).fetchAdd atomic0.pa 0 (ofBytes atomic0.payload)).1.toOption
      = some 9 := by decide +kernel

theorem test_response : let x : Txn := ⟨5, 5, 0, .message, 0⟩
    let f := gf 6 { frame0 with tag := 5 }
    let s := arrived f State.reset
    let s := s.modGl fun g => { g with txns := [x] }
    let l := atTick s (microTicks (s.get GL_CTRL GL_CTRL.E2E_TIMEOUT))
    (s.takeRx fun _ f => f.type = 6).map (·.1) = some (24, f) ∧ (s.gl.txns.find? fun x => x.tag = f.tag
      ∧ x.dest = f.src) = some x
      ∧ s.clk - x.since ≤ microTicks (s.get GL_CTRL GL_CTRL.E2E_TIMEOUT) ∧ (nx (exec .response s)).gl.txns = []
      ∧ microTicks (l.get GL_CTRL GL_CTRL.E2E_TIMEOUT) < (atTick s (l.clk + 1)).clk - x.since
      ∧ (nx (exec .response (atTick s (l.clk + 1)))).gl.txns = [x]
      ∧ (l.gl.txns.find? fun x => x.tag = (5 : BitVec 16).toNat) = some x
      ∧ microTicks (l.get GL_CTRL GL_CTRL.E2E_TIMEOUT) ≤ l.clk - x.since
      ∧ (nx (exec (.e2eTimeout 5) l)).get GL_E2E_LOG GL_E2E_LOG.STATUS = 10 := by decide +kernel

/-! ### Messages -/

theorem test_messages : let ok (k : Nat) := (taken (msgAt k) k).map (·.1)
    ok 0 = some true ∧ (taken (msgAt 0) 0).map (fun x => x.2.svc.failAll) = some false
      ∧ ((nx (exec .msgStepHeader (msgAt 0))).disp.inbox.map (·.1)) = [3]
      ∧ (let v := { msgAt 0 with svc := { failAll := true } }; (taken v 0).map fun x => (x.1, x.2.svc.failAll)) = some (true, true)
      ∧ ok 3 = some true ∧ (taken (msgAt 3) 3).map (fun x => x.2.pBefore == none || x.2.pBefore == some 0) = some true
      ∧ ok 4 = some true ∧ ok 5 = some true
      ∧ (let v := ((msgAt 5).set GL_STATUS GL_STATUS.VIEW 1).modGl fun g => { g with view := [0] }
         (taken v 5).map fun x => (x.1, x.2.loaded, x.2.isEntry, x.2.viewState, x.2.gl.view.contains x.2.pEntry,
           x.2.gl.view.contains x.2.addr)) = some (true, true, false, 1, true, true) := by decide +kernel

/-- The same messages at the entry module. -/
theorem test_messages_entry : let get (k : Nat) : Option (Bool × Bool) :=
      (taken (run0 (msgAt k)) k).map fun x => (x.1 && x.2.loaded, decide (x.2.svc.recipe = some (0, [])))
    get 1 = some (true, true) ∧ get 2 = some (true, true) ∧ get 5 = some (true, true)
      ∧ (taken (run0 (msgAt 1)) 1).map (fun x => (x.2.disp.reqs.find? fun r => r.id = 7).isSome) = some true
      ∧ (taken (run0 (msgAt 1)) 1).map (fun x => x.2.disp.stale.contains 3) = some false
      ∧ num (toBytes 8 7 ++ List.replicate 56 0) 0 4 = 7
      ∧ (let v := run0 ((msgAt 1).modDisp fun d => { d with stale := [3] })
         (taken v 1).map (fun x => (x.1, x.2.disp.stale.contains 3, decide (x.2.svc.recipe = some (0, []))))
           = some (true, true, true)) := by decide +kernel

theorem test_passageTimers : let s := atTick (run0 (serving {})) (ms 3)
    let v := s.set GL_STATUS GL_STATUS.CUT 1
    s.hasRecipe = true ∧ s.get LN_BOOT LN_BOOT.STAGE = 9 ∧ ms 3 ≤ s.clk - s.gl.passHeard ∧ v.loaded = true
      ∧ v.recreating = false ∧ v.svc.switch = none
      ∧ v.svc.recipe = some (0, []) ∧ v.get GL_STATUS GL_STATUS.CUT = 1 ∧ v.gl.lastProbe = 0 := by decide +kernel

/-- The entry module's probe is due. -/
theorem test_restartProbe : ((run0 (serving {})).set GL_STATUS GL_STATUS.CUT 1).isEntry = true := entry_of rfl

/-! ### Membership -/

theorem test_lanternHeartbeat : let s := lnAt 1 { frame0 with src := 1, payload := toBytes 16 5 } fun g => g
    (s.takeLantern 1).map (fun x => x.1.src) = some 1 ∧ (5 : Nat) < 128 ∧ nbit (ofBytes (toBytes 16 5)) 2 = true
      ∧ kget (nx (exec .lanternHeartbeat (atTick s 7))).gl.heard 2 0 = 7 := by decide +kernel

theorem test_beacon : let f := { frame0 with src := 1, aux := 4, payload := toBytes 3 1 ++ toBytes 1 1 }
    let s := lnAt 2 f fun g => g
    let z := s.set GL_STATUS GL_STATUS.VIEW 2
    (s.takeLantern 2).map (fun x => (x.2.viewState, x.2.leader, num x.1.payload 0 3)) = some (1, 1, 1)
      ∧ (nx (exec .beacon s)).gl.locked = [1]
      ∧ (z.takeLantern 2).map (fun x => (x.2.viewState, decide (x.2.epoch < x.1.aux), x.2.gl.answered)) = some (2, true, false)
      ∧ (nx (exec .beacon z)).gl.answered = true
      ∧ (let a := z.modGl fun g => { g with answered := true }
         (a.takeLantern 2).map (fun x => (x.2.viewState, decide (x.2.epoch < x.1.aux), x.2.gl.answered)) = some (2, true, true))
      ∧ (let j := s.set GL_STATUS GL_STATUS.VIEW 3
         (j.takeLantern 2).map (fun x => (x.2.viewState, decide (x.2.epoch < x.1.aux))) = some (3, true)) := by decide +kernel

/-- A proposal at hand alone, the same again, the first frame of two, and a member's ask to leave. -/
theorem test_propose : let f := { frame0 with src := 1, aux := 4, payload := toBytes 2 0 ++ toBytes 2 1 ++ toBytes 4 1 }
    let part := { f with payload := toBytes 2 0 ++ toBytes 2 2 ++ toBytes 4 1 }
    let ask := { f with aux := 0, payload := f.payload ++ toBytes 4 1 }
    let s := lnAt 3 f fun g => g
    let v := lnAt 3 f fun g => { g with acked := some (4, 1) }
    let w := lnAt 3 part fun g => g
    let l := (lnAt 3 ask fun g => g).set GL_STATUS GL_STATUS.LEADER 1
    let alone (s : State) (f : GFrame) : Bool := (s.takeLantern 3).any fun x =>
      !(x.2.gl.rx.any fun x => x.2.1.type = 7 && x.2.1.op = 3 && x.2.1.aux = f.aux && x.2.1.src < f.src)
    (s.takeLantern 3).map (fun x => (x.2.gl.acked, x.2.gl.rx.length)) = some (none, 0) ∧ alone s f = true ∧ s.epoch < f.aux
      ∧ s.mayChange (readChange f s.clk) = true
      ∧ (v.takeLantern 3).map (fun x => x.2.gl.acked) = some (some (4, 1)) ∧ alone v f = true
      ∧ (nx (exec .propose s)).gl.acked = some (4, 1) ∧ alone w part = true
      ∧ (nx (exec .propose w)).gl.seenChange.map (·.kind) = some 1
      ∧ (l.takeLantern 3).isSome = true ∧ l.isLeader = true ∧ l.viewState = 1 ∧ (0 : Nat) = l.epoch
      ∧ (readChange ask l.clk).kind = 1 ∧ (readChange ask l.clk).addrs = [1] := by
  decide +kernel

/-- At the proposer, and at an aggregator. -/
theorem test_ack : let f := { frame0 with src := 1, aux := 4, payload := toBytes 4 1 }
    let s := lnAt 4 f fun g => { g with change := some change0 }
    let v := lnAt 4 f fun g => g
    (s.takeLantern 4).map (fun x => x.2.gl.change) = some (some change0) ∧ change0.epoch = f.aux ∧ change0.retry = false
      ∧ s.clk - change0.since < ms 100 ∧ (nx (exec .ack s)).epoch = 4
      ∧ (v.takeLantern 4).map (fun x => x.2.gl.change) = some none
      ∧ (nx (exec .ack v)).gl.ackSum = some (4, 1, [1]) := by decide +kernel

theorem test_commit : let f := { frame0 with src := 1, aux := 4, payload := toBytes 4 4 }
    let s := lnAt 5 f fun g => { g with seenChange := some change0 }
    (s.takeLantern 5).map (fun x => (x.2.gl.seenChange, x.2.mayChange change0)) = some (some change0, true)
      ∧ change0.epoch = num f.payload 0 4
      ∧ (nx (exec .commit s)).epoch = 4 := by decide +kernel

/-- What a JOIN at hand finds. -/
def joinAt (s : State) : Option (Nat × Nat × Bool × Bool) := (s.takeRx fun _ f => f.type = 7 && f.op = 6).map fun x =>
  (num x.1.2.payload 0 3, x.2.viewState, x.2.isLeader, decide (x.1.2.src = x.2.leader))

/-- Whether its table is the leader's, and its sender already a member. -/
def joinHere (s : State) : Option (Bool × Bool) := (s.takeRx fun _ f => f.type = 7 && f.op = 6).map fun x =>
  (decide (num x.1.2.payload 4 4 = x.2.gl.topoGen), x.2.gl.view.contains (num x.1.2.payload 0 3))

/-- A JOIN's frame from a module for an address. -/
def joinOf (src a : Nat) : GFrame := { frame0 with src := src, payload := toBytes 3 a ++ toBytes 1 1 ++ toBytes 4 0 }

theorem test_join : let s := lnAt 6 (joinOf 5 5) fun g => g
    let back := lnAt 6 (joinOf 1 5) fun g => { g with joins := [(5, 3)] }
    let c := (lnAt 6 (joinOf 1 0) fun g => g).set GL_STATUS GL_STATUS.VIEW 3
    joinAt s = some (5, 1, false, false) ∧ ((nx (exec .join s)).gl.joins.map (·.1)) = [5]
      ∧ joinAt back = some (5, 1, false, true) ∧ kfind back.gl.joins 5 = some 3 ∧ (nx (exec .join back)).gl.joins = []
      ∧ joinAt c = some (0, 3, false, true) ∧ c.addr = 0 ∧ (nx (exec .join c)).get GL_STATUS GL_STATUS.ADDR_CLASH = 1 := by
  decide +kernel

/-- At the leader: a module outside the view, and one in it. -/
theorem test_join_leader : let s := (lnAt 6 (joinOf 5 5) fun g => g).set GL_STATUS GL_STATUS.LEADER 1
    let w := (lnAt 6 (joinOf 1 1) fun g => g).set GL_STATUS GL_STATUS.LEADER 1
    joinAt s = some (5, 1, true, false) ∧ joinHere s = some (true, false)
      ∧ joinAt w = some (1, 1, true, true) ∧ joinHere w = some (true, true) := by decide +kernel

theorem test_membershipTimer : let j := routed (member 3 0 fun g => g)
    let m := member 1 0 fun g => { g with view := [1, 2] }
    let l := member 1 1 fun g => g
    ((j.gl.weights.map (·.1)).find? fun a => a != j.addr && j.reaches a) = some 1 ∧ j.viewState = 3
      ∧ m.viewState = 1 ∧ m.isLeader = false ∧ m.isAggregator = false ∧ m.aggregator (m.addr / 128) = some 1
      ∧ l.viewState = 1 ∧ l.isLeader = true ∧ l.isAggregator = true
      ∧ (let a := member 1 0 fun g => { g with view := [0, 128], weights := [(0, 1), (128, 1)] }
         let b := (a.set GL_MEMBER GL_MEMBER.LEADER 128).set GL_STATUS GL_STATUS.LEADER 0
         b.viewState = 1 ∧ b.isLeader = false ∧ b.isAggregator = true) := by decide +kernel

theorem test_memberUnheard : let s := atTick (member 1 1 fun g => g) (ms 30)
    s.isLeader = true ∧ s.viewState = 1 ∧ 1 ≠ s.addr ∧ s.gl.view.contains 1 = true ∧ ms 30 ≤ s.clk - kget s.gl.heard 1 0
      ∧ 1 / 128 = s.addr / 128 ∧ (nx (exec (.memberUnheard 1) s)).gl.view = [0] := by decide +kernel

theorem test_beaconLost : let s := atTick (member 1 0 fun g => g) (ms 100)
    s.isLeader = false ∧ s.viewState = 1 ∧ s.gl.change = none
      ∧ ms (30 + 10 * ((s.gl.view.filter fun a => s.reaches a).filter (· < s.addr)).length) ≤ s.clk - s.gl.beaconAt
      ∧ ms 100 ≤ s.clk - s.gl.beaconAt ∧ (nx (exec .freeze s)).viewState = 2 := by decide +kernel

theorem test_changeTimeout : let s := atTick (member 1 1 fun g => { g with change := some change0 }) (ms 100)
    let v := atTick (member 1 1 fun g => { g with change := some { change0 with retry := true } }) (ms 1100)
    s.gl.change = some change0 ∧ change0.retry = false ∧ ms 100 ≤ s.clk - change0.since
      ∧ v.gl.change = some { change0 with retry := true } ∧ ms 1100 ≤ v.clk - change0.since
      ∧ (nx (exec .changeTimeout s)).gl.change = some { change0 with retry := true } := by decide +kernel

/-! ### Time -/

theorem test_sync : let s := timeAt 0 (toBytes 8 100 ++ List.replicate 8 0) { delay := 20000 }
    let v := (s.set LN_BOOT LN_BOOT.STAGE 9).setReg TB_TIME 50000
    (s.takeTime 3 0).map (fun x => (x.2.2.isLeader, x.2.2.route x.2.2.leader 2)) = some (false, some 3)
      ∧ (nx (exec (.sync 3) s)).now = 102 ∧ (nx (exec (.sync 3) s)).get GL_STATUS GL_STATUS.TIME_STATE = 1
      ∧ (v.takeTime 3 0).map (fun x => (x.2.2.isLeader, x.2.2.route x.2.2.leader 2)) = some (false, some 3)
      ∧ (nx (exec (.sync 3) v)).get GL_STATUS GL_STATUS.TIME_STATE = 3 := by decide +kernel

theorem test_pdelay : let q := timeAt 1 (List.replicate 16 0) {}
    let r := atTick (timeAt 2 (toBytes 8 0 ++ toBytes 2 0 ++ signedBytes (-20000)) { pdT1 := some 0 }) 0
    let r := r.modGl fun g => { g with rx := g.rx.map fun x => (x.1, x.2.1, 9) }
    (q.takeTime 3 1).isSome = true ∧ (r.takeTime 3 2).map (fun x => (x.2.2.gport 3).pdT1) = some (some 0)
      ∧ ((nx (exec (.pdelayRsp 3) r)).gport 3).delay = (9 * 10000 - 20000) / 2
      ∧ q.gpState 3 = gpUp ∧ ((nx (exec (.pdelayTimer 3) q)).gport 3).pdT1 = some 0 := by decide +kernel

theorem test_syncTimers : let s := member 1 1 fun g => g
    let v := atTick ((member 1 0 fun g => g).set GL_STATUS GL_STATUS.TIME_STATE 1) (ms 16)
    s.isLeader = true ∧ v.isLeader = false ∧ v.get GL_STATUS GL_STATUS.TIME_STATE = 1 ∧ ms 16 ≤ v.clk - v.gl.syncAt
      ∧ (nx (exec .syncLoss v)).get GL_STATUS GL_STATUS.TIME_STATE = 2 := by decide +kernel

/-! ### Sirdy -/

theorem test_syFrames :
    let s := sPort spUp { replay := [{ sf0 with seq := 5 }, { sf0 with seq := 6 }], ackDue := true, limit := 4 }
    let c := sSeal { sf0 with type := 0, aux := 5 + 2 ^ 12 + 2 ^ 13, payload := toBytes 8 9 }
    let d := sSeal sf0
    let bad := { d with crc := d.crc + 1 }
    let odd := sSeal { sf0 with type := 3 }
    let u := nx (exec (.syLinkCtrl 0 ⟨c, ⟨0, 0⟩⟩) s)
    s.spState 0 = spUp ∧ c.type = 0 ∧ c.crc = sCrc c ∧ c.aux / 2 ^ 14 % 8 = 0 ∧ (s.sport 0).txq = [] ∧ (s.sport 0).nakSeq ≠ 5
      ∧ (u.sport 0).replay.map (·.seq) = [6] ∧ u.sy.out.map (·.2.seq) = [6] ∧ (u.sport 0).credits = [9, 0, 0, 0, 0]
      ∧ d.type = 2 ∧ d.crc = sCrc d ∧ d.seq = (s.sport 0).expect ∧ sLegal d = true
      ∧ (nx (exec (.syDataReceive 0 ⟨d, ⟨1, 0⟩⟩) s)).sy.rx = [(0, d)]
      ∧ odd.crc = sCrc odd ∧ (nx (exec (.syDataReceive 0 ⟨odd, ⟨0, 0⟩⟩) s)).get (SY_PORT_DROP 0) count32 = 1
      ∧ bad.crc ≠ sCrc bad ∧ ((nx (exec (.syDataReceive 0 ⟨bad, ⟨0, 0⟩⟩) s)).sport 0).lost = true
      ∧ (s.sport 0).ackDue = true ∧ ((nx (exec (.syAckDue 0) s)).sport 0).ackDue = false
      ∧ 1000 ≤ (atTick s 1000).clk - ((atTick s 1000).sport 0).lastTx
      ∧ (nx (exec (.syKeepalive 0) (atTick s 1000))).sy.out.length = 1 := by decide +kernel

/-- The NAK that reaches the limit takes the port down, as the host's going-down notice does. -/
theorem test_syLinkCtrl_down : let s := sPort spUp { nakCount := 3, nakSeq := 5, limit := 4 }
    let c := sSeal { sf0 with type := 0, aux := 5 + 2 ^ 13, payload := toBytes 8 0 }
    let g := sSeal { sf0 with type := 0, aux := 2 ^ 14, payload := toBytes 8 0 }
    c.crc = sCrc c ∧ nbit c.aux 13 = true ∧ c.aux / 2 ^ 14 % 8 = 0 ∧ (s.sport 0).limit ≤ (s.sport 0).nakCount + 1
      ∧ (nx (exec (.syLinkCtrl 0 ⟨c, ⟨0, 0⟩⟩) s)).spState 0 = spDown
      ∧ g.crc = sCrc g ∧ g.aux / 2 ^ 14 % 8 ≠ 0
      ∧ ((nx (exec (.syLinkCtrl 0 ⟨g, ⟨0, 0⟩⟩) s)).sport 0).trainAt = ms 1000 := by decide +kernel

theorem test_syPorts : let t := sPort spTraining {}
    let h := sPort spHello {}
    let f := sSeal { sf0 with type := 1, payload := toBytes 8 640 ++ toBytes 8 0 }
    let u := atTick (sPort spUp { nakCount := 9, zeroSince := [some 0, none, none, none, none] }) 200000
    let w := atTick t (ms 100)
    let d := atTick (sPort spDown { trainAt := ms 100 }) (ms 100)
    t.spState 0 = spTraining ∧ laneWidth 15 = 2 ∧ (t.sport 0).trainAt ≤ t.clk
      ∧ (nx (exec (.syTrainingDone 0 15) t)).spState 0 = spHello
      ∧ h.spState 0 = spHello ∧ (nx (exec (.syHelloSend 0) h)).sy.out.map (·.2.type) = [1]
      ∧ f.type = 1 ∧ f.crc = sCrc f ∧ f.payload.length ≤ 2048
      ∧ ((nx (exec (.syHello 0 ⟨f, ⟨0, 0⟩⟩) h)).sport 0).credits = [640, 0, 0, 0, 0]
      ∧ (w.sport 0).trainAt + ms 100 ≤ w.clk ∧ ((nx (exec (.syTrainingTimeout 0) w)).sport 0).trainAt = w.clk + ms 100
      ∧ u.spState 0 = spUp ∧ 10000 ≤ u.clk - (u.sport 0).lastRx ∧ 0 < (u.sport 0).nakCount
      ∧ (u.sport 0).limit ≤ (u.sport 0).nakCount ∧ some 0 ∈ (u.sport 0).zeroSince ∧ 0 + microTicks (u.sport 0).stall ≤ u.clk
      ∧ (nx (exec (.syPortDown 0 .noFrame) u)).get (SY_PORT_STATUS 0) SY_PORT_STATUS.LAST_DOWN = 2
      ∧ d.spState 0 = spDown ∧ (d.sport 0).trainAt ≤ d.clk ∧ (d.syTimer 0).spState 0 = spTraining
      ∧ (nx (exec (.syRecal 0) u)).spState 0 = spTraining
      ∧ State.reset.spState 0 = 0 ∧ (nx (exec (.syEnable 0) State.reset)).spState 0 = spTraining := by decide +kernel

/-! ### Requests -/

theorem test_open : let s := sArrived (subFrame 0) {}
    let x (t : Nat) : Sub := ⟨0, t, [], [], 0⟩
    let v := run0 (sArrived (subFrame 0) { subs := (List.range 16).map fun t => x (t + 9) })
    let e := run0 s
    (takenSy s 0).map (fun x => (x.1, x.2.1, x.2.2.isEntry)) = some (0, subFrame 0, false)
      ∧ (nx (exec (.open_ 0) s)).disp.toks.map (·.reason) = [refNotEntry]
      ∧ ((takenSy v 0).map fun x => decide (x.2.2.svc.recipe = some (0, []))) = some true
      ∧ ((takenSy v 0).map fun x => (x.2.2.disp.subs.filter fun x => x.port = 0).length) = some 16
      ∧ ((takenSy e 0).map fun x => decide (x.2.2.svc.recipe = some (0, []))) = some true
      ∧ ((takenSy e 0).map fun x => (x.2.2.disp.subs.length, x.2.2.disp.reqs.length)) = some (0, 0)
      ∧ (let d := run0 (sArrived (subFrame 0) { reqs := [req7] })
         (takenSy d 0).map fun x => (decide (x.2.2.svc.recipe = some (0, [])), x.2.2.disp.subs.length,
           x.2.2.disp.reqs.any fun r => r.port = 0 && r.tag = x.2.1.tag)) = some (true, 0, true) := by decide +kernel

theorem test_more_cancel : let e := run0 (sArrived (subFrame 1) { subs := [⟨0, 5, [], [], 0⟩] })
    let c := run0 (sArrived (subFrame 2) { reqs := [req7] })
    ((takenSy e 1).map fun x => decide (x.2.2.svc.recipe = some (0, []))) = some true
      ∧ ((takenSy e 1).map fun x => (x.2.2.disp.subs.find? fun x => x.port = 0 ∧ x.tag = 5).isSome) = some true
      ∧ ((takenSy c 2).map fun x => decide (x.2.2.svc.recipe = some (0, []))) = some true
      ∧ ((takenSy c 2).map fun x => (x.2.2.disp.subs.length, (x.2.2.disp.reqs.find? fun r => r.port = 0 ∧ r.tag = 5).isSome))
          = some (0, true) := by decide +kernel

theorem test_submissionIncomplete : let s := atTick (serving { subs := [⟨0, 5, [], [], 0⟩] }) (ms 100)
    (s.disp.subs.find? fun x => x.port = 0 ∧ x.tag = (5 : BitVec 32).toNat) = some ⟨0, 5, [], [], 0⟩ ∧ ms 100 ≤ s.clk - 0
      ∧ (nx (exec (.submissionIncomplete 0 5) s)).disp.toks.map (·.reason) = [refIncomplete] := by decide +kernel

theorem test_frameSends : let mine := sends.disp.toks.filter fun r => r.port = 0
    let rs := packToks mine.length 2048 mine
    let f := mkData 4 0 0 0 (toBytes 8 0xE001 ++ toBytes 8 0)
    sends.spState 0 = spUp ∧ rs ≠ [] ∧ sUnits (mkData 1 0 0 0 (rs.flatMap tokBytes)) ≤ (sends.sport 0).credits.getD 1 0
      ∧ (nx (exec (.tokFrameSend 0) sends)).sy.out.length = 1
      ∧ (sends.logs.evts.findIdx? fun x => x.sent.isNone) = some 0
      ∧ sends.logs.evts[0]? = some ⟨0xE001, 0, none, false⟩ ∧ sends.svcPort = 0
      ∧ sUnits f ≤ (sends.sport 0).credits.getD 4 0 ∧ (sends.sport 0).replay.length < 1024
      ∧ (nx (exec .evtFrameSend sends)).sy.out.length = 1 := by decide +kernel

/-! ### Management -/

theorem test_mgmtRead : let s := mgmt 2 0 (toBytes 8 SY_STATUS)
    let odd := mgmt 2 0 (toBytes 8 (SY_STATUS + 1))
    let none_ := mgmt 2 0 (toBytes 8 8)
    let busy := s.set LN_BOOT LN_BOOT.STAGE 1
    s.svc.fwTo = none ∧ (takenMg s 0).map (fun x => (x.2.2.lnBusy, x.2.1.payload.length, (x.2.2.hostReg SY_STATUS).isSome))
        = some (false, 8, true)
      ∧ (nx (exec .mgmtRead s)).sy.out.map (·.2.aux) = [0]
      ∧ (takenMg odd 0).map (fun x => (x.2.2.lnBusy, num x.2.1.payload 0 8 % 8)) = some (false, 1)
      ∧ (takenMg none_ 0).map (fun x => (x.2.2.lnBusy, (x.2.2.hostReg 8).isNone)) = some (false, true)
      ∧ (takenMg busy 0).map (fun x => x.2.2.lnBusy) = some true := by decide +kernel

theorem test_mgmtWrite : let l (a : Nat) := toBytes 8 a ++ toBytes 8 1
    let s := mgmt 2 1 (l SY_CTRL)
    (takenMg s 1).map (fun x => (x.2.2.lnBusy, x.2.1.payload.length)) = some (false, 16)
      ∧ SY_CTRL % 8 = 0 ∧ (regRow SY_CTRL).isSome = true ∧ hostMayWrite SY_CTRL = true
      ∧ (nx (exec .mgmtWrite s)).sy.out.map (·.2.aux) = [0]
      ∧ (takenMg (mgmt 2 1 (l LN_STATUS)) 1).map (fun x => (x.2.2.lnBusy, x.2.1.payload.length)) = some (false, 16)
      ∧ LN_STATUS % 8 = 0 ∧ (regRow LN_STATUS).isSome = true ∧ hostMayWrite LN_STATUS = false := by decide +kernel

/-- A line that names a command and one that names none, and one of the tunnel. -/
theorem test_mgmtLines : let s := mgmt 2 2 (ascii "status")
    let bad := mgmt 2 2 []
    let un := (mgmt 2 2 (ascii "xyzzy")).modPw fun w => { w with good := true }
    let t := mgmt 3 0 (ascii "status" ++ [13])
    (takenMg s 2).map (fun x => (x.2.2.lnBusy, x.2.2.svc.lines.length)) = some (false, 0)
      ∧ spelled .mgmt "status" = some (.consoleStatus .mgmt)
      ∧ (nx (exec .mgmtCommand s)).svc.lines = [(.mgmt, ascii "status")]
      ∧ (takenMg bad 2).map (fun x => x.2.2.lnBusy) = some false ∧ (nx (exec .mgmtCommand bad)).sy.out.map (·.2.aux) = [4]
      ∧ refusal .mgmt "xyzzy" = some errUnknown ∧ refusal .mgmt "fence it" = some errSyntax
      ∧ (takenMg un 2).map (fun x => x.2.2.served .mgmt) = some true
      ∧ (nx (exec .mgmtCommand un)).svc.replies.map (·.code) = [errUnknown]
      ∧ spelled .tunnel "status" = some (.consoleStatus .tunnel)
      ∧ (t.takeSy fun _ f => f.ch = 3).map (fun x => (decide (2 ≤ x.2.2.get LN_BOOT LN_BOOT.STAGE),
          x.2.2.svc.consBuf.length, x.2.2.svc.consBad, x.2.2.svc.lines.length)) = some (true, 0, false, 0)
      ∧ (∀ b ∈ ascii "status", b ≠ 13 ∧ b ≠ 10)
      ∧ (nx (exec .cons t)).svc.lines = [(.tunnel, ascii "status")] := by decide +kernel

theorem test_fifos : let s := { State.reset with logs := { fifoOut := [⟨7, 0, none, false⟩], evts := [⟨8, 5, none, false⟩] } }
    s.logs.fifoIn.length < 255 ∧ s.logs.fifoIn.getLast? = none
      ∧ (nx (exec (.syMboxIn 3) s)).get SY_FIFO_LEVEL SY_FIFO_LEVEL.MBOX_IN = 1
      ∧ s.logs.fifoOut = [⟨7, 0, none, false⟩] ∧ s.svc.mboxWait = [] ∧ (nx (exec .syMboxOut s)).hostRead = 7
      ∧ (s.logs.evts.find? fun x => x.sent.isNone && !x.resend) = some ⟨8, 5, none, false⟩
      ∧ (nx (exec .syEvtPop s)).hostRead = 8
      ∧ (nx (exec .syEvtPop s)).reg SY_EVT_TIME = 5 := by decide +kernel

/-! ### The cask -/

theorem test_caskPatrol :
    let s := (casked block0 fun c => { c with patrolAt := some (0, 62) }).set CK_STATUS CK_STATUS.PATROL_ACTIVE 1
    let u := nx (exec (.caskPatrolRead 0 0 0 63 [.corrected false]) s)
    s.pw.good = true ∧ 1 ≤ s.get LN_BOOT LN_BOOT.STAGE ∧ s.patrolDue.get CK_STATUS CK_STATUS.PATROL_ACTIVE = 1
      ∧ s.patrolDue.patrolNext = some (blockKey 0 0 0, 63) ∧ (u.nand 0).reads = 1 ∧ u.get CK_LDPC_CORR count32 = 1
      ∧ (s.nand 0).units[63 / 64]? = some (0, 1) ∧ kfind s.cask.map 0 = some 1
      ∧ ((s.pageFound 0 63 true [.uncorrectable]).nand 0).retired = true := by decide +kernel

theorem test_wearLevel : let s := casked block0 fun c => { c with blocks := c.blocks ++ [(1, { erases := 5000 })] }
    s.leastWorn = some (0, block0) ∧ s.freeBlock true = some 1 ∧ s.caskReadOnly = false ∧ s.pw.good = true
      ∧ 1 ≤ s.get LN_BOOT LN_BOOT.STAGE ∧ block0.erases + 16 * s.get CK_CTRL CK_CTRL.WL_SPREAD < s.mostErases
      ∧ ((nx (exec .staticWearLevel s)).nand 1).units = [(0, 1)] := by decide +kernel

theorem test_nandFails : let s := casked block0 fun c => { c with opened := some 0 }
    let e := casked { erases := 1 } id
    s.cask.opened = some (blockKey 0 0 0) ∧ (s.nand 0).retired = false ∧ (s.nand 0).units ≠ []
      ∧ ((nx (exec (.nandProgramFail 0 0 0) s)).nand 0).retired = true
      ∧ (e.nand 0).retired = false ∧ (e.nand 0).units = [] ∧ ((nx (exec (.nandEraseFail 0 0 0) e)).nand 0).retired = true := by
  decide +kernel

/-- A script has come in whole. -/
def scripted : Xfer := { by_ := .uart, kind := .script, slot := 3, total := script0.length, got := script0, full := true }

def storing (valid : Nat) (x : Xfer) : State := keyed valid keyScript0 0 { State.reset with svc := { xfer := some x } }

theorem trusts_storing : trusts (storing 1 scripted) 4 script0 = true := by decide +kernel

theorem test_objectStore_verify : (storing 1 scripted).verify (kindNo scripted.kind) scripted.got 0 3 = none :=
  verify_none 3 sound_script0 trusts_storing

/-- One whose signer slot is not VALID. -/
theorem test_objectStore_bad : let v := storing 0 scripted
    v.svc.xfer = some scripted ∧ v.verify (kindNo scripted.kind) scripted.got 0 3 = some (2, 1, 0)
      ∧ (nx (exec (.objectStore ()) v)).get SC_VERIFY_LOG SC_VERIFY_LOG.AT_STORE = 1 := by decide +kernel

theorem test_objectStore : let s := storing 1 scripted
    s.svc.xfer = some scripted ∧ scripted.full = true ∧ scripted.kind ≠ .fuseBuf
      ∧ s.freeExtent (cdiv scripted.total mapUnit) = some 0 ∧ s.caskReadOnly = false := by decide +kernel

theorem test_objectStore_fuse : let b := { scripted with kind := .fuseBuf, got := [1, 2] }
    let s := storing 1 b
    s.svc.xfer = some b ∧ b.full = true ∧ (nx (exec (.objectStore ()) s)).svc.fuseBuf = [1, 2] := by
  refine ⟨rfl, rfl, by decide +kernel⟩

/-! ### Start-up -/

theorem test_powerGood : let s := State.reset.set TB_IN TB_IN.RESET_N 1
    s.pw.on = true ∧ s.pw.rails.contains false = false ∧ s.pw.good = false ∧ s.pw.held = false ∧ s.pw.latched = false
      ∧ s.get TB_IN TB_IN.RESET_N ≠ 0 ∧ s.pw.readyAt ≤ s.clk := by decide +kernel

theorem test_hostboot : let s := (staged 0 State.reset).set LN_STRAPS LN_STRAPS.BOOT_SRC 2
    s.pw.good = true ∧ s.stage = 0 ∧ s.get LN_STRAPS LN_STRAPS.BOOT_SRC = 2
      ∧ (nx (exec (.hostbootWrite 5) s)).svc.hostFw = [5, 0, 0, 0, 0, 0, 0, 0] := by decide +kernel

/-- The cask before its start holds firmware under a key, in a directory copy. -/
def booting (key : Nat) : State :=
  let s := keyed 1 keyFw0 0 (holding (staged 0 State.reset) [(key, fw0)])
  s.modCask fun c => { c with copyA := ⟨1, c.objs⟩, objs := [] }

def copyA : CaskFind := ⟨(true, false), [], []⟩

/-- Firmware that a slot holds and the cask gives is tried with success. -/
theorem tries_fw0 {s : State} {k : Nat} {o : CObj} (a : s.obj 1 k = some o) (b : o.bytes = fw0)
    (c : (s.readObj 1 k (imgReads 1 fw0 0) []).1 = true) (d : trusts (s.readObj 1 k (imgReads 1 fw0 0) []).2 1 fw0 = true) :
    ∃ s2, s.tryFirmware k [] = (some fw0, s2) := by
  unfold State.tryFirmware
  rw [fetch_ok a (by rw [b]; exact c) (by rw [b]; exact sound_fw0) (by rw [b]; exact d), b]
  exact ⟨_, rfl⟩

/-- The cask's start over, with firmware under a key. -/
def bootReady (key : Nat) : State := ((booting key).caskStart copyA).caskReady

theorem bootReady_obj : (bootReady 16).obj 1 0 = some (obj0 fw0) ∧ (bootReady 17).obj 1 0 = none
      ∧ (bootReady 17).obj 1 1 = some (obj0 fw0)
    ∧ ((bootReady 16).readObj 1 0 (imgReads 1 fw0 0) []).1 = true
      ∧ ((bootReady 17).readObj 1 1 (imgReads 1 fw0 0) []).1 = true := by
  decide +kernel

theorem bootReady_trusts : trusts ((bootReady 16).readObj 1 0 (imgReads 1 fw0 0) []).2 1 fw0 = true
    ∧ trusts ((bootReady 17).readObj 1 1 (imgReads 1 fw0 0) []).2 1 fw0 = true := by
  decide +kernel

/-- Firmware in the slot that the straps name. -/
theorem test_bootCaskReady_one : ∃ s2, (bootReady 16).tryFirmware 0 [] = (some fw0, s2) :=
  tries_fw0 bootReady_obj.1 rfl bootReady_obj.2.2.2.1 bootReady_trusts.1

/-- Firmware in the other. -/
theorem test_bootCaskReady_two : (bootReady 17).tryFirmware 0 [] = (none, bootReady 17)
    ∧ ∃ s2, (bootReady 17).tryFirmware 1 [] = (some fw0, s2) := by
  refine ⟨?_, tries_fw0 bootReady_obj.2.2.1 rfl bootReady_obj.2.2.2.2 bootReady_trusts.2⟩
  unfold State.tryFirmware State.fetchImage
  rw [bootReady_obj.2.1]
  rfl

theorem test_bootCaskReady_power : let s := booting 16
    let v := booting 17
    s.pw.good = true ∧ s.stage = 0 ∧ s.get LN_STRAPS LN_STRAPS.BOOT_SRC = 0
      ∧ (s.caskStart copyA).get CK_STATUS CK_STATUS.HEALTH ≠ 3
      ∧ v.pw.good = true ∧ v.stage = 0 ∧ v.get LN_STRAPS LN_STRAPS.BOOT_SRC = 0
      ∧ (v.caskStart copyA).get CK_STATUS CK_STATUS.HEALTH ≠ 3 := by decide +kernel

/-- Firmware in none, and no directory copy. -/
theorem test_bootCaskReady : let w := staged 0 State.reset
    w.pw.good = true ∧ w.stage = 0 ∧ w.get LN_STRAPS LN_STRAPS.BOOT_SRC = 0
      ∧ (w.caskStart copyA).get CK_STATUS CK_STATUS.HEALTH ≠ 3
      ∧ (w.caskStart copyA).caskReady.tryFirmware 0 [] = (none, (w.caskStart copyA).caskReady)
      ∧ (w.caskStart copyA).caskReady.tryFirmware 1 [] = (none, (w.caskStart copyA).caskReady)
      ∧ (nx (exec (.bootCaskReady copyA [] []) w)).get LN_BOOT LN_BOOT.ERROR = 3
      ∧ (nx (exec (.bootCaskReady ⟨(false, false), [], []⟩ [] []) w)).get LN_BOOT LN_BOOT.ERROR = 2 :=
  ⟨by decide +kernel, by decide +kernel, by decide +kernel, by decide +kernel, rfl, rfl, by decide +kernel, by decide +kernel⟩

/-- A module before its recipe holds `recipe0`. -/
def choosing (valid : Nat) : State := keyed valid keyRecipe0 0 (holding (staged 2 State.reset) [(32, recipe0)])

theorem choosing_ready : let s := (choosing 1).g7Ready
    s.chosenRecipe = some (0, obj0 recipe0) ∧ s.obj 2 0 = some (obj0 recipe0)
      ∧ (s.readObj 2 0 (imgReads 2 recipe0 0) []).1 = true := by decide +kernel

theorem choosing_trusts : trusts ((choosing 1).g7Ready.readObj 2 0 (imgReads 2 recipe0 0) []).2 2 recipe0 = true := by decide +kernel

/-- A recipe that verifies. -/
theorem test_bootG7_ok : let s := choosing 1
    s.stage = 2 ∧ s.g7Ready.get LN_STRAPS LN_STRAPS.SAFE = 0 ∧ s.g7Ready.chosenRecipe = some (0, obj0 recipe0)
      ∧ (∃ s1, s.g7Ready.fetchImage 2 0 0 [] = (.ok recipe0, s1)) :=
  ⟨by decide +kernel, by decide +kernel, choosing_ready.1,
    ⟨_, fetch_ok choosing_ready.2.1 choosing_ready.2.2 sound_recipe0 choosing_trusts⟩⟩

/-- One whose signer slot is not VALID, and SAFE. -/
theorem test_bootG7 : let x := choosing 0
    let v := (staged 2 State.reset).set LN_STRAPS LN_STRAPS.SAFE 1
    x.stage = 2 ∧ x.g7Ready.get LN_STRAPS LN_STRAPS.SAFE = 0 ∧ (x.g7Ready.chosenRecipe.map (·.1)) = some 0
      ∧ (x.g7Ready.fetchImage 2 0 0 []).1.toOption = none
      ∧ (nx (exec (.bootG7Trained [] []) x)).get LN_BOOT LN_BOOT.ERROR = 6
      ∧ (nx (exec (.bootG7Trained [5] []) x)).get LN_BOOT LN_BOOT.ERROR = 4
      ∧ v.stage = 2 ∧ v.g7Ready.get LN_STRAPS LN_STRAPS.SAFE = 1 ∧ (nx (exec (.bootG7Trained [] []) v)).stage = 10 := by
  decide +kernel

/-- What `recipe0` holds where the other sections say what `r` does. -/
theorem recipe0_of {r : Recipe} (h : Config.recipe recipe0 = r) :
    recipeOf recipe0 = { r with complete := true, passage := plain.passage ++ List.replicate 6 0 } := by
  rw [recipeOf, h, show imgComplete recipe0 = true by decide +kernel,
    show imgPassage recipe0 = plain.passage ++ List.replicate 6 0 by decide +kernel]

/-- What the other sections say is a free value; a plain recipe meets every check. -/
theorem test_bootG7_recipe (h : Config.recipe recipe0 = plain) : (choosing 1).g7Ready.recipeBad (recipeOf recipe0) = false := by
  rw [recipe0_of h]
  decide +kernel

theorem test_bootSelftest : let s := railed (staged 6 State.reset)
    let f : TestFail := ⟨9, 0, 3, []⟩
    let all := s.rateFails ++ s.railFails
    let s1 := (readScripts s.recipe.scripts [] s).2.bootTested all
    s.stage = 6 ∧ s.paceBack = true ∧ s.bootPace f = true ∧ 8 ≤ f.block ∧ s.recipe.scripts = [] ∧ all = []
      ∧ s1.fencedNow ≤ recipeSpares s1.recipe ∧ (nx (exec (.bootSelftestDone [f] []) s)).get LN_BOOT LN_BOOT.ERROR = 7
      ∧ (nx (exec (.bootSelftestDone [] []) s)).stage = 7 := by decide +kernel

theorem joining_model : let s := joining.stageTo 8
    s.svc.recipe = some (0, []) ∧ s.obj 3 0 = some (obj0 model0) ∧ (s.readObj 3 0 (imgReads 3 model0 0) []).1 = true
      ∧ (s.readObj 3 0 (imgReads 3 model0 0) []).2.svc.recipe = some (0, []) := by decide +kernel

theorem joining_trusts : trusts ((joining.stageTo 8).readObj 3 0 (imgReads 3 model0 0) []).2 3 model0 = true := by decide +kernel

theorem model0_good : modelBad model0 0 = false := by decide +kernel

theorem test_bootJoined (h : (Config.recipe []).modelDigest = digest (imgHeader model0)) :
    joining.stage = 7 ∧ joining.viewState = 1 ∧ joining.gl.joined = true
      ∧ ∃ k o s1, (joining.stageTo 8).modelOf (joining.stageTo 8).recipe = some (k, o)
        ∧ (joining.stageTo 8).fetchImage 3 k (joining.stageTo 8).pIndex [] = (.ok model0, s1)
      ∧ modelBad model0 s1.pIndex = false := by
  have r := joining_model.1
  refine ⟨by decide +kernel, by decide +kernel, by decide +kernel, 0, obj0 model0,
    ((joining.stageTo 8).readObj 3 0 (imgReads 3 model0 0) []).2, model_of ?_ ?_ joining_model.2.1 rfl rfl, ?_, ?_⟩
  · rw [recipe_of r]
    decide +kernel
  · rw [recipe_of r]
    exact h
  · rw [pIndex_of r]
    exact fetch_ok joining_model.2.1 joining_model.2.2.1 sound_model0 joining_trusts
  · rw [pIndex_of joining_model.2.2.2]
    exact model0_good

theorem test_bootModel : let s := (staged 8 State.reset).modSvc fun v => { v with model := some (0, model0) }
    s.stage = 8 ∧ s.svc.model = some (0, model0) ∧ s.get LN_MODEL LN_MODEL.VALID = 0
      ∧ (nx (exec .bootModelLoaded s)).get LN_MODEL LN_MODEL.VALID = 1 := by decide +kernel

/-! ### Recipes -/

theorem test_stage : let s := holding (console 9) [(32, [1])]
    s.serves .uart inServing (.consoleStage .uart 0) ∧ (s.obj 2 0).isSome = true ∧ s.svc.staging = none ∧ s.svc.switch = none
      ∧ (nx (exec (.consoleStage .uart 0) s)).get LN_STAGED LN_STAGED.STATE = 1 := by decide +kernel

/-- Staging begins, and has read the recipe. -/
def staging0 : State := (staging.modSvc fun v => { v with staging := none }).showSec

def staging1 : State := (staging0.readObj 2 0 (imgReads 2 recipe0 0) []).2

def obj1 (l : List Byte) : CObj := { start := 1, bytes := l, active := true, seq := 2 }

theorem staging_objs : staging0.obj 2 0 = some (obj0 recipe0) ∧ (staging0.readObj 2 0 (imgReads 2 recipe0 0) []).1 = true
    ∧ staging1.obj 3 0 = some (obj1 model0) ∧ (staging1.readObj 3 0 (imgReads 3 model0 0) []).1 = true := by decide +kernel

theorem staging_trusts : trusts staging1 2 recipe0 = true := by decide +kernel

theorem staging_trusts_model : trusts (staging1.readObj 3 0 (imgReads 3 model0 0) []).2 3 model0 = true := by decide +kernel

theorem test_stageDone_images : staging0.fetchImage 2 0 0 [] = (.ok recipe0, staging1)
    ∧ (∃ s2, staging1.fetchImage 3 0 0 [] = (.ok model0, s2)) ∧ modelBad model0 0 = false
      ∧ (imgPart model0 0x0101 0).getD [] = [] :=
  ⟨fetch_ok staging_objs.1 staging_objs.2.1 sound_recipe0 staging_trusts,
    ⟨_, fetch_ok staging_objs.2.2.1 staging_objs.2.2.2 sound_model0 staging_trusts_model⟩, model0_good, by decide +kernel⟩

theorem test_stageDone (h : Config.recipe recipe0 = { plain with modelDigest := digest (imgHeader model0), members := [] }) :
    let r := recipeOf recipe0
    staging.svc.staging = some (0, none) ∧ staging1.recipeBad r = false ∧ staging1.fencedNow ≤ recipeSpares r
      ∧ galleryDiffers r staging1.recipe = false ∧ staging1.modelOf r = some (0, obj1 model0)
      ∧ bits (r.passage.getD 0 0).toNat 23 16 = 0 ∧ (takeRegions 0 staging1).map (·.1) = some [] := by
  simp only [recipe0_of h]
  exact ⟨by decide +kernel, by decide +kernel, by decide +kernel, by decide +kernel,
    model_of (by decide +kernel) rfl staging_objs.2.2.1 rfl rfl, by decide +kernel, rfl⟩

/-- The recipe does not verify. -/
theorem test_stageDone_bad : let s := { staging with cask := (holding staging [(32, [1])]).cask }
    s.svc.staging = some (0, none)
      ∧ ((s.modSvc fun v => { v with staging := none }).showSec.fetchImage 2 0 0 []).1.toOption = none := by
  decide +kernel

theorem test_switch : let s := ((run0 (console 9)).set LN_STAGED LN_STAGED.STATE 2).set LN_STAGED LN_STAGED.KEEP_OK 1
    s.serves .uart inServing (.consoleSwitch .uart true) ∧ s.svc.switch = none ∧ s.isEntry = true
      ∧ s.get LN_STAGED LN_STAGED.STATE = 2
      ∧ s.get LN_STAGED LN_STAGED.KEEP_OK = 1 :=
  ⟨by decide +kernel, by decide +kernel, entry_of rfl, by decide +kernel, by decide +kernel⟩

theorem test_switchReturned : let s := (serving {}).modSvc fun v => { v with switch := some (true, false) }
    let s1 := s.switchNow.modSvc fun v => { v with switch := some (true, true) }
    s.svc.switch = some (true, false) ∧ s.disp.tickets = [] ∧ s.changeBusy = false ∧ s1.recreating = false
      ∧ (nx (exec .switchTicketsReturned s)).svc.switch = some (true, true)
      ∧ ((s.modDisp fun d => { d with leftover := [(0, 0)] }).switchNow.modSvc fun v => { v with switch := some (true, true) }).recreating
        = true := by decide +kernel

/-! ### Service -/

/-- Commands of the UART at a serving module. -/
abbrev serves9 (stages : Nat → Bool) (i : Instr) : Prop := (console 9).serves .uart stages i

/-- No line waits, or the line that waits spells the command. -/
theorem test_serves : serves9 inAll (.consoleStatus .uart) ∧ serves9 inAll (.consoleDir .uart)
      ∧ serves9 inAll (.consoleLog .uart 3)
    ∧ serves9 inAll (.consoleChallenge .uart) ∧ serves9 inAll (.consoleAout .uart .test 0 0) ∧ serves9 inAll (.endorse .uart)
    ∧ ((console 9).modSvc fun v => { v with lines := [(.uart, ascii "fence 5")] }).serves .uart inServing (.consoleFence .uart 5) := by
  decide +kernel

theorem test_consoleReads : let s := console 9
    s.serves .uart inAll (.consoleRead .uart LN_STATUS 1) ∧ (∀ i, i < 1 → (regRow (LN_STATUS + 8 * i)).isSome = true)
      ∧ ((nx (exec (.consoleRead .uart LN_STATUS 1) s)).svc.replies.map (·.code)) = [0]
      ∧ 0 < selsOf 5 ∧ (nx (exec (.consoleAout .uart .test 0 0) s)).get LN_AOUT LN_AOUT.MODE = 1
      ∧ (nx (exec (.consoleStatus .uart) s)).svc.replies.map (·.toA) = [.uart]
      ∧ (nx (exec (.consoleStatus .uart) s)).svc.lines = [] := by
  decide +kernel

theorem test_aout : let s := atTick (console 9) (ms 100)
    let q := s.set LN_AOUT LN_AOUT.MODE 2
    s.pw.good = true ∧ s.pw.goodAt + ms 100 ≤ s.clk ∧ q.pw.good = true ∧ q.get LN_AOUT LN_AOUT.MODE = 2
      ∧ (nx (exec .aoutQuantityRefresh q)).svc.aoutMv = min 2500 (q.quantityMv 0 0) := by decide +kernel

theorem test_uart : let s := (staged 9 State.reset).modSvc fun v => { v with uartBuf := ascii "status" }
    (102 : Byte) ≠ 13 ∧ (102 : Byte) ≠ 10 ∧ s.svc.uartBuf.length < 1024 ∧ (∀ y ∈ s.svc.lines, y.1 ≠ .uart)
      ∧ (nx (exec (.uartCharacter 119) s)).svc.uartBuf = ascii "statusw"
      ∧ s.svc.uartBuf ≠ [] ∧ s.svc.uartBuf.length ≤ 255 ∧ s.svc.uartBad = false
      ∧ spelled .uart "status" = some (.consoleStatus .uart)
      ∧ (nx (exec (.uartCharacter 13) s)).svc.lines = [(.uart, ascii "status")] := by decide +kernel

theorem test_recv : let s := console 9
    let x := s.modSvc fun v => { v with xfer := some xfer0 }
    s.serves .uart inAll (.consoleRecv .uart .script 3 10) ∧ 3 < kindSlots .script ∧ 10 ≤ kindMax .script
      ∧ s.caskReadOnly = false ∧ s.svc.xfer = none
      ∧ kindSlots .fuseBuf = 1 ∧ 3272 ≤ kindMax .fuseBuf
      ∧ ((nx (exec (.consoleRecv .uart .script 3 10) s)).svc.xfer.map (·.total)) = some 10
      ∧ x.serves .uart inAll (.consoleHex .uart (ascii "0aF5"))
      ∧ x.serves .uart inAll (.consoleHex .uart (ascii "00000000000000"))
      ∧ x.serves .uart inAll (.consoleRecvAbort .uart) ∧ x.svc.xfer = some xfer0 ∧ xfer0.full = false
      ∧ hexBytes (ascii "0aF5") = some [10, 0xF5] ∧ xfer0.got.length + 2 < xfer0.total
      ∧ hexBytes (ascii "00000000000000") = some (List.replicate 7 0) ∧ xfer0.got.length + 7 = xfer0.total
      ∧ ((nx (exec (.consoleHex .uart (ascii "0aF5")) x)).svc.xfer.map (·.got)) = some [1, 2, 3, 10, 0xF5]
      ∧ (nx (exec (.consoleRecvAbort .uart) x)).svc.xfer = none := by decide +kernel

theorem test_mailbox : let data := fun w => mboxGap w || (mboxOp w ≠ 3 && mboxOp w ≠ 4)
    let got (w total : Nat) := ((boxed w total).takeMbox data).map (·.1)
    let d := 2 * 2 ^ 56 + 5
    let g := 2 ^ 62 + 1
    let e := boxed (3 * 2 ^ 56) 10
    (boxed d 20).fwRuns = true ∧ got d 20 = some d ∧ mboxGap d = false ∧ mboxOp d = 2
      ∧ ((nx (exec .mailboxData (boxed d 20))).svc.xfer.map (·.got.length)) = some 10
      ∧ got d 9 = some d ∧ bits d 55 48 = 0 ∧ ((nx (exec .mailboxData (boxed d 9))).svc.xfer.map (·.full)) = some true
      ∧ got g 20 = some g ∧ mboxGap g = true ∧ (nx (exec .mailboxData (boxed g 20))).svc.xfer = none
      ∧ (e.takeMbox fun w => !mboxGap w && mboxOp w = 3).map (·.1) = some (3 * 2 ^ 56) ∧ e.svc.endDue = false
      ∧ xfer0.full = false ∧ (nx (exec .mailboxEnd e)).svc.xfer = none
      ∧ (nx (exec .mailboxEnd (e.modSvc fun v => { v with endDue := true }))).svc.endDue = false
      ∧ ((boxed (4 * 2 ^ 56) 10).takeMbox fun w => !mboxGap w && mboxOp w = 4).map (·.1) = some (4 * 2 ^ 56)
      ∧ (nx (exec .mailboxAbort (boxed (4 * 2 ^ 56) 10))).svc.xfer = none := by decide +kernel

theorem test_objects : let s := holding (console 9) [(32, [1])]
    s.serves .uart inAll (.consoleRemove .uart .recipe 0) ∧ 0 < kindSlots .recipe ∧ s.obj (kindNo .recipe) 0 = some (obj0 [1])
      ∧ s.objRuns 2 0 (obj0 [1]) = false ∧ s.caskReadOnly = false
      ∧ (nx (exec (.consoleRemove .uart .recipe 0) s)).obj 2 0 = none
      ∧ s.serves .uart inAll (.consoleActivate .uart 0)
      ∧ ((nx (exec (.consoleActivate .uart 0) s)).obj 2 0).map (·.active) = some true := by decide +kernel

/-! ### Changes -/

theorem test_consoleFence : let s := console 9
    s.serves .uart inServing (.consoleFence .uart 5) ∧ s.get (CH_STATUS 5) CH_STATUS.FENCED = 0 ∧ s.fenceWaits 5 = false
      ∧ (nx (exec (.consoleFence .uart 5) s)).get (CH_STATUS 5) CH_STATUS.FENCED = 1 := by decide +kernel

theorem test_fenceMapping :
    let s := (console 9).modSvc fun v => { v with fencing := some 0, spare := some 9 }
    let s := s.set GM_INVAL_STATUS GM_INVAL_STATUS.DONE 1
    let r := s.modDisp fun d => { d with renew := [true] }
    s.svc.fencing = some 0 ∧ s.svc.spare = some 9 ∧ s.get GM_INVAL_STATUS GM_INVAL_STATUS.DONE = 1 ∧ s.disp.renew = []
      ∧ (nx (exec .fenceMappingDone s)).svc.fencing = none ∧ r.disp.renew ≠ []
      ∧ (nx (exec .fenceMappingDone r)).svc.fencing = none := by decide +kernel

theorem test_bringSpare (h : (Config.recipe []).tasks = [task0]) :
    fencing0.svc.fencing = some 0 ∧ fencing0.svc.spare = none ∧ fencing0.between = true ∧ fencing0.disp.paused = []
      ∧ fencing0.inval = none ∧ fencing0.get (CH_ROLE 0) CH_ROLE.ROLE ≠ 5 ∧ (∃ d ∈ fencing0.stepTasks, d.ch = 0)
      ∧ fencing0.get LN_SVC_CTRL LN_SVC_CTRL.AUTO_FENCE = 1 ∧ fencing0.spareChamber = some 1 := by
  have e : fencing0.stepTasks = (Config.recipe []).tasks.map fun d => { d with ch := fencing0.placeOf d.ch } := by
    unfold State.stepTasks
    rw [recipe_of rfl]
    rfl
  refine ⟨by decide +kernel, by decide +kernel, by decide +kernel, by decide +kernel, by decide +kernel, by decide +kernel,
    ⟨task0, ?_, rfl⟩, by decide +kernel, by decide +kernel⟩
  rw [e, h]
  decide +kernel

/-- No change runs and none waits. -/
def quiet (s : State) : Bool := s.svc.change = 0 && s.svc.changeReq = none && s.svc.fencing = none && s.svc.waiting.isEmpty

/-- Nothing else runs, between steps, during a step and while another change runs. -/
theorem test_waits : let s := (console 9).modSvc fun v => { v with model := some (0, []) }
    let w := s.modDisp fun d => { d with running := some (0, []) }
    let b := s.modSvc fun v => { v with change := 6, changeOf := .mgmt }
    let r : ChangeReq := ⟨.uart, 6, 5⟩
    s.serves .uart inServing (.consoleReload .uart 5) ∧ s.svc.model ≠ none ∧ quiet s = true ∧ s.between = true
      ∧ w.serves .uart inServing (.consoleReload .uart 5) ∧ w.svc.model ≠ none ∧ quiet w = true ∧ w.between = false
      ∧ (nx (exec (.consoleReload .uart 5) w)).svc.changeReq = some r
      ∧ b.serves .uart inServing (.consoleReload .uart 5) ∧ b.svc.change ≠ 0 ∧ b.svc.changeReq = none
      ∧ (nx (exec (.consoleReload .uart 5) b)).svc.waiting = [r] := by decide +kernel

theorem test_waits_g7 : let s := console 9
    let w := s.modDisp fun d => { d with running := some (0, []) }
    let b := s.modSvc fun v => { v with fencing := some 7 }
    s.serves .uart inServingSafe (.consoleRecalG7 .uart none) ∧ s.between = true ∧ w.between = false ∧ b.svc.fencing ≠ none
      ∧ w.serves .uart inServingSafe (.consoleRecalG7 .uart none) ∧ b.serves .uart inServingSafe (.consoleRecalG7 .uart none)
      ∧ (nx (exec (.consoleRecalG7 .uart none) s)).svc.recals = List.range 64
      ∧ (nx (exec (.consoleRecalG7 .uart none) w)).svc.changeReq = some ⟨.uart, 3, 64⟩
      ∧ (nx (exec (.consoleRecalG7 .uart none) b)).svc.waiting = [⟨.uart, 3, 64⟩] := by decide +kernel

theorem test_recals : let s := (console 9).modSvc fun v => { v with recals := [5, 6], change := 3 }
    let g := { console 9 with gl := (portIn gpUp {}).gl }.setGpState 3 gpUp
    let y := (console 9).set (SY_PORT_STATUS 0) SY_PORT_STATUS.STATE spUp
    s.svc.recals = [5, 6] ∧ (nx (exec (.g7RetrainDone true) s)).svc.recals = [6]
      ∧ g.serves .uart inServingSafe (.consoleRecalGallery .uart 3) ∧ g.gpState 3 = gpUp
      ∧ (nx (exec (.consoleRecalGallery .uart 3) g)).gpState 3 = gpTraining
      ∧ y.serves .uart inServingSafe (.consoleRecalSirdy .uart 0) ∧ y.spState 0 = spUp
      ∧ (nx (exec (.consoleRecalSirdy .uart 0) y)).spState 0 = spTraining := by decide +kernel

theorem test_retires : let s := console 9
    s.serves .uart inServingSafe (.consoleRetireCellar .uart 3 2 3071)
      ∧ s.serves .uart inServingSafe (.consoleRetireG7 .uart 21503)
      ∧ s.serves .uart inServingSafe (.consoleRetireCask .uart 31 3 1655) ∧ s.retiringNow = false
      ∧ s.regionRetired 21503 = false ∧ s.caskReadOnly = false ∧ (s.nand (blockKey 31 3 1655)).retired = false
      ∧ ((nx (exec (.consoleRetireCask .uart 31 3 1655) s)).nand (blockKey 31 3 1655)).retired = true
      ∧ s.serves .uart inAll (.consoleSet .uart .abortTimeout 31) ∧ s.serves .uart inAll (.consoleSet .uart .autoReset 1)
      ∧ s.serves .uart inAll (.consoleSet .uart .autoFence 1)
      ∧ (nx (exec (.consoleSet .uart .abortTimeout 31) s)).get LN_SVC_CTRL LN_SVC_CTRL.ABORT_TIMEOUT = 31 := by decide +kernel

theorem test_logCommands : let r := { console 9 with logs := { retired := [.g7Region 7], fenced := [5], spareBad := [5, 6] } }
    r.serves .uart inAll (.consoleRetlogClear .uart (some (.g7Region 7)))
      ∧ r.serves .uart inAll (.consoleSpareClear .uart (some 5))
      ∧ r.serves .uart inAll (.consoleSpareBad .uart 7) ∧ r.caskReadOnly = false ∧ .g7Region 7 ∈ r.logs.retired
      ∧ (nx (exec (.consoleRetlogClear .uart (some (.g7Region 7))) r)).logs.retired = []
      ∧ (nx (exec (.consoleSpareClear .uart (some 5)) r)).logs.spareBad = [6]
      ∧ (nx (exec (.consoleSpareBad .uart 7) r)).logs.spareBad = [5, 6, 7] := by decide +kernel

/-- A test of a spare, which needs no scripts; and the end of one. -/
theorem test_selftest : let s := console 10
    let t := (railed s).modSvc fun v => { v with test := some (.uart, 9, none, false) }
    s.serves .uart inLogsOn (.consoleSelftest .uart 13 (some 0) false []) ∧ s.get LN_SELFTEST LN_SELFTEST.RUNNING = 0
      ∧ s.stage ≠ 9
      ∧ s.worksFor 0 = false ∧ (readScripts s.testScripts [] s).1 = none
      ∧ (nx (exec (.consoleSelftest .uart 13 (some 0) false []) s)).svc.test = some (.uart, 13, some 0, false)
      ∧ t.svc.test = some (.uart, 9, none, false) ∧ t.paceBack = true ∧ (nx (exec (.selftestDone []) t)).svc.tested = some 24
      ∧ (nx (exec (.selftestDone []) t)).svc.replies.map (·.code) = [0] := by decide +kernel

/-- A chamber that was fenced for its test passes, and becomes a spare. -/
theorem test_selftest_forced : let s := (console 10).set (CH_STATUS 5) CH_STATUS.FENCED 1
    let t := s.modSvc fun v => { v with test := some (.uart, 0, some 5, true) }
    t.svc.test = some (.uart, 0, some 5, true) ∧ t.get (CH_STATUS 5) CH_STATUS.FENCED ≠ 0 ∧ t.svc.fencing ≠ some 5
      ∧ t.paceBack = true
      ∧ t.testUnits 0 (some 5) = [5] ∧ ([] : List TestFail).filter (t.testTakes 0 [5]) = []
      ∧ (nx (exec (.selftestDone []) t)).get (CH_ROLE 5) CH_ROLE.ROLE = 5 := by decide +kernel

/-- Chamber 0 works for the recipe in force; with force its test fences it. -/
theorem test_selftest_works (h : (Config.recipe []).tasks = [task0]) : (run0 (console 9)).worksFor 0 = true := by
  have e : (run0 (console 9)).stepTasks = (Config.recipe []).tasks.map fun d => { d with ch := (run0 (console 9)).placeOf d.ch } := by
    unfold State.stepTasks
    rw [recipe_of rfl]
    rfl
  unfold State.worksFor
  rw [e, h]
  decide +kernel

/-- A script of the recipe in force is not held. -/
theorem test_selftest_script (h : (Config.recipe []).scripts = [3]) :
    (readScripts (run0 (console 9)).testScripts [] (run0 (console 9))).1 = some (3, none) := by
  have e : (run0 (console 9)).testScripts = [3] := by
    unfold State.testScripts
    rw [if_pos (by decide +kernel), recipe_of rfl]
    exact h
  rw [e]
  decide +kernel

/-- A serving module that holds firmware. -/
def updating (valid : Nat) : State := keyed valid keyFw0 0 (holding (console 9) [(16, fw0)])

theorem updating_obj : (updating 1).obj 1 0 = some (obj0 fw0) ∧ ((updating 1).readObj 1 0 (imgReads 1 fw0 0) []).1 = true := by
  decide +kernel

theorem updating_trusts : trusts ((updating 1).readObj 1 0 (imgReads 1 fw0 0) []).2 1 fw0 = true := by decide +kernel

theorem test_fwupdate : (updating 1).serves .uart inAll (.consoleFwupdate .uart false [])
      ∧ ((updating 1).obj 1 (bit false)).isSome = true
    ∧ (∃ s0, (updating 1).fetchImage 1 (bit false) 0 [] = (.ok fw0, s0)) :=
  ⟨by decide +kernel, by rw [show bit false = 0 from rfl, updating_obj.1]; rfl,
    ⟨_, fetch_ok updating_obj.1 updating_obj.2 sound_fw0 updating_trusts⟩⟩

/-- Firmware whose signer slot is not VALID. -/
theorem test_fwupdate_bad : let x := updating 0
    x.serves .uart inAll (.consoleFwupdate .uart false []) ∧ (x.obj 1 (bit false)).isSome = true
      ∧ (x.fetchImage 1 (bit false) 0 []).1.toOption = none
      ∧ (nx (exec (.consoleFwupdate .uart false []) x)).svc.replies.map (·.code) = [errFailed] := by decide +kernel

theorem test_handover : let h := (console 9).modSvc fun v => { v with fwTo := some (.uart, 1, [7], 0) }
    let l := atTick h (ms 20 + 1)
    h.svc.fwTo = some (.uart, 1, [7], 0) ∧ h.clk - 0 ≤ ms 20 ∧ (nx (exec .fwupdateHandoverDone h)).svc.firmware = [7]
      ∧ ms 20 < l.clk - 0 ∧ (nx (exec .fwupdateTimeout l)).svc.fwTo = none := by decide +kernel

theorem test_leaveReset : let s := console 9
    let w := s.modSvc fun v => { v with leaveAt := some 0, leaveOf := .mgmt }
    let f := atTick (w.set GL_STATUS GL_STATUS.VIEW 2) (ms 1000)
    s.serves .uart inServingStopped (.consoleLeave .uart) ∧ s.pw.left = false ∧ s.svc.leaveAt = none
      ∧ w.serves .uart inServingStopped (.consoleLeave .uart)
      ∧ (nx (exec (.consoleLeave .uart) w)).svc.replies.map (·.code) = [errBusy]
      ∧ (nx (exec (.consoleLeave .uart) (s.modPw fun p => { p with left := true }))).svc.replies.map (·.code) = [errState]
      ∧ (nx (exec (.consoleLeave .uart) s)).svc.leaveAt = some 0
      ∧ w.svc.leaveAt = some 0 ∧ ¬ (w.viewState = 1 ∧ w.gl.view.contains w.addr = true)
      ∧ ¬ (w.viewState = 2 ∨ w.viewState = 3) ∧ (nx (exec .leaveCommitted w)).pw.left = true
      ∧ f.svc.leaveAt = some 0 ∧ f.viewState = 2 ∧ ms 1000 ≤ f.clk - 0
      ∧ s.serves .uart inAll (.consoleReset .uart) ∧ (nx (exec (.consoleReset .uart) s)).pw.good = false
      ∧ s.pw.good = true ∧ s.fwRuns = true ∧ (nx (exec .lanternWatchdogBite s)).stage = 0 := by decide +kernel

/-! ### Security -/

/-- The message of `fusing 1` has no challenge's bytes, as SC_CHALLENGE and SC_ID_DIGEST have none here. -/
theorem test_fuse_checks : let l := fusing 1
    let s := (fused 1 1 false).recordCmd
    fuseMsgBad l = false ∧ sigBlockBad (l.drop 168) (fmSigner l) = false ∧ s.slotBad (fmSigner l) = 0 ∧ fmSigner l = 0
      ∧ slice l 8 64 = s.regBytes ((List.range 8).map SC_ID_DIGEST)
      ∧ slice l 72 32 = s.regBytes ((List.range 4).map SC_CHALLENGE) := by
  decide +kernel

theorem test_fuse_key : (fused 1 1 false).recordCmd.keyFits ((fusing 1).drop 168) 0 = true := by decide +kernel

theorem test_fuse_signature :
    falconVerify (sigKey ((fusing 1).drop 168)) (sigBytes ((fusing 1).drop 168)) ((fusing 1).take 168) = true := by decide +kernel

theorem test_fuse_accepted : (fused 1 1 false).recordCmd.fuseRefusal (fusing 1) = none := by
  obtain ⟨a, b, c, d, e, f⟩ := test_fuse_checks
  rw [d] at b c
  unfold State.fuseRefusal
  rw [d, e, f]
  simp [a, b, c, test_fuse_key, test_fuse_signature]
  decide +kernel

theorem test_fuse : let s := fused 1 1 false
    let bad := fused 1 0 false
    s.serves .uart inAll (.consoleFuse .uart ()) ∧ s.svc.fuseBuf.length = 3272 ∧ s.svc.fuseBusy = none
      ∧ s.svc.fuseBuf = fusing 1
      ∧ bad.serves .uart inAll (.consoleFuse .uart ()) ∧ bad.svc.fuseBuf.length = 3272 ∧ bad.svc.fuseBusy = none
      ∧ bad.recordCmd.fuseRefusal bad.svc.fuseBuf = some 2 :=
  ⟨by decide +kernel, by decide +kernel, rfl, rfl, by decide +kernel, by decide +kernel, rfl, by decide +kernel⟩

theorem test_fuse_enrol : let e := fused 1 1 true
    e.fuseRuns 1 = some (fusing 1) ∧ fmTarget (fusing 1) = 3 ∧ e.slotBad 3 = 1 ∧ e.svc.fuseBad.contains 3 = false
      ∧ ∀ x ∈ [e.fuses.a, e.fuses.b, e.fuses.c], x.digests.length = 4 ∧ x.digests.getD 3 0 = 0 := by
  refine ⟨by decide +kernel, by decide +kernel, by decide +kernel, by decide +kernel, by decide +kernel⟩

theorem test_fuse_revoke : let r := fused 2 9 true
    r.fuseRuns 2 = some (fusing 2) ∧ fmTarget (fusing 2) = 3 ∧ fmSigner (fusing 2) ≠ 3 ∧ r.slotBad 0 = 0
      ∧ r.anyFirmware (fun x => imgSigner x = 3) = false ∧ r.svc.fuseBad.contains 3 = false := by
  refine ⟨by decide +kernel, by decide +kernel, by decide +kernel, by decide +kernel, by decide +kernel, by decide +kernel⟩

theorem test_fuse_floor : let f := (fused 3 1 true).modSvc fun v => { v with firmware := List.replicate 19 0 ++ [5] }
    f.fuseRuns 3 = some (fusing 3) ∧ imgGen f.svc.firmware / 2 ^ 24 = 5 ∧ f.get SC_FUSES SC_FUSES.FW_FLOOR = 0
      ∧ (∀ x ∈ [f.fuses.a, f.fuses.b, f.fuses.c], x.floor = 2 ^ 0 - 1)
      ∧ f.anyFirmware (fun x => decide (imgGen x / 2 ^ 24 < 5)) = false := by
  refine ⟨by decide +kernel, by decide +kernel, by decide +kernel, by decide +kernel, by decide +kernel⟩

theorem test_identity : let s := console 9
    let q := (s.modSvc fun v => { v with attests := [(.uart, 5)] }).set SC_STATUS SC_STATUS.ID_READY 1
    s.fwRuns = true ∧ s.get SC_STATUS SC_STATUS.ID_READY = 0 ∧ s.get SC_STATUS SC_STATUS.ID_FAIL = 0
      ∧ (nx (exec (.idKeygenDone false) s)).get SC_STATUS SC_STATUS.ID_FAIL = 1
      ∧ s.serves .uart inAll (.attest .uart 5) ∧ s.svc.attests.length < 8
      ∧ (nx (exec (.attest .uart 5) s)).svc.attests = [(.uart, 5)]
      ∧ q.svc.attests = [(.uart, 5)] ∧ q.get SC_STATUS SC_STATUS.ID_READY = 1 := by decide +kernel

/-! ### Power -/

theorem test_rails : let off := powered fun p => { p with on := false, good := false }
    let r := atTick (powered fun p => { p with rails := [true, true, true, true, false], ramp := [(4, 0)] }) (ms 20)
    let again := powered fun p => { p with restartAt := some 0 }
    let over_ := powered fun p => { p with on := false, ovr := true }
    off.pw.on = false ∧ off.pw.ovr = false ∧ (nx (exec .senseTurnOn off)).pw.on = true
      ∧ kfind r.pw.ramp 4 = some 0 ∧ r.pw.ramp.length = 1 ∧ r.pw.rails.set 4 true = [true, true, true, true, true]
      ∧ (nx (exec (.railInWindow 4) r)).pw.readyAt = ms 20 + ms 1
      ∧ ms 20 ≤ r.clk - 0 ∧ (nx (exec (.railSequencingFail 4) r)).pw.retries = 1
      ∧ (powered id).pw.rails.getD 4 false = true ∧ (nx (exec (.railFault 4) (powered id))).pw.faultAt = some 0
      ∧ again.pw.restartAt = some 0 ∧ again.pw.on = true ∧ 0 ≤ again.clk ∧ (nx (exec .powerRestart again)).pw.restartAt = none
      ∧ (powered id).pw.on = true ∧ (nx (exec .undervoltage (powered id))).pw.on = false
      ∧ (nx (exec .overvoltage (powered id))).pw.ovr = true
      ∧ over_.pw.ovr = true ∧ (nx (exec .overvoltageRecover over_)).pw.on = true
      ∧ (nx (exec .auxLoss (powered id))).pw.on = false := by decide +kernel

theorem test_pace : let s := (powered fun p => { p with lowAt := some 0 }).set PW_STATUS PW_STATUS.PACE_NOW 2
    let t := atTick (s.set PW_CTRL PW_CTRL.PACE 3) (ms 10)
    s.pw.good = true ∧ s.pw.rails.getD 3 false = true ∧ s.pw.fastAt = none ∧ s.get LN_SELFTEST LN_SELFTEST.RUNNING = 0
      ∧ s.pLim 54000 < 2000 * 1000 ∧ 1 < s.pace ∧ (nx (exec (.paceDecision 54000 100 2000) s)).pace = 1
      ∧ 100 * 10000 ≤ 9 * t.pLim 54000 ∧ t.pw.hot = [] ∧ t.pace ≤ t.get PW_CTRL PW_CTRL.PACE ∧ t.pw.lowAt = some 0
      ∧ ms 10 ≤ t.clk - 0 ∧ (nx (exec (.paceDecision 54000 100 100) t)).pace = 3
      ∧ (nx (exec .fastLimit s)).pace = 1 ∧ (nx (exec (.rateMeasure 2 70) s)).get PW_RATE ⟨32, 16⟩ = 70 := by decide +kernel

theorem test_thermal : let s := powered id
    let h := powered fun p => { p with hot := [3] }
    let t := powered fun p => { p with tripped := true, rails := [true, true, false, false, false] }
    s.pw.good = true ∧ throttleAt (sensorNo .y4x) ≤ 95 ∧ (nx (exec (.thermalThrottle .y4x 95) s)).pw.hot = [2]
      ∧ s.pw.rails.getD 2 false = true ∧ tripPoint (sensorNo .conv) ≤ 125
      ∧ h.pw.hot.contains (sensorNo .conv) = true
      ∧ t.pw.tripped = true ∧ t.pw.latched = false ∧ t.pw.ramp = [] ∧ t.pw.rails.contains false = true
      ∧ (nx (exec .tripRecover t)).pw.good = false
      ∧ (nx (exec (.g7TempRead 15 90) s)).pw.hot = [31] ∧ (nx (exec (.g7TempRead 15 89) s)).pw.hot = [] := by decide +kernel

/-! ### Slow inputs -/

theorem test_slowInputs : let s := atTick (powered id) 99
    let low := (powered id).set TB_IN TB_IN.RESET_N 0
    let high := ((powered fun p => { p with held := true }).set TB_IN TB_IN.RESET_N 1)
    s.pw.rails.headD false = true ∧ s.get TB_IN TB_IN.RESET_N ≠ bit (s.get TB_IN TB_IN.RESET_N = 0)
      ∧ s.get TB_IN TB_IN.PPS_IN ≠ bit true ∧ (nx (exec (.slowInputChange .pps true) s)).pw.ppsRise = some 0
      ∧ nbit (s.get TB_IN TB_IN.STRAPS) 13 ≠ true
      ∧ (nx (exec (.slowInputChange (.strap 13) true) s)).get TB_IN TB_IN.STRAP_MOVED = 1
      ∧ (nx (exec (.slowInputGlitch (.strap 13)) s)).get TB_GLITCH TB_GLITCH.STRAP = 1
      ∧ low.get TB_IN TB_IN.RESET_N = 0 ∧ low.pw.held = false ∧ (nx (exec .resetNLow low)).pw.held = true
      ∧ high.get TB_IN TB_IN.RESET_N = 1 ∧ high.pw.held = true
      ∧ (nx (exec .resetNHigh high)).pw.held = false := by decide +kernel

theorem test_extLimit :
    let s := (powered fun p => { p with extRaw := false, extNew := true, extFirst := ms 1000 }).set TB_IN TB_IN.EXT_LIMIT_N 1
    let s := atTick s (ms 1000)
    let soon := s.modPw fun p => { p with extAt := some 1 }
    let due := s.modPw fun p => { p with extAt := some 0, extWait := some false }
    let back := due.modPw fun p => { p with extRaw := true }
    s.pw.extRaw = false ∧ s.pw.extNew = true ∧ s.get TB_IN TB_IN.EXT_LIMIT_N ≠ bit false ∧ s.pw.extAt = none
      ∧ (nx (exec (.extLimitChange false) s)).get PW_STATUS PW_STATUS.EXT_LIMIT = 1
      ∧ soon.pw.extAt = some 1 ∧ soon.pw.extFirst - 1 < ms 1000
      ∧ (nx (exec (.extLimitChange false) soon)).pw.extWait = some false
      ∧ due.pw.extWait = some false ∧ due.pw.extAt = some 0 ∧ ms 1000 ≤ due.clk - 0 ∧ due.pw.extRaw = false
      ∧ (nx (exec .extLimitDeferEnd due)).get TB_IN TB_IN.EXT_LIMIT_N = 0
      ∧ back.pw.extWait = some false ∧ back.pw.extRaw ≠ false ∧ (nx (exec .extLimitDeferEnd back)).pw.extWait = none := by
  decide +kernel

theorem test_pps :
    let s := atTick (powered fun p => { p with ppsRise := some 100000000, ppsEdge := some 0, ppsOk := 3 }) 100000099
    let v := s.set TB_PPS TB_PPS.STATE 1
    let soon := s.modPw fun p => { p with ppsEdge := some 99999999 }
    let lost := atTick ((s.set TB_PPS TB_PPS.STATE 2).modPw fun p => { p with ppsRise := none }) (ms 1500 + 1)
    let stuck := lost.set TB_PPS TB_PPS.STATE 3
    v.pw.ppsRise = some 100000000 ∧ v.pw.ppsEdge = some 0 ∧ ms 500 ≤ 100000000 - 0 ∧ (nx (exec .ppsEdge v)).pps = 2
      ∧ soon.pw.ppsRise = some 100000000 ∧ soon.pw.ppsEdge = some 99999999 ∧ 100000000 - 99999999 < ms 500
      ∧ (nx (exec .ppsEdge soon)).get TB_PPS_REJECT count32 = 1
      ∧ lost.pw.ppsEdge = some 0 ∧ lost.pps = 2 ∧ ms 1500 < lost.clk - 0 ∧ lost.pw.ppsRise = none
      ∧ (nx (exec .ppsHoldover lost)).pps = 3
      ∧ stuck.pps = 3 ∧ ms 1500 < stuck.clk - stuck.pw.ppsChange ∧ (nx (exec .ppsStuck stuck)).get TB_PPS TB_PPS.STUCK = 1 := by
  decide +kernel

/-! ### Counters, writes and the whole module -/

theorem test_counters : let b : PcBlock := .y4x
    let s := ((atTick (staged 9 State.reset) 100).setReg TB_TIME 100).set (pcBase b + 8) PCC_WINDOW.LENGTH 1
    let s := s.set (pcBase b + 0x18) PCC_WSTATUS.RUNNING 1
    s.get (pcBase b) PCC_CTRL.FREEZE = bit false ∧ s.get (pcBase b) PCC_CTRL.FREEZE ≠ bit true
      ∧ (nx (exec (.pcFreeze b true) s)).get (pcBase b) PCC_CTRL.FREEZE = 1 ∧ 31 < pcCounters (pcBase b)
      ∧ s.pcLag (pcBase b) = some 0 ∧ s.get (pcBase b + 0x18) PCC_WSTATUS.RUNNING = 1
      ∧ kget s.perf.armed (pcBase b) 0 < s.clk - 0
      ∧ (nx (exec (.pcWindowBoundary b) s)).get (pcBase b + 0x18) PCC_WSTATUS.SEQ = 1 := by decide +kernel

theorem test_registerWrite : let s := State.reset
    (nx (exec (.registerWrite .host SY_CTRL 3) s)).reg SY_CTRL ≠ s.reg SY_CTRL ∧ SY_CTRL ≠ LN_HOSTBOOT
      ∧ (nx (exec (.registerWrite .host LN_STATUS 3) s)).reg LN_STATUS = s.reg LN_STATUS
      ∧ taskMayWrite (ST_DESC0 0 0) = true ∧ taskMayWrite LN_STATUS = false := by decide +kernel

theorem test_accessCodes : (regRow SY_CTRL).isSome = true ∧ ((regRow SY_CTRL).map fun r => r.fields.isEmpty) = some false := by
  decide +kernel

theorem test_originate : let s := (routed State.reset).modGl fun g => { g with view := [1] }
    let f := { frame0 with type := 7, vc := typeVc 7, dest := 1 }
    f.dest ≠ s.addr ∧ s.route f.dest f.vc = some 3 ∧ (s.originate f).2 = none
      ∧ (s.originate { f with vc := 0, dest := 2 }).2 = some 9 ∧ 2 ∉ s.gl.view
      ∧ 1 ∈ s.gl.view ∧ State.reset.route 1 0 = none
      ∧ ((State.reset.modGl fun g => { g with view := [1] }).originate { f with vc := 0 }).2 = some 8
      ∧ State.reset.route 1 2 = none ∧ (State.reset.originate f).2 = some 8 := by decide +kernel

/-- FTOI of 2.5, of minus infinity and of 2^31; ITOF of 2^24 + 1. -/
theorem test_ftoi_itof : let f : Stg := stgOf (fset 0 FS_CHAIN_STG.OP 0x2B)
    let i : Stg := stgOf (fset 0 FS_CHAIN_STG.OP 0x2A)
    let q : Sampling := ⟨0, 0, 0⟩
    f.op = 0x2B ∧ (laneOp f q false 0 0x40200000 0 0).1 = 2 ∧ f32 0x40200000 = .fin false 0xA00000 (-22)
      ∧ f32 0xFF800000 = .inf true ∧ (laneOp f q false 0 0xFF800000 0 0).1 = 0x80000000
      ∧ (laneOp f q false 0 0x4F000000 0 0).2.sat = true ∧ f32 0x7FC00000 = .nan
      ∧ i.op = 0x2A ∧ (laneOp i q false 0 0x01000001 0 0).1 = 0x4B800000 := by decide +kernel

theorem test_portDown : let r := { req7 with port := 0 }
    let s := (serving { reqs := [r], tickets := [(3, (7, 1))], subs := [⟨0, 5, [], [], 0⟩, ⟨1, 5, [], [], 0⟩] }).set
      (SY_PORT_STATUS 1) SY_PORT_STATUS.STATE spUp
    let d := s.set (SY_PORT_STATUS 1) SY_PORT_STATUS.STATE spHello
    r ∈ s.disp.reqs ∧ r.port = 0 ∧ s.spState (1 - 0) = spUp ∧ (s.syDrop 0 1).disp.toks.map (·.reason) = [6]
      ∧ (s.syDrop 0 1).disp.subs.map (·.port) = [1] ∧ d.spState (1 - 0) ≠ spUp ∧ (d.syDrop 0 1).disp.toks = [] := by
  decide +kernel

theorem test_cleanLine : let cw := 0x80000000
    (∃ a, place (cw * 32) = .g7 a) ∧ noisy.cleanLine (cw / 8) = true ∧ t2Decode (noisy.seen cw) = .uncorrectable
      ∧ t2Decode (noisy.codeword cw) = .good := by
  refine ⟨⟨_, rfl⟩, ?_⟩
  decide +kernel

/-- Two bytes of a codeword are corrected. -/
theorem test_t2 : let data : List Byte := (List.range 32).map fun k => BitVec.ofNat 8 (7 * k + 1)
    let cw := data ++ t2Check data
    data.length = 32 ∧ t2Decode cw = .good ∧ t2Decode (xorAt (xorAt cw 0 5) 35 9) = .corrected cw := by decide +kernel

/-- A waiting command runs; with none, the timebase counts, or is held. -/
theorem test_step : let s := staged 9 State.reset
    let w := { s with pending := [.ppsStuck, .syncLoss] }
    let d := s.modGl fun g => { g with slewDebt := 2 }
    let l := s.modGl fun g => { g with slew := 5, slewAcc := 999999 }
    w.pending = .ppsStuck :: [.syncLoss] ∧ (nx (step w)).pending = [.syncLoss] ∧ s.pending = [] ∧ s.pw.good = true
      ∧ s.gl.failedTo = [] ∧ l.gl.slewDebt = 0 ∧ (nx (step l)).reg TB_TIME = 2 ∧ (nx (step l)).gl.slew = 4
      ∧ s.gl.slewDebt = 0 ∧ (nx (step s)).reg TB_TIME = 1 ∧ 0 < d.gl.slewDebt ∧ (nx (step d)).gl.slewDebt = 1
      ∧ State.reset.pw.good = false ∧ (nx (step State.reset)).clk = 1 := by decide +kernel

/-- No row of the table gives bits, so no word spells a command. -/
theorem test_decode : decodeTableWord 8 0 = none ∧ decodeTableWord 128 (2 ^ 128 - 1) = none
    ∧ State.reset.withFetchWord 8 5 = State.reset := by decide +kernel

/-- What each check of the commands' operands refuses, and a value that it takes. -/
theorem test_wf : let g := { frame0 with vc := 0 }
    let f := { g with type := 2 }
    let y := { sf0 with type := 2 }
    Instr.wf (.checksComplete 0 0 [⟨18, 0, 0, 0⟩]) = false ∧ Instr.wf (.checksComplete 0 0 [⟨17, 64, 0, 0⟩]) = true
      ∧ Instr.wf (.checksComplete 0 0 [⟨0, 65, 0, 0⟩]) = false
      ∧ Instr.wf (.scrubRead .g7 [⟨0, 36, 8⟩]) = false ∧ Instr.wf (.scrubRead .g7 [⟨0, 36, 7⟩]) = true
      ∧ Instr.wf (.scrubRead .g7 [⟨0, 37, 1⟩]) = false ∧ Instr.wf (.scrubRead .g7 [⟨0, 35, 0⟩]) = false
      ∧ Instr.wf (.scrubRead .g7 [⟨0, 35, 1⟩]) = true ∧ Instr.wf (.transferComplete 0 0 0 [⟨0, 36, 8⟩]) = false
      ∧ Instr.wf (.gmInvalRange 0 15) = false ∧ Instr.wf (.gmInvalRange 0 48) = false ∧ Instr.wf (.gmInvalRange 0 47) = true
      ∧ Instr.wf (.tunFillDone (2 ^ 38)) = false ∧ Instr.wf (.tunFillDone (2 ^ 38 - 1)) = true
      ∧ Instr.wf (.glLinkCtrl 0 ⟨f, ⟨0, 0⟩⟩) = false ∧ Instr.wf (.glLinkCtrl 0 ⟨g, ⟨0, 0⟩⟩) = true
      ∧ Instr.wf (.glLinkCtrl 0 ⟨{ g with dest := 2 ^ 18 }, ⟨0, 0⟩⟩) = false ∧ Instr.wf (.glHello 0 ⟨f, ⟨0, 0⟩⟩) = false
      ∧ Instr.wf (.glFrameReceive 0 ⟨g, ⟨0, 0⟩⟩) = false ∧ Instr.wf (.glFrameReceive 0 ⟨f, ⟨0, 0⟩⟩) = true
      ∧ Instr.wf (.syLinkCtrl 0 ⟨y, ⟨0, 0⟩⟩) = false ∧ Instr.wf (.syHello 0 ⟨y, ⟨0, 0⟩⟩) = false
      ∧ Instr.wf (.syDataReceive 0 ⟨y, ⟨0, 0⟩⟩) = true
      ∧ Instr.wf (.syDataReceive 0 ⟨{ y with seq := 4096 }, ⟨0, 0⟩⟩) = false
      ∧ Instr.wf (.caskPatrolRead 32 0 0 0 []) = false ∧ Instr.wf (.caskPatrolRead 31 3 1655 2303 []) = true
      ∧ Instr.wf (.nandProgramFail 0 4 0) = false ∧ Instr.wf (.nandEraseFail 0 0 1656) = false
      ∧ Instr.wf (.nandUncorrRead 0 0 1656) = false := by decide +kernel

/-- An internal start of the write engine is no start of the instruction whose number it carries (R220): a list
instruction whose last
update spilled is complete while the run is still being written. -/
theorem test_startOf_internal :
    let st : Start := { kind := .internal, id := 5, tag := 0, desc := 0, d := 0 }
    let s := State.reset.setEng 0 2 { internal := [st] }
    s.startOf 0 2 0 5 = none ∧ (s.eng 0 2).starts = [st] := by decide +kernel

end Sys2Proof.Tests
end

section
/-! SUPPORT. The access codes of R7 and R8: the fields of a register lie apart, so what a read or a write makes of each stands
by itself. -/

namespace Sys2Proof.Machine

/-! ### The fields of a register lie apart -/

/-- The fields lie within the register and share no bit. -/
abbrev FieldsApart (fs : List RegField) : Prop :=
  (∀ f ∈ fs, f.fld.lo + f.fld.w ≤ 64) ∧
    fs.Pairwise fun f g => f.fld.lo + f.fld.w ≤ g.fld.lo ∨ g.fld.lo + g.fld.w ≤ f.fld.lo

/-- The tables of R385 and R386, and the empty one of a page that holds no register. -/
def regTables : List (List RegRow) :=
  [[], rowsCH, rowsAY, rowsLT, rowsSP, rowsFS, rowsGV, rowsCL, rowsABC, rowsST, rowsPCC, rowsLN, rowsSC, rowsPW, rowsTB, rowsTN,
    rowsGM, rowsAB, rowsGL, rowsSY, rowsCK, rowsPCX]

theorem regTables_fieldsApart : ∀ rows ∈ regTables, ∀ r ∈ rows, FieldsApart r.fields := by decide +kernel

theorem chRows_mem_regTables (off : Nat) : chRows off ∈ regTables := by
  unfold chRows
  split <;> simp [regTables]

theorem y4xRows_mem_regTables (k : Nat) : y4xRows k ∈ regTables := by
  unfold y4xRows
  split <;> simp [regTables]

theorem regRow_fieldsApart {a : Nat} {r : RegRow} (h : regRow a = some r) : FieldsApart r.fields := by
  unfold regRow at h
  split at h
  · cases h
  · split at h
    · exact regTables_fieldsApart _ (chRows_mem_regTables _) r (List.mem_of_find?_eq_some h)
    · split at h
      · exact regTables_fieldsApart _ (y4xRows_mem_regTables _) r (List.mem_of_find?_eq_some h)
      · cases h

/-! ### Replacing some of the fields -/

/-- A word of which each field that `put` names is replaced. -/
def putFields (put : RegField → Option Nat) (fs : List RegField) (v : Word) : Word :=
  fs.foldl (fun x f => match put f with
    | some y => fset x f.fld y
    | none => x) v

theorem putFields_cons_some {put : RegField → Option Nat} {f : RegField} {y : Nat} (h : put f = some y) (fs : List RegField)
    (v : Word) : putFields put (f :: fs) v = putFields put fs (fset v f.fld y) := by
  simp [putFields, h]

theorem putFields_cons_none {put : RegField → Option Nat} {f : RegField} (h : put f = none) (fs : List RegField) (v : Word) :
    putFields put (f :: fs) v = putFields put fs v := by
  simp [putFields, h]

/-- A bit of no field stays as it was. -/
theorem putFields_getLsbD_outside (put : RegField → Option Nat) {fs : List RegField} {i : Nat} (hi : i < 64)
    (out : ∀ f ∈ fs, ¬ (f.fld.lo ≤ i ∧ i < f.fld.lo + f.fld.w)) (v : Word) :
    (putFields put fs v).getLsbD i = v.getLsbD i := by
  induction fs generalizing v with
  | nil => rfl
  | cons f fs ih =>
    have rest := ih fun g hg => out g (List.mem_cons_of_mem _ hg)
    cases hp : put f with
    | none => rw [putFields_cons_none hp, rest]
    | some y => rw [putFields_cons_some hp, rest, fset_getLsbD_other _ _ _ _ hi (out f List.mem_cons_self)]

/-- A field apart from all that may be replaced reads as before. -/
theorem fget_putFields_outside (put : RegField → Option Nat) {fs : List RegField} {g : Fld} (hg : g.lo + g.w ≤ 64)
    (out : ∀ f ∈ fs, g.lo + g.w ≤ f.fld.lo ∨ f.fld.lo + f.fld.w ≤ g.lo) (v : Word) :
    fget (putFields put fs v) g = fget v g := by
  apply Nat.eq_of_testBit_eq
  intro i
  rw [fget_testBit, fget_testBit]
  by_cases q : i < g.w
  · rw [putFields_getLsbD_outside put (by omega) (fun f hf => by have := out f hf; omega)]
  · simp [q]

/-- Each field reads as what replaced it, or as before. -/
theorem fget_putFields (put : RegField → Option Nat) {fs : List RegField} (ok : FieldsApart fs) {f : RegField} (hf : f ∈ fs)
    (v : Word) : fget (putFields put fs v) f.fld = ((put f).map (· % 2 ^ f.fld.w)).getD (fget v f.fld) := by
  induction fs generalizing v with
  | nil => cases hf
  | cons g fs ih =>
    obtain ⟨fits, apart⟩ := ok
    obtain ⟨head, tail⟩ := List.pairwise_cons.1 apart
    have fitsHere := fits f hf
    rcases List.mem_cons.1 hf with rfl | hf
    · cases hp : put f with
      | none => rw [putFields_cons_none hp, fget_putFields_outside put fitsHere head]; rfl
      | some y =>
        rw [putFields_cons_some hp, fget_putFields_outside put fitsHere head, fget_fset_same _ _ _ fitsHere]; rfl
    · have rest := ih ⟨fun x hx => fits x (List.mem_cons_of_mem _ hx), tail⟩ hf
      cases hp : put g with
      | none => rw [putFields_cons_none hp, rest]
      | some y => rw [putFields_cons_some hp, rest, fget_fset_other _ _ _ _ fitsHere (head f hf)]

/-! ### Writes and reads as replacements of fields -/

/-- What a write puts into a field (R7, Table 3). -/
def writePuts (old v : Word) (f : RegField) : Option Nat :=
  match f.acc with
  | .rw => some (fget v f.fld)
  | .w1c => some (fget old f.fld &&& (2 ^ f.fld.w - 1 - fget v f.fld))
  | _ => none

/-- What a read shows in a field in place of what is stored: 0 in one that is WO. -/
def readShows (f : RegField) : Option Nat := if f.acc = .wo then some 0 else none

/-- What a read leaves in a field: an RC field its reset value. -/
def readLeaves (f : RegField) : Option Nat := if f.acc = .rc then some f.reset else none

theorem written_eq_putFields (r : RegRow) (old v : Word) : written r old v = putFields (writePuts old v) r.fields old := by
  unfold written putFields
  congr 1
  funext x f
  unfold writePuts
  cases f.acc <;> rfl

theorem foldl_if_eq_putFields (c : RegField → Prop) [DecidablePred c] (y : RegField → Nat) (fs : List RegField) (v : Word) :
    fs.foldl (fun v f => if c f then fset v f.fld (y f) else v) v = putFields (fun f => if c f then some (y f) else none) fs v := by
  unfold putFields
  congr 1
  funext x f
  by_cases h : c f <;> simp [h]

theorem readReg_eq_putFields {a : Nat} {r : RegRow} (h : regRow a = some r) (s : State) :
    s.readReg a = some (putFields readShows r.fields (s.peek a),
      if putFields readLeaves r.fields (s.peek a) = s.peek a then s else s.poke a (putFields readLeaves r.fields (s.peek a))) := by
  unfold State.readReg
  simp only [h, foldl_if_eq_putFields]
  rfl

/-- What any register reads as after one is stored. -/
theorem State.peek_poke (s : State) (a : Nat) (v : Word) (b : Nat) : (s.poke a v).peek b = if b = a then v else s.peek b := by
  unfold State.peek State.poke
  by_cases hb : isPerf b = true <;> by_cases ha : isPerf a = true
  · simp [ha, hb]
  · have ne : b ≠ a := fun e => ha (e ▸ hb)
    simp [ha, hb, ne]
  · have ne : b ≠ a := fun e => hb (e ▸ ha)
    simp only [ha, hb, ne, if_true, if_false]
    rfl
  · simp [ha, hb, State.reg_setReg]

theorem State.peek_poke_same (s : State) (a : Nat) (v : Word) : (s.poke a v).peek a = v := by
  rw [State.peek_poke, if_pos rfl]

/-- The register that a read leaves, whether or not the read changed it. -/
theorem readReg_leaves {a : Nat} {r : RegRow} (h : regRow a = some r) {s u : State} {v : Word}
    (e : s.readReg a = some (v, u)) : u.peek a = putFields readLeaves r.fields (s.peek a) := by
  rw [readReg_eq_putFields h] at e
  simp only [Option.some.injEq, Prod.mk.injEq] at e
  obtain ⟨-, rfl⟩ := e
  split
  · next same => exact same.symm
  · exact State.peek_poke_same _ _ _

theorem fget_written {r : RegRow} (ok : FieldsApart r.fields) {f : RegField} (hf : f ∈ r.fields) (old v : Word) :
    fget (written r old v) f.fld =
      match f.acc with
      | .rw => fget v f.fld
      | .w1c => fget old f.fld &&& (2 ^ f.fld.w - 1 - fget v f.fld)
      | _ => fget old f.fld := by
  rw [written_eq_putFields, fget_putFields _ ok hf]
  unfold writePuts
  cases f.acc with
  | rw => exact Nat.mod_eq_of_lt (fget_lt _ _)
  | w1c => exact Nat.mod_eq_of_lt (Nat.and_le_left.trans_lt (fget_lt _ _))
  | ro | rc | wo => rfl

/-- Settles O50: a read and a write each replace some of the fields, and the fields of every register lie apart. -/
theorem accessCodes : Obligations.AccessCodes := by
  unfold Obligations.AccessCodes
  intro a r h
  have ok := regRow_fieldsApart h
  refine ⟨fun f hf old v => fget_written ok hf old v, fun i old v hi out => ?_, fun s => ?_⟩
  · rw [written_eq_putFields, putFields_getLsbD_outside _ hi out]
  · have e := readReg_eq_putFields h s
    refine ⟨_, _, e, fun f hf => ?_⟩
    rw [readReg_leaves h e, fget_putFields readShows ok hf, fget_putFields readLeaves ok hf]
    unfold readShows readLeaves
    cases f.acc <;> simp

end Sys2Proof.Machine
end

section
/-! SUPPORT. The blocks of counters of R390 to R392: their registers lie apart, so a fold over the counters does to each what it
does to one; and what a write of a register does for each writer (R384). -/

namespace Sys2Proof.Machine

/-! ### A fold over indices that treats each by itself -/

/-- Where the step at one index finishes that index and leaves every other as it is, the fold finishes every index that it has
passed. -/
theorem foldl_range_each {σ : Type} {f : σ → Nat → σ} {Fresh Done : Nat → σ → Prop}
    (own : ∀ u i, Fresh i u → Done i (f u i)) (wait : ∀ u i j, j ≠ i → Fresh i u → Fresh i (f u j))
    (keep : ∀ u i j, j ≠ i → Done i u → Done i (f u j)) (n : Nat) (s : σ) (h : ∀ i, Fresh i s) (i : Nat) :
    (i < n → Done i ((List.range n).foldl f s)) ∧ (n ≤ i → Fresh i ((List.range n).foldl f s)) := by
  induction n with
  | zero => exact ⟨fun lt => absurd lt (Nat.not_lt_zero i), fun _ => h i⟩
  | succ n ih =>
    rw [List.range_succ, List.foldl_append, List.foldl_cons, List.foldl_nil]
    obtain ⟨done, fresh⟩ := ih
    refine ⟨fun lt => ?_, fun le => wait _ _ _ (by omega) (fresh (by omega))⟩
    by_cases e : n = i
    · subst e; exact own _ _ (fresh le_rfl)
    · exact keep _ _ _ e (done (by omega))

/-! ### The registers of a block's counters -/

theorem pcReg_inj {base i j k l : Nat} (hj : j < 4) (hl : l < 4) : pcReg base i j = pcReg base k l ↔ i = k ∧ j = l := by
  unfold pcReg
  omega

theorem pcCounters_chamber (n : Ch) : pcCounters (pcBase (.chamber n)) = 8 := by
  have hn := n.isLt
  refine if_pos ?_
  simp only [pcBase, PCC_CTRL, chWin, y4xWin]
  omega

theorem pcCounters_y4x : pcCounters (pcBase .y4x) = 32 := rfl

theorem isPerf_iff (a : Nat) : isPerf a = true ↔
    ((chWin 0 ≤ a ∧ a < chWin 1024 ∧ 0xC100 ≤ (a - chWin 0) % 0x10000 ∧ (a - chWin 0) % 0x10000 < 0xC200)
      ∨ (y4xWin 10 + 0x100 ≤ a ∧ a < y4xWin 10 + 0x500)) ∧ a % 0x20 ≠ 0 := by
  simp [isPerf, and_assoc]

/-- COUNT, SNAP and RATE of a block's counters are held with the counters. -/
theorem isPerf_pcReg (b : PcBlock) {i j : Nat} (hi : i < pcCounters (pcBase b)) (lo : 1 ≤ j) (hj : j < 4) :
    isPerf (pcReg (pcBase b) i j) = true := by
  rw [isPerf_iff]
  cases b with
  | chamber n =>
    have hn := n.isLt
    rw [pcCounters_chamber] at hi
    simp only [pcReg, pcBase, PCC_CTRL, chWin, y4xWin]
    omega
  | y4x =>
    rw [pcCounters_y4x] at hi
    simp only [pcReg, pcBase, PCX_CTRL, chWin, y4xWin]
    omega

theorem poke_of_isPerf {a : Nat} (h : isPerf a = true) (s : State) (v : Word) :
    s.poke a v = { s with perf := { s.perf with vals := kput s.perf.vals a v 0 } } := by
  unfold State.poke
  rw [if_pos h]

theorem kget_kdel {β : Type} (m : List (Nat × β)) (k j : Nat) (d : β) : kget (kdel m k) j d = if j = k then d else kget m j d := by
  rw [kget_kfind, kget_kfind, kfind_kdel]
  by_cases h : j = k <;> simp [h]

/-! ### Freezing (R390, R391) -/

theorem kget_markMixed (s : State) (a b : Nat) :
    kget (s.markMixed a).perf.mixed b false = if b = a then true else kget s.perf.mixed b false :=
  kget_kput s.perf.mixed a true false b false fun _ => rfl

/-- A change of FREEZE writes the block's control register and marks open windows. -/
theorem pcFreeze_frame {s : State} {base : Nat} {f : Bool} (h : s.get base PCC_CTRL.FREEZE ≠ bit f) :
    ∃ m, s.pcFreeze base f = { s.set base PCC_CTRL.FREEZE (bit f) with perf := { s.perf with mixed := m } } := by
  unfold State.pcFreeze
  rw [if_neg h]
  refine List.foldlRecOn (motive := fun u : State =>
    ∃ m, u = { s.set base PCC_CTRL.FREEZE (bit f) with perf := { s.perf with mixed := m } }) _ _ ⟨_, rfl⟩ ?_
  rintro _ ⟨m, rfl⟩ i -
  exact ⟨_, rfl⟩

/-- A change of FREEZE marks the open window of every counter of the block. -/
theorem pcFreeze_mixed {s : State} {base : Nat} {f : Bool} (h : s.get base PCC_CTRL.FREEZE ≠ bit f) {i : Nat}
    (hi : i < pcCounters base) : kget (s.pcFreeze base f).perf.mixed (pcReg base i 1) false = true := by
  unfold State.pcFreeze
  rw [if_neg h]
  refine (foldl_range_each (Fresh := fun _ _ => True) (Done := fun i (u : State) => kget u.perf.mixed (pcReg base i 1) false = true)
    (fun u i _ => ?_) (fun _ _ _ _ _ => trivial) (fun u i j _ marked => ?_) _ _ (fun _ => trivial) i).1 hi
  · rw [kget_markMixed, if_pos rfl]
  · rw [kget_markMixed, marked, ite_self]

theorem pcFreeze_same {s : State} {base : Nat} {f : Bool} (h : s.get base PCC_CTRL.FREEZE = bit f) : s.pcFreeze base f = s := by
  unfold State.pcFreeze
  rw [if_pos h]

/-! ### Clearing (R390) -/

theorem pcClear_frame (s : State) (b : PcBlock) :
    ∃ v, s.pcClear (pcBase b) = { s with perf := { s.perf with vals := v } } := by
  unfold State.pcClear
  refine List.foldlRecOn (motive := fun u : State => ∃ v, u = { s with perf := { s.perf with vals := v } }) _ _ ⟨_, rfl⟩ ?_
  rintro _ ⟨v, rfl⟩ i hi
  have lt := List.mem_range.1 hi
  rw [poke_of_isPerf (isPerf_pcReg b lt (by decide) (by decide)), poke_of_isPerf (isPerf_pcReg b lt (by decide) (by decide))]
  exact ⟨_, rfl⟩

/-- COUNT and SNAP of every counter are 0, RATE is as before. -/
theorem pcClear_peek (s : State) {base i : Nat} (hi : i < pcCounters base) :
    (s.pcClear base).peek (pcReg base i 1) = 0 ∧ (s.pcClear base).peek (pcReg base i 2) = 0
      ∧ (s.pcClear base).peek (pcReg base i 3) = s.peek (pcReg base i 3) := by
  unfold State.pcClear
  refine (foldl_range_each (Fresh := fun i u => u.peek (pcReg base i 3) = s.peek (pcReg base i 3))
    (Done := fun i u => u.peek (pcReg base i 1) = 0 ∧ u.peek (pcReg base i 2) = 0
      ∧ u.peek (pcReg base i 3) = s.peek (pcReg base i 3))
    (fun u i rate => ?_) (fun u i j ne rate => ?_) (fun u i j ne done => ?_) _ s (fun _ => rfl) i).1 hi
  · simp [State.peek_poke, pcReg_inj, rate]
  · simp [State.peek_poke, pcReg_inj, rate]
  · simp [State.peek_poke, pcReg_inj, ne.symm, done]

/-! ### A window's end (R391, R392) -/

theorem poke_win (s : State) (a : Nat) (v : Word) : (s.poke a v).perf.win = s.perf.win := by
  unfold State.poke
  split <;> rfl

theorem poke_mixed (s : State) (a : Nat) (v : Word) : (s.poke a v).perf.mixed = s.perf.mixed := by
  unfold State.poke
  split <;> rfl

/-- The count of a counter's open window, as SNAP takes it. -/
def State.windowCount (s : State) (c : Nat) : Nat := kget s.perf.win c 0 % 2 ^ 48

/-- The open window of counter `i` is as it was in `s`. -/
def WindowOpen (base : Nat) (s : State) (i : Nat) (u : State) : Prop :=
  kget u.perf.win (pcReg base i 1) 0 = kget s.perf.win (pcReg base i 1) 0
    ∧ kget u.perf.mixed (pcReg base i 1) false = kget s.perf.mixed (pcReg base i 1) false

/-- The window of counter `i` that was open in `s` is latched, and a new one is open. -/
def WindowLatched (base len : Nat) (s : State) (i : Nat) (u : State) : Prop :=
  u.peek (pcReg base i 2) = BitVec.ofNat 64 (s.windowCount (pcReg base i 1) + bit (kget s.perf.mixed (pcReg base i 1) false) * 2 ^ 49)
    ∧ u.peek (pcReg base i 3) = BitVec.ofNat 64 (min 0xFFFFFFFF (s.windowCount (pcReg base i 1) / len))
    ∧ kget u.perf.win (pcReg base i 1) 0 = 0

section pcLatch

variable (s : State) (base len i : Nat)

theorem pcLatch_win (a : Nat) :
    kget (s.pcLatch base len i).perf.win a 0 = if a = pcReg base i 1 then 0 else kget s.perf.win a 0 := by
  rw [← kget_kdel]
  simp only [State.pcLatch, poke_win]

theorem pcLatch_mixed (a : Nat) :
    kget (s.pcLatch base len i).perf.mixed a false = if a = pcReg base i 1 then false else kget s.perf.mixed a false := by
  rw [← kget_kdel]
  simp only [State.pcLatch, poke_mixed]

theorem pcLatch_peek (a : Nat) : (s.pcLatch base len i).peek a =
    if a = pcReg base i 3 then BitVec.ofNat 64 (min 0xFFFFFFFF (s.windowCount (pcReg base i 1) / len))
    else if a = pcReg base i 2 then
      BitVec.ofNat 64 (s.windowCount (pcReg base i 1) + bit (kget s.perf.mixed (pcReg base i 1) false) * 2 ^ 49)
    else s.peek a := by
  rw [← State.peek_poke, ← State.peek_poke]
  rfl

end pcLatch

theorem pcLatch_only (s : State) (b : PcBlock) (len : Nat) {i : Nat} (hi : i < pcCounters (pcBase b)) :
    PerfOnly s (s.pcLatch (pcBase b) len i) := by
  simp only [State.pcLatch]
  rw [poke_of_isPerf (isPerf_pcReg b hi (by decide) (by decide)), poke_of_isPerf (isPerf_pcReg b hi (by decide) (by decide))]
  exact ⟨_, rfl⟩

/-- All counters of a block, latched. -/
def State.pcLatchAll (s : State) (base len : Nat) : State :=
  (List.range (pcCounters base)).foldl (fun (s : State) i => s.pcLatch base len i) s

theorem pcLatchAll_only (s : State) (b : PcBlock) (len : Nat) : PerfOnly s (s.pcLatchAll (pcBase b) len) :=
  List.foldlRecOn (motive := PerfOnly s) _ _ (.refl s) fun u h _ hi => h.trans (pcLatch_only u b len (List.mem_range.1 hi))

theorem pcLatchAll_latched (s : State) (base len : Nat) {i : Nat} (hi : i < pcCounters base) :
    WindowLatched base len s i (s.pcLatchAll base len) := by
  refine (foldl_range_each (Fresh := WindowOpen base s) (Done := WindowLatched base len s)
    (fun u i opened => ?_) (fun u i j ne opened => ?_) (fun u i j ne latched => ?_) _ s (fun _ => ⟨rfl, rfl⟩) i).1 hi
  · obtain ⟨win, mixed⟩ := opened
    simp [WindowLatched, pcLatch_peek, pcLatch_win, pcReg_inj, State.windowCount, win, mixed]
  · obtain ⟨win, mixed⟩ := opened
    simp [WindowOpen, pcLatch_win, pcLatch_mixed, pcReg_inj, ne.symm, win, mixed]
  · obtain ⟨snap, rate, win⟩ := latched
    simp [WindowLatched, pcLatch_peek, pcLatch_win, pcReg_inj, ne.symm, snap, rate, win]

/-- The registers that show a window's end: the boundary's time, the sequence number, RUNNING where the windows do not repeat. -/
def State.pcShowEnd (s : State) (base lag : Nat) : State :=
  let st := base + 0x18
  let s := s.setReg (base + 0x20) (BitVec.ofNat 64 (s.now - lag))
  let s := s.set st PCC_WSTATUS.SEQ (s.get st PCC_WSTATUS.SEQ + 1)
  if s.get (base + 8) PCC_WINDOW.REPEAT = 0 then s.set st PCC_WSTATUS.RUNNING 0 else s

theorem pcShowEnd_only (s : State) (base lag : Nat) : RegsOnly s (s.pcShowEnd base lag) :=
  ((setReg_only s _ _).trans (set_only _ _ _ _)).trans (ite_rel (fun _ => set_only _ _ _ _) fun _ => .refl _)

theorem pcShowEnd_time (s : State) (base lag : Nat) :
    (s.pcShowEnd base lag).reg (base + 0x20) = BitVec.ofNat 64 (s.now - lag) := by
  have ne : base + 0x20 ≠ base + 0x18 := by omega
  unfold State.pcShowEnd
  dsimp only
  split
  · rw [State.reg_set_ne _ _ _ ne, State.reg_set_ne _ _ _ ne, State.reg_setReg_same]
  · rw [State.reg_set_ne _ _ _ ne, State.reg_setReg_same]

theorem pcShowEnd_seq (s : State) (base lag : Nat) : (s.pcShowEnd base lag).get (base + 0x18) PCC_WSTATUS.SEQ
    = (s.get (base + 0x18) PCC_WSTATUS.SEQ + 1) % 2 ^ 32 := by
  have ne : base + 0x18 ≠ base + 0x20 := by omega
  have before : (s.setReg (base + 0x20) (BitVec.ofNat 64 (s.now - lag))).get (base + 0x18) PCC_WSTATUS.SEQ
      = s.get (base + 0x18) PCC_WSTATUS.SEQ := by
    rw [State.get, State.get, State.reg_setReg_ne _ _ ne]
  unfold State.pcShowEnd
  dsimp only
  rw [before]
  split
  · rw [State.get_set_other _ _ _ _ _ _ (by decide) (by decide), State.get_set_same _ _ _ _ (by decide)]; rfl
  · rw [State.get_set_same _ _ _ _ (by decide)]; rfl

theorem pcShowEnd_running {s : State} {base : Nat} (lag : Nat) (once : s.get (base + 8) PCC_WINDOW.REPEAT = 0) :
    (s.pcShowEnd base lag).get (base + 0x18) PCC_WSTATUS.RUNNING = 0 := by
  unfold State.pcShowEnd
  dsimp only
  rw [if_pos]
  · rw [State.get_set_same _ _ _ _ (by decide), Nat.zero_mod]
  · rw [State.get_set_ne _ _ _ _ (by omega), State.get, State.reg_setReg_ne _ _ (by omega)]
    exact once

/-- The boundary is the block's last. -/
def State.pcMarkEnd (s : State) (base lag : Nat) : State :=
  { s with perf := { s.perf with armed := kput s.perf.armed base (s.clk - lag) 0 } }

/-- Within 50 ns of a boundary after the one before it, every counter is latched and the block shows the window's end. -/
theorem execPcWindowBoundary_of_due {s : State} {b : PcBlock} {lag : Nat} (hlag : s.pcLag (pcBase b) = some lag)
    (running : s.get (pcBase b + 0x18) PCC_WSTATUS.RUNNING = 1) (near : lag ≤ 5)
    (fresh : kget s.perf.armed (pcBase b) 0 < s.clk - lag) :
    execPcWindowBoundary b s = .next (((s.pcLatchAll (pcBase b) (s.get (pcBase b + 8) PCC_WINDOW.LENGTH)).pcShowEnd
      (pcBase b) lag).pcMarkEnd (pcBase b) lag) := by
  unfold execPcWindowBoundary
  dsimp only
  rw [hlag]
  exact if_neg (by omega)

theorem RegsOnly.peek_of_isPerf {s u : State} (h : RegsOnly s u) {a : Nat} (p : isPerf a = true) : u.peek a = s.peek a := by
  obtain ⟨r, rfl⟩ := h
  unfold State.peek
  rw [if_pos p, if_pos p]

/-- A window's end that is latched stays so while the block shows it. -/
theorem WindowLatched.showEnd {s u : State} {b : PcBlock} {len i : Nat} (h : WindowLatched (pcBase b) len s i u)
    (hi : i < pcCounters (pcBase b)) (lag : Nat) :
    WindowLatched (pcBase b) len s i ((u.pcShowEnd (pcBase b) lag).pcMarkEnd (pcBase b) lag) := by
  have shown := pcShowEnd_only u (pcBase b) lag
  have same (j : Nat) (lo : 1 ≤ j) (hj : j < 4) := shown.peek_of_isPerf (isPerf_pcReg b hi lo hj)
  obtain ⟨snap, rate, win⟩ := h
  refine ⟨(same 2 (by decide) (by decide)).trans snap, (same 3 (by decide) (by decide)).trans rate, ?_⟩
  obtain ⟨r, e⟩ := shown
  rw [e]
  exact win

/-! ### The commands -/

theorem pcFreeze_complete (s : State) (b : PcBlock) (f : Bool) :
    (s.get (pcBase b) PCC_CTRL.FREEZE = bit f → exec (.pcFreeze b f) s = .next s)
      ∧ (s.get (pcBase b) PCC_CTRL.FREEZE ≠ bit f →
        ∃ u, exec (.pcFreeze b f) s = .next u ∧ u = { s with regs := u.regs, perf := { s.perf with mixed := u.perf.mixed } }
          ∧ KeepsRegs (· = pcBase b) s u ∧ u.get (pcBase b) PCC_CTRL.FREEZE = bit f
          ∧ ∀ i, i < pcCounters (pcBase b) → kget u.perf.mixed (pcReg (pcBase b) i 1) false = true) := by
  refine ⟨fun h => congrArg Host.Outcome.next (pcFreeze_same h), fun h => ?_⟩
  have marked := fun i => pcFreeze_mixed (i := i) h
  obtain ⟨m, e⟩ := pcFreeze_frame h
  rw [e] at marked
  refine ⟨_, congrArg Host.Outcome.next e, rfl, fun a ne => State.reg_set_ne s _ _ ne, ?_, marked⟩
  have stored : (s.set (pcBase b) PCC_CTRL.FREEZE (bit f)).get (pcBase b) PCC_CTRL.FREEZE = bit f % 2 ^ 1 :=
    State.get_set_same _ _ _ _ (by decide)
  refine Eq.trans stored ?_
  cases f <;> rfl

theorem pcClear_complete (s : State) (b : PcBlock) :
    ∃ u, exec (.pcClear b) s = .next u ∧ u = { s with perf := { s.perf with vals := u.perf.vals } }
      ∧ ∀ i, i < pcCounters (pcBase b) → u.peek (pcReg (pcBase b) i 1) = 0 ∧ u.peek (pcReg (pcBase b) i 2) = 0
        ∧ u.peek (pcReg (pcBase b) i 3) = s.peek (pcReg (pcBase b) i 3) := by
  refine ⟨_, rfl, ?_, fun i hi => pcClear_peek s hi⟩
  obtain ⟨v, e⟩ := pcClear_frame s b
  rw [e]

theorem pcWindowBoundary_complete {s : State} {b : PcBlock} {lag : Nat} (hlag : s.pcLag (pcBase b) = some lag)
    (running : s.get (pcBase b + 0x18) PCC_WSTATUS.RUNNING = 1) (near : lag ≤ 5)
    (fresh : kget s.perf.armed (pcBase b) 0 < s.clk - lag) :
    ∃ u, exec (.pcWindowBoundary b) s = .next u ∧ Apart s u
      ∧ u.reg (pcBase b + 0x20) = BitVec.ofNat 64 (s.now - lag)
      ∧ u.get (pcBase b + 0x18) PCC_WSTATUS.SEQ = (s.get (pcBase b + 0x18) PCC_WSTATUS.SEQ + 1) % 2 ^ 32
      ∧ (s.get (pcBase b + 8) PCC_WINDOW.REPEAT = 0 → u.get (pcBase b + 0x18) PCC_WSTATUS.RUNNING = 0)
      ∧ ∀ i, i < pcCounters (pcBase b) → WindowLatched (pcBase b) (s.get (pcBase b + 8) PCC_WINDOW.LENGTH) s i u := by
  have latched := fun i => pcLatchAll_latched s (pcBase b) (s.get (pcBase b + 8) PCC_WINDOW.LENGTH) (i := i)
  have due := execPcWindowBoundary_of_due hlag running near fresh
  obtain ⟨p, e⟩ := pcLatchAll_only s b (s.get (pcBase b + 8) PCC_WINDOW.LENGTH)
  rw [e] at latched due
  refine ⟨_, due, ?_, ?_, ?_, ?_, fun i hi => (latched i hi).showEnd hi lag⟩
  · obtain ⟨r, e'⟩ := pcShowEnd_only { s with perf := p } (pcBase b) lag
    rw [e']
    exact ⟨rfl, rfl, rfl, rfl, rfl⟩
  · exact pcShowEnd_time { s with perf := p } _ _
  · exact pcShowEnd_seq { s with perf := p } _ _
  · exact pcShowEnd_running (s := { s with perf := p }) _

/-- A write of a task goes to a register that its chapter lets it write, changes nothing at another, and faults where none lies. -/
theorem registerWrite_task (s : State) (n : Ch) (t : Tag) (a : Nat) (v : Word) :
    (a % 8 = 0 → (regRow a).isSome = true →
      exec (.registerWrite (.task n t) a v) s = .next (if taskMayWrite a then s.writeReg a v else s))
    ∧ (a % 8 ≠ 0 ∨ regRow a = none →
      exec (.registerWrite (.task n t) a v) s
        = .next (s.free.2.memFault n t gmNoTarget s.free.1.toNat 1 (s.task n t).nextId)) := by
  refine ⟨fun aligned lies => if_neg ?_, fun h => if_pos (h.imp_right fun absent => by rw [absent]; rfl)⟩
  rintro (odd | absent)
  · exact odd aligned
  · rw [Option.isNone_iff_eq_none.1 absent] at lies
    cases lies

/-- A write of the host goes to a Sirdy register that has a field it may write, and changes nothing at another; LN_HOSTBOOT apart. -/
theorem registerWrite_host (s : State) {a : Nat} (h : a ≠ LN_HOSTBOOT) (v : Word) :
    exec (.registerWrite .host a v) s = .next (if hostMayWrite a then s.syWrite a v else s) := by
  refine (if_neg h).trans ?_
  split <;> rfl

/-- Settles O49: freezing and clearing fold over the block's counters, a window's end latches each, and a write goes by its writer. -/
theorem countersAndWritesComplete : Obligations.CountersAndWritesComplete := by
  unfold Obligations.CountersAndWritesComplete
  exact fun s => ⟨pcFreeze_complete s, pcClear_complete s,
    fun b lag hlag running near fresh => pcWindowBoundary_complete hlag running near fresh,
    fun a v => ⟨rfl, fun h => registerWrite_host s h v, fun n t => registerWrite_task s n t a v⟩⟩

end Sys2Proof.Machine
end

section
/-! SUPPORT. A cycle of the 100 MHz reference (log entries 1 and 107): what the ports, the logs and the cask do in it lies apart from the
timebase, which then counts. -/

namespace Sys2Proof.Machine

/-! ### What lies apart from the timebase -/

/-- The registers that say how the timebase counts. -/
def timeRegs : List Nat := [TB_TIME, TB_PPS, TB_FREQ, GL_CTRL]

/-- The clock, the queue, the Gallery's state, memory and the timebase's registers are as before. -/
structure OffTime (s u : State) : Prop where
  clk : u.clk = s.clk
  pending : u.pending = s.pending
  gl : u.gl = s.gl
  cells : SameCells s u
  regs : ∀ a ∈ timeRegs, u.reg a = s.reg a

theorem OffTime.refl (s : State) : OffTime s s := ⟨rfl, rfl, rfl, .refl s, fun _ _ => rfl⟩

theorem OffTime.trans {s u v : State} (h : OffTime s u) (g : OffTime u v) : OffTime s v :=
  ⟨g.clk.trans h.clk, g.pending.trans h.pending, g.gl.trans h.gl, h.cells.trans g.cells,
    fun a ha => (g.regs a ha).trans (h.regs a ha)⟩

theorem OffTime.foldl {α : Type} {f : State → α → State} (h : ∀ s x, OffTime s (f s x)) (l : List α) (s : State) :
    OffTime s (l.foldl f s) := foldl_rel OffTime.refl OffTime.trans h l s

theorem set_offTime (s : State) {a : Nat} (h : a ∉ timeRegs) (f : Fld) (x : Nat) : OffTime s (s.set a f x) :=
  ⟨rfl, rfl, rfl, (set_only s a f x).cells, fun _ hb => State.reg_set_ne s f x fun e => h (e ▸ hb)⟩

theorem bump_offTime (s : State) {a : Nat} (h : a ∉ timeRegs) (k : Nat) : OffTime s (s.bump a k) := set_offTime s h _ _

theorem PerfOnly.offTime {s u : State} (h : PerfOnly s u) : OffTime s u := by
  obtain ⟨p, rfl⟩ := h
  exact ⟨rfl, rfl, rfl, .refl s, fun _ _ => rfl⟩

theorem modLogs_offTime (s : State) (f : Logs → Logs) : OffTime s (s.modLogs f) := ⟨rfl, rfl, rfl, .refl s, fun _ _ => rfl⟩

theorem modSvc_offTime (s : State) (f : Svc → Svc) : OffTime s (s.modSvc f) := ⟨rfl, rfl, rfl, .refl s, fun _ _ => rfl⟩

theorem modCask_offTime (s : State) (f : Cask → Cask) : OffTime s (s.modCask f) := ⟨rfl, rfl, rfl, .refl s, fun _ _ => rfl⟩

theorem modSport_offTime (s : State) (p : Nat) (f : SPortSt → SPortSt) : OffTime s (s.modSport p f) :=
  ⟨rfl, rfl, rfl, .refl s, fun _ _ => rfl⟩

theorem modTask_offTime (s : State) (n t : Nat) (f : Task → Task) : OffTime s (s.modTask n t f) :=
  ⟨rfl, rfl, rfl, .refl s, fun _ _ => rfl⟩

/-! ### Events and what AOUT and LN_CHANGE show -/

theorem showFifo_offTime (s : State) : OffTime s s.showFifo :=
  ((set_offTime s (by decide) _ _).trans (set_offTime _ (by decide) _ _)).trans (set_offTime _ (by decide) _ _)

theorem showChange_offTime (s : State) : OffTime s s.showChange :=
  ((set_offTime s (by decide) _ _).trans (set_offTime _ (by decide) _ _)).trans (set_offTime _ (by decide) _ _)

theorem showAout_offTime (s : State) : OffTime s s.showAout :=
  ((showChange_offTime s).trans (set_offTime _ (by decide) _ _)).trans (set_offTime _ (by decide) _ _)

theorem showFollow_offTime (s : State) : OffTime s s.showFollow := ite_rel (fun _ => .refl s) fun _ => showAout_offTime s

theorem logGrows_offTime (s : State) (k : Nat) : OffTime s (s.logGrows k) := ⟨rfl, rfl, rfl, .refl s, fun _ _ => rfl⟩

theorem record_offTime (s : State) (code source arg kind : Nat) (detail : List Word) :
    OffTime s (s.record code source arg kind detail) :=
  (((set_offTime s (by decide) _ _).trans (modLogs_offTime _ _)).trans (modLogs_offTime _ _)).trans
    (ite_rel (fun _ => bump_offTime _ (by decide) _) fun _ => (modLogs_offTime _ _).trans (logGrows_offTime _ _))

theorem event_offTime (s : State) (code source arg : Nat) : OffTime s (s.event code source arg) :=
  ((modLogs_offTime s _).trans (showFifo_offTime _)).trans (record_offTime _ _ _ _ _ _)

/-! ### The ports -/

theorem GL_PORT_STATUS_notMem_timeRegs (p : Nat) : GL_PORT_STATUS p ∉ timeRegs := by
  simp only [timeRegs, GL_PORT_STATUS, TB_TIME, TB_PPS, TB_FREQ, GL_CTRL, y4xWin, List.mem_cons, List.not_mem_nil, or_false]
  omega

theorem SY_PORT_STATUS_notMem_timeRegs (p : Nat) : SY_PORT_STATUS p ∉ timeRegs := by
  simp only [timeRegs, SY_PORT_STATUS, TB_TIME, TB_PPS, TB_FREQ, GL_CTRL, y4xWin, List.mem_cons, List.not_mem_nil, or_false]
  omega

theorem showHold_offTime (s : State) (p : Nat) : OffTime s (s.showHold p) :=
  (set_offTime s (GL_PORT_STATUS_notMem_timeRegs p) _ _).trans (set_offTime _ (GL_PORT_STATUS_notMem_timeRegs p) _ _)

theorem recalPorts_offTime (s : State) : OffTime s s.recalPorts := ite_rel (fun _ => .refl s) fun _ => modSvc_offTime s _

theorem spTo_offTime (s : State) (p st : Nat) : OffTime s (s.spTo p st) := by
  have shown := (set_offTime s (SY_PORT_STATUS_notMem_timeRegs p) SY_PORT_STATUS.STATE st).trans (event_offTime _ 0xE001 p st)
  exact ite_rel (fun _ => .refl s) fun _ => ite_rel (fun _ => shown) fun _ =>
    (shown.trans (recalPorts_offTime _)).trans (showAout_offTime _)

theorem syTimer_offTime (s : State) (p : Nat) : OffTime s (s.syTimer p) :=
  ite_rel (fun _ => (modSport_offTime s p _).trans (spTo_offTime _ p _)) fun _ => .refl s

theorem syMarkStall_offTime (s : State) (p : Nat) : OffTime s (s.syMarkStall p) := modSport_offTime s p _

/-! ### The cask -/

theorem showCask_offTime (s : State) : OffTime s s.showCask := by
  unfold State.showCask
  extract_lets bs avg top low health s1 s2 s3 s4 s5
  have h1 : OffTime s s1 := (set_offTime s (by decide) _ _).trans (set_offTime _ (by decide) _ _)
  have h2 : OffTime s s2 := h1.trans (set_offTime _ (by decide) _ _)
  have h3 : OffTime s s3 := h2.trans ((set_offTime _ (by decide) _ _).trans (set_offTime _ (by decide) _ _))
  have h4 : OffTime s s4 := h3.trans (set_offTime _ (by decide) _ _)
  have h5 : OffTime s s5 := h4.trans (set_offTime _ (by decide) _ _)
  exact h5.trans ((set_offTime _ (by decide) _ _).trans (showAout_offTime _))

theorem modNand_offTime (s : State) (b : Nat) (f : NBlock → NBlock) : OffTime s (s.modNand b f) := modCask_offTime s _

theorem eraseNand_offTime (s : State) (b : Nat) : OffTime s (s.eraseNand b) := modNand_offTime s b _

theorem sweepNand_offTime (s : State) (b : Nat) : OffTime s (s.sweepNand b) :=
  ite_rel (fun _ => eraseNand_offTime s b) fun _ => .refl s

theorem caskRead_offTime (s : State) (b pages : Nat) : OffTime s (s.caskRead b pages) := by
  unfold State.caskRead
  extract_lets n s1
  have h1 : OffTime s s1 := (bump_offTime s (by decide) _).trans (modCask_offTime _ _)
  exact (h1.trans (tallyX_only _ _ _ _).offTime).trans (modNand_offTime _ _ _)

theorem caskWrite_offTime (s : State) (b k : Nat) : OffTime s (s.caskWrite b k) :=
  ((bump_offTime s (by decide) _).trans (modCask_offTime _ _)).trans (tallyX_only _ _ _ _).offTime

theorem putUnit_offTime (s : State) (u : Nat) : OffTime s (s.putUnit u) := by
  unfold State.putUnit
  extract_lets fits
  split
  · exact .refl s
  · exact (((modCask_offTime s _).trans (modNand_offTime _ _ _)).trans (caskWrite_offTime _ _ _)).trans
      (.foldl sweepNand_offTime _ _)

theorem moveNand_offTime (s : State) (b toA : Nat) : OffTime s (s.moveNand b toA) := by
  unfold State.moveNand
  extract_lets us s1 s2
  have h1 : OffTime s s1 := modNand_offTime s _ _
  have h2 : OffTime s s2 := h1.trans (ite_rel (fun _ => modCask_offTime _ _) fun _ => .refl _)
  exact ((h2.trans (caskRead_offTime _ _ _)).trans (caskWrite_offTime _ _ _)).trans (modNand_offTime _ _ _)

theorem refreshNand_offTime (s : State) (b : Nat) (disturb : Bool) : OffTime s (s.refreshNand b disturb) := by
  refine ite_rel (fun _ => .refl s) fun _ => ?_
  split
  · exact .refl s
  · have moved (f : Nat) := ((moveNand_offTime s b f).trans (eraseNand_offTime _ b)).trans
      (bump_offTime _ (a := CK_REFRESH) (by decide) 1)
    exact ((moved _).trans (ite_rel (fun _ => bump_offTime _ (by decide) 1) fun _ => .refl _)).trans (showCask_offTime _)

theorem disturbNand_offTime (s : State) (b : Nat) : OffTime s (s.disturbNand b) :=
  ite_rel (fun _ => refreshNand_offTime s b true) fun _ => .refl s

theorem ageNand_offTime (s : State) : OffTime s s.ageNand :=
  ite_rel (fun _ => .refl s) fun _ => .foldl (fun u (e : Nat × NBlock) => refreshNand_offTime u e.1 false) _ s

theorem rewriteUnit_offTime (s : State) (u : Nat) (part : Bool) : OffTime s (s.rewriteUnit u part) := by
  unfold State.rewriteUnit
  split
  · exact ite_rel (fun _ => ((caskRead_offTime s _ _).trans (putUnit_offTime _ u)).trans (disturbNand_offTime _ _))
      fun _ => putUnit_offTime s u
  · exact putUnit_offTime s u

theorem flushLogs_offTime (s : State) : OffTime s s.flushLogs :=
  ite_rel (fun _ => .refl s) fun _ =>
    ((OffTime.foldl (fun u k => rewriteUnit_offTime u (logUnit + k) true) _ s).trans (modCask_offTime _ _)).trans
      (showCask_offTime _)

/-! ### The timebase counts -/

theorem tickCounter_only (s : State) (a : Nat) (sel : Word) : PerfOnly s (s.tickCounter a sel) := by
  have add (k : Nat) : PerfOnly s (if k = 0 then s else { s with perf := s.perf.add (a + 8) k }) :=
    ite_rel (fun _ => .refl s) fun _ => ⟨_, rfl⟩
  refine ite_rel (fun _ => .refl s) fun _ => ?_
  split
  · exact ite_rel (fun _ => .refl s) fun _ => add _
  · exact ite_rel (fun _ => .refl s) fun _ => ite_rel (fun _ => add _) fun _ => add _

theorem tickStall_offTime (s : State) (n t : Nat) : OffTime s (s.tickStall n t) :=
  ite_rel (fun _ => .refl s) fun _ => modTask_offTime s n t _

/-- A tick of timebase time adds 1 to TB_TIME; what else it changes lies apart from the timebase. -/
theorem timeTick_eq (s : State) : ∃ v, OffTime s v ∧ s.timeTick = v.setReg TB_TIME (BitVec.ofNat 64 (s.now + 1)) := by
  unfold State.timeTick
  extract_lets regs s1 s2
  have h1 : OffTime s s1 := .foldl (fun u (e : Nat × Word) => ite_rel (fun _ => (tickCounter_only u e.1 e.2).offTime) fun _ => .refl u) _ s
  have h2 : OffTime s s2 := h1.trans (.foldl (fun u e => by
    split
    · exact tickStall_offTime u _ _
    · exact .refl u) _ _)
  refine ⟨s2, h2, ?_⟩
  rw [State.now, State.now, h2.regs TB_TIME (by decide)]

/-- After some ticks of timebase time the clock, the queue, the Gallery's state and memory are as before. -/
theorem timeTicks_spec (k : Nat) (s : State) :
    (timeTicks k s).clk = s.clk ∧ (timeTicks k s).pending = s.pending ∧ (timeTicks k s).gl = s.gl ∧ SameCells s (timeTicks k s)
      ∧ (timeTicks k s).reg TB_TIME = BitVec.ofNat 64 (s.now + k) := by
  induction k generalizing s with
  | zero => exact ⟨rfl, rfl, rfl, .refl s, by simp [timeTicks, State.now]⟩
  | succ k ih =>
    obtain ⟨v, off, tick⟩ := timeTick_eq s
    obtain ⟨clk, pending, gl, cells, time⟩ := ih s.timeTick
    have now : s.timeTick.now = (s.now + 1) % 2 ^ 64 := by
      rw [tick, State.now, State.reg_setReg_same, BitVec.toNat_ofNat]
    rw [tick] at clk pending gl cells
    simp only [timeTicks, tick]
    refine ⟨clk.trans off.clk, pending.trans off.pending, gl.trans off.gl, off.cells.trans cells, ?_⟩
    rw [← tick, time, now]
    apply BitVec.eq_of_toNat_eq
    simp only [BitVec.toNat_ofNat, Nat.mod_add_mod]
    congr 1
    omega

/-! ### Slewing and the kept frequency correction (R278, R380) -/

/-- What the slew adds to a tick: nothing until a whole tick has gathered. -/
theorem slewStep_fst (s : State) : s.slewStep.1 =
    if s.gl.slew = 0 ∨ s.gl.slewAcc + s.get GL_CTRL GL_CTRL.SLEW_PPM < 1000000 then 0 else s.gl.slew.sign := by
  unfold State.slewStep
  by_cases still : s.gl.slew = 0
  · simp [still]
  · by_cases few : s.gl.slewAcc + s.get GL_CTRL GL_CTRL.SLEW_PPM < 1000000 <;> simp [still, few]

/-- What the slew has added is no longer to be slewed. -/
theorem slewStep_snd (s : State) :
    ∃ acc, s.slewStep.2 = s.modGl fun g => { g with slewAcc := acc, slew := s.gl.slew - s.slewStep.1 } := by
  unfold State.slewStep
  by_cases still : s.gl.slew = 0
  · exact ⟨0, by simp [still, State.modGl]⟩
  · by_cases few : s.gl.slewAcc + s.get GL_CTRL GL_CTRL.SLEW_PPM < 1000000
    · exact ⟨s.gl.slewAcc + s.get GL_CTRL GL_CTRL.SLEW_PPM, by simp [still, few, State.modGl]⟩
    · exact ⟨s.gl.slewAcc + s.get GL_CTRL GL_CTRL.SLEW_PPM - 1000000, by simp [still, few, State.modGl]⟩

theorem freqStep_snd (s : State) : ∃ acc, s.freqStep.2 = s.modGl fun g => { g with freqAcc := acc } := by
  unfold State.freqStep
  dsimp only
  split
  · exact ⟨s.gl.freqAcc, rfl⟩
  · exact ⟨_, rfl⟩

/-- What the kept correction adds or takes in a tick: a whole tick once one has gathered, nothing where the PPS steers the timebase. -/
theorem freqStep_fst (s : State) : s.freqStep.1 =
    if s.get TB_PPS TB_PPS.STATE = 1 ∨ s.get TB_PPS TB_PPS.STATE = 2 then 0
    else
      let acc := s.gl.freqAcc + signed 32 (s.get TB_FREQ TB_FREQ.CORR)
      if 1000000000000 ≤ acc then 1 else if acc ≤ -1000000000000 then -1 else 0 := by
  unfold State.freqStep
  dsimp only
  split <;> rfl

theorem freqStep_fst_congr {s u : State} (pps : u.reg TB_PPS = s.reg TB_PPS) (freq : u.reg TB_FREQ = s.reg TB_FREQ)
    (acc : u.gl.freqAcc = s.gl.freqAcc) : u.freqStep.1 = s.freqStep.1 := by
  rw [freqStep_fst, freqStep_fst]
  unfold State.get
  rw [pps, freq, acc]

/-- What the timebase does in a cycle of the reference that it counts. -/
def State.countCycle (s : State) : State :=
  if 0 < s.gl.slewDebt then s.modGl fun g => { g with slewDebt := g.slewDebt - 1 }
  else timeTicks (1 + s.slewStep.1 + s.slewStep.2.freqStep.1).toNat s.slewStep.2.freqStep.2

/-- A timebase that is not held counts one tick, with the slew and the correction. -/
theorem countCycle_free {s : State} (free : s.gl.slewDebt = 0) :
    s.countCycle.clk = s.clk ∧ s.countCycle.pending = s.pending ∧ SameCells s s.countCycle
      ∧ s.countCycle.reg TB_TIME = BitVec.ofNat 64 (s.now + (1 + s.slewStep.1 + s.freqStep.1).toNat)
      ∧ s.countCycle.gl.slew = s.gl.slew - s.slewStep.1 := by
  obtain ⟨acc, slewed⟩ := slewStep_snd s
  have freq : s.slewStep.2.freqStep.1 = s.freqStep.1 := by
    rw [slewed]
    exact freqStep_fst_congr rfl rfl rfl
  obtain ⟨left, corrected⟩ := freqStep_snd s.slewStep.2
  have counted : s.countCycle = timeTicks (1 + s.slewStep.1 + s.slewStep.2.freqStep.1).toNat s.slewStep.2.freqStep.2 :=
    if_neg (by omega)
  rw [freq, corrected, slewed] at counted
  rw [counted]
  obtain ⟨clk, pending, gl, cells, time⟩ := timeTicks_spec (1 + s.slewStep.1 + s.freqStep.1).toNat
    ((s.modGl fun g => { g with slewAcc := acc, slew := s.gl.slew - s.slewStep.1 }).modGl fun g => { g with freqAcc := left })
  exact ⟨clk, pending, cells, time, by rw [gl]; rfl⟩

/-- A timebase that is held counts nothing. -/
theorem countCycle_held {s : State} (held : 0 < s.gl.slewDebt) :
    s.countCycle = s.modGl fun g => { g with slewDebt := g.slewDebt - 1 } := if_pos held

/-! ### A cycle of the reference -/

/-- The clock of the reference, and that of the cask, count. -/
def State.startCycle (s : State) : State :=
  { s with clk := s.clk + 1, cask := { s.cask with ticks := s.cask.ticks + 1 } }

/-- What a cycle with power-good does before the timebase counts. -/
def State.serveCycle (s : State) : State :=
  let s := s.startCycle
  let s : State := (s.gl.ports.map (·.1)).foldl State.showHold s.lookFailed.flushLogs.ageNand.showFollow
  (s.sy.ports.map (·.1)).foldl (fun (s : State) p => (s.syTimer p).syMarkStall p) s

theorem tick_of_not_good {s : State} (off : s.pw.good = false) : s.tick = { s with clk := s.clk + 1 } := by
  unfold State.tick
  exact if_pos (by rw [off]; rfl)

theorem tick_of_good {s : State} (good : s.pw.good = true) : s.tick = s.serveCycle.countCycle := by
  unfold State.tick
  exact if_neg (by rw [good]; decide)

theorem lookFailed_offTime {s : State} (calm : s.gl.failedTo = []) : OffTime s s.lookFailed := by
  rw [show s.lookFailed = s from if_pos (by rw [calm]; rfl)]
  exact .refl s

/-- Where no WRITE or MSG has failed, what a cycle does before the timebase counts lies apart from it. -/
theorem serveCycle_offTime {s : State} (calm : s.gl.failedTo = []) : OffTime { s with clk := s.clk + 1 } s.serveCycle := by
  unfold State.serveCycle
  extract_lets s1 s2
  have h1 : OffTime { s with clk := s.clk + 1 } s1 := ⟨rfl, rfl, rfl, ⟨rfl, rfl, rfl, rfl⟩, fun _ _ => rfl⟩
  have h2 : OffTime s1 s2 :=
    (((lookFailed_offTime (s := s1) calm).trans ((flushLogs_offTime _).trans (ageNand_offTime _))).trans
      (showFollow_offTime _)).trans (.foldl showHold_offTime _ _)
  exact (h1.trans h2).trans (.foldl (fun u p => (syTimer_offTime u p).trans (syMarkStall_offTime _ p)) _ _)

/-- Settles O58: with power-good the ports, the logs and the cask act apart from the timebase, which then counts or is held. -/
theorem emptyQueueTick : Obligations.EmptyQueueTick := by
  unfold Obligations.EmptyQueueTick
  intro s empty
  refine ⟨s.tick, step_nil empty, tick_of_not_good, fun good calm => ?_⟩
  have off := serveCycle_offTime calm
  obtain ⟨clk, pending, gl, ⟨mem, chk, poison, noise⟩, regs⟩ := off
  have time : s.serveCycle.reg TB_TIME = s.reg TB_TIME := regs _ (by decide)
  have slew : s.serveCycle.slewStep.1 = s.slewStep.1 := by
    rw [slewStep_fst, slewStep_fst, State.get, State.get, gl, regs GL_CTRL (by decide)]
    rfl
  have freq : s.serveCycle.freqStep.1 = s.freqStep.1 :=
    freqStep_fst_congr (regs _ (by decide)) (regs _ (by decide)) (by rw [gl])
  rw [tick_of_good good]
  rcases Nat.eq_zero_or_pos s.gl.slewDebt with free | held
  · obtain ⟨clk', pending', ⟨mem', chk', poison', noise'⟩, time', slew'⟩ :=
      countCycle_free (s := s.serveCycle) (by rw [gl]; exact free)
    rw [slew, freq, State.now, time, slewStep_fst] at time'
    rw [slew, gl, slewStep_fst] at slew'
    exact ⟨clk'.trans clk, pending'.trans (pending.trans empty), mem'.trans mem, chk'.trans chk, poison'.trans poison,
      noise'.trans noise, fun _ => ⟨time', slew'⟩, fun held => absurd free held.ne'⟩
  · rw [countCycle_held (by rw [gl]; exact held)]
    exact ⟨clk, pending.trans empty, mem, chk, poison, noise, fun free => absurd free held.ne',
      fun _ => ⟨time, by simp [State.modGl, gl]⟩⟩

end Sys2Proof.Machine
end

section
/-! SUPPORT. Messages and timers of a passage (R12, R251, R259, R283, R324): what each command does with a message that a module which
answers it has taken, and when a timer acts. -/

namespace Sys2Proof.Machine

/-! ### The inbox (R251) -/

theorem kfind_append {β : Type} (m r : List (Nat × β)) (k : Nat) : kfind (m ++ r) k = (kfind m k).or (kfind r k) := by
  induction m with
  | nil => rfl
  | cons e m ih =>
    obtain ⟨j, v⟩ := e
    simp only [List.cons_append, kfind, ih]
    split <;> rfl

/-- A header that arrives takes its ticket's inbox slot from whatever lay there. -/
theorem arrive_inbox (s : State) (t : Nat) (h : List Word) : kfind (s.arrive t h).disp.inbox t = some h := by
  have emptied : kfind (kdel s.disp.inbox t) t = none := by simp
  calc kfind (s.arrive t h).disp.inbox t
      = (kfind (kdel s.disp.inbox t) t).or (kfind [(t, h)] t) := kfind_append _ _ t
    _ = some h := by simp [emptied, kfind]

theorem arrive_arrived (s : State) (t : Nat) (h : List Word) : kfind (s.arrive t h).disp.arrived t = some s.now := by
  simp [State.arrive]

/-! ### Messages (R12, R251, R259, R283, R324) -/

section messages

variable {s s1 : State} {f : GFrame} {b : Bool}

theorem msgStepHeader_of_taken (took : s.takeMsg 0 = some (f, true, s1)) :
    exec .msgStepHeader s = .next (if s1.svc.failAll then s1.failNotice (bytesWords 8 f.payload) 0x01FF
      else s1.arrive (f.aux % 16) (bytesWords 8 f.payload)) := by
  rw [show exec .msgStepHeader s = execMsgStepHeader s from rfl, execMsgStepHeader, took]
  exact (apply_ite Host.Outcome.next _ _ _).symm

/-- At the entry module a failure notice of a ticket that its request has already left only makes the ticket usable again. -/
theorem msgFailureNotice_of_stale (took : s.takeMsg 1 = some (f, true, s1)) (entry : s1.isEntry = true)
    (stale : s1.disp.stale.contains (f.aux % 16) = true) :
    exec .msgFailureNotice s = .next (s1.modDisp fun d => { d with stale := d.stale.erase (f.aux % 16) }).pump := by
  rw [show exec .msgFailureNotice s = execMsgFailureNotice s from rfl, execMsgFailureNotice, took]
  simp only [entry, stale, Bool.not_true, Bool.false_eq_true, if_false, if_true]

/-- At the entry module a failure notice of a ticket in use frees it and ends the request that it names. -/
theorem msgFailureNotice_of_request {r : Req} (took : s.takeMsg 1 = some (f, true, s1)) (entry : s1.isEntry = true)
    (fresh : s1.disp.stale.contains (f.aux % 16) = false)
    (named : (s1.disp.reqs.find? fun r => r.id = num f.payload 0 4) = some r) :
    exec .msgFailureNotice s
      = .next (((s1.freeTicket (f.aux % 16) false).endReq r 3 (num f.payload 4 4 % 65536) true).pump) := by
  have kept : (s1.freeTicket (f.aux % 16) false).disp.reqs = s1.disp.reqs := rfl
  rw [show exec .msgFailureNotice s = execMsgFailureNotice s from rfl, execMsgFailureNotice, took]
  simp only [entry, fresh, kept, named, Bool.not_true, Bool.false_eq_true, if_false]

theorem msgTokenIds_of_entry (took : s.takeMsg 2 = some (f, true, s1)) (entry : s1.isEntry = true) :
    exec .msgTokenIds s = .next (s1.modDisp fun d => { d with idMsgs := kset d.idMsgs (f.aux % 16) f.payload }) := by
  rw [show exec .msgTokenIds s = execMsgTokenIds s from rfl, execMsgTokenIds, took]
  exact if_pos entry

/-- A heartbeat counts where it comes from the module before this one, or where the passage record does not say which that is. -/
theorem msgPassageHeartbeat_of_upstream (took : s.takeMsg 3 = some (f, b, s1))
    (upstream : s1.pBefore = none ∨ s1.pBefore = some f.src) :
    exec .msgPassageHeartbeat s = .next (s1.modGl fun g => { g with passHeard := s1.clk }) := by
  have counts : s1.pBefore.all (· = f.src) = true := by
    rcases upstream with unknown | before
    · rw [unknown]; rfl
    · simp [before]
  rw [show exec .msgPassageHeartbeat s = execMsgPassageHeartbeat s from rfl, execMsgPassageHeartbeat, took]
  exact if_pos counts

theorem msgCutNotice_of_taken (took : s.takeMsg 4 = some (f, b, s1)) : exec .msgCutNotice s = .next s1.cutPassage := by
  rw [show exec .msgCutNotice s = execMsgCutNotice s from rfl, execMsgCutNotice, took]

/-- A restart probe comes back at the entry module. -/
theorem msgRestartProbe_of_entry (took : s.takeMsg 5 = some (f, true, s1)) (loaded : s1.loaded = true)
    (entry : s1.isEntry = true) : exec .msgRestartProbe s = .next (s1.probeBack f.payload) := by
  rw [show exec .msgRestartProbe s = execMsgRestartProbe s from rfl, execMsgRestartProbe, took]
  simp only [loaded, entry, Bool.not_true, Bool.false_eq_true, if_false, if_true]

/-- A restart probe reaches another module of the passage that is in one view with the entry module. -/
theorem msgRestartProbe_of_member (took : s.takeMsg 5 = some (f, true, s1)) (loaded : s1.loaded = true)
    (other : s1.isEntry = false) (view : s1.viewState = 1 ∨ s1.viewState = 2)
    (entryIn : s1.gl.view.contains s1.pEntry = true) (selfIn : s1.gl.view.contains s1.addr = true) :
    exec .msgRestartProbe s = .next (s1.probeHere f.payload) := by
  rw [show exec .msgRestartProbe s = execMsgRestartProbe s from rfl, execMsgRestartProbe, took]
  simp only [loaded, other, view, entryIn, selfIn, decide_true, Bool.not_true, Bool.false_eq_true, or_self, if_false]

end messages

/-! ### Timers of a passage (R283, R324) -/

theorem passageHeartbeatSend_of_serving {s : State} (recipe : s.hasRecipe = true) (serving : s.get LN_BOOT LN_BOOT.STAGE = 9) :
    exec .passageHeartbeatSend s = .next (s.sendNext 3 0 [] .message) := by
  refine if_neg ?_
  simp [recipe, serving]

theorem passageUpstreamLost_of_silence {s : State} (recipe : s.hasRecipe = true) (serving : s.get LN_BOOT LN_BOOT.STAGE = 9)
    (silent : ms 3 ≤ s.clk - s.gl.passHeard) : exec .passageUpstreamLost s = .next s.cutPassage := by
  refine if_neg ?_
  simp [recipe, serving, silent]

/-- While the passage is cut and no switch runs, the entry module's probe leaves once 100 ms have passed since the last one. -/
theorem restartProbeSend_of_cut {s : State} (entry : s.isEntry = true) (loaded : s.loaded = true)
    (created : s.recreating = false) (still : s.svc.switch = none) (cut : s.get GL_STATUS GL_STATUS.CUT = 1)
    (due : s.gl.lastProbe = 0 ∨ s.gl.lastProbe + ms 100 ≤ s.clk) :
    exec .restartProbeSend s
      = .next ((s.modGl fun g => { g with lastProbe := s.clk }).sendNext 5 0 (probePayload s.recipeGen false) .message) := by
  have notEarly : ¬ (s.gl.lastProbe ≠ 0 ∧ s.clk < s.gl.lastProbe + ms 100) := by omega
  rw [show exec .restartProbeSend s = execRestartProbeSend s from rfl, execRestartProbeSend]
  simp only [still, cut, entry, loaded, created, notEarly, true_or, if_true, Bool.not_true, Bool.false_eq_true, or_self, if_false]

/-- Settles O27: each message acts once it is taken by a module that answers it, each timer where it is due. -/
theorem dispatcherMessagesComplete : Obligations.DispatcherMessagesComplete := by
  unfold Obligations.DispatcherMessagesComplete
  intro s f s1
  refine ⟨fun took => ⟨fun serves => ?_, fun fails => ?_⟩,
    fun took entry => ⟨fun r fresh named => msgFailureNotice_of_request took entry fresh named,
      fun stale => msgFailureNotice_of_stale took entry stale⟩,
    fun took entry => ⟨_, msgTokenIds_of_entry took entry, rfl, (kfind_kset _ _ _ _).trans (if_pos rfl)⟩,
    fun b took upstream => ⟨_, msgPassageHeartbeat_of_upstream took upstream, rfl⟩,
    fun b took => msgCutNotice_of_taken took,
    fun took loaded => ⟨fun entry => msgRestartProbe_of_entry took loaded entry,
      fun other view entryIn selfIn => msgRestartProbe_of_member took loaded other view entryIn selfIn⟩,
    fun recipe serving => ⟨passageHeartbeatSend_of_serving recipe serving,
      fun silent => passageUpstreamLost_of_silence recipe serving silent⟩,
    fun entry loaded created still cut due => restartProbeSend_of_cut entry loaded created still cut due⟩
  · have arrives := msgStepHeader_of_taken took
    rw [serves] at arrives
    exact ⟨_, arrives, rfl, arrive_inbox _ _ _, arrive_arrived _ _ _, rfl⟩
  · rw [msgStepHeader_of_taken took, if_pos fails]

end Sys2Proof.Machine
end

section
/-! SUPPORT. The issue of a tile instruction (R168, R173, R174, R178, R190): what a chamber's own changes leave as it was, and what
`State.take` does to the registers that show an issue and to the chamber. -/

namespace Sys2Proof.Machine

/-! ### Changes of one chamber -/

theorem Local.refl (n : Nat) (s : State) : Local n s s := ⟨rfl, fun _ _ => rfl, fun _ _ => rfl⟩

theorem Local.trans {n : Nat} {s u v : State} (h : Local n s u) (g : Local n u v) : Local n s v := by
  obtain ⟨only, regs, others⟩ := h
  obtain ⟨only', regs', others'⟩ := g
  refine ⟨?_, fun a out => (regs' a out).trans (regs a out), fun m ne => (others' m ne).trans (others m ne)⟩
  calc v = { u with regs := v.regs, perf := v.perf, chambers := v.chambers } := only'
    _ = { s with regs := v.regs, perf := v.perf, chambers := v.chambers } := by rw [only]

theorem setReg_local (s : State) {n a : Nat} (inside : InWindow n a) (v : Word) : Local n s (s.setReg a v) :=
  ⟨rfl, fun _ out => State.reg_setReg_ne s v fun e => out (e ▸ inside), fun _ _ => rfl⟩

theorem set_local (s : State) {n a : Nat} (inside : InWindow n a) (f : Fld) (x : Nat) : Local n s (s.set a f x) :=
  setReg_local s inside _

theorem modCh_local (s : State) (n : Nat) (f : Chamber → Chamber) : Local n s (s.modCh n f) :=
  ⟨rfl, fun _ _ => rfl, fun _ ne => State.ch_modCh_ne s f ne⟩

theorem modTask_local (s : State) (n t : Nat) (f : Task → Task) : Local n s (s.modTask n t f) := by
  unfold State.modTask State.setTask
  exact modCh_local s n _

theorem PerfOnly.inChamber {s u : State} (n : Nat) : PerfOnly s u → Local n s u := by
  rintro ⟨p, rfl⟩
  exact ⟨rfl, fun _ _ => rfl, fun _ _ => rfl⟩

theorem inWindow_add (n : Nat) {o : Nat} (h : o < 0x10000) : InWindow n (chWin n + o) :=
  ⟨Nat.le_add_right _ _, Nat.add_lt_add_left h _⟩

/-- A register that a chamber has once for each tag lies in the chamber's window. -/
theorem inWindow_ofTag (n : Nat) (t : Tag) {o : Nat} (h : o + 0x20 ≤ 0x10000) : InWindow n (chWin n + o + 0x8 * t) := by
  rw [Nat.add_assoc]
  exact inWindow_add n (by omega)

theorem CH_TASK_inWindow (n : Nat) (t : Tag) : InWindow n (CH_TASK n t) := inWindow_ofTag n t (o := 0x80) (by decide)

theorem CH_TASK_PC_inWindow (n : Nat) (t : Tag) : InWindow n (CH_TASK_PC n t) := inWindow_ofTag n t (o := 0xA0) (by decide)

/-! ### What an issue can change -/

/-- Of a chamber, only its tasks, the order of its issues and their count change. -/
def IssueOnly (c d : Chamber) : Prop := ∃ k l i, d = { c with tasks := k, lastIssue := l, issues := i }

theorem IssueOnly.refl (c : Chamber) : IssueOnly c c := ⟨_, _, _, rfl⟩

theorem IssueOnly.trans {c d e : Chamber} : IssueOnly c d → IssueOnly d e → IssueOnly c e := by
  rintro ⟨_, _, _, rfl⟩ ⟨k, l, i, rfl⟩
  exact ⟨k, l, i, rfl⟩

/-- Only chamber `n` changes: of its registers those that `p` names, of what it holds what an issue changes. -/
def IssueFrame (n : Nat) (p : Nat → Prop) (s u : State) : Prop :=
  Local n s u ∧ KeepsRegs p s u ∧ IssueOnly (s.ch n) (u.ch n)

section IssueFrame

variable {n : Nat} {p q : Nat → Prop} {s u v : State}

theorem IssueFrame.refl (n : Nat) (p : Nat → Prop) (s : State) : IssueFrame n p s s := ⟨.refl n s, fun _ _ => rfl, .refl _⟩

theorem IssueFrame.trans (h : IssueFrame n p s u) (g : IssueFrame n p u v) : IssueFrame n p s v := by
  obtain ⟨inside, regs, chamber⟩ := h
  obtain ⟨inside', regs', chamber'⟩ := g
  exact ⟨inside.trans inside', fun a out => (regs' a out).trans (regs a out), chamber.trans chamber'⟩

theorem IssueFrame.mono (pq : ∀ a, p a → q a) (h : IssueFrame n p s u) : IssueFrame n q s u := by
  obtain ⟨inside, regs, chamber⟩ := h
  exact ⟨inside, fun a out => regs a fun pa => out (pq a pa), chamber⟩

theorem set_frame (s : State) {a : Nat} (inside : InWindow n a) (named : p a) (f : Fld) (x : Nat) :
    IssueFrame n p s (s.set a f x) :=
  ⟨set_local s inside f x, fun _ out => State.reg_set_ne s f x fun e => out (e ▸ named), .refl _⟩

theorem PerfOnly.frame (h : PerfOnly s u) : IssueFrame n p s u := by
  refine ⟨h.inChamber n, ?_⟩
  obtain ⟨_, rfl⟩ := h
  exact ⟨fun _ _ => rfl, .refl _⟩

theorem modCh_frame (s : State) {f : Chamber → Chamber} (only : IssueOnly (s.ch n) (f (s.ch n))) :
    IssueFrame n p s (s.modCh n f) :=
  ⟨modCh_local s n f, fun _ _ => rfl, by rwa [State.ch_modCh_same]⟩

theorem setTask_frame (s : State) (t : Nat) (k : Task) : IssueFrame n p s (s.setTask n t k) := modCh_frame s ⟨_, _, _, rfl⟩

end IssueFrame

/-! ### Passing over what was issued ahead (R178) -/

theorem setPc_frame (s : State) (n : Nat) (t : Tag) (pc : Nat) : IssueFrame n (· = CH_TASK_PC n t) s (s.setPc n t pc) :=
  set_frame (p := (· = CH_TASK_PC n t)) s (CH_TASK_PC_inWindow n t) rfl CH_TASK_PC.PC pc

theorem passAhead_frame (fuel : Nat) (s : State) (n : Nat) (t : Tag) :
    IssueFrame n (· = CH_TASK_PC n t) s (passAhead fuel s n t) := by
  induction fuel generalizing s with
  | zero => exact .refl _ _ s
  | succ fuel ih =>
    unfold passAhead
    dsimp only
    split
    · split
      · exact .trans (.trans (setTask_frame s t _) (setPc_frame _ n t _)) (ih _)
      · exact .refl _ _ s
    · exact .refl _ _ s

theorem passAhead_of_none {s : State} {n t : Nat} (none_ahead : (s.task n t).doneAhead = []) (fuel : Nat) :
    passAhead fuel s n t = s := by
  cases fuel with
  | zero => rfl
  | succ fuel =>
    unfold passAhead
    dsimp only
    split
    · rw [none_ahead, if_neg (by simp)]
    · rfl

/-! ### Counting an issue (R173, R190) -/

/-- The registers that show the issues of tag `t`. -/
def issueRegs (n t a : Nat) : Prop := a = CH_ISSUED n ∨ a = CH_STATUS n ∨ a = CH_TASK n t ∨ a = CH_TASK_PC n t

section countIssue

variable (s : State) (n : Nat) (t : Tag)

theorem countIssue_frame : IssueFrame n (fun a => a = CH_ISSUED n ∨ a = CH_STATUS n ∨ a = CH_TASK n t) s (s.countIssue n t) := by
  unfold State.countIssue
  refine .trans ?_ (set_frame _ (CH_TASK_inWindow n t) (.inr (.inr rfl)) _ _)
  refine .trans (.trans ?_ (modCh_frame _ ⟨_, _, _, rfl⟩)) (setTask_frame _ t _)
  refine .trans ?_ (set_frame _ (inWindow_add n (by decide)) (.inr (.inl rfl)) _ _)
  exact .trans (set_frame _ (inWindow_add n (by decide)) (.inl rfl) _ _) (tally_only _ n _ _ 1).frame

theorem countIssue_seen : IssueSeen n t s (s.countIssue n t) := by
  have issuedTask : CH_ISSUED n ≠ CH_TASK n t := by unfold CH_ISSUED CH_TASK; omega
  have issuedStatus : CH_ISSUED n ≠ CH_STATUS n := by unfold CH_ISSUED CH_STATUS; omega
  have statusTask : CH_STATUS n ≠ CH_TASK n t := by unfold CH_STATUS CH_TASK; omega
  obtain ⟨p, tallied⟩ := tally_only (s.bump (CH_ISSUED n) 1) n 0x002 (.tag t) 1
  unfold State.countIssue State.showWindow
  rw [tallied]
  constructor
  · rw [State.get_set_ne _ _ _ _ issuedTask, State.progress_get_, State.modCh_get_, State.get_set_ne _ _ _ _ issuedStatus]
    exact State.get_bump_same s _ 1
  · rw [State.get_set_ne _ _ _ _ statusTask, State.progress_get_, State.modCh_get_, State.get_set_same _ _ _ _ (by decide)]
    exact Nat.mod_eq_of_lt t.isLt

theorem countIssue_doneAhead : ((s.countIssue n t).task n t).doneAhead = (s.task n t).doneAhead := by
  obtain ⟨p, tallied⟩ := tally_only (s.bump (CH_ISSUED n) 1) n 0x002 (.tag t) 1
  unfold State.countIssue
  rw [tallied]
  rw [State.showWindow_task_, State.progress, State.task_modTask_same, State.task, State.ch_modCh_same]
  rfl

end countIssue

/-! ### Taking the head (R168, R174) -/

/-- A task whose first fetched instruction `f` has issued. -/
def Task.advance (k : Task) (f : Fetched) (rest : List Fetched) (stay : Bool) : Task :=
  { k with
    fetched := rest
    nextId := k.nextId + 1
    window := if stay then k.window ++ [⟨k.nextId, f.pc, f.word.getD 0⟩] else k.window }

/-- The head has left the fetched instructions, the PC has moved on and the issue is counted. -/
def State.headTaken (s : State) (n t : Nat) (f : Fetched) (rest : List Fetched) (stay : Bool) : State :=
  ((s.setTask n t ((s.task n t).advance f rest stay)).setPc n t (f.pc + 16)).countIssue n t

theorem take_of_cons {s : State} {n t : Nat} {f : Fetched} {rest : List Fetched} (head : (s.task n t).fetched = f :: rest)
    (stay : Bool) : s.take n t stay = passAhead 33 (s.headTaken n t f rest stay) n t := by
  unfold State.take
  simp only [head]
  rfl

theorem take_of_nil {s : State} {n t : Nat} (none_fetched : (s.task n t).fetched = []) (stay : Bool) : s.take n t stay = s := by
  unfold State.take
  simp only [none_fetched]

section headTaken

variable (s : State) (n : Nat) (t : Tag) (f : Fetched) (rest : List Fetched) (stay : Bool)

theorem headTaken_frame : IssueFrame n (issueRegs n t) s (s.headTaken n t f rest stay) := by
  refine ((setTask_frame s t _).trans (set_frame _ (CH_TASK_PC_inWindow n t) (.inr (.inr (.inr rfl))) _ _)).trans
    ((countIssue_frame _ n t).mono fun a named => ?_)
  unfold issueRegs
  tauto

theorem headTaken_seen : IssueSeen n t s (s.headTaken n t f rest stay) := by
  obtain ⟨counted, last⟩ := countIssue_seen ((s.setTask n t ((s.task n t).advance f rest stay)).setPc n t (f.pc + 16)) n t
  have ne : CH_ISSUED n ≠ CH_TASK_PC n t := by unfold CH_ISSUED CH_TASK_PC; omega
  refine ⟨?_, last⟩
  rw [State.setPc, State.get_set_ne _ _ _ _ ne] at counted
  exact counted

theorem headTaken_pc : (s.headTaken n t f rest stay).get (CH_TASK_PC n t) CH_TASK_PC.PC = (f.pc + 16) % 2 ^ 48 := by
  obtain ⟨-, regs, -⟩ := countIssue_frame ((s.setTask n t ((s.task n t).advance f rest stay)).setPc n t (f.pc + 16)) n t
  unfold State.headTaken State.get
  rw [regs (CH_TASK_PC n t) (by unfold CH_ISSUED CH_STATUS CH_TASK CH_TASK_PC; omega)]
  exact State.get_set_same _ _ _ _ (by decide)

theorem headTaken_doneAhead : ((s.headTaken n t f rest stay).task n t).doneAhead = (s.task n t).doneAhead := by
  rw [State.headTaken, countIssue_doneAhead, State.setPc, State.set_task_, State.task_setTask_same]
  rfl

end headTaken

/-- An issue stays seen while its two registers stay as they are. -/
theorem IssueSeen.keep {n t : Nat} {s u v : State} (seen : IssueSeen n t s u) (issued : v.reg (CH_ISSUED n) = u.reg (CH_ISSUED n))
    (status : v.reg (CH_STATUS n) = u.reg (CH_STATUS n)) : IssueSeen n t s v := by
  unfold IssueSeen State.get
  rw [issued, status]
  exact seen

theorem PcNext.keep {n t pc : Nat} {s u v : State} (moved : PcNext n t pc s u)
    (same : v.reg (CH_TASK_PC n t) = u.reg (CH_TASK_PC n t)) : PcNext n t pc s v := by
  unfold PcNext State.get
  rw [same]
  exact moved

section take

variable {s : State} {n : Nat} {t : Tag}

theorem take_frame (s : State) (n : Nat) (t : Tag) (stay : Bool) : IssueFrame n (issueRegs n t) s (s.take n t stay) := by
  cases fetched : (s.task n t).fetched with
  | nil => rw [take_of_nil fetched]; exact .refl _ _ s
  | cons f rest =>
    rw [take_of_cons fetched]
    exact (headTaken_frame s n t f rest stay).trans ((passAhead_frame _ _ n t).mono fun a here => .inr (.inr (.inr here)))

theorem take_seen (fetched : (s.task n t).fetched ≠ []) (stay : Bool) : IssueSeen n t s (s.take n t stay) := by
  obtain ⟨f, rest, head⟩ := List.exists_cons_of_ne_nil fetched
  obtain ⟨-, regs, -⟩ := passAhead_frame 33 (s.headTaken n t f rest stay) n t
  rw [take_of_cons head]
  exact (headTaken_seen s n t f rest stay).keep (regs _ (by unfold CH_ISSUED CH_TASK_PC; omega))
    (regs _ (by unfold CH_STATUS CH_TASK_PC; omega))

theorem take_pcNext {pc : Nat} {w : Option (BitVec 128)} (head : (s.task n t).head = some ⟨pc, w⟩) (stay : Bool) :
    PcNext n t pc s (s.take n t stay) := by
  intro none_ahead
  obtain ⟨rest, fetched⟩ := List.head?_eq_some_iff.1 head
  rw [take_of_cons fetched, passAhead_of_none ((headTaken_doneAhead s n t _ rest stay).trans none_ahead)]
  exact headTaken_pc s n t _ rest stay

end take

/-- At its turn an instruction of the opcode has the effect that its definition gives. -/
theorem issue_of_issues {s : State} {n t op pc : Nat} {w : BitVec 128} (turn : s.issues n t op w pc)
    (act : BitVec 128 → Nat → Out) : s.issue n t op act = act w pc := by
  obtain ⟨its_turn, head, code, reserved⟩ := turn
  unfold State.issue
  simp [its_turn, head, code, reserved]

end Sys2Proof.Machine
end

section
/-! SUPPORT. Coordinate lists and the sump at their issue (R49, R91, R110, R114): what MERGE, SCATTER_IN and SUMP_DRAIN put into the
Lauter's queue and the engines' issue queues, and what SUMP_OPEN loads from its block. -/

namespace Sys2Proof.Machine

theorem SP_SESSION_inWindow (n : Nat) (t : Tag) : InWindow n (SP_SESSION n t) := inWindow_ofTag n t (o := 0x3040) (by decide)

theorem SP_SPILL_BASE_inWindow (n : Nat) (t : Tag) : InWindow n (SP_SPILL_BASE n t) :=
  inWindow_ofTag n t (o := 0x3060) (by decide)

theorem SP_SPILL_USE_inWindow (n : Nat) (t : Tag) : InWindow n (SP_SPILL_USE n t) :=
  inWindow_ofTag n t (o := 0x3080) (by decide)

/-! ### Starts join the engines' issue queues (R226) -/

theorem State.eng_setEng (s : State) (n e : Nat) (v : Engine) (j : Nat) :
    (s.setEng n e v).eng n j = if j = e then v else s.eng n j := by
  rw [State.eng, State.setEng, State.ch_modCh_same]
  exact kget_kput _ _ _ _ _ _ fun _ => rfl

theorem queue_queueStart (s : State) (n e : Nat) (st : Start) (j : Nat) :
    ((s.queueStart n e st).eng n j).queue = (s.eng n j).queue ++ if e = j then [st] else [] := by
  rw [State.queueStart, State.eng_setEng]
  by_cases h : j = e
  · subst h
    rw [if_pos rfl, if_pos rfl]
  · rw [if_neg h, if_neg (Ne.symm h), List.append_nil]

theorem queueStart_local (s : State) (n e : Nat) (st : Start) : Local n s (s.queueStart n e st) := by
  unfold State.queueStart State.setEng
  exact modCh_local s n _

/-- The start of a list instruction at an engine: a read starts at once, a write once its producer delivers. -/
def listStart (id t : Nat) (x : Nat × StartKind × Nat) : Start :=
  { kind := x.2.1, id := id, tag := t, desc := x.2.2, begun := x.1 != 2 }

/-- The starts of a list instruction join their engines' issue queues. -/
def State.queueList (s : State) (n id t : Nat) (starts : List (Nat × StartKind × Nat)) : State :=
  starts.foldl (fun u x => u.queueStart n x.1 (listStart id t x)) s

section queueList

variable (s : State) (n id t : Nat) (starts : List (Nat × StartKind × Nat))

theorem queueList_local : Local n s (s.queueList n id t starts) := by
  unfold State.queueList
  exact foldl_rel (.refl n) .trans (fun u x => queueStart_local u n x.1 (listStart id t x)) starts s

theorem queueList_reg (a : Nat) : (s.queueList n id t starts).reg a = s.reg a :=
  List.foldlRecOn (motive := fun u : State => u.reg a = s.reg a) _ _ rfl fun _ same _ _ => same

theorem queueList_lists : ((s.queueList n id t starts).ch n).lists = (s.ch n).lists := by
  refine List.foldlRecOn (motive := fun u : State => (u.ch n).lists = (s.ch n).lists) _ _ rfl fun u same x _ => ?_
  rw [State.queueStart, State.setEng, State.ch_modCh_same]
  exact same

/-- Each engine's issue queue grows by the starts that name the engine. -/
theorem queueList_queue (e : Nat) : ((s.queueList n id t starts).eng n e).queue
    = (s.eng n e).queue ++ (starts.filter fun x => x.1 = e).map (listStart id t) := by
  induction starts generalizing s with
  | nil => simp [State.queueList]
  | cons x starts ih =>
    have rest := ih (s.queueStart n x.1 (listStart id t x))
    rw [queue_queueStart, List.append_assoc] at rest
    refine rest.trans (congrArg ((s.eng n e).queue ++ ·) ?_)
    by_cases here : x.1 = e <;> simp [here]

end queueList

/-! ### A list instruction joins the Lauter's queue (R91, R110, R114) -/

/-- The head issues into the window and joins the Lauter's queue. -/
def State.joinLauter (s : State) (n t : Nat) (w : BitVec 128) (pc : Nat) : State :=
  (s.take n t true).modCh n fun c =>
    { c with lists := c.lists ++ [{ id := (s.task n t).headId, tag := t, pc := pc, seq := c.issues, word := w }] }

/-- The Lauter's queue has grown by the instruction `w` of tag `t` that was next to issue in `s`. -/
def JoinsLauter (n t : Nat) (w : BitVec 128) (s u : State) : Prop :=
  ∃ l, (u.ch n).lists = (s.ch n).lists ++ [l] ∧ l.id = (s.task n t).nextId ∧ l.tag = t ∧ l.word = w

theorem listIssue_eq (s : State) (n t : Nat) (w : BitVec 128) (pc : Nat) (starts : List (Nat × StartKind × Nat)) :
    s.listIssue n t w pc starts = (s.joinLauter n t w pc).queueList n (s.task n t).nextId t starts := rfl

section joinLauter

variable (s : State) (n : Nat) (t : Tag) (w : BitVec 128) (pc : Nat)

theorem joinLauter_local : Local n s (s.joinLauter n t w pc) := by
  obtain ⟨inside, -, -⟩ := take_frame s n t true
  exact inside.trans (modCh_local _ n _)

theorem joinLauter_joins : JoinsLauter n t w s (s.joinLauter n t w pc) := by
  obtain ⟨-, -, tasks, last, issues, chamber⟩ := take_frame s n t true
  unfold JoinsLauter
  rw [State.joinLauter, State.ch_modCh_same, chamber]
  exact ⟨_, rfl, rfl, rfl, rfl⟩

theorem joinLauter_eng (e : Nat) : (s.joinLauter n t w pc).eng n e = s.eng n e := by
  obtain ⟨-, -, tasks, last, issues, chamber⟩ := take_frame s n t true
  rw [State.joinLauter, State.eng, State.ch_modCh_same, chamber]
  rfl

end joinLauter

/-- What the issue of a list instruction shows, keeps and adds to the Lauter's queue. -/
theorem listIssue_complete {s : State} {n op pc : Nat} {t : Tag} {w : BitVec 128} (turn : s.issues n t op w pc)
    (starts : List (Nat × StartKind × Nat)) :
    IssueSeen n t s (s.listIssue n t w pc starts) ∧ PcNext n t pc s (s.listIssue n t w pc starts)
      ∧ Local n s (s.listIssue n t w pc starts) ∧ JoinsLauter n t w s (s.listIssue n t w pc starts) := by
  obtain ⟨-, head, -, -⟩ := turn
  have fetched : (s.task n t).fetched ≠ [] := by
    obtain ⟨rest, cons⟩ := List.head?_eq_some_iff.1 head
    rw [cons]
    exact List.cons_ne_nil _ _
  have same := queueList_reg (s.joinLauter n t w pc) n (s.task n t).nextId t starts
  unfold JoinsLauter
  rw [listIssue_eq, queueList_lists]
  exact ⟨(take_seen fetched true).keep (same _) (same _), (take_pcNext head true).keep (same _),
    (joinLauter_local s n t w pc).trans (queueList_local _ n _ t starts), joinLauter_joins s n t w pc⟩

theorem listIssue_queue (s : State) (n : Nat) (t : Tag) (w : BitVec 128) (pc : Nat)
    {starts there : List (Nat × StartKind × Nat)} {e : Nat} (at_engine : starts.filter (fun x => x.1 = e) = there) :
    ((s.listIssue n t w pc starts).eng n e).queue = (s.eng n e).queue ++ there.map (listStart (s.task n t).nextId t) := by
  rw [listIssue_eq, queueList_queue, joinLauter_eng, at_engine]

/-! ### MERGE (R49, R91, R110) -/

/-- The lists that a MERGE names: one or two inputs, and its output where that is no session. -/
def mergeLists (w : BitVec 128) : List Nat :=
  [wf w 13 9] ++ (if nbit w.toNat 19 then [] else [wf w 18 14]) ++ (if nbit w.toNat 25 then [] else [wf w 24 20])

/-- The starts of a MERGE: a group at a read engine for each input, and the output's at the write engine. -/
def mergeStarts (w : BitVec 128) : List (Nat × StartKind × Nat) :=
  [(0, .group 0, wf w 13 9)] ++ (if nbit w.toNat 19 then [] else [(1, .group 1, wf w 18 14)])
    ++ (if nbit w.toNat 25 then [] else [(2, .sink, wf w 24 20)])

section issues

variable {s : State} {n : Ch} {t : Tag} {w : BitVec 128} {pc : Nat}

theorem merge_of_allowed (turn : s.issues n t 0x30 w pc) (allowed : s.listFormatBad n t (mergeLists w) = false)
    (session : nbit w.toNat 25 = true → s.typeDiffers n t (wf w 26 26) = false ∧ s.get (SP_SESSION n t) SP_SESSION.OPEN = 1) :
    exec (.merge n t) s = .next (s.listIssue n t w pc (mergeStarts w)) := by
  have noFormatFault : ¬ (s.listFormatBad n t (mergeLists w) || nbit w.toNat 25 && s.typeDiffers n t (wf w 26 26)) = true := by
    rw [allowed, Bool.false_or, Bool.and_eq_true]
    rintro ⟨sump, differs⟩
    rw [(session sump).1] at differs
    cases differs
  have noSessionFault : ¬ (nbit w.toNat 25 && decide (s.get (SP_SESSION n t) SP_SESSION.OPEN = 0)) = true := by
    rw [Bool.and_eq_true, decide_eq_true_eq]
    rintro ⟨sump, closed⟩
    obtain ⟨-, opened⟩ := session sump
    omega
  rw [show exec (.merge n t) s = execMerge n t s from rfl, execMerge, issue_of_issues turn]
  exact (if_neg noFormatFault).trans (if_neg noSessionFault)

/-- The starts of a MERGE by engine. -/
theorem mergeStarts_filter (w : BitVec 128) :
    (mergeStarts w).filter (fun x => x.1 = 0) = [(0, .group 0, wf w 13 9)]
      ∧ (nbit w.toNat 19 = false → (mergeStarts w).filter (fun x => x.1 = 1) = [(1, .group 1, wf w 18 14)])
      ∧ (nbit w.toNat 25 = false → (mergeStarts w).filter (fun x => x.1 = 2) = [(2, .sink, wf w 24 20)])
      ∧ (nbit w.toNat 25 = true → (mergeStarts w).filter (fun x => x.1 = 2) = []) := by
  unfold mergeStarts
  cases nbit w.toNat 19 <;> cases nbit w.toNat 25 <;> simp

/-- A MERGE with allowed formats, and with a session of its type where it has no output list, issues. -/
theorem merge_complete (turn : s.issues n t 0x30 w pc) (allowed : s.listFormatBad n t (mergeLists w) = false)
    (session : nbit w.toNat 25 = true → s.typeDiffers n t (wf w 26 26) = false ∧ s.get (SP_SESSION n t) SP_SESSION.OPEN = 1) :
    let start := listStart (s.task n t).nextId t
    ∃ u, exec (.merge n t) s = .next u ∧ IssueSeen n t s u ∧ PcNext n t pc s u ∧ Local n s u ∧ JoinsLauter n t w s u
      ∧ (u.eng n 0).queue = (s.eng n 0).queue ++ [start (0, .group 0, wf w 13 9)]
      ∧ (nbit w.toNat 19 = false → (u.eng n 1).queue = (s.eng n 1).queue ++ [start (1, .group 1, wf w 18 14)])
      ∧ (nbit w.toNat 25 = false → (u.eng n 2).queue = (s.eng n 2).queue ++ [start (2, .sink, wf w 24 20)])
      ∧ (nbit w.toNat 25 = true → (u.eng n 2).queue = (s.eng n 2).queue) := by
  intro start
  obtain ⟨seen, moved, inside, joined⟩ := listIssue_complete turn (mergeStarts w)
  obtain ⟨first, second, output, noOutput⟩ := mergeStarts_filter w
  exact ⟨_, merge_of_allowed turn allowed session, seen, moved, inside, joined, listIssue_queue s n t w pc first,
    fun two => listIssue_queue s n t w pc (second two), fun list => listIssue_queue s n t w pc (output list),
    fun sump => (listIssue_queue s n t w pc (noOutput sump)).trans (List.append_nil _)⟩

theorem scatterIn_of_allowed (turn : s.issues n t 0x31 w pc) (allowed : s.listFormatBad n t [wf w 13 9] = false)
    (type : s.typeDiffers n t (wf w 26 26) = false) (opened : s.get (SP_SESSION n t) SP_SESSION.OPEN = 1) :
    exec (.scatterIn n t) s = .next (s.listIssue n t w pc [(0, .group 0, wf w 13 9)]) := by
  rw [show exec (.scatterIn n t) s = execScatterIn n t s from rfl, execScatterIn, issue_of_issues turn]
  simp [allowed, type, opened]

theorem sumpDrain_of_allowed (turn : s.issues n t 0x61 w pc) (allowed : s.listFormatBad n t [wf w 13 9] = false)
    (opened : s.get (SP_SESSION n t) SP_SESSION.OPEN = 1) :
    exec (.sumpDrain n t) s
      = .next ((s.listIssue n t w pc [(2, .sink, wf w 13 9)]).set (SP_SESSION n t) SP_SESSION.OPEN 0) := by
  rw [show exec (.sumpDrain n t) s = execSumpDrain n t s from rfl, execSumpDrain, issue_of_issues turn]
  simp [allowed, opened]

/-- A list instruction whose first list has a format that R49 does not allow aborts its task, whatever the session. -/
theorem listInstruction_of_badFormat (bad : s.listFormatBad n t [wf w 13 9] = true) :
    (s.issues n t 0x30 w pc → exec (.merge n t) s = .next (s.issueFault n t chIllegalFormat))
      ∧ (s.issues n t 0x31 w pc → exec (.scatterIn n t) s = .next (s.issueFault n t chIllegalFormat))
      ∧ (s.issues n t 0x61 w pc → exec (.sumpDrain n t) s = .next (s.issueFault n t chIllegalFormat)) := by
  refine ⟨fun turn => ?_, fun turn => ?_, fun turn => ?_⟩
  · have first : s.listFormatBad n t (mergeLists w) = true := by
      simp only [State.listFormatBad, List.any_cons, List.any_nil, Bool.or_false] at bad
      simp only [State.listFormatBad, mergeLists, List.cons_append, List.any_cons, bad, Bool.true_or]
    rw [show exec (.merge n t) s = execMerge n t s from rfl, execMerge, issue_of_issues turn]
    exact if_pos (by rw [← mergeLists, first, Bool.true_or])
  · rw [show exec (.scatterIn n t) s = execScatterIn n t s from rfl, execScatterIn, issue_of_issues turn]
    exact if_pos (by rw [bad, Bool.true_or])
  · rw [show exec (.sumpDrain n t) s = execSumpDrain n t s from rfl, execSumpDrain, issue_of_issues turn]
    exact if_pos bad

/-- A SUMP_DRAIN takes its session's OPEN away as it joins the Lauter's queue. -/
theorem sumpDrain_complete (turn : s.issues n t 0x61 w pc) (allowed : s.listFormatBad n t [wf w 13 9] = false)
    (opened : s.get (SP_SESSION n t) SP_SESSION.OPEN = 1) :
    ∃ u, exec (.sumpDrain n t) s = .next u ∧ IssueSeen n t s u ∧ PcNext n t pc s u ∧ Local n s u ∧ JoinsLauter n t w s u
      ∧ (u.eng n 2).queue = (s.eng n 2).queue ++ [listStart (s.task n t).nextId t (2, .sink, wf w 13 9)]
      ∧ u.get (SP_SESSION n t) SP_SESSION.OPEN = 0 := by
  obtain ⟨seen, moved, inside, joined⟩ := listIssue_complete turn [(2, .sink, wf w 13 9)]
  have kept {a : Nat} (ne : a ≠ SP_SESSION n t) := State.reg_set_ne (s.listIssue n t w pc [(2, .sink, wf w 13 9)])
    SP_SESSION.OPEN 0 ne
  refine ⟨_, sumpDrain_of_allowed turn allowed opened, seen.keep (kept ?_) (kept ?_), moved.keep (kept ?_),
    inside.trans (set_local _ (SP_SESSION_inWindow n t) _ _), joined, listIssue_queue s n t w pc rfl,
    State.get_set_same _ _ _ _ (by decide)⟩
  · unfold CH_ISSUED SP_SESSION; omega
  · unfold CH_STATUS SP_SESSION; omega
  · unfold CH_TASK_PC SP_SESSION; omega

end issues

/-! ### SUMP_OPEN (R110) -/

/-- The registers of tag `t`'s session. -/
def sessionRegs (n t a : Nat) : Prop := a = SP_SESSION n t ∨ a = SP_SPILL_BASE n t ∨ a = SP_SPILL_USE n t

/-- The session's registers as the block `b` gives them. -/
def State.loadSession (s : State) (n t : Nat) (b : List Byte) : State :=
  ((((((s.setReg (SP_SESSION n t) 0).set (SP_SESSION n t) SP_SESSION.OPEN 1).set (SP_SESSION n t) SP_SESSION.TYPE
    (num b 14 1)).set (SP_SESSION n t) SP_SESSION.KEY_LIMIT (num b 0 4)).set (SP_SPILL_BASE n t) SP_SPILL_BASE.BASE
    (num b 16 6 / 512)).set (SP_SPILL_USE n t) SP_SPILL_USE.CAPACITY (num b 12 2)).set (SP_SPILL_USE n t) SP_SPILL_USE.USED 0

/-- The fields of the block that no register holds, as the task keeps them. -/
def Task.loadKeys (k : Task) (b : List Byte) : Task := { k with keyBase := num b 4 4, keyStride := num b 8 4, sumSat := false }

/-- The head has issued and opened the session that the block `b` describes. -/
def State.openSession (s : State) (n t : Nat) (b : List Byte) : State :=
  (((s.take n t false).takeSeed n).loadSession n t b).modTask n t (·.loadKeys b)

theorem num_lt (b : List Byte) (o k : Nat) : num b o k < 256 ^ k :=
  (ofBytes_lt _).trans_le (Nat.pow_le_pow_right (by decide) (List.length_take_le _ _))

section session

variable (s : State) (n : Nat) (t : Tag) (b : List Byte)

theorem loadSession_local : Local n s (s.loadSession n t b) := by
  have session := SP_SESSION_inWindow n t
  have use := SP_SPILL_USE_inWindow n t
  unfold State.loadSession
  refine .trans (.trans (.trans ?_ (set_local _ (SP_SPILL_BASE_inWindow n t) _ _)) (set_local _ use _ _)) (set_local _ use _ _)
  refine .trans (.trans (.trans ?_ (set_local _ session _ _)) (set_local _ session _ _)) (set_local _ session _ _)
  exact setReg_local s session 0

theorem loadSession_regs : KeepsRegs (sessionRegs n t) s (s.loadSession n t b) := by
  intro a out
  obtain ⟨session, base, use⟩ := not_or.1 out |>.imp_right not_or.1
  unfold State.loadSession
  rw [State.reg_set_ne _ _ _ use, State.reg_set_ne _ _ _ use, State.reg_set_ne _ _ _ base, State.reg_set_ne _ _ _ session,
    State.reg_set_ne _ _ _ session, State.reg_set_ne _ _ _ session, State.reg_setReg_ne _ _ session]

/-- SP_SESSION as the block gives it, whatever it held. -/
theorem loadSession_session (f : Fld) : (s.loadSession n t b).get (SP_SESSION n t) f
    = fget (fset (fset (fset 0 SP_SESSION.OPEN 1) SP_SESSION.TYPE (num b 14 1)) SP_SESSION.KEY_LIMIT (num b 0 4)) f := by
  have base : SP_SESSION n t ≠ SP_SPILL_BASE n t := by unfold SP_SESSION SP_SPILL_BASE; omega
  have use : SP_SESSION n t ≠ SP_SPILL_USE n t := by unfold SP_SESSION SP_SPILL_USE; omega
  unfold State.loadSession
  rw [State.get_set_ne _ _ _ _ use, State.get_set_ne _ _ _ _ use, State.get_set_ne _ _ _ _ base, State.get, State.reg_set_same,
    State.reg_set_same, State.reg_set_same, State.reg_setReg_same]

theorem loadSession_open : (s.loadSession n t b).get (SP_SESSION n t) SP_SESSION.OPEN = 1 := by
  rw [loadSession_session, fget_fset_other _ _ _ _ (by decide) (by decide), fget_fset_other _ _ _ _ (by decide) (by decide),
    fget_fset_same _ _ _ (by decide)]
  rfl

theorem loadSession_type : (s.loadSession n t b).get (SP_SESSION n t) SP_SESSION.TYPE = num b 14 1 % 2 := by
  rw [loadSession_session, fget_fset_other _ _ _ _ (by decide) (by decide), fget_fset_same _ _ _ (by decide)]
  rfl

theorem loadSession_keyLimit : (s.loadSession n t b).get (SP_SESSION n t) SP_SESSION.KEY_LIMIT = num b 0 4 := by
  rw [loadSession_session, fget_fset_same _ _ _ (by decide)]
  exact Nat.mod_eq_of_lt (num_lt b 0 4)

theorem loadSession_spillBase (aligned : num b 16 6 % 512 = 0) :
    (s.loadSession n t b).get (SP_SPILL_BASE n t) SP_SPILL_BASE.BASE * 512 = num b 16 6 := by
  have use : SP_SPILL_BASE n t ≠ SP_SPILL_USE n t := by unfold SP_SPILL_BASE SP_SPILL_USE; omega
  have fits : num b 16 6 < 2 ^ 48 := num_lt b 16 6
  unfold State.loadSession
  rw [State.get_set_ne _ _ _ _ use, State.get_set_ne _ _ _ _ use, State.get_set_same _ _ _ _ (by decide),
    show SP_SPILL_BASE.BASE.w = 39 from rfl]
  omega

theorem loadSession_capacity : (s.loadSession n t b).get (SP_SPILL_USE n t) SP_SPILL_USE.CAPACITY = num b 12 2 := by
  unfold State.loadSession
  rw [State.get_set_other _ _ _ _ _ _ (by decide) (by decide), State.get_set_same _ _ _ _ (by decide)]
  exact Nat.mod_eq_of_lt (num_lt b 12 2)

theorem loadSession_used : (s.loadSession n t b).get (SP_SPILL_USE n t) SP_SPILL_USE.USED = 0 :=
  State.get_set_same _ _ _ _ (by decide)

theorem takeSeed_local : Local n s (s.takeSeed n) := ite_rel (fun _ => modCh_local s n _) fun _ => .refl n s

theorem takeSeed_reg (a : Nat) : (s.takeSeed n).reg a = s.reg a := by
  unfold State.takeSeed
  split <;> rfl

theorem openSession_get (a : Nat) (f : Fld) :
    (s.openSession n t b).get a f = (((s.take n t false).takeSeed n).loadSession n t b).get a f := by
  rw [State.openSession, State.modTask_get_]

theorem openSession_reg {a : Nat} (out : ¬ sessionRegs n t a) : (s.openSession n t b).reg a = (s.take n t false).reg a := by
  rw [State.openSession, State.modTask_reg_, loadSession_regs _ n t b a out, takeSeed_reg]

theorem openSession_local : Local n s (s.openSession n t b) := by
  obtain ⟨inside, -, -⟩ := take_frame s n t false
  exact ((inside.trans (takeSeed_local _ n)).trans (loadSession_local _ n t b)).trans (modTask_local _ n t _)

theorem openSession_seen {s : State} {n : Nat} {t : Tag} (fetched : (s.task n t).fetched ≠ []) (b : List Byte) :
    IssueSeen n t s (s.openSession n t b) := by
  refine (take_seen fetched false).keep (openSession_reg s n t b ?_) (openSession_reg s n t b ?_)
  · unfold sessionRegs CH_ISSUED SP_SESSION SP_SPILL_BASE SP_SPILL_USE; omega
  · unfold sessionRegs CH_STATUS SP_SESSION SP_SPILL_BASE SP_SPILL_USE; omega

theorem openSession_keys : ((s.openSession n t b).task n t).keyBase = num b 4 4
    ∧ ((s.openSession n t b).task n t).keyStride = num b 8 4 := by
  rw [State.openSession, State.task_modTask_same]
  exact ⟨rfl, rfl⟩

end session

/-- With its block read and well formed and no session open, a SUMP_OPEN opens the session. -/
theorem sumpOpen_of_block {s s' : State} {n : Ch} {t : Tag} {w : BitVec 128} {pc k : Nat} {b : List Byte} {p : Bool}
    (turn : s.issues n t 0x60 w pc) (aligned : wf w 63 16 % 32 = 0)
    (block : s.consume n t (wf w 63 16) 32 = (.ok b p k, s')) (type : num b 14 1 < 2) (zero15 : num b 15 1 = 0)
    (zero22 : num b 22 10 = 0) (base : num b 16 6 % 512 = 0) (closed : s'.get (SP_SESSION n t) SP_SESSION.OPEN = 0) :
    exec (.sumpOpen n t) s = .next (s'.openSession n t b) := by
  rw [show exec (.sumpOpen n t) s = execSumpOpen n t s from rfl, execSumpOpen, issue_of_issues turn]
  have reserved : ¬ (num b 14 1 / 2 ≠ 0 ∨ num b 15 1 ≠ 0 ∨ num b 22 10 ≠ 0) := by omega
  simp only [aligned, ne_eq, not_true_eq_false, if_false, block]
  rw [if_neg reserved, if_neg (not_not.2 base), if_neg (by omega)]
  rfl

/-- Settles O6: a list instruction with allowed formats takes its head and joins the queues, one with another format faults, and
a SUMP_OPEN loads its session. -/
theorem listInstructionsIssue : Obligations.ListInstructionsIssue := by
  unfold Obligations.ListInstructionsIssue
  intro n t s w pc id start listed inputs
  refine ⟨fun turn noSump allowed => ?_, fun turn sump allowed type opened => ?_, fun turn allowed type opened => ?_,
    fun turn allowed opened => sumpDrain_complete turn allowed opened, listInstruction_of_badFormat,
    fun b p k s' turn aligned block fetched type zero15 zero22 base closed => ?_⟩
  · have lists : mergeLists w = inputs ++ [wf w 24 20] := by simp [mergeLists, inputs, noSump]
    obtain ⟨u, runs, seen, moved, inside, joined, first, second, output, -⟩ :=
      merge_complete turn (lists ▸ allowed) (by simp [noSump])
    exact ⟨u, runs, seen, moved, inside, joined, first, second, output noSump⟩
  · have lists : mergeLists w = inputs := by simp [mergeLists, inputs, sump]
    obtain ⟨u, runs, seen, moved, inside, joined, first, second, -, noOutput⟩ :=
      merge_complete turn (lists ▸ allowed) fun _ => ⟨type, opened⟩
    exact ⟨u, runs, seen, moved, inside, joined, first, second, noOutput sump⟩
  · obtain ⟨seen, moved, inside, joined⟩ := listIssue_complete turn [(0, .group 0, wf w 13 9)]
    exact ⟨_, scatterIn_of_allowed turn allowed type opened, seen, moved, inside, joined, listIssue_queue s n t w pc rfl⟩
  · obtain ⟨keyBase, keyStride⟩ := openSession_keys s' n t b
    have loaded := openSession_get s' n t b
    refine ⟨_, sumpOpen_of_block turn aligned block type zero15 zero22 base closed, openSession_seen fetched b,
      openSession_local s' n t b, ?_⟩
    simp only [loaded, loadSession_open, loadSession_type, loadSession_keyLimit, loadSession_spillBase _ n t b base,
      loadSession_capacity, loadSession_used, keyBase, keyStride, Nat.mod_eq_of_lt type, and_self]

end Sys2Proof.Machine
end

section
/-! SUPPORT. The array (R58 to R60, R72 to R77, R82, R92, R99 to R101, R154): what an instruction's entry and its steps leave in its
slot and in the queue, and what the checks, the drains and the Lauter's reading answer. -/

namespace Sys2Proof.Machine

/-! ### Operations that write one register -/

/-- Of the state, only the register `a` changes. -/
def OnlyReg (a : Nat) (s u : State) : Prop := RegsOnly s u ∧ KeepsRegs (· = a) s u

section OnlyReg

variable {a n : Nat} {s u : State}

theorem OnlyReg.refl (a : Nat) (s : State) : OnlyReg a s s := ⟨.refl s, fun _ _ => rfl⟩

theorem OnlyReg.setReg (h : OnlyReg a s u) (x : Word) : OnlyReg a s (u.setReg a x) := by
  obtain ⟨only, regs⟩ := h
  exact ⟨only.trans (setReg_only u a x), fun b ne => (State.reg_setReg_ne u x ne).trans (regs b ne)⟩

theorem OnlyReg.set (h : OnlyReg a s u) (f : Fld) (x : Nat) : OnlyReg a s (u.set a f x) := h.setReg _

theorem OnlyReg.get_ne (h : OnlyReg a s u) {b : Nat} (ne : b ≠ a) (f : Fld) : u.get b f = s.get b f := by
  obtain ⟨-, regs⟩ := h
  rw [State.get, regs b ne, State.get]

theorem OnlyReg.ch (h : OnlyReg a s u) (m : Nat) : u.ch m = s.ch m := by
  obtain ⟨⟨r, rfl⟩, -⟩ := h
  rfl

theorem OnlyReg.slot (h : OnlyReg a s u) (m i : Nat) : u.slot m i = s.slot m i := by rw [State.slot, h.ch, State.slot]

theorem OnlyReg.arrOf (h : OnlyReg a s u) (m tag id : Nat) : u.arrOf m tag id = s.arrOf m tag id := by
  rw [State.arrOf, h.ch, State.arrOf]

theorem OnlyReg.inChamber (h : OnlyReg a s u) (inside : InWindow n a) : Local n s u := by
  obtain ⟨⟨r, rfl⟩, regs⟩ := h
  exact ⟨rfl, fun b out => regs b fun e => out (e ▸ inside), fun _ _ => rfl⟩

end OnlyReg

theorem showArray_onlyReg (s : State) (n : Nat) : OnlyReg (AY_STATUS n) s (s.showArray n) := by
  unfold State.showArray
  extract_lets l a busy ck s1 s2 s3 s4 s5 s6
  have shown : OnlyReg a s s6 := .set (.set (.set (.set (.set (.setReg (.refl a s) _) _ _) _ _) _ _) _ _) _ _
  clear_value s6
  split
  · exact shown
  · exact .set (.set (.set (.set (.set shown _ _) _ _) _ _) _ _) _ _

theorem showLauter_onlyReg (s : State) (n : Nat) : OnlyReg (LT_STATUS n) s (s.showLauter n) := by
  unfold State.showLauter
  extract_lets held a list first
  clear_value first list
  have here : OnlyReg a s s := .refl a s
  split
  · exact here.setReg _
  · exact .set (.set (.set (here.setReg _) _ _) _ _) _ _
  · exact .set (.set (.set (.set (.set (.set here _ _) _ _) _ _) _ _) _ _) _ _

theorem feederPeak_onlyReg (s : State) (n : Nat) (a : ArrInstr) (spare : Word) :
    OnlyReg (AY_Y3_QUEUE n) s (s.feederPeak n a spare) :=
  ite_rel (R := OnlyReg (AY_Y3_QUEUE n)) (fun _ => .set (.refl _ s) _ _) fun _ => .refl _ s

theorem PerfOnly.slot {s u : State} (h : PerfOnly s u) (n i : Nat) : u.slot n i = s.slot n i := by
  obtain ⟨p, rfl⟩ := h
  rfl

theorem PerfOnly.arrOf {s u : State} (h : PerfOnly s u) (n tag id : Nat) : u.arrOf n tag id = s.arrOf n tag id := by
  obtain ⟨p, rfl⟩ := h
  rfl

theorem PerfOnly.get {s u : State} (h : PerfOnly s u) (a : Nat) (f : Fld) : u.get a f = s.get a f := by
  obtain ⟨p, rfl⟩ := h
  rfl

/-! ### Slots and the queue of array instructions -/

theorem setSlot_local (s : State) (n i : Nat) (v : Slot) : Local n s (s.setSlot n i v) := by
  unfold State.setSlot
  exact modCh_local s n _

theorem modArr_local (s : State) (n tag id : Nat) (f : ArrInstr → ArrInstr) : Local n s (s.modArr n tag id f) := by
  unfold State.modArr
  exact modCh_local s n _

theorem setPhase_local (s : State) (n i p : Nat) : Local n s (s.setPhase n i p) :=
  set_local s (inWindow_add n (by decide)) _ _

theorem State.slotPhase_setPhase_same (s : State) (n i : Nat) {p : Nat} (fits : p < 8) :
    (s.setPhase n i p).slotPhase n i = p := by
  have field : (slotFld i).lo + (slotFld i).w ≤ 64 ∧ (slotFld i).w = 3 := by
    unfold slotFld
    split <;> decide
  obtain ⟨inside, width⟩ := field
  rw [State.slotPhase, State.setPhase, State.get_set_same _ _ _ _ inside, width]
  exact Nat.mod_eq_of_lt fits

theorem State.slot_setPhase (s : State) (n i p m j : Nat) : (s.setPhase n i p).slot m j = s.slot m j := rfl

theorem State.slot_modArr (s : State) (n tag id : Nat) (f : ArrInstr → ArrInstr) (i : Nat) :
    (s.modArr n tag id f).slot n i = s.slot n i := by
  rw [State.slot, State.modArr, State.ch_modCh_same, State.slot]

theorem State.slot_progress (s : State) (n t i : Nat) : (s.progress n t).slot n i = s.slot n i := by
  rw [State.slot, State.progress, State.modTask, State.setTask, State.ch_modCh_same, State.slot]

theorem State.arrOf_setSlot (s : State) (n i : Nat) (v : Slot) (tag id : Nat) :
    (s.setSlot n i v).arrOf n tag id = s.arrOf n tag id := by
  rw [State.arrOf, State.setSlot, State.ch_modCh_same, State.arrOf]

theorem State.arrOf_progress (s : State) (n t tag id : Nat) : (s.progress n t).arrOf n tag id = s.arrOf n tag id := by
  rw [State.arrOf, State.progress, State.modTask, State.setTask, State.ch_modCh_same, State.arrOf]

/-- The first element that passes a test is found changed, where exactly those that pass are changed and still pass. -/
theorem find?_map_ite {β : Type} {p : β → Bool} (f : β → β) (keeps : ∀ x, p (f x) = p x) (l : List β) :
    (l.map fun x => if p x then f x else x).find? p = (l.find? p).map f := by
  induction l with
  | nil => rfl
  | cons x l ih =>
    cases h : p x with
    | true => simp [h, keeps]
    | false => simp [h, ih]

/-- An instruction is found changed, where the change leaves its tag and number. -/
theorem State.arrOf_modArr (s : State) (n tag id : Nat) {f : ArrInstr → ArrInstr}
    (keeps : ∀ a, (f a).tag = a.tag ∧ (f a).id = a.id) :
    (s.modArr n tag id f).arrOf n tag id = (s.arrOf n tag id).map f := by
  rw [State.arrOf, State.modArr, State.ch_modCh_same, State.arrOf]
  refine find?_map_ite _ (fun a => ?_) (s.ch n).arr
  obtain ⟨sameTag, sameId⟩ := keeps a
  rw [sameTag, sameId]

/-- AY_STATUS and LT_STATUS show the chamber as it stands. -/
def State.showRead (s : State) (n : Nat) : State := (s.showArray n).showLauter n

section showRead

variable (s : State) (n : Nat)

theorem showRead_local : Local n s (s.showRead n) :=
  ((showArray_onlyReg s n).inChamber (inWindow_add n (by decide))).trans
    ((showLauter_onlyReg _ n).inChamber (inWindow_add n (by decide)))

theorem showRead_slotPhase (i : Nat) : (s.showRead n).slotPhase n i = s.slotPhase n i := by
  have array : SP_STATUS n ≠ AY_STATUS n := by unfold SP_STATUS AY_STATUS; omega
  have lauter : SP_STATUS n ≠ LT_STATUS n := by unfold SP_STATUS LT_STATUS; omega
  exact ((showLauter_onlyReg _ n).get_ne lauter _).trans ((showArray_onlyReg s n).get_ne array _)

theorem showRead_slot (i : Nat) : (s.showRead n).slot n i = s.slot n i :=
  ((showLauter_onlyReg _ n).slot n i).trans ((showArray_onlyReg s n).slot n i)

theorem showRead_arrOf (tag id : Nat) : (s.showRead n).arrOf n tag id = s.arrOf n tag id :=
  ((showLauter_onlyReg _ n).arrOf n tag id).trans ((showArray_onlyReg s n).arrOf n tag id)

end showRead

/-! ### Entry (R99, R100) -/

/-- The values that an instruction starts from: what its slot holds where it continues the group (R100). -/
def Slot.base (sl : Slot) (w : BitVec 128) : SlotVals := if aCont w then { sl.cur with formed := sl.cur.r } else {}

/-- The slot at an entry: a repeat keeps its snapshot. -/
def Slot.entered (sl : Slot) (a : ArrInstr) : Slot :=
  if a.again then sl else
    { sl with occ := if aCont a.word then sl.occ else groupOf a.word a.tag, cur := sl.base a.word, snap := sl.base a.word }

/-- The counts of terms start again. -/
def SlotVals.cleared (v : SlotVals) : SlotVals := { v with cells := v.cells.map fun e => (e.1, { e.2 with terms := 0 }) }

/-- The instruction in the array. -/
def State.enteredInstr (s : State) (n : Nat) (a x : ArrInstr) : ArrInstr :=
  { x with
    phase := if a.steps = 0 then .checking else .inArray, step := 0
    regs := if a.steps = 0 then some (s.latchRegs n a) else a.regs }

/-- The slot and its phase at an entry. -/
def State.enterSlot (s : State) (n : Nat) (a : ArrInstr) : State :=
  let sl := (s.slot n (aSlot a.word)).entered a
  (s.setSlot n (aSlot a.word) { sl with cur := sl.cur.cleared }).setPhase n (aSlot a.word)
    (if a.steps = 0 then phChecking else phFilling)

/-- The entry of an instruction, before the registers show it. -/
def State.entered (s : State) (n : Nat) (a : ArrInstr) : State :=
  ((s.enterSlot n a).modArr n a.tag a.id ((s.enterSlot n a).enteredInstr n a)).progress n a.tag

theorem arrayEnter_of_arrayNext {n : Ch} {s : State} {a : ArrInstr} (next : s.arrayNext n = some a) :
    exec (.arrayEnter n) s = .next ((s.entered n a).showRead n) := by
  rw [show exec (.arrayEnter n) s = execArrayEnter n s from rfl, execArrayEnter, next]
  rfl

section entered

variable (s : State) (n : Nat) (a : ArrInstr)

theorem entered_local : Local n s (s.entered n a) := by
  unfold State.entered State.enterSlot State.progress
  exact (((setSlot_local s n _ _).trans (setPhase_local _ n _ _)).trans (modArr_local _ n _ _ _)).trans (modTask_local _ n _ _)

theorem entered_slotPhase : (s.entered n a).slotPhase n (aSlot a.word) = if a.steps = 0 then phChecking else phFilling := by
  have fits : (if a.steps = 0 then phChecking else phFilling) < 8 := by split <;> decide
  rw [State.slotPhase, State.entered, State.progress_get_, State.modArr, State.modCh_get_, State.enterSlot]
  exact State.slotPhase_setPhase_same _ n _ fits

theorem entered_snap : ((s.entered n a).slot n (aSlot a.word)).snap = ((s.slot n (aSlot a.word)).entered a).snap := by
  rw [State.entered, State.slot_progress, State.slot_modArr, State.enterSlot, State.slot_setPhase, State.slot_setSlot_same]

end entered

/-- R99, R100: an instruction enters the array with its carry snapshot taken. -/
theorem arrayEnter_complete {n : Ch} {s : State} {a : ArrInstr} (next : s.arrayNext n = some a) :
    ∃ u, exec (.arrayEnter n) s = .next u ∧ Local n s u
      ∧ u.slotPhase n (aSlot a.word) = (if a.steps = 0 then phChecking else phFilling)
      ∧ (a.again = false → (u.slot n (aSlot a.word)).snap = (s.slot n (aSlot a.word)).base a.word) := by
  refine ⟨_, arrayEnter_of_arrayNext next, (entered_local s n a).trans (showRead_local _ n),
    (showRead_slotPhase _ n _).trans (entered_slotPhase s n a), fun first => ?_⟩
  rw [showRead_slot, entered_snap, Slot.entered, if_neg (by simp [first])]

/-! ### Steps (R58, R60) -/

/-- The instruction after one more step, its registers latched with the first (R59). -/
def State.steppedInstr (s : State) (n : Nat) (a x : ArrInstr) : ArrInstr :=
  { x with step := a.step + 1, regs := some (s.latchRegs n a) }

/-- The values that a step leaves, in its slot. -/
def State.leave (s : State) (n : Nat) (a : ArrInstr) (v : SlotVals) : State :=
  s.setSlot n (aSlot a.word) { s.slot n (aSlot a.word) with cur := v }

/-- A step without an overflow that leaves the values `v`, before it is known whether it is the last. -/
def State.stepped (s : State) (n : Nat) (a : ArrInstr) (v : SlotVals) : State :=
  ((((s.leave n a v).feederPeak n a (s.latchRegs n a).2).tally n 0x101 (.tag a.tag) 1).progress n a.tag).modArr n a.tag a.id
    (s.steppedInstr n a)

/-- Whether a column group of the instruction takes part. -/
def State.takesPart (s : State) (n : Nat) (a : ArrInstr) : Bool := a.tiles.any fun t => t.run && !t.gone && s.live n t.tag

/-- The instruction at its checks. -/
def ArrInstr.toChecks (x : ArrInstr) : ArrInstr := { x with phase := .checking }

/-- The last step has entered: the instruction goes over to its checks. -/
def State.toChecks (s : State) (n : Nat) (a : ArrInstr) : State :=
  ((s.setPhase n (aSlot a.word) phChecking).modArr n a.tag a.id ArrInstr.toChecks).showRead n

section stepped

variable (s : State) (n : Nat) (a : ArrInstr) (v : SlotVals)

theorem stepped_local : Local n s (s.stepped n a v) := by
  have fed := (feederPeak_onlyReg (s.leave n a v) n a (s.latchRegs n a).2).inChamber (inWindow_add n (by decide))
  exact ((((setSlot_local s n _ _).trans fed).trans ((tally_only _ n _ _ 1).inChamber n)).trans
    (modTask_local _ n _ _)).trans (modArr_local _ n _ _ _)

theorem stepped_cur : ((s.stepped n a v).slot n (aSlot a.word)).cur = v := by
  rw [State.stepped, State.slot_modArr, State.slot_progress, (tally_only _ n _ _ 1).slot, (feederPeak_onlyReg _ n a _).slot,
    State.leave, State.slot_setSlot_same]

/-- A step changes no task's state: AY_Y3_QUEUE is no CH_TASK of a tag that the chamber has. -/
theorem stepped_live {t : Nat} (isTag : t < 4) : (s.stepped n a v).live n t = s.live n t := by
  have apart : CH_TASK n t ≠ AY_Y3_QUEUE n := by unfold CH_TASK AY_Y3_QUEUE; omega
  have state : (s.stepped n a v).get (CH_TASK n t) CH_TASK.STATE = s.get (CH_TASK n t) CH_TASK.STATE := by
    rw [State.stepped, State.modArr, State.modCh_get_, State.progress_get_, (tally_only _ n _ _ 1).get,
      (feederPeak_onlyReg _ n a _).get_ne apart, State.leave, State.setSlot_get_]
  rw [State.live, State.tstate, state, State.live, State.tstate]

end stepped

theorem stepped_arrOf {s : State} {n : Nat} {a : ArrInstr} (found : s.arrOf n a.tag a.id = some a) (v : SlotVals) :
    (s.stepped n a v).arrOf n a.tag a.id = some (s.steppedInstr n a a) := by
  rw [State.stepped, State.arrOf_modArr (f := s.steppedInstr n a) _ _ _ _ fun _ => ⟨rfl, rfl⟩, State.arrOf_progress,
    (tally_only _ n _ _ 1).arrOf, (feederPeak_onlyReg _ n a _).arrOf, State.leave, State.arrOf_setSlot, found]
  rfl

section toChecks

variable (s : State) (n : Nat) (a : ArrInstr)

theorem toChecks_local : Local n s (s.toChecks n a) :=
  ((setPhase_local s n _ _).trans (modArr_local _ n _ _ _)).trans (showRead_local _ n)

theorem toChecks_slotPhase : (s.toChecks n a).slotPhase n (aSlot a.word) = phChecking := by
  rw [State.toChecks, showRead_slotPhase, State.modArr, State.slotPhase, State.modCh_get_]
  exact State.slotPhase_setPhase_same s n _ (by decide)

theorem toChecks_slot (i : Nat) : (s.toChecks n a).slot n i = s.slot n i := by
  rw [State.toChecks, showRead_slot, State.slot_modArr, State.slot_setPhase]

theorem toChecks_arrOf : (s.toChecks n a).arrOf n a.tag a.id = (s.arrOf n a.tag a.id).map ArrInstr.toChecks := by
  rw [State.toChecks, showRead_arrOf, State.arrOf_modArr (f := ArrInstr.toChecks) _ _ _ _ fun _ => ⟨rfl, rfl⟩]
  rfl

end toChecks

theorem arrayStep_of_takesPart {n : Ch} {s : State} {a b : ArrInstr} {v : SlotVals}
    (here : ((s.ch n).arr.find? fun x => x.phase == .inArray) = some a) (noPriv : s.privFilling n = false)
    (active : s.live n a.tag = true) (step : s.stepTiles n a = some (v, []))
    (found : (s.stepped n a v).arrOf n a.tag a.id = some b) (part : (s.stepped n a v).takesPart n b = true) :
    exec (.arrayStep n) s = .next (if a.step + 1 = a.steps then (s.stepped n a v).toChecks n a else s.stepped n a v) := by
  have enabled : ¬ (s.privFilling n = true ∨ (!s.live n a.tag) = true) := by simp [noPriv, active]
  have left : ¬ (!(s.stepped n a v).takesPart n b) = true := by simp [part]
  rw [show exec (.arrayStep n) s = execArrayStep n s from rfl, execArrayStep, here]
  dsimp only
  rw [if_neg enabled, step, apply_ite Host.Outcome.next]
  dsimp only
  refine if_neg fun ended => ?_
  split at ended
  · next c foundHere =>
    cases found.symm.trans foundHere
    exact left ended
  · next notFound => cases found.symm.trans notFound

/-- R58, R60: a step without an overflow puts the values it leaves into the slot and moves the step count on, the last one going
over to the checks, where a column group of a tag that the chamber has takes part. -/
theorem arrayStep_complete {n : Ch} {s : State} {a : ArrInstr} {v : SlotVals}
    (here : ((s.ch n).arr.find? fun x => x.phase == .inArray) = some a) (noPriv : s.privFilling n = false)
    (active : s.live n a.tag = true) (found : s.arrOf n a.tag a.id = some a) (step : s.stepTiles n a = some (v, []))
    (part : ∃ t ∈ a.tiles, t.run = true ∧ t.gone = false ∧ s.live n t.tag = true ∧ t.tag < 4) :
    ∃ u b, exec (.arrayStep n) s = .next u ∧ Local n s u
      ∧ (u.slot n (aSlot a.word)).cur = v ∧ u.arrOf n a.tag a.id = some b ∧ b.step = a.step + 1
      ∧ b.phase = (if a.step + 1 = a.steps then .checking else .inArray)
      ∧ (a.step + 1 = a.steps → u.slotPhase n (aSlot a.word) = phChecking) := by
  obtain ⟨t, mem, run, there, activeTile, isTag⟩ := part
  have inArray : a.phase = .inArray := by simpa using List.find?_some here
  have foundNow := stepped_arrOf found v
  have left : (s.stepped n a v).takesPart n (s.steppedInstr n a a) = true :=
    List.any_eq_true.2 ⟨t, mem, by rw [run, there, stepped_live s n a v isTag, activeTile]; rfl⟩
  have runs := arrayStep_of_takesPart here noPriv active step foundNow left
  by_cases last : a.step + 1 = a.steps
  · have foundLast := (toChecks_arrOf (s.stepped n a v) n a).trans (congrArg _ foundNow)
    rw [if_pos last] at runs
    refine ⟨_, _, runs, (stepped_local s n a v).trans (toChecks_local _ n a), ?_, foundLast, rfl, ?_,
      fun _ => toChecks_slotPhase _ n a⟩
    · rw [toChecks_slot, stepped_cur]
    · rw [if_pos last]; rfl
  · rw [if_neg last] at runs
    refine ⟨_, _, runs, stepped_local s n a v, stepped_cur s n a v, foundNow, rfl, ?_, fun h => absurd h last⟩
    rw [if_neg last]
    exact inArray

/-! ### A tag beyond those of a chamber -/

/-- An uncompressed ARRAY under Y3 feed. -/
def feedWord : BitVec 128 := BitVec.ofNat 128 (0x40 + 2 ^ 16 + 2 ^ 37 + 2 ^ 41)

/-- An instruction at its second step of three, whose one column group bears a tag that no chamber has: where that tag's CH_TASK
would lie stands AY_Y3_QUEUE. -/
def strayInstr : ArrInstr :=
  { id := 0, tag := 0, pc := 0, word := feedWord, phase := .inArray, step := 1, steps := 3, tiles := [{ tag := 504, per := 0 }] }

/-- Chamber 0 with the instruction in its array and task 0 ACTIVE; that the feeder queues have reached a depth of 1 reads as the
state ACTIVE of the stray tag's task. -/
def strayState : State :=
  ((State.reset.set (CH_TASK 0 0) CH_TASK.STATE tActive).set (AY_Y3_QUEUE 0) AY_Y3_QUEUE.PEAK 1).modCh 0 fun c =>
    { c with arr := [strayInstr] }

/-- The step that the instruction numbered 0 has come to. -/
def stepReached : Out → Option Nat
  | .next u => (u.arrOf 0 0 0).map (·.step)
  | _ => none

theorem strayState_enabled : ((strayState.ch 0).arr.find? fun x => x.phase == .inArray) = some strayInstr
    ∧ strayState.privFilling 0 = false ∧ strayState.live 0 0 = true ∧ strayState.arrOf 0 0 0 = some strayInstr
    ∧ strayState.live 0 504 = true := by
  decide +kernel

theorem strayState_noOverflow : (strayState.stepTiles 0 strayInstr).map (·.2) = some [] := by decide +kernel

/-- The depth of 2 that the step records reads as the state SAVING, so no column group is left and the instruction goes back to its
first step. -/
theorem strayState_restarts : stepReached (exec (.arrayStep 0) strayState) = some 0 := by decide +kernel

/-- Refutes O9: nothing in the statement keeps a column group's tag below 4, and the depth that a step under Y3 feed records in
AY_Y3_QUEUE takes the group with tag 504 out of the instruction, which starts again instead of moving on. What holds is
`arrayEnter_complete`, and `arrayStep_complete` for the tags that a chamber has. -/
theorem not_arrayEntryAndStepsComplete : ¬ Obligations.ArrayEntryAndStepsComplete := by
  unfold Obligations.ArrayEntryAndStepsComplete
  intro h
  obtain ⟨here, noPriv, active, found, stray⟩ := strayState_enabled
  obtain ⟨⟨v, ovr⟩, step, none_ovr⟩ := Option.map_eq_some_iff.1 strayState_noOverflow
  cases none_ovr
  obtain ⟨-, moves⟩ := h 0 strayState strayInstr
  obtain ⟨u, b, runs, -, -, foundNow, moved, -⟩ :=
    moves v here noPriv active found step ⟨_, List.mem_singleton_self _, rfl, rfl, stray⟩
  have reached : stepReached (exec (.arrayStep 0) strayState) = some 2 := by
    rw [runs, stepReached, show u.arrOf 0 0 0 = some b from foundNow, Option.map_some, moved]
    rfl
  rw [strayState_restarts] at reached
  cases reached

/-! ### Checks, drains and the Lauter's reading (R72 to R77, R82, R92, R101, R154) -/

section checksAndDrains

variable {n : Ch} {s : State} {a : ArrInstr} {slot : Fin 2}

/-- The checks of a slot's instruction are made while its task is ACTIVE (R72 to R77). -/
theorem checksComplete_of_live (d : List CellFault)
    (here : ((s.ch n).arr.find? fun x => x.phase == .checking && aSlot x.word = slot.val) = some a)
    (active : s.live n a.tag = true) :
    exec (.checksComplete n slot d) s
      = .next ((((s.checkTiles n slot a d).progress n a.tag).passEnd n a).showArray n) := by
  rw [show exec (.checksComplete n slot d) s = execChecksComplete n slot d s from rfl, execChecksComplete, here]
  exact if_neg (by simp [active])

/-- The last item of a drain is accepted (R101): no update of it is on its way to the sump, or its write start is over. -/
def State.drainAccepted (s : State) (n : Nat) (a : ArrInstr) : Bool :=
  if aDest a.word then !((s.ch n).updQ.any fun u => u.id = a.id && u.own = a.tag) else (s.startOf n 2 a.tag a.id).isNone

theorem drainAccepted_of_noneLeft (sump : aDest a.word = true → ∀ u ∈ (s.ch n).updQ, ¬ (u.id = a.id ∧ u.own = a.tag))
    (stream : aDest a.word = false → s.startOf n 2 a.tag a.id = none) : s.drainAccepted n a = true := by
  unfold State.drainAccepted
  cases dest : aDest a.word with
  | true => simpa using sump dest
  | false => simpa using stream dest

/-- An accepted drain of a task whose tiles still drain first has its keep word written, if it selects (R154), and is over once
that is done. -/
theorem drainComplete_of_accepted (here : ((s.ch n).arr.find? fun x => x.phase == .draining && aSlot x.word = slot.val) = some a)
    (accepted : s.drainAccepted n a = true) (drains : s.drains n a.tag = true) :
    exec (.drainComplete n slot) s
      = if aSel a.word && !a.keep then .next (s.select n a)
        else if s.internalDue n a.tag a.id 3 then .next s else .next (s.drained n slot a) := by
  rw [show exec (.drainComplete n slot) s = execDrainComplete n slot s from rfl, execDrainComplete, here]
  have go : ¬ ((!s.drainAccepted n a) = true ∨ (!s.drains n a.tag) = true) := by simp [accepted, drains]
  exact if_neg go

/-- The Lauter reads the instruction whose turn it is (R82). -/
theorem lauterRead_of_next (next : s.lauterNext n .queued = some a) : exec (.lauterRead n) s = .next (s.lauterRead n a) := by
  rw [show exec (.lauterRead n) s = execLauterRead n s from rfl, execLauterRead, next]

theorem lauterRead_of_list {l : ListInstr} (noArray : s.lauterNext n .queued = none) (next : s.listNext n = some l) :
    exec (.lauterRead n) s = .next ((s.listRead n l).showLauter n) := by
  rw [show exec (.lauterRead n) s = execLauterRead n s from rfl, execLauterRead, noArray]
  dsimp only
  rw [next]

/-- The instruction whose region is complete is read (R92). -/
theorem spargeRegionWaitEnd_of_next (next : s.lauterNext n .regionWait = some a) :
    exec (.spargeRegionWaitEnd n) s = .next (s.lauterRead n a) := by
  rw [show exec (.spargeRegionWaitEnd n) s = execSpargeRegionWaitEnd n s from rfl, execSpargeRegionWaitEnd, next]

end checksAndDrains

/-- Settles O10: each command finds the instruction whose turn it is, and nothing that it waits for is still due. -/
theorem checksDrainsAndReadingComplete : Obligations.ChecksDrainsAndReadingComplete := by
  unfold Obligations.ChecksDrainsAndReadingComplete
  intro n s a
  refine ⟨fun slot d here active => checksComplete_of_live d here active, fun slot here sump stream drains => ?_,
    lauterRead_of_next, fun l => lauterRead_of_list, spargeRegionWaitEnd_of_next⟩
  have runs := drainComplete_of_accepted here (drainAccepted_of_noneLeft sump stream) drains
  refine ⟨fun noKeep written => ?_, fun selects noKeep => ?_⟩
  · have noSelect : ¬ (aSel a.word && !a.keep) = true := by
      rcases noKeep with noSel | keep
      · simp [noSel]
      · simp [keep]
    rw [runs, if_neg noSelect, if_neg (by simp [written])]
  · rw [runs, if_pos (by simp [selects, noKeep])]

end Sys2Proof.Machine
end

section
/-! SUPPORT. ARRAY and CHAIN at their issue (R98, R120, R155, R170): what joins the array's and Flowstone's queues and the engines'
issue queues, and what the completion of an instruction changes (R174, R188). -/

namespace Sys2Proof.Machine

theorem SP_STATUS_inWindow (n : Nat) : InWindow n (SP_STATUS n) := inWindow_add n (o := 0x3008) (by decide)

theorem CH_STATUS_inWindow (n : Nat) : InWindow n (CH_STATUS n) := inWindow_add n (o := 0x8) (by decide)

/-! ### The completion of an instruction (R174, R175, R188) -/

/-- A context is ENDED with end code 0. -/
theorem endTask_zero (s : State) (n t : Nat) :
    s.endTask n t 0 = ((s.setTstate n t tEnded).set (CH_TASK n t) CH_TASK.END_CODE 0).set (CH_TASK n t) CH_TASK.PREEMPT_PENDING 0 :=
  rfl

/-- A task has come to `k`, which shows in its registers; `ended` tells that its END is complete. -/
def State.settleTo (s : State) (n t : Nat) (k : Task) (ended : Bool) : State :=
  let u := (s.setTask n t k).showWindow n t
  if ended then (if u.tstate n t = tSaving then (u.endTask n t 0).cmdDone n 2 else u.endTask n t 0) else u

/-- Ending the waits of a task takes instructions out of its window, and may end the task. -/
theorem settle_eq (s : State) (n t : Nat) :
    ∃ k ended, k.window.Sublist (s.task n t).window ∧ s.settle n t = s.settleTo n t k ended := by
  unfold State.settle
  extract_lets k w k' r u
  have left : k'.window.Sublist k.window := by
    unfold k'
    split
    · exact List.filter_sublist
    · exact .refl _
  have rest : w.Sublist k.window := List.filter_sublist
  refine ⟨r.1, r.2, ?_, rfl⟩
  unfold r
  split
  · split
    · exact left
    · split
      · exact left
      · exact List.filter_sublist.trans rest
  · split
    · exact left
    · exact List.nil_sublist _
  · exact left

/-- The registers that show the end of an instruction, and of its task with it. -/
def endRegs (n t a : Nat) : Prop := a = CH_TASK n t ∨ a = CH_STATUS n ∨ a = CH_CMD_STATUS n

section completion

variable (s : State) (n : Nat) (t : Tag)

theorem endTask_zero_frame : IssueFrame n (endRegs n t) s (s.endTask n t 0) := by
  have task (u : State) (f : Fld) (x : Nat) : IssueFrame n (endRegs n t) u (u.set (CH_TASK n t) f x) :=
    set_frame u (CH_TASK_inWindow n t) (.inl rfl) f x
  have status (u : State) (f : Fld) (x : Nat) : IssueFrame n (endRegs n t) u (u.set (CH_STATUS n) f x) :=
    set_frame u (CH_STATUS_inWindow n) (.inr (.inl rfl)) f x
  exact (((task s _ _).trans (status _ _ _)).trans (task _ _ _)).trans (task _ _ _)

theorem cmdDone_frame (r : Nat) : IssueFrame n (endRegs n t) s (s.cmdDone n r) := by
  have cmd (u : State) (f : Fld) (x : Nat) : IssueFrame n (endRegs n t) u (u.set (CH_CMD_STATUS n) f x) :=
    set_frame u (inWindow_add n (by decide)) (.inr (.inr rfl)) f x
  exact (cmd s _ _).trans (cmd _ _ _)

theorem showWindow_frame : IssueFrame n (endRegs n t) s (s.showWindow n t) :=
  set_frame s (CH_TASK_inWindow n t) (.inl rfl) _ _

theorem settleTo_frame (k : Task) (ended : Bool) : IssueFrame n (endRegs n t) s (s.settleTo n t k ended) := by
  have shown : IssueFrame n (endRegs n t) s ((s.setTask n t k).showWindow n t) :=
    (setTask_frame s t k).trans (showWindow_frame _ n t)
  unfold State.settleTo
  extract_lets u
  split
  · split
    · exact (shown.trans (endTask_zero_frame u n t)).trans (cmdDone_frame _ n t 2)
    · exact shown.trans (endTask_zero_frame u n t)
  · exact shown

theorem endTask_zero_task : (s.endTask n t 0).task n t = s.task n t := by
  rw [endTask_zero, State.set_task_, State.set_task_, State.setTstate_task_]

theorem cmdDone_task (r : Nat) : (s.cmdDone n r).task n t = s.task n t := by
  rw [State.cmdDone, State.set_task_, State.set_task_]

theorem settleTo_task (k : Task) (ended : Bool) : (s.settleTo n t k ended).task n t = k := by
  unfold State.settleTo
  extract_lets u
  have here : u.task n t = k := (State.showWindow_task_ _ n t n t).trans (State.task_setTask_same s n t k)
  clear_value u
  split
  · split
    · rw [cmdDone_task, endTask_zero_task, here]
    · rw [endTask_zero_task, here]
  · exact here

/-- The end of a task leaves LAST_TAG, which its own bit of ACTIVE lies apart from. -/
theorem endTask_zero_lastTag :
    (s.endTask n t 0).get (CH_STATUS n) CH_STATUS.LAST_TAG = s.get (CH_STATUS n) CH_STATUS.LAST_TAG := by
  have task : CH_STATUS n ≠ CH_TASK n t := by unfold CH_STATUS CH_TASK; omega
  have apart : CH_STATUS.LAST_TAG.lo + CH_STATUS.LAST_TAG.w ≤ 3 + t := Nat.le_add_right_of_le (by decide)
  rw [endTask_zero, State.get_set_ne _ _ _ _ task, State.get_set_ne _ _ _ _ task, State.setTstate,
    State.get_set_other _ _ _ _ _ _ (by decide) (.inr apart), State.get_set_ne _ _ _ _ task]

theorem cmdDone_lastTag (r : Nat) :
    (s.cmdDone n r).get (CH_STATUS n) CH_STATUS.LAST_TAG = s.get (CH_STATUS n) CH_STATUS.LAST_TAG := by
  have cmd : CH_STATUS n ≠ CH_CMD_STATUS n := by unfold CH_STATUS CH_CMD_STATUS; omega
  rw [State.cmdDone, State.get_set_ne _ _ _ _ cmd, State.get_set_ne _ _ _ _ cmd]

theorem showWindow_lastTag :
    (s.showWindow n t).get (CH_STATUS n) CH_STATUS.LAST_TAG = s.get (CH_STATUS n) CH_STATUS.LAST_TAG :=
  State.get_set_ne s _ _ _ (by unfold CH_STATUS CH_TASK; omega)

theorem settleTo_lastTag (k : Task) (ended : Bool) :
    (s.settleTo n t k ended).get (CH_STATUS n) CH_STATUS.LAST_TAG = s.get (CH_STATUS n) CH_STATUS.LAST_TAG := by
  unfold State.settleTo
  extract_lets u
  have here : u.get (CH_STATUS n) CH_STATUS.LAST_TAG = s.get (CH_STATUS n) CH_STATUS.LAST_TAG :=
    (showWindow_lastTag _ n t).trans (State.setTask_get_ s n t k _ _)
  clear_value u
  split
  · split
    · rw [cmdDone_lastTag, endTask_zero_lastTag, here]
    · rw [endTask_zero_lastTag, here]
  · exact here

/-- The task once the instruction `id` has left its window. -/
def Task.without (k : Task) (id : Nat) : Task := { k with window := k.window.filter (·.id != id), stall := 0 }

/-- The completed instruction leaves the window, then waits that this ends are ended. -/
theorem complete_eq (id : Nat) : ∃ k ended, (∀ i ∈ k.window, i.id ≠ id)
    ∧ s.complete n t id = ((s.modTask n t (·.without id)).showWindow n t).settleTo n t k ended := by
  obtain ⟨k, ended, left, settled⟩ := settle_eq ((s.modTask n t (·.without id)).showWindow n t) n t
  rw [State.showWindow_task_, State.task_modTask_same] at left
  exact ⟨k, ended, fun i mem => bne_iff_ne.1 (List.mem_filter.1 (left.subset mem)).2, settled⟩

theorem complete_frame (id : Nat) : IssueFrame n (endRegs n t) s (s.complete n t id) := by
  obtain ⟨k, ended, -, completed⟩ := complete_eq s n t id
  rw [completed]
  exact ((setTask_frame s t _).trans (showWindow_frame _ n t)).trans (settleTo_frame _ n t k ended)

/-- An instruction that is complete is not in its task's window. -/
theorem complete_window (id : Nat) : ∀ i ∈ ((s.complete n t id).task n t).window, i.id ≠ id := by
  obtain ⟨k, ended, left, completed⟩ := complete_eq s n t id
  rw [completed, settleTo_task]
  exact left

theorem complete_lastTag (id : Nat) :
    (s.complete n t id).get (CH_STATUS n) CH_STATUS.LAST_TAG = s.get (CH_STATUS n) CH_STATUS.LAST_TAG := by
  obtain ⟨k, ended, -, completed⟩ := complete_eq s n t id
  rw [completed, settleTo_lastTag, showWindow_lastTag, State.modTask_get_]

end completion

/-! ### ARRAY (R98, R170, R226) -/

/-- The starts of an ARRAY: the groups of its first column group's operands, and the sink of a drain to a stream. -/
def arrayStarts (w : BitVec 128) (first : Tile) : List (Nat × StartKind × Nat) :=
  [(0, .group 0, first.descA), (1, .group 1, first.descB)] ++ if toSink w then [(2, .sink, first.descW)] else []

/-- The starts of an ARRAY by engine. -/
theorem arrayStarts_filter (w : BitVec 128) (first : Tile) :
    (arrayStarts w first).filter (fun x => x.1 = 0) = [(0, .group 0, first.descA)]
      ∧ (arrayStarts w first).filter (fun x => x.1 = 1) = [(1, .group 1, first.descB)]
      ∧ (arrayStarts w first).filter (fun x => x.1 = 2) = if toSink w then [(2, .sink, first.descW)] else [] := by
  unfold arrayStarts
  cases toSink w <;> simp

/-- The group of the instruction's slot opens, unless it goes on (R98), and SP_STATUS shows whether it is left open. -/
def State.openGroup (s : State) (n t : Nat) (w : BitVec 128) : State :=
  (if aCont w then s else s.setSlot n (aSlot w) { s.slot n (aSlot w) with last := groupOf w t }).set (SP_STATUS n)
    (slotOpenFld (aSlot w)) (bit (!aDrain w))

/-- The instruction that the ARRAY `w` at the head of tag `t` becomes in the array's queue. -/
def State.arrayInstr (s : State) (n t : Nat) (w : BitVec 128) (pc seq : Nat) : ArrInstr :=
  { id := (s.task n t).nextId, tag := t, pc := pc, seq := seq, word := w, gv := s.gvCopy n t, tiles := s.arrayTiles n t w }

/-- The head issues into the window, its slot's group opens or closes, and it joins the array's queue. -/
def State.joinArray (s : State) (n t : Nat) (w : BitVec 128) (pc : Nat) : State :=
  ((s.take n t true).openGroup n t w).modCh n fun c =>
    { c with arr := c.arr ++ [s.arrayInstr n t w pc (((s.take n t true).openGroup n t w).ch n).issues] }

/-- Without SEL under policy OFF, an ARRAY joins the array's queue and its starts their engines'. -/
theorem arrayIssue_of_noOffSel {s : State} {n t : Nat} {w : BitVec 128} (selects : offSel w (s.gvCopy n t) = false) (pc : Nat) :
    s.arrayIssue n t w pc = (s.joinArray n t w pc).queueList n (s.task n t).nextId t
      (arrayStarts w ((s.arrayTiles n t w).headD {})) := by
  refine (if_neg (by simp [selects])).trans ?_
  unfold arrayStarts
  cases toSink w <;> rfl

/-- Under policy OFF an ARRAY with SEL only has its all-kept word written (R155). -/
theorem arrayIssue_of_offSel {s : State} {n t : Nat} {w : BitVec 128} (selects : offSel w (s.gvCopy n t) = true) (pc : Nat) :
    s.arrayIssue n t w pc
      = (s.take n t true).writeKeep n t (s.task n t).nextId 1 (s.gvCopy n t) (2 ^ gvU (s.gvCopy n t) - 1) :=
  if_pos selects

section openGroup

variable (s : State) (n : Nat) (t : Nat) (w : BitVec 128)

theorem openGroup_local : Local n s (s.openGroup n t w) := by
  unfold State.openGroup
  exact (ite_rel (R := Local n) (fun _ => .refl n s) fun _ => setSlot_local s n _ _).trans
    (set_local _ (SP_STATUS_inWindow n) _ _)

theorem openGroup_reg {a : Nat} (ne : a ≠ SP_STATUS n) : (s.openGroup n t w).reg a = s.reg a := by
  rw [State.openGroup, State.reg_set_ne _ _ _ ne]
  split <;> rfl

/-- Of the chamber, only slots change. -/
theorem openGroup_ch : ∃ l, (s.openGroup n t w).ch n = { s.ch n with slots := l } := by
  rw [State.openGroup, State.set_ch_]
  split
  · exact ⟨_, rfl⟩
  · rw [State.setSlot, State.ch_modCh_same]
    exact ⟨_, rfl⟩

theorem openGroup_slotOpen : (s.openGroup n t w).get (SP_STATUS n) (slotOpenFld (aSlot w)) = bit (!aDrain w) := by
  have field : (slotOpenFld (aSlot w)).lo + (slotOpenFld (aSlot w)).w ≤ 64 ∧ (slotOpenFld (aSlot w)).w = 1 := by
    unfold slotOpenFld
    split <;> decide
  obtain ⟨inside, width⟩ := field
  rw [State.openGroup, State.get_set_same _ _ _ _ inside, width]
  cases aDrain w <;> rfl

end openGroup

theorem queueList_arr (s : State) (n id t : Nat) (starts : List (Nat × StartKind × Nat)) :
    ((s.queueList n id t starts).ch n).arr = (s.ch n).arr := by
  refine List.foldlRecOn (motive := fun u : State => (u.ch n).arr = (s.ch n).arr) _ _ rfl fun u same x _ => ?_
  rw [State.queueStart, State.setEng, State.ch_modCh_same]
  exact same

section joinArray

variable (s : State) (n : Nat) (t : Tag) (w : BitVec 128) (pc : Nat)

theorem joinArray_local : Local n s (s.joinArray n t w pc) := by
  obtain ⟨inside, -, -⟩ := take_frame s n t true
  exact (inside.trans (openGroup_local _ n t w)).trans (modCh_local _ n _)

theorem joinArray_reg {a : Nat} (ne : a ≠ SP_STATUS n) : (s.joinArray n t w pc).reg a = (s.take n t true).reg a := by
  rw [State.joinArray, State.modCh_reg_, openGroup_reg _ n t w ne]

theorem joinArray_slotOpen : (s.joinArray n t w pc).get (SP_STATUS n) (slotOpenFld (aSlot w)) = bit (!aDrain w) := by
  rw [State.joinArray, State.modCh_get_, openGroup_slotOpen]

/-- The array's queue has grown by the instruction, the engines stand as they did. -/
theorem joinArray_ch : ∃ k l i sl seq, (s.joinArray n t w pc).ch n
    = { s.ch n with
        tasks := k, lastIssue := l, issues := i, slots := sl, arr := (s.ch n).arr ++ [s.arrayInstr n t w pc seq] } := by
  obtain ⟨-, -, k, l, i, taken⟩ := take_frame s n t true
  obtain ⟨sl, opened⟩ := openGroup_ch (s.take n t true) n t w
  refine ⟨k, l, i, sl, (((s.take n t true).openGroup n t w).ch n).issues, ?_⟩
  rw [State.joinArray, State.ch_modCh_same, opened, taken]

theorem joinArray_eng (e : Nat) : (s.joinArray n t w pc).eng n e = s.eng n e := by
  obtain ⟨k, l, i, sl, seq, joined⟩ := joinArray_ch s n t w pc
  rw [State.eng, joined, State.eng]

end joinArray

/-! ### CHAIN (R120) -/

/-- The instruction that the CHAIN `w` at the head of tag `t` becomes in Flowstone's queue. -/
def State.chainInstr (s : State) (n t : Nat) (w : BitVec 128) (pc : Nat) : Chain :=
  { id := (s.task n t).nextId, tag := t, pc := pc, word := w }

/-- The head issues into the window and joins Flowstone's queue. -/
def State.joinFlow (s : State) (n t : Nat) (w : BitVec 128) (pc : Nat) : State :=
  (s.take n t true).modCh n fun c => { c with chains := c.chains ++ [s.chainInstr n t w pc] }

theorem joinFlow_local (s : State) (n : Nat) (t : Tag) (w : BitVec 128) (pc : Nat) : Local n s (s.joinFlow n t w pc) := by
  obtain ⟨inside, -, -⟩ := take_frame s n t true
  exact inside.trans (modCh_local _ n _)

theorem joinFlow_chains (s : State) (n : Nat) (t : Tag) (w : BitVec 128) (pc : Nat) :
    ((s.joinFlow n t w pc).ch n).chains = (s.ch n).chains ++ [s.chainInstr n t w pc] := by
  obtain ⟨-, -, tasks, last, issues, taken⟩ := take_frame s n t true
  rw [State.joinFlow, State.ch_modCh_same, taken]

section issues

variable {s : State} {n : Ch} {t : Tag} {w : BitVec 128} {pc : Nat}

theorem fetched_of_issues {op : Nat} (turn : s.issues n t op w pc) : (s.task n t).fetched ≠ [] := by
  obtain ⟨-, head, -, -⟩ := turn
  obtain ⟨rest, cons⟩ := List.head?_eq_some_iff.1 head
  rw [cons]
  exact List.cons_ne_nil _ _

theorem array_of_noFault (turn : s.issues n t 0x40 w pc) (noFault : s.arrayFault n t w = none) :
    exec (.array n t) s = .next (s.arrayIssue n t w pc) := by
  rw [show exec (.array n t) s = execArray n t s from rfl, execArray, issue_of_issues turn]
  simp only [noFault]

theorem chain_of_rows (turn : s.issues n t 0x50 w pc) (rows : cRows w ≠ 0) :
    exec (.chain n t) s = .next (s.joinFlow n t w pc) := by
  rw [show exec (.chain n t) s = execChain n t s from rfl, execChain, issue_of_issues turn]
  exact if_neg rows

theorem chain_of_noRows (turn : s.issues n t 0x50 w pc) (rows : cRows w = 0) :
    exec (.chain n t) s = .next ((s.take n t true).complete n t (s.task n t).nextId) := by
  rw [show exec (.chain n t) s = execChain n t s from rfl, execChain, issue_of_issues turn]
  exact if_pos rows

/-- An instruction that issues and is complete at once: its issue is seen, and it is gone from the window. -/
theorem take_complete {op : Nat} (turn : s.issues n t op w pc) (id : Nat) :
    let u := (s.take n t true).complete n t id
    IssueSeen n t s u ∧ PcNext n t pc s u ∧ Local n s u ∧ IssueOnly (s.ch n) (u.ch n)
      ∧ ∀ i ∈ (u.task n t).window, i.id ≠ id := by
  intro u
  obtain ⟨counted, last⟩ := take_seen (fetched_of_issues turn) true
  obtain ⟨-, head, -, -⟩ := turn
  obtain ⟨inside, regs, chamber⟩ := complete_frame (s.take n t true) n t id
  obtain ⟨inside', -, chamber'⟩ := take_frame s n t true
  refine ⟨⟨?_, (complete_lastTag _ n t id).trans last⟩, (take_pcNext head true).keep (regs _ ?_), inside'.trans inside,
    chamber'.trans chamber, complete_window _ n t id⟩
  · rw [State.get, regs _ (by unfold endRegs CH_ISSUED CH_TASK CH_STATUS CH_CMD_STATUS; omega)]
    exact counted
  · unfold endRegs CH_TASK_PC CH_TASK CH_STATUS CH_CMD_STATUS
    omega

/-- An ARRAY without a fault, and without SEL under policy OFF, issues. -/
theorem array_complete (turn : s.issues n t 0x40 w pc) (noFault : s.arrayFault n t w = none)
    (selects : offSel w (s.gvCopy n t) = false) :
    ∃ u seq, exec (.array n t) s = .next u ∧ IssueSeen n t s u ∧ PcNext n t pc s u ∧ Local n s u
      ∧ (u.ch n).arr = (s.ch n).arr ++ [s.arrayInstr n t w pc seq]
      ∧ u.get (SP_STATUS n) (slotOpenFld (aSlot w)) = bit (!aDrain w)
      ∧ ∀ e, (u.eng n e).queue = (s.eng n e).queue
        ++ ((arrayStarts w ((s.arrayTiles n t w).headD {})).filter fun x => x.1 = e).map (listStart (s.task n t).nextId t) := by
  have seen := take_seen (fetched_of_issues turn) true
  have runs := array_of_noFault turn noFault
  rw [arrayIssue_of_noOffSel selects] at runs
  obtain ⟨-, head, -, -⟩ := turn
  obtain ⟨k, l, i, sl, seq, joined⟩ := joinArray_ch s n t w pc
  have same {a : Nat} (ne : a ≠ SP_STATUS n) := (queueList_reg (s.joinArray n t w pc) n (s.task n t).nextId t
    (arrayStarts w ((s.arrayTiles n t w).headD {})) a).trans (joinArray_reg s n t w pc ne)
  refine ⟨_, seq, runs, seen.keep (same ?_) (same ?_), (take_pcNext head true).keep (same ?_),
    (joinArray_local s n t w pc).trans (queueList_local _ n _ t _), ?_, ?_, fun e => ?_⟩
  · unfold CH_ISSUED SP_STATUS; omega
  · unfold CH_STATUS SP_STATUS; omega
  · unfold CH_TASK_PC SP_STATUS; omega
  · rw [queueList_arr, joined]
  · rw [State.get, queueList_reg]
    exact joinArray_slotOpen s n t w pc
  · rw [queueList_queue, joinArray_eng]

end issues

/-- Settles O7: an ARRAY without a fault joins the queues, or has its all-kept word written; a CHAIN joins Flowstone's queue or,
having no rows, is complete as it issues. -/
theorem arrayAndChainIssue : Obligations.ArrayAndChainIssue := by
  unfold Obligations.ArrayAndChainIssue
  intro n t s w pc
  refine ⟨fun turn noFault noSel => ?_, fun turn noFault selects => ?_, fun turn rows => ?_, fun turn noRows => ?_⟩
  · obtain ⟨u, seq, runs, seen, moved, inside, joined, opened, queues⟩ := array_complete turn noFault noSel
    obtain ⟨first, second, output⟩ := arrayStarts_filter w ((s.arrayTiles n t w).headD {})
    refine ⟨u, _, runs, seen, moved, inside, joined, rfl, rfl, rfl, rfl, rfl, rfl, opened, ?_, ?_, ?_⟩
    · rw [queues, first, List.length_append]
      rfl
    · rw [queues, second, List.length_append]
      rfl
    · rw [queues, output, List.length_append]
      cases toSink w <;> rfl
  · intro g
    rw [array_of_noFault turn noFault, arrayIssue_of_offSel selects]
  · have seen := take_seen (fetched_of_issues turn) true
    have runs := chain_of_rows turn rows
    obtain ⟨-, head, -, -⟩ := turn
    exact ⟨_, _, runs, seen.keep rfl rfl, (take_pcNext head true).keep rfl, joinFlow_local s n t w pc,
      joinFlow_chains s n t w pc, rfl, rfl, rfl, rfl, rfl⟩
  · obtain ⟨seen, moved, inside, ⟨tasks, last, issues, chamber⟩, gone⟩ := take_complete turn (s.task n t).nextId
    exact ⟨_, chain_of_noRows turn noRows, seen, moved, inside, by rw [chamber], gone⟩

end Sys2Proof.Machine
end

section
/-! SUPPORT. The sump (R109, R111 to R114): what an update, a written run, the start of a drain and a merge pass leave. -/

namespace Sys2Proof.Machine

/-! ### What of a chamber the end of a list instruction changes (R83, R114) -/

/-- Of a chamber, only its tasks, its list instructions, the drain of its sump and the seed of its hash change. -/
def ListEnd (c d : Chamber) : Prop := ∃ k l dr sd, d = { c with tasks := k, lists := l, sumpDrain := dr, seed := sd }

theorem ListEnd.refl (c : Chamber) : ListEnd c c := ⟨_, _, _, _, rfl⟩

theorem ListEnd.trans {c d e : Chamber} : ListEnd c d → ListEnd d e → ListEnd c e := by
  rintro ⟨_, _, _, _, rfl⟩ ⟨k, l, dr, sd, rfl⟩
  exact ⟨k, l, dr, sd, rfl⟩

theorem ListEnd.of_eq {c d : Chamber} (same : d = c) : ListEnd c d := same ▸ .refl c

theorem RegsOnly.ch {s u : State} (h : RegsOnly s u) (m : Nat) : u.ch m = s.ch m := by
  obtain ⟨r, rfl⟩ := h
  rfl

theorem PerfOnly.ch {s u : State} (h : PerfOnly s u) (m : Nat) : u.ch m = s.ch m := by
  obtain ⟨p, rfl⟩ := h
  rfl

theorem ch_setTask (s : State) (n t : Nat) (k : Task) : ∃ l, (s.setTask n t k).ch n = { s.ch n with tasks := l } := by
  rw [State.setTask, State.ch_modCh_same]
  exact ⟨_, rfl⟩

theorem showSump_only (s : State) (n : Nat) : RegsOnly s (s.showSump n) :=
  (((set_only s _ _ _).trans (set_only _ _ _ _)).trans (set_only _ _ _ _)).trans (set_only _ _ _ _)

theorem tolAdd_ch (s : State) (n : Nat) (l : List (Nat × Tol)) : (s.tolAdd n l).ch n = s.ch n := by
  refine List.foldlRecOn (motive := fun u : State => u.ch n = s.ch n) _ _ rfl fun u same x _ => ?_
  rw [(tally_only _ n _ _ _).ch, State.bump_ch_, State.bump_ch_, State.bump_ch_, same]

theorem takeSeed_ch (s : State) (n : Nat) : ListEnd (s.ch n) ((s.takeSeed n).ch n) := by
  unfold State.takeSeed
  split
  · rw [State.ch_modCh_same]
    exact ⟨_, _, _, _, rfl⟩
  · exact .refl _

theorem sumpDone_ch (s : State) (n t id : Nat) : ListEnd (s.ch n) ((s.sumpDone n t id).ch n) := by
  unfold State.sumpDone
  split
  · split
    · split
      · exact .refl _
      · extract_lets a s1 s2 s3 s4 s5 s6
        have shown : RegsOnly s s6 := ((((setReg_only s a _).trans (set_only _ a _ _)).trans (set_only _ a _ _)).trans
          (set_only _ a _ _)).trans ((set_only _ a _ _).trans (set_only _ a _ _))
        clear_value s6
        rw [(showSump_only _ n).ch]
        refine .trans ?_ (takeSeed_ch _ n)
        rw [State.ch_modCh_same, shown.ch]
        exact ⟨_, _, _, _, rfl⟩
    · exact .refl _
  · exact .refl _

/-- Whether or not its task ends with it, an instruction that is complete changes of its chamber the tasks alone. -/
theorem settleTo_ch (s : State) (n t : Nat) (k : Task) (ended : Bool) :
    (s.settleTo n t k ended).ch n = (s.setTask n t k).ch n := by
  have ends (u : State) : RegsOnly u (u.endTask n t 0) :=
    ((setTstate_only u n t _).trans (set_only _ _ _ _)).trans (set_only _ _ _ _)
  have shown := showWindow_only (s.setTask n t k) n t
  unfold State.settleTo
  extract_lets u
  split
  · split
    · exact ((shown.trans (ends u)).trans (cmdDone_only _ n 2)).ch n
    · exact (shown.trans (ends u)).ch n
  · exact shown.ch n

theorem complete_ch (s : State) (n t id : Nat) : ListEnd (s.ch n) ((s.complete n t id).ch n) := by
  obtain ⟨k, ended, -, settled⟩ := settle_eq ((s.modTask n t (·.without id)).showWindow n t) n t
  obtain ⟨l, taken⟩ := ch_setTask s n t ((s.task n t).without id)
  obtain ⟨l', put⟩ := ch_setTask ((s.modTask n t (·.without id)).showWindow n t) n t k
  rw [show s.complete n t id = ((s.modTask n t (·.without id)).showWindow n t).settle n t from rfl, settled, settleTo_ch, put,
    State.showWindow_ch_, State.modTask, taken]
  exact ⟨_, _, _, _, rfl⟩

theorem listDone_ch (s : State) (n t id : Nat) : ListEnd (s.ch n) ((s.listDone n t id).ch n) := by
  unfold State.listDone
  refine (ListEnd.trans ?_ (sumpDone_ch _ n t id)).trans (complete_ch _ n t id)
  rw [tolAdd_ch, State.ch_modCh_same]
  exact ⟨_, _, _, _, rfl⟩

theorem listSettle_ch (s : State) (n t id : Nat) : ListEnd (s.ch n) ((s.listSettle n t id).ch n) := by
  unfold State.listSettle
  extract_lets waits done sink
  split
  · rw [(showLauter_onlyReg _ n).ch]
    exact listDone_ch s n t id
  · exact .refl _

/-! ### Updates (R111, R112) -/

theorem showFlowWaits_onlyReg (s : State) (n : Nat) : OnlyReg (FS_STATUS n) s (s.showFlowWaits n) := by
  unfold State.showFlowWaits
  split
  · exact .refl _ s
  · exact .set (.set (.refl _ s) _ _) _ _

/-- An update that was applied or dropped leaves the queue, and its instruction may be complete with it. -/
def State.updDone (s : State) (n : Nat) (u : Upd) : State :=
  ((((s.updTaken n u).showSump n).showFlowWaits n).progress n u.tag).listSettle n u.own u.id

theorem updDone_ch (s : State) (n : Nat) (u : Upd) :
    ListEnd { s.ch n with updQ := (s.ch n).updQ.erase u } ((s.updDone n u).ch n) := by
  unfold State.updDone
  refine .trans ?_ (listSettle_ch _ n u.own u.id)
  obtain ⟨l, progressed⟩ := ch_setTask (((s.updTaken n u).showSump n).showFlowWaits n) n u.tag
    { (((s.updTaken n u).showSump n).showFlowWaits n).task n u.tag with stall := 0 }
  rw [State.progress, State.modTask, progressed, (showFlowWaits_onlyReg _ n).ch, (showSump_only _ n).ch, State.updTaken,
    State.ch_modCh_same]
  exact ⟨_, _, _, _, rfl⟩

/-! ### An update that is dropped (R111) -/

/-- Only chamber `n` changes, and its register `b` not. -/
def Spares (n b : Nat) (s u : State) : Prop := Local n s u ∧ u.reg b = s.reg b

section Spares

variable {n a b : Nat} {s u v : State}

theorem Spares.refl (n b : Nat) (s : State) : Spares n b s s := ⟨.refl n s, rfl⟩

theorem Spares.trans (h : Spares n b s u) (g : Spares n b u v) : Spares n b s v := by
  obtain ⟨inside, same⟩ := h
  obtain ⟨inside', same'⟩ := g
  exact ⟨inside.trans inside', same'.trans same⟩

theorem setReg_spares (s : State) (inside : InWindow n a) (ne : b ≠ a) (x : Word) : Spares n b s (s.setReg a x) :=
  ⟨setReg_local s inside x, State.reg_setReg_ne s x ne⟩

theorem set_spares (s : State) (inside : InWindow n a) (ne : b ≠ a) (f : Fld) (x : Nat) : Spares n b s (s.set a f x) :=
  setReg_spares s inside ne _

theorem modCh_spares (s : State) (n b : Nat) (f : Chamber → Chamber) : Spares n b s (s.modCh n f) := ⟨modCh_local s n f, rfl⟩

theorem PerfOnly.spares (h : PerfOnly s u) : Spares n b s u := by
  refine ⟨h.inChamber n, ?_⟩
  obtain ⟨p, rfl⟩ := h
  rfl

theorem OnlyReg.spares (h : OnlyReg a s u) (inside : InWindow n a) (ne : b ≠ a) : Spares n b s u := by
  refine ⟨h.inChamber inside, ?_⟩
  obtain ⟨-, regs⟩ := h
  exact regs b ne

theorem IssueFrame.spares {p : Nat → Prop} (h : IssueFrame n p s u) (out : ¬ p b) : Spares n b s u := by
  obtain ⟨inside, regs, -⟩ := h
  exact ⟨inside, regs b out⟩

end Spares

section dropped

variable (s : State) (n : Nat) (x : Tag)

theorem SP_TOL_RANGE_inWindow : InWindow n (SP_TOL_RANGE n x) := inWindow_ofTag n x (o := 0x30C0) (by decide)

theorem tolAdd_spares (t : Tag) (l : List (Nat × Tol)) (ofTag : ∀ e ∈ l, e.1 = t) :
    Spares n (SP_TOL_RANGE n x) s (s.tolAdd n l) := by
  refine List.foldlRecOn (motive := Spares n (SP_TOL_RANGE n x) s) _ _ (.refl n _ s) fun u so_far e mem => ?_
  rw [ofTag e mem]
  have counted (v : State) {o : Nat} (below : o + 0x20 ≤ 0x30C0) (k : Nat) :
      Spares n (SP_TOL_RANGE n x) v (v.bump (chWin n + o + 0x8 * t) k) :=
    set_spares v (inWindow_ofTag n t (by omega)) (by unfold SP_TOL_RANGE; omega) _ _
  exact so_far.trans ((((counted u (o := 0x2040) (by decide) _).trans (counted _ (o := 0x2060) (by decide) _)).trans
    (counted _ (o := 0x2080) (by decide) _)).trans (tally_only _ n _ _ _).spares)

theorem showSump_spares : Spares n (SP_TOL_RANGE n x) s (s.showSump n) := by
  have one (u : State) (f : Fld) (y : Nat) : Spares n (SP_TOL_RANGE n x) u (u.set (SP_STATUS n) f y) :=
    set_spares u (SP_STATUS_inWindow n) (by unfold SP_TOL_RANGE SP_STATUS; omega) f y
  exact (((one s _ _).trans (one _ _ _)).trans (one _ _ _)).trans (one _ _ _)

theorem takeSeed_spares : Spares n (SP_TOL_RANGE n x) s (s.takeSeed n) := ⟨takeSeed_local s n, takeSeed_reg s n _⟩

theorem sumpDone_spares (t id : Nat) : Spares n (SP_TOL_RANGE n x) s (s.sumpDone n t id) := by
  have inside : InWindow n (SP_SUMP_DONE n) := inWindow_add n (by decide)
  have ne : SP_TOL_RANGE n x ≠ SP_SUMP_DONE n := by unfold SP_TOL_RANGE SP_SUMP_DONE; omega
  unfold State.sumpDone
  split
  · split
    · split
      · exact .refl _ _ s
      · extract_lets a s1 s2 s3 s4 s5 s6
        have one (u : State) (f : Fld) (y : Nat) : Spares n (SP_TOL_RANGE n x) u (u.set a f y) := set_spares u inside ne f y
        have shown : Spares n (SP_TOL_RANGE n x) s s6 := ((((setReg_spares s inside ne 0).trans (one _ _ _)).trans
          (one _ _ _)).trans (one _ _ _)).trans ((one _ _ _).trans (one _ _ _))
        clear_value s6
        exact ((shown.trans (modCh_spares _ n _ _)).trans (takeSeed_spares _ n x)).trans (showSump_spares _ n x)
    · exact .refl _ _ s
  · exact .refl _ _ s

theorem complete_spares (t : Tag) (id : Nat) : Spares n (SP_TOL_RANGE n x) s (s.complete n t id) :=
  (complete_frame s n t id).spares (by unfold endRegs SP_TOL_RANGE CH_TASK CH_STATUS CH_CMD_STATUS; omega)

theorem listDone_spares (t : Tag) (id : Nat) : Spares n (SP_TOL_RANGE n x) s (s.listDone n t id) := by
  unfold State.listDone
  extract_lets mine tol
  have ofTag : ∀ e ∈ tol, e.1 = t := by
    intro e mem
    obtain ⟨l, listed, rfl⟩ := List.mem_map.1 mem
    have isMine := (List.mem_filter.1 listed).2
    simp only [mine, Bool.and_eq_true, decide_eq_true_eq] at isMine
    exact isMine.1
  exact (((modCh_spares s n _ _).trans (tolAdd_spares _ n x t tol ofTag)).trans (sumpDone_spares _ n x t id)).trans
    (complete_spares _ n x t id)

theorem listSettle_spares (t : Tag) (id : Nat) : Spares n (SP_TOL_RANGE n x) s (s.listSettle n t id) := by
  unfold State.listSettle
  extract_lets waits done sink
  exact ite_rel (R := Spares n (SP_TOL_RANGE n x))
    (fun _ => (listDone_spares s n x t id).trans ((showLauter_onlyReg _ n).spares (inWindow_add n (by decide))
      (by unfold SP_TOL_RANGE LT_STATUS; omega))) fun _ => .refl _ _ s

theorem updDone_spares (u : Upd) (own : u.own < 4) : Spares n (SP_TOL_RANGE n x) s (s.updDone n u) := by
  have flow := showFlowWaits_onlyReg ((s.updTaken n u).showSump n) n
  unfold State.updDone State.progress State.modTask State.setTask
  exact ((((modCh_spares s n _ _).trans (showSump_spares _ n x)).trans
    (flow.spares (inWindow_add n (by decide)) (by unfold SP_TOL_RANGE FS_STATUS; omega))).trans
    (modCh_spares _ n _ _)).trans (listSettle_spares _ n x ⟨u.own, own⟩ u.id)

end dropped

/-- The first update of a bank is out of range under TOLERANT: it is dropped and counted. -/
theorem sumpUpdate_of_dropped {n : Ch} {s : State} {bank : Fin 16} {u : Upd}
    (here : ((s.ch n).updQ.find? fun u => sumpSet (s.ch n).seed (u.key % 2 ^ 32) % 16 = bank.val) = some u)
    (active : s.live n u.tag = true) (out : s.keyOut n u = true) (tolerant : s.tolerant n u.tag = true)
    (ecc : List (Fin 4 × Bool)) :
    exec (.sumpUpdate n bank ecc) s = .next ((s.bump (SP_TOL_RANGE n u.tag) 1).updDone n u) := by
  have moves : ¬ (!s.updMoves n u) = true := by simp [State.updMoves, active]
  rw [show exec (.sumpUpdate n bank ecc) s = execSumpUpdate n bank ecc s from rfl, execSumpUpdate, here]
  exact (if_neg moves).trans ((if_pos out).trans (if_pos tolerant))

/-- R111: under TOLERANT an update out of range, of tags that a chamber has, is dropped and counted. -/
theorem sumpUpdate_drops {n : Ch} {s : State} {bank : Fin 16} {u : Upd}
    (here : ((s.ch n).updQ.find? fun u => sumpSet (s.ch n).seed (u.key % 2 ^ 32) % 16 = bank.val) = some u)
    (active : s.live n u.tag = true) (out : s.keyOut n u = true) (tolerant : s.tolerant n u.tag = true)
    (tag : u.tag < 4) (own : u.own < 4) (ecc : List (Fin 4 × Bool)) :
    ∃ v, exec (.sumpUpdate n bank ecc) s = .next v ∧ Local n s v
      ∧ v.get (SP_TOL_RANGE n u.tag) count32 = min (s.get (SP_TOL_RANGE n u.tag) count32 + 1) 0xFFFFFFFF
      ∧ (v.ch n).updQ = (s.ch n).updQ.erase u ∧ (v.ch n).sump = (s.ch n).sump := by
  obtain ⟨inside, same⟩ := updDone_spares (s.bump (SP_TOL_RANGE n u.tag) 1) n ⟨u.tag, tag⟩ u own
  obtain ⟨k, l, dr, sd, done⟩ := updDone_ch (s.bump (SP_TOL_RANGE n u.tag) 1) n u
  rw [State.bump_ch_] at done
  refine ⟨_, sumpUpdate_of_dropped here active out tolerant ecc,
    (set_local s (SP_TOL_RANGE_inWindow n ⟨u.tag, tag⟩) _ _).trans inside, ?_, by rw [done], by rw [done]⟩
  rw [State.get, same]
  exact State.get_bump_same s _ 1

/-! ### An update that is applied (R112, R113) -/

/-- Of a chamber, only its tasks, the spill buffer, the runs on their way and the engines change. -/
def SpillOnly (c d : Chamber) : Prop := ∃ k sp r e, d = { c with tasks := k, spill := sp, runs := r, engines := e }

theorem SpillOnly.refl (c : Chamber) : SpillOnly c c := ⟨_, _, _, _, rfl⟩

theorem SpillOnly.trans {c d e : Chamber} : SpillOnly c d → SpillOnly d e → SpillOnly c e := by
  rintro ⟨_, _, _, _, rfl⟩ ⟨k, sp, r, e, rfl⟩
  exact ⟨k, sp, r, e, rfl⟩

theorem setTask_spillOnly (s : State) (n t : Nat) (k : Task) : SpillOnly (s.ch n) ((s.setTask n t k).ch n) := by
  obtain ⟨l, put⟩ := ch_setTask s n t k
  exact ⟨l, _, _, _, put⟩

theorem taskFault_spillOnly (s : State) (n t code id : Nat) : SpillOnly (s.ch n) ((s.taskFault n t code id).ch n) := by
  unfold State.taskFault
  extract_lets k st pc s1 s2 s3
  have raised : RegsOnly s s3 := (setTstate_only s n t _).trans (set_only _ _ _ _)
  clear_value s3
  split
  · split
    · exact setTask_spillOnly s1 n t _
    · exact .refl _
  · split
    · rw [← raised.ch]
      exact setTask_spillOnly s3 n t _
    · exact .refl _

theorem memFaultReg_only (s : State) (n t code va kind : Nat) : RegsOnly s (s.memFaultReg n t code va kind) := by
  unfold State.memFaultReg
  split <;> exact (recFault_only s _ _ _ _ _).trans (setReg_only _ _ _)

theorem startInternal_spillOnly (s : State) (n t id code va : Nat) (l : List Byte) :
    SpillOnly (s.ch n) ((s.startInternal n t id code va l).ch n) := by
  unfold State.startInternal
  extract_lets en st
  split
  · rw [State.memFault, ← (memFaultReg_only s n t gmXlatMiss va 1).ch n]
    exact taskFault_spillOnly _ n t _ id
  · rw [State.setEng, State.ch_modCh_same]
    exact ⟨_, _, _, _, rfl⟩

theorem newRun_spillOnly (s : State) (n t : Nat) (es : List Entry) (id : Nat) :
    SpillOnly (s.ch n) ((s.newRun n t es id).ch n) := by
  unfold State.newRun
  extract_lets a j s1
  have counted : RegsOnly s s1 := (set_only s a _ _).trans (set_only _ a _ _)
  clear_value s1
  split
  · rw [State.spFault, ← (recFault_only s (SP_FAULT n) _ _ _ _).ch n]
    exact taskFault_spillOnly _ n t _ id
  · rw [State.ch_modCh_same, ← counted.ch n]
    exact (startInternal_spillOnly s1 n t id 0 _ _).trans ⟨_, _, _, _, rfl⟩

theorem flushSpill_spillOnly (s : State) (n t id : Nat) : SpillOnly (s.ch n) ((s.flushSpill n t id).ch n) := by
  unfold State.flushSpill
  extract_lets mine s1
  have emptied : SpillOnly (s.ch n) (s1.ch n) := by
    unfold s1
    rw [State.ch_modCh_same]
    exact ⟨_, _, _, _, rfl⟩
  clear_value s1
  split
  · exact .refl _
  · exact (emptied.trans (setTask_spillOnly s1 n t _)).trans (newRun_spillOnly _ n t _ id)

/-- The entry joins the spill buffer, which is then emptied if that fills it. -/
theorem spillPut_spillOnly (s : State) (n : Nat) (e : SumpEntry) (id : Nat) :
    SpillOnly (s.ch n) ((s.spillPut n e id).ch n) := by
  unfold State.spillPut
  extract_lets s1
  have put : SpillOnly (s.ch n) (s1.ch n) := by
    unfold s1
    rw [State.ch_modCh_same]
    exact ⟨_, _, _, _, rfl⟩
  clear_value s1
  split
  · exact put
  · exact List.foldlRecOn (motive := fun u : State => SpillOnly (s.ch n) (u.ch n)) _ _ put fun u so_far t _ =>
      so_far.trans (flushSpill_spillOnly u n t _)

theorem spillPut_of_room {s : State} {n : Nat} (room : (s.ch n).spill.length < 63) (e : SumpEntry) (id : Nat) :
    ((s.spillPut n e id).ch n).spill = (s.ch n).spill ++ [e] := by
  unfold State.spillPut
  extract_lets s1
  have put : (s1.ch n).spill = (s.ch n).spill ++ [e] := by
    unfold s1
    rw [State.ch_modCh_same]
  rw [if_pos (.inl (by rw [put, List.length_append]; exact Nat.succ_lt_succ room)), put]

/-- The ways of the update's set are replaced and the update is counted (R112, R117). -/
def State.waysPut (s : State) (n set : Nat) (u : Upd) (r : UpdRes) : State :=
  let s := s.setWays n set r.ways
  let s := s.modTask n u.tag fun k => { k with sumSat := k.sumSat || r.sat }
  let s := s.tally n 0x301 (.tag u.tag) 1
  let s := if r.hit then s.tally n 0x302 (.tag u.tag) 1 else s
  if r.evict then (s.bump (SP_EVICT n u.tag) 1).tally n 0x303 (.tag u.tag) 1 else s

/-- The entry that an update displaces, or the update itself where no way is its tag's, goes to the spill buffer. -/
def State.spilled (s : State) (n : Nat) (u : Upd) (r : UpdRes) : State :=
  match r.out with
  | some e => s.spillPut n e u.id
  | none => s

section applied

variable (s : State) (n set : Nat) (u : Upd) (r : UpdRes)

theorem waysPut_ch : ∃ k, (s.waysPut n set u r).ch n
    = { s.ch n with tasks := k, sump := kput (s.ch n).sump set r.ways [] } := by
  unfold State.waysPut
  extract_lets s1 s2 s3 s4
  have ways : s1.ch n = { s.ch n with sump := kput (s.ch n).sump set r.ways [] } := State.ch_modCh_same s n _
  obtain ⟨k, put⟩ : ∃ k, s2.ch n = { s1.ch n with tasks := k } := ch_setTask s1 n u.tag _
  have counted : s4.ch n = s2.ch n := by
    unfold s4
    split
    · rw [(tally_only s3 n _ _ 1).ch, (tally_only s2 n _ _ 1).ch]
    · exact (tally_only s2 n _ _ 1).ch n
  refine ⟨k, ?_⟩
  clear_value s4
  have same : ((if r.evict then (s4.bump (SP_EVICT n u.tag) 1).tally n 0x303 (.tag u.tag) 1 else s4)).ch n = s4.ch n := by
    split
    · rw [(tally_only _ n _ _ 1).ch, State.bump_ch_]
    · rfl
  rw [same, counted, put, ways]

theorem spilled_ch : SpillOnly (s.ch n) ((s.spilled n u r).ch n) := by
  unfold State.spilled
  split
  · exact spillPut_spillOnly s n _ u.id
  · exact .refl _

end applied

/-- R112: an update within range is applied to the ways of its set and leaves the queue; what it displaces joins the spill
buffer. -/
theorem sumpUpdate_applies {n : Ch} {s : State} {bank : Fin 16} {u : Upd}
    (here : ((s.ch n).updQ.find? fun u => sumpSet (s.ch n).seed (u.key % 2 ^ 32) % 16 = bank.val) = some u)
    (active : s.live n u.tag = true) (inRange : s.keyOut n u = false) (ecc : List (Fin 4 × Bool)) :
    let set := sumpSet (s.ch n).seed u.key
    let s1 := s.sumpEcc n set ecc
    let r := applyUpd (s1.sumInt n u.tag) (s1.sumpWays n set) u
    (r.out = none ∨ (s1.ch n).spill.length < 64) →
    ∃ v, exec (.sumpUpdate n bank ecc) s = .next v ∧ v.sumpWays n set = r.ways
      ∧ (v.ch n).updQ = (s1.ch n).updQ.erase u
      ∧ (∀ e, r.out = some e → (s1.ch n).spill.length < 63 → (v.ch n).spill = (s1.ch n).spill ++ [e]) := by
  intro set s1 r room
  have moves : ¬ (!s.updMoves n u) = true := by simp [State.updMoves, active]
  have kept : ¬ s.keyOut n u = true := by simp [inRange]
  have noStall : ¬ (r.out.isSome = true ∧ 64 ≤ (s1.ch n).spill.length) := by
    rintro ⟨some_out, full⟩
    rcases room with none_out | left
    · simp [none_out] at some_out
    · omega
  have runs : exec (.sumpUpdate n bank ecc) s = .next (((s1.waysPut n set u r).spilled n u r).updDone n u) := by
    rw [show exec (.sumpUpdate n bank ecc) s = execSumpUpdate n bank ecc s from rfl, execSumpUpdate, here]
    exact (if_neg moves).trans ((if_neg kept).trans (if_neg noStall))
  obtain ⟨k, put⟩ := waysPut_ch s1 n set u r
  obtain ⟨k', l, dr, sd, done⟩ := updDone_ch ((s1.waysPut n set u r).spilled n u r) n u
  obtain ⟨k'', sp, rs, en, spilled⟩ := spilled_ch (s1.waysPut n set u r) n u r
  refine ⟨_, runs, ?_, ?_, fun e out roomLeft => ?_⟩
  · rw [State.sumpWays, done, spilled, put]
    exact kget_kput_same _ _ _ _
  · rw [done, spilled, put]
  · rw [done]
    have fits : ((s1.waysPut n set u r).ch n).spill.length < 63 := by rwa [put]
    have joins := spillPut_of_room fits e u.id
    rw [put] at joins
    rw [State.spilled, out]
    exact joins

/-! ### Runs and drains (R113, R114) -/

/-- R113: a run whose write is over is no longer waited for, and a spill buffer that filled meanwhile is emptied. -/
theorem spillRunWritten_of_written {n : Ch} {s : State} {r : Run} {rest : List Run} (first : (s.ch n).runs = r :: rest)
    (written : s.runsDue n < (s.ch n).runs.length) :
    let s1 := (s.modCh n fun c => { c with runs := rest }).tally n 0x304 (.tag r.tag) 1
    exec (.spillRunWritten n) s = .next (((s1.emptySpill n).showSump n).progress n r.tag) := by
  rw [first] at written
  rw [show exec (.spillRunWritten n) s = execSpillRunWritten n s from rfl, execSpillRunWritten, first]
  exact if_neg (not_le.2 written)

section sumpDrainStart

variable {n : Ch} {s : State} {l : ListInstr} {rest : List ListInstr}

/-- The drain of the list instruction `l`, with the `r` runs that its flush has made. -/
def ListInstr.drain (l : ListInstr) (r : Nat) : SumpDrain := { id := l.id, tag := l.tag, runs := r, total := r }

/-- The drain of `l` has begun. -/
def State.beginDrain (s : State) (n : Nat) (l : ListInstr) (r : Nat) : State :=
  (s.modCh n fun c => { c with sumpDrain := some (l.drain r) }).progress n l.tag

theorem beginDrain_local (s : State) (n : Nat) (l : ListInstr) (r : Nat) : Local n s (s.beginDrain n l r) := by
  unfold State.beginDrain State.progress
  exact (modCh_local s n _).trans (modTask_local _ n _ _)

theorem beginDrain_sumpDrain (s : State) (n : Nat) (l : ListInstr) (r : Nat) :
    ((s.beginDrain n l r).ch n).sumpDrain = some (l.drain r) := by
  rw [State.beginDrain, State.progress, State.modTask, State.setTask, State.ch_modCh_same, State.ch_modCh_same]

theorem beginDrain_live (s : State) (n : Nat) (l : ListInstr) (r t : Nat) : (s.beginDrain n l r).live n t = s.live n t := by
  rw [State.live, State.tstate, State.beginDrain, State.progress_get_, State.modCh_get_, State.live, State.tstate]

/-- Once the earlier producers are complete a drain flushes its tag's entries; without a run it is closed at once. -/
theorem sumpDrainStart_of_due (first : (s.ch n).lists = l :: rest) (drain : opcode l.word = 0x61) (undone : l.done = false)
    (idle : (s.ch n).sumpDrain = none) (active : s.live n l.tag = true) (turn : s.lauterBefore n l.seq = false)
    (fed : s.producerBefore n l.tag l.id l.seq = false) (ready : s.ready n 2 l.tag l.id = true) :
    let s1 := s.flushTag n l.tag l.id
    let r := s1.get (SP_SPILL_USE n l.tag) SP_SPILL_USE.USED
    exec (.sumpDrainStart n) s = if r = 0 ∧ s1.live n l.tag = true then .next ((s1.beginDrain n l r).sumpClose n (l.drain r) [])
      else .next ((s1.beginDrain n l r).showSump n) := by
  intro s1 r
  have due : ¬ (opcode l.word ≠ 0x61 ∨ l.done = true ∨ (s.ch n).sumpDrain.isSome = true ∨ (!s.live n l.tag) = true
      ∨ s.lauterBefore n l.seq = true ∨ s.producerBefore n l.tag l.id l.seq = true ∨ (!s.ready n 2 l.tag l.id) = true) := by
    simp [drain, undone, idle, active, turn, fed, ready]
  rw [← beginDrain_live s1 n l r l.tag, show exec (.sumpDrainStart n) s = execSumpDrainStart n s from rfl, execSumpDrainStart,
    first]
  exact if_neg due

end sumpDrainStart

theorem showSump_local (s : State) (n : Nat) : Local n s (s.showSump n) := by
  obtain ⟨inside, -⟩ := showSump_spares s n 0
  exact inside

/-- R114: a drain with runs to merge has begun. -/
theorem sumpDrainStart_begins {n : Ch} {s : State} {l : ListInstr} {rest : List ListInstr}
    (first : (s.ch n).lists = l :: rest) (drain : opcode l.word = 0x61) (undone : l.done = false)
    (idle : (s.ch n).sumpDrain = none) (active : s.live n l.tag = true) (turn : s.lauterBefore n l.seq = false)
    (fed : s.producerBefore n l.tag l.id l.seq = false) (ready : s.ready n 2 l.tag l.id = true) :
    let s1 := s.flushTag n l.tag l.id
    let r := s1.get (SP_SPILL_USE n l.tag) SP_SPILL_USE.USED
    r ≠ 0 → ∃ u, exec (.sumpDrainStart n) s = .next u ∧ Local n s1 u ∧ (u.ch n).sumpDrain = some (l.drain r) := by
  intro s1 r some_runs
  have runs := sumpDrainStart_of_due first drain undone idle active turn fed ready
  refine ⟨_, runs.trans (if_neg fun h => some_runs h.1), (beginDrain_local s1 n l r).trans (showSump_local _ n), ?_⟩
  rw [(showSump_only _ n).ch, beginDrain_sumpDrain]

section sumpMergePass

variable {n : Ch} {s : State} {d : SumpDrain}

/-- A pass acts once its runs are written and its transfers have passed their arbiters (R113, R237). -/
theorem sumpMergePass_of_clear (drain : (s.ch n).sumpDrain = some d) (active : s.live n d.tag = true) (merging : d.closed = none)
    (written : ∀ r ∈ (s.ch n).runs, r.tag ≠ d.tag)
    (passed : s.clear (taskReq n d.tag 6 d.id) (s.passRoute n d) = true) :
    exec (.sumpMergePass n) s = .next ((s.arbMoved (taskReq n d.tag 6 d.id) (s.passRoute n d)).mergeRun n d) := by
  rw [show exec (.sumpMergePass n) s = execSumpMergePass n s from rfl, execSumpMergePass, drain]
  refine (if_neg ?_).trans (congrArg Host.Outcome.next (if_pos passed))
  simpa [active, merging] using written

theorem mergeRun_last {s' : State} {es : List Entry} (last : d.runs ≤ 2) (merged : s.mergePair n d 0 = (.ok es, s')) :
    s.mergeRun n d = (s'.sumpClose n d es).progress n d.tag := by
  unfold State.mergeRun
  rw [if_pos last, merged]

/-- The drain after a pass: half the runs, of twice the size, in the other half of the region. -/
def SumpDrain.halved (d x : SumpDrain) : SumpDrain := { x with runs := cdiv d.runs 2, half := 1 - d.half, size := 2 * d.size }

theorem mergeRun_halves {s' : State} (more : 2 < d.runs) (passed : s.mergePass n d = (.ok (), s')) :
    s.mergeRun n d = (s'.modCh n fun c => { c with sumpDrain := c.sumpDrain.map d.halved }).progress n d.tag := by
  unfold State.mergeRun
  rw [if_neg (not_le.2 more), passed]
  rfl

end sumpMergePass

/-! ### A tag beyond those of a chamber -/

/-- An update with the key of padding, whose tag no chamber has: where that tag's registers of chamber 0 would lie stand those of
tag 0 of chamber 1. -/
def strayUpd : Upd := { key := padKey, value := 0, tag := 8192, id := 0, own := 8192 }

/-- The update waits in chamber 0; chamber 1 has an ACTIVE task of tag 0 whose policy is TOLERANT. -/
def strayUpdState : State :=
  ((State.reset.set (CH_TASK 1 0) CH_TASK.STATE tActive).set (CH_TASK 1 0) CH_TASK.POLICY 1).modCh 0 fun c =>
    { c with updQ := [strayUpd] }

/-- What SP_TOL_RANGE of tag 0 of chamber 1 has come to. -/
def toleratedInChamber1 : Out → Option Nat
  | .next u => some (u.get (SP_TOL_RANGE 1 0) count32)
  | _ => none

theorem strayUpdState_enabled :
    ((strayUpdState.ch 0).updQ.find? fun u => sumpSet (strayUpdState.ch 0).seed (u.key % 2 ^ 32) % 16 = 12) = some strayUpd
      ∧ strayUpdState.live 0 8192 = true ∧ strayUpdState.keyOut 0 strayUpd = true ∧ strayUpdState.tolerant 0 8192 = true
      ∧ strayUpdState.get (SP_TOL_RANGE 1 0) count32 = 0 := by
  decide +kernel

/-- The dropped update of chamber 0 is counted in chamber 1. -/
theorem strayUpdState_countsOutside : toleratedInChamber1 (exec (.sumpUpdate 0 12 []) strayUpdState) = some 1 := by
  decide +kernel

/-- Refutes O11: nothing in the statement keeps an update's tag below 4, and the SP_TOL_RANGE that a dropped update of tag 8192 of
chamber 0 counts in is a register of chamber 1. What holds is `sumpUpdate_drops`, for the tags that a chamber has, and as they stand
the other parts: `sumpUpdate_applies`, `spillRunWritten_of_written`, `sumpDrainStart_of_due` with `sumpDrainStart_begins`, and
`sumpMergePass_of_clear` with `mergeRun_last` and `mergeRun_halves`. -/
theorem not_sumpCommandsComplete : ¬ Obligations.SumpCommandsComplete := by
  unfold Obligations.SumpCommandsComplete
  intro h
  obtain ⟨here, active, out, tolerant, before⟩ := strayUpdState_enabled
  obtain ⟨-, drops, -⟩ := h 0 strayUpdState
  obtain ⟨v, runs, ⟨-, regs, -⟩, -⟩ := drops 12 [] strayUpd here active out tolerant
  have outside : ¬ InWindow 0 (SP_TOL_RANGE 1 0) := by unfold InWindow SP_TOL_RANGE chWin; omega
  have after := strayUpdState_countsOutside
  rw [runs, toleratedInChamber1, State.get, regs _ outside, ← State.get, before] at after
  cases after

end Sys2Proof.Machine
end

section
/-! SUPPORT. Flowstone (R118, R126, R147): when a chain starts, when a row of it is done, and what its completion leaves. -/

namespace Sys2Proof.Machine

/-! ### What FS_STATUS shows (R149) -/

theorem FS_STATUS_inWindow (n : Nat) : InWindow n (FS_STATUS n) := inWindow_add n (by decide)

theorem OnlyReg.trans {a : Nat} {s u v : State} (h : OnlyReg a s u) (g : OnlyReg a u v) : OnlyReg a s v := by
  obtain ⟨only, regs⟩ := h
  obtain ⟨only', regs'⟩ := g
  exact ⟨only.trans only', fun b out => (regs' b out).trans (regs b out)⟩

theorem OnlyReg.task {a : Nat} {s u : State} (h : OnlyReg a s u) (n t : Nat) : u.task n t = s.task n t := by
  rw [State.task, h.ch, State.task]

theorem showFlow_onlyReg (s : State) (n : Nat) : OnlyReg (FS_STATUS n) s (s.showFlow n) := by
  unfold State.showFlow
  split
  · exact .setReg (.refl _ s) 0
  · extract_lets s1 s2 s3 s4
    have shown : OnlyReg (FS_STATUS n) s s4 := .set (.set (.set (.setReg (.refl _ s) _) _ _) _ _) _ _
    exact (shown.set _ _).trans (showFlowWaits_onlyReg _ n)

section chainCommands

variable {n : Ch} {s : State}

/-! ### The start of a chain (R118, R126) -/

/-- What the start of a loaded chain checks before it translates its references: its entry, its formats, the session that a SCATTER
needs and the value type of it, its references. -/
def Chain.startable (s : State) (n : Nat) (c : Chain) : Prop :=
  c.bad = none ∧ c.badFormat = false
    ∧ (c.last = 0x43 → s.sessionOpenFor n c.tag c.id = true ∧ c.fmtOut = if s.sumInt n c.tag then 10 else 0)
    ∧ ∀ i, i < 6 → c.uses i = true → c.badRef i = false

/-- The chain `c` starts, with the pages `pg` that its references lie in. -/
def State.chainBegin (s : State) (n : Nat) (c : Chain) (pg : List (Nat × Nat)) : State :=
  ((s.modChain n c fun _ => { c with pages := pg }).progress n c.tag).showFlow n

/-- The first chain of the queue starts once it passes every check (R118). -/
theorem chainStart_of_startable {c0 : Chain} {rest : List Chain} {fs : List (Nat × List (Nat × Nat))} {pg : List (Nat × Nat)}
    {s' : State} (first : (s.ch n).chains = c0 :: rest) (waits : c0.running = false) (active : s.live n c0.tag = true)
    (passes : (s.chainLoad n c0).startable s n) (lie : s.chainFeet n (s.chainLoad n c0) = (.ok (fs, pg), s'))
    (apart : (s.chainLoad n c0).badOverlap fs = false) :
    exec (.chainStart n) s = .next (s.orHeld (s'.chainBegin n (s.chainLoad n c0) pg)) := by
  obtain ⟨entry, formats, session, refs⟩ := passes
  rw [show exec (.chainStart n) s = execChainStart n s from rfl, execChainStart, first]
  dsimp only
  generalize s.chainLoad n c0 = c at *
  have go : ¬ (c0.running = true ∨ (!s.live n c0.tag) = true) := by simp [waits, active]
  have typed : ¬ (c.last = 0x43 ∧ s.sessionOpenFor n c.tag c.id = true ∧ c.fmtOut ≠ if s.sumInt n c.tag then 10 else 0) :=
    fun ⟨scatter, _, ne⟩ => ne (session scatter).2
  have opened : ¬ (c.last = 0x43 ∧ (!s.sessionOpenFor n c.tag c.id) = true) := by
    rintro ⟨scatter, closed⟩
    simp [(session scatter).1] at closed
  have aligned : ¬ ((List.range 6).filter c.uses).any c.badRef = true := by simpa using refs
  rw [if_neg go, entry]
  dsimp only
  rw [formats, if_neg Bool.false_ne_true, if_neg typed, if_neg opened, if_neg aligned, lie]
  exact if_neg (by simp [apart])

/-! ### Rows (R147) -/

/-- A row of the running chain is done, once it passes the pocket's ports. -/
theorem chainRowDone_of_clear {c : Chain} {s' : State} (runs : (s.ch n).chains.find? (·.running) = some c)
    (active : s.live n c.tag = true) (moves : c.parked = false) (left : c.row < cRows c.word)
    (filled : s.regionBusy n c.rowReads = false) (passed : s.clear (taskReq n c.tag 5 c.id) (c.rowRoute n) = true)
    (row : (chainRow n c c.row).run (s.arbMoved (taskReq n c.tag 5 c.id) (c.rowRoute n)) = (.ok (), s')) :
    exec (.chainRowDone n) s
      = .next (((s'.modChain n c fun x => { x with row := c.row + 1, parked := false }).progress n c.tag).showFlow n) := by
  have noSave : (s.tstate n c.tag = tSaving && !(s.task n c.tag).stopped) = false := by
    have state : s.tstate n c.tag = tActive := by simpa [State.live] using active
    simp [state, tActive, tSaving]
  have go : ¬ ((!(s.live n c.tag || false)) = true ∨ c.parked = true ∨ cRows c.word ≤ c.row
      ∨ s.regionBusy n c.rowReads = true) := by
    simp [active, moves, filled, left]
  rw [show exec (.chainRowDone n) s = execChainRowDone n s from rfl, execChainRowDone, runs]
  dsimp only
  rw [noSave, if_neg go, State.arbitrate, if_pos passed, State.rowDone, row]

/-! ### Completion (R118, R174) -/

/-- The chain `c` leaves the queue. -/
def State.dropChain (s : State) (n : Nat) (c : Chain) : State :=
  s.modCh n fun h => { h with chains := h.chains.filter fun (x : Chain) => !(x.tag = c.tag && x.id = c.id) }

theorem chainComplete_of_done {c : Chain} (runs : (s.ch n).chains.find? (·.running) = some c) (active : s.live n c.tag = true)
    (done : cRows c.word ≤ c.row) (accepted : ∀ u ∈ (s.ch n).updQ, ¬ (u.own = c.tag ∧ u.id = c.id)) :
    exec (.chainComplete n) s = .next (((s.dropChain n c).complete n c.tag c.id).showFlow n) := by
  rw [show exec (.chainComplete n) s = execChainComplete n s from rfl, execChainComplete, runs]
  refine if_neg ?_
  simpa [active, done] using accepted

/-- R118: a chain that is done, of a tag that a chamber has, leaves the queue and its task's window. -/
theorem chainComplete_leaves {c : Chain} (runs : (s.ch n).chains.find? (·.running) = some c) (active : s.live n c.tag = true)
    (done : cRows c.word ≤ c.row) (accepted : ∀ u ∈ (s.ch n).updQ, ¬ (u.own = c.tag ∧ u.id = c.id)) (tag : c.tag < 4) :
    ∃ u, exec (.chainComplete n) s = .next u ∧ Local n s u
      ∧ (∀ x ∈ (u.ch n).chains, ¬ (x.tag = c.tag ∧ x.id = c.id))
      ∧ ∀ i ∈ (u.task n c.tag).window, i.id ≠ c.id := by
  have shown := showFlow_onlyReg ((s.dropChain n c).complete n c.tag c.id) n
  obtain ⟨inside, -, -⟩ := complete_frame (s.dropChain n c) n ⟨c.tag, tag⟩ c.id
  obtain ⟨k, l, dr, sd, completed⟩ := complete_ch (s.dropChain n c) n c.tag c.id
  refine ⟨_, chainComplete_of_done runs active done accepted,
    ((modCh_local s n _).trans inside).trans (shown.inChamber (FS_STATUS_inWindow n)), fun x mem => ?_, ?_⟩
  · rw [shown.ch, completed, State.dropChain, State.ch_modCh_same] at mem
    have kept := (List.mem_filter.1 mem).2
    rintro ⟨sameTag, sameId⟩
    simp [sameTag, sameId] at kept
  · rw [shown.task]
    exact complete_window _ n ⟨c.tag, tag⟩ c.id

end chainCommands

/-! ### A tag beyond those of a chamber -/

/-- A chain without a row left, whose tag no chamber has: where that tag's CH_TASK of chamber 0 would lie stands that of tag 0 of
chamber 1. -/
def strayChain : Chain := { id := 0, tag := 8192, pc := 0, word := 0, running := true }

/-- The chain runs in chamber 0; chamber 1 has an ACTIVE task of tag 0 with one instruction in its window. -/
def strayChainState : State :=
  ((State.reset.set (CH_TASK 1 0) CH_TASK.STATE tActive).set (CH_TASK 1 0) CH_TASK.WINDOW 1).modCh 0 fun c =>
    { c with chains := [strayChain] }

/-- The instructions that CH_TASK of tag 0 of chamber 1 shows in its window. -/
def windowInChamber1 : Out → Option Nat
  | .next u => some (u.get (CH_TASK 1 0) CH_TASK.WINDOW)
  | _ => none

theorem strayChainState_enabled :
    (strayChainState.ch 0).chains.find? (·.running) = some strayChain ∧ strayChainState.live 0 8192 = true
      ∧ cRows strayChain.word ≤ strayChain.row ∧ (strayChainState.ch 0).updQ = []
      ∧ strayChainState.get (CH_TASK 1 0) CH_TASK.WINDOW = 1 := by
  decide +kernel

/-- The completion in chamber 0 shows in chamber 1 an empty window. -/
theorem strayChainState_showsOutside : windowInChamber1 (exec (.chainComplete 0) strayChainState) = some 0 := by
  decide +kernel

/-- Refutes O12: nothing in the statement keeps a chain's tag below 4, and the CH_TASK in which the completion of a chain of tag 8192
of chamber 0 shows its window is a register of chamber 1. What holds is `chainComplete_leaves`, for the tags that a chamber has, and as
they stand the other parts: `chainStart_of_startable` and `chainRowDone_of_clear`. -/
theorem not_chainCommandsComplete : ¬ Obligations.ChainCommandsComplete := by
  unfold Obligations.ChainCommandsComplete
  intro h
  obtain ⟨runs, active, done, noUpdate, before⟩ := strayChainState_enabled
  obtain ⟨-, -, completes⟩ := h 0 strayChainState
  obtain ⟨u, next, ⟨-, regs, -⟩, -⟩ := completes strayChain runs active done (by simp [noUpdate])
  have outside : ¬ InWindow 0 (CH_TASK 1 0) := by unfold InWindow CH_TASK chWin; omega
  have after := strayChainState_showsOutside
  rw [next, windowInChamber1, State.get, regs _ outside, ← State.get, before] at after
  cases after

end Sys2Proof.Machine
end

section
/-! SUPPORT. FTOI and ITOF (R130): what the roundings of R35 and the patterns of FP32 give (R19). -/

namespace Sys2Proof.Machine

/-! ### Rounding (R35) -/

/-- Division by a power of two gives a nearest integer, of two the even one. -/
theorem rneShift_nearest (m s : Nat) :
    2 * ((m : Int) - rneShift m s * 2 ^ s).natAbs < 2 ^ s
      ∨ (2 * ((m : Int) - rneShift m s * 2 ^ s).natAbs = 2 ^ s ∧ rneShift m s % 2 = 0) := by
  have split : (m : Int) = (m / 2 ^ s : Nat) * 2 ^ s + (m % 2 ^ s : Nat) := by
    exact_mod_cast (Nat.div_add_mod' m (2 ^ s)).symm
  have below : m % 2 ^ s < 2 ^ s := Nat.mod_lt _ (Nat.two_pow_pos s)
  unfold rneShift
  split
  · next zero => simp [zero]
  · extract_lets k r
    have down : (m : Int) - k * 2 ^ s = r := by linarith
    have up : (m : Int) - (k + 1 : Nat) * 2 ^ s = r - (2 ^ s : Nat) := by push_cast; linarith
    split
    · rw [up]; omega
    · rw [down]; omega

/-- Rounding moves the quotient by one at most. -/
theorem rneShift_between (m s : Nat) : m / 2 ^ s ≤ rneShift m s ∧ rneShift m s ≤ m / 2 ^ s + 1 := by
  unfold rneShift
  split
  · next zero => simp [zero]
  · extract_lets k r
    split <;> omega

/-! ### Signs -/

/-- A sign and a magnitude as an integer. -/
def signedBy (neg : Bool) (m : Int) : Int := if neg then -m else m

theorem natAbs_signedBy_sub (neg : Bool) (m k : Int) : (signedBy neg m - signedBy neg k).natAbs = (m - k).natAbs := by
  unfold signedBy
  cases neg
  · rfl
  · rw [if_pos rfl, if_pos rfl, ← Int.natAbs_neg]
    congr 1
    ring

theorem signedBy_mul (neg : Bool) (m k : Int) : signedBy neg m * k = signedBy neg (m * k) := by
  unfold signedBy
  cases neg <;> simp

/-! ### FTOI (R36, R130) -/

/-- Which integer is nearest does not depend on the sign. -/
theorem nearestEven_signedBy (neg : Bool) (m k : Nat) (e : Int) :
    NearestEven neg m e (signedBy neg k) ↔
      let d : Nat := 2 * ((m : Int) * 2 ^ e.toNat - k * 2 ^ (-e).toNat).natAbs
      d < 2 ^ (-e).toNat ∨ (d = 2 ^ (-e).toNat ∧ k % 2 = 0) := by
  have dist : (signedBy neg m * 2 ^ e.toNat - signedBy neg k * 2 ^ (-e).toNat).natAbs
      = ((m : Int) * 2 ^ e.toNat - k * 2 ^ (-e).toNat).natAbs := by
    rw [signedBy_mul, signedBy_mul, natAbs_signedBy_sub]
  have whole : ((2 : Int) ^ (-e).toNat).natAbs = 2 ^ (-e).toNat := Int.natAbs_pow 2 _
  have even : signedBy neg k % 2 = 0 ↔ k % 2 = 0 := by
    unfold signedBy
    split <;> omega
  unfold NearestEven
  rw [← even, ← dist]
  simp only [whole]
  rfl

/-- The rounding of a value to an integer gives a nearest one, ties to even. -/
theorem roundInt_nearest (neg : Bool) (m : Nat) (e : Int) : NearestEven neg m e (roundInt neg m e) := by
  rcases le_or_gt 0 e with whole | part
  · have round : roundInt neg m e = signedBy neg (m * 2 ^ e.toNat : Nat) := by simp [roundInt, whole, signedBy]
    rw [round, nearestEven_signedBy, Int.toNat_of_nonpos (by omega : -e ≤ 0)]
    simp
  · have round : roundInt neg m e = signedBy neg (rneShift m (-e).toNat) := by simp [roundInt, not_le.2 part, signedBy]
    rw [round, nearestEven_signedBy, Int.toNat_of_nonpos part.le]
    simpa using rneShift_nearest m (-e).toNat

/-- A saturated integer is the limit that it is past, or itself (R26). -/
theorem satI32_cases (i : Int) :
    (2147483647 < i → satI32 i = (0x7FFFFFFF, true)) ∧ (i < -2147483648 → satI32 i = (0x80000000, true))
      ∧ (-2147483648 ≤ i → i ≤ 2147483647 → satI32 i = (BitVec.ofInt 32 i, false)) := by
  refine ⟨fun high => if_pos high, fun low => ?_, fun above below => ?_⟩
  · exact (if_neg (by omega)).trans (if_pos low)
  · exact (if_neg (by omega)).trans (if_neg (by omega))

/-- The word of an integer in two's complement is that of its low 32 bits. -/
theorem ofNat_emod_eq_ofInt (i : Int) : BitVec.ofNat 32 (i % (2 ^ 32 : Nat)).toNat = BitVec.ofInt 32 i := by
  apply BitVec.eq_of_toNat_eq
  simp only [BitVec.toNat_ofNat, BitVec.toNat_ofInt]
  omega

/-- Conversion to INT32 saturates the rounding of a finite value. -/
theorem convertInt_fin (neg : Bool) (m : Nat) (e : Int) :
    let v := convertInt 32 (.fin neg m e)
    let r := satI32 (roundInt neg m e)
    BitVec.ofNat 32 v.bits = r.1 ∧ v.sat = r.2 ∧ v.nanLost = false := by
  intro v r
  obtain ⟨saturatesHigh, saturatesLow, fits⟩ := satI32_cases (roundInt neg m e)
  by_cases high : 2147483647 < roundInt neg m e
  · have converted : v = ⟨2147483647, true, false, false⟩ := if_pos high
    simp [converted, show r = _ from saturatesHigh high]
  · by_cases low : roundInt neg m e < -2147483648
    · have converted : v = ⟨2147483648, true, false, false⟩ := (if_neg high).trans (if_pos low)
      simp [converted, show r = _ from saturatesLow low]
    · have converted : v = ⟨(roundInt neg m e % (2 ^ 32 : Nat)).toNat, false, false, roundInt neg m e = 0 ∧ m ≠ 0⟩ :=
        (if_neg high).trans (if_neg low)
      simp only [converted, show r = _ from fits (not_lt.1 low) (not_lt.1 high), ofNat_emod_eq_ofInt, and_self]

theorem laneOp_ftoi {g : Stg} (ftoi : g.op = 0x2B) (q : Sampling) (p : Bool) (k : Nat) (a b c : Lw) :
    laneOp g q p k a b c = (BitVec.ofNat 32 (convertInt 32 (f32 a)).bits,
      { sat := (convertInt 32 (f32 a)).sat, nanLost := (convertInt 32 (f32 a)).nanLost }) := by
  unfold laneOp
  rw [ftoi]
  rfl

theorem laneOp_itof {g : Stg} (itof : g.op = 0x2A) (q : Sampling) (p : Bool) (k : Nat) (a b c : Lw) :
    laneOp g q p k a b c = (toF32 (Num.ofInt a.toInt), {}) := by
  unfold laneOp
  rw [itof]
  rfl

/-- FTOI of a finite value saturates its rounding at the INT32 limits. -/
theorem laneOp_ftoi_fin {g : Stg} (ftoi : g.op = 0x2B) (q : Sampling) (p : Bool) (k : Nat) {a : Lw} (b c : Lw) {neg : Bool}
    {m : Nat} {e : Int} (fin : f32 a = .fin neg m e) :
    laneOp g q p k a b c = ((satI32 (roundInt neg m e)).1, { sat := (satI32 (roundInt neg m e)).2 }) := by
  obtain ⟨word, sat, kept⟩ := convertInt_fin neg m e
  rw [laneOp_ftoi ftoi, fin, word, sat, kept]

theorem laneOp_ftoi_inf {g : Stg} (ftoi : g.op = 0x2B) (q : Sampling) (p : Bool) (k : Nat) {a : Lw} (b c : Lw) {neg : Bool}
    (inf : f32 a = .inf neg) : laneOp g q p k a b c = (if neg then 0x80000000 else 0x7FFFFFFF, { sat := true }) := by
  rw [laneOp_ftoi ftoi, inf]
  cases neg <;> rfl

/-! ### The patterns of FP32 (R19) -/

/-- The word of a normal value holds its significand without the hidden bit and its exponent with the bias. -/
theorem f32_of_exponent {w : BitVec 32} {E : Nat} (exponent : w.toNat / 2 ^ 23 % 2 ^ 8 = E) (normal : 0 < E) (finite : E < 255) :
    f32 w = .fin (nbit w.toNat 31) (2 ^ 23 + w.toNat % 2 ^ 23) (E - 150) := by
  subst exponent
  refine (if_neg fun h => ?_).trans ((if_neg fun h => ?_).trans ((if_neg normal.ne').trans ?_))
  · exact finite.ne h.2
  · exact Bool.false_ne_true h.1
  · refine congrArg (Num.fin _ _) ?_
    show ((w.toNat / 2 ^ 23 % 2 ^ 8 : Nat) : Int) - (127 : Nat) - (23 : Nat) = _
    omega

theorem f32_ofNat_normal (neg : Bool) {E M : Nat} (normal : 0 < E) (finite : E < 255) (fits : M < 2 ^ 23) :
    f32 (BitVec.ofNat 32 (fp32.sgn neg + (E * 2 ^ 23 + M))) = .fin neg (2 ^ 23 + M) (E - 150) := by
  have sign : fp32.sgn neg = bit neg * 2 ^ 31 := by cases neg <;> rfl
  have small : bit neg ≤ 1 := by cases neg <;> decide
  have word : (BitVec.ofNat 32 (fp32.sgn neg + (E * 2 ^ 23 + M))).toNat = bit neg * 2 ^ 31 + (E * 2 ^ 23 + M) := by
    rw [BitVec.toNat_ofNat, sign]
    omega
  have top : nbit (bit neg * 2 ^ 31 + (E * 2 ^ 23 + M)) 31 = neg := by
    have shifted : (bit neg * 2 ^ 31 + (E * 2 ^ 23 + M)) / 2 ^ 31 % 2 = bit neg := by omega
    rw [nbit, shifted]
    cases neg <;> rfl
  have mantissa : (bit neg * 2 ^ 31 + (E * 2 ^ 23 + M)) % 2 ^ 23 = M := by omega
  rw [f32_of_exponent (by rw [word]; omega) normal finite, word, top, mantissa]

/-- The largest finite FP32 value. -/
theorem fp32_maxPat : fp32.decode fp32.maxPat = .fin false 0xFFFFFF 104 := by decide +kernel

/-- What has a significand of 24 bits, or one carried beyond them, at an exponent below the largest is in range. -/
theorem fp32_inRange {k : Nat} {q : Int} (carry : k ≤ 2 ^ 24) (high : q ≤ 103) :
    (fp32.decode fp32.maxPat).lt (.fin false k q) = false := by
  have two : 2 ≤ 2 ^ (104 - q).toNat := Nat.le_self_pow (by omega) 2
  have less : k ≤ 0xFFFFFF * 2 ^ (104 - q).toNat := by omega
  have quantum : min (104 : Int) q = q := by omega
  rw [fp32_maxPat]
  simp only [Num.lt, Num.intAt, quantum, decide_eq_false_iff_not, not_lt]
  simpa using (by exact_mod_cast less : (k : Int) ≤ 0xFFFFFF * 2 ^ (104 - q).toNat)

theorem fp32_pat_normal {k : Nat} (q : Int) (normal : 2 ^ 23 ≤ k) (fits : k < 2 ^ 24) :
    fp32.pat k q = (q + 150).toNat * 2 ^ 23 + (k - 2 ^ 23) := by
  refine (if_neg (not_lt.2 normal)).trans ((if_neg fits.ne).trans ?_)
  show (q + (23 : Nat) + (127 : Nat)).toNat * 2 ^ 23 + (k - 2 ^ 23) = _
  omega

theorem fp32_pat_carried {k : Nat} (q : Int) (carried : k = 2 ^ 24) : fp32.pat k q = (q + 151).toNat * 2 ^ 23 + 0 := by
  have long : ¬ k < 2 ^ 23 := by omega
  refine (if_neg long).trans ((if_pos carried).trans ?_)
  show (q + 1 + (23 : Nat) + (127 : Nat)).toNat * 2 ^ 23 = _
  omega

/-- The pattern of a rounded value is read back as that value. -/
theorem f32_sgn_pat {k : Nat} {q : Int} (neg : Bool) (normal : 2 ^ 23 ≤ k) (carry : k ≤ 2 ^ 24) (low : -149 ≤ q) (high : q ≤ 103) :
    f32 (BitVec.ofNat 32 (fp32.sgn neg + fp32.pat k q))
      = if k = 2 ^ 24 then .fin neg (2 ^ 23) (q + 1) else .fin neg k q := by
  split
  · next carried =>
    have exponent : ((q + 151).toNat : Int) - 150 = q + 1 := by omega
    rw [fp32_pat_carried q carried, f32_ofNat_normal neg (by omega) (by omega) (by decide), exponent,
      Nat.add_zero]
  · have exponent : ((q + 150).toNat : Int) - 150 = q := by omega
    rw [fp32_pat_normal q normal (by omega), f32_ofNat_normal neg (by omega) (by omega) (by omega), exponent,
      Nat.add_sub_of_le normal]

/-- The word nearest a value that rounds to a normal one. -/
theorem toF32_of_round {m k : Nat} {e q : Int} (neg : Bool) (rounds : roundBin 24 (-149) m e = (k, q)) (carry : k ≤ 2 ^ 24)
    (high : q ≤ 103) : toF32 (.fin neg m e) = BitVec.ofNat 32 (fp32.sgn neg + fp32.pat k q) := by
  have inRange : ¬ (fp32.decode fp32.maxPat).lt (.fin false k q) = true := by simp [fp32_inRange carry high]
  have rounds' : roundBin (fp32.mw + 1) (1 - (fp32.bias : Int) - fp32.mw) m e = (k, q) := rounds
  unfold toF32 FFmt.convert
  dsimp only
  rw [rounds']
  dsimp only
  rw [if_neg inRange]

theorem f32_toF32_of_round {m k : Nat} {e q : Int} (neg : Bool) (rounds : roundBin 24 (-149) m e = (k, q)) (normal : 2 ^ 23 ≤ k)
    (carry : k ≤ 2 ^ 24) (low : -149 ≤ q) (high : q ≤ 103) :
    f32 (toF32 (.fin neg m e)) = if k = 2 ^ 24 then .fin neg (2 ^ 23) (q + 1) else .fin neg k q := by
  rw [toF32_of_round neg rounds carry high, f32_sgn_pat neg normal carry low high]

/-! ### ITOF (R35, R130) -/

section magnitude

variable {m j : Nat} (pos : m ≠ 0)

include pos

/-- An integer of at most 24 bits is taken exactly, with its significand's top bit set. -/
theorem roundBin_short (short : Nat.log2 m + j = 23) : roundBin 24 (-149) m 0 = (m * 2 ^ j, -(j : Int)) := by
  have quantum : max (-149 : Int) (0 + (Nat.log2 m + 1 : Nat) - (24 : Nat)) = -(j : Int) := by omega
  have places : (0 - -(j : Int)).toNat = j := by omega
  refine (if_neg pos).trans ?_
  rw [quantum, if_pos (by omega), places]

theorem significand_short (short : Nat.log2 m + j = 23) : 2 ^ 23 ≤ m * 2 ^ j ∧ m * 2 ^ j < 2 ^ 24 := by
  have lower := Nat.mul_le_mul_right (2 ^ j) (Nat.log2_self_le pos)
  have upper := Nat.mul_lt_mul_of_pos_right (Nat.lt_log2_self (n := m)) (Nat.two_pow_pos j)
  rw [← pow_add, short] at lower
  rw [← pow_add, Nat.add_right_comm, short] at upper
  exact ⟨lower, upper⟩

/-- A longer one is rounded to 24 bits. -/
theorem roundBin_long (long : Nat.log2 m = 23 + j) (some_left : 0 < j) :
    roundBin 24 (-149) m 0 = (rneShift m j, (j : Int)) := by
  have quantum : max (-149 : Int) (0 + (Nat.log2 m + 1 : Nat) - (24 : Nat)) = (j : Int) := by omega
  have places : ((j : Int) - 0).toNat = j := by omega
  refine (if_neg pos).trans ?_
  rw [quantum, if_neg (by omega), places]

/-- Its significand has 24 bits, or is carried beyond them. -/
theorem significand_long (long : Nat.log2 m = 23 + j) : 2 ^ 23 ≤ rneShift m j ∧ rneShift m j ≤ 2 ^ 24 := by
  obtain ⟨atLeast, atMost⟩ := rneShift_between m j
  have lower : 2 ^ 23 ≤ m / 2 ^ j := by
    rw [Nat.le_div_iff_mul_le (Nat.two_pow_pos j), ← pow_add, ← long]
    exact Nat.log2_self_le pos
  have upper : m / 2 ^ j < 2 ^ 24 := by
    rw [Nat.div_lt_iff_lt_mul (Nat.two_pow_pos j), ← pow_add, Nat.add_right_comm 23 1 j, ← long]
    exact Nat.lt_log2_self
  omega

end magnitude

/-- `m × 2^e` is a value nearest `i`, of two the one with the even significand, and is `i` where `e` is negative. -/
def NearestValue (i : Int) (neg : Bool) (m : Nat) (e : Int) : Prop :=
  (e < 0 → signedBy neg m = i * 2 ^ (-e).toNat)
  ∧ (0 ≤ e → let d := 2 * (i - signedBy neg m * 2 ^ e.toNat).natAbs
      d < 2 ^ e.toNat ∨ (d = 2 ^ e.toNat ∧ m % 2 = 0))

theorem nearestValue_scaled (neg : Bool) (m j : Nat) : NearestValue (signedBy neg m) neg (m * 2 ^ j) (-j) := by
  refine ⟨fun _ => ?_, fun whole => ?_⟩
  · rw [neg_neg, Int.toNat_natCast, signedBy_mul, Nat.cast_mul, Nat.cast_pow]
    rfl
  · have none_left : j = 0 := by omega
    simp [none_left]

theorem nearestValue_rounded (neg : Bool) (m j : Nat) : NearestValue (signedBy neg m) neg (rneShift m j) j := by
  refine ⟨fun part => absurd part (by omega), fun _ => ?_⟩
  rw [signedBy_mul, natAbs_signedBy_sub, Int.toNat_natCast]
  exact rneShift_nearest m j

/-- A significand carried beyond 24 bits stands for the same value with half of it at the next exponent, which is no tie. -/
theorem NearestValue.carried {i : Int} {neg : Bool} {j : Nat} (near : NearestValue i neg (2 ^ 24) j) :
    NearestValue i neg (2 ^ 23) (j + 1) := by
  obtain ⟨-, near⟩ := near
  refine ⟨fun part => absurd part (by omega), fun _ => .inl ?_⟩
  replace near := near (by omega)
  have same : signedBy neg (2 ^ 24 : Nat) * 2 ^ j = signedBy neg (2 ^ 23 : Nat) * 2 ^ (j + 1) := by
    rw [signedBy_mul, signedBy_mul]
    congr 1
    push_cast
    ring
  have next : ((j : Int) + 1).toNat = j + 1 := by omega
  rw [Int.toNat_natCast, same] at near
  rw [next]
  refine lt_of_le_of_lt ?_ (Nat.pow_lt_pow_succ (n := j) Nat.one_lt_two)
  rcases near with less | ⟨tie, -⟩
  · exact less.le
  · exact tie.le

/-- The word nearest an integer that is not zero. -/
theorem f32_toF32_nearest (neg : Bool) {m : Nat} (pos : m ≠ 0) (fits : m < 2 ^ 32) :
    ∃ k e, f32 (toF32 (.fin neg m 0)) = .fin neg k e ∧ k < 2 ^ 24 ∧ NearestValue (signedBy neg m) neg k e := by
  have bound : Nat.log2 m < 32 := (Nat.log2_lt pos).2 fits
  rcases Nat.lt_or_ge 23 (Nat.log2 m) with more | less
  · obtain ⟨j, long⟩ := Nat.exists_eq_add_of_le more.le
    obtain ⟨normal, carry⟩ := significand_long pos long
    have value := f32_toF32_of_round neg (roundBin_long pos long (by omega)) normal carry (by omega) (by omega)
    have near := nearestValue_rounded neg m j
    split at value
    · next carried => exact ⟨_, _, value, by decide, (carried ▸ near).carried⟩
    · next short => exact ⟨_, _, value, by omega, near⟩
  · obtain ⟨j, short⟩ := Nat.exists_eq_add_of_le less
    obtain ⟨normal, below⟩ := significand_short pos short.symm
    have value := f32_toF32_of_round neg (roundBin_short pos short.symm) normal below.le (by omega) (by omega)
    rw [if_neg below.ne] at value
    exact ⟨_, _, value, below, nearestValue_scaled neg m j⟩

/-- R130: ITOF gives a nearest FP32 value, ties to even. -/
theorem f32_ofInt_nearest (a : BitVec 32) :
    ∃ neg m e, f32 (toF32 (Num.ofInt a.toInt)) = .fin neg m e ∧ m < 2 ^ 24 ∧ NearestValue a.toInt neg m e := by
  have low := BitVec.le_toInt a
  have high := BitVec.toInt_lt (x := a)
  have parts : a.toInt = signedBy (decide (a.toInt < 0)) a.toInt.natAbs := by
    simp only [signedBy, decide_eq_true_eq]
    split <;> omega
  by_cases zero : a.toInt = 0
  · have value : f32 (toF32 (Num.ofInt 0)) = .fin false 0 (-149) := by decide +kernel
    rw [zero]
    exact ⟨_, _, _, value, by decide, fun _ => by simp [signedBy], fun whole => absurd whole (by decide)⟩
  · obtain ⟨k, e, value, short, near⟩ :=
      f32_toF32_nearest (decide (a.toInt < 0)) (m := a.toInt.natAbs) (by omega) (by omega)
    rw [← parts] at near
    exact ⟨_, k, e, value, short, near⟩

/-- Settles O52: FTOI saturates the rounding of a finite operand, which is nearest it; ITOF rounds to 24 bits the integer that its
operand is. -/
theorem ftoiAndItofRoundToNearestEven : Obligations.FtoiAndItofRoundToNearestEven := by
  unfold Obligations.FtoiAndItofRoundToNearestEven
  intro g q p k a b c
  refine ⟨fun ftoi => ⟨fun nan => ?_, fun neg inf => ?_, fun neg m e fin => ?_⟩, fun itof => ?_⟩
  · rw [laneOp_ftoi ftoi, nan]
    exact ⟨rfl, rfl⟩
  · rw [laneOp_ftoi_inf ftoi q p k b c inf]
    exact ⟨rfl, rfl⟩
  · obtain ⟨high, low, fits⟩ := satI32_cases (roundInt neg m e)
    rw [laneOp_ftoi_fin ftoi q p k b c fin]
    refine ⟨_, roundInt_nearest neg m e, fun past => ?_, fun past => ?_, fun above below => ?_⟩
    · rw [high past]
      exact ⟨rfl, rfl⟩
    · rw [low past]
      exact ⟨rfl, rfl⟩
    · rw [fits above below]
      exact ⟨BitVec.toInt_ofInt_eq_self (by decide) above (by omega), rfl⟩
  · obtain ⟨neg, m, e, value, short, near⟩ := f32_ofInt_nearest a
    rw [laneOp_itof itof]
    exact ⟨rfl, neg, m, e, value, short, near⟩

end Sys2Proof.Machine
end

section
/-! SUPPORT. GV_CHECK and GV_JOIN (R161, R162, R165, R233): what their issue leaves, and what GV_JOIN_READ leaves of the first of a
tag's instructions that wait in the gravity unit. -/

namespace Sys2Proof.Machine

theorem GV_STATUS_inWindow (n : Nat) : InWindow n (GV_STATUS n) := inWindow_add n (by decide)

theorem GV_STATE_inWindow (n : Nat) (t : Tag) : InWindow n (GV_STATE n t) := inWindow_ofTag n t (o := 0x5100) (by decide)

theorem GV_MAKEUPS_inWindow (n : Nat) (t : Tag) : InWindow n (GV_MAKEUPS n t) := inWindow_ofTag n t (o := 0x51A0) (by decide)

/-! ### What GV_STATUS shows (R166) -/

theorem showJoin_onlyReg (s : State) (n : Nat) : OnlyReg (GV_STATUS n) s (s.showJoin n) :=
  .set (.set (.set (.set (.refl _ s) _ _) _ _) _ _) _ _

theorem showJoin_local (s : State) (n : Nat) : Local n s (s.showJoin n) :=
  (showJoin_onlyReg s n).inChamber (GV_STATUS_inWindow n)

/-- JOIN_WAIT shows whether a GV_JOIN waits; a GV_CHECK that waits is none. -/
theorem showJoin_joinWait (s : State) (n : Nat) :
    (s.showJoin n).get (GV_STATUS n) GV_STATUS.JOIN_WAIT = bit ((s.ch n).joins.find? GvJoin.isJoin).isSome := by
  unfold State.showJoin
  rw [State.get_set_other _ _ _ _ _ _ (by decide) (by decide), State.get_set_same _ _ _ _ (by decide)]
  cases ((s.ch n).joins.find? GvJoin.isJoin).isSome <;> rfl

/-! ### Issue (R161, R162, R165) -/

/-- The instruction `w` of tag `t` that is next to issue, with the parameters as they stand. -/
def State.gvHead (s : State) (n t : Nat) (w : BitVec 128) : GvJoin := ⟨(s.task n t).nextId, t, w, s.gvCopy n t⟩

/-- The head issues into the window and joins those that wait in the gravity unit. -/
def State.joinGravity (s : State) (n t : Nat) (w : BitVec 128) : State :=
  ((s.take n t true).modCh n fun c => { c with joins := c.joins ++ [s.gvHead n t w] }).showJoin n

/-- The head issues into the window and clears MISS_NOW. -/
def State.clearMiss (s : State) (n t : Nat) : State := (s.take n t true).set (GV_STATE n t) GV_STATE.MISS_NOW 0

section issues

variable {s : State} {n : Ch} {t : Tag} {w : BitVec 128} {pc : Nat}

/-- With allowed parameters a GV_CHECK acts at its issue, or waits where it cannot (log entry 97). -/
theorem gvCheck_of_allowed (turn : s.issues n t 0x70 w pc) (allowed : gvParamBad (s.gvCopy n t) = false) (cols : wf w 25 23 ≤ 4)
    (pos : wf w 21 18 < 2 ^ wf w 25 23) :
    exec (.gvCheck n t) s = .next (((s.take n t true).gvCheck n (s.gvHead n t w)).getD (s.joinGravity n t w)) := by
  rw [show exec (.gvCheck n t) s = execGvCheck n t s from rfl, execGvCheck, issue_of_issues turn]
  exact if_neg (by simp [allowed, cols, pos])

/-- Under OFF or COUNT a GV_JOIN is complete once MISS_NOW is clear. -/
theorem gvJoin_of_noMakeup (turn : s.issues n t 0x71 w pc) (policy : gvPolicy (s.gvCopy n t) < 2) (words : wf w 19 12 ≠ 0) :
    exec (.gvJoin n t) s = .next ((s.clearMiss n t).complete n t (s.task n t).nextId) := by
  rw [show exec (.gvJoin n t) s = execGvJoin n t s from rfl, execGvJoin, issue_of_issues turn]
  exact (if_neg (by omega)).trans (if_neg (by omega))

/-- Under MAKEUP a GV_JOIN waits. -/
theorem gvJoin_of_makeup (turn : s.issues n t 0x71 w pc) (policy : gvPolicy (s.gvCopy n t) = 2) (words : wf w 19 12 ≠ 0) :
    exec (.gvJoin n t) s = .next (s.joinGravity n t w) := by
  rw [show exec (.gvJoin n t) s = execGvJoin n t s from rfl, execGvJoin, issue_of_issues turn]
  exact (if_neg (by omega)).trans (if_pos policy)

end issues

section joinGravity

variable (s : State) (n : Nat) (t : Tag) (w : BitVec 128)

theorem joinGravity_local : Local n s (s.joinGravity n t w) := by
  obtain ⟨inside, -, -⟩ := take_frame s n t true
  exact (inside.trans (modCh_local _ n _)).trans (showJoin_local _ n)

theorem joinGravity_reg {a : Nat} (ne : a ≠ GV_STATUS n) : (s.joinGravity n t w).reg a = (s.take n t true).reg a := by
  obtain ⟨-, regs⟩ := showJoin_onlyReg
    ((s.take n t true).modCh n fun c => { c with joins := c.joins ++ [s.gvHead n t w] }) n
  exact regs a ne

/-- Those that wait have grown by the instruction. -/
theorem joinGravity_joins : ((s.joinGravity n t w).ch n).joins = (s.ch n).joins ++ [s.gvHead n t w] := by
  obtain ⟨-, -, k, l, i, taken⟩ := take_frame s n t true
  rw [State.joinGravity, (showJoin_onlyReg _ n).ch, State.ch_modCh_same, taken]

/-- A GV_JOIN that has joined those that wait shows in GV_STATUS. -/
theorem joinGravity_joinWait (join : opcode w = 0x71) :
    (s.joinGravity n t w).get (GV_STATUS n) GV_STATUS.JOIN_WAIT = 1 := by
  have waits : (((s.joinGravity n t w).ch n).joins.find? GvJoin.isJoin).isSome = true := by
    rw [joinGravity_joins, List.find?_isSome]
    exact ⟨s.gvHead n t w, List.mem_append_right _ (List.mem_singleton_self _), decide_eq_true join⟩
  rw [State.joinGravity, (showJoin_onlyReg _ n).ch] at waits
  rw [State.joinGravity, showJoin_joinWait, waits]
  rfl

end joinGravity

section completion

variable {s u : State} {n : Nat} {t : Tag}

/-- An issue of a tag stays seen as an instruction of the tag is complete. -/
theorem IssueSeen.complete (seen : IssueSeen n t s u) (id : Nat) : IssueSeen n t s (u.complete n t id) := by
  obtain ⟨counted, last⟩ := seen
  obtain ⟨-, regs, -⟩ := complete_frame u n t id
  refine ⟨?_, (complete_lastTag u n t id).trans last⟩
  rw [State.get, regs _ (by unfold endRegs CH_ISSUED CH_TASK CH_STATUS CH_CMD_STATUS; omega)]
  exact counted

theorem PcNext.complete {pc : Nat} (moved : PcNext n t pc s u) (id : Nat) : PcNext n t pc s (u.complete n t id) := by
  obtain ⟨-, regs, -⟩ := complete_frame u n t id
  exact moved.keep (regs _ (by unfold endRegs CH_TASK_PC CH_TASK CH_STATUS CH_CMD_STATUS; omega))

end completion

/-- R162: under OFF or COUNT a GV_JOIN issues, clears MISS_NOW and leaves its task's window. -/
theorem gvJoin_clears {s : State} {n : Ch} {t : Tag} {w : BitVec 128} {pc : Nat} (turn : s.issues n t 0x71 w pc)
    (policy : gvPolicy (s.gvCopy n t) < 2) (words : wf w 19 12 ≠ 0) :
    ∃ u, exec (.gvJoin n t) s = .next u ∧ IssueSeen n t s u ∧ PcNext n t pc s u ∧ Local n s u
      ∧ u.get (GV_STATE n t) GV_STATE.MISS_NOW = 0 ∧ ∀ i ∈ (u.task n t).window, i.id ≠ (s.task n t).nextId := by
  have runs := gvJoin_of_noMakeup turn policy words
  have seen := take_seen (fetched_of_issues turn) true
  obtain ⟨-, head, -, -⟩ := turn
  obtain ⟨inside, -, -⟩ := take_frame s n t true
  obtain ⟨ends, regs, -⟩ := complete_frame (s.clearMiss n t) n t (s.task n t).nextId
  have kept {a : Nat} (ne : a ≠ GV_STATE n t) := State.reg_set_ne (s.take n t true) GV_STATE.MISS_NOW 0 ne
  refine ⟨_, runs, (seen.keep (kept ?_) (kept ?_)).complete _, ((take_pcNext head true).keep (kept ?_)).complete _,
    (inside.trans (set_local _ (GV_STATE_inWindow n t) _ _)).trans ends, ?_, complete_window _ n t _⟩
  · unfold CH_ISSUED GV_STATE; omega
  · unfold CH_STATUS GV_STATE; omega
  · unfold CH_TASK_PC GV_STATE; omega
  · rw [State.get, regs _ (by unfold endRegs GV_STATE CH_TASK CH_STATUS CH_CMD_STATUS; omega)]
    exact State.get_set_same _ _ _ _ (by decide)

/-- R162: under MAKEUP a GV_JOIN issues and waits, which GV_STATUS shows. -/
theorem gvJoin_waits {s : State} {n : Ch} {t : Tag} {w : BitVec 128} {pc : Nat} (turn : s.issues n t 0x71 w pc)
    (policy : gvPolicy (s.gvCopy n t) = 2) (words : wf w 19 12 ≠ 0) :
    ∃ u, exec (.gvJoin n t) s = .next u ∧ IssueSeen n t s u ∧ PcNext n t pc s u ∧ Local n s u
      ∧ (u.ch n).joins = (s.ch n).joins ++ [s.gvHead n t w] ∧ u.get (GV_STATUS n) GV_STATUS.JOIN_WAIT = 1 := by
  have runs := gvJoin_of_makeup turn policy words
  have seen := take_seen (fetched_of_issues turn) true
  obtain ⟨-, head, code, -⟩ := turn
  have kept {a : Nat} (ne : a ≠ GV_STATUS n) := joinGravity_reg s n t w ne
  refine ⟨_, runs, seen.keep (kept ?_) (kept ?_), (take_pcNext head true).keep (kept ?_), joinGravity_local s n t w,
    joinGravity_joins s n t w, joinGravity_joinWait s n t w code⟩
  · unfold CH_ISSUED GV_STATUS; omega
  · unfold CH_STATUS GV_STATUS; omega
  · unfold CH_TASK_PC GV_STATUS; omega

/-! ### Those that wait (R162, R233) -/

/-- A make-up is counted where the miss words of a join have a miss. -/
def State.countMakeup (s : State) (n t : Nat) (b : Bool) : State :=
  if b then (s.bump (GV_MAKEUPS n t) 1).tally n 0x504 (.tag t) 1 else s

/-- The join `j` leaves the gravity unit with MISS_NOW as it read it. -/
def State.joinMissed (s : State) (n t : Nat) (j : GvJoin) (b : Bool) : State :=
  ((s.joinGone n j).set (GV_STATE n t) GV_STATE.MISS_NOW (bit b)).countMakeup n t b

theorem joinGone_joins (s : State) (n : Nat) (j : GvJoin) :
    ∀ x ∈ ((s.joinGone n j).ch n).joins, ¬ (x.tag = j.tag ∧ x.id = j.id) := by
  intro x mem
  rw [State.joinGone, State.ch_modCh_same] at mem
  exact not_and_or.2 (by simpa using (List.mem_filter.1 mem).2)

section countMakeup

variable (s : State) (n : Nat) (t : Tag) (b : Bool)

theorem countMakeup_ch (m : Nat) : (s.countMakeup n t b).ch m = s.ch m := by
  cases b with
  | false => rfl
  | true => exact ((tally_only _ n _ _ 1).ch m).trans (State.bump_ch_ s _ 1 m)

theorem countMakeup_spares {a : Nat} (ne : a ≠ GV_MAKEUPS n t) : Spares n a s (s.countMakeup n t b) := by
  cases b with
  | false => exact .refl n a s
  | true => exact (set_spares s (GV_MAKEUPS_inWindow n t) ne _ _).trans (tally_only _ n _ _ 1).spares

theorem countMakeup_makeups : (s.countMakeup n t b).get (GV_MAKEUPS n t) count32
    = min (s.get (GV_MAKEUPS n t) count32 + bit b) 0xFFFFFFFF := by
  cases b with
  | false =>
    have fits : s.get (GV_MAKEUPS n t) count32 < 2 ^ 32 := State.get_lt s _ count32
    rw [show s.countMakeup n t false = s from rfl, show bit false = 0 from rfl]
    omega
  | true => exact ((tally_only _ n _ _ 1).get _ _).trans (State.get_bump_same s _ 1)

end countMakeup

section joinMissed

variable (s : State) (n : Nat) (t : Tag) (j : GvJoin) (b : Bool)

theorem joinMissed_missNow : (s.joinMissed n t j b).get (GV_STATE n t) GV_STATE.MISS_NOW = bit b := by
  obtain ⟨-, same⟩ := countMakeup_spares ((s.joinGone n j).set (GV_STATE n t) GV_STATE.MISS_NOW (bit b)) n t b
    (a := GV_STATE n t) (by unfold GV_STATE GV_MAKEUPS; omega)
  rw [State.joinMissed, State.get, same, ← State.get, State.get_set_same _ _ _ _ (by decide)]
  cases b <;> rfl

theorem joinMissed_makeups : (s.joinMissed n t j b).get (GV_MAKEUPS n t) count32
    = min (s.get (GV_MAKEUPS n t) count32 + bit b) 0xFFFFFFFF := by
  rw [State.joinMissed, countMakeup_makeups, State.get_set_ne _ _ _ _ (by unfold GV_STATE GV_MAKEUPS; omega), State.joinGone,
    State.modCh_get_]

theorem joinMissed_local : Local n s (s.joinMissed n t j b) := by
  obtain ⟨counted, -⟩ := countMakeup_spares ((s.joinGone n j).set (GV_STATE n t) GV_STATE.MISS_NOW (bit b)) n t b
    (a := GV_STATE n t) (by unfold GV_STATE GV_MAKEUPS; omega)
  exact ((modCh_local s n _).trans (set_local _ (GV_STATE_inWindow n t) _ _)).trans counted

theorem joinMissed_ch (m : Nat) : (s.joinMissed n t j b).ch m = (s.joinGone n j).ch m := by
  rw [State.joinMissed, countMakeup_ch, State.set_ch_]

end joinMissed

section gvJoinRead

variable {s : State} {n : Ch} {t : Tag} {j : GvJoin}

/-- A waiting GV_CHECK is tried again, and still waits where it cannot act (log entry 97). -/
theorem gvJoinRead_of_check (first : ((s.ch n).joins.find? fun j => j.tag = t.val) = some j) (active : s.live n t = true)
    (check : j.isJoin = false) : exec (.gvJoinRead n t) s = .next (((s.joinGone n j).gvCheck n j).getD s) := by
  rw [show exec (.gvJoinRead n t) s = execGvJoinRead n t s from rfl, execGvJoinRead, first]
  exact (if_neg (by simp [active])).trans (if_pos (by simp [check]))

/-- A waiting GV_JOIN whose miss words are read is complete with their OR. -/
theorem gvJoinRead_of_join {b : Bool} {s' : State} (first : ((s.ch n).joins.find? fun j => j.tag = t.val) = some j)
    (active : s.live n t = true) (join : j.isJoin = true) (words : s.joinRead n t (s.joinVas n j) = (.ok b, s')) :
    exec (.gvJoinRead n t) s = .next (((s'.joinMissed n t j b).complete n t j.id).showJoin n) := by
  rw [show exec (.gvJoinRead n t) s = execGvJoinRead n t s from rfl, execGvJoinRead, first]
  dsimp only
  rw [if_neg (by simp [active]), if_neg (by simp [join]), words]
  rfl

end gvJoinRead

/-- R162: a join that is complete shows the OR of its miss words, has counted its make-up and is gone from the gravity unit and from
its task's window. -/
theorem joinMissed_complete (s : State) (n : Nat) (t : Tag) (j : GvJoin) (b : Bool) :
    let u := ((s.joinMissed n t j b).complete n t j.id).showJoin n
    Local n s u ∧ u.get (GV_STATE n t) GV_STATE.MISS_NOW = bit b
      ∧ u.get (GV_MAKEUPS n t) count32 = min (s.get (GV_MAKEUPS n t) count32 + bit b) 0xFFFFFFFF
      ∧ (∀ x ∈ (u.ch n).joins, ¬ (x.tag = j.tag ∧ x.id = j.id))
      ∧ ∀ i ∈ (u.task n t).window, i.id ≠ j.id := by
  intro u
  have shown : OnlyReg (GV_STATUS n) _ u := showJoin_onlyReg _ n
  obtain ⟨ends, regs, k, l, i, chamber⟩ := complete_frame (s.joinMissed n t j b) n t j.id
  have kept {a : Nat} (ne : a ≠ GV_STATUS n) (out : ¬ endRegs n t a) (f : Fld) :
      u.get a f = (s.joinMissed n t j b).get a f := by
    rw [shown.get_ne ne, State.get, regs a out, State.get]
  refine ⟨((joinMissed_local s n t j b).trans ends).trans (showJoin_local _ n), ?_, ?_, ?_, ?_⟩
  · rw [kept (by unfold GV_STATE GV_STATUS; omega)
      (by unfold endRegs GV_STATE CH_TASK CH_STATUS CH_CMD_STATUS; omega), joinMissed_missNow]
  · rw [kept (by unfold GV_MAKEUPS GV_STATUS; omega)
      (by unfold endRegs GV_MAKEUPS CH_TASK CH_STATUS CH_CMD_STATUS; omega), joinMissed_makeups]
  · rw [shown.ch, chamber, joinMissed_ch]
    exact joinGone_joins s n j
  · rw [shown.task]
    exact complete_window _ n t j.id

/-- Settles O8: a GV_CHECK acts at its issue or waits (log entry 97), a GV_JOIN clears MISS_NOW or waits, and GV_JOIN_READ tries the
first that waits. -/
theorem gravityInstructionsComplete : Obligations.GravityInstructionsComplete := by
  unfold Obligations.GravityInstructionsComplete
  intro n t s w pc
  exact ⟨fun turn allowed cols pos => gvCheck_of_allowed turn allowed cols pos,
    fun turn policy words => gvJoin_clears turn policy words,
    fun turn policy words => gvJoin_waits turn policy words,
    fun _ first active check => gvJoinRead_of_check first active check,
    fun j b s' first active join words =>
      ⟨_, gvJoinRead_of_join first active join words, joinMissed_complete s' n t j b⟩⟩

end Sys2Proof.Machine
end

section
/-! SUPPORT. Task contexts (R184 to R188): what CREATE, RELEASE, ABORT, PREEMPT and RESUME leave in the registers and in the context. -/

namespace Sys2Proof.Machine

/-! ### Registers of a chamber that a command writes -/

theorem CH_CMD_STATUS_inWindow (n : Nat) : InWindow n (CH_CMD_STATUS n) := inWindow_add n (o := 0x50) (by decide)

theorem CH_TASK_SAVE_inWindow (n : Nat) (t : Tag) : InWindow n (CH_TASK_SAVE n t) := inWindow_ofTag n t (o := 0xC0) (by decide)

theorem RegsOnly.eq_regs {s u : State} (h : RegsOnly s u) : u = { s with regs := u.regs } := by
  obtain ⟨r, rfl⟩ := h
  rfl

section cmdDone

variable (s : State) (n : Nat)

theorem cmdDone_onlyReg (r : Nat) : OnlyReg (CH_CMD_STATUS n) s (s.cmdDone n r) := .set (.set (.refl _ s) _ _) _ _

theorem cmdDone_shows {r : Nat} (fits : r < 8) :
    (s.cmdDone n r).get (CH_CMD_STATUS n) CH_CMD_STATUS.RESULT = r
      ∧ (s.cmdDone n r).get (CH_CMD_STATUS n) CH_CMD_STATUS.VALID = 1 := by
  unfold State.cmdDone
  refine ⟨?_, State.get_set_same _ _ _ _ (by decide)⟩
  rw [State.get_set_other _ _ _ _ _ _ (by decide) (by decide), State.get_set_same _ _ _ _ (by decide)]
  exact Nat.mod_eq_of_lt fits

theorem cmdDone_taskReg (t : Tag) (r : Nat) (f : Fld) : (s.cmdDone n r).get (CH_TASK n t) f = s.get (CH_TASK n t) f :=
  (cmdDone_onlyReg s n r).get_ne (by unfold CH_TASK CH_CMD_STATUS; omega) f

/-- A command that is refused shows its result, and nothing else changes. -/
theorem cmdDone_refuses {r : Nat} (fits : r < 8) :
    s.cmdDone n r = { s with regs := (s.cmdDone n r).regs } ∧ KeepsRegs (· = CH_CMD_STATUS n) s (s.cmdDone n r)
      ∧ (s.cmdDone n r).get (CH_CMD_STATUS n) CH_CMD_STATUS.RESULT = r
      ∧ (s.cmdDone n r).get (CH_CMD_STATUS n) CH_CMD_STATUS.VALID = 1 := by
  obtain ⟨only, regs⟩ := cmdDone_onlyReg s n r
  exact ⟨only.eq_regs, regs, cmdDone_shows s n fits⟩

end cmdDone

/-! ### The state of a task -/

theorem setTask_local (s : State) (n t : Nat) (k : Task) : Local n s (s.setTask n t k) := by
  unfold State.setTask
  exact modCh_local s n _

section setTstate

variable (s : State) (n : Nat) (t : Tag)

theorem setTstate_local (x : Nat) : Local n s (s.setTstate n t x) :=
  (set_local s (CH_TASK_inWindow n t) _ _).trans (set_local _ (CH_STATUS_inWindow n) _ _)

theorem setTstate_keeps (x : Nat) : KeepsRegs (fun a => a = CH_TASK n t ∨ a = CH_STATUS n) s (s.setTstate n t x) := by
  intro a out
  obtain ⟨task, status⟩ := not_or.1 out
  exact (State.reg_set_ne _ _ _ status).trans (State.reg_set_ne _ _ _ task)

theorem setTstate_tstate {x : Nat} (fits : x < 8) : (s.setTstate n t x).tstate n t = x := by
  rw [State.tstate, State.setTstate, State.get_set_ne _ _ _ _ (by unfold CH_STATUS CH_TASK; omega),
    State.get_set_same _ _ _ _ (by decide)]
  exact Nat.mod_eq_of_lt fits

/-- The fields of CH_TASK above STATE stay. -/
theorem setTstate_taskReg (x : Nat) {f : Fld} (above : 3 ≤ f.lo) (inside : f.lo + f.w ≤ 64) :
    (s.setTstate n t x).get (CH_TASK n t) f = s.get (CH_TASK n t) f := by
  rw [State.setTstate, State.get_set_ne _ _ _ _ (by unfold CH_STATUS CH_TASK; omega)]
  exact State.get_set_other _ _ _ _ _ _ inside (.inl above)

end setTstate

/-- A write to a field of CH_TASK above STATE leaves the task's state. -/
theorem tstate_set_above (s : State) (n t x : Nat) {f : Fld} (above : 3 ≤ f.lo) :
    (s.set (CH_TASK n t) f x).tstate n t = s.tstate n t :=
  State.get_set_other _ _ _ _ _ _ (by decide) (.inr above)

/-! ### A fault of a task (R188) -/

/-- The first fault of a task whose context is in use: it is ABORTING. -/
def State.aborting (s : State) (n t : Nat) : State :=
  (s.setTstate n t tAborting).set (CH_TASK n t) CH_TASK.PREEMPT_PENDING 0

/-- The task with the fault noted. -/
def Task.faulted (k : Task) (code id clk : Nat) : Task :=
  { k with
    abortCode := code, abortId := id, abortPc := ((k.window.find? (·.id = id)).map (·.pc)).getD 0, abortSince := clk }

/-- A task that may still fault for the first time. -/
def State.inUse (s : State) (n t : Nat) : Prop := s.tstate n t = tActive ∨ s.tstate n t = tSaving ∨ s.tstate n t = tRestoring

section fault

variable (s : State) (n : Nat) (t : Tag) (code id : Nat)

theorem aborting_local : Local n s (s.aborting n t) :=
  (setTstate_local s n t _).trans (set_local _ (CH_TASK_inWindow n t) _ _)

theorem aborting_tstate : (s.aborting n t).tstate n t = tAborting := by
  rw [State.aborting, tstate_set_above _ _ _ _ (by decide), setTstate_tstate _ _ _ (by decide)]

theorem aborting_pending : (s.aborting n t).get (CH_TASK n t) CH_TASK.PREEMPT_PENDING = 0 :=
  State.get_set_same _ _ _ _ (by decide)

variable {s n t}

/-- A task in use whose instruction `id` faults is ABORTING with the fault noted. -/
theorem taskFault_of_inUse (used : s.inUse n t) :
    s.taskFault n t code id = (s.aborting n t).setTask n t ((s.task n t).faulted code id s.clk) := by
  have first : s.tstate n t ≠ tAborting := by
    unfold State.inUse at used
    unfold tActive tSaving tRestoring at used
    unfold tAborting
    omega
  unfold State.taskFault
  extract_lets k st pc s1 s2 s3
  rw [if_neg first, if_pos (show st = tActive ∨ st = tSaving ∨ st = tRestoring from used)]
  have clk : s3.clk = s.clk := (State.set_clk _ _ _ _).trans (State.setTstate_clk s n t _)
  rw [clk]
  rfl

theorem taskFault_complete (used : s.inUse n t) :
    let u := s.taskFault n t code id
    Local n s u ∧ u.tstate n t = tAborting ∧ u.get (CH_TASK n t) CH_TASK.PREEMPT_PENDING = 0
      ∧ u.task n t = (s.task n t).faulted code id s.clk := by
  rw [taskFault_of_inUse code id used]
  exact ⟨(aborting_local s n t).trans (setTask_local _ n t _), (State.setTask_get_ ..).trans (aborting_tstate s n t),
    (State.setTask_get_ ..).trans (aborting_pending s n t), State.task_setTask_same ..⟩

end fault

/-! ### CREATE (R184) -/

theorem tagRegs_between {n t a : Nat} (tag : t < 4) (mem : a ∈ tagRegs n t) : chWin n + 0x100 ≤ a ∧ a < chWin n + 0x10000 := by
  unfold tagRegs at mem
  simp only [List.mem_append, List.mem_map, List.mem_range, List.mem_cons, List.not_mem_nil, or_false] at mem
  obtain ((mem | ⟨j, below, rfl⟩) | ⟨j, below, rfl⟩) | ⟨j, below, rfl⟩ := mem
  · unfold LT_TOL_ORDER LT_TOL_OVERFULL LT_TOL_RANGE SP_SESSION SP_SPILL_BASE SP_SPILL_USE SP_EVICT SP_TOL_RANGE FS_FLAGS
      FS_EMPTY_ROWS FS_IDX_BASE FS_SAMPLE_SEED FS_SAMPLE_STEP GV_CTRL GV_THETA GV_CHECK_PARAM GV_SEL_DEST GV_MASK0 GV_MASK1
      GV_STATE GV_EST GV_KEPT GV_CHECKED GV_MISSES GV_MAKEUPS at mem
    omega
  · unfold FS_VREF0
    omega
  · unfold FS_VREF1
    omega
  · unfold CH_BOUND
    omega

/-- Registers take their reset values. -/
def State.resetRegs (s : State) (l : List Nat) : State := l.foldl (fun u a => u.setReg a (resetReg a)) s

theorem resetRegs_reg (l : List Nat) (s : State) (b : Nat) :
    (s.resetRegs l).reg b = if b ∈ l then resetReg b else s.reg b := by
  induction l generalizing s with
  | nil => simp [State.resetRegs]
  | cons a l ih =>
    have rest := ih (s.setReg a (resetReg a))
    rw [State.reg_setReg] at rest
    rw [show s.resetRegs (a :: l) = (s.setReg a (resetReg a)).resetRegs l from rfl, rest]
    by_cases here : b = a
    · subst here
      simp
    · simp [here]

theorem resetRegs_local (n : Nat) (l : List Nat) (s : State) (inside : ∀ a ∈ l, InWindow n a) : Local n s (s.resetRegs l) :=
  List.foldlRecOn (motive := Local n s) _ _ (.refl n s) fun u so_far a mem => so_far.trans (setReg_local u (inside a mem) _)

/-- CH_TASK and the PC of a context that CREATE or RESUME sets up. -/
def State.startRegs (s : State) (n t prio policy pc : Nat) : State :=
  (((s.setReg (CH_TASK n t) 0).set (CH_TASK n t) CH_TASK.PRIORITY prio).set (CH_TASK n t) CH_TASK.POLICY policy).set
    (CH_TASK_PC n t) CH_TASK_PC.PC pc

/-- The registers of a context that CREATE or RESUME sets up. -/
def State.contextRegs (s : State) (n t prio policy pc save : Nat) : State :=
  (s.startRegs n t prio policy pc).set (CH_TASK_SAVE n t) CH_TASK_SAVE.SAVE_BASE save

/-- The addresses of those registers. -/
def contextAddrs (n t a : Nat) : Prop := a = CH_TASK n t ∨ a = CH_TASK_PC n t ∨ a = CH_TASK_SAVE n t

section contextRegs

variable (s : State) (n : Nat) (t : Tag) (prio policy pc save : Nat)

theorem startRegs_keeps : KeepsRegs (contextAddrs n t) s (s.startRegs n t prio policy pc) := by
  intro a out
  unfold contextAddrs at out
  obtain ⟨task, other⟩ := not_or.1 out
  obtain ⟨pcReg, -⟩ := not_or.1 other
  rw [State.startRegs, State.reg_set_ne _ _ _ pcReg, State.reg_set_ne _ _ _ task, State.reg_set_ne _ _ _ task,
    State.reg_setReg_ne _ _ task]

theorem contextRegs_keeps : KeepsRegs (contextAddrs n t) s (s.contextRegs n t prio policy pc save) := by
  intro a out
  have here : a ≠ CH_TASK_SAVE n t := fun e => out (.inr (.inr e))
  exact (State.reg_set_ne _ _ _ here).trans (startRegs_keeps s n t prio policy pc a out)

theorem contextRegs_local : Local n s (s.contextRegs n t prio policy pc save) :=
  ((((setReg_local s (CH_TASK_inWindow n t) 0).trans (set_local _ (CH_TASK_inWindow n t) _ _)).trans
    (set_local _ (CH_TASK_inWindow n t) _ _)).trans (set_local _ (CH_TASK_PC_inWindow n t) _ _)).trans
    (set_local _ (CH_TASK_SAVE_inWindow n t) _ _)

theorem contextRegs_task : (s.contextRegs n t prio policy pc save).get (CH_TASK n t) CH_TASK.PRIORITY = prio % 8
    ∧ (s.contextRegs n t prio policy pc save).get (CH_TASK n t) CH_TASK.POLICY = policy % 2 := by
  have save : CH_TASK n t ≠ CH_TASK_SAVE n t := by unfold CH_TASK CH_TASK_SAVE; omega
  have pc : CH_TASK n t ≠ CH_TASK_PC n t := by unfold CH_TASK CH_TASK_PC; omega
  unfold State.contextRegs State.startRegs
  rw [State.get_set_ne _ _ _ _ save, State.get_set_ne _ _ _ _ pc, State.get_set_ne _ _ _ _ save, State.get_set_ne _ _ _ _ pc,
    State.get_set_other _ _ _ _ _ _ (by decide) (by decide)]
  exact ⟨State.get_set_same _ _ _ _ (by decide), State.get_set_same _ _ _ _ (by decide)⟩

theorem contextRegs_pc : (s.contextRegs n t prio policy pc save).get (CH_TASK_PC n t) CH_TASK_PC.PC = pc % 2 ^ 48 := by
  rw [State.contextRegs, State.get_set_ne _ _ _ _ (by unfold CH_TASK_PC CH_TASK_SAVE; omega)]
  exact State.get_set_same _ _ _ _ (by decide)

theorem contextRegs_save :
    (s.contextRegs n t prio policy pc save).get (CH_TASK_SAVE n t) CH_TASK_SAVE.SAVE_BASE = save % 2 ^ 36 :=
  State.get_set_same _ _ _ _ (by decide)

end contextRegs

/-- The registers of the context in tag `t` as CREATE sets them up, with what CH_CREATE0 holds in `c`. -/
def State.createRegs (s : State) (n t : Nat) (c : Word) : State :=
  let u := s.resetRegs (tagRegs n t)
  let prio := fget c CH_CREATE0.PRIORITY
  let policy := fget c CH_CREATE0.POLICY
  let pc := fget c CH_CREATE0.PC
  u.contextRegs n t prio policy pc ((u.startRegs n t prio policy pc).get (CH_CREATE1 n) CH_CREATE1.SAVE_BASE)

/-- Tag `t` takes the context `k`, which is counted. -/
def State.openContext (s : State) (n t : Nat) (k : Task) : State :=
  (s.setTask n t k).modCh n fun c => { c with births := c.births + 1 }

/-- A context as CREATE makes it. -/
def State.newTask (s : State) (n pc : Nat) : Task :=
  { xlat := s.get (CH_CREATE2 n) CH_CREATE2.XLAT, fetchPc := pc, born := (s.ch n).births }

/-- The context that CREATE makes, before it is ACTIVE. -/
def State.createContext (s : State) (n t : Nat) (c : Word) : State :=
  (s.createRegs n t c).openContext n t ((s.createRegs n t c).newTask n (fget c CH_CREATE0.PC))

section openContext

variable (s : State) (n t : Nat) (k : Task)

theorem openContext_local : Local n s (s.openContext n t k) := (setTask_local s n t k).trans (modCh_local _ n _)

theorem openContext_reg (a : Nat) : (s.openContext n t k).reg a = s.reg a := rfl

theorem openContext_task : (s.openContext n t k).task n t = k := by
  rw [State.openContext, State.task, State.ch_modCh_same]
  exact State.task_setTask_same s n t k

end openContext

theorem cmdCreate_of_free {s : State} {n : Nat} (free : s.tstate n (fget (s.reg (CH_CREATE0 n)) CH_CREATE0.TAG) = tFree) :
    s.cmdCreate n = ((s.createContext n (fget (s.reg (CH_CREATE0 n)) CH_CREATE0.TAG) (s.reg (CH_CREATE0 n))).setTstate n
      (fget (s.reg (CH_CREATE0 n)) CH_CREATE0.TAG) tActive).cmdDone n 0 :=
  if_neg (not_not.2 free)

theorem cmdCreate_of_used {s : State} {n : Nat} (used : s.tstate n (fget (s.reg (CH_CREATE0 n)) CH_CREATE0.TAG) ≠ tFree) :
    s.cmdCreate n = s.cmdDone n 1 :=
  if_pos used

section create

variable (s : State) (n : Nat) (t : Tag) (c : Word)

/-- The operands of CREATE are no registers that it writes. -/
theorem resetRegs_operand {a : Nat} (below : a < chWin n + 0x100) : (s.resetRegs (tagRegs n t)).reg a = s.reg a := by
  rw [resetRegs_reg, if_neg fun mem => ?_]
  obtain ⟨above, -⟩ := tagRegs_between t.isLt mem
  omega

theorem createRegs_task :
    (s.createRegs n t c).get (CH_TASK n t) CH_TASK.PRIORITY = fget c CH_CREATE0.PRIORITY
      ∧ (s.createRegs n t c).get (CH_TASK n t) CH_TASK.POLICY = fget c CH_CREATE0.POLICY := by
  unfold State.createRegs
  obtain ⟨prio, policy⟩ := contextRegs_task (s.resetRegs (tagRegs n t)) n t (fget c CH_CREATE0.PRIORITY)
    (fget c CH_CREATE0.POLICY) (fget c CH_CREATE0.PC) _
  exact ⟨prio.trans (Nat.mod_eq_of_lt (fget_lt c _)), policy.trans (Nat.mod_eq_of_lt (fget_lt c _))⟩

theorem createRegs_pc : (s.createRegs n t c).get (CH_TASK_PC n t) CH_TASK_PC.PC = fget c CH_CREATE0.PC := by
  rw [State.createRegs, contextRegs_pc]
  exact Nat.mod_eq_of_lt (fget_lt c _)

theorem createRegs_save :
    (s.createRegs n t c).get (CH_TASK_SAVE n t) CH_TASK_SAVE.SAVE_BASE = s.get (CH_CREATE1 n) CH_CREATE1.SAVE_BASE := by
  have operand : ¬ contextAddrs n t (CH_CREATE1 n) := by
    unfold contextAddrs CH_CREATE1 CH_TASK CH_TASK_PC CH_TASK_SAVE
    omega
  rw [State.createRegs, contextRegs_save, State.get, startRegs_keeps _ n t _ _ _ _ operand,
    resetRegs_operand s n t (by unfold CH_CREATE1; omega)]
  exact Nat.mod_eq_of_lt (State.get_lt s _ _)

theorem createRegs_xlat :
    (s.createRegs n t c).get (CH_CREATE2 n) CH_CREATE2.XLAT = s.get (CH_CREATE2 n) CH_CREATE2.XLAT := by
  have operand : ¬ contextAddrs n t (CH_CREATE2 n) := by
    unfold contextAddrs CH_CREATE2 CH_TASK CH_TASK_PC CH_TASK_SAVE
    omega
  rw [State.createRegs, State.get, contextRegs_keeps _ n t _ _ _ _ _ operand,
    resetRegs_operand s n t (by unfold CH_CREATE2; omega), State.get]

/-- The registers with a copy per tag are at reset. -/
theorem createRegs_tagRegs {a : Nat} (mem : a ∈ tagRegs n t) : (s.createRegs n t c).reg a = resetReg a := by
  obtain ⟨above, -⟩ := tagRegs_between t.isLt mem
  have out : ¬ contextAddrs n t a := by
    unfold contextAddrs CH_TASK CH_TASK_PC CH_TASK_SAVE
    omega
  rw [State.createRegs, contextRegs_keeps _ n t _ _ _ _ _ out, resetRegs_reg, if_pos mem]

theorem createRegs_local : Local n s (s.createRegs n t c) := by
  refine .trans (resetRegs_local n _ s fun a mem => ?_) (contextRegs_local _ n t _ _ _ _)
  obtain ⟨above, below⟩ := tagRegs_between t.isLt mem
  exact ⟨by omega, below⟩

theorem createContext_local : Local n s (s.createContext n t c) := by
  unfold State.createContext
  exact (createRegs_local s n t c).trans (openContext_local _ n t _)

theorem createContext_reg (a : Nat) : (s.createContext n t c).reg a = (s.createRegs n t c).reg a := by
  rw [State.createContext, openContext_reg]

theorem createContext_task : (s.createContext n t c).task n t = (s.createRegs n t c).newTask n (fget c CH_CREATE0.PC) := by
  rw [State.createContext, openContext_task]

end create

section created

variable (u : State) (n : Nat) (t : Tag)

/-- The last two steps of CREATE: the context is ACTIVE and the command has its result. -/
def State.created (u : State) (n t : Nat) : State := (u.setTstate n t tActive).cmdDone n 0

theorem created_reg {a : Nat} (task : a ≠ CH_TASK n t) (low : chWin n + 0x50 < a) : (u.created n t).reg a = u.reg a := by
  obtain ⟨-, regs⟩ := cmdDone_onlyReg (u.setTstate n t tActive) n 0
  rw [State.created, regs a (by unfold CH_CMD_STATUS; omega),
    setTstate_keeps u n t tActive a (by unfold CH_STATUS; omega)]

theorem created_taskReg {f : Fld} (above : 3 ≤ f.lo) (inside : f.lo + f.w ≤ 64) :
    (u.created n t).get (CH_TASK n t) f = u.get (CH_TASK n t) f := by
  rw [State.created, cmdDone_taskReg, setTstate_taskReg u n t _ above inside]

theorem created_local : Local n u (u.created n t) :=
  (setTstate_local u n t _).trans ((cmdDone_onlyReg _ n 0).inChamber (CH_CMD_STATUS_inWindow n))

theorem created_task : (u.created n t).task n t = u.task n t := by
  rw [State.created, cmdDone_task, State.setTstate_task_]

theorem created_tstate : (u.created n t).tstate n t = tActive := by
  rw [State.created, State.tstate, cmdDone_taskReg, ← State.tstate, setTstate_tstate u n t (by decide)]

end created

/-- R184: the context that CREATE has made is ACTIVE, as the operands say, and its registers are at reset. -/
theorem created_complete (s : State) (n : Nat) (t : Tag) (c : Word) :
    let u := (s.createContext n t c).created n t
    Local n s u ∧ u.tstate n t = tActive ∧ u.get (CH_TASK_PC n t) CH_TASK_PC.PC = fget c CH_CREATE0.PC
      ∧ u.get (CH_TASK n t) CH_TASK.PRIORITY = fget c CH_CREATE0.PRIORITY
      ∧ u.get (CH_TASK n t) CH_TASK.POLICY = fget c CH_CREATE0.POLICY
      ∧ u.get (CH_TASK_SAVE n t) CH_TASK_SAVE.SAVE_BASE = s.get (CH_CREATE1 n) CH_CREATE1.SAVE_BASE
      ∧ (u.task n t).xlat = s.get (CH_CREATE2 n) CH_CREATE2.XLAT ∧ (u.task n t).window = []
      ∧ (∀ a ∈ tagRegs n t, u.reg a = resetReg a)
      ∧ u.get (CH_CMD_STATUS n) CH_CMD_STATUS.RESULT = 0 ∧ u.get (CH_CMD_STATUS n) CH_CMD_STATUS.VALID = 1 := by
  intro u
  have kept {a : Nat} (task : a ≠ CH_TASK n t) (low : chWin n + 0x50 < a) : u.reg a = (s.createRegs n t c).reg a :=
    (created_reg _ n t task low).trans (createContext_reg s n t c a)
  have keptTask {f : Fld} (above : 3 ≤ f.lo) (inside : f.lo + f.w ≤ 64) :
      u.get (CH_TASK n t) f = (s.createRegs n t c).get (CH_TASK n t) f := by
    rw [show u.get (CH_TASK n t) f = _ from created_taskReg _ n t above inside, State.get, createContext_reg, State.get]
  have made : u.task n t = (s.createRegs n t c).newTask n (fget c CH_CREATE0.PC) :=
    (created_task _ n t).trans (createContext_task s n t c)
  obtain ⟨prio, policy⟩ := createRegs_task s n t c
  refine ⟨(createContext_local s n t c).trans (created_local _ n t), created_tstate _ n t, ?_,
    (keptTask (by decide) (by decide)).trans prio, (keptTask (by decide) (by decide)).trans policy, ?_, ?_, ?_,
    fun a mem => ?_, cmdDone_shows _ n (by decide)⟩
  · rw [State.get, kept (by unfold CH_TASK_PC CH_TASK; omega) (by unfold CH_TASK_PC; omega)]
    exact createRegs_pc s n t c
  · rw [State.get, kept (by unfold CH_TASK_SAVE CH_TASK; omega) (by unfold CH_TASK_SAVE; omega)]
    exact createRegs_save s n t c
  · rw [made]
    exact createRegs_xlat s n t c
  · rw [made]
    rfl
  · obtain ⟨above, -⟩ := tagRegs_between t.isLt mem
    rw [kept (by unfold CH_TASK; omega) (by omega), createRegs_tagRegs s n t c mem]

/-! ### RELEASE and ABORT (R188) -/

section commands

variable {s : State} {n : Ch} {t : Tag}

theorem taskRelease_of_ended (ended : s.tstate n t = tEnded) :
    exec (.taskRelease n t) s = .next ((s.setTstate n t tFree).cmdDone n 0) :=
  congrArg Host.Outcome.next (if_neg (not_not.2 ended))

theorem taskRelease_of_not_ended (going : s.tstate n t ≠ tEnded) : exec (.taskRelease n t) s = .next (s.cmdDone n 2) :=
  congrArg Host.Outcome.next (if_pos going)

theorem taskAbort_of_inUse (used : s.inUse n t) : exec (.taskAbort n t) s = .next ((s.abortFrom n t chAborted).cmdDone n 0) :=
  congrArg Host.Outcome.next (if_pos used)

theorem taskAbort_of_not_inUse (unused : ¬ s.inUse n t) : exec (.taskAbort n t) s = .next (s.cmdDone n 2) :=
  congrArg Host.Outcome.next (if_neg unused)

theorem abortComplete_of_drained (aborting : s.tstate n t = tAborting) (drained : s.drainDue n t = false) :
    exec (.abortComplete n t) s = .next (s.abortEnd n t) :=
  if_neg (by simp [aborting, drained])

/-- R188: RELEASE frees an ENDED context. -/
theorem taskRelease_frees (ended : s.tstate n t = tEnded) :
    ∃ u, exec (.taskRelease n t) s = .next u ∧ u = { s with regs := u.regs }
      ∧ KeepsRegs (fun a => a = CH_CMD_STATUS n ∨ a = CH_TASK n t ∨ a = CH_STATUS n) s u ∧ u.tstate n t = tFree
      ∧ u.get (CH_CMD_STATUS n) CH_CMD_STATUS.RESULT = 0 ∧ u.get (CH_CMD_STATUS n) CH_CMD_STATUS.VALID = 1 := by
  obtain ⟨only, regs⟩ := cmdDone_onlyReg (s.setTstate n t tFree) n 0
  refine ⟨_, taskRelease_of_ended ended, ((setTstate_only s n t _).trans only).eq_regs, fun a out => ?_, ?_,
    cmdDone_shows _ n (by decide)⟩
  · obtain ⟨cmd, freed⟩ := not_or.1 out
    exact (regs a cmd).trans (setTstate_keeps s n t tFree a freed)
  · rw [State.tstate, cmdDone_taskReg, ← State.tstate, setTstate_tstate s n t (by decide)]

/-- R188: ABORT makes a task in use ABORTING with CH_ABORTED. -/
theorem taskAbort_aborts (used : s.inUse n t) :
    ∃ u, exec (.taskAbort n t) s = .next u ∧ Local n s u ∧ u.tstate n t = tAborting
      ∧ (u.task n t).abortCode = chAborted ∧ u.get (CH_TASK n t) CH_TASK.PREEMPT_PENDING = 0
      ∧ u.get (CH_CMD_STATUS n) CH_CMD_STATUS.RESULT = 0 := by
  obtain ⟨inside, aborting, noPreempt, noted⟩ := taskFault_complete chAborted (s.task n t).nextId used
  obtain ⟨result, -⟩ := cmdDone_shows (s.abortFrom n t chAborted) n (r := 0) (by decide)
  refine ⟨_, taskAbort_of_inUse used, inside.trans ((cmdDone_onlyReg _ n 0).inChamber (CH_CMD_STATUS_inWindow n)),
    (cmdDone_taskReg ..).trans aborting, ?_, (cmdDone_taskReg ..).trans noPreempt, result⟩
  rw [cmdDone_task, State.abortFrom, noted]
  rfl

end commands

/-- A command that a task's state refuses shows result 2, and nothing else changes. -/
theorem refused_of_exec {s : State} {n : Ch} {i : Instr} (runs : exec i s = .next (s.cmdDone n 2)) :
    ∃ u, exec i s = .next u ∧ u = { s with regs := u.regs } ∧ KeepsRegs (· = CH_CMD_STATUS n) s u
      ∧ u.get (CH_CMD_STATUS n) CH_CMD_STATUS.RESULT = 2 := by
  obtain ⟨only, regs, result, -⟩ := cmdDone_refuses s n (r := 2) (by decide)
  exact ⟨_, runs, only, regs, result⟩

/-- Settles O13: CREATE sets up a FREE context and refuses one in use, RELEASE frees an ENDED one, ABORT notes its fault in a task in
use, and the end of an abort waits for drains alone. -/
theorem createReleaseAbortComplete : Obligations.CreateReleaseAbortComplete := by
  unfold Obligations.CreateReleaseAbortComplete
  intro n s
  refine ⟨⟨fun free => ?_, fun used => ?_⟩, fun t => ⟨taskRelease_frees, fun going => ?_, taskAbort_aborts, fun unused => ?_,
    abortComplete_of_drained⟩⟩
  · have tag : fget (s.reg (CH_CREATE0 n)) CH_CREATE0.TAG < 4 := fget_lt _ _
    exact ⟨_, congrArg Host.Outcome.next (cmdCreate_of_free free), created_complete s n ⟨_, tag⟩ _⟩
  · obtain ⟨only, regs, result, valid⟩ := cmdDone_refuses s n (r := 1) (by decide)
    exact ⟨_, congrArg Host.Outcome.next (cmdCreate_of_used used), regs, only, result, valid⟩
  · exact refused_of_exec (taskRelease_of_not_ended going)
  · refine refused_of_exec (taskAbort_of_not_inUse fun used => ?_)
    unfold State.inUse tActive tSaving tRestoring at used
    unfold tFree tAborting tEnded at unused
    omega

end Sys2Proof.Machine
end

section
/-! SUPPORT. PREEMPT and RESUME (R185, R186): what each step leaves where it acts, and a drain of the sump that keeps an image from its
chamber. -/

namespace Sys2Proof.Machine

/-! ### PREEMPT (R185) -/

/-- The context of a preempted task: it fetches again from its PC. -/
def Task.preempted (k : Task) (pc : Nat) : Task := { k with saving := true, stopped := false, fetched := [], fetchPc := pc }

/-- CH_TASK shows a preemption under way. -/
def State.showSaving (s : State) (n t : Nat) : State :=
  (s.setTstate n t tSaving).set (CH_TASK n t) CH_TASK.PREEMPT_PENDING 1

section preempt

variable {s : State} {n : Ch} {t : Tag}

theorem taskPreempt_of_active (active : s.tstate n t = tActive) :
    exec (.taskPreempt n t) s = .next ((s.showSaving n t).modTask n t
      (·.preempted ((s.showSaving n t).get (CH_TASK_PC n t) CH_TASK_PC.PC))) :=
  congrArg Host.Outcome.next (if_neg (not_not.2 active))

theorem taskPreempt_of_not_active (idle : s.tstate n t ≠ tActive) : exec (.taskPreempt n t) s = .next (s.cmdDone n 2) :=
  congrArg Host.Outcome.next (if_pos idle)

/-- R185: PREEMPT makes an ACTIVE task SAVING, and what it has fetched is dropped. -/
theorem taskPreempt_saves (active : s.tstate n t = tActive) :
    ∃ u, exec (.taskPreempt n t) s = .next u ∧ Local n s u ∧ u.tstate n t = tSaving
      ∧ u.get (CH_TASK n t) CH_TASK.PREEMPT_PENDING = 1 ∧ (u.task n t).saving = true ∧ (u.task n t).fetched = [] := by
  have shown : Local n s (s.showSaving n t) := (setTstate_local s n t _).trans (set_local _ (CH_TASK_inWindow n t) _ _)
  have pending : (s.showSaving n t).get (CH_TASK n t) CH_TASK.PREEMPT_PENDING = 1 := State.get_set_same _ _ _ _ (by decide)
  have saving : (s.showSaving n t).tstate n t = tSaving :=
    (tstate_set_above _ n t 1 (by decide)).trans (setTstate_tstate s n t (by decide))
  refine ⟨_, taskPreempt_of_active active, shown.trans (modTask_local _ n t _), (State.modTask_get_ ..).trans saving,
    (State.modTask_get_ ..).trans pending, ?_, ?_⟩
  · rw [State.task_modTask_same]
    rfl
  · rw [State.task_modTask_same]
    rfl

theorem preemptEnginesStopped_of_stopped (saving : s.tstate n t = tSaving) (running : (s.task n t).stopped = false)
    (stopped : s.enginesStopped n t = true) : exec (.preemptEnginesStopped n t) s = .next (s.parkTask n t) :=
  if_neg (by simp [saving, running, stopped])

theorem preemptSaveWritten_of_written {pa leaf : Nat} {s1 s2 : State} (saving : s.tstate n t = tSaving)
    (stopped : (s.task n t).stopped = true) (flushed : ∀ r ∈ (s.ch n).runs, r.tag ≠ t.val)
    (area : s.translate n (s.task n t).xlat (s.get (CH_TASK_SAVE n t) CH_TASK_SAVE.SAVE_BASE * 4096) { w := true }
      = (.ok (pa, leaf), s1))
    (written : s1.writeVa n t (s.get (CH_TASK_SAVE n t) CH_TASK_SAVE.SAVE_BASE * 4096) (s1.saveBytes n t) { w := true } false
      = (none, s2)) :
    exec (.preemptSaveWritten n t) s = .next (s2.saved n t pa) := by
  have due : ¬ (s.tstate n t ≠ tSaving ∨ (!(s.task n t).stopped) = true ∨ ((s.ch n).runs.any fun r => r.tag = t.val) = true) := by
    simpa [saving, stopped] using flushed
  rw [show exec (.preemptSaveWritten n t) s = execPreemptSaveWritten n t s from rfl, execPreemptSaveWritten, if_neg due]
  dsimp only
  rw [area]
  dsimp only
  rw [written]

end preempt

/-! ### RESUME (R186) -/

/-- The context of a resumed task, and where its image lies. -/
def State.resumeContext (s : State) (n t pa : Nat) (i : SaveImg) : State :=
  (s.setTask n t { xlat := i.task.xlat, born := (s.ch n).births }).modCh n fun c =>
    { c with resumeImg := kset c.resumeImg t pa, births := c.births + 1 }

/-- A context that RESUME has set up from the image `i` at `pa`, with the save base `save`. -/
def State.resumed (s : State) (n t pa save : Nat) (i : SaveImg) : State :=
  ((s.contextRegs n t i.prio i.policy i.pc save).resumeContext n t pa i).setTstate n t tRestoring

section resume

variable {s s' : State} {n : Ch} {t : Tag} {pa : Nat} {i : SaveImg}

theorem taskResume_of_image {leaf : Nat} (free : s.tstate n t = tFree)
    (area : s.translate n (s.get (CH_CREATE2 n) CH_CREATE2.XLAT) (s.get (CH_CREATE1 n) CH_CREATE1.SAVE_BASE * 4096) { r := true }
      = (.ok (pa, leaf), s'))
    (saved : kfind s'.saves pa = some i) (unpacked : i.others = []) (closed : ∀ h ∈ i.held, s'.slotOpen n h.1 = false) :
    exec (.taskResume n t) s
      = .next (s'.resumed n t pa (s.get (CH_CREATE1 n) CH_CREATE1.SAVE_BASE * 4096 / 4096) i) := by
  have fits : ¬ ((!i.others.isEmpty && (decide (i.tag ≠ t.val) || i.others.any fun u => !s'.live n u))
      || i.held.any fun h => s'.slotOpen n h.1) = true := by
    rw [unpacked, List.isEmpty_nil, Bool.not_true, Bool.false_and, Bool.false_or, List.any_eq_true]
    rintro ⟨h, held, opened⟩
    exact Bool.false_ne_true ((closed h held).symm.trans opened)
  rw [show exec (.taskResume n t) s = .next (s.cmdResume n t) from rfl, State.cmdResume, if_neg (not_not.2 free)]
  dsimp only
  rw [area]
  dsimp only
  rw [saved]
  exact congrArg Host.Outcome.next (if_neg fits)

theorem resumeContext_task (s : State) (n t pa : Nat) (i : SaveImg) :
    (s.resumeContext n t pa i).task n t = { xlat := i.task.xlat, born := (s.ch n).births } := by
  rw [State.resumeContext, State.task, State.ch_modCh_same]
  exact State.task_setTask_same s n t _

theorem resumeContext_local (s : State) (n t pa : Nat) (i : SaveImg) : Local n s (s.resumeContext n t pa i) := by
  unfold State.resumeContext
  exact (setTask_local s n t _).trans (modCh_local _ n _)

theorem resumeContext_reg (s : State) (n t pa : Nat) (i : SaveImg) (a : Nat) : (s.resumeContext n t pa i).reg a = s.reg a := rfl

theorem resumeContext_resumeImg (s : State) (n t pa : Nat) (i : SaveImg) :
    kfind ((s.resumeContext n t pa i).ch n).resumeImg t = some pa := by
  rw [State.resumeContext, State.ch_modCh_same]
  exact (kfind_kset ..).trans (if_pos rfl)

/-- R186: RESUME makes a FREE context RESTORING from the image at its save base. -/
theorem taskResume_restores {leaf : Nat} (free : s.tstate n t = tFree)
    (area : s.translate n (s.get (CH_CREATE2 n) CH_CREATE2.XLAT) (s.get (CH_CREATE1 n) CH_CREATE1.SAVE_BASE * 4096) { r := true }
      = (.ok (pa, leaf), s'))
    (saved : kfind s'.saves pa = some i) (unpacked : i.others = []) (closed : ∀ h ∈ i.held, s'.slotOpen n h.1 = false) :
    ∃ u, exec (.taskResume n t) s = .next u ∧ Local n s' u ∧ u.tstate n t = tRestoring
      ∧ u.get (CH_TASK_PC n t) CH_TASK_PC.PC = i.pc % 2 ^ 48 ∧ kfind (u.ch n).resumeImg t = some pa
      ∧ (u.task n t).xlat = i.task.xlat := by
  refine ⟨_, taskResume_of_image free area saved unpacked closed, ?_, setTstate_tstate _ n t (by decide), ?_, ?_, ?_⟩
  · unfold State.resumed
    exact ((contextRegs_local s' n t _ _ _ _).trans (resumeContext_local _ n t pa i)).trans (setTstate_local _ n t _)
  · rw [State.resumed, State.get, setTstate_keeps _ n t _ _ (by unfold CH_TASK_PC CH_TASK CH_STATUS; omega),
      resumeContext_reg]
    exact contextRegs_pc s' n t i.prio i.policy i.pc _
  · rw [State.resumed, State.setTstate_ch_]
    exact resumeContext_resumeImg _ n t pa i
  · rw [State.resumed, State.setTstate_task_, resumeContext_task]

variable (img : kfind (s.ch n).resumeImg t = some pa) (kept : kfind s.saves pa = some i)
include img kept

/-- An image with a drain of the sump waits while another drain is in the chamber. -/
theorem resumeRestored_of_drain (mine : i.drain.isSome = true) (other : (s.ch n).sumpDrain.isSome = true) :
    exec (.resumeRestored n t) s = .next s := by
  rw [show exec (.resumeRestored n t) s = execResumeRestored n t s from rfl, execResumeRestored, img]
  dsimp only
  rw [kept]
  exact if_pos (.inr (.inr ⟨mine, other⟩))

/-- R186: without another drain in its way, an image whose slots are free is put back once it is read. -/
theorem resumeRestored_of_read {b : List Byte} {p : Bool} {k : Nat} {s2 : State} (restoring : s.tstate n t = tRestoring)
    (free : ∀ h ∈ i.held, s.slotPhase n h.1 = phFree ∧ s.slotOpen n h.1 = false)
    (noDrain : ¬ (i.drain.isSome = true ∧ (s.ch n).sumpDrain.isSome = true))
    (read : s.readVa n t (s.get (CH_TASK_SAVE n t) CH_TASK_SAVE.SAVE_BASE * 4096) 24704 { r := true } = (.ok b p k, s'))
    (slots : s'.restoreSlots n t i b = (s2, false)) :
    exec (.resumeRestored n t) s = .next (s2.restored n t i) := by
  have occupied : (i.held.any fun h => s.slotPhase n h.1 != phFree || s.slotOpen n h.1) = false := by
    simpa [List.any_eq_false] using free
  rw [show exec (.resumeRestored n t) s = execResumeRestored n t s from rfl, execResumeRestored, img]
  dsimp only
  rw [kept]
  dsimp only
  rw [if_neg (by simpa [restoring, occupied] using noDrain), read]
  dsimp only
  rw [slots]
  rfl

end resume

/-! ### A drain of another task in the way -/

/-- An image of a task that was draining the sump and held nothing else. -/
def drainImg : SaveImg :=
  { tag := 0, task := {}, pc := 0, prio := 0, policy := 0, regs := [], held := [], chains := [], arr := [], lists := [], joins := []
    starts := [], drain := some { id := 0, tag := 0, runs := 2 } }

/-- Task 0 of chamber 0 is RESTORING from a page of module 0 that it reaches as a remote one; the page's bytes, all 0, have come back.
The task of tag 1 drains the sump. -/
def drainedState : State :=
  ((({ State.reset with saves := [(0, drainImg)] }.setTstate 0 0 tRestoring).setTask 0 0
    { rbuf := (List.range 13).map fun j => (j * 2048, ([], false)) }).modCh 0 fun c =>
      { c with tlb := [(tlbKey 0 0 false, 0x3F)], resumeImg := [(0, 0)], sumpDrain := some { id := 0, tag := 1, runs := 2 } })

/-- The state of task 0 once its image would be put back, where no slot image is refused. -/
def stateRestored (i : SaveImg) : Rd × State → Option Nat
  | (.ok b _ _, s') => if (s'.restoreSlots 0 0 i b).2 then none else some (((s'.restoreSlots 0 0 i b).1.restored 0 0 i).tstate 0 0)
  | _ => none

theorem drainedState_waits : kfind (drainedState.ch 0).resumeImg 0 = some 0 ∧ kfind drainedState.saves 0 = some drainImg
    ∧ drainedState.tstate 0 0 = tRestoring ∧ (drainedState.ch 0).sumpDrain.isSome = true := by
  decide +kernel

theorem drainedState_read : stateRestored drainImg
    (drainedState.readVa 0 0 (drainedState.get (CH_TASK_SAVE 0 0) CH_TASK_SAVE.SAVE_BASE * 4096) 24704 { r := true })
      = some tActive := by
  decide +kernel

/-- Refutes O14: nothing in the statement keeps the sump free of another task's drain, and while there is one, an image with a drain
waits: task 0 stays RESTORING where the statement makes it ACTIVE. What holds is `resumeRestored_of_read`; the other clauses hold as
they stand (`taskPreempt_saves`, `taskPreempt_of_not_active`, `preemptEnginesStopped_of_stopped`, `preemptSaveWritten_of_written`,
`taskResume_restores`). -/
theorem not_preemptAndResumeComplete : ¬ Obligations.PreemptAndResumeComplete := by
  unfold Obligations.PreemptAndResumeComplete
  intro h
  obtain ⟨img, kept, restoring, other⟩ := drainedState_waits
  have read := drainedState_read
  unfold stateRestored at read
  split at read
  · next b p k s' fetched =>
    split at read
    · cases read
    · next good =>
      obtain ⟨-, -, -, -, -, restores⟩ := h 0 0 drainedState
      have runs := restores 0 drainImg b p k s' _ img kept restoring (fun _ held => nomatch held) fetched
        (Prod.ext rfl (Bool.not_eq_true _ ▸ good))
      rw [resumeRestored_of_drain img kept rfl other] at runs
      have stays := congrArg (State.tstate · 0 0) (Host.Outcome.next.inj runs)
      exact absurd (restoring.symm.trans (stays.trans (Option.some.inj read))) (by decide)
  · cases read

end Sys2Proof.Machine
end

section
/-! SUPPORT. Control and sync instructions at their issue (R168, R172, R174 to R181): what an issue leaves in its task, and what ends a
wait. -/

namespace Sys2Proof.Machine

/-! ### What a task holds once its head has issued (R168, R174, R178) -/

/-- Passing over takes instructions issued ahead off the front of those fetched, and changes of the task nothing else but which are left
and the number of the next. -/
theorem passAhead_task (fuel : Nat) (s : State) (n t : Nat) : ∃ k ahead next,
    (∀ f ∈ (s.task n t).fetched.take k, f.pc ∈ (s.task n t).doneAhead)
      ∧ (passAhead fuel s n t).task n t
        = { s.task n t with fetched := (s.task n t).fetched.drop k, doneAhead := ahead, nextId := next } := by
  induction fuel generalizing s with
  | zero => exact ⟨0, _, _, by simp, rfl⟩
  | succ fuel ih =>
    unfold passAhead
    dsimp only
    split
    · next f rest fetched =>
      split
      · next here =>
        obtain ⟨k, ahead, next, passed, left⟩ := ih ((s.setTask n t { s.task n t with
          fetched := rest, doneAhead := (s.task n t).doneAhead.erase f.pc, nextId := (s.task n t).nextId + 1 }).setPc n t (f.pc + 16))
        rw [State.setPc, State.set_task_, State.task_setTask_same] at passed left
        refine ⟨k + 1, ahead, next, fun g mem => ?_, ?_⟩
        · rw [fetched, List.take_succ_cons, List.mem_cons] at mem
          obtain rfl | mem := mem
          · exact List.contains_iff_mem.1 here
          · exact List.mem_of_mem_erase (passed g mem)
        · rw [State.setPc, left, fetched, List.drop_succ_cons]
      · exact ⟨0, _, _, by simp, rfl⟩
    · exact ⟨0, _, _, by simp, rfl⟩

theorem countIssue_task (s : State) (n t : Nat) : (s.countIssue n t).task n t = { s.task n t with stall := 0 } := by
  obtain ⟨p, tallied⟩ := tally_only (s.bump (CH_ISSUED n) 1) n 0x002 (.tag t) 1
  unfold State.countIssue
  rw [tallied, State.showWindow_task_, State.progress, State.task_modTask_same, State.task, State.ch_modCh_same]
  rfl

/-- The head of the task joins the window where it stays. -/
theorem take_window {s : State} {n t pc : Nat} {w : BitVec 128} (head : (s.task n t).head = some ⟨pc, some w⟩) (stay : Bool) :
    ((s.take n t stay).task n t).window
      = if stay then (s.task n t).window ++ [⟨(s.task n t).nextId, pc, w⟩] else (s.task n t).window := by
  obtain ⟨rest, fetched⟩ := List.head?_eq_some_iff.1 head
  obtain ⟨k, ahead, next, -, left⟩ := passAhead_task 33 (s.headTaken n t ⟨pc, some w⟩ rest stay) n t
  rw [take_of_cons fetched, left, State.headTaken, countIssue_task, State.setPc, State.set_task_, State.task_setTask_same]
  rfl

theorem live_of_turnOf {s : State} {n t : Nat} (turn : s.turnOf n t = true) : s.live n t = true := by
  unfold State.turnOf State.issuable at turn
  simp only [Bool.and_eq_true] at turn
  tauto

/-- The STATE of a task is apart from what an issue writes into CH_TASK. -/
theorem countIssue_tstate (s : State) (n : Nat) (t : Tag) : (s.countIssue n t).tstate n t = s.tstate n t := by
  have issued : CH_TASK n t ≠ CH_ISSUED n := by unfold CH_TASK CH_ISSUED; omega
  have status : CH_TASK n t ≠ CH_STATUS n := by unfold CH_TASK CH_STATUS; omega
  obtain ⟨p, tallied⟩ := tally_only (s.bump (CH_ISSUED n) 1) n 0x002 (.tag t) 1
  unfold State.countIssue State.showWindow
  rw [tallied, tstate_set_above _ _ _ _ (by decide), State.tstate, State.progress_get_, State.modCh_get_,
    State.get_set_ne _ _ _ _ status]
  exact State.get_bump_ne s 1 _ issued

theorem take_live (s : State) (n : Nat) (t : Tag) (stay : Bool) : (s.take n t stay).live n t = s.live n t := by
  suffices same : (s.take n t stay).tstate n t = s.tstate n t by rw [State.live, same, State.live]
  cases fetched : (s.task n t).fetched with
  | nil => rw [take_of_nil fetched]
  | cons f rest =>
    obtain ⟨-, regs, -⟩ := passAhead_frame 33 (s.headTaken n t f rest stay) n t
    have pcReg : CH_TASK n t ≠ CH_TASK_PC n t := by unfold CH_TASK CH_TASK_PC; omega
    rw [take_of_cons fetched, State.tstate, State.get, regs _ pcReg, ← State.get, ← State.tstate, State.headTaken,
      countIssue_tstate, State.setPc, State.tstate, State.get_set_ne _ _ _ _ pcReg, State.setTask_get_, State.tstate]

/-! ### An issue stays seen beside other registers -/

section kept

variable {n : Nat} {t : Tag} {p : Nat → Prop} {s u v : State}

theorem IssueFrame.seen (h : IssueFrame n p u v) (seen : IssueSeen n t s u) (issued : ¬ p (CH_ISSUED n)) (status : ¬ p (CH_STATUS n)) :
    IssueSeen n t s v := by
  obtain ⟨-, regs, -⟩ := h
  exact seen.keep (regs _ issued) (regs _ status)

theorem IssueFrame.pcNext {pc : Nat} (h : IssueFrame n p u v) (moved : PcNext n t pc s u) (out : ¬ p (CH_TASK_PC n t)) :
    PcNext n t pc s v := by
  obtain ⟨-, regs, -⟩ := h
  exact moved.keep (regs _ out)

/-- What an issue and a change beside it leave. -/
theorem take_then_seen (fetched : (s.task n t).fetched ≠ []) {stay : Bool} (h : IssueFrame n p (s.take n t stay) v)
    (issued : ¬ p (CH_ISSUED n)) (status : ¬ p (CH_STATUS n)) : IssueSeen n t s v ∧ Local n s v := by
  have seen := h.seen (take_seen fetched stay) issued status
  obtain ⟨inside, -, -⟩ := take_frame s n t stay
  obtain ⟨beside, -, -⟩ := h
  exact ⟨seen, inside.trans beside⟩

end kept

/-! ### What ends a wait (R174, R175, R227) -/

/-- A task's window without the SWAITs whose starts are gone. -/
def State.swaitsGone (s : State) (n t : Nat) : List Issued :=
  (s.task n t).window.filter fun i => !(opcode i.word = 0x21 && s.noStart n t (wf i.word 13 9) i.id)

/-- The task once those SWAITs have left its window. -/
def State.swaitsOver (s : State) (n t : Nat) : Task :=
  if (s.swaitsGone n t).length < (s.task n t).window.length then { s.task n t with window := s.swaitsGone n t, stall := 0 }
  else s.task n t

/-- The task once a wait that is over has ended, and whether an END is complete with it. -/
def State.waitEnds (s : State) (n t : Nat) : Task × Bool :=
  let k := s.swaitsOver n t
  let w := s.swaitsGone n t
  match k.wait with
  | .fence id =>
    match w.find? (·.id = id) with
    | none => ({ k with wait := .none }, false)
    | some f =>
      if w.any (fun i => i.id < id && fenceNames (wf f.word 16 9) (opcode i.word / 16)) then (k, false)
      else ({ k with wait := .none, window := w.filter (·.id != id), stall := 0 }, false)
  | .ending id =>
    if w.any (fun i => i.id < id) then (k, false)
    else ({ k with wait := .none, window := [], saving := false }, s.live n t || (s.tstate n t = tSaving && !k.stopped))
  | _ => (k, false)

theorem settle_eq_settleTo (s : State) (n t : Nat) : s.settle n t = s.settleTo n t (s.waitEnds n t).1 (s.waitEnds n t).2 := rfl

theorem settle_task (s : State) (n : Nat) (t : Tag) : (s.settle n t).task n t = (s.waitEnds n t).1 := by
  rw [settle_eq_settleTo, settleTo_task]

theorem settle_frame (s : State) (n : Nat) (t : Tag) : IssueFrame n (endRegs n t) s (s.settle n t) :=
  settleTo_frame s n t _ _

/-- An issue stays seen as waits of its task end. -/
theorem IssueSeen.settle {s u : State} {n : Nat} {t : Tag} (seen : IssueSeen n t s u) : IssueSeen n t s (u.settle n t) := by
  obtain ⟨counted, last⟩ := seen
  obtain ⟨-, regs, -⟩ := settle_frame u n t
  refine ⟨?_, (settleTo_lastTag u n t _ _).trans last⟩
  rw [State.get, regs _ (by unfold endRegs CH_ISSUED CH_TASK CH_STATUS CH_CMD_STATUS; omega)]
  exact counted

section waitEnds

variable {s : State} {n t id : Nat}

theorem swaitsOver_wait (s : State) (n t : Nat) : (s.swaitsOver n t).wait = (s.task n t).wait := by
  unfold State.swaitsOver
  split <;> rfl

theorem swaitsOver_window (s : State) (n t : Nat) : (s.swaitsOver n t).window = s.swaitsGone n t := by
  unfold State.swaitsOver
  split
  · rfl
  · next all =>
    have sub : (s.swaitsGone n t).Sublist (s.task n t).window := List.filter_sublist
    exact (sub.eq_of_length_le (Nat.not_lt.1 all)).symm

/-- An END that no earlier instruction precedes ends its task. -/
theorem waitEnds_of_ending (waits : (s.task n t).wait = .ending id) (first : ∀ i ∈ (s.task n t).window, ¬ i.id < id)
    (active : s.live n t = true) :
    s.waitEnds n t = ({ s.swaitsOver n t with wait := .none, window := [], saving := false }, true) := by
  have noneBefore : ¬ ((s.swaitsGone n t).any fun i => decide (i.id < id)) = true := by
    simp only [List.any_eq_true, decide_eq_true_eq, not_exists, not_and]
    exact fun i mem => first i (List.mem_of_mem_filter mem)
  unfold State.waitEnds
  dsimp only
  rw [swaitsOver_wait, waits]
  dsimp only
  rw [if_neg noneBefore, active, Bool.true_or]

/-- A FENCE alone in its window is over. -/
theorem waitEnds_of_fence_alone (waits : (s.task n t).wait = .fence id) (alone : ∀ i ∈ (s.task n t).window, i.id = id) :
    (s.waitEnds n t).1.wait = .none ∧ (s.waitEnds n t).1.window = [] := by
  have same : ∀ i ∈ s.swaitsGone n t, i.id = id := fun i mem => alone i (List.mem_of_mem_filter mem)
  have noneBefore (f : Issued) : ¬ ((s.swaitsGone n t).any fun i =>
      decide (i.id < id) && fenceNames (wf f.word 16 9) (opcode i.word / 16)) = true := by
    simp only [List.any_eq_true, Bool.and_eq_true, decide_eq_true_eq, not_exists, not_and]
    exact fun i mem before => absurd (same i mem) (Nat.ne_of_lt before)
  unfold State.waitEnds
  dsimp only
  rw [swaitsOver_wait, waits]
  dsimp only
  split
  · next gone =>
    refine ⟨rfl, ?_⟩
    rw [swaitsOver_window]
    exact List.eq_nil_iff_forall_not_mem.2 fun i mem => by simpa [same i mem] using List.find?_eq_none.1 gone i mem
  · next f found =>
    rw [if_neg (noneBefore f)]
    refine ⟨rfl, List.filter_eq_nil_iff.2 fun i mem => ?_⟩
    simp [same i mem]

/-- A FENCE waits while an earlier instruction of its classes is in the window. -/
theorem waitEnds_of_fence_behind {f i : Issued} {l : List Issued} (waits : (s.task n t).wait = .fence id)
    (window : (s.task n t).window = l ++ [f]) (last : f.id = id) (others : ∀ j ∈ l, j.id ≠ id) (fence : opcode f.word ≠ 0x21)
    (mem : i ∈ l) (before : i.id < id) (notSwait : opcode i.word ≠ 0x21)
    (named : fenceNames (wf f.word 16 9) (opcode i.word / 16) = true) :
    (s.waitEnds n t).1.wait = .fence id := by
  have kept {j : Issued} (here : j ∈ l ++ [f]) (other : opcode j.word ≠ 0x21) : j ∈ s.swaitsGone n t :=
    List.mem_filter.2 ⟨window ▸ here, by simp [other]⟩
  have found : (s.swaitsGone n t).find? (·.id = id) = some f := by
    have split : s.swaitsGone n t = (l.filter fun i => !(opcode i.word = 0x21 && s.noStart n t (wf i.word 13 9) i.id)) ++ [f] := by
      rw [State.swaitsGone, window, List.filter_append]
      simp [fence]
    rw [split, List.find?_append, List.find?_eq_none.2 fun j here => by simpa using others j (List.mem_of_mem_filter here)]
    simp [last]
  have holds : ((s.swaitsGone n t).any fun i => decide (i.id < id) && fenceNames (wf f.word 16 9) (opcode i.word / 16)) = true :=
    List.any_eq_true.2 ⟨i, kept (List.mem_append_left _ mem) notSwait, by simp [before, named]⟩
  unfold State.waitEnds
  dsimp only
  rw [swaitsOver_wait, waits]
  dsimp only
  rw [found]
  dsimp only
  rw [if_pos holds, swaitsOver_wait, waits]

theorem waitEnds_of_none (free : (s.task n t).wait = .none) : (s.waitEnds n t).1.wait = .none := by
  unfold State.waitEnds
  dsimp only
  rw [swaitsOver_wait, free]
  exact (swaitsOver_wait s n t).trans free

end waitEnds

end Sys2Proof.Machine
end

section
/-! SUPPORT. NOP, END, JUMP, BUCKET, SETB, LOADB and BIND (R169, R172, R174, R179 to R181). -/

namespace Sys2Proof.Machine

theorem wf_lt (w : BitVec 128) (hi lo : Nat) : wf w hi lo < 2 ^ (hi + 1 - lo) := Nat.mod_lt _ (by positivity)

section control

variable {s : State} {n : Ch} {t : Tag} {w : BitVec 128} {pc : Nat}

/-! ### NOP (R169) -/

theorem nop_of_issues (turn : s.issues n t 0x00 w pc) : exec (.nop n t) s = .next (s.take n t false) := by
  rw [show exec (.nop n t) s = execNop n t s from rfl, execNop, issue_of_issues turn]

/-! ### END (R174) -/

theorem endTask_zero_shows (s : State) (n : Nat) (t : Tag) :
    (s.endTask n t 0).tstate n t = tEnded ∧ (s.endTask n t 0).get (CH_TASK n t) CH_TASK.END_CODE = 0 := by
  rw [endTask_zero]
  constructor
  · rw [tstate_set_above _ _ _ _ (by decide), tstate_set_above _ _ _ _ (by decide), setTstate_tstate _ n t (by decide)]
  · rw [State.get_set_other _ _ _ _ _ _ (by decide) (by decide), State.get_set_same _ _ _ _ (by decide)]
    rfl

theorem settleTo_ended (s : State) (n : Nat) (t : Tag) (k : Task) : (s.settleTo n t k true).tstate n t = tEnded
    ∧ (s.settleTo n t k true).get (CH_TASK n t) CH_TASK.END_CODE = 0 := by
  unfold State.settleTo
  extract_lets u
  obtain ⟨ended, code⟩ := endTask_zero_shows u n t
  rw [if_pos rfl]
  split
  · exact ⟨(cmdDone_taskReg ..).trans ended, (cmdDone_taskReg ..).trans code⟩
  · exact ⟨ended, code⟩

/-- An END that has issued and is to end its task. -/
def State.endIssued (s : State) (n t : Nat) : State :=
  (s.take n t true).modTask n t fun k => { k with wait := .ending (s.task n t).nextId }

theorem end_of_closed (turn : s.issues n t 0x01 w pc)
    (closed : ∀ i, i < 2 → s.slotOpen n i = true → (s.slot n i).last.tag ≠ t) :
    exec (.end_ n t) s = .next ((s.endIssued n t).settle n t) := by
  have noGroup : ¬ ((List.range 2).any fun i => s.slotOpen n i && decide ((s.slot n i).last.tag = t)) = true := by
    simpa [List.any_eq_true] using closed
  rw [show exec (.end_ n t) s = execEnd n t s from rfl, execEnd, issue_of_issues turn]
  exact if_neg noGroup

/-- R174: an END with nothing before it ends its task. -/
theorem end_complete (turn : s.issues n t 0x01 w pc) (alone : (s.task n t).window = [])
    (closed : ∀ i, i < 2 → s.slotOpen n i = true → (s.slot n i).last.tag ≠ t) :
    ∃ u, exec (.end_ n t) s = .next u ∧ IssueSeen n t s u ∧ Local n s u
      ∧ u.tstate n t = tEnded ∧ u.get (CH_TASK n t) CH_TASK.END_CODE = 0 ∧ (u.task n t).window = [] := by
  have runs := end_of_closed turn closed
  have seen : IssueSeen n t s (s.endIssued n t) := take_seen (fetched_of_issues turn) true
  obtain ⟨its_turn, head, -, -⟩ := turn
  obtain ⟨inside, -, -⟩ := take_frame s n t true
  have first : ∀ i ∈ ((s.endIssued n t).task n t).window, ¬ i.id < (s.task n t).nextId := by
    rw [State.endIssued, State.task_modTask_same, take_window head, alone]
    simp
  have active : (s.endIssued n t).live n t = true := (take_live s n t true).trans (live_of_turnOf its_turn)
  have ends := waitEnds_of_ending (by rw [State.endIssued, State.task_modTask_same]) first active
  have settled := settle_eq_settleTo (s.endIssued n t) n t
  rw [ends] at settled
  obtain ⟨beside, -, -⟩ := settle_frame (s.endIssued n t) n t
  obtain ⟨ended, code⟩ := settleTo_ended (s.endIssued n t) n t
    { (s.endIssued n t).swaitsOver n t with wait := .none, window := [], saving := false }
  refine ⟨_, runs, seen.settle, (inside.trans (modTask_local _ n t _)).trans beside, ?_, ?_, ?_⟩
  · rw [settled, ended]
  · rw [settled, code]
  · rw [settle_task, ends]

/-! ### JUMP and BUCKET (R172, R181) -/

theorem jumpTo_lt (pc : Nat) (i : Int) : jumpTo pc i < 2 ^ 48 := by
  unfold jumpTo
  omega

section redirect

variable (u : State) (n : Nat) (t : Tag) (pc target : Nat)

theorem redirect_frame : IssueFrame n (· = CH_TASK_PC n t) u (u.redirect n t pc target) := by
  unfold State.redirect
  exact ite_rel (fun _ => .refl _ _ u) fun _ => (setTask_frame u t _).trans (setPc_frame _ n t _)

variable {pc target}

theorem redirect_away (ne : target ≠ pc + 16) (fits : target < 2 ^ 48) :
    (u.redirect n t pc target).get (CH_TASK_PC n t) CH_TASK_PC.PC = target
      ∧ ((u.redirect n t pc target).task n t).fetched = [] ∧ ((u.redirect n t pc target).task n t).fetchPc = target := by
  have same : target % 2 ^ 48 = target := Nat.mod_eq_of_lt fits
  rw [State.redirect, if_neg ne, State.setPc, State.set_task_, State.task_modTask_same, same,
    State.get_set_same _ _ _ _ (by decide)]
  exact ⟨same, rfl, rfl⟩

end redirect

/-- The issue of a jump: at another address what was fetched is dropped, at the next one the task goes on. -/
theorem take_redirect {op target : Nat} (turn : s.issues n t op w pc) (fits : target < 2 ^ 48) :
    let u := (s.take n t false).redirect n t pc target
    IssueSeen n t s u ∧ Local n s u
      ∧ (target ≠ pc + 16 → u.get (CH_TASK_PC n t) CH_TASK_PC.PC = target ∧ (u.task n t).fetched = []
          ∧ (u.task n t).fetchPc = target)
      ∧ (target = pc + 16 → PcNext n t pc s u) := by
  intro u
  obtain ⟨seen, inside⟩ := take_then_seen (fetched_of_issues turn) (redirect_frame (s.take n t false) n t pc target)
    (by unfold CH_ISSUED CH_TASK_PC; omega) (by unfold CH_STATUS CH_TASK_PC; omega)
  obtain ⟨-, head, -, -⟩ := turn
  refine ⟨seen, inside, fun ne => redirect_away _ n t ne fits, fun next => ?_⟩
  rw [show u = s.take n t false from if_pos next]
  exact take_pcNext head false

theorem jump_of_issues (turn : s.issues n t 0x02 w pc) :
    exec (.jump n t) s = .next ((s.take n t false).redirect n t pc (jumpTo pc (signed 32 (wf w 63 32)))) := by
  rw [show exec (.jump n t) s = execJump n t s from rfl, execJump, issue_of_issues turn]

theorem bucket_of_issues (turn : s.issues n t 0x03 w pc) :
    exec (.bucket n t) s = .next ((s.take n t false).redirect n t pc
      (jumpTo pc ((min (cdiv (s.bound n t (wf w 11 9)) (2 ^ wf w 16 12)) (wf w 20 17) * wf w 47 32 : Nat) : Int))) := by
  rw [show exec (.bucket n t) s = execBucket n t s from rfl, execBucket, issue_of_issues turn]

/-! ### SETB and LOADB (R179) -/

theorem setb_of_issues (turn : s.issues n t 0x04 w pc) :
    exec (.setb n t) s = .next ((s.take n t false).set (CH_BOUND n t (wf w 11 9)) CH_BOUND.VALUE (wf w 63 32)) := by
  rw [show exec (.setb n t) s = execSetb n t s from rfl, execSetb, issue_of_issues turn]

theorem loadb_of_read {d : List Byte} {p : Bool} {k : Nat} {s' : State} (turn : s.issues n t 0x05 w pc)
    (aligned : wf w 63 16 % 4 = 0) (read : s.consume n t (wf w 63 16) 4 = (.ok d p k, s')) :
    exec (.loadb n t) s = .next ((s'.take n t false).set (CH_BOUND n t (wf w 11 9)) CH_BOUND.VALUE (ofBytes d)) := by
  rw [show exec (.loadb n t) s = execLoadb n t s from rfl, execLoadb, issue_of_issues turn]
  dsimp only
  rw [if_neg (not_not.2 aligned), read]

/-- A write to a register of the chamber behind an issue, apart from those that show the issue. -/
theorem take_set {a : Nat} (fetched : (s.task n t).fetched ≠ []) (inside : InWindow n a) (issued : CH_ISSUED n ≠ a)
    (status : CH_STATUS n ≠ a) (f : Fld) (x : Nat) :
    IssueSeen n t s ((s.take n t false).set a f x) ∧ Local n s ((s.take n t false).set a f x) :=
  take_then_seen fetched (set_frame (p := (· = a)) _ inside rfl f x) issued status

theorem take_set_pcNext {op a : Nat} (turn : s.issues n t op w pc) (ne : CH_TASK_PC n t ≠ a) (f : Fld) (x : Nat) :
    PcNext n t pc s ((s.take n t false).set a f x) := by
  obtain ⟨-, head, -, -⟩ := turn
  exact (take_pcNext head false).keep (State.reg_set_ne _ _ _ ne)

/-- The bound register that a word names is apart from those that show an issue. -/
theorem CH_BOUND_apart (n : Nat) (t : Tag) (w : BitVec 128) :
    InWindow n (CH_BOUND n t (wf w 11 9)) ∧ CH_ISSUED n ≠ CH_BOUND n t (wf w 11 9) ∧ CH_STATUS n ≠ CH_BOUND n t (wf w 11 9)
      ∧ CH_TASK_PC n t ≠ CH_BOUND n t (wf w 11 9) := by
  have number : wf w 11 9 < 8 := wf_lt w 11 9
  unfold InWindow CH_BOUND CH_ISSUED CH_STATUS CH_TASK_PC
  omega

theorem bound_set_same (u : State) (n t b x : Nat) : (u.set (CH_BOUND n t b) CH_BOUND.VALUE x).bound n t b = x % 2 ^ 32 :=
  State.get_set_same _ _ _ _ (by decide)

/-- R179: SETB puts its immediate into the bound register. -/
theorem setb_complete (turn : s.issues n t 0x04 w pc) :
    ∃ u, exec (.setb n t) s = .next u ∧ IssueSeen n t s u ∧ PcNext n t pc s u ∧ Local n s u
      ∧ u.bound n t (wf w 11 9) = wf w 63 32 := by
  obtain ⟨inside, issued, status, pcReg⟩ := CH_BOUND_apart n t w
  obtain ⟨seen, here⟩ := take_set (fetched_of_issues turn) inside issued status CH_BOUND.VALUE (wf w 63 32)
  exact ⟨_, setb_of_issues turn, seen, take_set_pcNext turn pcReg _ _, here,
    (bound_set_same ..).trans (Nat.mod_eq_of_lt (wf_lt w 63 32))⟩

/-- R179: LOADB puts the number that it has read into the bound register. -/
theorem loadb_complete {d : List Byte} {p : Bool} {k : Nat} {s' : State} (turn : s.issues n t 0x05 w pc)
    (aligned : wf w 63 16 % 4 = 0) (read : s.consume n t (wf w 63 16) 4 = (.ok d p k, s')) (fetched : (s'.task n t).fetched ≠ []) :
    ∃ u, exec (.loadb n t) s = .next u ∧ IssueSeen n t s' u ∧ Local n s' u ∧ u.bound n t (wf w 11 9) = ofBytes d % 2 ^ 32 := by
  obtain ⟨inside, issued, status, -⟩ := CH_BOUND_apart n t w
  obtain ⟨seen, here⟩ := take_set fetched inside issued status CH_BOUND.VALUE (ofBytes d)
  exact ⟨_, loadb_of_read turn aligned read, seen, here, bound_set_same ..⟩

/-! ### BIND (R180) -/

/-- The value that BIND gives to a bound. -/
def State.bindValue (s : State) (n t : Nat) (w : BitVec 128) : Int := (s.bound n t (wf w 11 9) : Int) + signed 32 (wf w 63 32)

theorem bind_of_vref (turn : s.issues n t 0x06 w pc) (vref : nbit w.toNat 20 = true) (low : 0 ≤ s.bindValue n t w)
    (high : s.bindValue n t w < 2 ^ 24) :
    exec (.bind n t) s
      = .next ((s.take n t false).set (FS_VREF1 n t (wf w 14 12)) FS_VREF1.BOUND (s.bindValue n t w).toNat) := by
  have inRange : ¬ (s.bindValue n t w < 0 ∨ ((2 ^ 24 : Nat) : Int) ≤ s.bindValue n t w) := by
    push_cast
    omega
  rw [show exec (.bind n t) s = execBind n t s from rfl, execBind, issue_of_issues turn]
  dsimp only
  rw [if_neg (by simp [vref]), vref]
  exact (if_neg inRange).trans (if_pos rfl)

theorem bind_of_desc (turn : s.issues n t 0x06 w pc) (desc : nbit w.toNat 20 = false) (dim : wf w 19 17 ≤ 4)
    (low : 0 ≤ s.bindValue n t w) (high : s.bindValue n t w < 2 ^ 20) :
    exec (.bind n t) s = .next ((s.take n t false).setDesc n t (wf w 16 12)
      (dWithBound ((s.take n t false).desc n t (wf w 16 12)) (wf w 19 17) (s.bindValue n t w).toNat)) := by
  have inRange : ¬ (s.bindValue n t w < 0 ∨ ((2 ^ 20 : Nat) : Int) ≤ s.bindValue n t w) := by
    push_cast
    omega
  rw [show exec (.bind n t) s = execBind n t s from rfl, execBind, issue_of_issues turn]
  dsimp only
  rw [if_neg (by simp [dim]), desc]
  exact (if_neg inRange).trans (if_neg Bool.false_ne_true)

end control

/-! ### The words of a descriptor (R222) -/

theorem descAddr_inj {n t d i j : Nat} : descAddr n t d i = descAddr n t d j ↔ i = j := by
  unfold descAddr
  omega

theorem descAddr_between (n : Nat) (t : Tag) {d j : Nat} (desc : d < 32) (word : j < 8) :
    chWin n + 0x9000 ≤ descAddr n t d j ∧ descAddr n t d j < chWin n + 0x10000 := by
  unfold descAddr
  omega

/-- A descriptor is made of the eight registers that hold its words. -/
theorem desc_eq (s : State) (n t d : Nat) : s.desc n t d
    = BitVec.ofNat 512 (((List.range 8).map fun j => (s.reg (descAddr n t d j)).toNat).foldr (fun x a => x + 2 ^ 64 * a) 0) := by
  have words : ST_DESC0 n (t * 32 + d) = descAddr n t d 0 ∧ ST_DESC1 n (t * 32 + d) = descAddr n t d 1
      ∧ ST_DESC2 n (t * 32 + d) = descAddr n t d 2 ∧ ST_DESC3 n (t * 32 + d) 0 = descAddr n t d 3
      ∧ ST_DESC3 n (t * 32 + d) 1 = descAddr n t d 4 ∧ ST_DESC3 n (t * 32 + d) 2 = descAddr n t d 5
      ∧ ST_DESC3 n (t * 32 + d) 3 = descAddr n t d 6 ∧ ST_DESC7 n (t * 32 + d) = descAddr n t d 7 := by
    unfold ST_DESC0 ST_DESC1 ST_DESC2 ST_DESC3 ST_DESC7 descAddr
    omega
  obtain ⟨w0, w1, w2, w3, w4, w5, w6, w7⟩ := words
  unfold State.desc
  dsimp only
  rw [w0, w1, w2, w3, w4, w5, w6, w7]
  rfl

theorem desc_congr {s u : State} {n t d : Nat} (same : ∀ j, j < 8 → u.reg (descAddr n t d j) = s.reg (descAddr n t d j)) :
    u.desc n t d = s.desc n t d := by
  have words : (List.range 8).map (fun j => (u.reg (descAddr n t d j)).toNat)
      = (List.range 8).map fun j => (s.reg (descAddr n t d j)).toNat :=
    List.map_congr_left fun j mem => by rw [same j (List.mem_range.1 mem)]
  rw [desc_eq, desc_eq, words]

/-- The word `j` of a descriptor. -/
def descWord (v : BitVec 512) (j : Nat) : Word := BitVec.ofNat 64 (df v (64 * j + 63) (64 * j))

/-- The first `k` words of a descriptor are written. -/
def State.setWords (s : State) (n t d : Nat) (v : BitVec 512) (k : Nat) : State :=
  (List.range k).foldl (fun u j => u.setReg (descAddr n t d j) (descWord v j)) s

theorem setWords_succ (s : State) (n t d : Nat) (v : BitVec 512) (k : Nat) :
    s.setWords n t d v (k + 1) = (s.setWords n t d v k).setReg (descAddr n t d k) (descWord v k) := by
  rw [State.setWords, List.range_succ, List.foldl_append]
  rfl

theorem setWords_reg (s : State) (n t d : Nat) (v : BitVec 512) {j k : Nat} (written : j < k) :
    (s.setWords n t d v k).reg (descAddr n t d j) = descWord v j := by
  induction k with
  | zero => cases written
  | succ k ih =>
    rw [setWords_succ]
    by_cases last : j = k
    · rw [last, State.reg_setReg_same]
    · rw [State.reg_setReg_ne _ _ (fun e => last (descAddr_inj.1 e)), ih (by omega)]

theorem setWords_frame (s : State) (n : Nat) (t : Tag) {d k : Nat} (desc : d < 32) (v : BitVec 512) (words : k ≤ 8) :
    IssueFrame n (chWin n + 0x9000 ≤ ·) s (s.setWords n t d v k) := by
  induction k with
  | zero => exact .refl _ _ s
  | succ k ih =>
    obtain ⟨above, below⟩ := descAddr_between n t desc words
    rw [setWords_succ]
    exact (ih (by omega)).trans ⟨setReg_local _ ⟨by omega, below⟩ _,
      fun a out => State.reg_setReg_ne _ _ (by rintro rfl; exact out above), .refl _⟩

/-- The `k` low words of a number make up its low bits. -/
theorem words_foldr (k V : Nat) :
    ((List.range k).map fun j => V / 2 ^ (64 * j) % 2 ^ 64).foldr (fun x a => x + 2 ^ 64 * a) 0 = V % 2 ^ (64 * k) := by
  induction k generalizing V with
  | zero => simp [Nat.mod_one]
  | succ k ih =>
    have next (j : Nat) : V / 2 ^ (64 * (j + 1)) = V / 2 ^ 64 / 2 ^ (64 * j) := by
      rw [Nat.div_div_eq_div_mul, ← pow_add, Nat.mul_add, Nat.add_comm]
    rw [List.range_succ_eq_map, List.map_cons, List.map_map, List.foldr_cons,
      List.map_congr_left (g := fun j => V / 2 ^ 64 / 2 ^ (64 * j) % 2 ^ 64) fun j _ => by rw [Function.comp, Nat.succ_eq_add_one, next],
      ih, Nat.mul_add, pow_add, Nat.mul_comm (2 ^ (64 * k)), Nat.mod_mul]
    simp

theorem descWord_toNat (v : BitVec 512) (j : Nat) : (descWord v j).toNat = v.toNat / 2 ^ (64 * j) % 2 ^ 64 := by
  rw [descWord, df, bits, show 64 * j + 63 + 1 - 64 * j = 64 by omega, BitVec.toNat_ofNat, Nat.mod_mod]

theorem desc_setDesc (s : State) (n t d : Nat) (v : BitVec 512) : (s.setDesc n t d v).desc n t d = v := by
  have words : (List.range 8).map (fun j => ((s.setDesc n t d v).reg (descAddr n t d j)).toNat)
      = (List.range 8).map fun j => v.toNat / 2 ^ (64 * j) % 2 ^ 64 :=
    List.map_congr_left fun j mem =>
      (congrArg BitVec.toNat (setWords_reg s n t d v (List.mem_range.1 mem))).trans (descWord_toNat v j)
  rw [desc_eq, words, words_foldr, show 64 * 8 = 512 from rfl, Nat.mod_eq_of_lt v.isLt, BitVec.ofNat_toNat, BitVec.setWidth_eq]

/-! ### A descriptor with another bound (R180) -/

/-- Bits of a word that are replaced read as what was put there. -/
theorem replaceBits {m : Nat} (v : BitVec m) {k w x : Nat} (room : k + w ≤ m) (fits : x < 2 ^ w) :
    (BitVec.ofNat m (v.toNat - v.toNat / 2 ^ k % 2 ^ w * 2 ^ k + x * 2 ^ k)).toNat / 2 ^ k % 2 ^ w = x := by
  have small := v.isLt
  generalize v.toNat = D at small ⊢
  have whole : D = D % 2 ^ k + 2 ^ k * (D / 2 ^ k % 2 ^ w + 2 ^ w * (D / 2 ^ k / 2 ^ w)) := by
    rw [Nat.mod_add_div, Nat.mod_add_div]
  have cut : D - D / 2 ^ k % 2 ^ w * 2 ^ k = D % 2 ^ k + 2 ^ k * (2 ^ w * (D / 2 ^ k / 2 ^ w)) :=
    Nat.sub_eq_of_eq_add (whole.trans (by ring))
  have put : D - D / 2 ^ k % 2 ^ w * 2 ^ k + x * 2 ^ k = D % 2 ^ k + 2 ^ k * (x + 2 ^ w * (D / 2 ^ k / 2 ^ w)) := by
    rw [cut]
    ring
  have inLow : D % 2 ^ k < 2 ^ k := Nat.mod_lt _ (by positivity)
  have inside : D % 2 ^ k + 2 ^ k * (x + 2 ^ w * (D / 2 ^ k / 2 ^ w)) < 2 ^ m := by
    obtain ⟨e, rfl⟩ := Nat.exists_eq_add_of_le room
    rw [pow_add, pow_add, Nat.mul_assoc] at small ⊢
    have high : D / 2 ^ k / 2 ^ w < 2 ^ e := Nat.div_lt_of_lt_mul (Nat.div_lt_of_lt_mul small)
    calc D % 2 ^ k + 2 ^ k * (x + 2 ^ w * (D / 2 ^ k / 2 ^ w))
        < 2 ^ k + 2 ^ k * (x + 2 ^ w * (D / 2 ^ k / 2 ^ w)) := Nat.add_lt_add_right inLow _
      _ = 2 ^ k * (x + 1 + 2 ^ w * (D / 2 ^ k / 2 ^ w)) := by ring
      _ ≤ 2 ^ k * (2 ^ w + 2 ^ w * (D / 2 ^ k / 2 ^ w)) := Nat.mul_le_mul_left _ (Nat.add_le_add_right fits _)
      _ = 2 ^ k * (2 ^ w * (D / 2 ^ k / 2 ^ w + 1)) := by ring
      _ ≤ 2 ^ k * (2 ^ w * 2 ^ e) := Nat.mul_le_mul_left _ (Nat.mul_le_mul_left _ high)
  rw [put, BitVec.toNat_ofNat, Nat.mod_eq_of_lt inside, Nat.add_mul_div_left _ _ (by positivity), Nat.div_eq_of_lt inLow,
    Nat.zero_add, Nat.add_mul_mod_self_left, Nat.mod_eq_of_lt fits]

theorem dBound_dWithBound (d : BitVec 512) {i x : Nat} (dim : i ≤ 4) (fits : x < 2 ^ 20) : dBound (dWithBound d i x) i = x := by
  have width : 343 + 40 * i + 1 - (324 + 40 * i) = 20 := by omega
  unfold dBound df bits dWithBound
  unfold dBound df bits
  rw [width]
  exact replaceBits d (by omega) fits

section bind

variable {s : State} {n : Ch} {t : Tag} {w : BitVec 128} {pc : Nat}

theorem take_desc (s : State) (n : Nat) (t : Tag) {d : Nat} (desc : d < 32) (stay : Bool) :
    (s.take n t stay).desc n t d = s.desc n t d := by
  obtain ⟨-, regs, -⟩ := take_frame s n t stay
  refine desc_congr fun j word => regs _ ?_
  obtain ⟨above, -⟩ := descAddr_between n t desc word
  unfold issueRegs CH_ISSUED CH_STATUS CH_TASK CH_TASK_PC
  omega

/-- R180: BIND of a vector reference writes its bound. -/
theorem bind_vref_complete (turn : s.issues n t 0x06 w pc) (vref : nbit w.toNat 20 = true) (low : 0 ≤ s.bindValue n t w)
    (high : s.bindValue n t w < 2 ^ 24) :
    ∃ u, exec (.bind n t) s = .next u ∧ IssueSeen n t s u ∧ PcNext n t pc s u ∧ Local n s u
      ∧ (u.get (FS_VREF1 n t (wf w 14 12)) FS_VREF1.BOUND : Int) = s.bindValue n t w := by
  have apart : InWindow n (FS_VREF1 n t (wf w 14 12)) ∧ CH_ISSUED n ≠ FS_VREF1 n t (wf w 14 12)
      ∧ CH_STATUS n ≠ FS_VREF1 n t (wf w 14 12) ∧ CH_TASK_PC n t ≠ FS_VREF1 n t (wf w 14 12) := by
    have number : wf w 14 12 < 8 := wf_lt w 14 12
    unfold InWindow FS_VREF1 CH_ISSUED CH_STATUS CH_TASK_PC
    omega
  obtain ⟨inside, issued, status, pcReg⟩ := apart
  obtain ⟨seen, here⟩ := take_set (fetched_of_issues turn) inside issued status FS_VREF1.BOUND (s.bindValue n t w).toNat
  refine ⟨_, bind_of_vref turn vref low high, seen, take_set_pcNext turn pcReg _ _, here, ?_⟩
  have width : FS_VREF1.BOUND.w = 24 := rfl
  rw [State.get_set_same _ _ _ _ (by decide), width, Nat.mod_eq_of_lt (by omega), Int.toNat_of_nonneg low]

/-- R180: BIND of a descriptor writes the bound of one dimension. -/
theorem bind_desc_complete (turn : s.issues n t 0x06 w pc) (desc : nbit w.toNat 20 = false) (dim : wf w 19 17 ≤ 4)
    (low : 0 ≤ s.bindValue n t w) (high : s.bindValue n t w < 2 ^ 20) :
    ∃ u, exec (.bind n t) s = .next u ∧ IssueSeen n t s u ∧ PcNext n t pc s u ∧ Local n s u
      ∧ u.desc n t (wf w 16 12) = dWithBound (s.desc n t (wf w 16 12)) (wf w 19 17) (s.bindValue n t w).toNat
      ∧ (dBound (u.desc n t (wf w 16 12)) (wf w 19 17) : Int) = s.bindValue n t w := by
  have number : wf w 16 12 < 32 := wf_lt w 16 12
  have runs := bind_of_desc turn desc dim low high
  rw [take_desc s n t number] at runs
  have frame : IssueFrame n (chWin n + 0x9000 ≤ ·) (s.take n t false) _ := setWords_frame _ n t number
    (dWithBound (s.desc n t (wf w 16 12)) (wf w 19 17) (s.bindValue n t w).toNat) (le_refl 8)
  obtain ⟨seen, here⟩ := take_then_seen (fetched_of_issues turn) frame (by unfold CH_ISSUED; omega) (by unfold CH_STATUS; omega)
  obtain ⟨-, head, -, -⟩ := turn
  refine ⟨_, runs, seen, frame.pcNext (take_pcNext head false) (by unfold CH_TASK_PC; omega), here, desc_setDesc .., ?_⟩
  rw [desc_setDesc, dBound_dWithBound _ dim (by omega), Int.toNat_of_nonneg low]

end bind

/-- Settles O2: each of the seven acts at its turn on what its issue leaves. -/
theorem controlInstructionsComplete : Obligations.ControlInstructionsComplete := by
  unfold Obligations.ControlInstructionsComplete
  intro n t s w pc
  refine ⟨fun turn => ?_, end_complete, fun turn away => ?_, fun turn next => ?_, fun turn => ?_, setb_complete, ?_, fun turn => ?_⟩
  · obtain ⟨seen, here⟩ := take_then_seen (fetched_of_issues turn) (.refl n (fun _ => False) (s.take n t false)) id id
    have runs := nop_of_issues turn
    obtain ⟨-, head, -, -⟩ := turn
    exact ⟨_, runs, seen, take_pcNext head false, here, take_window head false⟩
  · obtain ⟨seen, here, moved, -⟩ := take_redirect turn (jumpTo_lt pc (signed 32 (wf w 63 32)))
    obtain ⟨at_, dropped, fetchPc⟩ := moved away
    exact ⟨_, jump_of_issues turn, seen, here, at_, dropped, fetchPc⟩
  · obtain ⟨seen, here, -, on⟩ := take_redirect turn (jumpTo_lt pc (signed 32 (wf w 63 32)))
    exact ⟨_, jump_of_issues turn, seen, on next, here⟩
  · intro i a
    obtain ⟨seen, here, moved, on⟩ := take_redirect turn (jumpTo_lt pc ((i * wf w 47 32 : Nat) : Int))
    refine ⟨_, bucket_of_issues turn, seen, here, fun away => ?_, on⟩
    obtain ⟨at_, dropped, -⟩ := moved away
    exact ⟨at_, dropped⟩
  · exact fun d p k s' turn aligned read fetched => loadb_complete turn aligned read fetched
  · exact ⟨bind_vref_complete turn, bind_desc_complete turn⟩

end Sys2Proof.Machine
end

section
/-! SUPPORT. Fetches, opcodes outside Table 1 and prefetches that issue ahead of their turn (R168, R169, R178). -/

namespace Sys2Proof.Machine

/-! ### Fetch (R168) -/

/-- A fetched word joins those fetched, and the next fetch is at the next address. -/
def State.appendFetch (s : State) (n t pc : Nat) (w : BitVec 128) : State :=
  s.modTask n t fun k => { k with fetched := k.fetched ++ [⟨pc, some w⟩], fetchPc := (pc + 16) % 2 ^ 48, fetchErr := none }

section fetch

variable {s : State} {n : Ch} {t : Tag}

theorem instructionFetch_of_read {d : List Byte} {p : Bool} {k : Nat} {s' : State} (active : s.live n t = true)
    (room : (s.task n t).fetched.length < 32) (good : ∀ f, (s.task n t).fetched.getLast? = some f → f.word ≠ none)
    (aligned : (s.task n t).fetchPc % 16 = 0) (read : s.consume n t (s.task n t).fetchPc 16 = (.ok d p k, s')) :
    exec (.instructionFetch n t) s
      = .next (passAhead 33 (s'.appendFetch n t (s.task n t).fetchPc (BitVec.ofNat 128 (ofBytes d))) n t) := by
  have may : ¬ (32 ≤ (s.task n t).fetched.length ∨ ((s.task n t).fetched.getLast?.any fun f => f.word.isNone) = true) := by
    rintro (full | failed)
    · omega
    · obtain ⟨f, last, failed⟩ := Option.any_eq_true _ _ |>.1 failed
      exact good f last (Option.isNone_iff_eq_none.1 failed)
  rw [show exec (.instructionFetch n t) s = execInstructionFetch n t s from rfl, execInstructionFetch]
  dsimp only
  rw [if_neg (by simp [active]), if_neg may, if_neg (not_not.2 aligned), read]
  rfl

/-- R168, R178: a fetch appends what it read; of all that is fetched then, those issued ahead at the head are passed over. -/
theorem instructionFetch_complete {d : List Byte} {p : Bool} {k : Nat} {s' : State} (active : s.live n t = true)
    (room : (s.task n t).fetched.length < 32) (good : ∀ f, (s.task n t).fetched.getLast? = some f → f.word ≠ none)
    (aligned : (s.task n t).fetchPc % 16 = 0) (read : s.consume n t (s.task n t).fetchPc 16 = (.ok d p k, s')) :
    ∃ u, exec (.instructionFetch n t) s = .next u ∧ Local n s' u
      ∧ (let l := (s'.task n t).fetched ++ [⟨(s.task n t).fetchPc, some (BitVec.ofNat 128 (ofBytes d))⟩]
         ∃ k, (u.task n t).fetched = l.drop k ∧ ∀ f ∈ l.take k, f.pc ∈ (s'.task n t).doneAhead)
      ∧ (u.task n t).fetchPc = ((s.task n t).fetchPc + 16) % 2 ^ 48 := by
  obtain ⟨j, ahead, next, passed, left⟩ := passAhead_task 33
    (s'.appendFetch n t (s.task n t).fetchPc (BitVec.ofNat 128 (ofBytes d))) n t
  obtain ⟨beside, -, -⟩ := passAhead_frame 33
    (s'.appendFetch n t (s.task n t).fetchPc (BitVec.ofNat 128 (ofBytes d))) n t
  have appended : (s'.appendFetch n t (s.task n t).fetchPc (BitVec.ofNat 128 (ofBytes d))).task n t = _ :=
    State.task_modTask_same ..
  rw [appended] at passed left
  refine ⟨_, instructionFetch_of_read active room good aligned read, (modTask_local s' n t _).trans beside, ⟨j, ?_, passed⟩, ?_⟩
  · rw [left]
  · rw [left]

/-! ### An opcode outside Table 1 (R169, R187) -/

theorem illegalOpcodeIssue_of_unassigned {pc : Nat} {w : BitVec 128} (turn : s.turnOf n t = true)
    (head : (s.task n t).head = some ⟨pc, some w⟩) (outside : assigned w = none) :
    exec (.illegalOpcodeIssue n t) s = .next (s.issueFault n t chIllegalOpcode) := by
  rw [show exec (.illegalOpcodeIssue n t) s = execIllegalOpcodeIssue n t s from rfl, execIllegalOpcodeIssue]
  simp [turn, head, outside]

/-- A fault at the issue of an ACTIVE task's head aborts the task with the head's PC. -/
theorem issueFault_complete {pc : Nat} {w : Option (BitVec 128)} (code : Nat) (active : s.live n t = true)
    (head : (s.task n t).head = some ⟨pc, w⟩) :
    let u := s.issueFault n t code
    Local n s u ∧ u.tstate n t = tAborting ∧ (u.task n t).abortCode = code ∧ (u.task n t).abortPc = pc
      ∧ (u.task n t).window = (s.task n t).window := by
  intro u
  have used : s.inUse n t := .inl (of_decide_eq_true active)
  obtain ⟨inside, aborting, -, noted⟩ := taskFault_complete code (s.task n t).headId used
  have task : u.task n t = { (s.task n t).faulted code (s.task n t).headId s.clk with abortPc := pc } := by
    rw [show u.task n t = _ from State.task_modTask_same .., noted]
    refine (if_pos rfl).trans ?_
    rw [head]
    rfl
  refine ⟨inside.trans (modTask_local _ n t _), aborting, ?_⟩
  rw [task]
  exact ⟨rfl, rfl, rfl⟩

/-! ### A prefetch ahead of its turn (R178) -/

theorem setTask_eng (s : State) (n t : Nat) (k : Task) (e : Nat) : (s.setTask n t k).eng n e = s.eng n e := by
  rw [State.eng, State.setTask, State.ch_modCh_same, State.eng]

/-- An issue leaves the engines. -/
theorem IssueFrame.eng {n : Nat} {p : Nat → Prop} {s u : State} (h : IssueFrame n p s u) (e : Nat) : u.eng n e = s.eng n e := by
  obtain ⟨-, -, k, l, i, chamber⟩ := h
  rw [State.eng, chamber, State.eng]

/-- The start that a prefetch marked PRIV puts into its engine's queue (R178, R226). -/
def prefetchStart (t id : Nat) (w : BitVec 128) : Start :=
  { kind := if wf w 15 14 < 2 then .copyRead else if wf w 15 14 = 2 then .fill else .receive
    id := id, tag := t, desc := wf w 13 9, priv := true }

/-- The prefetch `w` at `pc`, `i` places behind the head, is in the window, noted as issued ahead, and waits at its engine. -/
def State.prefetchQueued (s : State) (n t pc : Nat) (w : BitVec 128) (i : Nat) : State :=
  (s.setTask n t { s.task n t with
    window := (s.task n t).window ++ [⟨(s.task n t).nextId + i, pc, w⟩], doneAhead := (s.task n t).doneAhead ++ [pc] }).queueStart n
    (wf w 15 14) (prefetchStart t ((s.task n t).nextId + i) w)

theorem prefetchQueued_get (pc : Nat) (w : BitVec 128) (i a : Nat) (f : Fld) :
    (s.prefetchQueued n t pc w i).get a f = s.get a f := rfl

theorem privilegedPrefetchIssue_of_prefetch {pc i : Nat} {w : BitVec 128} (prefetch : (s.task n t).prefetch = some (pc, w, i))
    (active : s.live n t = true) (released : s.get (CH_CTRL n) CH_CTRL.HOLD = 0) (room : (s.task n t).window.length < 16)
    (queue : s.room n t w = true) :
    exec (.privilegedPrefetchIssue n t) s = .next (passAhead 33 ((s.prefetchQueued n t pc w i).countIssue n t) n t) := by
  rw [show exec (.privilegedPrefetchIssue n t) s = execPrivilegedPrefetchIssue n t s from rfl, execPrivilegedPrefetchIssue]
  dsimp only
  rw [prefetch]
  exact if_neg (by simp [active, released, room, queue])

theorem privilegedPrefetchIssue_complete {pc i : Nat} {w : BitVec 128} (prefetch : (s.task n t).prefetch = some (pc, w, i))
    (active : s.live n t = true) (released : s.get (CH_CTRL n) CH_CTRL.HOLD = 0) (room : (s.task n t).window.length < 16)
    (queue : s.room n t w = true) :
    ∃ u, exec (.privilegedPrefetchIssue n t) s = .next u ∧ IssueSeen n t s u ∧ Local n s u
      ∧ (u.eng n (wf w 15 14)).queue
        = (s.eng n (wf w 15 14)).queue ++ [prefetchStart t ((s.task n t).nextId + i) w] := by
  have queued : Local n s (s.prefetchQueued n t pc w i) := by
    unfold State.prefetchQueued
    exact (setTask_local s n t _).trans (queueStart_local _ n _ _)
  obtain ⟨issued, last⟩ := countIssue_seen (s.prefetchQueued n t pc w i) n t
  rw [prefetchQueued_get] at issued
  have counted : IssueSeen n t s ((s.prefetchQueued n t pc w i).countIssue n t) := ⟨issued, last⟩
  have count := countIssue_frame (s.prefetchQueued n t pc w i) n t
  have pass := passAhead_frame 33 ((s.prefetchQueued n t pc w i).countIssue n t) n t
  refine ⟨_, privilegedPrefetchIssue_of_prefetch prefetch active released room queue,
    pass.seen counted (by unfold CH_ISSUED CH_TASK_PC; omega) (by unfold CH_STATUS CH_TASK_PC; omega), ?_, ?_⟩
  · obtain ⟨inside, -, -⟩ := count
    obtain ⟨beside, -, -⟩ := pass
    exact (queued.trans inside).trans beside
  · rw [pass.eng, count.eng, State.prefetchQueued, queue_queueStart, if_pos rfl, setTask_eng]

end fetch

/-- Settles O3: a fetch appends what it read and passes over what is issued, an opcode outside Table 1 is a fault at its issue, and a
prefetch marked PRIV queues its start. -/
theorem fetchAndIllegalOpcodeComplete : Obligations.FetchAndIllegalOpcodeComplete := by
  unfold Obligations.FetchAndIllegalOpcodeComplete
  intro n t s
  refine ⟨fun d p k s' active room good aligned read => instructionFetch_complete active room good aligned read,
    fun pc w turn head outside => ?_, fun pc w i prefetch active released room queue => ?_⟩
  · exact ⟨_, illegalOpcodeIssue_of_unassigned turn head outside, issueFault_complete chIllegalOpcode (live_of_turnOf turn) head⟩
  · obtain ⟨u, runs, seen, inside, queued⟩ := privilegedPrefetchIssue_complete prefetch active released room queue
    exact ⟨u, _, runs, seen, inside, queued, rfl, rfl, rfl, rfl, rfl⟩

end Sys2Proof.Machine
end

section
/-! SUPPORT. FENCE, BARRIER and WAITW, their re-reads and the WAITW timeout (R175 to R177). -/

namespace Sys2Proof.Machine

/-- A change in a chamber leaves the timebase, whose registers lie in no chamber's window. -/
theorem Local.now {n : Ch} {s u : State} (h : Local n s u) : u.now = s.now := by
  have outside : ¬ InWindow n TB_TIME := by
    have := n.isLt
    unfold InWindow chWin TB_TIME y4xWin
    omega
  obtain ⟨-, regs, -⟩ := h
  rw [State.now, regs _ outside, State.now]

section sync

variable {s : State} {n : Ch} {t : Tag} {w : BitVec 128} {pc : Nat}

/-! ### FENCE (R175) -/

/-- A FENCE that has issued and waits. -/
def State.fenceIssued (s : State) (n t : Nat) : State :=
  (s.take n t true).modTask n t fun k => { k with wait := .fence (s.task n t).nextId }

theorem fence_of_issues (turn : s.issues n t 0x10 w pc) : exec (.fence n t) s = .next ((s.fenceIssued n t).settle n t) := by
  rw [show exec (.fence n t) s = execFence n t s from rfl, execFence, issue_of_issues turn]
  rfl

/-- R175: a FENCE with nothing before it passes; one behind an instruction of its classes waits. -/
theorem fence_complete (turn : s.issues n t 0x10 w pc) :
    ∃ u, exec (.fence n t) s = .next u ∧ IssueSeen n t s u ∧ PcNext n t pc s u ∧ Local n s u
      ∧ ((s.task n t).window = [] → (u.task n t).wait = .none ∧ (u.task n t).window = [])
      ∧ ((∃ i ∈ (s.task n t).window, i.id < (s.task n t).nextId ∧ opcode i.word ≠ 0x21
            ∧ fenceNames (wf w 16 9) (opcode i.word / 16) = true) →
          (∀ i ∈ (s.task n t).window, i.id < (s.task n t).nextId) →
          (u.task n t).wait = .fence (s.task n t).nextId) := by
  have runs := fence_of_issues turn
  have seen : IssueSeen n t s (s.fenceIssued n t) := take_seen (fetched_of_issues turn) true
  obtain ⟨-, head, code, -⟩ := turn
  have moved : PcNext n t pc s (s.fenceIssued n t) := take_pcNext head true
  obtain ⟨inside, -, -⟩ := take_frame s n t true
  have settles := settle_frame (s.fenceIssued n t) n t
  have waits : ((s.fenceIssued n t).task n t).wait = .fence (s.task n t).nextId := by
    rw [State.fenceIssued, State.task_modTask_same]
  have window : ((s.fenceIssued n t).task n t).window = (s.task n t).window ++ [⟨(s.task n t).nextId, pc, w⟩] := by
    rw [State.fenceIssued, State.task_modTask_same]
    exact take_window head true
  refine ⟨_, runs, seen.settle, settles.pcNext moved ?_, ?_, fun alone => ?_, fun ⟨i, mem, before, notSwait, named⟩ all => ?_⟩
  · unfold endRegs CH_TASK_PC CH_TASK CH_STATUS CH_CMD_STATUS
    omega
  · obtain ⟨beside, -, -⟩ := settles
    exact (inside.trans (modTask_local _ n t _)).trans beside
  · rw [settle_task]
    refine waitEnds_of_fence_alone waits fun i mem => ?_
    rw [window, alone, List.nil_append, List.mem_singleton] at mem
    rw [mem]
  · rw [settle_task]
    exact waitEnds_of_fence_behind waits window rfl (fun j here => Nat.ne_of_lt (all j here)) (by rw [code]; decide) mem before
      notSwait named

/-! ### An instruction that reads at its issue passes or waits (R176, R177) -/

/-- The head has issued, and its task waits for `x`. -/
def State.issueWaiting (s : State) (n t : Nat) (x : Wait) : State := (s.take n t true).modTask n t fun k => { k with wait := x }

theorem issueWaiting_complete (fetched : (s.task n t).fetched ≠ []) (x : Wait) :
    IssueSeen n t s (s.issueWaiting n t x) ∧ Local n s (s.issueWaiting n t x) ∧ ((s.issueWaiting n t x).task n t).wait = x := by
  obtain ⟨inside, -, -⟩ := take_frame s n t true
  refine ⟨take_seen fetched true, inside.trans (modTask_local _ n t _), ?_⟩
  rw [State.issueWaiting, State.task_modTask_same]

theorem issuePassed_complete (fetched : (s.task n t).fetched ≠ []) (id : Nat) :
    IssueSeen n t s ((s.take n t true).complete n t id) ∧ Local n s ((s.take n t true).complete n t id)
      ∧ ∀ i ∈ (((s.take n t true).complete n t id).task n t).window, i.id ≠ id := by
  obtain ⟨inside, -, -⟩ := take_frame s n t true
  obtain ⟨beside, -, -⟩ := complete_frame (s.take n t true) n t id
  exact ⟨(take_seen fetched true).complete id, inside.trans beside, complete_window _ n t id⟩

/-- What an instruction leaves that passes at its issue where `v` is reached and else waits for `x`. -/
theorem passOrWait {v r : Nat} {e : Out} {x : Wait} (fetched : (s.task n t).fetched ≠ [])
    (runs : e = if v ≤ r then .next ((s.take n t true).complete n t (s.task n t).nextId) else .next (s.issueWaiting n t x)) :
    ∃ u, e = .next u ∧ IssueSeen n t s u ∧ Local n s u
      ∧ (v ≤ r → ∀ i ∈ (u.task n t).window, i.id ≠ (s.task n t).nextId)
      ∧ (r < v → (u.task n t).wait = x) := by
  by_cases reached : v ≤ r
  · obtain ⟨seen, inside, gone⟩ := issuePassed_complete fetched (s.task n t).nextId
    exact ⟨_, runs.trans (if_pos reached), seen, inside, fun _ => gone, fun short => absurd reached (Nat.not_le.2 short)⟩
  · obtain ⟨seen, inside, waits⟩ := issueWaiting_complete fetched x
    exact ⟨_, runs.trans (if_neg reached), seen, inside, fun h => absurd h reached, fun _ => waits⟩

/-! ### BARRIER (R176) -/

theorem barrier_of_added {d : List Byte} {p : Bool} {k : Nat} {s' : State} (turn : s.issues n t 0x11 w pc) (count : wf w 31 16 ≠ 0)
    (added : s.barrierAdd n t (s.get (CH_BAR_BASE n) CH_BAR_BASE.BASE * 64 + 64 * wf w 15 9) = (.ok d p k, s')) :
    exec (.barrier n t) s
      = if (ofBytes d / wf w 31 16 + 1) * wf w 31 16 ≤ ofBytes d + 1 then
          .next ((s'.take n t true).complete n t (s'.task n t).nextId)
        else .next (s'.issueWaiting n t (.barrier (s'.task n t).nextId
          (s.get (CH_BAR_BASE n) CH_BAR_BASE.BASE * 64 + 64 * wf w 15 9) ((ofBytes d / wf w 31 16 + 1) * wf w 31 16))) := by
  rw [show exec (.barrier n t) s = execBarrier n t s from rfl, execBarrier, issue_of_issues turn]
  dsimp only
  rw [if_neg count, added]
  rfl

/-! ### WAITW (R177) -/

/-- The value that a WAITW waits for. -/
def State.waitwValue (s : State) (n t : Nat) (w : BitVec 128) : Nat :=
  if nbit w.toNat 112 then s.bound n t (wf w 115 113) else wf w 111 80

theorem waitw_of_read {d : List Byte} {p : Bool} {k : Nat} {s' : State} (turn : s.issues n t 0x12 w pc)
    (aligned : wf w 63 16 % 8 = 0) (read : s.consume n t (wf w 63 16) 8 = (.ok d p k, s')) :
    exec (.waitw n t) s
      = if s.waitwValue n t w ≤ ofBytes d then .next ((s'.take n t true).complete n t (s'.task n t).nextId)
        else .next (s'.issueWaiting n t
          (.waitw (s'.task n t).nextId (wf w 63 16) (s.waitwValue n t w) s'.now (wf w 124 120))) := by
  obtain ⟨inside, -, -⟩ := take_frame s' n t true
  rw [show exec (.waitw n t) s = execWaitw n t s from rfl, execWaitw, issue_of_issues turn]
  dsimp only
  rw [if_neg (not_not.2 aligned), read, ← inside.now]
  rfl

/-! ### The re-reads (R176, R177) -/

/-- An instruction whose wait is over is not in its task's window, and the task waits no more. -/
theorem waitOver_complete (s : State) (n : Nat) (t : Tag) (id : Nat) : Local n s (s.waitOver n t id)
    ∧ ((s.waitOver n t id).task n t).wait = .none ∧ ∀ i ∈ ((s.waitOver n t id).task n t).window, i.id ≠ id := by
  obtain ⟨inside, -, -⟩ := complete_frame (s.modTask n t fun k => { k with wait := .none }) n t id
  refine ⟨(modTask_local s n t _).trans inside, ?_, complete_window _ n t id⟩
  rw [State.waitOver, State.complete, settle_task]
  refine waitEnds_of_none ?_
  rw [State.showWindow_task_, State.task_modTask_same, State.task_modTask_same]

section reread

variable {d : List Byte} {p : Bool} {k id va v since tmo : Nat} {s' : State}

theorem barrierReread_of_read (waits : (s.task n t).wait = .barrier id va v) (active : s.live n t = true)
    (read : s.consume n t va 8 = (.ok d p k, s')) :
    exec (.barrierReread n t) s = if v ≤ ofBytes d then .next (s'.waitOver n t id) else .next s' := by
  rw [show exec (.barrierReread n t) s = execBarrierReread n t s from rfl, execBarrierReread, waits]
  dsimp only
  rw [if_neg (by simp [active]), read]

theorem waitwReread_of_read (waits : (s.task n t).wait = .waitw id va v since tmo) (active : s.live n t = true)
    (read : s.consume n t va 8 = (.ok d p k, s')) :
    exec (.waitwReread n t) s = if v ≤ ofBytes d then .next (s'.waitOver n t id) else .next s' := by
  rw [show exec (.waitwReread n t) s = execWaitwReread n t s from rfl, execWaitwReread, waits]
  dsimp only
  rw [if_neg (by simp [active]), read]

/-- A re-read ends the wait where the value is reached, and else leaves what the read did. -/
theorem reread_complete {i : Instr} {r : Nat} (runs : exec i s = if v ≤ r then .next (s'.waitOver n t id) else .next s') :
    (v ≤ r → ∃ u, exec i s = .next u ∧ Local n s' u ∧ (u.task n t).wait = .none ∧ ∀ j ∈ (u.task n t).window, j.id ≠ id)
      ∧ (r < v → exec i s = .next s') :=
  ⟨fun reached => ⟨_, runs.trans (if_pos reached), waitOver_complete s' n t id⟩,
    fun short => runs.trans (if_neg (Nat.not_le.2 short))⟩

/-! ### The timeout of a WAITW (R177) -/

theorem chWaitTimeout_of_late (waits : (s.task n t).wait = .waitw id va v since tmo) (active : s.live n t = true) (limit : tmo ≠ 0)
    (late : microTicks tmo ≤ s.now - since) : exec (.chWaitTimeout n t) s = .next (s.taskFault n t chWaitTimeout id) := by
  rw [show exec (.chWaitTimeout n t) s = execChWaitTimeout n t s from rfl, execChWaitTimeout, waits]
  exact if_neg (by simp [active, limit, late])

theorem chWaitTimeout_complete (waits : (s.task n t).wait = .waitw id va v since tmo) (active : s.live n t = true) (limit : tmo ≠ 0)
    (late : microTicks tmo ≤ s.now - since) :
    ∃ u, exec (.chWaitTimeout n t) s = .next u ∧ Local n s u ∧ u.tstate n t = tAborting
      ∧ (u.task n t).abortCode = chWaitTimeout ∧ (u.task n t).abortId = id := by
  obtain ⟨inside, aborting, -, noted⟩ := taskFault_complete chWaitTimeout id (.inl (of_decide_eq_true active))
  refine ⟨_, chWaitTimeout_of_late waits active limit late, inside, aborting, ?_⟩
  rw [noted]
  exact ⟨rfl, rfl⟩

end reread

end sync

/-- Settles O4: a FENCE waits for its classes, a BARRIER and a WAITW for a value, which they and their re-reads compare with what they
read, and a WAITW for its time at most. -/
theorem syncInstructionsComplete : Obligations.SyncInstructionsComplete := by
  unfold Obligations.SyncInstructionsComplete
  intro n t s w pc
  refine ⟨fence_complete, fun d p k s' turn count => ?_, fun id va v d p k s' waits active read => ?_,
    fun d p k s' turn aligned read fetched => ?_, fun id va v since tmo d p k s' waits active read => ?_,
    fun id va v since tmo waits active limit late => chWaitTimeout_complete waits active limit late⟩
  · intro va added fetched target
    obtain ⟨u, runs, seen, inside, passes, waits⟩ := passOrWait fetched (barrier_of_added turn count added)
    exact ⟨u, runs, seen, inside, passes, waits⟩
  · exact reread_complete (barrierReread_of_read waits active read)
  · exact passOrWait fetched (waitw_of_read turn aligned read)
  · exact reread_complete (waitwReread_of_read waits active read)

end Sys2Proof.Machine
end

section
/-! SUPPORT. Code T2 (R206, R207) over a field: the bytes of GF(2⁸) as sums of powers of a root β of the code's polynomial in the algebraic
closure of the field of two elements. There a codeword is a polynomial with the roots β⁰ to β³, and errors in at most two bytes are told
apart by their four power sums, a Vandermonde system. -/

namespace Sys2Proof.Machine

/-! ### Bytes in the field (R206) -/

/-- The algebraic closure of the field of two elements. -/
abbrev Gf : Type := AlgebraicClosure (ZMod 2)

theorem exists_gfRoot : ∃ x : Gf, x ^ 8 + x ^ 4 + x ^ 3 + x ^ 2 + 1 = 0 := by
  open Polynomial in
  obtain ⟨x, hx⟩ := IsAlgClosed.exists_root (X ^ 8 + X ^ 4 + X ^ 3 + X ^ 2 + 1 : Gf[X]) (by
    rw [show (X ^ 8 + X ^ 4 + X ^ 3 + X ^ 2 + 1 : Gf[X]).degree = 8 by compute_degree!]
    decide)
  exact ⟨x, by simpa [IsRoot] using hx⟩

/-- α of R206: a root of the polynomial 0x11D. -/
noncomputable def gfRoot : Gf := exists_gfRoot.choose

theorem gfRoot_spec : gfRoot ^ 8 + gfRoot ^ 4 + gfRoot ^ 3 + gfRoot ^ 2 + 1 = 0 := exists_gfRoot.choose_spec

theorem gf_add_self (x : Gf) : x + x = 0 := CharTwo.add_self_eq_zero x

/-- What a bit of weight `i` stands for. -/
noncomputable def gfBit (b : Bool) (i : Nat) : Gf := if b then gfRoot ^ i else 0

theorem gfBit_xor (b c : Bool) (i : Nat) : gfBit (b ^^ c) i = gfBit b i + gfBit c i := by
  cases b <;> cases c <;> simp [gfBit, gf_add_self]

/-- The sum of powers of α that the low `k` bits of a number stand for. -/
noncomputable def gfSum (k a : Nat) : Gf := ∑ i ∈ Finset.range k, gfBit (a.testBit i) i

/-- What a number below 512 stands for: a byte, or the code's polynomial. -/
noncomputable def gfVal (a : Nat) : Gf := gfSum 9 a

@[simp] theorem gfVal_zero : gfVal 0 = 0 := by simp [gfVal, gfSum, gfBit]

@[simp] theorem gfVal_one : gfVal 1 = 1 := by
  simp [gfVal, gfSum, Finset.sum_range_succ, gfBit, Nat.testBit]

theorem gfVal_xor (a b : Nat) : gfVal (a ^^^ b) = gfVal a + gfVal b := by
  simp only [gfVal, gfSum, Nat.testBit_xor, gfBit_xor, Finset.sum_add_distrib]

theorem gfVal_xor_byte (a b : Byte) : gfVal (a ^^^ b).toNat = gfVal a.toNat + gfVal b.toNat := by
  rw [BitVec.toNat_xor, gfVal_xor]

/-- A number's lowest bit, and its other bits one power higher. -/
theorem gfSum_succ (k a : Nat) : gfSum (k + 1) a = gfBit (a.testBit 0) 0 + gfRoot * gfSum k (a / 2) := by
  have up (b : Bool) (i : Nat) : gfBit b (i + 1) = gfRoot * gfBit b i := by
    cases b
    · simp [gfBit]
    · simp [gfBit, pow_succ']
  simp only [gfSum, Finset.sum_range_succ', Nat.testBit_add_one, up, Finset.mul_sum, add_comm]

/-- A byte has no ninth bit. -/
theorem gfVal_of_lt {a : Nat} (h : a < 256) : gfVal a = gfSum 8 a := by
  have top : a.testBit 8 = false := Nat.testBit_lt_two_pow h
  rw [gfVal, gfSum, Finset.sum_range_succ, top]
  exact add_zero _

theorem gfVal_two_mul {a : Nat} (h : a < 256) : gfVal (2 * a) = gfRoot * gfVal a := by
  rw [gfVal, gfSum_succ, gfVal_of_lt h, Nat.mul_div_cancel_left a two_pos]
  simp [gfBit, Nat.testBit]

theorem gfVal_polynomial : gfVal 0x11D = 0 := by
  rw [← gfRoot_spec]
  simp [gfVal, gfSum, Finset.sum_range_succ, gfBit, Nat.testBit]
  ring

theorem gfDouble_lt {a : Nat} (h : a < 256) : gfDouble a < 256 := by
  have all : ∀ a < 256, gfDouble a < 256 := by decide +kernel
  exact all a h

theorem gfVal_gfDouble {a : Nat} (h : a < 256) : gfVal (gfDouble a) = gfRoot * gfVal a := by
  unfold gfDouble
  split
  · exact gfVal_two_mul h
  · rw [gfVal_xor, gfVal_polynomial, add_zero, gfVal_two_mul h]

/-! ### Products, powers and inverses -/

theorem gfMulAux_lt (k : Nat) {a : Nat} (h : a < 256) (b : Nat) : gfMulAux k a b < 256 := by
  induction k generalizing a b with
  | zero => simp [gfMulAux]
  | succ k ih =>
    refine Nat.xor_lt_two_pow (n := 8) ?_ (ih (gfDouble_lt h) _)
    split <;> omega

theorem gfMul_lt {a : Nat} (h : a < 256) (b : Nat) : gfMul a b < 256 := gfMulAux_lt 8 h b

theorem gfVal_gfMulAux (k : Nat) {a : Nat} (h : a < 256) (b : Nat) : gfVal (gfMulAux k a b) = gfVal a * gfSum k b := by
  induction k generalizing a b with
  | zero => simp [gfMulAux, gfSum]
  | succ k ih =>
    have low : gfVal (if b % 2 = 1 then a else 0) = gfVal a * gfBit (b.testBit 0) 0 := by
      by_cases odd : b % 2 = 1 <;> simp [odd, gfBit]
    rw [gfMulAux, gfVal_xor, ih (gfDouble_lt h), gfVal_gfDouble h, gfSum_succ, low]
    ring

theorem gfVal_gfMul {a b : Nat} (ha : a < 256) (hb : b < 256) : gfVal (gfMul a b) = gfVal a * gfVal b := by
  rw [gfMul, gfVal_gfMulAux 8 ha, gfVal_of_lt hb]

theorem gfPow_lt (k : Nat) : gfPow k < 256 := by
  induction k with
  | zero => decide
  | succ k ih => exact gfDouble_lt ih

theorem gfVal_gfPow (k : Nat) : gfVal (gfPow k) = gfRoot ^ k := by
  induction k with
  | zero => simp [gfPow]
  | succ k ih => rw [gfPow, gfVal_gfDouble (gfPow_lt k), ih, pow_succ']

theorem gfInv_spec : ∀ a < 256, a ≠ 0 → gfInv a < 256 ∧ gfMul a (gfInv a) = 1 := by decide +kernel

theorem gfVal_mul_gfInv {a : Nat} (h : a < 256) (ne : a ≠ 0) : gfVal a * gfVal (gfInv a) = 1 := by
  obtain ⟨lt, inv⟩ := gfInv_spec a h ne
  rw [← gfVal_gfMul h lt, inv, gfVal_one]

theorem gfVal_eq_zero {a : Nat} (h : a < 256) : gfVal a = 0 ↔ a = 0 := by
  refine ⟨fun z => ?_, fun z => z ▸ gfVal_zero⟩
  by_contra ne
  simpa [z] using gfVal_mul_gfInv h ne

theorem gfVal_inj {a b : Nat} (ha : a < 256) (hb : b < 256) : gfVal a = gfVal b ↔ a = b := by
  refine ⟨fun e => ?_, fun e => e ▸ rfl⟩
  have z : gfVal (a ^^^ b) = 0 := by rw [gfVal_xor, e, gf_add_self]
  exact Nat.xor_eq_zero_iff.1 ((gfVal_eq_zero (Nat.xor_lt_two_pow (n := 8) ha hb)).1 z)

/-! ### Syndromes (R206, R207) -/

/-- The value of a byte string as a polynomial, its first byte the highest coefficient. -/
noncomputable def gfEval (x : Gf) : List Byte → Gf
  | [] => 0
  | b :: r => gfVal b.toNat * x ^ r.length + gfEval x r

theorem gfEval_append (x : Gf) (l r : List Byte) : gfEval x (l ++ r) = gfEval x l * x ^ r.length + gfEval x r := by
  induction l with
  | nil => simp [gfEval]
  | cons b l ih =>
    simp only [List.cons_append, gfEval, ih, List.length_append, pow_add]
    ring

/-- A change of one byte adds its power of `x`. -/
theorem gfEval_xorAt (x : Gf) {l : List Byte} {i : Nat} (h : i < l.length) (b : Byte) :
    gfEval x (xorAt l i b) = gfEval x l + gfVal b.toNat * x ^ (l.length - 1 - i) := by
  induction l generalizing i with
  | nil => simp at h
  | cons a l ih =>
    cases i with
    | zero =>
      simp only [xorAt, List.modify_zero_cons, gfEval, gfVal_xor_byte, List.length_cons]
      simp only [Nat.add_sub_cancel, Nat.sub_zero]
      ring
    | succ i =>
      have lt : i < l.length := by simpa using h
      have deeper := ih lt
      simp only [xorAt] at deeper
      simp only [xorAt, List.modify_succ_cons, gfEval, deeper, List.length_modify, List.length_cons]
      rw [show l.length + 1 - 1 - (i + 1) = l.length - 1 - i by omega, add_assoc]

theorem xor_byte_lt {a : Nat} (h : a < 256) (b : Byte) : a ^^^ b.toNat < 256 := Nat.xor_lt_two_pow (n := 8) h b.isLt

/-- Horner's rule from a value already gathered. -/
theorem t2Horner_spec (j : Nat) (l : List Byte) {a : Nat} (h : a < 256) :
    let v := l.foldl (fun a b => gfMul a (gfPow j) ^^^ b.toNat) a
    v < 256 ∧ gfVal v = gfVal a * (gfRoot ^ j) ^ l.length + gfEval (gfRoot ^ j) l := by
  induction l generalizing a with
  | nil => simpa [gfEval] using h
  | cons b l ih =>
    obtain ⟨lt, val⟩ := ih (xor_byte_lt (gfMul_lt h (gfPow j)) b)
    refine ⟨lt, val.trans ?_⟩
    rw [gfVal_xor, gfVal_gfMul h (gfPow_lt j), gfVal_gfPow, gfEval, List.length_cons, pow_succ]
    ring

theorem t2Syn_lt (cw : List Byte) (j : Nat) : t2Syn cw j < 256 := (t2Horner_spec j cw (by decide)).1

theorem gfVal_t2Syn (cw : List Byte) (j : Nat) : gfVal (t2Syn cw j) = gfEval (gfRoot ^ j) cw := by
  simpa [t2Syn] using (t2Horner_spec j cw (a := 0) (by decide)).2

/-! ### The check bytes (R206) -/

/-- The check bytes after one more data byte. -/
def t2CheckStep (c : List Byte) (b : Byte) : List Byte :=
  let k := (c.headD 0 ^^^ b).toNat
  let m (g : Nat) : Byte := BitVec.ofNat 8 (gfMul k g)
  [c.getD 1 0 ^^^ m 0x0F, c.getD 2 0 ^^^ m 0x36, c.getD 3 0 ^^^ m 0x78, m 0x40]

theorem t2Check_append (l : List Byte) (b : Byte) : t2Check (l ++ [b]) = t2CheckStep (t2Check l) b := by
  rw [t2Check, List.foldl_append]
  rfl

theorem t2Check_length (data : List Byte) : (t2Check data).length = 4 := by
  induction data using List.reverseRecOn with
  | nil => rfl
  | append_singleton l b _ => rw [t2Check_append]; rfl

/-- α⁰ to α³ are the roots of the generator polynomial. -/
theorem t2Generator_root {j : Nat} (h : j < 4) : let x := gfRoot ^ j
    x ^ 4 + gfVal 0x0F * x ^ 3 + gfVal 0x36 * x ^ 2 + gfVal 0x78 * x + gfVal 0x40 = 0 := by
  have zero : ∀ j < 4, gfPow (j * 4) ^^^ gfMul 0x0F (gfPow (j * 3)) ^^^ gfMul 0x36 (gfPow (j * 2)) ^^^ gfMul 0x78 (gfPow j) ^^^ 0x40 = 0 := by
    decide
  have val := congrArg gfVal (zero j h)
  simpa only [gfVal_xor, gfVal_gfMul (a := 0x0F) (by decide) (gfPow_lt _), gfVal_gfMul (a := 0x36) (by decide) (gfPow_lt _),
    gfVal_gfMul (a := 0x78) (by decide) (gfPow_lt _), gfVal_gfPow, pow_mul, gfVal_zero] using val

theorem gfVal_byte_gfMul (k : Byte) {g : Nat} (h : g < 256) :
    gfVal (BitVec.ofNat 8 (gfMul k.toNat g)).toNat = gfVal k.toNat * gfVal g := by
  rw [BitVec.toNat_ofNat, Nat.mod_eq_of_lt (gfMul_lt k.isLt g), gfVal_gfMul k.isLt h]

/-- What a data byte more does to the value of the codeword: it stays 0 where the generator is 0. -/
theorem gfEval_t2CheckStep (x : Gf) (v : Gf) (c0 c1 c2 c3 b : Byte)
    (root : x ^ 4 + gfVal 0x0F * x ^ 3 + gfVal 0x36 * x ^ 2 + gfVal 0x78 * x + gfVal 0x40 = 0)
    (zero : v * x ^ 4 + gfEval x [c0, c1, c2, c3] = 0) :
    (v * x + gfVal b.toNat) * x ^ 4 + gfEval x (t2CheckStep [c0, c1, c2, c3] b) = 0 := by
  simp only [t2CheckStep, gfEval, List.length_cons, List.length_nil, List.headD_cons, List.getD_cons_succ, List.getD_cons_zero,
    gfVal_xor_byte, gfVal_byte_gfMul _ (show 0x0F < 256 by decide), gfVal_byte_gfMul _ (show 0x36 < 256 by decide),
    gfVal_byte_gfMul _ (show 0x78 < 256 by decide), gfVal_byte_gfMul _ (show 0x40 < 256 by decide)] at zero ⊢
  have two : (2 : Gf) = 0 := CharTwo.two_eq_zero
  linear_combination x * zero + (gfVal c0.toNat + gfVal b.toNat) * root - gfVal c0.toNat * x ^ 4 * two

theorem gfEval_t2Check {j : Nat} (h : j < 4) (data : List Byte) : gfEval (gfRoot ^ j) (data ++ t2Check data) = 0 := by
  induction data using List.reverseRecOn with
  | nil => simp [t2Check, gfEval]
  | append_singleton l b ih =>
    obtain ⟨c0, c1, c2, c3, c⟩ : ∃ c0 c1 c2 c3, t2Check l = [c0, c1, c2, c3] := by
      match t2Check l, t2Check_length l with
      | [c0, c1, c2, c3], _ => exact ⟨c0, c1, c2, c3, rfl⟩
    rw [gfEval_append, t2Check_length] at ih ⊢
    rw [t2Check_append, gfEval_append]
    rw [c] at ih ⊢
    simpa [gfEval] using gfEval_t2CheckStep _ _ c0 c1 c2 c3 b (t2Generator_root h) ih

theorem t2Syn_t2Check {j : Nat} (h : j < 4) (data : List Byte) : t2Syn (data ++ t2Check data) j = 0 := by
  rw [← gfVal_eq_zero (t2Syn_lt _ j), gfVal_t2Syn, gfEval_t2Check h]

theorem t2Decode_t2Check (data : List Byte) : t2Decode (data ++ t2Check data) = .good :=
  if_pos ⟨t2Syn_t2Check (by decide) data, t2Syn_t2Check (by decide) data, t2Syn_t2Check (by decide) data,
    t2Syn_t2Check (by decide) data⟩

/-- Settles O55: the check bytes leave the remainder of the data by the generator polynomial, byte after byte, so every syndrome is 0. -/
theorem writtenCodewordsReadGood : Obligations.WrittenCodewordsReadGood :=
  fun data _ => ⟨t2Check_length data, t2Decode_t2Check data⟩

/-! ### Errors and their power sums (R207) -/

/-- The errors of a list of positions and values, as coefficients over the positions. -/
noncomputable def t2Errors (l : List (Nat × Nat)) : Nat →₀ Gf := (l.map fun e => Finsupp.single e.1 (gfVal e.2)).sum

theorem t2Errors_support (l : List (Nat × Nat)) : (t2Errors l).support ⊆ (l.map Prod.fst).toFinset := by
  induction l with
  | nil => simp [t2Errors]
  | cons e l ih =>
    intro p hp
    simp only [List.map_cons, List.toFinset_cons, Finset.mem_insert]
    rcases Finset.mem_union.1 (Finsupp.support_add (g₁ := Finsupp.single e.1 (gfVal e.2)) (g₂ := t2Errors l) hp) with here | there
    · exact .inl (Finset.mem_singleton.1 (Finsupp.support_single_subset here))
    · exact .inr (ih there)

/-- The power of α at a position of the codeword. -/
noncomputable def t2At (p : Nat) : Gf := gfRoot ^ (35 - p)

/-- The `k`th power sum of errors over positions. -/
noncomputable def t2Power (k : Nat) (f : Nat →₀ Gf) : Gf := f.sum fun p v => v * t2At p ^ k

theorem t2Power_add (k : Nat) (f g : Nat →₀ Gf) : t2Power k (f + g) = t2Power k f + t2Power k g :=
  Finsupp.sum_add_index' (fun _ => zero_mul _) fun _ _ _ => add_mul _ _ _

theorem t2Power_single (k p : Nat) (v : Gf) : t2Power k (Finsupp.single p v) = v * t2At p ^ k :=
  Finsupp.sum_single_index (zero_mul _)

theorem t2At_injOn : Set.InjOn t2At (Set.Iio 36) := by
  have distinct : ∀ p < 36, ∀ q < 36, gfPow (35 - p) = gfPow (35 - q) → p = q := by decide +kernel
  intro p hp q hq e
  rw [t2At, t2At, ← gfVal_gfPow, ← gfVal_gfPow, gfVal_inj (gfPow_lt _) (gfPow_lt _)] at e
  exact distinct p hp q hq e

/-- Errors in at most four of the 36 positions whose first four power sums are 0 are none (Vandermonde). -/
theorem t2Errors_eq_zero {f : Nat →₀ Gf} (place : ∀ p ∈ f.support, p < 36) (few : f.support.card ≤ 4)
    (sums : ∀ k < 4, t2Power k f = 0) : f = 0 := by
  have inj : Function.Injective fun i => t2At (f.support.equivFin.symm i) := fun i j e =>
    f.support.equivFin.symm.injective (Subtype.ext (t2At_injOn (place _ (Subtype.coe_prop _)) (place _ (Subtype.coe_prop _)) e))
  have zero := Matrix.eq_zero_of_forall_pow_sum_mul_pow_eq_zero (v := fun i => f (f.support.equivFin.symm i)) inj fun k => by
    rw [← sums k (by omega), t2Power, Finsupp.sum, ← Finset.sum_coe_sort f.support]
    exact f.support.equivFin.symm.sum_comp fun p : f.support => f p * t2At p ^ (k : Nat)
  ext p
  by_contra ne
  have here := congrFun zero (f.support.equivFin ⟨p, Finsupp.mem_support_iff.2 ne⟩)
  exact ne (by simpa using here)

/-- Lists of errors in at most two bytes have the same errors where they have the same power sums. -/
theorem t2Errors_unique {l m : List (Nat × Nat)} (hl : l.length ≤ 2) (hm : m.length ≤ 2) (pl : ∀ e ∈ l, e.1 < 36)
    (pm : ∀ e ∈ m, e.1 < 36) (sums : ∀ k < 4, t2Power k (t2Errors l) = t2Power k (t2Errors m)) : t2Errors l = t2Errors m := by
  classical
  have zero : t2Errors l + t2Errors m = 0 := by
    have sub : (t2Errors l + t2Errors m).support ⊆ ((l ++ m).map Prod.fst).toFinset := fun p hp => by
      rw [List.map_append, List.toFinset_append]
      exact Finset.union_subset_union (t2Errors_support l) (t2Errors_support m) (Finsupp.support_add hp)
    refine t2Errors_eq_zero (fun p hp => ?_) ?_ fun k hk => ?_
    · obtain ⟨e, he, rfl⟩ := List.mem_map.1 (List.mem_toFinset.1 (sub hp))
      exact (List.mem_append.1 he).elim (pl e) (pm e)
    · refine (Finset.card_le_card sub).trans ((List.toFinset_card_le _).trans ?_)
      simp only [List.length_map, List.length_append]
      omega
    · rw [t2Power_add, sums k hk, gf_add_self]
  ext p
  have here := DFunLike.congr_fun zero p
  exact CharTwo.add_eq_zero.1 here

/-! ### Where the errors lie (R207) -/

/-- Whether errors have the syndromes. -/
def t2Fits (s0 s1 s2 s3 : Nat) (l : List (Nat × Nat)) : Bool :=
  let x (p : Nat) : Nat := gfPow (35 - p)
  (l.foldl (fun a e => a ^^^ e.2) 0 == s0)
    && (l.foldl (fun a e => a ^^^ gfMul e.2 (x e.1)) 0 == s1)
    && (l.foldl (fun a e => a ^^^ gfMul e.2 (gfMul (x e.1) (x e.1))) 0 == s2)
    && (l.foldl (fun a e => a ^^^ gfMul e.2 (gfMul (x e.1) (gfMul (x e.1) (x e.1)))) 0 == s3)

/-- The value in byte `q` that the first two syndromes ask for where the other error is in byte `p`. -/
def t2Second (s0 s1 p q : Nat) : Nat :=
  gfMul (s1 ^^^ gfMul s0 (gfPow (35 - p))) (gfInv (gfPow (35 - p) ^^^ gfPow (35 - q)))

/-- Errors in bytes `p` and `q`, where some have the syndromes. -/
def t2Try (s0 s1 s2 s3 p q : Nat) : Option (List (Nat × Nat)) :=
  if p < q then
    let v := t2Second s0 s1 p q
    let l := [(p, s0 ^^^ v), (q, v)]
    if v ≠ 0 ∧ s0 ^^^ v ≠ 0 ∧ t2Fits s0 s1 s2 s3 l then some l else none
  else none

theorem t2Locate_eq (s0 s1 s2 s3 : Nat) : t2Locate s0 s1 s2 s3 =
    match (List.range 36).find? (fun p => t2Fits s0 s1 s2 s3 [(p, s0)]) with
    | some p => some [(p, s0)]
    | none => (List.range 36).findSome? fun p => (List.range 36).findSome? fun q => t2Try s0 s1 s2 s3 p q := rfl

/-- The errors in a codeword: at most two, at rising positions, none of value 0. -/
structure T2Few (l : List (Nat × Nat)) : Prop where
  few : l.length ≤ 2
  place : ∀ e ∈ l, e.1 < 36
  byte : ∀ e ∈ l, e.2 < 256
  ne : ∀ e ∈ l, e.2 ≠ 0
  rising : rising l = true

theorem T2Few.one {p v : Nat} (place : p < 36) (byte : v < 256) (ne : v ≠ 0) : T2Few [(p, v)] := by
  constructor <;> simp_all [Sys2Proof.Machine.rising]

theorem T2Few.two {p q v w : Nat} (lt : p < q) (place : q < 36) (hv : v < 256) (hw : w < 256) (nv : v ≠ 0) (nw : w ≠ 0) :
    T2Few [(p, v), (q, w)] := by
  constructor <;> simp_all [Sys2Proof.Machine.rising]
  omega

theorem t2Power_t2Errors (k : Nat) (l : List (Nat × Nat)) :
    t2Power k (t2Errors l) = (l.map fun e => gfVal e.2 * t2At e.1 ^ k).sum := by
  induction l with
  | nil => simp [t2Errors, t2Power]
  | cons e l ih =>
    rw [List.map_cons, List.sum_cons, ← ih, ← t2Power_single, ← t2Power_add]
    rfl

/-- A sum of products of bytes is a byte, and stands for their sum. -/
theorem gfVal_foldl {l : List (Nat × Nat)} {g : Nat × Nat → Nat} (h : ∀ e ∈ l, g e < 256) {a : Nat} (ha : a < 256) :
    l.foldl (fun a e => a ^^^ g e) a < 256
      ∧ gfVal (l.foldl (fun a e => a ^^^ g e) a) = gfVal a + (l.map fun e => gfVal (g e)).sum := by
  induction l generalizing a with
  | nil => simpa using ha
  | cons e l ih =>
    obtain ⟨lt, val⟩ := ih (fun x hx => h x (List.mem_cons_of_mem _ hx)) (Nat.xor_lt_two_pow (n := 8) ha (h e List.mem_cons_self))
    refine ⟨lt, val.trans ?_⟩
    rw [gfVal_xor, List.map_cons, List.sum_cons, add_assoc]

/-- One of the tests of `t2Fits`: the products with the `k`th powers have the `k`th syndrome. -/
theorem foldl_beq_iff {l : List (Nat × Nat)} {g : Nat × Nat → Nat} {s k : Nat} (hs : s < 256)
    (h : ∀ e ∈ l, g e < 256 ∧ gfVal (g e) = gfVal e.2 * t2At e.1 ^ k) :
    (l.foldl (fun a e => a ^^^ g e) 0 == s) = true ↔ t2Power k (t2Errors l) = gfVal s := by
  obtain ⟨lt, val⟩ := gfVal_foldl (fun e he => (h e he).1) (a := 0) (by decide)
  rw [beq_iff_eq, ← gfVal_inj lt hs, val, gfVal_zero, zero_add, t2Power_t2Errors,
    List.map_congr_left fun e he => (h e he).2]

theorem t2Fits_iff {s0 s1 s2 s3 : Nat} (h0 : s0 < 256) (h1 : s1 < 256) (h2 : s2 < 256) (h3 : s3 < 256) {l : List (Nat × Nat)}
    (bytes : ∀ e ∈ l, e.2 < 256) :
    t2Fits s0 s1 s2 s3 l = true ↔ t2Power 0 (t2Errors l) = gfVal s0 ∧ t2Power 1 (t2Errors l) = gfVal s1
      ∧ t2Power 2 (t2Errors l) = gfVal s2 ∧ t2Power 3 (t2Errors l) = gfVal s3 := by
  have lt (p : Nat) : gfPow (35 - p) < 256 := gfPow_lt _
  have val (p : Nat) : gfVal (gfPow (35 - p)) = t2At p := gfVal_gfPow _
  have by_ {e : Nat × Nat} (he : e ∈ l) {y k : Nat} (hy : y < 256) (v : gfVal y = t2At e.1 ^ k) :
      gfMul e.2 y < 256 ∧ gfVal (gfMul e.2 y) = gfVal e.2 * t2At e.1 ^ k :=
    ⟨gfMul_lt (bytes e he) y, by rw [gfVal_gfMul (bytes e he) hy, v]⟩
  simp only [t2Fits, Bool.and_eq_true, and_assoc]
  refine and_congr (foldl_beq_iff h0 fun e he => ⟨bytes e he, by rw [pow_zero, mul_one]⟩) (and_congr
    (foldl_beq_iff h1 fun e he => by_ he (lt _) (by rw [val, pow_one])) (and_congr
      (foldl_beq_iff h2 fun e he => by_ he (gfMul_lt (lt _) _) (by rw [gfVal_gfMul (lt _) (lt _), val, sq]))
      (foldl_beq_iff h3 fun e he => by_ he (gfMul_lt (lt _) _) ?_)))
  rw [gfVal_gfMul (lt _) (gfMul_lt (lt _) _), gfVal_gfMul (lt _) (lt _), val]
  ring

/-- Two maps in their canonical form that read the same are the same. -/
theorem kwf_ext {β : Type} [DecidableEq β] {d : β} {m m' : List (Nat × β)} (h : kwf (fun _ => d) m = true)
    (h' : kwf (fun _ => d) m' = true) (same : ∀ k, kget m k d = kget m' k d) : m = m' := by
  have mem {a b : List (Nat × β)} (ha : kwf (fun _ => d) a = true) (hb : kwf (fun _ => d) b = true)
      (e : ∀ k, kget a k d = kget b k d) (x : Nat × β) (hx : x ∈ a) : x ∈ b := by
    obtain ⟨k, v⟩ := x
    have read := e k
    rw [kget_kfind a, kfind_of_mem (kwf_iff.1 ha).1 hx, kget_kfind b] at read
    cases found : kfind b k with
    | none => exact absurd (by simpa [found] using read) ((kwf_iff.1 ha).2 _ hx)
    | some w =>
      rw [found] at read
      exact kfind_mem (found.trans (congrArg some read.symm))
  have sorted {a : List (Nat × β)} (ha : rising a = true) : a.Pairwise fun x y => x.1 < y.1 := by
    induction a with
    | nil => exact .nil
    | cons x r ih => exact .cons (rising_cons.1 ha).1 (ih (rising_cons.1 ha).2)
  have irrefl : Std.Irrefl fun x y : Nat × β => x.1 < y.1 := ⟨fun x => Nat.lt_irrefl x.1⟩
  have antisymm : Std.Antisymm fun x y : Nat × β => x.1 < y.1 := ⟨fun x y xy yx => absurd yx xy.asymm⟩
  exact (sorted (kwf_iff.1 h).1).eq_of_mem_iff (sorted (kwf_iff.1 h').1) fun x =>
    ⟨mem h h' same x, mem h' h (fun k => (same k).symm) x⟩

/-- Of errors at rising positions the coefficient at a position is the value listed there. -/
theorem t2Errors_apply {l : List (Nat × Nat)} (h : rising l = true) (p : Nat) : t2Errors l p = gfVal (kget l p 0) := by
  induction l with
  | nil => simp [t2Errors]
  | cons e l ih =>
    obtain ⟨k, v⟩ := e
    obtain ⟨above, rest⟩ := rising_cons.1 h
    have split : t2Errors ((k, v) :: l) p = Finsupp.single k (gfVal v) p + t2Errors l p := rfl
    rw [split, ih rest, kget]
    by_cases here : k = p
    · have none : kfind l p = none := kfind_none.2 fun x hx => by have := above x hx; simp only at this; omega
      rw [if_pos here, here, Finsupp.single_eq_same, kget_kfind, none]
      exact add_eq_left.2 gfVal_zero
    · rw [if_neg here, Finsupp.single_eq_of_ne (Ne.symm here), zero_add]

/-- Errors in at most two bytes are what their power sums tell. -/
theorem T2Few.unique {l m : List (Nat × Nat)} (hl : T2Few l) (hm : T2Few m)
    (sums : ∀ k < 4, t2Power k (t2Errors l) = t2Power k (t2Errors m)) : l = m := by
  have canonical {a : List (Nat × Nat)} (h : T2Few a) : kwf (fun _ => 0) a = true := kwf_iff.2 ⟨h.rising, h.ne⟩
  have byte {a : List (Nat × Nat)} (h : T2Few a) (p : Nat) : kget a p 0 < 256 := by
    rw [kget_kfind]
    cases found : kfind a p with
    | none => exact (by decide : 0 < 256)
    | some v => exact h.byte _ (kfind_mem found)
  refine kwf_ext (canonical hl) (canonical hm) fun p => (gfVal_inj (byte hl p) (byte hm p)).1 ?_
  rw [← t2Errors_apply hl.rising, ← t2Errors_apply hm.rising, t2Errors_unique hl.few hm.few hl.place hm.place sums]

/-- A search whose every find is the same finds it. -/
theorem findSome_unique {α β : Type} {f : α → Option β} {l : List α} {b : β} (only : ∀ a ∈ l, ∀ c, f a = some c → c = b)
    (hit : ∃ a ∈ l, f a = some b) : l.findSome? f = some b := by
  obtain ⟨a, ha, found⟩ := hit
  obtain ⟨c, hc⟩ := Option.isSome_iff_exists.1
    (List.findSome?_isSome_iff (f := f) |>.2 ⟨a, ha, by rw [found]; rfl⟩)
  obtain ⟨x, hx, fx⟩ := List.exists_of_findSome?_eq_some hc
  rw [hc, only x hx c fx]

section syndromes

variable {s0 s1 s2 s3 : Nat} {m : List (Nat × Nat)} (h0 : s0 < 256) (h1 : s1 < 256) (h2 : s2 < 256) (h3 : s3 < 256) (few : T2Few m)
  (are : t2Fits s0 s1 s2 s3 m = true)

include h0 h1 h2 h3 few are

/-- Errors that have the syndromes are the ones that there are. -/
theorem eq_of_t2Fits {l : List (Nat × Nat)} (hl : T2Few l) (fits : t2Fits s0 s1 s2 s3 l = true) : l = m := by
  obtain ⟨a0, a1, a2, a3⟩ := (t2Fits_iff h0 h1 h2 h3 hl.byte).1 fits
  obtain ⟨b0, b1, b2, b3⟩ := (t2Fits_iff h0 h1 h2 h3 few.byte).1 are
  refine hl.unique few fun k hk => ?_
  interval_cases k
  · exact a0.trans b0.symm
  · exact a1.trans b1.symm
  · exact a2.trans b2.symm
  · exact a3.trans b3.symm

/-- One error that has the syndromes is all that there is; one of value 0 is none. -/
theorem eq_of_t2Fits_one {p : Nat} (hp : p < 36) (fits : t2Fits s0 s1 s2 s3 [(p, s0)] = true) : m = [(p, s0)] ∨ m = [] := by
  by_cases zero : s0 = 0
  · have none : t2Fits s0 s1 s2 s3 [] = true := by
      rw [t2Fits_iff h0 h1 h2 h3 (by simp)]
      rw [t2Fits_iff h0 h1 h2 h3 (by simpa using h0)] at fits
      have same : t2Errors [(p, s0)] = t2Errors [] := by simp [t2Errors, zero]
      rwa [same] at fits
    exact .inr (eq_of_t2Fits h0 h1 h2 h3 few are ⟨by simp, by simp, by simp, by simp, rfl⟩ none).symm
  · exact .inl (eq_of_t2Fits h0 h1 h2 h3 few are (.one hp h0 zero) fits).symm

end syndromes

/-- One error is found by its first syndrome, which is its value. -/
theorem t2Locate_one {s0 s1 s2 s3 i : Nat} (h0 : s0 < 256) (h1 : s1 < 256) (h2 : s2 < 256) (h3 : s3 < 256) (hi : i < 36)
    (ne : s0 ≠ 0) (are : t2Fits s0 s1 s2 s3 [(i, s0)] = true) : t2Locate s0 s1 s2 s3 = some [(i, s0)] := by
  have found : (List.range 36).find? (fun p => t2Fits s0 s1 s2 s3 [(p, s0)]) = some i := by
    refine List.find?_range_eq_some.2 ⟨are, List.mem_range.2 hi, fun j hj => ?_⟩
    rw [Bool.not_eq_true', Bool.eq_false_iff]
    intro fits
    have same := eq_of_t2Fits_one h0 h1 h2 h3 (.one hi h0 ne) are (by omega) fits
    simp at same
    omega
  rw [t2Locate_eq, found]

/-- A search for two errors that finds something finds the errors that there are. -/
theorem t2Try_eq_some {s0 s1 s2 s3 p q : Nat} {l : List (Nat × Nat)} (h0 : s0 < 256) (h1 : s1 < 256) (hq : q < 36)
    (found : t2Try s0 s1 s2 s3 p q = some l) : T2Few l ∧ t2Fits s0 s1 s2 s3 l = true := by
  have lt : t2Second s0 s1 p q < 256 := gfMul_lt (Nat.xor_lt_two_pow (n := 8) h1 (gfMul_lt h0 _)) _
  unfold t2Try at found
  dsimp only at found
  split at found
  · next less =>
    split at found
    · next fits =>
      cases found
      obtain ⟨nv, nw, fits⟩ := fits
      exact ⟨.two less hq (Nat.xor_lt_two_pow (n := 8) h0 lt) lt nw nv, fits⟩
    · cases found
  · cases found

/-- Two errors: what the first two syndromes ask for at their positions is the second one's value. -/
theorem t2Second_eq {s0 s1 i j x y : Nat} (h0 : s0 < 256) (h1 : s1 < 256) (hi : i < 36) (hj : j < 36) (ne : i ≠ j) (hy : y < 256)
    (v0 : gfVal s0 = gfVal x + gfVal y) (v1 : gfVal s1 = gfVal x * t2At i + gfVal y * t2At j) : t2Second s0 s1 i j = y := by
  have lt (p : Nat) : gfPow (35 - p) < 256 := gfPow_lt _
  have val (p : Nat) : gfVal (gfPow (35 - p)) = t2At p := gfVal_gfPow _
  have apart : gfPow (35 - i) ^^^ gfPow (35 - j) ≠ 0 := fun z => ne (t2At_injOn hi hj (by
    rw [← val, ← val, Nat.xor_eq_zero_iff.1 z]))
  have byte := Nat.xor_lt_two_pow (n := 8) (lt i) (lt j)
  have inv := gfVal_mul_gfInv byte apart
  have first := Nat.xor_lt_two_pow (n := 8) h1 (gfMul_lt h0 (gfPow (35 - i)))
  rw [t2Second, ← gfVal_inj (gfMul_lt first _) hy, gfVal_gfMul first (gfInv_spec _ byte apart).1, gfVal_xor,
    gfVal_gfMul h0 (lt i), val, v0, v1]
  rw [gfVal_xor, val, val] at inv
  linear_combination gfVal y * inv + gfVal x * t2At i * gfVal (gfInv (gfPow (35 - i) ^^^ gfPow (35 - j))) * CharTwo.two_eq_zero (R := Gf)

/-- Two errors are found by the pair of their positions, as no single error has their syndromes. -/
theorem t2Locate_two {s0 s1 s2 s3 i j x y : Nat} (h0 : s0 < 256) (h1 : s1 < 256) (h2 : s2 < 256) (h3 : s3 < 256) (hij : i < j)
    (hj : j < 36) (hx : x < 256) (hy : y < 256) (nx : x ≠ 0) (ny : y ≠ 0) (are : t2Fits s0 s1 s2 s3 [(i, x), (j, y)] = true) :
    t2Locate s0 s1 s2 s3 = some [(i, x), (j, y)] := by
  have few : T2Few [(i, x), (j, y)] := .two hij hj hx hy nx ny
  have single : (List.range 36).find? (fun p => t2Fits s0 s1 s2 s3 [(p, s0)]) = none := by
    refine List.find?_eq_none.2 fun p hp fits => ?_
    have same := eq_of_t2Fits_one h0 h1 h2 h3 few are (List.mem_range.1 hp) fits
    simp at same
  have hit : t2Try s0 s1 s2 s3 i j = some [(i, x), (j, y)] := by
    obtain ⟨v0, v1, -, -⟩ := (t2Fits_iff h0 h1 h2 h3 few.byte).1 are
    simp only [t2Power_t2Errors, List.map_cons, List.map_nil, List.sum_cons, List.sum_nil, add_zero, pow_zero, mul_one, pow_one] at v0 v1
    have second := t2Second_eq h0 h1 (by omega) hj (by omega) hy v0.symm v1.symm
    have first : s0 ^^^ y = x := by
      rw [← gfVal_inj (Nat.xor_lt_two_pow (n := 8) h0 hy) hx, gfVal_xor, ← v0, add_assoc, gf_add_self, add_zero]
    unfold t2Try
    simp only [second, first]
    rw [if_pos hij, if_pos ⟨ny, nx, are⟩]
  have only (p q : Nat) (hq : q ∈ List.range 36) (l : List (Nat × Nat)) (found : t2Try s0 s1 s2 s3 p q = some l) :
      l = [(i, x), (j, y)] := by
    obtain ⟨hl, fits⟩ := t2Try_eq_some h0 h1 (List.mem_range.1 hq) found
    exact eq_of_t2Fits h0 h1 h2 h3 few are hl fits
  rw [t2Locate_eq, single]
  refine findSome_unique (fun p _ l found => ?_) ⟨i, List.mem_range.2 (by omega), findSome_unique (only i) ⟨j, List.mem_range.2 hj, hit⟩⟩
  obtain ⟨q, hq, found⟩ := List.exists_of_findSome?_eq_some found
  exact only p q hq l found

/-- Any errors in one or two bytes are found. -/
theorem t2Locate_few {s0 s1 s2 s3 : Nat} {m : List (Nat × Nat)} (h0 : s0 < 256) (h1 : s1 < 256) (h2 : s2 < 256) (h3 : s3 < 256)
    (few : T2Few m) (some_ : m ≠ []) (are : t2Fits s0 s1 s2 s3 m = true) : t2Locate s0 s1 s2 s3 = some m := by
  match m with
  | [] => exact absurd rfl some_
  | [(i, x)] =>
    have hx : x < 256 := few.byte (i, x) (by simp)
    obtain rfl : x = s0 := (gfVal_inj hx h0).1 (by
      simpa [t2Power_t2Errors] using ((t2Fits_iff h0 h1 h2 h3 few.byte).1 are).1)
    exact t2Locate_one h0 h1 h2 h3 (few.place (i, x) (by simp)) (few.ne (i, x) (by simp)) are
  | [(i, x), (j, y)] =>
    have less : i < j := (rising_cons.1 few.rising).1 (j, y) (by simp)
    exact t2Locate_two h0 h1 h2 h3 less (few.place (j, y) (by simp)) (few.byte (i, x) (by simp)) (few.byte (j, y) (by simp))
      (few.ne (i, x) (by simp)) (few.ne (j, y) (by simp)) are
  | _ :: _ :: _ :: _ => exact absurd few.few (by simp)

/-! ### Correction (R207) -/

/-- A codeword with errors; or, as the errors are their own inverses, without them again. -/
def t2Spoil (cw : List Byte) (m : List (Nat × Nat)) : List Byte := m.foldl (fun c e => xorAt c e.1 (BitVec.ofNat 8 e.2)) cw

theorem xorAt_comm (l : List Byte) (i j : Nat) (x y : Byte) : xorAt (xorAt l i x) j y = xorAt (xorAt l j y) i x := by
  by_cases same : i = j
  · subst same
    simp only [xorAt, List.modify_modify_eq]
    congr 1
    funext b
    simp only [Function.comp_apply, BitVec.xor_assoc, BitVec.xor_comm x y]
  · exact List.modify_modify_ne _ _ l same

theorem xorAt_xorAt (l : List Byte) (i : Nat) (x : Byte) : xorAt (xorAt l i x) i x = l := by
  simp only [xorAt, List.modify_modify_eq]
  convert List.modify_id i l
  funext b
  simp

theorem t2Spoil_xorAt (cw : List Byte) (m : List (Nat × Nat)) (i : Nat) (x : Byte) :
    t2Spoil (xorAt cw i x) m = xorAt (t2Spoil cw m) i x := by
  induction m generalizing cw with
  | nil => rfl
  | cons e m ih => rw [t2Spoil, List.foldl_cons, xorAt_comm]; exact ih _

theorem t2Spoil_t2Spoil (cw : List Byte) (m : List (Nat × Nat)) : t2Spoil (t2Spoil cw m) m = cw := by
  induction m generalizing cw with
  | nil => rfl
  | cons e m ih =>
    have once (c : List Byte) : t2Spoil c (e :: m) = t2Spoil (xorAt c e.1 (BitVec.ofNat 8 e.2)) m := rfl
    rw [once, once, ← t2Spoil_xorAt, xorAt_xorAt, ih]

theorem gfEval_t2Spoil (x : Gf) {m : List (Nat × Nat)} (byte : ∀ e ∈ m, e.2 < 256) {cw : List Byte} (place : ∀ e ∈ m, e.1 < cw.length) :
    gfEval x (t2Spoil cw m) = gfEval x cw + (m.map fun e => gfVal e.2 * x ^ (cw.length - 1 - e.1)).sum := by
  induction m generalizing cw with
  | nil => simp [t2Spoil]
  | cons e m ih =>
    have same : (xorAt cw e.1 (BitVec.ofNat 8 e.2)).length = cw.length := List.length_modify ..
    have rest := ih (fun a ha => byte a (List.mem_cons_of_mem _ ha)) (cw := xorAt cw e.1 (BitVec.ofNat 8 e.2))
      fun a ha => same ▸ place a (List.mem_cons_of_mem _ ha)
    rw [gfEval_xorAt x (place e List.mem_cons_self), BitVec.toNat_ofNat, Nat.mod_eq_of_lt (byte e List.mem_cons_self), same] at rest
    rw [List.map_cons, List.sum_cons, ← add_assoc]
    exact rest

/-- The syndromes of a codeword with errors are their power sums. -/
theorem gfVal_t2Syn_t2Spoil {cw : List Byte} (len : cw.length = 36) {k : Nat} (good : t2Syn cw k = 0) {m : List (Nat × Nat)}
    (few : T2Few m) : gfVal (t2Syn (t2Spoil cw m) k) = t2Power k (t2Errors m) := by
  have zero : gfEval (gfRoot ^ k) cw = 0 := by rw [← gfVal_t2Syn, good, gfVal_zero]
  rw [gfVal_t2Syn, gfEval_t2Spoil _ few.byte (len ▸ few.place), zero, zero_add, t2Power_t2Errors, len]
  simp only [t2At, ← pow_mul, mul_comm k]

/-- A good codeword comes back from errors in one or two of its bytes. -/
theorem t2Decode_t2Spoil {cw : List Byte} (len : cw.length = 36) (good : ∀ k < 4, t2Syn cw k = 0) {m : List (Nat × Nat)}
    (few : T2Few m) (some_ : m ≠ []) : t2Decode (t2Spoil cw m) = .corrected cw := by
  have lt (k : Nat) : t2Syn (t2Spoil cw m) k < 256 := t2Syn_lt _ k
  have power {k : Nat} (hk : k < 4) := (gfVal_t2Syn_t2Spoil len (good k hk) few).symm
  have are := (t2Fits_iff (lt 0) (lt 1) (lt 2) (lt 3) few.byte).2
    ⟨power (by decide), power (by decide), power (by decide), power (by decide)⟩
  have bad : ¬ (t2Syn (t2Spoil cw m) 0 = 0 ∧ t2Syn (t2Spoil cw m) 1 = 0 ∧ t2Syn (t2Spoil cw m) 2 = 0 ∧ t2Syn (t2Spoil cw m) 3 = 0) := by
    rintro ⟨z0, z1, z2, z3⟩
    rw [z0, z1, z2, z3] at are
    exact some_ (eq_of_t2Fits (by decide) (by decide) (by decide) (by decide) few are ⟨by simp, by simp, by simp, by simp, rfl⟩ rfl).symm
  rw [t2Decode, if_neg bad, t2Locate_few (lt 0) (lt 1) (lt 2) (lt 3) few some_ are]
  exact congrArg T2.corrected (t2Spoil_t2Spoil cw m)

/-- Settles O56: the bytes of GF(2⁸) stand in a field, where the four syndromes of at most two errors are their power sums, which no other
such errors have. -/
theorem codeT2CorrectsTwoBytes : Obligations.CodeT2CorrectsTwoBytes := by
  intro data len
  dsimp only
  have whole : (data ++ t2Check data).length = 36 := by rw [List.length_append, len, t2Check_length]
  have good (k : Nat) (hk : k < 4) : t2Syn (data ++ t2Check data) k = 0 := t2Syn_t2Check hk data
  have ne {x : Byte} (h : x ≠ 0) : x.toNat ≠ 0 := fun z => h (BitVec.eq_of_toNat_eq z)
  refine ⟨fun i x hi nx => ?_, fun i j x y hij hj nx ny => ?_⟩
  · simpa [t2Spoil] using t2Decode_t2Spoil whole good (.one hi x.isLt (ne nx)) (by simp)
  · simpa [t2Spoil] using t2Decode_t2Spoil whole good (.two hij hj x.isLt y.isLt (ne nx) (ne ny)) (by simp)

end Sys2Proof.Machine
end

section
/-! SUPPORT. What the operations of memory and of the tun can change (R194, R206 to R214): for each, once, of the state and of the
registers. -/

namespace Sys2Proof.Machine

/-! ### Registers that stay -/

theorem KeepsRegs.refl (p : Nat → Prop) (s : State) : KeepsRegs p s s := fun _ _ => rfl

theorem KeepsRegs.trans {p : Nat → Prop} {s u v : State} (h : KeepsRegs p s u) (g : KeepsRegs p u v) : KeepsRegs p s v :=
  fun a out => (g a out).trans (h a out)

theorem KeepsRegs.mono {p q : Nat → Prop} {s u : State} (h : KeepsRegs p s u) (pq : ∀ a, p a → q a) : KeepsRegs q s u :=
  fun a out => h a fun pa => out (pq a pa)

theorem KeepsRegs.get {p : Nat → Prop} {s u : State} (h : KeepsRegs p s u) {a : Nat} (out : ¬ p a) (f : Fld) :
    u.get a f = s.get a f := by rw [State.get, h a out, State.get]

theorem setReg_keepsRegs {p : Nat → Prop} {a : Nat} (h : p a) (s : State) (v : Word) : KeepsRegs p s (s.setReg a v) :=
  fun _ out => State.reg_setReg_ne s v fun e => out (e ▸ h)

theorem set_keepsRegs {p : Nat → Prop} {a : Nat} (h : p a) (s : State) (f : Fld) (x : Nat) : KeepsRegs p s (s.set a f x) :=
  setReg_keepsRegs h s _

theorem PerfOnly.keepsRegs {s u : State} (p : Nat → Prop) : PerfOnly s u → KeepsRegs p s u := by
  rintro ⟨_, rfl⟩
  exact .refl p s

theorem errLog_keepsRegs {p : Nat → Prop} {a : Nat} (h : p a) (s : State) (valid ovr : Fld) (fs : List (Fld × Nat)) :
    KeepsRegs p s (s.errLog a valid ovr fs) :=
  (((setReg_keepsRegs h s 0).trans (foldl_rel (KeepsRegs.refl p) KeepsRegs.trans
    (fun u (x : Fld × Nat) => set_keepsRegs h u x.1 x.2) fs _)).trans (set_keepsRegs h _ ovr _)).trans (set_keepsRegs h _ valid 1)

/-- The registers that an event and its record show themselves in (R299, R362). -/
def eventAddrs : List Nat := [SY_FIFO_LEVEL, LN_LOG_SEQ, LN_LOG_LOST]

theorem modLogs_keepsRegs (p : Nat → Prop) (s : State) (f : Logs → Logs) : KeepsRegs p s (s.modLogs f) := fun _ _ => rfl

theorem keepLog_keepsRegs (p : Nat → Prop) (s : State) (f : Logs → Logs) : KeepsRegs p s (s.keepLog f) := by
  unfold State.keepLog
  exact ite_rel (R := KeepsRegs p) (fun _ => .refl p s) fun _ _ _ => rfl

theorem record_keepsRegs (s : State) (code source arg kind : Nat) (detail : List Word) :
    KeepsRegs (· ∈ eventAddrs) s (s.record code source arg kind detail) := by
  have seq : LN_LOG_SEQ ∈ eventAddrs := by simp [eventAddrs]
  have lost : LN_LOG_LOST ∈ eventAddrs := by simp [eventAddrs]
  have kept (u : State) (f : Logs → Logs) (k : Nat) : KeepsRegs (· ∈ eventAddrs) u ((u.modLogs f).logGrows k) := fun _ _ => rfl
  exact (((set_keepsRegs seq s _ _).trans (modLogs_keepsRegs _ _ _)).trans (modLogs_keepsRegs _ _ _)).trans
    (ite_rel (R := KeepsRegs (· ∈ eventAddrs)) (fun _ => set_keepsRegs lost _ _ _) fun _ => kept _ _ _)

theorem event_keepsRegs (s : State) (code source arg : Nat) : KeepsRegs (· ∈ eventAddrs) s (s.event code source arg) := by
  have fifo : SY_FIFO_LEVEL ∈ eventAddrs := by simp [eventAddrs]
  have shown (u : State) : KeepsRegs (· ∈ eventAddrs) u u.showFifo :=
    ((set_keepsRegs fifo u _ _).trans (set_keepsRegs fifo _ _ _)).trans (set_keepsRegs fifo _ _ _)
  exact ((modLogs_keepsRegs _ s _).trans (shown _)).trans (record_keepsRegs _ _ _ _ _ _)

/-! ### What the memory of the module and the tun change -/

/-- The registers of the Y4X but the count of refetches (R218). -/
def tunAddrs (a : Nat) : Prop := y4xWin 0 ≤ a ∧ a ≠ TN_REFETCH

/-- Only stored memory, the tun, region moves, counters and logs change, and of the registers those of the Y4X. -/
def TunOnly (s u : State) : Prop :=
  (∃ r p m c o n t f k g l d v w, u = { s with
      regs := r, perf := p, mem := m, chk := c, poison := o, tunNoise := n, tun := t, tunOff := f, tunCount := k, regionCount := g,
      logs := l, cask := { s.cask with due := d }, move := v, moveWait := w })
    ∧ KeepsRegs tunAddrs s u

theorem TunOnly.refl (s : State) : TunOnly s s := ⟨⟨_, _, _, _, _, _, _, _, _, _, _, _, _, _, rfl⟩, .refl _ s⟩

theorem TunOnly.trans {s u v : State} (h : TunOnly s u) (g : TunOnly u v) : TunOnly s v := by
  refine ⟨?_, h.2.trans g.2⟩
  obtain ⟨⟨_, _, _, _, _, _, _, _, _, _, _, _, _, _, rfl⟩, -⟩ := h
  obtain ⟨⟨_, _, _, _, _, _, _, _, _, _, _, _, _, _, e⟩, -⟩ := g
  exact ⟨_, _, _, _, _, _, _, _, _, _, _, _, _, _, e⟩

theorem TunOnly.chambers {s u : State} : TunOnly s u → u.chambers = s.chambers := by
  rintro ⟨⟨_, _, _, _, _, _, _, _, _, _, _, _, _, _, rfl⟩, -⟩
  rfl

theorem LogsOnly.tunOnly {s u : State} (h : LogsOnly s u) (regs : KeepsRegs tunAddrs s u) : TunOnly s u := by
  obtain ⟨_, _, _, rfl⟩ := h
  exact ⟨⟨_, _, _, _, _, _, _, _, _, _, _, _, _, _, rfl⟩, regs⟩

theorem PerfOnly.tunOnly {s u : State} (h : PerfOnly s u) : TunOnly s u := by
  refine ⟨?_, h.keepsRegs _⟩
  obtain ⟨_, rfl⟩ := h
  exact ⟨_, _, _, _, _, _, _, _, _, _, _, _, _, _, rfl⟩

/-- Two states that differ in stored memory and the tun alone. -/
theorem tunOnly_of_eq {s u : State} {m c o : List (Nat × Byte)} {n : List (Nat × Byte)} {t : List (Nat × TunLine)}
    {f k g : List (Nat × Nat)} (h : u = { s with
      mem := m, chk := c, poison := o, tunNoise := n, tun := t, tunOff := f, tunCount := k, regionCount := g }) : TunOnly s u := by
  subst h
  exact ⟨⟨_, _, _, _, _, _, _, _, _, _, _, _, _, _, rfl⟩, fun _ _ => rfl⟩

theorem y4xWin_add_tunAddrs {k o : Nat} (h : y4xWin k + o ≠ TN_REFETCH) : tunAddrs (y4xWin k + o) := by
  refine ⟨?_, h⟩
  simp only [y4xWin]
  omega

theorem set_tunOnly {a : Nat} (h : tunAddrs a) (s : State) (f : Fld) (x : Nat) : TunOnly s (s.set a f x) :=
  (set_only s a f x).logs.tunOnly (set_keepsRegs h s f x)

theorem bump_tunOnly {a : Nat} (h : tunAddrs a) (s : State) (k : Nat) : TunOnly s (s.bump a k) := set_tunOnly h s _ _

theorem errLog_tunOnly {a : Nat} (h : tunAddrs a) (s : State) (valid ovr : Fld) (fs : List (Fld × Nat)) :
    TunOnly s (s.errLog a valid ovr fs) :=
  (errLog_only s a valid ovr fs).logs.tunOnly (errLog_keepsRegs h s valid ovr fs)

theorem tallyX_tunOnly (s : State) (ev inst k : Nat) : TunOnly s (s.tallyX ev inst k) := (tallyX_only s ev inst k).tunOnly

theorem keepLog_tunOnly (s : State) (f : Logs → Logs) : TunOnly s (s.keepLog f) :=
  (keepLog_only s f).tunOnly (keepLog_keepsRegs _ s f)

theorem eventAddrs_tunAddrs : ∀ a ∈ eventAddrs, tunAddrs a := by
  unfold tunAddrs
  decide

theorem event_tunOnly (s : State) (code source arg : Nat) : TunOnly s (s.event code source arg) :=
  (event_only s code source arg).tunOnly ((event_keepsRegs s code source arg).mono eventAddrs_tunAddrs)

theorem putRaw_tunOnly (s : State) (cw : Nat) (l : List Byte) (flags : Byte) : TunOnly s (s.putRaw cw l flags) := by
  obtain ⟨m, e⟩ := storeBytes_only (l.take 32) s (cw * 32)
  rw [State.putRaw, e]
  exact tunOnly_of_eq rfl

theorem setNoise_tunOnly (s : State) (cw i : Nat) (b : Byte) : TunOnly s (s.setNoise cw i b) := tunOnly_of_eq rfl

theorem dropNoise_tunOnly (s : State) (p : Nat → Bool) : TunOnly s (s.dropNoise p) := tunOnly_of_eq rfl

theorem putTun_tunOnly (s : State) (cw : Nat) (l : List Byte) (flags : Byte) : TunOnly s (s.putTun cw l flags) :=
  (foldl_rel TunOnly.refl TunOnly.trans (fun u i => setNoise_tunOnly u cw i _) _ s).trans (setNoise_tunOnly _ cw 36 _)

theorem putSeen_tunOnly (s : State) (cw : Nat) (l : List Byte) (flags : Byte) : TunOnly s (s.putSeen cw l flags) :=
  ite_rel (fun _ => putTun_tunOnly s cw l flags) fun _ => putRaw_tunOnly s cw l flags

theorem putCw_tunOnly (s : State) (cw : Nat) (data : List Byte) (poison : Bool) : TunOnly s (s.putCw cw data poison) :=
  putSeen_tunOnly s cw _ _

theorem putDram_tunOnly (s : State) (cw : Nat) (l : List Byte) (flags : Byte) : TunOnly s (s.putDram cw l flags) :=
  ite_rel (fun _ => (putRaw_tunOnly s cw l flags).trans (putTun_tunOnly _ cw _ _)) fun _ => putRaw_tunOnly s cw l flags

/-! ### Errors in the tun and in G7 DRAM (R210, R211, R214) -/

theorem TN_REFETCH_ne : y4xWin 5 ≤ TN_REFETCH → False := by decide

/-- A register of the memory block's is none of the tun's. -/
theorem gm_tunAddrs (o : Nat) : tunAddrs (y4xWin 5 + o) := y4xWin_add_tunAddrs fun e => TN_REFETCH_ne (by omega)

theorem GM_CORR_eq (i : Nat) : y4xWin 5 + (0x100 + 0x8 * i) = GM_CORR i := (Nat.add_assoc _ _ _).symm

theorem GM_UNCORR_eq (i : Nat) : y4xWin 5 + (0x300 + 0x8 * i) = GM_UNCORR i := (Nat.add_assoc _ _ _).symm

theorem tunFound_tunOnly (s : State) (cw : Nat) (dirty uncorr scrub : Bool) : TunOnly s (s.tunFound cw dirty uncorr scrub).1 := by
  have counted (u : State) (m : List (Nat × Nat)) : TunOnly u { u with tunCount := m } := tunOnly_of_eq rfl
  have addr : tunAddrs (if uncorr then TN_UNCORR else TN_CORR) := by
    cases uncorr
    · exact y4xWin_add_tunAddrs (by decide)
    · exact y4xWin_add_tunAddrs (by decide)
  exact ((bump_tunOnly addr s 1).trans (counted _ _)).trans (errLog_tunOnly (y4xWin_add_tunAddrs (by decide)) _ _ _ _)

theorem TN_STATUS_tunAddrs : tunAddrs TN_STATUS := y4xWin_add_tunAddrs (by decide)

theorem storeBack_tunOnly (s : State) (line : Nat) : TunOnly s (s.storeBack line).1 := by
  unfold State.storeBack
  extract_lets v
  have counted : TunOnly s v := (tallyX_tunOnly s _ _ 1).trans (tallyX_tunOnly _ _ _ 256)
  clear_value v
  split
  rename_i x es e
  have stored : TunOnly v x := by
    rw [show x = (x, es).1 from rfl, ← e]
    refine foldl_rel (R := fun x y : State × List (Nat × Bool) => TunOnly x.1 y.1) (fun x => .refl x.1)
      (fun h g => TunOnly.trans h g) (fun x i => ?_) _ (v, [])
    dsimp only
    split <;> exact putRaw_tunOnly _ _ _ _
  exact ((counted.trans stored).trans (dropNoise_tunOnly _ _)).trans (tunOnly_of_eq rfl)

theorem tunError_eq (s : State) (cw : Nat) (dirty uncorr scrub : Bool) : s.tunError cw dirty uncorr scrub =
    if (s.tunFound cw dirty uncorr scrub).2 then
      (s.tunFound cw dirty uncorr scrub).1.disableWay (cw / 8) (kget (s.tunFound cw dirty uncorr scrub).1.tun (cw / 8) {}).way
    else (s.tunFound cw dirty uncorr scrub).1 := by
  unfold State.tunError
  generalize s.tunFound cw dirty uncorr scrub = r
  rfl

/-- The lines behind which errors were found when a line was written back are counted. -/
theorem wroteBack_eq (s : State) (line : Nat) : s.wroteBack line = (s.storeBack line).2.foldl
    (fun (u : State) e => if u.inTun line then u.tunError e.1 true e.2 false else u) (s.storeBack line).1 := by
  unfold State.wroteBack
  generalize s.storeBack line = r
  rfl

theorem disableWay_tunOnly (s : State) (line way : Nat) : TunOnly s (s.disableWay line way) := by
  unfold State.disableWay
  extract_lets set off used u v w
  refine ite_rel (fun _ => set_tunOnly TN_STATUS_tunAddrs s _ _) fun _ => ?_
  have noted : TunOnly s v :=
    ((set_tunOnly TN_STATUS_tunAddrs s _ _).trans (event_tunOnly _ _ _ _)).trans (keepLog_tunOnly _ _)
  have counted (es : List (Nat × Bool)) (u : State) : TunOnly u (es.foldl (fun (u : State) e => (u.tunFound e.1 true e.2 false).1) u) :=
    foldl_rel TunOnly.refl TunOnly.trans (fun u e => tunFound_tunOnly u _ _ _ _) es u
  have stored : TunOnly v w := by
    refine ite_rel (fun _ => .refl v) fun _ => ?_
    have back := storeBack_tunOnly v line
    revert back
    generalize v.storeBack line = r
    exact fun back => back.trans (counted _ _)
  clear_value w v
  exact ((noted.trans stored).trans (dropNoise_tunOnly _ _)).trans (tunOnly_of_eq rfl)

theorem tunError_tunOnly (s : State) (cw : Nat) (dirty uncorr scrub : Bool) : TunOnly s (s.tunError cw dirty uncorr scrub) := by
  rw [tunError_eq]
  exact (tunFound_tunOnly s cw dirty uncorr scrub).trans (ite_rel (fun _ => disableWay_tunOnly _ _ _) fun _ => .refl _)

theorem wroteBack_tunOnly (s : State) (line : Nat) : TunOnly s (s.wroteBack line) := by
  rw [wroteBack_eq]
  exact (storeBack_tunOnly s line).trans (foldl_rel TunOnly.refl TunOnly.trans
    (fun u (e : Nat × Bool) => ite_rel (fun _ => tunError_tunOnly u _ _ _ _) fun _ => .refl u) _ _)

theorem tunRoom_tunOnly (fuel : Nat) (s : State) (line : Nat) : TunOnly s (tunRoom fuel s line) := by
  induction fuel generalizing s with
  | zero => exact .refl s
  | succ fuel ih =>
    unfold tunRoom
    split
    · exact .refl s
    · next e _ =>
      have kept : TunOnly s (if e.2.dirty then s.wroteBack e.1 else s) :=
        ite_rel (fun _ => wroteBack_tunOnly s _) fun _ => .refl s
      exact kept.trans ((tunOnly_of_eq rfl).trans (ih _))

theorem tunInsert_tunOnly (s : State) (line hint : Nat) (dirty : Bool) : TunOnly s (s.tunInsert line hint dirty) :=
  (tunRoom_tunOnly 6 s line).trans (tunOnly_of_eq rfl)

theorem retireRegion_tunOnly (s : State) (r : Nat) : TunOnly s (s.retireRegion r) := by
  have moving (u : State) (v : Option (Nat × Nat × Nat)) (w : List Nat) : TunOnly u { u with move := v, moveWait := w } :=
    ⟨⟨_, _, _, _, _, _, _, _, _, _, _, _, _, _, rfl⟩, fun _ _ => rfl⟩
  have shown (f : Fld) : TunOnly s (s.set GM_STATUS f 1) := set_tunOnly (gm_tunAddrs _) s f 1
  unfold State.retireRegion
  refine ite_rel (fun _ => .refl s) fun _ => ite_rel (fun _ => moving s _ _) fun _ => ?_
  split
  · exact ite_rel (fun _ => (shown _).trans (moving _ _ _)) fun _ => shown _
  · exact shown _

theorem g7Error_tunOnly (s : State) (a : Nat) (uncorr scrub : Bool) : TunOnly s (s.g7Error a uncorr scrub) := by
  have counted (u : State) (m : List (Nat × Nat)) : TunOnly u { u with regionCount := m } := tunOnly_of_eq rfl
  unfold State.g7Error
  extract_lets _ unit v w x
  have found : TunOnly s v := by
    refine bump_tunOnly ?_ s 1
    cases uncorr
    · exact (GM_CORR_eq (unit % 64)).subst (motive := tunAddrs) (gm_tunAddrs _)
    · exact (GM_UNCORR_eq (unit % 64)).subst (motive := tunAddrs) (gm_tunAddrs _)
  have tallied : TunOnly v w := ite_rel (fun _ => .refl v) fun _ => tallyX_tunOnly v _ _ _
  have logged : TunOnly s x := (found.trans tallied).trans (errLog_tunOnly (gm_tunAddrs _) _ _ _ _)
  clear_value x
  split
  · exact logged.trans ((counted x _).trans (ite_rel (fun _ => retireRegion_tunOnly _ _) fun _ => .refl _))
  · exact logged

theorem readDram_tunOnly (s : State) (cw : Nat) (scrub : Bool) : TunOnly s (s.readDram cw scrub).2.2 := by
  unfold State.readDram
  dsimp only
  split
  · exact .refl s
  · dsimp only
    exact (putDram_tunOnly s cw _ _).trans (g7Error_tunOnly _ _ _ _)
  · dsimp only
    exact (putDram_tunOnly s cw _ _).trans (g7Error_tunOnly _ _ _ _)

theorem fillLine_tunOnly (s : State) (line : Nat) : TunOnly s (s.fillLine line) :=
  foldl_rel TunOnly.refl TunOnly.trans
    (fun u i => (readDram_tunOnly u (line * 8 + i) false).trans (putTun_tunOnly _ _ _ _)) _ s

/-! ### Reading a codeword (R207, R212) -/

/-- An error found in a codeword is recorded where the codeword lies (R210, R211). -/
def State.wordError (s : State) (cw : Nat) (scrub uncorr : Bool) : State :=
  match place (cw * 32) with
  | .cellar n o => s.cellarError n (cellarTier o) (cellarRow o) (cellarCw o) uncorr scrub
  | .pocket n o => s.pocketError n o uncorr scrub
  | .g7 a => if s.inTun (cw / 8) then s.tunError cw (!s.cleanLine (cw / 8)) uncorr scrub else s.g7Error a uncorr scrub
  | _ => (spareOf cw).elim s fun r => s.cellarError r.1 r.2.1 r.2.2.1 r.2.2.2 uncorr scrub

/-- A line of the tun is dropped and filled again, which TN_REFETCH counts (R212). -/
def State.refilled (s : State) (line : Nat) : State :=
  let s := ({ s with tun := kdel s.tun line }.dropNoise fun x => x / 8 == line).bump TN_REFETCH 1
  ((s.tallyX 0xA01 (g7Chan (line * 256 - 0x001000000000)) 256).tunInsert line 0 false).fillLine line

theorem readCw_eq (s : State) (cw : Nat) (scrub : Bool) : s.readCw cw scrub =
    match t2Decode (s.seen cw) with
    | .good => ((s.seen cw).take 32, s.poisoned cw, s)
    | .corrected f => (f.take 32, s.poisoned cw, (s.putSeen cw f (thrice (s.poisoned cw))).wordError cw scrub false)
    | .uncorrectable =>
      if s.cleanLine (cw / 8) then
        let u := (s.wordError cw scrub true).refilled (cw / 8)
        ((u.seen cw).take 32, u.poisoned cw, u)
      else ((s.seen cw).take 32, true, (s.putSeen cw (s.seen cw) 7).wordError cw scrub true) := by
  rw [State.readCw]
  dsimp only
  cases t2Decode (s.seen cw) with
  | good => rfl
  | corrected f => rfl
  | uncorrectable => rfl

/-- A line filled again: from the count on, only memory and the tun change. -/
theorem refilled_tunOnly (s : State) (line : Nat) : ∃ v, TunOnly s v ∧ TunOnly (v.bump TN_REFETCH 1) (s.refilled line) := by
  unfold State.refilled
  extract_lets u
  exact ⟨_, tunOnly_of_eq rfl, ((tallyX_tunOnly u _ _ _).trans (tunInsert_tunOnly _ _ _ _)).trans (fillLine_tunOnly _ _)⟩

/-- What a read of a codeword does is made of what memory and the tun change, the count of refetches, and the errors it records. -/
theorem readCw_rel {R : State → State → Prop} (refl : ∀ s, R s s) (trans : ∀ {s u v}, R s u → R u v → R s v)
    (tun : ∀ {s u}, TunOnly s u → R s u) (refetch : ∀ s, R s (s.bump TN_REFETCH 1)) {cw : Nat} {scrub : Bool}
    (error : ∀ s uncorr, R s (s.wordError cw scrub uncorr)) (s : State) : R s (s.readCw cw scrub).2.2 := by
  rw [readCw_eq]
  split
  · exact refl s
  · exact trans (tun (putSeen_tunOnly s cw _ _)) (error _ false)
  · split
    · obtain ⟨v, before, after⟩ := refilled_tunOnly (s.wordError cw scrub true) (cw / 8)
      exact trans (error s true) (trans (tun before) (trans (refetch v) (tun after)))
    · exact trans (tun (putSeen_tunOnly s cw _ _)) (error _ true)

end Sys2Proof.Machine
end

section
/-! SUPPORT. Scrubbing and the retirement of cellar rows (R206 to R213, R237): where a scrub read leaves its scrubber, and what the copy
of a row leaves of the chamber whose row it is. -/

namespace Sys2Proof.Machine

/-! ### Data phases (R237 to R239) -/

/-- Only the arbiters change. -/
def ArbsOnly (s u : State) : Prop := ∃ a, u = { s with arbs := a }

theorem arbMoved_only (s : State) (q : ArbReq) (route : List (Nat × Nat)) : ArbsOnly s (s.arbMoved q route) :=
  foldl_rel (R := ArbsOnly) (fun _ => ⟨_, rfl⟩) (by rintro _ _ _ ⟨_, rfl⟩ ⟨a, rfl⟩; exact ⟨a, rfl⟩) (fun _ _ => ⟨_, rfl⟩) _ s

theorem arbitrate_of_clear {s : State} {q : ArbReq} {route : List (Nat × Nat)} (clear : s.clear q route = true) (act : State → State) :
    s.arbitrate q route act = act (s.arbMoved q route) := if_pos clear

/-! ### The scrubbers (R210, R211) -/

theorem showScrub_scrubs (s : State) (x : ScrubStore) : (s.showScrub x).scrubs = s.scrubs := by
  cases x with
  | cellar n => exact State.set_scrubs s (CL_STATUS n) _ _
  | pocket n => exact State.set_scrubs s (CL_STATUS n) _ _
  | tun => exact State.set_scrubs s TN_STATUS _ _
  | g7 => exact State.set_scrubs s GM_STATUS _ _

/-- A scrubber goes on by one codeword, and after the last starts again (R210). -/
theorem scrubDone_scrubs (s : State) (x : ScrubStore) (i : Nat) (l : List Upset) :
    kget (s.scrubDone x i l).scrubs (scrubKey x) (0, false) = if i + 1 < scrubWords x then (i + 1, true) else (0, false) := by
  unfold State.scrubDone
  extract_lets u j v
  rw [showScrub_scrubs v x, kget_kfind]
  by_cases more : j < scrubWords x
  · simp only [v, if_pos more, kfind_kset, if_true, Option.getD_some]
    exact (if_pos more).symm
  · simp only [v, if_neg more, kfind_kdel, if_true, Option.getD_none]
    exact (if_neg more).symm

theorem scrubRead_of_granted {s : State} {x : ScrubStore} {l : List Upset} {i : Nat} {on : Bool}
    (here : kget s.scrubs (scrubKey x) (0, false) = (i, on)) (runs : on = true ∨ s.scrubPeriod x ≠ 0)
    (clear : s.clear (otherReq (some 0) 9 (scrubKey x)) (s.scrubRoute x i l) = true) :
    exec (.scrubRead x l) s
      = .next ((s.arbMoved (otherReq (some 0) 9 (scrubKey x)) (s.scrubRoute x i l)).scrubDone x i l) := by
  rw [show exec (.scrubRead x l) s = execScrubRead x l s from rfl, execScrubRead, here]
  dsimp only
  rw [if_neg (by rintro ⟨off, none⟩; rcases runs with rfl | some_; exacts [Bool.noConfusion off, some_ none]), arbitrate_of_clear clear]

/-! ### The codewords of a row (R192, R213) -/

theorem place_cellar {n o : Nat} (hn : n < 1024) (ho : o < 0x01800000) : place (n * 0x01800000 + o) = .cellar n o := by
  unfold place
  rw [if_pos (by omega), show (n * 0x01800000 + o) / 0x01800000 = n by omega, show (n * 0x01800000 + o) % 0x01800000 = o by omega]

/-- Codeword `c` of a data row lies in its tier and row. -/
theorem place_rowWord {n tier row c : Nat} (hn : n < 1024) (ht : tier < 4) (hr : row < 3072) (hc : c < 64) :
    ∃ o, place (rowWord n tier row c * 32) = .cellar n o ∧ cellarTier o = tier ∧ cellarRow o = row ∧ cellarCw o = c := by
  have word : rowWord n tier row c * 32 = n * 0x01800000 + ((row * 8 + c / 8) * 1024 + tier * 256 + c % 8 * 32) := by
    unfold rowWord
    dsimp only
    rw [if_pos hr]
    omega
  refine ⟨_, word ▸ place_cellar hn (by omega), ?_, ?_, ?_⟩
  · unfold cellarTier
    omega
  · unfold cellarRow cellarLocal
    omega
  · unfold cellarCw cellarLocal
    omega

/-- Codeword `c` of a spare row lies under a key that no address reaches. -/
theorem spareOf_spareCw {n tier k c : Nat} (hn : n < 1024) (ht : tier < 4) (hk : k < 16) (hc : c < 64) :
    place (spareCw n tier k c * 32) = .hole ∧ spareOf (spareCw n tier k c) = some (n, tier, 3072 + k, c) := by
  have bound : n * 4096 + tier * 1024 + k * 64 + c < 1024 * 4096 := by omega
  have word : spareCw n tier k c = 0x000860000000 / 32 + (n * 4096 + tier * 1024 + k * 64 + c) := by
    unfold spareCw
    omega
  rw [word]
  constructor
  · unfold place
    rw [if_neg (by omega), if_neg (by omega), if_neg (by omega), if_neg (by omega)]
  · unfold spareOf
    dsimp only
    rw [if_pos (by omega), Nat.add_sub_cancel_left]
    simp only [Option.some.injEq, Prod.mk.injEq]
    omega

/-- An error in a codeword of a row, spare or not, is one of that row. -/
theorem wordError_rowWord {n tier row c : Nat} (hn : n < 1024) (ht : tier < 4) (hr : row < 3088) (hc : c < 64) (s : State)
    (scrub uncorr : Bool) : s.wordError (rowWord n tier row c) scrub uncorr = s.cellarError n tier row c uncorr scrub := by
  unfold State.wordError
  by_cases data : row < 3072
  · obtain ⟨o, cellar, rfl, rfl, rfl⟩ := place_rowWord hn ht data hc
    rw [cellar]
  · have spare : rowWord n tier row c = spareCw n tier (row - 3072) c := if_neg data
    obtain ⟨hole, is⟩ := spareOf_spareCw hn ht (k := row - 3072) (by omega) hc
    rw [spare, hole, is, show 3072 + (row - 3072) = row by omega]
    rfl

/-! ### What a copy of a row keeps (R213) -/

/-- While a row waits for its copy, what retires in the chamber, its map of spare rows and CL_STATUS stay as they are. -/
def KeepsRow (n key : Nat) (s u : State) : Prop :=
  key ∈ (s.ch n).retiring →
    (u.ch n).retiring = (s.ch n).retiring ∧ (u.ch n).rowMap = (s.ch n).rowMap ∧ u.reg (CL_STATUS n) = s.reg (CL_STATUS n)

theorem KeepsRow.refl (n key : Nat) (s : State) : KeepsRow n key s s := fun _ => ⟨rfl, rfl, rfl⟩

theorem KeepsRow.trans {n key : Nat} {s u v : State} (h : KeepsRow n key s u) (g : KeepsRow n key u v) : KeepsRow n key s v := by
  intro waits
  obtain ⟨retiring, rowMap, status⟩ := h waits
  obtain ⟨retiring', rowMap', status'⟩ := g (retiring ▸ waits)
  exact ⟨retiring'.trans retiring, rowMap'.trans rowMap, status'.trans status⟩

theorem CL_STATUS_below {n : Nat} (hn : n < 1024) : CL_STATUS n < y4xWin 0 := by
  simp only [CL_STATUS, chWin, y4xWin]
  omega

theorem TunOnly.keepsRow {n : Nat} (hn : n < 1024) (key : Nat) {s u : State} (h : TunOnly s u) : KeepsRow n key s u := by
  intro _
  have chambers : u.ch n = s.ch n := by rw [State.ch, h.chambers, State.ch]
  exact ⟨by rw [chambers], by rw [chambers], h.2 _ fun y4x => absurd y4x.1 (Nat.not_le.2 (CL_STATUS_below hn))⟩

/-- A row that waits for its copy already does not start to retire again. -/
theorem retireRow_of_waiting {s : State} {n tier row : Nat} (hr : row < 4096) (waits : tier * 4096 + row ∈ (s.ch n).retiring) :
    s.retireRow n tier row = s := by
  unfold State.retireRow
  dsimp only
  rw [if_pos]
  rw [List.contains_iff_mem, List.mem_filter]
  exact ⟨waits, by rw [decide_eq_true_eq]; omega⟩

theorem set_keepsRow {n a : Nat} (key : Nat) (ne : CL_STATUS n ≠ a) (s : State) (f : Fld) (x : Nat) : KeepsRow n key s (s.set a f x) :=
  fun _ => ⟨rfl, rfl, State.reg_set_ne s f x ne⟩

theorem errLog_keepsRow {n a : Nat} (key : Nat) (ne : CL_STATUS n ≠ a) (s : State) (valid ovr : Fld) (fs : List (Fld × Nat)) :
    KeepsRow n key s (s.errLog a valid ovr fs) := by
  have regs := errLog_keepsRegs (p := (· = a)) rfl s valid ovr fs (CL_STATUS n) ne
  obtain ⟨r, e⟩ := errLog_only s a valid ovr fs
  rw [e] at regs ⊢
  exact fun _ => ⟨rfl, rfl, regs⟩

theorem tally_keepsRow (s : State) (n key ev : Nat) : KeepsRow n key s (s.tally n ev .any 1) := by
  obtain ⟨p, e⟩ := tally_only s n ev .any 1
  rw [e]
  exact fun _ => ⟨rfl, rfl, rfl⟩

theorem CL_STATUS_ne {n o : Nat} (h : 0x6008 ≠ o) : CL_STATUS n ≠ chWin n + o := by
  simp only [CL_STATUS]
  omega

theorem cellarError_keepsRow {n tier row : Nat} (hr : row < 4096) (s : State) (cw : Nat) (uncorr scrub : Bool) :
    KeepsRow n (tier * 4096 + row) s (s.cellarError n tier row cw uncorr scrub) := by
  intro waits
  unfold State.cellarError
  extract_lets a b key c d e
  have logged : KeepsRow n key s e := by
    have bumped : KeepsRow n key s a := set_keepsRow key (by
      cases uncorr
      · exact CL_STATUS_ne (by decide)
      · exact CL_STATUS_ne (by decide)) s _ _
    have tallied : KeepsRow n key a b := ite_rel (R := KeepsRow n key) (fun _ => .refl n key a) fun _ => tally_keepsRow a n key _
    have counted : KeepsRow n key b d := fun _ => by
      simp only [d, State.ch_modCh_same, true_and]
      rfl
    exact ((bumped.trans tallied).trans counted).trans (errLog_keepsRow key (CL_STATUS_ne (by decide)) d _ _ _)
  obtain ⟨retiring, rowMap, status⟩ := logged waits
  clear_value e
  rw [retireRow_of_waiting hr (retiring ▸ waits), ite_self]
  exact ⟨retiring, rowMap, status⟩

/-- A read of a codeword of a row that waits for its copy. -/
theorem readCw_keepsRow {n tier row c : Nat} (hn : n < 1024) (ht : tier < 4) (hr : row < 3088) (hc : c < 64) (s : State) :
    KeepsRow n (tier * 4096 + row) s (s.readCw (rowWord n tier row c) false).2.2 := by
  have refetch : CL_STATUS n ≠ TN_REFETCH := by
    have := CL_STATUS_below hn
    have : y4xWin 0 ≤ TN_REFETCH := by decide
    omega
  refine readCw_rel (R := KeepsRow n (tier * 4096 + row)) (.refl n _) .trans (TunOnly.keepsRow hn _)
    (fun u => set_keepsRow _ refetch u count32 _) (fun u uncorr => ?_) s
  rw [wordError_rowWord hn ht hr hc]
  exact cellarError_keepsRow (by omega) u c uncorr false

/-- A fold whose every step over the list's items is related keeps the relation. -/
theorem foldl_rel_mem {α β : Type} {R : β → β → Prop} (refl : ∀ x, R x x) (trans : ∀ {x y z}, R x y → R y z → R x z)
    {f : β → α → β} {l : List α} (h : ∀ a ∈ l, ∀ x, R x (f x a)) (x : β) : R x (l.foldl f x) := by
  induction l generalizing x with
  | nil => exact refl x
  | cons a l ih => exact trans (h a List.mem_cons_self x) (ih (fun b hb => h b (List.mem_cons_of_mem _ hb)) _)

/-! ### The end of a row copy (R213) -/

/-- The codewords of a row are copied to spare `k` of its tier, or, those of a data row, stored anew, as they stand for the spare. -/
def State.rowWordsCopied (s : State) (n : Ch) (tier row k : Nat) : State :=
  (List.range 64).foldl (fun (s : State) c =>
    let (d, p, s) := s.readCw (rowWord n tier row c) false
    s.putCw (if row < 3072 then rowWord n tier row c else spareCw n tier k c) d p) s

/-- The spare that a row's copy takes: the first that is free and not the row itself. -/
def State.copySpare (s : State) (n : Ch) (key : Nat) : Nat :=
  ((s.freeSpares n (key / 4096)).find? fun k => key % 4096 != 3072 + k).getD 0

/-- A copied row's addresses map to its spare; the row waits no more. -/
def State.rowMapped (s : State) (n : Ch) (key k : Nat) : State :=
  (s.spareRow n (key / 4096) (key % 4096) k).modCh n fun c => { c with
    retiring := c.retiring.filter (· != key)
    rowCount := kdel c.rowCount key }

/-- RETIRING shows the rows that wait; the retirement is logged and counted. -/
def State.rowNoted (s : State) (n : Ch) (key : Nat) : State :=
  let s := s.set (CL_STATUS n) CL_STATUS.RETIRING (bit !(s.ch n).retiring.isEmpty)
  let s := s.keepLog fun l => { l with retired := l.retired ++ [.cellarRow n (Fin.ofNat 4 (key / 4096)) (key % 4096)] }
  (s.tally n 0x803 .any 1).event 0xE004 n key

theorem rowCopied_eq (s : State) (n : Ch) (key : Nat) : s.rowCopied n key =
    ((s.rowWordsCopied n (key / 4096) (key % 4096) (s.copySpare n key)).rowMapped n key (s.copySpare n key)).rowNoted n key := rfl

theorem rowWordsCopied_keepsRow {n : Ch} {tier row : Nat} (ht : tier < 4) (hr : row < 3088) (k : Nat) (s : State) :
    KeepsRow n (tier * 4096 + row) s (s.rowWordsCopied n tier row k) := by
  refine foldl_rel_mem (.refl n _) .trans (fun c hc u => ?_) s
  have read := readCw_keepsRow n.isLt ht hr (List.mem_range.1 hc) u
  revert read
  generalize u.readCw (rowWord n tier row c) false = r
  exact fun read => read.trans ((putCw_tunOnly _ _ _ _).keepsRow n.isLt _)

/-- The chamber and CL_STATUS once a row is mapped to its spare. -/
theorem rowMapped_spec (s : State) (n : Ch) {key k : Nat} (ht : key / 4096 < 4) :
    kfind ((s.rowMapped n key k).ch n).rowMap key = some k
      ∧ ((s.rowMapped n key k).ch n).retiring = (s.ch n).retiring.filter (· != key)
      ∧ (s.rowMapped n key k).get (CL_STATUS n) (clSpares (key / 4096)) = (s.get (CL_STATUS n) (clSpares (key / 4096)) + 1) % 32 := by
  have whole : key / 4096 * 4096 + key % 4096 = key := by omega
  refine ⟨?_, ?_, ?_⟩
  · rw [State.rowMapped, State.spareRow, State.ch_modCh_same, State.ch_modCh_same, State.set_ch_, whole]
    cases kfind (s.ch n).rowMap key with
    | none => simp
    | some j => simp
  · rw [State.rowMapped, State.spareRow, State.ch_modCh_same, State.ch_modCh_same, State.set_ch_]
  · have status : (s.rowMapped n key k).reg (CL_STATUS n) = (s.set (CL_STATUS n) (clSpares (key / 4096))
        (s.get (CL_STATUS n) (clSpares (key / 4096)) + 1)).reg (CL_STATUS n) := by
      rw [State.rowMapped, State.spareRow, State.reg, State.modCh_regs, State.modCh_regs, State.reg]
    rw [State.get, status, ← State.get, State.get_set_same _ _ _ _ (by simp only [clSpares]; omega)]
    rfl

theorem rowNoted_only (s : State) (n : Ch) (key : Nat) : (s.rowNoted n key).chambers = s.chambers
    ∧ KeepsRegs (· ∈ eventAddrs) (s.set (CL_STATUS n) CL_STATUS.RETIRING (bit !(s.ch n).retiring.isEmpty)) (s.rowNoted n key) := by
  have logged {u v : State} (h : LogsOnly u v) : v.chambers = u.chambers := by
    obtain ⟨_, _, _, rfl⟩ := h
    rfl
  have tallied (u : State) : (u.tally n 0x803 .any 1).chambers = u.chambers := by
    obtain ⟨p, e⟩ := tally_only u n 0x803 .any 1
    rw [e]
  have shown := State.set_chambers s (CL_STATUS n) CL_STATUS.RETIRING (bit !(s.ch n).retiring.isEmpty)
  rw [State.rowNoted]
  revert shown
  generalize s.set (CL_STATUS n) CL_STATUS.RETIRING (bit !(s.ch n).retiring.isEmpty) = u
  intro shown
  generalize kept : u.keepLog _ = v
  have logs : LogsOnly u v := kept ▸ keepLog_only u _
  have regs : KeepsRegs (· ∈ eventAddrs) u v := kept ▸ keepLog_keepsRegs _ u _
  exact ⟨(logged (event_only _ 0xE004 n key)).trans ((tallied v).trans ((logged logs).trans shown)),
    (regs.trans ((tally_only v n 0x803 .any 1).keepsRegs _)).trans (event_keepsRegs _ 0xE004 n key)⟩

theorem CL_STATUS_notMem_eventAddrs (n : Ch) : ¬ CL_STATUS n ∈ eventAddrs := fun h =>
  absurd (eventAddrs_tunAddrs _ h).1 (Nat.not_le.2 (CL_STATUS_below n.isLt))

/-- What the copy of the first row that waits leaves of its chamber. -/
theorem rowCopied_spec {s : State} {n : Ch} {key : Nat} {rest : List Nat} (waits : (s.ch n).retiring = key :: rest)
    (ht : key / 4096 < 4) (hr : key % 4096 < 3088) :
    let u := s.rowCopied n key
    kfind (u.ch n).rowMap key = some (s.copySpare n key)
      ∧ u.get (CL_STATUS n) (clSpares (key / 4096)) = (s.get (CL_STATUS n) (clSpares (key / 4096)) + 1) % 32
      ∧ (u.ch n).retiring = rest.filter (· != key)
      ∧ u.get (CL_STATUS n) CL_STATUS.RETIRING = bit (!(rest.filter (· != key)).isEmpty) := by
  have whole : key / 4096 * 4096 + key % 4096 = key := by omega
  have kept := rowWordsCopied_keepsRow (n := n) ht hr (s.copySpare n key) s
  rw [whole] at kept
  obtain ⟨retiring, -, status⟩ := kept (waits ▸ List.mem_cons_self)
  obtain ⟨mapped, left, spares⟩ := rowMapped_spec (s.rowWordsCopied n (key / 4096) (key % 4096) (s.copySpare n key)) n
    (k := s.copySpare n key) ht
  rw [rowCopied_eq]
  generalize (s.rowWordsCopied n (key / 4096) (key % 4096) (s.copySpare n key)).rowMapped n key (s.copySpare n key) = v at *
  rw [retiring, waits, List.filter_cons_of_neg (by simp)] at left
  obtain ⟨chambers, regs⟩ := rowNoted_only v n key
  have chamber : (v.rowNoted n key).ch n = v.ch n := by rw [State.ch, chambers, State.ch]
  dsimp only
  rw [chamber, regs.get (CL_STATUS_notMem_eventAddrs n), regs.get (CL_STATUS_notMem_eventAddrs n), left]
  refine ⟨mapped, ?_, rfl, ?_⟩
  · rw [State.get_set_other _ _ _ _ _ _ (by simp only [clSpares]; omega) (by simp only [clSpares, CL_STATUS.RETIRING]; omega), spares,
      State.get, status, State.get]
  · rw [State.get_set_same _ _ _ _ (by decide)]
    cases (rest.filter (· != key)).isEmpty <;> rfl

theorem cellarRowCopyEnd_of_granted {s : State} {n : Ch} {key : Nat} {rest : List Nat} (waits : (s.ch n).retiring = key :: rest)
    (clear : s.clear (otherReq (some 7) 11 n) [(n.val * 4, 5)] = true) :
    exec (.cellarRowCopyEnd n) s = .next ((s.arbMoved (otherReq (some 7) 11 n) [(n.val * 4, 5)]).rowCopied n key) := by
  rw [show exec (.cellarRowCopyEnd n) s = execCellarRowCopyEnd n s from rfl, execCellarRowCopyEnd, waits]
  dsimp only
  rw [arbitrate_of_clear clear]

/-- Settles O16: the scrubber's place follows from what a scrub read writes; what reading the row's codewords finds concerns a row that
waits already, so the chamber stays as it was until the row is mapped. -/
theorem scrubAndRowCopyComplete : Obligations.ScrubAndRowCopyComplete := by
  unfold Obligations.ScrubAndRowCopyComplete
  intro s
  refine ⟨fun x l i on here runs clear => ⟨_, scrubRead_of_granted here runs clear, scrubDone_scrubs _ x i l⟩, ?_⟩
  intro n key rest waits used ht hr clear
  obtain ⟨a, moved⟩ := arbMoved_only s (otherReq (some 7) 11 n) [(n.val * 4, 5)]
  have spec := rowCopied_spec (s := s.arbMoved (otherReq (some 7) 11 n) [(n.val * 4, 5)]) (by rw [moved]; exact waits) ht hr
  obtain ⟨mapped, spares, left, shown⟩ := spec
  refine ⟨_, cellarRowCopyEnd_of_granted waits clear, fun k free => ?_, ?_, left, shown⟩
  · have spare : (s.arbMoved (otherReq (some 7) 11 n) [(n.val * 4, 5)]).copySpare n key = k := by
      rw [moved]
      exact congrArg (·.getD 0) free
    rw [mapped, spare]
  · rw [spares, moved]
    rfl

end Sys2Proof.Machine
end

section
/-! SUPPORT. Region moves, invalidations and the flush of the tun (R195, R197, R203, R214, R218, R219). -/

namespace Sys2Proof.Machine

theorem set_keepsOthers (s : State) (a : Nat) (f : Fld) (x : Nat) : KeepsRegs (· = a) s (s.set a f x) :=
  set_keepsRegs (p := (· = a)) rfl s f x

/-! ### Invalidation (R203, R219) -/

/-- GM_INVAL_STATUS once both its fields are written. -/
theorem invalShown (s : State) (busy done : Nat) :
    let u := (s.set GM_INVAL_STATUS GM_INVAL_STATUS.BUSY busy).set GM_INVAL_STATUS GM_INVAL_STATUS.DONE done
    KeepsRegs (· = GM_INVAL_STATUS) s u ∧ u.get GM_INVAL_STATUS GM_INVAL_STATUS.BUSY = busy % 2
      ∧ u.get GM_INVAL_STATUS GM_INVAL_STATUS.DONE = done % 2 := by
  refine ⟨(set_keepsOthers s _ _ _).trans (set_keepsOthers _ _ _ _), ?_, State.get_set_same _ _ _ _ (by decide)⟩
  rw [State.get_set_other _ _ _ _ _ _ (by decide) (by decide), State.get_set_same s _ _ _ (by decide)]
  rfl

/-- An invalidation that starts: its scope is held, with GM_INVAL_VA as it stands, and GM_INVAL_STATUS shows it. -/
theorem invalStart_idle {s : State} (idle : s.get GM_INVAL_STATUS GM_INVAL_STATUS.BUSY = 0) (scope x k : Nat) :
    s.invalStart scope x k = { (s.set GM_INVAL_STATUS GM_INVAL_STATUS.BUSY 1).set GM_INVAL_STATUS GM_INVAL_STATUS.DONE 0 with
      inval := some (scope, x, k, s.get GM_INVAL_VA GM_INVAL_VA.VA) } := by
  obtain ⟨regs, -, -⟩ := invalShown s 1 0
  unfold State.invalStart
  rw [if_neg (by omega)]
  dsimp only
  rw [regs.get (by decide : ¬ GM_INVAL_VA = GM_INVAL_STATUS)]

theorem invalStart_busy {s : State} (busy : s.get GM_INVAL_STATUS GM_INVAL_STATUS.BUSY = 1) (scope x k : Nat) :
    s.invalStart scope x k = s := if_pos busy

/-- The start of an invalidation while none runs. -/
theorem invalStart_complete {s : State} (idle : s.get GM_INVAL_STATUS GM_INVAL_STATUS.BUSY = 0) (scope x k : Nat) :
    let u := s.invalStart scope x k
    u = { s with regs := u.regs, inval := some (scope, x, k, s.get GM_INVAL_VA GM_INVAL_VA.VA) }
      ∧ KeepsRegs (· = GM_INVAL_STATUS) s u ∧ u.get GM_INVAL_STATUS GM_INVAL_STATUS.BUSY = 1
      ∧ u.get GM_INVAL_STATUS GM_INVAL_STATUS.DONE = 0 := by
  obtain ⟨regs, busy, done⟩ := invalShown s 1 0
  dsimp only
  rw [invalStart_idle idle]
  exact ⟨rfl, regs, busy, done⟩

/-- Once an invalidation is asked for, one runs. -/
theorem invalStart_runs (s : State) (scope x k : Nat) :
    (s.invalStart scope x k).get GM_INVAL_STATUS GM_INVAL_STATUS.BUSY = 1 ∧ (s.invalStart scope x k).move = s.move := by
  by_cases busy : s.get GM_INVAL_STATUS GM_INVAL_STATUS.BUSY = 1
  · rw [invalStart_busy busy]
    exact ⟨busy, rfl⟩
  · have idle : s.get GM_INVAL_STATUS GM_INVAL_STATUS.BUSY = 0 := by
      have bit_ : s.get GM_INVAL_STATUS GM_INVAL_STATUS.BUSY < 2 := s.get_lt GM_INVAL_STATUS GM_INVAL_STATUS.BUSY
      omega
    obtain ⟨only, -, runs, -⟩ := invalStart_complete idle scope x k
    exact ⟨runs, by rw [only]⟩

/-- What an invalidation leaves of a translation cache. -/
theorem kfind_outOfScope (m : List (Nat × Nat)) (scope x k va key : Nat) :
    kfind (m.filter fun e => !inScope scope x k va e.1) key = if inScope scope x k va key then none else kfind m key := by
  rw [kfind_filter m (fun j => !inScope scope x k va j) key]
  cases inScope scope x k va key <;> rfl

theorem kget_mapValues {β : Type} (m : List (Nat × β)) (f : β → β) (k : Nat) (d : β) (h : f d = d) :
    kget (m.map fun c => (c.1, f c.2)) k d = f (kget m k d) := by
  induction m with
  | nil => exact h.symm
  | cons e m ih =>
    simp only [List.map_cons, kget]
    split
    · rfl
    · exact ih

/-- The end of an invalidation. -/
theorem gmInvalDone_complete {s : State} {scope x k va : Nat} (runs : s.inval = some (scope, x, k, va)) :
    ∃ u, exec .gmInvalDone s = .next u
      ∧ u = { s with regs := u.regs, inval := none, ytlb := u.ytlb, chambers := u.chambers }
      ∧ KeepsRegs (· = GM_INVAL_STATUS) s u ∧ u.get GM_INVAL_STATUS GM_INVAL_STATUS.BUSY = 0
      ∧ u.get GM_INVAL_STATUS GM_INVAL_STATUS.DONE = 1
      ∧ ∀ key, kfind u.ytlb key = (if inScope scope x k va key then none else kfind s.ytlb key)
        ∧ ∀ n, kfind (u.ch n).tlb key = if inScope scope x k va key then none else kfind (s.ch n).tlb key := by
  have run : exec .gmInvalDone s = execGmInvalDone s := rfl
  rw [run, execGmInvalDone, runs]
  dsimp only
  generalize left : ({ s with inval := none, ytlb := _, chambers := _ } : State) = v
  obtain ⟨regs, busy, done⟩ := invalShown v 0 1
  subst left
  refine ⟨_, rfl, rfl, regs, busy, done, fun key => ⟨kfind_outOfScope .., fun n => ?_⟩⟩
  · rw [← kfind_outOfScope]
    exact congrArg (fun c : Chamber => kfind c.tlb key)
      (kget_mapValues s.chambers (fun c => { c with tlb := c.tlb.filter fun e => !inScope scope x k va e.1 }) n {} rfl)

/-! ### The flush of the tun (R218) -/

/-- A dirty line of the tun was there, and dirty, before. -/
def Cleaner (s u : State) : Prop := ∀ e ∈ u.tun, e.2.dirty = true → e ∈ s.tun

theorem Cleaner.refl (s : State) : Cleaner s s := fun _ he _ => he

theorem Cleaner.trans {s u v : State} (h : Cleaner s u) (g : Cleaner u v) : Cleaner s v := fun e he d => h e (g e he d) d

theorem cleaner_of_tun {s u : State} (h : u.tun = s.tun) : Cleaner s u := fun _ he _ => h ▸ he

theorem cleaner_of_filter {s u : State} {p : Nat × TunLine → Bool} (h : u.tun = s.tun.filter p) : Cleaner s u :=
  fun _ he _ => List.mem_of_mem_filter (h ▸ he)

theorem LogsOnly.tun {s u : State} : LogsOnly s u → u.tun = s.tun := by rintro ⟨_, _, _, rfl⟩; rfl
theorem PerfOnly.tun {s u : State} : PerfOnly s u → u.tun = s.tun := by rintro ⟨_, rfl⟩; rfl

theorem putRaw_tun (s : State) (cw : Nat) (l : List Byte) (flags : Byte) : (s.putRaw cw l flags).tun = s.tun := by
  obtain ⟨m, e⟩ := storeBytes_only (l.take 32) s (cw * 32)
  rw [State.putRaw, e]
  rfl

theorem storeBack_tun (s : State) (line : Nat) :
    (s.storeBack line).1.tun = (kfind s.tun line).elim s.tun fun t => kset s.tun line { t with dirty := false } := by
  unfold State.storeBack
  extract_lets v
  have counted : v.tun = s.tun := (tallyX_only _ _ _ 256).tun.trans (tallyX_only s _ _ 1).tun
  clear_value v
  split
  rename_i x es e
  have stored : x.tun = v.tun := by
    rw [show x = (x, es).1 from rfl, ← e]
    refine foldl_rel (R := fun x y : State × List (Nat × Bool) => y.1.tun = x.1.tun) (fun _ => rfl) (fun h g => g.trans h)
      (fun x i => ?_) _ (v, [])
    dsimp only
    split <;> exact putRaw_tun _ _ _ _
  rw [← counted, ← stored]
  rfl

/-- A line written back is clean. -/
theorem storeBack_cleaner (s : State) (line : Nat) :
    Cleaner s (s.storeBack line).1 ∧ ∀ e ∈ (s.storeBack line).1.tun, e.2.dirty = true → e.1 ≠ line := by
  rw [Cleaner, storeBack_tun]
  cases found : kfind s.tun line with
  | none => exact ⟨fun _ he _ => he, fun e he _ => kfind_none.1 found e he⟩
  | some t =>
    have rest (e : Nat × TunLine) (he : e ∈ kset s.tun line { t with dirty := false }) (d : e.2.dirty = true) : e ∈ s.tun ∧ e.1 ≠ line := by
      rcases mem_kins.1 he with new | he
      · rw [new] at d
        cases d
      · simpa [kdel] using he
    exact ⟨fun e he d => (rest e he d).1, fun e he d => (rest e he d).2⟩

theorem tunFound_tun (s : State) (cw : Nat) (dirty uncorr scrub : Bool) : (s.tunFound cw dirty uncorr scrub).1.tun = s.tun :=
  ((errLog_only _ _ _ _ _).logs.tun).trans (by rfl)

theorem disableWay_cleaner (s : State) (line way : Nat) : Cleaner s (s.disableWay line way) := by
  have counted (es : List (Nat × Bool)) (u : State) :
      Cleaner u (es.foldl (fun (u : State) e => (u.tunFound e.1 true e.2 false).1) u) :=
    foldl_rel Cleaner.refl Cleaner.trans (fun u e => cleaner_of_tun (tunFound_tun u _ _ _ _)) es u
  unfold State.disableWay
  extract_lets set off used u v w
  refine ite_rel (fun _ => cleaner_of_tun rfl) fun _ => ?_
  have noted : Cleaner s v := cleaner_of_tun ((keepLog_only _ _).tun.trans ((event_only _ _ _ _).tun.trans rfl))
  have stored : Cleaner v w := by
    refine ite_rel (fun _ => .refl v) fun _ => ?_
    have back := (storeBack_cleaner v line).1
    revert back
    generalize v.storeBack line = r
    exact fun back => back.trans (counted _ _)
  clear_value w v
  exact (noted.trans stored).trans (cleaner_of_filter rfl)

theorem tunError_cleaner (s : State) (cw : Nat) (dirty uncorr scrub : Bool) : Cleaner s (s.tunError cw dirty uncorr scrub) := by
  rw [tunError_eq]
  exact (cleaner_of_tun (tunFound_tun s cw dirty uncorr scrub)).trans (ite_rel (fun _ => disableWay_cleaner _ _ _) fun _ => .refl _)

theorem wroteBack_cleaner (s : State) (line : Nat) :
    Cleaner s (s.wroteBack line) ∧ ∀ e ∈ (s.wroteBack line).tun, e.2.dirty = true → e.1 ≠ line := by
  obtain ⟨clean, gone⟩ := storeBack_cleaner s line
  have errors : Cleaner (s.storeBack line).1 (s.wroteBack line) := by
    rw [wroteBack_eq]
    exact foldl_rel Cleaner.refl Cleaner.trans
      (fun u (e : Nat × Bool) => ite_rel (fun _ => tunError_cleaner u _ _ _ _) fun _ => .refl u) _ _
  exact ⟨clean.trans errors, fun e he d => gone e (errors e he d) d⟩

/-- Of lines written back one after another none is dirty. -/
theorem wroteBack_all (l : List Nat) (s : State) (e : Nat × TunLine) (he : e ∈ (l.foldl (fun u x => u.wroteBack x) s).tun)
    (d : e.2.dirty = true) : e ∈ s.tun ∧ e.1 ∉ l := by
  induction l generalizing s with
  | nil => exact ⟨he, List.not_mem_nil⟩
  | cons x l ih =>
    rw [List.foldl_cons] at he
    obtain ⟨there, out⟩ := ih (s.wroteBack x) he
    obtain ⟨clean, gone⟩ := wroteBack_cleaner s x
    exact ⟨clean e there d, fun here => (List.mem_cons.1 here).elim (gone e there d) out⟩

/-- TUN_FLUSH names every line that is dirty. -/
theorem tunFlush_complete (s : State) : ∃ u, exec .tunFlush s = .next u ∧ u = { s with regs := u.regs, flush := u.flush }
    ∧ KeepsRegs (· = TN_STATUS) s u ∧ u.get TN_STATUS TN_STATUS.FLUSHING = 1
    ∧ (∀ e ∈ s.tun, e.2.dirty = true → e.1 ∈ u.flush) ∧ ∀ l ∈ s.flush, l ∈ u.flush := by
  have flushing (u : State) : KeepsRegs (· = TN_STATUS) u (u.set TN_STATUS TN_STATUS.FLUSHING 1) := set_keepsOthers u _ _ _
  refine ⟨_, rfl, rfl, flushing _, State.get_set_same _ _ _ _ (by decide), fun e he d => ?_, fun l hl => List.mem_append_left _ hl⟩
  by_cases named : e.1 ∈ s.flush
  · exact List.mem_append_left _ named
  · refine List.mem_append_right _ (List.mem_filter.2 ⟨List.mem_map_of_mem (List.mem_filter.2 ⟨he, d⟩), ?_⟩)
    rw [Bool.not_eq_true', Bool.eq_false_iff, ne_eq, List.contains_iff_mem]
    exact named

/-- TUN_FLUSH_DONE, once granted, leaves none of the flush's lines dirty. -/
theorem tunFlushDone_complete {s : State} (runs : s.get TN_STATUS TN_STATUS.FLUSHING = 1)
    (clear : s.clear flushReq s.flushRoute = true) :
    let s1 := s.flushLines.foldl (fun u l => u.wroteBack l) (s.arbMoved flushReq s.flushRoute)
    ∃ u, exec .tunFlushDone s = .next u ∧ u = { s1 with flush := [], regs := u.regs } ∧ KeepsRegs (· = TN_STATUS) s1 u
      ∧ u.get TN_STATUS TN_STATUS.FLUSHING = 0 ∧ ∀ e ∈ u.tun, e.1 ∈ s.flush → e.2.dirty = false := by
  obtain ⟨a, moved⟩ := arbMoved_only s flushReq s.flushRoute
  have lines : (s.arbMoved flushReq s.flushRoute).flushLines = s.flushLines := by rw [moved]; rfl
  have run : exec .tunFlushDone s = .next (s.arbMoved flushReq s.flushRoute).flushed := by
    rw [show exec .tunFlushDone s = execTunFlushDone s from rfl, execTunFlushDone, if_neg (by omega), arbitrate_of_clear clear]
  rw [State.flushed, lines] at run
  refine ⟨_, run, rfl, set_keepsOthers _ _ _ _, State.get_set_same _ _ _ _ (by decide),
    fun e he named => ?_⟩
  by_contra dirty
  rw [Bool.not_eq_false] at dirty
  obtain ⟨there, out⟩ := wroteBack_all _ _ e he dirty
  rw [moved] at there
  refine out (List.mem_map_of_mem (List.mem_filter.2 ⟨there, ?_⟩))
  rw [dirty, List.contains_iff_mem.2 named]
  rfl

/-- Settles O18: an invalidation filters the caches by its scope; a line that is written back is clean or gone, and no write-back makes another
line dirty. -/
theorem invalidationAndFlushComplete : Obligations.InvalidationAndFlushComplete := by
  unfold Obligations.InvalidationAndFlushComplete
  intro s
  refine ⟨fun c scope x k which => ?_, fun scope x k va runs => gmInvalDone_complete runs, tunFlush_complete s, fun runs clear => ?_⟩
  · have run : exec c s = .next (s.invalStart scope x k) := by
      rcases which with ⟨rfl, rfl, rfl, rfl⟩ | ⟨v, rfl, rfl, rfl, rfl⟩ | ⟨v, rfl, rfl, rfl⟩
      · rfl
      · rfl
      · rfl
    exact ⟨fun idle => ⟨_, run, invalStart_complete idle scope x k⟩, fun busy => by rw [run, invalStart_busy busy]⟩
  · obtain ⟨u, run, only, regs, shown, clean⟩ := tunFlushDone_complete runs clear
    exact ⟨u, run, only, regs, shown, fun _ => clean⟩

/-! ### Region moves (R195, R197, R214) -/

theorem g7RegionCopyEnd_of_granted {s : State} {r f : Nat} (moves : s.move = some (r, f, 0)) (idle : s.inval = none)
    (clear : s.clear copyReq copyRoute = true) :
    exec .g7RegionCopyEnd s = .next ((s.arbMoved copyReq copyRoute).regionCopied r f) := by
  rw [show exec .g7RegionCopyEnd s = execG7RegionCopyEnd s from rfl, execG7RegionCopyEnd, moves]
  refine (if_neg ?_).trans (congrArg _ (arbitrate_of_clear clear _))
  rw [idle]
  exact Bool.false_ne_true

theorem regionCopied_complete (s : State) (r f : Nat) :
    (s.regionCopied r f).move = some (r, f, 1) ∧ (s.regionCopied r f).get GM_INVAL_STATUS GM_INVAL_STATUS.BUSY = 1 := by
  have runs (u : State) := invalStart_runs ({ u with move := some (r, f, 1) } : State) 1 0 0
  unfold State.regionCopied
  extract_lets
  exact ⟨(runs _).2, (runs _).1⟩

/-- A region is listed as retired at place `i`, and nothing moves. -/
def State.regionListed (s : State) (r f i : Nat) : State :=
  let s := (s.set (GM_RETIRE i) GM_RETIRE.REGION r).set (GM_RETIRE i) GM_RETIRE.VALID 1
  let s := s.set GM_STATUS GM_STATUS.RETIRED (s.get GM_STATUS GM_STATUS.RETIRED + 1)
  let s := s.set GM_STATUS GM_STATUS.MOVING 0
  { s with
    move := none
    regionCount := kdel s.regionCount r
    g7Used := s.g7Used.map fun u => if u = r then f else u }

/-- The retirement of a region is logged, and the next one that waits moves. -/
def State.regionNoted (s : State) (r : Nat) : State :=
  let s := s.keepLog fun l => { l with retired := l.retired ++ [.g7Region r] }
  let s := s.event 0xE004 srcModule r
  match s.moveWait with
  | [] => s
  | q :: rest => { s with moveWait := rest }.retireRegion q

theorem execG7RegionRetire_eq {s : State} {r f : Nat} (moves : s.move = some (r, f, 1)) : execG7RegionRetire s =
    if s.get GM_INVAL_STATUS GM_INVAL_STATUS.DONE = 0 then .next s
    else
      match (List.range 256).find? fun i => s.get (GM_RETIRE i) GM_RETIRE.VALID = 0 with
      | none => .next s
      | some i => .next ((s.regionListed r f i).regionNoted r) := by
  rw [execG7RegionRetire, moves]
  rfl

theorem g7RegionRetire_of_done {s : State} {r f i : Nat} (moves : s.move = some (r, f, 1))
    (done : s.get GM_INVAL_STATUS GM_INVAL_STATUS.DONE = 1)
    (room : ((List.range 256).find? fun i => s.get (GM_RETIRE i) GM_RETIRE.VALID = 0) = some i) :
    exec .g7RegionRetire s = .next ((s.regionListed r f i).regionNoted r) := by
  rw [show exec .g7RegionRetire s = execG7RegionRetire s from rfl, execG7RegionRetire_eq moves, if_neg (by omega), room]

theorem GM_RETIRE_ne {i o : Nat} (h : o < 0x500) : GM_RETIRE i ≠ y4xWin 5 + o := by
  simp only [GM_RETIRE]
  omega

/-- No register of the memory block's shows an event. -/
theorem GM_notMem_eventAddrs {o : Nat} (h : o < 0x10000) : ¬ y4xWin 5 + o ∈ eventAddrs := by
  have elsewhere : ∀ a ∈ eventAddrs, a < y4xWin 5 ∨ y4xWin 5 + 0x10000 ≤ a := by decide
  intro listed
  have := elsewhere _ listed
  omega

/-- The list of retired regions, and GM_STATUS, once a region is listed. -/
theorem regionListed_spec (s : State) (r f i : Nat) :
    let u := s.regionListed r f i
    u.get (GM_RETIRE i) GM_RETIRE.VALID = 1 ∧ u.get (GM_RETIRE i) GM_RETIRE.REGION = r % 2 ^ GM_RETIRE.REGION.w
      ∧ u.get GM_STATUS GM_STATUS.MOVING = 0 ∧ u.move = none ∧ u.moveWait = s.moveWait := by
  have apart : GM_RETIRE i ≠ GM_STATUS := GM_RETIRE_ne (by decide)
  unfold State.regionListed
  extract_lets a b c
  have listed (g : Fld) : c.get (GM_RETIRE i) g = a.get (GM_RETIRE i) g :=
    (State.get_set_ne b _ _ _ apart).trans (State.get_set_ne a _ _ _ apart)
  have valid : a.get (GM_RETIRE i) GM_RETIRE.VALID = 1 := State.get_set_same _ _ _ _ (by decide)
  have region : a.get (GM_RETIRE i) GM_RETIRE.REGION = r % 2 ^ GM_RETIRE.REGION.w :=
    (State.get_set_other _ _ _ _ _ _ (by decide) (by decide)).trans (State.get_set_same s _ _ _ (by decide))
  have still : c.get GM_STATUS GM_STATUS.MOVING = 0 := State.get_set_same b _ _ _ (by decide)
  rw [← listed] at valid region
  exact ⟨valid, region, still, rfl, rfl⟩

theorem retireRegion_keepsRegs (s : State) (r : Nat) : KeepsRegs (· = GM_STATUS) s (s.retireRegion r) := by
  have shown (f : Fld) : KeepsRegs (· = GM_STATUS) s (s.set GM_STATUS f 1) := set_keepsOthers s _ f 1
  unfold State.retireRegion
  refine ite_rel (R := KeepsRegs (· = GM_STATUS)) (fun _ => .refl _ s) fun _ =>
    ite_rel (R := KeepsRegs (· = GM_STATUS)) (fun _ _ _ => rfl) fun _ => ?_
  split
  · exact ite_rel (R := KeepsRegs (· = GM_STATUS)) (fun _ => shown _) fun _ => shown _
  · exact shown _

/-- What the log of a retirement leaves: the list of retired regions, and where no region waits, GM_STATUS and what moves. -/
theorem regionNoted_spec (s : State) (r : Nat) {i : Nat} (hi : i < 256) :
    (∀ g, (s.regionNoted r).get (GM_RETIRE i) g = s.get (GM_RETIRE i) g)
      ∧ (s.moveWait = [] → (s.regionNoted r).get GM_STATUS GM_STATUS.MOVING = s.get GM_STATUS GM_STATUS.MOVING
          ∧ (s.regionNoted r).move = s.move) := by
  have listed : ¬ GM_RETIRE i ∈ eventAddrs := by
    rw [GM_RETIRE, Nat.add_assoc]
    exact GM_notMem_eventAddrs (by omega)
  unfold State.regionNoted
  extract_lets a b
  have logs : LogsOnly s b := (keepLog_only s _).trans (event_only a _ _ _)
  have regs : KeepsRegs (· ∈ eventAddrs) s b := (keepLog_keepsRegs _ s _).trans (event_keepsRegs a _ _ _)
  clear_value b
  have waits : b.moveWait = s.moveWait := by obtain ⟨_, _, _, rfl⟩ := logs; rfl
  have moves : b.move = s.move := by obtain ⟨_, _, _, rfl⟩ := logs; rfl
  constructor
  · intro g
    rw [← regs.get listed g]
    split
    · rfl
    · exact (retireRegion_keepsRegs _ _).get (GM_RETIRE_ne (by decide)) g
  · intro none
    rw [waits, none]
    exact ⟨regs.get (GM_notMem_eventAddrs (by decide)) _, moves⟩

/-- Settles O17: the copy ends with its move in the phase after the copy and an invalidation under way; a region that retires is listed at the
first free place, which no later write of the command touches. -/
theorem regionMoveComplete : Obligations.RegionMoveComplete := by
  unfold Obligations.RegionMoveComplete
  intro s
  refine ⟨fun r f moves idle clear => ?_, fun r f i moves done room => ?_, fun c b => rfl⟩
  · exact ⟨_, g7RegionCopyEnd_of_granted moves idle clear, rfl, regionCopied_complete _ r f⟩
  · have hi : i < 256 := List.mem_range.1 (List.mem_of_find?_eq_some room)
    obtain ⟨valid, region, still, none, waits⟩ := regionListed_spec s r f i
    obtain ⟨listed, last⟩ := regionNoted_spec (s.regionListed r f i) r hi
    refine ⟨_, g7RegionRetire_of_done moves done room, (listed _).trans valid, (listed _).trans region, fun alone => ?_⟩
    obtain ⟨shown, moved⟩ := last (waits.trans alone)
    exact ⟨moved.trans none, shown.trans still⟩

end Sys2Proof.Machine
end

section
/-! SUPPORT. Walks and the tun's fills (R194, R199, R202, R212, R354): what the end of a walk answers, what a fill leaves of the
tun and of the transfers that wait for it, and what a line that is filled again delivers. -/

namespace Sys2Proof.Machine

/-! ### The end of a walk (R199, R202) -/

theorem walkFill_of_walk {s s' : State} {n x va l : Nat} {big : Bool} (walk : s.walk x va = (.ok (l, big), s')) :
    s.walkFill n x va = (.ok (leafAt l va big), (s'.tlbPut n (tlbKey x va big) l).ytlbPut (tlbKey x va big) l) := by
  rw [State.walkFill, walk]

theorem xlatWalkDone_of_walk {s s' : State} {n : Ch} {e : Eng} {st : Start} {tr : Transfer} {l : Nat} {big : Bool}
    (first : s.walking n e = some (st, tr))
    (walk : s.walk (s.task n (s.elTag n st (tr.els.headD 0))).xlat tr.va = (.ok (l, big), s'))
    (allows : leafAllows (leafAt l tr.va big) st.need = true) :
    let key := tlbKey (s.task n (s.elTag n st (tr.els.headD 0))).xlat tr.va big
    exec (.xlatWalkDone n e) s = .next (s.orHeld ((((s'.tlbPut n key l).ytlbPut key l).attach n e st tr
      (leafPage (leafAt l tr.va big) * 0x10000 + tr.va % 0x10000) (leafAt l tr.va big)).showEngine n e)) := by
  rw [show exec (.xlatWalkDone n e) s = execXlatWalkDone n e s from rfl, execXlatWalkDone, first]
  dsimp only
  rw [walkFill_of_walk walk]
  dsimp only
  rw [allows]
  rfl

/-! ### A fill of the tun (R194) -/

theorem inTun_iff {s : State} {line : Nat} : s.inTun line = true ↔ ∃ e ∈ s.tun, e.1 = line := by
  rw [State.inTun]
  cases found : kfind s.tun line with
  | none =>
    refine ⟨fun no => (Bool.false_ne_true no).elim, ?_⟩
    rintro ⟨e, he, here⟩
    exact absurd here (kfind_none.1 found e he)
  | some t => exact ⟨fun _ => ⟨_, kfind_mem found, rfl⟩, fun _ => rfl⟩

theorem tunInsert_inTun (s : State) (line hint : Nat) (dirty : Bool) : (s.tunInsert line hint dirty).inTun line = true := by
  unfold State.tunInsert
  extract_lets
  simp [State.inTun]

theorem retireRegion_tun (s : State) (r : Nat) : (s.retireRegion r).tun = s.tun := by
  unfold State.retireRegion
  refine ite_rel (R := fun s u : State => u.tun = s.tun) (fun _ => rfl) fun _ =>
    ite_rel (R := fun s u : State => u.tun = s.tun) (fun _ => rfl) fun _ => ?_
  split
  · exact ite_rel (R := fun s u : State => u.tun = s.tun) (fun _ => rfl) fun _ => rfl
  · rfl

theorem g7Error_tun (s : State) (a : Nat) (uncorr scrub : Bool) : (s.g7Error a uncorr scrub).tun = s.tun := by
  have counted (u : State) (m : List (Nat × Nat)) : ({ u with regionCount := m } : State).tun = u.tun := rfl
  unfold State.g7Error
  extract_lets _ unit v w x
  have found : v.tun = s.tun := State.bump_tun s _ 1
  have tallied : w.tun = v.tun := ite_rel (R := fun s u : State => u.tun = s.tun) (fun _ => rfl) fun _ => (tallyX_only v _ _ _).tun
  have logged : x.tun = s.tun := ((errLog_only w _ _ _ _).logs.tun).trans (tallied.trans found)
  clear_value x
  split
  · exact (ite_rel (R := fun s u : State => u.tun = s.tun) (fun _ => retireRegion_tun _ _) fun _ => rfl).trans
      ((counted x _).trans logged)
  · exact logged

theorem putTun_only (s : State) (cw : Nat) (l : List Byte) (flags : Byte) : ∃ n, s.putTun cw l flags = { s with tunNoise := n } := by
  obtain ⟨n, copied⟩ : ∃ n, (List.range 36).foldl
      (fun (u : State) i => u.setNoise cw i (l.getD i 0 ^^^ (s.codeword cw).getD i 0)) s = { s with tunNoise := n } :=
    foldl_rel (R := fun s u : State => ∃ n, u = { s with tunNoise := n }) (fun _ => ⟨_, rfl⟩)
      (by rintro _ _ _ ⟨_, rfl⟩ ⟨n, rfl⟩; exact ⟨n, rfl⟩) (fun _ _ => ⟨_, rfl⟩) _ s
  refine ⟨kput n (cw * 64 + 36) (flags ^^^ kget s.poison cw 0) 0, ?_⟩
  unfold State.putTun
  dsimp only
  rw [copied]
  rfl

theorem putTun_tun (s : State) (cw : Nat) (l : List Byte) (flags : Byte) : (s.putTun cw l flags).tun = s.tun := by
  obtain ⟨n, e⟩ := putTun_only s cw l flags
  rw [e]

theorem putDram_tun (s : State) (cw : Nat) (l : List Byte) (flags : Byte) : (s.putDram cw l flags).tun = s.tun :=
  ite_rel (R := fun s u : State => u.tun = s.tun) (fun _ => (putTun_tun _ _ _ _).trans (putRaw_tun s cw l flags)) fun _ =>
    putRaw_tun s cw l flags

theorem readDram_tun (s : State) (cw : Nat) (scrub : Bool) : (s.readDram cw scrub).2.2.tun = s.tun := by
  unfold State.readDram
  dsimp only
  split
  · rfl
  · dsimp only
    exact (g7Error_tun _ _ _ _).trans (putDram_tun s cw _ _)
  · dsimp only
    exact (g7Error_tun _ _ _ _).trans (putDram_tun s cw _ _)

/-- What a line's fill does with one of its codewords: it is read at the channel, and the tun holds what was delivered. -/
def State.fillCw (s : State) (cw : Nat) : State :=
  let r := s.readDram cw false
  r.2.2.putTun cw (r.1 ++ t2Check r.1) (thrice r.2.1)

theorem fillLine_eq (s : State) (line : Nat) :
    s.fillLine line = (List.range 8).foldl (fun (u : State) i => u.fillCw (line * 8 + i)) s := by
  unfold State.fillLine State.fillCw
  rfl

theorem fillLine_tun (s : State) (line : Nat) : (s.fillLine line).tun = s.tun := by
  rw [fillLine_eq]
  exact foldl_rel (R := fun s u : State => u.tun = s.tun) (fun _ => rfl) (fun h g => g.trans h)
    (fun u i => (putTun_tun _ _ _ _).trans (readDram_tun u _ false)) _ s

theorem inTun_of_tun {s u : State} (h : u.tun = s.tun) (line : Nat) : u.inTun line = s.inTun line := by
  rw [State.inTun, h, State.inTun]

theorem tunFill_inTun (s : State) (line hint : Nat) (dirty : Bool) : (s.tunFill line hint dirty).inTun line = true :=
  (inTun_of_tun (fillLine_tun _ line) line).trans (tunInsert_inTun _ line hint dirty)

theorem mapStarts_starts (en : Engine) (f : Start → Start) : (en.mapStarts f).starts = en.starts.map f := by
  simp only [Engine.mapStarts, Engine.starts, Engine.slots, List.map_append]
  cases en.active <;> cases en.pending <;> rfl

/-- A start whose transfers wait for a line no longer. -/
def Start.without (st : Start) (line : Nat) : Start :=
  { st with out := st.out.map fun tr => { tr with lines := tr.lines.filter (· != line) } }

theorem fillFor_eng (s : State) (line hint m e : Nat) :
    (s.fillFor line hint).eng m e = ((s.tunFill line hint false).eng m e).mapStarts (·.without line) := by
  unfold State.fillFor
  generalize s.tunFill line hint false = v
  exact (congrArg (fun c : Chamber => kget c.engines e {}) (kget_mapValues v.chambers
    (fun c => { c with engines := c.engines.map fun en => (en.1, en.2.mapStarts (·.without line)) }) m {} rfl)).trans
      (kget_mapValues (v.ch m).engines (·.mapStarts (·.without line)) e {} rfl)

theorem fillFor_inTun (s : State) (line hint : Nat) : (s.fillFor line hint).inTun line = true := by
  have filled := tunFill_inTun s line hint false
  unfold State.fillFor
  revert filled
  generalize s.tunFill line hint false = v
  exact id

theorem fillFor_lines (s : State) (line hint m e : Nat) :
    ∀ st ∈ ((s.fillFor line hint).eng m e).starts, ∀ tr ∈ st.out, line ∉ tr.lines := by
  rw [fillFor_eng, mapStarts_starts]
  intro st hst tr htr waits
  obtain ⟨st', -, rfl⟩ := List.mem_map.1 hst
  obtain ⟨tr', -, rfl⟩ := List.mem_map.1 htr
  exact absurd (List.mem_filter.1 waits).2 (by simp)

theorem tunFillDone_of_waits {s : State} {line n e : Nat} {st : Start} {tr : Transfer} {rest : List (Nat × Nat × Start × Transfer)}
    (waits : s.lineWaiters line = (n, e, st, tr) :: rest) (absent : s.inTun line = false) (free : s.lineHeld line = false)
    (granted : s.clear (otherReq (some (s.reqPrio (s.transferReq n e st tr.no))) 12 line) (s.fillRoute line) = true) :
    exec (.tunFillDone line) s
      = .next ((s.arbMoved (otherReq (some (s.reqPrio (s.transferReq n e st tr.no))) 12 line) (s.fillRoute line)).fillFor line
          (leafHint tr.leaf)) := by
  rw [show exec (.tunFillDone line) s = execTunFillDone line s from rfl, execTunFillDone, waits]
  refine (if_neg (by rw [absent, free]; simp)).trans ?_
  dsimp only
  rw [arbitrate_of_clear granted]

/-- Settles O15: a walk's answer is passed on as it stands, and a granted fill puts the line in and takes it from every transfer's
lines. -/
theorem walkAndFillComplete : Obligations.WalkAndFillComplete := by
  intro s
  refine ⟨fun n e st tr l big s' first walk allows => xlatWalkDone_of_walk first walk allows, ?_⟩
  intro line n e st tr rest waits absent free granted
  exact ⟨_, tunFillDone_of_waits waits absent free granted, fillFor_inTun _ line _, fun m e => fillFor_lines _ line _ m e⟩

end Sys2Proof.Machine
end

section
/-! SUPPORT. What the tun's lines beside a line leave of it (R194, R207, R211, R212): a line that is absent stays absent and what its
channel holds stays what it is while others are written back, disabled and evicted; a line filled again is delivered as its channel
holds it. -/

namespace Sys2Proof.Machine

/-! ### What is stored of a line, and its absence -/

/-- Nothing that the channel holds of a line changes, and the tun gains no line. -/
def Beside (line : Nat) (s u : State) : Prop :=
  (∀ cw, cw / 8 = line → u.codeword cw = s.codeword cw ∧ kget u.poison cw 0 = kget s.poison cw 0)
    ∧ ∀ e ∈ u.tun, s.inTun e.1 = true

theorem inTun_of_mem {s : State} {e : Nat × TunLine} (he : e ∈ s.tun) : s.inTun e.1 = true := inTun_iff.2 ⟨e, he, rfl⟩

theorem Beside.refl (line : Nat) (s : State) : Beside line s s := ⟨fun _ _ => ⟨rfl, rfl⟩, fun _ he => inTun_of_mem he⟩

theorem Beside.absent {line l : Nat} {s u : State} (h : Beside line s u) (out : s.inTun l = false) : u.inTun l = false := by
  by_contra present
  obtain ⟨e, he, rfl⟩ := inTun_iff.1 (Bool.eq_true_of_not_eq_false present)
  exact Bool.false_ne_true (out.symm.trans (h.2 e he))

theorem Beside.trans {line : Nat} {s u v : State} (h : Beside line s u) (g : Beside line u v) : Beside line s v := by
  refine ⟨fun cw here => ⟨(g.1 cw here).1.trans (h.1 cw here).1, (g.1 cw here).2.trans (h.1 cw here).2⟩, fun e he => ?_⟩
  by_contra out
  exact Bool.false_ne_true ((h.absent (Bool.eq_false_of_not_eq_true out)).symm.trans (g.2 e he))

theorem codeword_of_stored {s u : State} (mem : u.mem = s.mem) (chk : u.chk = s.chk) (cw : Nat) : u.codeword cw = s.codeword cw := by
  simp only [State.codeword, State.cell, mem, chk]

theorem beside_of_stored {s u : State} (mem : u.mem = s.mem) (chk : u.chk = s.chk) (poison : u.poison = s.poison)
    (tun : ∀ e ∈ u.tun, s.inTun e.1 = true) (line : Nat) : Beside line s u :=
  ⟨fun cw _ => ⟨codeword_of_stored mem chk cw, by rw [poison]⟩, tun⟩

theorem beside_of_cells {s u : State} (cells : SameCells s u) (tun : u.tun = s.tun) (line : Nat) : Beside line s u := by
  obtain ⟨mem, chk, poison, -⟩ := cells
  exact beside_of_stored mem chk poison (fun _ he => inTun_of_mem (tun ▸ he)) line

/-! ### A codeword that is stored -/

theorem putRaw_codeword (s : State) (c : Nat) (l : List Byte) (flags : Byte) {cw : Nat} (other : cw ≠ c) :
    (s.putRaw c l flags).codeword cw = s.codeword cw := by
  have cell (i : Nat) (hi : i < 32) : (s.putRaw c l flags).cell (cw * 32 + i) = s.cell (cw * 32 + i) := by
    refine (cell_storeBytes (l.take 32) s (c * 32) (cw * 32 + i)).trans (if_neg ?_)
    have := List.length_take_le 32 l
    omega
  have check (i : Nat) (hi : i < 4) : kget (s.putRaw c l flags).chk (cw * 4 + i) 0 = kget s.chk (cw * 4 + i) 0 := by
    obtain ⟨m, stored⟩ := storeBytes_only (l.take 32) s (c * 32)
    refine (chk_setChk (storeBytes s (c * 32) (l.take 32)) c (l.drop 32) (cw * 4 + i)).trans ((if_neg (by omega)).trans ?_)
    rw [stored]
  rw [State.codeword, State.codeword]
  congr 1
  · exact List.map_congr_left fun i hi => cell i (List.mem_range.1 hi)
  · exact List.map_congr_left fun i hi => check i (List.mem_range.1 hi)

theorem putRaw_poison (s : State) (c : Nat) (l : List Byte) (flags : Byte) {cw : Nat} (other : cw ≠ c) :
    kget (s.putRaw c l flags).poison cw 0 = kget s.poison cw 0 := by
  obtain ⟨m, stored⟩ := storeBytes_only (l.take 32) s (c * 32)
  refine (poison_setPoison ((storeBytes s (c * 32) (l.take 32)).setChk c (l.drop 32)) c flags cw).trans ((if_neg other).trans ?_)
  rw [stored]
  rfl

theorem putRaw_tunNoise (s : State) (c : Nat) (l : List Byte) (flags : Byte) : (s.putRaw c l flags).tunNoise = s.tunNoise := by
  obtain ⟨m, stored⟩ := storeBytes_only (l.take 32) s (c * 32)
  rw [State.putRaw, stored]
  rfl

theorem putRaw_beside (s : State) (c : Nat) (l : List Byte) (flags : Byte) {line : Nat} (other : c / 8 ≠ line) :
    Beside line s (s.putRaw c l flags) := by
  refine ⟨fun cw here => ?_, fun e he => inTun_of_mem (putRaw_tun s c l flags ▸ he)⟩
  have ne : cw ≠ c := fun same => other (same ▸ here)
  exact ⟨putRaw_codeword s c l flags ne, putRaw_poison s c l flags ne⟩

/-! ### Lines written back, disabled and evicted beside a line -/

/-- A write-back under way: what is stored of a line beside its own stays, and the errors that it has found are its own. -/
def StoresLine (l line : Nat) (x y : State × List (Nat × Bool)) : Prop :=
  Beside line x.1 y.1 ∧ ∀ e ∈ y.2, e ∈ x.2 ∨ e.1 / 8 = l

theorem StoresLine.refl (l line : Nat) (x : State × List (Nat × Bool)) : StoresLine l line x x := ⟨.refl line x.1, fun _ => .inl⟩

theorem StoresLine.trans {l line : Nat} {x y z : State × List (Nat × Bool)} (h : StoresLine l line x y) (g : StoresLine l line y z) :
    StoresLine l line x z := ⟨h.1.trans g.1, fun e he => (g.2 e he).elim (h.2 e) .inr⟩

theorem storesLine_putRaw {l line cw : Nat} (x : State × List (Nat × Bool)) (here : cw / 8 = l) (other : l ≠ line) (d : List Byte)
    (flags : Byte) {es : List (Nat × Bool)} (own : ∀ e ∈ es, e.1 = cw) :
    StoresLine l line x (x.1.putRaw cw d flags, x.2 ++ es) := by
  refine ⟨putRaw_beside x.1 cw d flags (here.trans_ne other), fun e he => (List.mem_append.1 he).imp_right fun new => ?_⟩
  rw [own e new, here]

/-- A line written back leaves the others' stored codewords, and the errors found are its own. -/
theorem storeBack_beside (s : State) {l line : Nat} (other : l ≠ line) :
    Beside line s (s.storeBack l).1 ∧ ∀ e ∈ (s.storeBack l).2, e.1 / 8 = l := by
  have keys : ∀ e ∈ (s.storeBack l).1.tun, s.inTun e.1 = true := by
    rw [storeBack_tun]
    cases found : kfind s.tun l with
    | none => exact fun e he => inTun_of_mem he
    | some t =>
      intro e he
      rcases mem_kins.1 he with new | old
      · exact new ▸ inTun_iff.2 ⟨_, kfind_mem found, rfl⟩
      · exact inTun_of_mem (List.mem_of_mem_filter old)
  revert keys
  unfold State.storeBack
  extract_lets v
  have counted : Beside line s v := beside_of_cells ((tallyX_only s _ _ 1).cells.trans (tallyX_only _ _ _ 256).cells)
    ((tallyX_only _ _ _ 256).tun.trans (tallyX_only s _ _ 1).tun) line
  clear_value v
  split
  rename_i x es e
  intro keys
  have stored : StoresLine l line (v, []) (x, es) := by
    rw [← e]
    refine foldl_rel_mem (StoresLine.refl l line) StoresLine.trans (fun i hi y => ?_) (v, [])
    have here : (l * 8 + i) / 8 = l := by have := List.mem_range.1 hi; omega
    dsimp only
    split
    · have put := fun d flags => storesLine_putRaw y here other d flags (es := []) (by simp)
      rw [List.append_nil] at put
      exact put _ _
    · exact storesLine_putRaw y here other _ _ (by simp)
    · exact storesLine_putRaw y here other _ _ (by simp)
  exact ⟨⟨(counted.trans stored.1).1, keys⟩, fun e he => (stored.2 e he).resolve_left List.not_mem_nil⟩

/-- Lines that leave the tun leave what is stored. -/
theorem evicted_beside (s : State) (p : Nat × TunLine → Bool) (q : Nat → Bool) (off : List (Nat × Nat)) (line : Nat) :
    Beside line s { s.dropNoise q with tunOff := off, tun := s.tun.filter p } :=
  ⟨fun _ _ => ⟨rfl, rfl⟩, fun _ he => inTun_of_mem (List.mem_of_mem_filter he)⟩

theorem tunFound_beside (s : State) (cw : Nat) (dirty uncorr scrub : Bool) (line : Nat) :
    Beside line s (s.tunFound cw dirty uncorr scrub).1 :=
  beside_of_cells (tunFound_cells s cw dirty uncorr scrub) (tunFound_tun s cw dirty uncorr scrub) line

theorem cleanLine_of_tun {s u : State} (h : u.tun = s.tun) (line : Nat) : u.cleanLine line = s.cleanLine line := by
  rw [State.cleanLine, h, State.cleanLine]

/-- A way taken out of use: its line is written back where it is dirty, and goes. -/
theorem disableWay_beside (s : State) {l line : Nat} (way : Nat) (apart : l ≠ line ∨ s.cleanLine l = true) :
    Beside line s (s.disableWay l way) := by
  have counted (es : List (Nat × Bool)) (u : State) :
      Beside line u (es.foldl (fun (u : State) e => (u.tunFound e.1 true e.2 false).1) u) :=
    foldl_rel (Beside.refl line) Beside.trans (fun u e => tunFound_beside u _ _ _ _ line) es u
  unfold State.disableWay
  extract_lets set off used u v w
  refine ite_rel (fun _ => beside_of_cells (set_only s _ _ _).cells rfl line) fun _ => ?_
  have same : v.tun = s.tun := (keepLog_only _ _).tun.trans ((event_only _ _ _ _).tun.trans rfl)
  have noted : Beside line s v :=
    beside_of_cells (((set_only s TN_STATUS _ _).cells.trans (event_only _ _ _ _).cells).trans (keepLog_only _ _).cells) same line
  have stored : Beside line v w := by
    refine ite_rel (fun _ => .refl line v) fun dirty => ?_
    have other : l ≠ line := apart.resolve_right fun clean => dirty ((cleanLine_of_tun same l).trans clean)
    have back := (storeBack_beside v other).1
    revert back
    generalize v.storeBack l = r
    exact fun back => back.trans (counted _ _)
  clear_value w v
  exact (noted.trans stored).trans (evicted_beside w _ _ _ line)

theorem tunError_beside (s : State) (cw : Nat) (dirty uncorr scrub : Bool) {line : Nat}
    (apart : cw / 8 ≠ line ∨ s.cleanLine (cw / 8) = true) : Beside line s (s.tunError cw dirty uncorr scrub) := by
  rw [tunError_eq]
  refine (tunFound_beside s cw dirty uncorr scrub line).trans (ite_rel (fun _ => disableWay_beside _ _ ?_) fun _ => .refl line _)
  exact apart.imp_right ((cleanLine_of_tun (tunFound_tun s cw dirty uncorr scrub) (cw / 8)).trans)

theorem wroteBack_beside (s : State) {l line : Nat} (other : l ≠ line) : Beside line s (s.wroteBack l) := by
  obtain ⟨stored, own⟩ := storeBack_beside s other
  rw [wroteBack_eq]
  exact stored.trans (foldl_rel_mem (Beside.refl line) Beside.trans
    (fun e he u => ite_rel (fun _ => tunError_beside u _ _ _ _ (.inl (own e he ▸ other))) fun _ => .refl line u) _)

theorem tunVictim_mem {s : State} {line : Nat} {e : Nat × TunLine} (h : s.tunVictim line = some e) : e ∈ s.tun := by
  unfold State.tunVictim at h
  extract_lets at h
  split at h
  · cases h
  · exact List.mem_of_mem_filter (List.mem_of_find?_eq_some h)

/-- Room made for an absent line is made by lines other than it. -/
theorem tunRoom_beside (fuel : Nat) (s : State) {line : Nat} (absent : s.inTun line = false) : Beside line s (tunRoom fuel s line) := by
  induction fuel generalizing s with
  | zero => exact .refl line s
  | succ fuel ih =>
    unfold tunRoom
    split
    · exact .refl line s
    · next e victim =>
      have other : e.1 ≠ line := fun same =>
        Bool.false_ne_true (absent.symm.trans (inTun_iff.2 ⟨e, tunVictim_mem victim, same⟩))
      have back : Beside line s (if e.2.dirty then s.wroteBack e.1 else s) :=
        ite_rel (fun _ => wroteBack_beside s other) fun _ => .refl line s
      revert back
      generalize (if e.2.dirty then s.wroteBack e.1 else s) = u
      intro back
      have gone := back.trans (evicted_beside u (fun x => x.1 != e.1) (fun cw => cw / 8 == e.1) u.tunOff line)
      exact gone.trans (ih _ (gone.absent absent))

end Sys2Proof.Machine
end

section
/-! SUPPORT. A line filled again (R194, R212): the tun holds of each codeword what was delivered, and a good one is delivered as its
channel holds it. -/

namespace Sys2Proof.Machine

/-! ### The tun's copy of a codeword -/

theorem noise_setNoise (s : State) (c i : Nat) (b : Byte) (d j : Nat) :
    (s.setNoise c i b).noise d j = if d * 64 + j = c * 64 + i then b else s.noise d j :=
  kget_kput _ _ _ _ _ _ fun _ => rfl

theorem noise_foldl_setNoise (f : Nat → Byte) (l : List Nat) (s : State) (c j : Nat) :
    (l.foldl (fun (u : State) i => u.setNoise c i (f i)) s).noise c j = if j ∈ l then f j else s.noise c j := by
  induction l generalizing s with
  | nil => simp
  | cons i l ih =>
    rw [List.foldl_cons, ih, noise_setNoise]
    by_cases here : j = i <;> by_cases later : j ∈ l <;> simp [here, later]

theorem foldl_setNoise_poison (f : Nat → Byte) (l : List Nat) (s : State) (c : Nat) :
    (l.foldl (fun (u : State) i => u.setNoise c i (f i)) s).poison = s.poison := by
  induction l generalizing s with
  | nil => rfl
  | cons i l ih => exact ih (s.setNoise c i (f i))

theorem noise_foldl_setNoise_ne (f : Nat → Byte) (s : State) {c d : Nat} (other : d ≠ c) {j : Nat} (hj : j < 64) :
    ((List.range 36).foldl (fun (u : State) i => u.setNoise c i (f i)) s).noise d j = s.noise d j :=
  foldl_rel_mem (R := fun s u : State => u.noise d j = s.noise d j) (fun _ => rfl) (fun h g => g.trans h)
    (fun i hi u => (noise_setNoise u c i (f i) d j).trans (if_neg (by have := List.mem_range.1 hi; omega))) s

theorem putTun_noise (s : State) (c : Nat) (l : List Byte) (flags : Byte) (d j : Nat) : (s.putTun c l flags).noise d j
    = if d * 64 + j = c * 64 + 36 then flags ^^^ kget s.poison c 0 else
      ((List.range 36).foldl (fun (u : State) i => u.setNoise c i (l.getD i 0 ^^^ (s.codeword c).getD i 0)) s).noise d j := by
  rw [State.putTun, noise_setNoise, foldl_setNoise_poison]

theorem putTun_codeword (s : State) (c : Nat) (l : List Byte) (flags : Byte) (cw : Nat) :
    (s.putTun c l flags).codeword cw = s.codeword cw := by
  obtain ⟨n, e⟩ := putTun_only s c l flags
  rw [e]
  rfl

theorem putTun_poison (s : State) (c : Nat) (l : List Byte) (flags : Byte) : (s.putTun c l flags).poison = s.poison := by
  obtain ⟨n, e⟩ := putTun_only s c l flags
  rw [e]

theorem putTun_flags (s : State) (c : Nat) (l : List Byte) (flags : Byte) : (s.putTun c l flags).flags c = flags := by
  rw [State.flags, putTun_noise, if_pos rfl, putTun_poison, BitVec.xor_comm flags, ← BitVec.xor_assoc, BitVec.xor_self,
    BitVec.zero_xor]

theorem codeword_length (s : State) (cw : Nat) : (s.codeword cw).length = 36 := by simp [State.codeword]

/-- Readers see in the tun what was put there. -/
theorem putTun_seen (s : State) (c : Nat) (l : List Byte) (flags : Byte) (full : l.length = 36) : (s.putTun c l flags).seen c = l := by
  refine List.ext_getElem (by simp [State.seen, codeword_length, full]) fun i hi hl => ?_
  have hc : i < (s.codeword c).length := by rw [codeword_length]; omega
  simp only [State.seen, List.getElem_mapIdx, putTun_codeword]
  rw [putTun_noise, if_neg (by omega), noise_foldl_setNoise, if_pos (List.mem_range.2 (by omega)), List.getD_eq_getElem _ _ hl,
    List.getD_eq_getElem _ _ hc, BitVec.xor_comm l[i], ← BitVec.xor_assoc, BitVec.xor_self, BitVec.zero_xor]

/-! ### A line's fill -/

/-- A codeword is stored, and seen, as before. -/
def SameWord (cw : Nat) (s u : State) : Prop :=
  u.codeword cw = s.codeword cw ∧ kget u.poison cw 0 = kget s.poison cw 0 ∧ ∀ i < 64, u.noise cw i = s.noise cw i

theorem SameWord.refl (cw : Nat) (s : State) : SameWord cw s s := ⟨rfl, rfl, fun _ _ => rfl⟩

theorem SameWord.trans {cw : Nat} {s u v : State} (h : SameWord cw s u) (g : SameWord cw u v) : SameWord cw s v :=
  ⟨g.1.trans h.1, g.2.1.trans h.2.1, fun i hi => (g.2.2 i hi).trans (h.2.2 i hi)⟩

theorem sameWord_of_cells {s u : State} (h : SameCells s u) (cw : Nat) : SameWord cw s u := by
  obtain ⟨mem, chk, poison, noise⟩ := h
  exact ⟨codeword_of_stored mem chk cw, by rw [poison], fun i _ => by rw [State.noise, noise, State.noise]⟩

theorem SameWord.seen {cw : Nat} {s u : State} (h : SameWord cw s u) : u.seen cw = s.seen cw := by
  rw [State.seen, State.seen, h.1]
  refine List.ext_getElem (by simp) fun i hi _ => ?_
  have short : i < 36 := by simpa [codeword_length] using hi
  simp only [List.getElem_mapIdx, h.2.2 i (by omega)]

theorem SameWord.poisoned {cw : Nat} {s u : State} (h : SameWord cw s u) : u.poisoned cw = s.poisoned cw := by
  rw [State.poisoned, State.poisoned, State.flags, State.flags, h.2.1, h.2.2 36 (by omega)]

theorem putTun_sameWord (s : State) {c cw : Nat} (l : List Byte) (flags : Byte) (other : cw ≠ c) :
    SameWord cw s (s.putTun c l flags) := by
  refine ⟨putTun_codeword s c l flags cw, by rw [putTun_poison], fun i hi => ?_⟩
  rw [putTun_noise, if_neg (by omega), noise_foldl_setNoise_ne _ s other hi]

theorem putRaw_sameWord (s : State) {c cw : Nat} (l : List Byte) (flags : Byte) (other : cw ≠ c) : SameWord cw s (s.putRaw c l flags) :=
  ⟨putRaw_codeword s c l flags other, putRaw_poison s c l flags other, fun i _ => by rw [State.noise, putRaw_tunNoise, State.noise]⟩

theorem putDram_sameWord (s : State) {c cw : Nat} (l : List Byte) (flags : Byte) (other : cw ≠ c) : SameWord cw s (s.putDram c l flags) :=
  ite_rel (fun _ => (putRaw_sameWord s l flags other).trans (putTun_sameWord _ _ _ other)) fun _ => putRaw_sameWord s l flags other

theorem readDram_sameWord (s : State) {c cw : Nat} (scrub : Bool) (other : cw ≠ c) : SameWord cw s (s.readDram c scrub).2.2 := by
  unfold State.readDram
  dsimp only
  split
  · exact .refl cw s
  · dsimp only
    exact (putDram_sameWord s _ _ other).trans (sameWord_of_cells (g7Error_cells _ _ _ _) cw)
  · dsimp only
    exact (putDram_sameWord s _ _ other).trans (sameWord_of_cells (g7Error_cells _ _ _ _) cw)

theorem fillCw_sameWord (s : State) {c cw : Nat} (other : cw ≠ c) : SameWord cw s (s.fillCw c) :=
  (readDram_sameWord s false other).trans (putTun_sameWord _ _ _ other)

theorem majority_thrice (p : Bool) : majority (thrice p) = p := by cases p <;> rfl

theorem readDram_of_good {s : State} {cw : Nat} (good : t2Decode (s.codeword cw) = .good) (scrub : Bool) :
    s.readDram cw scrub = ((s.codeword cw).take 32, s.cellPoison cw, s) := by
  rw [State.readDram, good]

/-- A codeword is delivered as its channel holds it, with its poison. -/
def Delivered (cw : Nat) (s : State) : Prop := (s.seen cw).take 32 = (s.codeword cw).take 32 ∧ s.poisoned cw = s.cellPoison cw

theorem Delivered.of_same {cw : Nat} {s u : State} (h : SameWord cw s u) (d : Delivered cw s) : Delivered cw u := by
  rw [Delivered, h.seen, h.poisoned, h.1, State.cellPoison, h.2.1]
  exact d

theorem fillCw_of_good {s : State} {cw : Nat} (good : t2Decode (s.codeword cw) = .good) :
    Delivered cw (s.fillCw cw) ∧ (s.fillCw cw).codeword cw = s.codeword cw ∧ (s.fillCw cw).poison = s.poison := by
  have data : ((s.codeword cw).take 32).length = 32 := by rw [List.length_take, codeword_length]; rfl
  rw [State.fillCw, readDram_of_good good]
  dsimp only
  refine ⟨⟨?_, ?_⟩, putTun_codeword _ _ _ _ cw, putTun_poison _ _ _ _⟩
  · rw [putTun_seen _ _ _ _ (by rw [List.length_append, data, t2Check_length]), putTun_codeword, List.take_left' data]
  · rw [State.poisoned, putTun_flags, majority_thrice, State.cellPoison, State.cellPoison, putTun_poison]

/-- Of the codewords that are filled, each that its channel holds good is delivered, and stays stored. -/
theorem foldl_fillCw {cw line : Nat} (l : List Nat) (s : State) (good : t2Decode (s.codeword cw) = .good)
    (filled : Delivered cw s ∨ cw ∈ l.map (line * 8 + ·)) :
    let u := l.foldl (fun (u : State) i => u.fillCw (line * 8 + i)) s
    Delivered cw u ∧ u.codeword cw = s.codeword cw ∧ u.cellPoison cw = s.cellPoison cw := by
  induction l generalizing s with
  | nil => exact ⟨filled.resolve_right (by simp), rfl, rfl⟩
  | cons i l ih =>
    have one : (s.fillCw (line * 8 + i)).codeword cw = s.codeword cw ∧ (s.fillCw (line * 8 + i)).cellPoison cw = s.cellPoison cw
        ∧ (Delivered cw (s.fillCw (line * 8 + i)) ∨ cw ∈ l.map (line * 8 + ·)) := by
      by_cases here : cw = line * 8 + i
      · obtain ⟨d, word, poison⟩ := fillCw_of_good good
        rw [← here]
        exact ⟨word, by rw [State.cellPoison, poison, State.cellPoison], .inl d⟩
      · have same := fillCw_sameWord s here
        refine ⟨same.1, by rw [State.cellPoison, same.2.1, State.cellPoison], filled.imp (.of_same same) fun later => ?_⟩
        exact (List.mem_cons.1 later).resolve_left here
    obtain ⟨word, poison, rest⟩ := one
    obtain ⟨d, word', poison'⟩ := ih (s.fillCw (line * 8 + i)) (word ▸ good) rest
    exact ⟨d, word'.trans word, poison'.trans poison⟩

theorem fillLine_of_good {s : State} {cw : Nat} (good : t2Decode (s.codeword cw) = .good) :
    Delivered cw (s.fillLine (cw / 8)) ∧ (s.fillLine (cw / 8)).codeword cw = s.codeword cw
      ∧ (s.fillLine (cw / 8)).cellPoison cw = s.cellPoison cw := by
  rw [fillLine_eq]
  exact foldl_fillCw _ s good (.inr (List.mem_map.2 ⟨cw % 8, List.mem_range.2 (Nat.mod_lt _ (by omega)), by omega⟩))

/-! ### An uncorrectable error in a clean line (R212) -/

theorem wordError_of_g7 {s : State} {cw a : Nat} (g7 : place (cw * 32) = .g7 a) (clean : s.cleanLine (cw / 8) = true) (scrub : Bool) :
    s.wordError cw scrub true = s.tunError cw false true scrub := by
  have present : s.inTun (cw / 8) = true := by
    revert clean
    rw [State.cleanLine, State.inTun]
    cases kfind s.tun (cw / 8) <;> simp
  rw [State.wordError, g7]
  dsimp only
  rw [if_pos present, clean]
  rfl

theorem inTun_kdel (s : State) (line : Nat) : ({ s with tun := kdel s.tun line } : State).inTun line = false := by
  simp [State.inTun]

theorem tunInsert_stored (s : State) (line hint : Nat) (dirty : Bool) (absent : s.inTun line = false) {cw : Nat} (here : cw / 8 = line) :
    (s.tunInsert line hint dirty).codeword cw = s.codeword cw
      ∧ kget (s.tunInsert line hint dirty).poison cw 0 = kget s.poison cw 0 := by
  have room := (tunRoom_beside 6 s absent).1 cw here
  unfold State.tunInsert
  exact room

/-- A line that comes in holds what its channel does. -/
theorem fillLine_tunInsert_of_good {s : State} {cw : Nat} (absent : s.inTun (cw / 8) = false)
    (good : t2Decode (s.codeword cw) = .good) (hint : Nat) (dirty : Bool) :
    (((s.tunInsert (cw / 8) hint dirty).fillLine (cw / 8)).seen cw).take 32 = (s.codeword cw).take 32
      ∧ ((s.tunInsert (cw / 8) hint dirty).fillLine (cw / 8)).poisoned cw = s.cellPoison cw
      ∧ ((s.tunInsert (cw / 8) hint dirty).fillLine (cw / 8)).inTun (cw / 8) = true := by
  obtain ⟨word, poison⟩ := tunInsert_stored s (cw / 8) hint dirty absent rfl
  have present := tunInsert_inTun s (cw / 8) hint dirty
  revert word poison present
  generalize s.tunInsert (cw / 8) hint dirty = u
  intro word poison present
  obtain ⟨⟨data, flag⟩, word', flag'⟩ := fillLine_of_good (s := u) (word ▸ good)
  exact ⟨by rw [data, word', word], flag.trans (flag'.trans (congrArg majority poison)),
    (inTun_of_tun (fillLine_tun u _) _).trans present⟩

/-- A line filled again holds what its channel does. -/
theorem refilled_of_good {s : State} {cw : Nat} (good : t2Decode (s.codeword cw) = .good) :
    ((s.refilled (cw / 8)).seen cw).take 32 = (s.codeword cw).take 32 ∧ (s.refilled (cw / 8)).poisoned cw = s.cellPoison cw
      ∧ (s.refilled (cw / 8)).inTun (cw / 8) = true := by
  unfold State.refilled
  extract_lets v
  have absent : v.inTun (cw / 8) = false := inTun_kdel s (cw / 8)
  have word : v.codeword cw = s.codeword cw := rfl
  have flag : v.cellPoison cw = s.cellPoison cw := rfl
  clear_value v
  have tallied := tallyX_only v 0xA01 (g7Chan (cw / 8 * 256 - 0x001000000000)) 256
  revert tallied
  generalize v.tallyX 0xA01 (g7Chan (cw / 8 * 256 - 0x001000000000)) 256 = w
  intro tallied
  obtain ⟨mem, chk, poison, -⟩ := tallied.cells
  have word' : w.codeword cw = s.codeword cw := (codeword_of_stored mem chk cw).trans word
  obtain ⟨data, poisoned, present⟩ :=
    fillLine_tunInsert_of_good (s := w) ((inTun_of_tun tallied.tun _).trans absent) (word' ▸ good) 0 false
  refine ⟨data.trans (congrArg _ word'), poisoned.trans (Eq.trans ?_ flag), present⟩
  rw [State.cellPoison, poison, State.cellPoison]

/-- Settles O54: the clean line that goes leaves what its channel holds, which the fill delivers. -/
theorem cleanTunLinesAreRefilled : Obligations.CleanTunLinesAreRefilled := by
  intro s cw scrub a g7 clean bad good
  have stored := (tunError_beside s cw false true scrub (.inr clean)).1 cw rfl
  have found := tunError_tunOnly s cw false true scrub
  rw [readCw_eq, bad]
  dsimp only
  rw [if_pos clean, wordError_of_g7 g7 clean]
  dsimp only
  revert stored found
  generalize s.tunError cw false true scrub = u
  intro ⟨word, poison⟩ found
  have flag : u.cellPoison cw = s.cellPoison cw := congrArg majority poison
  obtain ⟨v, before, after⟩ := refilled_tunOnly u (cw / 8)
  obtain ⟨data, poisoned, present⟩ := refilled_of_good (s := u) (word ▸ good)
  have counted : (u.refilled (cw / 8)).get TN_REFETCH count32 = min (s.get TN_REFETCH count32 + 1) 0xFFFFFFFF := by
    rw [after.2.get (by simp [tunAddrs]) count32, State.get_bump_same, before.2.get (by simp [tunAddrs]) count32,
      found.2.get (by simp [tunAddrs]) count32]
  exact ⟨data.trans (congrArg _ word), poisoned.trans flag, counted, present, poisoned.trans flag⟩

end Sys2Proof.Machine
end

section
/-! SUPPORT. Command sessions (R339, R340, R342): what an answer leaves of the state, on the UART, in a tunnel and by management, and the
commands that retire units, change the Lantern's logs and set LN_SVC_CTRL. -/

namespace Sys2Proof.Machine

/-! ### An answer leaves all but the sessions, the Sirdy ports and the counters -/

/-- Only the Sirdy ports and the counters change. -/
def PortsOnly (s u : State) : Prop := ∃ y p, u = { s with sy := y, perf := p }

theorem PortsOnly.refl (s : State) : PortsOnly s s := ⟨s.sy, s.perf, rfl⟩

theorem PortsOnly.trans {s u v : State} : PortsOnly s u → PortsOnly u v → PortsOnly s v := by
  rintro ⟨_, _, rfl⟩ ⟨y, p, rfl⟩; exact ⟨y, p, rfl⟩

theorem modSport_portsOnly (s : State) (p : Nat) (f : SPortSt → SPortSt) : PortsOnly s (s.modSport p f) := ⟨_, s.perf, rfl⟩

theorem syEmit_portsOnly (s : State) (p : Nat) (f : SFrame) : PortsOnly s (s.syEmit p f) := ⟨_, s.perf, rfl⟩

theorem PerfOnly.ports {s u : State} : PerfOnly s u → PortsOnly s u := by rintro ⟨p, rfl⟩; exact ⟨s.sy, p, rfl⟩

theorem syDrain_portsOnly (fuel : Nat) (s : State) (p : Nat) : PortsOnly s (syDrain fuel s p) := by
  induction fuel generalizing s with
  | zero => exact .refl s
  | succ fuel ih =>
    unfold syDrain
    extract_lets
    refine ite_rel (fun _ => .refl s) fun _ => ?_
    split
    · exact .refl s
    · exact (modSport_portsOnly s p _).trans ((syEmit_portsOnly _ p _).trans ((tallyX_only _ _ _ _).ports.trans (ih _)))

theorem syMarkStall_portsOnly (s : State) (p : Nat) : PortsOnly s (s.syMarkStall p) := modSport_portsOnly s p _

theorem syPump_portsOnly (s : State) (p : Nat) : PortsOnly s (s.syPump p) :=
  (syDrain_portsOnly _ s p).trans (syMarkStall_portsOnly _ p)

theorem sySend_portsOnly (s : State) (p : Nat) (f : SFrame) : PortsOnly s (s.sySend p f) :=
  ite_rel (fun _ => .refl s) fun _ =>
    (modSport_portsOnly s p _).trans (syPump_portsOnly _ p)

theorem mgmtRespond_portsOnly (s : State) (p tag st : Nat) (d : List Byte) : PortsOnly s (s.mgmtRespond p tag st d) :=
  sySend_portsOnly s p _

/-- Answers are given, those of `l` in order, and all but the sessions, the Sirdy ports and the counters stays. -/
def Answers (l : List Reply) (s u : State) : Prop :=
  (∃ v y p, u = { s with svc := v, sy := y, perf := p }) ∧ u.svc.replies = s.svc.replies ++ l

theorem Answers.none (s : State) : Answers [] s s := ⟨⟨s.svc, s.sy, s.perf, rfl⟩, (List.append_nil _).symm⟩

theorem Answers.trans {l m : List Reply} {s u v : State} : Answers l s u → Answers m u v → Answers (l ++ m) s v := by
  rintro ⟨⟨_, _, _, rfl⟩, first⟩ ⟨⟨w, y, p, rfl⟩, second⟩
  exact ⟨⟨w, y, p, rfl⟩, by rw [second, first, List.append_assoc]⟩

theorem PortsOnly.answers {s u : State} : PortsOnly s u → Answers [] s u := by
  rintro ⟨y, p, rfl⟩; exact ⟨⟨s.svc, y, p, rfl⟩, (List.append_nil _).symm⟩

theorem Answers.then_ports {l : List Reply} {s u v : State} (h : Answers l s u) (g : PortsOnly u v) : Answers l s v :=
  List.append_nil l ▸ h.trans g.answers

theorem modSvc_answers (s : State) (f : Svc → Svc) (l : List Reply) (h : (f s.svc).replies = s.svc.replies ++ l) :
    Answers l s (s.modSvc f) := ⟨⟨_, s.sy, s.perf, rfl⟩, h⟩

theorem takeLine_answers (s : State) (c : Session) : Answers [] s (s.takeLine c) := by
  unfold State.takeLine
  split
  · exact modSvc_answers s _ [] (List.append_nil _).symm
  · exact .none s

theorem replyOne_answers (s : State) (c : Session) (vals : List Word) (data : List Byte) (code : Nat) (text : String) :
    Answers [⟨c, vals, data, code⟩] s (s.replyOne c vals data code text) := by
  have said := modSvc_answers s (fun v => { v with replies := v.replies ++ [⟨c, vals, data, code⟩] }) [⟨c, vals, data, code⟩] rfl
  unfold State.replyOne
  extract_lets u lines
  split
  · exact said.trans (modSvc_answers u _ [] (List.append_nil _).symm)
  · exact said.then_ports (foldl_rel PortsOnly.refl PortsOnly.trans (fun u x => sySend_portsOnly u _ _) _ u)
  · split
    · exact said
    · exact (said.trans (modSvc_answers u _ [] (List.append_nil _).symm)).then_ports (mgmtRespond_portsOnly _ _ _ _ _)

/-- Lines that spell no command are answered by error codes alone (R340). -/
theorem dropUnknown_answers (fuel : Nat) (s : State) (c : Session) :
    ∃ more, Answers more s (dropUnknown fuel s c) ∧ ∀ r ∈ more, ∃ e, r = ⟨c, [], [], e⟩ := by
  induction fuel generalizing s with
  | zero => exact ⟨[], .none s, by simp⟩
  | succ fuel ih =>
    unfold dropUnknown
    split
    · next e _ =>
      split
      · obtain ⟨more, said, errors⟩ := ih ((s.takeLine c).replyOne c [] [] e "")
        refine ⟨_, ((takeLine_answers s c).trans (replyOne_answers _ c [] [] e "")).trans said, fun r hr => ?_⟩
        rcases List.mem_append.1 hr with new | later
        · exact ⟨e, List.mem_singleton.1 new⟩
        · exact errors r later
      · exact ⟨[], .none s, by simp⟩
    · exact ⟨[], .none s, by simp⟩

/-- A command that ends has its answer. -/
theorem ends_answers (s : State) (c : Session) (vals : List Word) (data : List Byte) (code : Nat) (text : String) :
    ∃ more, Answers (⟨c, vals, data, code⟩ :: more) s (s.ends c vals data code text) ∧ ∀ r ∈ more, ∃ e, r = ⟨c, [], [], e⟩ := by
  obtain ⟨more, said, errors⟩ :=
    dropUnknown_answers (s.takeLine c).svc.lines.length ((s.takeLine c).replyOne c vals data code text) c
  exact ⟨more, ((takeLine_answers s c).trans (replyOne_answers _ c vals data code text)).trans said, errors⟩

/-! ### A command that records itself and ends -/

theorem LogsOnly.replies {s u : State} : LogsOnly s u → u.svc.replies = s.svc.replies := by rintro ⟨_, _, _, rfl⟩; rfl

theorem LogsOnly.apart {s u : State} : LogsOnly s u → Apart s u := by rintro ⟨_, _, _, rfl⟩; exact ⟨rfl, rfl, rfl, rfl, rfl⟩

/-- Where registers and logs alone have changed, the answer leaves them so. -/
theorem ends_of_logsOnly {s u : State} (kept : LogsOnly s u) (c : Session) (vals : List Word) (data : List Byte) (code : Nat)
    (text : String) : Apart s (u.ends c vals data code text) ∧ Replied c vals data code s (u.ends c vals data code text)
      ∧ (u.ends c vals data code text).logs = u.logs ∧ (u.ends c vals data code text).regs = u.regs := by
  obtain ⟨more, ⟨⟨v, y, p, e⟩, said⟩, errors⟩ := ends_answers u c vals data code text
  refine ⟨?_, ⟨more, kept.replies ▸ said, errors⟩, by rw [e], by rw [e]⟩
  rw [e]
  exact kept.apart

theorem console_of_serves {s : State} {c : Session} {stages : Nat → Bool} {i : Instr} (h : s.serves c stages i) (rom : Bool)
    (f : State → State) : s.console c rom stages i f = .next (f s) := by
  obtain ⟨rail, good, noHandOver, idle, fits, runs, stage⟩ := h
  rw [State.console, State.served, rail, good, noHandOver, idle, fits, runs, stage]
  rfl

theorem recordCmd_logsOnly (s : State) : LogsOnly s s.recordCmd := record_only s _ _ _ _ _

/-- The spare-row, fence and retirement logs stay (R356). -/
def SameUnitLogs (s u : State) : Prop :=
  u.logs.retired = s.logs.retired ∧ u.logs.fenced = s.logs.fenced ∧ u.logs.spareBad = s.logs.spareBad
    ∧ u.logs.spareFor = s.logs.spareFor

theorem record_sameUnitLogs (s : State) (code source arg kind : Nat) (detail : List Word) :
    SameUnitLogs s (s.record code source arg kind detail) := by
  unfold State.record
  extract_lets
  exact ite_rel (R := SameUnitLogs) (fun _ => ⟨rfl, rfl, rfl, rfl⟩) fun _ => ⟨rfl, rfl, rfl, rfl⟩

theorem editLogs_of_writable {s : State} (writable : s.caskReadOnly = false) (c : Session) (f : Logs → Logs) :
    Apart s (s.editLogs c f) ∧ Replied c [] [] 0 s (s.editLogs c f) ∧ (s.editLogs c f).logs = f s.recordCmd.logs := by
  obtain ⟨apart, replied, logs, -⟩ := ends_of_logsOnly
    (((recordCmd_logsOnly s).trans (modLogs_only _ f)).trans (logGrows_only _ 0)) c [] [] 0 ""
  rw [State.editLogs, writable]
  exact ⟨apart, replied, logs⟩

/-- The field of LN_SVC_CTRL that `set` writes (R342, R363). -/
def svcFld : SvcField → Fld
  | .abortTimeout => LN_SVC_CTRL.ABORT_TIMEOUT
  | .autoReset => LN_SVC_CTRL.AUTO_RESET
  | .autoFence => LN_SVC_CTRL.AUTO_FENCE

theorem consoleSet_of_serves {s : State} {c : Session} {f : SvcField} {v : Nat} (served : s.serves c inAll (.consoleSet c f v))
    (small : v < 2 ^ (svcFld f).w) :
    exec (.consoleSet c f v) s = .next ((s.recordCmd.set LN_SVC_CTRL (svcFld f) v).ends c [] [] 0) := by
  refine (show exec (.consoleSet c f v) s = execConsoleSet c f v s from rfl).trans ((console_of_serves served false _).trans ?_)
  cases f <;> exact congrArg _ (if_neg (Nat.not_lt.2 (Nat.le_of_lt_succ small)))

theorem consoleSet_answers {s : State} {c : Session} {f : SvcField} {v : Nat} (served : s.serves c inAll (.consoleSet c f v))
    (small : v < 2 ^ (svcFld f).w) :
    ∃ u, exec (.consoleSet c f v) s = .next u ∧ Apart s u ∧ Replied c [] [] 0 s u ∧ u.get LN_SVC_CTRL (svcFld f) = v := by
  obtain ⟨apart, replied, -, regs⟩ := ends_of_logsOnly
    ((recordCmd_logsOnly s).trans (set_only _ LN_SVC_CTRL (svcFld f) v).logs) c [] [] 0 ""
  refine ⟨_, consoleSet_of_serves served small, apart, replied, ?_⟩
  have shown := State.get_set_same s.recordCmd LN_SVC_CTRL (svcFld f) v (by cases f <;> decide)
  rw [State.get, State.reg, regs, ← State.reg, ← State.get, shown, Nat.mod_eq_of_lt small]

/-! ### Forced retirements (R213, R214, R310, R342) -/

theorem consoleRetireCellar_of_idle {s : State} {c : Session} {n : Ch} {tier : Fin 4} {row : Nat} (idle : s.retiringNow = false)
    (served : s.serves c inServingSafe (.consoleRetireCellar c n tier row)) (inRows : row < 3072) :
    let s1 := s.recordCmd.retireRow n tier row
    exec (.consoleRetireCellar c n tier row) s
      = .next (s1.showAout.ends c [] [] (if (s1.ch n).retiring.isEmpty then errFailed else 0) "NO SPARE ROW") := by
  refine (show exec (.consoleRetireCellar c n tier row) s = execConsoleRetireCellar c n tier row s from rfl).trans
    ((console_of_serves served false _).trans ?_)
  rw [if_neg (by omega), idle]
  rfl

theorem consoleRetireG7_of_idle {s : State} {c : Session} {region : Nat} (idle : s.retiringNow = false)
    (served : s.serves c inServingSafe (.consoleRetireG7 c region)) (inRegions : region < 21504)
    (inUse : s.regionRetired region = false) :
    let s1 := s.recordCmd.retireRegion region
    exec (.consoleRetireG7 c region) s
      = .next (s1.showAout.ends c [] [] (if s1.move.isNone then errFailed else 0) "NO REGION") := by
  refine (show exec (.consoleRetireG7 c region) s = execConsoleRetireG7 c region s from rfl).trans
    ((console_of_serves served false _).trans ?_)
  rw [if_neg (by omega), idle, inUse]
  rfl

theorem consoleRetireCask_of_idle {s : State} {c : Session} {die plane block : Nat} (idle : s.retiringNow = false)
    (served : s.serves c inServingSafe (.consoleRetireCask c die plane block)) (inDies : die < 32) (inPlanes : plane < 4)
    (inBlocks : block < 1656) (writable : s.caskReadOnly = false) (inUse : (s.nand (blockKey die plane block)).retired = false) :
    exec (.consoleRetireCask c die plane block) s
      = .next ((s.recordCmd.retireNand (blockKey die plane block)).ends c [] [] 0) := by
  refine (show exec (.consoleRetireCask c die plane block) s = execConsoleRetireCask c die plane block s from rfl).trans
    ((console_of_serves served false _).trans ?_)
  dsimp only
  rw [if_neg (by omega), idle, writable, inUse]
  rfl

/-! ### The logs of spare rows and retirements (R356) -/

/-- What `spare clear` leaves of the logs: the entries of the chambers that it keeps. -/
def keepSpares (n : Option Ch) (l : Logs) : Logs :=
  { l with
    spareFor := l.spareFor.filter fun (x : Nat × Nat) => n.any fun k => k.val ≠ x.1
    spareBad := l.spareBad.filter fun m => n.any fun k => k.val ≠ m
    fenced := l.fenced.filter fun m => n.any fun k => k.val ≠ m }

theorem consoleSpareClear_answers {s : State} {c : Session} {n : Option Ch} (writable : s.caskReadOnly = false)
    (served : s.serves c inAll (.consoleSpareClear c n)) :
    ∃ u, exec (.consoleSpareClear c n) s = .next u ∧ Apart s u ∧ Replied c [] [] 0 s u ∧ u.logs = keepSpares n s.recordCmd.logs :=
  ⟨_, (show exec (.consoleSpareClear c n) s = execConsoleSpareClear c n s from rfl).trans (console_of_serves served false _),
    editLogs_of_writable writable c (keepSpares n)⟩

theorem consoleSpareBad_answers {s : State} {c : Session} {n : Ch} (writable : s.caskReadOnly = false)
    (served : s.serves c inAll (.consoleSpareBad c n)) :
    ∃ u, exec (.consoleSpareBad c n) s = .next u ∧ Apart s u ∧ Replied c [] [] 0 s u
      ∧ u.logs.spareBad = (s.recordCmd.logs.spareBad ++ [n.val]).eraseDups := by
  obtain ⟨apart, replied, logs⟩ := editLogs_of_writable writable c fun l => { l with spareBad := (l.spareBad ++ [n.val]).eraseDups }
  exact ⟨_, (show exec (.consoleSpareBad c n) s = execConsoleSpareBad c n s from rfl).trans (console_of_serves served false _),
    apart, replied, by rw [logs]⟩

theorem consoleRetlogClear_all {s : State} {c : Session} (writable : s.caskReadOnly = false)
    (served : s.serves c inAll (.consoleRetlogClear c none)) :
    ∃ u, exec (.consoleRetlogClear c none) s = .next u ∧ Apart s u ∧ Replied c [] [] 0 s u ∧ u.logs.retired = [] := by
  obtain ⟨apart, replied, logs⟩ := editLogs_of_writable writable c fun l => { l with retired := [] }
  exact ⟨_, (show exec (.consoleRetlogClear c none) s = execConsoleRetlogClear c none s from rfl).trans
    (console_of_serves served false _), apart, replied, by rw [logs]⟩

theorem consoleRetlogClear_one {s : State} {c : Session} {x : RetUnit} (writable : s.caskReadOnly = false)
    (served : s.serves c inAll (.consoleRetlogClear c (some x))) (listed : x ∈ s.logs.retired) :
    ∃ u, exec (.consoleRetlogClear c (some x)) s = .next u ∧ Apart s u ∧ Replied c [] [] 0 s u
      ∧ u.logs.retired = s.recordCmd.logs.retired.filter (· != x) := by
  obtain ⟨apart, replied, logs⟩ := editLogs_of_writable writable c fun l => { l with retired := l.retired.filter (· != x) }
  refine ⟨_, (show exec (.consoleRetlogClear c (some x)) s = execConsoleRetlogClear c (some x) s from rfl).trans
    ((console_of_serves served false _).trans ?_), apart, replied, by rw [logs]⟩
  exact congrArg _ (if_pos (List.contains_iff_mem.2 listed))

/-- Settles O41: served commands answer with their own function's state; record, log change and answer each leave the rest. -/
theorem consoleRetireComplete : Obligations.ConsoleRetireComplete := by
  intro s c
  obtain ⟨units, -, bad, rows⟩ := record_sameUnitLogs s 0 srcModule 0 7 []
  refine ⟨fun idle => ⟨?_, ?_, ?_⟩, fun writable => ⟨?_, ?_, ?_⟩, fun v => ⟨?_, ?_, ?_⟩⟩
  · exact fun n tier row served inRows => consoleRetireCellar_of_idle idle served inRows
  · exact fun region served inRegions inUse => consoleRetireG7_of_idle idle served inRegions inUse
  · exact fun die plane block served inDies inPlanes inBlocks writable inUse =>
      consoleRetireCask_of_idle idle served inDies inPlanes inBlocks writable inUse
  · intro n served
    obtain ⟨u, next, apart, replied, logs⟩ := consoleSpareClear_answers writable served
    refine ⟨u, next, apart, replied, fun all => ?_, fun k one => ?_⟩
    · subst all
      simp [logs, keepSpares]
    · subst one
      rw [logs]
      exact ⟨congrArg (List.filter fun (x : Nat × Nat) => k.val ≠ x.1) rows, congrArg (List.filter fun m => k.val ≠ m) bad⟩
  · intro n served
    obtain ⟨u, next, apart, replied, logs⟩ := consoleSpareBad_answers writable served
    exact ⟨u, next, apart, replied, logs.trans (congrArg (fun l => (l ++ [n.val]).eraseDups) bad)⟩
  · intro unit served listed
    cases unit with
    | none => exact consoleRetlogClear_all writable served
    | some x =>
      obtain ⟨u, next, apart, replied, logs⟩ := consoleRetlogClear_one writable served (listed x rfl)
      exact ⟨u, next, apart, replied, logs.trans (congrArg (List.filter (· != x)) units)⟩
  · exact fun served small => consoleSet_answers served (Nat.lt_succ_of_le small)
  · exact fun served small => consoleSet_answers served (Nat.lt_succ_of_le small)
  · exact fun served small => consoleSet_answers served (Nat.lt_succ_of_le small)

end Sys2Proof.Machine
end

section
/-! SUPPORT. Thermal limits (R369, R371, R372): what a sensor's reading, a throttle and a trip change, and what the registers of power then
show. -/

namespace Sys2Proof.Machine

/-! ### A status bit of PW_STATUS and its event (R369) -/

/-- The registers that an event, a change and AOUT show themselves in (R299, R347, R351, R362). -/
def shownAddrs : List Nat := LN_CHANGE :: LN_AOUT :: eventAddrs

theorem showChange_keepsRegs (s : State) : KeepsRegs (· ∈ shownAddrs) s s.showChange := by
  have change : LN_CHANGE ∈ shownAddrs := List.mem_cons_self
  unfold State.showChange
  extract_lets x u
  exact ((set_keepsRegs change s _ x.1).trans (set_keepsRegs change _ _ x.2)).trans (set_keepsRegs change u _ _)

theorem showAout_keepsRegs (s : State) : KeepsRegs (· ∈ shownAddrs) s s.showAout := by
  have aout : LN_AOUT ∈ shownAddrs := List.mem_cons_of_mem _ List.mem_cons_self
  unfold State.showAout
  extract_lets u x
  exact ((showChange_keepsRegs s).trans (set_keepsRegs aout u _ x.1)).trans (set_keepsRegs aout _ _ x.2)

theorem powerCause_keepsRegs (s : State) (k : Nat) (start : Bool) : KeepsRegs (· ∈ shownAddrs) s (s.powerCause k start) :=
  (event_keepsRegs s _ _ _).mono fun _ h => List.mem_cons_of_mem _ (List.mem_cons_of_mem _ h)

theorem powerCause_only (s : State) (k : Nat) (start : Bool) : LogsOnly s (s.powerCause k start) := event_only s _ _ _

theorem powerFlag_only (s : State) (f : Fld) (k : Nat) (on : Bool) : LogsOnly s (s.powerFlag f k on) :=
  ite_rel (fun _ => .refl s) fun _ =>
    ((set_only s PW_STATUS f (bit on)).logs.trans (powerCause_only _ k on)).trans (showAout_only _).logs

theorem powerFlag_shown (s : State) {f : Fld} (k : Nat) (on : Bool) (one : f.w = 1) (fits : f.lo + f.w ≤ 64) :
    (s.powerFlag f k on).get PW_STATUS f = bit on := by
  unfold State.powerFlag
  split
  · assumption
  · have out : PW_STATUS ∉ shownAddrs := by decide
    rw [(showAout_keepsRegs _).get out, (powerCause_keepsRegs _ k on).get out, State.get_set_same _ _ _ _ fits, one]
    cases on <;> rfl

theorem LogsOnly.pw {s u : State} : LogsOnly s u → u.pw = s.pw := by rintro ⟨_, _, _, rfl⟩; rfl

/-! ### Sensors -/

theorem throttle_hot (s : State) (x : Nat) : x ∈ (s.throttle x).pw.hot := by
  rw [State.throttle, (powerFlag_only _ _ _ _).pw]
  exact List.mem_eraseDups.2 (List.mem_append_right _ List.mem_cons_self)

theorem throttle_shown (s : State) (x : Nat) : (s.throttle x).get PW_STATUS PW_STATUS.THROTTLE = 1 :=
  powerFlag_shown _ 2 true rfl (by decide)

/-- Only readings of sensors, registers and the free values taken change. -/
def SensesOnly (s u : State) : Prop := ∃ t r k, u = { s with pw := { s.pw with temps := t }, regs := r, freeCtr := k }

theorem SensesOnly.refl (s : State) : SensesOnly s s := ⟨s.pw.temps, s.regs, s.freeCtr, rfl⟩

theorem SensesOnly.trans {s u v : State} : SensesOnly s u → SensesOnly u v → SensesOnly s v := by
  rintro ⟨_, _, _, rfl⟩ ⟨t, r, k, rfl⟩; exact ⟨t, r, k, rfl⟩

theorem sense_only (s : State) (x temp : Nat) : SensesOnly s (s.sense x temp) := ⟨kset s.pw.temps x temp, _, s.freeCtr, rfl⟩

theorem sense_temps (s : State) (x temp : Nat) : (s.sense x temp).pw.temps = kset s.pw.temps x temp := rfl

theorem free_senses (s : State) : SensesOnly s s.free.2 := ⟨s.pw.temps, s.regs, s.freeCtr + 1, rfl⟩

/-- Every sensor that reads 70 °C or more is read anew, below it (R372). -/
def State.cooled (s : State) : State :=
  (s.pw.temps.filter fun (e : Nat × Nat) => 70 ≤ e.2).foldl (fun (u : State) e => u.free.2.sense e.1 (u.free.1.toNat % 70)) s

theorem cooled_only (s : State) : SensesOnly s s.cooled :=
  foldl_rel SensesOnly.refl SensesOnly.trans
    (fun u _ => (free_senses u).trans (sense_only _ _ _)) _ s

/-- A sensor read anew reads below 70 °C, and the others as before. -/
theorem temps_of_cooling (l : List (Nat × Nat)) (s : State) (e : Nat × Nat)
    (he : e ∈ (l.foldl (fun (u : State) x => u.free.2.sense x.1 (u.free.1.toNat % 70)) s).pw.temps) :
    e.2 < 70 ∨ e ∈ s.pw.temps ∧ e ∉ l := by
  induction l generalizing s with
  | nil => exact .inr ⟨he, List.not_mem_nil⟩
  | cons x l ih =>
    rw [List.foldl_cons] at he
    rcases ih _ he with cool | ⟨there, out⟩
    · exact .inl cool
    · rw [sense_temps] at there
      rcases mem_kins.1 there with new | old
      · exact .inl (new ▸ Nat.mod_lt _ (by decide))
      · obtain ⟨old, other⟩ := List.mem_filter.1 old
        refine .inr ⟨old, fun mem => ?_⟩
        rcases List.mem_cons.1 mem with same | later
        · exact absurd other (by simp [same])
        · exact out later

theorem cooled_temps (s : State) : ∀ e ∈ s.cooled.pw.temps, e.2 < 70 := by
  intro e he
  refine (temps_of_cooling _ s e he).elim id fun ⟨there, out⟩ => ?_
  by_contra hot
  exact out (List.mem_filter.2 ⟨there, decide_eq_true (Nat.le_of_not_lt hot)⟩)

/-! ### The cores and G7 go off (R366, R371, R372) -/

/-- Only registers and the free values taken change. -/
def FreeOnly (s u : State) : Prop := ∃ r k, u = { s with regs := r, freeCtr := k }

theorem FreeOnly.refl (s : State) : FreeOnly s s := ⟨s.regs, s.freeCtr, rfl⟩

theorem FreeOnly.trans {s u v : State} : FreeOnly s u → FreeOnly u v → FreeOnly s v := by
  rintro ⟨_, _, rfl⟩ ⟨r, k, rfl⟩; exact ⟨r, k, rfl⟩

theorem RegsOnly.free {s u : State} : RegsOnly s u → FreeOnly s u := by rintro ⟨r, rfl⟩; exact ⟨r, s.freeCtr, rfl⟩

theorem measureRail_only (s : State) (sel : Nat) : FreeOnly s (s.measureRail sel) := ⟨_, s.freeCtr + 1, rfl⟩

theorem showRails_only (s : State) : RegsOnly s s.showRails :=
  ((((set_only s (PW_RAIL 1) _ _).trans (set_only _ (PW_RAIL 2) _ _)).trans (set_only _ (PW_RAIL 3) _ _)).trans
    (set_only _ (PW_RAIL 4) _ _)).trans (set_only _ (PW_RAIL 5) _ _)

theorem coresOff_lost (s : State) : s.coresOff.mem = [] ∧ s.coresOff.chambers = [] ∧ s.coresOff.clk = s.clk
    ∧ s.coresOff.pw = { s.pw with
        rails := [s.pw.rails.getD 0 false, s.pw.rails.getD 1 false, false, false, false], ramp := [], rated := [] } := by
  unfold State.coresOff
  extract_lets u v
  have measured : FreeOnly v (([1, 2, 4].foldl State.measureRail (v.setReg PW_RATE 0)).showRails) :=
    ((setReg_only v PW_RATE 0).free.trans (foldl_rel FreeOnly.refl FreeOnly.trans measureRail_only _ _)).trans (showRails_only _).free
  obtain ⟨r, k, e⟩ := measured
  rw [e]
  exact ⟨rfl, rfl, rfl, rfl⟩

/-- The registers that lose or change what they show as the cores go off: those of the chambers, PW_RATE, the rails'. -/
def coreAddrs (a : Nat) : Prop := (chWin 0 ≤ a ∧ a < chWin 1024) ∨ a = PW_RATE ∨ PW_RAIL 0 ≤ a

theorem coresOff_keepsRegs (s : State) : KeepsRegs coreAddrs s s.coresOff := by
  have rail (i : Nat) : coreAddrs (PW_RAIL i) := .inr (.inr (by simp [PW_RAIL]))
  have rate : coreAddrs PW_RATE := .inr (.inl rfl)
  have measured (u : State) (i : Nat) : KeepsRegs coreAddrs u (u.measureRail i) :=
    (show KeepsRegs coreAddrs u u.free.2 from fun _ _ => rfl).trans
      ((set_keepsRegs (rail i) _ _ _).trans (set_keepsRegs (rail i) _ _ _))
  have shown (u : State) : KeepsRegs coreAddrs u u.showRails :=
    ((((set_keepsRegs (rail 1) u _ _).trans (set_keepsRegs (rail 2) _ _ _)).trans (set_keepsRegs (rail 3) _ _ _)).trans
      (set_keepsRegs (rail 4) _ _ _)).trans (set_keepsRegs (rail 5) _ _ _)
  unfold State.coresOff
  extract_lets u v
  have lost : KeepsRegs coreAddrs s v := by
    intro a out
    have kept : (!(decide (chWin 0 ≤ a) && decide (a < chWin 1024))) = true := by
      by_contra inside
      exact out (.inl (by simpa using inside))
    rw [State.reg, State.reg, kget_kfind, kget_kfind]
    refine congrArg (Option.getD · (resetReg a)) ?_
    exact (kfind_filter s.regs (fun a => !(decide (chWin 0 ≤ a) && decide (a < chWin 1024))) a).trans (if_pos kept)
  exact ((lost.trans (setReg_keepsRegs rate v 0)).trans
    (foldl_rel (KeepsRegs.refl coreAddrs) KeepsRegs.trans measured _ _)).trans (shown _)

theorem get_modPw (s : State) (g : Power → Power) (a : Nat) (f : Fld) : (s.modPw g).get a f = s.get a f := rfl

/-- The state of a trip before its notices (R372). -/
def State.tripped (s : State) (again : Bool) : State :=
  ((s.coresOff.lastOff 4 0 again).bump PW_TRIPS 1).modPw fun p =>
    { p with tripped := true, tripAt := some s.clk, latched := again }

theorem tripped_count (s : State) (again : Bool) :
    (s.tripped again).get PW_TRIPS count32 = min (s.get PW_TRIPS count32 + 1) 0xFFFFFFFF := by
  have apart : ¬ coreAddrs PW_TRIPS := by simp [coreAddrs, PW_TRIPS, PW_RATE, PW_RAIL, chWin, y4xWin]
  have kept : (s.coresOff.lastOff 4 0 again).get PW_TRIPS count32 = s.get PW_TRIPS count32 := by
    rw [State.lastOff, State.get, State.reg_setReg_ne _ _ (by decide), ← State.get, (coresOff_keepsRegs s).get apart]
  rw [State.tripped, get_modPw, State.get_bump_same, kept]

theorem lastOff_get (s : State) (cause sel : Nat) (latched : Bool) (small : cause < 16) :
    (s.lastOff cause sel latched).get PW_LAST_OFF PW_LAST_OFF.CAUSE = cause
      ∧ (s.lastOff cause sel latched).get PW_LAST_OFF PW_LAST_OFF.LATCHED = bit latched := by
  rw [State.lastOff, State.get, State.get, State.reg_setReg_same]
  constructor
  · rw [fget_fset_other _ _ _ _ (by decide) (.inr (by decide)), fget_fset_other _ _ _ _ (by decide) (.inr (by decide)),
      fget_fset_same _ _ _ (by decide)]
    exact Nat.mod_eq_of_lt small
  · rw [fget_fset_same _ _ _ (by decide)]
    cases latched <;> rfl

theorem tripped_lastOff (s : State) (again : Bool) : (s.tripped again).get PW_LAST_OFF PW_LAST_OFF.CAUSE = 4
    ∧ (s.tripped again).get PW_LAST_OFF PW_LAST_OFF.LATCHED = bit again := by
  have counted (f : Fld) : (s.tripped again).get PW_LAST_OFF f = (s.coresOff.lastOff 4 0 again).get PW_LAST_OFF f := by
    rw [State.tripped, get_modPw, State.bump, State.get_set_ne _ _ _ _ (by decide)]
  rw [counted, counted]
  exact lastOff_get _ 4 0 again (by decide)

theorem coresOff_lastOff_clk (s : State) (cause sel : Nat) (latched : Bool) (a k : Nat) :
    ((s.coresOff.lastOff cause sel latched).bump a k).clk = s.clk := by
  obtain ⟨-, -, clk, -⟩ := coresOff_lost s
  rw [State.bump_clk, State.lastOff, State.setReg_clk, clk]

theorem trip_eq (s : State) : s.trip
    = ((((s.tripped (s.pw.tripAt.any fun t => decide (s.clk - t ≤ ms 600000))).glNotices 1).syNotices).powerCause 6 true).showAout := by
  unfold State.trip State.tripped
  dsimp only
  rw [coresOff_lastOff_clk]

theorem tripped_only (s : State) (again : Bool) : ∃ r, s.tripped again
    = { s.coresOff with regs := r, pw := { s.coresOff.pw with tripped := true, tripAt := some s.clk, latched := again } } := by
  unfold State.tripped
  generalize s.coresOff = u
  obtain ⟨r, counted⟩ : RegsOnly u ((u.lastOff 4 0 again).bump PW_TRIPS 1) :=
    (setReg_only u PW_LAST_OFF _).trans (bump_only _ PW_TRIPS 1)
  rw [counted]
  exact ⟨r, rfl⟩

theorem tripped_lost (s : State) (again : Bool) :
    (s.tripped again).mem = [] ∧ (s.tripped again).chambers = [] ∧ (s.tripped again).pw.good = s.pw.good
      ∧ (s.tripped again).pw.rails = [s.pw.rails.getD 0 false, s.pw.rails.getD 1 false, false, false, false] := by
  obtain ⟨mem, chambers, -, pw⟩ := coresOff_lost s
  obtain ⟨r, only⟩ := tripped_only s again
  rw [only]
  exact ⟨mem, chambers, by rw [pw], by rw [pw]⟩

/-! ### The commands (R372) -/

theorem releaseBelow_pos (x : Nat) : 0 < releaseBelow x := by
  unfold releaseBelow
  split
  · decide
  · split <;> decide

theorem thermalThrottle_of_hot {s : State} {x : Sensor} {temp : Nat} (good : s.pw.good = true) (hot : throttleAt (sensorNo x) ≤ temp) :
    exec (.thermalThrottle x temp) s = .next ((s.sense (sensorNo x) temp).throttle (sensorNo x)) :=
  (show exec (.thermalThrottle x temp) s = execThermalThrottle x temp s from rfl).trans
    (if_neg (by rw [good]; simpa using hot))

theorem thermalTrip_of_hot {s : State} {x : Sensor} {temp : Nat} (good : s.pw.good = true) (rail : s.pw.rails.getD 2 false = true)
    (hot : tripPoint (sensorNo x) ≤ temp) : exec (.thermalTrip x temp) s = .next (s.sense (sensorNo x) temp).trip :=
  (show exec (.thermalTrip x temp) s = execThermalTrip x temp s from rfl).trans
    (if_neg (by rw [good, rail]; simpa using hot))

/-- A sensor read anew below its release point, which throttles no more. -/
def State.released (s : State) (x : Nat) : State :=
  (s.free.2.sense x (s.free.1.toNat % releaseBelow x)).modPw fun p => { p with hot := p.hot.filter (· != x) }

theorem throttleRelease_of_hot {s : State} {x : Sensor} (hot : s.pw.hot.contains (sensorNo x) = true) :
    exec (.throttleRelease x) s = .next (if (s.released (sensorNo x)).pw.hot.isEmpty
      then (s.released (sensorNo x)).powerFlag PW_STATUS.THROTTLE 2 false else s.released (sensorNo x)) :=
  (show exec (.throttleRelease x) s = execThrottleRelease x s from rfl).trans (if_neg (by rw [hot]; simp))

theorem tripRecover_of_tripped {s : State} (tripped : s.pw.tripped = true) (latched : s.pw.latched = false) (ramp : s.pw.ramp = [])
    (off : s.pw.rails.contains false = true) : exec .tripRecover s
      = .next (((s.cooled.powerCause 6 false).modPw fun p => { p with good := false }).rampNext 0).showAout :=
  (show exec .tripRecover s = execTripRecover s from rfl).trans (if_neg (by rw [tripped, latched, ramp, off]; simp))

theorem g7TempRead_of_on {s : State} (dev : Fin 16) (temp : Nat) (good : s.pw.good = true) (rail : s.pw.rails.getD 2 false = true) :
    exec (.g7TempRead dev temp) s = .next (if 100 ≤ temp then (s.sense (16 + dev.val) temp).trip
      else if 90 ≤ temp then (s.sense (16 + dev.val) temp).throttle (16 + dev.val) else s.sense (16 + dev.val) temp) := by
  have trip : tripPoint (16 + dev.val) = 100 := (if_neg (by omega)).trans (if_neg (by omega))
  have warm : throttleAt (16 + dev.val) = 90 := (if_neg (by omega)).trans (if_neg (by omega))
  refine (show exec (.g7TempRead dev temp) s = execG7TempRead dev temp s from rfl).trans ((if_neg (by rw [good, rail]; simp)).trans ?_)
  rw [trip, warm]

/-- Settles O47: each command passes its guards, and readings, throttles and trips show what they change. -/
theorem thermalComplete : Obligations.ThermalComplete := by
  intro s
  refine ⟨fun x temp good hot => ⟨thermalThrottle_of_hot good hot, throttle_hot _ _, throttle_shown _ _⟩,
    fun x temp good rail hot => thermalTrip_of_hot good rail hot, ?_, fun x hot => ?_, fun tripped latched ramp off => ?_,
    fun dev temp good rail => ?_⟩
  · obtain ⟨mem, chambers, good, rails⟩ := tripped_lost s (s.pw.tripAt.any fun t => decide (s.clk - t ≤ ms 600000))
    obtain ⟨cause, latch⟩ := tripped_lastOff s (s.pw.tripAt.any fun t => decide (s.clk - t ≤ ms 600000))
    exact ⟨trip_eq s, mem, chambers, good, rails, cause, latch, tripped_count s _⟩
  · exact ⟨_, s.released (sensorNo x), s.free.1.toNat % releaseBelow (sensorNo x), throttleRelease_of_hot hot,
      Nat.mod_lt _ (releaseBelow_pos _), rfl, rfl⟩
  · obtain ⟨t, r, k, cooled⟩ := cooled_only s
    refine ⟨_, s.cooled, tripRecover_of_tripped tripped latched ramp off, rfl, ?_, ?_, ?_, ?_, fun _ => cooled_temps s⟩
    · rw [cooled]
    · rw [cooled]
      exact tripped
    · rw [cooled]
      exact latched
    · rw [cooled]
      exact ⟨rfl, rfl, rfl, rfl, rfl⟩
  · have read := g7TempRead_of_on dev temp good rail
    refine ⟨fun cool => ?_, fun warm cool => ?_, fun hot => ?_⟩
    · rw [read, if_neg (by omega), if_neg (by omega)]
    · rw [read, if_neg (by omega), if_pos warm]
    · rw [read, if_pos hot]

end Sys2Proof.Machine
end

section
/-! SUPPORT. SARM and SWAIT at their issue (R226, R227). -/

namespace Sys2Proof.Machine

section streamIssue

variable {s : State} {n : Ch} {t : Tag} {w : BitVec 128} {pc : Nat}

theorem take_eng (s : State) (n : Nat) (t : Tag) (stay : Bool) (e : Nat) : (s.take n t stay).eng n e = s.eng n e := by
  obtain ⟨-, -, tasks, last, issues, taken⟩ := take_frame s n t stay
  rw [State.eng, taken, State.eng]

/-! ### SARM (R226) -/

/-- The start that an SARM makes. -/
def sarmStart (id t : Nat) (w : BitVec 128) : Start :=
  { kind := if wf w 15 14 < 2 then .copyRead else if wf w 15 14 = 2 then .fill else .receive
    id := id, tag := t, desc := wf w 13 9, priv := nbit w.toNat 16 }

theorem sarm_of_issues (turn : s.issues n t 0x20 w pc) :
    exec (.sarm n t) s
      = .next ((s.take n t true).queueStart n (wf w 15 14) (sarmStart (s.task n t).nextId t w)) := by
  rw [show exec (.sarm n t) s = execSarm n t s from rfl, execSarm, issue_of_issues turn]
  rfl

theorem queueStart_task (s : State) (n e : Nat) (st : Start) (u : Nat) : (s.queueStart n e st).task n u = s.task n u := by
  rw [State.queueStart, State.task, State.setEng, State.ch_modCh_same, State.task]

/-- R226: the start of an SARM joins its engine's issue queue, and the SARM the window. -/
theorem sarm_complete (turn : s.issues n t 0x20 w pc) :
    ∃ u, exec (.sarm n t) s = .next u ∧ IssueSeen n t s u ∧ PcNext n t pc s u ∧ Local n s u
      ∧ (u.eng n (wf w 15 14)).queue = (s.eng n (wf w 15 14)).queue ++ [sarmStart (s.task n t).nextId t w]
      ∧ (u.task n t).window = (s.task n t).window ++ [⟨(s.task n t).nextId, pc, w⟩] := by
  have runs := sarm_of_issues turn
  have seen := take_seen (fetched_of_issues turn) true
  obtain ⟨-, head, -, -⟩ := turn
  obtain ⟨inside, -, -⟩ := take_frame s n t true
  refine ⟨_, runs, seen.keep rfl rfl, (take_pcNext head true).keep rfl, inside.trans (queueStart_local _ n _ _), ?_, ?_⟩
  · rw [queue_queueStart, if_pos rfl, take_eng]
  · rw [queueStart_task, take_window head]
    rfl

/-! ### SWAIT (R227) -/

theorem swait_of_issues (turn : s.issues n t 0x21 w pc) : exec (.swait n t) s = .next ((s.take n t true).settle n t) := by
  rw [show exec (.swait n t) s = execSwait n t s from rfl, execSwait, issue_of_issues turn]

theorem noStart_congr {u : State} {m : Nat} (same : ∀ e, u.eng m e = s.eng m e) (k d id : Nat) :
    u.noStart m k d id = s.noStart m k d id := by
  unfold State.noStart
  simp only [same]

theorem wait_of_turnOf {m k : Nat} (turn : s.turnOf m k = true) : (s.task m k).wait = .none := by
  unfold State.turnOf State.issuable at turn
  simp only [Bool.and_eq_true, beq_iff_eq] at turn
  tauto

/-- An issue starts no wait. -/
theorem take_wait (s : State) (n : Nat) (t : Tag) (stay : Bool) : ((s.take n t stay).task n t).wait = (s.task n t).wait := by
  cases fetched : (s.task n t).fetched with
  | nil => rw [take_of_nil fetched]
  | cons f rest =>
    obtain ⟨k, ahead, next, -, left⟩ := passAhead_task 33 (s.headTaken n t f rest stay) n t
    rw [take_of_cons fetched, left, State.headTaken, countIssue_task, State.setPc, State.set_task_, State.task_setTask_same]
    rfl

/-- Of a task that waits for nothing, only SWAITs leave the window. -/
theorem waitEnds_window_of_none {m k : Nat} (free : (s.task m k).wait = .none) : (s.waitEnds m k).1.window = s.swaitsGone m k := by
  unfold State.waitEnds
  dsimp only
  rw [swaitsOver_wait, free]
  exact swaitsOver_window s m k

/-- R227: an SWAIT stays in the window as long as a start of its descriptor is left. -/
theorem swait_complete (turn : s.issues n t 0x21 w pc) :
    ∃ u, exec (.swait n t) s = .next u ∧ IssueSeen n t s u ∧ PcNext n t pc s u ∧ Local n s u
      ∧ (s.noStart n t (wf w 13 9) (s.task n t).nextId = true → ⟨(s.task n t).nextId, pc, w⟩ ∉ (u.task n t).window)
      ∧ (s.noStart n t (wf w 13 9) (s.task n t).nextId = false → ⟨(s.task n t).nextId, pc, w⟩ ∈ (u.task n t).window) := by
  have runs := swait_of_issues turn
  have seen := take_seen (fetched_of_issues turn) true
  obtain ⟨its_turn, head, code, -⟩ := turn
  obtain ⟨inside, -, -⟩ := take_frame s n t true
  have settles := settle_frame (s.take n t true) n t
  have window : (((s.take n t true).settle n t).task n t).window = (s.take n t true).swaitsGone n t := by
    rw [settle_task, waitEnds_window_of_none ((take_wait s n t true).trans (wait_of_turnOf its_turn))]
  have starts := noStart_congr (take_eng s n t true) t (wf w 13 9) (s.task n t).nextId
  refine ⟨_, runs, seen.settle, settles.pcNext (take_pcNext head true) ?_, ?_, fun gone here => ?_, fun left => ?_⟩
  · unfold endRegs CH_TASK_PC CH_TASK CH_STATUS CH_CMD_STATUS
    omega
  · obtain ⟨beside, -, -⟩ := settles
    exact inside.trans beside
  · rw [window] at here
    have stays := (List.mem_filter.1 here).2
    simp [code, starts, gone] at stays
  · rw [window]
    refine List.mem_filter.2 ⟨?_, by simp [starts, left]⟩
    rw [take_window head, if_pos rfl]
    exact List.mem_append_right _ (List.mem_singleton_self _)

end streamIssue

/-- Settles O5: an SARM puts its start into a queue, and an SWAIT stays in the window while a start of its descriptor is left. -/
theorem streamInstructionsComplete : Obligations.StreamInstructionsComplete := by
  unfold Obligations.StreamInstructionsComplete
  exact fun n t s w pc => ⟨sarm_complete, swait_complete⟩

end Sys2Proof.Machine
end

section
/-! SUPPORT. The stream commands (R220, R221, R227, R231): what a start's acceptance, a transfer's issue and completion and the end of a wait
for a credit come to where their conditions hold. -/

namespace Sys2Proof.Machine

/-! ### Acceptance (R227) -/

/-- The state in which an engine looks at its issue queue (R243, R76, R107). -/
def State.acceptView (s : State) (n e : Nat) : State :=
  if e = 2 then (s.frontMovable n e).yieldSlots n else s.frontMovable n e

section accept

variable {s v : State} {n : Ch} {e : Eng} {st : Start} {rest : List Start} {o : Nat} {a : ArrInstr}

theorem startAccept_of_placeable (queue : ((s.acceptView n e).eng n e).queue = st :: rest)
    (moves : (s.acceptView n e).mayMove n st = true) (fits : (s.acceptView n e).placeable n e st = true) :
    exec (.startAccept n e) s = .next ((s.acceptView n e).orHeld ((s.acceptView n e).acceptStart n e st)) := by
  rw [show exec (.startAccept n e) s = execStartAccept n e s from rfl, execStartAccept]
  rw [← State.acceptView, queue]
  exact if_neg (by simp [moves, fits])

theorem acceptStart_of_arrGroup (kind : st.kind = .group o) (own : v.arrOf n st.tag st.id = some a) :
    v.acceptStart n e st = v.acceptArr n e st a o := by
  unfold State.acceptStart
  rw [kind, own]

theorem acceptStart_of_arrSink (kind : st.kind = .sink) (own : v.arrOf n st.tag st.id = some a) :
    v.acceptStart n e st = v.acceptArr n e st a 2 := by
  unfold State.acceptStart
  rw [kind, own]

/-- A start that was accepted before takes a slot again. -/
theorem acceptStart_of_again (own : v.arrOf n st.tag st.id = none) (again : st.again = true) :
    v.acceptStart n e st = (((v.unqueue n e).placeStart n e st).getD v).rearm n := by
  unfold State.acceptStart
  rw [own]
  cases st.kind <;> exact if_pos again

theorem acceptStart_of_listGroup (kind : st.kind = .group o) (own : v.arrOf n st.tag st.id = none) (first : st.again = false) :
    v.acceptStart n e st = v.acceptList n e st false o := by
  unfold State.acceptStart
  rw [kind, own]
  exact if_neg (by simp [first])

theorem acceptStart_of_listSink (kind : st.kind = .sink) (own : v.arrOf n st.tag st.id = none) (first : st.again = false) :
    v.acceptStart n e st = v.acceptList n e st true 0 := by
  unfold State.acceptStart
  rw [kind, own]
  exact if_neg (by simp [first])

/-- A read start of SARM is a copy where its descriptor is a good one with COPY, and else a send. -/
theorem acceptStart_of_copyRead (kind : st.kind = .copyRead) (first : st.again = false) :
    let d := v.desc n st.tag st.desc
    v.acceptStart n e st
      = if dCopy d ∧ !sarmReadBad d then v.acceptCopy n e st d else v.acceptSarm n e { st with kind := .send } d := by
  unfold State.acceptStart
  rw [kind]
  exact if_neg (by simp [first])

theorem acceptStart_of_write (kind : st.kind = .fill ∨ st.kind = .receive) (first : st.again = false) :
    v.acceptStart n e st = v.acceptSarm n e st (v.desc n st.tag st.desc) := by
  unfold State.acceptStart
  rcases kind with kind | kind <;> rw [kind] <;> exact if_neg (by simp [first])

end accept

/-! ### Issue (R221, R231) -/

section issue

variable {s : State} {n : Ch} {e : Eng} {st : Start} {act : SlotPos}

/-- The wait for a credit of unit `due`, where one is due: its counter stands at 0, or another waits for it (R231). -/
def State.creditShort (s : State) (n : Nat) (due : Option (Nat × Nat)) : Bool :=
  due.any fun u => s.get (ST_CREDIT n u.2) ST_CREDIT.COUNT = 0 || !(s.creditWaiters n u.2).isEmpty

section may

variable (turn : s.issuing n e = some (st, act)) (moves : s.mayMove n st = true) (room : (s.eng n e).outstanding < 6)
  (begun : st.begun = true) (free : st.creditSince = none)

include turn moves room begun free

theorem transferIssue_of_short {u k : Nat} (due : s.creditDue n (s.advance n st) (s.nextRun n (s.advance n st)) = some (u, k))
    (short : s.creditShort n (some (u, k)) = true) :
    exec (.transferIssue n e) s = .next ((s.modCh n fun c => { c with turn := c.turn + 1 }).putEng n e ((s.eng n e).put act
      (some { s.advance n st with creditSince := some (s.ch n).turn, creditOn := k }))) := by
  rw [show exec (.transferIssue n e) s = execTransferIssue n e s from rfl, execTransferIssue, turn]
  dsimp only
  rw [if_neg (by simp [moves, begun, free]; omega), due]
  exact if_pos short

theorem transferIssue_of_credit (elements : (s.nextRun n (s.advance n st)).els ≠ [])
    (there : s.creditShort n (s.creditDue n (s.advance n st) (s.nextRun n (s.advance n st))) = false) :
    exec (.transferIssue n e) s = .next (s.issueRun n e act (s.advance n st) (s.nextRun n (s.advance n st))) := by
  rw [show exec (.transferIssue n e) s = execTransferIssue n e s from rfl, execTransferIssue, turn]
  dsimp only
  rw [if_neg (by simp [moves, begun, free]; omega), ← State.creditShort, there, if_neg Bool.false_ne_true]
  exact if_neg (by simpa using elements)

end may

/-! ### Completion (R221, R238) -/

section completion

variable {i : Nat} {tr : Transfer} (found : s.findTransfer n e i = some (st, tr, act))
  (able : s.transferAble n e st tr = true) (l : List Upset)

include found able

theorem transferComplete_of_clear (clear : s.clear (s.transferReq n e st tr.no) tr.route = true) :
    exec (.transferComplete n e i l) s = .next ((l.foldl State.upset s).transferDone n e st tr act) := by
  rw [show exec (.transferComplete n e i l) s = execTransferComplete n e i l s from rfl, execTransferComplete, found]
  simp only [able, clear, Bool.not_true, Bool.false_eq_true, if_false]

theorem transferComplete_of_waiting (waits : s.clear (s.transferReq n e st tr.no) tr.route = false) :
    exec (.transferComplete n e i l) s = .next (s.pass (s.transferReq n e st tr.no) tr.route) := by
  rw [show exec (.transferComplete n e i l) s = execTransferComplete n e i l s from rfl, execTransferComplete, found]
  simp only [able, waits, Bool.not_true, Bool.not_false, Bool.false_eq_true, if_false, if_true]

end completion

/-! ### The end of a wait for a credit (R231) -/

/-- Of those that wait on a counter above zero the first in turn takes the credit of the unit `u` that lies at its position. -/
theorem creditWaitEnd_of_first {turn u el va len : Nat} {x : Nat × Bool} (its_turn : s.issuing n e = some (st, act))
    (waits : st.creditSince = some turn) (moves : s.mayMove n st = true)
    (unit : s.posOf n (s.advance n st) (s.advance n st).next = .use el va len u x
      ∨ s.posOf n (s.advance n st) (s.advance n st).next = .take u)
    (there : s.get (ST_CREDIT n st.creditOn) ST_CREDIT.COUNT ≠ 0) (first : ∀ w ∈ s.creditWaiters n st.creditOn, turn ≤ w) :
    exec (.creditWaitEnd n e) s = .next (((((s.takeCredit n (some (u, st.creditOn))).putEng n e ((s.eng n e).put act
      (some { st with creditSince := none, units := st.units ++ [u] })))).returnUnits n e act).retireAll n) := by
  have noneBefore : ¬ (s.get (ST_CREDIT n st.creditOn) ST_CREDIT.COUNT = 0
      ∨ ((s.creditWaiters n st.creditOn).any fun w => decide (w < turn)) = true ∨ (!s.mayMove n st) = true) := by
    simpa [there, moves] using first
  rw [show exec (.creditWaitEnd n e) s = execCreditWaitEnd n e s from rfl, execCreditWaitEnd, its_turn]
  dsimp only
  rw [waits]
  dsimp only
  rw [if_neg noneBefore]
  rcases unit with unit | unit <;> rw [unit]

end issue

/-- Settles O19: a start is accepted by its kind; a transfer issues with its credit, or its start takes its turn to wait for one; it
completes once it passes its resources; and the first in turn takes a credit. -/
theorem streamCommandsComplete : Obligations.StreamCommandsComplete := by
  unfold Obligations.StreamCommandsComplete
  intro n e s
  refine ⟨fun st rest => ?_, fun st act turn moves room begun free => ?_, fun i l st tr act found able => ?_,
    fun st act turn u el va len x its_turn waits moves => ?_⟩
  · intro v0 v d accepts queue moves fits
    have accepted {x : State} (h : v.acceptStart n e st = x) : accepts x := h ▸ startAccept_of_placeable queue moves fits
    refine ⟨fun o a kind own => accepted (acceptStart_of_arrGroup kind own), fun a kind own => accepted (acceptStart_of_arrSink kind own),
      fun own again => accepted (acceptStart_of_again own again),
      fun o kind own first => accepted (acceptStart_of_listGroup kind own first),
      fun kind own first => accepted (acceptStart_of_listSink kind own first), fun kind first copy good => ?_,
      fun kind first other => ?_, fun kind first => accepted (acceptStart_of_write kind first)⟩
    · exact accepted ((acceptStart_of_copyRead kind first).trans (if_pos ⟨copy, by rw [good]; rfl⟩))
    · refine accepted ((acceptStart_of_copyRead kind first).trans (if_neg ?_))
      rintro ⟨copy, good⟩
      rcases other with noCopy | bad
      · exact Bool.false_ne_true (noCopy.symm.trans copy)
      · rw [bad] at good
        exact Bool.false_ne_true good
  · intro st' r
    refine ⟨fun elements there => ?_, fun u k due short => ?_⟩
    · refine transferIssue_of_credit turn moves room begun free elements ?_
      cases due : s.creditDue n st' r with
      | none => rfl
      | some x =>
        obtain ⟨some_, alone⟩ := there x.1 x.2 due
        simp [State.creditShort, some_, alone]
    · exact transferIssue_of_short turn moves room begun free due (by simpa [State.creditShort] using short)
  · exact ⟨transferComplete_of_clear found able l, transferComplete_of_waiting found able l⟩
  · intro k st' unit there first
    exact creditWaitEnd_of_first its_turn waits moves unit there first

end Sys2Proof.Machine
end

section
/-! SUPPORT. Remote accesses, responses and end-to-end timeouts (R237, R265, R271, R272). -/

namespace Sys2Proof.Machine

/-! ### What becomes of a remote access (R237, R272) -/

/-- The request at the arbiters of a remote access. -/
abbrev inboundReq (f : GFrame) : ArbReq := otherReq none 13 (gNo f)

theorem remoteStatus_of_busy {s : State} (busy : s.glBusy = true) (pa k : Nat) : s.remoteStatus pa k = 4 := if_pos busy

section inbound

variable {s s1 : State} {f : GFrame} {len : Nat} {write : Bool} (act : State → State)
  (unlost : s.gl.lost.contains (gNo f) = false)

include unlost

theorem inbound_of_refused (refused : s1.remoteStatus f.pa len ≠ 0) :
    s.inbound s1 f len write act = s1.respond f (s1.remoteStatus f.pa len) [] false :=
  (if_neg (by rw [unlost]; exact Bool.false_ne_true)).trans (if_pos refused)

theorem inbound_of_clear (served : s1.remoteStatus f.pa len = 0)
    (clear : s.clear (inboundReq f) (s.inboundRoute f.pa len write) = true) :
    s.inbound s1 f len write act = act (s1.arbMoved (inboundReq f) (s.inboundRoute f.pa len write)) :=
  (if_neg (by rw [unlost]; exact Bool.false_ne_true)).trans ((if_neg (not_not.2 served)).trans (if_pos clear))

theorem inbound_of_waiting (served : s1.remoteStatus f.pa len = 0)
    (waits : s.clear (inboundReq f) (s.inboundRoute f.pa len write) = false) :
    s.inbound s1 f len write act
      = (s.pass (inboundReq f) (s.inboundRoute f.pa len write)).ask (inboundReq f) (s.inboundRoute f.pa len write) :=
  (if_neg (by rw [unlost]; exact Bool.false_ne_true)).trans
    ((if_neg (not_not.2 served)).trans (if_neg (by rw [waits]; exact Bool.false_ne_true)))

end inbound

/-! ### READ_REQ, WRITE and ATOMIC (R265, R271, R272) -/

/-- A granted READ_REQ is answered with what it reads. -/
def State.answerRead (s : State) (f : GFrame) : State :=
  let (d, p, s) := (s.touch f.pa (f.aux % 4096) 0 false).readPa f.pa (f.aux % 4096)
  s.respond f 0 d p

/-- A granted WRITE is stored and answered. -/
def State.answerWrite (s : State) (f : GFrame) : State :=
  ((s.touch f.pa f.payload.length 0 true).writePa f.pa f.payload f.poison).respond f 0 [] false

/-- A granted ATOMIC adds its addend and is answered with the old value, or with poison. -/
def State.answerAtomic (s : State) (f : GFrame) : State :=
  match s.fetchAdd f.pa 0 (ofBytes f.payload) with
  | (.ok v, s) => s.respond f 0 (toBytes 8 v) false
  | (.error _, s) => s.respond f 0 (List.replicate 8 0) true

section access

variable {s s1 : State} {q : Nat} {f : GFrame}

theorem readReq_of_taken (took : s.takeRx (fun _ f => f.type = 2) = some ((q, f), s1)) :
    exec .readReq s = .next (s.inbound s1 f (f.aux % 4096) false (·.answerRead f)) := by
  rw [show exec .readReq s = execReadReq s from rfl, execReadReq, took]
  rfl

theorem write_of_taken (took : s.takeRx (fun _ f => f.type = 3) = some ((q, f), s1)) :
    exec .write s = .next (s.inbound s1 f f.payload.length true (·.answerWrite f)) := by
  rw [show exec .write s = execWrite s from rfl, execWrite, took]
  rfl

theorem atomic_of_busy (took : s.takeRx (fun _ f => f.type = 4) = some ((q, f), s1)) (busy : s1.glBusy = true) :
    exec .atomic s = .next (s1.respond f 4 [] false) := by
  rw [show exec .atomic s = execAtomic s from rfl, execAtomic, took]
  exact if_pos busy

theorem atomic_of_wellFormed (took : s.takeRx (fun _ f => f.type = 4) = some ((q, f), s1)) (joined : s1.glBusy = false)
    (add : f.op = 0) (aligned : f.pa % 8 = 0) (g7 : inG7 f.pa = true) :
    exec .atomic s = .next (s.inbound s1 f 8 true (·.answerAtomic f)) := by
  rw [show exec .atomic s = execAtomic s from rfl, execAtomic, took]
  exact (if_neg (by rw [joined]; exact Bool.false_ne_true)).trans (if_neg (by simp [add, aligned, g7]))

end access

/-! ### RESPONSE and its timeout (R272) -/

section response

variable {s s1 : State} {q : Nat} {f : GFrame} {x : Txn}

/-- The transaction is over. -/
def State.dropTxn (s : State) (x : Txn) : State := s.modGl fun g => { g with txns := g.txns.erase x }

theorem response_of_waiting (took : s.takeRx (fun _ f => f.type = 6) = some ((q, f), s1))
    (waits : (s1.gl.txns.find? fun x => x.tag = f.tag ∧ x.dest = f.src) = some x) :
    exec .response s = if microTicks (s1.get GL_CTRL GL_CTRL.E2E_TIMEOUT) < s1.clk - x.since then .next s1
      else if f.op = 0 then .next ((s1.dropTxn x).txnDone x f.payload f.poison) else .next ((s1.dropTxn x).txnFail x f.op) := by
  rw [show exec .response s = execResponse s from rfl, execResponse, took]
  dsimp only
  rw [waits]
  rfl

theorem e2eTimeout_of_late {tag : BitVec 16} (waits : (s.gl.txns.find? fun x => x.tag = tag.toNat) = some x)
    (late : microTicks (s.get GL_CTRL GL_CTRL.E2E_TIMEOUT) ≤ s.clk - x.since) :
    exec (.e2eTimeout tag) s = .next ((s.dropTxn x).txnFail x 10) := by
  rw [show exec (.e2eTimeout tag) s = execE2eTimeout tag s from rfl, execE2eTimeout, waits]
  exact if_neg (Nat.not_lt.2 late)

end response

/-- Settles O26: a remote access is refused, waits for its resources or is served and answered; a transaction ends with its response
in time, or with its timeout. -/
theorem remoteAccessesComplete : Obligations.RemoteAccessesComplete := by
  unfold Obligations.RemoteAccessesComplete
  intro s q f s1
  refine ⟨fun took unlost => ?_, fun took unlost => ?_, fun took unlost => ?_, fun x took waits => ?_,
    fun tag x waits late => e2eTimeout_of_late waits late, fun pa k busy => remoteStatus_of_busy busy pa k⟩
  · rw [readReq_of_taken took]
    refine ⟨fun refused => ?_, fun served clear d p s2 read => ?_, fun served waits => ?_⟩
    · rw [inbound_of_refused _ unlost refused]
    · rw [inbound_of_clear _ unlost served clear, State.answerRead, read]
    · rw [inbound_of_waiting _ unlost served waits]
  · rw [write_of_taken took]
    refine ⟨fun refused => ?_, fun served clear => ?_⟩
    · rw [inbound_of_refused _ unlost refused]
    · rw [inbound_of_clear _ unlost served clear, State.answerWrite]
  · refine ⟨atomic_of_busy took, fun joined add aligned g7 served clear v s2 added => ?_⟩
    rw [atomic_of_wellFormed took joined add aligned g7, inbound_of_clear _ unlost served clear, State.answerAtomic, added]
  · rw [response_of_waiting took waits]
    refine ⟨fun inTime => ?_, fun late => if_pos late⟩
    rw [if_neg (Nat.not_lt.2 inTime)]
    exact (apply_ite Host.Outcome.next _ _ _).symm

end Sys2Proof.Machine
end

section
/-! SUPPORT. Sparges and the stall watchdog (R231, R233, R236): what the arrival of an element and a bite of the watchdog leave, and when a
multicast runs and a delivery ends. -/

namespace Sys2Proof.Machine

/-! ### Registers that an operation shows itself in -/

theorem showEngine_onlyReg (s : State) (n e : Nat) : OnlyReg (ST_ENGINE n e) s (s.showEngine n e) := by
  unfold State.showEngine
  extract_lets en a s1 s2 s3 s4 s5 s6 s7
  exact .set (.set (.set (.set (.set (.set (.set (.set (.refl a s) _ _) _ _) _ _) _ _) _ _) _ _) _ _) _ _

theorem ST_ENGINE_inWindow (n : Nat) (e : Eng) : InWindow n (ST_ENGINE n e) := inWindow_ofTag n e (o := 0x8010) (by decide)

theorem OnlyReg.foldl_set {a : Nat} {s u : State} (h : OnlyReg a s u) (l : List (Fld × Nat)) :
    OnlyReg a s (l.foldl (fun v x => v.set a x.1 x.2) u) :=
  List.foldlRecOn (motive := OnlyReg a s) _ _ h fun _ so_far x _ => so_far.set x.1 x.2

theorem recFault_onlyReg (s : State) (a : Nat) (code lost : Fld) (c : Nat) (more : List (Fld × Nat)) :
    OnlyReg a s (s.recFault a code lost c more) :=
  ((ite_rel (R := OnlyReg a) (fun _ => .set (.refl a s) lost 1) fun _ => .refl a s).set code c).foldl_set more

/-- A fault register shows the code that is recorded, whose field lies apart from those recorded with it. -/
theorem recFault_code (s : State) (a c : Nat) {code : Fld} (lost : Fld) {more : List (Fld × Nat)} (inside : code.lo + code.w ≤ 64)
    (apart : ∀ x ∈ more, x.1.lo + x.1.w ≤ code.lo ∨ code.lo + code.w ≤ x.1.lo) :
    (s.recFault a code lost c more).get a code = c % 2 ^ code.w :=
  List.foldlRecOn (motive := fun u : State => u.get a code = c % 2 ^ code.w) _ _ (State.get_set_same _ _ _ _ inside)
    fun u shown x mem => (State.get_set_other u a a x.1 code x.2 inside (apart x mem)).trans shown

/-! ### The stall watchdog (R236) -/

theorem startWait_lt (s : State) (n e : Nat) (st : Start) : s.startWait n e st < 8 := by
  unfold State.startWait
  split <;> decide

theorem stallCause_lt (s : State) (n t : Nat) : (s.stallCause n t).1 < 8 := by
  unfold State.stallCause
  split
  · exact startWait_lt _ _ _ _
  · split_ifs
    · decide
    · decide
    all_goals
      split
      · decide
      · decide

/-- The two registers that show a stream fault (R245). -/
def State.stRecord (s : State) (n t code e desc : Nat) (d : BitVec 512) (cause : Nat) : State :=
  ((((((s.recFault (ST_FAULT n) ST_FAULT.CODE ST_FAULT.LOST code [(ST_FAULT.TAG, t), (ST_FAULT.ENGINE, e)]).set
    (ST_FAULT_INFO n) ST_FAULT_INFO.DESC desc).set (ST_FAULT_INFO n) ST_FAULT_INFO.CAUSE cause).set
    (ST_FAULT_INFO n) ST_FAULT_INFO.CRED (dCred d)).set (ST_FAULT_INFO n) ST_FAULT_INFO.REGION (dRegion d)).set
    (ST_FAULT_INFO n) ST_FAULT_INFO.MGROUP (dMgroup d))

section stRecord

variable (s : State) (n t code e desc : Nat) (d : BitVec 512) (cause : Nat)

theorem stRecord_only : ∃ u, OnlyReg (ST_FAULT n) s u ∧ OnlyReg (ST_FAULT_INFO n) u (s.stRecord n t code e desc d cause) :=
  ⟨_, recFault_onlyReg s _ _ _ _ _, .set (.set (.set (.set (.set (.refl _ _) _ _) _ _) _ _) _ _) _ _⟩

theorem stRecord_local : Local n s (s.stRecord n t code e desc d cause) := by
  obtain ⟨u, fault, info⟩ := stRecord_only s n t code e desc d cause
  exact (fault.inChamber (inWindow_add n (by decide))).trans (info.inChamber (inWindow_add n (by decide)))

theorem stRecord_reg {a : Nat} (fault : a ≠ ST_FAULT n) (info : a ≠ ST_FAULT_INFO n) :
    (s.stRecord n t code e desc d cause).reg a = s.reg a := by
  obtain ⟨u, ⟨-, first⟩, ⟨-, second⟩⟩ := stRecord_only s n t code e desc d cause
  exact (second a info).trans (first a fault)

theorem stRecord_code : (s.stRecord n t code e desc d cause).get (ST_FAULT n) ST_FAULT.CODE = code % 2 ^ 16 := by
  have apart : ST_FAULT n ≠ ST_FAULT_INFO n := by unfold ST_FAULT ST_FAULT_INFO; omega
  unfold State.stRecord
  rw [State.get_set_ne _ _ _ _ apart, State.get_set_ne _ _ _ _ apart, State.get_set_ne _ _ _ _ apart,
    State.get_set_ne _ _ _ _ apart, State.get_set_ne _ _ _ _ apart]
  exact recFault_code s _ code _ (by decide) (by simp [ST_FAULT.TAG, ST_FAULT.ENGINE, ST_FAULT.CODE])

theorem stRecord_cause : (s.stRecord n t code e desc d cause).get (ST_FAULT_INFO n) ST_FAULT_INFO.CAUSE = cause % 2 ^ 3 := by
  unfold State.stRecord
  rw [State.get_set_other _ _ _ _ _ _ (by decide) (by decide), State.get_set_other _ _ _ _ _ _ (by decide) (by decide),
    State.get_set_other _ _ _ _ _ _ (by decide) (by decide), State.get_set_same _ _ _ _ (by decide)]
  rfl

end stRecord

/-- The registers that a fault of tag `t` takes beside its block's. -/
def abortAddrs (n t a : Nat) : Prop := a = CH_TASK n t ∨ a = CH_STATUS n

/-- A task in use that faults: what of the registers stays. -/
theorem taskFault_keepsRegs {s : State} {n : Nat} {t : Tag} (used : s.inUse n t) (code id : Nat) :
    KeepsRegs (abortAddrs n t) s (s.taskFault n t code id) := by
  have shown : KeepsRegs (abortAddrs n t) s (s.aborting n t) := by
    unfold State.aborting
    exact (setTstate_keeps s n t _).trans (set_keepsRegs (p := abortAddrs n t) (.inl rfl) _ _ _)
  rw [taskFault_of_inUse code id used]
  exact fun a out => (State.setTask_reg_ ..).trans (shown a out)

section stFault

variable {s : State} {n : Nat} {t : Tag} (used : s.inUse n t) (code e desc : Nat) (d : BitVec 512) (cause id : Nat)

include used

/-- R245: a stream fault of a task in use aborts it and shows its code and cause. -/
theorem stFault_complete :
    let u := s.stFault n t code e desc d cause id
    Local n s u ∧ u.tstate n t = tAborting ∧ (u.task n t).abortCode = code
      ∧ u.get (ST_FAULT n) ST_FAULT.CODE = code % 2 ^ 16 ∧ u.get (ST_FAULT_INFO n) ST_FAULT_INFO.CAUSE = cause % 2 ^ 3
      ∧ u.reg (ST_WDOG_BITES n) = s.reg (ST_WDOG_BITES n) := by
  intro u
  have same : (s.stRecord n t code e desc d cause).tstate n t = s.tstate n t := by
    rw [State.tstate, State.get, stRecord_reg _ _ _ _ _ _ _ _ (by unfold CH_TASK ST_FAULT; omega)
      (by unfold CH_TASK ST_FAULT_INFO; omega), State.tstate, State.get]
  have still : (s.stRecord n t code e desc d cause).inUse n t := by
    unfold State.inUse
    rwa [same]
  have regs := taskFault_keepsRegs still code id
  obtain ⟨inside, aborting, -, noted⟩ := taskFault_complete code id still
  refine ⟨(stRecord_local ..).trans inside, aborting, ?_, ?_, ?_, ?_⟩
  · exact congrArg Task.abortCode noted
  · exact (regs.get (by unfold abortAddrs ST_FAULT CH_TASK CH_STATUS; omega) _).trans (stRecord_code ..)
  · exact (regs.get (by unfold abortAddrs ST_FAULT_INFO CH_TASK CH_STATUS; omega) _).trans (stRecord_cause ..)
  · exact (regs _ (by unfold abortAddrs ST_WDOG_BITES CH_TASK CH_STATUS; omega)).trans
      (stRecord_reg _ _ _ _ _ _ _ _ (by unfold ST_WDOG_BITES ST_FAULT; omega) (by unfold ST_WDOG_BITES ST_FAULT_INFO; omega))

end stFault

/-- A bite of the watchdog is counted. -/
def State.bitten (s : State) (n t : Nat) : State := (s.bump (ST_WDOG_BITES n) 1).tally n 0x609 (.tag t) 1

/-- The fault of a task whose wait has the code `cause` (R236). -/
def stallCode (cause : Nat) : Nat := if cause = 1 then stCreditDeadlock else stStall

section watchdog

variable {s : State} {n : Ch} {t : Tag} (on : s.get (ST_CTRL n) ST_CTRL.WDOG_TIMEOUT ≠ 0) (active : s.live n t = true)
  (late : microTicks (s.get (ST_CTRL n) ST_CTRL.WDOG_TIMEOUT) ≤ (s.task n t).stall)

include on active late

theorem stallWatchdogBite_of_late : ∃ e desc d id, exec (.stallWatchdogBite n t) s
    = .next ((s.bitten n t).stFault n t (stallCode (s.stallCause n t).1) e desc d (s.stallCause n t).1 id) :=
  ⟨_, _, _, _, (show exec (.stallWatchdogBite n t) s = execStallWatchdogBite n t s from rfl).trans
    (if_neg (by simp [on, active, late]))⟩

/-- R236: the watchdog counts its bite and aborts the task with the cause of its wait. -/
theorem stallWatchdogBite_complete :
    ∃ u, exec (.stallWatchdogBite n t) s = .next u ∧ Local n s u ∧ u.tstate n t = tAborting
      ∧ (u.task n t).abortCode = stallCode (s.stallCause n t).1
      ∧ u.get (ST_FAULT n) ST_FAULT.CODE = stallCode (s.stallCause n t).1
      ∧ u.get (ST_FAULT_INFO n) ST_FAULT_INFO.CAUSE = (s.stallCause n t).1
      ∧ u.get (ST_WDOG_BITES n) count32 = min (s.get (ST_WDOG_BITES n) count32 + 1) 0xFFFFFFFF := by
  obtain ⟨e, desc, d, id, runs⟩ := stallWatchdogBite_of_late on active late
  obtain ⟨p, tallied⟩ := tally_only (s.bump (ST_WDOG_BITES n) 1) n 0x609 (.tag t) 1
  have counted : (s.bitten n t).get (ST_WDOG_BITES n) count32 = min (s.get (ST_WDOG_BITES n) count32 + 1) 0xFFFFFFFF := by
    rw [State.bitten, tallied]
    exact State.get_bump_same s _ 1
  have state : (s.bitten n t).tstate n t = tActive := by
    rw [State.bitten, tallied]
    exact (State.get_bump_ne s 1 _ (by unfold CH_TASK ST_WDOG_BITES; omega)).trans (of_decide_eq_true active)
  have bite : Local n s (s.bitten n t) :=
    (set_local s (inWindow_add n (by decide)) _ _).trans ((tally_only _ n _ _ 1).inChamber n)
  obtain ⟨inside, aborting, code, fault, cause, bites⟩ :=
    stFault_complete (.inl state) (stallCode (s.stallCause n t).1) e desc d (s.stallCause n t).1 id
  have fits : stallCode (s.stallCause n t).1 < 2 ^ 16 := by
    unfold stallCode
    split <;> decide
  refine ⟨_, runs, bite.trans inside, aborting, code, fault.trans (Nat.mod_eq_of_lt fits),
    cause.trans (Nat.mod_eq_of_lt (stallCause_lt s n t)), ?_⟩
  rw [State.get, bites]
  exact counted

end watchdog

/-! ### An element arrives (R231, R233) -/

theorem setRegion_local (s : State) (n r : Nat) (v : Region) : Local n s (s.setRegion n r v) := by
  unfold State.setRegion
  exact modCh_local s n _

theorem OnlyReg.region {a : Nat} {s u : State} (h : OnlyReg a s u) (n r : Nat) : u.region n r = s.region n r := by
  rw [State.region, h.ch, State.region]

theorem State.region_progress (s : State) (n t r : Nat) : (s.progress n t).region n r = s.region n r := by
  rw [State.region, State.progress, State.modTask, State.setTask, State.ch_modCh_same, State.region]

theorem creditTake_lt (d : BitVec 512) : creditTake d < 32 := by
  have number : dCred d < 2 ^ (135 + 1 - 132) := Nat.mod_lt _ (by positivity)
  unfold creditTake bit
  split <;> omega

theorem ST_CREDIT_inWindow (n : Nat) (d : BitVec 512) : InWindow n (ST_CREDIT n (creditTake d)) := by
  have := creditTake_lt d
  unfold ST_CREDIT
  rw [Nat.add_assoc]
  exact inWindow_add n (by omega)

/-- The request of an element that arrives at a region (R235, R237). -/
def State.elementReq (s : State) (n r : Nat) : ArbReq :=
  { taskReq n (s.get (ST_REGION n r) ST_REGION.TAG) 7 r with
    prio := if (s.region n r).priv then some (s.get (ST_CTRL n) ST_CTRL.PRIV_PRIO) else none }

/-- The way of an element to its region: the pocket's write port, unless it stores nothing. -/
def Region.elementRoute (g : Region) (n : Nat) (v : Nat × Bool) : List (Nat × Nat) :=
  if (g.bytesAt g.got v).isEmpty then [] else [(n * 4 + 2, 1)]

/-- Whether the element to come needs a credit for its unit (R231). -/
def Region.wantsCredit (g : Region) : Bool :=
  dCredRole g.d != 0 && !g.units.contains (dUnit g.d g.got) && (dCredRole g.d = 2 || dInBounds g.d g.got)

/-- A region takes a credit for the unit of the element to come. -/
def State.takeRegionCredit (s : State) (n r : Nat) : State :=
  let g := s.region n r
  ((s.takeCredit n (some (dUnit g.d g.got, creditTake g.d))).setRegion n r
    { g with units := g.units ++ [dUnit g.d g.got], turn := none }).showEngine n 3

/-- The element at the head of a region's queue is dropped and counted. -/
def State.dropElement (s : State) (n r : Nat) (rest : List (Nat × Nat × Bool)) : State :=
  (s.setRegion n r { s.region n r with inq := rest }).bump (ST_SPARGE_DROP n) 1

section arrival

variable {s : State} {n : Ch} {r : Fin 16} {no : Nat} {v : Nat × Bool} {rest : List (Nat × (Nat × Bool))}
  (head : (s.region n r).inq = (no, v) :: rest)

include head

theorem spargeElementArrive_of_stray
    (stray : (s.region n r).mc ≠ some no ∨ s.regState n r ≠ regFilling ∨ (s.region n r).count ≤ (s.region n r).got) :
    exec (.spargeElementArrive n r) s = .next (s.dropElement n r rest) := by
  rw [show exec (.spargeElementArrive n r) s = execSpargeElementArrive n r s from rfl, execSpargeElementArrive]
  dsimp only
  rw [head]
  exact if_pos stray

section filling

variable (mine : (s.region n r).mc = some no) (filling : s.regState n r = regFilling) (more : (s.region n r).got < (s.region n r).count)

include mine filling more

theorem spargeElementArrive_of_clear (ready : (s.region n r).wantsCredit = false)
    (clear : s.clear (s.elementReq n r) ((s.region n r).elementRoute n v) = true) :
    exec (.spargeElementArrive n r) s
      = .next ((s.arbMoved (s.elementReq n r) ((s.region n r).elementRoute n v)).receive n r v) := by
  rw [show exec (.spargeElementArrive n r) s = execSpargeElementArrive n r s from rfl, execSpargeElementArrive]
  dsimp only
  rw [head]
  dsimp only
  rw [if_neg (by simp [mine, filling, more]), ← Region.wantsCredit, ready, if_neg Bool.false_ne_true]
  exact congrArg Host.Outcome.next (arbitrate_of_clear clear fun u => u.receive n r v)

theorem spargeElementArrive_of_credit (wants : (s.region n r).wantsCredit = true)
    (there : s.get (ST_CREDIT n (creditTake (s.region n r).d)) ST_CREDIT.COUNT ≠ 0)
    (first : ∀ w ∈ s.creditWaiters n (creditTake (s.region n r).d), (s.region n r).turn.getD (s.ch n).turn ≤ w) :
    exec (.spargeElementArrive n r) s = .next (s.takeRegionCredit n r) := by
  rw [show exec (.spargeElementArrive n r) s = execSpargeElementArrive n r s from rfl, execSpargeElementArrive]
  dsimp only
  rw [head]
  dsimp only
  rw [if_neg (by simp [mine, filling, more]), ← Region.wantsCredit, wants, if_pos rfl, if_neg (by simpa [there] using first)]
  unfold State.takeRegionCredit
  dsimp only
  rw [head]

end filling

end arrival

section element

variable (s : State) (n : Ch) (r : Fin 16)

/-- R233: the region has received one element more, which has left its queue. -/
theorem receive_shown (v : Nat × Bool) :
    (s.receive n r v).get (ST_REGION n r) ST_REGION.RECEIVED = min ((s.region n r).got + 1) 0xFFFFFF
      ∧ ((s.receive n r v).region n r).inq = (s.region n r).inq.drop 1 := by
  unfold State.receive
  extract_lets g t l stored u given put shown
  have fits : min (g.got + 1) 0xFFFFFF < 2 ^ 24 := by omega
  have received : shown.get (ST_REGION n r) ST_REGION.RECEIVED = min (g.got + 1) 0xFFFFFF :=
    (State.get_set_same _ _ _ _ (by decide)).trans (Nat.mod_eq_of_lt fits)
  have queue : (shown.region n r).inq = g.inq.drop 1 := by
    rw [OnlyReg.region (.set (.refl (ST_REGION n r) put) ST_REGION.RECEIVED _) n r, State.region_setRegion_same]
  split
  · rw [State.progress_get_, State.region_progress]
    exact ⟨received, queue⟩
  · exact ⟨received, queue⟩

theorem dropElement_complete (rest : List (Nat × Nat × Bool)) : Local n s (s.dropElement n r rest)
    ∧ (s.dropElement n r rest).get (ST_SPARGE_DROP n) count32 = min (s.get (ST_SPARGE_DROP n) count32 + 1) 0xFFFFFFFF
    ∧ ((s.dropElement n r rest).region n r).inq = rest := by
  refine ⟨(setRegion_local s n r _).trans (set_local _ (inWindow_add n (by decide)) _ _), State.get_bump_same _ _ 1, ?_⟩
  rw [State.dropElement, State.bump, OnlyReg.region (.set (.refl (ST_SPARGE_DROP n) _) count32 _) n r, State.region_setRegion_same]

/-- R231: the unit's credit is taken from the counter, and the region holds the unit. -/
theorem takeRegionCredit_complete : Local n s (s.takeRegionCredit n r)
    ∧ (s.takeRegionCredit n r).get (ST_CREDIT n (creditTake (s.region n r).d)) ST_CREDIT.COUNT
      = s.get (ST_CREDIT n (creditTake (s.region n r).d)) ST_CREDIT.COUNT - 1
    ∧ (s.takeRegionCredit n r).region n r
      = { s.region n r with units := (s.region n r).units ++ [dUnit (s.region n r).d (s.region n r).got], turn := none } := by
  have few := creditTake_lt (s.region n r).d
  have shows := showEngine_onlyReg ((s.takeCredit n (some (dUnit (s.region n r).d (s.region n r).got,
    creditTake (s.region n r).d))).setRegion n r
      { s.region n r with units := (s.region n r).units ++ [dUnit (s.region n r).d (s.region n r).got], turn := none }) n 3
  have apart : ST_CREDIT n (creditTake (s.region n r).d) ≠ ST_ENGINE n 3 := by unfold ST_CREDIT ST_ENGINE; omega
  have below := s.get_lt (ST_CREDIT n (creditTake (s.region n r).d)) ST_CREDIT.COUNT
  refine ⟨((set_local s (ST_CREDIT_inWindow n _) _ _).trans (setRegion_local _ n r _)).trans
    (shows.inChamber (ST_ENGINE_inWindow n 3)), ?_, ?_⟩
  · refine (shows.get_ne apart _).trans ((State.get_set_same s _ _ _ (by decide)).trans (Nat.mod_eq_of_lt ?_))
    omega
  · exact (shows.region n r).trans (State.region_setRegion_same ..)

end element

/-! ### Deliveries and multicasts (R233) -/

theorem spargeDeliveryEnd_of_over {s : State} {g : Fin 256} {r : Fin 16} {m : Nat × Mcast}
    (complete : (s.mcast.find? fun m => m.2.group = g.val && m.2.region = r.val && s.mcastOver m) = some m) :
    exec (.spargeDeliveryEnd g r) s
      = .next (m.2.members.foldl (fun u n => u.delivered n r m.1) { s with mcast := kdel s.mcast m.1 }) := by
  rw [show exec (.spargeDeliveryEnd g r) s = execSpargeDeliveryEnd g r s from rfl, execSpargeDeliveryEnd, complete]

/-- The regions of the members of `l` fill for a multicast. -/
def State.fillRegions (s : State) (l : List Nat) (r no : Nat) : State :=
  l.foldl (fun u m => (u.set (ST_REGION m r) ST_REGION.STATE regFilling).setRegion m r { u.region m r with mc := some no }) s

/-- The multicast of a send start opens, and its members' regions fill. -/
def State.openMcast (s : State) (n : Nat) (st : Start) : State :=
  let r := dRegion st.d
  State.fillRegions
    { s with
      arm := kput s.arm (dMgroup st.d * 16 + r) 0 0
      mcast := kset s.mcast s.mcastNo ⟨dMgroup st.d, r, (n, st.tag, st.id), s.members (dMgroup st.d), false⟩ }
    (s.members (dMgroup st.d)) r s.mcastNo

/-- The first elements leave with the multicast's start. -/
def State.firstElements (s : State) (n : Nat) (st : Start) : State × Start :=
  sendOut (dCount st.d + 1) (s.openMcast n st) { st with begun := true } s.mcastNo (s.members (dMgroup st.d))

/-- Once every member has armed, the multicast runs; then finished starts leave. -/
theorem multicastRun_of_armed {s : State} {n : Ch} {e : Eng} {st : Start} (here : (s.eng n e).active = some st) (kind : st.kind = .send)
    (due : st.begun = false) (active : s.live n st.tag = true) (members : s.members (dMgroup st.d) ≠ [])
    (armed : kget s.arm (dMgroup st.d * 16 + dRegion st.d) 0 = (s.members (dMgroup st.d)).length) :
    let x := s.firstElements n st
    exec (.multicastRun n e) s
      = .next ((x.1.putEng n e { s.eng n e with active := some (x.1.advance n x.2) }).retireAll n) := by
  rw [show exec (.multicastRun n e) s = execMulticastRun n e s from rfl, execMulticastRun]
  dsimp only
  have waits : ((s.eng n e).active.any fun st => st.kind == .send && !st.begun && s.live n st.tag) = true := by
    simp [here, kind, due, active]
  refine (if_neg (by simp [waits])).trans ?_
  rw [if_pos waits, show (s.eng n e).at_ .active = some st from here]
  exact if_neg (by simp [members, armed])

theorem regState_setFilling (s : State) (m r k : Nat) (g : Region) (before : k = m ∨ s.regState k r = regFilling) :
    ((s.set (ST_REGION m r) ST_REGION.STATE regFilling).setRegion m r g).regState k r = regFilling := by
  by_cases same : k = m
  · rw [State.regState, State.setRegion_get_, same]
    exact State.get_set_same _ _ _ _ (by decide)
  · have apart : ST_REGION k r ≠ ST_REGION m r := by unfold ST_REGION chWin; omega
    rw [State.regState, State.setRegion_get_, State.get_set_ne _ _ _ _ apart]
    exact before.resolve_left same

theorem regState_fillRegions (l : List Nat) (s : State) (r no k : Nat) (fills : k ∈ l ∨ s.regState k r = regFilling) :
    (s.fillRegions l r no).regState k r = regFilling := by
  induction l generalizing s with
  | nil => exact fills.resolve_left List.not_mem_nil
  | cons m l ih =>
    refine ih _ ?_
    rcases fills with among | before
    · rcases List.mem_cons.1 among with first | later
      · exact .inr (regState_setFilling s m r k _ (.inl first))
      · exact .inl later
    · exact .inr (regState_setFilling s m r k _ (.inr before))

/-- The region of every member fills as the multicast opens. -/
theorem openMcast_fills (s : State) (n : Nat) (st : Start) (m : Nat) (member : m ∈ s.members (dMgroup st.d)) :
    (s.openMcast n st).regState m (dRegion st.d) = regFilling :=
  regState_fillRegions _ _ _ _ _ (.inl member)

/-! ### A tag beyond those of a chamber -/

/-- A sink start whose tag no chamber has, of a list instruction that is done: where that tag's LT_TOL_ORDER of chamber 0 would lie
stands ST_REGION of region 0. -/
def straySink : Start := { kind := .sink, id := 5, tag := 3128, desc := 0 }

def strayList : ListInstr := { id := 5, tag := 3128, pc := 0, word := 0, tol := { order := 1 }, done := true }

/-- A multicast to region 0 of the chambers of group 0, of the task of tag 0. -/
def strayMulticast : Start := { kind := .send, id := 5, tag := 0, desc := 3, begun := false }

/-- Chamber 0 is the only member of the group, and has armed; its sink start leaves as the multicast runs. -/
def straySinkState : State :=
  { ((((State.reset.setTstate 0 0 tActive).setReg (ST_MEMBER 0 0) 1).setEng 0 0 { active := some strayMulticast }).setEng 0 2
      { active := some straySink }).modCh 0 fun c => { c with lists := [strayList] } with arm := [(0, 1)] }

/-- The state of region 0 of chamber 0. -/
def regionInChamber0 : Out → Option Nat
  | .next u => some (u.regState 0 0)
  | _ => none

theorem straySinkState_enabled :
    (straySinkState.eng 0 0).active = some strayMulticast ∧ straySinkState.live 0 0 = true
      ∧ straySinkState.members (dMgroup strayMulticast.d) = [0]
      ∧ kget straySinkState.arm (dMgroup strayMulticast.d * 16 + dRegion strayMulticast.d) 0 = 1 ∧ dRegion strayMulticast.d = 0 := by
  decide +kernel

/-- The tolerance counted turns FILLING into full. -/
theorem straySinkState_countsInRegion : regionInChamber0 (exec (.multicastRun 0 0) straySinkState) = some 3 := by
  decide +kernel

/-- Refutes O20: nothing in the statement keeps a start's tag below 4, and the LT_TOL_ORDER in which the list instruction of tag 3128
counts its tolerances, as its sink start leaves with the multicast's run, is ST_REGION of region 0. What holds is
`multicastRun_of_armed` with `openMcast_fills`, before the finished starts leave, and as they stand the other parts:
`spargeElementArrive_of_clear` with `receive_shown`, `spargeElementArrive_of_credit` with `takeRegionCredit_complete`,
`spargeElementArrive_of_stray` with `dropElement_complete`, `spargeDeliveryEnd_of_over` and `stallWatchdogBite_complete`. -/
theorem not_spargeAndWatchdogComplete : ¬ Obligations.SpargeAndWatchdogComplete := by
  unfold Obligations.SpargeAndWatchdogComplete
  intro h
  obtain ⟨here, active, members, armed, region⟩ := straySinkState_enabled
  obtain ⟨multicasts, -⟩ := h straySinkState
  obtain ⟨u, runs, -, fills, -⟩ := multicasts 0 0 strayMulticast here rfl rfl active (by simp [members]) (by simp [members, armed])
  have after := straySinkState_countsInRegion
  have filling := fills 0 (by simp [members])
  rw [region] at filling
  rw [runs, regionInChamber0, filling] at after
  cases after

end Sys2Proof.Machine
end

section
/-! SUPPORT. The arbiters (R237 to R239, R241, R242, R246, R359): what a phase, a handover, a bite of the hold watchdog and the end of a
forced release leave. -/

namespace Sys2Proof.Machine

/-! ### Registers, arbiters, memory -/

theorem State.arb_setArb_same (s : State) (k : Nat) (v : Arb) : (s.setArb k v).arb k = v := kget_kput_same _ _ _ _

theorem OnlyReg.arb {a : Nat} {s u : State} (h : OnlyReg a s u) (k : Nat) : u.arb k = s.arb k := by
  obtain ⟨⟨r, rfl⟩, -⟩ := h
  rfl

theorem SameCells.keepsMem {s u : State} (h : SameCells s u) : KeepsMem s u := by
  obtain ⟨mem, chk, poison, noise⟩ := h
  intro a
  unfold State.byte State.seen State.codeword State.flags State.cell State.noise
  rw [mem, chk, poison, noise]
  exact ⟨rfl, rfl, rfl⟩

/-- Only registers and arbiters change. -/
def ArbRegs (s u : State) : Prop := ∃ r a, u = { s with regs := r, arbs := a }

theorem ArbRegs.trans {s u v : State} : ArbRegs s u → ArbRegs u v → ArbRegs s v := by
  rintro ⟨_, _, rfl⟩ ⟨r, a, rfl⟩
  exact ⟨r, a, rfl⟩

theorem RegsOnly.arbRegs {s u : State} : RegsOnly s u → ArbRegs s u := by
  rintro ⟨r, rfl⟩
  exact ⟨r, s.arbs, rfl⟩

theorem setArb_arbRegs (s : State) (k : Nat) (v : Arb) : ArbRegs s (s.setArb k v) := ⟨s.regs, _, rfl⟩

theorem ArbRegs.keeps {s u : State} (h : ArbRegs s u) : KeepsMem s u ∧ u.chambers = s.chambers := by
  obtain ⟨r, a, rfl⟩ := h
  exact ⟨SameCells.keepsMem ⟨rfl, rfl, rfl, rfl⟩, rfl⟩

/-! ### What a phase chooses (R238) -/

theorem waiting_input {v : Arb} {r : ArbReq} (mem : r ∈ v.waiting) : r.input < 8 := by
  unfold Arb.waiting at mem
  obtain ⟨i, inputs, found⟩ := List.mem_filterMap.1 mem
  split at found
  · cases found
  · have here := List.find?_some found
    simp only [Bool.and_eq_true, decide_eq_true_eq] at here
    rw [here.1]
    exact List.mem_range.1 inputs

/-- The input that a phase chooses is one that waits. -/
theorem arbChoice_lt {s : State} {v : Arb} {i : Nat} (choice : s.arbChoice v = some i) : i < 8 := by
  unfold State.arbChoice at choice
  obtain ⟨r, best, rfl⟩ := Option.map_eq_some_iff.1 choice
  refine List.foldlRecOn (motive := fun b : Option ArbReq => ∀ x, b = some x → x.input < 8) v.waiting _ (b := none)
    (fun _ e => nomatch e) (fun b so_far r mem x chosen => ?_) r best
  have waits := waiting_input mem
  split at chosen
  · cases chosen
    exact waits
  · split at chosen
    · cases chosen
      exact waits
    · exact so_far x chosen

/-! ### A grant (R238, R241, R246) -/

theorem showHolder_onlyReg (s : State) (k : Nat) : OnlyReg (ABC_STATUS (k / 4)) s (s.showHolder k) := by
  unfold State.showHolder
  exact ite_rel (R := OnlyReg (ABC_STATUS (k / 4))) (fun _ => .set (.refl _ s) _ _) fun _ => .refl _ s

/-- The registers of chambers that show what waits: an engine's, or Flowstone's. -/
def waitAddrs (a : Nat) : Prop := ∃ m < 1024, a = FS_STATUS m ∨ ∃ e < 4, a = ST_ENGINE m e

theorem OnlyReg.keepsRegs {a : Nat} {p : Nat → Prop} {s u : State} (h : OnlyReg a s u) (named : p a) : KeepsRegs p s u := by
  obtain ⟨-, regs⟩ := h
  exact KeepsRegs.mono regs fun b e => e ▸ named

theorem showWaits_only (s : State) (k : Nat) : RegsOnly s (s.showWaits k) := by
  refine foldl_rel RegsOnly.refl RegsOnly.trans (fun u r => ?_) _ s
  split
  · next m _ =>
    exact ite_rel (fun _ => (showEngine_onlyReg u m r.eng).1) fun _ =>
      ite_rel (fun _ => (showFlowWaits_onlyReg u m).1) fun _ => .refl u
  · exact .refl u

theorem showWaits_arb (s : State) (k j : Nat) : (s.showWaits k).arb j = s.arb j := by
  obtain ⟨r, shown⟩ := showWaits_only s k
  rw [shown]
  rfl

/-- Showing what waits at an arbiter writes registers of the module's chambers. -/
theorem showWaits_keepsRegs (s : State) (k : Nat) (own : ∀ r ∈ (s.arb k).reqs, ∀ m, r.ch = some m → m < 1024) :
    KeepsRegs waitAddrs s (s.showWaits k) := by
  refine List.foldlRecOn (motive := fun u : State => KeepsRegs waitAddrs s u) _ _ (.refl _ s) fun u so_far r mem => so_far.trans ?_
  split
  · next m ch =>
    have fits := own r mem m ch
    exact ite_rel (R := KeepsRegs waitAddrs)
      (fun engine => (showEngine_onlyReg u m r.eng).keepsRegs ⟨m, fits, .inr ⟨r.eng, engine, rfl⟩⟩) fun _ =>
      ite_rel (R := KeepsRegs waitAddrs) (fun _ => (showFlowWaits_onlyReg u m).keepsRegs ⟨m, fits, .inl rfl⟩) fun _ => .refl _ u
  · exact .refl _ u

/-- The counters of an arbiter's input lie apart, from one another and from the registers that show holders and what waits. -/
theorem arbCounter_apart {k i : Nat} (input : i < 8) :
    arbCounter k i 0 ≠ arbCounter k i 1 ∧ arbCounter k i 0 ≠ arbCounter k i 2 ∧ (k < 4096 → arbCounter k i 0 ≠ ABC_STATUS (k / 4))
      ∧ ¬ waitAddrs (arbCounter k i 0) := by
  refine ⟨?_, ?_, fun chamber => ?_, ?_⟩
  · unfold arbCounter
    split_ifs <;> omega
  · unfold arbCounter
    split_ifs <;> omega
  · unfold arbCounter ABC_STATUS
    rw [if_pos chamber]
    omega
  · rintro ⟨m, fits, shown⟩
    have offset : arbCounter k i 0 ≠ FS_STATUS m ∧ ∀ e < 4, arbCounter k i 0 ≠ ST_ENGINE m e := by
      unfold arbCounter FS_STATUS ST_ENGINE chWin y4xWin
      split_ifs <;> refine ⟨?_, fun e few => ?_⟩ <;> omega
    obtain ⟨flow, engines⟩ := offset
    rcases shown with shown | ⟨e, few, shown⟩
    · exact flow shown
    · exact engines e few shown

/-- An arbiter as a grant to an input leaves it. -/
def Arb.grantedTo (v : Arb) (i now : Nat) : Arb :=
  { v with holder := some i, winner := none, recent := v.recent.filter (· != i) ++ [i], lastMove := now }

section grant

variable (s : State) (k i : Nat)

theorem arbGrant_arbRegs : ArbRegs s (s.arbGrant k i) := by
  unfold State.arbGrant
  extract_lets v w s1 s2 s3 v'
  have counted : RegsOnly s s3 := ((bump_only s _ 1).trans (bump_only s1 _ w)).trans (set_only s2 _ _ _)
  exact (counted.arbRegs.trans (setArb_arbRegs s3 k v')).trans (showHolder_onlyReg _ k).1.arbRegs

theorem arbGrant_arb : ∃ now, (s.arbGrant k i).arb k = (s.arb k).grantedTo i now := by
  unfold State.arbGrant
  extract_lets v w s1 s2 s3 v'
  exact ⟨s3.now, ((showHolder_onlyReg _ k).arb k).trans (State.arb_setArb_same s3 k v')⟩

variable {k i}

/-- R246: a grant counts in its input's GRANTS. -/
theorem arbGrant_counts (input : i < 8) :
    (s.arbGrant k i).get (arbCounter k i 0) count32 = min (s.get (arbCounter k i 0) count32 + 1) 0xFFFFFFFF := by
  obtain ⟨sum, longest, holder, -⟩ := arbCounter_apart input
  unfold State.arbGrant
  extract_lets v w s1 s2 s3 v'
  have counted : s3.get (arbCounter k i 0) count32 = min (s.get (arbCounter k i 0) count32 + 1) 0xFFFFFFFF :=
    (State.get_set_ne s2 _ _ _ longest).trans ((State.get_bump_ne s1 w _ sum).trans (State.get_bump_same s _ 1))
  clear_value s3
  by_cases chamber : k < 4096
  · rw [(showHolder_onlyReg _ k).get_ne (holder chamber), State.setArb_get_, counted]
  · rw [State.showHolder, if_neg chamber, State.setArb_get_, counted]

end grant

/-! ### Phases and handovers (R238, R239) -/

section handover

variable {a : ArbId} {s : State} (closed : (s.arb (arbKey a)).forced = none) (up : s.retraining (arbKey a) = false)

include closed up

theorem arbPhase_of_idle {i : Nat} (choice : s.arbChoice (s.arb (arbKey a)) = some i) (idle : (s.arb (arbKey a)).holder = none) :
    exec (.arbPhase a) s = .next ((s.arbGrant (arbKey a) i).showWaits (arbKey a)) := by
  rw [show exec (.arbPhase a) s = execArbPhase a s from rfl, execArbPhase]
  rw [choice]
  dsimp only
  rw [if_neg (by simp [closed, up]), idle]

theorem arbPhase_of_held {i h : Nat} (choice : s.arbChoice (s.arb (arbKey a)) = some i) (held : (s.arb (arbKey a)).holder = some h) :
    exec (.arbPhase a) s = .next (s.setArb (arbKey a) { s.arb (arbKey a) with winner := some i }) := by
  rw [show exec (.arbPhase a) s = execArbPhase a s from rfl, execArbPhase]
  rw [choice]
  dsimp only
  rw [if_neg (by simp [closed, up]), held]

theorem arbRequestDrop_of_done {h : Nat} (held : (s.arb (arbKey a)).holder = some h)
    (done : ∀ r ∈ (s.arb (arbKey a)).reqs, r.input = h → r.moved = true) :
    let k := arbKey a
    let v := s.arb k
    exec (.arbRequestDrop a) s = .next (match v.winner with
      | some w =>
        if v.reqs.any fun r => r.input = w && !r.moved then (s.arbGrant k w).showWaits k
        else (s.setArb k { v with holder := none, winner := none }).showHolder k
      | none => (s.setArb k { v with holder := none }).showHolder k) := by
  rw [show exec (.arbRequestDrop a) s = execArbRequestDrop a s from rfl, execArbRequestDrop]
  dsimp only
  rw [held]
  dsimp only
  rw [if_neg (by simpa [closed, up] using done)]
  cases (s.arb (arbKey a)).winner with
  | some w => exact (apply_ite Host.Outcome.next _ _ _).symm
  | none => rfl

end handover

/-- R238: a grant of a phase, shown where requests wait. -/
theorem phaseGrant_complete (s : State) (k i : Nat) :
    let u := (s.arbGrant k i).showWaits k
    ArbRegs s u ∧ (u.arb k).holder = some i ∧ (u.arb k).winner = none := by
  obtain ⟨now, granted⟩ := arbGrant_arb s k i
  refine ⟨(arbGrant_arbRegs s k i).trans (showWaits_only _ k).arbRegs, ?_, ?_⟩
  · rw [showWaits_arb, granted]
    rfl
  · rw [showWaits_arb, granted]
    rfl

theorem phaseGrant_counts {s : State} {k i : Nat} (input : i < 8)
    (own : ∀ r ∈ (s.arb k).reqs, ∀ m, r.ch = some m → m < 1024) :
    ((s.arbGrant k i).showWaits k).get (arbCounter k i 0) count32
      = min (s.get (arbCounter k i 0) count32 + 1) 0xFFFFFFFF := by
  obtain ⟨now, granted⟩ := arbGrant_arb s k i
  obtain ⟨-, -, -, apart⟩ := arbCounter_apart input
  have shown := showWaits_keepsRegs (s.arbGrant k i) k (by rw [granted]; exact own)
  exact (shown.get apart _).trans (arbGrant_counts s input)

/-- R238: what a phase leaves. -/
theorem arbPhase_complete {a : ArbId} {s : State} {i : Nat} (choice : s.arbChoice (s.arb (arbKey a)) = some i)
    (closed : (s.arb (arbKey a)).forced = none) (up : s.retraining (arbKey a) = false)
    (own : ∀ r ∈ (s.arb (arbKey a)).reqs, ∀ m, r.ch = some m → m < 1024) :
    let k := arbKey a
    ∃ u, exec (.arbPhase a) s = .next u ∧ KeepsMem s u ∧ u.chambers = s.chambers
      ∧ ((s.arb k).holder = none → (u.arb k).holder = some i ∧ (u.arb k).winner = none
          ∧ u.get (arbCounter k i 0) count32 = min (s.get (arbCounter k i 0) count32 + 1) 0xFFFFFFFF)
      ∧ ((s.arb k).holder ≠ none → (u.arb k).holder = (s.arb k).holder ∧ (u.arb k).winner = some i) := by
  cases held : (s.arb (arbKey a)).holder with
  | none =>
    obtain ⟨only, holder, winner⟩ := phaseGrant_complete s (arbKey a) i
    obtain ⟨mem, chambers⟩ := only.keeps
    exact ⟨_, arbPhase_of_idle closed up choice held, mem, chambers,
      fun _ => ⟨holder, winner, phaseGrant_counts (arbChoice_lt choice) own⟩, fun busy => absurd held busy⟩
  | some h =>
    obtain ⟨mem, chambers⟩ := (setArb_arbRegs s (arbKey a) { s.arb (arbKey a) with winner := some i }).keeps
    refine ⟨_, arbPhase_of_held closed up choice held, mem, chambers, fun idle => absurd idle (by simp [held]), fun _ => ?_⟩
    rw [State.arb_setArb_same]
    exact ⟨rfl, rfl⟩

/-- A resource that is shown free. -/
theorem released_complete (s : State) (k : Nat) (v : Arb) :
    ArbRegs s ((s.setArb k v).showHolder k) ∧ ((s.setArb k v).showHolder k).arb k = v :=
  ⟨(setArb_arbRegs s k v).trans (showHolder_onlyReg _ k).1.arbRegs,
    ((showHolder_onlyReg _ k).arb k).trans (State.arb_setArb_same s k v)⟩

/-- R239: what an owner that has no further data phase leaves. -/
theorem arbRequestDrop_complete {a : ArbId} {s : State} {h : Nat} (held : (s.arb (arbKey a)).holder = some h)
    (closed : (s.arb (arbKey a)).forced = none) (up : s.retraining (arbKey a) = false)
    (done : ∀ r ∈ (s.arb (arbKey a)).reqs, r.input = h → r.moved = true) :
    let k := arbKey a
    let v := s.arb k
    ∃ u, exec (.arbRequestDrop a) s = .next u ∧ KeepsMem s u ∧ u.chambers = s.chambers
      ∧ (v.winner = none → (u.arb k).holder = none)
      ∧ ∀ w, v.winner = some w → (u.arb k).holder = if v.reqs.any (fun r => r.input = w && !r.moved) then some w else none := by
  intro k v
  have runs := arbRequestDrop_of_done closed up held done
  have released (x : Arb) : KeepsMem s ((s.setArb k x).showHolder k) ∧ ((s.setArb k x).showHolder k).chambers = s.chambers
      ∧ ((s.setArb k x).showHolder k).arb k = x := by
    obtain ⟨only, arb⟩ := released_complete s k x
    obtain ⟨mem, chambers⟩ := only.keeps
    exact ⟨mem, chambers, arb⟩
  cases winner : v.winner with
  | none =>
    obtain ⟨mem, chambers, arb⟩ := released { v with holder := none }
    refine ⟨_, runs.trans (by rw [winner]), mem, chambers, fun _ => ?_, nofun⟩
    rw [arb]
  | some w =>
    by_cases asks : (v.reqs.any fun r => r.input = w && !r.moved) = true
    · obtain ⟨only, holder, -⟩ := phaseGrant_complete s k w
      obtain ⟨mem, chambers⟩ := only.keeps
      refine ⟨_, runs.trans (by rw [winner]; exact congrArg Host.Outcome.next (if_pos asks)), mem, chambers, nofun, fun x e => ?_⟩
      cases e
      rw [if_pos asks, holder]
    · obtain ⟨mem, chambers, arb⟩ := released { v with holder := none, winner := none }
      refine ⟨_, runs.trans (by rw [winner]; exact congrArg Host.Outcome.next (if_neg asks)), mem, chambers, nofun, fun x e => ?_⟩
      cases e
      rw [if_neg asks, arb]

/-! ### The hold watchdog (R242) -/

/-- The registers of a chamber of the module that an abort of a task writes, but for CH_TASK of tag `t` of chamber `c`. -/
def otherAborts (c t a : Nat) : Prop :=
  ∃ m < 1024, a = CH_STATUS m ∨ a = CH_FAULT m ∨ ∃ u < 4, (m ≠ c ∨ u ≠ t) ∧ a = CH_TASK m u

/-- Aborts of other tasks: the task of tag `t` of chamber `c` stays, and the registers that they do not write. -/
def AbortsOther (c t : Nat) (s u : State) : Prop :=
  TaskOnly s u ∧ KeepsRegs (otherAborts c t) s u ∧ u.task c t = s.task c t

theorem AbortsOther.refl (c t : Nat) (s : State) : AbortsOther c t s s := ⟨.refl s, .refl _ s, rfl⟩

theorem AbortsOther.trans {c t : Nat} {s u v : State} (h : AbortsOther c t s u) (g : AbortsOther c t u v) : AbortsOther c t s v := by
  obtain ⟨only, regs, task⟩ := h
  obtain ⟨only', regs', task'⟩ := g
  exact ⟨only.trans only', regs.trans regs', task'.trans task⟩

theorem taskFault_abortsOther (s : State) {c t m u : Nat} (chamber : m < 1024) (tag : u < 4) (other : m ≠ c ∨ u ≠ t)
    (code id : Nat) : AbortsOther c t s (s.taskFault m u code id) := by
  have status : otherAborts c t (CH_STATUS m) := ⟨m, chamber, .inl rfl⟩
  have fault : otherAborts c t (CH_FAULT m) := ⟨m, chamber, .inr (.inl rfl)⟩
  have task : otherAborts c t (CH_TASK m u) := ⟨m, chamber, .inr (.inr ⟨u, tag, other, rfl⟩)⟩
  have on {v : State} {a : Nat} (named : otherAborts c t a) (f : Fld) (x : Nat) : AbortsOther c t v (v.set a f x) :=
    ⟨(set_only v a f x).task, set_keepsRegs named v f x, rfl⟩
  have put (v : State) (k : Task) : AbortsOther c t v (v.setTask m u k) :=
    ⟨setTask_only v m u k, fun _ _ => rfl, State.task_setTask_ne v k (by tauto)⟩
  unfold State.taskFault
  extract_lets k st pc s1 s2 s3
  split
  · exact ite_rel (R := AbortsOther c t) (fun _ => (on fault _ _).trans (put _ _)) fun _ => on fault _ _
  · exact ite_rel (R := AbortsOther c t)
      (fun _ => (((on task _ _).trans (on status _ _)).trans (on task _ _)).trans (put _ _)) fun _ => .refl c t s

/-- The other tasks that use a resource are aborted (R242). -/
def State.abortOthers (s : State) (c t : Nat) (l : List ArbReq) : State :=
  l.foldl (fun u r =>
    match r.ch with
    | some m => if m = c && r.tag = t then u else u.abortFrom m r.tag abForced
    | none => u) s

theorem abortOthers_abortsOther (s : State) (c t : Nat) {l : List ArbReq}
    (own : ∀ r ∈ l, r.tag < 4 ∧ ∀ m, r.ch = some m → m < 1024) : AbortsOther c t s (s.abortOthers c t l) := by
  refine List.foldlRecOn (motive := AbortsOther c t s) _ _ (.refl c t s) fun u so_far r mem => so_far.trans ?_
  obtain ⟨tag, chamber⟩ := own r mem
  split
  · next m ch =>
    refine ite_rel (R := AbortsOther c t) (fun _ => .refl c t u) fun other =>
      taskFault_abortsOther u (chamber m ch) tag ?_ abForced _
    rw [Bool.and_eq_true, decide_eq_true_eq, decide_eq_true_eq] at other
    tauto
  · exact .refl c t u

/-- The bite of the hold watchdog on the task of tag `t` of chamber `c`, which holds the resource by input `h`. -/
def State.holdRecord (s : State) (k h c t : Nat) : State :=
  if k < 4096 then
    s.recFault (ABC_FAULT (k / 4)) ABC_FAULT.CODE ABC_FAULT.LOST abHold
      [(ABC_FAULT.RESOURCE, arbClass k), (ABC_FAULT.INPUT, h), (ABC_FAULT.TAG, t), (ABC_FAULT.NO_TASK, 0)]
  else
    s.recFault AB_FAULT AB_FAULT.CODE AB_FAULT.LOST abHold
      [(AB_FAULT.RESOURCE, arbClass k), (AB_FAULT.INPUT, h), (AB_FAULT.TAG, t), (AB_FAULT.CHAMBER, c), (AB_FAULT.NO_TASK, 0)]

/-- The register that shows the fault of an arbiter. -/
def holdAddr (k : Nat) : Nat := if k < 4096 then ABC_FAULT (k / 4) else AB_FAULT

section holdRecord

variable (s : State) (k h c t : Nat)

theorem holdRecord_onlyReg : OnlyReg (holdAddr k) s (s.holdRecord k h c t) := by
  unfold State.holdRecord holdAddr
  split <;> exact recFault_onlyReg s _ _ _ _ _

theorem holdRecord_code : (s.holdRecord k h c t).get (holdAddr k) ABC_FAULT.CODE = abHold := by
  unfold State.holdRecord holdAddr
  split
  · exact recFault_code s _ abHold _ (by decide)
      (by simp [ABC_FAULT.CODE, ABC_FAULT.RESOURCE, ABC_FAULT.INPUT, ABC_FAULT.TAG, ABC_FAULT.NO_TASK])
  · exact recFault_code s _ abHold _ (by decide)
      (by simp [AB_FAULT.CODE, AB_FAULT.RESOURCE, AB_FAULT.INPUT, AB_FAULT.TAG, AB_FAULT.CHAMBER, AB_FAULT.NO_TASK])

end holdRecord

/-- The arbiter of holder `h` with a forced release open since `clk`: the data phase of an owner of no task is discarded. -/
def Arb.forcedAt (v : Arb) (h clk : Nat) : Arb :=
  { v with holder := some h, forced := some clk, reqs := v.reqs.filter fun r => r.input != h || r.moved || r.ch.isSome }

/-- The requests of an input whose data phases are not over. -/
def Arb.owners (v : Arb) (h : Nat) : List ArbReq := v.reqs.filter fun r => r.input = h && !r.moved

section watchdog

variable {a : ArbId} {s : State} {h c : Nat} {r : ArbReq} {rest : List ArbReq}

/-- The aborts of a bite, the owner's last. -/
def State.holdAborts (s : State) (k h c t : Nat) (own : List ArbReq) : State :=
  ((s.holdRecord k h c t).abortOthers c t own).abortFrom c t abHold

theorem holdWatchdogBite_of_late (held : (s.arb (arbKey a)).holder = some h) (on : s.get AB_CTRL AB_CTRL.HOLD_TIMEOUT ≠ 0)
    (late : microTicks (s.get AB_CTRL AB_CTRL.HOLD_TIMEOUT) ≤ s.now - (s.arb (arbKey a)).lastMove)
    (closed : (s.arb (arbKey a)).forced = none) (up : s.retraining (arbKey a) = false)
    (own : (s.arb (arbKey a)).owners h = r :: rest) (task : r.ch = some c) :
    let u := s.holdAborts (arbKey a) h c r.tag (r :: rest)
    ∃ lost, exec (.holdWatchdogBite a) s = .next ((u.setArb (arbKey a) ((s.arb (arbKey a)).forcedAt h u.clk)).modGl fun g =>
      { g with lost := g.lost ++ lost }) := by
  refine ⟨((r :: rest).filter fun r => r.ch.isNone && r.eng = 13).map (·.no), ?_⟩
  rw [show exec (.holdWatchdogBite a) s = execHoldWatchdogBite a s from rfl, execHoldWatchdogBite]
  dsimp only
  rw [held]
  dsimp only
  rw [if_neg (by simp [on, late, closed, up]), ← Arb.owners, own]
  obtain ⟨_, _, ch, _, _, _, _, _⟩ := r
  cases task
  rfl

end watchdog

section watchdog

variable {s : State} {k h c : Nat} {t : Tag} {l : List ArbReq} (own : ∀ q ∈ l, q.tag < 4 ∧ ∀ m, q.ch = some m → m < 1024)
  (chamber : c < 1024) (active : s.live c t = true)

include own chamber active

/-- R242: the aborts of a bite leave the owner's task aborting with AB_HOLD, and the arbiter's fault shows the same. -/
theorem holdAborts_complete :
    let u := s.holdAborts k h c t l
    TaskOnly s u ∧ u.tstate c t = tAborting ∧ (u.task c t).abortCode = abHold ∧ u.get (holdAddr k) ABC_FAULT.CODE = abHold := by
  intro u
  have record := holdRecord_onlyReg s k h c t
  obtain ⟨only, regs, -⟩ := abortOthers_abortsOther (s.holdRecord k h c t) c t own
  have unwritten : ¬ otherAborts c t (CH_TASK c t) := by
    rintro ⟨m, fits, status | fault | ⟨x, few, other, task⟩⟩
    · unfold CH_TASK CH_STATUS chWin at status
      omega
    · unfold CH_TASK CH_FAULT chWin at fault
      omega
    · unfold CH_TASK chWin at task
      omega
  have shown : ¬ otherAborts c t (holdAddr k) := by
    unfold holdAddr
    rintro ⟨m, fits, status | fault | ⟨x, few, other, task⟩⟩
    · unfold ABC_FAULT AB_FAULT CH_STATUS chWin y4xWin at status
      split_ifs at status <;> omega
    · unfold ABC_FAULT AB_FAULT CH_FAULT chWin y4xWin at fault
      split_ifs at fault <;> omega
    · unfold ABC_FAULT AB_FAULT CH_TASK chWin y4xWin at task
      split_ifs at task <;> omega
  have apart : CH_TASK c t ≠ holdAddr k ∧ ¬ abortAddrs c t (holdAddr k) := by
    unfold abortAddrs holdAddr CH_TASK CH_STATUS ABC_FAULT AB_FAULT chWin y4xWin
    split_ifs <;> omega
  obtain ⟨task, kept⟩ := apart
  have still : ((s.holdRecord k h c t).abortOthers c t l).inUse c t :=
    .inl (((regs.get unwritten _).trans (record.get_ne task _)).trans (of_decide_eq_true active))
  obtain ⟨-, aborting, -, noted⟩ :=
    taskFault_complete abHold (((s.holdRecord k h c t).abortOthers c t l).task c t).nextId still
  refine ⟨(record.1.task.trans only).trans (abortFrom_only _ c t _), aborting, congrArg Task.abortCode noted, ?_⟩
  exact ((taskFault_keepsRegs still _ _).get kept _).trans ((regs.get shown _).trans (holdRecord_code s k h c t))

end watchdog

/-- R242: what a bite of the hold watchdog on the task of an owner leaves. -/
theorem holdWatchdogBite_complete {a : ArbId} {s : State} {h c : Nat} {r : ArbReq} {rest : List ArbReq}
    (held : (s.arb (arbKey a)).holder = some h) (on : s.get AB_CTRL AB_CTRL.HOLD_TIMEOUT ≠ 0)
    (late : microTicks (s.get AB_CTRL AB_CTRL.HOLD_TIMEOUT) ≤ s.now - (s.arb (arbKey a)).lastMove)
    (closed : (s.arb (arbKey a)).forced = none) (up : s.retraining (arbKey a) = false)
    (own : (s.arb (arbKey a)).owners h = r :: rest) (task : r.ch = some c)
    (fits : ∀ q ∈ (s.arb (arbKey a)).reqs, q.tag < 4 ∧ ∀ m, q.ch = some m → m < 1024) (active : s.live c r.tag = true) :
    let k := arbKey a
    ∃ u, exec (.holdWatchdogBite a) s = .next u ∧ KeepsMem s u ∧ (u.arb k).forced = some s.clk ∧ (u.arb k).holder = some h
      ∧ u.tstate c r.tag = tAborting ∧ (u.task c r.tag).abortCode = abHold
      ∧ (k < 4096 → u.get (ABC_FAULT (k / 4)) ABC_FAULT.CODE = abHold)
      ∧ (4096 ≤ k → u.get AB_FAULT AB_FAULT.CODE = abHold) := by
  intro k
  obtain ⟨lost, runs⟩ := holdWatchdogBite_of_late held on late closed up own task
  have owners : ∀ q ∈ r :: rest, q.tag < 4 ∧ ∀ m, q.ch = some m → m < 1024 := fun q mem =>
    fits q (List.mem_filter.1 (own ▸ mem)).1
  obtain ⟨tag, chamber⟩ := owners r List.mem_cons_self
  obtain ⟨only, aborting, code, shown⟩ :=
    holdAborts_complete (k := k) (h := h) (t := ⟨r.tag, tag⟩) owners (chamber c task) active
  have clk : (s.holdAborts k h c r.tag (r :: rest)).clk = s.clk := by
    obtain ⟨_, _, _, _, _, same⟩ := only
    rw [same]
  have same_arb (x : Arb) (f : Gallery → Gallery) :
      (((s.holdAborts k h c r.tag (r :: rest)).setArb k x).modGl f).arb k = x := State.arb_setArb_same _ k x
  refine ⟨_, runs, (only.cells.trans ⟨rfl, rfl, rfl, rfl⟩).keepsMem, ?_, ?_, aborting, code, fun inside => ?_, fun outside => ?_⟩
  · rw [same_arb, clk]
    rfl
  · rw [same_arb]
    rfl
  · rw [holdAddr, if_pos inside] at shown
    exact shown
  · rw [holdAddr, if_neg (Nat.not_lt.2 outside)] at shown
    exact shown

/-! ### The end of a forced release (R242), and the abort timeout (R359) -/

theorem forcedReleaseDone_of_open {a : ArbId} {s : State} {h x : Nat} (held : (s.arb (arbKey a)).holder = some h)
    (opened : (s.arb (arbKey a)).forced = some x)
    (sound : (arbClass (arbKey a), if arbKey a < 4096 then arbKey a / 4 else if arbKey a < 4224 then arbKey a - 4096
      else arbKey a - 4224) ∉ s.svc.wedges) :
    let k := arbKey a
    let v := s.arb k
    exec (.forcedReleaseDone a) s = .next (((s.modSvc fun x => { x with told := x.told.filter (· != k) }).setArb k
      { v with holder := none, winner := none, forced := none
               reqs := v.reqs.filter fun r => r.input != h || r.moved }).showHolder k) := by
  rw [show exec (.forcedReleaseDone a) s = execForcedReleaseDone a s from rfl, execForcedReleaseDone]
  dsimp only
  rw [opened, held]
  exact if_neg (by simpa using sound)

/-- R242: the resource is free, and the former owner's data phases are over. -/
theorem forcedReleaseDone_complete {a : ArbId} {s : State} {h x : Nat} (held : (s.arb (arbKey a)).holder = some h)
    (opened : (s.arb (arbKey a)).forced = some x)
    (sound : (arbClass (arbKey a), if arbKey a < 4096 then arbKey a / 4 else if arbKey a < 4224 then arbKey a - 4096
      else arbKey a - 4224) ∉ s.svc.wedges) :
    let k := arbKey a
    ∃ u, exec (.forcedReleaseDone a) s = .next u ∧ KeepsMem s u ∧ u.chambers = s.chambers
      ∧ (u.arb k).holder = none ∧ (u.arb k).forced = none ∧ ∀ r ∈ (u.arb k).reqs, r.input = h → r.moved = true := by
  intro k
  obtain ⟨only, arb⟩ := released_complete (s.modSvc fun x => { x with told := x.told.filter (· != k) }) k
    { s.arb k with holder := none, winner := none, forced := none
                   reqs := (s.arb k).reqs.filter fun r => r.input != h || r.moved }
  obtain ⟨mem, chambers⟩ := only.keeps
  refine ⟨_, forcedReleaseDone_of_open held opened sound, mem, chambers, ?_, ?_, ?_⟩
  · rw [arb]
  · rw [arb]
  · rw [arb]
    intro r among input
    simpa [input] using (List.mem_filter.1 among).2

theorem abortTimeout_of_late {n : Ch} {t : Tag} {s : State} (aborting : s.tstate n t = tAborting)
    (late : microTicks (s.get LN_SVC_CTRL LN_SVC_CTRL.ABORT_TIMEOUT) ≤ s.clk - (s.task n t).abortSince)
    (sound : (7, n.val) ∉ s.svc.wedges) :
    exec (.abortTimeout (.task n t)) s = .next (s.wedge (some n.val) 7 n.val) := by
  rw [show exec (.abortTimeout (.task n t)) s = execAbortTimeout (.task n t) s from rfl, execAbortTimeout]
  exact if_neg (by simp [aborting, late, sound])

theorem abortTimeout_of_forced {a : ArbId} {s : State} {x : Nat} (opened : (s.arb (arbKey a)).forced = some x)
    (late : microTicks (s.get LN_SVC_CTRL LN_SVC_CTRL.ABORT_TIMEOUT) ≤ s.clk - x) :
    let k := arbKey a
    let index := if k < 4096 then k / 4 else if k < 4224 then k - 4096 else k - 4224
    (arbClass k, index) ∉ s.svc.wedges →
      exec (.abortTimeout (.release a)) s
        = .next ((s.showWedge (arbClass k) index).wedge (if k < 4096 then some (k / 4) else none) (arbClass k) index) := by
  intro k index sound
  rw [show exec (.abortTimeout (.release a)) s = execAbortTimeout (.release a) s from rfl, execAbortTimeout]
  rw [opened]
  exact if_neg (by simpa [late] using sound)

/-- Settles O21: the phases, handovers and forced releases of the arbiters, the hold watchdog and the abort timeout. -/
theorem arbiterCommandsComplete : Obligations.ArbiterCommandsComplete := by
  unfold Obligations.ArbiterCommandsComplete
  exact fun a s => ⟨fun i => arbPhase_complete, fun h => arbRequestDrop_complete,
    fun h r rest c => holdWatchdogBite_complete, fun h x => forcedReleaseDone_complete, fun n t => abortTimeout_of_late,
    fun x => abortTimeout_of_forced⟩

end Sys2Proof.Machine
end

section
/-! SUPPORT. What of the module's work leaves the dispatcher as it is (R199 to R214, R251): reads, translations, sends and commands to
tasks. -/

namespace Sys2Proof.Machine

/-- The dispatcher's own state stays. -/
def SameDisp (s u : State) : Prop := u.disp = s.disp

theorem SameDisp.refl (s : State) : SameDisp s s := Eq.refl s.disp

theorem SameDisp.trans {s u v : State} (h : SameDisp s u) (g : SameDisp u v) : SameDisp s v := Eq.trans g h

theorem RegsOnly.disp {s u : State} : RegsOnly s u → SameDisp s u := by rintro ⟨_, rfl⟩; exact .refl s
theorem PerfOnly.disp {s u : State} : PerfOnly s u → SameDisp s u := by rintro ⟨_, rfl⟩; exact .refl s
theorem TaskOnly.disp {s u : State} : TaskOnly s u → SameDisp s u := by rintro ⟨_, _, _, _, _, rfl⟩; exact .refl s
theorem SvcOnly.disp {s u : State} : SvcOnly s u → SameDisp s u := by rintro ⟨_, _, _, _, rfl⟩; exact .refl s
theorem GlOnly.disp {s u : State} : GlOnly s u → SameDisp s u := by rintro ⟨_, _, _, rfl⟩; exact .refl s
theorem ArbsOnly.disp {s u : State} : ArbsOnly s u → SameDisp s u := by rintro ⟨_, rfl⟩; exact .refl s
theorem TunOnly.disp {s u : State} : TunOnly s u → SameDisp s u := by
  rintro ⟨⟨_, _, _, _, _, _, _, _, _, _, _, _, _, _, rfl⟩, -⟩
  exact .refl s

/-! ### Errors and reads (R206 to R214) -/

theorem retireRow_disp (s : State) (n tier row : Nat) : SameDisp s (s.retireRow n tier row) :=
  ite_rel (R := SameDisp) (fun _ => .refl s) fun _ => ite_rel (R := SameDisp)
    (fun _ => (set_only s _ _ _).disp.trans (modCh_only _ n _).disp) fun _ => (set_only s _ _ _).disp

/-- What counts an error of a cellar or pocket: a register, and an event where it was corrected. -/
theorem counted_disp (s : State) (a n ev : Nat) (uncorr : Bool) :
    SameDisp s (if uncorr then s.bump a 1 else (s.bump a 1).tally n ev .any 1) :=
  ite_rel (fun _ => (bump_only s a 1).disp) fun _ => (bump_only s a 1).disp.trans (tally_only _ n ev _ 1).disp

theorem cellarError_disp (s : State) (n tier row cw : Nat) (uncorr scrub : Bool) :
    SameDisp s (s.cellarError n tier row cw uncorr scrub) := by
  unfold State.cellarError
  extract_lets s1 s2 key c s3 s4
  have logged : SameDisp s s4 :=
    ((counted_disp s _ n 0x801 uncorr).trans (modCh_only s2 n _).disp).trans (errLog_only s3 _ _ _ _).disp
  exact ite_rel (R := SameDisp) (fun _ => logged.trans (retireRow_disp s4 n tier row)) fun _ => logged

theorem pocketError_disp (s : State) (n o : Nat) (uncorr scrub : Bool) : SameDisp s (s.pocketError n o uncorr scrub) := by
  unfold State.pocketError
  extract_lets s1 s2 key c s3 s4
  have logged : SameDisp s s4 :=
    ((counted_disp s _ n 0x802 uncorr).trans (modCh_only s2 n _).disp).trans (errLog_only s3 _ _ _ _).disp
  exact ite_rel (R := SameDisp)
    (fun _ => (logged.trans (set_only s4 _ _ _).disp).trans (fenceAsk_only _ n).disp) fun _ => logged

theorem wordError_disp (s : State) (cw : Nat) (scrub uncorr : Bool) : SameDisp s (s.wordError cw scrub uncorr) := by
  unfold State.wordError
  split
  · exact cellarError_disp ..
  · exact pocketError_disp ..
  · exact ite_rel (R := SameDisp) (fun _ => (tunError_tunOnly ..).disp) fun _ => (g7Error_tunOnly ..).disp
  · cases spareOf cw with
    | none => exact .refl s
    | some r => exact cellarError_disp ..

theorem readCw_disp (s : State) (cw : Nat) (scrub : Bool) : SameDisp s (s.readCw cw scrub).2.2 :=
  readCw_rel SameDisp.refl SameDisp.trans TunOnly.disp (fun u => (bump_only u _ 1).disp) (fun u => wordError_disp u cw scrub) s

theorem readSpan_disp (fuel : Nat) (s : State) (pa k : Nat) (acc : List Byte) (p : Bool) :
    SameDisp s (readSpan fuel s pa k acc p).2.2 := by
  induction fuel generalizing s pa k acc p with
  | zero => exact .refl s
  | succ fuel ih =>
    unfold readSpan
    split
    · exact .refl s
    · have word := readCw_disp s (pa / 32) false
      dsimp only
      generalize s.readCw (pa / 32) false = r at word ⊢
      exact word.trans (ih ..)

theorem poke_disp (s : State) (a : Nat) (v : Word) : SameDisp s (s.poke a v) := by
  unfold State.poke
  split
  · exact .refl s
  · exact (setReg_only s a v).disp

theorem readReg_disp {s u : State} {a : Nat} {v : Word} (read : s.readReg a = some (v, u)) : SameDisp s u := by
  unfold State.readReg at read
  split at read
  · cases read
  · simp only [Option.some.injEq, Prod.mk.injEq] at read
    obtain ⟨-, rfl⟩ := read
    exact ite_rel (R := SameDisp) (fun _ => .refl s) fun _ => poke_disp s a _

theorem readPa_disp (s : State) (pa k : Nat) : SameDisp s (s.readPa pa k).2.2 := by
  unfold State.readPa
  split
  · split
    · next read => exact readReg_disp read
    · exact .refl s
  · exact readSpan_disp ..

theorem tunUse_tunOnly (s : State) (line hint : Nat) (write : Bool) : TunOnly s (s.tunUse line hint write) := by
  unfold State.tunUse
  split
  · exact .refl s
  · exact tunOnly_of_eq rfl

theorem readLine_tunOnly (s : State) (line : Nat) (merged : Nat → Bool) : TunOnly s (s.readLine line merged) :=
  (tallyX_tunOnly s _ _ _).trans
    (foldl_rel TunOnly.refl TunOnly.trans (fun u _ => ite_rel (fun _ => .refl u) fun _ => readDram_tunOnly u _ false) _ _)

theorem tunFill_tunOnly (s : State) (line hint : Nat) (dirty : Bool) : TunOnly s (s.tunFill line hint dirty) :=
  ((tallyX_tunOnly s _ _ _).trans (tunInsert_tunOnly _ line hint dirty)).trans (fillLine_tunOnly _ line)

theorem tunAccess_tunOnly (s : State) (line hint : Nat) (write whole : Bool) (merged : Nat → Bool) :
    TunOnly s (s.tunAccess line hint write whole merged) := by
  unfold State.tunAccess
  extract_lets bank chan missed
  have miss : TunOnly s missed := tallyX_tunOnly s 0x902 bank 1
  have past : TunOnly missed (if whole then missed else missed.readLine line merged) :=
    ite_rel (fun _ => .refl missed) fun _ => readLine_tunOnly missed line merged
  refine ite_rel (fun _ => (tallyX_tunOnly s _ bank 1).trans (tunUse_tunOnly _ line hint write)) fun _ => miss.trans ?_
  refine ite_rel (fun _ => ?_) fun _ =>
    ite_rel (fun _ => tunInsert_tunOnly missed line hint true) fun _ => tunFill_tunOnly missed line hint write
  exact ite_rel (fun _ => past.trans (tallyX_tunOnly _ _ chan _)) fun _ => tallyX_tunOnly missed _ chan _

theorem touch_tunOnly (s : State) (pa k hint : Nat) (write : Bool) : TunOnly s (s.touch pa k hint write) := by
  unfold State.touch
  split
  · exact foldl_rel TunOnly.refl TunOnly.trans (fun u l => tunAccess_tunOnly u l hint write _ _) _ s
  · exact .refl s

theorem lanternRead_disp (s : State) (pa k : Nat) : SameDisp s (s.lanternRead pa k).2.2 :=
  (touch_tunOnly s pa k 0 false).disp.trans (readPa_disp _ pa k)

/-! ### Translation (R199 to R203) -/

theorem tableWord_disp (s : State) (pa : Nat) : SameDisp s (s.tableWord pa).2 := by
  unfold State.tableWord
  split
  · exact .refl s
  · split
    · exact .refl s
    · exact (touch_tunOnly s pa 8 0 false).disp.trans (readPa_disp _ pa 8)

theorem contextAt_disp (s : State) (pa : Nat) : SameDisp s (s.contextAt pa).2 := by
  unfold State.contextAt
  have first := tableWord_disp s pa
  generalize s.tableWord pa = r at first ⊢
  obtain ⟨_ | a, u⟩ := r
  · exact first
  · have second := SameDisp.trans first (tableWord_disp u (pa + 8))
    dsimp only
    generalize u.tableWord (pa + 8) = r at second ⊢
    obtain ⟨_ | b, v⟩ := r
    · exact second
    · dsimp only
      split_ifs <;> exact second

theorem tableAt_disp (s : State) (t i : Nat) : SameDisp s (s.tableAt t i).2 := by
  unfold State.tableAt
  have word := tableWord_disp s (t + 8 * i)
  generalize s.tableWord (t + 8 * i) = r at word ⊢
  obtain ⟨_ | e, u⟩ := r
  · exact word
  · exact word

theorem walk_disp (s : State) (x va : Nat) : SameDisp s (s.walk x va).2 := by
  unfold State.walk
  split
  · exact .refl s
  · have kept : SameDisp s (s.contextWord x).2 := contextAt_disp s _
    generalize s.contextWord x = r at kept ⊢
    obtain ⟨_ | t1, u⟩ := r
    · exact kept
    replace kept := SameDisp.trans kept (tableAt_disp u t1 (bits va 47 39))
    dsimp only
    generalize u.tableAt t1 (bits va 47 39) = r at kept ⊢
    obtain ⟨_ | t2, u⟩ := r
    · exact kept
    replace kept := SameDisp.trans kept (tableAt_disp u t2 (bits va 38 30))
    dsimp only
    generalize u.tableAt t2 (bits va 38 30) = r at kept ⊢
    obtain ⟨_ | t3, u⟩ := r
    · exact kept
    replace kept := SameDisp.trans kept (tableWord_disp u (t3 + 8 * bits va 29 21))
    dsimp only
    generalize u.tableWord (t3 + 8 * bits va 29 21) = r at kept ⊢
    obtain ⟨_ | e3, u⟩ := r
    · exact kept
    dsimp only
    split
    · exact kept
    · split
      · exact kept
      · next t4 _ =>
        replace kept := SameDisp.trans kept (tableWord_disp u (t4 + 8 * bits va 20 16))
        generalize u.tableWord (t4 + 8 * bits va 20 16) = r at kept ⊢
        obtain ⟨_ | e4, u⟩ := r
        · exact kept
        · exact kept

theorem tlbPut_disp (s : State) (n key leaf : Nat) : SameDisp s (s.tlbPut n key leaf) := by
  unfold State.tlbPut
  extract_lets c
  split <;> exact .refl s

theorem ytlbPut_disp (s : State) (key leaf : Nat) : SameDisp s (s.ytlbPut key leaf) := by
  unfold State.ytlbPut
  split <;> exact .refl s

theorem lookup_disp (s : State) (n x va : Nat) : SameDisp s (s.lookup n x va).2 := by
  unfold State.lookup
  split
  · exact .refl s
  · split
    · exact .refl s
    · split
      · exact tlbPut_disp s n _ _
      · exact .refl s

theorem walkFill_disp (s : State) (n x va : Nat) : SameDisp s (s.walkFill n x va).2 := by
  unfold State.walkFill
  have walked := walk_disp s x va
  generalize s.walk x va = r at walked ⊢
  obtain ⟨_ | ⟨l, big⟩, u⟩ := r
  · exact walked
  · exact walked.trans ((tlbPut_disp u n _ _).trans (ytlbPut_disp _ _ _))

theorem translate_disp (s : State) (n x va : Nat) (need : Need) : SameDisp s (s.translate n x va need).2 := by
  unfold State.translate
  extract_lets use
  have used (l : Nat) (u : State) : SameDisp u (use l u).2 := .refl u
  clear_value use
  have looked := lookup_disp s n x va
  generalize s.lookup n x va = r at looked ⊢
  obtain ⟨_ | l, u⟩ := r
  · have walked := SameDisp.trans looked (walkFill_disp u n x va)
    dsimp only
    generalize u.walkFill n x va = r at walked ⊢
    obtain ⟨_ | l, v⟩ := r
    · exact walked
    · exact walked.trans (used l v)
  · exact looked.trans (used l u)

/-- Reading for the dispatcher changes nothing of the dispatcher's. -/
theorem dispRead_disp (s : State) (n x va k : Nat) : SameDisp s (dispRead s n x va k).2 := by
  refine foldl_rel (R := fun a b : Pieces × State => SameDisp a.2 b.2) (fun a => .refl a.2) SameDisp.trans (fun a q => ?_) _ ([], s)
  have placed := translate_disp a.2 n x q.1 {}
  generalize a.2.translate n x q.1 {} = r at placed ⊢
  obtain ⟨_ | ⟨pa, leaf⟩, u⟩ := r
  · exact placed
  · dsimp only
    split
    · exact placed
    · exact placed.trans (lanternRead_disp u pa q.2)

theorem endCounter_disp (s : State) : SameDisp s s.endCounter.2 := by
  unfold State.endCounter
  split
  · exact .refl s
  · exact dispRead_disp s _ _ _ 8

/-! ### Sends and commands to tasks (R184, R186, R259, R265) -/

theorem sendMsg_only (s : State) (dest op aux : Nat) (payload : List Byte) (why : TxnFor) :
    GlOnly s (s.sendMsg dest op aux payload why).1 := by
  unfold State.sendMsg
  have asked := request_only s (mkFrame 5 dest op aux 0 payload) why
  generalize s.request (mkFrame 5 dest op aux 0 payload) why = r at asked ⊢
  obtain ⟨u, _ | e⟩ := r
  · exact asked
  · exact asked.trans (e2eFail_only u dest e 5 0 0)

theorem failNotice_disp (s : State) (h : List Word) (code : Nat) : SameDisp s (s.failNotice h code) := (sendMsg_only ..).disp

theorem cmdPreempt_only (s : State) (n t : Nat) : TaskOnly s (s.cmdPreempt n t) := by
  unfold State.cmdPreempt
  exact ite_rel (fun _ => (cmdDone_only s n 2).task) fun _ =>
    ((setTstate_only s n t _).task.trans (set_only _ _ _ _).task).trans (modTask_only _ n t _)

theorem cmdAbort_only (s : State) (n t : Nat) : TaskOnly s (s.cmdAbort n t) := by
  unfold State.cmdAbort
  exact ite_rel (fun _ => (abortFrom_only s n t _).trans (cmdDone_only _ n 0).task) fun _ => (cmdDone_only s n 2).task

theorem setArb_only (s : State) (k : Nat) (v : Arb) : ArbsOnly s (s.setArb k v) := ⟨_, rfl⟩

theorem arbRetag_disp (s : State) (g : ArbReq → Option ArbReq) : SameDisp s (s.arbRetag g) :=
  foldl_rel SameDisp.refl SameDisp.trans (fun u (e : Nat × Arb) => (setArb_only u e.1 _).disp) _ s

end Sys2Proof.Machine
end

section
/-! SUPPORT. The dispatcher's commands (R237, R251, R254 to R256, R258, R259, R293): how a header joins the queue, how a step is chosen,
prepared, delivered, ended and failed, and how a step's ids become a TOK record. -/

namespace Sys2Proof.Machine

/-! ### Queueing and choosing (R251, R255, R256) -/

theorem stepHeaderArrive_of_lies {s : State} {k : Fin 16} {i : Nat} (lies : (s.disp.inbox.findIdx? fun x => x.1 = k.val) = some i) :
    exec (.stepHeaderArrive k) s = .next (s.modDisp fun d => { d with
      inbox := d.inbox.drop (i + 1), queue := d.queue ++ d.inbox.take (i + 1) }) := by
  rw [show exec (.stepHeaderArrive k) s = execStepHeaderArrive k s from rfl, execStepHeaderArrive, lies]

section choose

variable {s : State}

section idle

variable (unchosen : s.disp.chosen = none) (ready : s.dispFree = true)

include unchosen ready

theorem stepChoose_of_best {y : Nat × List Word} (idle : s.disp.running = none) (above : s.outranked = true)
    (best : bestStep s.disp.queue = some y) : exec .stepChoose s = .next ((s.takeStep y).prepareStep y.1 y.2) := by
  rw [show exec .stepChoose s = execStepChoose s from rfl, execStepChoose]
  dsimp only
  rw [unchosen]
  dsimp only
  rw [if_neg (by simp [ready]), idle]
  dsimp only
  rw [if_neg (by simp [above]), best]

/-- R256: a preempted step that no queued one outranks runs again. -/
theorem stepChoose_of_paused (idle : s.disp.running = none) (below : s.outranked = false) (saved : s.savingPrefill = false) :
    exec .stepChoose s = .next s.resumePrefill := by
  have waits : s.disp.paused ≠ [] := fun empty => by simp [State.outranked, empty] at below
  rw [show exec .stepChoose s = execStepChoose s from rfl, execStepChoose]
  dsimp only
  rw [unchosen]
  dsimp only
  rw [if_neg (by simp [ready]), idle]
  dsimp only
  rw [if_pos (by simp [below, waits]), saved]
  rfl

/-- The running PREFILL step is preempted for another. -/
def State.preemptFor (s : State) (x y : Nat × List Word) : State :=
  ((s.prefillTasks.foldl (fun (u : State) d => u.cmdPreempt d.ch d.tag) s).takeStep y).modDisp fun d =>
    { d with running := none, paused := (x, d.target) :: d.paused }

theorem stepChoose_of_lower {x y : Nat × List Word} (running : s.disp.running = some x) (best : bestStep s.disp.queue = some y)
    (prefill : hdrKind x.2 = 2) (lower : hdrClass x.2 < hdrClass y.2) : exec .stepChoose s = .next (s.preemptFor x y) := by
  rw [show exec .stepChoose s = execStepChoose s from rfl, execStepChoose]
  dsimp only
  rw [unchosen]
  dsimp only
  rw [if_neg (by simp [ready]), running]
  dsimp only
  rw [best]
  exact if_pos ⟨prefill, lower⟩

end idle

/-- R256: the preempted step lies paused with its target, and the other is chosen. -/
theorem preemptFor_disp (s : State) (x y : Nat × List Word) :
    (s.preemptFor x y).disp = { s.disp with
      queue := s.disp.queue.filter fun z => z.1 != y.1, chosen := some y, prepared := false
      running := none, paused := (x, s.disp.target) :: s.disp.paused } := by
  have same : (s.prefillTasks.foldl (fun (u : State) d => u.cmdPreempt d.ch d.tag) s).disp = s.disp :=
    foldl_rel SameDisp.refl SameDisp.trans (fun u (d : TaskDef) => (cmdPreempt_only u d.ch d.tag).disp) _ s
  unfold State.preemptFor State.takeStep State.modDisp
  dsimp only
  rw [same]

theorem stepChoose_of_chosen {k : Nat} {h : List Word} (chosen : s.disp.chosen = some (k, h)) (first : s.disp.prepared = false)
    (saved : s.savingPrefill = false) : exec .stepChoose s = .next (s.prepareStep k h) := by
  rw [show exec .stepChoose s = execStepChoose s from rfl, execStepChoose]
  dsimp only
  rw [chosen]
  exact if_neg (by simp [first, saved])

theorem prepareStep_of_clear {k : Nat} {h : List Word} (clear : s.clear prepReq (s.prepRoute k h) = true) :
    s.prepareStep k h = (s.arbMoved prepReq (s.prepRoute k h)).stepPrepared k h ∧ (s.prepareStep k h).disp.prepared = true := by
  have prepared : s.prepareStep k h = (s.arbMoved prepReq (s.prepRoute k h)).stepPrepared k h :=
    arbitrate_of_clear clear fun u => u.stepPrepared k h
  refine ⟨prepared, ?_⟩
  rw [prepared]
  rfl

end choose

/-! ### Delivery (R254) -/

section deliver

variable {s : State} {k : Nat} {h : List Word}

theorem stepDeliver_of_due (chosen : s.disp.chosen = some (k, h)) (ready : s.disp.prepared = true) (due : s.dueAt h ≤ s.now)
    (clear : s.clear writeReq (s.working.flatMap fun w => s.dispRoute w.1 w.2 s.pHdr 64 true) = true) :
    exec .stepDeliver s
      = .next ((s.arbMoved writeReq (s.working.flatMap fun w => s.dispRoute w.1 w.2 s.pHdr 64 true)).stepDelivered k h) := by
  rw [show exec .stepDeliver s = execStepDeliver s from rfl, execStepDeliver, chosen]
  dsimp only
  rw [if_neg (by simp [ready, due])]
  exact congrArg Host.Outcome.next (arbitrate_of_clear clear fun u => u.stepDelivered k h)

/-- R254: the delivered step runs, with the time of its delivery in its header. -/
theorem stepDelivered_disp (s : State) (k : Nat) (h : List Word) :
    (s.stepDelivered k h).disp.chosen = none ∧ (s.stepDelivered k h).disp.prepared = false
      ∧ (s.stepDelivered k h).disp.running = some (k, h.set 4 (BitVec.ofNat 64 s.now)) := ⟨rfl, rfl, rfl⟩

theorem arbMoved_now (s : State) (q : ArbReq) (route : List (Nat × Nat)) : (s.arbMoved q route).now = s.now := by
  obtain ⟨a, moved⟩ := arbMoved_only s q route
  rw [moved]
  rfl

end deliver

/-! ### The end of a step (R251) -/

theorem stepEnd_of_reached {s s' : State} {k c : Nat} {h : List Word} (running : s.disp.running = some (k, h))
    (counter : s.endCounter = (c, s')) (reached : s.disp.target ≤ c) (sound : ∀ d ∈ s.stepOwn h, s.taskFailed d = false) :
    let s1 := s'.passOn k h
    let s2 := (s1.modDisp fun d => { d with embeds := kdel d.embeds k }).spend s1.pEndCount
    exec .stepEnd s
      = .next (if s2.disp.paused = [] then s2 else if hdrKind h = 2 then s2.abortSets [true]
          else if s2.outranked ∨ s2.savingPrefill then s2 else s2.resumePrefill).stepOver := by
  intro s1 s2
  have ends : s.stepEnd = if s2.disp.paused = [] then s2 else if hdrKind h = 2 then s2.abortSets [true]
      else if s2.outranked ∨ s2.savingPrefill then s2 else s2.resumePrefill := by
    unfold State.stepEnd
    rw [running]
    dsimp only
    rw [counter]
    dsimp only
    rw [if_neg (by simpa [reached] using sound)]
    exact if_congr List.isEmpty_iff rfl rfl
  rw [show exec .stepEnd s = .next s.stepEnd.stepOver from rfl, ends]

/-! ### A failed step (R259) -/

theorem stepFail_of_renew {s : State} (renew : s.lookFailed.disp.renew ≠ []) :
    exec .stepFail s = .next s.lookFailed.renewSteps.stepOver := by
  have fails : s.stepFail = s.lookFailed.renewSteps := if_pos (by simpa using renew)
  rw [show exec .stepFail s = .next s.stepFail.stepOver from rfl, fails]

theorem abortSets_disp (s : State) (sets : List Bool) :
    (s.abortSets sets).disp = { s.disp with renew := (s.disp.renew ++ sets).eraseDups } := by
  have same : ((sets.flatMap s.tasksOf).foldl (fun (u : State) d => u.cmdAbort d.ch d.tag) s).disp = s.disp :=
    foldl_rel SameDisp.refl SameDisp.trans (fun u (d : TaskDef) => (cmdAbort_only u d.ch d.tag).disp) _ s
  unfold State.abortSets
  dsimp only
  rw [same]

/-- Whether a fence or a wedge fails steps (R352, R360). -/
def State.failForced (s : State) : Bool := s.svc.fencing.isSome || s.svc.failAll

/-- The sets of step tasks that fail. -/
def State.failSets (s : State) : List Bool :=
  if s.failForced then [true, false] else [true, false].filter fun b => (s.tasksOf b).any s.taskFailed

/-- The steps that fail with them. -/
def State.failHit (s : State) : List (Nat × List Word) := s.stepsHit s.failForced s.failSets

/-- The END_BAR counter, read where a step runs. -/
def State.failCounter (s : State) : Nat × State :=
  match s.disp.running with
  | some _ => s.endCounter
  | none => (0, s)

/-- A notice for each step that fails goes to the entry module. -/
def State.failNotices (s u : State) : State := s.failHit.foldl (fun (u : State) x => u.failNotice x.2 s.failCode) u

/-- The steps that fail leave the dispatcher, and a chosen one waits again. -/
def State.failLeft (u : State) (hit : List (Nat × List Word)) : State :=
  (u.modDisp fun d => { d with
    queue := if u.svc.failAll then [] else d.chosen.toList ++ d.queue
    paused := d.paused.filter fun x => !hit.contains x.1 }).dropPrep

/-- The running step is over where it fails. -/
def State.failRunning (u : State) (hit : List (Nat × List Word)) (c : Nat) : State :=
  match u.disp.running with
  | some x => if hit.contains x then u.spend (c + u.pEndCount - u.disp.target) else u
  | none => u

theorem failCounter_disp (s : State) : SameDisp s s.failCounter.2 := by
  unfold State.failCounter
  split
  · exact endCounter_disp s
  · exact .refl s

theorem failNotices_disp (s u : State) : SameDisp u (s.failNotices u) :=
  foldl_rel SameDisp.refl SameDisp.trans (fun v (x : Nat × List Word) => failNotice_disp v x.2 _) _ u

theorem dropPrep_running (u : State) : u.dropPrep.disp.running = u.disp.running := by
  show (u.arbRetag _).disp.running = u.disp.running
  exact congrArg Disp.running (arbRetag_disp u _)

theorem failLeft_disp (u : State) (hit : List (Nat × List Word)) :
    (u.failLeft hit).disp.chosen = none ∧ (u.failLeft hit).disp.prepared = false
      ∧ (u.failLeft hit).disp.running = u.disp.running := ⟨rfl, rfl, dropPrep_running _⟩

theorem failRunning_disp (u : State) (hit : List (Nat × List Word)) (c : Nat) :
    (u.failRunning hit c).disp.chosen = u.disp.chosen ∧ (u.failRunning hit c).disp.prepared = u.disp.prepared
      ∧ ∀ x ∈ hit, u.disp.running = some x → (u.failRunning hit c).disp.running = none := by
  unfold State.failRunning
  split
  · next x running =>
    split
    · exact ⟨rfl, rfl, fun _ _ _ => rfl⟩
    · next out =>
      refine ⟨rfl, rfl, fun y among same => ?_⟩
      cases running.symm.trans same
      exact absurd (List.contains_iff_mem.2 among) out
  · next idle => exact ⟨rfl, rfl, fun _ _ same => nomatch idle.symm.trans same⟩

section stepFail

variable {s : State} {b : Bool} (failed : ∃ d ∈ s.tasksOf b, s.taskFailed d = true)

include failed

theorem mem_failSets : b ∈ s.failSets := by
  unfold State.failSets
  split
  · cases b <;> simp
  · exact List.mem_filter.2 ⟨by cases b <;> simp, List.any_eq_true.2 failed⟩

/-- The running step fails with the tasks of its kind. -/
theorem mem_failHit {x : Nat × List Word} (running : s.disp.running = some x) (own : (hdrKind x.2 == 2) = b) : x ∈ s.failHit := by
  have among := mem_failSets failed
  unfold State.failHit State.stepsHit
  refine List.mem_append_left _ (List.mem_append_left _ (List.mem_filter.2 ⟨?_, ?_⟩))
  · simp [running]
  · simp [own, among]

theorem stepFail_of_failed (quiet : s.gl.failedTo = []) (settled : s.disp.renew = []) :
    s.stepFail = (((s.failNotices s.failCounter.2).failLeft s.failHit).failRunning s.failHit s.failCounter.1).abortSets s.failSets := by
  have look : s.lookFailed = s := if_pos (by simp [quiet])
  have anyFailed : ([true, false].filter fun b => (s.tasksOf b).any s.taskFailed) ≠ [] := by
    refine List.ne_nil_of_mem (a := b) (List.mem_filter.2 ⟨by cases b <;> simp, List.any_eq_true.2 failed⟩)
  unfold State.stepFail
  rw [look]
  dsimp only
  rw [if_neg (by simp [settled]), if_neg (fun both => anyFailed (List.isEmpty_iff.1 both.1))]
  rfl

/-- R259: the sets of tasks that failed are aborted, no step is chosen, and the running step of a failed set is over. -/
theorem stepFail_complete (quiet : s.gl.failedTo = []) (settled : s.disp.renew = []) :
    ∃ u : State, exec .stepFail s = .next u.stepOver ∧ b ∈ u.disp.renew ∧ u.disp.chosen = none ∧ u.disp.prepared = false
      ∧ ∀ x, s.disp.running = some x → (hdrKind x.2 == 2) = b → u.disp.running = none := by
  have same := (failCounter_disp s).trans (failNotices_disp s s.failCounter.2)
  obtain ⟨chosen, prepared, running⟩ := failLeft_disp (s.failNotices s.failCounter.2) s.failHit
  obtain ⟨chosen', prepared', done⟩ :=
    failRunning_disp ((s.failNotices s.failCounter.2).failLeft s.failHit) s.failHit s.failCounter.1
  refine ⟨_, (congrArg (fun u : State => Host.Outcome.next u.stepOver) (stepFail_of_failed failed quiet settled)), ?_⟩
  rw [abortSets_disp]
  refine ⟨List.mem_eraseDups.2 (List.mem_append_right _ (mem_failSets failed)), chosen'.trans chosen, prepared'.trans prepared,
    fun x runs own => done x (mem_failHit failed runs own) ?_⟩
  rw [running, same, runs]

end stepFail

/-! ### Ids that return (R258, R293) -/

/-- The TOK records stay. -/
def KeepsToks (s u : State) : Prop := ∀ r ∈ s.disp.toks, r ∈ u.disp.toks

theorem KeepsToks.refl (s : State) : KeepsToks s s := fun _ mem => mem

theorem KeepsToks.trans {s u v : State} (h : KeepsToks s u) (g : KeepsToks u v) : KeepsToks s v := fun r mem => g r (h r mem)

theorem SameDisp.toks {s u : State} (h : SameDisp s u) : KeepsToks s u := fun r mem => by rwa [h]

theorem tok_keeps (s : State) (port kind reason fault req tag step : Nat) (ids : List Nat) :
    KeepsToks s (s.tok port kind reason fault req tag step ids) := fun _ mem => List.mem_append_left _ mem

theorem freeTicket_keeps (s : State) (t : Nat) (away : Bool) : KeepsToks s (s.freeTicket t away) := fun _ mem => mem

theorem showReqs_only (s : State) : RegsOnly s s.showReqs := (set_only s _ _ _).trans (set_only _ _ _ _)

theorem endReq_keeps (s : State) (r : Req) (reason fault : Nat) (away : Bool) : KeepsToks s (s.endReq r reason fault away) := by
  unfold State.endReq
  extract_lets s1 s2 s3
  have counted : KeepsToks s1 s2 := ite_rel (fun _ => (bump_only s1 _ 1).disp.toks) fun _ => .refl s1
  have freed : KeepsToks s2 s3 := foldl_rel KeepsToks.refl KeepsToks.trans (fun u x => freeTicket_keeps u _ away) _ s2
  have dropped : KeepsToks s3 (s3.modDisp fun d => { d with reqs := d.reqs.filter fun x => x.id != r.id }) := fun _ mem => mem
  exact (((tok_keeps s _ _ _ _ _ _ _ _).trans counted).trans freed).trans (dropped.trans (showReqs_only _).disp.toks)

theorem issueStep_keeps (s : State) (r : Req) (t : Nat) : KeepsToks s (s.issueStep r t) := by
  unfold State.issueStep
  split
  · exact fun _ mem => mem
  · exact fun _ mem => mem

theorem pumpSteps_keeps (fuel : Nat) (s : State) : KeepsToks s (pumpSteps fuel s) := by
  induction fuel generalizing s with
  | zero => exact .refl s
  | succ fuel ih =>
    unfold pumpSteps
    split
    · exact .refl s
    · split
      · exact (issueStep_keeps s _ _).trans (ih _)
      · exact .refl s

theorem pump_keeps (s : State) : KeepsToks s s.pump := pumpSteps_keeps 16 s

/-- R293: the ids taken are queued as a TOK record of kind 1. -/
theorem takeTokens_tok (s : State) (r : Req) (up : Nat) (ids drafts : List Nat) :
    ∃ rec ∈ (s.takeTokens r up ids drafts).disp.toks, rec.kind = 1 ∧ rec.req = r.id ∧ rec.port = r.port ∧ rec.step = r.delivered
      ∧ rec.ids = (takeIds r ids).1 := by
  refine ⟨⟨r.port, 1, 0, 0, r.id, r.tag, r.delivered, s.now, (takeIds r ids).1, s.clk⟩, ?_, rfl, rfl, rfl, rfl, rfl⟩
  unfold State.takeTokens
  generalize takeIds r ids = taken
  obtain ⟨out, stop⟩ := taken
  dsimp only
  have queued (u : State) (h : KeepsToks ((s.tok r.port 1 0 0 r.id r.tag r.delivered out).tallyX 0xC03 0 out.length) u) :
      ⟨r.port, 1, 0, 0, r.id, r.tag, r.delivered, s.now, out, s.clk⟩ ∈ u.disp.toks :=
    h _ ((tallyX_only _ _ _ _).disp.toks _ (List.mem_append_right _ List.mem_cons_self))
  have noted (u : State) (id : Nat) (f : Req → Req) : KeepsToks u (u.modReq id f) := fun _ mem => mem
  refine queued _ ?_
  split
  · exact ((noted _ r.id _).trans (endReq_keeps _ _ 1 0 true)).trans (pump_keeps _)
  · split
    · exact ((noted _ r.id _).trans (endReq_keeps _ _ 0 0 true)).trans (pump_keeps _)
    · exact (noted _ r.id _).trans (pump_keeps _)

theorem tokenIdsArrive_of_waited {s : State} {k : Fin 16} {ids drafts : List (BitVec 32)} {msg : List Byte} {id most : Nat} {r : Req}
    (came : kfind s.disp.idMsgs k.val = some msg) (fresh : s.disp.stale.contains k.val = false)
    (ticket : kfind s.disp.tickets k.val = some (id, most)) (req : (s.disp.reqs.find? fun r => r.id = id) = some r)
    (going : r.cancelled = false) (brings : idsOf msg = (ids, drafts)) (any : ids.take most ≠ []) :
    let s1 := (s.modDisp fun d => { d with idMsgs := kdel d.idMsgs k }).freeTicket k false
    exec (.tokenIdsArrive k ids drafts) s
      = .next (s1.takeTokens r (num msg 0 8) ((ids.take most).map (·.toNat)) (drafts.map (·.toNat))) := by
  intro s1
  rw [show exec (.tokenIdsArrive k ids drafts) s = execTokenIdsArrive k ids drafts s from rfl, execTokenIdsArrive]
  dsimp only
  rw [came]
  dsimp only
  rw [if_neg (not_not.2 brings)]
  refine (if_neg (by rw [State.modDisp, fresh]; exact Bool.false_ne_true)).trans ?_
  dsimp only [State.modDisp]
  rw [ticket]
  dsimp only [State.freeTicket, State.modDisp]
  rw [req]
  dsimp only
  rw [if_neg (by simp [going])]
  exact if_neg (by simpa using any)

/-- Settles O22: headers join the queue, steps are chosen, prepared, delivered, ended and failed, and their ids become TOK records. -/
theorem dispatcherCommandsComplete : Obligations.DispatcherCommandsComplete := by
  unfold Obligations.DispatcherCommandsComplete
  intro s
  refine ⟨fun k i => stepHeaderArrive_of_lies,
    fun unchosen ready => ⟨fun y => stepChoose_of_best unchosen ready, stepChoose_of_paused unchosen ready,
      fun x y running best prefill lower => ?_⟩,
    fun k h chosen first saved => ⟨stepChoose_of_chosen chosen first saved, prepareStep_of_clear⟩,
    fun k h chosen ready due clear => ?_, fun k h c s' => stepEnd_of_reached, stepFail_of_renew,
    fun b quiet settled failed => stepFail_complete failed quiet settled,
    fun k ids drafts msg id most r came fresh ticket req going brings any => ?_⟩
  · refine ⟨_, stepChoose_of_lower unchosen ready running best prefill lower, ?_⟩
    rw [preemptFor_disp]
    exact ⟨rfl, rfl, rfl, rfl⟩
  · obtain ⟨gone, left, runs⟩ := stepDelivered_disp
      (s.arbMoved writeReq (s.working.flatMap fun w => s.dispRoute w.1 w.2 s.pHdr 64 true)) k h
    exact ⟨_, stepDeliver_of_due chosen ready due clear, rfl, gone, left, runs.trans (by rw [arbMoved_now])⟩
  · obtain ⟨rec, queued, shown⟩ := takeTokens_tok ((s.modDisp fun d => { d with idMsgs := kdel d.idMsgs k }).freeTicket k false) r
      (num msg 0 8) ((ids.take most).map (·.toNat)) (drafts.map (·.toNat))
    exact ⟨_, rec, tokenIdsArrive_of_waited came fresh ticket req going brings any, rfl, queued, shown⟩

end Sys2Proof.Machine
end

section
/-! SUPPORT. What sending a frame can change (R266 to R272), and how a frame that this module sources fares (R270). -/

namespace Sys2Proof.Machine

/-! ### The fate of a sourced frame (R269, R270) -/

section originate

variable {s : State} {f : GFrame}

theorem originate_of_outside (other : f.dest ≠ s.addr) (members : f.vc = 0 ∨ f.vc = 3) (outside : f.dest ∉ s.gl.view) :
    s.originate f = (s, some 9) := by
  unfold State.originate
  exact (if_neg other).trans (if_pos ⟨members, by simpa using outside⟩)

/-- A frame whose VC asks for no member, or whose destination is one, goes by its route. -/
theorem originate_of_member (other : f.dest ≠ s.addr) (member : f.vc = 0 ∨ f.vc = 3 → f.dest ∈ s.gl.view) :
    s.originate f = match s.route f.dest f.vc with
      | none => (s, some 8)
      | some p => (s.glSend p { f with src := s.addr, hops := s.get GL_CTRL GL_CTRL.MAX_HOPS }, none) := by
  unfold State.originate
  exact (if_neg other).trans (if_neg fun out => by simp [member out.1] at out)

theorem originate_of_unrouted (other : f.dest ≠ s.addr) (member : f.vc = 0 ∨ f.vc = 3 → f.dest ∈ s.gl.view)
    (noPort : s.route f.dest f.vc = none) : s.originate f = (s, some 8) := by
  rw [originate_of_member other member, noPort]

theorem originate_of_routed {p : Nat} (other : f.dest ≠ s.addr) (member : f.vc = 0 ∨ f.vc = 3 → f.dest ∈ s.gl.view)
    (port : s.route f.dest f.vc = some p) :
    s.originate f = (s.glSend p { f with src := s.addr, hops := s.get GL_CTRL GL_CTRL.MAX_HOPS }, none) := by
  rw [originate_of_member other member, port]

end originate

/-- Settles O51: membership is looked at before the route, and only for VC0 and VC3. -/
theorem framesOutsideTheView : Obligations.FramesOutsideTheView := by
  unfold Obligations.FramesOutsideTheView
  intro s f other
  refine ⟨originate_of_outside other, fun _ member => originate_of_unrouted other fun _ => member,
    fun not0 not3 => originate_of_unrouted other fun asks => absurd asks (by tauto), fun p type vc port => ?_⟩
  have vc2 : f.vc = 2 := by rcases type with e | e <;> rw [vc, e] <;> rfl
  rw [originate_of_routed other (fun asks => by omega) port]
  exact ⟨rfl, rfl⟩

/-! ### What sending can change (R266 to R270) -/

/-- Only what the ports hold changes. -/
def LinksOnly (s u : State) : Prop := ∃ l, u = { s with gl := { s.gl with ports := l } }

theorem LinksOnly.refl (s : State) : LinksOnly s s := ⟨_, rfl⟩

theorem LinksOnly.trans {s u v : State} : LinksOnly s u → LinksOnly u v → LinksOnly s v := by
  rintro ⟨_, rfl⟩ ⟨l, rfl⟩; exact ⟨l, rfl⟩

theorem setGport_linksOnly (s : State) (p : Nat) (v : GPortSt) : LinksOnly s (s.setGport p v) := ⟨_, rfl⟩

theorem giveBack_linksOnly (s : State) (p vc k : Nat) : LinksOnly s (s.giveBack p vc k) :=
  ite_rel (fun _ => .refl s) fun _ => setGport_linksOnly s p _

theorem giveBackAll_linksOnly (s : State) (l : List (GFrame × Option Nat)) : LinksOnly s (s.giveBackAll l) := by
  refine foldl_rel LinksOnly.refl LinksOnly.trans (fun u x => ?_) l s
  split
  · exact giveBack_linksOnly u _ _ _
  · exact .refl u

/-- The registers that an end-to-end failure shows itself in (R272). -/
def e2eAddrs : List Nat := [GL_E2E_FAIL, GL_E2E_LOG]

/-- Only what the ports hold, the frames on the links and those delivered here, the failures noted and the counters change. -/
def Sends (s u : State) : Prop :=
  (∃ l o x d r p, u = { s with gl := { s.gl with ports := l, out := o, rx := x, failedTo := d }, regs := r, perf := p })
    ∧ KeepsRegs (· ∈ e2eAddrs) s u

theorem Sends.refl (s : State) : Sends s s := ⟨⟨_, _, _, _, _, _, rfl⟩, .refl _ s⟩

theorem Sends.trans {s u v : State} (h : Sends s u) (g : Sends u v) : Sends s v := by
  refine ⟨?_, h.2.trans g.2⟩
  obtain ⟨_, _, _, _, _, _, rfl⟩ := h.1
  obtain ⟨l, o, x, d, r, p, rfl⟩ := g.1
  exact ⟨l, o, x, d, r, p, rfl⟩

theorem LinksOnly.sends {s u : State} : LinksOnly s u → Sends s u := by
  rintro ⟨l, rfl⟩; exact ⟨⟨l, _, _, _, _, _, rfl⟩, fun _ _ => rfl⟩

theorem PerfOnly.sends {s u : State} : PerfOnly s u → Sends s u := by
  rintro ⟨p, rfl⟩; exact ⟨⟨_, _, _, _, _, p, rfl⟩, fun _ _ => rfl⟩

theorem RegsOnly.sends {s u : State} (h : RegsOnly s u) (regs : KeepsRegs (· ∈ e2eAddrs) s u) : Sends s u := by
  refine ⟨?_, regs⟩
  obtain ⟨r, rfl⟩ := h
  exact ⟨_, _, _, _, r, _, rfl⟩

theorem Sends.get {s u : State} (h : Sends s u) {a : Nat} (out : a ∉ e2eAddrs) (f : Fld) : u.get a f = s.get a f := h.2.get out f

theorem Sends.apart {s u : State} (h : Sends s u) : Apart s u := by
  obtain ⟨_, _, _, _, _, _, rfl⟩ := h.1
  exact ⟨rfl, rfl, rfl, rfl, rfl⟩

theorem glEmit_sends (s : State) (p : Nat) (f : GFrame) : Sends s (s.glEmit p f) :=
  ⟨⟨_, _, _, _, _, _, rfl⟩, fun _ _ => rfl⟩

theorem glDrain_sends (fuel : Nat) (s : State) (p : Nat) : Sends s (glDrain fuel s p) := by
  induction fuel generalizing s with
  | zero => exact .refl s
  | succ fuel ih =>
    unfold glDrain
    extract_lets v
    split
    · exact .refl s
    · split
      · exact .refl s
      · extract_lets g g c v
        exact ((((setGport_linksOnly s p v).sends.trans (glEmit_sends _ p g)).trans (tallyX_only _ _ _ _).sends).trans
          (giveBackAll_linksOnly _ _).sends).trans (ih _)

theorem glPump_sends (s : State) (p : Nat) : Sends s (s.glPump p) :=
  (glDrain_sends _ s p).trans (setGport_linksOnly _ p _).sends

theorem glSend_sends (s : State) (p : Nat) (f : GFrame) : Sends s (s.glSend p f) :=
  (setGport_linksOnly s p _).sends.trans (glPump_sends _ p)

theorem deliver_sends (s : State) (p : Nat) (f : GFrame) : Sends s (s.deliver p f) :=
  ⟨⟨_, _, _, _, _, _, rfl⟩, fun _ _ => rfl⟩

theorem originate_sends (s : State) (f : GFrame) : Sends s (s.originate f).1 := by
  unfold State.originate
  extract_lets f
  split
  · exact deliver_sends s _ _
  · split
    · exact .refl s
    · split
      · exact .refl s
      · exact glSend_sends s _ f

theorem set_E2E_LOG_sends (s : State) (f : Fld) (x : Nat) : Sends s (s.set GL_E2E_LOG f x) :=
  (set_only s _ f x).sends (set_keepsRegs (by simp [e2eAddrs]) s f x)

theorem e2eFail_sends (s : State) (dest status type tag n : Nat) : Sends s (s.e2eFail dest status type tag n) := by
  have noted (u : State) (f : List Nat) : Sends u (u.modGl fun g => { g with failedTo := f }) :=
    ⟨⟨_, _, _, _, _, _, rfl⟩, fun _ _ => rfl⟩
  have bumped (u : State) : Sends u (u.bump GL_E2E_FAIL 1) :=
    (bump_only u _ 1).sends (set_keepsRegs (by simp [e2eAddrs]) u _ _)
  have logged := set_E2E_LOG_sends
  unfold State.e2eFail
  extract_lets a b c
  have h : Sends s c := by
    refine Sends.trans (u := b) ?_ (ite_rel (fun _ => logged b _ _) fun _ => .refl b)
    exact Sends.trans (u := a) (ite_rel (fun _ => noted s _) fun _ => .refl s) (bumped a)
  exact h.trans <| (logged _ _ _).trans <| (logged _ _ _).trans <| (logged _ _ _).trans <| (logged _ _ _).trans <|
    (logged _ _ _).trans (logged _ _ _)

theorem sendOff_sends (s : State) (f : GFrame) : Sends s (s.sendOff f) := by
  have h := originate_sends s f
  unfold State.sendOff
  revert h
  generalize s.originate f = r
  intro h
  split
  · exact h
  · exact h.trans (e2eFail_sends _ _ _ _ _ _)

theorem lantern_sends (s : State) (dest op epoch : Nat) (payload : List Byte) : Sends s (s.lantern dest op epoch payload) :=
  sendOff_sends s _

end Sys2Proof.Machine
end

section
/-! SUPPORT. The Gallery's time (R276, R278): what each command does with the TIME frame that it takes, and when a timer acts. -/

namespace Sys2Proof.Machine

section time

variable {p : GPort} {s s1 : State} {f : GFrame} {r : Nat}

/-- A SYNC from the port toward the master, at a module that is not the master. -/
theorem sync_of_master (took : s.takeTime p 0 = some (f, r, s1)) (member : s1.isLeader = false)
    (toward : s1.route s1.leader 2 = some p.val) :
    let corr := signed 48 (num f.payload 10 6) + (s1.gport p).delay + ((s1.now : Int) - r) * 10000
    let off : Int := (s1.now : Int) * 10000 - (num f.payload 0 8 * 10000 + num f.payload 8 2 * 10000 / 65536 : Nat) - corr
    let ticks := (off + 5000) / 10000
    let serving := s1.get LN_BOOT LN_BOOT.STAGE = 9
    let s2 := (s1.set GL_TIME GL_TIME.OFFSET (BitVec.ofInt 32 (off.tdiv 1000)).toNat).modGl fun g => { g with syncAt := s1.clk }
    let s3 := (if serving then s2.slewBy (-ticks) else s2.setTime ticks).timeTo (if serving ∧ 100000 < off.natAbs then 3 else 1)
    exec (.sync p) s = .next ((List.range 24).foldl (fun (t : State) q =>
      if q ≠ p.val ∧ t.gpState q = gpUp ∧ nbit s3.free.1.toNat q then
        t.sendTime q 0 (slice f.payload 0 10 ++ signedBytes corr) else t) s3.free.2) := by
  rw [show exec (.sync p) s = execSync p s from rfl, execSync, took]
  exact if_neg (by simp [member, toward])

theorem pdelayReq_of_taken (took : s.takeTime p 1 = some (f, r, s1)) :
    exec (.pdelayReq p) s
      = .next (s1.sendTime p 2 (toBytes 8 s1.now ++ toBytes 2 0 ++ signedBytes (((r : Int) - s1.now) * 10000))) := by
  rw [show exec (.pdelayReq p) s = execPdelayReq p s from rfl, execPdelayReq, took]

/-- The answer to a request under way ends the measurement. -/
theorem pdelayRsp_of_taken {t1 : Nat} (took : s.takeTime p 2 = some (f, r, s1)) (asked : (s1.gport p).pdT1 = some t1) :
    exec (.pdelayRsp p) s = .next (s1.modGport p fun v =>
      { v with pdT1 := none, delay := (((r : Int) - t1) * 10000 - -signed 48 (num f.payload 10 6)) / 2 }) := by
  rw [show exec (.pdelayRsp p) s = execPdelayRsp p s from rfl, execPdelayRsp, took]
  dsimp only
  rw [asked]

theorem syncLoss_of_silence (member : s.isLeader = false)
    (synced : s.get GL_STATUS GL_STATUS.TIME_STATE = 1 ∨ s.get GL_STATUS GL_STATUS.TIME_STATE = 3)
    (silent : ms 16 ≤ s.clk - s.gl.syncAt) : exec .syncLoss s = .next ((s.slewBy 0).timeTo 2) :=
  if_neg (by simpa [member, synced] using silent)

end time

/-- Settles O30: each command acts once its frame is taken, each timer where it is due. -/
theorem timeCommandsComplete : Obligations.TimeCommandsComplete := by
  unfold Obligations.TimeCommandsComplete
  intro p s
  refine ⟨fun f r s1 => sync_of_master, fun f r s1 => pdelayReq_of_taken, fun f r s1 t1 took asked => ?_,
    fun up => if_neg (not_not.2 up), fun leader => if_neg (by simp [leader]), syncLoss_of_silence⟩
  refine ⟨_, pdelayRsp_of_taken took asked, rfl, ?_, ?_⟩
  · rw [State.gport_modGport_same]
  · rw [State.gport_modGport_same, ← sub_neg_eq_add]

end Sys2Proof.Machine
end

section
/-! SUPPORT. The timers of the membership (R280, R281): when each acts, and what a heartbeat's sending leaves of the view. -/

namespace Sys2Proof.Machine

/-! ### Sending leaves the view -/

section sends

variable {s u : State} (h : Sends s u)

include h

theorem Sends.isLeader : u.isLeader = s.isLeader := by
  rw [State.isLeader, h.get (by decide), State.isLeader]

theorem Sends.viewState : u.viewState = s.viewState := h.get (by decide) _

end sends

theorem passAck_isLeader (s : State) : s.passAck.isLeader = s.isLeader := by
  unfold State.passAck
  split
  · split
    · rfl
    · exact (lantern_sends _ _ _ _ _).isLeader
  · rfl

theorem passAck_viewState (s : State) : s.passAck.viewState = s.viewState := by
  unfold State.passAck
  split
  · split
    · rfl
    · exact (lantern_sends _ _ _ _ _).viewState
  · rfl

/-! ### Heartbeats and BEACONs (R280) -/

section timers

variable {s : State}

theorem heartbeatTimer_of_joining {a : Nat} (joining : s.viewState = 3)
    (reached : ((s.gl.weights.map (·.1)).find? fun a => a != s.addr && s.reaches a) = some a) :
    exec .membershipHeartbeatTimer s = .next (s.sendJoin a) := by
  rw [show exec .membershipHeartbeatTimer s = execMembershipHeartbeatTimer s from rfl, execMembershipHeartbeatTimer, if_pos joining,
    reached]

/-- The heartbeat of a member, or of a module that is FROZEN: to its group's aggregator, or as one to the leader. -/
def State.sendHeartbeat (s : State) : State :=
  if s.isAggregator then (if s.isLeader then s else s.lantern s.leader 1 s.epoch (toBytes 16 s.heardBits))
  else
    match s.aggregator (s.addr / 128) with
    | some a => s.lantern a 1 s.epoch []
    | none => s

/-- The leader's turn: the next change of those waiting is opened, and the BEACON sent. -/
def State.sendBeacons (s : State) : State :=
  let s1 := s.nextChange
  let flags := bit (decide (s1.get TB_PPS TB_PPS.STATE = 2))
  s1.beaconTo.foldl (fun (s : State) a => s.lantern a 2 s.epoch (toBytes 3 s.addr ++ toBytes 1 flags)) s1

theorem heartbeatTimer_of_viewed (viewed : s.viewState = 1 ∨ s.viewState = 2) :
    exec .membershipHeartbeatTimer s = .next (if s.sendHeartbeat.passAck.isLeader ∧ s.sendHeartbeat.passAck.viewState = 1
      then s.sendHeartbeat.passAck.sendBeacons else s.sendHeartbeat.passAck) := by
  rw [show exec .membershipHeartbeatTimer s = execMembershipHeartbeatTimer s from rfl, execMembershipHeartbeatTimer,
    if_neg (by omega), if_neg (by omega), apply_ite Host.Outcome.next]
  rfl

theorem sendHeartbeat_sends (s : State) : Sends s s.sendHeartbeat := by
  unfold State.sendHeartbeat
  split
  · exact ite_rel (fun _ => .refl s) fun _ => lantern_sends s _ _ _ _
  · split
    · exact lantern_sends s _ _ _ _
    · exact .refl s

/-- A module that does not lead sends its heartbeat and no BEACON. -/
theorem heartbeatTimer_of_follower (viewed : s.viewState = 1 ∨ s.viewState = 2) (follows : s.isLeader = false) :
    exec .membershipHeartbeatTimer s = .next s.sendHeartbeat.passAck := by
  rw [heartbeatTimer_of_viewed viewed, passAck_isLeader, (sendHeartbeat_sends s).isLeader, follows]
  rfl

theorem heartbeatTimer_of_leader (viewed : s.viewState = 1) (leads : s.isLeader = true) :
    exec .membershipHeartbeatTimer s = .next s.sendHeartbeat.passAck.sendBeacons := by
  rw [heartbeatTimer_of_viewed (.inl viewed), passAck_isLeader, passAck_viewState, (sendHeartbeat_sends s).isLeader,
    (sendHeartbeat_sends s).viewState, if_pos ⟨leads, viewed⟩]

theorem sendHeartbeat_of_member {a : Nat} (member : s.isAggregator = false) (to_ : s.aggregator (s.addr / 128) = some a) :
    s.sendHeartbeat = s.lantern a 1 s.epoch [] := by
  rw [State.sendHeartbeat, member, to_]
  rfl

theorem sendHeartbeat_of_aggregator (aggregates : s.isAggregator = true) (follows : s.isLeader = false) :
    s.sendHeartbeat = s.lantern s.leader 1 s.epoch (toBytes 16 s.heardBits) := by
  rw [State.sendHeartbeat, aggregates, follows]
  rfl

/-- The leader itself is heard by its BEACON. -/
theorem sendHeartbeat_of_leader (aggregates : s.isAggregator = true) (leads : s.isLeader = true) : s.sendHeartbeat = s := by
  rw [State.sendHeartbeat, aggregates, leads]
  rfl

/-! ### Modules unheard, and changes without quorum (R281) -/

theorem memberUnheard_of_silence {a : Nat} (leads : s.isLeader = true) (viewed : s.viewState = 1) (other : a ≠ s.addr)
    (member : s.gl.view.contains a = true) (silent : ms 30 ≤ s.clk - kget s.gl.heard a 0) :
    let g := a / 128
    let all := (s.gl.view.filter fun a => a / 128 = g).all fun a => decide (ms 30 ≤ s.clk - kget s.gl.heard a 0)
    exec (.memberUnheard a) s = .next
      (if g ≠ s.addr / 128 ∧ s.gl.change = none ∧ all = true then s.proposeNow 1 [] [g] else s.askChange 1 a) := by
  intro g all
  have due : ¬ (!s.isLeader ∨ s.viewState ≠ 1 ∨ a = s.addr ∨ !s.gl.view.contains a ∨ !decide (ms 30 ≤ s.clk - kget s.gl.heard a 0)) := by
    simpa [leads, viewed, other, silent] using member
  refine (if_neg due).trans ?_
  simp only [apply_ite Host.Outcome.next, ← Option.isNone_iff_eq_none]
  rfl

theorem beaconLost_of_silence (follows : s.isLeader = false) (viewed : s.viewState = 1) (still : s.gl.change = none)
    (silent : ms (30 + 10 * ((s.gl.view.filter fun a => s.reaches a).filter (· < s.addr)).length) ≤ s.clk - s.gl.beaconAt) :
    exec .beaconLost s = .next (s.proposeNow 2 (s.gl.view.filter fun a => !s.reaches a) []) := by
  have notJoining : s.viewState ≠ 3 := by omega
  rw [show exec .beaconLost s = execBeaconLost s from rfl, execBeaconLost]
  simp only [notJoining, if_false]
  exact if_neg (by simpa [follows, viewed, still] using silent)

theorem changeTimeout_of_first {c : Change} (open_ : s.gl.change = some c) (first : c.retry = false)
    (late : ms 100 ≤ s.clk - c.since) :
    exec .changeTimeout s
      = .next (s.modGl fun g => { g with change := if s.isLeader then some { c with retry := true } else none }) := by
  rw [show exec .changeTimeout s = execChangeTimeout s from rfl, execChangeTimeout, open_]
  dsimp only
  rw [if_neg (by rw [first]; exact Bool.false_ne_true), if_neg (Nat.not_lt.2 late)]

theorem changeTimeout_of_retry {c : Change} (open_ : s.gl.change = some c) (retried : c.retry = true)
    (late : ms 1100 ≤ s.clk - c.since) :
    exec .changeTimeout s = .next ((s.modGl fun g => { g with change := none }).proposeNow c.kind c.addrs c.whole) := by
  rw [show exec .changeTimeout s = execChangeTimeout s from rfl, execChangeTimeout, open_]
  dsimp only
  rw [if_pos retried, if_neg (Nat.not_lt.2 late)]

theorem freeze_of_silence (follows : s.isLeader = false) (viewed : s.viewState = 1) (silent : ms 100 ≤ s.clk - s.gl.beaconAt) :
    exec .freeze s = .next (((s.set GL_STATUS GL_STATUS.VIEW 2).modGl fun g =>
      { g with change := none, answered := false }).event 0xE005 srcModule s.epoch) :=
  if_neg (by simpa [follows, viewed] using silent)

end timers

theorem LogsOnly.gl_eq {s u : State} : LogsOnly s u → u.gl = s.gl := by rintro ⟨_, _, _, rfl⟩; rfl

/-- A frozen view shows itself and has no open change. -/
theorem frozen_spec (s : State) :
    let u := ((s.set GL_STATUS GL_STATUS.VIEW 2).modGl fun g => { g with change := none, answered := false }).event 0xE005 srcModule
      s.epoch
    Apart s u ∧ u.viewState = 2 ∧ u.gl.change = none := by
  intro u
  have raised := event_only ((s.set GL_STATUS GL_STATUS.VIEW 2).modGl fun g => { g with change := none, answered := false }) 0xE005
    srcModule s.epoch
  refine ⟨raised.apart, ?_, congrArg Gallery.change raised.gl_eq⟩
  rw [State.viewState, (event_keepsRegs _ _ _ _).get (by decide), State.modGl_get_, State.get_set_same _ _ _ _ (by decide)]
  rfl

/-- Settles O29: each timer acts where it is due, and sending a heartbeat changes neither the view nor who leads. -/
theorem membershipTimersComplete : Obligations.MembershipTimersComplete := by
  unfold Obligations.MembershipTimersComplete
  intro s
  refine ⟨fun a => heartbeatTimer_of_joining, fun a viewed follows member to_ => ?_, fun viewed follows aggregates => ?_,
    fun viewed leads aggregates => ?_, fun a => memberUnheard_of_silence, beaconLost_of_silence,
    fun c open_ first late => ⟨_, changeTimeout_of_first open_ first late, rfl, rfl⟩, fun c => changeTimeout_of_retry,
    fun follows viewed silent => ⟨_, freeze_of_silence follows viewed silent, frozen_spec s⟩⟩
  · rw [heartbeatTimer_of_follower viewed follows, sendHeartbeat_of_member member to_]
  · rw [heartbeatTimer_of_follower viewed follows, sendHeartbeat_of_aggregator aggregates follows]
  · rw [heartbeatTimer_of_leader viewed leads, sendHeartbeat_of_leader aggregates leads]
    rfl

end Sys2Proof.Machine
end

section
/-! SUPPORT. The messages of the membership (R280 to R282): what each does once a module has taken it. -/

namespace Sys2Proof.Machine

/-! ### Heartbeats (R280) -/

/-- Of keys that are all set to one value, each reads as that value. -/
theorem kget_foldl_kset {β : Type} (keys : List Nat) (v d : β) (m : List (Nat × β)) {k : Nat}
    (set : k ∈ keys ∨ kget m k d = v) : kget (keys.foldl (fun m a => kset m a v) m) k d = v := by
  induction keys generalizing m with
  | nil => exact set.resolve_left List.not_mem_nil
  | cons a keys ih =>
    refine ih _ ?_
    by_cases same : k = a
    · right
      rw [kget_kfind, kfind_kset, if_pos same]
      rfl
    · rcases set with listed | held
      · exact .inl ((List.mem_cons.1 listed).resolve_left same)
      · right
        rw [kget_kfind, kfind_kset, if_neg same, ← kget_kfind, held]

/-- The modules that a heartbeat says are heard: its sender, and those of the sender's group that its bitmap names. -/
def heardBy (f : GFrame) : List Nat :=
  f.src :: ((List.range 128).filter fun i => nbit (ofBytes f.payload) i).map fun i => f.src / 128 * 128 + i

section messages

variable {s s1 : State} {f : GFrame}

theorem lanternHeartbeat_of_taken (took : s.takeLantern 1 = some (f, s1)) :
    exec .lanternHeartbeat s
      = .next (s1.modGl fun g => { g with heard := (heardBy f).foldl (fun m a => kset m a s1.clk) g.heard }) := by
  rw [show exec .lanternHeartbeat s = execLanternHeartbeat s from rfl, execLanternHeartbeat, took]
  rfl

/-! ### BEACON (R280, R282) -/

/-- What a member notes of its leader's BEACON. -/
def State.noteBeacon (s : State) (f : GFrame) : State :=
  s.modGl fun g => { g with
    beaconAt := s.clk
    locked := if num f.payload 3 1 % 2 = 1 then (num f.payload 0 3 :: g.locked).eraseDups
      else g.locked.filter (· != num f.payload 0 3) }

theorem beacon_of_leader (took : s.takeLantern 2 = some (f, s1)) (viewed : s1.viewState = 1)
    (fromLeader : num f.payload 0 3 = s1.leader) : exec .beacon s = .next ((s1.noteBeacon f).passBeacon f) := by
  rw [show exec .beacon s = execBeacon s from rfl, execBeacon, took]
  exact (if_neg (not_not.2 viewed)).trans (if_neg (not_not.2 fromLeader))

/-- A module without a committed view of its own hears of a later one. -/
theorem beacon_of_later (took : s.takeLantern 2 = some (f, s1)) (unviewed : s1.viewState ≠ 1) (up : s1.viewState ≠ 0)
    (later : s1.epoch < f.aux) :
    exec .beacon s = .next (if s1.viewState = 2 ∧ s1.gl.answered then s1.passBeacon f
      else ((s1.passBeacon f).sendJoin (num f.payload 0 3)).modGl fun g => { g with answered := true }) := by
  rw [show exec .beacon s = execBeacon s from rfl, execBeacon, took]
  exact (if_pos unviewed).trans (if_neg (by omega))

theorem passBeacon_sends (s : State) (f : GFrame) : Sends s (s.passBeacon f) :=
  ite_rel (fun _ => foldl_rel Sends.refl Sends.trans (fun u _ => lantern_sends u _ _ _ _) _ s) fun _ => .refl s

theorem mem_locked_iff (s : State) (f : GFrame) :
    num f.payload 0 3 ∈ (s.noteBeacon f).gl.locked ↔ num f.payload 3 1 % 2 = 1 := by
  by_cases locked : num f.payload 3 1 % 2 = 1 <;> simp [State.noteBeacon, locked]

/-- A member has noted its leader's BEACON, and passed it on. -/
theorem beaconPassed_spec (s : State) (f : GFrame) :
    let u := (s.noteBeacon f).passBeacon f
    Apart s u ∧ u.gl.beaconAt = s.clk ∧ (num f.payload 0 3 ∈ u.gl.locked ↔ num f.payload 3 1 % 2 = 1) := by
  intro u
  have passed : Sends (s.noteBeacon f) u := passBeacon_sends _ f
  obtain ⟨l, o, x, d, r, p, sent⟩ := passed.1
  exact ⟨passed.apart, by rw [sent]; rfl, by rw [sent]; exact mem_locked_iff s f⟩

/-! ### PROPOSE (R281) -/

/-- What a module notes of a proposal: that it acknowledges it, and the entries of the frames so far. -/
def State.noteChange (s : State) (f : GFrame) (c : Change) : State :=
  s.modGl fun g => { g with
    acked := some (f.aux, f.src)
    seenChange := if num f.payload 0 2 = 0 then some c
      else g.seenChange.map fun o => { o with addrs := o.addrs ++ c.addrs, whole := o.whole ++ c.whole } }

theorem propose_of_acknowledged (took : s.takeLantern 3 = some (f, s1))
    (lowest : (s1.gl.rx.any fun x => x.2.1.type = 7 && x.2.1.op = 3 && x.2.1.aux = f.aux && x.2.1.src < f.src) = false)
    (later : s.epoch < f.aux)
    (free_ : s1.gl.acked = none ∨ ∃ e p, s1.gl.acked = some (e, p) ∧ (e < f.aux ∨ (e = f.aux ∧ p = f.src)))
    (mayChange : num f.payload 0 2 = 0 → num f.payload 2 2 = 1 → s.mayChange (readChange f s.clk) = true) :
    let s2 := s1.noteChange f (readChange f s.clk)
    exec .propose s
      = .next (if num f.payload 0 2 + 1 = num f.payload 2 2 ∧ s2.gl.seenChange.all s2.mayChange then s2.ackOwn else s2) := by
  intro s2
  have mine : (s1.gl.acked.all fun x => x.1 < f.aux || (x.1 = f.aux && x.2 = f.src)) = true := by
    rcases free_ with none_ | ⟨e, p, some_, ok⟩
    · rw [none_]; rfl
    · rw [some_]; simpa using ok
  have notAsk : ¬ (s.isLeader ∧ s.viewState = 1 ∧ f.aux = s.epoch ∧ (readChange f s.clk).kind = 1
      ∧ (readChange f s.clk).addrs = [f.src]) := fun ⟨_, _, present, _⟩ => by omega
  rw [show exec .propose s = execPropose s from rfl, execPropose, took]
  dsimp only
  rw [lowest, mine, if_neg notAsk, if_neg (by simpa [Nat.not_le.2 later] using mayChange)]
  simp only [decide_eq_true_iff]
  rfl

/-- A member asks its leader to leave (log entry 103). -/
theorem propose_of_leave (took : s.takeLantern 3 = some (f, s1)) (leads : s.isLeader = true) (viewed : s.viewState = 1)
    (present : f.aux = s.epoch) (leave : (readChange f s.clk).kind = 1) (itself : (readChange f s.clk).addrs = [f.src]) :
    exec .propose s = .next (s1.askChange 1 f.src) := by
  rw [show exec .propose s = execPropose s from rfl, execPropose, took]
  exact if_pos ⟨leads, viewed, present, leave, itself⟩

/-! ### ACK and COMMIT (R280, R281) -/

theorem ack_of_aggregator (took : s.takeLantern 4 = some (f, s1)) (idle : s1.gl.change = none) :
    exec .ack s = .next (s1.addAck f.aux f.src (num f.payload 0 4)).ackReady := by
  rw [show exec .ack s = execAck s from rfl, execAck, took]
  dsimp only
  rw [idle]

theorem ack_of_proposer {c : Change} (took : s.takeLantern 4 = some (f, s1)) (open_ : s1.gl.change = some c)
    (same : c.epoch = f.aux) (first : c.retry = false) (inTime : s1.clk - c.since < ms 100) :
    let c' := { c with weight := c.weight + num f.payload 0 4, acked := c.acked ++ [f.src] }
    exec .ack s = .next (if s1.quorum c'.weight c'.acked then (s1.commitChange c').nextChange
      else { s1 with gl := { s1.gl with change := some c' } }) := by
  rw [show exec .ack s = execAck s from rfl, execAck, took]
  dsimp only
  rw [open_]
  dsimp only
  rw [if_neg (by simp [same, first, inTime]), apply_ite Host.Outcome.next]
  rfl

theorem commit_of_seen {c : Change} (took : s.takeLantern 5 = some (f, s1)) (seen : s1.gl.seenChange = some c)
    (same : c.epoch = num f.payload 0 4) (may : s1.mayChange c = true) :
    let byLeader : Bool := c.proposer = s1.leader && !s1.gl.view.isEmpty
    let view := changed s1.gl.view c byLeader (c.kind = 0 && c.addrs.contains s1.addr)
    let leader := if c.kind = 2 ∧ byLeader = true then c.addrs.headD c.proposer else c.proposer
    exec .commit s = .next (s1.adopt view c.epoch leader) := by
  rw [show exec .commit s = execCommit s from rfl, execCommit, took]
  dsimp only
  rw [seen]
  exact if_neg (by simp [same, may])

/-! ### JOIN (R281) -/

section join

variable {q : Nat} (took : s.takeRx (fun _ f => f.type = 7 && f.op = 6) = some ((q, f), s1))

include took

theorem join_of_joining (itself : num f.payload 0 3 = s1.addr) (unviewed : s1.viewState ≠ 1) :
    exec .join s = .next (s1.set GL_STATUS GL_STATUS.ADDR_CLASH 1) := by
  rw [show exec .join s = execJoin s from rfl, execJoin, took]
  dsimp only
  rw [if_pos unviewed, if_pos itself]

theorem join_of_member (viewed : s1.viewState = 1) (follows : s1.isLeader = false) (fresh : f.src ≠ s1.leader) :
    exec .join s = .next ((s1.modGl fun g => { g with joins := kset g.joins (num f.payload 0 3) q }).lantern s1.leader 6 f.aux
      f.payload) := by
  rw [show exec .join s = execJoin s from rfl, execJoin, took]
  dsimp only
  rw [if_neg (not_not.2 viewed), if_pos (by simp [follows]), if_neg fresh]

theorem join_of_returned {r : Nat} (viewed : s1.viewState = 1) (follows : s1.isLeader = false) (returned : f.src = s1.leader)
    (by_ : kfind s1.gl.joins (num f.payload 0 3) = some r) :
    exec .join s = .next ((s1.modGl fun g => { g with joins := kdel g.joins (num f.payload 0 3) }).returnJoin r f
      (num f.payload 0 3)) := by
  rw [show exec .join s = execJoin s from rfl, execJoin, took]
  dsimp only
  rw [if_neg (not_not.2 viewed), if_pos (by simp [follows]), if_pos returned, by_]

/-- The leader, for a module with its own table: a clash is returned, another module's JOIN proposed. -/
theorem join_of_leader (viewed : s1.viewState = 1) (leads : s1.isLeader = true) (table : num f.payload 4 4 = s1.gl.topoGen) :
    let a := num f.payload 0 3
    exec .join s = if s1.gl.view.contains a = true
      then .next (if f.src = a then s1.returnJoin q f a else s1.lantern f.src 6 f.aux f.payload)
      else .next ((if (kfind s1.gl.weights a).isSome then s1
        else s1.modGl fun g => { g with weights := kset g.weights a (num f.payload 3 1) }).askChange 0 a) := by
  rw [show exec .join s = execJoin s from rfl, execJoin, took]
  dsimp only
  rw [if_neg (not_not.2 viewed), if_neg (by simp [leads]), if_neg (not_not.2 table)]

end join

end messages

/-- Settles O28: each message acts once it is taken, by the view of the module that takes it. -/
theorem membershipMessagesComplete : Obligations.MembershipMessagesComplete := by
  unfold Obligations.MembershipMessagesComplete
  intro s f s1
  refine ⟨fun took => ⟨_, lanternHeartbeat_of_taken took, rfl, ?_, fun i below named => ?_⟩,
    fun took => ⟨fun viewed fromLeader => ⟨_, beacon_of_leader took viewed fromLeader, beaconPassed_spec s1 f⟩,
      fun unviewed up later first => ?_, fun frozen later answered => ?_⟩,
    propose_of_acknowledged, propose_of_leave, ack_of_aggregator, fun c => ack_of_proposer, fun c => commit_of_seen,
    fun q took => ⟨fun itself unviewed => ?_, join_of_member took, fun r => join_of_returned took,
      fun viewed leads table => ⟨fun member => ?_, fun outside => ?_⟩⟩⟩
  · exact kget_foldl_kset _ _ _ _ (.inl List.mem_cons_self)
  · refine kget_foldl_kset _ _ _ _ (.inl (List.mem_cons_of_mem _ ?_))
    exact List.mem_map.2 ⟨i, List.mem_filter.2 ⟨List.mem_range.2 below, named⟩, rfl⟩
  · rw [beacon_of_later took unviewed up later, if_neg fun ⟨frozen, answered⟩ => by simp [first frozen] at answered]
  · rw [beacon_of_later took (by omega) (by omega) later, if_pos ⟨frozen, answered⟩]
  · exact ⟨_, join_of_joining took itself unviewed, rfl, set_keepsOthers _ _ _ _, State.get_set_same _ _ _ _ (by decide)⟩
  · rw [join_of_leader took viewed leads table, if_pos member]
  · rw [join_of_leader took viewed leads table, outside]
    rfl

end Sys2Proof.Machine
end

section
/-! SUPPORT. The Gallery's ports (R266 to R274): what a frame put on a link, a port's new state, its leaving UP, its training and its flap
leave of the port's registers and of what the port holds. -/

namespace Sys2Proof.Machine

/-! ### Registers of the Gallery -/

/-- No register of the Gallery's shows an event, a change or AOUT. -/
theorem GL_notMem_shownAddrs {o : Nat} (h : o < 0x10000) : y4xWin 7 + o ∉ shownAddrs := by
  have elsewhere : ∀ a ∈ shownAddrs, a < y4xWin 7 ∨ y4xWin 7 + 0x10000 ≤ a := by decide
  intro listed
  have := elsewhere _ listed
  omega

theorem GL_PORT_notMem_shownAddrs (p : GPort) {o : Nat} (h : o < 0x1000) : y4xWin 7 + o + 0x40 * p ∉ shownAddrs := by
  have := p.isLt
  rw [Nat.add_assoc]
  exact GL_notMem_shownAddrs (by omega)

/-! ### What a port's work can change -/

/-- Only the Gallery's state, registers, counters, the logs, the service's own state and which of the cask's logs have grown change. -/
def LinkWork (s u : State) : Prop :=
  ∃ g r p l v d, u = { s with gl := g, regs := r, perf := p, logs := l, svc := v, cask := { s.cask with due := d } }

theorem LinkWork.refl (s : State) : LinkWork s s := ⟨s.gl, s.regs, s.perf, s.logs, s.svc, s.cask.due, rfl⟩

theorem LinkWork.trans {s u v : State} : LinkWork s u → LinkWork u v → LinkWork s v := by
  rintro ⟨_, _, _, _, _, _, rfl⟩ ⟨g, r, p, l, v, d, rfl⟩; exact ⟨g, r, p, l, v, d, rfl⟩

theorem SvcOnly.work {s u : State} : SvcOnly s u → LinkWork s u := by
  rintro ⟨r, l, v, d, rfl⟩; exact ⟨s.gl, r, s.perf, l, v, d, rfl⟩

theorem GlOnly.work {s u : State} : GlOnly s u → LinkWork s u := by
  rintro ⟨g, r, p, rfl⟩; exact ⟨g, r, p, s.logs, s.svc, s.cask.due, rfl⟩

theorem LinksOnly.work {s u : State} : LinksOnly s u → LinkWork s u := by
  rintro ⟨l, rfl⟩; exact ⟨_, s.regs, s.perf, s.logs, s.svc, s.cask.due, rfl⟩

theorem set_work (s : State) (a : Nat) (f : Fld) (x : Nat) : LinkWork s (s.set a f x) := (set_only s a f x).gl.work

theorem modGport_work (s : State) (p : Nat) (f : GPortSt → GPortSt) : LinkWork s (s.modGport p f) := (setGport_only s p _).work

theorem LinkWork.apart {s u : State} : LinkWork s u → Apart s u := by
  rintro ⟨_, _, _, _, _, _, rfl⟩; exact ⟨rfl, rfl, rfl, rfl, rfl⟩

theorem LinkWork.clk {s u : State} : LinkWork s u → u.clk = s.clk := by rintro ⟨_, _, _, _, _, _, rfl⟩; rfl

/-- An event, and what it makes LN_CHANGE and AOUT show: only those registers, the logs and the service's own state change. -/
def Shows (s u : State) : Prop := SvcOnly s u ∧ KeepsRegs (· ∈ shownAddrs) s u

theorem Shows.refl (s : State) : Shows s s := ⟨.refl s, .refl _ s⟩

theorem Shows.trans {s u v : State} (h : Shows s u) (g : Shows u v) : Shows s v := ⟨h.1.trans g.1, h.2.trans g.2⟩

theorem Shows.get {s u : State} (h : Shows s u) {a : Nat} (out : a ∉ shownAddrs) (f : Fld) : u.get a f = s.get a f := h.2.get out f

theorem Shows.gl {s u : State} : Shows s u → u.gl = s.gl := by rintro ⟨⟨_, _, _, _, rfl⟩, _⟩; rfl

theorem event_shows (s : State) (code source arg : Nat) : Shows s (s.event code source arg) :=
  ⟨(event_only s _ _ _).svc, (event_keepsRegs s _ _ _).mono fun _ h => List.mem_cons_of_mem _ (List.mem_cons_of_mem _ h)⟩

theorem recalPorts_shows (s : State) : Shows s s.recalPorts :=
  ite_rel (fun _ => .refl s) fun _ => ⟨modSvc_only s _, fun _ _ => rfl⟩

theorem showAout_shows (s : State) : Shows s s.showAout := ⟨(showAout_only s).logs.svc, showAout_keepsRegs s⟩

/-! ### A port's state (R273, R284) -/

/-- A port that goes to a state shows it, and raises the event unless it is in it already. -/
theorem gpTo_shows (s : State) (p st : Nat) : ∃ v, (v = s ∧ s.gpState p = st ∨ v = s.setGpState p st) ∧ Shows v (s.gpTo p st) := by
  unfold State.gpTo
  split
  · next already => exact ⟨s, .inl ⟨rfl, already⟩, .refl s⟩
  · refine ⟨_, .inr rfl, ?_⟩
    have raised := event_shows (s.setGpState p st) 0xE001 p st
    extract_lets u
    exact ite_rel (R := fun _ v => Shows (s.setGpState p st) v) (x := s) (fun _ => raised)
      fun _ => (raised.trans (recalPorts_shows _)).trans (showAout_shows _)

section gpTo

variable (s : State) (p : Nat) (st : Nat)

@[simp] theorem gpTo_gl : (s.gpTo p st).gl = s.gl := by
  obtain ⟨v, ⟨rfl, _⟩ | rfl, shown⟩ := gpTo_shows s p st <;> exact shown.gl

@[simp] theorem gpTo_gport (q : Nat) : (s.gpTo p st).gport q = s.gport q := by rw [State.gport, gpTo_gl, State.gport]

theorem gpTo_work : LinkWork s (s.gpTo p st) := by
  obtain ⟨v, ⟨rfl, _⟩ | rfl, shown⟩ := gpTo_shows s p st
  · exact shown.1.work
  · exact (set_work s _ _ _).trans shown.1.work

@[simp] theorem gpTo_clk : (s.gpTo p st).clk = s.clk := (gpTo_work s p st).clk

theorem gpTo_get_ne {a : Nat} (f : Fld) (other : a ≠ GL_PORT_STATUS p) (out : a ∉ shownAddrs) :
    (s.gpTo p st).get a f = s.get a f := by
  obtain ⟨v, ⟨rfl, _⟩ | rfl, shown⟩ := gpTo_shows s p st
  · exact shown.get out f
  · rw [shown.get out, State.setGpState, State.get_set_ne _ _ _ _ other]

end gpTo

section status

variable (s : State) (p : GPort)

theorem GL_PORT_STATUS_notMem_shownAddrs : GL_PORT_STATUS p ∉ shownAddrs := GL_PORT_notMem_shownAddrs p (by decide)

theorem gpTo_gpState {st : Nat} (named : st < 8) : (s.gpTo p st).gpState p = st := by
  obtain ⟨v, ⟨rfl, already⟩ | rfl, shown⟩ := gpTo_shows s p st
  · rw [State.gpState, shown.get (GL_PORT_STATUS_notMem_shownAddrs p)]
    exact already
  · rw [State.gpState, shown.get (GL_PORT_STATUS_notMem_shownAddrs p), State.setGpState, State.get_set_same _ _ _ _ (by decide)]
    exact Nat.mod_eq_of_lt named

/-- The other fields of the port's status stay. -/
theorem gpTo_status (st : Nat) {f : Fld} (beside : GL_PORT_STATUS.STATE.lo + GL_PORT_STATUS.STATE.w ≤ f.lo)
    (fits : f.lo + f.w ≤ 64) : (s.gpTo p st).get (GL_PORT_STATUS p) f = s.get (GL_PORT_STATUS p) f := by
  obtain ⟨v, ⟨rfl, _⟩ | rfl, shown⟩ := gpTo_shows s p st
  · exact shown.get (GL_PORT_STATUS_notMem_shownAddrs p) f
  · rw [shown.get (GL_PORT_STATUS_notMem_shownAddrs p), State.setGpState, State.get_set_other _ _ _ _ _ _ fits (.inl beside)]

end status

/-! ### Frames put on a link (R268, R273) -/

/-- The frame that a module puts on a link: its source, its hops and the correct CRC. -/
def State.sealed (s : State) (f : GFrame) : GFrame := gSeal { f with src := s.addr, hops := s.get GL_CTRL GL_CTRL.MAX_HOPS }

theorem sealed_crc (s : State) (f : GFrame) : (s.sealed f).crc = gCrc (s.sealed f) := rfl

section glRaw

variable (s : State) (p : Nat) (f : GFrame)

theorem glRaw_only : s.glRaw p f = { s with gl := (s.glRaw p f).gl } := rfl

@[simp] theorem glRaw_out : (s.glRaw p f).gl.out = s.gl.out ++ [(p, s.sealed f)] := rfl

@[simp] theorem glRaw_gport_same : (s.glRaw p f).gport p = { s.gport p with lastTx := s.clk } := State.gport_modGport_same _ _ _

theorem glRaw_gport_ne {q : Nat} (other : q ≠ p) : (s.glRaw p f).gport q = s.gport q := State.gport_modGport_ne _ _ other

theorem glRaw_work : LinkWork s (s.glRaw p f) := (glEmit_only s p _).work

end glRaw

section sendLinkCtrl

variable (s : State) (p going : Nat)

theorem sendLinkCtrl_only : s.sendLinkCtrl p going = { s with gl := (s.sendLinkCtrl p going).gl } := rfl

@[simp] theorem sendLinkCtrl_out :
    (s.sendLinkCtrl p going).gl.out = s.gl.out ++ [(p, s.sealed (s.linkCtrl p going))] := rfl

@[simp] theorem sendLinkCtrl_gport_same : (s.sendLinkCtrl p going).gport p
    = { s.gport p with lastTx := s.clk, ackDue := false, nakDue := false, ret := [0, 0, 0, 0] } := by
  rw [State.sendLinkCtrl, State.gport_modGport_same, glRaw_gport_same]

theorem sendLinkCtrl_gport_ne {q : Nat} (other : q ≠ p) : (s.sendLinkCtrl p going).gport q = s.gport q :=
  (State.gport_modGport_ne _ _ other).trans (glRaw_gport_ne s p _ other)

theorem sendLinkCtrl_work : LinkWork s (s.sendLinkCtrl p going) := (glRaw_work s p _).trans (modGport_work _ p _)

end sendLinkCtrl

/-- What a LINK_CTRL frame says of a NAK and of the port's going down. -/
theorem linkCtrl_tag (s : State) (p : Nat) {going : Nat} (two : going < 4) :
    (s.linkCtrl p going).tag / 2 ^ 14 = going ∧ nbit (s.linkCtrl p going).tag 13 = (s.gport p).nakDue := by
  have split (e g : Nat) (m n : Bool) (small : e < 4096) (two : g < 4) :
      (e + bit m * 2 ^ 12 + bit n * 2 ^ 13 + g * 2 ^ 14) % 2 ^ 16 / 2 ^ 14 = g
        ∧ nbit ((e + bit m * 2 ^ 12 + bit n * 2 ^ 13 + g * 2 ^ 14) % 2 ^ 16) 13 = n := by
    cases m <;> cases n <;> simp [bit, nbit] <;> omega
  exact split _ _ _ _ (Nat.mod_lt _ (by decide)) two

/-! ### Leaving UP (R268) -/

section glDrop

variable (s : State) (p last : Nat)

/-- What a port holds once it has left UP. -/
def GPortSt.dropped (v : GPortSt) : GPortSt :=
  { v with
    txq := [], replay := [], credits := [0, 0, 0, 0], ret := [0, 0, 0, 0], ackDue := false, nakDue := false,
    nakSeq := 4096, nakCount := 0, zeroSince := [none, none, none, none], lost := false, got := false }

/-- The units of transit frames go back to the ports that they came by, then the port is emptied. -/
theorem glDrop_linksOnly : ∃ v, LinksOnly s v
    ∧ s.glDrop p last = (v.modGport p GPortSt.dropped).set (GL_PORT_STATUS p) GL_PORT_STATUS.LAST_DOWN last :=
  ⟨_, giveBackAll_linksOnly s _, rfl⟩

theorem glDrop_work : LinkWork s (s.glDrop p last) := by
  obtain ⟨v, kept, dropped⟩ := glDrop_linksOnly s p last
  rw [dropped]
  exact (kept.work.trans (modGport_work v p _)).trans (set_work _ _ _ _)

@[simp] theorem glDrop_clk : (s.glDrop p last).clk = s.clk := (glDrop_work s p last).clk

@[simp] theorem glDrop_out : (s.glDrop p last).gl.out = s.gl.out := by
  obtain ⟨v, ⟨l, rfl⟩, dropped⟩ := glDrop_linksOnly s p last
  rw [dropped]
  rfl

theorem glDrop_gport : ∃ v : GPortSt, (s.glDrop p last).gport p = v.dropped := by
  obtain ⟨v, _, dropped⟩ := glDrop_linksOnly s p last
  rw [dropped, State.set_gport_, State.gport_modGport_same]
  exact ⟨_, rfl⟩

theorem glDrop_lastDown {last : Nat} (named : last < 8) :
    (s.glDrop p last).get (GL_PORT_STATUS p) GL_PORT_STATUS.LAST_DOWN = last := by
  obtain ⟨v, _, dropped⟩ := glDrop_linksOnly s p last
  rw [dropped, State.get_set_same _ _ _ _ (by decide)]
  exact Nat.mod_eq_of_lt named

end glDrop

/-! ### Training (R273) -/

section glTrain

variable (s : State) (p at_ : Nat)

theorem glTrain_work : LinkWork s (s.glTrain p at_) :=
  ((modGl_only s _).work.trans (modGport_work _ p _)).trans (gpTo_work _ p _)

@[simp] theorem glTrain_out : (s.glTrain p at_).gl.out = s.gl.out := by
  rw [State.glTrain, gpTo_gl]
  rfl

@[simp] theorem glTrain_gport :
    (s.glTrain p at_).gport p = { s.gport p with trainSince := some at_, lastHello := none } := by
  rw [State.glTrain, gpTo_gport, State.gport_modGport_same]
  rfl

theorem glTrain_get_ne {a : Nat} (f : Fld) (other : a ≠ GL_PORT_STATUS p) (out : a ∉ shownAddrs) :
    (s.glTrain p at_).get a f = s.get a f := by
  rw [State.glTrain, gpTo_get_ne _ _ _ _ other out]
  rfl

theorem glTrain_gpState (p : GPort) : (s.glTrain p at_).gpState p = gpTraining := gpTo_gpState _ p (by decide)

theorem glTrain_status (p : GPort) {f : Fld} (beside : GL_PORT_STATUS.STATE.lo + GL_PORT_STATUS.STATE.w ≤ f.lo)
    (fits : f.lo + f.w ≤ 64) : (s.glTrain p at_).get (GL_PORT_STATUS p) f = s.get (GL_PORT_STATUS p) f := by
  rw [State.glTrain, gpTo_status _ p _ beside fits]
  rfl

end glTrain

/-! ### Flaps (R273, R274) -/

section showHold

variable (s : State) (p : Nat)

theorem showHold_only : RegsOnly s (s.showHold p) := (set_only s _ _ _).trans (set_only _ _ _ _)

@[simp] theorem showHold_gport (q : Nat) : (s.showHold p).gport q = s.gport q := rfl

/-- FLAPS and HOLD_LEFT alone are written. -/
theorem showHold_get_other (a : Nat) {f : Fld} (fits : f.lo + f.w ≤ 64)
    (flaps : GL_PORT_STATUS.FLAPS.lo + GL_PORT_STATUS.FLAPS.w ≤ f.lo ∨ f.lo + f.w ≤ GL_PORT_STATUS.FLAPS.lo)
    (left : GL_PORT_STATUS.HOLD_LEFT.lo + GL_PORT_STATUS.HOLD_LEFT.w ≤ f.lo ∨ f.lo + f.w ≤ GL_PORT_STATUS.HOLD_LEFT.lo) :
    (s.showHold p).get a f = s.get a f :=
  (State.get_set_other _ _ _ _ _ _ fits left).trans (State.get_set_other _ _ _ _ _ _ fits flaps)

@[simp] theorem showHold_gpState (q : Nat) : (s.showHold p).gpState q = s.gpState q :=
  showHold_get_other s p _ (by decide) (by decide) (by decide)

theorem showHold_shownFlaps (apart : GL_PORT_STATUS p ≠ GL_CTRL) :
    (s.showHold p).get (GL_PORT_STATUS p) GL_PORT_STATUS.FLAPS = min 31 ((s.showHold p).flaps p).length := by
  have window : (s.showHold p).get GL_CTRL GL_CTRL.HOLD_WINDOW = s.get GL_CTRL GL_CTRL.HOLD_WINDOW :=
    (State.get_set_ne _ _ _ _ apart.symm).trans (State.get_set_ne _ _ _ _ apart.symm)
  have flaps : (s.showHold p).flaps p = s.flaps p := by
    unfold State.flaps
    rw [window, showHold_gpState, showHold_gport]
    rfl
  rw [flaps]
  refine (State.get_set_other _ _ _ _ _ _ (by decide) (by decide)).trans ((State.get_set_same _ _ _ _ (by decide)).trans ?_)
  exact Nat.mod_eq_of_lt (by simp only [GL_PORT_STATUS.FLAPS]; omega)

end showHold

theorem GL_PORT_STATUS_ne_GL_CTRL (p : Nat) : GL_PORT_STATUS p ≠ GL_CTRL := by
  simp only [GL_PORT_STATUS, GL_CTRL]
  omega

section glFlap

variable (s : State) (p last : Nat)

/-- How long a port holds after its `n`-th flap (R274). -/
def State.holdTicks (s : State) (n : Nat) : Nat := s.get GL_CTRL GL_CTRL.HOLD_BASE * ms 10 * min 64 (2 ^ (n - 1))

/-- A port that is DOWN, with the flap counted and its hold set. -/
def State.flapDown (s : State) (p last : Nat) : State :=
  ((s.glDrop p last).gpTo p gpDown).modGport p fun v =>
    { v with downAt := s.flaps p ++ [s.clk], holdUntil := s.clk + s.holdTicks (s.flaps p ++ [s.clk]).length }

theorem glFlap_eq : s.glFlap p last = ((s.flapDown p last).gpTo p gpHold).showHold p := by
  have now : ((s.glDrop p last).gpTo p gpDown).clk = s.clk := by rw [gpTo_clk, glDrop_clk]
  rw [State.flapDown, ← now, State.glFlap, now]
  rfl

theorem glFlap_work : LinkWork s (s.glFlap p last) := by
  rw [glFlap_eq]
  exact ((((glDrop_work s p last).trans (gpTo_work _ p _)).trans (modGport_work _ p _)).trans (gpTo_work _ p _)).trans
    (showHold_only _ p).gl.work

theorem glFlap_gport : ∃ v : GPortSt, (s.glFlap p last).gport p = { v.dropped with
    downAt := s.flaps p ++ [s.clk], holdUntil := s.clk + s.holdTicks (s.flaps p ++ [s.clk]).length } := by
  obtain ⟨v, dropped⟩ := glDrop_gport s p last
  refine ⟨v, ?_⟩
  rw [glFlap_eq, showHold_gport, gpTo_gport, State.flapDown, State.gport_modGport_same, gpTo_gport, dropped]

theorem glFlap_shownFlaps :
    (s.glFlap p last).get (GL_PORT_STATUS p) GL_PORT_STATUS.FLAPS = min 31 ((s.glFlap p last).flaps p).length := by
  rw [glFlap_eq]
  exact showHold_shownFlaps _ p (GL_PORT_STATUS_ne_GL_CTRL p)

theorem glFlap_gpState (p : GPort) : (s.glFlap p last).gpState p = gpHold := by
  rw [glFlap_eq, showHold_gpState, gpTo_gpState _ _ (by decide)]

theorem glFlap_lastDown (p : GPort) {last : Nat} (named : last < 8) :
    (s.glFlap p last).get (GL_PORT_STATUS p) GL_PORT_STATUS.LAST_DOWN = last := by
  rw [glFlap_eq, showHold_get_other _ _ _ (by decide) (by decide) (by decide), gpTo_status _ _ _ (by decide) (by decide),
    State.flapDown, State.modGport_get_, gpTo_status _ _ _ (by decide) (by decide), glDrop_lastDown _ _ named]

end glFlap

end Sys2Proof.Machine
end

section
/-! SUPPORT. The timers of the Gallery's links (R268, R273): what is due goes out, a stalled VC takes its port down, and HELLO frames
come and go. -/

namespace Sys2Proof.Machine

/-! ### The FEC codewords of a frame (R262, R284) -/

/-- The two counters of a port's FEC codewords. -/
def fecAddrs (p : Nat) : List Nat := [GL_PORT_FEC_CORR p, GL_PORT_FEC_UNCORR p]

section glFec

variable (s : State) (p : Nat) (c : Fec)

theorem glFec_only : ∃ r x, s.glFec p c = { s with regs := r, perf := x } := by
  obtain ⟨x, counted⟩ := tallyX_only ((s.bump (GL_PORT_FEC_CORR p) c.corr).bump (GL_PORT_FEC_UNCORR p) c.uncorr) 0xB04 p c.corr
  exact ⟨_, x, counted⟩

theorem glFec_work : LinkWork s (s.glFec p c) := by
  obtain ⟨r, x, counted⟩ := glFec_only s p c
  exact GlOnly.work ⟨s.gl, r, x, counted⟩

@[simp] theorem glFec_clk : (s.glFec p c).clk = s.clk := (glFec_work s p c).clk

@[simp] theorem glFec_gl : (s.glFec p c).gl = s.gl := by
  obtain ⟨r, x, counted⟩ := glFec_only s p c
  rw [counted]

@[simp] theorem glFec_gport (q : Nat) : (s.glFec p c).gport q = s.gport q := by rw [State.gport, glFec_gl, State.gport]

theorem glFec_keepsRegs : KeepsRegs (· ∈ fecAddrs p) s (s.glFec p c) :=
  ((set_keepsRegs (List.mem_cons_self) s _ _).trans (set_keepsRegs (List.mem_cons_of_mem _ List.mem_cons_self) _ _ _)).trans
    ((tallyX_only _ _ _ _).keepsRegs _)

theorem glFec_uncorr : (s.glFec p c).get (GL_PORT_FEC_UNCORR p) count32
    = min (s.get (GL_PORT_FEC_UNCORR p) count32 + c.uncorr) 0xFFFFFFFF := by
  have apart : GL_PORT_FEC_UNCORR p ≠ GL_PORT_FEC_CORR p := by
    simp only [GL_PORT_FEC_UNCORR, GL_PORT_FEC_CORR]
    omega
  rw [State.glFec, (tallyX_only _ _ _ _).get, State.get_bump_same, State.get_bump_ne _ _ _ apart]

/-- A register of the Gallery's but those of the FEC counters, which lie at 0x30 and 0x38 of a port's 64 bytes from 0x100 on. -/
theorem notMem_fecAddrs {o : Nat} (other : o < 0x100 ∨ o % 0x40 < 0x30) : y4xWin 7 + o ∉ fecAddrs p := by
  simp only [fecAddrs, GL_PORT_FEC_CORR, GL_PORT_FEC_UNCORR, List.mem_cons, List.not_mem_nil, or_false]
  omega

theorem GL_PORT_STATUS_notMem_fecAddrs (q : Nat) : GL_PORT_STATUS q ∉ fecAddrs p := by
  rw [GL_PORT_STATUS, Nat.add_assoc]
  exact notMem_fecAddrs p (.inr (by omega))

@[simp] theorem glFec_gpState (q : Nat) : (s.glFec p c).gpState q = s.gpState q :=
  (glFec_keepsRegs s p c).get (GL_PORT_STATUS_notMem_fecAddrs p q) _

end glFec

/-! ### What is due at a port (R268) -/

section links

variable {s : State} {p : GPort}

theorem glAckDue_of_due (up : s.gpState p = gpUp)
    (due : (s.gport p).ackDue = true ∨ (s.gport p).nakDue = true ∨ (s.gport p).ret.any (· ≠ 0) = true) :
    exec (.glAckDue p) s = .next (s.sendLinkCtrl p 0) := if_pos ⟨up, due⟩

theorem glKeepalive_of_silence (up : s.gpState p = gpUp) (silent : 1000 ≤ s.clk - (s.gport p).lastTx) :
    exec (.glKeepalive p) s = .next (s.sendLinkCtrl p 0) := if_pos ⟨up, silent⟩

theorem glCreditStall_of_stalled (up : s.gpState p = gpUp) (stalled : s.glStalled p = true) :
    exec (.glCreditStall p) s = .next (s.glFlap p 4) := if_pos ⟨up, stalled⟩

/-! ### HELLO (R273) -/

theorem glHelloSend_of_hello (hello : s.gpState p = gpHello ∨ s.gpState p = gpChecking) :
    exec (.glHelloSend p) s = .next (s.glRaw p (mkFrame 1 linkLocal 0 0 0 (s.helloPayload p))) := if_pos hello

theorem glHelloLost_of_silence (hello : s.gpState p = gpHello ∨ s.gpState p = gpChecking)
    (silent : ms 10 ≤ s.clk - (s.gport p).lastHello.getD ((s.gport p).trainSince.getD 0)) :
    exec (.glHelloLost p) s = .next (s.glTrain p s.clk) := if_pos ⟨hello, silent⟩

/-- A HELLO is noted with the buffer units that it names. -/
def State.noteHello (s : State) (p : Nat) (f : GFrame) : State :=
  s.modGport p fun v => { v with
    lastHello := some s.clk, lastRx := s.clk, units := (List.range 4).map fun k => num f.payload (8 + 2 * k) 2 }

theorem glHello_of_good {f : GFrame} {c : Fec} (hello : s.gpState p = gpHello ∨ s.gpState p = gpChecking) (type : f.type = 1)
    (whole : c.uncorr = 0) (good : f.crc = gCrc f) (addressed : gLocal f = true) :
    exec (.glHello p ⟨f, c⟩) s = .next (if s.gpState p = gpHello ∧ num f.payload 5 1 = 1
      then (((s.glFec p c).noteHello p f).gpTo p gpChecking).sendNeighbour p else (s.glFec p c).noteHello p f) := by
  have trained : gpTrained (s.gpState p) = true := by rcases hello with h | h <;> rw [h] <;> rfl
  rw [apply_ite Host.Outcome.next]
  exact (if_neg (by simp [type, trained])).trans ((if_neg (by simp [whole, good])).trans
    ((if_neg (by simp [addressed])).trans (if_neg (by simp [hello]))))

@[simp] theorem noteHello_gport (s : State) (p : Nat) (f : GFrame) : (s.noteHello p f).gport p = { s.gport p with
    lastHello := some s.clk, lastRx := s.clk, units := (List.range 4).map fun k => num f.payload (8 + 2 * k) 2 } :=
  State.gport_modGport_same _ _ _

/-- A HELLO from a neighbour that hears this module ends HELLO; the port's NEIGHBOUR message goes out with it. -/
theorem helloHeard_spec (s : State) (p : GPort) (f : GFrame) (c : Fec) (seen : Prop) [Decidable seen] :
    let s1 := (s.glFec p c).noteHello p f
    let u := if s.gpState p = gpHello ∧ seen then (s1.gpTo p gpChecking).sendNeighbour p else s1
    Apart s u ∧ (u.gport p).lastHello = some s.clk
      ∧ (u.gport p).units = (List.range 4).map (fun k => num f.payload (8 + 2 * k) 2)
      ∧ u.gpState p = if s.gpState p = gpHello ∧ seen then gpChecking else s.gpState p := by
  intro s1 u
  have noted : LinkWork s s1 := (glFec_work s p c).trans (modGport_work _ p _)
  by_cases ends : s.gpState p = gpHello ∧ seen
  · rw [show u = (s1.gpTo p gpChecking).sendNeighbour p from if_pos ends, if_pos ends]
    refine ⟨((noted.trans (gpTo_work s1 p _)).trans (glRaw_work _ p _)).apart, ?_, ?_, ?_⟩
    · rw [State.sendNeighbour, glRaw_gport_same, gpTo_gport, noteHello_gport, glFec_clk]
    · rw [State.sendNeighbour, glRaw_gport_same, gpTo_gport, noteHello_gport]
    · exact gpTo_gpState s1 p (by decide)
  · rw [show u = s1 from if_neg ends, if_neg ends]
    refine ⟨noted.apart, ?_, ?_, glFec_gpState s p c p⟩
    · rw [noteHello_gport, glFec_clk]
    · rw [noteHello_gport]

end links

/-- Settles O24: what is due goes in one LINK_CTRL frame, a stall is a flap, HELLO is sent and noted, and its loss trains the port. -/
theorem galleryLinkTimersComplete : Obligations.GalleryLinkTimersComplete := by
  unfold Obligations.GalleryLinkTimersComplete
  intro p s v clear sent
  have cleared : clear (s.sendLinkCtrl p 0) := by
    simp only [clear, sendLinkCtrl_gport_same, and_self]
  have out : sent (s.linkCtrl p 0) (s.sendLinkCtrl p 0) := ⟨_, sendLinkCtrl_out s p 0, rfl, rfl, rfl, rfl, sealed_crc s _, rfl⟩
  refine ⟨fun up due => ⟨_, glAckDue_of_due up due, sendLinkCtrl_only s p 0, cleared, out⟩,
    fun up silent => ⟨_, glKeepalive_of_silence up silent, sendLinkCtrl_only s p 0, cleared, out, ?_⟩,
    fun up stalled => ⟨_, glCreditStall_of_stalled up stalled, (glFlap_work s p 4).apart, glFlap_gpState s 4 p,
      glFlap_lastDown s p (by decide), ?_⟩,
    fun hello => ⟨_, glHelloSend_of_hello hello, glRaw_only s p _, _, glRaw_out s p _, rfl, rfl, rfl, rfl, sealed_crc s _, rfl⟩,
    fun f c hello type whole good addressed => ⟨_, glHello_of_good hello type whole good addressed, ?_⟩,
    fun hello silent => ⟨_, glHelloLost_of_silence hello silent, (glTrain_work s p _).apart, glTrain_gpState s _ p, ?_⟩⟩
  · rw [sendLinkCtrl_gport_same]
  · obtain ⟨w, empty⟩ := glFlap_gport s p 4
    rw [empty]
    exact ⟨rfl, rfl⟩
  · obtain ⟨apart, heard, units, state⟩ := helloHeard_spec s p f c (num f.payload 5 1 = 1)
    refine ⟨apart, heard, units, state.trans ?_⟩
    rcases hello with h | h <;> by_cases seen : num f.payload 5 1 = 1 <;> simp [h, seen, gpHello, gpChecking]
  · rw [glTrain_gport]
    exact ⟨rfl, rfl⟩

end Sys2Proof.Machine
end

section
/-! SUPPORT. Bring-up of the Gallery's ports and their ways down (R261, R262, R273, R274). -/

namespace Sys2Proof.Machine

/-! ### Training (R261, R262, R273) -/

section training

variable {s : State} {p : GPort}

/-- A port takes the lanes that trained, and the rate and FEC written for it. -/
def State.showTrained (s : State) (p w : Nat) : State :=
  ((s.set (GL_PORT_STATUS p) GL_PORT_STATUS.WIDTH w).set (GL_PORT_STATUS p) GL_PORT_STATUS.RATE_NOW
    (s.get (GL_PORT_CTRL p) GL_PORT_CTRL.RATE)).set (GL_PORT_STATUS p) GL_PORT_STATUS.FEC_NOW
    (s.get (GL_PORT_CTRL p) GL_PORT_CTRL.FEC)

theorem GL_PORT_CTRL_ne_GL_PORT_STATUS (p q : Nat) : GL_PORT_CTRL p ≠ GL_PORT_STATUS q := by
  simp only [GL_PORT_CTRL, GL_PORT_STATUS]
  omega

theorem glTrainingDone_of_trained {lanes : BitVec 4} (training : s.gpState p = gpTraining) (wide : laneWidth lanes.toNat ≠ 0)
    (begun : (s.gport p).trainSince.getD 0 ≤ s.clk) :
    exec (.glTrainingDone p lanes) s = .next (((s.showTrained p (laneWidth lanes.toNat)).modGport p fun v =>
      { v with lastHello := none, trainSince := some s.clk }).gpTo p gpHello) := by
  have due : ¬ (s.gpState p ≠ gpTraining ∨ laneWidth lanes.toNat = 0 ∨ s.clk < (s.gport p).trainSince.getD 0) := by
    simpa [training, wide] using begun
  have apart := GL_PORT_CTRL_ne_GL_PORT_STATUS p p
  refine (if_neg due).trans ?_
  rw [State.get_set_ne _ _ _ _ apart, State.get_set_ne _ _ _ _ apart, State.get_set_ne _ _ _ _ apart]
  rfl

theorem laneWidth_le (l : Nat) : laneWidth l ≤ 2 := by
  unfold laneWidth
  split
  · exact Nat.le_refl 2
  · split <;> decide

theorem showTrained_spec (s : State) (p : Nat) {w : Nat} (lanes : w ≤ 2) :
    let u := s.showTrained p w
    u.get (GL_PORT_STATUS p) GL_PORT_STATUS.WIDTH = w
      ∧ u.get (GL_PORT_STATUS p) GL_PORT_STATUS.RATE_NOW = s.get (GL_PORT_CTRL p) GL_PORT_CTRL.RATE
      ∧ u.get (GL_PORT_STATUS p) GL_PORT_STATUS.FEC_NOW = s.get (GL_PORT_CTRL p) GL_PORT_CTRL.FEC := by
  intro u
  refine ⟨?_, ?_, ?_⟩
  · refine ((State.get_set_other _ _ _ _ _ _ (by decide) (by decide)).trans
      ((State.get_set_other _ _ _ _ _ _ (by decide) (by decide)).trans (State.get_set_same _ _ _ _ (by decide)))).trans ?_
    exact Nat.mod_eq_of_lt (Nat.lt_of_le_of_lt lanes (by decide))
  · refine ((State.get_set_other _ _ _ _ _ _ (by decide) (by decide)).trans (State.get_set_same _ _ _ _ (by decide))).trans ?_
    exact Nat.mod_eq_of_lt (State.get_lt s _ GL_PORT_CTRL.RATE)
  · exact (State.get_set_same _ _ _ _ (by decide)).trans (Nat.mod_eq_of_lt (State.get_lt s _ GL_PORT_CTRL.FEC))

theorem glTrainingTimeout_of_late (training : s.gpState p = gpTraining) (late : (s.gport p).trainSince.getD 0 + ms 100 ≤ s.clk) :
    exec (.glTrainingTimeout p) s = .next (s.modGport p fun v => { v with trainSince := some (s.clk + ms 1000) }) :=
  if_pos ⟨training, late⟩

end training

/-! ### NEIGHBOUR (R273, steps 6 and 7) -/

/-- Taking a delivered frame changes the frames that wait and, for its units, what its port holds. -/
theorem takeRx_only {s s1 : State} {ok : Nat → GFrame → Bool} {x : Nat × GFrame} (took : s.takeRx ok = some (x, s1)) :
    ∃ r l, s1 = { s with gl := { s.gl with rx := r, ports := l } } := by
  unfold State.takeRx State.takeRxAt at took
  split at took
  · cases took
  · next y _ =>
    cases took
    have back : LinksOnly (s.modGl fun g => { g with rx := g.rx.erase y })
        (if (s.modGl fun g => { g with rx := g.rx.erase y }).gpState y.1 = gpUp
          then (s.modGl fun g => { g with rx := g.rx.erase y }).giveBack y.1 y.2.1.vc (gUnits y.2.1)
          else s.modGl fun g => { g with rx := g.rx.erase y }) :=
      ite_rel (fun _ => giveBack_linksOnly _ _ _ _) fun _ => .refl _
    obtain ⟨l, given⟩ := back
    exact ⟨_, l, given⟩

/-- Whether a NEIGHBOUR message names this Gallery, its table and the port that the recipe gives. -/
def State.expects (s : State) (p : Nat) (l : List Byte) : Bool :=
  match s.portDef p with
  | some d => decide (num l 0 8 = s.gl.galleryId ∧ num l 8 4 = s.gl.topoGen ∧ num l 12 3 = d.addr ∧ num l 15 1 = d.nport)
  | none => false

theorem expects_iff (s : State) (p : Nat) (l : List Byte) : s.expects p l = true ↔
    ∃ d, s.portDef p = some d ∧ num l 0 8 = s.gl.galleryId ∧ num l 8 4 = s.gl.topoGen ∧ num l 12 3 = d.addr ∧ num l 15 1 = d.nport := by
  unfold State.expects
  split
  · next d named => simp [named]
  · next unnamed => simp [unnamed]

/-- The port carries VCs: numbering and credit begin anew. -/
def State.linkUp (s : State) (p : Nat) : State :=
  (s.modGport p fun v => { v with
    sendSeq := 0, expect := 0, replay := [], lost := false, credits := v.units, ret := [0, 0, 0, 0],
    nakCount := 0, nakSeq := 4096, upSince := s.clk, lastRx := s.clk, got := false,
    zeroSince := [none, none, none, none] }).gpTo p gpUp

/-- The port's neighbour is another than the recipe says. -/
def State.linkMiswired (s : State) (p : Nat) : State :=
  (s.modGport p fun v => { v with checkedAt := s.clk }).gpTo p gpMiswired

theorem showNeigh_spec (s : State) (p addr port : Nat) :
    (s.showNeigh p addr port).get (GL_PORT_NEIGH p) GL_PORT_NEIGH.ADDR = addr % 2 ^ GL_PORT_NEIGH.ADDR.w
      ∧ (s.showNeigh p addr port).get (GL_PORT_NEIGH p) GL_PORT_NEIGH.VALID = 1 :=
  ⟨(State.get_set_other _ _ _ _ _ _ (by decide) (by decide)).trans
      ((State.get_set_other _ _ _ _ _ _ (by decide) (by decide)).trans (State.get_set_same _ _ _ _ (by decide))),
    State.get_set_same _ _ _ _ (by decide)⟩

theorem showNeigh_only (s : State) (p addr port : Nat) : RegsOnly s (s.showNeigh p addr port) :=
  ((set_only s _ _ _).trans (set_only _ _ _ _)).trans (set_only _ _ _ _)

section neighbour

variable {s s1 : State} {p : GPort} {q : Nat} {f : GFrame}

theorem neighbour_of_taken (took : s.takeRx (fun q f => q = p.val && f.type = 7 && f.op = 0) = some ((q, f), s1))
    (checks : s1.gpState p = gpChecking ∨ s1.gpState p = gpMiswired) :
    let s2 := s1.showNeigh p (num f.payload 12 3) (num f.payload 15 1)
    exec (.neighbour p) s = .next (if s2.expects p f.payload then s2.linkUp p else s2.linkMiswired p) := by
  intro s2
  have same : s1.gpState p = s.gpState p := by
    obtain ⟨r, l, taken⟩ := takeRx_only took
    rw [taken]
    rfl
  have notHello : s.gpState p ≠ gpHello := by
    rw [← same]
    rcases checks with h | h <;> rw [h] <;> decide
  rw [show exec (.neighbour p) s = execNeighbour p s from rfl, execNeighbour, if_neg notHello, took,
    apply_ite Host.Outcome.next]
  exact if_neg (by simp [checks])

theorem GL_PORT_NEIGH_ne_GL_PORT_STATUS (p q : Nat) : GL_PORT_NEIGH p ≠ GL_PORT_STATUS q := by
  simp only [GL_PORT_NEIGH, GL_PORT_STATUS]
  omega

theorem gpTo_neigh (s : State) (p : GPort) (st : Nat) (f : Fld) :
    (s.gpTo p st).get (GL_PORT_NEIGH p) f = s.get (GL_PORT_NEIGH p) f :=
  gpTo_get_ne _ _ _ _ (GL_PORT_NEIGH_ne_GL_PORT_STATUS p p) (GL_PORT_notMem_shownAddrs p (by decide))

theorem linkUp_spec (s : State) (p : GPort) :
    let u := s.linkUp p
    LinkWork s u ∧ (∀ f, u.get (GL_PORT_NEIGH p) f = s.get (GL_PORT_NEIGH p) f) ∧ u.gpState p = gpUp
      ∧ (u.gport p).sendSeq = 0 ∧ (u.gport p).expect = 0 ∧ (u.gport p).credits = (s.gport p).units := by
  refine ⟨(modGport_work s p _).trans (gpTo_work _ p _), gpTo_neigh _ p _, gpTo_gpState _ p (by decide), ?_⟩
  rw [State.linkUp, gpTo_gport, State.gport_modGport_same]
  exact ⟨rfl, rfl, rfl⟩

theorem linkMiswired_spec (s : State) (p : GPort) :
    let u := s.linkMiswired p
    LinkWork s u ∧ (∀ f, u.get (GL_PORT_NEIGH p) f = s.get (GL_PORT_NEIGH p) f) ∧ u.gpState p = gpMiswired
      ∧ (u.gport p).checkedAt = s.clk := by
  refine ⟨(modGport_work s p _).trans (gpTo_work _ p _), gpTo_neigh _ p _, gpTo_gpState _ p (by decide), ?_⟩
  rw [State.linkMiswired, gpTo_gport, State.gport_modGport_same]

/-- What a checked NEIGHBOUR message leaves: it is shown, and the port is UP where it is the one expected. -/
theorem neighbourChecked_spec (s : State) (p : GPort) (l : List Byte) :
    let s2 := s.showNeigh p (num l 12 3) (num l 15 1)
    let u := if s2.expects p l then s2.linkUp p else s2.linkMiswired p
    LinkWork s u ∧ u.get (GL_PORT_NEIGH p) GL_PORT_NEIGH.ADDR = num l 12 3 % 2 ^ GL_PORT_NEIGH.ADDR.w
      ∧ u.get (GL_PORT_NEIGH p) GL_PORT_NEIGH.VALID = 1
      ∧ (s.expects p l = true → u.gpState p = gpUp ∧ (u.gport p).sendSeq = 0 ∧ (u.gport p).expect = 0
          ∧ (u.gport p).credits = (s.gport p).units)
      ∧ (¬ s.expects p l = true → u.gpState p = gpMiswired ∧ (u.gport p).checkedAt = s.clk) := by
  intro s2 u
  obtain ⟨addr, valid⟩ := showNeigh_spec s p (num l 12 3) (num l 15 1)
  have shown : LinkWork s s2 := (showNeigh_only s p _ _).gl.work
  by_cases same : s.expects p l = true
  · obtain ⟨work, neigh, up⟩ := linkUp_spec s2 p
    rw [show u = s2.linkUp p from if_pos same]
    exact ⟨shown.trans work, (neigh _).trans addr, (neigh _).trans valid, fun _ => up, fun other => absurd same other⟩
  · obtain ⟨work, neigh, wrong⟩ := linkMiswired_spec s2 p
    rw [show u = s2.linkMiswired p from if_neg same]
    exact ⟨shown.trans work, (neigh _).trans addr, (neigh _).trans valid, fun named => absurd named same, fun _ => wrong⟩

end neighbour

/-! ### The ways down (R273, R274) -/

section down

variable {s : State} {p : GPort}

theorem glMiswiredRecheck_of_due (miswired : s.gpState p = gpMiswired) (due : ms 1000 ≤ s.clk - (s.gport p).checkedAt) :
    exec (.glMiswiredRecheck p) s = .next ((s.modGport p fun v => { v with checkedAt := s.clk }).sendNeighbour p) :=
  if_pos ⟨miswired, due⟩

/-- A port that went DOWN by itself holds, with its flap counted. -/
theorem glFlap_spec (s : State) (p : GPort) {last : Nat} (named : last < 8) :
    let u := s.glFlap p last
    Apart s u ∧ u.gpState p = gpHold ∧ u.get (GL_PORT_STATUS p) GL_PORT_STATUS.LAST_DOWN = last
      ∧ (u.gport p).replay = [] ∧ (u.gport p).txq = [] ∧ (u.gport p).downAt = s.flaps p ++ [s.clk]
      ∧ u.get (GL_PORT_STATUS p) GL_PORT_STATUS.FLAPS = min 31 (u.flaps p).length
      ∧ (u.gport p).holdUntil = s.clk + s.holdTicks (u.gport p).downAt.length := by
  obtain ⟨v, held⟩ := glFlap_gport s p last
  refine ⟨(glFlap_work s p last).apart, glFlap_gpState s last p, glFlap_lastDown s p named, ?_⟩
  rw [held]
  exact ⟨rfl, rfl, rfl, glFlap_shownFlaps s p last, rfl⟩

theorem glHoldExpire_of_ended (holds : s.gpState p = gpHold) (ended : (s.gport p).holdUntil ≤ s.clk) :
    exec (.glHoldExpire p) s = .next ((s.set (GL_PORT_STATUS p) GL_PORT_STATUS.HOLD_LEFT 0).glTrain p s.clk) :=
  if_pos ⟨holds, ended⟩

theorem glRecal_of_up (up : s.gpState p = gpUp) :
    exec (.glRecal p) s = .next (((s.sendLinkCtrl p 3).glDrop p 6).glTrain p s.clk) :=
  congrArg Host.Outcome.next (if_pos up)

/-- What a recalibration leaves: the port trains, and its neighbour has been told. -/
theorem recalibrated_spec (s : State) (p : GPort) :
    let u := ((s.sendLinkCtrl p 3).glDrop p 6).glTrain p s.clk
    Apart s u ∧ u.gpState p = gpTraining ∧ u.get (GL_PORT_STATUS p) GL_PORT_STATUS.LAST_DOWN = 6
      ∧ u.gl.out = s.gl.out ++ [(p.val, s.sealed (s.linkCtrl p 3))] := by
  refine ⟨(((sendLinkCtrl_work s p 3).trans (glDrop_work _ p 6)).trans (glTrain_work _ p _)).apart, glTrain_gpState _ _ p, ?_, ?_⟩
  · rw [glTrain_status _ _ _ (by decide) (by decide), glDrop_lastDown _ _ (by decide)]
  · rw [glTrain_out, glDrop_out, sendLinkCtrl_out]

theorem glEnable_of_off (off : s.gpState p = gpOff) :
    let s1 := s.set (GL_PORT_CTRL p) GL_PORT_CTRL.ENABLE 1
    exec (.glEnable p) s = .next (if (s.portDef p).isSome then s1.glTrain p s.clk else s1) := by
  intro s1
  have still : s1.gpState p = gpOff :=
    (State.get_set_ne _ _ _ _ (GL_PORT_CTRL_ne_GL_PORT_STATUS p p).symm).trans off
  rw [apply_ite Host.Outcome.next]
  by_cases named : (s.portDef p).isSome
  · exact (if_pos ⟨still, named⟩).trans (if_pos named).symm
  · exact (if_neg fun both => named both.2).trans (if_neg named).symm

/-- A port that is enabled trains where the recipe gives it a neighbour. -/
theorem enabled_spec (s : State) (p : GPort) (off : s.gpState p = gpOff) :
    let s1 := s.set (GL_PORT_CTRL p) GL_PORT_CTRL.ENABLE 1
    let u := if (s.portDef p).isSome then s1.glTrain p s.clk else s1
    Apart s u ∧ u.get (GL_PORT_CTRL p) GL_PORT_CTRL.ENABLE = 1
      ∧ u.gpState p = if (s.portDef p).isSome then gpTraining else gpOff := by
  intro s1 u
  have apart := GL_PORT_CTRL_ne_GL_PORT_STATUS p p
  have enabled : s1.get (GL_PORT_CTRL p) GL_PORT_CTRL.ENABLE = 1 := State.get_set_same _ _ _ _ (by decide)
  have written : LinkWork s s1 := set_work s _ _ _
  by_cases named : (s.portDef p).isSome
  · rw [show u = s1.glTrain p s.clk from if_pos named, if_pos named]
    refine ⟨(written.trans (glTrain_work s1 p _)).apart, ?_, glTrain_gpState s1 _ p⟩
    rw [glTrain_get_ne _ _ _ _ apart (GL_PORT_notMem_shownAddrs p (by decide)), enabled]
  · rw [show u = s1 from if_neg named, if_neg named]
    exact ⟨written.apart, enabled, (State.get_set_ne _ _ _ _ apart.symm).trans off⟩

end down

/-- Settles O25: each command passes its guards, and a port's new state, its training and its flap leave what is asked. -/
theorem galleryPortsComplete : Obligations.GalleryPortsComplete := by
  unfold Obligations.GalleryPortsComplete
  intro p s v
  refine ⟨fun lanes training wide begun => ⟨_, glTrainingDone_of_trained training wide begun, ?_⟩,
    fun training late => ⟨_, glTrainingTimeout_of_late training late, rfl, State.gport_modGport_same _ _ _,
      fun q other => State.gport_modGport_ne _ _ other⟩,
    fun q f s1 took checks => ⟨_, neighbour_of_taken took checks, ?_⟩,
    fun miswired due => ⟨_, _, glMiswiredRecheck_of_due miswired due, rfl, ?_, rfl, rfl, rfl⟩,
    fun cause up silent retried stalled => ?_,
    fun holds ended => ⟨_, glHoldExpire_of_ended holds ended, ?_, glTrain_gpState _ _ p, ?_, ?_⟩,
    fun up => ?_, fun off => ⟨_, glEnable_of_off off, enabled_spec s p off⟩⟩
  · obtain ⟨width, rate, fec⟩ := showTrained_spec s p (laneWidth_le lanes.toNat)
    refine ⟨?_, gpTo_gpState _ p (by decide), ?_, ?_, ?_⟩
    · exact ((((set_work s _ _ _).trans (set_work _ _ _ _)).trans (set_work _ _ _ _)).trans
        ((modGport_work _ p _).trans (gpTo_work _ p _))).apart
    · rw [gpTo_status _ _ _ (by decide) (by decide), State.modGport_get_, width]
    · rw [gpTo_status _ _ _ (by decide) (by decide), State.modGport_get_, rate]
    · rw [gpTo_status _ _ _ (by decide) (by decide), State.modGport_get_, fec]
  · obtain ⟨work, addr, valid, same, other⟩ := neighbourChecked_spec s1 p f.payload
    rw [expects_iff] at same other
    obtain ⟨r, l, rfl⟩ := takeRx_only took
    exact ⟨(LinkWork.trans (GlOnly.work ⟨_, _, _, rfl⟩) work).apart, addr, valid, same, other⟩
  · rw [State.sendNeighbour, glRaw_gport_same, State.gport_modGport_same]
  · have flapped (last : Nat) (named : last < 8) := glFlap_spec s p named
    cases cause with
    | signalLost => exact ⟨_, if_pos (.inl up), flapped 1 (by decide)⟩
    | noFrame => exact ⟨_, if_pos ⟨up, silent rfl⟩, flapped 2 (by decide)⟩
    | retryLimit => exact ⟨_, if_pos ⟨up, retried rfl⟩, flapped 3 (by decide)⟩
    | creditStall => exact ⟨_, if_pos ⟨up, stalled rfl⟩, flapped 4 (by decide)⟩
  · exact ((set_work s _ _ _).trans (glTrain_work _ p _)).apart
  · rw [glTrain_gport]
  · rw [glTrain_status _ _ _ (by decide) (by decide), State.get_set_same _ _ _ _ (by decide)]
    rfl
  · obtain ⟨apart, trains, last, out⟩ := recalibrated_spec s p
    exact ⟨_, _, glRecal_of_up up, apart, trains, last, out, rfl, (linkCtrl_tag s p (by decide)).1⟩

end Sys2Proof.Machine
end

section
/-! SUPPORT. Frames at an UP port of the Gallery (R262 to R269): LINK_CTRL frames, and the frames of VC0 to VC3 in and out of sequence. -/

namespace Sys2Proof.Machine

/-! ### A frame is heard (R262, R268) -/

/-- A port notes when it last heard a frame. -/
def State.heardOn (s : State) (p : Nat) : State := s.modGport p fun v => { v with lastRx := s.clk }

theorem heardOn_gport_same (s : State) (p : Nat) : (s.heardOn p).gport p = { s.gport p with lastRx := s.clk } :=
  State.gport_modGport_same _ _ _

section heard

variable (s : State) (p : Nat) (c : Fec)

theorem heardOn_glFec : (s.glFec p c).heardOn p = (s.glFec p c).modGport p fun v => { v with lastRx := s.clk } := by
  rw [State.heardOn, glFec_clk]

@[simp] theorem heard_gport_same : ((s.glFec p c).heardOn p).gport p = { s.gport p with lastRx := s.clk } := by
  rw [heardOn_gport_same, glFec_gport, glFec_clk]

theorem heard_gport_ne {q : Nat} (other : q ≠ p) : ((s.glFec p c).heardOn p).gport q = s.gport q := by
  rw [heardOn_glFec, State.gport_modGport_ne _ _ other, glFec_gport]

@[simp] theorem heard_out : ((s.glFec p c).heardOn p).gl.out = s.gl.out := by
  rw [show ((s.glFec p c).heardOn p).gl.out = (s.glFec p c).gl.out from rfl, glFec_gl]

@[simp] theorem heard_rx : ((s.glFec p c).heardOn p).gl.rx = s.gl.rx := by
  rw [show ((s.glFec p c).heardOn p).gl.rx = (s.glFec p c).gl.rx from rfl, glFec_gl]

theorem heard_keepsRegs : KeepsRegs (· ∈ fecAddrs p) s ((s.glFec p c).heardOn p) := glFec_keepsRegs s p c

theorem heard_work : LinkWork s ((s.glFec p c).heardOn p) := (glFec_work s p c).trans (modGport_work _ p _)

@[simp] theorem heard_clk : ((s.glFec p c).heardOn p).clk = s.clk := (heard_work s p c).clk

end heard

@[simp] theorem tallyX_gl (s : State) (ev inst k : Nat) : (s.tallyX ev inst k).gl = s.gl := by
  obtain ⟨x, counted⟩ := tallyX_only s ev inst k
  rw [counted]

@[simp] theorem tallyX_gport (s : State) (ev inst k q : Nat) : (s.tallyX ev inst k).gport q = s.gport q := by
  rw [State.gport, tallyX_gl, State.gport]

/-! ### Credit and the replay buffer (R266, R267) -/

/-- The frames that a LINK_CTRL frame leaves unacknowledged. -/
def GPortSt.unacked (v : GPortSt) (f : GFrame) : List GFrame :=
  if nbit f.tag 12 then v.replay.filter fun g => !(g.lseq = f.tag % 2 ^ 12 || seqBehind g.lseq (f.tag % 2 ^ 12)) else v.replay

/-- How many NAKs have named the same last good LSEQ, with that of a LINK_CTRL frame. -/
def GPortSt.naksWith (v : GPortSt) (f : GFrame) : Nat := if v.nakSeq = f.tag % 2 ^ 12 then v.nakCount + 1 else 1

/-- What a port holds after a LINK_CTRL frame. -/
def GPortSt.acked (v : GPortSt) (f : GFrame) : GPortSt :=
  { v with
    replay := v.unacked f
    credits := v.credits.mapIdx fun k c => c + f.pa / 2 ^ (12 * k) % 4096
    nakCount := if nbit f.tag 13 then v.naksWith f else if (v.unacked f).length < v.replay.length then 0 else v.nakCount
    nakSeq := if nbit f.tag 13 then f.tag % 2 ^ 12 else v.nakSeq }

/-- Frames of the replay buffer are sent again. -/
def State.resend (s : State) (p : Nat) (l : List GFrame) : State :=
  (l.foldl (fun (s : State) g => (s.glEmit p g).tallyX 0xB03 p 1) s).bump (GL_PORT_REPLAY p) l.length

theorem markStall_eq (s : State) (p : Nat) : ∃ z, s.markStall p = s.modGport p fun v => { v with zeroSince := z } := ⟨_, rfl⟩

/-- Where no frame waits, none leaves. -/
theorem glPump_of_empty {s : State} {p : Nat} (empty : (s.gport p).txq = []) : s.glPump p = s.markStall p := by
  have still : glDrain 1 s p = s := by
    unfold glDrain
    extract_lets v
    split
    · rfl
    · rw [show v.txq = [] from empty]
      rfl
  rw [State.glPump, empty]
  exact congrArg (State.markStall · p) still

section resend

variable (s : State) (p : Nat) (l : List GFrame)

theorem resend_work : LinkWork s (s.resend p l) :=
  (foldl_rel LinkWork.refl LinkWork.trans (fun u g => (glEmit_only u p g).work.trans (tallyX_only _ _ _ _).gl.work) l s).trans
    (set_work _ _ _ _)

theorem resend_out : (s.resend p l).gl.out = s.gl.out ++ l.map fun g => (p, g) := by
  rw [State.resend, State.bump_gl]
  induction l generalizing s with
  | nil => exact (List.append_nil _).symm
  | cons g l ih =>
    rw [List.foldl_cons, ih, tallyX_gl, List.map_cons]
    exact List.append_assoc _ _ _

theorem resend_gport_same : ∃ t, (s.resend p l).gport p = { s.gport p with lastTx := t } := by
  rw [State.resend, State.bump_gport_]
  induction l generalizing s with
  | nil => exact ⟨_, rfl⟩
  | cons g l ih =>
    obtain ⟨t, sent⟩ := ih ((s.glEmit p g).tallyX 0xB03 p 1)
    have emitted : (s.glEmit p g).gport p = { s.gport p with lastTx := s.clk } := State.gport_modGport_same _ _ _
    rw [tallyX_gport, emitted] at sent
    exact ⟨t, sent⟩

theorem resend_gport_ne {q : Nat} (other : q ≠ p) : (s.resend p l).gport q = s.gport q := by
  rw [State.resend, State.bump_gport_]
  induction l generalizing s with
  | nil => rfl
  | cons g l ih =>
    have emitted : (s.glEmit p g).gport q = s.gport q := State.gport_modGport_ne _ _ other
    rw [List.foldl_cons, ih, tallyX_gport, emitted]

end resend

/-! ### LINK_CTRL at an UP port (R266 to R268, R273) -/

section glCtrlUp

variable {s : State} {p : Nat} {f : GFrame}

/-- The port with what a LINK_CTRL frame says noted. -/
def State.noteCtrl (s : State) (p : Nat) (f : GFrame) : State := (s.setGport p ((s.gport p).acked f)).markStall p

theorem glCtrlUp_eq (s : State) (p : Nat) (f : GFrame) : s.glCtrlUp p f =
    if nbit f.tag 13 = true ∧ (s.noteCtrl p f).get GL_CTRL GL_CTRL.RETRY_LIMIT ≤ ((s.gport p).acked f).nakCount
      then (s.noteCtrl p f).glFlap p 3
    else (if nbit f.tag 13 then (s.noteCtrl p f).resend p ((s.gport p).unacked f) else s.noteCtrl p f).glPump p := rfl

theorem acked_nakCount (v : GPortSt) (nak : nbit f.tag 13 = true) : (v.acked f).nakCount = v.naksWith f := if_pos nak

theorem noteCtrl_get (s : State) (p : Nat) (f : GFrame) (a : Nat) (g : Fld) : (s.noteCtrl p f).get a g = s.get a g := rfl

theorem glCtrlUp_of_limit (nak : nbit f.tag 13 = true) (limit : s.get GL_CTRL GL_CTRL.RETRY_LIMIT ≤ (s.gport p).naksWith f) :
    s.glCtrlUp p f = (s.noteCtrl p f).glFlap p 3 := by
  rw [glCtrlUp_eq, noteCtrl_get, acked_nakCount _ nak, if_pos ⟨nak, limit⟩]

theorem glCtrlUp_of_fewer (fewer : nbit f.tag 13 = true → (s.gport p).naksWith f < s.get GL_CTRL GL_CTRL.RETRY_LIMIT) :
    s.glCtrlUp p f
      = (if nbit f.tag 13 then (s.noteCtrl p f).resend p ((s.gport p).unacked f) else s.noteCtrl p f).glPump p := by
  rw [glCtrlUp_eq, if_neg]
  rintro ⟨nak, limit⟩
  rw [noteCtrl_get, acked_nakCount _ nak] at limit
  exact Nat.not_le.2 (fewer nak) limit

theorem noteCtrl_gport_same (s : State) (p : Nat) (f : GFrame) :
    ∃ z, (s.noteCtrl p f).gport p = { (s.gport p).acked f with zeroSince := z } := by
  obtain ⟨z, stalls⟩ := markStall_eq (s.setGport p ((s.gport p).acked f)) p
  rw [State.noteCtrl, stalls, State.gport_modGport_same, State.gport_setGport_same]
  exact ⟨z, rfl⟩

theorem noteCtrl_gport_ne (s : State) {p q : Nat} (f : GFrame) (other : q ≠ p) : (s.noteCtrl p f).gport q = s.gport q := by
  rw [State.noteCtrl, State.markStall, State.gport_modGport_ne _ _ other, State.gport_setGport, if_neg other]

theorem noteCtrl_work (s : State) (p : Nat) (f : GFrame) : LinkWork s (s.noteCtrl p f) :=
  (setGport_only s p _).work.trans (setGport_only _ p _).work

/-- What a LINK_CTRL frame leaves at a port where no frame waits: what it acknowledges is gone, its credit is added, and on a NAK the
rest is sent again. -/
theorem glCtrlUp_spec (empty : (s.gport p).txq = [])
    (fewer : nbit f.tag 13 = true → (s.gport p).naksWith f < s.get GL_CTRL GL_CTRL.RETRY_LIMIT) :
    let u := s.glCtrlUp p f
    LinkWork s u ∧ (u.gport p).replay = (s.gport p).unacked f ∧ (u.gport p).lastRx = (s.gport p).lastRx
      ∧ (u.gport p).credits = (s.gport p).credits.mapIdx (fun k c => c + f.pa / 2 ^ (12 * k) % 4096)
      ∧ u.gl.out = s.gl.out ++ (if nbit f.tag 13 then ((s.gport p).unacked f).map fun g => (p, g) else [])
      ∧ ∀ q, q ≠ p → u.gport q = s.gport q := by
  intro u
  obtain ⟨w, sent, work, same, out, others⟩ : ∃ w, u = w.glPump p ∧ LinkWork s w
      ∧ (∃ z t, w.gport p = { (s.gport p).acked f with zeroSince := z, lastTx := t })
      ∧ w.gl.out = s.gl.out ++ (if nbit f.tag 13 then ((s.gport p).unacked f).map fun g => (p, g) else [])
      ∧ ∀ q, q ≠ p → w.gport q = s.gport q := by
    refine ⟨_, glCtrlUp_of_fewer fewer, ?_⟩
    obtain ⟨z, noted⟩ := noteCtrl_gport_same s p f
    by_cases nak : nbit f.tag 13 = true
    · obtain ⟨t, resent⟩ := resend_gport_same (s.noteCtrl p f) p ((s.gport p).unacked f)
      rw [if_pos nak, if_pos nak]
      exact ⟨(noteCtrl_work s p f).trans (resend_work _ p _), ⟨z, t, by rw [resent, noted]⟩, resend_out _ p _,
        fun q other => (resend_gport_ne _ p _ other).trans (noteCtrl_gport_ne s f other)⟩
    · rw [if_neg nak, if_neg nak]
      exact ⟨noteCtrl_work s p f, ⟨z, _, noted⟩, (List.append_nil _).symm, fun q other => noteCtrl_gport_ne s f other⟩
  obtain ⟨z, t, same⟩ := same
  have waits : (w.gport p).txq = [] := by rw [same]; exact empty
  obtain ⟨y, stalls⟩ := markStall_eq w p
  rw [sent, glPump_of_empty waits, stalls]
  refine ⟨work.trans (modGport_work w p _), ?_, ?_, ?_, out, fun q other => (State.gport_modGport_ne _ _ other).trans (others q other)⟩
  all_goals rw [State.gport_modGport_same, same]; rfl

end glCtrlUp

section linkCtrl

variable {s : State} {p : GPort} {f : GFrame} {c : Fec}

theorem glLinkCtrl_of_good (up : s.gpState p = gpUp) (type : f.type = 0) (whole : c.uncorr = 0) (good : f.crc = gCrc f)
    (addressed : gLocal f = true) (stays : f.tag / 2 ^ 14 + f.lseq % 2 * 4 = 0) :
    exec (.glLinkCtrl p ⟨f, c⟩) s = .next (((s.glFec p c).heardOn p).glCtrlUp p f) := by
  have trained : gpTrained (s.gpState p) = true := by rw [up]; rfl
  exact (if_neg (by simp [type, trained])).trans ((if_neg (by simp [whole, good])).trans ((if_neg (by simp [addressed])).trans
    ((if_neg (not_not.2 stays)).trans (if_neg (not_not.2 up)))))

theorem glLinkCtrl_of_goingDown (up : s.gpState p = gpUp) (type : f.type = 0) (whole : c.uncorr = 0) (good : f.crc = gCrc f)
    (addressed : gLocal f = true) (goes : f.tag / 2 ^ 14 + f.lseq % 2 * 4 ≠ 0) :
    exec (.glLinkCtrl p ⟨f, c⟩) s = .next (((s.glFec p c).heardOn p).glGoingDown p) := by
  have trained : gpTrained (s.gpState p) = true := by rw [up]; rfl
  exact (if_neg (by simp [type, trained])).trans ((if_neg (by simp [whole, good])).trans ((if_neg (by simp [addressed])).trans
    (if_pos goes)))

theorem glLinkCtrl_of_bad (up : s.gpState p = gpUp) (type : f.type = 0) (bad : c.uncorr ≠ 0 ∨ f.crc ≠ gCrc f) :
    exec (.glLinkCtrl p ⟨f, c⟩) s = .next ((s.glFec p c).bump (GL_PORT_CRC p) 1) := by
  have trained : gpTrained (s.gpState p) = true := by rw [up]; rfl
  exact (if_neg (by simp [type, trained])).trans (if_pos bad)

end linkCtrl

/-- A port whose neighbour goes down trains a second later, and holds nothing more to send. -/
theorem glGoingDown_spec (s : State) (p : GPort) :
    let u := s.glGoingDown p
    LinkWork s u ∧ u.gpState p = gpTraining ∧ u.get (GL_PORT_STATUS p) GL_PORT_STATUS.LAST_DOWN = 5
      ∧ (u.gport p).trainSince = some (s.clk + ms 1000) ∧ (u.gport p).replay = [] ∧ (u.gport p).txq = [] := by
  obtain ⟨v, dropped⟩ := glDrop_gport s p 5
  refine ⟨((glDrop_work s p 5).trans (gpTo_work _ p _)).trans (glTrain_work _ p _), glTrain_gpState _ _ p, ?_, ?_⟩
  · rw [State.glGoingDown, glTrain_status _ _ _ (by decide) (by decide), gpTo_status _ _ _ (by decide) (by decide),
      glDrop_lastDown _ _ (by decide)]
  · rw [State.glGoingDown, glTrain_gport, gpTo_gport, dropped]
    exact ⟨rfl, rfl, rfl⟩

/-- A bad frame is counted beside its codewords. -/
theorem crcCounted_spec (s : State) (p : Nat) (c : Fec) :
    let u := (s.glFec p c).bump (GL_PORT_CRC p) 1
    u = { s with regs := u.regs, perf := u.perf } ∧ KeepsRegs (fun a => a = GL_PORT_CRC p ∨ a ∈ fecAddrs p) s u
      ∧ u.get (GL_PORT_CRC p) count32 = min (s.get (GL_PORT_CRC p) count32 + 1) 0xFFFFFFFF
      ∧ u.get (GL_PORT_FEC_UNCORR p) count32 = min (s.get (GL_PORT_FEC_UNCORR p) count32 + c.uncorr) 0xFFFFFFFF := by
  intro u
  have other : GL_PORT_CRC p ∉ fecAddrs p := by
    rw [GL_PORT_CRC, Nat.add_assoc]
    exact notMem_fecAddrs p (.inr (by omega))
  have apart : GL_PORT_FEC_UNCORR p ≠ GL_PORT_CRC p := fun same =>
    other (same ▸ List.mem_cons_of_mem _ List.mem_cons_self)
  refine ⟨?_, ((glFec_keepsRegs s p c).mono fun _ => .inr).trans (set_keepsRegs (.inl rfl) _ _ _), ?_, ?_⟩
  · obtain ⟨r, x, counted⟩ := glFec_only s p c
    simp only [u, counted]
    rfl
  · rw [State.get_bump_same, (glFec_keepsRegs s p c).get other]
  · rw [State.get_bump_ne _ _ _ apart, glFec_uncorr]

/-! ### Frames of VC0 to VC3 at an UP port (R262, R267, R268) -/

section frames

variable {s : State} {p : GPort} {f : GFrame} {c : Fec} (up : s.gpState p = gpUp) (type : 2 ≤ f.type)

include up type

/-- A frame that is bad neither by its codewords nor by its CRC is not counted as bad. -/
theorem glFrameReceive_of_whole (whole : c.uncorr = 0) (fit : f.crc = gCrc f ∨ f.crc = ~~~gCrc f) :
    let s1 := (s.glFec p c).heardOn p
    exec (.glFrameReceive p ⟨f, c⟩) s
      = if f.crc = ~~~gCrc f then
          if f.lseq = (s.gport p).expect
            then .next ((((s1.bump (GL_PORT_STOMP p) 1).glInOrder p).stomp f).giveBack p (f.vc % 4) (gUnits f))
            else .next (s1.bump (GL_PORT_STOMP p) 1)
        else if f.lseq = (s.gport p).expect then .next (((s1.glInOrder p).tallyX 0xB02 p f.payload.length).glServe p f)
        else if seqBehind f.lseq (s.gport p).expect then .next (s1.modGport p fun v => { v with ackDue := true })
        else if (s.gport p).lost then .next s1
        else .next (s1.glNak p) := by
  intro s1
  have trained : gpTrained (s.gpState p) = true := by rw [up]; rfl
  have counts : ((decide (c.uncorr = 0) && f.crc == gCrc f) || (decide (c.uncorr = 0) && f.crc == ~~~gCrc f)) = true := by
    simpa [whole] using fit
  have held : s1.gport p = { s.gport p with lastRx := s.clk } := heard_gport_same s p c
  rw [show exec (.glFrameReceive p ⟨f, c⟩) s = execGlFrameReceive p ⟨f, c⟩ s from rfl, execGlFrameReceive]
  dsimp only
  rw [if_neg (by simp [trained, Nat.not_lt.2 type]), if_neg (not_not.2 up), counts, if_pos rfl]
  rw [show (s.glFec p c).modGport p (fun v => { v with lastRx := (s.glFec p c).clk }) = s1 from rfl, held]
  by_cases stomped : f.crc = ~~~gCrc f
  · rw [if_pos ⟨by simp [whole], stomped⟩, if_pos stomped]
  · have good : f.crc = gCrc f := fit.resolve_right stomped
    rw [if_neg fun both => stomped both.2, if_neg stomped, if_neg (by simp [whole, good])]

theorem glFrameReceive_of_bad (bad : c.uncorr ≠ 0 ∨ (f.crc ≠ gCrc f ∧ f.crc ≠ ~~~gCrc f)) :
    let s2 := ((s.glFec p c).bump (GL_PORT_CRC p) 1).heardOn p
    exec (.glFrameReceive p ⟨f, c⟩) s = .next ((if f.lseq = (s.gport p).expect then s2.stomp f else s2).glNak p) := by
  intro s2
  have trained : gpTrained (s.gpState p) = true := by rw [up]; rfl
  have good : (decide (c.uncorr = 0) && f.crc == gCrc f) = false := by
    rcases bad with torn | ⟨wrong, _⟩
    · simp [torn]
    · simp [wrong]
  have stomped : (decide (c.uncorr = 0) && f.crc == ~~~gCrc f) = false := by
    rcases bad with torn | ⟨_, wrong⟩
    · simp [torn]
    · simp [wrong]
  have held : s2.gport p = { s.gport p with lastRx := s.clk } := (heardOn_gport_same _ p).trans (by
    rw [State.bump_gport_, glFec_gport, State.bump_clk, glFec_clk])
  rw [show exec (.glFrameReceive p ⟨f, c⟩) s = execGlFrameReceive p ⟨f, c⟩ s from rfl, execGlFrameReceive]
  dsimp only
  rw [if_neg (by simp [trained, Nat.not_lt.2 type]), if_neg (not_not.2 up), good, stomped, if_neg (by simpa using stomped)]
  change Host.Outcome.next ((if f.lseq = (s2.gport p).expect then s2.stomp f else s2).glNak p) = _
  rw [held]

theorem glFrameReceive_of_next (whole : c.uncorr = 0) (good : f.crc = gCrc f) (kept : f.crc ≠ ~~~gCrc f)
    (next : f.lseq = (s.gport p).expect) : exec (.glFrameReceive p ⟨f, c⟩) s
      = .next (((((s.glFec p c).heardOn p).glInOrder p).tallyX 0xB02 p f.payload.length).glServe p f) := by
  rw [glFrameReceive_of_whole up type whole (.inl good), if_neg kept, if_pos next]

/-- A frame past the next one, where none is known lost, is asked for again. -/
theorem glFrameReceive_of_gap (whole : c.uncorr = 0) (good : f.crc = gCrc f) (kept : f.crc ≠ ~~~gCrc f)
    (past : f.lseq ≠ (s.gport p).expect) (ahead : seqBehind f.lseq (s.gport p).expect = false) (first : (s.gport p).lost = false) :
    exec (.glFrameReceive p ⟨f, c⟩) s = .next (((s.glFec p c).heardOn p).glNak p) := by
  rw [glFrameReceive_of_whole up type whole (.inl good), if_neg kept, if_neg past, ahead, first]
  rfl

theorem glFrameReceive_of_stomped (whole : c.uncorr = 0) (stomped : f.crc = ~~~gCrc f) :
    let s2 := ((s.glFec p c).heardOn p).bump (GL_PORT_STOMP p) 1
    exec (.glFrameReceive p ⟨f, c⟩) s = if f.lseq = (s.gport p).expect
      then .next (((s2.glInOrder p).stomp f).giveBack p (f.vc % 4) (gUnits f)) else .next s2 := by
  rw [glFrameReceive_of_whole up type whole (.inr stomped), if_pos stomped]

end frames

/-- What a frame received in sequence leaves before it is served. -/
theorem inOrder_spec (s : State) (p n : Nat) :
    ∃ t, (s.glInOrder p).tallyX 0xB02 p n = t ∧ LinkWork s t ∧ (∀ a, t.reg a = s.reg a) ∧ t.gl.rx = s.gl.rx
      ∧ t.gport p = { s.gport p with
          expect := ((s.gport p).expect + 1) % 4096, lost := false, got := true, ackDue := true } := by
  let t := (s.glInOrder p).tallyX 0xB02 p n
  have counted : PerfOnly (s.glInOrder p) t := tallyX_only _ _ _ _
  have gl : t.gl = (s.glInOrder p).gl := tallyX_gl _ _ _ _
  have port : t.gport p = (s.glInOrder p).gport p := tallyX_gport _ _ _ _ _
  refine ⟨t, rfl, (modGport_work s p _).trans counted.gl.work, fun a => counted.keepsRegs (fun _ => False) a id, ?_, ?_⟩
  · rw [gl]
    rfl
  · rw [port, State.glInOrder, State.gport_modGport_same]

theorem glServe_of_here {s : State} {f : GFrame} (p : Nat) (legal : gLegal f = true) (here : f.dest = s.addr)
    (known : gKnown f = true) : s.glServe p f = s.deliver p f := by
  rw [State.glServe, if_neg (by simp [legal]), if_neg (not_not.2 here), if_pos known]

theorem TB_TIME_notMem_fecAddrs (p : Nat) : TB_TIME ∉ fecAddrs p := by
  simp only [fecAddrs, GL_PORT_FEC_CORR, GL_PORT_FEC_UNCORR, TB_TIME, y4xWin, List.mem_cons, List.not_mem_nil, or_false]
  omega

/-- A frame in sequence for this module is delivered, and its acknowledgement is due. -/
theorem served_spec {s : State} {p : GPort} {f : GFrame} (c : Fec) (legal : gLegal f = true) (here : f.dest = s.addr)
    (known : gKnown f = true) :
    let u := ((((s.glFec p c).heardOn p).glInOrder p).tallyX 0xB02 p f.payload.length).glServe p f
    Apart s u ∧ u.gl.rx = s.gl.rx ++ [(p.val, f, s.now)] ∧ (u.gport p).expect = ((s.gport p).expect + 1) % 4096
      ∧ (u.gport p).ackDue = true := by
  obtain ⟨t, held, work, regs, rx, port⟩ := inOrder_spec ((s.glFec p c).heardOn p) p f.payload.length
  have heard := heard_keepsRegs s p c
  rw [heard_rx] at rx
  rw [heard_gport_same] at port
  have own : t.addr = s.addr := by
    rw [State.addr, State.get, regs]
    exact heard.get (a := GL_STATUS) (notMem_fecAddrs p (.inl (by decide))) _
  have now : t.now = s.now := by rw [State.now, regs, heard _ (TB_TIME_notMem_fecAddrs p), State.now]
  rw [held, glServe_of_here p legal (here.trans own.symm) known]
  refine ⟨((heard_work s p c).trans (work.trans (deliver_only t p f).work)).apart, ?_, ?_⟩
  · rw [← rx, ← now]
    rfl
  · rw [show (t.deliver p f).gport p = t.gport p from rfl, port]
    exact ⟨rfl, rfl⟩

/-- A NAK names the last good frame, and the frames up to the next are dropped. -/
theorem glNak_spec (s : State) (p : Nat) :
    let u := s.glNak p
    LinkWork s u ∧ u.gl.rx = s.gl.rx ∧ (∃ g, u.gl.out = s.gl.out ++ [(p, g)] ∧ g.type = 0 ∧ nbit g.tag 13 = true)
      ∧ (u.gport p).lost = true ∧ (u.gport p).expect = (s.gport p).expect ∧ ∀ q, q ≠ p → u.gport q = s.gport q := by
  intro u
  let t := s.modGport p fun v => { v with lost := true, nakDue := true }
  have noted : t.gport p = { s.gport p with lost := true, nakDue := true } := State.gport_modGport_same _ _ _
  have nak : nbit (t.linkCtrl p 0).tag 13 = true := (linkCtrl_tag t p (by decide)).2.trans (by rw [noted])
  refine ⟨(modGport_work s p _).trans (sendLinkCtrl_work t p 0), rfl, ⟨_, sendLinkCtrl_out t p 0, rfl, nak⟩, ?_, ?_,
    fun q other => (sendLinkCtrl_gport_ne t p 0 other).trans (State.gport_modGport_ne _ _ other)⟩
  all_goals rw [show u = t.sendLinkCtrl p 0 from rfl, sendLinkCtrl_gport_same, noted]

/-- A stomped frame out of sequence is only counted. -/
theorem stompCounted_spec (s : State) (p : Nat) (c : Fec) :
    let u := ((s.glFec p c).heardOn p).bump (GL_PORT_STOMP p) 1
    Apart s u ∧ KeepsRegs (fun a => a = GL_PORT_STOMP p ∨ a ∈ fecAddrs p) s u ∧ u.gl.rx = s.gl.rx
      ∧ u.get (GL_PORT_STOMP p) count32 = min (s.get (GL_PORT_STOMP p) count32 + 1) 0xFFFFFFFF
      ∧ (u.gport p).expect = (s.gport p).expect := by
  intro u
  have other : GL_PORT_STOMP p ∉ fecAddrs p := by
    rw [GL_PORT_STOMP, Nat.add_assoc]
    exact notMem_fecAddrs p (.inr (by omega))
  refine ⟨((heard_work s p c).trans (set_work _ _ _ _)).apart,
    ((heard_keepsRegs s p c).mono fun _ => .inr).trans (set_keepsRegs (.inl rfl) _ _ _), heard_rx s p c, ?_, ?_⟩
  · rw [State.get_bump_same, (heard_keepsRegs s p c).get other]
  · rw [State.bump_gport_, heard_gport_same]

/-- The NAK that reaches RETRY_LIMIT is a flap. -/
theorem limitReached_spec {s : State} {p : GPort} {f : GFrame} (nak : nbit f.tag 13 = true)
    (limit : s.get GL_CTRL GL_CTRL.RETRY_LIMIT ≤ (s.gport p).naksWith f) :
    let u := s.glCtrlUp p f
    LinkWork s u ∧ u.gpState p = gpHold ∧ u.get (GL_PORT_STATUS p) GL_PORT_STATUS.LAST_DOWN = 3 := by
  intro u
  rw [show u = (s.noteCtrl p f).glFlap p 3 from glCtrlUp_of_limit nak limit]
  exact ⟨(noteCtrl_work s p f).trans (glFlap_work _ p 3), glFlap_gpState _ 3 p, glFlap_lastDown _ p (by decide)⟩

/-- Settles O23: each frame passes the guards of its kind, and what a port holds follows from what the frame says. -/
theorem galleryFramesComplete : Obligations.GalleryFramesComplete := by
  unfold Obligations.GalleryFramesComplete
  intro p f c s up v ack count limit fecRegs s1
  have heard : (s.glFec p c).heardOn p = s1 := heardOn_glFec s p c
  have port : ((s.glFec p c).heardOn p).gport p = { v with lastRx := s.clk } := heard_gport_same s p c
  have limitKept : ((s.glFec p c).heardOn p).get GL_CTRL GL_CTRL.RETRY_LIMIT = limit :=
    (heard_keepsRegs s p c).get (notMem_fecAddrs p (.inl (by decide))) _
  have naks : (((s.glFec p c).heardOn p).gport p).naksWith f = count := by rw [port]; rfl
  have fecs (a : Nat) (x : Nat) : a = x ∨ a ∈ fecAddrs p → a = x ∨ fecRegs a := by simp [fecAddrs, fecRegs]
  refine ⟨fun type whole good addressed stays empty fewer =>
      ⟨_, glLinkCtrl_of_good up type whole good addressed stays, ?_⟩,
    fun type whole good addressed stays nak reached =>
      ⟨_, glLinkCtrl_of_good up type whole good addressed stays, ?_⟩,
    fun type bad => ⟨_, glLinkCtrl_of_bad up type bad, ?_⟩,
    fun type whole good addressed goes => ⟨_, glLinkCtrl_of_goingDown up type whole good addressed goes, ?_⟩,
    fun type whole good kept next => ⟨?_, fun legal here known =>
      ⟨_, glFrameReceive_of_next up type whole good kept next, served_spec c legal here known⟩⟩,
    fun type whole good kept past ahead first => ?_, fun type bad => ?_,
    fun type whole stomped => ⟨fun next => ?_, fun past => ?_⟩⟩
  · obtain ⟨work, replay, lastRx, credits, out, others⟩ := glCtrlUp_spec (s := (s.glFec p c).heardOn p) (p := p) (f := f)
      (by rw [port]; exact empty) (fun nak => by rw [naks, limitKept]; exact fewer nak)
    rw [port] at replay lastRx credits out
    rw [heard_out] at out
    exact ⟨((heard_work s p c).trans work).apart, replay, lastRx, credits, out,
      fun q other => (others q other).trans (heard_gport_ne s p c other)⟩
  · obtain ⟨work, holds, last⟩ := limitReached_spec (s := (s.glFec p c).heardOn p) (p := p) nak
      (by rw [naks, limitKept]; exact reached)
    exact ⟨((heard_work s p c).trans work).apart, holds, last⟩
  · obtain ⟨only, regs, crc, uncorr⟩ := crcCounted_spec s p c
    exact ⟨only, regs.mono fun a => fecs a _, crc, uncorr⟩
  · obtain ⟨work, state, last, since, empty⟩ := glGoingDown_spec ((s.glFec p c).heardOn p) p
    rw [heard_clk] at since
    exact ⟨((heard_work s p c).trans work).apart, state, last, since, empty⟩
  · rw [glFrameReceive_of_next up type whole good kept next, heard]
  · obtain ⟨work, rx, ⟨g, out, ctrl, nak⟩, lost, expect, others⟩ := glNak_spec ((s.glFec p c).heardOn p) p
    rw [heard_rx] at rx
    rw [heard_out] at out
    rw [port] at expect
    exact ⟨_, g, glFrameReceive_of_gap up type whole good kept past ahead first, ((heard_work s p c).trans work).apart, rx, out, ctrl,
      nak, lost, expect, fun q other => (others q other).trans (heard_gport_ne s p c other)⟩
  · rw [glFrameReceive_of_bad up type bad, State.heardOn, State.bump_clk, glFec_clk]
  · rw [glFrameReceive_of_stomped up type whole stomped, if_pos next, heard]
  · obtain ⟨apart, regs, rx, stomp, expect⟩ := stompCounted_spec s p c
    exact ⟨_, (glFrameReceive_of_stomped up type whole stomped).trans (if_neg past), apart, regs.mono fun a => fecs a _, rx, stomp,
      expect⟩

end Sys2Proof.Machine
end

section
/-! SUPPORT. The step and the front of the queue; the memory after reset. -/

namespace Sys2Proof.Machine

/-- Settles O1: `step` is `exec` on a queue that is not empty. -/
theorem stepRunsFrontCommand : Obligations.StepRunsFrontCommand := by
  unfold Obligations.StepRunsFrontCommand
  intro c q s front
  exact step_cons front

/-- Settles O59: no cell is stored at reset. -/
theorem memoryCanonicalAtReset : Obligations.MemoryCanonicalAtReset := by
  unfold Obligations.MemoryCanonicalAtReset Memory.wf
  exact ⟨rfl, rfl, rfl, rfl⟩

end Sys2Proof.Machine
end

section
/-! SUPPORT. What it takes for a function of the model to keep the stored memory in its canonical form (log entry 3): `KeepsWf s u` for
a state `u` reached from `s`, `OutKeeps s o` for what a command answers, `Preserves I x` for work that may end in an error. -/

namespace Sys2Proof.Machine

section
variable {s u v : State}

/-! ### One rule per shape that a function's body has -/

theorem KeepsWf.same (h : KeepsWf s u) (k : SameCells u v) : KeepsWf s v := h.trans k.keeps

/-- A record update that names none of the four stored maps. -/
theorem KeepsWf.update {clk regs perf chambers saves tun tunOff scrubs tunCount flush ytlb arbs arm mcast inval move moveWait
    regionCount g7Used gl logs disp sy cask pw svc fuses hostRead freeCtr pending} (h : KeepsWf s u) :
    KeepsWf s { clk, regs, perf, mem := u.mem, chk := u.chk, poison := u.poison, chambers, saves, tun, tunOff,
                tunNoise := u.tunNoise, scrubs, tunCount, flush, ytlb, arbs, arm, mcast, inval, move, moveWait, regionCount,
                g7Used, gl, logs, disp, sy, cask, pw, svc, fuses, hostRead, freeCtr, pending } :=
  h.same ⟨rfl, rfl, rfl, rfl⟩

theorem KeepsWf.ite {c : Prop} [Decidable c] (h : KeepsWf s u) (k : KeepsWf s v) : KeepsWf s (if c then u else v) := by
  split
  · exact h
  · exact k

theorem KeepsWf.getD {o : Option State} (f : ∀ v, o = some v → KeepsWf s v) (h : KeepsWf s u) : KeepsWf s (o.getD u) := by
  cases o with
  | none => exact h
  | some v => exact f v rfl

theorem KeepsWf.foldl {α : Type} {l : List α} {f : State → α → State} (step : ∀ v a, KeepsWf s v → KeepsWf s (f v a))
    (h : KeepsWf s u) : KeepsWf s (l.foldl f u) := by
  induction l generalizing u with
  | nil => exact h
  | cons a l ih => exact ih (step u a h)

theorem KeepsWf.foldl_snd {α β : Type} {l : List α} {f : β × State → α → β × State} {x : β × State}
    (step : ∀ x a, KeepsWf s x.2 → KeepsWf s (f x a).2) (h : KeepsWf s x.2) : KeepsWf s (l.foldl f x).2 := by
  induction l generalizing x with
  | nil => exact h
  | cons a l ih => exact ih (step x a h)

theorem KeepsWf.foldl_fst {α β : Type} {l : List α} {f : State × β → α → State × β} {x : State × β}
    (step : ∀ x a, KeepsWf s x.1 → KeepsWf s (f x a).1) (h : KeepsWf s x.1) : KeepsWf s (l.foldl f x).1 := by
  induction l generalizing x with
  | nil => exact h
  | cons a l ih => exact ih (step x a h)

theorem KeepsWf.inFst {α : Type} {a : α} (h : KeepsWf s v) : KeepsWf s (v, a).1 := h

theorem KeepsWf.inSnd {α : Type} {a : α} (h : KeepsWf s v) : KeepsWf s (a, v).2 := h

/-! The state that a match takes out of a result. -/

theorem KeepsWf.of_fst {α : Type} {r : State × α} {a : α} (e : r = (v, a)) (h : KeepsWf s r.1) : KeepsWf s v := by
  subst e
  exact h

theorem KeepsWf.of_snd {α : Type} {r : α × State} {a : α} (e : r = (a, v)) (h : KeepsWf s r.2) : KeepsWf s v := by
  subst e
  exact h

theorem KeepsWf.of_thd {α β : Type} {r : α × β × State} {a : α} {b : β} (e : r = (a, b, v)) (h : KeepsWf s r.2.2) : KeepsWf s v := by
  subst e
  exact h

/-- Whatever next state a command answers keeps the stored memory canonical. -/
def OutKeeps (s : State) (o : Out) : Prop := ∀ v, o = .next v → KeepsWf s v

theorem OutKeeps.next (h : KeepsWf s u) : OutKeeps s (.next u) := fun v e => by
  cases e
  exact h

theorem OutKeeps.ite {c : Prop} [Decidable c] {o p : Out} (h : OutKeeps s o) (k : OutKeeps s p) : OutKeeps s (if c then o else p) := by
  split
  · exact h
  · exact k

end

/-! ### Work that may end in an error, over a state -/

/-- Whether work that may end in an error leaves what `I` says of its state. -/
def Preserves {σ ε α : Type} (I : σ → Prop) (x : ExceptT ε (StateM σ) α) : Prop := ∀ m, I m → I (x.run.run m).2

/-- What a reading of metadata keeps: the stored memory stays canonical. -/
abbrev LmKeeps (s : State) (m : LMS) : Prop := KeepsWf s m.s

section
variable {σ ε α β : Type} {I : σ → Prop}

theorem Preserves.result {x : ExceptT ε (StateM σ) α} {m m' : σ} {r : Except ε α} (e : x.run.run m = (r, m')) (h : Preserves I x)
    (hm : I m) : I m' := by
  have k := h m hm
  rw [e] at k
  exact k

theorem Preserves.done {a : α} : Preserves I (pure a : ExceptT ε (StateM σ) α) := fun _ h => h

theorem Preserves.fail {e : ε} : Preserves I (throw e : ExceptT ε (StateM σ) α) := fun _ h => h

theorem Preserves.getting : Preserves I (get : ExceptT ε (StateM σ) σ) := fun _ h => h

theorem Preserves.writing {m : σ} (h : I m) : Preserves I (set m : ExceptT ε (StateM σ) PUnit) := fun _ _ => h

theorem Preserves.changing {f : σ → σ} (h : ∀ m, I m → I (f m)) : Preserves I (modify f : ExceptT ε (StateM σ) PUnit) := h

theorem Preserves.andThen {x : ExceptT ε (StateM σ) α} {f : α → ExceptT ε (StateM σ) β} (h : Preserves I x)
    (g : ∀ a, Preserves I (f a)) : Preserves I (x >>= f) := by
  intro m hm
  have k := h m hm
  rw [ExceptT.run_bind, StateT.run_bind]
  rcases r : StateT.run x.run m with ⟨_ | a, m'⟩
  · rw [r] at k
    exact k
  · rw [r] at k
    exact g a m' k

theorem Preserves.reading {f : σ → ExceptT ε (StateM σ) β} (g : ∀ m, I m → I ((f m).run.run m).2) : Preserves I (get >>= f) := g

theorem Preserves.ite {c : Prop} [Decidable c] {x y : ExceptT ε (StateM σ) α} (h : Preserves I x) (g : Preserves I y) :
    Preserves I (if c then x else y) := by
  split
  · exact h
  · exact g

/-- `if c then x` before the rest of a block. -/
theorem Preserves.checked {c : Prop} [Decidable c] {x : ExceptT ε (StateM σ) Unit} {f : Unit → ExceptT ε (StateM σ) β}
    (h : Preserves I x) (k : ∀ a, Preserves I (f a)) : Preserves I (if c then x >>= f else f ()) := .ite (.andThen h k) (k ())

/-- `let a ← if c then x else y` before the rest of a block. -/
theorem Preserves.either {c : Prop} [Decidable c] {x y : ExceptT ε (StateM σ) α} {f : α → ExceptT ε (StateM σ) β}
    (h : Preserves I x) (g : Preserves I y) (k : ∀ a, Preserves I (f a)) : Preserves I (if c then x >>= f else y >>= f) :=
  .ite (.andThen h k) (.andThen g k)

theorem Preserves.folding {f : β → α → ExceptT ε (StateM σ) β} {l : List α} {b : β} (h : ∀ b a, Preserves I (f b a)) :
    Preserves I (l.foldlM f b) := by
  induction l generalizing b with
  | nil => exact .done
  | cons a l ih => exact .andThen (h b a) fun _ => ih

theorem Preserves.mapping {f : α → ExceptT ε (StateM σ) β} {l : List α} (h : ∀ a, Preserves I (f a)) : Preserves I (l.mapM f) := by
  induction l with
  | nil => exact .done
  | cons a l ih =>
    rw [List.mapM_cons]
    exact .andThen (h a) fun _ => .andThen ih fun _ => .done

end

end Sys2Proof.Machine
end

section
/-! SUPPORT. The stored memory stays canonical through the named operations (Machine/Ops): one lemma
per function, along the calls that it makes. -/

namespace Sys2Proof.Machine

variable {s u v : State}

theorem KeepsWf.setReg {a : Nat} {v : Word} (h : KeepsWf s u) : KeepsWf s (u.setReg a v) := h.trans (setReg_only ..).cells.keeps

theorem KeepsWf.set {a : Nat} {f : Fld} {a3 : Nat} (h : KeepsWf s u) : KeepsWf s (u.set a f a3) := h.trans (set_only ..).cells.keeps

theorem KeepsWf.bump {a k : Nat} (h : KeepsWf s u) : KeepsWf s (u.bump a k) := h.trans (bump_only ..).cells.keeps

theorem KeepsWf.recFault {a : Nat} {code lost : Fld} {c : Nat} {more : List (Fld × Nat)} (h : KeepsWf s u) :
    KeepsWf s (u.recFault a code lost c more) :=
  h.trans (recFault_only ..).cells.keeps

theorem KeepsWf.free (h : KeepsWf s u) : KeepsWf s u.free.2 := .update h

theorem KeepsWf.setCh {n : Nat} {c : Chamber} (h : KeepsWf s u) : KeepsWf s (u.setCh n c) := h.trans (setCh_only ..).cells.keeps

theorem KeepsWf.modCh {n : Nat} {f : Chamber → Chamber} (h : KeepsWf s u) : KeepsWf s (u.modCh n f) := h.trans (modCh_only ..).cells.keeps

theorem KeepsWf.setTask {n t : Nat} {k : Task} (h : KeepsWf s u) : KeepsWf s (u.setTask n t k) := h.trans (setTask_only ..).cells.keeps

theorem KeepsWf.modTask {n t : Nat} {f : Task → Task} (h : KeepsWf s u) : KeepsWf s (u.modTask n t f) :=
  h.trans (modTask_only ..).cells.keeps

theorem KeepsWf.setSlot {n i : Nat} {v : Slot} (h : KeepsWf s u) : KeepsWf s (u.setSlot n i v) := .modCh h

theorem KeepsWf.setEng {n e : Nat} {v : Engine} (h : KeepsWf s u) : KeepsWf s (u.setEng n e v) := .modCh h

theorem KeepsWf.setRegion {n r : Nat} {v : Region} (h : KeepsWf s u) : KeepsWf s (u.setRegion n r v) := .modCh h

theorem KeepsWf.setTstate {n t st : Nat} (h : KeepsWf s u) : KeepsWf s (u.setTstate n t st) := h.trans (setTstate_only ..).cells.keeps

theorem KeepsWf.showWindow {n t : Nat} (h : KeepsWf s u) : KeepsWf s (u.showWindow n t) := h.trans (showWindow_only ..).cells.keeps

theorem KeepsWf.progress {n t : Nat} (h : KeepsWf s u) : KeepsWf s (u.progress n t) := .modTask h

theorem KeepsWf.taskFault {n t code id : Nat} (h : KeepsWf s u) : KeepsWf s (u.taskFault n t code id) :=
  h.trans (taskFault_only ..).cells.keeps

theorem KeepsWf.abortFrom {n t code : Nat} (h : KeepsWf s u) : KeepsWf s (u.abortFrom n t code) := h.trans (abortFrom_only ..).cells.keeps

theorem KeepsWf.tally {n ev : Nat} {w : Whose} {k : Nat} (h : KeepsWf s u) : KeepsWf s (u.tally n ev w k) :=
  h.trans (tally_only ..).cells.keeps

theorem KeepsWf.tallyX {ev inst k : Nat} (h : KeepsWf s u) : KeepsWf s (u.tallyX ev inst k) := h.trans (tallyX_only ..).cells.keeps

theorem KeepsWf.modLogs {f : Logs → Logs} (h : KeepsWf s u) : KeepsWf s (u.modLogs f) := h.trans (modLogs_only ..).cells.keeps

theorem KeepsWf.logGrows {k : Nat} (h : KeepsWf s u) : KeepsWf s (u.logGrows k) := h.trans (logGrows_only ..).cells.keeps

theorem KeepsWf.keepLog {f : Logs → Logs} (h : KeepsWf s u) : KeepsWf s (u.keepLog f) := h.trans (keepLog_only ..).cells.keeps

theorem KeepsWf.showFifo (h : KeepsWf s u) : KeepsWf s u.showFifo := h.trans (showFifo_only ..).cells.keeps

theorem KeepsWf.record {code source arg kind : Nat} {detail : List Word} (h : KeepsWf s u) :
    KeepsWf s (u.record code source arg kind detail) :=
  h.trans (record_only ..).cells.keeps

theorem KeepsWf.pushEvent {code source arg : Nat} (h : KeepsWf s u) : KeepsWf s (u.pushEvent code source arg) :=
  h.trans (pushEvent_only ..).cells.keeps

theorem KeepsWf.event {code source arg : Nat} (h : KeepsWf s u) : KeepsWf s (u.event code source arg) :=
  h.trans (event_only ..).cells.keeps

theorem KeepsWf.modSvc {f : Svc → Svc} (h : KeepsWf s u) : KeepsWf s (u.modSvc f) := h.trans (modSvc_only ..).cells.keeps

theorem KeepsWf.recalPorts (h : KeepsWf s u) : KeepsWf s u.recalPorts := h.trans (recalPorts_only ..).cells.keeps

theorem KeepsWf.showChange (h : KeepsWf s u) : KeepsWf s u.showChange := h.trans (showChange_only ..).cells.keeps

theorem KeepsWf.showAout (h : KeepsWf s u) : KeepsWf s u.showAout := h.trans (showAout_only ..).cells.keeps

theorem KeepsWf.showFollow (h : KeepsWf s u) : KeepsWf s u.showFollow := .ite h (.showAout h)

theorem KeepsWf.fenceStart {n : Nat} (h : KeepsWf s u) : KeepsWf s (u.fenceStart n) := h.trans (fenceStart_only ..).cells.keeps

theorem KeepsWf.fenceAsk {n : Nat} (h : KeepsWf s u) : KeepsWf s (u.fenceAsk n) := h.trans (fenceAsk_only ..).cells.keeps

theorem KeepsWf.endTask {n t code : Nat} (h : KeepsWf s u) : KeepsWf s (u.endTask n t code) := h.trans (endTask_only ..).cells.keeps

theorem KeepsWf.cmdDone {n r : Nat} (h : KeepsWf s u) : KeepsWf s (u.cmdDone n r) := h.trans (cmdDone_only ..).cells.keeps

theorem KeepsWf.settle {n t : Nat} (h : KeepsWf s u) : KeepsWf s (u.settle n t) := h.trans (settle_only ..).cells.keeps

theorem KeepsWf.complete {n t id : Nat} (h : KeepsWf s u) : KeepsWf s (u.complete n t id) := h.trans (complete_only ..).cells.keeps

theorem KeepsWf.settleAll {n : Nat} (h : KeepsWf s u) : KeepsWf s (u.settleAll n) := h.trans (settleAll_only ..).cells.keeps

end Sys2Proof.Machine
end

section
/-! SUPPORT. The stored memory stays canonical through sending Gallery frames (Machine/GlOps): one lemma
per function, along the calls that it makes. -/

namespace Sys2Proof.Machine

variable {s u v : State}

theorem KeepsWf.setGport {p : Nat} {v : GPortSt} (h : KeepsWf s u) : KeepsWf s (u.setGport p v) := h.trans (setGport_only ..).cells.keeps

theorem KeepsWf.modGport {p : Nat} {f : GPortSt → GPortSt} (h : KeepsWf s u) : KeepsWf s (u.modGport p f) := .setGport h

theorem KeepsWf.modGl {f : Gallery → Gallery} (h : KeepsWf s u) : KeepsWf s (u.modGl f) := h.trans (modGl_only ..).cells.keeps

theorem KeepsWf.setGpState {p st : Nat} (h : KeepsWf s u) : KeepsWf s (u.setGpState p st) := .set h

theorem KeepsWf.glEmit {p : Nat} {f : GFrame} (h : KeepsWf s u) : KeepsWf s (u.glEmit p f) := h.trans (glEmit_only ..).cells.keeps

theorem KeepsWf.giveBack {p vc k : Nat} (h : KeepsWf s u) : KeepsWf s (u.giveBack p vc k) := h.trans (giveBack_only ..).cells.keeps

theorem KeepsWf.giveBackAll {l : List (GFrame × Option Nat)} (h : KeepsWf s u) : KeepsWf s (u.giveBackAll l) :=
  h.trans (giveBackAll_only ..).cells.keeps

theorem KeepsWf.glDrain {fuel p : Nat} (h : KeepsWf s u) : KeepsWf s (glDrain fuel u p) := h.trans (glDrain_only ..).cells.keeps

theorem KeepsWf.markStall {p : Nat} (h : KeepsWf s u) : KeepsWf s (u.markStall p) := .modGport h

theorem KeepsWf.glPump {p : Nat} (h : KeepsWf s u) : KeepsWf s (u.glPump p) := h.trans (glPump_only ..).cells.keeps

theorem KeepsWf.glSendFrom {p : Nat} {f : GFrame} {from_ : Option Nat} (h : KeepsWf s u) : KeepsWf s (u.glSendFrom p f from_) :=
  .glPump <| .modGport h

theorem KeepsWf.glSend {p : Nat} {f : GFrame} (h : KeepsWf s u) : KeepsWf s (u.glSend p f) := h.trans (glSend_only ..).cells.keeps

theorem KeepsWf.deliver {p : Nat} {f : GFrame} (h : KeepsWf s u) : KeepsWf s (u.deliver p f) := h.trans (deliver_only ..).cells.keeps

theorem KeepsWf.originate {f : GFrame} (h : KeepsWf s u) : KeepsWf s (u.originate f).1 := h.trans (originate_only ..).cells.keeps

theorem KeepsWf.e2eFail {dest status type tag n : Nat} (h : KeepsWf s u) : KeepsWf s (u.e2eFail dest status type tag n) :=
  h.trans (e2eFail_only ..).cells.keeps

theorem KeepsWf.request {f : GFrame} {why : TxnFor} (h : KeepsWf s u) : KeepsWf s (u.request f why).1 :=
  h.trans (request_only ..).cells.keeps

theorem KeepsWf.sendOff {f : GFrame} (h : KeepsWf s u) : KeepsWf s (u.sendOff f) := h.trans (sendOff_only ..).cells.keeps

theorem KeepsWf.respond {f : GFrame} {status : Nat} {data : List Byte} {poison : Bool} (h : KeepsWf s u) :
    KeepsWf s (u.respond f status data poison) :=
  h.trans (respond_only ..).cells.keeps

end Sys2Proof.Machine
end

section
/-! SUPPORT. The stored memory stays canonical through register reads and writes (Machine/RegOps): one lemma
per function, along the calls that it makes. -/

namespace Sys2Proof.Machine

variable {s u v : State}

theorem KeepsWf.poke {a : Nat} {v : Word} (h : KeepsWf s u) : KeepsWf s (u.poke a v) := h.trans (poke_cells ..).keeps

theorem KeepsWf.readReg {a : Nat} {w : Word} (e : u.readReg a = some (w, v)) (h : KeepsWf s u) : KeepsWf s v := h.same (readReg_cells e)

theorem KeepsWf.markMixed {a : Nat} (h : KeepsWf s u) : KeepsWf s (u.markMixed a) := h.trans (markMixed_cells ..).keeps

theorem KeepsWf.pcFreeze {base : Nat} {f : Bool} (h : KeepsWf s u) : KeepsWf s (u.pcFreeze base f) := h.trans (pcFreeze_cells ..).keeps

theorem KeepsWf.pcClear {base : Nat} (h : KeepsWf s u) : KeepsWf s (u.pcClear base) := h.trans (pcClear_cells ..).keeps

theorem KeepsWf.pcArm {base : Nat} {new : Word} (h : KeepsWf s u) : KeepsWf s (u.pcArm base new) := h.trans (pcArm_cells ..).keeps

theorem KeepsWf.takeSeed {n : Nat} (h : KeepsWf s u) : KeepsWf s (u.takeSeed n) := h.trans (takeSeed_cells ..).keeps

theorem KeepsWf.writeReg {a : Nat} {v : Word} (h : KeepsWf s u) : KeepsWf s (u.writeReg a v) := h.trans (writeReg_cells ..).keeps

end Sys2Proof.Machine
end

section
/-! SUPPORT. The stored memory stays canonical through the memory operations (Machine/MemOps): one lemma
per function, along the calls that it makes. -/

namespace Sys2Proof.Machine

variable {s u v : State}

theorem KeepsWf.setByte {pa : Nat} {b : Byte} (h : KeepsWf s u) : KeepsWf s (u.setByte pa b) := h.trans (setByte_wf ..)

theorem KeepsWf.storeBytes {pa : Nat} {l : List Byte} (h : KeepsWf s u) : KeepsWf s (storeBytes u pa l) := h.trans (storeBytes_wf ..)

theorem KeepsWf.setNoise {cw i : Nat} {b : Byte} (h : KeepsWf s u) : KeepsWf s (u.setNoise cw i b) := h.trans (setNoise_wf ..)

theorem KeepsWf.dropNoise {p : Nat → Bool} (h : KeepsWf s u) : KeepsWf s (u.dropNoise p) := h.trans (dropNoise_wf ..)

theorem KeepsWf.setPoison {cw : Nat} {b : Byte} (h : KeepsWf s u) : KeepsWf s (u.setPoison cw b) := h.trans (setPoison_wf ..)

theorem KeepsWf.setChk {cw : Nat} {l : List Byte} (h : KeepsWf s u) : KeepsWf s (u.setChk cw l) := h.trans (setChk_wf ..)

theorem KeepsWf.putRaw {cw : Nat} {l : List Byte} {flags : Byte} (h : KeepsWf s u) : KeepsWf s (u.putRaw cw l flags) :=
  h.trans (putRaw_wf ..)

theorem KeepsWf.putTun {cw : Nat} {l : List Byte} {flags : Byte} (h : KeepsWf s u) : KeepsWf s (u.putTun cw l flags) :=
  h.trans (putTun_wf ..)

theorem KeepsWf.putSeen {cw : Nat} {l : List Byte} {flags : Byte} (h : KeepsWf s u) : KeepsWf s (u.putSeen cw l flags) :=
  h.trans (putSeen_wf ..)

theorem KeepsWf.putCw {cw : Nat} {data : List Byte} {poison : Bool} (h : KeepsWf s u) : KeepsWf s (u.putCw cw data poison) :=
  h.trans (putCw_wf ..)

theorem KeepsWf.putDram {cw : Nat} {l : List Byte} {flags : Byte} (h : KeepsWf s u) : KeepsWf s (u.putDram cw l flags) :=
  h.trans (putDram_wf ..)

theorem KeepsWf.upset {u1 : Upset} (h : KeepsWf s u) : KeepsWf s (u.upset u1) := h.trans (upset_wf ..)

theorem KeepsWf.upsetDram {u1 : Upset} (h : KeepsWf s u) : KeepsWf s (u.upsetDram u1) := h.trans (upsetDram_wf ..)

theorem KeepsWf.errLog {a : Nat} {valid ovr : Fld} {fs : List (Fld × Nat)} (h : KeepsWf s u) : KeepsWf s (u.errLog a valid ovr fs) :=
  h.trans (errLog_only ..).cells.keeps

theorem KeepsWf.retireRow {n tier row : Nat} (h : KeepsWf s u) : KeepsWf s (u.retireRow n tier row) := h.trans (retireRow_cells ..).keeps

theorem KeepsWf.spareRow {n tier row k : Nat} (h : KeepsWf s u) : KeepsWf s (u.spareRow n tier row k) := by
  unfold State.spareRow
  exact .modCh <| .set h

theorem KeepsWf.retireRegion {r : Nat} (h : KeepsWf s u) : KeepsWf s (u.retireRegion r) := h.trans (retireRegion_cells ..).keeps

theorem KeepsWf.cellarError {n tier row cw : Nat} {uncorr scrub : Bool} (h : KeepsWf s u) :
    KeepsWf s (u.cellarError n tier row cw uncorr scrub) :=
  h.trans (cellarError_cells ..).keeps

theorem KeepsWf.pocketError {n o : Nat} {uncorr scrub : Bool} (h : KeepsWf s u) : KeepsWf s (u.pocketError n o uncorr scrub) :=
  h.trans (pocketError_cells ..).keeps

theorem KeepsWf.storeBack {line : Nat} (h : KeepsWf s u) : KeepsWf s (u.storeBack line).1 := h.trans (storeBack_wf ..)

theorem KeepsWf.tunFound {cw : Nat} {dirty uncorr scrub : Bool} (h : KeepsWf s u) : KeepsWf s (u.tunFound cw dirty uncorr scrub).1 :=
  h.trans (tunFound_cells ..).keeps

theorem KeepsWf.disableWay {line way : Nat} (h : KeepsWf s u) : KeepsWf s (u.disableWay line way) := h.trans (disableWay_wf ..)

theorem KeepsWf.tunError {cw : Nat} {dirty uncorr scrub : Bool} (h : KeepsWf s u) : KeepsWf s (u.tunError cw dirty uncorr scrub) :=
  h.trans (tunError_wf ..)

theorem KeepsWf.wroteBack {line : Nat} (h : KeepsWf s u) : KeepsWf s (u.wroteBack line) := h.trans (wroteBack_wf ..)

theorem KeepsWf.g7Error {a : Nat} {uncorr scrub : Bool} (h : KeepsWf s u) : KeepsWf s (u.g7Error a uncorr scrub) :=
  h.trans (g7Error_cells ..).keeps

theorem KeepsWf.tunRoom {fuel line : Nat} (h : KeepsWf s u) : KeepsWf s (tunRoom fuel u line) := h.trans (tunRoom_wf ..)

theorem KeepsWf.tunInsert {line hint : Nat} {dirty : Bool} (h : KeepsWf s u) : KeepsWf s (u.tunInsert line hint dirty) :=
  h.trans (tunInsert_wf ..)

theorem KeepsWf.tunUse {line hint : Nat} {write : Bool} (h : KeepsWf s u) : KeepsWf s (u.tunUse line hint write) :=
  h.trans (tunUse_cells ..).keeps

theorem KeepsWf.readDram {cw : Nat} {scrub : Bool} (h : KeepsWf s u) : KeepsWf s (u.readDram cw scrub).2.2 := h.trans (readDram_wf ..)

theorem KeepsWf.fillLine {line : Nat} (h : KeepsWf s u) : KeepsWf s (u.fillLine line) := h.trans (fillLine_wf ..)

theorem KeepsWf.readCw {cw : Nat} {scrub : Bool} (h : KeepsWf s u) : KeepsWf s (u.readCw cw scrub).2.2 := h.trans (readCw_wf ..)

theorem KeepsWf.readSpan {fuel pa k : Nat} {acc : List Byte} {p : Bool} (h : KeepsWf s u) : KeepsWf s (readSpan fuel u pa k acc p).2.2 :=
  h.trans (readSpan_wf ..)

theorem KeepsWf.readPa {pa k : Nat} (h : KeepsWf s u) : KeepsWf s (u.readPa pa k).2.2 := h.trans (readPa_wf ..)

theorem KeepsWf.writeCw {cw o : Nat} {l : List Byte} {poison : Bool} (h : KeepsWf s u) : KeepsWf s (u.writeCw cw o l poison) :=
  h.trans (writeCw_wf ..)

theorem KeepsWf.writeSpan {fuel pa : Nat} {l : List Byte} {poison : Bool} (h : KeepsWf s u) : KeepsWf s (writeSpan fuel u pa l poison) :=
  h.trans (writeSpan_wf ..)

theorem KeepsWf.taskReg {a : Nat} {l : List Byte} (h : KeepsWf s u) : KeepsWf s (u.taskReg a l) := h.trans (taskReg_cells ..).keeps

theorem KeepsWf.twinDirty {q k : Nat} (h : KeepsWf s u) : KeepsWf s (u.twinDirty q k) := h.trans (twinDirty_wf ..)

theorem KeepsWf.writePa {pa : Nat} {l : List Byte} {poison : Bool} (h : KeepsWf s u) : KeepsWf s (u.writePa pa l poison) :=
  h.trans (writePa_wf ..)

theorem KeepsWf.tunFill {line hint : Nat} {dirty : Bool} (h : KeepsWf s u) : KeepsWf s (u.tunFill line hint dirty) :=
  h.trans (tunFill_wf ..)

theorem KeepsWf.readLine {line : Nat} {merged : Nat → Bool} (h : KeepsWf s u) : KeepsWf s (u.readLine line merged) :=
  h.trans (readLine_wf ..)

theorem KeepsWf.tunAccess {line hint : Nat} {write whole : Bool} {merged : Nat → Bool} (h : KeepsWf s u) :
    KeepsWf s (u.tunAccess line hint write whole merged) :=
  h.trans (tunAccess_wf ..)

theorem KeepsWf.touch {pa k hint : Nat} {write : Bool} (h : KeepsWf s u) : KeepsWf s (u.touch pa k hint write) := h.trans (touch_wf ..)

theorem KeepsWf.orHeld (h : KeepsWf s u) (k : KeepsWf s v) : KeepsWf s (u.orHeld v) := .ite h k

theorem KeepsWf.tableWord {pa : Nat} (h : KeepsWf s u) : KeepsWf s (u.tableWord pa).2 := h.trans (tableWord_wf ..)

theorem KeepsWf.contextAt {pa : Nat} (h : KeepsWf s u) : KeepsWf s (u.contextAt pa).2 := h.trans (contextAt_wf ..)

theorem KeepsWf.contextWord {a1 : Nat} (h : KeepsWf s u) : KeepsWf s (u.contextWord a1).2 := h.trans (contextWord_wf ..)

theorem KeepsWf.tableAt {t i : Nat} (h : KeepsWf s u) : KeepsWf s (u.tableAt t i).2 := h.trans (tableAt_wf ..)

theorem KeepsWf.walk {a1 va : Nat} (h : KeepsWf s u) : KeepsWf s (u.walk a1 va).2 := h.trans (walk_wf ..)

theorem KeepsWf.tlbPut {n key leaf : Nat} (h : KeepsWf s u) : KeepsWf s (u.tlbPut n key leaf) := h.trans (tlbPut_cells ..).keeps

theorem KeepsWf.ytlbPut {key leaf : Nat} (h : KeepsWf s u) : KeepsWf s (u.ytlbPut key leaf) := h.trans (ytlbPut_cells ..).keeps

theorem KeepsWf.lookup {n a2 va : Nat} (h : KeepsWf s u) : KeepsWf s (u.lookup n a2 va).2 := h.trans (lookup_cells ..).keeps

theorem KeepsWf.walkFill {n a2 va : Nat} (h : KeepsWf s u) : KeepsWf s (u.walkFill n a2 va).2 := h.trans (walkFill_wf ..)

theorem KeepsWf.translate {n a2 va : Nat} {need : Need} (h : KeepsWf s u) : KeepsWf s (u.translate n a2 va need).2 :=
  h.trans (translate_wf ..)

theorem KeepsWf.memFaultReg {n t code va kind : Nat} (h : KeepsWf s u) : KeepsWf s (u.memFaultReg n t code va kind) :=
  h.trans (memFaultReg_only ..).cells.keeps

theorem KeepsWf.memFault {n t code va kind id : Nat} (h : KeepsWf s u) : KeepsWf s (u.memFault n t code va kind id) :=
  .taskFault <| .memFaultReg h

theorem KeepsWf.readPage {n t va k : Nat} {need : Need} (h : KeepsWf s u) : KeepsWf s (u.readPage n t va k need).2 :=
  h.trans (readPage_wf ..)

theorem KeepsWf.readVaAux {fuel n t va k : Nat} {need : Need} {acc : List Byte} {p : Bool} {first : Option Nat} (h : KeepsWf s u) :
    KeepsWf s (readVaAux fuel u n t va k need acc p first).2 :=
  h.trans (readVaAux_wf ..)

theorem KeepsWf.readVa {n t va k : Nat} {need : Need} (h : KeepsWf s u) : KeepsWf s (u.readVa n t va k need).2 := h.trans (readVa_wf ..)

theorem KeepsWf.consume {n t va k : Nat} (h : KeepsWf s u) : KeepsWf s (u.consume n t va k).2 := h.trans (consume_wf ..)

theorem KeepsWf.writeVaAux {fuel n t va : Nat} {l : List Byte} {need : Need} {poison : Bool} (h : KeepsWf s u) :
    KeepsWf s (writeVaAux fuel u n t va l need poison).2 :=
  h.trans (writeVaAux_wf ..)

theorem KeepsWf.writeVa {n t va : Nat} {l : List Byte} {need : Need} {poison : Bool} (h : KeepsWf s u) :
    KeepsWf s (u.writeVa n t va l need poison).2 :=
  h.trans (writeVa_wf ..)

end Sys2Proof.Machine
end

section
/-! SUPPORT. The stored memory stays canonical through operands (Machine/Operands): one lemma
per function, along the calls that it makes. -/

namespace Sys2Proof.Machine

variable {s u v : State}

theorem KeepsWf.setDesc {n t d : Nat} {v : BitVec 512} (h : KeepsWf s u) : KeepsWf s (u.setDesc n t d v) :=
  .foldl (fun _ _ k => .setReg k) h

end Sys2Proof.Machine
end

section
/-! SUPPORT. The stored memory stays canonical through arbiters (Machine/Arbiters): one lemma
per function, along the calls that it makes. -/

namespace Sys2Proof.Machine

variable {s u v : State}

theorem KeepsWf.setArb {k : Nat} {a : Arb} (h : KeepsWf s u) : KeepsWf s (u.setArb k a) := .update h

theorem KeepsWf.showHolder {k : Nat} (h : KeepsWf s u) : KeepsWf s (u.showHolder k) := .ite (.set h) h

theorem KeepsWf.arbRequest {k : Nat} {r : ArbReq} (h : KeepsWf s u) : KeepsWf s (u.arbRequest k r) := .setArb h

theorem KeepsWf.ask {q : ArbReq} {route : List (Nat × Nat)} (h : KeepsWf s u) : KeepsWf s (u.ask q route) :=
  .foldl (fun _ _ k => .ite k (.arbRequest k)) (.foldl (fun _ _ k => .ite (.setArb k) k) h)

theorem KeepsWf.arbGrant {k i : Nat} (h : KeepsWf s u) : KeepsWf s (u.arbGrant k i) := .showHolder <| .setArb <| .set <| .bump <| .bump h

theorem KeepsWf.arbMoved {q : ArbReq} {route : List (Nat × Nat)} (h : KeepsWf s u) : KeepsWf s (u.arbMoved q route) :=
  .foldl (fun _ _ k => .setArb k) h

theorem KeepsWf.pass {q : ArbReq} {route : List (Nat × Nat)} (h : KeepsWf s u) : KeepsWf s (u.pass q route) :=
  .foldl (fun _ _ k => .ite (.setArb k) k) h

theorem KeepsWf.arbitrate {q : ArbReq} {route : List (Nat × Nat)} {act : State → State} (f : ∀ v, KeepsWf s v → KeepsWf s (act v))
    (h : KeepsWf s u) : KeepsWf s (u.arbitrate q route act) := .ite (f _ (.arbMoved h)) (.ask <| .pass h)

theorem KeepsWf.arbWithdraw {n t : Nat} (h : KeepsWf s u) : KeepsWf s (u.arbWithdraw n t) := .foldl (fun _ _ k => .setArb k) h

theorem KeepsWf.arbRetag {g : ArbReq → Option ArbReq} (h : KeepsWf s u) : KeepsWf s (u.arbRetag g) := .foldl (fun _ _ k => .setArb k) h

theorem KeepsWf.showEngine {n e : Nat} (h : KeepsWf s u) : KeepsWf s (u.showEngine n e) :=
  .set <| .set <| .set <| .set <| .set <| .set <| .set <| .set h

theorem KeepsWf.putEng {n e : Nat} {en : Engine} (h : KeepsWf s u) : KeepsWf s (u.putEng n e en) := .showEngine <| .setEng h

theorem KeepsWf.showFlowWaits {n : Nat} (h : KeepsWf s u) : KeepsWf s (u.showFlowWaits n) := by
  unfold State.showFlowWaits
  split
  · exact h
  · exact .set <| .set h

theorem KeepsWf.showWaits {k : Nat} (h : KeepsWf s u) : KeepsWf s (u.showWaits k) := h.trans (showWaits_only ..).cells.keeps

theorem execArbPhase_keeps {a : ArbId} (h : KeepsWf s u) : OutKeeps s (execArbPhase a u) := by
  unfold execArbPhase
  extract_lets +onlyGivenNames _ _
  split
  · exact .next h
  · split
    · exact .next h
    · split
      · exact .next <| .showWaits <| .arbGrant h
      · exact .next <| .setArb h

theorem execArbRequestDrop_keeps {a : ArbId} (h : KeepsWf s u) : OutKeeps s (execArbRequestDrop a u) := by
  unfold execArbRequestDrop
  extract_lets +onlyGivenNames _ _
  split
  · exact .next h
  · split
    · exact .next h
    · split
      · exact .ite (.next <| .showWaits <| .arbGrant h) (.next <| .showHolder <| .setArb h)
      · exact .next <| .showHolder <| .setArb h

theorem execHoldWatchdogBite_keeps {a : ArbId} (h : KeepsWf s u) : OutKeeps s (execHoldWatchdogBite a u) := by
  unfold execHoldWatchdogBite
  extract_lets +onlyGivenNames _ _ _
  split
  · exact .next h
  · split
    · exact .next h
    · extract_lets +onlyGivenNames _
      split
      · extract_lets +onlyGivenNames _ v w _ _ _
        have k : KeepsWf s v := by
          refine .foldl (fun _ _ q => ?_) (.ite (.recFault h) (.recFault h))
          split
          · exact .ite q (.abortFrom q)
          · exact q
        have q : KeepsWf s w := .ite (.abortFrom k) k
        exact .next <| .modGl <| .setArb <| .ite q (.modSvc q)

theorem execForcedReleaseDone_keeps {a : ArbId} (h : KeepsWf s u) : OutKeeps s (execForcedReleaseDone a u) := by
  unfold execForcedReleaseDone
  extract_lets +onlyGivenNames _ _
  split
  · exact .ite (.next h) (.next <| .showHolder <| .setArb <| .modSvc h)
  · exact .next h

end Sys2Proof.Machine
end

section
/-! SUPPORT. The stored memory stays canonical through streams (Machine/StreamOps): one lemma
per function, along the calls that it makes. -/

namespace Sys2Proof.Machine

variable {s u v : State}

theorem KeepsWf.stFault {n t code e desc : Nat} {d : BitVec 512} {cause id : Nat} (h : KeepsWf s u) :
    KeepsWf s (u.stFault n t code e desc d cause id) :=
  .taskFault <| .set <| .set <| .set <| .set <| .set <| .recFault h

theorem KeepsWf.creditAdd {n k a3 : Nat} (h : KeepsWf s u) : KeepsWf s (u.creditAdd n k a3) := .set <| .ite (.set h) h

theorem KeepsWf.tileFault {n owner t id : Nat} {f : State → Nat → State} (step : ∀ v i, KeepsWf s v → KeepsWf s (f v i))
    (h : KeepsWf s u) : KeepsWf s (u.tileFault n owner t id f) := by
  unfold State.tileFault
  split
  · exact step _ _ h
  · extract_lets k w
    have q : KeepsWf s w := step _ _ h
    split
    · exact .ite q (.modTask q)
    · exact q

theorem KeepsWf.modArr {n tag id : Nat} {f : ArrInstr → ArrInstr} (h : KeepsWf s u) : KeepsWf s (u.modArr n tag id f) := .modCh h

theorem KeepsWf.raise {n e : Nat} {st : Start} {tr : Transfer} (h : KeepsWf s u) : KeepsWf s (u.raise n e st tr) := .ask h

theorem KeepsWf.storeMasked {cw : Nat} {l : List (Nat × Nat × Nat × Bool)} (h : KeepsWf s u) : KeepsWf s (u.storeMasked cw l) := by
  unfold State.storeMasked
  extract_lets poison
  split
  next d p v e =>
  have k : KeepsWf s v := by
    split at e
    · exact .of_thd e h
    · exact .of_thd e (.readCw h)
  extract_lets d w
  have q : KeepsWf s w := .putCw k
  split
  · exact .twinDirty <| .putCw q
  · exact q

theorem KeepsWf.storeAll {fuel : Nat} {l : List (Nat × Nat × Nat × Bool)} (h : KeepsWf s u) : KeepsWf s (storeAll fuel u l) := by
  induction fuel generalizing u l with
  | zero => exact h
  | succ fuel ih =>
    cases l with
    | nil => exact h
    | cons b r => exact ih (.storeMasked h)

theorem KeepsWf.modTransfer {n e no : Nat} {f : Transfer → Transfer} (h : KeepsWf s u) : KeepsWf s (u.modTransfer n e no f) := .setEng h

theorem KeepsWf.transferFailed {n e no va len tag dest st type : Nat} (h : KeepsWf s u) :
    KeepsWf s (u.transferFailed n e no va len tag dest st type) := by
  unfold State.transferFailed
  extract_lets +onlyGivenNames v _
  have k : KeepsWf s v := .e2eFail h
  exact .ite (.modTransfer k) (.abortFrom k)

theorem KeepsWf.mergeParts {n e : Nat} (h : KeepsWf s u) : KeepsWf s (u.mergeParts n e) := .setEng h

theorem KeepsWf.pumpWrites {n e : Nat} (h : KeepsWf s u) : KeepsWf s (u.pumpWrites n e) := by
  unfold State.pumpWrites
  extract_lets +onlyGivenNames _
  refine .foldl (fun _ _ k => ?_) (.mergeParts h)
  extract_lets +onlyGivenNames _
  split
  · split
    · extract_lets +onlyGivenNames _
      split
      · extract_lets +onlyGivenNames _ v _
        have q : KeepsWf s v := .modTransfer k
        split
        · next e => exact .modTransfer <| .of_fst e (.request q)
        · next e => exact .transferFailed <| .of_fst e (.request q)
      · exact k
    · exact k
  · exact k

theorem KeepsWf.nextPage {n : Nat} {st : Start} {tr : Transfer} (h : KeepsWf s u) : KeepsWf s (u.nextPage n st tr).2 := by
  unfold State.nextPage
  extract_lets +onlyGivenNames _
  split
  · exact h
  · split
    · next e => exact .of_snd e (.translate h)
    · next e =>
      have k := KeepsWf.of_snd e (.translate h)
      split
      · exact k
      · exact k

theorem KeepsWf.attach {n e : Nat} {st : Start} {tr : Transfer} {pa leaf : Nat} (h : KeepsWf s u) :
    KeepsWf s (u.attach n e st tr pa leaf) := by
  unfold State.attach
  extract_lets +onlyGivenNames _
  split
  · extract_lets +onlyGivenNames _
    split
    · next e =>
      have k := KeepsWf.of_snd e (.nextPage h)
      exact .tileFault (fun _ _ q => .memFault q) k
    · next e =>
      have k := KeepsWf.of_snd e (.nextPage h)
      extract_lets +onlyGivenNames _
      split
      · extract_lets +onlyGivenNames _ _
        split
        · extract_lets +onlyGivenNames _ _ _ _
          refine .pumpWrites ?_
          refine .foldl (fun _ _ q => ?_) (.raise <| .modTransfer k)
          extract_lets +onlyGivenNames _
          split
          · next e => exact .modTransfer <| .of_fst e (.request q)
          · next e => exact .transferFailed <| .of_fst e (.request q)
        · refine .foldl (fun _ _ q => ?_) (.raise <| .modTransfer k)
          extract_lets +onlyGivenNames _
          split
          · next e => exact .modTransfer <| .of_fst e (.request q)
          · next e => exact .transferFailed <| .of_fst e (.request q)
      · extract_lets +onlyGivenNames _
        split
        · exact .tileFault (fun _ _ q => .memFault q) k
        · extract_lets +onlyGivenNames _ _ _ _ v _ _ _ _
          have q : KeepsWf s v := by
            refine .foldl (fun _ _ r => ?_) k
            extract_lets +onlyGivenNames _
            split
            · exact .tallyX r
            · extract_lets +onlyGivenNames w
              have kept : KeepsWf s w := .tallyX r
              exact .ite (.tallyX kept) kept
          exact .raise <| .modTransfer q

theorem KeepsWf.readCws {l : List Nat} (h : KeepsWf s u) : KeepsWf s (readCws u l).2 := by
  unfold Sys2Proof.Machine.readCws
  refine .foldl_snd (fun x cw k => ?_) h
  split
  · exact k
  · split
    next e => exact .of_thd e (.readCw k)

theorem KeepsWf.readEls {n : Nat} {st : Start} {tr : Transfer} (h : KeepsWf s u) : KeepsWf s (u.readEls n st tr).2 := by
  unfold State.readEls
  extract_lets spans a
  split
  next m v e =>
  split at e
  · exact .of_snd e (.readPa h)
  · exact .of_snd e (.readCws h)

theorem KeepsWf.touchDone {pa len hint : Nat} {write whole : Bool} {missed : List Nat} {merged : Nat → Bool} (h : KeepsWf s u) :
    KeepsWf s (u.touchDone pa len hint write whole missed merged) := by
  unfold State.touchDone
  split
  · refine .foldl (fun _ _ k => ?_) h
    extract_lets +onlyGivenNames _
    split
    · exact .tunUse k
    · extract_lets +onlyGivenNames v
      have q : KeepsWf s v := .ite k (.tallyX k)
      exact .ite (.ite q (.readLine q)) (.ite (.tunInsert q) (.tunFill q))
  · exact h

theorem KeepsWf.tallyMove {n e t pa len : Nat} {write remote : Bool} (h : KeepsWf s u) :
    KeepsWf s (u.tallyMove n e t pa len write remote) := by
  unfold State.tallyMove
  extract_lets +onlyGivenNames v
  have k : KeepsWf s v := .tally h
  split
  · exact .ite (.tally k) k
  · split
    · extract_lets +onlyGivenNames w
      have q : KeepsWf s w := .tally k
      exact .ite q (.tally q)
    · extract_lets +onlyGivenNames w
      have q : KeepsWf s w := .tally k
      exact .ite q (.tally q)
    · exact .tallyX <| .ite (.tally k) k
    · exact k

theorem KeepsWf.armRegion {n : Nat} {st : Start} {foot pages : List (Nat × Nat)} (h : KeepsWf s u) :
    KeepsWf s (u.armRegion n st foot pages) :=
  .showEngine <| .showEngine <| .showEngine <| .update <| .setRegion <| .set <| .set <| .set <| .setReg h

theorem KeepsWf.footprint {n x : Nat} {runs : List (Nat × Nat)} {need : Need} (h : KeepsWf s u) :
    KeepsWf s (u.footprint n x runs need).2 := by
  refine .foldl_snd (fun x r k => ?_) h
  split
  · exact k
  · split
    · next e => exact .of_snd e (.translate k)
    · next e => exact .of_snd e (.translate k)

theorem KeepsWf.rearm {n : Nat} (h : KeepsWf s u) : KeepsWf s (u.rearm n) := by
  unfold State.rearm
  refine .foldl (fun _ _ k => ?_) h
  extract_lets +onlyGivenNames _
  split
  · split
    · split
      · next e => exact .armRegion <| .putEng <| .of_snd e (.footprint k)
      · next e => exact .memFault <| .of_snd e (.footprint k)
    · exact k
  · exact k

theorem KeepsWf.regionFree {n r : Nat} (h : KeepsWf s u) : KeepsWf s (u.regionFree n r) := .showEngine <| .showEngine <| .rearm <| .set h

theorem KeepsWf.regionUse {n : Nat} {ranges : List (Nat × Nat)} (h : KeepsWf s u) : KeepsWf s (u.regionUse n ranges) := by
  unfold State.regionUse
  refine .foldl (fun _ _ k => ?_) h
  extract_lets +onlyGivenNames _
  split
  · extract_lets +onlyGivenNames v
    have q : KeepsWf s v := .set k
    exact .ite (.regionFree q) q
  · exact k

theorem KeepsWf.releaseMoves {n : Nat} (h : KeepsWf s u) : KeepsWf s (u.releaseMoves n) := .ite (.putEng h) h

theorem KeepsWf.tolAdd {n : Nat} {l : List (Nat × Tol)} (h : KeepsWf s u) : KeepsWf s (u.tolAdd n l) :=
  .foldl (fun _ _ k => .tally <| .bump <| .bump <| .bump k) h

theorem KeepsWf.showSump {n : Nat} (h : KeepsWf s u) : KeepsWf s (u.showSump n) := h.trans (showSump_only ..).cells.keeps

theorem KeepsWf.sumpDone {n t id : Nat} (h : KeepsWf s u) : KeepsWf s (u.sumpDone n t id) := by
  unfold State.sumpDone
  split
  · split
    · exact .ite h (.showSump <| .takeSeed <| .modCh <| .set <| .set <| .set <| .set <| .set <| .setReg h)
    · exact h
  · exact h

theorem KeepsWf.listDone {n t id : Nat} (h : KeepsWf s u) : KeepsWf s (u.listDone n t id) := .complete <| .sumpDone <| .tolAdd <| .modCh h

theorem KeepsWf.showJoin {n : Nat} (h : KeepsWf s u) : KeepsWf s (u.showJoin n) := .set <| .set <| .set <| .set h

theorem KeepsWf.checkDone {n t id : Nat} (h : KeepsWf s u) : KeepsWf s (u.checkDone n t id) := by
  unfold State.checkDone
  extract_lets +onlyGivenNames _
  split
  · exact .complete <| .tally <| .bump <| .bump <| .showJoin <| .modCh h

theorem KeepsWf.internalEnd {n : Nat} {st : Start} (h : KeepsWf s u) : KeepsWf s (u.internalEnd n st) := by
  unfold State.internalEnd
  split
  · exact .complete h
  · exact .checkDone h
  · exact h

theorem KeepsWf.startInternal {n t id code va : Nat} {l : List Byte} (h : KeepsWf s u) : KeepsWf s (u.startInternal n t id code va l) :=
  .ite (.memFault h) (.setEng h)

theorem KeepsWf.closeMcast {n : Nat} {st : Start} (h : KeepsWf s u) : KeepsWf s (u.closeMcast n st) := by
  unfold State.closeMcast
  split
  · exact .update h
  · exact h

theorem KeepsWf.startEnd {n : Nat} {st : Start} (h : KeepsWf s u) : KeepsWf s (u.startEnd n st) := by
  unfold State.startEnd
  split
  · exact .modArr <| .modCh h
  · exact .ite (.listDone h) h
  · exact .closeMcast h
  · exact .internalEnd h
  · exact h

theorem KeepsWf.retire {n e : Nat} (h : KeepsWf s u) : KeepsWf s (u.retire n e) := by
  unfold State.retire
  extract_lets once
  refine .foldl (fun v p k => ?_) h
  unfold once
  split
  · exact .ite (.startEnd <| .putEng k) k
  · exact k

theorem KeepsWf.retireAll {n : Nat} (h : KeepsWf s u) : KeepsWf s (u.retireAll n) :=
  .settleAll <| .foldl (fun _ _ k => .retire k) (.releaseMoves h)

theorem KeepsWf.returnUnits {n e : Nat} {p : SlotPos} (h : KeepsWf s u) : KeepsWf s (u.returnUnits n e p) := by
  unfold State.returnUnits
  extract_lets +onlyGivenNames _
  split
  · exact h
  · exact .ite h (.foldl (fun _ _ k => .creditAdd k) (.putEng h))

theorem KeepsWf.sendOut {fuel : Nat} {st : Start} {no : Nat} {ms : List Nat} (h : KeepsWf s u) : KeepsWf s (sendOut fuel u st no ms).1 := by
  induction fuel generalizing u st with
  | zero => exact h
  | succ fuel ih =>
    unfold Sys2Proof.Machine.sendOut
    split
    · exact h
    · extract_lets k
      split
      · exact h
      · exact ih (.foldl (fun _ _ q => .setRegion q) h)

theorem KeepsWf.dropStarts {n t : Nat} (h : KeepsWf s u) : KeepsWf s (u.dropStarts n t) := .foldl (fun _ _ k => .putEng k) h

theorem KeepsWf.showLauter {n : Nat} (h : KeepsWf s u) : KeepsWf s (u.showLauter n) := by
  unfold State.showLauter
  extract_lets +onlyGivenNames held a list first
  clear_value first list
  split
  · exact .setReg h
  · exact .set <| .set <| .set <| .setReg h
  · exact .set <| .set <| .set <| .set <| .set <| .set h

end Sys2Proof.Machine
end

section
/-! SUPPORT. The stored memory stays canonical through the stream commands (Machine/Streams): one lemma
per function, along the calls that it makes. -/

namespace Sys2Proof.Machine

variable {s u v : State}

theorem KeepsWf.takeCredit {n : Nat} {due : Option (Nat × Nat)} (h : KeepsWf s u) : KeepsWf s (u.takeCredit n due) := by
  unfold State.takeCredit
  split
  · exact .set h
  · exact h

theorem KeepsWf.issueRun {n e : Nat} {act : SlotPos} {st : Start} {r : RunOf} (h : KeepsWf s u) :
    KeepsWf s (u.issueRun n e act st r) := by
  unfold State.issueRun
  extract_lets due tg x
  split
  next found v e =>
  have k := KeepsWf.of_snd e (.lookup h)
  extract_lets +onlyGivenNames need busy
  refine .ite (.putEng k) ?_
  extract_lets w no tr st' st'' src y z
  have q : KeepsWf s z := .tally <| .setEng <| .takeCredit k
  split
  · exact .showEngine <| .tally q
  · exact .ite (.showEngine <| .attach q) (.tileFault (fun _ _ k => .memFault k) q)

theorem execTransferIssue_keeps {n : Ch} {e : Eng} (h : KeepsWf s u) : OutKeeps s (execTransferIssue n e u) := by
  unfold execTransferIssue
  split
  · exact .next h
  · split
    · exact .next h
    · extract_lets +onlyGivenNames _ _ _ _
      split
      · exact .next <| .putEng <| .modCh h
      · exact .ite (.next <| .retireAll <| .returnUnits <| .putEng <| .takeCredit h) (.next <| .issueRun h)

theorem execXlatWalkDone_keeps {n : Ch} {e : Eng} (h : KeepsWf s u) : OutKeeps s (execXlatWalkDone n e u) := by
  unfold execXlatWalkDone
  split
  · exact .next h
  · extract_lets +onlyGivenNames _ _ _
    split
    · next e =>
      have k := KeepsWf.of_snd e (.walkFill h)
      exact .next <| .orHeld h (.tileFault (fun _ _ q => .memFault q) k)
    · next e =>
      have k := KeepsWf.of_snd e (.walkFill h)
      extract_lets +onlyGivenNames _
      split
      · exact .next <| .orHeld h (.tileFault (fun _ _ q => .memFault q) k)
      · exact .next <| .orHeld h (.showEngine <| .attach k)

theorem KeepsWf.fillFor {line hint : Nat} (h : KeepsWf s u) : KeepsWf s (u.fillFor line hint) := .update <| .tunFill h

theorem execTunFillDone_keeps {line : Nat} (h : KeepsWf s u) : OutKeeps s (execTunFillDone line u) := by
  unfold execTunFillDone
  split
  · exact .next h
  · exact .ite (.next h) (.next <| .arbitrate (fun _ k => .fillFor k) h)

theorem KeepsWf.handOver {n e : Nat} {act : SlotPos} {st : Start} {tr : Transfer} {els : List (Nat × (Nat × Bool × Nat))} 
    (h : KeepsWf s u) : KeepsWf s (u.handOver n e act st tr els) := by
  unfold State.handOver
  split
  · refine .modArr <| .modCh ?_
    split
    · exact .tileFault (fun _ _ k => .memFault k) h
    · exact h
  · exact .putEng h
  · dsimp only
    split
    · split
      · exact .putEng <| .sendOut h
      · exact h
    · exact h
  · exact h

theorem KeepsWf.putTransfer {n : Nat} {st : Start} {tr : Transfer} (h : KeepsWf s u) : KeepsWf s (u.putTransfer n st tr) :=
  .ite (.writePa h) (.storeAll h)

theorem KeepsWf.throughTun {n : Nat} {st : Start} {tr : Transfer} (h : KeepsWf s u) : KeepsWf s (u.throughTun n st tr) := .touchDone h

theorem KeepsWf.transferDone {n e : Nat} {st : Start} {tr : Transfer} {act : SlotPos} (h : KeepsWf s u) :
    KeepsWf s (u.transferDone n e st tr act) := by
  unfold State.transferDone
  extract_lets +onlyGivenNames remote pa missed tr' a b c
  have q : KeepsWf s c := .tallyMove <| .arbMoved <| .ite h (.throughTun h)
  clear_value c
  split
  next els v eq =>
  have k : KeepsWf s v := by
    split at eq
    · exact .of_snd eq (.ite q (.putTransfer q))
    · split at eq
      · exact .of_snd eq q
      · exact .of_snd eq (.readEls q)
  extract_lets +onlyGivenNames en drop put given w
  have z : KeepsWf s w := .progress <| .retireAll <| .returnUnits <| .handOver <| .putEng k
  exact .ite (.showLauter z) z

theorem execTransferComplete_keeps {n : Ch} {e : Eng} {i : Nat} {upsets : List Upset} (h : KeepsWf s u) :
    OutKeeps s (execTransferComplete n e i upsets u) := by
  unfold execTransferComplete
  split
  · exact .next h
  · exact .ite (.next h) (.ite (.next <| .pass h) (.next <| .transferDone <| .foldl (fun _ _ k => .upset k) h))

theorem execCreditWaitEnd_keeps {n : Ch} {e : Eng} (h : KeepsWf s u) : OutKeeps s (execCreditWaitEnd n e u) := by
  unfold execCreditWaitEnd
  split
  · exact .next h
  · split
    · exact .next h
    · exact .ite (.next h) (.next <| .retireAll <| .returnUnits <| .putEng <| .takeCredit h)

theorem execMulticastRun_keeps {n : Ch} {e : Eng} (h : KeepsWf s u) : OutKeeps s (execMulticastRun n e u) := by
  unfold execMulticastRun
  extract_lets +onlyGivenNames _ _
  split
  · exact .next h
  · extract_lets +onlyGivenNames _
    split
    · exact .next h
    · extract_lets +onlyGivenNames _ _ _
      split
      · exact .next h
      · extract_lets +onlyGivenNames _ _ _
        split
        · next e => exact .next <| .retireAll <| .putEng <| .of_fst e (.sendOut (.foldl (fun _ _ q => .setRegion <| .set q) (.update h)))

theorem KeepsWf.receive {n r : Nat} {v : Nat × Bool} (h : KeepsWf s u) : KeepsWf s (u.receive n r v) := by
  unfold State.receive
  extract_lets +onlyGivenNames _ _ _ w _ _ _ x
  have k : KeepsWf s w := .ite h (.tally <| .storeAll h)
  have q : KeepsWf s x := .set (.setRegion (.ite (.creditAdd k) k))
  exact .ite (.progress q) q

theorem execSpargeElementArrive_keeps {n : Ch} {r : Fin 16} (h : KeepsWf s u) : OutKeeps s (execSpargeElementArrive n r u) := by
  unfold execSpargeElementArrive
  extract_lets +onlyGivenNames _
  split
  · exact .next h
  · split
    · exact .next <| .bump <| .setRegion h
    · extract_lets +onlyGivenNames _ _ _
      split
      · exact .ite (.next <| .showEngine <| .setRegion <| .modCh h) (.next <| .showEngine <| .setRegion <| .takeCredit h)
      · exact .next <| .arbitrate (fun _ k => .receive k) h

theorem KeepsWf.endReceiver {n r : Nat} (h : KeepsWf s u) : KeepsWf s (u.endReceiver n r) :=
  .settleAll <| .showEngine <| .showEngine <| .rearm <| .ite (.putEng h) (.ite (.putEng h) h)

theorem KeepsWf.delivered {n r no : Nat} (h : KeepsWf s u) : KeepsWf s (u.delivered n r no) :=
  .ite h (.ite (.endReceiver <| .set <| .set h) (.endReceiver <| .set <| .ite (.stFault h) h))

theorem execSpargeDeliveryEnd_keeps {g : Fin 256} {r : Fin 16} (h : KeepsWf s u) : OutKeeps s (execSpargeDeliveryEnd g r u) := by
  unfold execSpargeDeliveryEnd
  split
  · exact .next h
  · exact .next <| .foldl (fun _ _ k => .delivered k) (.update h)

theorem execStallWatchdogBite_keeps {n : Ch} {t : Tag} (h : KeepsWf s u) : OutKeeps s (execStallWatchdogBite n t u) := by
  unfold execStallWatchdogBite
  extract_lets +onlyGivenNames _
  split
  · exact .next h
  · split
    · exact .next <| .stFault <| .tally <| .bump h

end Sys2Proof.Machine
end

section
/-! SUPPORT. The stored memory stays canonical through the sequencer (Machine/Seq): one lemma
per function, along the calls that it makes. -/

namespace Sys2Proof.Machine

variable {s u v : State}

theorem KeepsWf.setPc {n t pc : Nat} (h : KeepsWf s u) : KeepsWf s (u.setPc n t pc) := .set h

theorem KeepsWf.passAhead {fuel n t : Nat} (h : KeepsWf s u) : KeepsWf s (passAhead fuel u n t) := by
  induction fuel generalizing u with
  | zero => exact h
  | succ fuel ih =>
    unfold Sys2Proof.Machine.passAhead
    extract_lets k
    split
    · exact .ite (ih <| .setPc <| .setTask h) h
    · exact h

theorem KeepsWf.countIssue {n t : Nat} (h : KeepsWf s u) : KeepsWf s (u.countIssue n t) :=
  .showWindow <| .progress <| .modCh <| .set <| .tally <| .bump h

theorem KeepsWf.take {n t : Nat} {stay : Bool} (h : KeepsWf s u) : KeepsWf s (u.take n t stay) := by
  unfold State.take
  extract_lets +onlyGivenNames _
  split
  · exact .passAhead <| .countIssue <| .setPc <| .setTask h
  · exact h

theorem KeepsWf.issueFault {n t code : Nat} (h : KeepsWf s u) : KeepsWf s (u.issueFault n t code) := .modTask <| .taskFault h

theorem KeepsWf.fetchFault {n t : Nat} (h : KeepsWf s u) : KeepsWf s (u.fetchFault n t) := by
  unfold State.fetchFault
  refine .issueFault ?_
  split
  · exact .memFaultReg h
  · exact h

theorem OutKeeps.issue {n t op : Nat} {act : BitVec 128 → Nat → Out} (f : ∀ w pc, OutKeeps s (act w pc)) (h : KeepsWf s u) :
    OutKeeps s (u.issue n t op act) := by
  unfold State.issue
  refine .ite (.next h) ?_
  split
  · exact .next h
  · exact .next <| .fetchFault h
  · exact .ite (.next h) (.ite (.next <| .issueFault h) (f _ _))

theorem KeepsWf.redirect {n t pc target : Nat} (h : KeepsWf s u) : KeepsWf s (u.redirect n t pc target) := .ite h (.setPc <| .modTask h)

theorem execInstructionFetch_keeps {n : Ch} {t : Tag} (h : KeepsWf s u) : OutKeeps s (execInstructionFetch n t u) := by
  unfold execInstructionFetch
  extract_lets +onlyGivenNames k failedHead
  have failed {v} (k : KeepsWf s v) : KeepsWf s (failedHead v) := by
    unfold failedHead
    split
    · exact .ite (.fetchFault k) k
    · exact k
  refine .ite (.next h) <| .ite (.next <| failed h) ?_
  extract_lets +onlyGivenNames pc add
  have added {v w e} (k : KeepsWf s v) : KeepsWf s (add v w e) := .modTask k
  refine .ite (.next <| failed <| added h) ?_
  split
  · next e => exact .next <| .passAhead <| added <| .of_snd e (.consume h)
  · next e => exact .next <| failed <| added <| .of_snd e (.consume h)
  · next e => exact .next <| .of_snd e (.consume h)

theorem execPrivilegedPrefetchIssue_keeps {n : Ch} {t : Tag} (h : KeepsWf s u) : OutKeeps s (execPrivilegedPrefetchIssue n t u) := by
  unfold execPrivilegedPrefetchIssue
  extract_lets +onlyGivenNames _
  split
  · exact .next h
  · exact .ite (.next h) (.next <| .passAhead <| .countIssue <| .setEng <| .setTask h)

theorem execIllegalOpcodeIssue_keeps {n : Ch} {t : Tag} (h : KeepsWf s u) : OutKeeps s (execIllegalOpcodeIssue n t u) := by
  unfold execIllegalOpcodeIssue
  split
  · exact .next h
  · split
    · exact .next <| .fetchFault h
    · exact .ite (.next <| .issueFault h) (.next h)
    · exact .next h

theorem execNop_keeps {n : Ch} {t : Tag} (h : KeepsWf s u) : OutKeeps s (execNop n t u) := .issue (fun _ _ => .next <| .take h) h

theorem execEnd_keeps {n : Ch} {t : Tag} (h : KeepsWf s u) : OutKeeps s (execEnd n t u) :=
  .issue (fun _ _ => .ite (.next <| .issueFault h) (.next <| .settle <| .modTask <| .take h)) h

theorem execJump_keeps {n : Ch} {t : Tag} (h : KeepsWf s u) : OutKeeps s (execJump n t u) :=
  .issue (fun _ _ => .next <| .redirect <| .take h) h

theorem execBucket_keeps {n : Ch} {t : Tag} (h : KeepsWf s u) : OutKeeps s (execBucket n t u) :=
  .issue (fun _ _ => .next <| .redirect <| .take h) h

theorem execSetb_keeps {n : Ch} {t : Tag} (h : KeepsWf s u) : OutKeeps s (execSetb n t u) :=
  .issue (fun _ _ => .next <| .set <| .take h) h

theorem execLoadb_keeps {n : Ch} {t : Tag} (h : KeepsWf s u) : OutKeeps s (execLoadb n t u) := by
  unfold execLoadb
  refine .issue (fun _ _ => ?_) h
  extract_lets +onlyGivenNames _
  split
  · exact .next <| .issueFault h
  · split
    · next e => exact .next <| .set <| .take <| .of_snd e (.consume h)
    · next e => exact .next <| .issueFault <| .memFaultReg <| .of_snd e (.consume h)
    · next e => exact .next <| .of_snd e (.consume h)

theorem execBind_keeps {n : Ch} {t : Tag} (h : KeepsWf s u) : OutKeeps s (execBind n t u) := by
  unfold execBind
  refine .issue (fun _ _ => ?_) h
  extract_lets +onlyGivenNames _ _ _
  split
  · exact .next <| .issueFault h
  · split
    · exact .next <| .issueFault h
    · extract_lets +onlyGivenNames v
      have k : KeepsWf s v := .take h
      exact .ite (.next <| .set k) (.next <| .setDesc k)

theorem execFence_keeps {n : Ch} {t : Tag} (h : KeepsWf s u) : OutKeeps s (execFence n t u) :=
  .issue (fun _ _ => .next <| .settle <| .modTask <| .take h) h

theorem KeepsWf.fetchAdd {pa hint a3 : Nat} (h : KeepsWf s u) : KeepsWf s (u.fetchAdd pa hint a3).2 := by
  unfold State.fetchAdd
  split
  · exact h
  · split
    · exact h
    · extract_lets +onlyGivenNames _ _
      split
      · next e =>
        have k := KeepsWf.of_thd e (.readPa (.touch h))
        extract_lets +onlyGivenNames v
        have q : KeepsWf s v := .tallyX k
        split
        · exact q
        · exact .writePa <| .tunUse q

theorem KeepsWf.barrierAdd {n t va : Nat} (h : KeepsWf s u) : KeepsWf s (u.barrierAdd n t va).2 := by
  unfold State.barrierAdd
  extract_lets k
  split
  · next e =>
    split
    · exact h
    · exact .of_snd e (.translate h)
  · next e =>
    have k := KeepsWf.of_snd e (.translate h)
    split
    · split
      · exact .inSnd <| .modTask k
      · split
        · exact k
        · split
          · next e => exact .inSnd <| .of_fst e (.request k)
          · next e => exact .inSnd <| .abortFrom <| .e2eFail <| .of_fst e (.request k)
    · split
      · next e =>
        split
        · exact h
        · exact .inSnd <| .of_snd e (.fetchAdd k)
      · next e =>
        split
        · exact h
        · exact .inSnd <| .of_snd e (.fetchAdd k)

theorem execBarrier_keeps {n : Ch} {t : Tag} (h : KeepsWf s u) : OutKeeps s (execBarrier n t u) := by
  unfold execBarrier
  refine .issue (fun _ _ => ?_) h
  extract_lets +onlyGivenNames _ _
  split
  · exact .next <| .issueFault h
  · split
    · next e =>
      have k := KeepsWf.of_snd e (.barrierAdd h)
      extract_lets +onlyGivenNames _ _ _ v
      have q : KeepsWf s v := .take k
      exact .ite (.next <| .complete q) (.next <| .modTask q)
    · next e => exact .next <| .issueFault <| .memFaultReg <| .of_snd e (.barrierAdd h)
    · next e => exact .next <| .of_snd e (.barrierAdd h)

theorem KeepsWf.waitOver {n t id : Nat} (h : KeepsWf s u) : KeepsWf s (u.waitOver n t id) := .complete <| .modTask h

theorem execBarrierReread_keeps {n : Ch} {t : Tag} (h : KeepsWf s u) : OutKeeps s (execBarrierReread n t u) := by
  unfold execBarrierReread
  split
  · split
    · exact .next h
    · split
      · next e =>
        have k := KeepsWf.of_snd e (.consume h)
        exact .ite (.next <| .waitOver k) (.next k)
      · next e => exact .next <| .memFault <| .of_snd e (.consume h)
      · next e => exact .next <| .of_snd e (.consume h)
  · exact .next h

theorem execWaitw_keeps {n : Ch} {t : Tag} (h : KeepsWf s u) : OutKeeps s (execWaitw n t u) := by
  unfold execWaitw
  refine .issue (fun _ _ => ?_) h
  extract_lets +onlyGivenNames _ _
  split
  · exact .next <| .issueFault h
  · split
    · next e =>
      have k := KeepsWf.of_snd e (.consume h)
      extract_lets +onlyGivenNames _ v
      have q : KeepsWf s v := .take k
      exact .ite (.next <| .complete q) (.next <| .modTask q)
    · next e => exact .next <| .issueFault <| .memFaultReg <| .of_snd e (.consume h)
    · next e => exact .next <| .of_snd e (.consume h)

theorem execWaitwReread_keeps {n : Ch} {t : Tag} (h : KeepsWf s u) : OutKeeps s (execWaitwReread n t u) := by
  unfold execWaitwReread
  split
  · split
    · exact .next h
    · split
      · next e =>
        have k := KeepsWf.of_snd e (.consume h)
        exact .ite (.next <| .waitOver k) (.next k)
      · next e => exact .next <| .memFault <| .of_snd e (.consume h)
      · next e => exact .next <| .of_snd e (.consume h)
  · exact .next h

theorem execChWaitTimeout_keeps {n : Ch} {t : Tag} (h : KeepsWf s u) : OutKeeps s (execChWaitTimeout n t u) := by
  unfold execChWaitTimeout
  split
  · exact .ite (.next h) (.next <| .taskFault h)
  · exact .next h

theorem execSarm_keeps {n : Ch} {t : Tag} (h : KeepsWf s u) : OutKeeps s (execSarm n t u) :=
  .issue (fun _ _ => .next <| .setEng <| .take h) h

theorem execSwait_keeps {n : Ch} {t : Tag} (h : KeepsWf s u) : OutKeeps s (execSwait n t u) :=
  .issue (fun _ _ => .next <| .settle <| .take h) h

end Sys2Proof.Machine
end

section
/-! SUPPORT. The stored memory stays canonical through what the Lauter reads (Machine/Lauter): one lemma
per function, along the calls that it makes. -/

namespace Sys2Proof.Machine

variable {s u v : State}

theorem Preserves.getS : Preserves (LmKeeps s) getS := fun _ h => h

theorem Preserves.gettingS {α : Type} {f : State → LM α} (g : ∀ v, KeepsWf s v → Preserves (LmKeeps s) (f v)) :
    Preserves (LmKeeps s) (Sys2Proof.Machine.getS >>= f) := fun m h => g m.s h m h

theorem Preserves.setS (h : KeepsWf s v) : Preserves (LmKeeps s) (setS v) := fun _ _ => h

theorem Preserves.rdBytes {n t o va k : Nat} : Preserves (LmKeeps s) (rdBytes n t o va k) := by
  unfold Sys2Proof.Machine.rdBytes
  refine .reading fun m h => ?_
  split
  · next e => exact .tally (.of_snd e (.consume h))
  · next e => exact .of_snd e (.consume h)
  · next e => exact .of_snd e (.consume h)

theorem Preserves.rdEls {n t o j : Nat} {d : BitVec 512} {els : List Nat} : Preserves (LmKeeps s) (rdEls n t o j d els) := by
  unfold Sys2Proof.Machine.rdEls
  refine .andThen (.folding fun _ _ => .andThen .rdBytes fun _ => .done) fun _ => ?_
  extract_lets +onlyGivenNames rest
  have done (x0) : Preserves (LmKeeps s) (rest x0) := .done
  exact .ite (.andThen (.changing fun _ k => k) fun _ => done ()) (done ())

theorem Preserves.metaErr {tol : Bool} {code unit pos check operand : Nat} :
    Preserves (LmKeeps s) (metaErr tol code unit pos check operand) := by
  unfold Sys2Proof.Machine.metaErr
  exact .ite .done .fail

theorem Preserves.readRecord {n t : Nat} {tol : Bool} {m v : BitVec 512} {u tiles perTile o : Nat} :
    Preserves (LmKeeps s) (readRecord n t tol m v u tiles perTile o) :=
  .ite .done <| .checked .fail fun _ => .andThen .rdEls fun _ => .checked .fail fun _ => .checked .metaErr fun _ =>
    .checked .metaErr fun _ => .done

theorem Preserves.readMasks {n t : Nat} {tol : Bool} {f : Nat} {m v : BitVec 512} {u k : Nat} :
    Preserves (LmKeeps s) (readMasks n t tol f m v u k) :=
  .ite .done <| .checked .fail fun _ => .andThen .rdEls fun _ => .folding fun _ _ =>
    .checked .fail fun _ => .checked .metaErr fun _ => .checked .metaErr fun _ => .done

theorem Preserves.readRow {n t : Nat} {tol : Bool} {v p x : BitVec 512} {u k limit o : Nat} :
    Preserves (LmKeeps s) (readRow n t tol v p x u k limit o) :=
  .ite .done <| .andThen .rdEls fun _ => .checked .fail fun _ => .andThen .rdEls fun _ => .checked .metaErr fun _ =>
    .checked .metaErr fun _ => .checked .metaErr fun _ => .done

theorem Preserves.checkRowPtr {n t : Nat} {v p x : BitVec 512} {o : Nat} : Preserves (LmKeeps s) (checkRowPtr n t v p x o) := by
  unfold Sys2Proof.Machine.checkRowPtr
  refine .ite .done ?_
  refine .andThen .rdEls fun _ => ?_
  extract_lets +onlyGivenNames rest
  have done (x0) : Preserves (LmKeeps s) (rest x0) := .done
  exact .ite (.andThen .fail fun _ => done ()) (done ())

theorem Preserves.readScaleRow {n t : Nat} {d : BitVec 512} {u blocks o : Nat} :
    Preserves (LmKeeps s) (readScaleRow n t d u blocks o) :=
  .ite .done <| .checked .fail fun _ => .andThen .rdEls fun _ => .done

theorem Preserves.readTileScales {n t : Nat} {d : BitVec 512} {i per u o : Nat} :
    Preserves (LmKeeps s) (readTileScales n t d i per u o) := .checked .fail fun _ => .andThen .rdEls fun _ => .done

theorem Preserves.readBlockScales {n t : Nat} {d : BitVec 512} {per span u o : Nat} {kept : List (Nat × Nat)} {idx : List Nat} :
    Preserves (LmKeeps s) (readBlockScales n t d per span u o kept idx) := by
  unfold Sys2Proof.Machine.readBlockScales
  exact .folding fun _ _ => .andThen .readTileScales fun _ => .done

theorem Preserves.effBit {n : Nat} {a : ArrInstr} {b : Nat} : Preserves (LmKeeps s) (effBit n a b) := by
  refine .ite .done (.gettingS fun v h => ?_)
  split
  · next e => exact .andThen (.setS (.of_snd e (.translate h))) fun _ => .fail
  · next e =>
    refine .andThen (.setS (.of_snd e (.translate h))) fun _ => .checked .fail fun _ => ?_
    split
    · exact .checked .fail fun _ => .checked .fail fun _ => .andThen .rdBytes fun _ => .done
    · exact .fail

theorem Preserves.effBits {n : Nat} {a : ArrInstr} {group : Nat → Nat} {l : List Nat} :
    Preserves (LmKeeps s) (effBits n a group l) := by
  refine .folding fun acc x => ?_
  dsimp only
  split
  · exact .done
  · exact .andThen .effBit fun _ => .done

theorem Preserves.checkBases {w : BitVec 128} {t : Tile} : Preserves (LmKeeps s) (checkBases w t) :=
  .checked .fail fun _ => .ite .fail .done

theorem Preserves.readA {n : Nat} {a : ArrInstr} {tol : Bool} {t : Tile} : Preserves (LmKeeps s) (readA n a tol t) := by
  refine .checked .checkRowPtr fun _ => .andThen (.folding fun acc q => ?_) fun on => .either .done (.folding fun t c => ?_) fun _ => .done
  · split
    extract_lets u jp
    have p (t) : Preserves (LmKeeps s) (jp t) := .either .effBit .done fun _ => .done
    exact .ite (.andThen .readRecord fun (_, _) => .andThen .done p) (.andThen .done p)
  · extract_lets u jp
    have p (x) : Preserves (LmKeeps s) (jp x) := .either .readScaleRow .done fun _ => .done
    exact .ite (.andThen .readMasks p) (.either .readRow .done p)

theorem Preserves.readB {n : Nat} {a : ArrInstr} {tol : Bool} {t : Tile} : Preserves (LmKeeps s) (readB n a tol t) := by
  unfold Sys2Proof.Machine.readB
  refine .ite ?_ ?_
  · refine .andThen .readRecord fun _ => ?_
    split
    · exact .done
  · refine .ite ?_ (.ite .done (.folding fun _ _ => .andThen .readScaleRow fun _ => .done))
    refine .andThen .checkRowPtr fun _ => ?_
    refine .folding fun _ _ => ?_
    refine .andThen .readRow fun _ => ?_
    split
    · exact .done

theorem Preserves.spansLeft {n : Nat} {a : ArrInstr} {t : Tile} {wanted : List Nat} : Preserves (LmKeeps s) (spansLeft n a t wanted) := by
  unfold Sys2Proof.Machine.spansLeft
  exact .ite .done (.ite (.andThen .effBits fun _ => .done) .done)

theorem Preserves.compactLanes {n : Nat} {a : ArrInstr} {t : Tile} {on : List Bool} : Preserves (LmKeeps s) (compactLanes n a t on) := by
  unfold Sys2Proof.Machine.compactLanes
  refine .andThen .spansLeft fun _ => ?_
  split
  · exact .done

theorem Preserves.readStart {a : ArrInstr} {t : Tile} : Preserves (LmKeeps s) (readStart a t) := by
  unfold Sys2Proof.Machine.readStart
  exact .andThen .checkBases fun _ => .done

theorem Preserves.readFirst {n : Nat} {a : ArrInstr} {t : Tile} : Preserves (LmKeeps s) (readFirst n a t) := by
  unfold Sys2Proof.Machine.readFirst
  exact .andThen .getS fun _ => .readA

theorem Preserves.readSecond {n : Nat} {a : ArrInstr} {t : Tile} : Preserves (LmKeeps s) (readSecond n a t) := by
  unfold Sys2Proof.Machine.readSecond
  exact .andThen .getS fun _ => .readB

theorem Preserves.formLists {n : Nat} {a : ArrInstr} {t : Tile} {on : List Bool} : Preserves (LmKeeps s) (formLists n a t on) := by
  unfold Sys2Proof.Machine.formLists
  refine .ite ?_ ?_
  · split
    · exact .done
  · refine .ite .done ?_
    refine .ite .done ?_
    refine .andThen .compactLanes fun _ => ?_
    split
    · exact .done

theorem Preserves.readListScales {n : Nat} {a : ArrInstr} {t : Tile} : Preserves (LmKeeps s) (readListScales n a t) :=
  .either (.folding fun _ _ => .andThen .readBlockScales fun _ => .done) .done fun _ => .either .readBlockScales .done fun _ => .done

theorem KeepsWf.keepReads {s0 : State} {n : Nat} (h : KeepsWf s u) : KeepsWf s (u.keepReads s0 n) := .foldl (fun _ _ k => .modTask k) h

theorem KeepsWf.ltFault {n t code unit pos check operand id : Nat} (h : KeepsWf s u) :
    KeepsWf s (u.ltFault n t code unit pos check operand id) :=
  .taskFault <| .set <| .set <| .set <| .recFault h

theorem KeepsWf.gvFault {n t code id : Nat} (h : KeepsWf s u) : KeepsWf s (u.gvFault n t code id) := .taskFault <| .recFault h

theorem KeepsWf.lErr {n t id : Nat} {e : LErr} (h : KeepsWf s u) : KeepsWf s (u.lErr n t id e) := by
  unfold State.lErr
  split
  · exact .ltFault h
  · exact .memFault h
  · exact .gvFault h
  · exact h
  · exact h

theorem KeepsWf.showReading {n : Nat} (h : KeepsWf s u) : KeepsWf s (u.showReading n) := .showEngine <| .showEngine <| .showLauter h

theorem KeepsWf.setTodo {n e : Nat} {a : ArrInstr} {l : List Nat} (h : KeepsWf s u) : KeepsWf s (u.setTodo n e a l) := .putEng h

theorem KeepsWf.waitRegion {n : Nat} {a : ArrInstr} (h : KeepsWf s u) : KeepsWf s (u.waitRegion n a) :=
  .showReading <| .modArr <| .ite h (.bump h)

theorem KeepsWf.takeUnits {n : Nat} {a : ArrInstr} {l : List (Nat × Nat)} (h : KeepsWf s u) : KeepsWf s (u.takeUnits n a l).1 := by
  unfold State.takeUnits
  refine .foldl_fst (fun x r k => ?_) h
  extract_lets c before
  split
  · exact k
  · split
    · exact k
    · exact .inFst <| .takeCredit k

theorem KeepsWf.tallyReads {n : Nat} {l : List (Nat × Nat × Nat × Nat)} (h : KeepsWf s u) : KeepsWf s (u.tallyReads n l) := by
  unfold State.tallyReads
  refine .foldl (fun _ _ k => ?_) h
  split
  · extract_lets +onlyGivenNames _
    refine .foldl (fun _ _ q => ?_) (.tally k)
    split
    · exact .tallyMove q
    · exact q

theorem KeepsWf.readDone {n : Nat} {a : ArrInstr} {r : Reading} (h : KeepsWf s u) : KeepsWf s (u.readDone n a r) := by
  unfold State.readDone
  extract_lets +onlyGivenNames _ _ _ _ _ v _ _ _ _ _ _ _ _ _
  have k : KeepsWf s v := .modArr <| .tallyReads h
  exact .retireAll <| .showLauter <| .progress <| .setTodo <| .setTodo <| .tally <| .tally <| .bump <| .tally <| .bump <|
    .ite k (.foldl (fun _ _ q => .ite (.creditAdd q) q) k)

/-- A pass over an instruction's tiles leaves what its work on a tile leaves. -/
theorem KeepsWf.readingPass {r : Reading} {n : Nat} {a : ArrInstr} {f : Tile → List Bool → Nat → LM (Tile × List Bool × Nat)} 
    (work : ∀ t on k, Preserves (LmKeeps s) (f t on k)) (h : KeepsWf s r.m.s) : KeepsWf s (r.pass n a f).m.s := by
  unfold Reading.pass
  have start : KeepsWf s ({ r with tiles := [] } : Reading).m.s := h
  generalize ({ r with tiles := [] } : Reading) = q at start
  induction r.tiles generalizing q with
  | nil => exact start
  | cons x l ih =>
    refine ih _ ?_
    obtain ⟨t, on, k⟩ := x
    dsimp only
    split
    · exact start
    · split
      · next e => exact Preserves.result (I := LmKeeps s) e (work t on k) start
      · next e => exact Preserves.result (I := LmKeeps s) e (work t on k) start
      · next e => exact Preserves.result (I := LmKeeps s) e (work t on k) start
      · next e => 
        dsimp only
        exact .tileFault (fun _ _ k => .lErr k) (Preserves.result (I := LmKeeps s) e (work t on k) start)

theorem KeepsWf.readTiles {n : Nat} {a : ArrInstr} (h : KeepsWf s u) : KeepsWf s (u.readTiles n a).m.s :=
  .readingPass (fun _ _ _ => .andThen .formLists fun _ => .andThen .readListScales fun _ => .done) <|
    .readingPass (fun _ _ _ => .andThen .readSecond fun _ => .done) <|
    .readingPass (fun _ _ _ => .andThen .readFirst fun _ => .done) <| .readingPass (fun _ _ _ => .andThen .readStart fun _ => .done) h

theorem KeepsWf.lauterRead {n : Nat} {a : ArrInstr} (h : KeepsWf s u) : KeepsWf s (u.lauterRead n a) := by
  unfold State.lauterRead
  refine .ite (.waitRegion h) ?_
  extract_lets +onlyGivenNames b r sampled
  have read : KeepsWf s r.m.s := .readTiles h
  have shown {v : State} {c : ArrInstr} (k : KeepsWf s v) : KeepsWf s (sampled v c) := .showReading <| .modArr k
  split
  · exact .waitRegion <| shown <| .keepReads read
  · exact shown <| .keepReads read
  · extract_lets +onlyGivenNames due
    split
    next e =>
    have took := KeepsWf.of_fst e (.takeUnits h)
    extract_lets +onlyGivenNames c
    split
    · exact shown <| .modCh took
    · exact .ite (.readDone <| .arbMoved <| .takeUnits read) (shown <| .ask <| .pass took)

end Sys2Proof.Machine
end

section
/-! SUPPORT. The stored memory stays canonical through gravity (Machine/Gravity): one lemma
per function, along the calls that it makes. -/

namespace Sys2Proof.Machine

variable {s u v : State}

theorem KeepsWf.writeKeep {n t id code : Nat} {g : GvCopy} {w : Nat} (h : KeepsWf s u) : KeepsWf s (u.writeKeep n t id code g w) :=
  .startInternal h

theorem KeepsWf.gvIssueFault {n t code : Nat} (h : KeepsWf s u) : KeepsWf s (u.gvIssueFault n t code) := .issueFault <| .recFault h

end Sys2Proof.Machine
end

section
/-! SUPPORT. The stored memory stays canonical through the array (Machine/ArrayOps): one lemma
per function, along the calls that it makes. -/

namespace Sys2Proof.Machine

variable {s u v : State}

theorem KeepsWf.setPhase {n i p : Nat} (h : KeepsWf s u) : KeepsWf s (u.setPhase n i p) := .set h

theorem KeepsWf.showArray {n : Nat} (h : KeepsWf s u) : KeepsWf s (u.showArray n) := by
  unfold State.showArray
  extract_lets +onlyGivenNames _ _ _ _ _ _ _ _ _ v
  have k : KeepsWf s v := .set (.set (.set (.set (.set (.setReg h)))))
  split
  · exact k
  · exact .set <| .set <| .set <| .set <| .set k

theorem KeepsWf.queueStart {n e : Nat} {st : Start} (h : KeepsWf s u) : KeepsWf s (u.queueStart n e st) := .setEng h

theorem KeepsWf.arrayIssue {n t : Nat} {w : BitVec 128} {pc : Nat} (h : KeepsWf s u) : KeepsWf s (u.arrayIssue n t w pc) := by
  unfold State.arrayIssue
  extract_lets +onlyGivenNames id g
  refine .ite (.writeKeep <| .take h) ?_
  extract_lets +onlyGivenNames tiles taken i src slotted opened a added t0 first second
  have k : KeepsWf s second := .queueStart <| .queueStart <| .modCh <| .set <| .ite (.take h) (.setSlot <| .take h)
  exact .ite (.queueStart k) k

theorem KeepsWf.dropGroup {n e : Nat} {a : ArrInstr} (h : KeepsWf s u) : KeepsWf s (u.dropGroup n e a).1 :=
  .foldl (fun _ _ k => .setArb k) (.putEng h)

theorem KeepsWf.restartGroups {n : Nat} {a : ArrInstr} (h : KeepsWf s u) : KeepsWf s (u.restartGroups n a) := by
  unfold State.restartGroups
  refine .foldl (fun _ _ k => ?_) h
  split
  · next e => exact .setEng <| .of_fst e (.dropGroup k)

theorem KeepsWf.arrayDone {n : Nat} {a : ArrInstr} (h : KeepsWf s u) : KeepsWf s (u.arrayDone n a) := by
  unfold State.arrayDone
  extract_lets +onlyGivenNames v _
  have k : KeepsWf s v := by
    refine .foldl (fun _ _ q => ?_) h
    split
    · next e =>
      have r := KeepsWf.of_fst e (.dropGroup q)
      exact .foldl (fun _ _ kept => .ite (.creditAdd kept) kept) r
  exact .retireAll <| .modCh <| .foldl (fun _ _ q => .ite (.creditAdd q) q) k

theorem KeepsWf.ayFault {n t code id : Nat} (h : KeepsWf s u) : KeepsWf s (u.ayFault n t code id) := .taskFault <| .recFault h

theorem KeepsWf.overflow {n : Nat} {a : ArrInstr} {g : Nat} (h : KeepsWf s u) : KeepsWf s (u.overflow n a g) :=
  .ite (.tileFault (fun _ _ k => .ayFault k) (.modArr h)) (.modArr <| .setSlot <| .tally <| .bump h)

theorem KeepsWf.drainFeed {n : Nat} {a : ArrInstr} (h : KeepsWf s u) : KeepsWf s (u.drainFeed n a) := by
  unfold State.drainFeed
  extract_lets +onlyGivenNames _ _ _ _ _ _ _ _ _ _ v
  have k : KeepsWf s v := .setReg (.modCh h)
  exact .ite (.modCh k) (.retireAll <| .putEng k)

theorem KeepsWf.drainStart {n : Nat} {a : ArrInstr} (h : KeepsWf s u) : KeepsWf s (u.drainStart n a) := by
  unfold State.drainStart
  extract_lets +onlyGivenNames _ v _
  have k : KeepsWf s v := .modArr <| .setPhase (.tally h)
  exact .ite (.drainFeed k) k

theorem KeepsWf.passEnd {n : Nat} {a0 : ArrInstr} (h : KeepsWf s u) : KeepsWf s (u.passEnd n a0) := by
  unfold State.passEnd
  split
  · exact h
  · extract_lets +onlyGivenNames _
    split
    · exact .showLauter <| .showArray <| .restartGroups <| .setPhase <| .modArr h
    · split
      · exact h
      · split
        · exact .showLauter <| .showArray <| .drainStart h
        · exact .complete <| .showLauter <| .showArray <| .arrayDone <| .setPhase <| .setSlot h

end Sys2Proof.Machine
end

section
/-! SUPPORT. The stored memory stays canonical through the acceptance of starts (Machine/Starts): one lemma
per function, along the calls that it makes. -/

namespace Sys2Proof.Machine

variable {s u v : State}

theorem KeepsWf.dropPartner {n : Nat} {p : Start} (h : KeepsWf s u) : KeepsWf s (u.dropPartner n p) := by
  unfold State.dropPartner
  extract_lets +onlyGivenNames _
  split
  · exact .putEng h
  · exact .putEng h
  · exact h

theorem KeepsWf.placeStart {n e : Nat} {st : Start} (p : u.placeStart n e st = some v) (h : KeepsWf s u) : KeepsWf s v := by
  unfold State.placeStart at p
  split at p
  · cases p
  · cases p
    exact .putEng h
  · cases p
    exact .dropPartner <| .bump <| .set <| .putEng h

theorem KeepsWf.unqueue {n e : Nat} (h : KeepsWf s u) : KeepsWf s (u.unqueue n e) := .setEng h

theorem KeepsWf.sarmDone {n : Nat} {st : Start} (h : KeepsWf s u) : KeepsWf s (u.sarmDone n st) := .retireAll <| .complete h

theorem KeepsWf.acceptCopy {n e : Nat} {st : Start} {d : BitVec 512} (h : KeepsWf s u) : KeepsWf s (u.acceptCopy n e st d) := by
  unfold State.acceptCopy
  extract_lets +onlyGivenNames _ _
  split
  · exact .stFault <| .unqueue h
  · split
    · exact .stFault <| .unqueue h
    · split
      · exact .sarmDone <| .unqueue h
      · extract_lets +onlyGivenNames _
        split
        · next e => exact .memFault <| .unqueue <| .of_snd e (.footprint h)
        · next e =>
          have k := KeepsWf.of_snd e (.footprint h)
          split
          · next e => exact .memFault <| .unqueue <| .of_snd e (.footprint k)
          · next e =>
            have q := KeepsWf.of_snd e (.footprint k)
            extract_lets +onlyGivenNames _
            split
            · exact .stFault <| .unqueue q
            · extract_lets +onlyGivenNames _ _ _ _
              split
              · exact q
              · next e =>
                have r := KeepsWf.placeStart e (.unqueue q)
                split
                · exact q
                · next e => exact .sarmDone <| .placeStart e r

theorem KeepsWf.acceptSarm {n e : Nat} {st : Start} {d : BitVec 512} (h : KeepsWf s u) : KeepsWf s (u.acceptSarm n e st d) := by
  unfold State.acceptSarm
  extract_lets +onlyGivenNames _ _
  split
  · exact .stFault <| .unqueue h
  · split
    · exact .stFault <| .unqueue h
    · split
      · exact .sarmDone <| .unqueue h
      · extract_lets +onlyGivenNames _
        split
        · split
          · next e => exact .memFault <| .unqueue <| .of_snd e (.footprint h)
          · next e =>
            have k := KeepsWf.of_snd e (.footprint h)
            split
            · exact k
            · next e => exact .rearm <| .complete <| .placeStart e (.unqueue k)
        · split
          · exact h
          · next e => exact .sarmDone <| .placeStart e (.unqueue h)

theorem KeepsWf.acceptArr {n e : Nat} {st : Start} {a : ArrInstr} {o : Nat} (h : KeepsWf s u) : KeepsWf s (u.acceptArr n e st a o) := by
  unfold State.acceptArr
  split
  · split
    · exact .unqueue h
    · split
      · exact h
      · next p =>
        have k := KeepsWf.placeStart p (.unqueue h)
        exact .ite (.drainFeed k) k
  · extract_lets +onlyGivenNames a' bad
    clear_value bad
    split
    · exact .tileFault (fun _ _ k => .stFault k) (.ite (.unqueue h) (.modArr h))
    · extract_lets t0 d0 placed
      have kept v (p : placed = some v) : KeepsWf s v := by
        unfold placed at p
        split at p
        · cases p
          exact .unqueue h
        · exact .placeStart p (.unqueue h)
      clear_value placed
      split
      · exact h
      · exact .ite (.drainFeed <| .modArr (kept _ rfl)) (.modArr (kept _ rfl))

theorem KeepsWf.acceptList {n e : Nat} {st : Start} {write : Bool} {o : Nat} (h : KeepsWf s u) :
    KeepsWf s (u.acceptList n e st write o) := by
  unfold State.acceptList
  extract_lets +onlyGivenNames d
  refine .ite (.stFault <| .unqueue h) ?_
  extract_lets todo placed
  have kept v (p : placed = some v) : KeepsWf s v := by
    unfold placed at p
    split at p
    · cases p
      exact .unqueue h
    · exact .placeStart p (.unqueue h)
  clear_value placed
  split
  · exact h
  · exact .showLauter <| .retireAll <| .modCh (kept _ rfl)

theorem KeepsWf.frontMovable {n e : Nat} (h : KeepsWf s u) : KeepsWf s (u.frontMovable n e) := by
  unfold State.frontMovable
  extract_lets +onlyGivenNames _
  split
  · exact .ite h (.setEng h)
  · exact h

theorem KeepsWf.yieldSlots {n : Nat} (h : KeepsWf s u) : KeepsWf s (u.yieldSlots n) := by
  unfold State.yieldSlots
  extract_lets +onlyGivenNames _ _
  split
  · exact .ite (.putEng h) h
  · exact h

theorem KeepsWf.acceptStart {n e : Nat} {st : Start} (h : KeepsWf s u) : KeepsWf s (u.acceptStart n e st) := by
  unfold State.acceptStart
  split
  · exact .acceptArr h
  · exact .acceptArr h
  · split
    · exact .rearm <| .getD (fun _ e => .placeStart e (.unqueue h)) h
    · split
      · exact .acceptList h
      · exact .acceptList h
      · exact .ite (.acceptCopy h) (.acceptSarm h)
      · exact .acceptSarm h

theorem execStartAccept_keeps {n : Ch} {e : Eng} (h : KeepsWf s u) : OutKeeps s (execStartAccept n e u) := by
  unfold execStartAccept
  extract_lets +onlyGivenNames v w
  have k : KeepsWf s v := .frontMovable h
  have q : KeepsWf s w := .ite (.yieldSlots k) k
  split
  · exact .next q
  · exact .ite (.next q) (.next <| .orHeld q (.acceptStart q))

end Sys2Proof.Machine
end

section
/-! SUPPORT. The stored memory stays canonical through the array commands (Machine/Array): one lemma
per function, along the calls that it makes. -/

namespace Sys2Proof.Machine

variable {s u v : State}

theorem execArray_keeps {n : Ch} {t : Tag} (h : KeepsWf s u) : OutKeeps s (execArray n t u) := by
  unfold execArray
  refine .issue (fun _ _ => ?_) h
  split
  · exact .next <| .arrayIssue h
  · exact .ite (.next <| .gvIssueFault h) (.ite (.next <| .issueFault <| .recFault h) (.next <| .issueFault h))

theorem execSpargeRegionWaitEnd_keeps {n : Ch} (h : KeepsWf s u) : OutKeeps s (execSpargeRegionWaitEnd n u) := by
  unfold execSpargeRegionWaitEnd
  split
  · exact .next <| .lauterRead h
  · exact .next h

theorem execArrayEnter_keeps {n : Ch} (h : KeepsWf s u) : OutKeeps s (execArrayEnter n u) := by
  unfold execArrayEnter
  split
  · exact .next h
  · exact .next <| .showLauter <| .showArray <| .progress <| .modArr <| .setPhase <| .setSlot h

theorem KeepsWf.feederPeak {n : Nat} {a : ArrInstr} {spare : Word} (h : KeepsWf s u) : KeepsWf s (u.feederPeak n a spare) :=
  .ite (.set h) h

theorem execArrayStep_keeps {n : Ch} (h : KeepsWf s u) : OutKeeps s (execArrayStep n u) := by
  unfold execArrayStep
  split
  · exact .next h
  · refine .ite (.next h) ?_
    extract_lets +onlyGivenNames i j
    split
    · exact .next h
    · extract_lets +onlyGivenNames src slotted m peaked tallied overflowed moved left
      have k : KeepsWf s overflowed := by
        refine .foldl (fun _ _ k => ?_) (.progress <| .tally <| .feederPeak <| .setSlot h)
        split
        · exact .overflow k
        · exact k
      have q : KeepsWf s moved := .modArr k
      exact .ite (.next <| .passEnd q) (.ite (.next <| .showLauter <| .showArray <| .modArr <| .setPhase q) (.next q))

theorem KeepsWf.ckLog {n : Nat} {t : Tile} {cause : Nat} (h : KeepsWf s u) : KeepsWf s (u.ckLog n t cause) :=
  .set <| .set <| .set <| .set <| .set <| .set <| .set <| .set h

theorem KeepsWf.logSpare {n r : Nat} (h : KeepsWf s u) : KeepsWf s (u.logSpare n r) := .keepLog h

theorem KeepsWf.drainPassed {n : Nat} (h : KeepsWf s u) : KeepsWf s (u.drainPassed n) := by
  unfold State.drainPassed
  refine .foldl (fun _ _ k => ?_) h
  split
  · exact k
  · extract_lets +onlyGivenNames _ v
    have q : KeepsWf s v := .modArr k
    exact .ite (.passEnd q) q

theorem KeepsWf.chamberFailed {n t : Nat} (h : KeepsWf s u) : KeepsWf s (u.chamberFailed n t) :=
  .fenceAsk <| .set <| .drainPassed <| .foldl (fun _ _ k => .ite (.abortFrom <| .recFault k) k) h

theorem KeepsWf.procedure {n owner id : Nat} {t : Tile} {c : Checks} (h : KeepsWf s u) : KeepsWf s (u.procedure n owner id t c).1 := by
  unfold State.procedure
  extract_lets +onlyGivenNames v
  have k : KeepsWf s v := .bump h
  split
  · exact (.ite (.ckLog k) (.ite (.ckLog k) k))
  · extract_lets +onlyGivenNames w _
    have q : KeepsWf s w := .tally <| .bump k
    split
    · exact q
    · extract_lets +onlyGivenNames _
      split
      · split
        · exact .logSpare <| .set <| .set q
        · exact .ckLog q
      · exact .ckLog q
    · exact .chamberFailed <| .ckLog <| .tileFault (fun _ _ r => .ayFault r) q

theorem KeepsWf.checkTiles {n slot : Nat} {a : ArrInstr} {defects : List CellFault} (h : KeepsWf s u) :
    KeepsWf s (u.checkTiles n slot a defects) := by
  unfold State.checkTiles
  extract_lets +onlyGivenNames w sl m here runs
  refine .modArr <| .foldl (fun x p k => ?_) (.setSlot h)
  split
  extract_lets +onlyGivenNames setT
  have put {v t} (k : KeepsWf s v) : KeepsWf s (setT v t) := .modArr k
  refine .ite k <| .ite (put k) ?_
  extract_lets +onlyGivenNames sl' cols terms k'
  split
  next e =>
  have q := KeepsWf.of_fst e (.procedure k)
  exact put <| .ite (.setSlot q) (.setSlot q)

theorem execChecksComplete_keeps {n : Ch} {slot : Fin 2} {defects : List CellFault} (h : KeepsWf s u) :
    OutKeeps s (execChecksComplete n slot defects u) := by
  unfold execChecksComplete
  split
  · exact .next h
  · exact .ite (.next h) (.next <| .showArray <| .passEnd <| .progress <| .checkTiles h)

theorem KeepsWf.select {n : Nat} {a : ArrInstr} (h : KeepsWf s u) : KeepsWf s (u.select n a) :=
  .showJoin <| .modArr <| .writeKeep <| .tally <| .bump <| .tally <| .bump h

theorem KeepsWf.drained {n slot : Nat} {a : ArrInstr} (h : KeepsWf s u) : KeepsWf s (u.drained n slot a) := by
  unfold State.drained
  exact .complete <| .showArray <| .showJoin <| .progress <| .arrayDone <| .tolAdd <| .setSlot <| .foldl (fun _ _ k =>
    .regionUse k) (.setPhase h)

theorem execDrainComplete_keeps {n : Ch} {slot : Fin 2} (h : KeepsWf s u) : OutKeeps s (execDrainComplete n slot u) := by
  unfold execDrainComplete
  split
  · exact .next h
  · exact .ite (.next h) (.ite (.next <| .select h) (.ite (.next h) (.next <| .drained h)))

end Sys2Proof.Machine
end

section
/-! SUPPORT. The stored memory stays canonical through the sump (Machine/Sump): one lemma
per function, along the calls that it makes. -/

namespace Sys2Proof.Machine

variable {s u v : State}

theorem KeepsWf.sessionFault {n t : Nat} (h : KeepsWf s u) : KeepsWf s (u.sessionFault n t) := .issueFault <| .recFault h

theorem KeepsWf.spFault {n t code id : Nat} (h : KeepsWf s u) : KeepsWf s (u.spFault n t code id) := .taskFault <| .recFault h

theorem KeepsWf.listIssue {n t : Nat} {w : BitVec 128} {pc : Nat} {starts : List (Nat × StartKind × Nat)} (h : KeepsWf s u) :
    KeepsWf s (u.listIssue n t w pc starts) :=
  .foldl (fun _ _ k => .queueStart k) (.modCh (.take h))

theorem execMerge_keeps {n : Ch} {t : Tag} (h : KeepsWf s u) : OutKeeps s (execMerge n t u) :=
  .issue (fun _ _ => .ite (.next <| .issueFault h) (.ite (.next <| .sessionFault h) (.next <| .listIssue h))) h

theorem execScatterIn_keeps {n : Ch} {t : Tag} (h : KeepsWf s u) : OutKeeps s (execScatterIn n t u) :=
  .issue (fun _ _ => .ite (.next <| .issueFault h) (.ite (.next <| .sessionFault h) (.next <| .listIssue h))) h

theorem execSumpOpen_keeps {n : Ch} {t : Tag} (h : KeepsWf s u) : OutKeeps s (execSumpOpen n t u) := by
  unfold execSumpOpen
  refine .issue (fun _ _ => ?_) h
  extract_lets +onlyGivenNames _
  split
  · exact .next <| .issueFault h
  · split
    · next e => exact .next <| .of_snd e (.consume h)
    · next e => exact .next <| .issueFault <| .memFaultReg <| .of_snd e (.consume h)
    · next e =>
      have k := KeepsWf.of_snd e (.consume h)
      extract_lets +onlyGivenNames _
      split
      · exact .next <| .issueFault k
      · split
        · exact .next <| .issueFault k
        · split
          · exact .next <| .sessionFault k
          · exact .next <| .modTask <| .set <| .set <| .set <| .set <| .set <| .set <| .setReg <| .takeSeed <| .take k

theorem execSumpDrain_keeps {n : Ch} {t : Tag} (h : KeepsWf s u) : OutKeeps s (execSumpDrain n t u) :=
  .issue (fun _ _ => .ite (.next <| .issueFault h) (.ite (.next <| .sessionFault h) (.next <| .set <| .listIssue h))) h

theorem KeepsWf.feedList {n t id : Nat} {es : List Entry} (h : KeepsWf s u) : KeepsWf s (u.feedList n t id es) :=
  .retireAll <| .putEng <| .modCh h

theorem KeepsWf.listSettle {n t id : Nat} (h : KeepsWf s u) : KeepsWf s (u.listSettle n t id) := .ite (.showLauter <| .listDone h) h

theorem KeepsWf.listRead {n : Nat} {l : ListInstr} (h : KeepsWf s u) : KeepsWf s (u.listRead n l) := by
  unfold State.listRead
  extract_lets +onlyGivenNames _ _ _ _ _ _ _ _ _ _
  split
  · exact .ltFault h
  · exact .ltFault h
  · extract_lets +onlyGivenNames _ v _
    have k : KeepsWf s v := .modCh h
    exact .ite (.listSettle <| .feedList k) (.listSettle <| .modCh k)

theorem execLauterRead_keeps {n : Ch} (h : KeepsWf s u) : OutKeeps s (execLauterRead n u) := by
  unfold execLauterRead
  split
  · exact .next <| .lauterRead h
  · split
    · exact .next <| .showLauter <| .listRead h
    · exact .next h

theorem KeepsWf.setWays {n set : Nat} {l : List (Nat × SumpEntry)} (h : KeepsWf s u) : KeepsWf s (u.setWays n set l) := .modCh h

theorem KeepsWf.newRun {n t : Nat} {es : List Entry} {id : Nat} (h : KeepsWf s u) : KeepsWf s (u.newRun n t es id) :=
  .ite (.spFault h) (.modCh <| .startInternal <| .set <| .set h)

theorem KeepsWf.flushSpill {n t id : Nat} (h : KeepsWf s u) : KeepsWf s (u.flushSpill n t id) := by
  unfold State.flushSpill
  extract_lets +onlyGivenNames _
  split
  · exact h
  · split
    · exact .newRun <| .modTask <| .modCh h

theorem KeepsWf.emptySpill {n : Nat} (h : KeepsWf s u) : KeepsWf s (u.emptySpill n) := .ite (.foldl (fun _ _ k => .flushSpill k) h) h

theorem KeepsWf.spillPut {n : Nat} {e : SumpEntry} {id : Nat} (h : KeepsWf s u) : KeepsWf s (u.spillPut n e id) := by
  unfold State.spillPut
  extract_lets +onlyGivenNames v
  have k : KeepsWf s v := .modCh h
  exact .ite k (.foldl (fun _ _ q => .flushSpill q) k)

theorem KeepsWf.sumpEcc {n set : Nat} {ecc : List (Fin 4 × Bool)} (h : KeepsWf s u) : KeepsWf s (u.sumpEcc n set ecc) := by
  unfold State.sumpEcc
  refine .foldl (fun _ _ k => ?_) h
  split
  · exact k
  · exact .ite (.spFault <| .setReg <| .setWays k) (.bump k)

theorem KeepsWf.updTaken {n : Nat} {u1 : Upd} (h : KeepsWf s u) : KeepsWf s (u.updTaken n u1) := .modCh h

theorem execSumpUpdate_keeps {n : Ch} {bank : Fin 16} {ecc : List (Fin 4 × Bool)} (h : KeepsWf s u) :
    OutKeeps s (execSumpUpdate n bank ecc u) := by
  unfold execSumpUpdate
  extract_lets +onlyGivenNames seed
  split
  · exact .next h
  · extract_lets +onlyGivenNames done
    have did {v} (k : KeepsWf s v) : KeepsWf s (done v) := .listSettle <| .progress <| .showFlowWaits <| .showSump <| .updTaken k
    refine .ite (.next h) <| .ite (.ite (.next <| did <| .bump h) (.next <| .spFault <| .setReg h)) ?_
    extract_lets +onlyGivenNames set checked r
    have k : KeepsWf s checked := .sumpEcc h
    refine .ite (.next <| .showSump k) ?_
    extract_lets +onlyGivenNames stored saturated counted hit evicted
    have q : KeepsWf s counted := .tally <| .modTask <| .setWays k
    have e : KeepsWf s evicted := .ite (.tally <| .bump <| .ite (.tally q) q) (.ite (.tally q) q)
    refine .next <| did ?_
    split
    · exact .spillPut e
    · exact e

theorem execSpillRunWritten_keeps {n : Ch} (h : KeepsWf s u) : OutKeeps s (execSpillRunWritten n u) := by
  unfold execSpillRunWritten
  split
  · exact .next h
  · exact .ite (.next h) (.next <| .progress <| .showSump <| .emptySpill <| .tally <| .modCh h)

theorem KeepsWf.flushTag {n t id : Nat} (h : KeepsWf s u) : KeepsWf s (u.flushTag n t id) := by
  unfold State.flushTag
  exact .modCh <| .foldl (fun _ _ k => .ite (.newRun k) k) (.flushSpill h)

theorem KeepsWf.sumpClose {n : Nat} {d : SumpDrain} {es : List Entry} (h : KeepsWf s u) : KeepsWf s (u.sumpClose n d es) :=
  .showSump <| .takeSeed <| .listSettle <| .feedList <| .modCh h

theorem execSumpDrainStart_keeps {n : Ch} (h : KeepsWf s u) : OutKeeps s (execSumpDrainStart n u) := by
  unfold execSumpDrainStart
  split
  · exact .next h
  · split
    · exact .next h
    · extract_lets +onlyGivenNames _ _ _ v
      have k : KeepsWf s v := .progress <| .modCh (.flushTag h)
      exact .ite (.next <| .sumpClose k) (.next <| .showSump k)

theorem KeepsWf.readRun {n t half j k : Nat} (h : KeepsWf s u) : KeepsWf s (u.readRun n t half j k).2 := by
  unfold State.readRun
  split
  · next e => exact .of_snd e (.consume h)
  · next e => exact .of_snd e (.consume h)
  · next e => exact .of_snd e (.consume h)

theorem KeepsWf.mergePair {n : Nat} {d : SumpDrain} {i : Nat} (h : KeepsWf s u) : KeepsWf s (u.mergePair n d i).2 := by
  unfold State.mergePair
  split
  · next e => exact .of_snd e (.readRun h)
  · next e =>
    have k := KeepsWf.of_snd e (.readRun h)
    split
    · exact k
    · split
      · next e => exact .of_snd e (.readRun k)
      · next e => exact .inSnd <| .modTask <| .of_snd e (.readRun k)

theorem KeepsWf.mergePass {n : Nat} {d : SumpDrain} (h : KeepsWf s u) : KeepsWf s (u.mergePass n d).2 := by
  refine .foldl_snd (fun x i k => ?_) h
  split
  · exact k
  · split
    · next e => exact .of_snd e (.mergePair k)
    · next e => exact .of_snd e (.mergePair k)
    · next e =>
      have q := KeepsWf.of_snd e (.mergePair k)
      extract_lets j w
      have r : KeepsWf s w := .ite (.modCh q) q
      split
      · next e => exact .of_snd e (.writeVa r)
      · next e => exact .of_snd e (.writeVa r)

theorem KeepsWf.mergeRun {n : Nat} {d : SumpDrain} (h : KeepsWf s u) : KeepsWf s (u.mergeRun n d) := by
  unfold State.mergeRun
  split
  · split
    · next e => exact .progress <| .sumpClose <| .of_snd e (.mergePair h)
    · next e => exact .memFault <| .of_snd e (.mergePair h)
    · next e => exact .keepReads <| .of_snd e (.mergePair h)
  · split
    · next e => exact .progress <| .modCh <| .of_snd e (.mergePass h)
    · next e => exact .memFault <| .of_snd e (.mergePass h)
    · next e => exact .keepReads <| .of_snd e (.mergePass h)

theorem execSumpMergePass_keeps {n : Ch} (h : KeepsWf s u) : OutKeeps s (execSumpMergePass n u) := by
  unfold execSumpMergePass
  split
  · exact .next h
  · exact .ite (.next h) (.next <| .arbitrate (fun _ k => .mergeRun k) h)

end Sys2Proof.Machine
end

section
/-! SUPPORT. The stored memory stays canonical through Flowstone's commands (Machine/Flowstone): one lemma
per function, along the calls that it makes. -/

namespace Sys2Proof.Machine

variable {s u v : State}

theorem KeepsWf.chainFoot {n : Nat} {c : Chain} {i : Nat} (h : KeepsWf s u) : KeepsWf s (u.chainFoot n c i).2 := by
  unfold State.chainFoot
  split
  · next e => exact .of_snd e (.footprint h)
  · next e =>
    have k := KeepsWf.of_snd e (.footprint h)
    split
    · exact k
    · exact k

theorem KeepsWf.chainFeet {n : Nat} {c : Chain} (h : KeepsWf s u) : KeepsWf s (u.chainFeet n c).2 := by
  refine .foldl_snd (fun x i k => ?_) h
  split
  · exact k
  · split
    · next e => exact .of_snd e (.chainFoot k)
    · next e => exact .of_snd e (.chainFoot k)

theorem KeepsWf.showFlow {n : Nat} (h : KeepsWf s u) : KeepsWf s (u.showFlow n) := by
  unfold State.showFlow
  split
  · exact .setReg h
  · exact .showFlowWaits <| .set <| .set <| .set <| .set <| .setReg h

theorem KeepsWf.fsFault {n t code stage id : Nat} (h : KeepsWf s u) : KeepsWf s (u.fsFault n t code stage id) := .taskFault <| .recFault h

theorem KeepsWf.modChain {n : Nat} {c : Chain} {f : Chain → Chain} (h : KeepsWf s u) : KeepsWf s (u.modChain n c f) := .modCh h

theorem execChain_keeps {n : Ch} {t : Tag} (h : KeepsWf s u) : OutKeeps s (execChain n t u) := by
  unfold execChain
  refine .issue (fun _ _ => ?_) h
  extract_lets +onlyGivenNames _ v
  have k : KeepsWf s v := .take h
  exact .ite (.next <| .complete k) (.next <| .modCh k)

theorem execChainStart_keeps {n : Ch} (h : KeepsWf s u) : OutKeeps s (execChainStart n u) := by
  unfold execChainStart
  split
  · exact .next h
  · refine .ite (.next h) ?_
    extract_lets +onlyGivenNames c t scatter
    split
    · exact .next <| .fsFault h
    · refine .ite (.next <| .taskFault h) <| .ite (.next <| .taskFault h) <| .ite (.next <| .spFault h) <| .ite (.next <| .fsFault h) ?_
      split
      · next e =>
        have k := KeepsWf.of_snd e (.chainFeet h)
        exact .ite (.next <| .orHeld h (.fsFault k)) (.next <| .orHeld h (.memFault k))
      · next e =>
        have k := KeepsWf.of_snd e (.chainFeet h)
        exact .ite (.next <| .orHeld h (.fsFault k)) (.next <| .orHeld h (.showFlow <| .progress <| .modChain k))

theorem Preserves.rdBits {n : Nat} {c : Chain} {ov : Overlay} {a : Int} {b : Nat} : Preserves (KeepsWf s) (rdBits n c ov a b) :=
  .reading fun m h => Preserves.andThen (.writing <| .tally <| .readCws h) (fun _ => .checked .fail fun _ => .done) m h

theorem Preserves.loadEl {n : Nat} {c : Chain} {i r e : Nat} : Preserves (KeepsWf s) (loadEl n c i r e) := by
  unfold Sys2Proof.Machine.loadEl
  exact .ite .done (.andThen .rdBits fun _ => .done)

theorem Preserves.loadRow {n : Nat} {c : Chain} {i r : Nat} : Preserves (KeepsWf s) (loadRow n c i r) := by
  unfold Sys2Proof.Machine.loadRow
  exact .ite (.ite (.andThen .loadEl fun _ => .done) (.mapping fun _ => .loadEl)) .done

theorem Preserves.loadMask {n : Nat} {c : Chain} {r : Nat} : Preserves (KeepsWf s) (loadMask n c r) := by
  unfold Sys2Proof.Machine.loadMask
  exact .mapping fun _ => .ite (.andThen .rdBits fun _ => .done) .done

theorem Preserves.unpackRow {n : Nat} {c : Chain} {r j : Nat} {l : List (Bool × Bool × Lw)} :
    Preserves (KeepsWf s) (unpackRow n c r j l) := by
  induction l generalizing j with
  | nil => exact .done
  | cons x rest ih =>
    obtain ⟨take, zero, b⟩ := x
    unfold Sys2Proof.Machine.unpackRow
    exact .ite (.andThen .loadEl fun _ => .andThen ih fun _ => .done) (.andThen ih fun _ => .done)

theorem Preserves.stageRow {n : Nat} {c : Chain} {r ctr : Nat} {sm : Sampling} {q : Row} {g : Stg} :
    Preserves (KeepsWf s) (stageRow n c r ctr sm q g) :=
  .ite (.andThen .unpackRow fun _ => .done) <| .ite .done <| .ite .done <| .ite .done .done

theorem Preserves.storeEl {n : Nat} {c : Chain} {r : Nat} {q : Overlay × NumFlags} {e : Nat} {w : Lw} :
    Preserves (KeepsWf s) (storeEl n c r q e w) := by
  unfold Sys2Proof.Machine.storeEl
  exact .ite .done (.ite (.andThen .rdBits fun _ => .done) (.ite (.andThen .rdBits fun _ => .ite .done .done) (.ite .done .done)))

theorem Preserves.flushOverlay {n : Nat} {c : Chain} {ov : Overlay} : Preserves (KeepsWf s) (flushOverlay n c ov) := by
  unfold Sys2Proof.Machine.flushOverlay
  exact .changing fun _ k => .modChain <| .tally <| .storeAll k

theorem Preserves.storeRow {n : Nat} {c : Chain} {r : Nat} {f : NumFlags} {l : List (Option (Nat × Lw))} :
    Preserves (KeepsWf s) (storeRow n c r f l) := by
  unfold Sys2Proof.Machine.storeRow
  refine .folding fun _ _ => ?_
  refine .andThen ?_ fun _ => .andThen .flushOverlay fun _ => .done
  refine .folding fun _ _ => ?_
  split
  · exact .storeEl
  · exact .done

theorem Preserves.chainRow {n : Nat} {c : Chain} {r : Nat} : Preserves (KeepsWf s) (chainRow n c r) := by
  unfold Sys2Proof.Machine.chainRow
  extract_lets -underBinder t len
  refine .andThen .getting fun m => ?_
  extract_lets -underBinder sm fromX
  have rows (x) : Preserves (KeepsWf s) (fromX x) := by
    refine .andThen .loadRow fun _ => .andThen .loadRow fun _ => .andThen .loadMask fun _ => .andThen (.folding fun _ _ =>
      .stageRow) fun _ =>
      .checked (.changing fun _ k => .update k) fun _ => ?_
    beta_reduce
    extract_lets -underBinder packed take zero afterStore
    have stored (f) : Preserves (KeepsWf s) (afterStore f) := by
      unfold afterStore
      extract_lets -underBinder lanes red afterRecord
      have recorded (f) : Preserves (KeepsWf s) (afterRecord f) :=
        .checked (.changing fun _ k => .modCh k) fun _ => .changing fun _ k => .tally <| .setReg <| .ite (.bump k) k
      exact .ite (.andThen .done recorded) (.andThen .flushOverlay fun _ => .andThen .done recorded)
    exact .ite (.either .storeRow .storeRow stored) (.andThen .done stored)
  exact .either .done .loadRow rows

theorem KeepsWf.rowDone {n : Nat} {c : Chain} {saving : Bool} (h : KeepsWf s u) : KeepsWf s (u.rowDone n c saving) := by
  have k := Preserves.chainRow (n := n) (c := c) (r := c.row) u h
  unfold State.rowDone
  split
  · next e => exact .memFault <| .of_snd e k
  · next e => exact .progress <| .modChain <| .of_snd e k

theorem execChainRowDone_keeps {n : Ch} (h : KeepsWf s u) : OutKeeps s (execChainRowDone n u) := by
  unfold execChainRowDone
  split
  · exact .next h
  · exact .ite (.next h) (.next <| .showFlow <| .arbitrate (fun _ k => .rowDone k) h)

theorem execChainComplete_keeps {n : Ch} (h : KeepsWf s u) : OutKeeps s (execChainComplete n u) := by
  unfold execChainComplete
  split
  · exact .next h
  · exact .ite (.next <| .showFlow h) (.next <| .showFlow <| .complete <| .modCh h)

end Sys2Proof.Machine
end

section
/-! SUPPORT. The stored memory stays canonical through the gravity instructions (Machine/Gv): one lemma
per function, along the calls that it makes. -/

namespace Sys2Proof.Machine

variable {s u v : State}

theorem KeepsWf.gvRanges {n t va k : Nat} {need : Need} (h : KeepsWf s u) : KeepsWf s (u.gvRanges n t va k need).2 := by
  unfold State.gvRanges
  split
  · next e => exact .of_snd e (.footprint h)
  · next e => exact .of_snd e (.footprint h)

theorem KeepsWf.gvRead {n t va k : Nat} (h : KeepsWf s u) : KeepsWf s (u.gvRead n t va k).2 := by
  unfold State.gvRead
  split
  · next e => exact .of_snd e (.gvRanges h)
  · next e =>
    have q := KeepsWf.of_snd e (.gvRanges h)
    split
    · exact q
    · split
      · next e => exact .of_snd e (.consume q)
      · next e => exact .of_snd e (.consume q)
      · next e => exact .of_snd e (.consume q)

theorem KeepsWf.gvStop {n t : Nat} {e : Nat × Nat} {write id : Nat} (h : KeepsWf s u) : KeepsWf s (u.gvStop n t e write id) :=
  .ite (.gvFault h) (.memFault h)

theorem KeepsWf.gvActual {n t : Nat} {rec : Word × Word} {c : Nat} (h : KeepsWf s u) : KeepsWf s (u.gvActual n t rec c).2 := by
  unfold State.gvActual
  split
  · exact h
  · extract_lets +onlyGivenNames _
    split
    · next e => exact .of_snd e (.gvRead h)
    · next e => exact .of_snd e (.gvRead h)

theorem KeepsWf.gvEstimate {n t : Nat} {est : Word × Word} {pos c : Nat} (h : KeepsWf s u) : KeepsWf s (u.gvEstimate n t est pos c).2 := by
  unfold State.gvEstimate
  extract_lets +onlyGivenNames _
  split
  · exact h
  · split
    · next e => exact .of_snd e (.gvRead h)
    · next e => exact .of_snd e (.gvRead h)

theorem KeepsWf.gvCompare {n t : Nat} {g : GvCopy} {est rec_ : Word × Word} {pos : Nat} {l : List Nat} (h : KeepsWf s u) :
    KeepsWf s (u.gvCompare n t g est rec_ pos l).2 := by
  induction l generalizing u with
  | nil => exact h
  | cons c r ih =>
    unfold State.gvCompare
    split
    · next e => exact .of_snd e (.gvEstimate h)
    · next e =>
      have k := KeepsWf.of_snd e (.gvEstimate h)
      split
      · next e => exact .of_snd e (.gvActual k)
      · next e =>
        have q := KeepsWf.of_snd e (.gvActual k)
        split
        · next e => exact .of_snd e (ih q)
        · next e => exact .of_snd e (ih q)

theorem KeepsWf.gvCheck {n : Nat} {j : GvJoin} (p : u.gvCheck n j = some v) (h : KeepsWf s u) : KeepsWf s v := by
  unfold State.gvCheck at p
  extract_lets w g t est rec_ out compared at p
  have c : KeepsWf s compared.2 := by
    unfold compared
    split
    · exact h
    · split
      · next e => exact .of_snd e (.gvRead h)
      · next e => exact .gvCompare <| .of_snd e (.gvRead h)
  clear_value compared
  split at p
  · cases p
  · cases p
    exact .gvStop c
  · next k m joined =>
    replace c : KeepsWf s joined := c
    dsimp only at p
    split at p
    · cases p
      exact .checkDone <| .showJoin <| .modCh c
    · split at p
      · next e =>
        cases p
        exact .gvStop <| .of_snd e (.gvRanges <| .showJoin <| .modCh c)
      · next e =>
        cases p
        exact .startInternal <| .of_snd e (.gvRanges <| .showJoin <| .modCh c)

theorem execGvCheck_keeps {n : Ch} {t : Tag} (h : KeepsWf s u) : OutKeeps s (execGvCheck n t u) := by
  unfold execGvCheck
  refine .issue (fun _ _ => ?_) h
  extract_lets +onlyGivenNames _
  split
  · exact .next <| .gvIssueFault h
  · extract_lets +onlyGivenNames _ v
    have k : KeepsWf s v := .take h
    exact .next <| .getD (fun _ e => .gvCheck e k) (.showJoin <| .modCh k)

theorem execGvJoin_keeps {n : Ch} {t : Tag} (h : KeepsWf s u) : OutKeeps s (execGvJoin n t u) := by
  unfold execGvJoin
  refine .issue (fun _ _ => ?_) h
  extract_lets +onlyGivenNames _
  split
  · exact .next <| .gvIssueFault h
  · extract_lets +onlyGivenNames _ v
    have k : KeepsWf s v := .take h
    exact .ite (.next <| .showJoin <| .modCh k) (.next <| .complete <| .set k)

theorem KeepsWf.joinRead {n t : Nat} {l : List Nat} (h : KeepsWf s u) : KeepsWf s (u.joinRead n t l).2 := by
  induction l generalizing u with
  | nil => exact h
  | cons va r ih =>
    unfold State.joinRead
    split
    · next e => exact .of_snd e (.gvRead h)
    · next e =>
      have k := KeepsWf.of_snd e (.gvRead h)
      split
      · next e => exact .of_snd e (ih k)
      · exact ih k

theorem KeepsWf.joinGone {n : Nat} {j : GvJoin} (h : KeepsWf s u) : KeepsWf s (u.joinGone n j) := .modCh h

theorem execGvJoinRead_keeps {n : Ch} {t : Tag} (h : KeepsWf s u) : OutKeeps s (execGvJoinRead n t u) := by
  unfold execGvJoinRead
  split
  · exact .next h
  · split
    · exact .next h
    · split
      · exact .next <| .getD (fun _ e => .gvCheck e (.joinGone h)) h
      · split
        · exact .next h
        · next e => exact .next <| .gvStop <| .of_snd e (.joinRead h)
        · next e =>
          have k := KeepsWf.of_snd e (.joinRead h)
          extract_lets +onlyGivenNames v _
          have q : KeepsWf s v := .set <| .joinGone k
          exact .next <| .showJoin <| .complete <| .ite (.tally <| .bump q) q

end Sys2Proof.Machine
end

section
/-! SUPPORT. The stored memory stays canonical through task contexts (Machine/Tasks): one lemma
per function, along the calls that it makes. -/

namespace Sys2Proof.Machine

variable {s u v : State}

theorem KeepsWf.cmdCreate {n : Nat} (h : KeepsWf s u) : KeepsWf s (u.cmdCreate n) := by
  unfold State.cmdCreate
  extract_lets +onlyGivenNames _ _
  split
  · exact .cmdDone h
  · exact .cmdDone <| .setTstate <| .modCh <| .setTask <| .set <| .set <| .set <| .set <| .setReg <| .foldl (fun _ _ k => .setReg k) h

theorem KeepsWf.cmdRelease {n t : Nat} (h : KeepsWf s u) : KeepsWf s (u.cmdRelease n t) := .ite (.cmdDone h) (.cmdDone <| .setTstate h)

theorem execTaskCreate_keeps {n : Ch} (h : KeepsWf s u) : OutKeeps s (execTaskCreate n u) := .next <| .cmdCreate h

theorem execTaskRelease_keeps {n : Ch} {t : Tag} (h : KeepsWf s u) : OutKeeps s (execTaskRelease n t u) := .next <| .cmdRelease h

theorem KeepsWf.cmdPreempt {n t : Nat} (h : KeepsWf s u) : KeepsWf s (u.cmdPreempt n t) := h.trans (cmdPreempt_only ..).cells.keeps

theorem execTaskPreempt_keeps {n : Ch} {t : Tag} (h : KeepsWf s u) : OutKeeps s (execTaskPreempt n t u) := .next <| .cmdPreempt h

theorem KeepsWf.parkArray {n t : Nat} (h : KeepsWf s u) : KeepsWf s (u.parkArray n t) := by
  unfold State.parkArray
  exact .modCh <| .foldl (fun _ _ k => .ite (.setPhase <| .setSlot k) k) h

theorem KeepsWf.parkTask {n t : Nat} (h : KeepsWf s u) : KeepsWf s (u.parkTask n t) :=
  .showSump <| .showFlow <| .showLauter <| .showArray <| .flushTag <| .modTask <| .modCh <| .foldl (fun _ _ k =>
    .setEng k) (.arbWithdraw <| .dropStarts <| .parkArray h)

theorem execPreemptEnginesStopped_keeps {n : Ch} {t : Tag} (h : KeepsWf s u) : OutKeeps s (execPreemptEnginesStopped n t u) :=
  .ite (.next h) (.next <| .parkTask h)

theorem KeepsWf.clearContext {n t : Nat} {slots : List Nat} (h : KeepsWf s u) : KeepsWf s (u.clearContext n t slots) := by
  unfold State.clearContext
  extract_lets +onlyGivenNames v _ _ _ _
  have k : KeepsWf s v := by
    refine .foldl (fun _ _ q => ?_) h
    extract_lets +onlyGivenNames _ w
    have r : KeepsWf s w := .ite (.set q) q
    exact .ite (.setPhase <| .setSlot r) (.setSlot r)
  exact .showJoin <| .showSump <| .showFlow <| .showLauter <| .showArray <| .takeSeed <| .showWindow <| .setTask <| .setReg <| .modCh <|
    .dropStarts k

theorem KeepsWf.saved {n t pa : Nat} (h : KeepsWf s u) : KeepsWf s (u.saved n t pa) :=
  .cmdDone <| .tally <| .bump <| .set <| .setTstate <| .clearContext <| .update <| .update h

theorem execPreemptSaveWritten_keeps {n : Ch} {t : Tag} (h : KeepsWf s u) : OutKeeps s (execPreemptSaveWritten n t u) := by
  unfold execPreemptSaveWritten
  split
  · exact .next h
  · extract_lets +onlyGivenNames _
    split
    · next e => exact .next <| .memFault <| .of_snd e (.translate h)
    · next e =>
      have k := KeepsWf.of_snd e (.translate h)
      split
      · next e => exact .next <| .memFault <| .of_snd e (.writeVa k)
      · next e => exact .next <| .saved <| .of_snd e (.writeVa k)

theorem KeepsWf.cmdResume {n t : Nat} (h : KeepsWf s u) : KeepsWf s (u.cmdResume n t) := by
  unfold State.cmdResume
  split
  · exact .cmdDone h
  · extract_lets +onlyGivenNames _ _
    split
    · next e => exact .cmdDone <| .of_snd e (.translate h)
    · next e =>
      have k := KeepsWf.of_snd e (.translate h)
      split
      · exact .cmdDone k
      · exact .ite (.cmdDone k) (.setTstate <| .modCh <| .setTask <| .set <| .set <| .set <| .set <| .setReg k)

theorem execTaskResume_keeps {n : Ch} {t : Tag} (h : KeepsWf s u) : OutKeeps s (execTaskResume n t u) := .next <| .cmdResume h

theorem KeepsWf.putBack {n t : Nat} {i : SaveImg} (h : KeepsWf s u) : KeepsWf s (u.putBack n t i) :=
  .showWindow <| .setTask <| .foldl (fun _ _ k => .ite (.ite (.queueStart <| .set <| .setRegion k) k) (.queueStart k)) (.tally <|
    .bump (.modCh h))

theorem KeepsWf.restoreSlots {n t : Nat} {i : SaveImg} {b : List Byte} (h : KeepsWf s u) : KeepsWf s (u.restoreSlots n t i b).1 := by
  refine .foldl_fst (fun x j k => ?_) h
  extract_lets v img held
  split
  · exact k
  · split
    · exact k
    · exact .set <| .setPhase <| .setSlot k

theorem KeepsWf.restored {n t : Nat} {i : SaveImg} (h : KeepsWf s u) : KeepsWf s (u.restored n t i) :=
  .cmdDone <| .settleAll <| .showJoin <| .showSump <| .showFlow <| .showLauter <| .showArray <| .setTstate <| .putBack <|
    .foldl (fun _ _ k => .setReg k) h

theorem execResumeRestored_keeps {n : Ch} {t : Tag} (h : KeepsWf s u) : OutKeeps s (execResumeRestored n t u) := by
  unfold execResumeRestored
  split
  · exact .next h
  · split
    · exact .next h
    · split
      · exact .next h
      · extract_lets +onlyGivenNames _
        split
        · next e =>
          have k := KeepsWf.of_snd e (.readVa h)
          split
          · next e =>
            have q := KeepsWf.of_fst e (.restoreSlots k)
            extract_lets +onlyGivenNames v
            have r : KeepsWf s v := .restored q
            exact .next <| .ite (.spFault r) r
        · next e => exact .next <| .memFault <| .of_snd e (.readVa h)
        · next e => exact .next <| .of_snd e (.readVa h)

theorem KeepsWf.cmdAbort {n t : Nat} (h : KeepsWf s u) : KeepsWf s (u.cmdAbort n t) := h.trans (cmdAbort_only ..).cells.keeps

theorem execTaskAbort_keeps {n : Ch} {t : Tag} (h : KeepsWf s u) : OutKeeps s (execTaskAbort n t u) := .next <| .cmdAbort h

theorem KeepsWf.scramble {n a2 : Nat} {l : List (Nat × Nat)} (h : KeepsWf s u) : KeepsWf s (u.scramble n a2 l) := by
  unfold State.scramble
  refine .foldl (fun _ _ k => ?_) h
  split
  · next e =>
    have q := KeepsWf.of_snd e (.translate k)
    split
    · exact q
    · split
      · exact .update <| .writePa q
      · exact q
  · next e => exact .of_snd e (.translate k)

theorem KeepsWf.scramblePa {l : List (Nat × Nat)} (h : KeepsWf s u) : KeepsWf s (u.scramblePa l) :=
  .foldl (fun _ _ k => .update <| .writePa k) h

theorem KeepsWf.abortSparge {n t : Nat} (h : KeepsWf s u) : KeepsWf s (u.abortSparge n t) := by
  unfold State.abortSparge
  extract_lets +onlyGivenNames _ _
  refine .foldl (fun _ _ k => ?_) (.foldl (fun _ _ q => .closeMcast q) h)
  extract_lets +onlyGivenNames _
  split
  · extract_lets +onlyGivenNames _ _ v _
    have r : KeepsWf s v := .ite (.update k) k
    exact .regionFree <| .setRegion <| .ite (.scramblePa r) r
  · exact k

theorem KeepsWf.abortArray {n t : Nat} (h : KeepsWf s u) : KeepsWf s (u.abortArray n t) := by
  unfold State.abortArray
  extract_lets +onlyGivenNames _ _ _ _ _ _ _ v _ _ _
  have k : KeepsWf s v := by
    refine .foldl (fun _ _ q => ?_) (.foldl (fun _ _ r => .regionUse r) h)
    extract_lets +onlyGivenNames _
    split
    · exact .setSlot q
    · exact .ite (.setPhase <| .setSlot <| .foldl (fun _ _ kept => .regionUse kept) q) (.setSlot q)
  exact .modCh <| .foldl (fun _ _ q => .arbRetag <| .setEng q) (.foldl (fun _ _ q => .ite (.set <| .setSlot q) q) k)

theorem KeepsWf.abortEnd {n t : Nat} (h : KeepsWf s u) : KeepsWf s (u.abortEnd n t) := by
  unfold State.abortEnd
  extract_lets +onlyGivenNames _ _ _ _ _ v _ _ _
  have k : KeepsWf s v := .emptySpill <| .clearContext (.modCh (.scramblePa <| .scramble (.arbWithdraw <| .abortArray <| .abortSparge h)))
  exact .showSump <| .rearm <| .retireAll <| .endTask <| .set <| .set <| .set <| .ite (.cmdDone k) k

theorem execAbortComplete_keeps {n : Ch} {t : Tag} (h : KeepsWf s u) : OutKeeps s (execAbortComplete n t u) :=
  .ite (.next h) (.next <| .abortEnd h)

end Sys2Proof.Machine
end

section
/-! SUPPORT. The stored memory stays canonical through the memory events (Machine/Memory): one lemma
per function, along the calls that it makes. -/

namespace Sys2Proof.Machine

variable {s u v : State}

theorem KeepsWf.showScrub {a1 : ScrubStore} (h : KeepsWf s u) : KeepsWf s (u.showScrub a1) := by
  unfold State.showScrub
  split
  · exact .set h
  · exact .set h
  · exact .set h
  · exact .set h

theorem KeepsWf.scrubCount {a1 : ScrubStore} {i : Nat} (h : KeepsWf s u) : KeepsWf s (u.scrubCount a1 i) := by
  unfold State.scrubCount
  split
  · extract_lets +onlyGivenNames _
    split
    · exact .ite (.modCh h) h
  · exact .ite (.modCh h) h
  · exact .ite (.update h) h
  · exact .ite (.update h) h

theorem KeepsWf.scrubAt {a1 : ScrubStore} {i : Nat} {upsets : List Upset} (h : KeepsWf s u) : KeepsWf s (u.scrubAt a1 i upsets) := by
  unfold State.scrubAt
  split
  · extract_lets +onlyGivenNames _
    split
    · exact .readCw <| .foldl (fun _ _ k => .upset k) h
    · exact .ite (.readCw <| .foldl (fun _ _ k => .upset k) h) h
  · exact .readCw <| .foldl (fun _ _ k => .upset k) h
  · split
    · exact .readCw <| .foldl (fun _ _ k => .upset k) h
    · exact h
  · exact .readDram <| .foldl (fun _ _ k => .ite (.upsetDram k) k) h

theorem KeepsWf.scrubDone {store : ScrubStore} {i : Nat} {upsets : List Upset} (h : KeepsWf s u) : KeepsWf s (u.scrubDone store i upsets) :=
  .showScrub <| .update <| .scrubAt <| .scrubCount h

theorem execScrubRead_keeps {store : ScrubStore} {upsets : List Upset} (h : KeepsWf s u) : OutKeeps s (execScrubRead store upsets u) := by
  unfold execScrubRead
  split
  · exact .ite (.next h) (.next <| .arbitrate (fun _ k => .scrubDone k) h)

theorem KeepsWf.rowCopied {n : Ch} {key : Nat} (h : KeepsWf s u) : KeepsWf s (u.rowCopied n key) := by
  unfold State.rowCopied
  extract_lets +onlyGivenNames _ _ _ v _ _ _
  have k : KeepsWf s v := by
    refine .foldl (fun _ _ q => ?_) h
    split
    · next e =>
      have r := KeepsWf.of_thd e (.readCw q)
      exact .putCw r
  exact .event <| .tally <| .keepLog <| .set <| .modCh <| .spareRow k

theorem execCellarRowCopyEnd_keeps {n : Ch} (h : KeepsWf s u) : OutKeeps s (execCellarRowCopyEnd n u) := by
  unfold execCellarRowCopyEnd
  split
  · exact .next h
  · exact .next <| .arbitrate (fun _ k => .rowCopied k) h

theorem KeepsWf.lanternPut {pa : Nat} {l : List Byte} {poison : Bool} (h : KeepsWf s u) : KeepsWf s (u.lanternPut pa l poison) :=
  .writePa <| .touch h

theorem KeepsWf.lanternWrite {pa : Nat} {l : List Byte} (h : KeepsWf s u) : KeepsWf s (u.lanternWrite pa l) :=
  h.trans (lanternWrite_wf ..)

theorem KeepsWf.lanternRead {pa k : Nat} (h : KeepsWf s u) : KeepsWf s (u.lanternRead pa k).2.2 := h.trans (lanternRead_wf ..)

theorem KeepsWf.remapLeaves {r f : Nat} (h : KeepsWf s u) : KeepsWf s (u.remapLeaves r f) :=
  .foldl (fun _ _ k => .ite (.lanternWrite <| .lanternRead k) k) h

theorem KeepsWf.invalStart {scope a2 log2 : Nat} (h : KeepsWf s u) : KeepsWf s (u.invalStart scope a2 log2) :=
  .ite h (.update <| .set <| .set h)

theorem KeepsWf.regionCopied {r f : Nat} (h : KeepsWf s u) : KeepsWf s (u.regionCopied r f) := by
  unfold State.regionCopied
  extract_lets +onlyGivenNames _ _ _ _ _ _ v _
  have k : KeepsWf s v := by
    refine .foldl (fun _ _ q => ?_) (.dropNoise <| .update (.foldl (fun _ _ kept => .wroteBack kept) h))
    split
    · next e =>
      have work := KeepsWf.of_thd e (.readDram q)
      exact .putDram work
  exact .invalStart <| .update <| .remapLeaves k

theorem execG7RegionCopyEnd_keeps (h : KeepsWf s u) : OutKeeps s (execG7RegionCopyEnd u) := by
  unfold execG7RegionCopyEnd
  split
  · exact .ite (.next h) (.next <| .arbitrate (fun _ k => .regionCopied k) h)
  · exact .next h

theorem execG7RegionRetire_keeps (h : KeepsWf s u) : OutKeeps s (execG7RegionRetire u) := by
  unfold execG7RegionRetire
  split
  · split
    · exact .next h
    · split
      · exact .next h
      · extract_lets +onlyGivenNames _ _ _ _ _ v
        have k : KeepsWf s v := .event (.keepLog (.update (.set (.set (.set <| .set h)))))
        refine .next ?_
        split
        · exact k
        · exact .retireRegion <| .update k
  · exact .next h

theorem execGmInvalAll_keeps (h : KeepsWf s u) : OutKeeps s (execGmInvalAll u) := .next <| .invalStart h

theorem execGmInvalContext_keeps {a0 : BitVec 16} (h : KeepsWf s u) : OutKeeps s (execGmInvalContext a0 u) := .next <| .invalStart h

theorem execGmInvalRange_keeps {a0 : BitVec 16} {log2 : Nat} (h : KeepsWf s u) : OutKeeps s (execGmInvalRange a0 log2 u) :=
  .next <| .invalStart h

theorem execGmInvalDone_keeps (h : KeepsWf s u) : OutKeeps s (execGmInvalDone u) := by
  unfold execGmInvalDone
  split
  · exact .next h
  · exact .next <| .set <| .set <| .update h

theorem execTunFlush_keeps (h : KeepsWf s u) : OutKeeps s (execTunFlush u) := .next <| .set <| .update h

theorem KeepsWf.flushed (h : KeepsWf s u) : KeepsWf s u.flushed := .set <| .update <| .foldl (fun _ _ k => .wroteBack k) h

theorem execTunFlushDone_keeps (h : KeepsWf s u) : OutKeeps s (execTunFlushDone u) :=
  .ite (.next h) (.next <| .arbitrate (fun _ k => .flushed k) h)

theorem execG7Refresh_keeps {a0 : Fin 64} {a1 : Bool} (h : KeepsWf s u) : OutKeeps s (execG7Refresh a0 a1 u) := .next h

end Sys2Proof.Machine
end

section
/-! SUPPORT. The stored memory stays canonical through the Gallery's ports (Machine/Links): one lemma
per function, along the calls that it makes. -/

namespace Sys2Proof.Machine

variable {s u v : State}

theorem KeepsWf.gpTo {p st : Nat} (h : KeepsWf s u) : KeepsWf s (u.gpTo p st) := by
  unfold State.gpTo
  split
  · exact h
  · extract_lets +onlyGivenNames v
    have k : KeepsWf s v := .event <| .setGpState h
    exact .ite k (.showAout <| .recalPorts k)

theorem KeepsWf.glRaw {p : Nat} {f : GFrame} (h : KeepsWf s u) : KeepsWf s (u.glRaw p f) := .glEmit h

theorem KeepsWf.sendLinkCtrl {p going : Nat} (h : KeepsWf s u) : KeepsWf s (u.sendLinkCtrl p going) := .modGport <| .glRaw h

theorem KeepsWf.glTrain {p at_ : Nat} (h : KeepsWf s u) : KeepsWf s (u.glTrain p at_) := .gpTo <| .modGport <| .modGl h

theorem KeepsWf.glDrop {p last : Nat} (h : KeepsWf s u) : KeepsWf s (u.glDrop p last) := .set <| .modGport <| .giveBackAll h

theorem KeepsWf.showHold {p : Nat} (h : KeepsWf s u) : KeepsWf s (u.showHold p) := h.trans (showHold_only ..).cells.keeps

theorem KeepsWf.glFlap {p last : Nat} (h : KeepsWf s u) : KeepsWf s (u.glFlap p last) :=
  .showHold <| .gpTo <| .modGport <| .gpTo <| .glDrop h

theorem KeepsWf.forward {p : Nat} {f : GFrame} (h : KeepsWf s u) : KeepsWf s (u.forward p f) := by
  unfold State.forward
  split
  · exact .giveBack <| .bump h
  · split
    · exact .giveBack <| .bump h
    · exact .glSendFrom h

theorem KeepsWf.stomp {f : GFrame} (h : KeepsWf s u) : KeepsWf s (u.stomp f) := by
  unfold State.stomp
  split
  · exact h
  · split
    · exact h
    · exact .glSend h

theorem KeepsWf.unknownOp {f : GFrame} (h : KeepsWf s u) : KeepsWf s (u.unknownOp f) := .ite (.respond h) h

theorem KeepsWf.glServe {p : Nat} {f : GFrame} (h : KeepsWf s u) : KeepsWf s (u.glServe p f) :=
  .ite (.giveBack <| .bump h) (.ite (.forward h) (.ite (.deliver h) (.giveBack <| .unknownOp h)))

theorem KeepsWf.glFec {p : Nat} {c : Fec} (h : KeepsWf s u) : KeepsWf s (u.glFec p c) := .tallyX <| .bump <| .bump h

theorem KeepsWf.glNak {p : Nat} (h : KeepsWf s u) : KeepsWf s (u.glNak p) := .sendLinkCtrl <| .modGport h

theorem KeepsWf.glInOrder {p : Nat} (h : KeepsWf s u) : KeepsWf s (u.glInOrder p) := .modGport h

theorem execGlFrameReceive_keeps {p : GPort} {a : GArrival} (h : KeepsWf s u) : OutKeeps s (execGlFrameReceive p a u) := by
  unfold execGlFrameReceive
  extract_lets +onlyGivenNames _ _ _
  split
  · exact .next h
  · extract_lets +onlyGivenNames v _ _ w
    have k : KeepsWf s v := .glFec h
    have q : KeepsWf s w := .ite k (.bump k)
    split
    · exact .ite (.next q) (.ite (.next <| .bump q) (.ite (.next <| .deliver q) (.next q)))
    · extract_lets +onlyGivenNames x _
      have r : KeepsWf s x := .modGport q
      split
      · extract_lets +onlyGivenNames y
        have kept : KeepsWf s y := .bump r
        exact .ite (.next <| .giveBack <| .stomp <| .glInOrder kept) (.next kept)
      · split
        · exact .next <| .glNak <| .ite (.stomp r) r
        · split
          · exact .next <| .glServe <| .tallyX <| .glInOrder r
          · exact .ite (.next <| .modGport r) (.ite (.next r) (.next <| .glNak r))

theorem KeepsWf.glGoingDown {p : Nat} (h : KeepsWf s u) : KeepsWf s (u.glGoingDown p) := .glTrain <| .gpTo <| .glDrop h

theorem KeepsWf.glCtrlUp {p : Nat} {f : GFrame} (h : KeepsWf s u) : KeepsWf s (u.glCtrlUp p f) := by
  unfold State.glCtrlUp
  extract_lets +onlyGivenNames _ _ _ _ _ v
  have k : KeepsWf s v := .markStall <| .setGport h
  split
  · exact .glFlap k
  · exact .glPump <| .ite (.bump <| .foldl (fun _ _ q => .tallyX <| .glEmit q) k) k

theorem execGlLinkCtrl_keeps {p : GPort} {a : GArrival} (h : KeepsWf s u) : OutKeeps s (execGlLinkCtrl p a u) := by
  unfold execGlLinkCtrl
  extract_lets +onlyGivenNames _ _ _
  split
  · exact .next h
  · extract_lets +onlyGivenNames v
    have k : KeepsWf s v := .glFec h
    split
    · exact .next <| .bump k
    · split
      · exact .next <| .bump k
      · extract_lets +onlyGivenNames w
        have q : KeepsWf s w := .modGport k
        exact .ite (.next <| .glGoingDown q) (.ite (.next q) (.next <| .glCtrlUp q))

theorem KeepsWf.sendNeighbour {p : Nat} (h : KeepsWf s u) : KeepsWf s (u.sendNeighbour p) := .glRaw h

theorem execGlHello_keeps {p : GPort} {a : GArrival} (h : KeepsWf s u) : OutKeeps s (execGlHello p a u) := by
  unfold execGlHello
  extract_lets +onlyGivenNames _ _ _
  split
  · exact .next h
  · extract_lets +onlyGivenNames v
    have k : KeepsWf s v := .glFec h
    split
    · exact .next <| .bump k
    · split
      · exact .next <| .bump k
      · split
        · exact .next k
        · extract_lets +onlyGivenNames _ w
          have q : KeepsWf s w := .modGport k
          exact .ite (.next <| .sendNeighbour <| .gpTo q) (.next q)

theorem execGlHelloSend_keeps {p : GPort} (h : KeepsWf s u) : OutKeeps s (execGlHelloSend p u) := .ite (.next <| .glRaw h) (.next h)

theorem execGlHelloLost_keeps {p : GPort} (h : KeepsWf s u) : OutKeeps s (execGlHelloLost p u) := .ite (.next <| .glTrain h) (.next h)

theorem execGlTrainingDone_keeps {p : GPort} {lanes : BitVec 4} (h : KeepsWf s u) : OutKeeps s (execGlTrainingDone p lanes u) :=
  .ite (.next h) (.next <| .gpTo <| .modGport <| .set <| .set <| .set h)

theorem execGlTrainingTimeout_keeps {p : GPort} (h : KeepsWf s u) : OutKeeps s (execGlTrainingTimeout p u) :=
  .ite (.next <| .modGport h) (.next h)

theorem KeepsWf.showNeigh {p addr port : Nat} (h : KeepsWf s u) : KeepsWf s (u.showNeigh p addr port) :=
  h.trans (showNeigh_only ..).cells.keeps

theorem KeepsWf.takeRxAt {ok : Nat → GFrame → Bool} {x : Nat × GFrame × Nat} (e : u.takeRxAt ok = some (x, v)) (h : KeepsWf s u) :
    KeepsWf s v := by
  unfold State.takeRxAt at e
  split at e
  · cases e
  · cases e
    exact .ite (.giveBack <| .modGl h) (.modGl h)

theorem KeepsWf.takeRx {ok : Nat → GFrame → Bool} {x : Nat × GFrame} (e : u.takeRx ok = some (x, v)) (h : KeepsWf s u) :
    KeepsWf s v := by
  obtain ⟨⟨_, _⟩, took, e⟩ := Option.map_eq_some_iff.1 e
  cases e
  exact .takeRxAt took h

theorem execNeighbour_keeps {p : GPort} (h : KeepsWf s u) : OutKeeps s (execNeighbour p u) := by
  unfold execNeighbour
  split
  · exact .next h
  · split
    · exact .next h
    · next e =>
      have k := KeepsWf.takeRx e h
      extract_lets +onlyGivenNames _
      split
      · exact .next k
      · extract_lets +onlyGivenNames _ _ _ v _
        have q : KeepsWf s v := .showNeigh k
        exact .ite (.next <| .gpTo <| .modGport q) (.next <| .gpTo <| .modGport q)

theorem execGlMiswiredRecheck_keeps {p : GPort} (h : KeepsWf s u) : OutKeeps s (execGlMiswiredRecheck p u) :=
  .ite (.next <| .sendNeighbour <| .modGport h) (.next h)

theorem execGlPortDown_keeps {p : GPort} {cause : DownCause} (h : KeepsWf s u) : OutKeeps s (execGlPortDown p cause u) := by
  unfold execGlPortDown
  extract_lets +onlyGivenNames _ _
  split
  · exact .ite (.next <| .glFlap h) (.next h)
  · exact .ite (.next <| .glFlap h) (.next h)
  · exact .ite (.next <| .glFlap h) (.next h)
  · exact .ite (.next <| .glFlap h) (.next h)

theorem execGlCreditStall_keeps {p : GPort} (h : KeepsWf s u) : OutKeeps s (execGlCreditStall p u) := .ite (.next <| .glFlap h) (.next h)

theorem execGlHoldExpire_keeps {p : GPort} (h : KeepsWf s u) : OutKeeps s (execGlHoldExpire p u) :=
  .ite (.next <| .glTrain <| .set h) (.next h)

theorem KeepsWf.glRecal {p : Nat} (h : KeepsWf s u) : KeepsWf s (u.glRecal p) := .ite (.glTrain <| .glDrop <| .sendLinkCtrl h) h

theorem execGlRecal_keeps {p : GPort} (h : KeepsWf s u) : OutKeeps s (execGlRecal p u) := .next <| .glRecal h

theorem execGlEnable_keeps {p : GPort} (h : KeepsWf s u) : OutKeeps s (execGlEnable p u) := by
  unfold execGlEnable
  extract_lets +onlyGivenNames v
  have k : KeepsWf s v := .set h
  exact .ite (.next <| .glTrain k) (.next k)

theorem execGlAckDue_keeps {p : GPort} (h : KeepsWf s u) : OutKeeps s (execGlAckDue p u) := .ite (.next <| .sendLinkCtrl h) (.next h)

theorem execGlKeepalive_keeps {p : GPort} (h : KeepsWf s u) : OutKeeps s (execGlKeepalive p u) :=
  .ite (.next <| .sendLinkCtrl h) (.next h)

end Sys2Proof.Machine
end

section
/-! SUPPORT. The stored memory stays canonical through the dispatcher (Machine/Disp): one lemma
per function, along the calls that it makes. -/

namespace Sys2Proof.Machine

variable {s u v : State}

theorem KeepsWf.createTask {d : TaskDef} (h : KeepsWf s u) : KeepsWf s (u.createTask d) := .cmdCreate <| .setReg <| .setReg <| .setReg h

theorem KeepsWf.resumeTask {d : TaskDef} (h : KeepsWf s u) : KeepsWf s (u.resumeTask d) := .cmdResume <| .setReg <| .setReg h

theorem KeepsWf.abortSets {sets : List Bool} (h : KeepsWf s u) : KeepsWf s (u.abortSets sets) :=
  .update <| .foldl (fun _ _ k => .cmdAbort k) h

theorem KeepsWf.abortSteps (h : KeepsWf s u) : KeepsWf s u.abortSteps := .abortSets h

theorem KeepsWf.renewSteps (h : KeepsWf s u) : KeepsWf s u.renewSteps := by
  unfold State.renewSteps
  extract_lets +onlyGivenNames _ _
  split
  · exact .update <| .foldl (fun _ _ k => .createTask k) (.foldl (fun _ _ k => .ite (.cmdRelease k) k) h)
  · exact h

theorem KeepsWf.dispWrite {n x va : Nat} {l : Pieces} (h : KeepsWf s u) : KeepsWf s (dispWrite u n x va l) := by
  refine .foldl_fst (fun y r k => .foldl (fun v q k => ?_) k) h
  split
  · next e =>
    have q := KeepsWf.of_snd e (.translate k)
    exact .ite q (.lanternPut q)
  · next e => exact .of_snd e (.translate k)

theorem KeepsWf.lanternPieces {pa k : Nat} (h : KeepsWf s u) : KeepsWf s (u.lanternPieces pa k).2 :=
  .foldl_snd (fun _ _ q => .lanternRead q) h

theorem KeepsWf.dispRead {n x va k : Nat} (h : KeepsWf s u) : KeepsWf s (dispRead u n x va k).2 := by
  refine .foldl_snd (fun y q k => ?_) h
  split
  · next e =>
    have r := KeepsWf.of_snd e (.translate k)
    split
    · exact r
    · exact .lanternRead r
  · next e => exact .of_snd e (.translate k)

theorem KeepsWf.sendMsg {dest op aux : Nat} {payload : List Byte} {why : TxnFor} (h : KeepsWf s u) :
    KeepsWf s (u.sendMsg dest op aux payload why).1 :=
  h.trans (sendMsg_only ..).cells.keeps

theorem KeepsWf.dropPrep (h : KeepsWf s u) : KeepsWf s u.dropPrep := .update <| .arbRetag h

theorem KeepsWf.modDisp {f : Disp → Disp} (h : KeepsWf s u) : KeepsWf s (u.modDisp f) := .update h

theorem KeepsWf.showReqs (h : KeepsWf s u) : KeepsWf s u.showReqs := h.trans (showReqs_only ..).cells.keeps

theorem KeepsWf.tok {port kind reason fault req tag step : Nat} {ids : List Nat} (h : KeepsWf s u) :
    KeepsWf s (u.tok port kind reason fault req tag step ids) :=
  .modDisp h

theorem KeepsWf.freeTicket {t : Nat} {away : Bool} (h : KeepsWf s u) : KeepsWf s (u.freeTicket t away) := .modDisp h

theorem KeepsWf.endReq {r : Req} {reason fault : Nat} {away : Bool} (h : KeepsWf s u) : KeepsWf s (u.endReq r reason fault away) := by
  unfold State.endReq
  extract_lets +onlyGivenNames v _ _
  have k : KeepsWf s v := .tok h
  exact .showReqs <| .modDisp <| .foldl (fun _ _ q => .freeTicket q) (.ite (.bump k) k)

theorem KeepsWf.moduleGone (h : KeepsWf s u) : KeepsWf s u.moduleGone := by
  unfold State.moduleGone
  extract_lets out
  split
  next e => exact .modDisp <| .foldl (fun _ _ k => .endReq k) <| .of_snd e <| .foldl_snd (fun _ _ k => .free k) h

theorem KeepsWf.modReq {id : Nat} {f : Req → Req} (h : KeepsWf s u) : KeepsWf s (u.modReq id f) := .modDisp h

theorem KeepsWf.arrive {t : Nat} {h1 : List Word} (h : KeepsWf s u) : KeepsWf s (u.arrive t h1) := .modDisp h

theorem KeepsWf.issueStep {r : Req} {t : Nat} (h : KeepsWf s u) : KeepsWf s (u.issueStep r t) := by
  unfold State.issueStep
  split
  · exact .modReq <| .modDisp <| .arrive h
  · extract_lets +onlyGivenNames _
    split
    · next e => exact .modReq <| .modDisp <| .arrive <| .of_snd e (.free h)

theorem KeepsWf.pumpSteps {fuel : Nat} (h : KeepsWf s u) : KeepsWf s (pumpSteps fuel u) := by
  induction fuel generalizing u with
  | zero => exact h
  | succ fuel ih =>
    unfold Sys2Proof.Machine.pumpSteps
    refine .ite h ?_
    split
    · exact ih (.issueStep h)
    · exact h

theorem KeepsWf.pump (h : KeepsWf s u) : KeepsWf s u.pump := .pumpSteps h

theorem KeepsWf.cutPassage (h : KeepsWf s u) : KeepsWf s u.cutPassage := by
  unfold State.cutPassage
  split
  · exact h
  · extract_lets +onlyGivenNames v w _ _ x
    have k : KeepsWf s v := .modGl <| .event <| .set h
    have q : KeepsWf s w := .ite k (.sendMsg k)
    have r : KeepsWf s x := .modDisp (.dropPrep <| .abortSteps (.ite q (.sendMsg q)))
    exact .ite (.modDisp <| .foldl (fun _ _ kept => .endReq kept) r) r

theorem KeepsWf.txnFailed {dest type : Nat} (h : KeepsWf s u) : KeepsWf s (u.txnFailed dest type) := .ite (.cutPassage h) h

theorem KeepsWf.lookFailed (h : KeepsWf s u) : KeepsWf s u.lookFailed := .ite h (.modGl <| .foldl (fun _ _ k => .txnFailed k) h)

theorem KeepsWf.sendNext {op aux : Nat} {payload : List Byte} {why : TxnFor} (h : KeepsWf s u) :
    KeepsWf s (u.sendNext op aux payload why) := by
  unfold State.sendNext
  split
  · next e => exact .of_fst e (.sendMsg h)
  · next e => exact .txnFailed <| .of_fst e (.sendMsg h)

theorem KeepsWf.failNotice {h1 : List Word} {code : Nat} (h : KeepsWf s u) : KeepsWf s (u.failNotice h1 code) := .sendMsg h

end Sys2Proof.Machine
end

section
/-! SUPPORT. The stored memory stays canonical through the life of a step (Machine/Passage): one lemma
per function, along the calls that it makes. -/

namespace Sys2Proof.Machine

variable {s u v : State}

theorem execStepHeaderArrive_keeps {ticket : Fin 16} (h : KeepsWf s u) : OutKeeps s (execStepHeaderArrive ticket u) := by
  unfold execStepHeaderArrive
  split
  · exact .next h
  · exact .next <| .modDisp h

theorem KeepsWf.stepData {t : Nat} {hd : List Word} (h : KeepsWf s u) : KeepsWf s (u.stepData t hd).2 := by
  unfold State.stepData
  extract_lets r
  split
  · exact .foldl_snd (fun _ _ k => .lanternPieces k) h
  · split
    · exact h
    · exact .dispRead h

theorem KeepsWf.stepPrepared {t : Nat} {h1 : List Word} (h : KeepsWf s u) : KeepsWf s (u.stepPrepared t h1) := by
  unfold State.stepPrepared
  extract_lets +onlyGivenNames _
  split
  · next e =>
    have k := KeepsWf.of_snd e (.stepData h)
    extract_lets +onlyGivenNames v _ w _
    have q : KeepsWf s v := .foldl (fun _ _ r => .dispWrite r) k
    have r : KeepsWf s w := .foldl (fun _ _ kept => .set kept) (.ite (.foldl (fun _ _ kept => .set <| .setReg kept) q) q)
    exact .modDisp <| .ite (.foldl (fun _ _ kept => .createTask kept) r) r

theorem KeepsWf.prepareStep {t : Nat} {h1 : List Word} (h : KeepsWf s u) : KeepsWf s (u.prepareStep t h1) :=
  .arbitrate (fun _ k => .stepPrepared k) h

theorem KeepsWf.takeStep {a1 : Nat × List Word} (h : KeepsWf s u) : KeepsWf s (u.takeStep a1) := .modDisp h

theorem KeepsWf.resumePrefill (h : KeepsWf s u) : KeepsWf s u.resumePrefill := by
  unfold State.resumePrefill
  split
  · exact h
  · exact .modDisp <| .foldl (fun _ _ k => .resumeTask k) h

theorem execStepChoose_keeps (h : KeepsWf s u) : OutKeeps s (execStepChoose u) := by
  unfold execStepChoose
  extract_lets +onlyGivenNames _
  split
  · exact .ite (.next h) (.next <| .prepareStep h)
  · split
    · exact .next h
    · split
      · split
        · exact .next <| .ite h (.resumePrefill h)
        · split
          · exact .next h
          · exact .next <| .prepareStep <| .takeStep h
      · split
        · exact .next h
        · exact .ite (.next <| .modDisp <| .takeStep <| .foldl (fun _ _ k => .cmdPreempt k) h) (.next h)

theorem KeepsWf.endCounter (h : KeepsWf s u) : KeepsWf s u.endCounter.2 := by
  unfold State.endCounter
  split
  · exact h
  · extract_lets +onlyGivenNames _
    split
    · next e => exact .of_snd e (.dispRead h)

theorem KeepsWf.writeHdr {off : Nat} {l : List Word} (h : KeepsWf s u) : KeepsWf s (u.writeHdr off l) :=
  .foldl (fun _ _ k => .dispWrite k) h

theorem KeepsWf.stepDelivered {t : Nat} {h1 : List Word} (h : KeepsWf s u) : KeepsWf s (u.stepDelivered t h1) := by
  unfold State.stepDelivered
  extract_lets +onlyGivenNames _
  split
  · next e => exact .modDisp <| .writeHdr <| .writeHdr <| .of_snd e (.endCounter h)

theorem execStepDeliver_keeps (h : KeepsWf s u) : OutKeeps s (execStepDeliver u) := by
  unfold execStepDeliver
  split
  · exact .next h
  · exact .ite (.next h) (.next <| .arbitrate (fun _ k => .stepDelivered k) h)

theorem KeepsWf.returnIds {h1 : List Word} (h : KeepsWf s u) : KeepsWf s (u.returnIds h1).2 := by
  unfold State.returnIds
  split
  next e => exact .inSnd <| .modDisp <| .of_thd e (.lanternRead h)

theorem KeepsWf.passOn {t : Nat} {h1 : List Word} (h : KeepsWf s u) : KeepsWf s (u.passOn t h1) := by
  unfold State.passOn
  split
  · split
    · next e => exact .sendNext <| .of_snd e (.returnIds h)
  · exact .sendNext h

theorem KeepsWf.spend {k : Nat} (h : KeepsWf s u) : KeepsWf s (u.spend k) := .modDisp h

theorem KeepsWf.stepEnd (h : KeepsWf s u) : KeepsWf s u.stepEnd := by
  unfold State.stepEnd
  split
  · exact h
  · split
    · next e =>
      have k := KeepsWf.of_snd e (.endCounter h)
      split
      · exact h
      · extract_lets +onlyGivenNames _ v
        have q : KeepsWf s v := .spend <| .modDisp (.passOn k)
        exact .ite q (.ite (.abortSets q) (.ite q (.resumePrefill q)))

theorem KeepsWf.stepFail (h : KeepsWf s u) : KeepsWf s u.stepFail := by
  unfold State.stepFail
  extract_lets v forced failed sets hit code
  have k : KeepsWf s v := .lookFailed h
  refine .ite (.renewSteps k) (.ite k ?_)
  split
  next c w e =>
  have q : KeepsWf s w := by
    split at e
    · exact .of_snd e (.endCounter k)
    · exact .of_snd e k
  extract_lets x y z
  have r : KeepsWf s y := .dropPrep <| .modDisp <| .foldl (fun _ _ k => .failNotice k) q
  refine .abortSets ?_
  unfold z
  split
  · exact .ite (.spend r) r
  · exact r

theorem KeepsWf.takeTokens {r : Req} {up : Nat} {ids drafts : List Nat} (h : KeepsWf s u) : KeepsWf s (u.takeTokens r up ids drafts) := by
  unfold State.takeTokens
  split
  · extract_lets +onlyGivenNames _ _ _ v
    have k : KeepsWf s v := .modReq (.tallyX <| .tok h)
    exact .ite (.pump <| .endReq k) (.ite (.pump <| .endReq k) (.pump k))

theorem execTokenIdsArrive_keeps {ticket : Fin 16} {ids drafts : List (BitVec 32)} (h : KeepsWf s u) :
    OutKeeps s (execTokenIdsArrive ticket ids drafts u) := by
  unfold execTokenIdsArrive
  extract_lets +onlyGivenNames _
  split
  · exact .next h
  · split
    · exact .next h
    · extract_lets +onlyGivenNames v
      have k : KeepsWf s v := .modDisp h
      split
      · exact .next <| .pump <| .modDisp k
      · split
        · exact .next k
        · extract_lets +onlyGivenNames w
          have q : KeepsWf s w := .freeTicket k
          split
          · exact .next <| .pump q
          · extract_lets +onlyGivenNames _
            split
            · exact .next <| .ite q (.pump <| .endReq q)
            · exact .ite (.next <| .pump q) (.next <| .takeTokens q)

end Sys2Proof.Machine
end

section
/-! SUPPORT. The stored memory stays canonical through frames served at this module (Machine/GlTraffic): one lemma
per function, along the calls that it makes. -/

namespace Sys2Proof.Machine

variable {s u v : State}

theorem KeepsWf.inbound {f : GFrame} {len : Nat} {write : Bool} {act : State → State} (step : ∀ w, KeepsWf s w → KeepsWf s (act w))
    (h : KeepsWf s u) (k : KeepsWf s v) : KeepsWf s (u.inbound v f len write act) := by
  unfold State.inbound
  extract_lets st q route
  exact .ite (.respond <| .modGl k) (.ite (.respond k) (.ite (step _ (.arbMoved k)) (.ask <| .pass h)))

theorem execReadReq_keeps (h : KeepsWf s u) : OutKeeps s (execReadReq u) := by
  unfold execReadReq
  split
  · exact .next h
  · next e =>
    have k := KeepsWf.takeRx e h
    extract_lets +onlyGivenNames _
    refine .next ?_
    refine .inbound (fun _ q => ?_) h k
    split
    · next e => exact .respond <| .of_thd e (.readPa <| .touch q)

theorem execWrite_keeps (h : KeepsWf s u) : OutKeeps s (execWrite u) := by
  unfold execWrite
  split
  · exact .next h
  · next e => exact .next <| .inbound (fun _ q => .respond <| .writePa <| .touch q) h <| .takeRx e h

theorem execAtomic_keeps (h : KeepsWf s u) : OutKeeps s (execAtomic u) := by
  unfold execAtomic
  split
  · exact .next h
  · next e =>
    have k := KeepsWf.takeRx e h
    split
    · exact .next <| .respond k
    · split
      · exact .next <| .respond k
      · refine .next ?_
        refine .inbound (fun _ q => ?_) h k
        split
        · next e => exact .respond <| .of_snd e (.fetchAdd q)
        · next e => exact .respond <| .of_snd e (.fetchAdd q)

theorem KeepsWf.txnFail {x : Txn} {status : Nat} (h : KeepsWf s u) : KeepsWf s (u.txnFail x status) := by
  unfold State.txnFail
  refine .txnFailed ?_
  split
  · dsimp only
    split
    · exact .e2eFail h
    · exact .pumpWrites <| .transferFailed <| .modTransfer h
  · exact .ite (.modTask <| .e2eFail h) (.abortFrom <| .e2eFail h)
  · exact .e2eFail h

theorem KeepsWf.txnDone {a1 : Txn} {d : List Byte} {poison : Bool} (h : KeepsWf s u) : KeepsWf s (u.txnDone a1 d poison) := by
  unfold State.txnDone
  split
  · exact .pumpWrites <| .modTransfer h
  · exact .ite h (.modTask h)
  · exact h

theorem execResponse_keeps (h : KeepsWf s u) : OutKeeps s (execResponse u) := by
  unfold execResponse
  split
  · exact .next h
  · next e =>
    have k := KeepsWf.takeRx e h
    split
    · exact .next k
    · split
      · exact .next k
      · extract_lets +onlyGivenNames v
        have q : KeepsWf s v := .modGl k
        exact .ite (.next <| .txnDone q) (.next <| .txnFail q)

theorem execE2eTimeout_keeps {tag : BitVec 16} (h : KeepsWf s u) : OutKeeps s (execE2eTimeout tag u) := by
  unfold execE2eTimeout
  split
  · exact .next h
  · exact .ite (.next h) (.next <| .txnFail <| .modGl h)

theorem KeepsWf.takeMsg {op : Nat} {f : GFrame} {free : Bool} (e : u.takeMsg op = some (f, free, v)) (h : KeepsWf s u) :
    KeepsWf s v := by
  unfold State.takeMsg at e
  split at e
  · cases e
  · next took =>
    cases e
    exact .respond <| .takeRx took h

theorem execMsgStepHeader_keeps (h : KeepsWf s u) : OutKeeps s (execMsgStepHeader u) := by
  unfold execMsgStepHeader
  split
  · exact .next h
  · next e => exact .next <| .takeMsg e h
  · next e =>
    have k := KeepsWf.takeMsg e h
    exact .ite (.next <| .failNotice k) (.next <| .arrive k)

theorem execMsgFailureNotice_keeps (h : KeepsWf s u) : OutKeeps s (execMsgFailureNotice u) := by
  unfold execMsgFailureNotice
  split
  · exact .next h
  · next e => exact .next <| .takeMsg e h
  · next e =>
    have k := KeepsWf.takeMsg e h
    split
    · exact .next k
    · extract_lets +onlyGivenNames _
      split
      · exact .next <| .pump <| .modDisp k
      · extract_lets +onlyGivenNames _ v
        have q : KeepsWf s v := .freeTicket k
        split
        · exact .next <| .pump q
        · exact .next <| .pump <| .endReq q

theorem execMsgTokenIds_keeps (h : KeepsWf s u) : OutKeeps s (execMsgTokenIds u) := by
  unfold execMsgTokenIds
  split
  · exact .next h
  · next e => exact .next <| .takeMsg e h
  · next e =>
    have k := KeepsWf.takeMsg e h
    exact .ite (.next <| .modDisp k) (.next k)

theorem execMsgPassageHeartbeat_keeps (h : KeepsWf s u) : OutKeeps s (execMsgPassageHeartbeat u) := by
  unfold execMsgPassageHeartbeat
  split
  · exact .next h
  · next e =>
    have k := KeepsWf.takeMsg e h
    exact .ite (.next <| .modGl k) (.next k)

theorem execMsgCutNotice_keeps (h : KeepsWf s u) : OutKeeps s (execMsgCutNotice u) := by
  unfold execMsgCutNotice
  split
  · exact .next h
  · next e => exact .next <| .cutPassage <| .takeMsg e h

theorem execPassageHeartbeatSend_keeps (h : KeepsWf s u) : OutKeeps s (execPassageHeartbeatSend u) :=
  .ite (.next h) (.next <| .sendNext h)

theorem execPassageUpstreamLost_keeps (h : KeepsWf s u) : OutKeeps s (execPassageUpstreamLost u) :=
  .ite (.next h) (.next <| .cutPassage h)

end Sys2Proof.Machine
end

section
/-! SUPPORT. The stored memory stays canonical through the Gallery's membership and time (Machine/Membership): one lemma
per function, along the calls that it makes. -/

namespace Sys2Proof.Machine

variable {s u v : State}

theorem KeepsWf.lantern {dest op epoch : Nat} {payload : List Byte} (h : KeepsWf s u) : KeepsWf s (u.lantern dest op epoch payload) :=
  .sendOff h

theorem KeepsWf.showSteer (h : KeepsWf s u) : KeepsWf s u.showSteer := .set h

theorem KeepsWf.adopt {view : List Nat} {epoch leader : Nat} (h : KeepsWf s u) : KeepsWf s (u.adopt view epoch leader) := by
  unfold State.adopt
  extract_lets +onlyGivenNames _ _ _ _ _ _ _ v
  have k : KeepsWf s v := .event (.set <| .set (.showSteer <| .set (.set <| .set (.set <| .set (.modGl h)))))
  exact .ite (.moduleGone k) k

theorem KeepsWf.formAlone (h : KeepsWf s u) : KeepsWf s u.formAlone := .adopt h

theorem KeepsWf.commitChange {c : Change} (h : KeepsWf s u) : KeepsWf s (u.commitChange c) := by
  unfold State.commitChange
  extract_lets +onlyGivenNames _ _ _ _ _ v
  have k : KeepsWf s v := .adopt (.foldl (fun _ _ q => .lantern q) h)
  split
  · split
    · split
      · next e =>
        have q := KeepsWf.of_snd e (.free k)
        exact .ite (.modGl q) q
    · exact k
  · exact k

theorem KeepsWf.proposeNow {kind : Nat} {addrs whole : List Nat} (h : KeepsWf s u) : KeepsWf s (u.proposeNow kind addrs whole) := by
  unfold State.proposeNow
  extract_lets +onlyGivenNames _ _ _ _ _ v w
  have k : KeepsWf s v := .foldl (fun _ _ q => .foldl (fun _ _ q => .lantern q) q) (.modGl h)
  have q : KeepsWf s w := .ite (.foldl (fun _ _ r => .foldl (fun _ _ r => .lantern r) r) k) k
  exact .ite (.commitChange q) q

theorem KeepsWf.askChange {kind a : Nat} (h : KeepsWf s u) : KeepsWf s (u.askChange kind a) := .ite (.modGl h) (.proposeNow h)

theorem KeepsWf.nextChange (h : KeepsWf s u) : KeepsWf s u.nextChange := by
  unfold State.nextChange
  split
  · exact h
  · split
    · exact h
    · exact .proposeNow <| .modGl h

theorem KeepsWf.takeLantern {op : Nat} {f : GFrame} (e : u.takeLantern op = some (f, v)) (h : KeepsWf s u) : KeepsWf s v := by
  obtain ⟨⟨_, _⟩, took, e⟩ := Option.map_eq_some_iff.1 e
  cases e
  exact .takeRx took h

theorem execLanternHeartbeat_keeps (h : KeepsWf s u) : OutKeeps s (execLanternHeartbeat u) := by
  unfold execLanternHeartbeat
  split
  · exact .next h
  · next e => exact .next <| .modGl <| .takeLantern e h

theorem KeepsWf.sendJoin {dest : Nat} (h : KeepsWf s u) : KeepsWf s (u.sendJoin dest) := .lantern h

theorem KeepsWf.passBeacon {f : GFrame} (h : KeepsWf s u) : KeepsWf s (u.passBeacon f) := .ite (.foldl (fun _ _ k => .lantern k) h) h

theorem execBeacon_keeps (h : KeepsWf s u) : OutKeeps s (execBeacon u) := by
  unfold execBeacon
  split
  · exact .next h
  · next e =>
    have k := KeepsWf.takeLantern e h
    extract_lets +onlyGivenNames _ _
    split
    · split
      · exact .next k
      · extract_lets +onlyGivenNames v
        have q : KeepsWf s v := .passBeacon k
        exact .next <| .ite q (.modGl <| .sendJoin q)
    · exact .ite (.next k) (.next <| .passBeacon <| .modGl k)

theorem KeepsWf.addAck {e a w : Nat} (h : KeepsWf s u) : KeepsWf s (u.addAck e a w) := .modGl h

theorem KeepsWf.passAck (h : KeepsWf s u) : KeepsWf s u.passAck := by
  unfold State.passAck
  split
  · exact .ite h (.lantern <| .modGl h)
  · exact h

theorem KeepsWf.ackReady (h : KeepsWf s u) : KeepsWf s u.ackReady := by
  unfold State.ackReady
  split
  · exact .ite (.passAck h) h
  · exact h

theorem KeepsWf.ackOwn (h : KeepsWf s u) : KeepsWf s u.ackOwn := by
  unfold State.ackOwn
  split
  · exact h
  · exact .ite (.ackReady <| .addAck h) (.lantern h)

theorem execPropose_keeps (h : KeepsWf s u) : OutKeeps s (execPropose u) := by
  unfold execPropose
  split
  · exact .next h
  · next e =>
    have k := KeepsWf.takeLantern e h
    extract_lets +onlyGivenNames _ _ _ _ _
    split
    · exact .next <| .askChange k
    · split
      · exact .next k
      · extract_lets +onlyGivenNames v
        have q : KeepsWf s v := .modGl k
        exact .next <| .ite (.ackOwn q) q

theorem execAck_keeps (h : KeepsWf s u) : OutKeeps s (execAck u) := by
  unfold execAck
  split
  · exact .next h
  · next e =>
    have k := KeepsWf.takeLantern e h
    split
    · exact .ite (.next k) (.ite (.next <| .nextChange <| .commitChange k) (.next <| .modGl k))
    · exact .next <| .ackReady <| .addAck k

theorem execCommit_keeps (h : KeepsWf s u) : OutKeeps s (execCommit u) := by
  unfold execCommit
  split
  · exact .next h
  · next e =>
    have k := KeepsWf.takeLantern e h
    split
    · exact .next k
    · exact .ite (.next k) (.next <| .adopt k)

theorem KeepsWf.returnJoin {p : Nat} {f : GFrame} {a : Nat} (h : KeepsWf s u) : KeepsWf s (u.returnJoin p f a) := .ite h (.glSend h)

theorem execJoin_keeps (h : KeepsWf s u) : OutKeeps s (execJoin u) := by
  unfold execJoin
  split
  · exact .next h
  · next e =>
    have k := KeepsWf.takeRx e h
    extract_lets +onlyGivenNames _
    split
    · exact .next <| .ite (.set k) k
    · split
      · split
        · refine .next ?_
          split
          · exact .returnJoin <| .modGl k
          · exact k
        · exact .next <| .lantern <| .modGl k
      · split
        · exact .next k
        · exact .ite (.next <| .ite (.returnJoin k) (.lantern k)) (.next <| .askChange <| .ite k (.modGl k))

theorem execMembershipHeartbeatTimer_keeps (h : KeepsWf s u) : OutKeeps s (execMembershipHeartbeatTimer u) := by
  unfold execMembershipHeartbeatTimer
  split
  · split
    · exact .next <| .sendJoin h
    · exact .next h
  · refine .ite (.next h) ?_
    extract_lets +onlyGivenNames v w
    have k : KeepsWf s v := by
      refine .ite (.ite h (.lantern h)) ?_
      split
      · exact .lantern h
      · exact h
    have q : KeepsWf s w := .passAck k
    exact .ite (.next <| .foldl (fun _ _ k => .lantern k) (.nextChange q)) (.next q)

theorem execMemberUnheard_keeps {addr : Nat} (h : KeepsWf s u) : OutKeeps s (execMemberUnheard addr u) :=
  .ite (.next h) (.ite (.next <| .proposeNow h) (.next <| .askChange h))

theorem execBeaconLost_keeps (h : KeepsWf s u) : OutKeeps s (execBeaconLost u) :=
  .ite (.next h) (.ite (.next <| .proposeNow h) (.next <| .proposeNow h))

theorem execChangeTimeout_keeps (h : KeepsWf s u) : OutKeeps s (execChangeTimeout u) := by
  unfold execChangeTimeout
  split
  · exact .next h
  · exact .ite (.ite (.next h) (.next <| .proposeNow <| .modGl h)) (.ite (.next h) (.next <| .modGl h))

theorem execFreeze_keeps (h : KeepsWf s u) : OutKeeps s (execFreeze u) := .ite (.next h) (.next <| .event <| .modGl <| .set h)

theorem KeepsWf.timeTo {a1 : Nat} (h : KeepsWf s u) : KeepsWf s (u.timeTo a1) := .ite h (.event <| .set h)

theorem KeepsWf.slewBy {d : Int} (h : KeepsWf s u) : KeepsWf s (u.slewBy d) := .modGl h

theorem KeepsWf.holdTime {k : Nat} (h : KeepsWf s u) : KeepsWf s (u.holdTime k) := .modGl h

theorem KeepsWf.stepTime {d : Int} (h : KeepsWf s u) : KeepsWf s (u.stepTime d) := h.trans (stepTime_cells ..).keeps

theorem KeepsWf.setTime {ahead : Int} (h : KeepsWf s u) : KeepsWf s (u.setTime ahead) := h.trans (setTime_cells ..).keeps

theorem KeepsWf.sendTime {p op : Nat} {payload : List Byte} (h : KeepsWf s u) : KeepsWf s (u.sendTime p op payload) :=
  .ite (.e2eFail h) (.glSend h)

theorem KeepsWf.takeTime {p op : Nat} {f : GFrame} {at_ : Nat} (e : u.takeTime p op = some (f, at_, v)) (h : KeepsWf s u) :
    KeepsWf s v := by
  obtain ⟨⟨_, _⟩, took, e⟩ := Option.map_eq_some_iff.1 e
  cases e
  exact .takeRxAt took h

theorem execSync_keeps {p : GPort} (h : KeepsWf s u) : OutKeeps s (execSync p u) := by
  unfold execSync
  split
  · exact .next h
  · next e =>
    have k := KeepsWf.takeTime e h
    split
    · exact .next k
    · extract_lets +onlyGivenNames _ _ _ _ _ v _ _ _
      have q : KeepsWf s v := .modGl (.set k)
      split
      · next e =>
        have r := KeepsWf.of_snd e (.free (.timeTo (.ite (.slewBy q) (.setTime q))))
        exact .next <| .foldl (fun _ _ kept => .ite (.sendTime kept) kept) r

theorem execSyncSend_keeps (h : KeepsWf s u) : OutKeeps s (execSyncSend u) :=
  .ite (.next h) (.next <| .foldl (fun _ _ k => .ite (.sendTime k) k) h)

theorem execSyncLoss_keeps (h : KeepsWf s u) : OutKeeps s (execSyncLoss u) := .ite (.next h) (.next <| .timeTo <| .slewBy h)

theorem execPdelayTimer_keeps {p : GPort} (h : KeepsWf s u) : OutKeeps s (execPdelayTimer p u) :=
  .ite (.next h) (.next <| .sendTime <| .modGport h)

theorem execPdelayReq_keeps {p : GPort} (h : KeepsWf s u) : OutKeeps s (execPdelayReq p u) := by
  unfold execPdelayReq
  split
  · exact .next h
  · next e => exact .next <| .sendTime <| .takeTime e h

theorem execPdelayRsp_keeps {p : GPort} (h : KeepsWf s u) : OutKeeps s (execPdelayRsp p u) := by
  unfold execPdelayRsp
  split
  · exact .next h
  · next e =>
    have k := KeepsWf.takeTime e h
    split
    · exact .next k
    · exact .next <| .modGport k

end Sys2Proof.Machine
end

section
/-! SUPPORT. The stored memory stays canonical through the Sirdy ports (Machine/SyLinks): one lemma
per function, along the calls that it makes. -/

namespace Sys2Proof.Machine

variable {s u v : State}

theorem KeepsWf.modSport {p : Nat} {f : SPortSt → SPortSt} (h : KeepsWf s u) : KeepsWf s (u.modSport p f) := .update h

theorem KeepsWf.spTo {p st : Nat} (h : KeepsWf s u) : KeepsWf s (u.spTo p st) := by
  unfold State.spTo
  split
  · exact h
  · extract_lets +onlyGivenNames v
    have k : KeepsWf s v := .event <| .set h
    exact .ite k (.showAout <| .recalPorts k)

theorem KeepsWf.syEmit {p : Nat} {f : SFrame} (h : KeepsWf s u) : KeepsWf s (u.syEmit p f) := .modSport <| .update h

theorem KeepsWf.syDrain {fuel p : Nat} (h : KeepsWf s u) : KeepsWf s (syDrain fuel u p) := by
  induction fuel generalizing u with
  | zero => exact h
  | succ fuel ih =>
    unfold Sys2Proof.Machine.syDrain
    extract_lets v
    refine .ite h ?_
    split
    · exact h
    · exact ih (.tallyX <| .syEmit <| .modSport h)

theorem KeepsWf.syMarkStall {p : Nat} (h : KeepsWf s u) : KeepsWf s (u.syMarkStall p) := .modSport h

theorem KeepsWf.syPump {p : Nat} (h : KeepsWf s u) : KeepsWf s (u.syPump p) := .syMarkStall <| .syDrain h

theorem KeepsWf.sySend {p : Nat} {f : SFrame} (h : KeepsWf s u) : KeepsWf s (u.sySend p f) := .ite h (.syPump <| .modSport h)

theorem KeepsWf.resendEvts (h : KeepsWf s u) : KeepsWf s u.resendEvts := h.trans (resendEvts_only ..).cells.keeps

theorem KeepsWf.svcMove {p : Nat} (h : KeepsWf s u) : KeepsWf s (u.svcMove p) := h.trans (svcMove_only ..).cells.keeps

theorem KeepsWf.sendSyCtrl {p going : Nat} (h : KeepsWf s u) : KeepsWf s (u.sendSyCtrl p going) := .modSport <| .syEmit h

theorem KeepsWf.syTrain {p at_ : Nat} (h : KeepsWf s u) : KeepsWf s (u.syTrain p at_) := .spTo <| .modSport h

theorem KeepsWf.syLater {p at_ : Nat} {slow : Bool} (h : KeepsWf s u) : KeepsWf s (u.syLater p at_ slow) := .modSport h

theorem KeepsWf.syTimer {p : Nat} (h : KeepsWf s u) : KeepsWf s (u.syTimer p) := .ite (.syTrain h) h

theorem KeepsWf.syDrop {p last : Nat} (h : KeepsWf s u) : KeepsWf s (u.syDrop p last) := by
  unfold State.syDrop
  extract_lets +onlyGivenNames v src w x y other up ended told
  have k : KeepsWf s ended := .foldl (fun _ _ k => .endReq k) (.modDisp <| .spTo <| .update <| .set <| .modSport h)
  have q : KeepsWf s told := .ite k (.modDisp k)
  exact .pump <| .showReqs <| .ite q (.ite (.svcMove q) (.resendEvts q))

theorem KeepsWf.syGiveBack {p : Nat} {f : SFrame} (h : KeepsWf s u) : KeepsWf s (u.syGiveBack p f) := .modSport h

theorem KeepsWf.syFec {p : Nat} {c : Fec} (h : KeepsWf s u) : KeepsWf s (u.syFec p c) := .bump <| .bump h

theorem KeepsWf.syNak {p : Nat} (h : KeepsWf s u) : KeepsWf s (u.syNak p) := .sendSyCtrl <| .modSport h

theorem execSyDataReceive_keeps {p : SPort} {a : SArrival} (h : KeepsWf s u) : OutKeeps s (execSyDataReceive p a u) := by
  unfold execSyDataReceive
  extract_lets +onlyGivenNames _ _ _
  split
  · exact .next h
  · extract_lets +onlyGivenNames v _ w
    have k : KeepsWf s v := .syFec h
    have q : KeepsWf s w := .ite k (.bump k)
    split
    · exact .next <| .ite (.bump q) q
    · extract_lets +onlyGivenNames x _
      have r : KeepsWf s x := .modSport q
      split
      · exact .next <| .syNak r
      · split
        · exact .next <| .bump r
        · split
          · extract_lets +onlyGivenNames _ y
            have kept : KeepsWf s y := .tallyX (.modSport r)
            exact .ite (.next <| .update kept) (.next <| .syGiveBack <| .bump kept)
          · exact .ite (.next <| .modSport r) (.ite (.next r) (.next <| .syNak r))

theorem KeepsWf.takeSy {ok : Nat → SFrame → Bool} {q : Nat} {f : SFrame} (e : u.takeSy ok = some (q, f, v)) (h : KeepsWf s u) :
    KeepsWf s v := by
  unfold State.takeSy at e
  split at e
  · cases e
  · cases e
    exact .ite (.syGiveBack <| .update h) (.update h)

theorem execSyLinkCtrl_keeps {p : SPort} {a : SArrival} (h : KeepsWf s u) : OutKeeps s (execSyLinkCtrl p a u) := by
  unfold execSyLinkCtrl
  extract_lets +onlyGivenNames f c
  refine .ite (.next h) <| .ite (.next <| .bump <| .syFec h) <| .ite (.next <| .bump <| .syFec h) <| .ite (.next <| .syFec h) ?_
  extract_lets +onlyGivenNames heard going
  have k : KeepsWf s heard := .modSport <| .syFec h
  refine .ite (.next <| .syLater <| .syDrop k) ?_
  extract_lets +onlyGivenNames ack v done acked left nak cred taken seqs shown
  have q : KeepsWf s shown := .ite (.showFifo <| .modLogs <| .modSport k) (.modSport k)
  exact .ite (.next <| .syLater <| .syDrop q) (.next <| .syPump <| .ite (.bump <| .foldl (fun _ _ k => .syEmit k) q) q)

theorem execSyHello_keeps {p : SPort} {a : SArrival} (h : KeepsWf s u) : OutKeeps s (execSyHello p a u) := by
  unfold execSyHello
  extract_lets +onlyGivenNames _ _
  split
  · exact .next h
  · extract_lets +onlyGivenNames v
    have k : KeepsWf s v := .syFec h
    split
    · exact .next <| .bump k
    · split
      · exact .next <| .bump k
      · split
        · exact .next <| .modSport k
        · extract_lets +onlyGivenNames _ _ _ _ _ w _
          have q : KeepsWf s w := .spTo (.modSport (.modSport k))
          exact .next <| .ite (.svcMove q) q

theorem execSyHelloSend_keeps {p : SPort} (h : KeepsWf s u) : OutKeeps s (execSyHelloSend p u) := .ite (.next h) (.next <| .syEmit h)

theorem execSyTrainingDone_keeps {p : SPort} {lanes : BitVec 4} (h : KeepsWf s u) : OutKeeps s (execSyTrainingDone p lanes u) :=
  .ite (.next h) (.next <| .spTo <| .modSport <| .set h)

theorem execSyTrainingTimeout_keeps {p : SPort} (h : KeepsWf s u) : OutKeeps s (execSyTrainingTimeout p u) :=
  .ite (.next <| .syTrain h) (.ite (.next <| .syTrain h) (.next h))

theorem execSyPortDown_keeps {p : SPort} {cause : DownCause} (h : KeepsWf s u) : OutKeeps s (execSyPortDown p cause u) := by
  unfold execSyPortDown
  extract_lets v hit
  clear_value hit
  split
  · exact .ite (.next <| .syLater <| .syDrop h) (.next h)
  · exact .next h

theorem KeepsWf.syRecal {p : Nat} (h : KeepsWf s u) : KeepsWf s (u.syRecal p) := .ite (.syTrain <| .syDrop <| .sendSyCtrl h) h

theorem execSyRecal_keeps {p : SPort} (h : KeepsWf s u) : OutKeeps s (execSyRecal p u) := .next <| .syRecal h

theorem KeepsWf.syEnable {p : Nat} (h : KeepsWf s u) : KeepsWf s (u.syEnable p) := by
  unfold State.syEnable
  extract_lets +onlyGivenNames v
  have k : KeepsWf s v := .set h
  exact .ite (.syTrain k) k

theorem KeepsWf.syIdle {p going : Nat} (h : KeepsWf s u) : KeepsWf s (u.syIdle p going) := .spTo <| .ite (.syDrop <| .sendSyCtrl h) h

theorem KeepsWf.syDisable {p : Nat} (h : KeepsWf s u) : KeepsWf s (u.syDisable p) := .syIdle <| .set h

theorem execSyEnable_keeps {p : SPort} (h : KeepsWf s u) : OutKeeps s (execSyEnable p u) := .next <| .syEnable h

theorem execSyAckDue_keeps {p : SPort} (h : KeepsWf s u) : OutKeeps s (execSyAckDue p u) := .ite (.next <| .sendSyCtrl h) (.next h)

theorem execSyKeepalive_keeps {p : SPort} (h : KeepsWf s u) : OutKeeps s (execSyKeepalive p u) := .ite (.next <| .sendSyCtrl h) (.next h)

end Sys2Proof.Machine
end

section
/-! SUPPORT. The stored memory stays canonical through what travels over Sirdy (Machine/SyTraffic): one lemma
per function, along the calls that it makes. -/

namespace Sys2Proof.Machine

variable {s u v : State}

theorem KeepsWf.refuse {port tag reason : Nat} (h : KeepsWf s u) : KeepsWf s (u.refuse port tag reason) := .bump <| .tok h

theorem KeepsWf.trySub {a1 : Sub} (h : KeepsWf s u) : KeepsWf s (u.trySub a1) := by
  unfold State.trySub
  extract_lets +onlyGivenNames v
  have k : KeepsWf s v := .modDisp h
  split
  · exact .showReqs <| .refuse k
  · split
    · exact .showReqs <| .modDisp k
    · split
      · exact .showReqs <| .refuse k
      · split
        · exact .showReqs <| .refuse k
        · exact .ite (.showReqs <| .refuse k) (.pump <| .showReqs <| .tallyX <| .bump <| .tok <| .modDisp k)

theorem execOpen_keeps {p : SPort} (h : KeepsWf s u) : OutKeeps s (execOpen p u) := by
  unfold execOpen
  split
  · exact .next h
  · next e =>
    have k := KeepsWf.takeSy e h
    extract_lets +onlyGivenNames _
    split
    · exact .next <| .refuse k
    · exact .ite (.next <| .refuse k) (.ite (.next <| .refuse k) (.next <| .trySub k))

theorem execMore_keeps {p : SPort} (h : KeepsWf s u) : OutKeeps s (execMore p u) := by
  unfold execMore
  split
  · exact .next h
  · next e =>
    have k := KeepsWf.takeSy e h
    split
    · exact .next <| .refuse k
    · split
      · exact .next k
      · exact .next <| .trySub k

theorem execCancel_keeps {p : SPort} (h : KeepsWf s u) : OutKeeps s (execCancel p u) := by
  unfold execCancel
  split
  · exact .next h
  · next e =>
    have k := KeepsWf.takeSy e h
    split
    · exact .next <| .refuse k
    · split
      · exact .next <| .showReqs <| .modDisp k
      · split
        · exact .next <| .bump k
        · extract_lets +onlyGivenNames v
          have q : KeepsWf s v := .modReq k
          exact .ite (.next q) (.next <| .pump <| .endReq q)

theorem execSubmissionIncomplete_keeps {p : SPort} {tag : BitVec 32} (h : KeepsWf s u) : OutKeeps s (execSubmissionIncomplete p tag u) := by
  unfold execSubmissionIncomplete
  split
  · exact .next h
  · exact .ite (.next h) (.next <| .showReqs <| .refuse <| .modDisp h)

theorem execTokFrameSend_keeps {p : SPort} (h : KeepsWf s u) : OutKeeps s (execTokFrameSend p u) :=
  .ite (.next h) (.next <| .pump <| .sySend <| .foldl (fun _ _ k => .modReq k) (.modDisp h))

theorem execEvtFrameSend_keeps (h : KeepsWf s u) : OutKeeps s (execEvtFrameSend u) := by
  unfold execEvtFrameSend
  extract_lets +onlyGivenNames _
  split
  · exact .next h
  · split
    · exact .next h
    · exact .ite (.next h) (.next <| .sySend <| .modLogs h)

theorem KeepsWf.mboxPush {v : Nat} (h : KeepsWf s u) : KeepsWf s (u.mboxPush v) := .showFifo <| .modLogs h

theorem KeepsWf.mboxFill {fuel : Nat} (h : KeepsWf s u) : KeepsWf s (mboxFill fuel u) := by
  induction fuel generalizing u with
  | zero => exact h
  | succ fuel ih =>
    rw [Sys2Proof.Machine.mboxFill.eq_def]
    split
    · next e _ => cases e; exact .ite h (ih <| .modLogs <| .modSvc h)
    · exact h

theorem KeepsWf.mboxPop (h : KeepsWf s u) : KeepsWf s u.mboxPop.2 := by
  unfold State.mboxPop
  split
  · exact h
  · exact .showFifo <| .mboxFill <| .modLogs h

theorem KeepsWf.evtPop (h : KeepsWf s u) : KeepsWf s u.evtPop.2 := by
  unfold State.evtPop
  split
  · exact h
  · exact .setReg <| .showFifo <| .modLogs h

theorem execSyMboxIn_keeps {v : BitVec 62} (h : KeepsWf s u) : OutKeeps s (execSyMboxIn v u) := .next <| .mboxPush h

theorem execSyMboxOut_keeps (h : KeepsWf s u) : OutKeeps s (execSyMboxOut u) := by
  unfold execSyMboxOut
  split
  · next e => exact .next <| .update <| .of_snd e (.mboxPop h)

theorem execSyEvtPop_keeps (h : KeepsWf s u) : OutKeeps s (execSyEvtPop u) := by
  unfold execSyEvtPop
  split
  · next e => exact .next <| .update <| .of_snd e (.evtPop h)

theorem KeepsWf.hostReg {a : Nat} {w : Word} (e : u.hostReg a = some (w, v)) (h : KeepsWf s u) : KeepsWf s v := by
  unfold State.hostReg at e
  split at e
  · exact .of_snd (Option.some.inj e) (.mboxPop h)
  · split at e
    · exact .of_snd (Option.some.inj e) (.evtPop h)
    · exact .readReg e h

theorem KeepsWf.syWrite {a : Nat} {v : Word} (h : KeepsWf s u) : KeepsWf s (u.syWrite a v) := by
  unfold State.syWrite
  split
  · exact .svcMove <| .writeReg h
  · split
    · exact .mboxPush h
    · split
      · extract_lets +onlyGivenNames _ w
        have k : KeepsWf s w := .ite (.syEnable h) (.syDisable h)
        exact .ite (.syRecal k) k
      · exact .writeReg h

theorem KeepsWf.mgmtRespond {p tag st : Nat} {d : List Byte} (h : KeepsWf s u) : KeepsWf s (u.mgmtRespond p tag st d) := .sySend h

/-- A management frame is taken unless a hand-over of firmware holds it. -/
theorem KeepsWf.takeMgmt {c : Prop} [Decidable c] {ok : Nat → SFrame → Bool} {q : Nat} {f : SFrame} 
    (e : (if c then none else u.takeSy ok) = some (q, f, v)) (h : KeepsWf s u) : KeepsWf s v := by
  split at e
  · cases e
  · exact .takeSy e h

theorem execMgmtRead_keeps (h : KeepsWf s u) : OutKeeps s (execMgmtRead u) := by
  unfold execMgmtRead
  split
  · exact .next h
  · next e =>
    have k := KeepsWf.takeMgmt e h
    refine .ite (.next <| .mgmtRespond k) (.ite (.next <| .mgmtRespond k) ?_)
    split
    · exact .next <| .mgmtRespond k
    · next e => exact .next <| .mgmtRespond <| .hostReg e k

theorem execMgmtWrite_keeps (h : KeepsWf s u) : OutKeeps s (execMgmtWrite u) := by
  unfold execMgmtWrite
  split
  · exact .next h
  · next e =>
    have k := KeepsWf.takeMgmt e h
    exact .ite (.next <| .mgmtRespond k) (.ite (.next <| .mgmtRespond k) (.ite (.next <| .mgmtRespond k)
      (.ite (.next <| .mgmtRespond k) (.next <| .mgmtRespond <| .syWrite k))))

theorem KeepsWf.replyOne {c : Session} {vals : List Word} {data : List Byte} {code : Nat} {text : String} (h : KeepsWf s u) :
    KeepsWf s (u.replyOne c vals data code text) := by
  unfold State.replyOne
  extract_lets +onlyGivenNames v _
  have k : KeepsWf s v := .modSvc h
  split
  · exact .modSvc k
  · exact .foldl (fun _ _ q => .sySend q) k
  · split
    · exact k
    · split
      · exact .mgmtRespond <| .modSvc k

theorem KeepsWf.takeLine {c : Session} (h : KeepsWf s u) : KeepsWf s (u.takeLine c) := by
  unfold State.takeLine
  split
  · exact .modSvc h
  · exact h

theorem KeepsWf.dropUnknown {fuel : Nat} {c : Session} (h : KeepsWf s u) : KeepsWf s (dropUnknown fuel u c) := by
  induction fuel generalizing u with
  | zero => exact h
  | succ fuel ih =>
    unfold Sys2Proof.Machine.dropUnknown
    split
    · exact .ite (ih (.replyOne <| .takeLine h)) h
    · exact h

theorem KeepsWf.reply {c : Session} {vals : List Word} {data : List Byte} {code : Nat} {text : String} (h : KeepsWf s u) :
    KeepsWf s (u.reply c vals data code text) :=
  .dropUnknown <| .replyOne h

theorem KeepsWf.ends {c : Session} {vals : List Word} {data : List Byte} {code : Nat} {text : String} (h : KeepsWf s u) :
    KeepsWf s (u.ends c vals data code text) :=
  .reply <| .takeLine h

theorem KeepsWf.submit {c : Session} {l : List Byte} (h : KeepsWf s u) : KeepsWf s (u.submit c l) := .dropUnknown <| .modSvc h

theorem KeepsWf.lineChar {c : Session} {typed : List Byte} {bad : Bool} {ch : Byte} (h : KeepsWf s u) :
    KeepsWf s (u.lineChar c typed bad ch).1 := by
  unfold State.lineChar
  extract_lets +onlyGivenNames _
  split
  · split
    · exact h
    · split
      · exact .submit h
      · exact .submit h
  · split
    · exact h
    · split
      · exact h
      · exact h

theorem execUartCharacter_keeps {c : Byte} (h : KeepsWf s u) : OutKeeps s (execUartCharacter c u) := by
  unfold execUartCharacter
  extract_lets +onlyGivenNames _
  split
  · next e => exact .next <| .modSvc <| .of_fst e (.lineChar (.modSvc h))

theorem execCons_keeps (h : KeepsWf s u) : OutKeeps s (execCons u) := by
  unfold execCons
  split
  · exact .next h
  · next e =>
    have k := KeepsWf.takeSy e h
    split
    · exact .next k
    · refine .next ?_
      refine .foldl (fun _ _ q => ?_) k
      split
      · next e => exact .modSvc <| .of_fst e (.lineChar q)

theorem execMgmtCommand_keeps (h : KeepsWf s u) : OutKeeps s (execMgmtCommand u) := by
  unfold execMgmtCommand
  split
  · exact .next h
  · next e =>
    have k := KeepsWf.takeMgmt e h
    exact .ite (.next <| .mgmtRespond k) (.ite (.next <| .mgmtRespond k) (.next <| .submit <| .modSvc k))

end Sys2Proof.Machine
end

section
/-! SUPPORT. The stored memory stays canonical through images (Machine/Image): one lemma
per function, along the calls that it makes. -/

namespace Sys2Proof.Machine

variable {s u v : State}

theorem KeepsWf.verifyFail {kind slot : Nat} {l : List Byte} {atStore : Bool} {a5 : Nat × Nat × Nat} (h : KeepsWf s u) :
    KeepsWf s (u.verifyFail kind slot l atStore a5) :=
  .record <| .errLog <| .bump h

theorem KeepsWf.edge {pa k : Nat} (h : KeepsWf s u) : KeepsWf s (u.edge pa k).2 := by
  unfold State.edge
  split
  · exact h
  · exact .lanternRead h

theorem KeepsWf.lanternWhole {pa : Nat} {l : List Byte} (h : KeepsWf s u) : KeepsWf s (u.lanternWhole pa l) := by
  unfold State.lanternWhole
  split
  · exact h
  · extract_lets +onlyGivenNames _ _
    split
    · next e =>
      have k := KeepsWf.of_snd e (.edge h)
      split
      · next e => exact .lanternWrite <| .of_snd e (.edge k)

theorem KeepsWf.loadTensors {img : List Byte} {idx : Nat} {which : Nat → Bool} (h : KeepsWf s u) :
    KeepsWf s (u.loadTensors img idx which) :=
  .foldl (fun _ _ k => .lanternWhole k) h

theorem KeepsWf.zeroSpan {lo k : Nat} (h : KeepsWf s u) : KeepsWf s (u.zeroSpan lo k) :=
  h.trans ⟨fun ⟨m, c, p, n⟩ => ⟨kwf_filter _ m, kwf_filter _ c, kwf_filter _ p, kwf_filter _ n⟩⟩

theorem KeepsWf.takeRegion {r : Nat} (e : u.takeRegion = some (r, v)) (h : KeepsWf s u) : KeepsWf s v := by
  obtain ⟨_, -, e⟩ := Option.map_eq_some_iff.1 e
  cases e
  exact .update h

theorem takeRegions_zero : takeRegions 0 u = some ([], u) := by
  delta takeRegions takeRegions._f
  generalize State.takeRegion = f
  rfl

theorem takeRegions_succ {k : Nat} : takeRegions (k + 1) u =
    u.takeRegion.bind fun x => (takeRegions k x.2).map fun y => (x.1 :: y.1, y.2) := by
  delta takeRegions takeRegions._f
  generalize State.takeRegion = f
  change (match f u with | none => _ | some (_, _) => _) = _
  cases f u <;> rfl

theorem KeepsWf.takeRegions {k : Nat} {l : List Nat} (e : takeRegions k u = some (l, v)) (h : KeepsWf s u) : KeepsWf s v := by
  induction k generalizing u l with
  | zero =>
    rw [takeRegions_zero] at e
    cases e
    exact h
  | succ k ih =>
    rw [takeRegions_succ] at e
    obtain ⟨_, took, rest⟩ := Option.bind_eq_some_iff.1 e
    obtain ⟨⟨_, _⟩, more, e⟩ := Option.map_eq_some_iff.1 rest
    cases e
    exact ih more (.takeRegion took h)

theorem KeepsWf.newTable (h : KeepsWf s u) : KeepsWf s u.newTable.2 := by
  unfold State.newTable
  extract_lets +onlyGivenNames _
  split
  · exact .zeroSpan <| .modSvc h
  · split
    · next e => exact .zeroSpan <| .modSvc <| .takeRegion e h
    · exact h

theorem KeepsWf.tableNext {a : Nat} (h : KeepsWf s u) : KeepsWf s (u.tableNext a).2 := by
  unfold State.tableNext
  extract_lets +onlyGivenNames _
  split
  · exact h
  · split
    · next e => exact .lanternWrite <| .of_snd e (.newTable h)

theorem KeepsWf.mapPage {a1 va log2 leaf : Nat} (h : KeepsWf s u) : KeepsWf s (u.mapPage a1 va log2 leaf) := by
  unfold State.mapPage
  extract_lets +onlyGivenNames _
  split
  · next e =>
    have k := KeepsWf.of_snd e (.tableNext h)
    split
    · next e =>
      have q := KeepsWf.of_snd e (.tableNext k)
      split
      · next e =>
        have r := KeepsWf.of_snd e (.tableNext q)
        split
        · exact .lanternWrite r
        · split
          · next e => exact .lanternWrite <| .of_snd e (.tableNext r)

theorem KeepsWf.mapRange {m : MapRange} (h : KeepsWf s u) : KeepsWf s (u.mapRange m) := by
  unfold State.mapRange
  extract_lets +onlyGivenNames _ _ _
  split
  · split
    · exact h
    · next e =>
      have k := KeepsWf.takeRegions e h
      exact .foldl (fun _ _ q => .mapPage q) k
  · exact .ite (.foldl (fun _ _ k => .mapPage k) h) (.foldl (fun _ _ k => .mapPage k) h)

theorem KeepsWf.invalAllNow (h : KeepsWf s u) : KeepsWf s u.invalAllNow := .set <| .update h

theorem KeepsWf.applyLayout {l : List MapRange} (h : KeepsWf s u) : KeepsWf s (u.applyLayout l) := by
  unfold State.applyLayout
  split
  · exact h
  · next e =>
    have k := KeepsWf.takeRegion e h
    exact .invalAllNow <| .foldl (fun _ _ q => .mapRange q) (.modSvc (.set (.zeroSpan k)))

theorem KeepsWf.ctxWrite {fuel x va : Nat} {l : List Byte} {ok : Nat → Bool} (h : KeepsWf s u) :
    KeepsWf s (ctxWrite fuel u x va l ok) := by
  induction fuel generalizing u va l with
  | zero => exact h
  | succ fuel ih =>
    unfold Sys2Proof.Machine.ctxWrite
    refine .ite h (ih ?_)
    split
    · next e =>
      have k := KeepsWf.of_snd e (.walk h)
      exact .ite k (.lanternWrite k)
    · next e => exact .of_snd e (.walk h)

theorem KeepsWf.writePrograms {r : Recipe} {ok : Nat → Bool} (h : KeepsWf s u) : KeepsWf s (u.writePrograms r ok) :=
  .foldl (fun _ _ k => .ctxWrite k) h

theorem KeepsWf.applyChambers {r : Recipe} {which : Nat → Bool} (h : KeepsWf s u) : KeepsWf s (u.applyChambers r which) :=
  .foldl (fun _ _ k => .foldl (fun _ _ k => .setReg k) k) (.foldl (fun _ _ k => .set k) h)

theorem KeepsWf.applyPresets {r : Recipe} {which : Nat → Bool} (h : KeepsWf s u) : KeepsWf s (u.applyPresets r which) :=
  .foldl (fun _ _ k => .writeReg k) h

theorem KeepsWf.applyGallery {img : List Byte} {r : Recipe} (h : KeepsWf s u) : KeepsWf s (u.applyGallery img r) := by
  unfold State.applyGallery
  extract_lets +onlyGivenNames _ _ _ _ _ _ _
  split
  · exact .set <| .writeReg (.modGl (.foldl (fun _ _ k => .set <| .set k) (.foldl (fun _ _ k => .writeReg k) (.foldl (fun _ _ k =>
    .writeReg k) (.set <| .set (.set <| .writeReg h))))))

theorem KeepsWf.runRecipe {slot : Nat} {img : List Byte} (h : KeepsWf s u) : KeepsWf s (u.runRecipe slot img) :=
  .set <| .set <| .set <| .set <| .modSvc h

theorem KeepsWf.showFuses (h : KeepsWf s u) : KeepsWf s u.showFuses := h.trans (showFuses_only ..).cells.keeps

theorem KeepsWf.showSec (h : KeepsWf s u) : KeepsWf s u.showSec := .set h

theorem KeepsWf.runModel {slot : Nat} {img : List Byte} (h : KeepsWf s u) : KeepsWf s (u.runModel slot img) :=
  .set <| .set <| .set <| .modSvc h

end Sys2Proof.Machine
end

section
/-! SUPPORT. The stored memory stays canonical through the cask (Machine/Cask): one lemma
per function, along the calls that it makes. -/

namespace Sys2Proof.Machine

variable {s u v : State}

theorem KeepsWf.modCask {f : Cask → Cask} (h : KeepsWf s u) : KeepsWf s (u.modCask f) := h.trans (modCask_cells ..).keeps

theorem KeepsWf.modNand {b : Nat} {f : NBlock → NBlock} (h : KeepsWf s u) : KeepsWf s (u.modNand b f) := .modCask h

theorem KeepsWf.showCask (h : KeepsWf s u) : KeepsWf s u.showCask := h.trans (showCask_cells ..).keeps

theorem KeepsWf.caskRead {b pages : Nat} (h : KeepsWf s u) : KeepsWf s (u.caskRead b pages) := by
  unfold State.caskRead
  exact .modNand <| .tallyX <| .modCask <| .bump h

theorem KeepsWf.caskWrite {b k : Nat} (h : KeepsWf s u) : KeepsWf s (u.caskWrite b k) := .tallyX <| .modCask <| .bump h

theorem KeepsWf.eraseNand {b : Nat} (h : KeepsWf s u) : KeepsWf s (u.eraseNand b) := .modNand h

theorem KeepsWf.sweepNand {b : Nat} (h : KeepsWf s u) : KeepsWf s (u.sweepNand b) := .ite (.eraseNand h) h

theorem KeepsWf.putUnit {u1 : Nat} (h : KeepsWf s u) : KeepsWf s (u.putUnit u1) := by
  unfold State.putUnit
  extract_lets +onlyGivenNames _
  split
  · exact h
  · exact .foldl (fun _ _ k => .sweepNand k) (.caskWrite (.modNand (.modCask h)))

theorem KeepsWf.dropUnits {us : List Nat} (h : KeepsWf s u) : KeepsWf s (u.dropUnits us) :=
  .foldl (fun _ _ k => .sweepNand k) (.modCask h)

theorem KeepsWf.saveMap (h : KeepsWf s u) : KeepsWf s u.saveMap := .modCask h

theorem KeepsWf.moveNand {b toA : Nat} (h : KeepsWf s u) : KeepsWf s (u.moveNand b toA) := by
  unfold State.moveNand
  extract_lets +onlyGivenNames _ v _
  have k : KeepsWf s v := .modNand h
  exact .modNand <| .caskWrite <| .caskRead <| .ite (.modCask k) k

theorem KeepsWf.refreshNand {b : Nat} {disturb : Bool} (h : KeepsWf s u) : KeepsWf s (u.refreshNand b disturb) := by
  unfold State.refreshNand
  split
  · exact h
  · split
    · exact h
    · extract_lets +onlyGivenNames v
      have k : KeepsWf s v := .bump <| .eraseNand <| .moveNand h
      exact .showCask <| .ite (.bump k) k

theorem KeepsWf.disturbNand {b : Nat} (h : KeepsWf s u) : KeepsWf s (u.disturbNand b) := .ite (.refreshNand h) h

theorem KeepsWf.ageNand (h : KeepsWf s u) : KeepsWf s u.ageNand := .ite h (.foldl (fun _ _ k => .refreshNand k) h)

theorem KeepsWf.rewriteUnit {u1 : Nat} {part : Bool} (h : KeepsWf s u) : KeepsWf s (u.rewriteUnit u1 part) := by
  unfold State.rewriteUnit
  split
  · exact .ite (.disturbNand <| .putUnit <| .caskRead h) (.putUnit h)
  · exact .putUnit h

theorem KeepsWf.retireNand {b : Nat} (h : KeepsWf s u) : KeepsWf s (u.retireNand b) := by
  unfold State.retireNand
  extract_lets +onlyGivenNames full
  refine .ite h ?_
  extract_lets +onlyGivenNames moved retired
  have k : KeepsWf s moved := by
    unfold moved
    split
    · split
      · exact .moveNand h
      · exact h
    · exact h
  exact .showCask <| .event <| .ite (.modCask <| .modNand k) (.modNand k)

theorem KeepsWf.commitDir {f : List (Nat × CObj) → List (Nat × CObj)} (h : KeepsWf s u) : KeepsWf s (u.commitDir f) :=
  .ite h (.rewriteUnit <| .modCask h)

theorem KeepsWf.loseSectors {u1 : Nat} {l : List Nat} (h : KeepsWf s u) : KeepsWf s (u.loseSectors u1 l) :=
  .ite (.modCask h) (.commitDir h)

theorem KeepsWf.caskErr {b page cw : Nat} {uncorr patrol : Bool} (h : KeepsWf s u) : KeepsWf s (u.caskErr b page cw uncorr patrol) :=
  .errLog h

theorem KeepsWf.cwFound {b page cw : Nat} {patrol : Bool} {a5 : CwFind} (h : KeepsWf s u) : KeepsWf s (u.cwFound b page cw patrol a5) := by
  unfold State.cwFound
  split
  · exact h
  · exact .caskErr <| .bump h
  · exact .caskErr <| .tallyX <| .bump h
  · exact .caskErr <| .bump h
  · exact .showCask <| .modCask h

theorem KeepsWf.pageFound {b page : Nat} {patrol : Bool} {found : List CwFind} (h : KeepsWf s u) :
    KeepsWf s (u.pageFound b page patrol found) := by
  unfold State.pageFound
  extract_lets +onlyGivenNames v bad
  have k : KeepsWf s v := .foldl (fun _ _ k => .cwFound k) h
  refine .ite k (.retireNand ?_)
  split
  · exact .ite (.loseSectors k) k
  · exact k

theorem KeepsWf.patrolStart (h : KeepsWf s u) : KeepsWf s u.patrolStart := h.trans (patrolStart_cells ..).keeps

theorem KeepsWf.patrolDue (h : KeepsWf s u) : KeepsWf s u.patrolDue := h.trans (patrolDue_cells ..).keeps

theorem execCaskPatrolRead_keeps {die plane block page : Nat} {found : List CwFind} (h : KeepsWf s u) :
    OutKeeps s (execCaskPatrolRead die plane block page found u) := by
  unfold execCaskPatrolRead
  extract_lets +onlyGivenNames _
  split
  · exact .next h
  · extract_lets +onlyGivenNames _ _
    split
    · exact .next h
    · extract_lets +onlyGivenNames _ _ _ v _
      have k : KeepsWf s v := .pageFound (.set (.modCask <| .caskRead (.patrolDue h)))
      exact .next <| .ite (.refreshNand k) (.ite (.refreshNand k) k)

theorem execStaticWearLevel_keeps (h : KeepsWf s u) : OutKeeps s (execStaticWearLevel u) := by
  unfold execStaticWearLevel
  split
  · exact .ite (.next h) (.next <| .showCask <| .eraseNand <| .moveNand h)
  · exact .next h

theorem execNandProgramFail_keeps {die plane block : Nat} (h : KeepsWf s u) : OutKeeps s (execNandProgramFail die plane block u) :=
  .ite (.next h) (.next <| .retireNand h)

theorem execNandEraseFail_keeps {die plane block : Nat} (h : KeepsWf s u) : OutKeeps s (execNandEraseFail die plane block u) :=
  .ite (.next h) (.next <| .retireNand h)

theorem execNandUncorrRead_keeps {die plane block : Nat} (h : KeepsWf s u) : OutKeeps s (execNandUncorrRead die plane block u) := by
  unfold execNandUncorrRead
  extract_lets +onlyGivenNames _ _
  split
  · exact .next h
  · split
    · next e => exact .next <| .pageFound <| .of_snd e (.free h)

theorem KeepsWf.flushLogs (h : KeepsWf s u) : KeepsWf s u.flushLogs :=
  .ite h (.showCask <| .modCask <| .foldl (fun _ _ k => .rewriteUnit k) h)

theorem KeepsWf.removeObj {kind slot : Nat} (h : KeepsWf s u) : KeepsWf s (u.removeObj kind slot) := by
  unfold State.removeObj
  split
  · exact h
  · exact .showCask <| .saveMap <| .dropUnits <| .commitDir h

theorem KeepsWf.storeObj {kind slot at_ : Nat} {l : List Byte} (h : KeepsWf s u) : KeepsWf s (u.storeObj kind slot at_ l) := by
  unfold State.storeObj
  extract_lets +onlyGivenNames old us seq v w
  have k : KeepsWf s w := .commitDir <| .foldl (fun _ _ k => .putUnit k) h
  refine .showCask <| .saveMap ?_
  clear_value old
  split
  · exact .dropUnits k
  · exact k

theorem KeepsWf.readObj {kind slot : Nat} {spans : List (Nat × Nat)} {f : ReadFinds} (h : KeepsWf s u) :
    KeepsWf s (u.readObj kind slot spans f).2 := by
  unfold State.readObj
  split
  · exact h
  · extract_lets secs
    refine .foldl_snd (fun x p k => ?_) h
    extract_lets v mine
    split
    · exact k
    · split
      · exact k
      · exact .disturbNand <| .pageFound <| .caskRead k

theorem KeepsWf.fetchImage {kind slot idx : Nat} {f : ReadFinds} (h : KeepsWf s u) : KeepsWf s (u.fetchImage kind slot idx f).2 := by
  unfold State.fetchImage
  split
  · exact h
  · extract_lets +onlyGivenNames _
    split
    · exact .readObj h
    · split
      · exact .verifyFail <| .readObj h
      · exact .readObj h

theorem KeepsWf.mboxSend {op a2 : Nat} (h : KeepsWf s u) : KeepsWf s (u.mboxSend op a2) := by
  unfold State.mboxSend
  extract_lets +onlyGivenNames _
  split
  · exact .showFifo <| .modLogs h
  · exact .modSvc h

theorem KeepsWf.endXfer {a1 : Xfer} {fail : Nat} (h : KeepsWf s u) : KeepsWf s (u.endXfer a1 fail) := by
  unfold State.endXfer
  extract_lets +onlyGivenNames _ v w
  have k : KeepsWf s v := .showSec <| .set (.modSvc h)
  have q : KeepsWf s w := .ite (.mboxSend k) (.mboxSend k)
  exact .ite (.ends q) q

theorem execObjectStore_keeps {a0 : Unit} (h : KeepsWf s u) : OutKeeps s (execObjectStore a0 u) := by
  unfold execObjectStore
  split
  · exact .next h
  · split
    · exact .next h
    · extract_lets +onlyGivenNames _
      split
      · exact .next <| .endXfer <| .modSvc h
      · split
        · exact .next <| .endXfer <| .verifyFail h
        · split
          · exact .next <| .endXfer h
          · exact .ite (.next <| .endXfer h) (.next <| .endXfer <| .storeObj h)

end Sys2Proof.Machine
end

section
/-! SUPPORT. The stored memory stays canonical through start-up and staging (Machine/Boot): one lemma
per function, along the calls that it makes. -/

namespace Sys2Proof.Machine

variable {s u v : State}

theorem KeepsWf.modPw {f : Power → Power} (h : KeepsWf s u) : KeepsWf s (u.modPw f) := .update h

theorem KeepsWf.stageTo {k : Nat} (h : KeepsWf s u) : KeepsWf s (u.stageTo k) := .showAout <| .set <| .set h

theorem KeepsWf.bootStop {err : Nat} (h : KeepsWf s u) : KeepsWf s (u.bootStop err) := .record <| .stageTo <| .set h

theorem KeepsWf.fullReset (h : KeepsWf s u) : KeepsWf s u.fullReset := by
  unfold State.fullReset
  extract_lets ring pw r
  have k : KeepsWf s r := h.trans ⟨fun ⟨m, c, p, n⟩ => ⟨m, c, p, rfl⟩⟩
  exact .showFuses <| .setReg <| .setReg k

theorem KeepsWf.showRails (h : KeepsWf s u) : KeepsWf s u.showRails := h.trans (showRails_only ..).cells.keeps

theorem KeepsWf.measureRail {sel : Nat} (h : KeepsWf s u) : KeepsWf s (u.measureRail sel) := by
  unfold State.measureRail
  split
  · next e => exact .set <| .set <| .of_snd e (.free h)

theorem KeepsWf.newChallenge (h : KeepsWf s u) : KeepsWf s u.newChallenge := by
  unfold State.newChallenge
  refine .foldl (fun _ _ k => ?_) h
  split
  · next e => exact .setReg <| .of_snd e (.free k)

theorem execPowerGood_keeps (h : KeepsWf s u) : OutKeeps s (execPowerGood u) := by
  unfold execPowerGood
  extract_lets +onlyGivenNames _
  split
  · exact .next h
  · extract_lets +onlyGivenNames _ _ _ _ _ _ v _
    have k : KeepsWf s v := .stageTo (.set (.set (.set <| .foldl (fun _ _ q => .measureRail q) (.showRails <|
      .newChallenge (.setReg (.modPw <| .fullReset h))))))
    exact .next <| .ite (.bootStop k) (.ite (.syTrain k) k)

theorem KeepsWf.hostboot {w : Word} (h : KeepsWf s u) : KeepsWf s (u.hostboot w) := .ite (.modSvc h) h

theorem execHostbootWrite_keeps {w : Word} (h : KeepsWf s u) : OutKeeps s (execHostbootWrite w u) := .next <| .hostboot h

theorem KeepsWf.runFirmware {slot : Nat} {fallback : Bool} {l : List Byte} (h : KeepsWf s u) :
    KeepsWf s (u.runFirmware slot fallback l) := by
  unfold State.runFirmware
  extract_lets +onlyGivenNames _ v _ _
  have k : KeepsWf s v := .set <| .set (.modSvc h)
  exact .foldl (fun _ _ q => .ite (.syEnable q) q) (.stageTo (.ite (.record k) k))

theorem KeepsWf.caskFound (h : KeepsWf s u) : KeepsWf s u.caskFound := .showCask <| .set h

theorem KeepsWf.caskReady (h : KeepsWf s u) : KeepsWf s u.caskReady := .stageTo <| .patrolStart h

theorem KeepsWf.caskInit {factory : List Nat} (h : KeepsWf s u) : KeepsWf s (u.caskInit factory) :=
  .ite h (.modCask <| .foldl (fun _ _ k => .modNand k) h)

theorem KeepsWf.caskStart {a1 : CaskFind} (h : KeepsWf s u) : KeepsWf s (u.caskStart a1) := .caskFound <| .modCask <| .caskInit h

theorem KeepsWf.tryFirmware {slot : Nat} {f : ReadFinds} (h : KeepsWf s u) : KeepsWf s (u.tryFirmware slot f).2 := .fetchImage h

theorem execBootCaskReady_keeps {found : CaskFind} {fwA fwB : ReadFinds} (h : KeepsWf s u) :
    OutKeeps s (execBootCaskReady found fwA fwB u) := by
  unfold execBootCaskReady
  extract_lets +onlyGivenNames _
  split
  · exact .next h
  · extract_lets +onlyGivenNames v
    have k : KeepsWf s v := .caskStart h
    split
    · exact .next <| .bootStop k
    · extract_lets +onlyGivenNames w
      have q : KeepsWf s w := .caskReady k
      split
      · extract_lets +onlyGivenNames _
        split
        · exact .next <| .runFirmware q
        · exact .next <| .bootStop <| .modSvc <| .verifyFail q
      · split
        · next e => exact .next <| .runFirmware <| .of_snd e (.tryFirmware q)
        · next e =>
          have r := KeepsWf.of_snd e (.tryFirmware q)
          split
          · next e => exact .next <| .runFirmware <| .of_snd e (.tryFirmware r)
          · next e => exact .next <| .bootStop <| .of_snd e (.tryFirmware r)

theorem KeepsWf.bootFence {n : Nat} (h : KeepsWf s u) : KeepsWf s (u.bootFence n) := .foldl (fun _ _ k => .setReg k) (.set <| .set h)

theorem KeepsWf.applyLogs (h : KeepsWf s u) : KeepsWf s u.applyLogs := by
  unfold State.applyLogs
  extract_lets +onlyGivenNames _ _ _
  refine .foldl (fun _ _ k => ?_) (.foldl (fun _ _ q => .bootFence q) (.foldl (fun _ _ r => .set r) (.foldl (fun _ _ kept => .set <|
    .set kept) h)))
  split
  · exact .spareRow k
  · exact .set <| .update k
  · exact .set <| .set <| .set k

theorem KeepsWf.g7Ready (h : KeepsWf s u) : KeepsWf s u.g7Ready := .stageTo <| .set <| .set h

theorem KeepsWf.startRecipe {k : Nat} {img : List Byte} (h : KeepsWf s u) : KeepsWf s (u.startRecipe k img) :=
  .stageTo <| .set <| .modSvc <| .stageTo <| .applyLogs <| .stageTo <| .applyChambers <| .applyGallery <| .runRecipe h

theorem execBootG7Trained_keeps {failed : List (Fin 64)} {v : ReadFinds} (h : KeepsWf s u) : OutKeeps s (execBootG7Trained failed v u) := by
  unfold execBootG7Trained
  split
  · exact .next h
  · split
    · exact .next <| .bootStop h
    · extract_lets +onlyGivenNames w
      have k : KeepsWf s w := .g7Ready h
      split
      · exact .next <| .stageTo k
      · split
        · exact .next <| .bootStop k
        · split
          · next e => exact .next <| .bootStop <| .of_snd e (.fetchImage k)
          · next e =>
            have q := KeepsWf.of_snd e (.fetchImage k)
            exact .next <| .ite (.bootStop q) (.startRecipe q)

theorem KeepsWf.testResult {l : List TestFail} (h : KeepsWf s u) : KeepsWf s (u.testResult l) := by
  unfold State.testResult
  exact .modSvc <| .set <| .set <| .foldl (fun _ _ k => .keepLog <| .set k) (.foldl (fun _ _ k => .record k) h)

theorem KeepsWf.placeSpare {n sp : Nat} (h : KeepsWf s u) : KeepsWf s (u.placeSpare n sp) := .set <| .modSvc h

theorem KeepsWf.placeSpares (h : KeepsWf s u) : KeepsWf s u.placeSpares := by
  unfold State.placeSpares
  refine .foldl (fun _ _ k => ?_) h
  split
  · exact .placeSpare k
  · exact k

theorem KeepsWf.enableGallery (h : KeepsWf s u) : KeepsWf s u.enableGallery := by
  unfold State.enableGallery
  extract_lets +onlyGivenNames v
  have k : KeepsWf s v := by
    refine .foldl (fun _ _ q => ?_) h
    extract_lets +onlyGivenNames w
    have r : KeepsWf s w := .set q
    exact .ite (.glTrain r) r
  exact .ite (.formAlone k) (.modGl <| .set k)

theorem KeepsWf.readScripts {l : List Nat} {f : List (Nat × ReadFinds)} (h : KeepsWf s u) : KeepsWf s (readScripts l f u).2 := by
  induction l generalizing u with
  | nil => exact h
  | cons k r ih =>
    unfold Sys2Proof.Machine.readScripts
    split
    · next e => exact ih (.of_snd e (.fetchImage h))
    · next e => exact .of_snd e (.fetchImage h)

theorem KeepsWf.bootTested {fails : List TestFail} (h : KeepsWf s u) : KeepsWf s (u.bootTested fails) :=
  .set <| .foldl (fun _ _ k => .ite k (.event <| .bootFence k)) (.testResult h)

theorem execBootSelftestDone_keeps {fails : List TestFail} {scripts : List (Nat × ReadFinds)} (h : KeepsWf s u) :
    OutKeeps s (execBootSelftestDone fails scripts u) := by
  unfold execBootSelftestDone
  split
  · exact .next h
  · extract_lets +onlyGivenNames _
    split
    · next e =>
      have k := KeepsWf.of_snd e (.readScripts h)
      extract_lets +onlyGivenNames _ _ _ v
      have q : KeepsWf s v := .modSvc (.bootTested k)
      exact .ite (.next <| .bootStop q) (.next <| .enableGallery <| .stageTo <| .placeSpares <| .set q)

theorem execBootGalleryJoined_keeps {v : ReadFinds} (h : KeepsWf s u) : OutKeeps s (execBootGalleryJoined v u) := by
  unfold execBootGalleryJoined
  split
  · exact .next h
  · extract_lets +onlyGivenNames w
    have k : KeepsWf s w := .stageTo h
    split
    · exact .next <| .bootStop k
    · split
      · next e => exact .next <| .bootStop <| .of_snd e (.fetchImage k)
      · next e =>
        have q := KeepsWf.of_snd e (.fetchImage k)
        exact .next <| .ite (.bootStop q) (.modSvc q)

theorem execBootModelLoaded_keeps (h : KeepsWf s u) : OutKeeps s (execBootModelLoaded u) := by
  unfold execBootModelLoaded
  split
  · exact .next h
  · split
    · exact .next h
    · exact .next <| .runModel <| .foldl (fun _ _ k => .createTask k) (.applyPresets <| .writePrograms (.applyLayout <| .loadTensors h))

theorem KeepsWf.serveNow (h : KeepsWf s u) : KeepsWf s u.serveNow := .pump <| .stageTo <| .modGl <| .foldl (fun _ _ k => .set k) h

theorem KeepsWf.freeStaging (h : KeepsWf s u) : KeepsWf s u.freeStaging := .setReg <| .modSvc <| .update h

theorem KeepsWf.stageWrite {l : List Nat} {b : List Byte} (h : KeepsWf s u) : KeepsWf s (stageWrite u l b) := by
  induction l generalizing u b with
  | nil => exact h
  | cons r rest ih => exact ih (.lanternWrite h)

theorem KeepsWf.stageStart {slot : Nat} {by_ : Option Session} (h : KeepsWf s u) : KeepsWf s (u.stageStart slot by_) :=
  .showAout <| .set <| .set <| .set <| .showSec <| .modSvc <| .freeStaging h

theorem KeepsWf.copyStagedGo {fuel src dst k : Nat} (h : KeepsWf s u) : KeepsWf s (State.copyStaged.go fuel u src dst k) := by
  induction fuel generalizing u src dst k with
  | zero => exact h
  | succ fuel ih =>
    unfold State.copyStaged.go
    refine .ite h (ih ?_)
    exact .foldl_fst (fun _ _ q => .lanternPut q) (.lanternPieces h)

theorem KeepsWf.copyStaged {img : List Byte} (h : KeepsWf s u) : KeepsWf s (u.copyStaged img) := .foldl (fun _ _ k => .copyStagedGo k) h

theorem KeepsWf.markActive {slot : Nat} (h : KeepsWf s u) : KeepsWf s (u.markActive slot) := by
  unfold State.markActive
  split
  · exact h
  · exact .commitDir h

theorem KeepsWf.switchNow (h : KeepsWf s u) : KeepsWf s u.switchNow := by
  unfold State.switchNow
  split
  · exact h
  · extract_lets +onlyGivenNames _ _ _ _ _ v _ _ _
    have k : KeepsWf s v := .applyChambers (.applyGallery <| .runRecipe <| .copyStaged (.modDisp <| .abortSteps h))
    exact .showAout <| .bump <| .set <| .freeStaging <| .runModel <| .showCask <| .markActive <| .applyPresets <| .writePrograms <|
      .ite k (.applyLayout <| .update k)

theorem KeepsWf.uncut (h : KeepsWf s u) : KeepsWf s u.uncut := by
  unfold State.uncut
  extract_lets +onlyGivenNames v
  have k : KeepsWf s v := .ite (.event <| .modGl <| .set h) h
  exact .ite (.serveNow k) k

theorem KeepsWf.passProbe {p : List Byte} (h : KeepsWf s u) : KeepsWf s (u.passProbe p) := .sendNext <| .uncut h

theorem KeepsWf.probeHere {p : List Byte} (h : KeepsWf s u) : KeepsWf s (u.probeHere p) := by
  unfold State.probeHere
  extract_lets +onlyGivenNames _ _
  split
  · exact .ite (.modSvc h) (.passProbe h)
  · split
    · split
      · exact .modSvc h
      · extract_lets +onlyGivenNames v
        have k : KeepsWf s v := .switchNow h
        exact .ite (.modSvc k) (.passProbe k)
    · split
      · exact .modSvc h
      · split
        · exact .modSvc <| .stageStart h
        · exact .set <| .modSvc h

theorem KeepsWf.resumeProbe (h : KeepsWf s u) : KeepsWf s u.resumeProbe := by
  unfold State.resumeProbe
  split
  · exact h
  · exact .probeHere <| .modSvc h

theorem KeepsWf.probeFreed (h : KeepsWf s u) : KeepsWf s u.probeFreed := by
  unfold State.probeFreed
  split
  · exact h
  · exact .ite (.resumeProbe h) h

theorem KeepsWf.probeBack {p : List Byte} (h : KeepsWf s u) : KeepsWf s (u.probeBack p) := by
  unfold State.probeBack
  split
  · exact h
  · extract_lets +onlyGivenNames v
    have k : KeepsWf s v := .uncut h
    split
    · exact .pump <| .showAout <| .reply <| .takeLine <| .set <| .modSvc <| .ite k (.foldl (fun _ _ q => .endReq q) k)
    · exact .pump k

theorem execMsgRestartProbe_keeps (h : KeepsWf s u) : OutKeeps s (execMsgRestartProbe u) := by
  unfold execMsgRestartProbe
  split
  · exact .next h
  · next e => exact .next <| .takeMsg e h
  · next e =>
    have k := KeepsWf.takeMsg e h
    exact .ite (.next k) (.ite (.next <| .probeBack k) (.ite (.next k) (.next <| .probeHere k)))

theorem execRestartProbeSend_keeps (h : KeepsWf s u) : OutKeeps s (execRestartProbeSend u) := by
  unfold execRestartProbeSend
  extract_lets keep
  clear_value keep
  split
  · exact .next h
  · exact .ite (.next h) (.next <| .sendNext <| .modGl h)

theorem KeepsWf.stagedNow {slot : Nat} {by_ : Option Session} {img : List Byte} {mslot : Nat} {mimg : List Byte} {rs : List Nat}
    {part : List Byte} (h : KeepsWf s u) : KeepsWf s (u.stagedNow slot by_ img mslot mimg rs part) := by
  unfold State.stagedNow
  extract_lets +onlyGivenNames _ _ v
  have k : KeepsWf s v := .set <| .set (.modSvc (.stageWrite h))
  split
  · exact .reply <| .takeLine k
  · exact k

theorem KeepsWf.stageFail {by_ : Option Session} {reason : Nat} (h : KeepsWf s u) : KeepsWf s (u.stageFail by_ reason) := by
  unfold State.stageFail
  extract_lets +onlyGivenNames v w
  have k : KeepsWf s v := .set <| .set h
  have q : KeepsWf s w := .ite (.set k) k
  split
  · exact .ends <| .showAout q
  · exact .showAout q

theorem execStageDone_keeps {recipe model : ReadFinds} (h : KeepsWf s u) : OutKeeps s (execStageDone recipe model u) := by
  unfold execStageDone
  split
  · exact .next h
  · extract_lets +onlyGivenNames v
    have k : KeepsWf s v := .showSec <| .modSvc h
    split
    · next e => exact .next <| .stageFail <| .of_snd e (.fetchImage k)
    · next e =>
      have q := KeepsWf.of_snd e (.fetchImage k)
      extract_lets +onlyGivenNames _
      split
      · exact .next <| .stageFail q
      · split
        · exact .next <| .stageFail q
        · split
          · exact .next <| .stageFail q
          · extract_lets +onlyGivenNames _
            split
            · next e => exact .next <| .stageFail <| .of_snd e (.fetchImage q)
            · next e =>
              have r := KeepsWf.of_snd e (.fetchImage q)
              split
              · exact .next <| .stageFail r
              · extract_lets +onlyGivenNames _
                split
                · exact .next <| .stageFail r
                · next e => exact .next <| .resumeProbe <| .showAout <| .stagedNow <| .takeRegions e r

theorem execSwitchTicketsReturned_keeps (h : KeepsWf s u) : OutKeeps s (execSwitchTicketsReturned u) := by
  unfold execSwitchTicketsReturned
  split
  · split
    · exact .next h
    · extract_lets +onlyGivenNames v
      have k : KeepsWf s v := .modSvc <| .switchNow h
      exact .ite (.next <| .modGl k) (.next <| .sendNext <| .modGl k)
  · exact .next h

end Sys2Proof.Machine
end

section
/-! SUPPORT. The stored memory stays canonical through the console's commands (Machine/Service): one lemma
per function, along the calls that it makes. -/

namespace Sys2Proof.Machine

variable {s u v : State}

theorem OutKeeps.console {c : Session} {rom : Bool} {stages : Nat → Bool} {i : Instr} {f : State → State} 
    (act : ∀ v, KeepsWf s v → KeepsWf s (f v)) (h : KeepsWf s u) : OutKeeps s (u.console c rom stages i f) :=
  .ite (.next h) <| .ite (.next <| .ite (act u h) (.ends h)) (.next <| .ite (act u h) (.ends h))

theorem KeepsWf.recordCmd (h : KeepsWf s u) : KeepsWf s u.recordCmd := .record h

theorem execConsoleStatus_keeps {c : Session} (h : KeepsWf s u) : OutKeeps s (execConsoleStatus c u) := .console (fun _ k => .ends k) h

theorem KeepsWf.readMany {k a : Nat} (h : KeepsWf s u) : KeepsWf s (readMany k u a).2 := by
  induction k generalizing u a with
  | zero => exact h
  | succ k ih =>
    unfold Sys2Proof.Machine.readMany
    split
    · exact h
    · next e => exact ih (.hostReg e h)

theorem execConsoleRead_keeps {c : Session} {addr n : Nat} (h : KeepsWf s u) : OutKeeps s (execConsoleRead c addr n u) := by
  unfold execConsoleRead
  refine .console (fun _ k => ?_) h
  split
  · exact .ends k
  · split
    · next e => exact .ends <| .of_snd e (.readMany k)

theorem execConsoleDir_keeps {c : Session} (h : KeepsWf s u) : OutKeeps s (execConsoleDir c u) := .console (fun _ k => .ends k) h

theorem KeepsWf.output {c : Session} {l : List Byte} (h : KeepsWf s u) : KeepsWf s (u.output c l) := by
  unfold State.output
  split
  · extract_lets +onlyGivenNames _ _ _ v
    have k : KeepsWf s v := .modSvc (.takeLine <| .showFifo <| .mboxFill (.modSvc h))
    split
    · exact k
    · exact .dropUnknown <| .mgmtRespond <| .modSvc k
  · exact .ends h

theorem execConsoleLog_keeps {c : Session} {n : Nat} (h : KeepsWf s u) : OutKeeps s (execConsoleLog c n u) :=
  .console (fun _ k => .ite (.ends k) (.output k)) h

theorem execConsoleChallenge_keeps {c : Session} (h : KeepsWf s u) : OutKeeps s (execConsoleChallenge c u) :=
  .console (fun _ k => .ends k) h

theorem KeepsWf.driveQuantity (h : KeepsWf s u) : KeepsWf s u.driveQuantity := .showAout <| .modSvc h

theorem execConsoleAout_keeps {c : Session} {mode : AoutMode} {q sel : Nat} (h : KeepsWf s u) :
    OutKeeps s (execConsoleAout c mode q sel u) := by
  unfold execConsoleAout
  refine .console (fun _ k => ?_) h
  extract_lets +onlyGivenNames _
  split
  · exact .ends k
  · extract_lets +onlyGivenNames v _
    have r : KeepsWf s v := .set <| .recordCmd k
    exact .ends <| .showAout <| .ite (.driveQuantity <| .set <| .set r) r

theorem execAoutFullScaleEnd_keeps (h : KeepsWf s u) : OutKeeps s (execAoutFullScaleEnd u) := .ite (.next <| .showAout h) (.next h)

theorem execAoutQuantityRefresh_keeps (h : KeepsWf s u) : OutKeeps s (execAoutQuantityRefresh u) :=
  .ite (.next <| .driveQuantity h) (.next h)

theorem KeepsWf.testRefused {c : Session} {code : Nat} {text : String} (h : KeepsWf s u) : KeepsWf s (u.testRefused c code text) :=
  .ends <| .showAout <| .modSvc h

theorem execConsoleSelftest_keeps {c : Session} {block : Nat} {chamber : Option Ch} {force : Bool} {v : List (Nat × ReadFinds)} (h :
    KeepsWf s u) : OutKeeps s (execConsoleSelftest c block chamber force v u) := by
  unfold execConsoleSelftest
  refine .console (fun _ k => ?_) h
  extract_lets +onlyGivenNames _ _
  split
  · exact .ends k
  · split
    · exact .ends k
    · split
      · exact .testRefused k
      · split
        · exact .testRefused k
        · split
          · next e => exact .testRefused <| .of_snd e (.readScripts k)
          · next e =>
            have q := KeepsWf.of_snd e (.readScripts k)
            extract_lets +onlyGivenNames _ w
            have r : KeepsWf s w := .set (.modSvc <| .recordCmd q)
            exact .showAout <| .ite (.fenceAsk r) r

theorem KeepsWf.testEnd {b : Nat} {units : List Nat} {forced : Bool} {fails : List TestFail} (h : KeepsWf s u) :
    KeepsWf s (u.testEnd b units forced fails) := by
  unfold State.testEnd
  extract_lets +onlyGivenNames _ _ v _
  have k : KeepsWf s v := .modSvc <| .testResult (.modSvc h)
  exact .showAout <| .set <| .ite (.set <| .set k) k

theorem execSelftestDone_keeps {fails : List TestFail} (h : KeepsWf s u) : OutKeeps s (execSelftestDone fails u) := by
  unfold execSelftestDone
  split
  · exact .next h
  · exact .ite (.next h) (.ite (.next h) (.next <| .ends <| .testEnd h))

theorem execConsoleRecv_keeps {c : Session} {kind : ObjKind} {slot bytes : Nat} (h : KeepsWf s u) :
    OutKeeps s (execConsoleRecv c kind slot bytes u) := by
  unfold execConsoleRecv
  refine .console (fun _ k => ?_) h
  split
  · exact .ends k
  · split
    · exact .ends k
    · exact .ite (.ends k) (.ite (.ends k) (.ite (.ends k) (.ends <| .modSvc <| .recordCmd k)))

theorem KeepsWf.xferTake {a1 : Xfer} {l : List Byte} {byHex : Bool} (h : KeepsWf s u) : KeepsWf s (u.xferTake a1 l byHex) := by
  unfold State.xferTake
  extract_lets +onlyGivenNames _ _ v w
  have k : KeepsWf s v := .modSvc h
  have q : KeepsWf s w := .ite (.showSec <| .set k) k
  exact .ite (.mboxSend q) q

theorem execConsoleHex_keeps {c : Session} {digits : List Byte} (h : KeepsWf s u) : OutKeeps s (execConsoleHex c digits u) := by
  unfold execConsoleHex
  refine .console (fun _ k => ?_) h
  split
  · exact .ends k
  · exact .ends k
  · split
    · exact .ends k
    · split
      · exact .ends k
      · extract_lets +onlyGivenNames v
        have q : KeepsWf s v := .xferTake k
        exact .ite q (.ends q)

theorem execConsoleRecvAbort_keeps {c : Session} (h : KeepsWf s u) : OutKeeps s (execConsoleRecvAbort c u) := by
  unfold execConsoleRecvAbort
  refine .console (fun _ k => ?_) h
  split
  · exact .ends k
  · exact .ends <| .endXfer <| .recordCmd k

theorem KeepsWf.takeMbox {ok : Nat → Bool} {x : Nat} (e : u.takeMbox ok = some (x, v)) (h : KeepsWf s u) : KeepsWf s v := by
  unfold State.takeMbox at e
  split at e
  · cases e
  · split at e
    · cases e
      exact .showFifo <| .modLogs h
    · cases e

theorem execMailboxData_keeps (h : KeepsWf s u) : OutKeeps s (execMailboxData u) := by
  unfold execMailboxData
  split
  · exact .next h
  · split
    · exact .next h
    · next e =>
      have k := KeepsWf.takeMbox e h
      split
      · exact .ite (.next k) (.next <| .mboxSend k)
      · split
        · exact .next <| .endXfer k
        · split
          · exact .next k
          · extract_lets +onlyGivenNames _
            split
            · exact .next <| .endXfer k
            · split
              · exact .next k
              · extract_lets +onlyGivenNames v
                have q : KeepsWf s v := .xferTake k
                exact .next <| .ite (.modSvc q) q

theorem execMailboxEnd_keeps (h : KeepsWf s u) : OutKeeps s (execMailboxEnd u) := by
  unfold execMailboxEnd
  split
  · exact .next h
  · split
    · exact .next h
    · next e =>
      have k := KeepsWf.takeMbox e h
      split
      · exact .next <| .modSvc k
      · split
        · exact .next <| .mboxSend k
        · exact .ite (.next k) (.next <| .endXfer k)

theorem execMailboxAbort_keeps (h : KeepsWf s u) : OutKeeps s (execMailboxAbort u) := by
  unfold execMailboxAbort
  split
  · exact .next h
  · split
    · exact .next h
    · next e =>
      have k := KeepsWf.takeMbox e h
      split
      · exact .next <| .mboxSend k
      · exact .next <| .endXfer k

theorem execConsoleRemove_keeps {c : Session} {kind : ObjKind} {slot : Nat} (h : KeepsWf s u) :
    OutKeeps s (execConsoleRemove c kind slot u) := by
  unfold execConsoleRemove
  refine .console (fun _ k => ?_) h
  extract_lets +onlyGivenNames _
  split
  · exact .ends k
  · exact .ite (.ends k) (.ite (.ends k) (.ends <| .removeObj <| .recordCmd k))

theorem execConsoleActivate_keeps {c : Session} {slot : Nat} (h : KeepsWf s u) : OutKeeps s (execConsoleActivate c slot u) := by
  unfold execConsoleActivate
  refine .console (fun _ k => ?_) h
  split
  · exact .ends k
  · exact .ite (.ends k) (.ends <| .showCask <| .markActive <| .recordCmd k)

theorem execConsoleStage_keeps {c : Session} {slot : Nat} (h : KeepsWf s u) : OutKeeps s (execConsoleStage c slot u) :=
  .console (fun _ k => .ite (.ends k) (.ite (.ends k) (.stageStart <| .recordCmd k))) h

theorem execConsoleSwitch_keeps {c : Session} {keep : Bool} (h : KeepsWf s u) : OutKeeps s (execConsoleSwitch c keep u) := by
  unfold execConsoleSwitch
  refine .console (fun _ k => ?_) h
  split
  · exact .ends k
  · exact .ite (.ends k) (.ite (.ends k) (.showAout <| .set <| .set <| .modSvc <| .recordCmd k))

theorem KeepsWf.editLogs {c : Session} {f : Logs → Logs} (h : KeepsWf s u) : KeepsWf s (u.editLogs c f) :=
  .ite (.ends h) (.ends <| .logGrows <| .modLogs <| .recordCmd h)

theorem execConsoleSpareClear_keeps {c : Session} {n : Option Ch} (h : KeepsWf s u) : OutKeeps s (execConsoleSpareClear c n u) :=
  .console (fun _ k => .editLogs k) h

theorem execConsoleSpareBad_keeps {c : Session} {n : Ch} (h : KeepsWf s u) : OutKeeps s (execConsoleSpareBad c n u) :=
  .console (fun _ k => .editLogs k) h

theorem execConsoleRetlogClear_keeps {c : Session} {unit : Option RetUnit} (h : KeepsWf s u) :
    OutKeeps s (execConsoleRetlogClear c unit u) := by
  unfold execConsoleRetlogClear
  refine .console (fun _ k => ?_) h
  split
  · exact .editLogs k
  · exact .ite (.editLogs k) (.ends k)

theorem execConsoleSet_keeps {c : Session} {f : SvcField} {v : Nat} (h : KeepsWf s u) : OutKeeps s (execConsoleSet c f v u) :=
  .console (fun _ k => .ite (.ends k) (.ends <| .set <| .recordCmd k)) h

end Sys2Proof.Machine
end

section
/-! SUPPORT. The stored memory stays canonical through planned changes (Machine/Changes): one lemma
per function, along the calls that it makes. -/

namespace Sys2Proof.Machine

variable {s u v : State}

theorem KeepsWf.reloadTensors {n : Nat} (h : KeepsWf s u) : KeepsWf s (u.reloadTensors n) := by
  unfold State.reloadTensors
  split
  · exact h
  · exact .loadTensors <| .readObj h

theorem KeepsWf.runWaiting {fuel : Nat} (h : KeepsWf s u) : KeepsWf s (runWaiting fuel u) := by
  induction fuel generalizing u with
  | zero => exact h
  | succ fuel ih =>
    unfold Sys2Proof.Machine.runWaiting
    refine .ite (.showAout h) ?_
    split
    · exact .ite (.showAout h) (.ite (ih <| .ends <| .reloadTensors <| .modSvc h) (.showAout <| .modSvc h))
    · refine .ite (.showAout h) ?_
      split
      · exact .pump <| .showAout h
      · exact .ite (.ite (ih <| .modSvc h) (.fenceStart <| .modSvc h)) (ih <| .modSvc <| .modSvc h)

theorem KeepsWf.runNext (h : KeepsWf s u) : KeepsWf s u.runNext := .runWaiting h

theorem KeepsWf.changeEnd (h : KeepsWf s u) : KeepsWf s u.changeEnd := .runNext <| .resumeProbe h

theorem KeepsWf.changeAsk {r : ChangeReq} (h : KeepsWf s u) : KeepsWf s (u.changeAsk r) := .runNext <| .modSvc <| .recordCmd h

theorem KeepsWf.stepOver (h : KeepsWf s u) : KeepsWf s u.stepOver := by
  unfold State.stepOver
  extract_lets +onlyGivenNames v
  have k : KeepsWf s v := .probeFreed h
  exact .ite (.runNext k) k

theorem execStepEnd_keeps (h : KeepsWf s u) : OutKeeps s (execStepEnd u) := .next <| .stepOver <| .stepEnd h

theorem execStepFail_keeps (h : KeepsWf s u) : OutKeeps s (execStepFail u) := .next <| .stepOver <| .stepFail h

theorem KeepsWf.cancelWaiting (h : KeepsWf s u) : KeepsWf s u.cancelWaiting :=
  .showAout <| .foldl (fun _ _ k => .ends k) (.modSvc (.foldl (fun _ _ k => .ends k) (.modSvc h)))

theorem execConsoleFence_keeps {c : Session} {n : Ch} (h : KeepsWf s u) : OutKeeps s (execConsoleFence c n u) :=
  .console (fun _ k => .ite (.ends k) (.ite (.ends k) (.showAout <| .fenceAsk <| .modSvc <| .recordCmd k))) h

theorem KeepsWf.fenceEnd {n code : Nat} (h : KeepsWf s u) : KeepsWf s (u.fenceEnd n code) :=
  .changeEnd <| .foldl (fun _ _ k => .ends k) (.modSvc h)

theorem KeepsWf.remapChamber {n sp : Nat} (h : KeepsWf s u) : KeepsWf s (u.remapChamber n sp) :=
  .foldl (fun _ _ k => .ite k (.ite (.lanternWrite k) (.ite (.lanternWrite k) k))) h

theorem KeepsWf.bringSpare {n sp : Nat} (h : KeepsWf s u) : KeepsWf s (u.bringSpare n sp) := by
  unfold State.bringSpare
  extract_lets +onlyGivenNames _ _ _ _ _ _ v _
  have k : KeepsWf s v := .applyPresets <| .writePrograms (.remapChamber (.applyChambers <| .reloadTensors (.placeSpare h)))
  exact .invalStart <| .modSvc <| .ite (.modDisp k) (.foldl (fun _ _ q => .cmdAbort q) k)

theorem execFenceMappingDone_keeps (h : KeepsWf s u) : OutKeeps s (execFenceMappingDone u) := by
  unfold execFenceMappingDone
  split
  · exact .next h
  · split
    · exact .ite (.next h) (.next <| .fenceEnd <| .set <| .ite h (.foldl (fun _ _ k => .createTask k) h))
    · split
      · exact .next h
      · split
        · exact .next <| .fenceEnd h
        · split
          · exact .next <| .fenceEnd h
          · split
            · exact .next <| .bringSpare h
            · exact .next <| .showAout <| .fenceEnd <| .modSvc h

theorem execConsoleReload_keeps {c : Session} {n : Ch} (h : KeepsWf s u) : OutKeeps s (execConsoleReload c n u) :=
  .console (fun _ k => .ite (.ends k) (.changeAsk k)) h

theorem execConsoleRecalG7_keeps {c : Session} {ch : Option (Fin 64)} (h : KeepsWf s u) : OutKeeps s (execConsoleRecalG7 c ch u) :=
  .console (fun _ k => .changeAsk k) h

theorem execG7RetrainDone_keeps {ok : Bool} (h : KeepsWf s u) : OutKeeps s (execG7RetrainDone ok u) := by
  unfold execG7RetrainDone
  split
  · exact .next h
  · extract_lets +onlyGivenNames _ _ v w
    have k : KeepsWf s v := .modSvc (.setArb h)
    have q : KeepsWf s w := .ite k (.foldl (fun _ _ r => .retireRegion r) k)
    exact .ite (.next <| .showAout q) (.next <| .changeEnd <| .ends <| .modSvc <| .ite q (.set q))

theorem KeepsWf.recalShown {sirdy : Bool} {p : Nat} (h : KeepsWf s u) : KeepsWf s (u.recalShown sirdy p) :=
  .showAout <| .recalPorts <| .modSvc h

theorem execConsoleRecalGallery_keeps {c : Session} {p : GPort} (h : KeepsWf s u) : OutKeeps s (execConsoleRecalGallery c p u) :=
  .console (fun _ k => .ite (.ends k) (.ends <| .recalShown <| .glRecal <| .recordCmd k)) h

theorem execConsoleRecalSirdy_keeps {c : Session} {p : SPort} (h : KeepsWf s u) : OutKeeps s (execConsoleRecalSirdy c p u) :=
  .console (fun _ k => .ite (.ends k) (.ends <| .recalShown <| .syRecal <| .recordCmd k)) h

theorem execConsoleRetireCellar_keeps {c : Session} {n : Ch} {tier : Fin 4} {row : Nat} (h : KeepsWf s u) :
    OutKeeps s (execConsoleRetireCellar c n tier row u) :=
  .console (fun _ k => .ite (.ends k) (.ite (.ends k) (.ends <| .showAout <| .retireRow <| .recordCmd k))) h

theorem execConsoleRetireG7_keeps {c : Session} {region : Nat} (h : KeepsWf s u) : OutKeeps s (execConsoleRetireG7 c region u) := by
  unfold execConsoleRetireG7
  refine .console (fun _ k => ?_) h
  split
  · exact .ends k
  · exact .ite (.ends k) (.ite (.ends k) (.ends <| .showAout <| .retireRegion <| .recordCmd k))

theorem execConsoleRetireCask_keeps {c : Session} {die plane block : Nat} (h : KeepsWf s u) :
    OutKeeps s (execConsoleRetireCask c die plane block u) :=
  .console (fun _ k => .ite (.ends k) (.ite (.ends k) (.ite (.ends k) (.ends <| .retireNand <| .recordCmd k)))) h

theorem execConsoleFwupdate_keeps {c : Session} {slotB : Bool} {v : ReadFinds} (h : KeepsWf s u) :
    OutKeeps s (execConsoleFwupdate c slotB v u) := by
  unfold execConsoleFwupdate
  refine .console (fun _ k => ?_) h
  split
  · exact .ends k
  · split
    · next e => exact .ends <| .of_snd e (.fetchImage k)
    · next e => exact .showAout <| .modSvc <| .recordCmd <| .of_snd e (.fetchImage k)

theorem execFwupdateHandoverDone_keeps (h : KeepsWf s u) : OutKeeps s (execFwupdateHandoverDone u) := by
  unfold execFwupdateHandoverDone
  split
  · exact .next h
  · exact .ite (.next h) (.next <| .ends <| .showAout <| .set <| .modSvc h)

theorem execFwupdateTimeout_keeps (h : KeepsWf s u) : OutKeeps s (execFwupdateTimeout u) := by
  unfold execFwupdateTimeout
  split
  · exact .next h
  · exact .ite (.next h) (.next <| .ends <| .showAout <| .modSvc h)

theorem KeepsWf.lastOff {cause sel : Nat} {latched : Bool} (h : KeepsWf s u) : KeepsWf s (u.lastOff cause sel latched) := .setReg h

theorem KeepsWf.coresOff (h : KeepsWf s u) : KeepsWf s u.coresOff := by
  unfold State.coresOff
  extract_lets v w
  have k : KeepsWf s v := h.trans ⟨fun _ => ⟨rfl, rfl, rfl, rfl⟩⟩
  exact .showRails <| .foldl (fun _ _ k => .measureRail k) <| .setReg <| .modPw k

theorem KeepsWf.rampNext {wait : Nat} (h : KeepsWf s u) : KeepsWf s (u.rampNext wait) := .modPw h

theorem KeepsWf.glNotices {going : Nat} (h : KeepsWf s u) : KeepsWf s (u.glNotices going) :=
  .foldl (fun _ _ k => .ite (.gpTo <| .glDrop <| .sendLinkCtrl k) k) h

theorem KeepsWf.syNotices (h : KeepsWf s u) : KeepsWf s u.syNotices := .foldl (fun _ _ k => .ite (.syIdle k) k) h

theorem KeepsWf.askLeave (h : KeepsWf s u) : KeepsWf s u.askLeave := .ite h (.ite (.askChange h) (.foldl (fun _ _ k => .lantern k) h))

theorem execConsoleLeave_keeps {c : Session} (h : KeepsWf s u) : OutKeeps s (execConsoleLeave c u) := by
  unfold execConsoleLeave
  refine .console (fun _ k => ?_) h
  split
  · exact .ends k
  · split
    · exact .ends k
    · exact .showAout <| .modSvc <| .modGl <| .glNotices <| .askLeave <| .cutPassage <| .cancelWaiting <| .recordCmd k

theorem execLeaveCommitted_keeps (h : KeepsWf s u) : OutKeeps s (execLeaveCommitted u) := by
  unfold execLeaveCommitted
  split
  · exact .next h
  · split
    · exact .next h
    · exact .next <| .ends <| .showAout <| .modSvc <| .showSteer <| .set <| .set <| .set <| .modPw <| .lastOff <| .coresOff h

theorem KeepsWf.resetNow {cause : Nat} {planned : Bool} (h : KeepsWf s u) : KeepsWf s (u.resetNow cause planned) := by
  unfold State.resetNow
  extract_lets +onlyGivenNames v _
  have k : KeepsWf s v := .record h
  exact .fullReset <| .lastOff <| .ite (.syNotices <| .glNotices k) k

theorem KeepsWf.plannedReset (h : KeepsWf s u) : KeepsWf s u.plannedReset := by
  unfold State.plannedReset
  extract_lets +onlyGivenNames _ v
  have k : KeepsWf s v := .modPw <| .resetNow h
  exact .ite k (.rampNext k)

theorem execConsoleReset_keeps {c : Session} (h : KeepsWf s u) : OutKeeps s (execConsoleReset c u) :=
  .console (fun _ k => .plannedReset <| .ends <| .cancelWaiting <| .recordCmd k) h

theorem execLanternWatchdogBite_keeps (h : KeepsWf s u) : OutKeeps s (execLanternWatchdogBite u) := by
  unfold execLanternWatchdogBite
  split
  · exact .next h
  · extract_lets +onlyGivenNames v
    have k : KeepsWf s v := .resetNow h
    exact .next <| .ite k (.rampNext k)

theorem KeepsWf.wedge {chamber : Option Nat} {resource index : Nat} (h : KeepsWf s u) : KeepsWf s (u.wedge chamber resource index) := by
  unfold State.wedge
  extract_lets +onlyGivenNames noted marked first v
  have k : KeepsWf s v := .record <| .ite (.modSvc h) (.set <| .set <| .set <| .set <| .modSvc h)
  split
  · exact .showAout <| .fenceAsk <| .ite (.event k) k
  · exact .ite (.plannedReset <| .cancelWaiting <| .event k) (.showAout <| .modSvc <| .event k)

theorem KeepsWf.showWedge {resource index : Nat} (h : KeepsWf s u) : KeepsWf s (u.showWedge resource index) :=
  .ite h (.set <| .set <| .set h)

theorem execAbortTimeout_keeps {w : AbortOf} (h : KeepsWf s u) : OutKeeps s (execAbortTimeout w u) := by
  unfold execAbortTimeout
  extract_lets +onlyGivenNames _
  split
  · exact .ite (.next h) (.next <| .wedge h)
  · extract_lets +onlyGivenNames _ _
    split
    · exact .next h
    · exact .ite (.next h) (.next <| .wedge <| .showWedge h)

end Sys2Proof.Machine
end

section
/-! SUPPORT. The stored memory stays canonical through the security block (Machine/Security): one lemma
per function, along the calls that it makes. -/

namespace Sys2Proof.Machine

variable {s u v : State}

theorem KeepsWf.showAttests (h : KeepsWf s u) : KeepsWf s u.showAttests := .showSec <| .set h

theorem execIdKeygenDone_keeps {pufOk : Bool} (h : KeepsWf s u) : OutKeeps s (execIdKeygenDone pufOk u) := by
  unfold execIdKeygenDone
  split
  · exact .next h
  · split
    · exact .next <| .foldl (fun _ _ k => .setReg k) (.showSec <| .set h)
    · exact .next <| .foldl (fun _ _ k => .ends k) (.showAttests <| .modSvc (.record <| .set h))

theorem KeepsWf.fuseEnd {c : Session} {op result : Nat} (h : KeepsWf s u) : KeepsWf s (u.fuseEnd c op result) :=
  .ends <| .showSec <| .modSvc <| .newChallenge <| .setReg h

theorem execConsoleFuse_keeps {c : Session} {u1 : Unit} (h : KeepsWf s u) : OutKeeps s (execConsoleFuse c u1 u) := by
  unfold execConsoleFuse
  refine .console (fun _ k => ?_) h
  extract_lets +onlyGivenNames _
  split
  · exact .ends <| .newChallenge k
  · split
    · exact .ends <| .newChallenge k
    · extract_lets +onlyGivenNames v
      have q : KeepsWf s v := .recordCmd k
      split
      · exact .fuseEnd q
      · exact .showSec <| .modSvc q

theorem KeepsWf.programFuses {f : FuseCopy → FuseCopy} (h : KeepsWf s u) : KeepsWf s (u.programFuses f) := .showFuses <| .update h

theorem KeepsWf.freeBits {k : Nat} (h : KeepsWf s u) : KeepsWf s (freeBits k u).2 := by
  induction k generalizing u with
  | zero => exact h
  | succ k ih => exact ih (.free h)

theorem KeepsWf.failFuses {words : Nat} {f : Nat → FuseCopy → FuseCopy} (h : KeepsWf s u) : KeepsWf s (u.failFuses words f) := by
  unfold State.failFuses
  split
  · next e =>
    have k := KeepsWf.of_snd e (.freeBits h)
    split
    · next e =>
      have q := KeepsWf.of_snd e (.freeBits k)
      split
      · next e => exact .showFuses <| .update <| .of_snd e (.freeBits q)

theorem execEnrol_keeps {programmed : Bool} (h : KeepsWf s u) : OutKeeps s (execEnrol programmed u) := by
  unfold execEnrol
  split
  · exact .next h
  · extract_lets +onlyGivenNames _ _ _ _
    split
    · exact .next <| .fuseEnd h
    · split
      · exact .next <| .fuseEnd h
      · exact .ite (.next <| .fuseEnd <| .programFuses h) (.next <| .fuseEnd <| .modSvc <| .failFuses h)

theorem execRevoke_keeps {programmed : Bool} (h : KeepsWf s u) : OutKeeps s (execRevoke programmed u) := by
  unfold execRevoke
  split
  · exact .next h
  · extract_lets +onlyGivenNames _ _ _
    split
    · exact .next <| .fuseEnd h
    · split
      · exact .next <| .fuseEnd h
      · exact .ite (.next <| .fuseEnd <| .programFuses h) (.next <| .fuseEnd <| .modSvc <| .failFuses h)

theorem execRaiseFloor_keeps {programmed : Bool} (h : KeepsWf s u) : OutKeeps s (execRaiseFloor programmed u) := by
  unfold execRaiseFloor
  split
  · exact .next h
  · extract_lets +onlyGivenNames _ _ _
    split
    · exact .next <| .fuseEnd h
    · exact .ite (.next <| .fuseEnd h) (.ite (.next <| .fuseEnd <| .programFuses h) (.next <| .fuseEnd <| .failFuses h))

theorem execAttest_keeps {c : Session} {nonce : BitVec 256} (h : KeepsWf s u) : OutKeeps s (execAttest c nonce u) :=
  .console (fun _ k => .ite (.ends k) (.ite (.ends k) (.showAttests <| .modSvc k))) h

theorem execAttestServe_keeps (h : KeepsWf s u) : OutKeeps s (execAttestServe u) := by
  unfold execAttestServe
  split
  · exact .next h
  · exact .ite (.next h) (.next <| .output <| .bump <| .showAttests <| .modSvc h)

theorem execEndorse_keeps {c : Session} (h : KeepsWf s u) : OutKeeps s (execEndorse c u) := .console (fun _ k => .output k) h

end Sys2Proof.Machine
end

section
/-! SUPPORT. The stored memory stays canonical through power and the slow inputs (Machine/Power): one lemma
per function, along the calls that it makes. -/

namespace Sys2Proof.Machine

variable {s u v : State}

theorem KeepsWf.railsOff (h : KeepsWf s u) : KeepsWf s u.railsOff := .showAout <| .showRails <| .modPw <| .coresOff <| .fullReset h

theorem execSenseTurnOn_keeps (h : KeepsWf s u) : OutKeeps s (execSenseTurnOn u) := by
  unfold execSenseTurnOn
  split
  · exact .next h
  · extract_lets +onlyGivenNames v
    have k : KeepsWf s v := .modPw h
    exact .next <| .ite k (.rampNext k)

theorem execRailInWindow_keeps {rail : Fin 5} (h : KeepsWf s u) : OutKeeps s (execRailInWindow rail u) := by
  unfold execRailInWindow
  split
  · exact .next h
  · extract_lets +onlyGivenNames v
    have k : KeepsWf s v := .showRails <| .modPw h
    exact .next <| .ite (.rampNext k) k

theorem execRailSequencingFail_keeps {rail : Fin 5} (h : KeepsWf s u) : OutKeeps s (execRailSequencingFail rail u) := by
  unfold execRailSequencingFail
  split
  · exact .next h
  · exact .ite (.next h) (.next <| .showAout <| .modPw <| .railsOff <| .lastOff h)

theorem execRailFault_keeps {rail : Fin 5} (h : KeepsWf s u) : OutKeeps s (execRailFault rail u) :=
  .ite (.next h) (.next <| .modPw <| .railsOff <| .lastOff h)

theorem execPowerRestart_keeps (h : KeepsWf s u) : OutKeeps s (execPowerRestart u) := by
  unfold execPowerRestart
  split
  · exact .next h
  · exact .ite (.next h) (.next <| .rampNext <| .modPw h)

theorem execUndervoltage_keeps (h : KeepsWf s u) : OutKeeps s (execUndervoltage u) :=
  .ite (.next h) (.next <| .modPw <| .railsOff <| .lastOff h)

theorem execOvervoltage_keeps (h : KeepsWf s u) : OutKeeps s (execOvervoltage u) :=
  .ite (.next h) (.next <| .modPw <| .railsOff <| .lastOff h)

theorem execOvervoltageRecover_keeps (h : KeepsWf s u) : OutKeeps s (execOvervoltageRecover u) := by
  unfold execOvervoltageRecover
  split
  · exact .next h
  · extract_lets +onlyGivenNames v
    have k : KeepsWf s v := .modPw h
    exact .next <| .ite k (.rampNext k)

theorem execAuxLoss_keeps (h : KeepsWf s u) : OutKeeps s (execAuxLoss u) :=
  .next <| .showAout <| .showRails <| .setReg <| .modPw <| .railsOff h

theorem KeepsWf.powerCause {k : Nat} {start : Bool} (h : KeepsWf s u) : KeepsWf s (u.powerCause k start) :=
  h.trans (powerCause_only ..).cells.keeps

theorem KeepsWf.powerFlag {f : Fld} {k : Nat} {on : Bool} (h : KeepsWf s u) : KeepsWf s (u.powerFlag f k on) :=
  h.trans (powerFlag_only ..).cells.keeps

theorem KeepsWf.readInput {vin iin pin : Nat} (h : KeepsWf s u) : KeepsWf s (u.readInput vin iin pin) := .set <| .set <| .set h

theorem KeepsWf.fastOver (h : KeepsWf s u) : KeepsWf s u.fastOver := .ite (.powerFlag <| .modPw h) h

theorem KeepsWf.showCap {cap : Bool} (h : KeepsWf s u) : KeepsWf s (u.showCap cap) := by
  unfold State.showCap
  extract_lets +onlyGivenNames _ _ v
  have k : KeepsWf s v := .modPw <| .set h
  exact .ite k (.powerCause <| .modPw k)

theorem KeepsWf.paceTo {new : Nat} (h : KeepsWf s u) : KeepsWf s (u.paceTo new) := h.trans (paceTo_only ..).cells.keeps

theorem execPaceDecision_keeps {vin iin pin : Nat} (h : KeepsWf s u) : OutKeeps s (execPaceDecision vin iin pin u) := by
  unfold execPaceDecision
  split
  · exact .next h
  · extract_lets +onlyGivenNames _ _ _ _ _ _ _ _ _ v _ _
    have k : KeepsWf s v := .modPw (.powerFlag <| .set (.fastOver <| .readInput h))
    exact .next <| .showCap <| .paceTo <| .ite (.bump k) k

theorem execFastLimit_keeps (h : KeepsWf s u) : OutKeeps s (execFastLimit u) :=
  .ite (.next h) (.next <| .powerFlag <| .modPw <| .paceTo <| .bump h)

theorem execPaceSlewDone_keeps (h : KeepsWf s u) : OutKeeps s (execPaceSlewDone u) :=
  .ite (.next h) (.next <| .measureRail <| .measureRail h)

theorem execRateMeasure_keeps {die : Fin 3} {rate : Nat} (h : KeepsWf s u) : OutKeeps s (execRateMeasure die rate u) :=
  .ite (.next h) (.next <| .modPw <| .set h)

theorem KeepsWf.sense {a1 temp : Nat} (h : KeepsWf s u) : KeepsWf s (u.sense a1 temp) := .set <| .set <| .set <| .set <| .set <| .modPw h

theorem KeepsWf.throttle {a1 : Nat} (h : KeepsWf s u) : KeepsWf s (u.throttle a1) := .powerFlag <| .modPw h

theorem KeepsWf.trip (h : KeepsWf s u) : KeepsWf s u.trip :=
  .showAout <| .powerCause <| .syNotices <| .glNotices <| .modPw <| .bump <| .lastOff <| .coresOff h

theorem execThermalThrottle_keeps {a0 : Sensor} {temp : Nat} (h : KeepsWf s u) : OutKeeps s (execThermalThrottle a0 temp u) :=
  .ite (.next h) (.next <| .throttle <| .sense h)

theorem execThrottleRelease_keeps {a0 : Sensor} (h : KeepsWf s u) : OutKeeps s (execThrottleRelease a0 u) := by
  unfold execThrottleRelease
  extract_lets +onlyGivenNames _
  split
  · exact .next h
  · split
    · next e =>
      have k := KeepsWf.of_snd e (.free h)
      extract_lets +onlyGivenNames v
      have q : KeepsWf s v := .modPw <| .sense k
      exact .next <| .ite (.powerFlag q) q

theorem execThermalTrip_keeps {a0 : Sensor} {temp : Nat} (h : KeepsWf s u) : OutKeeps s (execThermalTrip a0 temp u) :=
  .ite (.next h) (.next <| .trip <| .sense h)

theorem execG7TempRead_keeps {dev : Fin 16} {temp : Nat} (h : KeepsWf s u) : OutKeeps s (execG7TempRead dev temp u) := by
  unfold execG7TempRead
  extract_lets +onlyGivenNames _
  split
  · exact .next h
  · extract_lets +onlyGivenNames v
    have k : KeepsWf s v := .sense h
    exact .next <| .ite (.trip k) (.ite (.throttle k) k)

theorem execTripRecover_keeps (h : KeepsWf s u) : OutKeeps s (execTripRecover u) := by
  unfold execTripRecover
  split
  · exact .next h
  · extract_lets +onlyGivenNames v _
    have k : KeepsWf s v := by
      refine .foldl (fun _ _ q => ?_) h
      split
      · next e =>
        have r := KeepsWf.of_snd e (.free q)
        exact .sense r
    exact .next <| .showAout <| .rampNext <| .modPw <| .powerCause k

theorem execSlowInputChange_keeps {a0 : SlowInput} {level : Bool} (h : KeepsWf s u) : OutKeeps s (execSlowInputChange a0 level u) := by
  unfold execSlowInputChange
  split
  · exact .next h
  · split
    · exact .ite (.next h) (.next <| .set h)
    · exact .ite (.next h) (.next <| .modPw h)
    · exact .ite (.next h) (.next <| .modPw <| .set <| .set <| .set h)
    · extract_lets +onlyGivenNames _
      split
      · exact .next h
      · extract_lets +onlyGivenNames v
        have k : KeepsWf s v := .set h
        exact .next <| .ite (.set k) k

theorem execSlowInputGlitch_keeps {a0 : SlowInput} (h : KeepsWf s u) : OutKeeps s (execSlowInputGlitch a0 u) :=
  .ite (.next h) (.next <| .set h)

theorem execResetNLow_keeps (h : KeepsWf s u) : OutKeeps s (execResetNLow u) :=
  .ite (.next h) (.next <| .showAout <| .showRails <| .modPw <| .resetNow h)

theorem execResetNHigh_keeps (h : KeepsWf s u) : OutKeeps s (execResetNHigh u) := by
  unfold execResetNHigh
  split
  · exact .next h
  · extract_lets +onlyGivenNames v
    have k : KeepsWf s v := .modPw h
    exact .next <| .ite (.rampNext k) k

theorem KeepsWf.extTake {level : Bool} {t : Nat} (h : KeepsWf s u) : KeepsWf s (u.extTake level t) := .powerFlag <| .modPw <| .set h

theorem execExtLimitChange_keeps {level : Bool} (h : KeepsWf s u) : OutKeeps s (execExtLimitChange level u) := by
  unfold execExtLimitChange
  split
  · exact .next h
  · extract_lets +onlyGivenNames _ v
    have k : KeepsWf s v := .modPw h
    exact .ite (.next k) (.ite (.next <| .modPw <| .bump k) (.next <| .extTake k))

theorem execExtLimitDeferEnd_keeps (h : KeepsWf s u) : OutKeeps s (execExtLimitDeferEnd u) := by
  unfold execExtLimitDeferEnd
  split
  · exact .next h
  · exact .ite (.next h) (.ite (.next <| .extTake h) (.next <| .modPw h))

theorem KeepsWf.steer {e : Int} (h : KeepsWf s u) : KeepsWf s (u.steer e) := by
  unfold State.steer
  split
  · exact .timeTo <| .setTime h
  · split
    · next e => exact .timeTo <| .set <| .of_snd e (.free <| .slewBy h)

theorem execPpsEdge_keeps (h : KeepsWf s u) : OutKeeps s (execPpsEdge u) := by
  unfold execPpsEdge
  split
  · exact .next h
  · extract_lets +onlyGivenNames v
    have k : KeepsWf s v := .modPw h
    split
    · exact .next <| .bump k
    · split
      · extract_lets +onlyGivenNames _ _ _ _ _ _ w
        have q : KeepsWf s w := .showSteer <| .set <| .set (.set (.set (.tallyX <| .bump (.setReg <| .modPw k))))
        exact .next <| .ite (.steer q) q

theorem execPpsHoldover_keeps (h : KeepsWf s u) : OutKeeps s (execPpsHoldover u) := by
  unfold execPpsHoldover
  split
  · exact .next h
  · split
    · exact .next h
    · extract_lets +onlyGivenNames v
      have k : KeepsWf s v := .showSteer <| .set <| .set h
      exact .next <| .ite (.timeTo k) k

theorem execPpsStuck_keeps (h : KeepsWf s u) : OutKeeps s (execPpsStuck u) := .ite (.next h) (.next <| .set h)

end Sys2Proof.Machine
end

section
/-! SUPPORT. The stored memory stays canonical through counters and 10 ns of reference time (Machine/Counters): one lemma
per function, along the calls that it makes. -/

namespace Sys2Proof.Machine

variable {s u v : State}

theorem execPcFreeze_keeps {b : PcBlock} {freeze : Bool} (h : KeepsWf s u) : OutKeeps s (execPcFreeze b freeze u) := .next <| .pcFreeze h

theorem execPcClear_keeps {b : PcBlock} (h : KeepsWf s u) : OutKeeps s (execPcClear b u) := .next <| .pcClear h

theorem KeepsWf.pcLatch {base len i : Nat} (h : KeepsWf s u) : KeepsWf s (u.pcLatch base len i) := .update <| .poke <| .poke h

theorem execPcWindowBoundary_keeps {b : PcBlock} (h : KeepsWf s u) : OutKeeps s (execPcWindowBoundary b u) := by
  unfold execPcWindowBoundary
  extract_lets +onlyGivenNames _
  split
  · exact .next h
  · extract_lets +onlyGivenNames _
    split
    · exact .next h
    · extract_lets +onlyGivenNames _ _ _ v _
      have k : KeepsWf s v := .set (.setReg (.foldl (fun _ _ q => .pcLatch q) h))
      exact .next <| .update <| .ite (.set k) k

theorem KeepsWf.taskCmd {n cmd t : Nat} (h : KeepsWf s u) : KeepsWf s (u.taskCmd n cmd t) := by
  unfold State.taskCmd
  split
  · exact .cmdCreate h
  · exact .cmdPreempt h
  · exact .cmdResume h
  · exact .cmdAbort h
  · exact .cmdRelease h
  · exact h

theorem KeepsWf.glPortWrite {p : Nat} {v : Word} (h : KeepsWf s u) : KeepsWf s (u.glPortWrite p v) := by
  unfold State.glPortWrite
  extract_lets +onlyGivenNames _ w
  have k : KeepsWf s w := .set <| .writeReg h
  split
  · extract_lets +onlyGivenNames x
    have q : KeepsWf s x := .ite (.glTrain k) k
    exact .ite (.glRecal q) q
  · exact .ite k (.gpTo <| .glDrop <| .ite (.sendLinkCtrl k) k)

theorem KeepsWf.lanternReg {a : Nat} {w : Word} (h : KeepsWf s u) : KeepsWf s (u.lanternReg a w) := by
  unfold State.lanternReg
  split
  · exact .ite (.taskCmd h) (.writeReg h)
  · refine .ite (.ite h (.invalStart h)) (.ite ?_ (.ite (.hostboot h) (.ite (.syWrite h) ?_)))
    · extract_lets v
      have k : KeepsWf s v := .writeReg h
      refine .ite ?_ k
      split
      · next e => exact execTunFlush_keeps k _ e
      · exact k
    · split
      · exact .glPortWrite h
      · exact .writeReg h

theorem execRegisterWrite_keeps {w : Writer} {addr : Nat} {v : Word} (h : KeepsWf s u) : OutKeeps s (execRegisterWrite w addr v u) := by
  unfold execRegisterWrite
  split
  · exact .next <| .lanternReg h
  · exact .ite (.next <| .hostboot h) (.ite (.next <| .syWrite h) (.next h))
  · split
    · split
      · next e => exact .next <| .memFault <| .of_snd e (.free h)
    · exact .next <| .ite (.writeReg h) h

theorem KeepsWf.tickCounter {a : Nat} {sel : Word} (h : KeepsWf s u) : KeepsWf s (u.tickCounter a sel) :=
  h.trans (tickCounter_only ..).cells.keeps

theorem KeepsWf.tickStall {n t : Nat} (h : KeepsWf s u) : KeepsWf s (u.tickStall n t) := .ite h (.modTask h)

theorem KeepsWf.timeTick (h : KeepsWf s u) : KeepsWf s u.timeTick := by
  unfold State.timeTick
  extract_lets +onlyGivenNames _ _ v
  have k : KeepsWf s v := by
    refine .foldl (fun _ _ q => ?_) (.foldl (fun _ _ r => .ite (.tickCounter r) r) h)
    split
    · exact .tickStall q
    · exact q
  exact .setReg k

theorem KeepsWf.slewStep (h : KeepsWf s u) : KeepsWf s u.slewStep.2 := by
  unfold State.slewStep
  split
  · exact .inSnd <| .modGl h
  · dsimp only
    split
    · exact .inSnd <| .modGl h
    · exact .inSnd <| .modGl h

theorem KeepsWf.freqStep (h : KeepsWf s u) : KeepsWf s u.freqStep.2 := by
  unfold State.freqStep
  extract_lets +onlyGivenNames st
  split
  · exact h
  · exact .inSnd <| .modGl h

theorem KeepsWf.timeTicks {k : Nat} (h : KeepsWf s u) : KeepsWf s (timeTicks k u) := by
  induction k generalizing u with
  | zero => exact h
  | succ k ih => exact ih (.timeTick h)

theorem KeepsWf.tick (h : KeepsWf s u) : KeepsWf s u.tick := by
  unfold State.tick
  extract_lets +onlyGivenNames v
  have k : KeepsWf s v := .update h
  refine .ite k ?_
  extract_lets +onlyGivenNames src w x y
  have q : KeepsWf s y := .foldl (fun _ _ k => .syMarkStall <| .syTimer k) <| .foldl (fun _ _ k => .showHold k) <|
    .showFollow <| .ageNand <| .flushLogs <| .lookFailed <| .update k
  refine .ite (.modGl q) ?_
  split
  next e =>
  split
  next e' => exact .timeTicks <| .of_snd e' (.freqStep <| .of_snd e (.slewStep q))

end Sys2Proof.Machine
end

section
/-! SUPPORT. The stored memory stays canonical through every command, and so through every step. -/

namespace Sys2Proof.Machine

theorem exec_keeps {s u : State} {i : Instr} (h : KeepsWf s u) : OutKeeps s (exec i u) := by
  cases i with
  | nop n t => exact execNop_keeps h
  | end_ n t => exact execEnd_keeps h
  | jump n t => exact execJump_keeps h
  | bucket n t => exact execBucket_keeps h
  | setb n t => exact execSetb_keeps h
  | loadb n t => exact execLoadb_keeps h
  | bind n t => exact execBind_keeps h
  | fence n t => exact execFence_keeps h
  | barrier n t => exact execBarrier_keeps h
  | barrierReread n t => exact execBarrierReread_keeps h
  | waitw n t => exact execWaitw_keeps h
  | waitwReread n t => exact execWaitwReread_keeps h
  | chWaitTimeout n t => exact execChWaitTimeout_keeps h
  | sarm n t => exact execSarm_keeps h
  | swait n t => exact execSwait_keeps h
  | merge n t => exact execMerge_keeps h
  | scatterIn n t => exact execScatterIn_keeps h
  | array n t => exact execArray_keeps h
  | chain n t => exact execChain_keeps h
  | sumpOpen n t => exact execSumpOpen_keeps h
  | sumpDrain n t => exact execSumpDrain_keeps h
  | gvCheck n t => exact execGvCheck_keeps h
  | gvJoin n t => exact execGvJoin_keeps h
  | instructionFetch n t => exact execInstructionFetch_keeps h
  | privilegedPrefetchIssue n t => exact execPrivilegedPrefetchIssue_keeps h
  | arrayEnter n => exact execArrayEnter_keeps h
  | arrayStep n => exact execArrayStep_keeps h
  | checksComplete n slot defects => exact execChecksComplete_keeps h
  | drainComplete n slot => exact execDrainComplete_keeps h
  | lauterRead n => exact execLauterRead_keeps h
  | spargeRegionWaitEnd n => exact execSpargeRegionWaitEnd_keeps h
  | sumpUpdate n bank ecc => exact execSumpUpdate_keeps h
  | spillRunWritten n => exact execSpillRunWritten_keeps h
  | sumpDrainStart n => exact execSumpDrainStart_keeps h
  | sumpMergePass n => exact execSumpMergePass_keeps h
  | chainStart n => exact execChainStart_keeps h
  | chainRowDone n => exact execChainRowDone_keeps h
  | chainComplete n => exact execChainComplete_keeps h
  | gvJoinRead n t => exact execGvJoinRead_keeps h
  | taskCreate n => exact execTaskCreate_keeps h
  | taskPreempt n t => exact execTaskPreempt_keeps h
  | preemptEnginesStopped n t => exact execPreemptEnginesStopped_keeps h
  | preemptSaveWritten n t => exact execPreemptSaveWritten_keeps h
  | taskResume n t => exact execTaskResume_keeps h
  | resumeRestored n t => exact execResumeRestored_keeps h
  | taskAbort n t => exact execTaskAbort_keeps h
  | taskRelease n t => exact execTaskRelease_keeps h
  | abortComplete n t => exact execAbortComplete_keeps h
  | xlatWalkDone n e => exact execXlatWalkDone_keeps h
  | tunFillDone line => exact execTunFillDone_keeps h
  | scrubRead store upsets => exact execScrubRead_keeps h
  | cellarRowCopyEnd n => exact execCellarRowCopyEnd_keeps h
  | g7RegionCopyEnd => exact execG7RegionCopyEnd_keeps h
  | g7RegionRetire => exact execG7RegionRetire_keeps h
  | gmInvalAll => exact execGmInvalAll_keeps h
  | gmInvalContext x => exact execGmInvalContext_keeps h
  | gmInvalRange x log2 => exact execGmInvalRange_keeps h
  | gmInvalDone => exact execGmInvalDone_keeps h
  | tunFlush => exact execTunFlush_keeps h
  | tunFlushDone => exact execTunFlushDone_keeps h
  | g7Refresh c allBank => exact execG7Refresh_keeps (a0 := c) (a1 := allBank) h
  | g7TempRead dev temp => exact execG7TempRead_keeps h
  | startAccept n e => exact execStartAccept_keeps h
  | transferIssue n e => exact execTransferIssue_keeps h
  | transferComplete n e k upsets => exact execTransferComplete_keeps h
  | creditWaitEnd n e => exact execCreditWaitEnd_keeps h
  | multicastRun n e => exact execMulticastRun_keeps h
  | spargeElementArrive n r => exact execSpargeElementArrive_keeps h
  | spargeDeliveryEnd g r => exact execSpargeDeliveryEnd_keeps h
  | stallWatchdogBite n t => exact execStallWatchdogBite_keeps h
  | arbPhase a => exact execArbPhase_keeps h
  | arbRequestDrop a => exact execArbRequestDrop_keeps h
  | holdWatchdogBite a => exact execHoldWatchdogBite_keeps h
  | forcedReleaseDone a => exact execForcedReleaseDone_keeps h
  | abortTimeout w => exact execAbortTimeout_keeps h
  | stepHeaderArrive ticket => exact execStepHeaderArrive_keeps h
  | stepChoose => exact execStepChoose_keeps h
  | stepDeliver => exact execStepDeliver_keeps h
  | stepEnd => exact execStepEnd_keeps h
  | stepFail => exact execStepFail_keeps h
  | tokenIdsArrive ticket ids drafts => exact execTokenIdsArrive_keeps h
  | glLinkCtrl p a => exact execGlLinkCtrl_keeps h
  | glHello p a => exact execGlHello_keeps h
  | glFrameReceive p a => exact execGlFrameReceive_keeps h
  | readReq => exact execReadReq_keeps h
  | write => exact execWrite_keeps h
  | atomic => exact execAtomic_keeps h
  | msgStepHeader => exact execMsgStepHeader_keeps h
  | msgFailureNotice => exact execMsgFailureNotice_keeps h
  | msgTokenIds => exact execMsgTokenIds_keeps h
  | msgPassageHeartbeat => exact execMsgPassageHeartbeat_keeps h
  | msgCutNotice => exact execMsgCutNotice_keeps h
  | msgRestartProbe => exact execMsgRestartProbe_keeps h
  | response => exact execResponse_keeps h
  | e2eTimeout tag => exact execE2eTimeout_keeps h
  | neighbour p => exact execNeighbour_keeps h
  | lanternHeartbeat => exact execLanternHeartbeat_keeps h
  | beacon => exact execBeacon_keeps h
  | propose => exact execPropose_keeps h
  | ack => exact execAck_keeps h
  | commit => exact execCommit_keeps h
  | join => exact execJoin_keeps h
  | sync p => exact execSync_keeps h
  | pdelayReq p => exact execPdelayReq_keeps h
  | pdelayRsp p => exact execPdelayRsp_keeps h
  | glAckDue p => exact execGlAckDue_keeps h
  | glKeepalive p => exact execGlKeepalive_keeps h
  | glCreditStall p => exact execGlCreditStall_keeps h
  | glTrainingDone p lanes => exact execGlTrainingDone_keeps h
  | glTrainingTimeout p => exact execGlTrainingTimeout_keeps h
  | glHelloSend p => exact execGlHelloSend_keeps h
  | glHelloLost p => exact execGlHelloLost_keeps h
  | glMiswiredRecheck p => exact execGlMiswiredRecheck_keeps h
  | glPortDown p cause => exact execGlPortDown_keeps h
  | glHoldExpire p => exact execGlHoldExpire_keeps h
  | glRecal p => exact execGlRecal_keeps h
  | glEnable p => exact execGlEnable_keeps h
  | pdelayTimer p => exact execPdelayTimer_keeps h
  | syncSend => exact execSyncSend_keeps h
  | syncLoss => exact execSyncLoss_keeps h
  | membershipHeartbeatTimer => exact execMembershipHeartbeatTimer_keeps h
  | memberUnheard addr => exact execMemberUnheard_keeps h
  | beaconLost => exact execBeaconLost_keeps h
  | changeTimeout => exact execChangeTimeout_keeps h
  | freeze => exact execFreeze_keeps h
  | passageHeartbeatSend => exact execPassageHeartbeatSend_keeps h
  | passageUpstreamLost => exact execPassageUpstreamLost_keeps h
  | restartProbeSend => exact execRestartProbeSend_keeps h
  | syLinkCtrl p a => exact execSyLinkCtrl_keeps h
  | syHello p a => exact execSyHello_keeps h
  | syDataReceive p a => exact execSyDataReceive_keeps h
  | open_ p => exact execOpen_keeps h
  | more p => exact execMore_keeps h
  | cancel p => exact execCancel_keeps h
  | submissionIncomplete p tag => exact execSubmissionIncomplete_keeps h
  | tokFrameSend p => exact execTokFrameSend_keeps h
  | evtFrameSend => exact execEvtFrameSend_keeps h
  | mgmtRead => exact execMgmtRead_keeps h
  | mgmtWrite => exact execMgmtWrite_keeps h
  | mgmtCommand => exact execMgmtCommand_keeps h
  | cons => exact execCons_keeps h
  | syAckDue p => exact execSyAckDue_keeps h
  | syKeepalive p => exact execSyKeepalive_keeps h
  | syTrainingDone p lanes => exact execSyTrainingDone_keeps h
  | syHelloSend p => exact execSyHelloSend_keeps h
  | syTrainingTimeout p => exact execSyTrainingTimeout_keeps h
  | syPortDown p cause => exact execSyPortDown_keeps h
  | syRecal p => exact execSyRecal_keeps h
  | syEnable p => exact execSyEnable_keeps h
  | syMboxIn v => exact execSyMboxIn_keeps h
  | syMboxOut => exact execSyMboxOut_keeps h
  | syEvtPop => exact execSyEvtPop_keeps h
  | caskPatrolRead die plane block page found => exact execCaskPatrolRead_keeps h
  | staticWearLevel => exact execStaticWearLevel_keeps h
  | nandProgramFail die plane block => exact execNandProgramFail_keeps h
  | nandEraseFail die plane block => exact execNandEraseFail_keeps h
  | nandUncorrRead die plane block => exact execNandUncorrRead_keeps h
  | objectStore v => exact execObjectStore_keeps (a0 := v) h
  | powerGood => exact execPowerGood_keeps h
  | bootCaskReady dirOk fwA fwB => exact execBootCaskReady_keeps h
  | bootG7Trained failed v => exact execBootG7Trained_keeps h
  | bootSelftestDone fails scripts => exact execBootSelftestDone_keeps h
  | bootGalleryJoined v => exact execBootGalleryJoined_keeps h
  | bootModelLoaded => exact execBootModelLoaded_keeps h
  | idKeygenDone pufOk => exact execIdKeygenDone_keeps h
  | hostbootWrite w => exact execHostbootWrite_keeps h
  | stageDone recipe model => exact execStageDone_keeps h
  | switchTicketsReturned => exact execSwitchTicketsReturned_keeps h
  | consoleStatus c => exact execConsoleStatus_keeps h
  | consoleRead c addr n => exact execConsoleRead_keeps h
  | consoleDir c => exact execConsoleDir_keeps h
  | consoleLog c n => exact execConsoleLog_keeps h
  | consoleAout c mode q sel => exact execConsoleAout_keeps h
  | consoleSelftest c block chamber force v => exact execConsoleSelftest_keeps h
  | selftestDone fails => exact execSelftestDone_keeps h
  | consoleRecv c kind slot bytes => exact execConsoleRecv_keeps h
  | consoleHex c digits => exact execConsoleHex_keeps h
  | consoleRecvAbort c => exact execConsoleRecvAbort_keeps h
  | mailboxData => exact execMailboxData_keeps h
  | mailboxEnd => exact execMailboxEnd_keeps h
  | mailboxAbort => exact execMailboxAbort_keeps h
  | consoleRemove c kind slot => exact execConsoleRemove_keeps h
  | consoleActivate c slot => exact execConsoleActivate_keeps h
  | consoleStage c slot => exact execConsoleStage_keeps h
  | consoleSwitch c keep => exact execConsoleSwitch_keeps h
  | consoleFence c n => exact execConsoleFence_keeps h
  | fenceMappingDone => exact execFenceMappingDone_keeps h
  | consoleReload c n => exact execConsoleReload_keeps h
  | consoleFwupdate c slotB v => exact execConsoleFwupdate_keeps h
  | fwupdateTimeout => exact execFwupdateTimeout_keeps h
  | consoleRecalGallery c p => exact execConsoleRecalGallery_keeps h
  | consoleRecalSirdy c p => exact execConsoleRecalSirdy_keeps h
  | consoleRecalG7 c ch => exact execConsoleRecalG7_keeps h
  | g7RetrainDone ok => exact execG7RetrainDone_keeps h
  | consoleRetireCellar c n tier row => exact execConsoleRetireCellar_keeps h
  | consoleRetireG7 c region => exact execConsoleRetireG7_keeps h
  | consoleRetireCask c die plane block => exact execConsoleRetireCask_keeps h
  | consoleSpareClear c n => exact execConsoleSpareClear_keeps h
  | consoleSpareBad c n => exact execConsoleSpareBad_keeps h
  | consoleRetlogClear c unit => exact execConsoleRetlogClear_keeps h
  | consoleLeave c => exact execConsoleLeave_keeps h
  | leaveCommitted => exact execLeaveCommitted_keeps h
  | consoleReset c => exact execConsoleReset_keeps h
  | consoleSet c f v => exact execConsoleSet_keeps h
  | consoleChallenge c => exact execConsoleChallenge_keeps h
  | consoleFuse c v => exact execConsoleFuse_keeps h
  | enrol programmed => exact execEnrol_keeps h
  | revoke programmed => exact execRevoke_keeps h
  | raiseFloor programmed => exact execRaiseFloor_keeps h
  | attest c nonce => exact execAttest_keeps h
  | attestServe => exact execAttestServe_keeps h
  | endorse c => exact execEndorse_keeps h
  | lanternWatchdogBite => exact execLanternWatchdogBite_keeps h
  | senseTurnOn => exact execSenseTurnOn_keeps h
  | railInWindow rail => exact execRailInWindow_keeps h
  | railSequencingFail rail => exact execRailSequencingFail_keeps h
  | railFault rail => exact execRailFault_keeps h
  | powerRestart => exact execPowerRestart_keeps h
  | undervoltage => exact execUndervoltage_keeps h
  | overvoltage => exact execOvervoltage_keeps h
  | paceDecision vin iin pin => exact execPaceDecision_keeps h
  | fastLimit => exact execFastLimit_keeps h
  | paceSlewDone => exact execPaceSlewDone_keeps h
  | thermalThrottle x temp => exact execThermalThrottle_keeps h
  | thermalTrip x temp => exact execThermalTrip_keeps h
  | tripRecover => exact execTripRecover_keeps h
  | slowInputChange x level => exact execSlowInputChange_keeps h
  | slowInputGlitch x => exact execSlowInputGlitch_keeps h
  | resetNLow => exact execResetNLow_keeps h
  | resetNHigh => exact execResetNHigh_keeps h
  | extLimitChange level => exact execExtLimitChange_keeps h
  | extLimitDeferEnd => exact execExtLimitDeferEnd_keeps h
  | ppsEdge => exact execPpsEdge_keeps h
  | ppsHoldover => exact execPpsHoldover_keeps h
  | ppsStuck => exact execPpsStuck_keeps h
  | rateMeasure die rate => exact execRateMeasure_keeps h
  | pcFreeze b freeze => exact execPcFreeze_keeps h
  | pcClear b => exact execPcClear_keeps h
  | pcWindowBoundary b => exact execPcWindowBoundary_keeps h
  | registerWrite w addr v => exact execRegisterWrite_keeps h
  | illegalOpcodeIssue n t => exact execIllegalOpcodeIssue_keeps h
  | auxLoss => exact execAuxLoss_keeps h
  | overvoltageRecover => exact execOvervoltageRecover_keeps h
  | throttleRelease x => exact execThrottleRelease_keeps h
  | aoutFullScaleEnd => exact execAoutFullScaleEnd_keeps h
  | aoutQuantityRefresh => exact execAoutQuantityRefresh_keeps h
  | fwupdateHandoverDone => exact execFwupdateHandoverDone_keeps h
  | uartCharacter c => exact execUartCharacter_keeps h

theorem step_keeps {s : State} : OutKeeps s (step s) := by
  cases front : s.pending with
  | nil =>
    rw [step_nil front]
    exact .next (.tick (.refl s))
  | cons c q =>
    rw [step_cons front]
    exact exec_keeps (.update (.refl s))

/-- Settles O60: every function that a step calls keeps the stored memory canonical. -/
theorem memoryStaysCanonical : Obligations.MemoryStaysCanonical := by
  unfold Obligations.MemoryStaysCanonical
  intro s u wf stepped
  exact (step_keeps u stepped).wf wf

end Sys2Proof.Machine
end

section
/-! SUPPORT. A Sirdy port's state (R289, R302), and a port that goes DOWN with the requests admitted on it (R294). -/

namespace Sys2Proof.Machine

/-! ### The state of a Sirdy port -/

/-- A port that goes to a state shows it, and raises the event unless it is in it already. -/
theorem spTo_shows (s : State) (p st : Nat) :
    ∃ v, (v = s ∧ s.spState p = st ∨ v = s.set (SY_PORT_STATUS p) SY_PORT_STATUS.STATE st) ∧ Shows v (s.spTo p st) := by
  unfold State.spTo
  split
  · next already => exact ⟨s, .inl ⟨rfl, already⟩, .refl s⟩
  · refine ⟨_, .inr rfl, ?_⟩
    have raised := event_shows (s.set (SY_PORT_STATUS p) SY_PORT_STATUS.STATE st) 0xE001 p st
    extract_lets u
    exact ite_rel (R := fun _ v => Shows (s.set (SY_PORT_STATUS p) SY_PORT_STATUS.STATE st) v) (x := s) (fun _ => raised)
      fun _ => (raised.trans (recalPorts_shows _)).trans (showAout_shows _)

theorem Shows.disp {s u : State} : Shows s u → u.disp = s.disp := by rintro ⟨⟨_, _, _, _, rfl⟩, _⟩; rfl

@[simp] theorem spTo_disp (s : State) (p st : Nat) : (s.spTo p st).disp = s.disp := by
  obtain ⟨v, ⟨rfl, _⟩ | rfl, shown⟩ := spTo_shows s p st <;> exact shown.disp

theorem SY_PORT_STATUS_inj {p q : Nat} : SY_PORT_STATUS p = SY_PORT_STATUS q ↔ p = q := by
  simp only [SY_PORT_STATUS]
  omega

theorem SY_PORT_notMem_shownAddrs {p : Nat} (port : p < 2) {o : Nat} (low : 0x100 ≤ o) (high : o < 0x1000) :
    y4xWin 8 + o + 0x40 * p ∉ shownAddrs := by
  have elsewhere : ∀ a ∈ shownAddrs, a < y4xWin 8 + 0x100 ∨ y4xWin 8 + 0x10000 ≤ a := by decide
  intro listed
  have := elsewhere _ listed
  omega

theorem SY_PORT_STATUS_notMem_shownAddrs {p : Nat} (port : p < 2) : SY_PORT_STATUS p ∉ shownAddrs :=
  SY_PORT_notMem_shownAddrs port (by decide) (by decide)

theorem spTo_spState_ne (s : State) (p st : Nat) {q : Nat} (port : q < 2) (other : q ≠ p) : (s.spTo p st).spState q = s.spState q := by
  have apart : SY_PORT_STATUS q ≠ SY_PORT_STATUS p := mt SY_PORT_STATUS_inj.1 other
  obtain ⟨v, ⟨rfl, _⟩ | rfl, shown⟩ := spTo_shows s p st
  · exact shown.get (SY_PORT_STATUS_notMem_shownAddrs port) _
  · exact (shown.get (SY_PORT_STATUS_notMem_shownAddrs port) _).trans (State.get_set_ne _ _ _ _ apart)

/-! ### A request that has ended -/

/-- No ticket and no request of the dispatcher is request `i`'s. -/
def Disp.Without (d : Disp) (i : Nat) : Prop := (∀ t ∈ d.tickets, t.2.1 ≠ i) ∧ ∀ r ∈ d.reqs, r.id ≠ i

theorem foldl_freeTicket (l : List (Nat × (Nat × Nat))) (away : Bool) (s : State) :
    ∃ m, (l.foldl (fun (s : State) x => s.freeTicket x.1 away) s).disp
      = { s.disp with tickets := s.disp.tickets.filter fun t => l.all fun x => t.1 != x.1, stale := m } := by
  induction l generalizing s with
  | nil => exact ⟨s.disp.stale, by simp⟩
  | cons x l ih =>
    obtain ⟨m, e⟩ := ih (s.freeTicket x.1 away)
    refine ⟨m, e.trans ?_⟩
    simp [State.freeTicket, State.modDisp, kdel, List.filter_filter, Bool.and_comm]

/-- The TOK record that ends a request. -/
def State.endRec (s : State) (r : Req) (reason fault : Nat) : TokRec :=
  ⟨r.port, 2, reason, fault, r.id, r.tag, r.delivered, s.now, [], s.clk⟩

theorem endReq_spec (s : State) (r : Req) (reason fault : Nat) (away : Bool) :
    let u := s.endReq r reason fault away
    u.disp.subs = s.disp.subs ∧ u.disp.toks = s.disp.toks ++ [s.endRec r reason fault]
    ∧ u.disp.reqs = (s.disp.reqs.filter fun x => x.id != r.id) ∧ ∀ t ∈ u.disp.tickets, t ∈ s.disp.tickets ∧ t.2.1 ≠ r.id := by
  unfold State.endReq
  extract_lets v w x u
  have seen : w.disp = v.disp := ite_rel (R := fun _ (w : State) => w.disp = _) (x := s) (fun _ => State.bump_disp ..) fun _ => rfl
  obtain ⟨m, freed⟩ := foldl_freeTicket (w.disp.tickets.filter fun x => x.2.1 = r.id) away w
  have ended : u.disp = { x.disp with reqs := x.disp.reqs.filter fun y => y.id != r.id } := rfl
  rw [ended, show x.disp = _ from freed, seen]
  refine ⟨rfl, rfl, rfl, fun t listed => ?_⟩
  obtain ⟨old, kept⟩ := List.mem_filter.1 listed
  refine ⟨old, fun own => ?_⟩
  have self := List.all_eq_true.1 kept t (List.mem_filter.2 ⟨old, decide_eq_true own⟩)
  simp at self

theorem Disp.Without.endReq {s : State} {i : Nat} (h : s.disp.Without i) (r : Req) (reason fault : Nat) (away : Bool) :
    (s.endReq r reason fault away).disp.Without i := by
  obtain ⟨-, -, reqs, tickets⟩ := endReq_spec s r reason fault away
  exact ⟨fun t listed => h.1 t (tickets t listed).1, fun q listed => h.2 q (List.mem_filter.1 (reqs ▸ listed)).1⟩

theorem endReq_without (s : State) (r : Req) (reason fault : Nat) (away : Bool) : (s.endReq r reason fault away).disp.Without r.id := by
  obtain ⟨-, -, reqs, tickets⟩ := endReq_spec s r reason fault away
  refine ⟨fun t listed => (tickets t listed).2, fun q listed => ?_⟩
  have other := (List.mem_filter.1 (reqs ▸ listed)).2
  simpa using other

/-! ### The requests admitted on a port -/

/-- Every request of `l` ends with PORT_DOWN, its END record going to port `q`. -/
def State.endAll (s : State) (q : Nat) (l : List Req) : State := l.foldl (fun (s : State) r => s.endReq { r with port := q } 6 0 true) s

theorem endAll_spec (q : Nat) (l : List Req) (s : State) :
    (s.endAll q l).disp.subs = s.disp.subs ∧ (∀ r ∈ (s.endAll q l).disp.reqs, r ∈ s.disp.reqs)
    ∧ (∀ i, s.disp.Without i → (s.endAll q l).disp.Without i) ∧ (∀ r ∈ l, (s.endAll q l).disp.Without r.id)
    ∧ ∃ e, (s.endAll q l).disp.toks = s.disp.toks ++ e ∧ (∀ x ∈ e, x.port = q ∧ x.reason = 6)
      ∧ ∀ r ∈ l, ∃ x ∈ e, x.kind = 2 ∧ x.reason = 6 ∧ x.req = r.id ∧ x.tag = r.tag ∧ x.port = q := by
  induction l generalizing s with
  | nil => exact ⟨rfl, fun _ h => h, fun _ h => h, by simp, [], by simp [State.endAll]⟩
  | cons r l ih =>
    obtain ⟨subs, toks, reqs, -⟩ := endReq_spec s { r with port := q } 6 0 true
    obtain ⟨subsL, reqsL, keptL, goneL, e, toksL, allL, eachL⟩ := ih (s.endReq { r with port := q } 6 0 true)
    refine ⟨subsL.trans subs, fun x h => (List.mem_filter.1 (reqs ▸ reqsL x h)).1, fun i h => keptL i (h.endReq ..), ?_,
      s.endRec { r with port := q } 6 0 :: e, ?_, ?_, ?_⟩
    · rintro x (_ | ⟨_, x_mem⟩)
      · exact keptL _ (endReq_without s { r with port := q } 6 0 true)
      · exact goneL x x_mem
    · exact toksL.trans (by rw [toks, List.append_assoc, List.singleton_append])
    · rintro x (_ | ⟨_, x_mem⟩)
      · exact ⟨rfl, rfl⟩
      · exact allL x x_mem
    · rintro x (_ | ⟨_, x_mem⟩)
      · exact ⟨_, List.mem_cons_self, rfl, rfl, rfl, rfl, rfl⟩
      · obtain ⟨y, listed, said⟩ := eachL x x_mem
        exact ⟨y, List.mem_cons_of_mem _ listed, said⟩

/-! ### Steps issued at once -/

/-- What issuing steps leaves of the dispatcher: its submissions and TOK records, whose its requests are, and that a ticket is a
request's. -/
def Issues (s u : State) : Prop :=
  u.disp.subs = s.disp.subs ∧ u.disp.toks = s.disp.toks ∧ (∀ r ∈ u.disp.reqs, ∃ q ∈ s.disp.reqs, q.id = r.id ∧ q.port = r.port)
  ∧ ∀ t ∈ u.disp.tickets, t ∈ s.disp.tickets ∨ ∃ q ∈ s.disp.reqs, q.id = t.2.1

theorem Issues.refl (s : State) : Issues s s := ⟨rfl, rfl, fun r h => ⟨r, h, rfl, rfl⟩, fun _ h => .inl h⟩

theorem Issues.trans {s u v : State} (h : Issues s u) (g : Issues u v) : Issues s v := by
  obtain ⟨subs, toks, reqs, tickets⟩ := h
  obtain ⟨subs', toks', reqs', tickets'⟩ := g
  refine ⟨subs'.trans subs, toks'.trans toks, fun r listed => ?_, fun t listed => ?_⟩
  · obtain ⟨q, there, id, port⟩ := reqs' r listed
    obtain ⟨q', there', id', port'⟩ := reqs q there
    exact ⟨q', there', id'.trans id, port'.trans port⟩
  · rcases tickets' t listed with old | ⟨q, there, own⟩
    · exact tickets t old
    · obtain ⟨q', there', id', -⟩ := reqs q there
      exact .inr ⟨q', there', id'.trans own⟩

theorem Issues.without {s u : State} (h : Issues s u) {i : Nat} (gone : s.disp.Without i) : u.disp.Without i := by
  obtain ⟨-, -, reqs, tickets⟩ := h
  refine ⟨fun t listed => ?_, fun r listed => ?_⟩
  · rcases tickets t listed with old | ⟨q, there, own⟩
    · exact gone.1 t old
    · exact own ▸ gone.2 q there
  · obtain ⟨q, there, id, -⟩ := reqs r listed
    exact id ▸ gone.2 q there

theorem mem_kset {β : Type} {m : List (Nat × β)} {k : Nat} {v : β} {e : Nat × β} (h : e ∈ kset m k v) : e = (k, v) ∨ e ∈ m :=
  (mem_kins.1 h).imp_right fun old => (List.mem_filter.1 old).1

/-- A step of request `r` issued under ticket `t`. -/
theorem issued_issues (s : State) {r : Req} (own : r ∈ s.disp.reqs) (t k : Nat) (h : List Word)
    (e : List (Nat × List Nat) → List (Nat × List Nat)) {f : Req → Req} (kept : ∀ q, (f q).id = q.id ∧ (f q).port = q.port) :
    Issues s (((s.arrive t h).modDisp fun d => { d with tickets := kset d.tickets t (r.id, k), embeds := e d.embeds }).modReq r.id f) := by
  refine ⟨rfl, rfl, fun q listed => ?_, fun x listed => ?_⟩
  · obtain ⟨q, there, rfl⟩ := List.mem_map.1 listed
    refine ⟨q, there, ?_⟩
    split
    · exact ⟨(kept q).1.symm, (kept q).2.symm⟩
    · exact ⟨rfl, rfl⟩
  · rcases mem_kset listed with rfl | old
    · exact .inr ⟨r, own, rfl⟩
    · exact .inl old

theorem issueStep_issues (s : State) {r : Req} (own : r ∈ s.disp.reqs) (t : Nat) : Issues s (s.issueStep r t) := by
  unfold State.issueStep
  split
  · exact issued_issues s own t _ _ (fun m => kset m t _) fun q => ⟨rfl, rfl⟩
  · exact issued_issues s.free.2 own t _ _ (fun m => kset m t _) fun q => ⟨rfl, rfl⟩

theorem pumpSteps_issues (fuel : Nat) (s : State) : Issues s (pumpSteps fuel s) := by
  induction fuel generalizing s with
  | zero => exact .refl s
  | succ fuel ih =>
    unfold pumpSteps
    split
    · exact .refl s
    · split
      · next found _ => exact (issueStep_issues s (List.mem_of_find?_eq_some found) _).trans (ih _)
      · exact .refl s

/-! ### A port that leaves UP -/

/-- The port's own state, its frames and its submissions as its end leaves them; the requests admitted on it still run. -/
def State.portLeft (s : State) (p last : Nat) : State :=
  let v := (s.modSport p fun v => { v with
    txq := [], replay := [], credits := [0, 0, 0, 0, 0], ret := [0, 0, 0, 0, 0], ackDue := false, nakDue := false,
    nakSeq := 4096, nakCount := 0, zeroSince := [none, none, none, none, none], lost := false, got := false }).set
      (SY_PORT_STATUS p) SY_PORT_STATUS.LAST_DOWN last
  ({ v with sy := { v.sy with rx := v.sy.rx.filter fun x => x.1 != p } }.spTo p spDown).modDisp fun d => { d with
    subs := d.subs.filter fun x => x.port != p
    toks := d.toks.filter fun x => x.port != p }

/-- The END records of a port that is not UP are lost. -/
def State.tokLost (s : State) (q : Nat) : State :=
  s.modDisp fun d => { d with toks := d.toks.filter fun x => x.port != q || x.reason != 6 }

/-- The events of the tunnel go on, on the other port where it is UP. -/
def State.svcLeft (s : State) (p : Nat) (up : Bool) : State :=
  if s.svcPort ≠ p then s else if up && s.svcHome = p then s.svcMove (1 - p) else s.resendEvts

/-- The requests admitted on the port end, once it has left UP. -/
def State.portEnded (s : State) (p last : Nat) : State :=
  (s.portLeft p last).endAll (1 - p) ((s.portLeft p last).disp.reqs.filter fun r => r.port = p)

theorem syDrop_eq (s : State) (p last : Nat) :
    let up := (s.portLeft p last).spState (1 - p) = spUp
    s.syDrop p last
      = ((if up then s.portEnded p last else (s.portEnded p last).tokLost (1 - p)).svcLeft p up).showReqs.pump := rfl

theorem portLeft_disp (s : State) (p last : Nat) : (s.portLeft p last).disp.subs = (s.disp.subs.filter fun x => x.port != p)
    ∧ (s.portLeft p last).disp.toks = (s.disp.toks.filter fun x => x.port != p) ∧ (s.portLeft p last).disp.reqs = s.disp.reqs := by
  unfold State.portLeft
  extract_lets v
  rw [State.modDisp_disp, spTo_disp]
  exact ⟨rfl, rfl, rfl⟩

theorem portLeft_spState_ne (s : State) (p last : Nat) {q : Nat} (port : q < 2) (other : q ≠ p) :
    (s.portLeft p last).spState q = s.spState q := by
  unfold State.portLeft
  extract_lets v src
  have told : v.spState q = s.spState q := State.get_set_ne _ _ _ _ (mt SY_PORT_STATUS_inj.1 other)
  have moved := spTo_spState_ne { v with sy := { src with rx := src.rx.filter fun x => x.1 != p } } p spDown port other
  exact moved.trans told

theorem resendEvts_disp (s : State) : s.resendEvts.disp = s.disp := rfl

theorem svcMove_disp (s : State) (p : Nat) : (s.svcMove p).disp = s.disp :=
  ite_rel (R := fun s (u : State) => u.disp = s.disp) (x := s) (fun _ => rfl) fun _ => (event_shows _ _ _ _).disp

theorem svcLeft_disp (s : State) (p : Nat) (up : Bool) : (s.svcLeft p up).disp = s.disp :=
  ite_rel (R := fun s (u : State) => u.disp = s.disp) (x := s) (fun _ => rfl) fun _ =>
    ite_rel (R := fun s (u : State) => u.disp = s.disp) (x := s) (fun _ => svcMove_disp s _) fun _ => rfl

/-- The dispatcher after the end of a port, before steps are issued. -/
theorem portEnded_spec (s : State) (p last : Nat) :
    (s.portEnded p last).disp.subs = (s.disp.subs.filter fun x => x.port != p)
    ∧ (∀ r ∈ (s.portEnded p last).disp.reqs, r.port ≠ p)
    ∧ (∀ r ∈ s.disp.reqs, r.port = p → (s.portEnded p last).disp.Without r.id)
    ∧ ∃ e, (s.portEnded p last).disp.toks = (s.disp.toks.filter fun x => x.port != p) ++ e
      ∧ (∀ x ∈ e, x.port = 1 - p ∧ x.reason = 6)
      ∧ ∀ r ∈ s.disp.reqs, r.port = p → ∃ x ∈ e, x.kind = 2 ∧ x.reason = 6 ∧ x.req = r.id ∧ x.tag = r.tag ∧ x.port = 1 - p := by
  obtain ⟨subs, toks, reqs⟩ := portLeft_disp s p last
  obtain ⟨subsE, reqsE, -, gone, e, toksE, all, each⟩ :=
    endAll_spec (1 - p) ((s.portLeft p last).disp.reqs.filter fun r => r.port = p) (s.portLeft p last)
  have ended (r : Req) (listed : r ∈ s.disp.reqs) (own : r.port = p) :
      r ∈ (s.portLeft p last).disp.reqs.filter fun r => r.port = p :=
    List.mem_filter.2 ⟨reqs ▸ listed, decide_eq_true own⟩
  refine ⟨subsE.trans subs, fun r left own => ?_, fun r listed own => gone r (ended r listed own), e, toksE.trans (by rw [toks]), all,
    fun r listed own => each r (ended r listed own)⟩
  exact (gone r (ended r (reqs ▸ reqsE r left) own)).2 r left rfl

/-- What `syDrop` does after the port's requests have ended takes no request back, and issues steps of those that are left only. -/
theorem syDrop_issues (s : State) (p last : Nat) : ∃ v, Issues v (s.syDrop p last)
    ∧ v.disp.subs = (s.portEnded p last).disp.subs ∧ v.disp.reqs = (s.portEnded p last).disp.reqs
    ∧ v.disp.tickets = (s.portEnded p last).disp.tickets
    ∧ v.disp.toks = if (s.portLeft p last).spState (1 - p) = spUp then (s.portEnded p last).disp.toks
        else (s.portEnded p last).disp.toks.filter fun x => x.port != 1 - p || x.reason != 6 := by
  rw [syDrop_eq]
  by_cases up : (s.portLeft p last).spState (1 - p) = spUp
  · simp only [up, if_true, decide_true]
    refine ⟨((s.portEnded p last).svcLeft p true).showReqs, pumpSteps_issues _ _, ?_⟩
    have kept : ((s.portEnded p last).svcLeft p true).showReqs.disp = (s.portEnded p last).disp := svcLeft_disp _ p true
    rw [kept]
    exact ⟨rfl, rfl, rfl, rfl⟩
  · simp only [up, if_false, decide_false]
    refine ⟨(((s.portEnded p last).tokLost (1 - p)).svcLeft p false).showReqs, pumpSteps_issues _ _, ?_⟩
    have kept : (((s.portEnded p last).tokLost (1 - p)).svcLeft p false).showReqs.disp = ((s.portEnded p last).tokLost (1 - p)).disp :=
      svcLeft_disp _ p false
    rw [kept]
    exact ⟨rfl, rfl, rfl, rfl⟩

/-- Settles O53: the end of each request admitted on the port frees its tickets, and the steps that are issued then are of the
requests that are left. -/
theorem portDownEndsItsRequests : Obligations.PortDownEndsItsRequests := by
  unfold Obligations.PortDownEndsItsRequests
  intro p last s u
  have port := p.isLt
  have same := portLeft_spState_ne s p last (q := 1 - p.val) (by omega) (by omega)
  obtain ⟨subsE, reqsE, gone, e, toksE, all, each⟩ := portEnded_spec s p last
  obtain ⟨v, issues, subsV, reqsV, ticketsV, toksV⟩ := syDrop_issues s p last
  rw [same, toksE] at toksV
  have without (r : Req) (listed : r ∈ s.disp.reqs) (own : r.port = p.val) : u.disp.Without r.id :=
    issues.without ⟨ticketsV ▸ (gone r listed own).1, reqsV ▸ (gone r listed own).2⟩
  obtain ⟨subs, toks, reqs, -⟩ := issues
  have subs : u.disp.subs = s.disp.subs.filter fun x => x.port != p.val := subs.trans (subsV.trans subsE)
  have toks : u.disp.toks = _ := toks.trans toksV
  refine ⟨fun x listed => ?_, fun x listed other => ?_, fun r listed own => ?_, fun r listed own =>
    ⟨(without r listed own).1, (without r listed own).2, fun up => ?_, fun down x out => ?_⟩⟩
  · rw [subs] at listed
    exact bne_iff_ne.1 (List.mem_filter.1 listed).2
  · exact subs ▸ List.mem_filter.2 ⟨listed, by simpa using other⟩
  · obtain ⟨q, there, -, port⟩ := reqs r listed
    exact reqsE q (reqsV ▸ there) (port.trans own)
  · obtain ⟨x, there, said⟩ := each r listed own
    rw [if_pos up] at toks
    exact ⟨x, toks ▸ List.mem_append_right _ there, said⟩
  · rw [if_neg down] at toks
    obtain ⟨listed, kept⟩ := List.mem_filter.1 (toks ▸ out)
    rcases List.mem_append.1 listed with old | new
    · exact .inr ⟨x, (List.mem_filter.1 old).1, rfl⟩
    · simp [all x new] at kept

end Sys2Proof.Machine
end

section
/-! SUPPORT. The pace (R366 to R369): what a decision reads, which step it takes, and what the registers of power then show. -/

namespace Sys2Proof.Machine

/-! ### Registers that a power flag leaves -/

theorem powerFlag_keepsRegs (s : State) (f : Fld) (k : Nat) (on : Bool) :
    KeepsRegs (fun a => a = PW_STATUS ∨ a ∈ shownAddrs) s (s.powerFlag f k on) :=
  ite_rel (R := KeepsRegs fun a => a = PW_STATUS ∨ a ∈ shownAddrs) (fun _ => .refl _ s) fun _ =>
    (set_keepsRegs (.inl rfl) s f _).trans
      (((powerCause_keepsRegs _ k on).trans (showAout_keepsRegs _)).mono fun _ => .inr)

/-- A flag of PW_STATUS leaves the register's other fields. -/
theorem powerFlag_get_other (s : State) {f g : Fld} (k : Nat) (on : Bool) (fits : g.lo + g.w ≤ 64)
    (apart : f.lo + f.w ≤ g.lo ∨ g.lo + g.w ≤ f.lo) : (s.powerFlag f k on).get PW_STATUS g = s.get PW_STATUS g := by
  have out : PW_STATUS ∉ shownAddrs := by decide
  unfold State.powerFlag
  split
  · rfl
  · rw [(showAout_keepsRegs _).get out, (powerCause_keepsRegs _ k on).get out, State.get_set_other _ _ _ _ _ _ fits apart]

/-! ### The steps of a decision (R368) -/

/-- The readings and the limit of a decision are shown. -/
def State.limited (s : State) (vin iin pin : Nat) : State :=
  ((s.readInput vin iin pin).set PW_STATUS PW_STATUS.LIMIT_NOW (s.pLim vin / 1000)).powerFlag PW_STATUS.LOW_BUS 5
    (decide (s.pLim vin < s.plainLimit * 1000))

/-- What a decision keeps of its target and of the time at low power, and the step down that it counts. -/
def State.noted (s : State) (target : Nat) (lowAt : Option Nat) (drops : Prop) [Decidable drops] : State :=
  let u := s.modPw fun p => { p with target := target, lowAt := lowAt }
  if drops then u.bump PW_CAP_STEPS 1 else u

section
variable (s : State) (vin iin pin : Nat)

theorem readInput_only : RegsOnly s (s.readInput vin iin pin) :=
  ((set_only s PW_INPUT _ _).trans (set_only _ PW_INPUT _ _)).trans (set_only _ PW_INPUT _ _)

theorem readInput_keepsRegs : KeepsRegs (· = PW_INPUT) s (s.readInput vin iin pin) :=
  ((set_keepsOthers s PW_INPUT _ _).trans (set_keepsOthers _ PW_INPUT _ _)).trans (set_keepsOthers _ PW_INPUT _ _)

theorem readInput_plainLimit : (s.readInput vin iin pin).plainLimit = s.plainLimit := by
  have kept {a : Nat} (h : a ≠ PW_INPUT) (f : Fld) := (readInput_keepsRegs s vin iin pin).get h f
  simp only [State.plainLimit, kept (a := LN_STRAPS) (by decide), kept (a := PW_CTRL) (by decide), kept (a := PW_STATUS) (by decide)]

theorem limited_only : LogsOnly s (s.limited vin iin pin) :=
  ((readInput_only s vin iin pin).trans (set_only _ _ _ _)).logs.trans (powerFlag_only _ _ _ _)

theorem limited_keepsRegs :
    KeepsRegs (fun a => a = PW_INPUT ∨ a = PW_STATUS ∨ a ∈ shownAddrs) s (s.limited vin iin pin) :=
  (((readInput_keepsRegs s vin iin pin).mono fun _ => .inl).trans (set_keepsRegs (.inr (.inl rfl)) _ _ _)).trans
    ((powerFlag_keepsRegs _ _ _ _).mono fun _ => .inr)

theorem limited_pace : (s.limited vin iin pin).pace = s.pace := by
  rw [State.pace, State.limited, powerFlag_get_other _ _ _ (by decide) (.inr (by decide)),
    State.get_set_other _ _ _ _ _ _ (by decide) (.inr (by decide)), (readInput_keepsRegs s vin iin pin).get (by decide), State.pace]

theorem limited_shown :
    (s.limited vin iin pin).get PW_STATUS PW_STATUS.LIMIT_NOW = s.pLim vin / 1000 % 2 ^ 12 := by
  rw [State.limited, powerFlag_get_other _ _ _ (by decide) (.inl (by decide)), State.get_set_same _ _ _ _ (by decide)]
  rfl

end

section
variable (s : State) (target : Nat) (lowAt : Option Nat) (drops : Prop) [Decidable drops]

theorem noted_only : ∃ r, s.noted target lowAt drops = { s with regs := r, pw := { s.pw with target := target, lowAt := lowAt } } := by
  unfold State.noted
  split
  · exact ⟨_, rfl⟩
  · exact ⟨s.regs, rfl⟩

theorem noted_get {a : Nat} (other : a ≠ PW_CAP_STEPS) (f : Fld) : (s.noted target lowAt drops).get a f = s.get a f := by
  unfold State.noted
  split
  · exact State.get_bump_ne _ _ _ other
  · rfl

theorem noted_count : (s.noted target lowAt drops).get PW_CAP_STEPS count32
    = if drops then min (s.get PW_CAP_STEPS count32 + 1) 0xFFFFFFFF else s.get PW_CAP_STEPS count32 := by
  unfold State.noted
  split
  · exact State.get_bump_same _ _ _
  · rfl

end

/-! ### What the pace becomes, and what is shown of the cap -/

theorem paceTo_pw (s : State) (new : Nat) : (s.paceTo new).pw = s.pw := by
  obtain ⟨r, l, v, d, e⟩ := paceTo_only s new
  rw [e]

theorem paceTo_get_ne (s : State) (new : Nat) {a : Nat} (other : a ≠ PW_STATUS) (f : Fld) : (s.paceTo new).get a f = s.get a f := by
  unfold State.paceTo
  extract_lets away
  split
  · exact State.get_set_ne _ _ _ _ other
  · exact State.get_set_ne _ _ _ _ other

theorem paceTo_get_other (s : State) (new : Nat) {g : Fld} (fits : g.lo + g.w ≤ 64) (above : 3 ≤ g.lo) :
    (s.paceTo new).get PW_STATUS g = s.get PW_STATUS g := by
  unfold State.paceTo
  extract_lets away
  split
  · exact State.get_set_other _ _ _ _ _ _ fits (.inl above)
  · exact State.get_set_other _ _ _ _ _ _ fits (.inl above)

theorem paceTo_pace (s : State) {new : Nat} (small : new < 8) : (s.paceTo new).pace = new :=
  (State.get_set_same _ _ _ _ (by decide)).trans (Nat.mod_eq_of_lt small)

/-- Only registers, the logs and how long the pace has been held change. -/
def CapOnly (s u : State) : Prop := ∃ r l d c e,
  u = { s with regs := r, logs := l, cask := { s.cask with due := d }, pw := { s.pw with capAt := c, capEvt := e } }

theorem CapOnly.trans {s u v : State} : CapOnly s u → CapOnly u v → CapOnly s v := by
  rintro ⟨_, _, _, _, _, rfl⟩ ⟨r, l, d, c, e, rfl⟩; exact ⟨r, l, d, c, e, rfl⟩

theorem LogsOnly.cap {s u : State} : LogsOnly s u → CapOnly s u := by
  rintro ⟨r, l, d, rfl⟩; exact ⟨r, l, d, s.pw.capAt, s.pw.capEvt, rfl⟩

theorem showCap_only (s : State) (cap : Bool) : CapOnly s (s.showCap cap) := by
  unfold State.showCap
  extract_lets since evt u
  have shown : CapOnly s u := (set_only s PW_STATUS _ _).logs.cap.trans
    ⟨_, s.logs, s.cask.due, since, s.pw.capEvt, rfl⟩
  have noted : CapOnly u (u.modPw fun p => { p with capEvt := evt }) := ⟨u.regs, u.logs, u.cask.due, u.pw.capAt, evt, rfl⟩
  split
  · exact shown
  · exact (shown.trans noted).trans (powerCause_only _ 1 evt).cap

theorem showCap_keepsRegs (s : State) (cap : Bool) :
    KeepsRegs (· ∈ shownAddrs) (s.set PW_STATUS PW_STATUS.CAPPING (bit cap)) (s.showCap cap) := by
  unfold State.showCap
  extract_lets since evt u
  split
  · exact fun _ _ => rfl
  · exact powerCause_keepsRegs (u.modPw _) 1 evt

theorem showCap_get_ne (s : State) (cap : Bool) {a : Nat} (other : a ≠ PW_STATUS) (out : a ∉ shownAddrs) (f : Fld) :
    (s.showCap cap).get a f = s.get a f :=
  ((showCap_keepsRegs s cap).get out f).trans (State.get_set_ne _ _ _ _ other)

theorem showCap_get_other (s : State) (cap : Bool) {g : Fld} (fits : g.lo + g.w ≤ 64) (apart : 4 ≤ g.lo ∨ g.lo + g.w ≤ 3) :
    (s.showCap cap).get PW_STATUS g = s.get PW_STATUS g :=
  ((showCap_keepsRegs s cap).get (by decide) g).trans (State.get_set_other _ _ _ _ _ _ fits apart)

/-! ### A decision (R368) -/

/-- The state that a decision leaves: the limit shown, the step noted, the pace `new`, the cap shown. -/
def State.decided (s : State) (vin iin pin : Nat) (lowAt : Option Nat) (drops : Prop) [Decidable drops] (new : Nat) (cap : Bool) : State :=
  (((s.limited vin iin pin).noted (s.get PW_CTRL PW_CTRL.PACE) lowAt drops).paceTo new).showCap cap

section
variable (s : State) (vin iin pin : Nat) (lowAt : Option Nat) (drops : Prop) [Decidable drops] {new : Nat} (cap : Bool)

theorem decided_spec (small : new < 8) :
    Apart s (s.decided vin iin pin lowAt drops new cap) ∧ (s.decided vin iin pin lowAt drops new cap).pace = new
      ∧ (s.decided vin iin pin lowAt drops new cap).pw.target = s.get PW_CTRL PW_CTRL.PACE
      ∧ (s.decided vin iin pin lowAt drops new cap).pw.lowAt = lowAt := by
  obtain ⟨r₁, l₁, d₁, limited⟩ := limited_only s vin iin pin
  obtain ⟨r₂, noted⟩ := noted_only (s.limited vin iin pin) (s.get PW_CTRL PW_CTRL.PACE) lowAt drops
  obtain ⟨r₃, l₃, v₃, d₃, paced⟩ := paceTo_only ((s.limited vin iin pin).noted (s.get PW_CTRL PW_CTRL.PACE) lowAt drops) new
  obtain ⟨c, e, r₄, l₄, d₄, capped⟩ :=
    showCap_only (((s.limited vin iin pin).noted (s.get PW_CTRL PW_CTRL.PACE) lowAt drops).paceTo new) cap
  refine ⟨?_, ?_, ?_, ?_⟩
  · rw [State.decided, capped, paced, noted, limited]
    exact ⟨rfl, rfl, rfl, rfl, rfl⟩
  · rw [State.decided, State.pace, showCap_get_other _ _ (by decide) (.inr (by decide))]
    exact paceTo_pace _ small
  · rw [State.decided, capped, paced, noted]
  · rw [State.decided, capped, paced, noted]

theorem decided_count : (s.decided vin iin pin lowAt drops new cap).get PW_CAP_STEPS count32
    = if drops then min (s.get PW_CAP_STEPS count32 + 1) 0xFFFFFFFF else s.get PW_CAP_STEPS count32 := by
  rw [State.decided, showCap_get_ne _ _ (by decide) (by decide), paceTo_get_ne _ _ (by decide), noted_count,
    (limited_keepsRegs s vin iin pin).get (by decide)]

theorem decided_limit :
    (s.decided vin iin pin lowAt drops new cap).get PW_STATUS PW_STATUS.LIMIT_NOW = s.pLim vin / 1000 % 2 ^ 12 := by
  rw [State.decided, showCap_get_other _ _ (by decide) (.inl (by decide)), paceTo_get_other _ _ (by decide) (by decide),
    noted_get _ _ _ _ (by decide), limited_shown]

end

/-- Whether the power has been at or below 0.9 P_lim, and since when. -/
def State.lowSince (s : State) (vin pin : Nat) : Option Nat := if pin * 10000 ≤ 9 * s.pLim vin then some (s.pw.lowAt.getD s.clk) else none

/-- The pace of a decision under the target in PW_CTRL. -/
def State.newPace (s : State) (vin pin : Nat) : Nat :=
  s.paceStep (s.get PW_CTRL PW_CTRL.PACE) (decide (s.pLim vin < pin * 1000))
    ((s.lowSince vin pin).any fun t => decide (ms 10 ≤ s.clk - t))

theorem paceDecision_of_on {s : State} (vin iin pin : Nat) (good : s.pw.good = true) (rail : s.pw.rails.getD 3 false = true)
    (slow : s.pw.fastAt = none) (idle : s.get LN_SELFTEST LN_SELFTEST.RUNNING = 0) :
    ∃ cap, exec (.paceDecision vin iin pin) s = .next (s.decided vin iin pin (s.lowSince vin pin)
      (s.newPace vin pin < s.pace ∧ (decide (s.pLim vin < pin * 1000) = true ∨ s.paceHot = true)) (s.newPace vin pin) cap) := by
  have kept {a : Nat} (h : a ≠ PW_INPUT) (f : Fld) := (readInput_keepsRegs s vin iin pin).get h f
  have reads : (s.readInput vin iin pin).fastOver = s.readInput vin iin pin :=
    if_neg (by rw [show (s.readInput vin iin pin).pw = s.pw from rfl, slow]; simp)
  have limit : (s.readInput vin iin pin).pLim vin = s.pLim vin := by rw [State.pLim, readInput_plainLimit, State.pLim]
  have testing : (s.readInput vin iin pin).get LN_SELFTEST LN_SELFTEST.RUNNING ≠ 1 := by
    rw [kept (by decide), idle]; decide
  have pw : (s.limited vin iin pin).pw = s.pw := (limited_only s vin iin pin).pw
  have clk : (s.limited vin iin pin).clk = s.clk := by obtain ⟨r, l, d, e⟩ := limited_only s vin iin pin; rw [e]
  have run : exec (.paceDecision vin iin pin) s = execPaceDecision vin iin pin s := rfl
  rw [run, execPaceDecision, if_neg (by rw [good]; simp)]
  simp only [reads, limit, if_neg testing, rail, if_true, kept (a := PW_CTRL) (by decide), readInput_plainLimit]
  rw [← State.limited]
  have step (target : Nat) (above calm : Bool) : (s.limited vin iin pin).paceStep target above calm = s.paceStep target above calm := by
    rw [State.paceStep, limited_pace, State.paceHot, pw, State.paceStep, State.paceHot]
  have hot (g : Power → Power) (same : ∀ p, (g p).hot = p.hot) : ((s.limited vin iin pin).modPw g).paceHot = s.paceHot := by
    rw [State.paceHot, State.paceHot, show ((s.limited vin iin pin).modPw g).pw.hot = (s.limited vin iin pin).pw.hot from same _, pw]
  simp only [pw, clk, limited_pace, step, hot, implies_true]
  exact ⟨_, rfl⟩

theorem lowSince_of_low {s : State} {vin pin t : Nat} (low : pin * 10000 ≤ 9 * s.pLim vin) (since : s.pw.lowAt = some t) :
    s.lowSince vin pin = some t := by
  rw [State.lowSince, if_pos low, since]
  rfl

/-- Above the limit one pace is taken off. -/
theorem newPace_of_above {s : State} {vin pin : Nat} (slow : s.pw.fastAt = none) (above : s.pLim vin < pin * 1000) (more : 1 < s.pace) :
    s.newPace vin pin = s.pace - 1 := by
  rw [State.newPace, State.paceStep, slow, decide_eq_true above, if_neg (by decide)]
  exact if_pos ⟨more, .inl rfl⟩

/-- After 10 ms at or below 0.9 P_lim, and with no sensor hot, one pace is given back up to the target. -/
theorem newPace_of_low {s : State} {vin pin t : Nat} (slow : s.pw.fastAt = none) (low : pin * 10000 ≤ 9 * s.pLim vin)
    (cool : s.pw.hot = []) (below : s.pace ≤ s.get PW_CTRL PW_CTRL.PACE) (since : s.pw.lowAt = some t) (long : ms 10 ≤ s.clk - t) :
    s.newPace vin pin = if s.pace < s.get PW_CTRL PW_CTRL.PACE then s.pace + 1 else s.pace := by
  have within : decide (s.pLim vin < pin * 1000) = false := decide_eq_false (by omega)
  have calm : ((s.lowSince vin pin).any fun t => decide (ms 10 ≤ s.clk - t)) = true := by
    rw [lowSince_of_low low since]
    exact decide_eq_true long
  have cold : s.paceHot = false := by rw [State.paceHot, cool]; rfl
  rw [State.newPace, State.paceStep, slow, within, calm, cold, cool, if_neg (by decide)]
  have stays : ¬ (1 < s.pace ∧ (false = true ∨ false = true ∨ s.get PW_CTRL PW_CTRL.PACE < s.pace)) := by simp; omega
  exact (if_neg stays).trans (by simp)

/-! ### The fast limit (R368) -/

theorem fastLimit_spec {s : State} (good : s.pw.good = true) (rail : s.pw.rails.getD 3 false = true) :
    ∃ u, exec .fastLimit s = .next u ∧ Apart s u ∧ u.pace = 1 ∧ u.pw.fastAt = some s.clk
      ∧ u.get PW_STATUS PW_STATUS.FAST_LIMIT = 1 := by
  refine ⟨_, (show exec .fastLimit s = execFastLimit s from rfl).trans (if_neg (by rw [good, rail]; simp)), ?_, ?_, ?_, ?_⟩
  · obtain ⟨r, l, v, d, e⟩ := (bump_only s PW_CAP_STEPS (s.pace - 1)).logs.svc.trans (paceTo_only _ 1)
    rw [e]
    exact (powerFlag_only _ PW_STATUS.FAST_LIMIT 4 true).apart
  · rw [State.pace, powerFlag_get_other _ _ _ (by decide) (.inr (by decide))]
    exact paceTo_pace _ (by decide)
  · rw [(powerFlag_only _ _ _ _).pw]
    obtain ⟨r, l, v, d, e⟩ := (bump_only s PW_CAP_STEPS (s.pace - 1)).logs.svc.trans (paceTo_only _ 1)
    rw [e]
    rfl
  · exact powerFlag_shown _ 4 true rfl (by decide)

/-- Settles O46: a decision by what it shows and by the step it takes; the fast limit, the converter and the rates by their registers. -/
theorem paceComplete : Obligations.PaceComplete := by
  intro s good rail
  refine ⟨fun vin iin pin slow idle => ⟨fun above more => ?_, fun t low cool below since long => ?_⟩, fastLimit_spec good rail,
    (show exec .paceSlewDone s = execPaceSlewDone s from rfl).trans (if_neg (by rw [good, rail]; simp)), fun die rate => ?_⟩
  · obtain ⟨cap, run⟩ := paceDecision_of_on vin iin pin good rail slow idle
    have new := newPace_of_above slow above more
    have small : s.newPace vin pin < 8 := by
      have := State.get_lt s PW_STATUS PW_STATUS.PACE_NOW
      rw [new, State.pace]
      exact lt_of_le_of_lt (Nat.sub_le _ _) this
    obtain ⟨apart, pace, target, -⟩ := decided_spec s vin iin pin (s.lowSince vin pin)
      (s.newPace vin pin < s.pace ∧ (decide (s.pLim vin < pin * 1000) = true ∨ s.paceHot = true)) cap small
    refine ⟨_, run, apart, pace.trans new, target, ?_, decided_limit ..⟩
    exact (decided_count ..).trans (if_pos ⟨by omega, .inl (decide_eq_true above)⟩)
  · obtain ⟨cap, run⟩ := paceDecision_of_on vin iin pin good rail slow idle
    have new := newPace_of_low slow low cool below since long
    have bound : s.get PW_CTRL PW_CTRL.PACE < 8 := State.get_lt s PW_CTRL PW_CTRL.PACE
    have small : s.newPace vin pin < 8 := by
      rw [new]
      split <;> omega
    obtain ⟨apart, pace, target, lowAt⟩ := decided_spec s vin iin pin (s.lowSince vin pin)
      (s.newPace vin pin < s.pace ∧ (decide (s.pLim vin < pin * 1000) = true ∨ s.paceHot = true)) cap small
    refine ⟨_, run, apart, target, lowAt.trans (lowSince_of_low low since), pace.trans new, ?_⟩
    refine (decided_count ..).trans (if_neg fun drops => ?_)
    have down := drops.1
    rw [new] at down
    split at down <;> omega
  · have fits : (16 * die.val) + 16 ≤ 64 := by have := die.isLt; omega
    have run := (show exec (.rateMeasure die rate) s = execRateMeasure die rate s from rfl).trans (if_neg (by rw [good, rail]; simp))
    refine ⟨_, run, rfl, set_keepsOthers s PW_RATE _ _, ?_, ?_⟩
    · exact List.mem_eraseDups.2 (List.mem_append_right _ List.mem_cons_self)
    · rw [get_modPw]
      exact State.get_set_same s PW_RATE ⟨16 * die.val, 16⟩ rate fits

end Sys2Proof.Machine
end

section
/-! SUPPORT. Full resets and the loss of rails (R358, R361, R365, R370, R371): what they lose and what they keep. -/

namespace Sys2Proof.Machine

/-! ### A full reset (R358) -/

/-- The registers that show the fuses lie in Y4X's window 1 (R331). -/
def fuseAddrs (a : Nat) : Prop := y4xWin 1 ≤ a ∧ a < y4xWin 2

theorem showFuses_keepsRegs (s : State) : KeepsRegs fuseAddrs s s.showFuses := by
  have fuses : fuseAddrs SC_FUSES := ⟨by decide, by decide⟩
  have digest {k i : Nat} (hk : k ∈ List.range 4) (hi : i ∈ List.range 8) : fuseAddrs (SC_SLOT_DIGEST k i) := by
    rw [List.mem_range] at hk hi
    constructor
    · simp only [SC_SLOT_DIGEST]; omega
    · simp only [SC_SLOT_DIGEST, y4xWin]; omega
  unfold State.showFuses
  extract_lets f s1 s2
  have shown : KeepsRegs fuseAddrs s s2 :=
    ((set_keepsRegs fuses s _ _).trans (set_keepsRegs fuses _ _ _)).trans
      ((set_keepsRegs fuses s1 _ _).trans (set_keepsRegs fuses _ _ _))
  clear_value s2
  refine List.foldlRecOn (motive := KeepsRegs fuseAddrs s) _ _ shown fun u hu k hk => ?_
  exact List.foldlRecOn (motive := KeepsRegs fuseAddrs s) _ _ hu fun v hv i hi => hv.trans (setReg_keepsRegs (digest hk hi) v _)

/-- What of the power state a full reset clears. -/
def Power.reset (p : Power) : Power := { p with
  good := false, target := 3, capAt := none, capEvt := false, lowAt := none, fastAt := none, hot := [], rated := [], extRaw := true,
  extFirst := 0, extNew := false, extAt := none, extWait := none, ppsRise := none, ppsEdge := none, ppsOk := 0 }

theorem fullReset_only (s : State) : ∃ r, RegsOnly r s.fullReset ∧ r.mem = s.mem ∧ r.chk = s.chk ∧ r.poison = s.poison
    ∧ r.chambers = [] ∧ r.disp = {} ∧ r.cask = s.cask ∧ r.clk = s.clk ∧ r.pw = s.pw.reset := by
  unfold State.fullReset
  extract_lets ring pw r
  exact ⟨r, ((setReg_only r _ _).trans (setReg_only _ _ _)).trans (showFuses_only _), rfl, rfl, rfl, rfl, rfl, rfl, rfl, rfl⟩

theorem fullReset_kept (s : State) : s.fullReset.mem = s.mem ∧ s.fullReset.chk = s.chk ∧ s.fullReset.poison = s.poison
    ∧ s.fullReset.chambers = [] ∧ s.fullReset.disp = {} ∧ s.fullReset.cask = s.cask ∧ s.fullReset.clk = s.clk
    ∧ s.fullReset.pw = s.pw.reset := by
  obtain ⟨r, ⟨regs, e⟩, mem, chk, poison, chambers, disp, cask, clk, pw⟩ := fullReset_only s
  rw [e]
  exact ⟨mem, chk, poison, chambers, disp, cask, clk, pw⟩

theorem fullReset_lastOff (s : State) : s.fullReset.reg PW_LAST_OFF = s.reg PW_LAST_OFF := by
  unfold State.fullReset
  extract_lets ring pw r
  rw [showFuses_keepsRegs _ _ (by simp [fuseAddrs, PW_LAST_OFF, y4xWin]), State.reg_setReg_ne _ _ (by decide), State.reg_setReg_same]

/-- After a full reset the registers below Y4X's window 1 hold their reset values. -/
theorem fullReset_reg (s : State) {a : Nat} (low : a < y4xWin 1) : s.fullReset.reg a = resetReg a := by
  have last : a ≠ PW_LAST_OFF := (low.trans (by decide : y4xWin 1 < PW_LAST_OFF)).ne
  have slow : a ≠ TB_IN := (low.trans (by decide : y4xWin 1 < TB_IN)).ne
  unfold State.fullReset
  extract_lets ring pw r
  rw [showFuses_keepsRegs _ _ fun h => absurd h.1 (Nat.not_le.2 low), State.reg_setReg_ne _ _ slow, State.reg_setReg_ne _ _ last]
  rfl

theorem fullReset_stage (s : State) : s.fullReset.stage = 0 := by
  rw [State.stage, State.get, fullReset_reg s (by decide)]
  decide

/-! ### The rails go off (R370, R371) -/

theorem showRails_keepsRegs (s : State) : KeepsRegs coreAddrs s s.showRails := by
  have rail (i : Nat) : coreAddrs (PW_RAIL i) := .inr (.inr (by simp [PW_RAIL]))
  exact ((((set_keepsRegs (rail 1) s _ _).trans (set_keepsRegs (rail 2) _ _ _)).trans (set_keepsRegs (rail 3) _ _ _)).trans
    (set_keepsRegs (rail 4) _ _ _)).trans (set_keepsRegs (rail 5) _ _ _)

theorem coresOff_cask (s : State) : s.coresOff.cask = s.cask ∧ s.coresOff.disp = s.disp := by
  unfold State.coresOff
  extract_lets u v
  have measured : FreeOnly v (([1, 2, 4].foldl State.measureRail (v.setReg PW_RATE 0)).showRails) :=
    ((setReg_only v PW_RATE 0).free.trans (foldl_rel FreeOnly.refl FreeOnly.trans measureRail_only _ _)).trans (showRails_only _).free
  obtain ⟨r, k, e⟩ := measured
  rw [e]
  exact ⟨rfl, rfl⟩

/-- The power state as the rails go off: AUX alone stays. -/
def Power.off (p : Power) : Power := { p.reset with
  rails := [p.rails.getD 0 false, false, false, false, false], ramp := [], tripped := false, left := false }

theorem railsOff_lost (s : State) : s.railsOff.mem = [] ∧ s.railsOff.chambers = [] ∧ s.railsOff.disp = {} ∧ s.railsOff.cask = s.cask
    ∧ s.railsOff.clk = s.clk ∧ s.railsOff.pw = s.pw.off := by
  obtain ⟨-, -, -, -, disp, cask, clk, pw⟩ := fullReset_kept s
  obtain ⟨mem, chambers, clk', pw'⟩ := coresOff_lost s.fullReset
  obtain ⟨cask', disp'⟩ := coresOff_cask s.fullReset
  unfold State.railsOff
  extract_lets aux
  generalize s.fullReset.coresOff = u at *
  obtain ⟨r, shown⟩ : RegsOnly (u.modPw fun p => { p with rails := [aux, false, false, false, false], tripped := false, left := false })
      (u.modPw fun p => { p with rails := [aux, false, false, false, false], tripped := false, left := false }).showRails.showAout :=
    (showRails_only _).trans (showAout_only _)
  rw [shown]
  refine ⟨mem, chambers, disp'.trans disp, cask'.trans cask, clk'.trans clk, ?_⟩
  show { u.pw with rails := [aux, false, false, false, false], tripped := false, left := false } = s.pw.off
  rw [pw', pw]
  rfl

theorem railsOff_lastOff (s : State) : s.railsOff.reg PW_LAST_OFF = s.reg PW_LAST_OFF := by
  have apart : ¬ coreAddrs PW_LAST_OFF := by simp [coreAddrs, PW_LAST_OFF, PW_RATE, PW_RAIL, chWin, y4xWin]
  unfold State.railsOff
  extract_lets aux
  rw [showAout_keepsRegs _ _ (by decide), showRails_keepsRegs _ _ apart, State.modPw_reg_, coresOff_keepsRegs _ _ apart,
    fullReset_lastOff]

theorem lastOff_rail (s : State) (cause : Nat) {sel : Nat} (latched : Bool) (small : sel < 8) :
    (s.lastOff cause sel latched).get PW_LAST_OFF PW_LAST_OFF.RAIL = sel := by
  rw [State.lastOff, State.get, State.reg_setReg_same, fget_fset_other _ _ _ _ (by decide) (.inr (by decide)),
    fget_fset_same _ _ _ (by decide)]
  exact Nat.mod_eq_of_lt small

theorem railSel_lt (r : Nat) : railSel r < 8 := by
  unfold railSel
  rcases lt_or_ge r 5 with inside | outside
  · interval_cases r <;> decide
  · rw [List.getD_eq_default _ _ outside]; decide

/-- The module has lost its rails, PW_LAST_OFF naming cause and rail, and its power state has become `p`. -/
structure RailsLost (s u : State) (cause sel : Nat) (p : Power) : Prop where
  mem : u.mem = []
  chambers : u.chambers = []
  disp : u.disp = {}
  cask : u.cask = s.cask
  cause : u.get PW_LAST_OFF PW_LAST_OFF.CAUSE = cause
  rail : u.get PW_LAST_OFF PW_LAST_OFF.RAIL = sel
  pw : u.pw = p

theorem RailsLost.modPw {s u : State} {cause sel : Nat} {p : Power} (h : RailsLost s u cause sel p) (g : Power → Power) :
    RailsLost s (u.modPw g) cause sel (g p) :=
  ⟨h.mem, h.chambers, h.disp, h.cask, (get_modPw u g _ _).trans h.cause, (get_modPw u g _ _).trans h.rail, congrArg g h.pw⟩

theorem railsLost_lastOff (s : State) {cause sel : Nat} (latched : Bool) (c : cause < 16) (r : sel < 8) :
    RailsLost s (s.lastOff cause sel latched).railsOff cause sel s.pw.off := by
  obtain ⟨mem, chambers, disp, cask, -, pw⟩ := railsOff_lost (s.lastOff cause sel latched)
  have shown (f : Fld) : (s.lastOff cause sel latched).railsOff.get PW_LAST_OFF f = (s.lastOff cause sel latched).get PW_LAST_OFF f := by
    rw [State.get, railsOff_lastOff, ← State.get]
  exact ⟨mem, chambers, disp, cask, (shown _).trans (lastOff_get s cause sel latched c).1, (shown _).trans (lastOff_rail s cause latched r),
    pw⟩

theorem RailsLost.showAout {s u : State} {cause sel : Nat} {p : Power} (h : RailsLost s u cause sel p) :
    RailsLost s u.showAout cause sel p := by
  have shown (f : Fld) : u.showAout.get PW_LAST_OFF f = u.get PW_LAST_OFF f := (showAout_keepsRegs u).get (by decide) f
  have fields : u.showAout.mem = u.mem ∧ u.showAout.chambers = u.chambers ∧ u.showAout.disp = u.disp ∧ u.showAout.cask = u.cask
      ∧ u.showAout.pw = u.pw := by
    obtain ⟨r, e⟩ := showAout_only u
    rw [e]
    exact ⟨rfl, rfl, rfl, rfl, rfl⟩
  obtain ⟨mem, chambers, disp, cask, pw⟩ := fields
  exact ⟨mem.trans h.mem, chambers.trans h.chambers, disp.trans h.disp, cask.trans h.cask, (shown _).trans h.cause,
    (shown _).trans h.rail, pw.trans h.pw⟩

/-! ### Turning on and the ramps (R364, R365, R371) -/

theorem rampNext_frame (s : State) (wait : Nat) :
    Apart s (s.rampNext wait) ∧ (s.rampNext wait).pw.rails = s.pw.rails := by
  refine ⟨⟨rfl, rfl, rfl, rfl, rfl⟩, ?_⟩
  simp only [State.rampNext, State.modPw]
  split_ifs <;> rfl

theorem rampNext_of_up {s : State} (up : s.pw.rails = [true, true, true, true, true]) (wait : Nat) :
    (s.rampNext wait).pw.ramp = [] ∧ (s.rampNext wait).pw.readyAt = s.clk + wait := by
  simp [State.rampNext, State.modPw, up]

/-- A rail stands inside its window and ramps no more. -/
def State.inWindow (s : State) (rail : Nat) : State :=
  (s.modPw fun p => { p with rails := p.rails.set rail true, ramp := kdel p.ramp rail }).showRails

theorem inWindow_frame (s : State) (rail : Nat) : Apart s (s.inWindow rail) ∧ (s.inWindow rail).clk = s.clk
    ∧ (s.inWindow rail).pw = { s.pw with rails := s.pw.rails.set rail true, ramp := kdel s.pw.ramp rail } := by
  unfold State.inWindow
  obtain ⟨r, shown⟩ := showRails_only (s.modPw fun p => { p with rails := p.rails.set rail true, ramp := kdel p.ramp rail })
  rw [shown]
  exact ⟨⟨rfl, rfl, rfl, rfl, rfl⟩, rfl, rfl⟩

theorem railInWindow_of_ramp {s : State} {rail : Fin 5} {t : Nat} (h : kfind s.pw.ramp rail.val = some t) :
    exec (.railInWindow rail) s = .next (if (s.inWindow rail).pw.ramp.isEmpty then (s.inWindow rail).rampNext (ms 1) else s.inWindow rail) := by
  rw [show exec (.railInWindow rail) s = execRailInWindow rail s from rfl, execRailInWindow, h]
  rfl

theorem kdel_of_single {β : Type} {m : List (Nat × β)} {k : Nat} {v : β} (found : kfind m k = some v) (one : m.length = 1) :
    kdel m k = [] := by
  obtain ⟨⟨k', v'⟩, rfl⟩ := List.length_eq_one_iff.1 one
  have same : k' = k := by
    by_contra other
    simp [kfind, other] at found
  simp [kdel, same]

theorem railInWindow_spec {s : State} {rail : Fin 5} {t : Nat} (h : kfind s.pw.ramp rail.val = some t) :
    ∃ u, exec (.railInWindow rail) s = .next u ∧ Apart s u ∧ u.pw.rails = s.pw.rails.set rail.val true
      ∧ (kdel s.pw.ramp rail.val ≠ [] → u.pw.ramp = kdel s.pw.ramp rail.val)
      ∧ (s.pw.ramp.length = 1 → s.pw.rails.set rail.val true = [true, true, true, true, true] →
          u.pw.ramp = [] ∧ u.pw.readyAt = s.clk + ms 1) := by
  obtain ⟨⟨mem, chk, poison, noise, chambers⟩, clk, pw⟩ := inWindow_frame s rail
  have run := railInWindow_of_ramp h
  have ramp : (s.inWindow rail).pw.ramp = kdel s.pw.ramp rail := by rw [pw]
  have rails : (s.inWindow rail).pw.rails = s.pw.rails.set rail true := by rw [pw]
  rw [ramp] at run
  by_cases last : kdel s.pw.ramp rail.val = []
  · obtain ⟨⟨mem', chk', poison', noise', chambers'⟩, rails'⟩ := rampNext_frame (s.inWindow rail) (ms 1)
    refine ⟨_, run.trans (by rw [last]; rfl), ⟨mem'.trans mem, chk'.trans chk, poison'.trans poison, noise'.trans noise,
      chambers'.trans chambers⟩, rails'.trans rails, fun more => absurd last more, fun _ up => ?_⟩
    obtain ⟨empty, ready⟩ := rampNext_of_up (rails.trans up) (ms 1)
    exact ⟨empty, ready.trans (by rw [clk])⟩
  · refine ⟨_, run.trans (by rw [if_neg (by simpa using last)]), ⟨mem, chk, poison, noise, chambers⟩, rails, fun _ => ramp,
      fun one _ => absurd (kdel_of_single h one) last⟩

/-! ### What turns the rails off (R364, R370, R371, R382) -/

/-- The power state without AUX, RESET_N low or not (R371, R382). -/
def Power.dark (low : Bool) : Power := { on := false, rails := [false, false, false, false, false], held := low }

theorem dark_shown (u : State) (low : Bool) :
    let v := ((u.modPw fun _ => Power.dark low).setReg PW_LAST_OFF 0).showRails.showAout
    v.mem = u.mem ∧ v.chambers = u.chambers ∧ v.cask = u.cask ∧ v.pw = Power.dark low ∧ v.reg PW_LAST_OFF = 0 := by
  have apart : ¬ coreAddrs PW_LAST_OFF := by simp [coreAddrs, PW_LAST_OFF, PW_RATE, PW_RAIL, chWin, y4xWin]
  intro v
  have last : v.reg PW_LAST_OFF = 0 := by
    rw [showAout_keepsRegs _ _ (by decide), showRails_keepsRegs _ _ apart, State.reg_setReg_same]
  obtain ⟨r, e⟩ : RegsOnly (u.modPw fun _ => Power.dark low) v :=
    ((setReg_only _ PW_LAST_OFF 0).trans (showRails_only _)).trans (showAout_only _)
  refine ⟨?_, ?_, ?_, ?_, last⟩
  all_goals rw [e]; rfl

theorem auxLoss_spec (s : State) : ∃ u, exec .auxLoss s = .next u ∧ u.pw.rails = [false, false, false, false, false] ∧ u.pw.on = false
    ∧ u.pw.latched = false ∧ u.mem = [] ∧ u.chambers = [] ∧ u.reg PW_LAST_OFF = 0 ∧ u.cask = s.cask
    ∧ u.pw.held = decide (s.get TB_IN TB_IN.RESET_N = 0) := by
  obtain ⟨mem, chambers, -, cask, -, -⟩ := railsOff_lost s
  obtain ⟨mem', chambers', cask', pw, last⟩ := dark_shown s.railsOff (decide (s.get TB_IN TB_IN.RESET_N = 0))
  refine ⟨_, rfl, ?_⟩
  exact ⟨congrArg Power.rails pw, congrArg Power.on pw, congrArg Power.latched pw, mem'.trans mem, chambers'.trans chambers, last,
    cask'.trans cask, congrArg Power.held pw⟩

/-- The first clauses of a loss, as the statements write them. -/
theorem RailsLost.off {s u : State} {cause sel : Nat} {p : Power} (h : RailsLost s u cause sel p)
    (rails : p.rails = [s.pw.rails.getD 0 false, false, false, false, false]) (good : p.good = false) :
    u.pw.rails = [s.pw.rails.getD 0 false, false, false, false, false] ∧ u.mem = [] ∧ u.chambers = [] ∧ u.disp = {}
      ∧ u.pw.good = false ∧ u.cask = s.cask ∧ u.get PW_LAST_OFF PW_LAST_OFF.CAUSE = cause :=
  ⟨(congrArg Power.rails h.pw).trans rails, h.mem, h.chambers, h.disp, (congrArg Power.good h.pw).trans good, h.cask, h.cause⟩

theorem railSequencingFail_spec {s : State} {rail : Fin 5} {t : Nat} (h : kfind s.pw.ramp rail.val = some t) (late : ms 20 ≤ s.clk - t) :
    ∃ u, exec (.railSequencingFail rail) s = .next u
      ∧ (u.pw.rails = [s.pw.rails.getD 0 false, false, false, false, false] ∧ u.mem = [] ∧ u.chambers = [] ∧ u.disp = {}
        ∧ u.pw.good = false ∧ u.cask = s.cask ∧ u.get PW_LAST_OFF PW_LAST_OFF.CAUSE = 5)
      ∧ u.pw.seqFail = true ∧ u.get PW_LAST_OFF PW_LAST_OFF.RAIL = railSel rail ∧ u.pw.retries = s.pw.retries + 1
      ∧ u.pw.latched = (decide (3 ≤ s.pw.retries) || s.pw.latched)
      ∧ u.pw.restartAt = if 3 ≤ s.pw.retries ∨ s.pw.latched = true then none else some (s.clk + ms 1000) := by
  have lost := ((railsLost_lastOff s (decide (3 ≤ s.pw.retries) || s.pw.latched) (by decide : 5 < 16) (railSel_lt rail)).modPw fun p =>
    { p with
      seqFail := true, retries := p.retries + 1, latched := decide (3 ≤ s.pw.retries) || s.pw.latched,
      restartAt := if decide (3 ≤ s.pw.retries) || s.pw.latched then none else some (s.clk + ms 1000) }).showAout
  refine ⟨_, ?_, lost.off rfl rfl, by rw [lost.pw], lost.rail, by rw [lost.pw]; rfl, by rw [lost.pw], ?_⟩
  · rw [show exec (.railSequencingFail rail) s = execRailSequencingFail rail s from rfl, execRailSequencingFail, h]
    exact if_neg (by omega)
  · rw [lost.pw]
    exact if_congr (by simp) rfl rfl

theorem railFault_spec {s : State} {rail : Fin 5} (up : s.pw.rails.getD rail.val false = true) :
    let again : Bool := (s.pw.faultAt.any fun t => decide (s.clk - t ≤ ms 600000)) || s.pw.latched
    ∃ u, exec (.railFault rail) s = .next u
      ∧ (u.pw.rails = [s.pw.rails.getD 0 false, false, false, false, false] ∧ u.mem = [] ∧ u.chambers = [] ∧ u.disp = {}
        ∧ u.pw.good = false ∧ u.cask = s.cask ∧ u.get PW_LAST_OFF PW_LAST_OFF.CAUSE = 3)
      ∧ u.get PW_LAST_OFF PW_LAST_OFF.RAIL = railSel rail ∧ u.pw.faultAt = some s.clk ∧ u.pw.latched = again
      ∧ u.pw.restartAt = if again then none else some (s.clk + ms 1000) := by
  intro again
  have lost := (railsLost_lastOff s again (by decide : 3 < 16) (railSel_lt rail)).modPw fun p =>
    { p with faultAt := some s.clk, latched := again, restartAt := if again then none else some (s.clk + ms 1000) }
  have run : exec (.railFault rail) s = execRailFault rail s := rfl
  exact ⟨_, run.trans (if_neg (by rw [up]; simp)), lost.off rfl rfl, lost.rail, by rw [lost.pw], by rw [lost.pw], by rw [lost.pw]⟩

/-- Settles O45: a loss of rails by what `railsOff` keeps, a ramp by what `rampNext` makes of the rails. -/
theorem powerRailsComplete : Obligations.PowerRailsComplete := by
  intro s
  refine ⟨fun off ovr => ?_, fun rail t h => railInWindow_spec h, fun rail t h late => ?_, fun rail up => ?_, fun t at' on late => ?_,
    fun on => ⟨?_, ?_⟩, fun ovr => ?_, auxLoss_spec s⟩
  · exact (show exec .senseTurnOn s = execSenseTurnOn s from rfl).trans (if_neg (by rw [off, ovr]; simp))
  · exact railSequencingFail_spec h late
  · exact railFault_spec up
  · rw [show exec .powerRestart s = execPowerRestart s from rfl, execPowerRestart, at']
    exact if_neg (by rw [on]; simpa using late)
  · have run : exec .undervoltage s = execUndervoltage s := rfl
    have lost := (railsLost_lastOff s s.pw.latched (by decide : 1 < 16) (by decide : 0 < 8)).modPw fun p =>
      { p with on := false, restartAt := none }
    exact ⟨_, run.trans (if_neg (by rw [on]; simp)), lost.off rfl rfl, by rw [lost.pw], by rw [lost.pw]; rfl⟩
  · have run : exec .overvoltage s = execOvervoltage s := rfl
    have lost := (railsLost_lastOff s s.pw.latched (by decide : 2 < 16) (by decide : 0 < 8)).modPw fun p =>
      { p with on := false, ovr := true, restartAt := none }
    exact ⟨_, run.trans (if_neg (by rw [on]; simp)), lost.off rfl rfl, by rw [lost.pw], by rw [lost.pw]⟩
  · exact (show exec .overvoltageRecover s = execOvervoltageRecover s from rfl).trans (if_neg (by rw [ovr]; simp))

end Sys2Proof.Machine
end

section
/-! SUPPORT. The slow inputs and the PPS input (R371, R378 to R381): accepted levels, deferred changes, edges and holdover. -/

namespace Sys2Proof.Machine

/-! ### Levels and glitches (R379) -/

theorem bit_mod_two (b : Bool) : bit b % 2 ^ 1 = bit b := by cases b <;> rfl

/-- The straps with strap `i` moved to its other level. -/
def strapMoved (v i : Nat) (level : Bool) : Nat := if level then v + 2 ^ i else v - 2 ^ i

theorem strapMoved_shown {v : Nat} (hv : v < 2 ^ 14) (i : Fin 14) {level : Bool} (moved : nbit v i ≠ level) :
    strapMoved v i level < 2 ^ 14 ∧ nbit (strapMoved v i level) i = level := by
  obtain ⟨i, hi⟩ := i
  have small : v < 16384 := hv
  cases level with
  | true =>
    have low : v / 2 ^ i % 2 ≠ 1 := by simpa [nbit] using moved
    have up : (v + 2 ^ i) / 2 ^ i = v / 2 ^ i + 1 := Nat.add_div_right v (by positivity)
    refine ⟨?_, ?_⟩
    · simp only [strapMoved, if_true]
      interval_cases i <;> omega
    · simp only [strapMoved, if_true, nbit, up]
      exact decide_eq_true (by omega)
  | false =>
    have high : v / 2 ^ i % 2 = 1 := by simpa [nbit] using moved
    have le : 2 ^ i ≤ v := by
      by_contra below
      rw [Nat.div_eq_of_lt (Nat.lt_of_not_le below)] at high
      exact absurd high (by decide)
    have down : (v - 2 ^ i) / 2 ^ i = v / 2 ^ i - 1 := by
      have := Nat.sub_mul_div v (2 ^ i) 1
      rwa [Nat.mul_one] at this
    refine ⟨(Nat.sub_le _ _).trans_lt hv, ?_⟩
    simp only [strapMoved, nbit]
    exact decide_eq_false (by simp only [Bool.false_eq_true, if_false, down]; omega)

section
variable {s : State} {level : Bool} (aux : s.pw.rails.headD false = true)
include aux

theorem slowInputChange_resetN (moved : s.get TB_IN TB_IN.RESET_N ≠ bit level) :
    exec (.slowInputChange .resetN level) s = .next (s.set TB_IN TB_IN.RESET_N (bit level)) :=
  (show _ = execSlowInputChange .resetN level s from rfl).trans ((if_neg (by rw [aux]; simp)).trans (if_neg moved))

theorem slowInputChange_extLimitN (moved : s.pw.extRaw ≠ level) : exec (.slowInputChange .extLimitN level) s
    = .next { s with pw := { s.pw with extRaw := level, extFirst := s.clk - 99, extNew := true } } :=
  (show _ = execSlowInputChange .extLimitN level s from rfl).trans ((if_neg (by rw [aux]; simp)).trans (if_neg moved))

/-- An accepted level of the PPS input as TB_IN and TB_PPS show it. -/
def State.ppsShown (s : State) (level : Bool) : State :=
  ((s.set TB_IN TB_IN.PPS_IN (bit level)).set TB_PPS TB_PPS.LEVEL (bit level)).set TB_PPS TB_PPS.STUCK 0

theorem slowInputChange_pps (moved : s.get TB_IN TB_IN.PPS_IN ≠ bit level) : exec (.slowInputChange .pps level) s
    = .next ((s.ppsShown level).modPw fun p => { p with
        ppsChange := s.clk - 99, ppsRise := if level then some (s.clk - 99) else p.ppsRise }) :=
  (show _ = execSlowInputChange .pps level s from rfl).trans ((if_neg (by rw [aux]; simp)).trans (if_neg moved))

theorem slowInputChange_strap (i : Fin 14) (moved : nbit (s.get TB_IN TB_IN.STRAPS) i ≠ level) :
    exec (.slowInputChange (.strap i) level) s
      = .next (if s.pw.good then (s.set TB_IN TB_IN.STRAPS (strapMoved (s.get TB_IN TB_IN.STRAPS) i level)).set TB_IN TB_IN.STRAP_MOVED 1
          else s.set TB_IN TB_IN.STRAPS (strapMoved (s.get TB_IN TB_IN.STRAPS) i level)) :=
  (show _ = execSlowInputChange (.strap i) level s from rfl).trans ((if_neg (by rw [aux]; simp)).trans (if_neg moved))

end

theorem ppsShown_get (s : State) (level : Bool) : (s.ppsShown level).get TB_IN TB_IN.PPS_IN = bit level
    ∧ (s.ppsShown level).get TB_PPS TB_PPS.LEVEL = bit level ∧ (s.ppsShown level).get TB_PPS TB_PPS.STUCK = 0 := by
  refine ⟨?_, ?_, State.get_set_same _ _ _ _ (by decide)⟩
  · rw [State.ppsShown, State.get_set_ne _ _ _ _ (by decide), State.get_set_ne _ _ _ _ (by decide),
      State.get_set_same _ _ _ _ (by decide)]
    exact bit_mod_two level
  · rw [State.ppsShown, State.get_set_other _ _ _ _ _ _ (by decide) (.inr (by decide)), State.get_set_same _ _ _ _ (by decide)]
    exact bit_mod_two level

theorem slowInputChange_strap_spec {s : State} {level : Bool} (aux : s.pw.rails.headD false = true) (i : Fin 14)
    (moved : nbit (s.get TB_IN TB_IN.STRAPS) i ≠ level) :
    ∃ u, exec (.slowInputChange (.strap i) level) s = .next u ∧ (u = { s with regs := u.regs } ∧ KeepsRegs (· = TB_IN) s u)
      ∧ nbit (u.get TB_IN TB_IN.STRAPS) i = level ∧ (s.pw.good = true → u.get TB_IN TB_IN.STRAP_MOVED = 1) := by
  have run := slowInputChange_strap aux i moved
  obtain ⟨fits, now⟩ := strapMoved_shown (State.get_lt s TB_IN TB_IN.STRAPS) i moved
  generalize strapMoved (s.get TB_IN TB_IN.STRAPS) i level = v at *
  have shown : (s.set TB_IN TB_IN.STRAPS v).get TB_IN TB_IN.STRAPS = v :=
    (State.get_set_same s TB_IN TB_IN.STRAPS v (by decide)).trans (Nat.mod_eq_of_lt fits)
  have first := set_keepsOthers s TB_IN TB_IN.STRAPS v
  cases good : s.pw.good with
  | false =>
    rw [good, if_neg (by decide)] at run
    exact ⟨_, run, ⟨rfl, first⟩, by rw [shown]; exact now, fun h => absurd h (by decide)⟩
  | true =>
    rw [good, if_pos rfl] at run
    refine ⟨_, run, ⟨rfl, first.trans (set_keepsOthers _ TB_IN _ _)⟩, ?_, fun _ => State.get_set_same _ _ _ _ (by decide)⟩
    rw [State.get_set_other _ _ _ _ _ _ (by decide) (.inr (by decide)), shown]
    exact now

/-- The field of TB_GLITCH that counts an input's glitches (R379, R383). -/
def glitchField : SlowInput → Fld
  | .pps => TB_GLITCH.PPS
  | .resetN => TB_GLITCH.RESET
  | .extLimitN => TB_GLITCH.LIMIT
  | .strap _ => TB_GLITCH.STRAP

theorem glitchField_fits (x : SlowInput) : (glitchField x).lo + (glitchField x).w ≤ 64 ∧ (glitchField x).w = 8 := by
  cases x
  all_goals exact ⟨by simp [glitchField, TB_GLITCH.PPS, TB_GLITCH.RESET, TB_GLITCH.LIMIT, TB_GLITCH.STRAP], rfl⟩

theorem slowInputGlitch_of_aux {s : State} (x : SlowInput) (aux : s.pw.rails.headD false = true) :
    exec (.slowInputGlitch x) s = .next (s.set TB_GLITCH (glitchField x) (min 0xFF (s.get TB_GLITCH (glitchField x) + 1))) := by
  have run : exec (.slowInputGlitch x) s = if !s.pw.rails.headD false then .next s
      else .next (s.set TB_GLITCH (glitchField x) (min 0xFF (s.get TB_GLITCH (glitchField x) + 1))) := by cases x <;> rfl
  exact run.trans (if_neg (by rw [aux]; simp))

theorem slowInputGlitch_shown (s : State) (x : SlowInput) :
    (s.set TB_GLITCH (glitchField x) (min 0xFF (s.get TB_GLITCH (glitchField x) + 1))).get TB_GLITCH (glitchField x)
      = min 0xFF (s.get TB_GLITCH (glitchField x) + 1) := by
  obtain ⟨fits, wide⟩ := glitchField_fits x
  rw [State.get_set_same _ _ _ _ fits, wide]
  exact Nat.mod_eq_of_lt ((Nat.min_le_left _ _).trans_lt (by decide))

/-! ### RESET_N (R371) -/

theorem due_self {c k : Cask} {d : List Nat} (h : k = { c with due := d }) : k = { c with due := k.due } := by rw [h]

/-- An unplanned reset keeps memory and the cask, but for what its record leaves due there. -/
theorem resetNow_kept (s : State) (cause : Nat) :
    (s.resetNow cause false).mem = s.mem ∧ (s.resetNow cause false).chk = s.chk ∧ (s.resetNow cause false).poison = s.poison
      ∧ (s.resetNow cause false).chambers = [] ∧ (s.resetNow cause false).disp = {}
      ∧ (s.resetNow cause false).cask = { s.cask with due := (s.resetNow cause false).cask.due } ∧ (s.resetNow cause false).pw = s.pw.reset
      ∧ (s.resetNow cause false).stage = 0 := by
  have eq : s.resetNow cause false = ((s.record 0 srcModule cause 6 []).lastOff cause 0 (s.record 0 srcModule cause 6 []).pw.latched).fullReset := by
    simp only [State.resetNow, Bool.false_eq_true, if_false]
  have stage := fullReset_stage ((s.record 0 srcModule cause 6 []).lastOff cause 0 (s.record 0 srcModule cause 6 []).pw.latched)
  obtain ⟨mem, chk, poison, chambers, disp, cask, -, pw⟩ :=
    fullReset_kept ((s.record 0 srcModule cause 6 []).lastOff cause 0 (s.record 0 srcModule cause 6 []).pw.latched)
  obtain ⟨r, l, d, recorded⟩ := record_only s 0 srcModule cause 6 []
  rw [← eq] at mem chk poison chambers disp cask pw stage
  rw [recorded] at mem chk poison cask pw
  exact ⟨mem, chk, poison, chambers, disp, due_self cask, pw, stage⟩

/-- RESET_N is held, and the rails and AOUT are shown. -/
def State.heldShown (u : State) : State := (u.modPw fun p => { p with held := true, left := false }).showRails.showAout

theorem heldShown_kept (u : State) : u.heldShown.pw.held = true ∧ u.heldShown.pw.good = u.pw.good ∧ u.heldShown.pw.rails = u.pw.rails
    ∧ u.heldShown.disp = u.disp ∧ u.heldShown.chambers = u.chambers ∧ u.heldShown.stage = u.stage ∧ u.heldShown.mem = u.mem
    ∧ u.heldShown.cask = u.cask := by
  have apart : ¬ coreAddrs LN_BOOT := by simp [coreAddrs, LN_BOOT, PW_RATE, PW_RAIL, chWin, y4xWin]
  have stage : u.heldShown.stage = u.stage := by
    rw [State.stage, State.heldShown, (showAout_keepsRegs _).get (by decide), (showRails_keepsRegs _).get apart, get_modPw, State.stage]
  obtain ⟨r, shown⟩ : RegsOnly (u.modPw fun p => { p with held := true, left := false }) u.heldShown :=
    (showRails_only _).trans (showAout_only _)
  rw [shown] at stage ⊢
  exact ⟨rfl, rfl, rfl, rfl, rfl, stage, rfl, rfl⟩

theorem resetNLow_spec {s : State} (low : s.get TB_IN TB_IN.RESET_N = 0) (free : s.pw.held = false) :
    ∃ u, exec .resetNLow s = .next u ∧ u.pw.held = true ∧ u.pw.good = false ∧ u.pw.rails = s.pw.rails ∧ u.disp = {}
      ∧ u.chambers = [] ∧ u.stage = 0 ∧ u.mem = s.mem ∧ u.cask = { s.cask with due := u.cask.due } := by
  obtain ⟨mem, -, -, chambers, disp, cask, pw, stage⟩ := resetNow_kept s 6
  have run : exec .resetNLow s = .next (s.resetNow 6 false).heldShown :=
    (show exec .resetNLow s = execResetNLow s from rfl).trans (if_neg (by rw [low, free]; simp))
  obtain ⟨held, good, rails, disp', chambers', stage', mem', cask'⟩ := heldShown_kept (s.resetNow 6 false)
  refine ⟨_, run, held, good.trans ?_, rails.trans ?_, disp'.trans disp, chambers'.trans chambers, stage'.trans stage, mem'.trans mem,
    due_self (cask'.trans cask)⟩
  · rw [pw]; rfl
  · rw [pw]; rfl

theorem resetNHigh_of_held {s : State} (high : s.get TB_IN TB_IN.RESET_N = 1) (held : s.pw.held = true) :
    let s1 := s.modPw fun p => { p with held := false, latched := false, tripped := p.tripped && !p.latched }
    exec .resetNHigh s
      = .next (if s1.pw.on = true ∧ s1.pw.ramp.isEmpty = true ∧ s1.pw.restartAt.isNone = true ∧ s1.pw.tripped = false
          then s1.rampNext (ms 1) else s1) := by
  have run : exec .resetNHigh s = execResetNHigh s := rfl
  refine run.trans ((if_neg (by rw [high, held]; simp)).trans ?_)
  exact congrArg Host.Outcome.next (if_congr
    (and_congr Iff.rfl (and_congr Iff.rfl (and_congr Iff.rfl (by rw [Bool.not_eq_true'])))) rfl rfl)

/-! ### EXT_LIMIT_N (R368, R379) -/

theorem extTake_spec (s : State) (level : Bool) (t : Nat) : Apart s (s.extTake level t)
    ∧ (s.extTake level t).pw = { s.pw with extAt := some t, extWait := none }
    ∧ (s.extTake level t).get TB_IN TB_IN.EXT_LIMIT_N = bit level
    ∧ (s.extTake level t).get PW_STATUS PW_STATUS.EXT_LIMIT = bit !level := by
  unfold State.extTake
  extract_lets u
  have apart : Apart s u := ⟨rfl, rfl, rfl, rfl, rfl⟩
  have pw : u.pw = { s.pw with extAt := some t, extWait := none } := rfl
  have input : u.get TB_IN TB_IN.EXT_LIMIT_N = bit level :=
    (State.get_set_same s TB_IN TB_IN.EXT_LIMIT_N _ (by decide)).trans (bit_mod_two level)
  have out : ¬ (TB_IN = PW_STATUS ∨ TB_IN ∈ shownAddrs) := by decide
  have after := powerFlag_shown u (f := PW_STATUS.EXT_LIMIT) 3 (!level) rfl (by decide)
  clear_value u
  obtain ⟨mem, chk, poison, noise, chambers⟩ := apart
  obtain ⟨mem', chk', poison', noise', chambers'⟩ := (powerFlag_only u PW_STATUS.EXT_LIMIT 3 (!level)).apart
  exact ⟨⟨mem'.trans mem, chk'.trans chk, poison'.trans poison, noise'.trans noise, chambers'.trans chambers⟩,
    (powerFlag_only _ _ _ _).pw.trans pw, ((powerFlag_keepsRegs _ _ _ _).get out _).trans input, after⟩

section
variable {s : State} {level : Bool} (raw : s.pw.extRaw = level) (new : s.pw.extNew = true)
  (moved : s.get TB_IN TB_IN.EXT_LIMIT_N ≠ bit level)
include raw new moved

/-- The change is taken up: no longer new. -/
theorem extLimitChange_of_new : exec (.extLimitChange level) s
    = if s.pw.extAt.any fun u => decide (s.pw.extFirst - u < ms 1000) then
        .next (((s.modPw fun p => { p with extNew := false }).bump TB_DEFER 1).modPw fun p => { p with extWait := some level })
      else .next ((s.modPw fun p => { p with extNew := false }).extTake level s.pw.extFirst) := by
  have run : exec (.extLimitChange level) s = execExtLimitChange level s := rfl
  exact run.trans ((if_neg (by rw [raw, new]; simp)).trans (if_neg moved))

theorem extLimitChange_deferred (soon : ∃ t, s.pw.extAt = some t ∧ s.pw.extFirst - t < ms 1000) :
    ∃ u, exec (.extLimitChange level) s = .next u ∧ Apart s u ∧ u.pw.extWait = some level
      ∧ u.get TB_DEFER count32 = min (s.get TB_DEFER count32 + 1) 0xFFFFFFFF
      ∧ u.get PW_STATUS PW_STATUS.EXT_LIMIT = s.get PW_STATUS PW_STATUS.EXT_LIMIT := by
  obtain ⟨t, at', soon⟩ := soon
  refine ⟨_, (extLimitChange_of_new raw new moved).trans (if_pos (by rw [at']; exact decide_eq_true soon)),
    ⟨rfl, rfl, rfl, rfl, rfl⟩, rfl, ?_, ?_⟩
  · rw [get_modPw, State.get_bump_same, get_modPw]
  · rw [get_modPw, State.get_bump_ne _ _ _ (by decide), get_modPw]

theorem extLimitChange_taken (late : ∀ t, s.pw.extAt = some t → ms 1000 ≤ s.pw.extFirst - t) :
    ∃ u, exec (.extLimitChange level) s = .next u ∧ Apart s u ∧ u.pw.extAt = some s.pw.extFirst
      ∧ u.get TB_IN TB_IN.EXT_LIMIT_N = bit level ∧ u.get PW_STATUS PW_STATUS.EXT_LIMIT = bit !level := by
  obtain ⟨apart, pw, input, shown⟩ := extTake_spec (s.modPw fun p => { p with extNew := false }) level s.pw.extFirst
  refine ⟨_, (extLimitChange_of_new raw new moved).trans (if_neg fun soon => ?_), apart, by rw [pw], input, shown⟩
  cases at' : s.pw.extAt with
  | none => rw [at'] at soon; exact absurd soon (by simp)
  | some t => rw [at'] at soon; exact absurd (of_decide_eq_true soon) (Nat.not_lt.2 (late t at'))

end

theorem extLimitDeferEnd_of_due {s : State} {l : Bool} {t : Nat} (wait : s.pw.extWait = some l) (at' : s.pw.extAt = some t)
    (due : t + ms 1000 ≤ s.clk) : exec .extLimitDeferEnd s
      = if s.pw.extRaw = l then .next (s.extTake l (t + ms 1000)) else .next (s.modPw fun p => { p with extWait := none }) := by
  rw [show exec .extLimitDeferEnd s = execExtLimitDeferEnd s from rfl, execExtLimitDeferEnd, wait, at']
  exact if_neg (Nat.not_lt.2 due)

/-! ### The PPS input (R380, R381) -/

theorem ppsNext_lt (state ok : Nat) (interval : Option Nat) : (ppsNext state ok interval).1 < 2 ^ 2 := by
  unfold ppsNext
  split
  · split_ifs <;> norm_num
  · split_ifs <;> norm_num
  · norm_num

/-- What steering changes: registers, the logs, the Gallery's slew, the counters' windows, the free values taken. -/
def SteerOnly (s u : State) : Prop := ∃ r l d g p k,
  u = { s with regs := r, logs := l, cask := { s.cask with due := d }, gl := g, perf := p, freeCtr := k }

theorem SteerOnly.trans {s u v : State} : SteerOnly s u → SteerOnly u v → SteerOnly s v := by
  rintro ⟨_, _, _, _, _, _, rfl⟩ ⟨r, l, d, g, p, k, rfl⟩; exact ⟨r, l, d, g, p, k, rfl⟩

theorem SteerOnly.refl (s : State) : SteerOnly s s := ⟨s.regs, s.logs, s.cask.due, s.gl, s.perf, s.freeCtr, rfl⟩

theorem LogsOnly.steer {s u : State} : LogsOnly s u → SteerOnly s u := by
  rintro ⟨r, l, d, rfl⟩; exact ⟨r, l, d, s.gl, s.perf, s.freeCtr, rfl⟩

theorem GlOnly.steer {s u : State} : GlOnly s u → SteerOnly s u := by
  rintro ⟨g, r, p, rfl⟩; exact ⟨r, s.logs, s.cask.due, g, p, s.freeCtr, rfl⟩

theorem PerfOnly.steer {s u : State} : PerfOnly s u → SteerOnly s u := by
  rintro ⟨p, rfl⟩; exact ⟨s.regs, s.logs, s.cask.due, s.gl, p, s.freeCtr, rfl⟩

theorem FreeOnly.steer {s u : State} : FreeOnly s u → SteerOnly s u := by
  rintro ⟨r, k, rfl⟩; exact ⟨r, s.logs, s.cask.due, s.gl, s.perf, k, rfl⟩

theorem SteerOnly.pw {s u : State} : SteerOnly s u → u.pw = s.pw := by rintro ⟨_, _, _, _, _, _, rfl⟩; rfl

theorem SteerOnly.apart {s u : State} : SteerOnly s u → Apart s u := by
  rintro ⟨_, _, _, _, _, _, rfl⟩; exact ⟨rfl, rfl, rfl, rfl, rfl⟩

/-- The registers that steering changes. -/
def steerAddrs : List Nat := TB_TIME :: TB_FREQ :: GL_STATUS :: eventAddrs

theorem timeTo_only (s : State) (x : Nat) : LogsOnly s (s.timeTo x) :=
  ite_rel (fun _ => .refl s) fun _ => (set_only s _ _ _).logs.trans (event_only _ _ _ _)

theorem timeTo_keepsRegs (s : State) (x : Nat) : KeepsRegs (· ∈ GL_STATUS :: eventAddrs) s (s.timeTo x) :=
  ite_rel (R := KeepsRegs (· ∈ GL_STATUS :: eventAddrs)) (fun _ => .refl _ s) fun _ =>
    (set_keepsRegs List.mem_cons_self s _ _).trans ((event_keepsRegs _ _ _ _).mono fun _ => List.mem_cons_of_mem _)

theorem timeTo_shown (s : State) {x : Nat} (small : x < 4) : (s.timeTo x).get GL_STATUS GL_STATUS.TIME_STATE = x := by
  unfold State.timeTo
  split
  · assumption
  · rw [(event_keepsRegs _ _ _ _).get (by decide), State.get_set_same _ _ _ _ (by decide)]
    exact Nat.mod_eq_of_lt small

theorem stepTime_only (s : State) (d : Int) : SteerOnly s (s.stepTime d) :=
  ite_rel (fun _ => .refl s) fun _ => (setReg_only s TB_TIME _).logs.steer.trans (PerfOnly.steer ⟨_, rfl⟩)

theorem stepTime_keepsRegs (s : State) (d : Int) : KeepsRegs (· = TB_TIME) s (s.stepTime d) :=
  ite_rel (R := KeepsRegs (· = TB_TIME)) (fun _ => .refl _ s) fun _ _ h => State.reg_setReg_ne s _ h

theorem setTime_only (s : State) (e : Int) : SteerOnly s (s.setTime e) :=
  ite_rel (fun _ => (modGl_only s _).steer) fun _ => (modGl_only s _).steer.trans (stepTime_only _ _)

theorem setTime_keepsRegs (s : State) (e : Int) : KeepsRegs (· = TB_TIME) s (s.setTime e) :=
  ite_rel (R := KeepsRegs (· = TB_TIME)) (fun _ _ _ => rfl) fun _ =>
    (show KeepsRegs (· = TB_TIME) s (s.holdTime 0) from fun _ _ => rfl).trans (stepTime_keepsRegs _ _)

theorem steer_only (s : State) (e : Int) : SteerOnly s (s.steer e) := by
  unfold State.steer
  split
  · exact (setTime_only s e).trans (timeTo_only _ 1).steer
  · exact ((modGl_only s fun g => { g with slew := -e }).steer.trans (FreeOnly.steer ⟨_, _, rfl⟩)).trans (timeTo_only _ _).steer

theorem steer_keepsRegs (s : State) (e : Int) : KeepsRegs (· ∈ steerAddrs) s (s.steer e) := by
  have shown : ∀ a, a ∈ GL_STATUS :: eventAddrs → a ∈ steerAddrs := fun _ h => List.mem_cons_of_mem _ (List.mem_cons_of_mem _ h)
  unfold State.steer
  split
  · exact ((setTime_keepsRegs s e).mono fun a h => h ▸ List.mem_cons_self).trans ((timeTo_keepsRegs _ 1).mono shown)
  · refine .trans (u := (s.slewBy (-e)).free.2.set TB_FREQ TB_FREQ.CORR (s.slewBy (-e)).free.1.toNat) ?_ ((timeTo_keepsRegs _ _).mono shown)
    exact set_keepsRegs (List.mem_cons_of_mem _ List.mem_cons_self) (s.slewBy (-e)).free.2 _ _

/-- An accepted edge as the registers show it: its timestamp, its count, its error, the state that follows. -/
def State.ppsAccepted (s : State) (st stamp : Nat) : State :=
  let s := ((s.setReg TB_PPS_LAST (BitVec.ofNat 64 stamp)).bump TB_PPS_ACCEPT 1).tallyX 0xE08 0 1
  let s := s.set TB_PPS_ERR TB_PPS_ERR.ERR (BitVec.ofInt 32 (phaseError stamp)).toNat
  let s := s.set GL_TIME GL_TIME.PPS_DIFF (BitVec.ofInt 14 (max (-8192) (min 8191 ((phaseError stamp).tdiv 10)))).toNat
  ((s.set TB_PPS TB_PPS.STATE st).set TB_PPS TB_PPS.STUCK 0).showSteer

theorem ppsAccepted_only (s : State) (st stamp : Nat) : SteerOnly s (s.ppsAccepted st stamp) := by
  have counted : SteerOnly s (((s.setReg TB_PPS_LAST (BitVec.ofNat 64 stamp)).bump TB_PPS_ACCEPT 1).tallyX 0xE08 0 1) :=
    ((setReg_only s _ _).trans (bump_only _ _ _)).logs.steer.trans (tallyX_only _ _ _ _).steer
  refine counted.trans (RegsOnly.logs ?_).steer
  exact (((((set_only _ _ _ _).trans (set_only _ _ _ _)).trans (set_only _ _ _ _)).trans (set_only _ _ _ _)).trans (set_only _ _ _ _))

theorem ppsAccepted_pps (s : State) {st : Nat} (small : st < 2 ^ 2) (stamp : Nat) : (s.ppsAccepted st stamp).pps = st := by
  rw [State.pps, State.ppsAccepted, State.showSteer, State.get_set_other _ _ _ _ _ _ (by decide) (.inr (by decide)),
    State.get_set_other _ _ _ _ _ _ (by decide) (.inr (by decide)), State.get_set_same _ _ _ _ (by decide)]
  exact Nat.mod_eq_of_lt small

/-- Once its timestamp and its count stand, only the error and the state are still to be shown. -/
theorem ppsAccepted_keepsRegs (s : State) (st stamp : Nat) : KeepsRegs (· ∈ [TB_PPS_ERR, GL_TIME, TB_PPS])
    ((s.setReg TB_PPS_LAST (BitVec.ofNat 64 stamp)).bump TB_PPS_ACCEPT 1) (s.ppsAccepted st stamp) := by
  have err : TB_PPS_ERR ∈ [TB_PPS_ERR, GL_TIME, TB_PPS] := by simp
  have diff : GL_TIME ∈ [TB_PPS_ERR, GL_TIME, TB_PPS] := by simp
  have pps : TB_PPS ∈ [TB_PPS_ERR, GL_TIME, TB_PPS] := by simp
  refine ((tallyX_only _ 0xE08 0 1).keepsRegs _).trans ?_
  exact ((((set_keepsRegs err _ _ _).trans (set_keepsRegs diff _ _ _)).trans (set_keepsRegs pps _ _ _)).trans
    (set_keepsRegs pps _ _ _)).trans (set_keepsRegs pps _ _ _)

section
variable {s : State} {t : Nat} (rise : s.pw.ppsRise = some t)
include rise

theorem ppsEdge_rejected (soon : ∃ x, s.pw.ppsEdge = some x ∧ t - x < ms 500) :
    ∃ u, exec .ppsEdge s = .next u ∧ Apart s u ∧ u.pw.ppsRise = none ∧ u.pps = s.pps
      ∧ u.get TB_PPS_REJECT count32 = min (s.get TB_PPS_REJECT count32 + 1) 0xFFFFFFFF := by
  obtain ⟨x, edge, soon⟩ := soon
  have run : exec .ppsEdge s = .next ((s.modPw fun p => { p with ppsRise := none }).bump TB_PPS_REJECT 1) := by
    rw [show exec .ppsEdge s = execPpsEdge s from rfl, execPpsEdge, rise]
    refine if_pos ?_
    rw [show (s.modPw fun p => { p with ppsRise := none }).pw.ppsEdge = s.pw.ppsEdge from rfl, edge]
    exact decide_eq_true soon
  refine ⟨_, run, ⟨rfl, rfl, rfl, rfl, rfl⟩, rfl, ?_, State.get_bump_same _ _ _⟩
  exact State.get_bump_ne (s.modPw fun p => { p with ppsRise := none }) 1 TB_PPS.STATE (by decide)

/-- The power state after an accepted edge at `t`, `ok` intervals in tolerance in a row. -/
def Power.edge (p : Power) (t ok : Nat) : Power := { p with ppsRise := none, ppsEdge := some t, ppsOk := ok }

theorem ppsEdge_of_late (late : ∀ x, s.pw.ppsEdge = some x → ms 500 ≤ t - x) :
    let n := ppsNext s.pps s.pw.ppsOk (s.pw.ppsEdge.map fun x => t - x)
    let stamp := s.now - (s.clk - t)
    let u := (s.modPw fun p => p.edge t n.2).ppsAccepted n.1 stamp
    exec .ppsEdge s = .next (if u.isLeader = true ∧ n.1 = 2 then u.steer (phaseError stamp) else u) := by
  have accepted : ¬ ((s.modPw fun p => { p with ppsRise := none }).pw.ppsEdge.any fun x => decide (t - x < ms 500)) = true := by
    rw [show (s.modPw fun p => { p with ppsRise := none }).pw.ppsEdge = s.pw.ppsEdge from rfl]
    cases edge : s.pw.ppsEdge with
    | none => simp
    | some x => simpa using late x edge
  intro n stamp u
  rw [show exec .ppsEdge s = execPpsEdge s from rfl, execPpsEdge, rise]
  exact if_neg accepted

theorem ppsEdge_accepted (late : ∀ x, s.pw.ppsEdge = some x → ms 500 ≤ t - x) :
    ∃ u, exec .ppsEdge s = .next u ∧ Apart s u ∧ u.pw.ppsRise = none ∧ u.pw.ppsEdge = some t
      ∧ (u.pps, u.pw.ppsOk) = ppsNext s.pps s.pw.ppsOk (s.pw.ppsEdge.map fun x => t - x)
      ∧ u.reg TB_PPS_LAST = BitVec.ofNat 64 (s.now - (s.clk - t))
      ∧ u.get TB_PPS_ACCEPT count32 = min (s.get TB_PPS_ACCEPT count32 + 1) 0xFFFFFFFF := by
  have run := ppsEdge_of_late rise late
  dsimp only at run
  have small := ppsNext_lt s.pps s.pw.ppsOk (s.pw.ppsEdge.map fun x => t - x)
  generalize ppsNext s.pps s.pw.ppsOk (s.pw.ppsEdge.map fun x => t - x) = n at *
  generalize s.now - (s.clk - t) = stamp at *
  generalize ha : (s.modPw fun p => p.edge t n.2) = a at *
  have steered : ∃ u, exec .ppsEdge s = .next u ∧ SteerOnly (a.ppsAccepted n.1 stamp) u
      ∧ KeepsRegs (· ∈ steerAddrs) (a.ppsAccepted n.1 stamp) u := by
    refine ⟨_, run, ?_⟩
    split
    · exact ⟨steer_only _ _, steer_keepsRegs _ _⟩
    · exact ⟨.refl _, .refl _ _⟩
  obtain ⟨u, run, only, regs⟩ := steered
  have pw : u.pw = s.pw.edge t n.2 := by rw [((ppsAccepted_only a n.1 stamp).trans only).pw, ← ha]; rfl
  have regs' : KeepsRegs (fun b => b ∈ [TB_PPS_ERR, GL_TIME, TB_PPS] ∨ b ∈ steerAddrs)
      ((a.setReg TB_PPS_LAST (BitVec.ofNat 64 stamp)).bump TB_PPS_ACCEPT 1) u :=
    ((ppsAccepted_keepsRegs a n.1 stamp).mono fun _ => .inl).trans (regs.mono fun _ => .inr)
  refine ⟨u, run, ?_, by rw [pw]; rfl, by rw [pw]; rfl, ?_, ?_, ?_⟩
  · have := ((ppsAccepted_only a n.1 stamp).trans only).apart
    rw [← ha] at this
    exact this
  · rw [State.pps, regs.get (by decide), ← State.pps, ppsAccepted_pps a small, pw]
    rfl
  · rw [regs' _ (by decide), State.reg_bump_ne _ _ (by decide), State.reg_setReg_same]
  · rw [regs'.get (by decide), State.get_bump_same, State.get, State.reg_setReg_ne _ _ (by decide), ← State.get, ← ha]
    rfl

end

/-- The PPS input is held over, stuck or not (R380). -/
def State.heldOver (s : State) (stuck : Nat) : State :=
  ((s.set TB_PPS TB_PPS.STATE 3).set TB_PPS TB_PPS.STUCK stuck).showSteer

theorem heldOver_only (s : State) (stuck : Nat) : RegsOnly s (s.heldOver stuck) :=
  ((set_only s TB_PPS _ _).trans (set_only _ TB_PPS _ _)).trans (set_only _ TB_PPS _ _)

theorem heldOver_pps (s : State) (stuck : Nat) : (s.heldOver stuck).pps = 3 := by
  rw [State.pps, State.heldOver, State.showSteer, State.get_set_other _ _ _ _ _ _ (by decide) (.inr (by decide)),
    State.get_set_other _ _ _ _ _ _ (by decide) (.inr (by decide)), State.get_set_same _ _ _ _ (by decide)]
  rfl

theorem heldOver_isLeader (s : State) (stuck : Nat) : (s.heldOver stuck).isLeader = s.isLeader := by
  rw [State.isLeader, State.heldOver, State.showSteer, State.get_set_ne _ _ _ _ (by decide), State.get_set_ne _ _ _ _ (by decide),
    State.get_set_ne _ _ _ _ (by decide), State.isLeader]

theorem ppsHoldover_spec {s : State} {t : Nat} (edge : s.pw.ppsEdge = some t) (locked : s.pps = 1 ∨ s.pps = 2)
    (late : ms 1500 < s.clk - t) (calm : s.pw.ppsRise = none) :
    ∃ u, exec .ppsHoldover s = .next u ∧ Apart s u ∧ u.pps = 3
      ∧ (s.isLeader = true → u.get GL_STATUS GL_STATUS.TIME_STATE = 2) := by
  have run : exec .ppsHoldover s = .next (if (s.heldOver (bit (decide (ms 1500 < s.clk - s.pw.ppsChange)))).isLeader then
      (s.heldOver (bit (decide (ms 1500 < s.clk - s.pw.ppsChange)))).timeTo 2
      else s.heldOver (bit (decide (ms 1500 < s.clk - s.pw.ppsChange)))) := by
    rw [show exec .ppsHoldover s = execPpsHoldover s from rfl, execPpsHoldover, edge]
    refine if_neg ?_
    rw [calm]
    have long : ¬ s.clk - t ≤ ms 1500 := by omega
    rintro (pps | soon | soon)
    · simp [locked] at pps
    · exact long soon
    · exact absurd soon (by decide)
  generalize bit (decide (ms 1500 < s.clk - s.pw.ppsChange)) = stuck at run
  rw [heldOver_isLeader] at run
  have pps := heldOver_pps s stuck
  have apart := (heldOver_only s stuck).logs.apart
  generalize s.heldOver stuck = u at *
  cases leader : s.isLeader with
  | false =>
    rw [leader, if_neg (by decide)] at run
    exact ⟨u, run, apart, pps, fun h => absurd h (by decide)⟩
  | true =>
    rw [leader, if_pos rfl] at run
    obtain ⟨mem, chk, poison, noise, chambers⟩ := apart
    obtain ⟨mem', chk', poison', noise', chambers'⟩ := (timeTo_only u 2).apart
    refine ⟨_, run, ⟨mem'.trans mem, chk'.trans chk, poison'.trans poison, noise'.trans noise, chambers'.trans chambers⟩, ?_,
      fun _ => timeTo_shown u (by decide)⟩
    rw [State.pps, (timeTo_keepsRegs u 2).get (by decide)]
    exact pps

/-- Settles O48: a level by the register that shows it, a deferred change by its interval, an edge by what `ppsAccepted` shows of it. -/
theorem slowInputsComplete : Obligations.SlowInputsComplete := by
  intro s
  refine ⟨fun level aux => ⟨fun moved => ?_, fun moved => ?_, fun moved => ?_, fun i moved => slowInputChange_strap_spec aux i moved⟩,
    fun x aux => ?_, resetNLow_spec, resetNHigh_of_held, fun level raw new moved => ⟨extLimitChange_deferred raw new moved,
      extLimitChange_taken raw new moved⟩, fun l t wait at' due => ⟨fun raw => ?_, fun raw => ?_⟩,
    fun t rise => ⟨ppsEdge_rejected rise, ppsEdge_accepted rise⟩, fun t edge locked late calm => ppsHoldover_spec edge locked late calm,
    fun held long => ?_⟩
  · exact ⟨_, slowInputChange_resetN aux moved, ⟨rfl, set_keepsOthers _ _ _ _⟩,
      (State.get_set_same _ _ _ _ (by decide)).trans (bit_mod_two level)⟩
  · exact ⟨_, slowInputChange_extLimitN aux moved, rfl⟩
  · obtain ⟨input, shown, stuck⟩ := ppsShown_get s level
    refine ⟨_, slowInputChange_pps aux moved, ⟨rfl, rfl, rfl, rfl, rfl⟩, input, shown, stuck, ?_⟩
    rintro rfl
    rfl
  · exact ⟨_, slowInputGlitch_of_aux x aux, rfl, set_keepsOthers _ _ _ _, slowInputGlitch_shown s x⟩
  · obtain ⟨apart, pw, input, shown⟩ := extTake_spec s l (t + ms 1000)
    exact ⟨_, (extLimitDeferEnd_of_due wait at' due).trans (if_pos raw), apart, by rw [pw], by rw [pw], input, shown⟩
  · exact ⟨_, (extLimitDeferEnd_of_due wait at' due).trans (if_neg raw), rfl⟩
  · have run : exec .ppsStuck s = execPpsStuck s := rfl
    exact ⟨_, run.trans (if_neg (by omega)), rfl, set_keepsOthers _ _ _ _, State.get_set_same _ _ _ _ (by decide)⟩

end Sys2Proof.Machine
end

section
/-! SUPPORT. Answers (R339, R340): of a session's state an answer changes its lines, its replies, the echo and the open tags alone. -/

namespace Sys2Proof.Machine

/-- Only the lines, replies, echo and tags of the sessions change, the Sirdy ports and the counters. -/
def Speaks (s u : State) : Prop := ∃ l r e m y p,
  u = { s with svc := { s.svc with lines := l, replies := r, echo := e, mgmtTag := m }, sy := y, perf := p }

theorem Speaks.refl (s : State) : Speaks s s :=
  ⟨s.svc.lines, s.svc.replies, s.svc.echo, s.svc.mgmtTag, s.sy, s.perf, rfl⟩

theorem Speaks.trans {s u v : State} : Speaks s u → Speaks u v → Speaks s v := by
  rintro ⟨_, _, _, _, _, _, rfl⟩ ⟨l, r, e, m, y, p, rfl⟩; exact ⟨l, r, e, m, y, p, rfl⟩

theorem PortsOnly.speaks {s u : State} : PortsOnly s u → Speaks s u := by
  rintro ⟨y, p, rfl⟩; exact ⟨s.svc.lines, s.svc.replies, s.svc.echo, s.svc.mgmtTag, y, p, rfl⟩

theorem takeLine_speaks (s : State) (c : Session) : Speaks s (s.takeLine c) := by
  unfold State.takeLine
  split
  · exact ⟨_, s.svc.replies, s.svc.echo, s.svc.mgmtTag, s.sy, s.perf, rfl⟩
  · exact .refl s

theorem replyOne_speaks (s : State) (c : Session) (vals : List Word) (data : List Byte) (code : Nat) (text : String) :
    Speaks s (s.replyOne c vals data code text) := by
  unfold State.replyOne
  extract_lets u lines
  have said : Speaks s u := ⟨s.svc.lines, _, s.svc.echo, s.svc.mgmtTag, s.sy, s.perf, rfl⟩
  clear_value u
  split
  · exact said.trans ⟨u.svc.lines, u.svc.replies, _, u.svc.mgmtTag, u.sy, u.perf, rfl⟩
  · exact said.trans (foldl_rel PortsOnly.refl PortsOnly.trans (fun u x => sySend_portsOnly u _ _) _ u).speaks
  · split
    · exact said
    · exact (said.trans ⟨u.svc.lines, u.svc.replies, u.svc.echo, _, u.sy, u.perf, rfl⟩).trans (mgmtRespond_portsOnly _ _ _ _ _).speaks

theorem dropUnknown_speaks (fuel : Nat) (s : State) (c : Session) : Speaks s (dropUnknown fuel s c) := by
  induction fuel generalizing s with
  | zero => exact .refl s
  | succ fuel ih =>
    unfold dropUnknown
    split
    · next e _ =>
      exact ite_rel (fun _ => ((takeLine_speaks s c).trans (replyOne_speaks _ c [] [] e "")).trans (ih _)) fun _ => .refl s
    · exact .refl s

theorem ends_speaks (s : State) (c : Session) (vals : List Word) (data : List Byte) (code : Nat) (text : String) :
    Speaks s (s.ends c vals data code text) :=
  ((takeLine_speaks s c).trans (replyOne_speaks _ c vals data code text)).trans (dropUnknown_speaks _ _ c)

/-- A command that ends has its reply. -/
theorem ends_replied (s : State) (c : Session) (vals : List Word) (data : List Byte) (code : Nat) (text : String) :
    Replied c vals data code s (s.ends c vals data code text) := by
  obtain ⟨more, ⟨-, said⟩, errors⟩ := ends_answers s c vals data code text
  exact ⟨more, said, errors⟩

theorem Speaks.apart {s u : State} : Speaks s u → Apart s u := by
  rintro ⟨_, _, _, _, _, _, rfl⟩; exact ⟨rfl, rfl, rfl, rfl, rfl⟩

theorem Speaks.get {s u : State} (h : Speaks s u) (a : Nat) (f : Fld) : u.get a f = s.get a f := by
  obtain ⟨_, _, _, _, _, _, rfl⟩ := h; rfl

end Sys2Proof.Machine
end

section
/-! SUPPORT. Leaving the Gallery and the full resets (R357, R358, R361). -/

namespace Sys2Proof.Machine

/-! ### Leaving (R357) -/

section
variable {s : State} {c : Session} (served : s.serves c inServingStopped (.consoleLeave c))
include served

/-- A served `leave` goes by its own branches. -/
theorem consoleLeave_of_serves : exec (.consoleLeave c) s = .next (if s.pw.left then s.ends c [] [] errState
    else if s.svc.leaveAt.isSome then s.ends c [] [] errBusy
    else
      let s1 := ((s.recordCmd.cancelWaiting.cutPassage.askLeave).glNotices 2).modGl fun g => { g with leaving := true }
      (s1.modSvc fun v => { v with leaveAt := some s1.clk, leaveOf := c }).showAout) :=
  (show _ = execConsoleLeave c s from rfl).trans (console_of_serves served false _)

theorem consoleLeave_starts (here : s.pw.left = false) (idle : s.svc.leaveAt = none) :
    let s1 := ((s.recordCmd.cancelWaiting.cutPassage.askLeave).glNotices 2).modGl fun g => { g with leaving := true }
    exec (.consoleLeave c) s = .next ((s1.modSvc fun v => { v with leaveAt := some s1.clk, leaveOf := c }).showAout) := by
  rw [consoleLeave_of_serves served, here, idle, if_neg (by decide), if_neg (by decide)]

theorem consoleLeave_refused (gone : s.pw.left = true) : exec (.consoleLeave c) s = .next (s.ends c [] [] errState) := by
  rw [consoleLeave_of_serves served, gone, if_pos rfl]

theorem consoleLeave_busy (here : s.pw.left = false) (leaving : s.svc.leaveAt ≠ none) :
    exec (.consoleLeave c) s = .next (s.ends c [] [] errBusy) := by
  rw [consoleLeave_of_serves served, here, if_neg (by decide), if_pos (Option.isSome_iff_ne_none.2 leaving)]

end

theorem coresOff_svc (s : State) : s.coresOff.svc = s.svc := by
  unfold State.coresOff
  extract_lets u v
  have measured : FreeOnly v (([1, 2, 4].foldl State.measureRail (v.setReg PW_RATE 0)).showRails) :=
    ((setReg_only v PW_RATE 0).free.trans (foldl_rel FreeOnly.refl FreeOnly.trans measureRail_only _ _)).trans (showRails_only _).free
  obtain ⟨r, k, e⟩ := measured
  rw [e]
  rfl

theorem Speaks.kept {s u : State} : Speaks s u → u.pw = s.pw ∧ u.svc.leaveAt = s.svc.leaveAt := by
  rintro ⟨_, _, _, _, _, _, rfl⟩; exact ⟨rfl, rfl⟩

/-- The module outside the Gallery: no member, no view, no leader (R357). -/
def State.outside (s : State) : State :=
  (((s.set GL_STATUS GL_STATUS.MEMBER 0).set GL_STATUS GL_STATUS.VIEW 0).set GL_STATUS GL_STATUS.LEADER 0).showSteer

theorem outside_only (s : State) : RegsOnly s s.outside :=
  (((set_only s GL_STATUS _ _).trans (set_only _ GL_STATUS _ _)).trans (set_only _ GL_STATUS _ _)).trans (set_only _ TB_PPS _ _)

theorem outside_shown (s : State) : s.outside.viewState = 0 ∧ s.outside.get GL_STATUS GL_STATUS.MEMBER = 0
    ∧ s.outside.get GL_STATUS GL_STATUS.LEADER = 0 := by
  refine ⟨?_, ?_, ?_⟩
  · rw [State.viewState, State.outside, State.showSteer, State.get_set_ne _ _ _ _ (by decide),
      State.get_set_other _ _ _ _ _ _ (by decide) (.inr (by decide)), State.get_set_same _ _ _ _ (by decide)]
    rfl
  · rw [State.outside, State.showSteer, State.get_set_ne _ _ _ _ (by decide),
      State.get_set_other _ _ _ _ _ _ (by decide) (.inr (by decide)),
      State.get_set_other _ _ _ _ _ _ (by decide) (.inr (by decide)), State.get_set_same _ _ _ _ (by decide)]
    rfl
  · rw [State.outside, State.showSteer, State.get_set_ne _ _ _ _ (by decide), State.get_set_same _ _ _ _ (by decide)]
    rfl

/-- The cores off, the module stands outside with its leaving done (R357). -/
def State.stepOut (a : State) : State :=
  ((((a.lastOff 9 0 false).modPw fun p => { p with left := true }).outside).modSvc fun v => { v with leaveAt := none }).showAout

theorem stepOut_only (a : State) : ∃ r, a.stepOut
    = { a with regs := r, pw := { a.pw with left := true }, svc := { a.svc with leaveAt := none } } := by
  obtain ⟨r₁, off⟩ : RegsOnly a (a.lastOff 9 0 false) := setReg_only a PW_LAST_OFF _
  obtain ⟨r₂, out⟩ := outside_only (State.modPw { a with regs := r₁ } fun p => { p with left := true })
  obtain ⟨r₃, shown⟩ := showAout_only (State.modSvc { State.modPw { a with regs := r₁ } fun p => { p with left := true } with regs := r₂ }
    fun v => { v with leaveAt := none })
  rw [State.stepOut, off, out, shown]
  exact ⟨r₃, rfl⟩

theorem stepOut_kept (a : State) : a.stepOut.mem = a.mem ∧ a.stepOut.chambers = a.chambers
    ∧ a.stepOut.pw.left = true ∧ a.stepOut.pw.rails = a.pw.rails ∧ a.stepOut.svc.leaveAt = none
    ∧ a.stepOut.svc.replies = a.svc.replies := by
  obtain ⟨r, only⟩ := stepOut_only a
  rw [only]
  exact ⟨rfl, rfl, rfl, rfl, rfl, rfl⟩

/-- The state of a module that has left, before its answer (R357). -/
def State.departed (s : State) : State := s.coresOff.stepOut

theorem departed_get (s : State) (f : Fld) : s.departed.get GL_STATUS f
    = (((s.coresOff.lastOff 9 0 false).modPw fun p => { p with left := true }).outside).get GL_STATUS f := by
  rw [State.departed, State.stepOut, (showAout_keepsRegs _).get (by decide), State.modSvc_get_]

theorem leaveCommitted_of_due {s : State} {t : Nat} (leaving : s.svc.leaveAt = some t)
    (removed : ¬ (s.viewState = 1 ∧ s.gl.view.contains s.addr = true))
    (due : s.viewState = 2 ∨ s.viewState = 3 → ms 1000 ≤ s.clk - t) :
    exec .leaveCommitted s = .next (s.departed.ends s.svc.leaveOf [] [] 0) := by
  rw [show exec .leaveCommitted s = execLeaveCommitted s from rfl, execLeaveCommitted, leaving]
  refine if_neg ?_
  rintro (member | ⟨view, early⟩)
  · exact removed member
  · exact absurd early (Nat.not_lt.2 (due view))

theorem leaveCommitted_spec {s : State} {t : Nat} (leaving : s.svc.leaveAt = some t)
    (removed : ¬ (s.viewState = 1 ∧ s.gl.view.contains s.addr = true))
    (due : s.viewState = 2 ∨ s.viewState = 3 → ms 1000 ≤ s.clk - t) :
    ∃ u, exec .leaveCommitted s = .next u ∧ u.svc.leaveAt = none ∧ u.pw.left = true ∧ u.viewState = 0
      ∧ u.get GL_STATUS GL_STATUS.MEMBER = 0 ∧ u.get GL_STATUS GL_STATUS.LEADER = 0 ∧ u.mem = [] ∧ u.chambers = []
      ∧ u.pw.rails = [s.pw.rails.getD 0 false, s.pw.rails.getD 1 false, false, false, false]
      ∧ Replied s.svc.leaveOf [] [] 0 s u := by
  obtain ⟨mem, chambers, -, pw⟩ := coresOff_lost s
  obtain ⟨view, member, leader⟩ := outside_shown ((s.coresOff.lastOff 9 0 false).modPw fun p => { p with left := true })
  rw [State.viewState, ← departed_get] at view
  rw [← departed_get] at member leader
  obtain ⟨mem', chambers', left, rails, waits, replies⟩ := stepOut_kept s.coresOff
  rw [pw] at rails
  rw [coresOff_svc] at replies
  obtain ⟨more, said, errors⟩ := ends_replied s.departed s.svc.leaveOf [] [] 0 ""
  have spoken := ends_speaks s.departed s.svc.leaveOf [] [] 0 ""
  obtain ⟨same, leaveAt⟩ := spoken.kept
  refine ⟨_, leaveCommitted_of_due leaving removed due, leaveAt.trans waits,
    (congrArg Power.left same).trans left, (spoken.get _ _).trans view, (spoken.get _ _).trans member,
    (spoken.get _ _).trans leader, spoken.apart.1.trans (mem'.trans mem), spoken.apart.2.2.2.2.trans (chambers'.trans chambers),
    (congrArg Power.rails same).trans rails, more,
    said.trans (congrArg (· ++ _) replies), errors⟩

/-! ### The watchdog (R361) -/

theorem rampNext_kept (s : State) (wait : Nat) : (s.rampNext wait).pw.good = s.pw.good ∧ (s.rampNext wait).stage = s.stage
    ∧ (s.rampNext wait).disp = s.disp ∧ (s.rampNext wait).chambers = s.chambers ∧ (s.rampNext wait).cask = s.cask
    ∧ (s.rampNext wait).mem = s.mem ∧ (s.rampNext wait).chk = s.chk ∧ (s.rampNext wait).poison = s.poison := by
  refine ⟨?_, rfl, rfl, rfl, rfl, rfl, rfl, rfl⟩
  simp only [State.rampNext, State.modPw]
  split_ifs <;> rfl

theorem lanternWatchdogBite_spec {s : State} (good : s.pw.good = true) (runs : s.fwRuns = true) :
    ∃ u, exec .lanternWatchdogBite s = .next u ∧ u.pw.good = false ∧ u.stage = 0 ∧ u.disp = {} ∧ u.chambers = []
      ∧ u.cask = { s.cask with due := u.cask.due } ∧ u.mem = s.mem ∧ u.chk = s.chk ∧ u.poison = s.poison := by
  obtain ⟨mem, chk, poison, chambers, disp, cask, pw, stage⟩ := resetNow_kept s 7
  have run : exec .lanternWatchdogBite s = execLanternWatchdogBite s := rfl
  have off : (s.resetNow 7 false).pw.good = false := congrArg Power.good pw
  refine ⟨_, run.trans (if_neg (by rw [good, runs]; simp)), ?_⟩
  split
  · exact ⟨off, stage, disp, chambers, cask, mem, chk, poison⟩
  · obtain ⟨good', stage', disp', chambers', cask', mem', chk', poison'⟩ := rampNext_kept (s.resetNow 7 false) 0
    exact ⟨good'.trans off, stage'.trans stage, disp'.trans disp, chambers'.trans chambers, due_self (cask'.trans cask),
      mem'.trans mem, chk'.trans chk, poison'.trans poison⟩

/-- Settles O43: leaving by its branches and by what `departed` keeps, the resets by what a full reset keeps. -/
theorem leaveAndResetComplete : Obligations.LeaveAndResetComplete := by
  intro s c
  refine ⟨fun served => ⟨consoleLeave_starts served, consoleLeave_refused served, consoleLeave_busy served⟩,
    fun t leaving removed due => leaveCommitted_spec leaving removed due, fun served => ?_, lanternWatchdogBite_spec⟩
  exact (show exec (.consoleReset c) s = execConsoleReset c s from rfl).trans (console_of_serves served true _)

end Sys2Proof.Machine
end

section
/-! SUPPORT. The Sirdy ports (R286 to R289, R298): what a port's new state, its leaving UP and its training leave of its registers and of
what it holds. -/

namespace Sys2Proof.Machine

/-! ### What a port's work can change -/

/-- Only the Sirdy state, registers, counters, the logs, the service's own state and which of the cask's logs have grown change. -/
def SyWork (s u : State) : Prop :=
  ∃ y r p l v d, u = { s with sy := y, regs := r, perf := p, logs := l, svc := v, cask := { s.cask with due := d } }

theorem SyWork.refl (s : State) : SyWork s s := ⟨s.sy, s.regs, s.perf, s.logs, s.svc, s.cask.due, rfl⟩

theorem SyWork.trans {s u v : State} : SyWork s u → SyWork u v → SyWork s v := by
  rintro ⟨_, _, _, _, _, _, rfl⟩ ⟨y, r, p, l, v, d, rfl⟩; exact ⟨y, r, p, l, v, d, rfl⟩

theorem SvcOnly.syWork {s u : State} : SvcOnly s u → SyWork s u := by
  rintro ⟨r, l, v, d, rfl⟩; exact ⟨s.sy, r, s.perf, l, v, d, rfl⟩

theorem PortsOnly.syWork {s u : State} : PortsOnly s u → SyWork s u := by
  rintro ⟨y, p, rfl⟩; exact ⟨y, s.regs, p, s.logs, s.svc, s.cask.due, rfl⟩

theorem RegsOnly.syWork {s u : State} (h : RegsOnly s u) : SyWork s u := h.logs.svc.syWork

theorem SyWork.apart {s u : State} : SyWork s u → Apart s u := by
  rintro ⟨_, _, _, _, _, _, rfl⟩; exact ⟨rfl, rfl, rfl, rfl, rfl⟩

theorem SyWork.clk {s u : State} : SyWork s u → u.clk = s.clk := by rintro ⟨_, _, _, _, _, _, rfl⟩; rfl

theorem modSport_syWork (s : State) (p : Nat) (f : SPortSt → SPortSt) : SyWork s (s.modSport p f) := (modSport_portsOnly s p f).syWork

@[simp] theorem modSport_get (s : State) (p : Nat) (f : SPortSt → SPortSt) (a : Nat) (g : Fld) :
    (s.modSport p f).get a g = s.get a g := rfl

@[simp] theorem modSport_spState (s : State) (p q : Nat) (f : SPortSt → SPortSt) : (s.modSport p f).spState q = s.spState q := rfl

/-! ### A port's state (R289, R302) -/

theorem Shows.sy {s u : State} : Shows s u → u.sy = s.sy := by rintro ⟨⟨_, _, _, _, rfl⟩, _⟩; rfl

section spTo

variable (s : State) (p st : Nat)

theorem spTo_sy : (s.spTo p st).sy = s.sy := by
  obtain ⟨v, ⟨rfl, _⟩ | rfl, shown⟩ := spTo_shows s p st <;> exact shown.sy

@[simp] theorem spTo_sport (q : Nat) : (s.spTo p st).sport q = s.sport q := by rw [State.sport, spTo_sy, State.sport]

theorem spTo_syWork : SyWork s (s.spTo p st) := by
  obtain ⟨v, ⟨rfl, _⟩ | rfl, shown⟩ := spTo_shows s p st
  · exact shown.1.syWork
  · exact (set_only s _ _ _).syWork.trans shown.1.syWork

theorem spTo_get_ne {a : Nat} (f : Fld) (other : a ≠ SY_PORT_STATUS p) (out : a ∉ shownAddrs) : (s.spTo p st).get a f = s.get a f := by
  obtain ⟨v, ⟨rfl, _⟩ | rfl, shown⟩ := spTo_shows s p st
  · exact shown.get out f
  · rw [shown.get out, State.get_set_ne _ _ _ _ other]

variable {p st}

theorem spTo_spState (port : p < 2) (named : st < 8) : (s.spTo p st).spState p = st := by
  obtain ⟨v, ⟨rfl, already⟩ | rfl, shown⟩ := spTo_shows s p st
  · rw [State.spState, shown.get (SY_PORT_STATUS_notMem_shownAddrs port)]
    exact already
  · rw [State.spState, shown.get (SY_PORT_STATUS_notMem_shownAddrs port), State.get_set_same _ _ _ _ (by decide)]
    exact Nat.mod_eq_of_lt named

/-- The other fields of the port's status stay. -/
theorem spTo_status (port : p < 2) {f : Fld} (beside : 3 ≤ f.lo) (fits : f.lo + f.w ≤ 64) :
    (s.spTo p st).get (SY_PORT_STATUS p) f = s.get (SY_PORT_STATUS p) f := by
  obtain ⟨v, ⟨rfl, _⟩ | rfl, shown⟩ := spTo_shows s p st
  · exact shown.get (SY_PORT_STATUS_notMem_shownAddrs port) f
  · exact (shown.get (SY_PORT_STATUS_notMem_shownAddrs port) f).trans (State.get_set_other _ _ _ _ _ _ fits (.inl beside))

end spTo

theorem syTrain_spec (s : State) {p : Nat} (port : p < 2) (t : Nat) : SyWork s (s.syTrain p t) ∧ (s.syTrain p t).spState p = spTraining
    ∧ ((s.syTrain p t).sport p).trainAt = t :=
  ⟨(modSport_syWork s p _).trans (spTo_syWork _ _ _), spTo_spState _ port (by decide),
    by rw [State.syTrain, spTo_sport, State.sport_modSport_same]⟩

/-! ### A port that leaves UP (R289, R294, R298) -/

/-- The registers that the end of requests and the move of the service channels change. -/
def dropAddrs : List Nat := SY_STATUS :: SY_ENDS_FAILED :: shownAddrs

/-- What follows a port's end: the dispatcher's work and what it shows. -/
def Drops (s u : State) : Prop :=
  (∃ d r l v k e, u = { s with disp := d, regs := r, logs := l, svc := v, freeCtr := k, cask := { s.cask with due := e } })
    ∧ KeepsRegs (· ∈ dropAddrs) s u

theorem Drops.refl (s : State) : Drops s s := ⟨⟨s.disp, s.regs, s.logs, s.svc, s.freeCtr, s.cask.due, rfl⟩, .refl _ s⟩

theorem Drops.trans {s u v : State} : Drops s u → Drops u v → Drops s v := by
  rintro ⟨⟨_, _, _, _, _, _, rfl⟩, kept⟩ ⟨⟨d, r, l, v, k, e, rfl⟩, kept'⟩
  exact ⟨⟨d, r, l, v, k, e, rfl⟩, kept.trans kept'⟩

theorem modDisp_drops (s : State) (f : Disp → Disp) : Drops s (s.modDisp f) :=
  ⟨⟨_, s.regs, s.logs, s.svc, s.freeCtr, s.cask.due, rfl⟩, fun _ _ => rfl⟩

theorem free_drops (s : State) : Drops s s.free.2 := ⟨⟨s.disp, s.regs, s.logs, s.svc, _, s.cask.due, rfl⟩, fun _ _ => rfl⟩

theorem set_drops {a : Nat} (listed : a ∈ dropAddrs) (s : State) (f : Fld) (x : Nat) : Drops s (s.set a f x) :=
  ⟨⟨s.disp, _, s.logs, s.svc, s.freeCtr, s.cask.due, rfl⟩, set_keepsRegs listed s f x⟩

theorem Shows.drops {s u : State} : Shows s u → Drops s u := by
  rintro ⟨⟨r, l, v, d, rfl⟩, kept⟩
  exact ⟨⟨s.disp, r, l, v, s.freeCtr, d, rfl⟩, kept.mono fun _ h => List.mem_cons_of_mem _ (List.mem_cons_of_mem _ h)⟩

theorem showReqs_drops (s : State) : Drops s s.showReqs :=
  (set_drops List.mem_cons_self s _ _).trans (set_drops List.mem_cons_self _ _ _)

theorem endReq_drops (s : State) (r : Req) (reason fault : Nat) (away : Bool) : Drops s (s.endReq r reason fault away) := by
  unfold State.endReq
  extract_lets v w x
  have told : Drops s v := modDisp_drops s _
  have counted : Drops v w := ite_rel (fun _ => set_drops (List.mem_cons_of_mem _ List.mem_cons_self) v _ _) fun _ => .refl v
  have freed : Drops w x := foldl_rel Drops.refl Drops.trans (fun u y => modDisp_drops u _) _ w
  exact (told.trans counted).trans (freed.trans ((modDisp_drops x _).trans (showReqs_drops _)))

theorem endAll_drops (s : State) (q : Nat) (l : List Req) : Drops s (s.endAll q l) :=
  foldl_rel Drops.refl Drops.trans (fun u _ => endReq_drops u _ 6 0 true) l s

theorem issueStep_drops (s : State) (r : Req) (t : Nat) : Drops s (s.issueStep r t) := by
  unfold State.issueStep
  split
  · exact ((modDisp_drops s _).trans (modDisp_drops _ _)).trans (modDisp_drops _ _)
  · exact (free_drops s).trans (((modDisp_drops _ _).trans (modDisp_drops _ _)).trans (modDisp_drops _ _))

theorem pumpSteps_drops (fuel : Nat) (s : State) : Drops s (pumpSteps fuel s) := by
  induction fuel generalizing s with
  | zero => exact .refl s
  | succ fuel ih =>
    unfold pumpSteps
    refine ite_rel (fun _ => .refl s) fun _ => ?_
    split
    · exact (issueStep_drops s _ _).trans (ih _)
    · exact .refl s

theorem resendEvts_drops (s : State) : Drops s s.resendEvts :=
  ⟨⟨s.disp, s.regs, _, s.svc, s.freeCtr, s.cask.due, rfl⟩, fun _ _ => rfl⟩

theorem svcMove_drops (s : State) (p : Nat) : Drops s (s.svcMove p) :=
  ite_rel (fun _ => .refl s) fun _ =>
    ((set_drops List.mem_cons_self s _ _).trans (resendEvts_drops _)).trans (event_shows _ _ _ _).drops

theorem svcLeft_drops (s : State) (p : Nat) (up : Bool) : Drops s (s.svcLeft p up) :=
  ite_rel (fun _ => .refl s) fun _ => ite_rel (fun _ => svcMove_drops s _) fun _ => resendEvts_drops s

/-- Once a port has left UP, the rest of its end changes none of its registers. -/
theorem syDrop_drops (s : State) (p last : Nat) : Drops (s.portLeft p last) (s.syDrop p last) := by
  rw [syDrop_eq]
  refine Drops.trans ?_ ((svcLeft_drops _ p _).trans ((showReqs_drops _).trans (pumpSteps_drops 16 _)))
  have ended : Drops (s.portLeft p last) (s.portEnded p last) := endAll_drops _ _ _
  split
  · exact ended
  · exact ended.trans (modDisp_drops _ _)

theorem SY_PORT_notMem_dropAddrs {p : Nat} (port : p < 2) {o : Nat} (low : 0x100 ≤ o) (high : o < 0x1000) :
    y4xWin 8 + o + 0x40 * p ∉ dropAddrs := by
  have elsewhere : ∀ a ∈ dropAddrs, a < y4xWin 8 + 0x100 ∨ y4xWin 8 + 0x10000 ≤ a := by decide
  intro listed
  have := elsewhere _ listed
  omega

theorem portLeft_clk (s : State) (p last : Nat) : (s.portLeft p last).clk = s.clk := by
  unfold State.portLeft
  extract_lets v src
  rw [State.modDisp_clk, (spTo_syWork _ p spDown).clk]
  rfl

theorem portLeft_shown (s : State) {p : Nat} (port : p < 2) (last : Nat) : (s.portLeft p last).spState p = spDown
    ∧ (s.portLeft p last).get (SY_PORT_STATUS p) SY_PORT_STATUS.LAST_DOWN = last % 2 ^ 3 := by
  unfold State.portLeft
  extract_lets v src
  have told : v.get (SY_PORT_STATUS p) SY_PORT_STATUS.LAST_DOWN = last % 2 ^ 3 := State.get_set_same _ _ _ _ (by decide)
  clear_value v
  rw [State.spState, State.modDisp_get_, State.modDisp_get_, ← State.spState, spTo_spState _ port (by decide),
    spTo_status _ port (by decide) (by decide)]
  exact ⟨rfl, told⟩

/-- A port that has left UP is DOWN and shows why. -/
theorem syDrop_shown (s : State) {p : Nat} (port : p < 2) (last : Nat) : (s.syDrop p last).spState p = spDown
    ∧ (s.syDrop p last).get (SY_PORT_STATUS p) SY_PORT_STATUS.LAST_DOWN = last % 2 ^ 3 ∧ (s.syDrop p last).clk = s.clk := by
  obtain ⟨down, shown⟩ := portLeft_shown s port last
  obtain ⟨⟨d, r, l, v, k, e, only⟩, kept⟩ := syDrop_drops s p last
  have out : SY_PORT_STATUS p ∉ dropAddrs := SY_PORT_notMem_dropAddrs port (by decide) (by decide)
  refine ⟨(kept.get out _).trans down, (kept.get out _).trans shown, ?_⟩
  rw [only]
  exact portLeft_clk s p last

theorem syLater_spec (s : State) (p t : Nat) (slow : Bool) : (s.syLater p t slow).spState p = s.spState p
    ∧ (∀ f, (s.syLater p t slow).get (SY_PORT_STATUS p) f = s.get (SY_PORT_STATUS p) f) ∧ ((s.syLater p t slow).sport p).trainAt = t :=
  ⟨rfl, fun _ => rfl, by rw [State.syLater, State.sport_modSport_same]⟩

/-- A port that leaves UP to train again later (R289, steps 5 and 6). -/
theorem dropLater_shown (s : State) (p : SPort) {last : Nat} (small : last < 8) (t : Nat) (slow : Bool) :
    ((s.syDrop p last).syLater p t slow).spState p = spDown
      ∧ ((s.syDrop p last).syLater p t slow).get (SY_PORT_STATUS p) SY_PORT_STATUS.LAST_DOWN = last
      ∧ (((s.syDrop p last).syLater p t slow).sport p).trainAt = t := by
  obtain ⟨down, shown, -⟩ := syDrop_shown s p.isLt last
  obtain ⟨state, status, train⟩ := syLater_spec (s.syDrop p last) p t slow
  exact ⟨state.trans down, (status _).trans (shown.trans (Nat.mod_eq_of_lt small)), train⟩

/-! ### Frames received and sent (R285, R287, R288) -/

/-- The registers that count a port's FEC codewords (R285, R302). -/
def syFecAddrs (p : Nat) : List Nat := [SY_PORT_FEC_CORR p, SY_PORT_FEC_UNCORR p]

section syFec

variable (s : State) (p : Nat) (c : Fec)

theorem syFec_only : RegsOnly s (s.syFec p c) := (bump_only s _ _).trans (bump_only _ _ _)

theorem syFec_keepsRegs : KeepsRegs (· ∈ syFecAddrs p) s (s.syFec p c) :=
  (set_keepsRegs List.mem_cons_self s _ _).trans (set_keepsRegs (List.mem_cons_of_mem _ List.mem_cons_self) _ _ _)

theorem SY_PORT_STATUS_notMem_syFecAddrs (q : Nat) : SY_PORT_STATUS q ∉ syFecAddrs p := by
  intro listed
  simp only [syFecAddrs, SY_PORT_STATUS, SY_PORT_FEC_CORR, SY_PORT_FEC_UNCORR, List.mem_cons, List.not_mem_nil, or_false] at listed
  omega

theorem syFec_spState (q : Nat) : (s.syFec p c).spState q = s.spState q :=
  (syFec_keepsRegs s p c).get (SY_PORT_STATUS_notMem_syFecAddrs p q) _

@[simp] theorem syFec_sport (q : Nat) : (s.syFec p c).sport q = s.sport q := rfl

end syFec

/-! ### The commands of the port states (R289) -/

theorem laneWidth_lt (l : Nat) : laneWidth l < 4 := by
  unfold laneWidth
  split_ifs <;> decide

theorem syTrainingDone_spec {s : State} {p : SPort} {lanes : BitVec 4} (training : s.spState p = spTraining)
    (width : laneWidth lanes.toNat ≠ 0) (due : (s.sport p).trainAt ≤ s.clk) :
    ∃ u, exec (.syTrainingDone p lanes) s = .next u ∧ Apart s u ∧ u.spState p = spHello
      ∧ u.get (SY_PORT_STATUS p) SY_PORT_STATUS.WIDTH = laneWidth lanes.toNat := by
  have run : exec (.syTrainingDone p lanes) s = execSyTrainingDone p lanes s := rfl
  refine ⟨_, run.trans (if_neg ?_), ?_, spTo_spState _ p.isLt (by decide), ?_⟩
  · rintro (out | none | early)
    · exact out training
    · exact width none
    · exact absurd early (Nat.not_lt.2 due)
  · exact (((set_only s _ _ _).syWork.trans (modSport_syWork _ _ _)).trans (spTo_syWork _ _ _)).apart
  · rw [spTo_status _ p.isLt (by decide) (by decide), modSport_get, State.get_set_same _ _ _ _ (by decide)]
    exact Nat.mod_eq_of_lt (laneWidth_lt _)

/-- The payload of HELLO (R287, R289): the five channels' units, then who the module is. -/
def State.sHelloPayload (s : State) : List Byte :=
  (toBytes 2 640 ++ toBytes 2 0 ++ toBytes 2 256 ++ toBytes 2 64 ++ toBytes 2 0)
    ++ toBytes 3 s.addr ++ toBytes 1 (bit s.isEntry) ++ toBytes 2 s.pId

theorem num_sHelloPayload (s : State) : num s.sHelloPayload 0 2 = 640 ∧ num s.sHelloPayload 4 2 = 256 ∧ num s.sHelloPayload 6 2 = 64 :=
  ⟨rfl, rfl, rfl⟩

theorem syHelloSend_spec {s : State} {p : SPort} (hello : s.spState p = spHello) :
    ∃ u f, exec (.syHelloSend p) s = .next u ∧ u = { s with sy := u.sy } ∧ u.sy.out = s.sy.out ++ [(p.val, f)]
      ∧ f.type = 1 ∧ f.crc = sCrc f ∧ num f.payload 0 2 = 640 ∧ num f.payload 4 2 = 256 ∧ num f.payload 6 2 = 64 := by
  have run : exec (.syHelloSend p) s = execSyHelloSend p s := rfl
  exact ⟨_, _, run.trans (if_neg (not_not.2 hello)), rfl, rfl, rfl, rfl, num_sHelloPayload s⟩

/-- A good HELLO opens the link (R289, step 3): what the port then holds. -/
def State.helloTaken (s : State) (p : SPort) (f : SFrame) (c : Fec) : State :=
  let s := s.syFec p c
  let lim := s.get SY_CTRL SY_CTRL.RETRY_LIMIT
  let stall := s.get SY_CTRL SY_CTRL.CREDIT_STALL
  let units : List Nat := (List.range 5).map (fun k => num f.payload (2 * k) 2)
  let s := s.modSport p fun v => { v with sendSeq := 0, expect := 0, replay := [], txq := [], lost := false, nakCount := 0 }
  s.modSport p fun v => { v with
    nakSeq := 4096, got := false, slow := false, credits := units, ret := [0, 0, 0, 0, 0], lastRx := s.clk, lastHello := s.clk, limit := lim, stall := stall }

theorem helloTaken_spec (s : State) (p : SPort) (f : SFrame) (c : Fec) : SyWork s (s.helloTaken p f c)
    ∧ ((s.helloTaken p f c).sport p).sendSeq = 0 ∧ ((s.helloTaken p f c).sport p).expect = 0 ∧ ((s.helloTaken p f c).sport p).replay = []
    ∧ ((s.helloTaken p f c).sport p).got = false
    ∧ ((s.helloTaken p f c).sport p).credits = ((List.range 5).map fun k => num f.payload (2 * k) 2) := by
  unfold State.helloTaken
  extract_lets u lim stall units v
  refine ⟨((syFec_only s p c).syWork.trans (modSport_syWork u p _)).trans (modSport_syWork v p _), ?_⟩
  rw [State.sport_modSport_same, State.sport_modSport_same]
  exact ⟨rfl, rfl, rfl, rfl, rfl⟩

theorem syHello_run {s : State} {p : SPort} {f : SFrame} {c : Fec} (hello : s.spState p = spHello) (type : f.type = 1)
    (good : c.uncorr = 0) (crc : f.crc = sCrc f) (short : f.payload.length ≤ 2048) :
    ∃ u, exec (.syHello p ⟨f, c⟩) s = .next u
      ∧ (u = (s.helloTaken p f c).spTo p spUp ∨ ∃ q, u = ((s.helloTaken p f c).spTo p spUp).svcMove q) := by
  have state : (s.syFec p c).spState p = spHello := (syFec_spState s p c p).trans hello
  have run : exec (.syHello p ⟨f, c⟩) s = execSyHello p ⟨f, c⟩ s := rfl
  refine ⟨_, run.trans ((if_neg ?_).trans ((if_neg ?_).trans ((if_neg ?_).trans (if_neg ?_)))), ?_⟩
  · simp [type, hello, spTrained]
  · simp [good, crc]
  · exact Nat.not_lt.2 short
  · exact not_not.2 state
  · exact (ite_eq_or_eq _ _ _).symm.imp id fun moved => ⟨_, moved⟩

theorem svcMove_spState (s : State) (q : Nat) {p : Nat} (port : p < 2) : (s.svcMove q).spState p = s.spState p :=
  (svcMove_drops s q).2.get (SY_PORT_notMem_dropAddrs port (by decide) (by decide)) _

theorem svcMove_syWork (s : State) (q : Nat) : SyWork s (s.svcMove q) := (svcMove_only s q).svc.syWork

theorem svcMove_sport (s : State) (q p : Nat) : (s.svcMove q).sport p = s.sport p := by
  obtain ⟨⟨_, _, _, _, _, _, only⟩, -⟩ := svcMove_drops s q
  rw [only]
  rfl

theorem syHello_spec {s : State} {p : SPort} {f : SFrame} {c : Fec} (hello : s.spState p = spHello) (type : f.type = 1)
    (good : c.uncorr = 0) (crc : f.crc = sCrc f) (short : f.payload.length ≤ 2048) :
    ∃ u, exec (.syHello p ⟨f, c⟩) s = .next u ∧ Apart s u ∧ u.spState p = spUp ∧ (u.sport p).sendSeq = 0
      ∧ (u.sport p).expect = 0 ∧ (u.sport p).replay = [] ∧ (u.sport p).got = false
      ∧ (u.sport p).credits = ((List.range 5).map fun k => num f.payload (2 * k) 2) := by
  obtain ⟨work, holds⟩ := helloTaken_spec s p f c
  have state : ((s.helloTaken p f c).spTo p spUp).spState p = spUp := spTo_spState _ p.isLt (by decide)
  obtain ⟨u, run, rfl | ⟨q, rfl⟩⟩ := syHello_run hello type good crc short
  · refine ⟨_, run, (work.trans (spTo_syWork _ _ _)).apart, state, ?_⟩
    rw [spTo_sport]
    exact holds
  · refine ⟨_, run, ((work.trans (spTo_syWork _ _ _)).trans (svcMove_syWork _ q)).apart, (svcMove_spState _ q p.isLt).trans state, ?_⟩
    rw [svcMove_sport, spTo_sport]
    exact holds

/-- A good LINK_CTRL at an UP port is heard (R288, R289). -/
def State.syHeard (s : State) (p : Nat) (c : Fec) : State := (s.syFec p c).modSport p fun v => { v with lastRx := s.clk }

theorem syLinkCtrl_going {s : State} {p : SPort} {f : SFrame} {c : Fec} (up : s.spState p = spUp) (type : f.type = 0)
    (good : c.uncorr = 0) (crc : f.crc = sCrc f) (short : f.payload.length ≤ 2048) (going : f.aux / 2 ^ 14 % 8 ≠ 0) :
    exec (.syLinkCtrl p ⟨f, c⟩) s = .next (((s.syHeard p c).syDrop p 5).syLater p (s.clk + ms 1000) true) := by
  have state : (s.syFec p c).spState p = spUp := (syFec_spState s p c p).trans up
  have run : exec (.syLinkCtrl p ⟨f, c⟩) s = execSyLinkCtrl p ⟨f, c⟩ s := rfl
  refine run.trans ((if_neg ?_).trans ((if_neg ?_).trans ((if_neg ?_).trans ((if_neg ?_).trans (if_pos going)))))
  · simp [type, up, spTrained]
  · simp [good, crc]
  · exact Nat.not_lt.2 short
  · exact not_not.2 state

theorem syTimer_spec {s : State} {p : SPort} (down : s.spState p = spDown) (due : (s.sport p).trainAt ≤ s.clk) :
    (s.syTimer p).spState p = spTraining ∧ ((s.syTimer p).sport p).trainAt = s.clk := by
  rw [State.syTimer, if_pos ⟨down, due⟩]
  exact (syTrain_spec s p.isLt s.clk).2

theorem SY_PORT_CTRL_ne_STATUS (p q : Nat) : SY_PORT_CTRL p ≠ SY_PORT_STATUS q := by
  simp only [SY_PORT_CTRL, SY_PORT_STATUS]
  omega

theorem syEnable_spec {s : State} {p : SPort} (off : s.spState p = 0) :
    ∃ u, exec (.syEnable p) s = .next u ∧ Apart s u ∧ u.get (SY_PORT_CTRL p) SY_PORT_CTRL.ENABLE = 1
      ∧ u.spState p = spTraining ∧ (u.sport p).trainAt = s.clk := by
  have other := SY_PORT_CTRL_ne_STATUS p p
  have out : SY_PORT_CTRL p ∉ shownAddrs := SY_PORT_notMem_shownAddrs p.isLt (by decide) (by decide)
  have still : (s.set (SY_PORT_CTRL p) SY_PORT_CTRL.ENABLE 1).spState p = 0 :=
    (State.get_set_ne s SY_PORT_CTRL.ENABLE SY_PORT_STATUS.STATE 1 other.symm).trans off
  have run : exec (.syEnable p) s = .next ((s.set (SY_PORT_CTRL p) SY_PORT_CTRL.ENABLE 1).syTrain p s.clk) :=
    (show exec (.syEnable p) s = execSyEnable p s from rfl).trans (congrArg _ (if_pos still))
  obtain ⟨work, training, at_⟩ := syTrain_spec (s.set (SY_PORT_CTRL p) SY_PORT_CTRL.ENABLE 1) p.isLt s.clk
  refine ⟨_, run, ((set_only s _ _ _).syWork.trans work).apart, ?_, training, at_⟩
  rw [State.syTrain, spTo_get_ne _ _ _ _ other out, modSport_get, State.get_set_same _ _ _ _ (by decide)]
  rfl

/-- The number that LAST_DOWN shows for a cause (R289, Table 5). -/
def downNo : DownCause → Nat
  | .signalLost => 1
  | .noFrame => 2
  | .retryLimit => 3
  | .creditStall => 4

theorem syPortDown_of_up {s : State} {p : SPort} {cause : DownCause} (up : s.spState p = spUp)
    (quiet : cause = .noFrame → 10000 ≤ s.clk - (s.sport p).lastRx)
    (naks : cause = .retryLimit → 0 < (s.sport p).nakCount ∧ (s.sport p).limit ≤ (s.sport p).nakCount)
    (stalls : cause = .creditStall → ∃ t, some t ∈ (s.sport p).zeroSince ∧ t + microTicks (s.sport p).stall ≤ s.clk) :
    exec (.syPortDown p cause) s = .next ((s.syDrop p (downNo cause)).syLater p (s.clk + ms 100) false) := by
  rw [show exec (.syPortDown p cause) s = execSyPortDown p cause s from rfl]
  cases cause with
  | signalLost => exact if_pos up
  | noFrame =>
    simp only [execSyPortDown, if_pos (quiet rfl), if_pos up]
    rfl
  | retryLimit =>
    simp only [execSyPortDown, if_pos (naks rfl), if_pos up]
    rfl
  | creditStall =>
    obtain ⟨t, listed, late⟩ := stalls rfl
    unfold execSyPortDown
    dsimp only
    rw [if_pos]
    · exact if_pos up
    · exact List.any_eq_true.2 ⟨some t, listed, decide_eq_true late⟩

/-- Settles O32: each command by its guards and by what `spTo`, `syDrop` and `syTrain` show. -/
theorem sirdyPortsComplete : Obligations.SirdyPortsComplete := by
  intro p s
  refine ⟨fun lanes training width due => syTrainingDone_spec training width due, syHelloSend_spec,
    fun f c hello type good crc short => syHello_spec hello type good crc short, fun f c up type good crc short going => ?_,
    fun training late => ?_, fun cause up quiet naks stalls => ?_, syTimer_spec, fun up => ?_, syEnable_spec⟩
  · obtain ⟨down, shown, train⟩ := dropLater_shown (s.syHeard p c) p (by decide : 5 < 8) (s.clk + ms 1000) true
    exact ⟨_, syLinkCtrl_going up type good crc short going, down, shown, train⟩
  · have run : exec (.syTrainingTimeout p) s = execSyTrainingTimeout p s := rfl
    exact run.trans ((if_neg fun h => absurd (training.symm.trans h.1) (by decide)).trans (if_pos ⟨training, late⟩))
  · cases cause with
    | signalLost => exact syPortDown_of_up up quiet naks stalls
    | noFrame => exact syPortDown_of_up up quiet naks stalls
    | retryLimit => exact syPortDown_of_up up quiet naks stalls
    | creditStall => exact syPortDown_of_up up quiet naks stalls
  · exact (show exec (.syRecal p) s = execSyRecal p s from rfl).trans (congrArg _ (if_pos up))

end Sys2Proof.Machine
end

section
/-! SUPPORT. Frames at an UP Sirdy port (R286 to R289): acknowledgement, replay and credit, the sequence, and the LINK_CTRL that is due. -/

namespace Sys2Proof.Machine

/-! ### LINK_CTRL sent (R288) -/

theorem sendSyCtrl_spec (s : State) (p going : Nat) :
    s.sendSyCtrl p going = { s with sy := (s.sendSyCtrl p going).sy }
      ∧ (((s.sendSyCtrl p going).sport p).ackDue = false ∧ ((s.sendSyCtrl p going).sport p).nakDue = false
        ∧ ((s.sendSyCtrl p going).sport p).ret = [0, 0, 0, 0, 0])
      ∧ (s.sendSyCtrl p going).sy.out = s.sy.out ++ [(p, sSeal (s.syCtrl p going))]
      ∧ ((s.sendSyCtrl p going).sport p).lastTx = s.clk := by
  refine ⟨rfl, ?_, rfl, ?_⟩
  · rw [State.sendSyCtrl, State.sport_modSport_same]
    exact ⟨rfl, rfl, rfl⟩
  · rw [State.sendSyCtrl, State.sport_modSport_same, State.syEmit, State.sport_modSport_same]

theorem syAckDue_spec {s : State} {p : SPort} (up : s.spState p = spUp)
    (due : (s.sport p).ackDue = true ∨ (s.sport p).nakDue = true ∨ (s.sport p).ret.any (· ≠ 0) = true) :
    exec (.syAckDue p) s = .next (s.sendSyCtrl p 0) :=
  (show exec (.syAckDue p) s = execSyAckDue p s from rfl).trans (if_pos ⟨up, due⟩)

theorem syKeepalive_spec {s : State} {p : SPort} (up : s.spState p = spUp) (quiet : 1000 ≤ s.clk - (s.sport p).lastTx) :
    exec (.syKeepalive p) s = .next (s.sendSyCtrl p 0) :=
  (show exec (.syKeepalive p) s = execSyKeepalive p s from rfl).trans (if_pos ⟨up, quiet⟩)

/-! ### DATA received (R286, R288) -/

section
variable {s : State} {p : SPort} {f : SFrame} {c : Fec} (up : s.spState p = spUp)
include up

theorem syDataReceive_type (reserved : 3 ≤ f.type) (good : c.uncorr = 0) (crc : f.crc = sCrc f) :
    exec (.syDataReceive p ⟨f, c⟩) s = .next ((s.syHeard p c).bump (SY_PORT_DROP p) 1) := by
  have run : exec (.syDataReceive p ⟨f, c⟩) s = execSyDataReceive p ⟨f, c⟩ s := rfl
  have right : (decide (c.uncorr = 0) && f.crc == sCrc f) = true := by simp [good, crc]
  refine run.trans ((if_neg ?_).trans ((if_neg (not_not.2 up)).trans ?_))
  · simp [up, spTrained]; omega
  · simp only [right, if_true, Bool.not_true, Bool.false_eq_true, if_false, if_pos reserved]
    rfl

/-- A good frame in sequence moves what the port expects on (R288). -/
def State.syTaken (s : State) (p : Nat) (c : Fec) (f : SFrame) : State :=
  ((s.syHeard p c).modSport p fun v => { v with
    expect := (((s.syHeard p c).sport p).expect + 1) % 4096, lost := false, got := true, ackDue := true }).tallyX 0xC02 p f.payload.length

theorem syDataReceive_taken (type : f.type = 2) (good : c.uncorr = 0) (crc : f.crc = sCrc f) (seq : f.seq = (s.sport p).expect)
    (legal : sLegal f = true) : exec (.syDataReceive p ⟨f, c⟩) s
      = .next { s.syTaken p c f with sy := { (s.syTaken p c f).sy with rx := (s.syTaken p c f).sy.rx ++ [(p.val, f)] } } := by
  have run : exec (.syDataReceive p ⟨f, c⟩) s = execSyDataReceive p ⟨f, c⟩ s := rfl
  have right : (decide (c.uncorr = 0) && f.crc == sCrc f) = true := by simp [good, crc]
  have next : f.seq = ((s.syHeard p c).sport p).expect := by
    rw [State.syHeard, State.sport_modSport_same, syFec_sport]
    exact seq
  refine run.trans ((if_neg ?_).trans ((if_neg (not_not.2 up)).trans ?_))
  · simp [up, spTrained]; omega
  · simp only [right, if_true, Bool.not_true, Bool.false_eq_true, if_false]
    exact (if_neg (by omega)).trans ((if_pos next).trans (if_pos legal))

theorem syDataReceive_bad (type : 2 ≤ f.type) (bad : c.uncorr ≠ 0 ∨ f.crc ≠ sCrc f) :
    exec (.syDataReceive p ⟨f, c⟩) s
      = .next ((((s.syFec p c).bump (SY_PORT_CRC p) 1).modSport p fun v => { v with lastRx := s.clk }).syNak p) := by
  have run : exec (.syDataReceive p ⟨f, c⟩) s = execSyDataReceive p ⟨f, c⟩ s := rfl
  have wrong : (decide (c.uncorr = 0) && f.crc == sCrc f) = false := by
    rcases bad with h | h
    · simp [h]
    · simp [h]
  refine run.trans ((if_neg ?_).trans ((if_neg (not_not.2 up)).trans ?_))
  · simp [up, spTrained]; omega
  · simp only [wrong]
    rfl

end

theorem PortsOnly.with_sy {s u : State} (h : PortsOnly s u) (y : Sirdy) : { u with sy := y } = { s with sy := y, perf := u.perf } := by
  obtain ⟨_, _, rfl⟩ := h; rfl

theorem syTaken_spec (s : State) (p : Nat) (c : Fec) (f : SFrame) : PortsOnly (s.syFec p c) (s.syTaken p c f)
    ∧ (s.syTaken p c f).sy.rx = s.sy.rx ∧ ((s.syTaken p c f).sport p).expect = ((s.sport p).expect + 1) % 4096
    ∧ ((s.syTaken p c f).sport p).ackDue = true := by
  have tallied (u : State) : (u.tallyX 0xC02 p f.payload.length).sy = u.sy := by
    obtain ⟨k, e⟩ := tallyX_only u 0xC02 p f.payload.length
    rw [e]
  have port : (s.syTaken p c f).sport p = ((s.syHeard p c).modSport p fun v => { v with
      expect := (((s.syHeard p c).sport p).expect + 1) % 4096, lost := false, got := true, ackDue := true }).sport p := by
    rw [State.syTaken]
    exact congrArg (fun y : Sirdy => kget y.ports p {}) (tallied _)
  refine ⟨((modSport_portsOnly _ p _).trans (modSport_portsOnly _ p _)).trans (tallyX_only _ _ _ _).ports, ?_, ?_, ?_⟩
  · rw [State.syTaken, tallied]
    rfl
  · rw [port, State.sport_modSport_same, State.syHeard, State.sport_modSport_same, syFec_sport]
  · rw [port, State.sport_modSport_same]

/-! ### LINK_CTRL received (R287 to R289, R300) -/

/-- The frames that LINK_CTRL leaves in the replay buffer (R288). -/
def linkLeft (v : SPortSt) (f : SFrame) : List SFrame :=
  if nbit f.aux 12 then v.replay.filter fun g => !(g.seq = f.aux % 4096 || seqBehind g.seq (f.aux % 4096)) else v.replay

/-- The NAKs in a row for the SEQ that LINK_CTRL names (R288). -/
def linkNaks (v : SPortSt) (f : SFrame) : Nat := if v.nakSeq = f.aux % 4096 then v.nakCount + 1 else 1

/-- The frames that it acknowledges. -/
def linkAcked (v : SPortSt) (f : SFrame) : List SFrame :=
  if nbit f.aux 12 then v.replay.filter fun g => g.seq = f.aux % 4096 || seqBehind g.seq (f.aux % 4096) else []

/-- What the port holds once LINK_CTRL is taken: acknowledged frames gone, credit added, NAKs counted. -/
def linkPort (v : SPortSt) (f : SFrame) : SPortSt := { v with
  replay := linkLeft v f
  credits := v.credits.mapIdx fun k c => c + num f.payload 0 8 / 2 ^ (12 * k) % 4096
  nakCount := if nbit f.aux 13 then linkNaks v f else if (linkAcked v f).isEmpty then v.nakCount else 0
  nakSeq := if nbit f.aux 13 then f.aux % 4096 else v.nakSeq }

/-- The events that acknowledged frames carried leave the FIFO (R300). -/
def State.evtsAcked (s : State) (p : Nat) (seqs : List Nat) : State :=
  if s.svcPort = p ∧ !seqs.isEmpty then
    (s.modLogs fun l => { l with evts := l.evts.filter fun x =>
      match x.sent with
      | some q => !seqs.contains q
      | none => true }).showFifo
  else s

/-- A good LINK_CTRL is taken. -/
def State.linkTaken (s : State) (p : Nat) (c : Fec) (f : SFrame) : State :=
  ((s.syHeard p c).modSport p fun _ => linkPort ((s.syHeard p c).sport p) f).evtsAcked p
    (((linkAcked ((s.syHeard p c).sport p) f).filter fun g => g.ch = 4).map (·.seq))

/-- The frames that are left are sent again. -/
def State.syResend (s : State) (p : Nat) (l : List SFrame) : State :=
  (l.foldl (fun (s : State) g => s.syEmit p g) s).bump (SY_PORT_REPLAY p) l.length

/-- On a NAK the frames that are left are sent again. -/
def State.syNaked (s : State) (p : Nat) (nak : Bool) (l : List SFrame) : State := if nak then s.syResend p l else s

theorem evtsAcked_shows (s : State) (p : Nat) (seqs : List Nat) : Shows s (s.evtsAcked p seqs) := by
  have fifo : SY_FIFO_LEVEL ∈ shownAddrs := by simp [shownAddrs, eventAddrs]
  refine ite_rel (R := Shows) (fun _ => ?_) fun _ => .refl s
  refine ⟨((modLogs_only s _).trans (showFifo_only _).logs).svc, ?_⟩
  exact ((modLogs_keepsRegs _ s _).trans (set_keepsRegs fifo _ _ _)).trans ((set_keepsRegs fifo _ _ _).trans (set_keepsRegs fifo _ _ _))

section
variable {s : State} {p : SPort} {f : SFrame} {c : Fec} (up : s.spState p = spUp)
include up

theorem syLinkCtrl_taken (type : f.type = 0) (good : c.uncorr = 0) (crc : f.crc = sCrc f) (short : f.payload.length ≤ 2048)
    (stays : f.aux / 2 ^ 14 % 8 = 0) : exec (.syLinkCtrl p ⟨f, c⟩) s
      = if nbit f.aux 13 = true ∧ ((s.syHeard p c).sport p).limit ≤ ((s.linkTaken p c f).sport p).nakCount then
          .next (((s.linkTaken p c f).syDrop p 3).syLater p ((s.linkTaken p c f).clk + ms 100) false)
        else .next (((s.linkTaken p c f).syNaked p (nbit f.aux 13) (linkLeft ((s.syHeard p c).sport p) f)).syPump p) := by
  have state : (s.syFec p c).spState p = spUp := (syFec_spState s p c p).trans up
  have run : exec (.syLinkCtrl p ⟨f, c⟩) s = execSyLinkCtrl p ⟨f, c⟩ s := rfl
  refine run.trans ((if_neg ?_).trans ((if_neg ?_).trans ((if_neg ?_).trans ((if_neg ?_).trans (if_neg (not_not.2 stays))))))
  · simp [type, up, spTrained]
  · simp [good, crc]
  · exact Nat.not_lt.2 short
  · exact not_not.2 state

end

theorem syHeard_sport (s : State) (p : Nat) (c : Fec) : (s.syHeard p c).sport p = { s.sport p with lastRx := s.clk } := by
  rw [State.syHeard, State.sport_modSport_same, syFec_sport]

theorem syHeard_syWork (s : State) (p : Nat) (c : Fec) : SyWork s (s.syHeard p c) :=
  (syFec_only s p c).syWork.trans (modSport_syWork _ p _)

theorem linkTaken_syWork (s : State) (p : Nat) (c : Fec) (f : SFrame) : SyWork s (s.linkTaken p c f) :=
  ((syHeard_syWork s p c).trans (modSport_syWork _ p _)).trans (evtsAcked_shows _ p _).1.syWork

theorem linkTaken_sport (s : State) (p : Nat) (c : Fec) (f : SFrame) :
    (s.linkTaken p c f).sport p = linkPort { s.sport p with lastRx := s.clk } f := by
  rw [State.sport, State.linkTaken, (evtsAcked_shows _ _ _).sy, ← State.sport, State.sport_modSport_same, syHeard_sport]

theorem linkTaken_out (s : State) (p : Nat) (c : Fec) (f : SFrame) : (s.linkTaken p c f).sy.out = s.sy.out := by
  rw [State.linkTaken, (evtsAcked_shows _ _ _).sy]
  rfl

theorem linkTaken_spState (s : State) (c : Fec) (f : SFrame) {p : Nat} (port : p < 2) : (s.linkTaken p c f).spState p = s.spState p := by
  rw [State.spState, State.linkTaken, (evtsAcked_shows _ _ _).get (SY_PORT_STATUS_notMem_shownAddrs port), modSport_get, State.syHeard,
    modSport_get]
  exact syFec_spState s p c p

/-! ### Sending again, and what waits (R288) -/

theorem foldl_syEmit (l : List SFrame) (s : State) (p : Nat) :
    ∃ t, (l.foldl (fun (s : State) g => s.syEmit p g) s).sport p = { s.sport p with lastTx := t }
      ∧ (l.foldl (fun (s : State) g => s.syEmit p g) s).sy.out = s.sy.out ++ l.map fun g => (p, g) := by
  induction l generalizing s with
  | nil => exact ⟨(s.sport p).lastTx, rfl, (List.append_nil _).symm⟩
  | cons g l ih =>
    obtain ⟨t, port, out⟩ := ih (s.syEmit p g)
    refine ⟨t, port.trans ?_, out.trans ?_⟩
    · rw [State.syEmit, State.sport_modSport_same]
      rfl
    · rw [List.map_cons, List.append_cons]
      rfl

theorem syResend_spec (s : State) (p : Nat) (l : List SFrame) :
    (∃ t, (s.syResend p l).sport p = { s.sport p with lastTx := t })
      ∧ (s.syResend p l).sy.out = s.sy.out ++ l.map fun g => (p, g) := by
  obtain ⟨t, port, out⟩ := foldl_syEmit l s p
  exact ⟨⟨t, (State.bump_sport_ _ _ _ _).trans port⟩, out⟩

theorem syResend_syWork (s : State) (p : Nat) (l : List SFrame) : SyWork s (s.syResend p l) :=
  (foldl_rel SyWork.refl SyWork.trans (fun u g => (syEmit_portsOnly u p g).syWork) l s).trans (bump_only _ _ _).syWork

theorem syNaked_spec (s : State) (p : Nat) (nak : Bool) (l : List SFrame) : SyWork s (s.syNaked p nak l)
    ∧ (∃ t, (s.syNaked p nak l).sport p = { s.sport p with lastTx := t })
    ∧ (s.syNaked p nak l).sy.out = s.sy.out ++ (if nak then l.map fun g => (p, g) else []) := by
  cases nak with
  | false => exact ⟨.refl s, ⟨(s.sport p).lastTx, rfl⟩, (List.append_nil _).symm⟩
  | true => exact ⟨syResend_syWork s p l, (syResend_spec s p l).1, (syResend_spec s p l).2⟩

/-- With no frame waiting a port notes its stalled channels, and no more. -/
theorem syPump_of_empty {s : State} {p : Nat} (empty : (s.sport p).txq = []) : s.syPump p = s.syMarkStall p := by
  rw [State.syPump, empty]
  refine congrArg (State.syMarkStall · p) ?_
  unfold syDrain
  dsimp only
  rw [empty, List.find?_nil, ite_self]

theorem syMarkStall_spec (s : State) (p : Nat) : (∃ z, (s.syMarkStall p).sport p = { s.sport p with zeroSince := z })
    ∧ (s.syMarkStall p).sy.out = s.sy.out :=
  ⟨⟨_, by rw [State.syMarkStall, State.sport_modSport_same]⟩, rfl⟩

section
variable {s : State} {p : SPort} {f : SFrame} {c : Fec} (up : s.spState p = spUp) (type : f.type = 0) (good : c.uncorr = 0)
  (crc : f.crc = sCrc f) (short : f.payload.length ≤ 2048) (stays : f.aux / 2 ^ 14 % 8 = 0)
include up type good crc short stays

theorem syLinkCtrl_kept (empty : (s.sport p).txq = []) (few : ¬ (nbit f.aux 13 = true ∧ (s.sport p).limit ≤ linkNaks (s.sport p) f)) :
    ∃ u, exec (.syLinkCtrl p ⟨f, c⟩) s = .next u ∧ Apart s u ∧ (u.sport p).replay = linkLeft (s.sport p) f ∧ (u.sport p).lastRx = s.clk
      ∧ (u.sport p).credits = ((s.sport p).credits.mapIdx fun k c => c + num f.payload 0 8 / 2 ^ (12 * k) % 4096)
      ∧ u.sy.out = s.sy.out ++ (if nbit f.aux 13 then (linkLeft (s.sport p) f).map fun g => (p.val, g) else []) := by
  have port := linkTaken_sport s p c f
  have run := syLinkCtrl_taken up type good crc short stays
  rw [syHeard_sport, if_neg] at run
  · obtain ⟨work, ⟨t, held⟩, out⟩ := syNaked_spec (s.linkTaken p c f) p (nbit f.aux 13) (linkLeft { s.sport p with lastRx := s.clk } f)
    rw [port] at held
    rw [linkTaken_out] at out
    have idle : (((s.linkTaken p c f).syNaked p (nbit f.aux 13) (linkLeft { s.sport p with lastRx := s.clk } f)).sport p).txq = [] := by
      rw [held]
      exact empty
    rw [syPump_of_empty idle] at run
    obtain ⟨⟨z, marked⟩, out'⟩ := syMarkStall_spec
      ((s.linkTaken p c f).syNaked p (nbit f.aux 13) (linkLeft { s.sport p with lastRx := s.clk } f)) p
    rw [held] at marked
    refine ⟨_, run, (((linkTaken_syWork s p c f).trans work).trans (syMarkStall_portsOnly _ p).syWork).apart, ?_, ?_, ?_, out'.trans out⟩
    all_goals rw [marked]; rfl
  · rintro ⟨nak, many⟩
    rw [port] at many
    have count : (linkPort { s.sport p with lastRx := s.clk } f).nakCount = linkNaks (s.sport p) f := if_pos nak
    exact few ⟨nak, many.trans_eq count⟩

theorem syLinkCtrl_down (nak : nbit f.aux 13 = true) (many : (s.sport p).limit ≤ linkNaks (s.sport p) f) :
    ∃ u, exec (.syLinkCtrl p ⟨f, c⟩) s = .next u ∧ u.spState p = spDown
      ∧ u.get (SY_PORT_STATUS p) SY_PORT_STATUS.LAST_DOWN = 3 ∧ (u.sport p).trainAt = s.clk + ms 100 := by
  have port := linkTaken_sport s p c f
  have run := syLinkCtrl_taken up type good crc short stays
  rw [syHeard_sport, if_pos, (linkTaken_syWork s p c f).clk] at run
  · exact ⟨_, run, dropLater_shown (s.linkTaken p c f) p (by decide : 3 < 8) (s.clk + ms 100) false⟩
  · rw [port]
    have count : (linkPort { s.sport p with lastRx := s.clk } f).nakCount = linkNaks (s.sport p) f := if_pos nak
    exact ⟨nak, many.trans_eq count.symm⟩

end

/-- Settles O31: LINK_CTRL by what it takes of the port, a frame by its guards, what is due by `sendSyCtrl`. -/
theorem sirdyFramesComplete : Obligations.SirdyFramesComplete := by
  intro p f c s up v s0 clear
  refine ⟨fun type good crc short stays empty => ⟨?_, ?_⟩, fun type good crc seq legal => ?_, fun type good crc => ?_,
    fun type bad => syDataReceive_bad up type bad, fun due => ?_, fun quiet => ?_⟩
  · exact fun few => syLinkCtrl_kept up type good crc short stays empty few
  · exact fun nak many => syLinkCtrl_down up type good crc short stays nak many
  · obtain ⟨ports, rx, expect, ack⟩ := syTaken_spec s p c f
    exact ⟨_, syDataReceive_taken up type good crc seq legal, ports.with_sy _, congrArg (· ++ [(p.val, f)]) rx, expect, ack⟩
  · refine ⟨_, syDataReceive_type up type good crc, rfl, ?_⟩
    have apart : SY_PORT_DROP p ∉ syFecAddrs p := by
      simp only [syFecAddrs, SY_PORT_DROP, SY_PORT_FEC_CORR, SY_PORT_FEC_UNCORR, List.mem_cons, List.not_mem_nil, or_false]
      omega
    rw [State.get_bump_same, State.syHeard, modSport_get, (syFec_keepsRegs s p c).get apart]
  · obtain ⟨only, due', out, -⟩ := sendSyCtrl_spec s p 0
    exact ⟨_, syAckDue_spec up due, only, due', out⟩
  · obtain ⟨only, due', out, sent⟩ := sendSyCtrl_spec s p 0
    exact ⟨_, syKeepalive_spec up quiet, only, due', out, sent⟩

end Sys2Proof.Machine
end

section
/-! SUPPORT. Management, console lines and the FIFOs (R296, R297, R299, R300, R343): what a frame that is taken makes of them. -/

namespace Sys2Proof.Machine

/-! ### Reads and writes (R296) -/

section
variable {s s1 : State} {p : Nat} {f : SFrame} (free : s.svc.fwTo = none)
include free

/-- While no hand-over runs, a frame is looked for. -/
theorem takeSy_of_free {ok : Nat → SFrame → Bool} {r : Option (Nat × SFrame × State)} (taken : s.takeSy ok = r) :
    (if s.svc.fwTo.isSome then none else s.takeSy ok) = r := by
  rw [free]
  exact taken

section
variable (taken : s.takeSy (fun _ f => f.ch = 2 && f.op = 0) = some (p, f, s1))
include taken

theorem mgmtRead_of_busy (busy : s1.lnBusy = true) : exec .mgmtRead s = .next (s1.mgmtRespond p f.tag 3 []) := by
  rw [show exec .mgmtRead s = execMgmtRead s from rfl, execMgmtRead, takeSy_of_free free taken]
  exact if_pos busy

theorem mgmtRead_of_malformed (ready : s1.lnBusy = false) (malformed : f.payload.length ≠ 8 ∨ num f.payload 0 8 % 8 ≠ 0) :
    exec .mgmtRead s = .next (s1.mgmtRespond p f.tag 4 []) := by
  rw [show exec .mgmtRead s = execMgmtRead s from rfl, execMgmtRead, takeSy_of_free free taken]
  exact (if_neg (by rw [ready]; decide)).trans (if_pos malformed)

theorem mgmtRead_of_formed (ready : s1.lnBusy = false) (long : f.payload.length = 8) (aligned : num f.payload 0 8 % 8 = 0) :
    (s1.hostReg (num f.payload 0 8) = none → exec .mgmtRead s = .next (s1.mgmtRespond p f.tag 1 []))
      ∧ ∀ v s2, s1.hostReg (num f.payload 0 8) = some (v, s2) →
        exec .mgmtRead s = .next (s2.mgmtRespond p f.tag 0 (toBytes 8 v.toNat)) := by
  have formed : ¬ (f.payload.length ≠ 8 ∨ num f.payload 0 8 % 8 ≠ 0) := by simp [long, aligned]
  rw [show exec .mgmtRead s = execMgmtRead s from rfl, execMgmtRead, takeSy_of_free free taken]
  refine ⟨fun unlisted => ?_, fun v s2 listed => ?_⟩
  · refine (if_neg (by rw [ready]; decide)).trans ((if_neg formed).trans ?_)
    rw [unlisted]
  · refine (if_neg (by rw [ready]; decide)).trans ((if_neg formed).trans ?_)
    rw [listed]

end

theorem mgmtWrite_of_taken (taken : s.takeSy (fun _ f => f.ch = 2 && f.op = 1) = some (p, f, s1)) :
    exec .mgmtWrite s = if s1.lnBusy then .next (s1.mgmtRespond p f.tag 3 [])
      else if f.payload.length ≠ 16 ∨ num f.payload 0 8 % 8 ≠ 0 then .next (s1.mgmtRespond p f.tag 4 [])
      else if (regRow (num f.payload 0 8)).isNone then .next (s1.mgmtRespond p f.tag 1 [])
      else if !hostMayWrite (num f.payload 0 8) then .next (s1.mgmtRespond p f.tag 2 [])
      else .next ((s1.syWrite (num f.payload 0 8) (BitVec.ofNat 64 (num f.payload 8 8))).mgmtRespond p f.tag 0 []) := by
  rw [show exec .mgmtWrite s = execMgmtWrite s from rfl, execMgmtWrite, takeSy_of_free free taken]

theorem mgmtCommand_of_taken (taken : s.takeSy (fun _ f => f.ch = 2 && f.op = 2) = some (p, f, s1)) :
    exec .mgmtCommand s = if s1.lnBusy then .next (s1.mgmtRespond p f.tag 3 [])
      else if f.payload.isEmpty ∨ f.payload.any (fun b => 128 ≤ b.toNat) then .next (s1.mgmtRespond p f.tag 4 [])
      else .next ((s1.modSvc fun v => { v with mgmtTag := v.mgmtTag ++ [(p, f.tag)] }).submit .mgmt f.payload) := by
  rw [show exec .mgmtCommand s = execMgmtCommand s from rfl, execMgmtCommand, takeSy_of_free free taken]

end

/-! ### Lines (R297, R339, R340) -/

/-- A line is put behind those of its session. -/
def State.queueLine (s : State) (c : Session) (l : List Byte) : State := s.modSvc fun v => { v with lines := v.lines ++ [(c, l)] }

section
variable {s : State} {c : Session} {l : List Byte} (first : ∀ x ∈ s.svc.lines, x.1 ≠ c)
include first

theorem queueLine_find : (s.queueLine c l).svc.lines.find? (fun x => x.1 == c) = some (c, l) := by
  have none_ : s.svc.lines.find? (fun x => x.1 == c) = none :=
    List.find?_eq_none.2 fun x listed => by simpa using first x listed
  rw [State.queueLine, State.modSvc_svc, List.find?_append, none_, Option.none_or]
  simp

theorem queueLine_headLine : (s.queueLine c l).headLine c = some l := by
  rw [State.headLine, queueLine_find first]
  rfl

/-- The first line of a session that spells a command waits for it. -/
theorem submit_of_ok {i : Instr} (spells : lineCmd c l = .ok i) : s.submit c l = s.queueLine c l := by
  have fits : (s.queueLine c l).lineError c = none := by
    simp only [State.lineError, queueLine_headLine first, spells]
  rw [State.submit, ← State.queueLine, dropUnknown, fits]

/-- The line taken is the one that was put there. -/
theorem queueLine_takeLine : ((s.queueLine c l).takeLine c).svc.lines = s.svc.lines
    ∧ ((s.queueLine c l).takeLine c).svc.replies = s.svc.replies := by
  have out : (c, l) ∉ s.svc.lines := fun listed => first _ listed rfl
  rw [State.takeLine, queueLine_find first]
  refine ⟨?_, rfl⟩
  show (s.svc.lines ++ [(c, l)]).erase (c, l) = s.svc.lines
  rw [List.erase_append_right _ out]
  simp

/-- One that spells none is answered with its code at once. -/
theorem submit_of_error {e : Nat} (spells : lineCmd c l = .error e) (served : s.served c = true) :
    s.submit c l = ((s.queueLine c l).takeLine c).replyOne c [] [] e "" := by
  have fits : (s.queueLine c l).lineError c = some e := by
    simp only [State.lineError, queueLine_headLine first, spells]
  have same : (s.queueLine c l).served c = true := served
  rw [State.submit, ← State.queueLine, dropUnknown, fits]
  dsimp only
  rw [if_pos same, dropUnknown]

end

theorem replyOne_lines (s : State) (c : Session) (vals : List Word) (data : List Byte) (code : Nat) (text : String) :
    (s.replyOne c vals data code text).svc.lines = s.svc.lines := by
  have sent (u : State) (q : Nat) (f : SFrame) : (u.sySend q f).svc = u.svc := by
    obtain ⟨y, k, e⟩ := sySend_portsOnly u q f
    rw [e]
  unfold State.replyOne
  extract_lets u lines
  have same : u.svc.lines = s.svc.lines := rfl
  clear_value u
  split
  · exact same
  · exact (congrArg Svc.lines (foldl_rel (R := fun s u : State => u.svc = s.svc) (fun _ => rfl) (fun h g => g.trans h)
      (fun u x => sent u _ _) _ u)).trans same
  · split
    · exact same
    · exact (congrArg Svc.lines (sent _ _ _)).trans same

theorem mgmtCommand_submits {s1 : State} {p : Nat} {f : SFrame} (first : ∀ x ∈ s1.svc.lines, x.1 ≠ .mgmt) :
    let s2 := s1.modSvc fun v => { v with mgmtTag := v.mgmtTag ++ [(p, f.tag)] }
    (∀ i, lineCmd .mgmt f.payload = .ok i → s2.submit .mgmt f.payload = { s1 with svc := { s1.svc with
        lines := s1.svc.lines ++ [(.mgmt, f.payload)], mgmtTag := s1.svc.mgmtTag ++ [(p, f.tag)] } })
      ∧ ∀ e, lineCmd .mgmt f.payload = .error e → s1.served .mgmt = true →
        (s2.submit .mgmt f.payload).svc.replies = s1.svc.replies ++ [⟨.mgmt, [], [], e⟩]
          ∧ (s2.submit .mgmt f.payload).svc.lines = s1.svc.lines := by
  intro s2
  have first' : ∀ x ∈ s2.svc.lines, x.1 ≠ .mgmt := first
  refine ⟨fun i spells => submit_of_ok first' spells, fun e spells served => ?_⟩
  have served' : s2.served .mgmt = true := served
  obtain ⟨lines, replies⟩ := queueLine_takeLine (l := f.payload) first'
  rw [submit_of_error first' spells served', replyOne_lines]
  refine ⟨?_, lines⟩
  rw [(replyOne_answers _ .mgmt [] [] e "").2, replies]
  rfl

/-! ### A character of a session (R339) -/

section character

variable {s : State} {c : Session} {typed : List Byte} {ch : Byte} (first : ∀ x ∈ s.svc.lines, x.1 ≠ c)

include first

/-- A character that ends no line is kept while the line has room. -/
theorem lineChar_typed {bad : Bool} (inside : ch ≠ 13 ∧ ch ≠ 10) (room : typed.length < 1024) :
    s.lineChar c typed bad ch = (s, typed ++ [ch], bad) := by
  have idle : (s.svc.lines.any fun x => x.1 == c) = false :=
    List.any_eq_false.2 fun x listed => by simpa using first x listed
  unfold State.lineChar
  rw [idle]
  exact (if_neg (not_or.2 inside)).trans ((if_neg (by simp)).trans (if_neg (by omega)))

/-- The end of a line that spells a command submits it. -/
theorem lineChar_ends {i : Instr} (ending : ch = 13 ∨ ch = 10) (some_ : typed ≠ []) (short : typed.length ≤ 255)
    (spells : lineCmd c typed = .ok i) : s.lineChar c typed false ch = (s.queueLine c typed, [], false) := by
  unfold State.lineChar
  rw [submit_of_ok first spells]
  exact (if_pos ending).trans ((if_neg (by simp [some_])).trans (if_neg (by simpa using short)))

end character

/-! ### The tunnel's characters (R297) -/

/-- The tunnel takes one character. -/
def State.consChar (s : State) (ch : Byte) : State :=
  let (s, l, b) := s.lineChar .tunnel s.svc.consBuf s.svc.consBad ch
  s.modSvc fun v => { v with consBuf := l, consBad := b }

/-- The line being typed in the tunnel grows. -/
def State.typeMore (s : State) (l : List Byte) : State := s.modSvc fun v => { v with consBuf := v.consBuf ++ l }

/-- A character that ends no line is kept while the line has room. -/
theorem consChar_typed {s : State} {ch : Byte} (first : ∀ x ∈ s.svc.lines, x.1 ≠ .tunnel) (inside : ch ≠ 13 ∧ ch ≠ 10)
    (room : s.svc.consBuf.length < 1024) : s.consChar ch = s.typeMore [ch] := by
  rw [State.consChar, lineChar_typed first inside room]
  rfl

theorem foldl_consChar (l : List Byte) {s : State} (first : ∀ x ∈ s.svc.lines, x.1 ≠ .tunnel) (inside : ∀ b ∈ l, b ≠ 13 ∧ b ≠ 10)
    (room : s.svc.consBuf.length + l.length ≤ 1024) : l.foldl State.consChar s = s.typeMore l := by
  induction l generalizing s with
  | nil => simp [State.typeMore, State.modSvc]
  | cons ch l ih =>
    rw [List.length_cons] at room
    have room' : (s.typeMore [ch]).svc.consBuf.length + l.length ≤ 1024 := by
      rw [State.typeMore, State.modSvc_svc, List.length_append, List.length_singleton]
      omega
    rw [List.foldl_cons, consChar_typed first (inside ch List.mem_cons_self) (by omega),
      ih (s := s.typeMore [ch]) first (fun b listed => inside b (List.mem_cons_of_mem _ listed)) room']
    simp [State.typeMore, State.modSvc]

/-- The end of a line that spells a command submits it. -/
theorem consChar_ends {s : State} {x : Byte} {l : List Byte} {i : Instr} (buf : s.svc.consBuf = l) (sound : s.svc.consBad = false)
    (first : ∀ x ∈ s.svc.lines, x.1 ≠ .tunnel) (ending : x = 13 ∨ x = 10) (typed : l ≠ []) (short : l.length ≤ 255)
    (spells : lineCmd .tunnel l = .ok i) :
    s.consChar x = (s.queueLine .tunnel l).modSvc fun v => { v with consBuf := [], consBad := false } := by
  rw [State.consChar, buf, sound, lineChar_ends first ending typed short spells]

theorem cons_of_line {s s1 : State} {p : Nat} {f : SFrame} {x : Byte} {l : List Byte} {i : Instr}
    (taken : s.takeSy (fun _ f => f.ch = 3) = some (p, f, s1)) (stage : 2 ≤ s1.get LN_BOOT LN_BOOT.STAGE)
    (inside : ∀ b ∈ l, b ≠ 13 ∧ b ≠ 10) (ending : x = 13 ∨ x = 10) (payload : f.payload = l ++ [x]) (typed : l ≠ []) (short : l.length ≤ 255)
    (spells : lineCmd .tunnel l = .ok i) (empty : s1.svc.consBuf = []) (sound : s1.svc.consBad = false)
    (first : ∀ x ∈ s1.svc.lines, x.1 ≠ .tunnel) :
    exec .cons s = .next { s1 with svc := { s1.svc with lines := s1.svc.lines ++ [(.tunnel, l)] } } := by
  have run : exec .cons s = .next (f.payload.foldl State.consChar s1) := by
    rw [show exec .cons s = execCons s from rfl, execCons, taken]
    exact if_neg (Nat.not_lt.2 stage)
  have kept : l.foldl State.consChar s1 = s1.typeMore l :=
    foldl_consChar l first inside (by rw [empty, List.length_nil]; omega)
  have buf : (s1.typeMore l).svc.consBuf = l := by rw [State.typeMore, State.modSvc_svc, empty, List.nil_append]
  rw [run, payload, List.foldl_append, kept, List.foldl_cons, List.foldl_nil, consChar_ends buf sound first ending typed short spells]
  simp [State.queueLine, State.typeMore, State.modSvc, empty, sound]

/-! ### The FIFOs (R299, R300) -/

theorem showFifo_logs (s : State) : s.showFifo.logs = s.logs := by
  obtain ⟨r, e⟩ := showFifo_only s
  rw [e]

/-- What the host's read returned stands beside the registers (R300). -/
def State.readBy (s : State) (w : Word) : State := { s with hostRead := w }

theorem KeepsRegs.readBy {q : Nat → Prop} {s u : State} (h : KeepsRegs q s u) (w : Word) : KeepsRegs q s (u.readBy w) := h

theorem readBy_logs (s : State) (w : Word) : (s.readBy w).logs = s.logs := rfl

theorem readBy_reg (s : State) (w : Word) (a : Nat) : (s.readBy w).reg a = s.reg a := rfl

theorem showFifo_spec (s : State) : KeepsRegs (· = SY_FIFO_LEVEL) s s.showFifo
    ∧ s.showFifo.get SY_FIFO_LEVEL SY_FIFO_LEVEL.MBOX_IN = s.logs.fifoIn.length % 2 ^ 9 := by
  refine ⟨?_, ?_⟩
  · exact ((set_keepsOthers s SY_FIFO_LEVEL _ _).trans (set_keepsOthers _ SY_FIFO_LEVEL _ _)).trans (set_keepsOthers _ SY_FIFO_LEVEL _ _)
  · rw [State.showFifo, State.get_set_other _ _ _ _ _ _ (by decide) (.inr (by decide)),
      State.get_set_other _ _ _ _ _ _ (by decide) (.inr (by decide)), State.get_set_same _ _ _ _ (by decide)]
    rfl

/-- A mailbox with room and no gap marker at its end takes the item. -/
theorem fifoPush_of_room {q : List Item} {x : Item} {depth : Nat} (room : q.length + 1 < depth)
    (sound : ∀ l, q.getLast? = some l → nbit l.word.toNat 62 = false) : fifoPush depth q x = q ++ [x] := by
  unfold fifoPush
  split
  · next l last =>
    rw [if_neg (by rw [sound l last]; decide), if_neg (by omega)]
  · rfl

theorem pushed_only (s : State) (g : Logs → Logs) : (s.modLogs g).showFifo
    = { s with regs := (s.modLogs g).showFifo.regs, logs := (s.modLogs g).showFifo.logs } := by
  obtain ⟨r, e⟩ := showFifo_only (s.modLogs g)
  rw [e]
  rfl

theorem syMboxIn_spec {s : State} (v : BitVec 62) (room : s.logs.fifoIn.length < 255)
    (sound : ∀ x, s.logs.fifoIn.getLast? = some x → nbit x.word.toNat 62 = false) :
    ∃ u, exec (.syMboxIn v) s = .next u ∧ u = { s with regs := u.regs, logs := u.logs }
      ∧ u.logs = { s.logs with fifoIn := s.logs.fifoIn ++ [⟨itemWord v.toNat, s.now, none, false⟩] }
      ∧ KeepsRegs (· = SY_FIFO_LEVEL) s u ∧ u.get SY_FIFO_LEVEL SY_FIFO_LEVEL.MBOX_IN = s.logs.fifoIn.length + 1 := by
  have run : exec (.syMboxIn v) s
      = .next (s.modLogs fun l => { l with fifoIn := s.logs.fifoIn ++ [⟨itemWord v.toNat, s.now, none, false⟩] }).showFifo := by
    rw [show exec (.syMboxIn v) s = execSyMboxIn v s from rfl, execSyMboxIn, State.mboxPush]
    rw [← fifoPush_of_room (depth := 256) (by omega) sound]
    rfl
  obtain ⟨kept, level⟩ :=
    showFifo_spec (s.modLogs fun l => { l with fifoIn := s.logs.fifoIn ++ [⟨itemWord v.toNat, s.now, none, false⟩] })
  refine ⟨_, run, pushed_only s _, showFifo_logs _, (modLogs_keepsRegs _ s _).trans kept, level.trans ?_⟩
  rw [State.modLogs_logs, List.length_append, List.length_singleton]
  exact Nat.mod_eq_of_lt (by omega)

theorem syMboxOut_spec {s : State} {x : Item} {r : List Item} (head : s.logs.fifoOut = x :: r) (none_ : s.svc.mboxWait = []) :
    ∃ u, exec .syMboxOut s = .next u ∧ u.hostRead = x.word ∧ u.logs = { s.logs with fifoOut := r } ∧ KeepsRegs (· = SY_FIFO_LEVEL) s u := by
  have run : exec .syMboxOut s = .next ((s.modLogs fun l => { l with fifoOut := r }).showFifo.readBy x.word) := by
    rw [show exec .syMboxOut s = execSyMboxOut s from rfl, execSyMboxOut, State.mboxPop, head, none_]
    rfl
  obtain ⟨kept, -⟩ := showFifo_spec (s.modLogs fun l => { l with fifoOut := r })
  exact ⟨_, run, rfl, (readBy_logs _ _).trans (showFifo_logs _), ((modLogs_keepsRegs _ s _).trans kept).readBy _⟩

/-- An event is taken from the FIFO, its time latched. -/
def State.evtTaken (s : State) (x : Item) : State :=
  ((s.modLogs fun l => { l with evts := l.evts.erase x }).showFifo).setReg SY_EVT_TIME (BitVec.ofNat 64 x.time)

theorem evtTaken_spec (s : State) (x : Item) : (s.evtTaken x).logs = { s.logs with evts := s.logs.evts.erase x }
    ∧ (s.evtTaken x).reg SY_EVT_TIME = BitVec.ofNat 64 x.time
    ∧ KeepsRegs (fun a => a = SY_FIFO_LEVEL ∨ a = SY_EVT_TIME) s (s.evtTaken x) := by
  obtain ⟨kept, -⟩ := showFifo_spec (s.modLogs fun l => { l with evts := l.evts.erase x })
  refine ⟨?_, State.reg_setReg_same _ _ _, ?_⟩
  · rw [State.evtTaken, State.setReg_logs, showFifo_logs, State.modLogs_logs]
  · exact ((modLogs_keepsRegs _ s _).trans (kept.mono fun _ => .inl)).trans (setReg_keepsRegs (.inr rfl) _ _)

theorem syEvtPop_spec {s : State} {x : Item} (first : (s.logs.evts.find? fun x => x.sent.isNone && !x.resend) = some x) :
    ∃ u, exec .syEvtPop s = .next u ∧ u.hostRead = x.word ∧ u.logs = { s.logs with evts := s.logs.evts.erase x }
      ∧ u.reg SY_EVT_TIME = BitVec.ofNat 64 x.time ∧ KeepsRegs (fun a => a = SY_FIFO_LEVEL ∨ a = SY_EVT_TIME) s u := by
  have run : exec .syEvtPop s = .next ((s.evtTaken x).readBy x.word) := by
    simp only [show exec .syEvtPop s = execSyEvtPop s from rfl, execSyEvtPop, State.evtPop, first]
    rfl
  obtain ⟨logs, time, kept⟩ := evtTaken_spec s x
  exact ⟨_, run, rfl, (readBy_logs _ _).trans logs, (readBy_reg _ _ _).trans time, kept.readBy _⟩

/-- Settles O34: each operation by its guards, a line by whether it spells a command, the FIFOs by their ends. -/
theorem managementComplete : Obligations.ManagementComplete := by
  intro s p f s1
  refine ⟨fun free taken => ⟨mgmtRead_of_busy free taken, mgmtRead_of_malformed free taken, mgmtRead_of_formed free taken⟩,
    fun free taken ready long aligned listed => ?_, fun free taken ready => ⟨fun bad => ?_, fun typed ascii first => ?_⟩,
    fun x l taken stage inside ending payload typed short spells empty sound first => ?_, syMboxIn_spec,
    fun x r head none_ => syMboxOut_spec head none_, fun x first => syEvtPop_spec first⟩
  · have run := mgmtWrite_of_taken free taken
    have formed : ¬ (f.payload.length ≠ 16 ∨ num f.payload 0 8 % 8 ≠ 0) := by simp [long, aligned]
    rw [if_neg (by rw [ready]; decide), if_neg formed, if_neg (by simpa using Option.isSome_iff_ne_none.1 listed)] at run
    refine ⟨fun no => ?_, fun yes => ?_⟩
    · rw [run, no]
      rfl
    · rw [run, yes]
      rfl
  · have run := mgmtCommand_of_taken free taken
    rw [if_neg (by rw [ready]; decide), if_pos (by simpa using bad)] at run
    exact run
  · have run := mgmtCommand_of_taken free taken
    rw [if_neg (by rw [ready]; decide), if_neg (by simpa using ⟨typed, ascii⟩)] at run
    exact ⟨_, run, mgmtCommand_submits first⟩
  · obtain ⟨i, spells⟩ := spells
    exact ⟨_, cons_of_line taken stage inside ending payload typed short spells empty sound first, rfl⟩

end Sys2Proof.Machine
end

section
/-! SUPPORT. Submissions (R290 to R293, R300, R322): OPEN, MORE and CANCEL by the frame that is taken, and the frames that leave. -/

namespace Sys2Proof.Machine

/-! ### OPEN (R290, R291) -/

section
variable {s s1 : State} {p : SPort} {q : Nat} {f : SFrame}

section
variable (taken : s.takeSy (fun q f => q = p.val && f.ch = 0 && f.op = 0) = some (q, f, s1))
include taken

theorem open_of_taken : exec (.open_ p) s
    = if s1.noEntry ≠ 0 then .next (s1.refuse p f.tag s1.noEntry)
      else if 16 ≤ (s1.disp.subs.filter fun x => x.port = p.val).length then .next (s1.refuse p f.tag refTooMany)
      else if (s1.disp.subs.filter fun x => x.port = p.val).any (fun x => x.tag = f.tag)
          ∨ s1.disp.reqs.any (fun r => r.port = p.val ∧ r.tag = f.tag) then
        .next (s1.refuse p f.tag refBadField)
      else .next (s1.trySub ⟨p, f.tag, f.payload.take 32, payIds (f.payload.drop 32), s1.clk⟩) := by
  rw [show exec (.open_ p) s = execOpen p s from rfl, execOpen, taken]

end

/-- Whether the tag is taken, as the model asks it. -/
theorem tag_taken_iff : ((s1.disp.subs.filter fun x => x.port = p.val).any (fun x => x.tag = f.tag) = true
      ∨ s1.disp.reqs.any (fun r => r.port = p.val ∧ r.tag = f.tag) = true)
    ↔ (∃ x ∈ s1.disp.subs.filter fun x => x.port = p.val, x.tag = f.tag) ∨ ∃ r ∈ s1.disp.reqs, r.port = p.val ∧ r.tag = f.tag := by
  simp only [List.any_eq_true, decide_eq_true_eq]

/-! ### MORE and CANCEL (R290, R292) -/

theorem more_of_taken {x : Sub} (taken : s.takeSy (fun q f => q = p.val && f.ch = 0 && f.op = 1) = some (q, f, s1))
    (entry : s1.noEntry = 0) (found : (s1.disp.subs.find? fun x => x.port = p.val ∧ x.tag = f.tag) = some x) :
    exec (.more p) s = .next (s1.trySub { x with ids := x.ids ++ payIds f.payload, since := s1.clk }) := by
  rw [show exec (.more p) s = execMore p s from rfl, execMore, taken]
  refine (if_neg (not_not.2 entry)).trans ?_
  rw [found]

theorem cancel_of_running {r : Req} (taken : s.takeSy (fun q f => q = p.val && f.ch = 0 && f.op = 2) = some (q, f, s1))
    (entry : s1.noEntry = 0) (closed : ∀ x ∈ s1.disp.subs, ¬ (x.port = p.val ∧ x.tag = f.tag))
    (found : (s1.disp.reqs.find? fun r => r.port = p.val ∧ r.tag = f.tag) = some r) :
    let s2 := s1.modReq r.id fun r => { r with cancelled := true }
    exec (.cancel p) s = .next (if s2.disp.tickets.any (fun x => x.2.1 = r.id) then s2 else (s2.endReq r 2 0 false).pump) := by
  intro s2
  rw [show exec (.cancel p) s = execCancel p s from rfl, execCancel, taken]
  refine (if_neg (not_not.2 entry)).trans ((if_neg ?_).trans ?_)
  · simpa using closed
  · rw [found]
    exact (apply_ite Host.Outcome.next _ _ _).symm

end

/-! ### No MORE in time (R291) -/

/-- An open submission is discarded. -/
def State.closeSub (s : State) (p tag : Nat) : State :=
  s.modDisp fun d => { d with subs := d.subs.filter fun y => !(y.port = p && y.tag = tag) }

theorem submissionIncomplete_spec {s : State} {p : SPort} {tag : BitVec 32} {x : Sub}
    (found : (s.disp.subs.find? fun x => x.port = p.val ∧ x.tag = tag.toNat) = some x) (late : ms 100 ≤ s.clk - x.since) :
    ∃ u rec, exec (.submissionIncomplete p tag) s = .next u ∧ Apart s u ∧ u.disp.toks = s.disp.toks ++ [rec]
      ∧ rec.kind = 3 ∧ rec.reason = refIncomplete ∧ rec.tag = x.tag ∧ rec.port = p.val
      ∧ (∀ y ∈ u.disp.subs, ¬ (y.port = p.val ∧ y.tag = tag.toNat))
      ∧ u.get SY_REFUSALS count32 = min (s.get SY_REFUSALS count32 + 1) 0xFFFFFFFF := by
  have run : exec (.submissionIncomplete p tag) s = .next ((s.closeSub p tag.toNat).refuse p x.tag refIncomplete).showReqs := by
    rw [show exec (.submissionIncomplete p tag) s = execSubmissionIncomplete p tag s from rfl, execSubmissionIncomplete, found]
    exact if_neg (Nat.not_lt.2 late)
  obtain ⟨r, shown⟩ := showReqs_only ((s.closeSub p tag.toNat).refuse p x.tag refIncomplete)
  have count : ((s.closeSub p tag.toNat).refuse p x.tag refIncomplete).showReqs.get SY_REFUSALS count32
      = min (s.get SY_REFUSALS count32 + 1) 0xFFFFFFFF := by
    rw [State.showReqs, State.get_set_ne _ _ _ _ (by decide), State.get_set_ne _ _ _ _ (by decide), State.refuse, State.get_bump_same]
    rfl
  rw [shown] at run count
  refine ⟨_, ⟨p, 3, refIncomplete, 0, 0xFFFFFFFF, x.tag, 0, s.now, [], s.clk⟩, run, ⟨rfl, rfl, rfl, rfl, rfl⟩, rfl, rfl, rfl, rfl, rfl, ?_, count⟩
  intro y listed
  have kept := (List.mem_filter.1 listed).2
  rintro ⟨port, same⟩
  simp [port, same] at kept

/-! ### Frames that leave (R293, R300) -/

theorem tokFrameSend_of_up {s : State} {p : SPort} (up : s.spState p = spUp) :
    let mine := s.disp.toks.filter fun r => r.port = p.val
    let rs := packToks mine.length 2048 mine
    let f := mkData 1 0 0 0 (rs.flatMap tokBytes)
    rs ≠ [] → sUnits f ≤ (s.sport p).credits.getD 1 0 →
      let s1 := s.modDisp fun d => { d with toks := rs.foldl (fun l r => l.erase r) d.toks }
      let s2 := rs.foldl (fun (s : State) r => s.modReq r.req fun q => { q with held := q.held - r.ids.length }) s1
      exec (.tokFrameSend p) s = .next ((s2.sySend p f).pump) := by
  intro mine rs f some_ credit s1 s2
  have run : exec (.tokFrameSend p) s = execTokFrameSend p s := rfl
  exact run.trans (if_neg (by simp only [not_or, not_not, List.isEmpty_iff]; exact ⟨up, some_, Nat.not_lt.2 credit⟩))

theorem evtFrameSend_of_up {s : State} {i : Nat} {x : Item} (first : (s.logs.evts.findIdx? fun x => x.sent.isNone) = some i)
    (at_ : s.logs.evts[i]? = some x) :
    let p := s.svcPort
    let v := s.sport p
    let f := mkData 4 0 0 0 (toBytes 8 x.word.toNat ++ toBytes 8 x.time)
    s.spState p = spUp → sUnits f ≤ v.credits.getD 4 0 → v.replay.length < 1024 →
      exec .evtFrameSend s = .next
        ((s.modLogs fun l => { l with evts := l.evts.set i { x with sent := some v.sendSeq, resend := false } }).sySend p f) := by
  intro p v f up credit room
  rw [show exec .evtFrameSend s = execEvtFrameSend s from rfl, execEvtFrameSend]
  simp only [first, at_]
  exact if_neg (by simp only [not_or, not_not]; exact ⟨up, Nat.not_lt.2 credit, Nat.not_le.2 room⟩)

/-- Settles O33: each command by the frame or the submission that it takes. -/
theorem submissionsComplete : Obligations.SubmissionsComplete := by
  intro p s q f s1
  refine ⟨fun taken => ⟨fun refused => ?_, fun entry many => ?_, fun entry few fresh free => ?_, fun entry few used => ?_⟩,
    fun x taken entry found => more_of_taken taken entry found, fun r taken entry closed found => cancel_of_running taken entry closed found,
    fun tag x found late => submissionIncomplete_spec found late, fun up => tokFrameSend_of_up up,
    fun i x first at_ => evtFrameSend_of_up first at_⟩
  · exact (open_of_taken taken).trans (if_pos refused)
  · exact (open_of_taken taken).trans ((if_neg (not_not.2 entry)).trans (if_pos many))
  · refine (open_of_taken taken).trans ((if_neg (not_not.2 entry)).trans ((if_neg (Nat.not_le.2 few)).trans (if_neg ?_)))
    rw [tag_taken_iff]
    rintro (⟨x, listed, same⟩ | ⟨r, listed, same⟩)
    · exact fresh x listed same
    · exact free r listed same
  · exact (open_of_taken taken).trans ((if_neg (not_not.2 entry)).trans ((if_neg (Nat.not_le.2 few)).trans
      (if_pos (tag_taken_iff.2 used))))

end Sys2Proof.Machine
end

section
/-! SUPPORT. The cask's commands (R305, R307 to R310, R313): what a page that is read leaves, the patrol, wear levelling, retirement and
storing. -/

namespace Sys2Proof.Machine

/-! ### A page that is read (R305, R310) -/

section
variable (s : State) (b page : Nat) (patrol : Bool)

/-- A page of which every codeword could be decoded leaves what its codewords leave. -/
theorem pageFound_of_decoded {found : List CwFind} (decoded : badCws found = []) : s.pageFound b page patrol found
    = (found.take 4).zipIdx.foldl (fun (s : State) x => s.cwFound b page x.2 patrol x.1) s := by
  rw [State.pageFound, decoded]
  rfl

theorem pageFound_nil : s.pageFound b page patrol [] = s := pageFound_of_decoded s b page patrol (by decide)

theorem pageFound_corrected (half : Bool) :
    s.pageFound b page patrol [.corrected half] = (s.bump CK_LDPC_CORR 1).caskErr b page 0 false patrol :=
  pageFound_of_decoded s b page patrol (by cases half <;> decide)

theorem pageFound_retried : s.pageFound b page patrol [.retried]
    = ((s.bump CK_LDPC_RETRY 1).tallyX 0xD03 (blockDie b / 4) 1).caskErr b page 0 false patrol :=
  pageFound_of_decoded s b page patrol (by decide)

theorem pageFound_uncorrectable {t : Nat × Nat} (unit : ((((s.bump CK_UNCORR 1).caskErr b page 0 true patrol).nand b).units)[page / 64]? = some t)
    (counts : kfind ((s.bump CK_UNCORR 1).caskErr b page 0 true patrol).cask.map t.1 = some t.2) :
    s.pageFound b page patrol [.uncorrectable]
      = (((s.bump CK_UNCORR 1).caskErr b page 0 true patrol).loseSectors t.1 [page % 64 * 4]).retireNand b := by
  have read : ([CwFind.uncorrectable].take 4).zipIdx.foldl (fun (s : State) x => s.cwFound b page x.2 patrol x.1) s
      = (s.bump CK_UNCORR 1).caskErr b page 0 true patrol := rfl
  have bad : badCws [.uncorrectable] = [0] := by decide
  unfold State.pageFound
  rw [read, bad]
  dsimp only
  rw [unit]
  exact (if_neg (by decide)).trans (congrArg (State.retireNand · b) (if_pos counts))

end

/-! ### The patrol and wear levelling (R307, R308) -/

theorem caskPatrolRead_of_next {s : State} {die plane block page : Nat} (found : List CwFind) (good : s.pw.good = true)
    (stage : 1 ≤ s.get LN_BOOT LN_BOOT.STAGE) (active : s.patrolDue.get CK_STATUS CK_STATUS.PATROL_ACTIVE = 1)
    (next : s.patrolDue.patrolNext = some (blockKey die plane block, page)) :
    let b := blockKey die plane block
    let s1 := (s.patrolDue.caskRead b 1).modCask fun c => { c with patrolAt := some (b, page) }
    let s2 := (s1.set CK_STATUS CK_STATUS.PATROL_ACTIVE (bit s1.patrolNext.isSome)).pageFound b page true found
    let weak : Bool := (found.take 4).any fun y => y == .retried || y == .corrected true
    exec (.caskPatrolRead die plane block page found) s
      = .next (if s2.disturbed b then s2.refreshNand b true
          else if weak || s.patrolDue.aged (s.patrolDue.nand b) then s2.refreshNand b false else s2) := by
  have run : exec (.caskPatrolRead die plane block page found) s = execCaskPatrolRead die plane block page found s := rfl
  refine run.trans ((if_neg ?_).trans (if_neg ?_))
  · rw [good]
    simp
    omega
  · rw [active, next]
    simp

theorem staticWearLevel_of_worn {s : State} {b f : Nat} {y : NBlock} (least : s.leastWorn = some (b, y)) (free : s.freeBlock true = some f)
    (writable : s.caskReadOnly = false) (good : s.pw.good = true) (stage : 1 ≤ s.get LN_BOOT LN_BOOT.STAGE)
    (spread : y.erases + 16 * s.get CK_CTRL CK_CTRL.WL_SPREAD < s.mostErases) :
    exec .staticWearLevel s = .next ((s.moveNand b f).eraseNand b).showCask := by
  rw [show exec .staticWearLevel s = execStaticWearLevel s from rfl, execStaticWearLevel, least, free]
  refine if_neg ?_
  rw [good, writable]
  simp
  omega

/-! ### Retirement (R310) -/

section
variable {s : State} {die plane block : Nat} (used : (s.nand (blockKey die plane block)).retired = false)
include used

theorem nandProgramFail_of_open (opened : s.cask.opened = some (blockKey die plane block)) :
    exec (.nandProgramFail die plane block) s = .next (s.retireNand (blockKey die plane block)) :=
  (show _ = execNandProgramFail die plane block s from rfl).trans (if_neg (by rw [used, opened]; simp))

theorem nandEraseFail_of_empty (empty : (s.nand (blockKey die plane block)).units = []) :
    exec (.nandEraseFail die plane block) s = .next (s.retireNand (blockKey die plane block)) :=
  (show _ = execNandEraseFail die plane block s from rfl).trans (if_neg (by rw [used, empty]; simp))

theorem nandUncorrRead_of_written {w : Word} {s1 : State} (written : (s.nand (blockKey die plane block)).units ≠ [])
    (free : s.free = (w, s1)) : exec (.nandUncorrRead die plane block) s
      = .next (s1.pageFound (blockKey die plane block) (w.toNat % ((s.nand (blockKey die plane block)).units.length * 64)) false
          ((List.range 4).map fun j => if j = w.toNat / 2 ^ 32 % 4 then .uncorrectable else .clean)) := by
  have run : exec (.nandUncorrRead die plane block) s = execNandUncorrRead die plane block s := rfl
  cases free
  exact run.trans (if_neg (by rw [used]; simpa using written))

end

/-! ### Storing (R313, R333) -/

section
variable {s : State} {t : Xfer} (open_ : s.svc.xfer = some t) (full : t.full = true)
include open_ full

theorem objectStore_fuseBuf (kind : t.kind = .fuseBuf) :
    exec (.objectStore ()) s = .next ((s.modSvc fun y => { y with fuseBuf := t.got }).endXfer t 0) := by
  rw [show exec (.objectStore ()) s = execObjectStore () s from rfl, execObjectStore, open_]
  exact (if_neg (by rw [full]; simp)).trans (if_pos kind)

theorem objectStore_refused {r : Nat × Nat × Nat} (kind : t.kind ≠ .fuseBuf) (wrong : s.verify (kindNo t.kind) t.got 0 3 = some r) :
    exec (.objectStore ()) s = .next ((s.verifyFail (kindNo t.kind) t.slot t.got true r).endXfer t 4) := by
  rw [show exec (.objectStore ()) s = execObjectStore () s from rfl, execObjectStore, open_]
  refine (if_neg (by rw [full]; simp)).trans ((if_neg kind).trans ?_)
  rw [wrong]

theorem objectStore_stored {a : Nat} (kind : t.kind ≠ .fuseBuf) (right : s.verify (kindNo t.kind) t.got 0 3 = none)
    (room : s.freeExtent (cdiv t.total mapUnit) = some a) (writable : s.caskReadOnly = false) :
    exec (.objectStore ()) s = .next ((s.storeObj (kindNo t.kind) t.slot a t.got).endXfer t 0) := by
  rw [show exec (.objectStore ()) s = execObjectStore () s from rfl, execObjectStore, open_]
  refine (if_neg (by rw [full]; simp)).trans ((if_neg kind).trans ?_)
  rw [right, room]
  exact if_neg (by rw [writable]; simp)

end

/-- Settles O35: a page by its codewords, each command by its guards. -/
theorem caskCommandsComplete : Obligations.CaskCommandsComplete := by
  intro s die plane block page b x
  refine ⟨fun found good stage active next => caskPatrolRead_of_next found good stage active next,
    fun patrol => ⟨pageFound_nil s b page patrol, pageFound_corrected s b page patrol, pageFound_retried s b page patrol,
      fun t unit counts => pageFound_uncorrectable s b page patrol unit counts⟩,
    fun b' y f least free writable good stage spread => staticWearLevel_of_worn least free writable good stage spread,
    fun opened used => nandProgramFail_of_open used opened, fun used empty => nandEraseFail_of_empty used empty,
    fun w s1 used written free => nandUncorrRead_of_written used written free,
    fun t open_ full kind => ⟨fun r wrong => objectStore_refused open_ full kind wrong,
      fun a right room writable => objectStore_stored open_ full kind right room writable⟩,
    fun t open_ full kind => objectStore_fuseBuf open_ full kind⟩

end Sys2Proof.Machine
end

section
/-! SUPPORT. Start-up (R321, R322, R326). -/

namespace Sys2Proof.Machine

/-! ### POWER_GOOD (R322, steps 1 and 2) -/

theorem newChallenge_only (s : State) : FreeOnly s s.newChallenge :=
  foldl_rel FreeOnly.refl FreeOnly.trans (fun _ _ => ⟨_, _, rfl⟩) _ s

/-- What the power state of a module is from power-good on. -/
def Power.goodAgain (p : Power) (t : Nat) : Power := { p.reset with
  good := true, goodAt := t, retries := 0, seqFail := false, tripped := false, left := false }

/-- The module as its logic leaves the reset, before anything is measured. -/
def State.outOfReset (s : State) : State := s.fullReset.modPw fun p => { p with
  good := true, goodAt := s.clk, retries := 0, seqFail := false, tripped := false, left := false }

/-- What a change of the power state alone, registers, free values and a Sirdy port's work leave. -/
theorem FreeOnly.kept {a b u : State} (only : FreeOnly a b) (work : SyWork b u) :
    u.mem = a.mem ∧ u.disp = a.disp ∧ u.cask = { a.cask with due := u.cask.due } ∧ u.pw = a.pw := by
  obtain ⟨_, _, rfl⟩ := only
  obtain ⟨_, _, _, _, _, _, rfl⟩ := work
  exact ⟨rfl, rfl, rfl, rfl⟩

theorem modPw_kept (s : State) (f : Power → Power) : (s.modPw f).mem = s.mem ∧ (s.modPw f).disp = s.disp
    ∧ (s.modPw f).cask = s.cask ∧ (s.modPw f).pw = f s.pw := ⟨rfl, rfl, rfl, rfl⟩

theorem outOfReset_kept (s : State) : s.outOfReset.mem = s.mem ∧ s.outOfReset.disp = {} ∧ s.outOfReset.cask = s.cask
    ∧ s.outOfReset.pw = s.pw.goodAgain s.clk := by
  obtain ⟨mem, -, -, -, disp, cask, -, pw⟩ := fullReset_kept s
  obtain ⟨mem', disp', cask', pw'⟩ := modPw_kept s.fullReset fun p => { p with
    good := true, goodAt := s.clk, retries := 0, seqFail := false, tripped := false, left := false }
  refine ⟨mem'.trans mem, disp'.trans disp, cask'.trans cask, pw'.trans ?_⟩
  rw [pw]
  rfl

/-- The start of a module whose power is good, by its boot source (R321). -/
def State.bootFrom (s : State) : State :=
  if s.get LN_STRAPS LN_STRAPS.BOOT_SRC = 3 then s.bootStop 1
  else if s.get LN_STRAPS LN_STRAPS.BOOT_SRC = 2 then s.syTrain 0 s.clk else s

theorem execPowerGood_starts {s : State} (h : ¬ ((!s.pw.on) = true ∨ s.pw.rails.contains false = true ∨ s.pw.good = true
    ∨ s.pw.held = true ∨ s.get TB_IN TB_IN.RESET_N = 0 ∨ s.pw.latched = true ∨ s.clk < s.pw.readyAt)) :
    ∃ b, FreeOnly s.outOfReset b ∧ execPowerGood s = .next (b.stageTo 0).bootFrom := by
  rw [execPowerGood]
  extract_lets good v strapped measured limited limit rom src
  have only : FreeOnly s.outOfReset limit :=
    (((((setReg_only good LN_STRAPS _).free.trans ((newChallenge_only _).trans (showRails_only _).free)).trans
      (foldl_rel FreeOnly.refl FreeOnly.trans measureRail_only _ _)).trans (set_only _ _ _ _).free).trans
        (set_only _ _ _ _).free).trans (set_only _ _ _ _).free
  exact ⟨_, only, if_neg h⟩

/-! ### The stage (R322) -/

@[simp] theorem stageTo_stage (s : State) {k : Nat} (named : k < 16) : (s.stageTo k).stage = k := by
  rw [State.stageTo, State.stage, (showAout_keepsRegs _).get (by decide), State.get_set_other _ _ _ _ _ _ (by decide) (.inr (by decide)),
    State.get_set_same _ _ _ _ (by decide)]
  exact Nat.mod_eq_of_lt (named.trans_le (by decide))

theorem stageTo_only (s : State) (k : Nat) : RegsOnly s (s.stageTo k) :=
  ((set_only s _ _ _).trans (set_only _ _ _ _)).trans (showAout_only _)

theorem stageTo_get_ne (s : State) (k : Nat) {a : Nat} (f : Fld) (other : a ≠ LN_BOOT) (out : a ∉ shownAddrs) :
    (s.stageTo k).get a f = s.get a f := by
  rw [State.stageTo, (showAout_keepsRegs _).get out, State.get_set_ne _ _ _ _ other, State.get_set_ne _ _ _ _ other]

theorem bootStop_only (s : State) (err : Nat) : LogsOnly s (s.bootStop err) :=
  ((set_only s _ _ _).trans (stageTo_only _ _)).logs.trans (record_only _ _ _ _ _ _)

theorem bootStop_stage (s : State) (err : Nat) : (s.bootStop err).stage = 11 :=
  ((record_keepsRegs _ 0 srcModule err 3 []).get (by decide) _).trans (stageTo_stage _ (by decide))

theorem bootStop_get_ne (s : State) (err : Nat) {a : Nat} (f : Fld) (other : a ≠ LN_BOOT) (out : a ∉ shownAddrs) (quiet : a ∉ eventAddrs) :
    (s.bootStop err).get a f = s.get a f :=
  ((record_keepsRegs _ 0 srcModule err 3 []).get quiet f).trans
    ((stageTo_get_ne _ _ f other out).trans (State.get_set_ne _ _ _ _ other))

theorem syTrain_get_ne (s : State) (p t : Nat) {a : Nat} (f : Fld) (other : a ≠ SY_PORT_STATUS p) (out : a ∉ shownAddrs) :
    (s.syTrain p t).get a f = s.get a f := by
  rw [State.syTrain, spTo_get_ne _ _ _ _ other out, modSport_get]

theorem bootFrom_work (s : State) : SyWork s s.bootFrom := by
  unfold State.bootFrom
  split
  · exact (bootStop_only s 1).svc.syWork
  · split
    · exact (syTrain_spec s (by decide) _).1
    · exact (RegsOnly.refl s).syWork

theorem bootFrom_stage {s : State} (rom : s.stage = 0) :
    s.bootFrom.stage = if s.bootFrom.get LN_STRAPS LN_STRAPS.BOOT_SRC = 3 then 11 else 0 := by
  by_cases none : s.get LN_STRAPS LN_STRAPS.BOOT_SRC = 3
  · rw [State.bootFrom, if_pos none, bootStop_stage, bootStop_get_ne _ _ _ (by decide) (by decide) (by decide), if_pos none]
  · by_cases host : s.get LN_STRAPS LN_STRAPS.BOOT_SRC = 2
    · rw [State.bootFrom, if_neg none, if_pos host, State.stage, syTrain_get_ne _ _ _ _ (by decide) (by decide),
        syTrain_get_ne _ _ _ _ (by decide) (by decide), if_neg none]
      exact rom
    · rw [State.bootFrom, if_neg none, if_neg host, if_neg none, rom]

theorem powerGood_spec {s : State} (on : s.pw.on = true) (rails : s.pw.rails.contains false = false) (off : s.pw.good = false)
    (free : s.pw.held = false) (fit : s.pw.latched = false) (high : s.get TB_IN TB_IN.RESET_N ≠ 0) (due : s.pw.readyAt ≤ s.clk) :
    ∃ u, exec .powerGood s = .next u ∧ u.pw.good = true ∧ u.pw.goodAt = s.clk ∧ u.mem = s.mem ∧ u.cask = { s.cask with due := u.cask.due }
      ∧ u.disp = {} ∧ u.stage = if u.get LN_STRAPS LN_STRAPS.BOOT_SRC = 3 then 11 else 0 := by
  obtain ⟨b, only, run⟩ := execPowerGood_starts (s := s) (by
    rw [on, rails, off, free, fit]; simpa using ⟨high, due⟩)
  obtain ⟨mem, disp, cask, pw⟩ := outOfReset_kept s
  have stage := bootFrom_stage (stageTo_stage b (k := 0) (by decide))
  obtain ⟨mem', disp', cask', pw'⟩ := only.kept ((stageTo_only b 0).syWork.trans (bootFrom_work (b.stageTo 0)))
  have pow := pw'.trans pw
  exact ⟨_, run, congrArg Power.good pow, congrArg Power.goodAt pow, mem'.trans mem, by rw [← cask]; exact cask', disp'.trans disp, stage⟩

/-! ### Firmware (R322, steps 3 to 7; R326) -/

theorem hostbootWrite_spec {s : State} (good : s.pw.good = true) (rom : s.stage = 0) (host : s.get LN_STRAPS LN_STRAPS.BOOT_SRC = 2)
    (w : Word) : exec (.hostbootWrite w) s
      = .next { s with svc := { s.svc with hostFw := s.svc.hostFw ++ toBytes 8 w.toNat } } :=
  congrArg Host.Outcome.next (if_pos ⟨good, rom, host⟩)

section bootCask

variable {s : State} {x : CaskFind} {fwA fwB : ReadFinds} (good : s.pw.good = true) (rom : s.stage = 0)
  (cask : s.get LN_STRAPS LN_STRAPS.BOOT_SRC < 2)

include good rom cask

/-- The boot ROM waits for nothing under boot sources 0 and 1. -/
theorem bootCask_goes : ¬ ((!s.pw.good) = true ∨ s.stage ≠ 0
    ∨ (s.get LN_STRAPS LN_STRAPS.BOOT_SRC = 2 ∧ (!s.hostImageWhole) = true)) := by
  rintro (off | late | ⟨host, -⟩)
  · simp [good] at off
  · exact late rom
  · omega

theorem bootCask_noDirectory (lost : x.copies = (false, false)) :
    exec (.bootCaskReady x fwA fwB) s = .next ((s.caskStart x).bootStop 2) := by
  have run : exec (.bootCaskReady x fwA fwB) s = execBootCaskReady x fwA fwB s := rfl
  exact run.trans ((if_neg (bootCask_goes good rom cask)).trans (if_pos (.inl lost)))

/-- With a directory and a cask in health the boot ROM reads the slot of the boot source, then the other. -/
theorem bootCask_reads (found : x.copies ≠ (false, false)) (health : (s.caskStart x).get CK_STATUS CK_STATUS.HEALTH ≠ 3) {slot : Nat}
    (source : s.get LN_STRAPS LN_STRAPS.BOOT_SRC = slot) :
    (∀ u l, (s.caskStart x).caskReady.tryFirmware slot (if slot = 0 then fwA else fwB) = (some l, u) →
      exec (.bootCaskReady x fwA fwB) s = .next (u.runFirmware slot false l))
    ∧ (∀ u v l, (s.caskStart x).caskReady.tryFirmware slot (if slot = 0 then fwA else fwB) = (none, u) →
      u.tryFirmware (1 - slot) (if slot = 0 then fwB else fwA) = (some l, v) →
      exec (.bootCaskReady x fwA fwB) s = .next (v.runFirmware (1 - slot) true l))
    ∧ (∀ u v, (s.caskStart x).caskReady.tryFirmware slot (if slot = 0 then fwA else fwB) = (none, u) →
      u.tryFirmware (1 - slot) (if slot = 0 then fwB else fwA) = (none, v) →
      exec (.bootCaskReady x fwA fwB) s = .next (v.bootStop 3)) := by
  subst source
  have run : exec (.bootCaskReady x fwA fwB) s = execBootCaskReady x fwA fwB s := rfl
  refine ⟨fun u l first => ?_, fun u v l first second => ?_, fun u v first second => ?_⟩ <;>
    refine run.trans ((if_neg (bootCask_goes good rom cask)).trans
      ((if_neg (not_or.2 ⟨found, health⟩)).trans ((if_neg cask.ne).trans ?_)))
  · rw [first]
  · rw [first]; dsimp only; rw [second]
  · rw [first]; dsimp only; rw [second]

end bootCask

/-! ### G7 training and the recipe (R322, steps 8 to 15) -/

section g7

variable {s : State} {v : ReadFinds} (training : s.stage = 2)

include training

theorem bootG7_failed {failed : List (Fin 64)} (some_ : failed ≠ []) : exec (.bootG7Trained failed v) s = .next (s.bootStop 4) := by
  have run : exec (.bootG7Trained failed v) s = execBootG7Trained failed v s := rfl
  exact run.trans ((if_neg (not_not.2 training)).trans (if_pos (by simpa using some_)))

theorem bootG7_safe (safe : s.g7Ready.get LN_STRAPS LN_STRAPS.SAFE = 1) :
    exec (.bootG7Trained [] v) s = .next (s.g7Ready.stageTo 10) := by
  have run : exec (.bootG7Trained [] v) s = execBootG7Trained [] v s := rfl
  exact run.trans ((if_neg (not_not.2 training)).trans ((if_neg (by simp)).trans (if_pos safe)))

variable {k : Nat} {o : CObj} {u : State} (normal : s.g7Ready.get LN_STRAPS LN_STRAPS.SAFE = 0)
  (chosen : s.g7Ready.chosenRecipe = some (k, o))

include normal chosen

theorem bootG7_recipe {l : List Byte} (read : s.g7Ready.fetchImage 2 k 0 v = (.ok l, u)) : exec (.bootG7Trained [] v) s
    = .next (if u.recipeBad (recipeOf l) then u.bootStop 6 else u.startRecipe k l) := by
  have run : exec (.bootG7Trained [] v) s = execBootG7Trained [] v s := rfl
  refine run.trans ((if_neg (not_not.2 training)).trans ((if_neg (by simp)).trans ((if_neg (by rw [normal]; decide)).trans ?_)))
  rw [chosen]
  dsimp only
  rw [read]

theorem bootG7_unread {r : Option (Nat × Nat × Nat)} (read : s.g7Ready.fetchImage 2 k 0 v = (.error r, u)) :
    exec (.bootG7Trained [] v) s = .next (u.bootStop 6) := by
  have run : exec (.bootG7Trained [] v) s = execBootG7Trained [] v s := rfl
  refine run.trans ((if_neg (not_not.2 training)).trans ((if_neg (by simp)).trans ((if_neg (by rw [normal]; decide)).trans ?_)))
  rw [chosen]
  dsimp only
  rw [read]

end g7

/-! ### The self-test at start (R322, steps 15 to 17) -/

/-- The state with the results of the start's self-test and their code. -/
def State.startTested (s : State) (all : List TestFail) (fenced : Bool) : State :=
  (s.bootTested all).modSvc fun v => { v with tested := some (testCode all fenced) }

section selftest

variable {s u : State} {fails : List TestFail} {v : List (Nat × ReadFinds)} {bad : Option (Nat × Option (Nat × Nat))} {all : List TestFail}
  (tests : s.stage = 6) (paced : s.paceBack = true) (whole : fails.filter s.bootPace ++ s.rateFails ++ s.railFails = all)
  (read : readScripts s.recipe.scripts v s = (bad, u))

include tests paced whole read

theorem selftest_stops (unfit : (∃ f ∈ all, 8 ≤ f.block) ∨ bad ≠ none
    ∨ recipeSpares (u.bootTested all).recipe < (u.bootTested all).fencedNow) :
    exec (.bootSelftestDone fails v) s = .next ((u.startTested all false).bootStop 7) := by
  have fits : (!(all.any fun f => 8 ≤ f.block) && bad.isNone
      && decide ((u.bootTested all).fencedNow ≤ recipeSpares (u.bootTested all).recipe)) = false := by
    rcases unfit with ⟨f, there, high⟩ | late | many
    · have any : (all.any fun f => decide (8 ≤ f.block)) = true := List.any_eq_true.2 ⟨f, there, decide_eq_true high⟩
      simp [any]
    · cases bad with
      | none => exact absurd rfl late
      | some _ => simp
    · simp [Nat.not_le.2 many]
  have run : exec (.bootSelftestDone fails v) s = execBootSelftestDone fails v s := rfl
  subst whole
  refine run.trans ((if_neg (by simp [tests, paced])).trans ?_)
  rw [read]
  dsimp only
  rw [fits]
  rfl

theorem selftest_passes (low : ∀ f ∈ all, f.block < 8) (verified : bad = none)
    (few : (u.bootTested all).fencedNow ≤ recipeSpares (u.bootTested all).recipe) :
    exec (.bootSelftestDone fails v) s = .next
      (((((u.startTested all !(failedChambers all).isEmpty).set LN_BOOT LN_BOOT.DEGRADED
        (bit !(failedChambers all).isEmpty)).placeSpares).stageTo 7).enableGallery) := by
  have fits : (!(all.any fun f => 8 ≤ f.block) && bad.isNone
      && decide ((u.bootTested all).fencedNow ≤ recipeSpares (u.bootTested all).recipe)) = true := by
    have any : (all.any fun f => decide (8 ≤ f.block)) = false :=
      List.any_eq_false.2 fun f there => by simpa using low f there
    simp [any, verified, few]
  have run : exec (.bootSelftestDone fails v) s = execBootSelftestDone fails v s := rfl
  subst whole
  refine run.trans ((if_neg (by simp [tests, paced])).trans ?_)
  rw [read]
  dsimp only
  rw [fits]
  rfl

end selftest

/-! ### The model image (R322, steps 17 to 19) -/

theorem galleryJoined_spec {s u : State} {v : ReadFinds} {k : Nat} {o : CObj} {l : List Byte} (waits : s.stage = 7)
    (formed : s.viewState = 1) (joined : s.gl.joined = true) (model : (s.stageTo 8).modelOf (s.stageTo 8).recipe = some (k, o))
    (read : (s.stageTo 8).fetchImage 3 k (s.stageTo 8).pIndex v = (.ok l, u)) (sound : modelBad l u.pIndex = false) :
    exec (.bootGalleryJoined v) s = .next (u.modSvc fun v => { v with model := some (k, l) }) := by
  have run : exec (.bootGalleryJoined v) s = execBootGalleryJoined v s := rfl
  refine run.trans ((if_neg (by simp [waits, formed, joined])).trans ?_)
  dsimp only
  rw [model]
  dsimp only
  rw [read]
  dsimp only
  rw [sound]
  rfl

theorem modelLoaded_spec {s : State} {k : Nat} {img : List Byte} (waits : s.stage = 8) (model : s.svc.model = some (k, img))
    (first : s.get LN_MODEL LN_MODEL.VALID = 0) : exec .bootModelLoaded s =
      let s1 := (s.loadTensors img s.pIndex fun _ => true).applyLayout s.recipe.layout
      let s2 := (s1.writePrograms s.recipe fun _ => true).applyPresets s.recipe fun _ => true
      .next ((s2.stepTasks.foldl State.createTask s2).runModel k img) := by
  rw [show exec .bootModelLoaded s = execBootModelLoaded s from rfl, execBootModelLoaded, model]
  exact if_neg (by simp [waits, first])

/-- Settles O36: at power-good the logic leaves its reset with memory and cask kept and starts by its boot source; each later event of the
start goes through the guards of its step one after the other. -/
theorem startUpComplete : Obligations.StartUpComplete := by
  unfold Obligations.StartUpComplete
  intro s
  refine ⟨powerGood_spec, fun good rom host w => ⟨_, hostbootWrite_spec good rom host w, rfl⟩, fun x fwA fwB good rom cask => ?_, fun failed v training => ?_,
    fun fails v bad u tests paced => ?_, ?_, ?_⟩
  · refine ⟨bootCask_noDirectory good rom cask, fun found health => ?_⟩
    have other : (if 1 - s.get LN_STRAPS LN_STRAPS.BOOT_SRC = 0 then fwA else fwB)
        = if s.get LN_STRAPS LN_STRAPS.BOOT_SRC = 0 then fwB else fwA := by
      by_cases first : s.get LN_STRAPS LN_STRAPS.BOOT_SRC = 0
      · rw [if_pos first, if_neg (by omega)]
      · rw [if_neg first, if_pos (by omega)]
    obtain ⟨own, second, none_⟩ := bootCask_reads (fwA := fwA) (fwB := fwB) good rom cask found health rfl
    exact ⟨fun u l => own u l, fun u v l first again => second u v l first (other ▸ again), fun u v first again => none_ u v first (other ▸ again)⟩
  · refine ⟨bootG7_failed training, ?_, ?_, ?_⟩
    · rintro rfl; exact bootG7_safe training
    · rintro k o u l rfl normal chosen; exact bootG7_recipe training normal chosen
    · rintro k o u r rfl normal chosen; exact bootG7_unread training normal chosen
  · intro all read
    exact ⟨selftest_stops tests paced rfl read, selftest_passes tests paced rfl read⟩
  · intro v k o u l; exact galleryJoined_spec
  · intro k img; exact modelLoaded_spec

end Sys2Proof.Machine
end

section
/-! SUPPORT. Staging and switching a recipe (R323, R324). -/

namespace Sys2Proof.Machine

/-! ### Staging (R323) -/

theorem stage_spec {s : State} {c : Session} {slot : Nat} (served : s.serves c inServing (.consoleStage c slot)) (small : slot < 8)
    (stored : (s.obj 2 slot).isSome = true) (unstaged : s.svc.staging = none) (settled : s.svc.switch = none) :
    exec (.consoleStage c slot) s = .next (s.recordCmd.stageStart slot (some c)) := by
  have run : exec (.consoleStage c slot) s = execConsoleStage c slot s := rfl
  have found : ¬ (8 ≤ slot ∨ (s.obj 2 slot).isNone = true) := by
    rw [not_or, Option.isNone_iff_eq_none, ← Option.not_isSome_iff_eq_none]; exact ⟨by omega, not_not.2 stored⟩
  exact run.trans ((console_of_serves served false _).trans (congrArg Host.Outcome.next
    ((if_neg found).trans (if_neg (by simp [unstaged, settled])))))

section stageDone

variable {s u : State} {slot : Nat} {by_ : Option Session} {recipe model : ReadFinds} (staging : s.svc.staging = some (slot, by_))

include staging

theorem stageDone_unread {x : Option (Nat × Nat × Nat)}
    (read : (s.modSvc fun v => { v with staging := none }).showSec.fetchImage 2 slot 0 recipe = (.error x, u)) :
    exec (.stageDone recipe model) s = .next (u.stageFail by_ 1) := by
  rw [show exec (.stageDone recipe model) s = execStageDone recipe model s from rfl, execStageDone, staging]
  dsimp only
  rw [read]

variable {img mimg : List Byte} (read : (s.modSvc fun v => { v with staging := none }).showSec.fetchImage 2 slot 0 recipe = (.ok img, u))

include read

theorem stageDone_staged {mk idx : Nat} {mo : CObj} {rs : List Nat} {v w : State} (good : u.recipeBad (recipeOf img) = false)
    (spares : u.fencedNow ≤ recipeSpares (recipeOf img)) (same : galleryDiffers (recipeOf img) u.recipe = false)
    (model_ : u.modelOf (recipeOf img) = some (mk, mo)) (index : bits ((recipeOf img).passage.getD 0 0).toNat 23 16 = idx)
    (readModel : u.fetchImage 3 mk idx model = (.ok mimg, v)) (sound : modelBad mimg idx = false)
    (room : takeRegions (cdiv ((imgPart mimg 0x0101 idx).getD []).length 0x200000) v = some (rs, w)) :
    exec (.stageDone recipe model) s
      = .next (w.stagedNow slot by_ img mk mimg rs ((imgPart mimg 0x0101 idx).getD [])).showAout.resumeProbe := by
  subst index
  rw [show exec (.stageDone recipe model) s = execStageDone recipe model s from rfl, execStageDone, staging]
  dsimp only
  rw [read]
  refine (if_neg (by simpa [good] using spares)).trans ((if_neg (by rw [same]; exact Bool.false_ne_true)).trans ?_)
  rw [model_]
  dsimp only
  rw [readModel]
  refine (if_neg (by rw [sound]; exact Bool.false_ne_true)).trans ?_
  rw [room]

end stageDone

/-! ### Switching (R324) -/

theorem SvcOnly.apart {s u : State} : SvcOnly s u → Apart s u := by
  rintro ⟨_, _, _, _, rfl⟩; exact ⟨rfl, rfl, rfl, rfl, rfl⟩

/-- The state in which `switch` waits for the tickets. -/
def State.switchAsked (s : State) : State :=
  ((s.set LN_STATUS LN_STATUS.SWITCHING 1).set LN_STAGED LN_STAGED.STATE 3).showAout

theorem switchAsked_only (s : State) : RegsOnly s s.switchAsked := ((set_only s _ _ _).trans (set_only _ _ _ _)).trans (showAout_only _)

theorem switchAsked_shown (s : State) : s.switchAsked.get LN_STATUS LN_STATUS.SWITCHING = 1
    ∧ s.switchAsked.get LN_STAGED LN_STAGED.STATE = 3 := by
  unfold State.switchAsked
  rw [(showAout_keepsRegs _).get (by decide), (showAout_keepsRegs _).get (by decide), State.get_set_ne _ _ _ _ (by decide),
    State.get_set_same _ _ _ _ (by decide), State.get_set_same _ _ _ _ (by decide)]
  decide

theorem switch_spec {s : State} {c : Session} {keep : Bool} (served : s.serves c inServing (.consoleSwitch c keep))
    (settled : s.svc.switch = none) (entry : s.isEntry = true) (staged : s.get LN_STAGED LN_STAGED.STATE = 2)
    (fits : keep = true → s.get LN_STAGED LN_STAGED.KEEP_OK = 1) :
    ∃ u, exec (.consoleSwitch c keep) s = .next u ∧ Apart s u ∧ u.svc.switch = some (keep, false)
      ∧ u.get LN_STATUS LN_STATUS.SWITCHING = 1 ∧ u.get LN_STAGED LN_STAGED.STATE = 3 := by
  have run : exec (.consoleSwitch c keep) s = execConsoleSwitch c keep s := rfl
  have compatible : ¬ (keep = true ∧ s.get LN_STAGED LN_STAGED.KEEP_OK = 0) := fun ⟨yes, no⟩ => by
    rw [fits yes] at no; exact absurd no (by decide)
  have next := run.trans ((console_of_serves served false _).trans (congrArg Host.Outcome.next
    ((if_neg (by simp [settled])).trans ((if_neg (by simp [entry, staged])).trans (if_neg compatible)))))
  obtain ⟨switching, state⟩ := switchAsked_shown (s.recordCmd.modSvc fun v => { v with switch := some (keep, false), switchOf := c })
  obtain ⟨r, asked⟩ := switchAsked_only (s.recordCmd.modSvc fun v => { v with switch := some (keep, false), switchOf := c })
  refine ⟨_, next, ?_, ?_, switching, state⟩
  · exact (((recordCmd_logsOnly s).svc.trans (modSvc_only _ _)).trans (switchAsked_only _).logs.svc).apart
  · exact congrArg (fun u : State => u.svc.switch) asked

/-- Settles O37: each guard of the commands and of the staging's end is passed in turn; what `switch` shows is what it sets last. -/
theorem recipeCommandsComplete : Obligations.RecipeCommandsComplete := by
  unfold Obligations.RecipeCommandsComplete
  intro s c
  refine ⟨fun slot => stage_spec, ?_, ?_, fun keep => switch_spec, fun keep asked returned idle => ?_⟩
  · intro slot by_ img mk mo mimg rs s1 s2 s3 recipe model staging read r idx part good spares same model_ readModel sound room
    exact stageDone_staged staging read good spares same model_ rfl readModel sound room
  · intro slot by_ x s1 recipe model staging read
    exact stageDone_unread staging read
  · intro u
    have passed : ¬ ((!s.disp.tickets.isEmpty) = true ∨ s.changeBusy = true) := by simp [returned, idle]
    rw [show exec .switchTicketsReturned s = execSwitchTicketsReturned s from rfl, execSwitchTicketsReturned, asked]
    exact ⟨fun done => (if_neg passed).trans (if_neg (by rw [done]; exact Bool.false_ne_true)),
      fun waits => (if_neg passed).trans (if_pos waits)⟩

end Sys2Proof.Machine
end

section
/-! SUPPORT. The security block (R330 to R338): what the fuses show, how a fuse command ends, identity and attestation. -/

namespace Sys2Proof.Machine

/-! ### Bits and majority -/

theorem nbit_eq_testBit (x i : Nat) : nbit x i = x.testBit i := Nat.testBit_eq_decide_div_mod_eq.symm

/-- A fuse blown in all three copies reads as blown. -/
theorem nbit_maj3_fuseBit (a b c i : Nat) : nbit (maj3 (fuseBit a i) (fuseBit b i) (fuseBit c i)) i = true := by
  simp [nbit_eq_testBit, maj3, fuseBit, Nat.testBit_or, Nat.testBit_and, Nat.testBit_two_pow_self]

theorem nbit_mod {x i w : Nat} (small : i < w) : nbit (x % 2 ^ w) i = nbit x i := by
  rw [nbit_eq_testBit, nbit_eq_testBit, Nat.testBit_mod_two_pow, decide_eq_true small, Bool.true_and]

theorem blown_ones {n : Nat} (fits : n ≤ 64) : blown (2 ^ n - 1) = n := by
  have kept : (List.range 64).filter (nbit (2 ^ n - 1)) = (List.range 64).filter fun i => decide (i < n) :=
    List.filter_congr fun i _ => by rw [nbit_eq_testBit, Nat.testBit_two_pow_sub_one]
  obtain ⟨k, split⟩ := Nat.exists_eq_add_of_le fits
  have low : (List.range n).filter (fun i => decide (i < n)) = List.range n :=
    List.filter_eq_self.2 fun i hi => decide_eq_true (List.mem_range.1 hi)
  have high : ((List.range k).map (n + ·)).filter (fun i => decide (i < n)) = [] :=
    List.filter_eq_nil_iff.2 (by simp)
  rw [blown, kept, split, List.range_add, List.filter_append, low, high, List.append_nil, List.length_range]

theorem ones_or_ones {m n : Nat} (le : m ≤ n) : (2 ^ m - 1) ||| (2 ^ n - 1) = 2 ^ n - 1 := by
  refine Nat.eq_of_testBit_eq fun i => ?_
  rw [Nat.testBit_or, Nat.testBit_two_pow_sub_one, Nat.testBit_two_pow_sub_one, ← Bool.decide_or]
  exact decide_eq_decide.2 (by omega)

/-! ### What the fuses show (R330, R338) -/

/-- SC_SLOT_DIGEST of a slot shows a digest. -/
def State.showDigest (s : State) (k d : Nat) : State :=
  (List.range 8).foldl (fun (s : State) i => s.setReg (SC_SLOT_DIGEST k i) (BitVec.ofNat 64 (d / 2 ^ (64 * i)))) s

theorem showDigest_keepsRegs (s : State) (k d : Nat) : KeepsRegs (fun a => ∃ i, i < 8 ∧ a = SC_SLOT_DIGEST k i) s (s.showDigest k d) :=
  List.foldlRecOn (motive := KeepsRegs (fun a => ∃ i, i < 8 ∧ a = SC_SLOT_DIGEST k i) s) _ _ (.refl _ s) fun u hu i hi =>
    hu.trans (setReg_keepsRegs ⟨i, List.mem_range.1 hi, rfl⟩ u _)

theorem showDigest_reg (s : State) (k d : Nat) {i : Nat} (small : i < 8) :
    (s.showDigest k d).reg (SC_SLOT_DIGEST k i) = BitVec.ofNat 64 (d / 2 ^ (64 * i)) :=
  (foldl_range_each (Fresh := fun _ _ => True)
    (Done := fun i (u : State) => u.reg (SC_SLOT_DIGEST k i) = BitVec.ofNat 64 (d / 2 ^ (64 * i)))
    (fun u i _ => State.reg_setReg_same u _ _) (fun _ _ _ _ _ => trivial)
    (fun u i j other done => (State.reg_setReg_ne u _ (by simp only [SC_SLOT_DIGEST]; omega)).trans done) 8 s (fun _ => trivial) i).1 small

theorem SC_SLOT_DIGEST_ne {i j k l : Nat} (hj : j < 8) (hl : l < 8) (other : i ≠ k) : SC_SLOT_DIGEST i j ≠ SC_SLOT_DIGEST k l := by
  simp only [SC_SLOT_DIGEST]; omega

/-- SC_FUSES shows the fuses' fields. -/
def State.showFields (s : State) : State :=
  let f := s.fuses
  let s := (s.set SC_FUSES SC_FUSES.SLOT_VALID (f.read (·.valid))).set SC_FUSES SC_FUSES.SLOT_REVOKED (f.read (·.revoked))
  (s.set SC_FUSES SC_FUSES.FW_FLOOR (blown (f.read (·.floor)))).set SC_FUSES SC_FUSES.ORDERING (f.read (·.ordering))

theorem showFuses_eq (s : State) : s.showFuses =
    (List.range 4).foldl (fun (u : State) k => u.showDigest k (s.fuses.read fun c => c.digests.getD k 0)) s.showFields := rfl

theorem showFuses_get (s : State) (f : Fld) : s.showFuses.get SC_FUSES f = s.showFields.get SC_FUSES f := by
  rw [showFuses_eq]
  refine List.foldlRecOn (motive := fun u : State => u.get SC_FUSES f = s.showFields.get SC_FUSES f) _ _ rfl fun u hu k _ => ?_
  exact ((showDigest_keepsRegs u k _).get (by rintro ⟨i, -, e⟩; simp only [SC_FUSES, SC_SLOT_DIGEST] at e; omega) f).trans hu

theorem showFuses_fields (s : State) : s.showFuses.get SC_FUSES SC_FUSES.SLOT_VALID = s.fuses.read (·.valid) % 2 ^ 4
    ∧ s.showFuses.get SC_FUSES SC_FUSES.SLOT_REVOKED = s.fuses.read (·.revoked) % 2 ^ 4
    ∧ s.showFuses.get SC_FUSES SC_FUSES.FW_FLOOR = blown (s.fuses.read (·.floor)) % 2 ^ 7 := by
  rw [showFuses_get, showFuses_get, showFuses_get, State.showFields]
  refine ⟨?_, ?_, ?_⟩
  · rw [State.get_set_other _ _ _ _ _ _ (by decide) (.inr (by decide)), State.get_set_other _ _ _ _ _ _ (by decide) (.inr (by decide)),
      State.get_set_other _ _ _ _ _ _ (by decide) (.inr (by decide)), State.get_set_same _ _ _ _ (by decide)]
    rfl
  · rw [State.get_set_other _ _ _ _ _ _ (by decide) (.inr (by decide)), State.get_set_other _ _ _ _ _ _ (by decide) (.inr (by decide)),
      State.get_set_same _ _ _ _ (by decide)]
    rfl
  · rw [State.get_set_other _ _ _ _ _ _ (by decide) (.inr (by decide)), State.get_set_same _ _ _ _ (by decide)]
    rfl

theorem showFuses_digest (s : State) {k i : Nat} (slot : k < 4) (small : i < 8) : s.showFuses.reg (SC_SLOT_DIGEST k i)
    = BitVec.ofNat 64 ((s.fuses.read fun c => c.digests.getD k 0) / 2 ^ (64 * i)) := by
  rw [showFuses_eq]
  refine (foldl_range_each (Fresh := fun _ _ => True)
    (Done := fun k (u : State) => u.reg (SC_SLOT_DIGEST k i) = BitVec.ofNat 64 ((s.fuses.read fun c => c.digests.getD k 0) / 2 ^ (64 * i)))
    (fun u k _ => showDigest_reg u k _ small) (fun _ _ _ _ _ => trivial) (fun u k j other done => ?_) 4 _ (fun _ => trivial) k).1 slot
  refine (showDigest_keepsRegs u j _ _ ?_).trans done
  rintro ⟨l, hl, e⟩
  exact SC_SLOT_DIGEST_ne small hl other.symm e

/-- Programming changes the fuses and what shows them. -/
theorem programFuses_apart (s : State) (f : FuseCopy → FuseCopy) : Apart s (s.programFuses f) ∧ (s.programFuses f).svc = s.svc := by
  obtain ⟨r, e⟩ := showFuses_only { s with fuses := { s.fuses with a := f s.fuses.a, b := f s.fuses.b, c := f s.fuses.c } }
  rw [State.programFuses, e]
  exact ⟨⟨rfl, rfl, rfl, rfl, rfl⟩, rfl⟩

/-! ### The end of a fuse command (R331) -/

theorem newChallenge_keepsRegs (s : State) : KeepsRegs (fun a => ∃ i, i < 4 ∧ a = SC_CHALLENGE i) s s.newChallenge :=
  List.foldlRecOn (motive := KeepsRegs (fun a => ∃ i, i < 4 ∧ a = SC_CHALLENGE i) s) _ _ (.refl _ s) fun u hu i hi =>
    hu.trans (KeepsRegs.trans (u := u.free.2) (fun _ _ => rfl) (setReg_keepsRegs ⟨i, List.mem_range.1 hi, rfl⟩ u.free.2 _))

/-- The registers that the end of a fuse command changes. -/
def fuseEndAddrs (a : Nat) : Prop := a = SC_CMD_STATUS ∨ (∃ i, i < 4 ∧ a = SC_CHALLENGE i) ∨ a = SC_STATUS

/-- A fuse command's result as SC_CMD_STATUS shows it. -/
def State.showResult (s : State) (op result : Nat) : State :=
  s.setReg SC_CMD_STATUS (fset (fset (fset 0 SC_CMD_STATUS.VALID 1) SC_CMD_STATUS.RESULT result) SC_CMD_STATUS.OP op)

/-- The state in which the answer to a fuse command is given. -/
def State.fuseOver (s : State) : State := (s.newChallenge.modSvc fun v => { v with fuseBusy := none }).showSec

theorem fuseOver_only (s : State) : ∃ r k, s.fuseOver = { s with regs := r, freeCtr := k, svc := { s.svc with fuseBusy := none } } := by
  obtain ⟨r, k, e⟩ := newChallenge_only s
  obtain ⟨r', e'⟩ : RegsOnly (s.newChallenge.modSvc fun v => { v with fuseBusy := none }) s.fuseOver := set_only _ _ _ _
  rw [e', e]
  exact ⟨r', k, rfl⟩

theorem fuseOver_keepsRegs (s : State) : KeepsRegs (fun a => (∃ i, i < 4 ∧ a = SC_CHALLENGE i) ∨ a = SC_STATUS) s s.fuseOver :=
  ((newChallenge_keepsRegs s).mono fun _ => .inl).trans
    (KeepsRegs.trans (u := s.newChallenge.modSvc fun v => { v with fuseBusy := none }) (fun _ _ => rfl) (set_keepsRegs (.inr rfl) _ _ _))

theorem showResult_shown (s : State) (op : Nat) {result : Nat} (small : result < 8) :
    (s.showResult op result).get SC_CMD_STATUS SC_CMD_STATUS.RESULT = result
      ∧ (s.showResult op result).get SC_CMD_STATUS SC_CMD_STATUS.VALID = 1 := by
  rw [State.showResult, State.get, State.get, State.reg_setReg_same, fget_fset_other _ _ _ _ (by decide) (.inr (by decide)),
    fget_fset_same _ _ _ (by decide), fget_fset_other _ _ _ _ (by decide) (.inr (by decide)),
    fget_fset_other _ _ _ _ (by decide) (.inr (by decide)), fget_fset_same _ _ _ (by decide)]
  exact ⟨Nat.mod_eq_of_lt small, rfl⟩

theorem Speaks.keepsRegs {s u : State} : Speaks s u → ∀ a, u.reg a = s.reg a := by
  rintro ⟨_, _, _, _, _, _, rfl⟩ _; rfl

theorem Speaks.fuseBusy {s u : State} : Speaks s u → u.svc.fuseBusy = s.svc.fuseBusy := by
  rintro ⟨_, _, _, _, _, _, rfl⟩; rfl

theorem apart_trans {s u v : State} : Apart s u → Apart u v → Apart s v := by
  rintro ⟨mem, chk, poison, noise, chambers⟩ ⟨mem', chk', poison', noise', chambers'⟩
  exact ⟨mem'.trans mem, chk'.trans chk, poison'.trans poison, noise'.trans noise, chambers'.trans chambers⟩

theorem fuseEnd_spec (s : State) (c : Session) (op : Nat) {result : Nat} (small : result < 8) :
    Apart s (s.fuseEnd c op result) ∧ (s.fuseEnd c op result).svc.fuseBusy = none
      ∧ Replied c [BitVec.ofNat 64 result] [] (fuseCode result).1 s (s.fuseEnd c op result)
      ∧ (s.fuseEnd c op result).get SC_CMD_STATUS SC_CMD_STATUS.RESULT = result
      ∧ (s.fuseEnd c op result).get SC_CMD_STATUS SC_CMD_STATUS.VALID = 1 ∧ KeepsRegs fuseEndAddrs s (s.fuseEnd c op result) := by
  have eq : s.fuseEnd c op result
      = (s.showResult op result).fuseOver.ends c [BitVec.ofNat 64 result] [] (fuseCode result).1 (fuseCode result).2 := rfl
  obtain ⟨shown, valid⟩ := showResult_shown s op small
  have kept : KeepsRegs fuseEndAddrs s (s.showResult op result) := setReg_keepsRegs (.inl rfl) s _
  have aside : Apart s (s.showResult op result) ∧ (s.showResult op result).svc.replies = s.svc.replies :=
    ⟨⟨rfl, rfl, rfl, rfl, rfl⟩, rfl⟩
  have speaks := ends_speaks (s.showResult op result).fuseOver c [BitVec.ofNat 64 result] [] (fuseCode result).1 (fuseCode result).2
  obtain ⟨more, said, errors⟩ :=
    ends_replied (s.showResult op result).fuseOver c [BitVec.ofNat 64 result] [] (fuseCode result).1 (fuseCode result).2
  rw [eq]
  clear eq
  generalize s.showResult op result = v at *
  have regs := fuseOver_keepsRegs v
  have out : ¬ ((∃ i, i < 4 ∧ SC_CMD_STATUS = SC_CHALLENGE i) ∨ SC_CMD_STATUS = SC_STATUS) := by
    rintro (⟨i, -, e⟩ | e)
    · simp only [SC_CMD_STATUS, SC_CHALLENGE] at e; omega
    · exact absurd e (by decide)
  obtain ⟨r, k, ended⟩ := fuseOver_only v
  have apart : Apart v v.fuseOver ∧ v.fuseOver.svc.fuseBusy = none ∧ v.fuseOver.svc.replies = v.svc.replies := by
    rw [ended]; exact ⟨⟨rfl, rfl, rfl, rfl, rfl⟩, rfl, rfl⟩
  refine ⟨apart_trans aside.1 (apart_trans apart.1 speaks.apart), speaks.fuseBusy.trans apart.2.1, ⟨more, ?_, errors⟩,
    (speaks.get _ _).trans ((regs.get out _).trans shown), (speaks.get _ _).trans ((regs.get out _).trans valid), fun a outside => ?_⟩
  · rw [said, apart.2.2, aside.2]
  · exact (speaks.keepsRegs a).trans ((regs a fun h => outside (.inr h)).trans (kept a outside))

/-- A fuse command that is carried out: what its end shows beside the fuses. -/
theorem programmed_spec (s : State) (f : FuseCopy → FuseCopy) (c : Session) (op : Nat) :
    Apart s ((s.programFuses f).fuseEnd c op 0) ∧ ((s.programFuses f).fuseEnd c op 0).svc.fuseBusy = none
      ∧ Replied c [0] [] 0 s ((s.programFuses f).fuseEnd c op 0)
      ∧ ((s.programFuses f).fuseEnd c op 0).get SC_CMD_STATUS SC_CMD_STATUS.RESULT = 0
      ∧ ((s.programFuses f).fuseEnd c op 0).get SC_CMD_STATUS SC_CMD_STATUS.VALID = 1
      ∧ KeepsRegs fuseEndAddrs (s.programFuses f) ((s.programFuses f).fuseEnd c op 0) := by
  obtain ⟨apart, svc⟩ := programFuses_apart s f
  obtain ⟨apart', idle, ⟨more, said, errors⟩, shown, valid, kept⟩ := fuseEnd_spec (s.programFuses f) c op (result := 0) (by decide)
  exact ⟨apart_trans apart apart', idle, ⟨more, said.trans (by rw [svc]; rfl), errors⟩, shown, valid, kept⟩

theorem SC_FUSES_outside : ¬ fuseEndAddrs SC_FUSES := by
  rintro (e | ⟨i, -, e⟩ | e)
  · exact absurd e (by decide)
  · simp only [SC_FUSES, SC_CHALLENGE] at e; omega
  · exact absurd e (by decide)

theorem SC_SLOT_DIGEST_outside (k : Nat) {i : Nat} (small : i < 8) : ¬ fuseEndAddrs (SC_SLOT_DIGEST k i) := by
  rintro (e | ⟨j, hj, e⟩ | e)
  · simp only [SC_SLOT_DIGEST, SC_CMD_STATUS] at e; omega
  · simp only [SC_SLOT_DIGEST, SC_CHALLENGE] at e; omega
  · simp only [SC_SLOT_DIGEST, SC_STATUS] at e; omega

/-! ### The fuse commands (R332) -/

/-- A copy of the fuses with a slot enrolled. -/
def FuseCopy.enrol (t d : Nat) (x : FuseCopy) : FuseCopy :=
  { x with digests := x.digests.set t (x.digests.getD t 0 ||| (d &&& d)), valid := fuseBit x.valid t }

theorem FuseCopy.enrol_digest {t d : Nat} {x : FuseCopy} (len : x.digests.length = 4) (blank : x.digests.getD t 0 = 0) (slot : t < 4) :
    (x.enrol t d).digests.getD t 0 = d := by
  rw [FuseCopy.enrol, blank, Nat.zero_or, Nat.and_self, List.getD_eq_getElem?_getD, List.getElem?_set_self (by omega)]
  rfl

theorem enrol_spec {s : State} {l : List Byte} (runs : s.fuseRuns 1 = some l) {t : Nat} (target : fmTarget l = t)
    (free : s.slotBad t = 1) (good : s.svc.fuseBad.contains t = false) (slot : t < 4) :
    ∃ u, exec (.enrol true) s = .next u ∧ Apart s u ∧ u.svc.fuseBusy = none ∧ Replied s.svc.fuseTo [0] [] 0 s u
      ∧ u.get SC_CMD_STATUS SC_CMD_STATUS.RESULT = 0 ∧ u.get SC_CMD_STATUS SC_CMD_STATUS.VALID = 1
      ∧ nbit (u.get SC_FUSES SC_FUSES.SLOT_VALID) t = true
      ∧ ((∀ x ∈ [s.fuses.a, s.fuses.b, s.fuses.c], x.digests.length = 4 ∧ x.digests.getD t 0 = 0) →
          ∀ i, i < 8 → u.reg (SC_SLOT_DIGEST t i) = BitVec.ofNat 64 (num l 104 64 / 2 ^ (64 * i))) := by
  subst target
  have run : exec (.enrol true) s = .next ((s.programFuses (FuseCopy.enrol (fmTarget l) (num l 104 64))).fuseEnd s.svc.fuseTo 1 0) := by
    rw [show exec (.enrol true) s = execEnrol true s from rfl, execEnrol, runs]
    exact (if_neg (not_not.2 free)).trans ((if_neg (by rw [good]; exact Bool.false_ne_true)).trans (if_pos rfl))
  obtain ⟨apart, idle, replied, result, valid, kept⟩ :=
    programmed_spec s (FuseCopy.enrol (fmTarget l) (num l 104 64)) s.svc.fuseTo 1
  refine ⟨_, run, apart, idle, replied, result, valid, ?_, fun blank i small => ?_⟩
  · rw [kept.get SC_FUSES_outside, State.programFuses, (showFuses_fields _).1, nbit_mod slot]
    exact nbit_maj3_fuseBit _ _ _ _
  · have digest (x : FuseCopy) (there : x ∈ [s.fuses.a, s.fuses.b, s.fuses.c]) :
        (x.enrol (fmTarget l) (num l 104 64)).digests.getD (fmTarget l) 0 = num l 104 64 :=
      FuseCopy.enrol_digest (blank x there).1 (blank x there).2 slot
    rw [kept _ (SC_SLOT_DIGEST_outside _ small), State.programFuses, showFuses_digest _ slot small, Fuses.read,
      digest s.fuses.a (by simp), digest s.fuses.b (by simp), digest s.fuses.c (by simp), maj3_two]

theorem revoke_spec {s : State} {l : List Byte} (runs : s.fuseRuns 2 = some l) {t : Nat} (target : fmTarget l = t)
    (other : fmSigner l ≠ t) (left : ∃ k, k < 4 ∧ k ≠ t ∧ s.slotBad k = 0) (slot : t < 4)
    (unused : s.anyFirmware (fun x => imgSigner x = t) = false) (good : s.svc.fuseBad.contains t = false) :
    ∃ u, exec (.revoke true) s = .next u ∧ Apart s u ∧ Replied s.svc.fuseTo [0] [] 0 s u
      ∧ nbit (u.get SC_FUSES SC_FUSES.SLOT_REVOKED) t = true ∧ u.get SC_CMD_STATUS SC_CMD_STATUS.RESULT = 0 := by
  subst target
  have stays : ((List.range 4).any fun k => k ≠ fmTarget l && s.slotBad k = 0) = true := by
    obtain ⟨k, small, ne, fine⟩ := left
    exact List.any_eq_true.2 ⟨k, List.mem_range.2 small, by simp [ne, fine]⟩
  have run : exec (.revoke true) s
      = .next ((s.programFuses fun x => { x with revoked := fuseBit x.revoked (fmTarget l) }).fuseEnd s.svc.fuseTo 2 0) := by
    rw [show exec (.revoke true) s = execRevoke true s from rfl, execRevoke, runs]
    exact (if_neg (by rw [stays, unused]; simpa using other)).trans
      ((if_neg (by rw [good]; exact Bool.false_ne_true)).trans (if_pos rfl))
  obtain ⟨apart, -, replied, result, -, kept⟩ :=
    programmed_spec s (fun x => { x with revoked := fuseBit x.revoked (fmTarget l) }) s.svc.fuseTo 2
  refine ⟨_, run, apart, replied, ?_, result⟩
  rw [kept.get SC_FUSES_outside, State.programFuses, (showFuses_fields _).2.1, nbit_mod slot]
  exact nbit_maj3_fuseBit _ _ _ _

theorem raiseFloor_spec {s : State} {l : List Byte} (runs : s.fuseRuns 3 = some l) {floor now : Nat}
    (wanted : imgGen s.svc.firmware / 2 ^ 24 = floor) (current : s.get SC_FUSES SC_FUSES.FW_FLOOR = now) (up : now < floor)
    (fits : floor ≤ 64) (agree : ∀ x ∈ [s.fuses.a, s.fuses.b, s.fuses.c], x.floor = 2 ^ now - 1)
    (above : s.anyFirmware (fun x => decide (imgGen x / 2 ^ 24 < floor)) = false) :
    ∃ u, exec (.raiseFloor true) s = .next u ∧ Apart s u ∧ Replied s.svc.fuseTo [0] [] 0 s u
      ∧ u.get SC_FUSES SC_FUSES.FW_FLOOR = floor % 2 ^ SC_FUSES.FW_FLOOR.w ∧ u.get SC_CMD_STATUS SC_CMD_STATUS.RESULT = 0 := by
  have run : exec (.raiseFloor true) s
      = .next ((s.programFuses fun x => { x with floor := x.floor ||| (2 ^ floor - 1) }).fuseEnd s.svc.fuseTo 3 0) := by
    rw [show exec (.raiseFloor true) s = execRaiseFloor true s from rfl, execRaiseFloor, runs, wanted, current]
    exact (if_neg (by rw [above]; simpa using up)).trans ((if_neg (by omega)).trans (if_pos rfl))
  obtain ⟨apart, -, replied, result, -, kept⟩ :=
    programmed_spec s (fun x => { x with floor := x.floor ||| (2 ^ floor - 1) }) s.svc.fuseTo 3
  refine ⟨_, run, apart, replied, ?_, result⟩
  rw [kept.get SC_FUSES_outside, State.programFuses, (showFuses_fields _).2.2, Fuses.read]
  show blown (maj3 (s.fuses.a.floor ||| _) (s.fuses.b.floor ||| _) (s.fuses.c.floor ||| _)) % 2 ^ 7 = _
  rw [agree s.fuses.a (by simp), agree s.fuses.b (by simp), agree s.fuses.c (by simp), ones_or_ones up.le, maj3_two, blown_ones fits]
  rfl

/-! ### `fuse` (R331) -/

theorem set_busy (s : State) {x : Nat} (bit_ : x < 2) : (s.set SC_STATUS SC_STATUS.BUSY x).get SC_STATUS SC_STATUS.BUSY = x := by
  rw [State.get_set_same _ _ _ _ (by decide)]
  exact Nat.mod_eq_of_lt bit_

/-- While a fuse command runs the security block is busy. -/
theorem showSec_fuseBusy {s : State} (runs : s.svc.fuseBusy.isSome = true) : s.showSec.get SC_STATUS SC_STATUS.BUSY = 1 := by
  rw [State.showSec, runs, Bool.true_or, Bool.true_or, Bool.true_or]
  exact set_busy s (by decide)

section fuse

variable {s : State} {c : Session} (served : s.serves c inAll (.consoleFuse c ())) (whole : s.svc.fuseBuf.length = 3272)
  (idle : s.svc.fuseBusy = none)

include served whole idle

theorem fuse_refused {r : Nat} (refused : s.recordCmd.fuseRefusal s.svc.fuseBuf = some r) :
    exec (.consoleFuse c ()) s = .next (s.recordCmd.fuseEnd c (fmOp s.svc.fuseBuf) r) := by
  have run : exec (.consoleFuse c ()) s = execConsoleFuse c () s := rfl
  refine run.trans ((console_of_serves served false _).trans (congrArg Host.Outcome.next
    ((if_neg (not_not.2 whole)).trans ((if_neg (by simp [idle])).trans ?_))))
  dsimp only
  rw [refused]

theorem fuse_accepted (accepted : s.recordCmd.fuseRefusal s.svc.fuseBuf = none) :
    ∃ u, exec (.consoleFuse c ()) s = .next u ∧ Apart s u ∧ u.svc.fuseBusy = some s.svc.fuseBuf ∧ u.svc.fuseTo = c
      ∧ u.get SC_STATUS SC_STATUS.BUSY = 1 := by
  have run : exec (.consoleFuse c ()) s
      = .next (s.recordCmd.modSvc fun y => { y with fuseBusy := some s.svc.fuseBuf, fuseTo := c }).showSec := by
    have run : exec (.consoleFuse c ()) s = execConsoleFuse c () s := rfl
    refine run.trans ((console_of_serves served false _).trans (congrArg Host.Outcome.next
      ((if_neg (not_not.2 whole)).trans ((if_neg (by simp [idle])).trans ?_))))
    dsimp only
    rw [accepted]
  refine ⟨_, run, ?_, rfl, rfl, showSec_fuseBusy rfl⟩
  exact ((recordCmd_logsOnly s).svc.trans ((modSvc_only _ _).trans (set_only _ _ _ _).logs.svc)).apart

end fuse

/-! ### The identity key (R334 to R336) -/

/-- The other fields of SC_STATUS stay as BUSY is shown. -/
theorem showSec_get (s : State) {f : Fld} (fits : f.lo + f.w ≤ 64) (apart : 3 ≤ f.lo ∨ f.lo + f.w ≤ 2) :
    s.showSec.get SC_STATUS f = s.get SC_STATUS f := State.get_set_other _ _ _ _ _ _ fits apart

/-- QUEUED shows the attestations that wait. -/
theorem showAttests_queued (s : State) : s.showAttests.get SC_STATUS SC_STATUS.QUEUED = min 8 s.svc.attests.length := by
  rw [State.showAttests, showSec_get _ (by decide) (.inl (by decide)), State.get_set_same _ _ _ _ (by decide)]
  exact Nat.mod_eq_of_lt ((Nat.min_le_left _ _).trans_lt (by decide))

theorem showAttests_get (s : State) {f : Fld} (low : f.lo + f.w ≤ 2) : s.showAttests.get SC_STATUS f = s.get SC_STATUS f := by
  rw [State.showAttests, showSec_get _ (low.trans (by decide)) (.inr low)]
  exact State.get_set_other _ _ _ _ _ _ (low.trans (by decide)) (.inr (low.trans (by decide)))

theorem showAttests_only (s : State) : RegsOnly s s.showAttests := (set_only s _ _ _).trans (set_only _ _ _ _)

theorem showAttests_keepsRegs (s : State) : KeepsRegs (· = SC_STATUS) s s.showAttests :=
  (set_keepsRegs (p := (· = SC_STATUS)) rfl s _ _).trans (set_keepsRegs (p := (· = SC_STATUS)) rfl _ _ _)

/-- SC_ID_DIGEST shows a digest. -/
def State.showIdentity (s : State) (d : Nat) : State :=
  (List.range 8).foldl (fun (s : State) i => s.setReg (SC_ID_DIGEST i) (BitVec.ofNat 64 (d / 2 ^ (64 * i)))) s

theorem showIdentity_only (s : State) (d : Nat) : RegsOnly s (s.showIdentity d) :=
  foldl_rel RegsOnly.refl RegsOnly.trans (fun u _ => setReg_only u _ _) _ s

theorem showIdentity_keepsRegs (s : State) (d : Nat) : KeepsRegs (fun a => ∃ i, i < 8 ∧ a = SC_ID_DIGEST i) s (s.showIdentity d) :=
  List.foldlRecOn (motive := KeepsRegs (fun a => ∃ i, i < 8 ∧ a = SC_ID_DIGEST i) s) _ _ (.refl _ s) fun u hu i hi =>
    hu.trans (setReg_keepsRegs ⟨i, List.mem_range.1 hi, rfl⟩ u _)

/-- The refusal of every attestation that waits (R336). -/
def State.refuseAttests (s : State) (l : List (Session × BitVec 256)) : State :=
  l.foldl (fun (s : State) x => s.ends x.1 [] [] errRefused "NO_IDENTITY") s

theorem refuseAttests_speaks (s : State) (l : List (Session × BitVec 256)) : Speaks s (s.refuseAttests l) := by
  unfold State.refuseAttests
  exact foldl_rel Speaks.refl Speaks.trans (fun u x => ends_speaks u x.1 [] [] errRefused "NO_IDENTITY") l s

theorem Speaks.attests {s u : State} : Speaks s u → u.svc.attests = s.svc.attests := by rintro ⟨_, _, _, _, _, _, rfl⟩; rfl

theorem LogsOnly.svc_eq {s u : State} : LogsOnly s u → u.svc = s.svc := by rintro ⟨_, _, _, rfl⟩; rfl

/-- The state without an identity key (R336). -/
def State.noIdentity (s : State) : State :=
  (((s.set SC_STATUS SC_STATUS.ID_FAIL 1).record 0 srcModule 0 1 [s.reg SC_STATUS]).modSvc
    fun v => { v with attests := [] }).showAttests

section identity

variable {s : State} (runs : s.fwRuns = true) (open_ : s.get SC_STATUS SC_STATUS.ID_READY = 0)
  (fine : s.get SC_STATUS SC_STATUS.ID_FAIL = 0)

include runs open_ fine

theorem idKeygen_goes : ¬ ((!s.fwRuns) = true ∨ s.get SC_STATUS SC_STATUS.ID_READY = 1 ∨ s.get SC_STATUS SC_STATUS.ID_FAIL = 1) := by
  rw [runs, open_, fine]; decide

theorem idKeygen_ready : ∃ u, exec (.idKeygenDone true) s = .next u ∧ u = { s with regs := u.regs }
    ∧ KeepsRegs (fun a => a = SC_STATUS ∨ ∃ i, i < 8 ∧ a = SC_ID_DIGEST i) s u ∧ u.get SC_STATUS SC_STATUS.ID_READY = 1 := by
  have run : exec (.idKeygenDone true) s = .next ((s.set SC_STATUS SC_STATUS.ID_READY 1).showSec.showIdentity (shake s.idKey)) :=
    (if_neg (idKeygen_goes runs open_ fine)).trans (if_pos rfl)
  have out : ¬ ∃ i, i < 8 ∧ SC_STATUS = SC_ID_DIGEST i := by
    rintro ⟨i, -, e⟩; simp only [SC_STATUS, SC_ID_DIGEST] at e; omega
  have status (u : State) (f : Fld) (x : Nat) :
      KeepsRegs (fun a => a = SC_STATUS ∨ ∃ i, i < 8 ∧ a = SC_ID_DIGEST i) u (u.set SC_STATUS f x) := set_keepsRegs (.inl rfl) u f x
  refine ⟨_, run, ?_, ?_, ?_⟩
  · exact (((set_only s _ _ _).trans (set_only _ _ _ _)).trans (showIdentity_only _ _)).eq_regs
  · exact ((status s _ _).trans (status _ _ _)).trans ((showIdentity_keepsRegs _ _).mono fun _ => .inr)
  · rw [(showIdentity_keepsRegs _ _).get out, showSec_get _ (by decide) (.inr (by decide)), State.get_set_same _ _ _ _ (by decide)]
    rfl

theorem idKeygen_failed : ∃ u, exec (.idKeygenDone false) s = .next u ∧ u.svc.attests = [] ∧ Apart s u
    ∧ u.get SC_STATUS SC_STATUS.ID_FAIL = 1 ∧ u.get SC_STATUS SC_STATUS.QUEUED = 0 := by
  have run : exec (.idKeygenDone false) s = .next (s.noIdentity.refuseAttests s.svc.attests) := by
    refine (if_neg (idKeygen_goes runs open_ fine)).trans ((if_neg Bool.false_ne_true).trans ?_)
    have recorded : LogsOnly s ((s.set SC_STATUS SC_STATUS.ID_FAIL 1).record 0 srcModule 0 1 [s.reg SC_STATUS]) :=
      (set_only s _ _ _).logs.trans (record_only _ _ _ _ _ _)
    exact congrArg (fun l => Host.Outcome.next (s.noIdentity.refuseAttests l)) (congrArg Svc.attests recorded.svc_eq)
  have speaks := refuseAttests_speaks s.noIdentity s.svc.attests
  have lost : SvcOnly s s.noIdentity := ((set_only s _ _ _).logs.trans (record_only _ _ _ _ _ _)).svc.trans
    ((modSvc_only _ _).trans (showAttests_only _).logs.svc)
  have empty : s.noIdentity.svc.attests = [] := by
    obtain ⟨r, e⟩ := showAttests_only (((s.set SC_STATUS SC_STATUS.ID_FAIL 1).record 0 srcModule 0 1
      [s.reg SC_STATUS]).modSvc fun v => { v with attests := [] })
    exact congrArg (fun u : State => u.svc.attests) e
  refine ⟨_, run, speaks.attests.trans empty, apart_trans lost.apart speaks.apart, (speaks.get _ _).trans ?_, (speaks.get _ _).trans ?_⟩
  · rw [State.noIdentity, showAttests_get _ (by decide), State.modSvc_get_, (record_keepsRegs _ _ _ _ _ _).get (by decide),
      State.get_set_same _ _ _ _ (by decide)]
    rfl
  · exact (showAttests_queued _).trans rfl

end identity

/-! ### Attestation (R337) -/

theorem attest_spec {s : State} {c : Session} {nonce : BitVec 256} (served : s.serves c inAll (.attest c nonce))
    (fine : s.get SC_STATUS SC_STATUS.ID_FAIL = 0) (room : s.svc.attests.length < 8) :
    ∃ u, exec (.attest c nonce) s = .next u ∧ u = { s with regs := u.regs, svc := u.svc }
      ∧ u.svc = { s.svc with attests := s.svc.attests ++ [(c, nonce)] }
      ∧ KeepsRegs (· = SC_STATUS) s u ∧ u.get SC_STATUS SC_STATUS.QUEUED = s.svc.attests.length + 1 := by
  have run : exec (.attest c nonce) s
      = .next (s.modSvc fun v => { v with attests := v.attests ++ [(c, nonce)] }).showAttests := by
    have run : exec (.attest c nonce) s = execAttest c nonce s := rfl
    exact run.trans ((console_of_serves served false _).trans (congrArg Host.Outcome.next
      ((if_neg (by rw [fine]; decide)).trans (if_neg (by omega)))))
  obtain ⟨r, e⟩ := showAttests_only (s.modSvc fun v => { v with attests := v.attests ++ [(c, nonce)] })
  refine ⟨_, run, by rw [e]; rfl, by rw [e]; rfl, ?_, ?_⟩
  · exact KeepsRegs.trans (u := s.modSvc fun v => { v with attests := v.attests ++ [(c, nonce)] }) (fun _ _ => rfl) (showAttests_keepsRegs _)
  · rw [showAttests_queued]
    show min 8 (s.svc.attests ++ [(c, nonce)]).length = _
    rw [List.length_append]
    exact Nat.min_eq_right room

theorem attestServe_spec {s : State} {d : Session} {nonce : BitVec 256} {rest : List (Session × BitVec 256)}
    (first : s.svc.attests = (d, nonce) :: rest) (ready : s.get SC_STATUS SC_STATUS.ID_READY = 1) :
    exec .attestServe s = .next
      (((s.modSvc fun v => { v with attests := rest, reports := s.svc.reports + 1 }).showAttests.bump SC_REPORTS 1).output d
        (s.report nonce (s.svc.reports + 1) ++ padTo 1280 (Config.falconSign s.idKeys.1 (s.report nonce (s.svc.reports + 1))))) := by
  rw [show exec .attestServe s = execAttestServe s from rfl, execAttestServe, first]
  exact if_neg (by rw [ready]; decide)

theorem endorse_spec {s : State} {c : Session} (served : s.serves c inAll (.endorse c)) :
    exec (.endorse c) s = .next (s.output c s.endorsement) := by
  have run : exec (.endorse c) s = execEndorse c s := rfl
  exact run.trans (console_of_serves served false _)

/-- Settles O44: a fuse command changes the fuses in all three copies, so that their majority shows it; the registers of its end lie apart
from those that show the fuses. -/
theorem securityCommandsComplete : Obligations.SecurityCommandsComplete := by
  unfold Obligations.SecurityCommandsComplete
  intro s c
  refine ⟨fun served whole idle => ⟨fun r => fuse_refused served whole idle, fuse_accepted served whole idle⟩, ?_, ?_, ?_,
    fun runs open_ fine => ⟨idKeygen_ready runs open_ fine, idKeygen_failed runs open_ fine⟩, fun nonce => attest_spec,
    fun d nonce rest => attestServe_spec, endorse_spec⟩
  · intro l runs t free good slot
    exact enrol_spec runs rfl free good slot
  · intro l runs t other left slot unused good
    exact revoke_spec runs rfl other left slot unused good
  · intro l runs floor now up fits agree above
    exact raiseFloor_spec runs rfl rfl up fits agree above

end Sys2Proof.Machine
end

section
/-! SUPPORT. A reload that finds a worn pocket (R341, R355, R213): the fence that it starts keeps the dispatcher from being looked at again. -/

namespace Sys2Proof.Machine

/-- An entry of a section table, of every module. -/
def section0 (type off len : Nat) : List Byte :=
  toBytes 2 type ++ [0, 0, 0xFF, 0, 0, 0] ++ toBytes 8 off ++ toBytes 8 len ++ List.replicate 72 0

/-- An image of these sections, of which the table's entries and the bytes behind it count. -/
def image0 (count : Nat) (table data : List Byte) : List Byte :=
  List.replicate 20 0 ++ toBytes 2 count ++ List.replicate 106 0 ++ table ++ data

/-- A model of one tensor of one byte, for the second byte of chamber 0's pocket. -/
def pocketModel : List Byte :=
  image0 2 (section0 0x0100 320 32 ++ section0 0x0101 352 1) ([0, 0, 1, 0, 1, 0, 0, 0, 1] ++ List.replicate 23 0 ++ [7])

/-- A recipe whose passage record gives one ticket. -/
def oneTicket : List Byte := image0 1 (section0 1 224 64) (toBytes 8 0 ++ toBytes 8 (2 ^ 42) ++ List.replicate 48 0)

/-- A request whose prompt waits to be issued. -/
def promptReq : Req := { id := 7, port := 0, tag := 5, cls := 0, maxNew := 9, stop0 := 2, stop1 := 2, seed := 0, prompt := [1], kv := 0 }

/-- A serving module whose dispatcher has a step to issue; a codeword of chamber 0's pocket cannot be corrected. -/
def wornPocket : State :=
  let s := (State.reset.set LN_BOOT LN_BOOT.STAGE 9).set GL_STATUS GL_STATUS.MEMBER 1
  { s with
    disp := { reqs := [promptReq] }
    pw := { s.pw with good := true }
    mem := [(0x000800000000, 1)]
    chambers := [(0, { rowCount := [(65536, 4)] })]
    svc := { s.svc with recipe := some (0, oneTicket), model := some (0, pocketModel) } }

/-- The pocket's codeword wears it out as the tensor's neighbours are read, and the fence of its chamber starts: no ticket is issued. -/
theorem reload_fences : (wornPocket.changeAsk ⟨.uart, 6, (0 : Ch).val⟩).svc.fencing = some 0
    ∧ (wornPocket.changeAsk ⟨.uart, 6, (0 : Ch).val⟩).disp.tickets = [] := by decide +kernel

/-- The state that the statement gives instead: there the dispatcher has issued a step. -/
theorem stated_pumps : (((wornPocket.recordCmd.modSvc fun v => { v with waiting := [], change := 0, changeOf := .uart, changeReq := none
    }).reloadTensors (0 : Ch).val).ends .uart [] [] 0).showAout.pump.disp.tickets ≠ [] := by decide +kernel

/-- The reload is served, nothing else runs or waits, and the dispatcher stands between steps. -/
theorem wornPocket_serves : wornPocket.serves .uart inServing (.consoleReload .uart 0) ∧ wornPocket.svc.model.isSome = true
    ∧ wornPocket.between = true := by decide +kernel

/-- Refutes O40: a reload reads the codewords at a tensor's ends, and one of a pocket that cannot be corrected starts a fence (R213, R352).
Then a waiting change ends with the fence under way and without looking at the dispatcher again, where the statement says that a step
that waits is issued. -/
theorem not_consoleChangesComplete : ¬ Obligations.ConsoleChangesComplete := by
  unfold Obligations.ConsoleChangesComplete
  intro h
  obtain ⟨-, -, reload, -⟩ := h wornPocket .uart
  obtain ⟨serves, model, between⟩ := wornPocket_serves
  obtain ⟨-, done, -⟩ := reload 0 serves (Option.isSome_iff_ne_none.1 model)
  have eq := done ⟨rfl, rfl, rfl, rfl⟩ between
  refine stated_pumps ?_
  rw [← eq]
  exact reload_fences.2

end Sys2Proof.Machine
end

section
/-! SUPPORT. Self-tests and firmware updates by the console (R349, R350, R353). -/

namespace Sys2Proof.Machine

theorem LogsOnly.clk {s u : State} : LogsOnly s u → u.clk = s.clk := by rintro ⟨_, _, _, rfl⟩; rfl

theorem recordCmd_get (s : State) {a : Nat} (quiet : a ∉ eventAddrs) (f : Fld) : s.recordCmd.get a f = s.get a f :=
  (record_keepsRegs s _ _ _ _ _).get quiet f

/-! ### `selftest` (R350) -/

section selftest

variable {s u : State} {c : Session} {block : Nat} {n : Option Ch} {force works : Bool} {v : List (Nat × ReadFinds)}
  (served : s.serves c inLogsOn (.consoleSelftest c block n force v)) (known : block ≤ 13) (idle : s.get LN_SELFTEST LN_SELFTEST.RUNNING = 0)
  (tun : block = 8 → s.stage ≠ 9) (worksFor : (decide (block < 8) && (n.map (·.val)).any s.worksFor) = works)

include served known idle tun worksFor

theorem selftest_works (working : works = true) (gentle : force = false) :
    exec (.consoleSelftest c block n force v) s = .next (s.testRefused c errState "") := by
  have run : exec (.consoleSelftest c block n force v) s = execConsoleSelftest c block n force v s := rfl
  refine run.trans ((console_of_serves served false _).trans (congrArg Host.Outcome.next ((if_neg (by omega)).trans
    ((if_neg (by rw [idle]; decide)).trans ((if_neg fun h => tun h.1 h.2).trans (if_pos ?_))))))
  exact ⟨worksFor.trans working, by rw [gentle]; rfl⟩

variable (allowed : works = false ∨ force = true)

include allowed

theorem selftest_unverified {x : Nat × Option (Nat × Nat)} (read : readScripts s.testScripts v s = (some x, u)) :
    exec (.consoleSelftest c block n force v) s = .next (u.testRefused c errFailed (scriptText x)) := by
  have run : exec (.consoleSelftest c block n force v) s = execConsoleSelftest c block n force v s := rfl
  refine run.trans ((console_of_serves served false _).trans (congrArg Host.Outcome.next ((if_neg (by omega)).trans
    ((if_neg (by rw [idle]; decide)).trans ((if_neg fun h => tun h.1 h.2).trans ((if_neg ?_).trans ?_))))))
  · rw [worksFor]; rcases allowed with h | h <;> simp [h]
  · rw [read]

theorem selftest_starts (read : readScripts s.testScripts v s = (none, u)) :
    exec (.consoleSelftest c block n force v) s =
      let s1 := u.recordCmd.modSvc fun y => { y with
        test := some (c, block, n.map (·.val), works), testPace := u.recordCmd.get PW_STATUS PW_STATUS.PACE_NOW, testSteps := 0 }
      let s2 := s1.set LN_SELFTEST LN_SELFTEST.RUNNING 1
      .next (if works then s2.fenceAsk ((n.map (·.val)).getD 0) else s2).showAout := by
  have run : exec (.consoleSelftest c block n force v) s = execConsoleSelftest c block n force v s := rfl
  refine run.trans ((console_of_serves served false _).trans (congrArg Host.Outcome.next ((if_neg (by omega)).trans
    ((if_neg (by rw [idle]; decide)).trans ((if_neg fun h => tun h.1 h.2).trans ((if_neg ?_).trans ?_))))))
  · rw [worksFor]; rcases allowed with h | h <;> simp [h]
  · rw [read, recordCmd_get u (by decide)]
    dsimp only
    rw [worksFor]

end selftest

/-! ### The end of a self-test (R350) -/

theorem chamber_notMem_shownAddrs {n k : Nat} (chamber : n < 1024) (low : k < 0x10000) : chWin n + k ∉ shownAddrs := by
  simp only [shownAddrs, eventAddrs, List.mem_cons, List.not_mem_nil, or_false, chWin, LN_AOUT, LN_CHANGE, SY_FIFO_LEVEL, LN_LOG_SEQ,
    LN_LOG_LOST, y4xWin]
  omega

/-- The registers and logs that the results of a self-test change, before LN_SELFTEST shows them. -/
theorem testResult_spec (s : State) (l : List TestFail) : (s.testResult l).get LN_SELFTEST LN_SELFTEST.RUNNING = 0
    ∧ ∃ m, (s.testResult l).svc = { s.svc with untested := m } := by
  unfold State.testResult
  extract_lets s1 s2 s3
  have recorded : LogsOnly s s1 := foldl_rel LogsOnly.refl LogsOnly.trans (fun u f => record_only u _ _ _ _ _) l s
  have marked : LogsOnly s1 s2 := foldl_rel LogsOnly.refl LogsOnly.trans
    (fun u f => (set_only u _ _ _).logs.trans (keepLog_only _ _)) _ s1
  have shown : LogsOnly s (s3.set LN_SELFTEST LN_SELFTEST.RUNNING 0) :=
    (recorded.trans marked).trans ((set_only s2 _ _ _).trans (set_only s3 _ _ _)).logs
  have running : (s3.set LN_SELFTEST LN_SELFTEST.RUNNING 0).get LN_SELFTEST LN_SELFTEST.RUNNING = 0 :=
    (State.get_set_same _ _ _ _ (by decide)).trans rfl
  clear_value s3
  generalize s3.set LN_SELFTEST LN_SELFTEST.RUNNING 0 = u at shown running ⊢
  exact ⟨running, _, congrArg (fun v : Svc => { v with untested := (v.untested ++ failedChambers l).eraseDups }) shown.svc_eq⟩

/-- The state with a self-test's results and its code. -/
def State.testShown (s : State) (b : Nat) (units : List Nat) (fails : List TestFail) : State :=
  ((s.modSvc fun v => { v with untested := v.untested.filter fun m => !(if b < 8 then units else []).contains m, test := none }).testResult
    fails).modSvc fun v => { v with tested := some (testCode fails false) }

theorem testShown_spec (s : State) (b : Nat) (units : List Nat) (fails : List TestFail) :
    (s.testShown b units fails).svc.test = none ∧ (s.testShown b units fails).svc.tested = some (testCode fails false)
      ∧ (s.testShown b units fails).get LN_SELFTEST LN_SELFTEST.RUNNING = 0 := by
  obtain ⟨running, m, svc⟩ := testResult_spec (s.modSvc fun v => { v with
    untested := v.untested.filter fun m => !(if b < 8 then units else []).contains m, test := none }) fails
  unfold State.testShown
  generalize (State.testResult _ fails) = u at *
  exact ⟨congrArg Svc.test svc, rfl, running⟩

/-- A chamber that passed its forced test becomes a spare. -/
def State.madeSpare (s : State) (n : Nat) : State := (s.set (CH_ROLE n) CH_ROLE.ROLE 5).set (CH_STATUS n) CH_STATUS.FENCED 0

theorem madeSpare_only (s : State) (n : Nat) : RegsOnly s (s.madeSpare n) := (set_only s _ _ _).trans (set_only _ _ _ _)

theorem madeSpare_running (s : State) (n : Nat) :
    (s.madeSpare n).get LN_SELFTEST LN_SELFTEST.RUNNING = s.get LN_SELFTEST LN_SELFTEST.RUNNING := by
  rw [State.madeSpare, State.get_set_ne _ _ _ _ (by simp only [LN_SELFTEST, CH_STATUS, chWin, y4xWin]; omega),
    State.get_set_ne _ _ _ _ (by simp only [LN_SELFTEST, CH_ROLE, chWin, y4xWin]; omega)]

theorem madeSpare_shown (s : State) (n : Nat) : (s.madeSpare n).get (CH_ROLE n) CH_ROLE.ROLE = 5
    ∧ (s.madeSpare n).get (CH_STATUS n) CH_STATUS.FENCED = 0 := by
  rw [State.madeSpare, State.get_set_ne _ _ _ _ (by simp only [CH_ROLE, CH_STATUS]; omega), State.get_set_same _ _ _ _ (by decide),
    State.get_set_same _ _ _ _ (by decide)]
  exact ⟨rfl, rfl⟩

/-- The number of fenced chambers is shown, and what changes there. -/
def State.fencedShown (s : State) : State := (s.set LN_SELFTEST LN_SELFTEST.FENCED s.fencedNow).showAout

theorem fencedShown_only (s : State) : RegsOnly s s.fencedShown := (set_only s _ _ _).trans (showAout_only _)

theorem fencedShown_running (s : State) :
    s.fencedShown.get LN_SELFTEST LN_SELFTEST.RUNNING = s.get LN_SELFTEST LN_SELFTEST.RUNNING := by
  rw [State.fencedShown, (showAout_keepsRegs _).get (by decide), State.get_set_other _ _ _ _ _ _ (by decide) (.inr (by decide))]

theorem fencedShown_chamber (s : State) {n k : Nat} (chamber : n < 1024) (low : k < 0x10000) (f : Fld) :
    s.fencedShown.get (chWin n + k) f = s.get (chWin n + k) f := by
  rw [State.fencedShown, (showAout_keepsRegs _).get (chamber_notMem_shownAddrs chamber low),
    State.get_set_ne _ _ _ _ (by simp only [LN_SELFTEST, chWin, y4xWin]; omega)]

theorem testEnd_eq (s : State) (b : Nat) (units : List Nat) (forced : Bool) (fails : List TestFail) :
    s.testEnd b units forced fails = (if forced ∧ fails.isEmpty then (s.testShown b units fails).madeSpare (units.headD 0)
      else s.testShown b units fails).fencedShown := rfl

theorem testEnd_spec (s : State) (b : Nat) (units : List Nat) (forced : Bool) (fails : List TestFail) :
    (s.testEnd b units forced fails).svc.test = none ∧ (s.testEnd b units forced fails).svc.tested = some (testCode fails false)
      ∧ (s.testEnd b units forced fails).get LN_SELFTEST LN_SELFTEST.RUNNING = 0 := by
  obtain ⟨test, tested, running⟩ := testShown_spec s b units fails
  rw [testEnd_eq]
  generalize s.testShown b units fails = u at *
  rw [fencedShown_running]
  split
  · obtain ⟨r, e⟩ := (madeSpare_only u (units.headD 0)).trans (fencedShown_only _)
    rw [e, madeSpare_running]
    exact ⟨test, tested, running⟩
  · obtain ⟨r, e⟩ := fencedShown_only u
    rw [e]
    exact ⟨test, tested, running⟩

theorem testEnd_spare (s : State) (b : Nat) {units : List Nat} (chamber : units.headD 0 < 1024) :
    (s.testEnd b units true []).get (CH_ROLE (units.headD 0)) CH_ROLE.ROLE = 5
      ∧ (s.testEnd b units true []).get (CH_STATUS (units.headD 0)) CH_STATUS.FENCED = 0 := by
  have eq : s.testEnd b units true [] = ((s.testShown b units []).madeSpare (units.headD 0)).fencedShown := rfl
  rw [eq, CH_ROLE, CH_STATUS, fencedShown_chamber _ chamber (by decide), fencedShown_chamber _ chamber (by decide)]
  exact madeSpare_shown _ _

theorem selftestDone_spec {s : State} {c : Session} {b : Nat} {n : Option Nat} {forced : Bool} (fails : List TestFail)
    (test : s.svc.test = some (c, b, n, forced))
    (fenced : forced = true → s.get (CH_STATUS (n.getD 0)) CH_STATUS.FENCED ≠ 0 ∧ s.svc.fencing ≠ n) (back : s.paceBack = true) :
    exec (.selftestDone fails) s =
      let units := s.testUnits b n
      let found := fails.filter (s.testTakes b units) ++ (if b = 13 then s.rateFails ++ s.railFails else [])
      .next ((s.testEnd b units forced found).ends c [] (testLines b units found) 0) := by
  rw [show exec (.selftestDone fails) s = execSelftestDone fails s from rfl, execSelftestDone, test]
  refine (if_neg ?_).trans (if_neg (by rw [back]; exact Bool.false_ne_true))
  rintro ⟨yes, none_ | still⟩
  · exact (fenced yes).1 none_
  · exact (fenced yes).2 still

/-! ### Firmware updates (R353) -/

section fwupdate

variable {s u : State} {c : Session} {b : Bool} {v : ReadFinds} (served : s.serves c inAll (.consoleFwupdate c b v))
  (stored : (s.obj 1 (bit b)).isSome = true)

include served stored

theorem fwupdate_verified {l : List Byte} (read : s.fetchImage 1 (bit b) 0 v = (.ok l, u)) :
    exec (.consoleFwupdate c b v) s
      = .next (u.recordCmd.modSvc fun y => { y with fwTo := some (c, bit b, l, u.recordCmd.clk) }).showAout := by
  have run : exec (.consoleFwupdate c b v) s = execConsoleFwupdate c b v s := rfl
  refine run.trans ((console_of_serves served false _).trans (congrArg Host.Outcome.next ((if_neg ?_).trans ?_)))
  · rw [Option.isNone_iff_eq_none, ← Option.not_isSome_iff_eq_none]; exact not_not.2 stored
  · rw [read, (recordCmd_logsOnly u).clk]

theorem fwupdate_refused {x : Option (Nat × Nat × Nat)} (read : s.fetchImage 1 (bit b) 0 v = (.error x, u)) :
    exec (.consoleFwupdate c b v) s = .next (u.ends c [] [] errFailed (verifyText x)) := by
  have run : exec (.consoleFwupdate c b v) s = execConsoleFwupdate c b v s := rfl
  refine run.trans ((console_of_serves served false _).trans (congrArg Host.Outcome.next ((if_neg ?_).trans ?_)))
  · rw [Option.isNone_iff_eq_none, ← Option.not_isSome_iff_eq_none]; exact not_not.2 stored
  · rw [read]

end fwupdate

section handover

variable {s : State} {c : Session} {k t : Nat} {l : List Byte} (handing : s.svc.fwTo = some (c, k, l, t))

include handing

theorem handover_done (early : s.clk - t ≤ ms 20) : exec .fwupdateHandoverDone s =
    .next (((s.modSvc fun v => { v with fwTo := none, firmware := l }).set LN_BOOT LN_BOOT.FW_SLOT k).showAout.ends c [] [] 0) := by
  rw [show exec .fwupdateHandoverDone s = execFwupdateHandoverDone s from rfl, execFwupdateHandoverDone, handing]
  exact if_neg (Nat.not_lt.2 early)

theorem handover_late (late : ms 20 < s.clk - t) : exec .fwupdateTimeout s
    = .next ((s.modSvc fun v => { v with fwTo := none }).showAout.ends c [] [] errFailed "TIMEOUT") := by
  rw [show exec .fwupdateTimeout s = execFwupdateTimeout s from rfl, execFwupdateTimeout, handing]
  exact if_neg (Nat.not_le.2 late)

end handover

/-- Settles O42: each guard of the commands is passed in turn; the end of a self-test shows its results last, and the registers of a chamber
lie apart from LN_SELFTEST. -/
theorem testAndFirmwareComplete : Obligations.TestAndFirmwareComplete := by
  unfold Obligations.TestAndFirmwareComplete
  intro s c
  refine ⟨?_, ?_, ?_, ?_⟩
  · intro block n force v served known idle tun works
    exact ⟨fun u allowed read => selftest_starts served known idle tun rfl allowed read,
      fun x u allowed read => selftest_unverified served known idle tun rfl allowed read,
      selftest_works served known idle tun rfl⟩
  · intro c b n forced fails test fenced back units found u
    obtain ⟨ended, code, running⟩ := testEnd_spec s b units forced found
    refine ⟨selftestDone_spec fails test fenced back, ended, code, running, ?_⟩
    intro yes clean chamber
    rw [yes, clean]
    exact testEnd_spare s b chamber
  · intro b v served stored
    exact ⟨fun l u => fwupdate_verified served stored, fun x u => fwupdate_refused served stored⟩
  · intro c k l t handing
    exact ⟨handover_done handing, handover_late handing⟩

end Sys2Proof.Machine
end

section
/-! SUPPORT. The console's commands that read, AOUT, and the UART's characters (R339, R342 to R347). -/

namespace Sys2Proof.Machine

/-! ### Commands that read (R342) -/

section reads

variable {s : State} {c : Session}

theorem status_spec (served : s.serves c inAll (.consoleStatus c)) :
    exec (.consoleStatus c) s = .next (s.ends c [s.reg LN_BOOT, BitVec.ofNat 64 (s.get CK_STATUS CK_STATUS.HEALTH),
      BitVec.ofNat 64 s.fencedNow, s.reg LN_WEDGED, s.reg GL_STATUS] [] 0) := by
  have run : exec (.consoleStatus c) s = execConsoleStatus c s := rfl
  exact run.trans (console_of_serves served true _)

theorem read_spec {addr n : Nat} (served : s.serves c inAll (.consoleRead c addr n)) (some_ : 0 < n) (few : n ≤ 64)
    (exist : ∀ i, i < n → (regRow (addr + 8 * i)).isSome = true) :
    exec (.consoleRead c addr n) s = .next ((readMany n s addr).2.ends c (readMany n s addr).1 [] 0) := by
  have run : exec (.consoleRead c addr n) s = execConsoleRead c addr n s := rfl
  have found : ((List.range n).any fun i => (regRow (addr + 8 * i)).isNone) = false :=
    List.any_eq_false.2 fun i hi => by
      rw [Option.isNone_iff_eq_none, ← Option.not_isSome_iff_eq_none]; exact not_not.2 (exist i (List.mem_range.1 hi))
  refine run.trans ((console_of_serves served true _).trans (congrArg Host.Outcome.next (if_neg ?_)))
  rw [found]
  rintro (none_ | many | missing)
  · omega
  · omega
  · exact Bool.false_ne_true missing

theorem dir_spec (served : s.serves c inAll (.consoleDir c)) :
    exec (.consoleDir c) s = .next (s.ends c (s.cask.objs.flatMap fun (e : Nat × CObj) =>
      [BitVec.ofNat 64 (e.1 / 16 + e.1 % 16 * 2 ^ 4 + bit e.2.active * 2 ^ 8 + bit e.2.damaged * 2 ^ 9
        + e.2.bytes.length % 2 ^ 40 * 2 ^ 10), BitVec.ofNat 64 (e.2.start + cdiv e.2.bytes.length mapUnit * 2 ^ 32),
       BitVec.ofNat 64 (imgGen e.2.bytes)]) [] 0) := by
  have run : exec (.consoleDir c) s = execConsoleDir c s := rfl
  exact run.trans (console_of_serves served false _)

theorem log_spec {n : Nat} (served : s.serves c inAll (.consoleLog c n)) (some_ : 0 < n) (few : n ≤ 256) :
    exec (.consoleLog c n) s = .next (s.output c ((s.logs.recent.take n).flatMap recBytes)) := by
  have run : exec (.consoleLog c n) s = execConsoleLog c n s := rfl
  exact run.trans ((console_of_serves served false _).trans (congrArg Host.Outcome.next (if_neg (by omega))))

theorem challenge_spec (served : s.serves c inAll (.consoleChallenge c)) :
    exec (.consoleChallenge c) s = .next (s.ends c [] (((List.range 4).map (fun i => s.reg (SC_CHALLENGE i))
      ++ (List.range 8).map fun i => s.reg (SC_ID_DIGEST i)).flatMap groupLine) 0) := by
  have run : exec (.consoleChallenge c) s = execConsoleChallenge c s := rfl
  exact run.trans (console_of_serves served false _)

end reads

/-! ### AOUT (R345 to R347) -/

/-- MODE, QUANTITY and SELECT stay as AOUT's code and level are shown. -/
theorem showAout_get_low (s : State) {f : Fld} (low : f.lo + f.w ≤ 8) : s.showAout.get LN_AOUT f = s.get LN_AOUT f := by
  have kept : s.showChange.get LN_AOUT f = s.get LN_AOUT f := by
    unfold State.showChange
    extract_lets x u
    rw [State.get_set_ne _ _ _ _ (by decide), State.get_set_ne _ _ _ _ (by decide), State.get_set_ne _ _ _ _ (by decide)]
  unfold State.showAout
  extract_lets u x
  rw [State.get_set_other _ _ _ _ _ _ (low.trans (by decide)) (.inr (low.trans (by decide))),
    State.get_set_other _ _ _ _ _ _ (low.trans (by decide)) (.inr low)]
  exact kept

/-- What a change of AOUT leaves: the registers that show it and its level apart. -/
def AoutOnly (s u : State) : Prop := ∃ r l m d, u = { s with
  regs := r, logs := l, svc := { s.svc with aoutMv := m }, cask := { s.cask with due := d } }

theorem AoutOnly.trans {s u v : State} : AoutOnly s u → AoutOnly u v → AoutOnly s v := by
  rintro ⟨_, _, _, _, rfl⟩ ⟨r, l, m, d, rfl⟩; exact ⟨r, l, m, d, rfl⟩

theorem LogsOnly.aout {s u : State} : LogsOnly s u → AoutOnly s u := by
  rintro ⟨r, l, d, rfl⟩; exact ⟨r, l, s.svc.aoutMv, d, rfl⟩

theorem AoutOnly.apart {s u : State} : AoutOnly s u → Apart s u := by
  rintro ⟨_, _, _, _, rfl⟩; exact ⟨rfl, rfl, rfl, rfl, rfl⟩

theorem AoutOnly.replies {s u : State} : AoutOnly s u → u.svc.replies = s.svc.replies := by
  rintro ⟨_, _, _, _, rfl⟩; rfl

theorem driveQuantity_only (s : State) : AoutOnly s s.driveQuantity := by
  unfold State.driveQuantity
  extract_lets mv
  exact AoutOnly.trans ⟨s.regs, s.logs, min 2500 mv, s.cask.due, rfl⟩ (showAout_only _).logs.aout

theorem driveQuantity_mv (s : State) : s.driveQuantity.svc.aoutMv
    = min 2500 (s.quantityMv (s.get LN_AOUT LN_AOUT.QUANTITY) (s.get LN_AOUT LN_AOUT.SELECT)) := by
  unfold State.driveQuantity
  extract_lets mv
  exact congrArg Svc.aoutMv (showAout_only (s.modSvc fun v => { v with aoutMv := min 2500 mv })).logs.svc_eq

theorem driveQuantity_get_low (s : State) {f : Fld} (low : f.lo + f.w ≤ 8) : s.driveQuantity.get LN_AOUT f = s.get LN_AOUT f := by
  rw [State.driveQuantity, showAout_get_low _ low, State.modSvc_get_]

/-- The end of `aout`. -/
theorem aoutEnds_spec {s u : State} (only : AoutOnly s u) (c : Session) :
    Apart s (u.showAout.ends c [] [] 0) ∧ Replied c [] [] 0 s (u.showAout.ends c [] [] 0)
      ∧ ∀ f : Fld, f.lo + f.w ≤ 8 → (u.showAout.ends c [] [] 0).get LN_AOUT f = u.get LN_AOUT f := by
  have shown := only.trans (showAout_only u).logs.aout
  have speaks := ends_speaks u.showAout c [] [] 0 ""
  obtain ⟨more, said, errors⟩ := ends_replied u.showAout c [] [] 0 ""
  exact ⟨apart_trans shown.apart speaks.apart, ⟨more, by rw [said, shown.replies], errors⟩,
    fun f low => (speaks.get _ _).trans (showAout_get_low u low)⟩

/-- The state in which MODE is that of the command. -/
def State.aoutMode (s : State) (m : Nat) : State := s.recordCmd.set LN_AOUT LN_AOUT.MODE m

theorem aoutMode_only (s : State) (m : Nat) : AoutOnly s (s.aoutMode m) := ((recordCmd_logsOnly s).trans (set_only _ _ _ _).logs).aout

theorem aoutMode_mode (s : State) {m : Nat} (small : m < 4) : (s.aoutMode m).get LN_AOUT LN_AOUT.MODE = m :=
  (State.get_set_same _ _ _ _ (by decide)).trans (Nat.mod_eq_of_lt small)

/-- The numbers of AOUT's modes (R345). -/
def aoutModeNo (mode : AoutMode) : Nat :=
  match mode with
  | .status => 0
  | .test => 1
  | .quantity => 2
  | .off => 3

theorem selsOf_lt {q sel : Nat} (named : sel < selsOf q) : sel < 8 := by
  unfold selsOf at named
  split at named <;> omega

/-- The state in which the level of a quantity is driven. -/
def State.aoutQuantity (s : State) (q sel : Nat) : State :=
  (((s.aoutMode 2).set LN_AOUT LN_AOUT.QUANTITY q).set LN_AOUT LN_AOUT.SELECT sel).driveQuantity

theorem aoutQuantity_only (s : State) (q sel : Nat) : AoutOnly s (s.aoutQuantity q sel) :=
  ((aoutMode_only s 2).trans ((set_only _ _ _ _).trans (set_only _ _ _ _)).logs.aout).trans (driveQuantity_only _)

theorem aoutQuantity_shown (s : State) (q : Nat) {sel : Nat} (small : sel < 8) :
    (s.aoutQuantity q sel).get LN_AOUT LN_AOUT.MODE = 2 ∧ (s.aoutQuantity q sel).get LN_AOUT LN_AOUT.SELECT = sel := by
  rw [State.aoutQuantity, driveQuantity_get_low _ (by decide), driveQuantity_get_low _ (by decide),
    State.get_set_other _ _ _ _ _ _ (by decide) (.inr (by decide)), State.get_set_other _ _ _ _ _ _ (by decide) (.inr (by decide)),
    aoutMode_mode s (by decide), State.get_set_same _ _ _ _ (by decide)]
  exact ⟨rfl, Nat.mod_eq_of_lt small⟩

section aout

variable {s : State} {c : Session} {q sel : Nat}

theorem aout_quantity (served : s.serves c inAll (.consoleAout c .quantity q sel)) (named : sel < selsOf q) :
    ∃ u, exec (.consoleAout c .quantity q sel) s = .next u ∧ Apart s u ∧ Replied c [] [] 0 s u
      ∧ u.get LN_AOUT LN_AOUT.MODE = 2 ∧ u.get LN_AOUT LN_AOUT.SELECT = sel := by
  have run : exec (.consoleAout c .quantity q sel) s = .next ((s.aoutQuantity q sel).showAout.ends c [] [] 0) := by
    have run : exec (.consoleAout c .quantity q sel) s = execConsoleAout c .quantity q sel s := rfl
    exact run.trans ((console_of_serves served false _).trans (congrArg Host.Outcome.next (if_neg (by simpa using named))))
  obtain ⟨apart, replied, shown⟩ := aoutEnds_spec (aoutQuantity_only s q sel) c
  obtain ⟨mode, select⟩ := aoutQuantity_shown s q (selsOf_lt named)
  exact ⟨_, run, apart, replied, (shown _ (by decide)).trans mode, (shown _ (by decide)).trans select⟩

theorem aout_plain {mode : AoutMode} (plain : mode ≠ .quantity) (served : s.serves c inAll (.consoleAout c mode q sel)) :
    ∃ u, exec (.consoleAout c mode q sel) s = .next u ∧ Apart s u ∧ Replied c [] [] 0 s u
      ∧ u.get LN_AOUT LN_AOUT.MODE = aoutModeNo mode := by
  have run : exec (.consoleAout c mode q sel) s = .next ((s.aoutMode (aoutModeNo mode)).showAout.ends c [] [] 0) := by
    have run : exec (.consoleAout c mode q sel) s = execConsoleAout c mode q sel s := rfl
    refine run.trans ((console_of_serves served false _).trans (congrArg Host.Outcome.next ((if_neg fun h => plain h.1).trans ?_)))
    cases mode with
    | quantity => exact absurd rfl plain
    | status | test | off => rfl
  obtain ⟨apart, replied, shown⟩ := aoutEnds_spec (aoutMode_only s (aoutModeNo mode)) c
  have small : aoutModeNo mode < 4 := by cases mode <;> decide
  exact ⟨_, run, apart, replied, (shown _ (by decide)).trans (aoutMode_mode s small)⟩

end aout

theorem aoutFullScaleEnd_spec {s : State} (good : s.pw.good = true) (due : s.pw.goodAt + ms 100 ≤ s.clk) :
    exec .aoutFullScaleEnd s = .next s.showAout := by
  have run : exec .aoutFullScaleEnd s = execAoutFullScaleEnd s := rfl
  exact run.trans (if_pos ⟨good, due⟩)

theorem aoutQuantityRefresh_spec {s : State} (good : s.pw.good = true) (mode : s.get LN_AOUT LN_AOUT.MODE = 2) :
    ∃ u, exec .aoutQuantityRefresh s = .next u ∧ Apart s u
      ∧ u.svc.aoutMv = min 2500 (s.quantityMv (s.get LN_AOUT LN_AOUT.QUANTITY) (s.get LN_AOUT LN_AOUT.SELECT)) := by
  have run : exec .aoutQuantityRefresh s = execAoutQuantityRefresh s := rfl
  exact ⟨_, run.trans (if_pos ⟨good, mode⟩), (driveQuantity_only s).apart, driveQuantity_mv s⟩

/-! ### The UART's characters (R339) -/

/-- The UART echoes a character. -/
def State.echoed (s : State) (x : Byte) : State := s.modSvc fun v => { v with echo := v.echo ++ [x] }

section uart

variable {s : State} {x : Byte} (first : ∀ y ∈ s.svc.lines, y.1 ≠ .uart)

include first

theorem uart_typed (inside : x ≠ 13 ∧ x ≠ 10) (room : s.svc.uartBuf.length < 1024) : exec (.uartCharacter x) s
    = .next { s with svc := { s.svc with echo := s.svc.echo ++ [x], uartBuf := s.svc.uartBuf ++ [x] } } := by
  have char := lineChar_typed (s := s.echoed x) (typed := s.svc.uartBuf) (bad := s.svc.uartBad) first inside room
  rw [show exec (.uartCharacter x) s = execUartCharacter x s from rfl, execUartCharacter, ← State.echoed]
  dsimp only
  rw [show (s.echoed x).svc.uartBuf = s.svc.uartBuf from rfl, show (s.echoed x).svc.uartBad = s.svc.uartBad from rfl, char]
  rfl

theorem uart_ends {i : Instr} (ending : x = 13 ∨ x = 10) (some_ : s.svc.uartBuf ≠ []) (short : s.svc.uartBuf.length ≤ 255)
    (sound : s.svc.uartBad = false) (spells : lineCmd .uart s.svc.uartBuf = .ok i) : exec (.uartCharacter x) s
      = .next { s with svc := { s.svc with
          echo := s.svc.echo ++ [x], uartBuf := [], lines := s.svc.lines ++ [(.uart, s.svc.uartBuf)] } } := by
  have char : (s.echoed x).lineChar .uart s.svc.uartBuf s.svc.uartBad x
      = ((s.echoed x).queueLine .uart s.svc.uartBuf, [], s.svc.uartBad) := by
    rw [sound]; exact lineChar_ends (s := s.echoed x) first ending some_ short spells
  rw [show exec (.uartCharacter x) s = execUartCharacter x s from rfl, execUartCharacter, ← State.echoed]
  dsimp only
  rw [show (s.echoed x).svc.uartBuf = s.svc.uartBuf from rfl, show (s.echoed x).svc.uartBad = s.svc.uartBad from rfl, char]
  rfl

end uart

/-- Settles O38: the commands pass their guards; AOUT's code and level are shown beside MODE, QUANTITY and SELECT; a character is taken as
the rule of a session's line says. -/
theorem consoleReadsComplete : Obligations.ConsoleReadsComplete := by
  unfold Obligations.ConsoleReadsComplete
  intro s c
  refine ⟨⟨status_spec, fun addr n => read_spec, dir_spec, fun n => log_spec, challenge_spec, fun mode q sel served named => ?_⟩,
    aoutFullScaleEnd_spec, aoutQuantityRefresh_spec, fun x cr lf room first => ⟨_, uart_typed first ⟨cr, lf⟩ room, rfl⟩,
    fun x ending some_ short sound ⟨i, spells⟩ first => ⟨_, uart_ends first ending some_ short sound spells, rfl⟩⟩
  cases mode with
  | quantity =>
    obtain ⟨u, run, apart, replied, shown, select⟩ := aout_quantity served (named rfl)
    exact ⟨u, run, apart, replied, shown, fun _ => select⟩
  | status | test | off =>
    obtain ⟨u, run, apart, replied, shown⟩ := aout_plain (by decide) served
    exact ⟨u, run, apart, replied, shown, fun h => by cases h⟩

end Sys2Proof.Machine
end

section
/-! SUPPORT. Transfers of objects by hex commands and mailbox items, and the commands over stored objects (R313, R342, R344). -/

namespace Sys2Proof.Machine

/-! ### What a transfer's progress leaves -/

theorem Speaks.xfer {s u : State} : Speaks s u → u.svc.xfer = s.svc.xfer ∧ u.svc.endDue = s.svc.endDue := by
  rintro ⟨_, _, _, _, _, _, rfl⟩; exact ⟨rfl, rfl⟩

theorem mboxSend_only (s : State) (op x : Nat) :
    ∃ r l w, s.mboxSend op x = { s with regs := r, logs := l, svc := { s.svc with mboxWait := w } } := by
  unfold State.mboxSend
  extract_lets w
  split
  · obtain ⟨r, e⟩ := showFifo_only (s.modLogs fun l => { l with fifoOut := fifoPush 256 l.fifoOut ⟨w, s.now, none, false⟩ })
    rw [e]
    exact ⟨r, _, s.svc.mboxWait, rfl⟩
  · exact ⟨s.regs, s.logs, _, rfl⟩

/-- The state in which a transfer has taken bytes, before PROGRESS is sent. -/
def State.xferGot (s : State) (x : Xfer) : State := s.modSvc fun v => { v with xfer := some x }

/-- PROGRESS is sent as each further MiB has come (R344). -/
def State.progressSent (s : State) (before now : Nat) : State :=
  if now / 0x100000 ≠ before / 0x100000 then s.mboxSend 0x12 now else s

theorem progressSent_spec (s : State) (before now : Nat) : Apart s (s.progressSent before now)
    ∧ (s.progressSent before now).svc.replies = s.svc.replies ∧ (s.progressSent before now).svc.xfer = s.svc.xfer := by
  unfold State.progressSent
  split
  · obtain ⟨r, l, w, e⟩ := mboxSend_only s 0x12 now
    rw [e]
    exact ⟨⟨rfl, rfl, rfl, rfl, rfl⟩, rfl, rfl⟩
  · exact ⟨⟨rfl, rfl, rfl, rfl, rfl⟩, rfl, rfl⟩

/-- Bytes that do not complete a transfer. -/
theorem xferTake_of_part (s : State) {x : Xfer} {l : List Byte} (byHex : Bool) (owed : x.got.length + l.length < x.total) :
    s.xferTake x l byHex = (s.xferGot { x with got := x.got ++ l, full := false, byHex := false }).progressSent x.got.length
      (x.got ++ l).length := by
  have part : ¬ (x.got ++ l).length = x.total := by rw [List.length_append]; omega
  have open_ : decide ((x.got ++ l).length = x.total) = false := decide_eq_false part
  unfold State.xferTake
  extract_lets got full u v
  have same : v = u := if_neg part
  have taken : u = s.xferGot { x with got := x.got ++ l, full := false, byHex := false } := by
    simp only [u, full, got, open_, Bool.and_false, State.xferGot]
  rw [same, taken, State.progressSent]

/-! ### Transfers by commands (R342) -/

section commands

variable {s : State} {c : Session}

theorem recv_spec {kind : ObjKind} {slot bytes : Nat} (served : s.serves c inAll (.consoleRecv c kind slot bytes))
    (small : slot < kindSlots kind) (some_ : 0 < bytes) (fits : bytes ≤ kindMax kind) (fuse : kind = .fuseBuf → bytes = 3272)
    (writable : kind ≠ .fuseBuf → s.caskReadOnly = false) (idle : s.svc.xfer = none) :
    ∃ u, exec (.consoleRecv c kind slot bytes) s = .next u ∧ Apart s u ∧ Replied c [] [] 0 s u ∧ u.svc.endDue = false
      ∧ u.svc.xfer = some { by_ := c, kind := kind, slot := slot, total := bytes, got := [] } := by
  have run : exec (.consoleRecv c kind slot bytes) s = execConsoleRecv c kind slot bytes s := rfl
  have size : ¬ (bytes = 0 ∨ (kind = .fuseBuf ∧ bytes ≠ 3272)) := by
    rintro (none_ | ⟨buf, other⟩)
    · omega
    · exact other (fuse buf)
  have next := run.trans ((console_of_serves served _ _).trans (congrArg Host.Outcome.next ((if_neg (Nat.not_le.2 small)).trans
    ((if_neg size).trans ((if_neg (by simp [idle])).trans ((if_neg (Nat.not_lt.2 fits)).trans
      (if_neg fun h => absurd h.2 (by simp [writable h.1]))))))))
  have changed := (recordCmd_logsOnly s).svc.trans (modSvc_only s.recordCmd fun v => { v with
    xfer := some { by_ := c, kind := kind, slot := slot, total := bytes, got := [] }, endDue := false })
  have speaks := ends_speaks (s.recordCmd.modSvc fun v => { v with
    xfer := some { by_ := c, kind := kind, slot := slot, total := bytes, got := [] }, endDue := false }) c [] [] 0 ""
  obtain ⟨more, said, errors⟩ := ends_replied (s.recordCmd.modSvc fun v => { v with
    xfer := some { by_ := c, kind := kind, slot := slot, total := bytes, got := [] }, endDue := false }) c [] [] 0 ""
  refine ⟨_, next, apart_trans changed.apart speaks.apart, ⟨more, said.trans ?_, errors⟩, speaks.xfer.2, speaks.xfer.1⟩
  rw [State.modSvc_svc, (recordCmd_logsOnly s).svc_eq]

section hex

variable {digits l : List Byte} {x : Xfer} (served : s.serves c inAll (.consoleHex c digits)) (open_ : s.svc.xfer = some x)
  (owed : x.full = false) (spells : hexBytes digits = some l) (some_ : l ≠ []) (few : l.length ≤ 64)
  (fits : x.got.length + l.length ≤ x.total)

include served open_ owed spells some_ few fits

theorem hex_takes : exec (.consoleHex c digits) s = .next
    (if x.got.length + l.length = x.total then s.xferTake { x with by_ := c } l true
      else (s.xferTake { x with by_ := c } l true).ends c [] [] 0) := by
  have run : exec (.consoleHex c digits) s = execConsoleHex c digits s := rfl
  refine run.trans ((console_of_serves served _ _).trans (congrArg Host.Outcome.next ?_))
  rw [open_, spells]
  refine (if_neg (by rw [owed]; exact Bool.false_ne_true)).trans (if_neg ?_)
  rintro (none_ | many | more)
  · exact some_ (by simpa using none_)
  · omega
  · omega

theorem hex_completes (whole : x.got.length + l.length = x.total) :
    exec (.consoleHex c digits) s = .next (s.xferTake { x with by_ := c } l true) :=
  (hex_takes served open_ owed spells some_ few fits).trans (congrArg _ (if_pos whole))

theorem hex_goes_on (part : x.got.length + l.length < x.total) :
    ∃ u, exec (.consoleHex c digits) s = .next u ∧ Apart s u ∧ Replied c [] [] 0 s u
      ∧ u.svc.xfer = some { x with by_ := c, got := x.got ++ l, byHex := false } := by
  have run := (hex_takes served open_ owed spells some_ few fits).trans (congrArg _ (if_neg part.ne))
  rw [xferTake_of_part s true (x := { x with by_ := c }) part] at run
  obtain ⟨apart, replies, xfer⟩ := progressSent_spec (s.xferGot { x with by_ := c, got := x.got ++ l, full := false, byHex := false })
    x.got.length (x.got ++ l).length
  refine ⟨_, run, ?_⟩
  clear run
  generalize State.progressSent _ _ _ = u at *
  obtain ⟨more, said, errors⟩ := ends_replied u c [] [] 0 ""
  have speaks := ends_speaks u c [] [] 0 ""
  refine ⟨apart_trans apart speaks.apart, ⟨more, by rw [said, replies]; rfl, errors⟩, speaks.xfer.1.trans (xfer.trans ?_)⟩
  rw [← owed]
  rfl

end hex

theorem recvAbort_spec {x : Xfer} (served : s.serves c inAll (.consoleRecvAbort c)) (open_ : s.svc.xfer = some x) :
    exec (.consoleRecvAbort c) s = .next ((s.recordCmd.endXfer x 6).ends c [] [] 0) := by
  have run : exec (.consoleRecvAbort c) s = execConsoleRecvAbort c s := rfl
  refine run.trans ((console_of_serves served _ _).trans (congrArg Host.Outcome.next ?_))
  rw [open_]

theorem remove_spec {kind : ObjKind} {slot : Nat} {o : CObj} (served : s.serves c inAll (.consoleRemove c kind slot))
    (small : slot < kindSlots kind) (stored : s.obj (kindNo kind) slot = some o) (still : s.objRuns (kindNo kind) slot o = false)
    (writable : s.caskReadOnly = false) :
    exec (.consoleRemove c kind slot) s = .next ((s.recordCmd.removeObj (kindNo kind) slot).ends c [] [] 0) := by
  have run : exec (.consoleRemove c kind slot) s = execConsoleRemove c kind slot s := rfl
  refine run.trans ((console_of_serves served _ _).trans (congrArg Host.Outcome.next ?_))
  dsimp only
  rw [if_pos small, stored]
  exact (if_neg (by rw [still]; exact Bool.false_ne_true)).trans (if_neg (by rw [writable]; exact Bool.false_ne_true))

theorem activate_spec {slot : Nat} (served : s.serves c inAll (.consoleActivate c slot)) (small : slot < 8)
    (stored : (s.obj 2 slot).isSome = true) (writable : s.caskReadOnly = false) :
    exec (.consoleActivate c slot) s = .next (((s.recordCmd.markActive slot).showCask).ends c [] [] 0) := by
  have run : exec (.consoleActivate c slot) s = execConsoleActivate c slot s := rfl
  obtain ⟨o, found⟩ := Option.isSome_iff_exists.1 stored
  refine run.trans ((console_of_serves served _ _).trans (congrArg Host.Outcome.next ?_))
  rw [if_pos small, found]
  exact if_neg (by rw [writable]; exact Bool.false_ne_true)

end commands

/-! ### Transfers by mailbox items (R344) -/

section mailbox

variable {s u : State} {w : Nat} {x : Xfer} (runs : s.fwRuns = true)

include runs

theorem fw_waits_not : ¬ (!s.fwRuns) = true := by rw [runs]; exact Bool.false_ne_true

section data

variable (item : s.takeMbox (fun w => mboxGap w || (mboxOp w ≠ 3 && mboxOp w ≠ 4)) = some (w, u)) (open_ : u.svc.xfer = some x)

include item open_

theorem mailboxData_gap (gap : mboxGap w = true) : exec .mailboxData s = .next (u.endXfer x 1) := by
  have run : exec .mailboxData s = execMailboxData s := rfl
  refine run.trans ((if_neg (fw_waits_not runs)).trans ?_)
  rw [item]
  dsimp only
  rw [open_]
  exact if_pos gap

/-- Bytes of an item that are taken. -/
theorem mailboxData_takes {k : Nat} (count : min 7 (x.total - x.got.length) = k) (whole : mboxGap w = false) (data : mboxOp w = 2)
    (zero : k < 7 → bits w 55 (8 * k) = 0) (some_ : k ≠ 0) : exec .mailboxData s = .next
      (if k = x.total - x.got.length then (u.xferTake x (toBytes k w) false).modSvc fun v => { v with endDue := true }
        else u.xferTake x (toBytes k w) false) := by
  subst count
  have run : exec .mailboxData s = execMailboxData s := rfl
  refine run.trans ((if_neg (fw_waits_not runs)).trans ?_)
  rw [item]
  dsimp only
  rw [open_]
  exact (if_neg (by rw [whole]; exact Bool.false_ne_true)).trans ((if_neg (not_not.2 data)).trans
    ((if_neg fun h => h.1 (zero h.2)).trans (if_neg some_)))

end data

theorem mailboxEnd_due (item : s.takeMbox (fun w => !mboxGap w && mboxOp w = 3) = some (w, u)) (due : u.svc.endDue = true) :
    exec .mailboxEnd s = .next (u.modSvc fun v => { v with endDue := false }) := by
  have run : exec .mailboxEnd s = execMailboxEnd s := rfl
  refine run.trans ((if_neg (fw_waits_not runs)).trans ?_)
  rw [item]
  exact if_pos due

theorem mailboxEnd_early (item : s.takeMbox (fun w => !mboxGap w && mboxOp w = 3) = some (w, u)) (early : u.svc.endDue = false)
    (open_ : u.svc.xfer = some x) (owed : x.full = false) : exec .mailboxEnd s = .next (u.endXfer x 2) := by
  have run : exec .mailboxEnd s = execMailboxEnd s := rfl
  refine run.trans ((if_neg (fw_waits_not runs)).trans ?_)
  rw [item]
  refine (if_neg (by rw [early]; exact Bool.false_ne_true)).trans ?_
  rw [open_]
  exact if_neg (by rw [owed]; exact Bool.false_ne_true)

theorem mailboxAbort_spec (item : s.takeMbox (fun w => !mboxGap w && mboxOp w = 4) = some (w, u)) (open_ : u.svc.xfer = some x) :
    exec .mailboxAbort s = .next (u.endXfer x 6) := by
  have run : exec .mailboxAbort s = execMailboxAbort s := rfl
  refine run.trans ((if_neg (fw_waits_not runs)).trans ?_)
  rw [item]
  dsimp only
  rw [open_]

end mailbox

/-- Settles O39: each command and each mailbox item passes its guards in turn; PROGRESS changes neither the transfer nor what the sessions
have been told. -/
theorem consoleObjectsComplete : Obligations.ConsoleObjectsComplete := by
  unfold Obligations.ConsoleObjectsComplete
  intro s c
  refine ⟨fun kind slot bytes => recv_spec, fun digits x l served open_ owed spells some_ few fits => ?_, fun x => recvAbort_spec,
    fun x w u runs item open_ => ?_, fun w u runs item => ?_, fun w u x runs => mailboxAbort_spec runs,
    fun kind slot o => remove_spec, fun slot => activate_spec⟩
  · exact ⟨hex_goes_on served open_ owed spells some_ few fits, hex_completes served open_ owed spells some_ few fits⟩
  · intro k
    refine ⟨mailboxData_gap runs item open_, fun whole data zero bytes more => ?_, fun whole data zero bytes last => ?_⟩
    · exact (mailboxData_takes runs item open_ rfl whole data zero bytes).trans (congrArg _ (if_neg more.ne))
    · exact (mailboxData_takes runs item open_ rfl whole data zero bytes).trans (congrArg _ (if_pos last))
  · exact ⟨mailboxEnd_due runs item, fun x => mailboxEnd_early runs item⟩

end Sys2Proof.Machine
end
